-- ==== Sys2Proof/Word.lean ====
section
/-!
DEFINITION. The word types of the part: a register word (R11), a byte of memory and the 64-bit TIME.
-/
namespace Sys2Proof

/-- A register word: registers are 32 bits wide (R11). -/
abbrev Word := BitVec 32

/-- The smallest addressable unit of BAR2, of host memory and of the NVS. -/
abbrev Byte := BitVec 8

/-- The value of the fabric-cycle counter TIME (R63). -/
abbrev Time := BitVec 64

end Sys2Proof
end

