-- ==== Sys2Proof/Syntax.lean ====
section
/-!
DEFINITION. The commands of the block: one constructor per row of spec/opcode_table.json, with the operands that the
row's rule gives it. A command is a bus access, an operation of a pin or a link, or an event inside the part that the
spec names; each row's rule stands at its constructor.
-/
namespace Sys2Proof

/-- Who accesses a register (R90): host software, or Hoop firmware. -/
inductive Requester where
  | host | hoop
  deriving DecidableEq, Repr

/-- A complex sample of the arithmetic, in units of the format at hand. -/
structure Cplx where
  re : Int := 0
  im : Int := 0
  deriving DecidableEq, Repr

/-- A firmware slot of the boot flash as the ROM loader finds it (R491, R492): slot 0 or 1, version, security version, whether
its key hash matches, the signed bytes with their signature, and the body. -/
structure FwSlot where
  slot : Nat
  version : Nat
  svn : Nat
  keyOk : Bool
  signed : List Byte
  body : List Byte
  deriving DecidableEq, Repr

/-- What an access to a register is (R78): a write, with its upper half where it is one of 64 bits, or a read of 1, 2, 4 or 8
bytes. -/
inductive BusAcc where
  | write (hi : Option Word)
  | read (size : Nat)
  deriving DecidableEq, Repr

/-- Bits received on a lane of a port, the first in bit 0 (R330). -/
structure LaneBits where
  lane : Nat
  bits : Nat
  deriving DecidableEq, Repr

/-- Why lanes of a port lose lock (R331): header errors, by which of the last 64 blocks had an invalid header, one bit each; the root
PLL; or a lost signal. -/
inductive LolCause where
  | headers (bad : Nat)
  | rootPll
  | signal
  deriving DecidableEq, Repr

/-- MAIN_CAP and MAIN_OK of a TRAIN block (R320, R326). -/
structure MainBits where
  cap : Bool
  ok : Bool
  deriving DecidableEq, Repr

/-- The state code and the training counter of a TRAIN block (R320). -/
structure TrainAt where
  state : Nat
  ctr : Nat
  deriving DecidableEq, Repr

/-- The sender of a FRAME marker (R320): its TIME_VALID and its port. -/
structure Sender where
  tvalid : Bool
  port : Nat
  deriving DecidableEq, Repr

/-- The 64 scrambled bits of a payload and the 58 before them, each with the earliest in bit 0 (R310). -/
structure Scrambled where
  hist : Nat
  line : Nat
  deriving DecidableEq, Repr

/-- A block that is discarded: its port, its lane and its header (R311, R330). -/
structure BadBlk where
  port : Nat
  lane : Nat
  hdr : Nat
  deriving DecidableEq, Repr

/-- The ADC codes of an fc of a read-out tile, by tile bit: eight, with the one before them in front and the one after them behind. -/
structure AdcFc where
  tile : Nat
  codes : List Int
  deriving DecidableEq, Repr

/-- A command of the block. Tiles are named by tile bit (page index − 0x10), other units by their number on their page;
fields of a register keep the register's own numbers. -/
inductive Instr where
  /-- REF_OK_QUALIFY (R48): REFCLK has stayed within ±2 % of 100 MHz for 10 µs, so the monitor sets REF_OK and, if relock is automatic, PLL acquisition starts. -/
  | refOkQualify
  /-- REFCLK_FAULT (R48): REFCLK stops or leaves its range, so REF_OK clears and a locked PLL declares loss of lock. -/
  | refclkFault
  /-- PLL_LOCK (R47): The phase detector has stayed in its lock window for 1,024 REFCLK cycles, so the PLL declares lock and MCLK and HCLK return to the root. -/
  | pllLock
  /-- LOSS_OF_LOCK (R53): The PLL loses lock and enters holdover; every Tambour stops, queues flush, outputs ramp to zero and tiles enter HALTED_CLK. -/
  | lossOfLock
  /-- HOLDOVER_RAMP_DONE (R53): The 32 fc output ramp of holdover completes, so root clocks stop, MCLK and HCLK move to backup and TIME_VALID clears. -/
  | holdoverRampDone
  /-- PLL_RELOCK (R55): A write of RELOCK starts PLL acquisition if REF_OK is 1. -/
  | pllRelock (who : Requester)
  /-- SYNC_EDGE (R58): A sampled edge of the selected epoch source is counted, consumes ARM if armed and locked, and otherwise is checked for alignment. Operands: `src` the source the edge comes from, coded as SYNC_CTL.SRC; `first`: the first sample after REF_OK set, which only establishes the level. -/
  | syncEdge (src : Nat) (first : Bool)
  /-- SOFT_SYNC (R58): A write of SOFT with SRC soft makes the next REFCLK rising edge a sampled edge. -/
  | softSync (who : Requester)
  /-- SYNC_ARM (R60): A write of ARM arms the next sampled edge to set an epoch and sets EPOCH_PEND, or is ignored with CFG_BUSY while a Tambour runs. -/
  | syncArm (who : Requester)
  /-- EPOCH (R59): At E + 80 fc every divider starts a new period, TIME is loaded from EPOCH_HI and EPOCH_LO, and TIME_VALID sets. -/
  | epoch
  /-- TIME_LO_READ (R64): A read of TIME_LO returns TIME[31:0] and captures TIME[63:32] into TIME_HI for that reader. Operands: `wide`: a 64-bit read that returns both halves. -/
  | timeLoRead (who : Requester) (wide : Bool)
  /-- REG_WRITE (R86): A register write without its own row applies to each field by its change class, ownership and lock. Operands: `off` the BAR0 offset, `data` and `be` the data and byte enables of a write, which a read has no use for, and the access; the table has no row for the read of a register without side effects, so a read rides on this one (DESIGN CHOICE, log entry 76). -/
  | regWrite (who : Requester) (off : Nat) (data : Word) (be : Nat) (acc : BusAcc)
  /-- MSIX_UNMASK (R93): Unmasking a vector sends its pending message if the cause is still set. Operands: `v` the vector. -/
  | msixUnmask (v : Nat)
  /-- SOFT_RESET (R82): A write of SRST starts a 16 mc soft reset of the block, stopping a running tile as ABORT does. Operands: `p` the page. -/
  | softReset (who : Requester) (p : Nat)
  /-- SOFT_RESET_END (R82): The 16 mc of a soft reset pass and the page leaves RST_BUSY with its registers at reset values. Operands: `p` the page. -/
  | softResetEnd (p : Nat)
  /-- FREEZE_SET (R83): A write that sets FREEZE holds block state, and on a running tile stops issue and ramps outputs to zero. Operands: `p` the page. -/
  | freezeSet (who : Requester) (p : Nat)
  /-- FREEZE_CLEAR (R83): Clearing FREEZE resumes a device-level block or puts a frozen tile into STOPPED. Operands: `p` the page. -/
  | freezeClear (who : Requester) (p : Nat)
  /-- BLOCK_DISABLE (R83): A write of 0 to CTRL.EN ramps a running tile's outputs to zero and stops the block. Operands: `p` the page. -/
  | blockDisable (who : Requester) (p : Nat)
  /-- IRQ_FORCE (R85): A write to IRQ_FORCE sets the named IRQ_STAT bits as their causes would, without a record. Operands: `p` the page, `mask` the word written. -/
  | irqForce (who : Requester) (p : Nat) (mask : Word)
  /-- ERR_POP (R95): A write to ERR_HEAD removes the oldest error record if the FIFO is not empty. Operands: `p` the page. -/
  | errPop (who : Requester) (p : Nat)
  /-- OWNER_WRITE (R91): A write to OWNER claims or releases the page, or is refused as an ownership violation. Operands: `p` the page, `v` the code written. -/
  | ownerWrite (who : Requester) (p v : Nat)
  /-- LOCK_SET (R89): A write of LK_CFG or LK_ALL makes the protected fields read-only until the next start. Operands: `p` the page, `cfg` and `all` the bits LK_CFG and LK_ALL written. -/
  | lockSet (who : Requester) (p : Nat) (cfg all : Bool)
  /-- TMB_GO (R151): A write of GO is checked against the start conditions and either arms the tile or is refused. Operands: `b` the tile bit. -/
  | tmbGo (who : Requester) (b : Nat)
  /-- TMB_RUN_START (R152): At TMB_START − 16 the first word is released and the tile enters RUN. -/
  | tmbRunStart (b : Nat)
  /-- TMB_STOP (R153): A write of STOP requests a stop at the tile's next shot boundary. -/
  | tmbStop (who : Requester) (b : Nat)
  /-- TMB_ABORT (R153): A write of ABORT stops the tile in the fc it arrives, flushing the queue and ramping outputs. -/
  | tmbAbort (who : Requester) (b : Nat)
  /-- TILE_STOPPING (R153): A tile reaches its stopping fc, flushes its queue, abandons acquisitions and starts the 32 fc output ramp. -/
  | tileStopping (b : Nat)
  /-- STOP_RAMP_DONE (R84): The 32 fc stop ramp completes, the tile enters STOPPED, HALTED_MC, HALTED_CLK or FROZEN and RUN clears. -/
  | stopRampDone (b : Nat)
  /-- WORD_ISSUE (R141): The Tambour issues a microword into its timed event queue, evaluating non-waiting conditions and stopping at waits. -/
  | wordIssue (b : Nat)
  /-- WORD_RELEASE (R139): At T − 16 a queued word leaves the queue and its actions enter the tile's datapaths. -/
  | wordRelease (b : Nat)
  /-- SHOT_BOUNDARY (R66): A word with BND = 15 reaches its T, so B-class shadows, calibration values and Pauli resets commit and the shot number increments. -/
  | shotBoundary (b : Nat)
  /-- DECLARED_GAP (R126): A word with BND 1 to 14 begins a declared gap of its class length, offered to live calibration. -/
  | declaredGap (b : Nat)
  /-- PULSE_START (R174): A slot pulse starts at the word's T, latching AMP, PHS, CONJ, frame and Pauli bits for the channel. Operands: `second`: SLOT B. -/
  | pulseStart (b : Nat) (second : Bool)
  /-- FRAME_ADD (R113): A FRAME ADD adds a frame-value entry to the selected frame phase at T. -/
  | frameAdd (b : Nat)
  /-- FRAME_SET (R113): A FRAME SET replaces the selected frame phase with a frame-value entry at T. -/
  | frameSet (b : Nat)
  /-- FRAME_CADD (R113): A FRAME CADD adds a frame-value entry at the successor's T if the word's condition is true. -/
  | frameCadd (b : Nat)
  /-- LOOP_LOAD (R121): A LOOP LOAD sets the named counter to LVAL. -/
  | loopLoad (b : Nat)
  /-- LOOP_DEC (R121): A LOOP DEC decrements the named counter, stopping at 0. -/
  | loopDec (b : Nat)
  /-- LOOP_RELOAD (R121): A LOOP RELOAD loads LVAL into a counter at 0 and otherwise decrements it. -/
  | loopReload (b : Nat)
  /-- BRANCH (R116): The word's FLOW condition is evaluated and its successor is TGT or the next word. -/
  | branch (b : Nat)
  /-- STOP_WORD (R120): A STOP word performs its actions and the tile stops at T + ADV with no successor. -/
  | stopWord (b : Nat)
  /-- TULLE_ARM (R122): An ARM discards the decision held for the key and moves its arm point. -/
  | tulleArm (b : Nat)
  /-- FAPPLY (R122): An FAPPLY waits on its key and XORs the delivered value into the Bobbin's X and Z at the successor's T. -/
  | fapply (b : Nat)
  /-- FRESET (R122): An FRESET clears X and Z at the next shot boundary. -/
  | freset (b : Nat)
  /-- FLIPX (R122): A FLIPX inverts the Bobbin's X bit at T. -/
  | flipx (b : Nat)
  /-- FLIPZ (R122): A FLIPZ inverts the Bobbin's Z bit at T. -/
  | flipz (b : Nat)
  /-- TULLE_WAIT (R119): A WAIT word waits on its key until a decision or the default resolves it. -/
  | tulleWait (b : Nat)
  /-- PICOT_MARK (R125): A MARK bit raises Tambour flag m for 1 fc at T as an event-matrix source. -/
  | picotMark (b : Nat)
  /-- KEY_DEADLINE (R145): No usable decision has arrived by the key's deadline D, so the wait resolves with the default and the successor issues at D + 4. -/
  | keyDeadline (b : Nat)
  /-- UNDR_LOST_EVAL (R147): A word with COND UNDR or LOST is evaluated at T_S − 20 and its successor issues at T_S − 16. -/
  | undrLostEval (b : Nat)
  /-- STRM_FILL_WRITE (R156): A write to STRM_FILL is accepted only if it moves forward within the ring's capacity. Operands: slot `k`. -/
  | strmFillWrite (who : Requester) (b k v : Nat)
  /-- STRM_CFG_WRITE (R155): A write of STRM_CFG sets both STRM_FILL and STRM_CONS to 0. Operands: slot `k`. -/
  | strmCfgWrite (who : Requester) (b k : Nat) (w : Word)
  /-- STREAM_UNIT_FETCH (R157): A stream unit is judged in its fetch fc and plays from the ring or as zeros, advancing CONS. -/
  | streamUnitFetch (b : Nat)
  /-- ACQ (R210): A word with ACQ = 1 schedules one window per enabled tone of its group, forming a measurement set. -/
  | acq (b : Nat)
  /-- WINDOW_OPEN (R212): A scheduled window reaches its O and opens, or is dropped if the tone's previous window is still open. Operands: `t` the tone. -/
  | windowOpen (b t : Nat)
  /-- WINDOW_CLOSE (R216): A window closes at C and forms its integrated pair, delivered to unmixing at C + 16. Operands: `codes` the codes that the ADC has taken from 68 fc before the window's O (fc 0 at the earliest) on, eight in an fc, oldest first (R198). -/
  | windowClose (b t : Nat) (codes : List Int)
  /-- UNMIX (R222): At U_t + 16 the tone's row of the unmix matrix is applied to the pairs of its row set. -/
  | unmix (b t : Nat)
  /-- DISCRIMINATION (R227): At U_t + 21 the tone is classified, its decision published and its result record written. -/
  | discrimination (b t : Nat)
  /-- RES_RP_WRITE (R240): A write to RES_RP is accepted only within the records held. -/
  | resRpWrite (who : Requester) (b v : Nat)
  /-- ACC_CNT_READ (R242): A read of ACC_CNT returns and clears the count and captures and clears the tone's sums. -/
  | accCntRead (who : Requester) (b : Nat)
  /-- HIST_READ (R243): A read of a histogram bin returns and clears it. Operands: bin `n`. -/
  | histRead (who : Requester) (b n : Nat)
  /-- STAT_CLR_ALL (R241): A write of CLR_ALL clears the statistics of every tone. -/
  | statClrAll (who : Requester) (b : Nat)
  /-- CHAN_COEF_RECOMPUTE (R206): Hoop firmware finishes recomputing channelizer coefficients after a BIN change and sets CHAN_STAT.READY. Operands: `bs` the coefficient bytes that Hoop firmware computed. -/
  | chanCoefRecompute (b : Nat) (bs : List Byte)
  /-- UNMIX_CFG_WRITE (R224): A landed write of UNMIX_CFG starts a load of the matrix from MBASE into the inactive buffer. -/
  | unmixCfgWrite (who : Requester) (b : Nat) (w : Word)
  /-- UNMIX_LOAD_COMPLETE (R224): A matrix load completes, to take effect at the next shot boundary, or fails on a poisoned line. -/
  | unmixLoadComplete (b : Nat)
  /-- OUT_CFG_WRITE (R253): A landed write of OUT_CFG starts a load of the named coefficient bank into the inactive buffer. Operands: `k` the output. -/
  | outCfgWrite (who : Requester) (b k : Nat) (w : Word)
  /-- CORR_LOAD_COMPLETE (R253): A flux coefficient load completes, to take effect at the next shot boundary, or fails on a poisoned line. -/
  | corrLoadComplete (b k : Nat)
  /-- OUT_SHORT (R257): A flux output has limited its current for 256 consecutive fc and latches off. -/
  | outShort (b k : Nat)
  /-- DECISION_DELIVERY (R267): A decision is delivered to every key, Darner input and export port of its slot, resolving or being held or discarded at each. -/
  | decisionDelivery (slot : Nat)
  /-- ROUTE_WITHDRAW (R263): Hoop firmware writes a route withdrawal, making the slot lost in that fc. -/
  | routeWithdraw (slot : Nat)
  /-- ROUND_TIMEOUT (R294): A round not complete by O + ROUND_TO − 1 closes incomplete with reason TIMEOUT. Operands: `p` the patch. -/
  | roundTimeout (p : Nat)
  /-- DARNER_PUBLISH (R300): At c + 12 a matched round publishes frame updates on every output and an escalated round writes its record. -/
  | darnerPublish (p : Nat)
  /-- PATCH_CLR (R306): A write of PATCH_CTL.CLR discards the patch's open round and clears its reference and round count. -/
  | patchClr (who : Requester) (p : Nat)
  /-- ESC_POP (R304): A write of POP removes the oldest escalation record. -/
  | escPop (who : Requester)
  /-- PORT_TRAIN (R325): A write of TRAIN, or CTRL.EN becoming 1, puts the port into SEARCH. Operands: `n` the port; `en`: the write takes CTRL.EN from 0 to 1, else it is a write of TRAIN. -/
  | portTrain (who : Requester) (n : Nat) (en : Bool)
  /-- LANE_BLOCK_LOCK (R330): A lane sees 64 consecutive valid headers at one position and declares block lock. Operands: `lane` the lane and the bits it has received. -/
  | laneBlockLock (n : Nat) (lane : LaneBits)
  /-- JODEX_LOSS_OF_LOCK (R331): A lane of an ACTIVE port loses block lock, so the port leaves ACTIVE and its imported slots become lost. Operands: `lanes` one bit each, and the cause. -/
  | jodexLossOfLock (n lanes : Nat) (cause : LolCause)
  /-- TRAIN_BLOCK_RX (R328): A TRAIN block is received and advances the port's training state. Operands: `blk` the lane the block names, `inv` it arrived inverted, `main` its MAIN_CAP and MAIN_OK, `fb` its FB_CAP, `at_` its state code and training counter, `ppm` the recovered clock lies within ±20 ppm. -/
  | trainBlockRx (n lane blk : Nat) (inv : Bool) (main : MainBits) (fb : Bool) (at_ : TrainAt) (ppm : Bool)
  /-- MODE_TIMEOUT (R326): MAIN_OK stays 0 for 10 µs after lane lock, so the link enters fall-back mode or fails. -/
  | modeTimeout (n : Nat)
  /-- FRAME_MARKER_RX (R332): A FRAME marker is received and its SEQ checked, advancing deskew or restoring an idled link. Operands: `fb` the mode bit, `peer` the sender, `arr` the arrival stamp in 1/16 fc, `skew` lane 1 behind lane 0 in unit intervals, `hdrs` the 16 headers before were valid. -/
  | frameMarkerRx (n lane : Nat) (fb : Bool) (peer : Sender) (seq credit arr : Nat) (skew : Int) (hdrs : Bool)
  /-- DECISION_BLOCK_RX (R319): A decision block leaves the deserializer, its CRC is checked and each entry's egress fc is recovered from its tag. Operands: `hdr` the header, and the payload as it was received. -/
  | decisionBlockRx (n lane hdr : Nat) (pay : Scrambled)
  /-- DECISION_RELEASE (R271): At e + 29 + FH a received word is released to its ingress check and slot mapping. -/
  | decisionRelease (n : Nat)
  /-- UNKNOWN_BLOCK_RX (R311): A control block of unknown type is discarded and counted. Operands: the block; one with an invalid header is counted under R330 instead. -/
  | unknownBlockRx (blk : BadBlk)
  /-- PORT_ACTIVATE (R327): A write of ACTIVATE in MEASURE moves the port to ACTIVE. -/
  | portActivate (who : Requester) (n : Nat)
  /-- TRAIN_TIMEOUT (R329): A port not ACTIVE within its training limit enters FAILED. Operands: `measure`: the 100 µs of MEASURE, else the 1 ms since SEARCH. -/
  | trainTimeout (n : Nat) (measure : Bool)
  /-- TRAIN_BACKOFF (R329): The back-off interval of a failed port with AUTO = 1 expires and it re-enters SEARCH. -/
  | trainBackoff (n : Nat)
  /-- LOOP_STAMP_RX (R321): A LOOP STAMP arrives, its apparent delay is computed and returned in a REPORT. Operands: `dep` the departure stamp, `arr` the arrival stamp. -/
  | loopStampRx (n id dep arr : Nat)
  /-- LOOP_REPORT_RX (R321): A LOOP REPORT arrives with the peer's measured apparent delay. -/
  | loopReportRx (n val : Nat)
  /-- LOOP_STAMP_SEND (R341): Every 1,024 frames an ACTIVE main-mode port sends a LOOP stamp. Operands: `id` the ID it carries, which no rule chooses. -/
  | loopStampSend (n id : Nat)
  /-- TIME_BLOCK_RX (R353): A TIME block arrives carrying the sender's TIME for the epoch estimate. -/
  | timeBlockRx (n val : Nat)
  /-- MGMT_FRAGMENT_RX (R322): A MGMT fragment is received and appended to its channel's message. -/
  | mgmtFragmentRx (n : Nat) (som eom : Bool) (chan : Nat) (bytes : List Byte)
  /-- FILLER_RX (R334): A FILLER period is received and deleted or passed by the fall-back elastic buffer. Operands: `drift` how many block periods more have entered the buffer than left it since the last one. -/
  | fillerRx (n : Nat) (drift : Int)
  /-- IDLE_ENTER_REQ (R337): A write of IDLE_ENTER on an ACTIVE main-mode port sends IDLE_ENTER and idles the transmitter. -/
  | idleEnterReq (who : Requester) (n : Nat)
  /-- IDLE_ENTER_RX (R337): A received IDLE_ENTER sets PEER_IDLE at the frame end and makes imported slots lost. -/
  | idleEnterRx (n : Nat)
  /-- IDLE_EXIT (R338): A write of IDLE_EXIT in E_IDLE sends a 31-block training burst and resumes framing. -/
  | idleExit (who : Requester) (n : Nat)
  /-- MARGIN_LOW (R339): A lane's eye margin falls below its threshold and is recorded. Operands: `m` the margin in 1/64 unit interval. -/
  | marginLow (n lane m : Nat)
  /-- HELLO_SEND (R349): Every 10 ms Hoop firmware sends HELLO on every ACTIVE port. -/
  | helloSend
  /-- HELLO_RX (R348): A HELLO from a neighbour is received. Operands: `n` the port whose oldest HELLO Hoop firmware takes. -/
  | helloRx (n : Nat)
  /-- LSA_FLOOD (R349): A port change or the 100 ms interval makes Hoop firmware flood a new LSA. -/
  | lsaFlood
  /-- LSA_RX (R349): An LSA is received, forwarded if newer and entered in the topology table. -/
  | lsaRx (n : Nat)
  /-- TOPO_AGE_OUT (R350): No LSA has arrived from a UID for 350 ms and its entry is removed. -/
  | topoAgeOut (uid : Nat)
  /-- NUM_ASSIGN (R344): 10 ms after the first port reaches ACTIVE, an AUTO device takes the lowest free NUM. -/
  | numAssign
  /-- RQ_RESERVE (R357): A route request with OP RESERVE builds a tree and sends RESERVE to each device. Operands: NDET_OK and AUTO_SLOT of RQ_CTL. -/
  | rqReserve (who : Requester) (ndetOk auto : Bool)
  /-- RQ_RELEASE (R359): A route request with OP RELEASE withdraws the route on every device. -/
  | rqRelease (who : Requester)
  /-- RESERVE_RX (R358): A RESERVE is received and the slot held tentatively with RES_ACK, or refused with RES_NAK. -/
  | reserveRx (n : Nat)
  /-- RES_ACK_RX (R359): A RES_ACK arrives, and once all have arrived the publisher sends COMMIT. -/
  | resAckRx (n : Nat)
  /-- RES_NAK_RX (R359): A RES_NAK ends the request with RELEASE to every device asked. -/
  | resNakRx (n : Nat)
  /-- COMMIT_RX (R359): A COMMIT makes the device write its slot entry, taking effect at its shot boundary. -/
  | commitRx (n : Nat)
  /-- RELEASE_RX (R359): A RELEASE frees the tentatively held or reserved slot. -/
  | releaseRx (n : Nat)
  /-- WITHDRAW_RX (R362): A WITHDRAW from a relay makes the device withdraw the route. -/
  | withdrawRx (n : Nat)
  /-- RESERVE_TIMEOUT (R359): No reply arrives within 10 ms, so the request ends with RELEASE and a timeout. Operands: `key` 0 or 1 the request of a requester, 2 + slot the repair of a route. -/
  | reserveTimeout (key : Nat)
  /-- TENTATIVE_EXPIRE (R358): A tentatively held slot is released after 50 ms without COMMIT. Operands: `route` the ROUTE_ID. -/
  | tentativeExpire (route : Nat)
  /-- SKEW_REPORT_RX (R407): A SKEW_REPORT is received and may change the least lead and propose a new TRIM. -/
  | skewReportRx (n : Nat)
  /-- CST_LEAVE (R361): A write of CST.CTRL.EN = 0 makes the device leave and withdraw its routes. -/
  | cstLeave (who : Requester)
  /-- PCIE_RESET (R368): DL_Down, hot reset, FLR or PERST_N stops every DMA channel, resets the PCI page and clears the master-image table. Operands: `cause` 1 DL_Down, 2 hot reset, 3 FLR, 4 PERST_N. -/
  | pcieReset (cause : Nat)
  /-- POISON_RX (R367): A poisoned write TLP is discarded and recorded. -/
  | poisonRx (bar off : Nat)
  /-- BAR2_READ (R367): A BAR2 read returns memory contents, waiting on recovering lines and aborting at a poisoned line. Operands: `n` bytes from BAR2 offset `a`. -/
  | bar2Read (a n : Nat)
  /-- BAR2_WRITE (R102): A BAR2 write stores a line, merges a partial line or is discarded where host writes may not reach. Operands: `bs` written from BAR2 offset `a`. -/
  | bar2Write (a : Nat) (bs : List Byte)
  /-- CH_ENABLE (R370): A write of CH_CTL.EN = 1 takes a DMA channel out of IDLE after checking its binding. Operands: `c` the channel. -/
  | chEnable (who : Requester) (c : Nat)
  /-- CH_DISABLE (R370): A write of EN = 0 aborts the channel's work and drains its requests. -/
  | chDisable (who : Requester) (c : Nat)
  /-- CH_DRAIN_DONE (R370): A disabled channel's outstanding requests have drained and it returns to IDLE. -/
  | chDrainDone (c : Nat)
  /-- CH_RESET (R373): A write of RESET returns a channel in ERROR to IDLE. -/
  | chReset (who : Requester) (c : Nat)
  /-- CH_TAIL_WRITE (R371): A write of TAIL gives a COPY channel new descriptors to process. -/
  | chTailWrite (who : Requester) (c v : Nat)
  /-- DESCRIPTOR (R372): A COPY channel reads a descriptor, checks it and starts its transfer or fails it. Operands: `bs` the 32 bytes read from the ring; none: the read failed. -/
  | descriptor (c : Nat) (bs : Option (List Byte))
  /-- DMA_TRANSFER_DONE (R372): A descriptor's transfer completes and its completion entry is written. Operands: `data` what a host-to-device transfer read, `ok`: every host read succeeded. -/
  | dmaTransferDone (c : Nat) (data : List Byte) (ok : Bool)
  /-- CH_HPOS_WRITE (R377): A write of CH_HPOS gives a STREAM channel new units or frees an upload ring. -/
  | chHposWrite (who : Requester) (c v : Nat)
  /-- HOST_READ_COMPLETION (R377): Host read data arrive and are written to the stream ring, advancing STRM_FILL. Operands: `data` what the oldest read returned, `ok`: it succeeded. -/
  | hostReadCompletion (c : Nat) (data : List Byte) (ok : Bool)
  /-- UPLOAD_BURST (R379): A RESULT or ESCAL channel moves a burst of records to the host ring and advances the source pointer. -/
  | uploadBurst (c : Nat)
  /-- CH_IRQ_HOLDOFF (R381): HOLD µs pass with unreported progress and the channel sends its vector. -/
  | chIrqHoldoff (c : Nat)
  /-- MIT_LOAD (R375): A write of MIT_CTL.LOAD requests a master-image table load, or is ignored while busy. Operands: `count` the COUNT of the same write. -/
  | mitLoad (who : Requester) (count : Nat)
  /-- MBX_DOORBELL (R382): A write to MBX_DB passes a command to Hoop firmware, or is discarded while busy. -/
  | mbxDoorbell (who : Requester) (seq : Nat)
  /-- SMB_HEALTH_READ (R384): SMBus command 0x00 returns HEALTH and clears SMB_ALERT_N. -/
  | smbHealthRead
  /-- SMB_TEMP_READ (R384): SMBus command 0x01 returns the maximum diode temperature. -/
  | smbTempRead
  /-- SMB_POWER_READ (R384): SMBus command 0x02 returns board-input power. -/
  | smbPowerRead
  /-- SMB_ENERGY_READ (R384): SMBus command 0x03 returns the energy counter. -/
  | smbEnergyRead
  /-- SMB_UID_READ (R384): SMBus command 0x04 returns the UID. -/
  | smbUidRead
  /-- SMB_STATUS_READ (R384): SMBus command 0x05 returns link, READY, alarm and shutdown status. -/
  | smbStatusRead
  /-- SMB_ALERT_CLEAR (R384): SMBus command 0x10 with 0xA5 clears SMB_ALERT_N. -/
  | smbAlertClear (v : Nat)
  /-- CAL_REQ (R393): A write of a tile bit to CAL_REQ sets a calibration run pending on that tile. Operands: `mask` the tile bits written as 1. -/
  | calReq (who : Requester) (mask : Nat)
  /-- CAL_STEP_DONE (R396): A 64 fc calibration step ends, and a run whose steps have all succeeded is checked and accepted. Operands: `meas` what the step found for each DAC; none: its input was not at zero throughout. -/
  | calStepDone (b : Nat) (meas : List (Option Int))
  /-- CAL_STALE (R397): A pending run's stale timer reaches its limit, so the run is deferred and values re-evaluated. -/
  | calStale (b : Nat)
  /-- ADC_BLOCK_DONE (R398): An ADC estimation block of 2^22 samples completes and new interleave values are estimated. Operands: `sums` for each sub-converter the sums of its 2^22 samples, of their squares and of their products with the next sample. -/
  | adcBlockDone (b : Nat) (sums : List (Int × Nat × Int))
  /-- DISC_PROPOSAL (R401): After 2^NP tracked results a tone hands a geometry proposal to Hoop firmware. -/
  | discProposal (b t : Nat)
  /-- SKEW_ESTIMATE (R406): Hoop firmware completes a skew estimate from 256 apparent delays and floods a SKEW_REPORT. -/
  | skewEstimate
  /-- CAL_STORE_REQ (R409): A write of CAL_CTL.STORE starts an NVS calibration store at once. -/
  | calStoreReq (who : Requester)
  /-- CAL_STORE_DONE (R409): A calibration store finishes writing its copy, or fails. Operands: `err` the NVS error of a store that failed. -/
  | calStoreDone (ok : Bool) (err : Nat)
  /-- TP_WRITE (R389): A write to CAL.TP[i] empties slot i of every tile. -/
  | tpWrite (who : Requester) (k v : Nat)
  /-- BIAS_CODE_WRITE (R415): A write of BIAS_CODE sets an output's input code and PEND. Operands: `n` the output. -/
  | biasCodeWrite (who : Requester) (n code : Nat)
  /-- LDAC_EDGE (R414): A falling edge on LDAC_N[g] strobes group g, loading pending input codes. -/
  | ldacEdge (g : Nat)
  /-- BIAS_STROBE (R414): A write of BIA_STROBE bit g strobes group g. Operands: `mask` the groups strobed. -/
  | biasStrobe (who : Requester) (mask : Nat)
  /-- BIAS_RANGE_CHANGE (R418): A write changing RANGE opens the output into BBM. -/
  | biasRangeChange (who : Requester) (n range : Nat)
  /-- BBM_DONE (R418): 1,250 hc after a range change the output connects in the new range at its clear code and enters WAIT. -/
  | bbmDone (n : Nat)
  /-- CLR_N_ASSERT (R416): CLR_N goes low and every output drives its clear code. -/
  | clrNAssert
  /-- CLR_N_RELEASE (R416): CLR_N goes high and the clear ends, outputs keeping their clear codes until the next strobe. -/
  | clrNRelease
  /-- BIAS_LIMIT (R413): A bias output reaches its current limit or compliance voltage. Operands: `on` the output begins to limit; false: it stops. -/
  | biasLimit (n : Nat) (on : Bool)
  /-- COMPARATOR_TRIP (R422): A window comparator's input leaves its window and it latches TRIP_LO or TRIP_HI. Operands: `code` the code at the input, `other` that at the input of comparator n XOR 1. -/
  | comparatorTrip (n code other : Nat)
  /-- COMPARATOR_ARM (R423): An unarmed comparator's input leaves both hysteresis bands and it arms. -/
  | comparatorArm (n code other : Nat)
  /-- MON_PERIOD (R424): A monitoring period starts and clears latches of comparators with CLRMODE = 1. -/
  | monPeriod
  /-- RAMP_GO (R426): A write of RGO triggers a ramp on a comparator with RTRIG = 0. -/
  | rampGo (who : Requester) (n : Nat)
  /-- RAMP_CROSS (R427): A ramp reaches its input or TMAX passes, setting CROSS and tripping if outside TMIN to TMAX. Operands: `cross` the hc from the trigger to the crossing; a value above TMAX: TMAX has passed with none. -/
  | rampCross (n cross : Nat)
  /-- SAMPLER_ROUND_TIMER (R432): The 10 ms round timer triggers a Sampler round. -/
  | samplerRoundTimer
  /-- SAMPLER_RGO (R432): A write of RGO triggers a Sampler round. -/
  | samplerRgo (who : Requester)
  /-- INJ_GO (R433): A write of INJ_GO bit k triggers injected conversion k. Operands: `mask` the injections triggered. -/
  | injGo (who : Requester) (mask : Nat)
  /-- SAMPLER_CONVERSION_DONE (R434): A conversion ends and enters its accumulator, writing a result when N conversions are summed. Operands: `code` what the converter found. -/
  | samplerConversionDone (code : Nat)
  /-- SHDN_CLR (R441): A write of SHDN_CLR releases an MQ-128A shutdown if the maximum is below 90 °C. -/
  | shdnClr (who : Requester)
  /-- MM_RST (R435): A write of MM_RST re-arms an input's min/max tracker. Operands: `k` the input. -/
  | mmRst (who : Requester) (k : Nat)
  /-- ENERGY_LO_READ (R444): A read of ENERGY_LO captures ENERGY_HI for its reader. -/
  | energyLoRead (who : Requester)
  /-- TELEMETRY_TIMER (R445): Every PERIOD ms Hoop firmware writes a telemetry record to the host ring or drops it. -/
  | telemetryTimer
  /-- LINE_REFETCH_DONE (R452): A master line arrives, is written and verified, and the recovery ends or is repeated. Operands: `a` the line, `data` the 64 bytes of the master or of the recomputation (none: the read failed), `good`: the verify read passes. -/
  | lineRefetchDone (a : Nat) (data : Option (List Byte)) (good : Bool)
  /-- REPAIR_COPY_DONE (R456): The 8 fc copy of a row into its spare completes and the recovered line is written and verified. Operands: `good`: the verify read of the line in its spare row passes. -/
  | repairCopyDone (a : Nat) (good : Bool)
  /-- SCRUB_READ (R460): The scrubber reads one line in its reserved slot and starts recovery if it is bad. Operands: `page` and `kind` the memory. -/
  | scrubRead (page kind : Nat)
  /-- BUCKET_LEAK (R459): Every LEAK ms one is taken from a memory's bucket level. -/
  | bucketLeak (page kind : Nat)
  /-- FLIP_ARM (R462): A write of FLIP_SEL.ARM arms a one-shot corruption of the next line write to the named memory. -/
  | flipArm (who : Requester)
  /-- PAT_GO (R475): A write of GO with SRC 0b00 starts a pattern run at PAT_START, or is refused. -/
  | patGo (who : Requester)
  /-- TRIG_IN_EDGE (R472): A rising edge on TRIG_IN[k] starts a pattern run or registers a jump request. -/
  | trigInEdge (k : Nat)
  /-- VECTOR_FETCH (R466): A vector is read from Pricking memory 12 fc before its pin time. -/
  | vectorFetch
  /-- VECTOR_COMPARE (R468): A vector's compare samples the pins at pin time + CMP_OFS and counts a fail. Operands: `levels` what the receivers of the 32 pins sample. -/
  | vectorCompare (levels : Nat)
  /-- PASS_END (R469): A segment pass ends; B-class fields commit and the next pass, segment or jump target starts, or the run ends. -/
  | passEnd
  /-- PAT_JUMP (R473): A write of JUMP registers a jump request to JTGT. -/
  | patJump (who : Requester) (tgt : Nat)
  /-- PAT_STOP (R476): A write of STOP ends the run after the pass in progress. -/
  | patStop (who : Requester)
  /-- PAT_ABORT (R476): A write of ABORT ends the run at the vector in progress. -/
  | patAbort (who : Requester)
  /-- PICOT_PULSE_END (R471): A Picot pulse's PW fc pass and the pin falls. -/
  | picotPulseEnd (k : Nat)
  /-- EVM_REGISTER (R483): A source event is registered at the next MCLK edge, gated and routed by its channel. Operands: `trig` the levels of TRIG_IN[3:0]. -/
  | evmRegister (trig : Nat)
  /-- EVM_DELIVER (R483): 2 mc after registration an event is delivered to its destination, merged or lost if the consumer is busy. Operands: `trig` the levels of TRIG_IN[3:0]. -/
  | evmDeliver (trig : Nat)
  /-- EVM_TIMER (R481): Timer t fires at the MCLK edge where TIME / 4 mod PERIOD equals PHASE. -/
  | evmTimer (t : Nat)
  /-- EVM_CH_CFG_WRITE (R488): A write of CH_CFG takes effect unless it would close a loop of enabled channels. Operands: `w` the word written to CH_CFG[c]. -/
  | evmChCfgWrite (who : Requester) (c : Nat) (w : Nat)
  /-- EVM_PROT_WRITE (R489): A write of PROT.MODE fixes the protection mode until cold start, or is discarded once fixed. -/
  | evmProtWrite (who : Requester) (v : Nat)
  /-- HOOP_SAFE_POINT (R497): Hoop firmware reaches a safe point and runs the next step of an urgent service, the mailbox command or a routine service. Operands: `spacing` in mc since the last safe point, `buf` the mailbox buffer and `mit` the master-image table as read, `auto` an AUTOLOAD image with its directory index. -/
  | hoopSafePoint (spacing : Nat) (buf mit : Option (List Byte)) (auto : Option (Nat × List Byte))
  /-- HOOP_MC (R495): A Hoop fetch fails parity or a line check, a fatal-class machine check. Operands: `a` the word address. -/
  | hoopMc (a : Nat)
  /-- HOOP_WDT (R530): 65,536 mc pass without a safe point and the Hoop watchdog trips, a fatal-class error. -/
  | hoopWdt
  /-- ECHO (R500): Command ECHO returns its payload. -/
  | echo
  /-- INFO (R500): Command INFO returns firmware version, UID, variant and health. -/
  | info
  /-- MEM_FILL (R500): Command MEM_FILL fills a BAR2 range with a pattern line by line. -/
  | memFill
  /-- BULK_LOAD (R500): Command BULK_LOAD validates and loads a Kwafer image from host memory section by section. Operands: `img` the image as read from host memory, none where the read fails. -/
  | bulkLoad (img : Option (List Byte))
  /-- IMAGE_LOAD (R500): Command IMAGE_LOAD loads a Kwafer image from the boot-flash directory. Operands: `img` the image of the directory entry, none where the flash is absent or reports an error. -/
  | imageLoad (img : Option (List Byte))
  /-- NVS_WRITE (R500): Command NVS_WRITE writes data to the user or profile area in 64-byte units. -/
  | nvsWrite
  /-- PROFILE_SET (R500): Command PROFILE_SET sets a profile's directory flags atomically. -/
  | profileSet
  /-- FLASH_READ (R500): Command FLASH_READ returns boot-flash data. Operands: `ok`: the flash reports no error. -/
  | flashRead (ok : Bool)
  /-- FLASH_WRITE (R500): Command FLASH_WRITE programs the boot flash page by page. Operands: `ok`: the flash reports no error. -/
  | flashWrite (ok : Bool)
  /-- TILE_MAP (R534): Command TILE_MAP maps a tile out or returns it to service. -/
  | tileMap
  /-- WARM_START_CMD (R500): Command WARM_START writes OK and begins a warm start. -/
  | warmStartCmd
  /-- DEBUG_UNLOCK1 (R543): DEBUG_UNLOCK subop UNLOCK1 opens Level 1 if the password hash matches. -/
  | debugUnlock1
  /-- DEBUG_CHALLENGE (R543): DEBUG_UNLOCK subop CHALLENGE returns a fresh 32-byte nonce. -/
  | debugChallenge
  /-- DEBUG_UNLOCK2 (R543): DEBUG_UNLOCK subop UNLOCK2 opens Level 2 if the HMAC matches. -/
  | debugUnlock2
  /-- DEBUG_SET_PW (R543): DEBUG_UNLOCK subop SET_PW stores a password hash. -/
  | debugSetPw
  /-- DEBUG_RELOCK (R543): DEBUG_UNLOCK subop RELOCK returns to Level 0. -/
  | debugRelock
  /-- BACKDOOR_READ (R544): A read of BD_DATA at Level 1 returns a word of the dump image as it would stand now. -/
  | backdoorRead
  /-- NVS_WORD_DONE (R503): An 8-byte NVS word finishes programming and the journalled record advances. Operands: `ok`: the word was programmed. -/
  | nvsWordDone (ok : Bool)
  /-- POWER_ON_RESET (R509): VDD_AON rises or falls below threshold and power-on reset is held, losing all state. -/
  | powerOnReset
  /-- POR_RELEASE (R509): The watched rails have stayed above 90 % for 10 ms and a cold start proceeds. -/
  | porRelease
  /-- BROWN_OUT (R509): A watched rail other than VDD_AON falls below threshold for 1 µs and reset applies at once. -/
  | brownOut
  /-- RESET_N_ASSERT (R511): RESET_N stays low for 1 µs and the device enters reset under R512. -/
  | resetNAssert
  /-- RESET_N_RELEASE (R511): RESET_N rises and a warm start begins. -/
  | resetNRelease
  /-- RST_WARM (R510): A write of RST_CTL.WARM with a valid KEY requests a warm start. Operands: `key` the KEY of the same write. -/
  | rstWarm (who : Requester) (key : Nat)
  /-- RST_COLD (R510): A write of RST_CTL.COLD with a valid KEY requests a cold start that keeps the always-on domain. Operands: `key` the KEY of the same write. -/
  | rstCold (who : Requester) (key : Nat)
  /-- RESET_APPLY (R512): Output ramps and the NVS word complete, so reset is applied and the start sequence begins. -/
  | resetApply
  /-- START_STEP_DONE (R513): A start step completes its work or check and the next step begins. Operands: `rows` a line of each row that fails the BIST of step 5, `fw` the firmware slots of step 7, `cal` and `coef` what step 9 finds by tile bit. -/
  | startStepDone (rows : List Nat) (fw : List FwSlot) (cal : List (Nat × List Int)) (coef : List (Nat × List Byte))
  /-- START_STEP_TIMEOUT (R514): A start step exceeds its limit or fails, so the start fails and is retried or SAFE mode entered. Operands: `check`: the step fails its check, else it passes its limit. -/
  | startStepTimeout (check : Bool)
  /-- START_RETRY (R523): 100 ms after a failed start the device starts again as a cold start with CAUSE 3. -/
  | startRetry
  /-- THERMAL_RESTART (R441): After a hardware trip the maximum falls below 90 °C and the MQ-256A warm starts. -/
  | thermalRestart
  /-- AUTO_WARM_START (R527): AW_DELAY ms after the fatal path's dump, with AUTO_WARM set, the device warm starts. -/
  | autoWarmStart
  /-- FATAL_PATH (R536): A fatal-class error freezes every page, sets Hoop ownership, sets health FAILED and writes the dump. -/
  | fatalPath
  /-- DUMP_WRITE_DONE (R537): The full dump or NVS summary finishes writing and DUMP_STAT is updated. Operands: `ok`: every NVS word of a summary was programmed. -/
  | dumpWriteDone (ok : Bool)
  /-- SCAN_DUMP (R544): The JTAG SCAN_DUMP instruction at Level 2 takes the fatal path and shifts out the scan chains. -/
  | scanDump
  /-- BYPASS (R542): The JTAG BYPASS instruction selects the bypass register. -/
  | bypass
  /-- IDCODE (R550): The JTAG IDCODE instruction returns part number, die revision and JEP106 code. -/
  | idcode
  /-- SAMPLE_PRELOAD (R542): The JTAG SAMPLE/PRELOAD instruction samples or preloads the boundary cells. Operands: `load` the levels shifted into the boundary cells, or none where `n` cells sample their pins. -/
  | samplePreload (load : Option (List Bool)) (n : Nat)
  /-- EXTEST (R542): The JTAG EXTEST instruction drives and samples pins from the boundary cells. Operands: `l` the levels shifted into the boundary cells. -/
  | extest (l : List Bool)
  /-- EXTEST_PULSE (R542): The IEEE 1149.6 EXTEST_PULSE instruction tests AC-coupled lanes. Operands: `l` the levels shifted into the boundary cells. -/
  | extestPulse (l : List Bool)
  /-- EXTEST_TRAIN (R542): The IEEE 1149.6 EXTEST_TRAIN instruction tests AC-coupled lanes with a pulse train. Operands: `l` the levels shifted into the boundary cells. -/
  | extestTrain (l : List Bool)
  /-- LINK_UP (R518): The PCIe link finishes training and comes up, setting STATUS.LINK_UP, WIDTH and SPEED and IRQ_STAT LINK_UP or LINK_REDUCED. Operands: `speed` coded as STATUS.SPEED, `bme` bus mastering enabled. -/
  | linkUp (width speed : Nat) (bme : Bool)
  /-- LIVE_CLEAR (R422): A tripped window comparator's input returns past its hysteresis band into the window, so LIVE returns to 0 and its latches become clearable. -/
  | liveClear (n code other : Nat)
  /-- ADC_OVERRANGE (R201): A corrected ADC sample is clipped, so ADC_OVR_CNT counts, OVR and IRQ bit 9 set, open windows are marked and the first per shot is recorded. Operands: the tile and its codes. -/
  | adcOverrange (fc : AdcFc)
  /-- BLANK (R183): At a word's T its AUX BLANK bits set or clear the blanking of each drive DAC, forcing code 0 from that pin time. -/
  | blank (b : Nat)
  /-- SHOT_LO_READ (R152): A read of SHOT_LO returns the shot number [31:0] and captures [47:32] into SHOT_HI for that reader. -/
  | shotLoRead (who : Requester) (b : Nat)
  /-- QUEUE_HWM_READ (R14): A read of a tile's QUEUE register returns the high-water mark HWM and clears it. -/
  | queueHwmRead (b : Nat)
  /-- RES_FRESH_READ (R434): A read of a Sampler RES register returns the result and clears FRESH. -/
  | resFreshRead (who : Requester) (k : Nat)
  /-- COMPLETION_TIMEOUT (R372): A host read issued by a DMA channel or a refetch gets no completion within the completion timeout, failing the descriptor with HOST_RD or the refetch. Operands: `x` the channel, or the line of a refetch. -/
  | completionTimeout (refetch : Bool) (x : Nat)
  /-- NONCE_EXPIRE (R543): 60 s after a CHALLENGE its nonce expires, DBG_STAT.NONCE clears and a later UNLOCK2 ends with BAD_ARG. -/
  | nonceExpire
  /-- TRST_N_ASSERT (R510): JTAG TRST_N is asserted and resets only the test access port. -/
  | trstNAssert
  deriving DecidableEq, Repr

end Sys2Proof
end

