-- ==== Sys2Proof/Config.lean ====
section
/-!
DEFINITION. What an implementation fixes and what the spec leaves open: constants without a body. No proof can use a
value of one, so every statement holds for all of them.
-/
namespace Sys2Proof.Config

/-- Free value `n` of the model, a 64-bit word: what a result is where the spec leaves it open (log entry 10). -/
opaque freeValue : Nat → BitVec 64

/-- The code, severity and ERR_INFO of the CLK record of a loss of lock (R54 names the record and no values; log entry 12). -/
opaque lolCode : BitVec 8
opaque lolSev : BitVec 2
opaque lolInfo : Word

/-- The 64-bit unique identifier of the device, from its fuses (R513, R538). -/
opaque uid : BitVec 64

/-- The die revision, GLB.CAPS[7:4] and IDCODE[31:28] (R550 and the GLB CAPS table). -/
opaque dieRev : BitVec 4

/-- The JEP106 code of IDCODE[11:1] (R550). -/
opaque jep106 : BitVec 11

/-- The spare rows that the fuse map uses, `MIC.REPAIR_STAT.FUSE_USED` (R458). -/
opaque fuseUsed : BitVec 11

/-- The spares of a block that the fuse map uses, by page, kind, block and bank (R458). -/
opaque fuseSpares : Nat → Nat → Nat → Nat → Nat

/-- The fused minimum of the security version (R492). -/
opaque fusedSvn : BitVec 8

/-- `DBG.SCAN_ID.LEN`, the length of the scan dump in bits (R544). -/
opaque scanLen : BitVec 32

/-- SHA-384 of a byte string (R543). -/
opaque sha384 : List Byte → List Byte

/-- HMAC-SHA-256 of a byte string under K_dev (R543). -/
opaque hmacDev : List Byte → List Byte

/-- Whether a byte string carries a signature that verifies against the vendor key, or the customer image key (R138,
R492, R494). -/
opaque vendorSigned : List Byte → Bool
opaque customerSigned : List Byte → Bool

/-- Whether the NVS security area holds a customer image key (R494, R502). -/
opaque customerKey : Bool

/-- The temperature in 1/16 °C of sensor `s` for a result `r`, by the two-point calibration fused for it (R436). -/
opaque diodeTemp : Nat → Nat → Int

/-- The size of the boot flash in bytes (R385). -/
opaque flashSize : Nat

/-- Whether a directory of the boot flash leaves a range, by offset and length, out of reach of FLASH_WRITE while a firmware slot
runs (R491, R500): no layout of the directory's entries is stated. -/
opaque flashDenied : List Byte → Nat → Nat → Nat → Bool

/-- Byte `n` of the Hoop trace as it stands at a TIME: the operations of the vendor's microcode (R539, R540). -/
opaque hoopTrace : Nat → Nat → Byte

/-- The word address of the last Hoop fetch at a TIME (R530). -/
opaque hoopFetch : Nat → BitVec 16

/-- The random nonce `n` of the on-chip source, 32 bytes (R543). -/
opaque nonce : Nat → List Byte

/-- The taps 0 to 46 of the interpolation filter in units of 2^-firBits; its other taps follow from them (R178; log entry 42). -/
opaque firTap : Nat → Int
opaque firBits : Nat

/-- Byte `n` of the route table at BAR2 0x1200_8000 for the routes that stand, given as numbers (R282 names no layout; log entry 91). -/
opaque routeByte : List Nat → Nat → Byte

/-- What the correction of a sampling-time mismatch adds to an ADC sample, in 2^-16 LSB, by the SKEW value and the codes before, of and
behind the sample (R200; log entry 89). -/
opaque skewTerm : Int → Int → Int → Int → Int

/-- What the analog stage of converter `n` adds to its nominal delay at a FINE value, in half picoseconds, before the limits of R73
(log entry 87). -/
opaque fineError : Nat → Nat → Int

/-- Bits 0 to 17 of a decision entry that goes out free, by its place (R314, R315; log entry 93). -/
opaque freeEntry : Nat → BitVec 18

/-- HOPS and NEXT of DEV_INFO for a device that no path over table links reaches (R351; log entry 94). -/
opaque noPath : Nat → BitVec 6

/-- The levels of the pins that the boundary cells capture, by cell number (R542). -/
opaque pinLevel : Nat → Nat → Bool

end Sys2Proof.Config
end

