-- ==== Sys2Proof/Machine/RegMap.lean ====
section
/-!
DEFINITION. The register map of BAR0, as the register tables of the spec give it (R76, R77 and the tables of
03_register_conventions to 23_faults_and_debug): for every page kind its registers, and for every field its place,
access code (R14), change class (R15) and reset value. A register that software reaches through a select register,
and a register held once per requester, has the stride 0x1000000: index 0 is its place in BAR0, and the other indices
are the further values it stands for.
-/
namespace Sys2Proof.Machine

/-- Access codes of a field (R14). -/
inductive Acc where
  | ro | rw | w1c | w1s | wo | rc
  deriving DecidableEq, Repr

/-- Change classes of a field (R15): live, stopped-only and boundary. -/
inductive Cls where
  | l | s | b
  deriving DecidableEq, Repr

/-- The place of a field: the offset of its register in the page, the stride between instances, its lowest bit and
its width. -/
structure Fld where
  off : Nat
  stride : Nat
  lo : Nat
  w : Nat
  deriving DecidableEq, Repr

/-- One row of a register table: the field, its access code, its change class and its reset value. -/
structure FieldDesc where
  fld : Fld
  acc : Acc
  cls : Cls
  rst : Nat
  deriving DecidableEq, Repr

/-- One register of a page: its offset, how many instances it has, their stride and its fields. -/
structure RegDesc where
  off : Nat
  count : Nat
  stride : Nat
  fields : List FieldDesc
  deriving DecidableEq, Repr

/-- The stride of a register that stands for more values than its place in BAR0 shows. -/
def windowStride : Nat := 0x1000000

/-! ### Every page: the common header (03_register_conventions) -/

def HDR.PAGE_ID : Fld := ⟨0x000, 0x4, 0, 32⟩
def HDR.PAGE_ID_INDEX : Fld := ⟨0x000, 0x4, 0, 8⟩
def HDR.PAGE_ID_KIND : Fld := ⟨0x000, 0x4, 8, 8⟩
def HDR.PAGE_ID_MAGIC : Fld := ⟨0x000, 0x4, 16, 16⟩
def HDR.PAGE_VER : Fld := ⟨0x004, 0x4, 0, 32⟩
def HDR.PAGE_VER_MINOR : Fld := ⟨0x004, 0x4, 0, 8⟩
def HDR.PAGE_VER_MAJOR : Fld := ⟨0x004, 0x4, 8, 8⟩
def HDR.CAPS : Fld := ⟨0x008, 0x4, 0, 32⟩
def HDR.CTRL : Fld := ⟨0x00C, 0x4, 0, 32⟩
def HDR.CTRL_EN : Fld := ⟨0x00C, 0x4, 0, 1⟩
def HDR.CTRL_SRST : Fld := ⟨0x00C, 0x4, 1, 1⟩
def HDR.CTRL_FREEZE : Fld := ⟨0x00C, 0x4, 2, 1⟩
def HDR.STATUS : Fld := ⟨0x010, 0x4, 0, 32⟩
def HDR.STATUS_RUN : Fld := ⟨0x010, 0x4, 0, 1⟩
def HDR.STATUS_CFG_BUSY : Fld := ⟨0x010, 0x4, 1, 1⟩
def HDR.STATUS_RST_BUSY : Fld := ⟨0x010, 0x4, 2, 1⟩
def HDR.STATUS_FROZEN : Fld := ⟨0x010, 0x4, 3, 1⟩
def HDR.STATUS_ERR_PEND : Fld := ⟨0x010, 0x4, 4, 1⟩
def HDR.STATUS_B_PEND : Fld := ⟨0x010, 0x4, 5, 1⟩
def HDR.STATUS_DATA : Fld := ⟨0x010, 0x4, 8, 24⟩
def HDR.IRQ_STAT : Fld := ⟨0x014, 0x4, 0, 32⟩
def HDR.IRQ_STAT_CAUSES : Fld := ⟨0x014, 0x4, 0, 24⟩
def HDR.IRQ_STAT_ERR : Fld := ⟨0x014, 0x4, 24, 1⟩
def HDR.IRQ_STAT_ERR_OVF : Fld := ⟨0x014, 0x4, 25, 1⟩
def HDR.IRQ_STAT_CFG_BUSY : Fld := ⟨0x014, 0x4, 26, 1⟩
def HDR.IRQ_STAT_OWN_VIOL : Fld := ⟨0x014, 0x4, 27, 1⟩
def HDR.IRQ_STAT_LOCK_VIOL : Fld := ⟨0x014, 0x4, 28, 1⟩
def HDR.IRQ_EN : Fld := ⟨0x018, 0x4, 0, 32⟩
def HDR.IRQ_EN_CAUSES : Fld := ⟨0x018, 0x4, 0, 24⟩
def HDR.IRQ_EN_ERR : Fld := ⟨0x018, 0x4, 24, 1⟩
def HDR.IRQ_EN_ERR_OVF : Fld := ⟨0x018, 0x4, 25, 1⟩
def HDR.IRQ_EN_CFG_BUSY : Fld := ⟨0x018, 0x4, 26, 1⟩
def HDR.IRQ_EN_OWN_VIOL : Fld := ⟨0x018, 0x4, 27, 1⟩
def HDR.IRQ_EN_LOCK_VIOL : Fld := ⟨0x018, 0x4, 28, 1⟩
def HDR.IRQ_FORCE : Fld := ⟨0x01C, 0x4, 0, 32⟩
def HDR.IRQ_FORCE_CAUSES : Fld := ⟨0x01C, 0x4, 0, 24⟩
def HDR.IRQ_FORCE_ERR : Fld := ⟨0x01C, 0x4, 24, 1⟩
def HDR.IRQ_FORCE_ERR_OVF : Fld := ⟨0x01C, 0x4, 25, 1⟩
def HDR.IRQ_FORCE_CFG_BUSY : Fld := ⟨0x01C, 0x4, 26, 1⟩
def HDR.IRQ_FORCE_OWN_VIOL : Fld := ⟨0x01C, 0x4, 27, 1⟩
def HDR.IRQ_FORCE_LOCK_VIOL : Fld := ⟨0x01C, 0x4, 28, 1⟩
def HDR.ERR_HEAD : Fld := ⟨0x020, 0x4, 0, 32⟩
def HDR.ERR_HEAD_CODE : Fld := ⟨0x020, 0x4, 0, 8⟩
def HDR.ERR_HEAD_SEV : Fld := ⟨0x020, 0x4, 8, 2⟩
def HDR.ERR_HEAD_UNIT : Fld := ⟨0x020, 0x4, 10, 6⟩
def HDR.ERR_HEAD_SEQ : Fld := ⟨0x020, 0x4, 16, 8⟩
def HDR.ERR_HEAD_DEPTH : Fld := ⟨0x020, 0x4, 24, 3⟩
def HDR.ERR_HEAD_VALID : Fld := ⟨0x020, 0x4, 31, 1⟩
def HDR.ERR_INFO : Fld := ⟨0x024, 0x4, 0, 32⟩
def HDR.ERR_ADDR : Fld := ⟨0x028, 0x4, 0, 32⟩
def HDR.ERR_TIME : Fld := ⟨0x02C, 0x4, 0, 32⟩
def HDR.ERR_CNT : Fld := ⟨0x030, 0x4, 0, 32⟩
def HDR.ERR_CNT_OVF : Fld := ⟨0x030, 0x4, 0, 16⟩
def HDR.ERR_CNT_TOTAL : Fld := ⟨0x030, 0x4, 16, 16⟩
def HDR.LOCK : Fld := ⟨0x034, 0x4, 0, 32⟩
def HDR.LOCK_LK_CFG : Fld := ⟨0x034, 0x4, 0, 1⟩
def HDR.LOCK_LK_ALL : Fld := ⟨0x034, 0x4, 1, 1⟩
def HDR.LOCK_BY_HOOP : Fld := ⟨0x034, 0x4, 2, 1⟩
def HDR.OWNER : Fld := ⟨0x038, 0x4, 0, 32⟩
def HDR.OWNER_OWN : Fld := ⟨0x038, 0x4, 0, 2⟩
def HDR.SCRATCH : Fld := ⟨0x03C, 0x4, 0, 32⟩

/-- The 16 header registers (03_register_conventions, R76 to R98). -/
def HDR.regs : List RegDesc := [
  ⟨0x000, 1, 0x4, [⟨HDR.PAGE_ID_INDEX, .ro, .l, 0⟩, ⟨HDR.PAGE_ID_KIND, .ro, .l, 0⟩, ⟨HDR.PAGE_ID_MAGIC, .ro, .l, 0x4d51⟩]⟩,
  ⟨0x004, 1, 0x4, [⟨HDR.PAGE_VER_MINOR, .ro, .l, 0⟩, ⟨HDR.PAGE_VER_MAJOR, .ro, .l, 0⟩]⟩,
  ⟨0x008, 1, 0x4, [⟨HDR.CAPS, .ro, .l, 0⟩]⟩,
  ⟨0x00C, 1, 0x4, [⟨HDR.CTRL_EN, .rw, .l, 1⟩, ⟨HDR.CTRL_SRST, .w1s, .l, 0⟩, ⟨HDR.CTRL_FREEZE, .rw, .l, 0⟩]⟩,
  ⟨0x010, 1, 0x4, [⟨HDR.STATUS_RUN, .ro, .l, 0⟩, ⟨HDR.STATUS_CFG_BUSY, .w1c, .l, 0⟩, ⟨HDR.STATUS_RST_BUSY, .ro, .l, 0⟩, ⟨HDR.STATUS_FROZEN, .ro, .l, 0⟩, ⟨HDR.STATUS_ERR_PEND, .ro, .l, 0⟩, ⟨HDR.STATUS_B_PEND, .ro, .l, 0⟩, ⟨HDR.STATUS_DATA, .ro, .l, 0⟩]⟩,
  ⟨0x014, 1, 0x4, [⟨HDR.IRQ_STAT_CAUSES, .w1c, .l, 0⟩, ⟨HDR.IRQ_STAT_ERR, .w1c, .l, 0⟩, ⟨HDR.IRQ_STAT_ERR_OVF, .w1c, .l, 0⟩, ⟨HDR.IRQ_STAT_CFG_BUSY, .w1c, .l, 0⟩, ⟨HDR.IRQ_STAT_OWN_VIOL, .w1c, .l, 0⟩, ⟨HDR.IRQ_STAT_LOCK_VIOL, .w1c, .l, 0⟩]⟩,
  ⟨0x018, 1, 0x4, [⟨HDR.IRQ_EN_CAUSES, .rw, .l, 0⟩, ⟨HDR.IRQ_EN_ERR, .rw, .l, 0⟩, ⟨HDR.IRQ_EN_ERR_OVF, .rw, .l, 0⟩, ⟨HDR.IRQ_EN_CFG_BUSY, .rw, .l, 0⟩, ⟨HDR.IRQ_EN_OWN_VIOL, .rw, .l, 0⟩, ⟨HDR.IRQ_EN_LOCK_VIOL, .rw, .l, 0⟩]⟩,
  ⟨0x01C, 1, 0x4, [⟨HDR.IRQ_FORCE_CAUSES, .wo, .l, 0⟩, ⟨HDR.IRQ_FORCE_ERR, .wo, .l, 0⟩, ⟨HDR.IRQ_FORCE_ERR_OVF, .wo, .l, 0⟩, ⟨HDR.IRQ_FORCE_CFG_BUSY, .wo, .l, 0⟩, ⟨HDR.IRQ_FORCE_OWN_VIOL, .wo, .l, 0⟩, ⟨HDR.IRQ_FORCE_LOCK_VIOL, .wo, .l, 0⟩]⟩,
  ⟨0x020, 1, 0x4, [⟨HDR.ERR_HEAD_CODE, .ro, .l, 0⟩, ⟨HDR.ERR_HEAD_SEV, .ro, .l, 0⟩, ⟨HDR.ERR_HEAD_UNIT, .ro, .l, 0⟩, ⟨HDR.ERR_HEAD_SEQ, .ro, .l, 0⟩, ⟨HDR.ERR_HEAD_DEPTH, .ro, .l, 0⟩, ⟨HDR.ERR_HEAD_VALID, .ro, .l, 0⟩]⟩,
  ⟨0x024, 1, 0x4, [⟨HDR.ERR_INFO, .ro, .l, 0⟩]⟩,
  ⟨0x028, 1, 0x4, [⟨HDR.ERR_ADDR, .ro, .l, 0⟩]⟩,
  ⟨0x02C, 1, 0x4, [⟨HDR.ERR_TIME, .ro, .l, 0⟩]⟩,
  ⟨0x030, 1, 0x4, [⟨HDR.ERR_CNT_OVF, .ro, .l, 0⟩, ⟨HDR.ERR_CNT_TOTAL, .ro, .l, 0⟩]⟩,
  ⟨0x034, 1, 0x4, [⟨HDR.LOCK_LK_CFG, .w1s, .l, 0⟩, ⟨HDR.LOCK_LK_ALL, .w1s, .l, 0⟩, ⟨HDR.LOCK_BY_HOOP, .ro, .l, 0⟩]⟩,
  ⟨0x038, 1, 0x4, [⟨HDR.OWNER_OWN, .rw, .l, 0⟩]⟩,
  ⟨0x03C, 1, 0x4, [⟨HDR.SCRATCH, .rw, .l, 0⟩]⟩]


/-! ### Tile pages: the registers common to DRV, RDO and FLX (04, 05) -/

def TMB.TMB_CTL : Fld := ⟨0x040, 0x4, 0, 32⟩
def TMB.TMB_CTL_GO : Fld := ⟨0x040, 0x4, 0, 1⟩
def TMB.TMB_CTL_STOP : Fld := ⟨0x040, 0x4, 1, 1⟩
def TMB.TMB_CTL_ABORT : Fld := ⟨0x040, 0x4, 2, 1⟩
def TMB.TMB_STAT : Fld := ⟨0x044, 0x4, 0, 32⟩
def TMB.TMB_STAT_STATE : Fld := ⟨0x044, 0x4, 0, 3⟩
def TMB.TMB_STAT_WAIT : Fld := ⟨0x044, 0x4, 3, 1⟩
def TMB.TMB_STAT_UNDR : Fld := ⟨0x044, 0x4, 4, 1⟩
def TMB.TMB_STAT_STOP_PEND : Fld := ⟨0x044, 0x4, 5, 1⟩
def TMB.TMB_STAT_PC : Fld := ⟨0x044, 0x4, 16, 14⟩
def TMB.TMB_ENTRY : Fld := ⟨0x048, 0x4, 0, 32⟩
def TMB.TMB_ENTRY_ENTRY : Fld := ⟨0x048, 0x4, 0, 14⟩
def TMB.TMB_START_LO : Fld := ⟨0x04C, 0x4, 0, 32⟩
def TMB.TMB_START_HI : Fld := ⟨0x050, 0x4, 0, 32⟩
def TMB.SHOT_LO : Fld := ⟨0x054, 0x4, 0, 32⟩
def TMB.SHOT_HI : Fld := ⟨0x058, 0x1000000, 0, 32⟩
def TMB.SHOT_HI_SHOT_H : Fld := ⟨0x058, 0x1000000, 0, 16⟩
def TMB.QUEUE : Fld := ⟨0x05C, 0x4, 0, 32⟩
def TMB.QUEUE_DEPTH : Fld := ⟨0x05C, 0x4, 0, 10⟩
def TMB.QUEUE_HWM : Fld := ⟨0x05C, 0x4, 16, 10⟩
def TMB.LOOP_CTR : Fld := ⟨0x060, 0x4, 0, 32⟩
def TMB.WAIT_CNT : Fld := ⟨0x064, 0x4, 0, 32⟩
def TMB.DFLT_CNT : Fld := ⟨0x068, 0x4, 0, 32⟩
def TMB.DEC_DISC : Fld := ⟨0x06C, 0x4, 0, 32⟩
def TMB.DEC_DISC_LATE : Fld := ⟨0x06C, 0x4, 0, 16⟩
def TMB.DEC_DISC_DUP : Fld := ⟨0x06C, 0x4, 16, 16⟩
def TMB.TRUNC_CNT : Fld := ⟨0x070, 0x4, 0, 32⟩
def TMB.MC_STAT : Fld := ⟨0x074, 0x4, 0, 32⟩
def TMB.MC_STAT_ADDR : Fld := ⟨0x074, 0x4, 0, 14⟩
def TMB.MC_STAT_QUART : Fld := ⟨0x074, 0x4, 16, 4⟩
def TMB.MC_STAT_REFETCHED : Fld := ⟨0x074, 0x4, 20, 1⟩
def TMB.MC_STAT_CNT : Fld := ⟨0x074, 0x4, 24, 8⟩
def TMB.UNDR_CNT : Fld := ⟨0x078, 0x4, 0, 32⟩
def TMB.TKEY_MAP : Fld := ⟨0x100, 0x4, 0, 32⟩
def TMB.TKEY_MAP_SLOT : Fld := ⟨0x100, 0x4, 0, 9⟩
def TMB.TKEY_MAP_DFLT : Fld := ⟨0x100, 0x4, 9, 2⟩
def TMB.TKEY_MAP_EN : Fld := ⟨0x100, 0x4, 11, 1⟩
def TMB.TKEY_MAP_DL : Fld := ⟨0x100, 0x4, 12, 16⟩
def TMB.STRM_CFG : Fld := ⟨0x180, 0x10, 0, 32⟩
def TMB.STRM_CFG_BASE : Fld := ⟨0x180, 0x10, 0, 16⟩
def TMB.STRM_CFG_SIZE_LOG2 : Fld := ⟨0x180, 0x10, 16, 5⟩
def TMB.STRM_CFG_EN : Fld := ⟨0x180, 0x10, 24, 1⟩
def TMB.STRM_FILL : Fld := ⟨0x184, 0x10, 0, 32⟩
def TMB.STRM_CONS : Fld := ⟨0x188, 0x10, 0, 32⟩
def TMB.STRM_STAT : Fld := ⟨0x18C, 0x10, 0, 32⟩
def TMB.STRM_STAT_SKIP : Fld := ⟨0x18C, 0x10, 0, 16⟩
def TMB.STRM_STAT_UNDR : Fld := ⟨0x18C, 0x10, 16, 1⟩

/-- The Tambour, key-map and stream registers of every tile page (R123, 05_sequencing_and_timeline). -/
def TMB.regs : List RegDesc := [
  ⟨0x040, 1, 0x4, [⟨TMB.TMB_CTL_GO, .wo, .l, 0⟩, ⟨TMB.TMB_CTL_STOP, .wo, .l, 0⟩, ⟨TMB.TMB_CTL_ABORT, .wo, .l, 0⟩]⟩,
  ⟨0x044, 1, 0x4, [⟨TMB.TMB_STAT_STATE, .ro, .l, 0⟩, ⟨TMB.TMB_STAT_WAIT, .ro, .l, 0⟩, ⟨TMB.TMB_STAT_UNDR, .ro, .l, 0⟩, ⟨TMB.TMB_STAT_STOP_PEND, .ro, .l, 0⟩, ⟨TMB.TMB_STAT_PC, .ro, .l, 0⟩]⟩,
  ⟨0x048, 1, 0x4, [⟨TMB.TMB_ENTRY_ENTRY, .rw, .s, 0⟩]⟩,
  ⟨0x04C, 1, 0x4, [⟨TMB.TMB_START_LO, .rw, .s, 0⟩]⟩,
  ⟨0x050, 1, 0x4, [⟨TMB.TMB_START_HI, .rw, .s, 0⟩]⟩,
  ⟨0x054, 1, 0x4, [⟨TMB.SHOT_LO, .rw, .s, 0⟩]⟩,
  ⟨0x058, 3, 0x1000000, [⟨TMB.SHOT_HI_SHOT_H, .rw, .s, 0⟩]⟩,
  ⟨0x05C, 1, 0x4, [⟨TMB.QUEUE_DEPTH, .ro, .l, 0⟩, ⟨TMB.QUEUE_HWM, .rc, .l, 0⟩]⟩,
  ⟨0x060, 1, 0x4, [⟨TMB.LOOP_CTR, .ro, .l, 0⟩]⟩,
  ⟨0x064, 1, 0x4, [⟨TMB.WAIT_CNT, .ro, .l, 0⟩]⟩,
  ⟨0x068, 1, 0x4, [⟨TMB.DFLT_CNT, .ro, .l, 0⟩]⟩,
  ⟨0x06C, 1, 0x4, [⟨TMB.DEC_DISC_LATE, .ro, .l, 0⟩, ⟨TMB.DEC_DISC_DUP, .ro, .l, 0⟩]⟩,
  ⟨0x070, 1, 0x4, [⟨TMB.TRUNC_CNT, .ro, .l, 0⟩]⟩,
  ⟨0x074, 1, 0x4, [⟨TMB.MC_STAT_ADDR, .ro, .l, 0⟩, ⟨TMB.MC_STAT_QUART, .ro, .l, 0⟩, ⟨TMB.MC_STAT_REFETCHED, .ro, .l, 0⟩, ⟨TMB.MC_STAT_CNT, .ro, .l, 0⟩]⟩,
  ⟨0x078, 1, 0x4, [⟨TMB.UNDR_CNT, .ro, .l, 0⟩]⟩,
  ⟨0x100, 32, 0x4, [⟨TMB.TKEY_MAP_SLOT, .rw, .b, 0⟩, ⟨TMB.TKEY_MAP_DFLT, .rw, .b, 0⟩, ⟨TMB.TKEY_MAP_EN, .rw, .b, 0⟩, ⟨TMB.TKEY_MAP_DL, .rw, .b, 0⟩]⟩,
  ⟨0x180, 8, 0x10, [⟨TMB.STRM_CFG_BASE, .rw, .s, 0⟩, ⟨TMB.STRM_CFG_SIZE_LOG2, .rw, .s, 2⟩, ⟨TMB.STRM_CFG_EN, .rw, .s, 0⟩]⟩,
  ⟨0x184, 8, 0x10, [⟨TMB.STRM_FILL, .rw, .l, 0⟩]⟩,
  ⟨0x188, 8, 0x10, [⟨TMB.STRM_CONS, .ro, .l, 0⟩]⟩,
  ⟨0x18C, 8, 0x10, [⟨TMB.STRM_STAT_SKIP, .ro, .l, 0⟩, ⟨TMB.STRM_STAT_UNDR, .w1c, .l, 0⟩]⟩]


/-! ### GLB page -/

def GLB.RST_CTL : Fld := ⟨0x040, 0x4, 0, 32⟩
def GLB.RST_CTL_WARM : Fld := ⟨0x040, 0x4, 0, 1⟩
def GLB.RST_CTL_COLD : Fld := ⟨0x040, 0x4, 1, 1⟩
def GLB.RST_CTL_KEY : Fld := ⟨0x040, 0x4, 16, 16⟩
def GLB.RST_CFG : Fld := ⟨0x044, 0x4, 0, 32⟩
def GLB.RST_CFG_AUTO_WARM : Fld := ⟨0x044, 0x4, 0, 1⟩
def GLB.RST_CFG_WCAL : Fld := ⟨0x044, 0x4, 1, 1⟩
def GLB.RST_CFG_AW_DELAY : Fld := ⟨0x044, 0x4, 16, 16⟩
def GLB.START_STAT : Fld := ⟨0x048, 0x4, 0, 32⟩
def GLB.START_STAT_STEP : Fld := ⟨0x048, 0x4, 0, 4⟩
def GLB.START_STAT_READY : Fld := ⟨0x048, 0x4, 4, 1⟩
def GLB.START_STAT_SAFE : Fld := ⟨0x048, 0x4, 5, 1⟩
def GLB.START_STAT_KIND : Fld := ⟨0x048, 0x4, 6, 2⟩
def GLB.START_STAT_FAILS : Fld := ⟨0x048, 0x4, 8, 4⟩
def GLB.START_STAT_FAIL_STEP : Fld := ⟨0x048, 0x4, 12, 4⟩
def GLB.START_STAT_FAIL_CODE : Fld := ⟨0x048, 0x4, 16, 4⟩
def GLB.START_STAT_EVER_FAIL : Fld := ⟨0x048, 0x4, 20, 1⟩
def GLB.START_CAUSE : Fld := ⟨0x04C, 0x4, 0, 32⟩
def GLB.START_CAUSE_CAUSE : Fld := ⟨0x04C, 0x4, 0, 4⟩
def GLB.START_CAUSE_SKIP : Fld := ⟨0x04C, 0x4, 8, 5⟩
def GLB.START_CAUSE_START_MS : Fld := ⟨0x04C, 0x4, 16, 16⟩
def GLB.HEALTH : Fld := ⟨0x050, 0x4, 0, 32⟩
def GLB.HEALTH_STATE : Fld := ⟨0x050, 0x4, 0, 3⟩
def GLB.HEALTH_CAUSE : Fld := ⟨0x050, 0x4, 8, 8⟩

/-- The per-page fields of CAPS and STATUS on GLB pages. -/
def GLB.hdrRegs : List RegDesc := [
]


/-- The block registers of GLB pages. -/
def GLB.regs : List RegDesc := [
  ⟨0x040, 1, 0x4, [⟨GLB.RST_CTL_WARM, .wo, .l, 0⟩, ⟨GLB.RST_CTL_COLD, .wo, .l, 0⟩, ⟨GLB.RST_CTL_KEY, .wo, .l, 0⟩]⟩,
  ⟨0x044, 1, 0x4, [⟨GLB.RST_CFG_AUTO_WARM, .rw, .l, 0⟩, ⟨GLB.RST_CFG_WCAL, .rw, .l, 0⟩, ⟨GLB.RST_CFG_AW_DELAY, .rw, .l, 0x3e8⟩]⟩,
  ⟨0x048, 1, 0x4, [⟨GLB.START_STAT_STEP, .ro, .l, 1⟩, ⟨GLB.START_STAT_READY, .ro, .l, 0⟩, ⟨GLB.START_STAT_SAFE, .ro, .l, 0⟩, ⟨GLB.START_STAT_KIND, .ro, .l, 0⟩, ⟨GLB.START_STAT_FAILS, .ro, .l, 0⟩, ⟨GLB.START_STAT_FAIL_STEP, .ro, .l, 0⟩, ⟨GLB.START_STAT_FAIL_CODE, .ro, .l, 0⟩, ⟨GLB.START_STAT_EVER_FAIL, .ro, .l, 0⟩]⟩,
  ⟨0x04C, 1, 0x4, [⟨GLB.START_CAUSE_CAUSE, .ro, .l, 0⟩, ⟨GLB.START_CAUSE_SKIP, .ro, .l, 0⟩, ⟨GLB.START_CAUSE_START_MS, .ro, .l, 0⟩]⟩,
  ⟨0x050, 1, 0x4, [⟨GLB.HEALTH_STATE, .ro, .l, 5⟩, ⟨GLB.HEALTH_CAUSE, .ro, .l, 0⟩]⟩]


/-! ### CLK page -/

def CLK.PLL_STAT : Fld := ⟨0x040, 0x4, 0, 32⟩
def CLK.PLL_STAT_LOCK : Fld := ⟨0x040, 0x4, 0, 1⟩
def CLK.PLL_STAT_REF_OK : Fld := ⟨0x040, 0x4, 1, 1⟩
def CLK.PLL_STAT_BACKUP : Fld := ⟨0x040, 0x4, 2, 1⟩
def CLK.PLL_STAT_LOL : Fld := ⟨0x040, 0x4, 3, 1⟩
def CLK.PLL_STAT_LOL_CNT : Fld := ⟨0x040, 0x4, 8, 8⟩
def CLK.PLL_CTL : Fld := ⟨0x044, 0x4, 0, 32⟩
def CLK.PLL_CTL_RELOCK_AUTO : Fld := ⟨0x044, 0x4, 0, 1⟩
def CLK.PLL_CTL_RELOCK : Fld := ⟨0x044, 0x4, 1, 1⟩
def CLK.PLL_CTL_REF_TERM : Fld := ⟨0x044, 0x4, 2, 1⟩
def CLK.SYNC_CTL : Fld := ⟨0x048, 0x4, 0, 32⟩
def CLK.SYNC_CTL_ARM : Fld := ⟨0x048, 0x4, 0, 1⟩
def CLK.SYNC_CTL_SRC : Fld := ⟨0x048, 0x4, 1, 2⟩
def CLK.SYNC_CTL_SOFT : Fld := ⟨0x048, 0x4, 3, 1⟩
def CLK.SYNC_CTL_CHECK_EN : Fld := ⟨0x048, 0x4, 4, 1⟩
def CLK.SYNC_STAT : Fld := ⟨0x04C, 0x4, 0, 32⟩
def CLK.SYNC_STAT_TIME_VALID : Fld := ⟨0x04C, 0x4, 0, 1⟩
def CLK.SYNC_STAT_MISALIGN : Fld := ⟨0x04C, 0x4, 1, 1⟩
def CLK.SYNC_STAT_EPOCH_PEND : Fld := ⟨0x04C, 0x4, 2, 1⟩
def CLK.SYNC_STAT_SYNC_CNT : Fld := ⟨0x04C, 0x4, 8, 8⟩
def CLK.EPOCH_LO : Fld := ⟨0x050, 0x4, 0, 32⟩
def CLK.EPOCH_LO_EPOCH_L : Fld := ⟨0x050, 0x4, 4, 28⟩
def CLK.EPOCH_HI : Fld := ⟨0x054, 0x4, 0, 32⟩
def CLK.TIME_LO : Fld := ⟨0x058, 0x4, 0, 32⟩
def CLK.TIME_HI : Fld := ⟨0x05C, 0x1000000, 0, 32⟩
def CLK.SKEW_TRIM : Fld := ⟨0x060, 0x4, 0, 32⟩
def CLK.SKEW_TRIM_TRIM : Fld := ⟨0x060, 0x4, 0, 8⟩
def CLK.SHOT_REF : Fld := ⟨0x064, 0x4, 0, 32⟩
def CLK.SHOT_REF_TILE : Fld := ⟨0x064, 0x4, 0, 6⟩
def CLK.OUT_DELAY : Fld := ⟨0x200, 0x4, 0, 32⟩
def CLK.OUT_DELAY_COARSE : Fld := ⟨0x200, 0x4, 0, 6⟩
def CLK.OUT_DELAY_FINE : Fld := ⟨0x200, 0x4, 8, 9⟩

/-- The per-page fields of CAPS and STATUS on CLK pages. -/
def CLK.hdrRegs : List RegDesc := [
]


/-- The block registers of CLK pages. -/
def CLK.regs : List RegDesc := [
  ⟨0x040, 1, 0x4, [⟨CLK.PLL_STAT_LOCK, .ro, .l, 0⟩, ⟨CLK.PLL_STAT_REF_OK, .ro, .l, 0⟩, ⟨CLK.PLL_STAT_BACKUP, .ro, .l, 1⟩, ⟨CLK.PLL_STAT_LOL, .w1c, .l, 0⟩, ⟨CLK.PLL_STAT_LOL_CNT, .ro, .l, 0⟩]⟩,
  ⟨0x044, 1, 0x4, [⟨CLK.PLL_CTL_RELOCK_AUTO, .rw, .l, 1⟩, ⟨CLK.PLL_CTL_RELOCK, .wo, .l, 0⟩, ⟨CLK.PLL_CTL_REF_TERM, .rw, .s, 1⟩]⟩,
  ⟨0x048, 1, 0x4, [⟨CLK.SYNC_CTL_ARM, .w1s, .s, 0⟩, ⟨CLK.SYNC_CTL_SRC, .rw, .s, 0⟩, ⟨CLK.SYNC_CTL_SOFT, .wo, .s, 0⟩, ⟨CLK.SYNC_CTL_CHECK_EN, .rw, .l, 1⟩]⟩,
  ⟨0x04C, 1, 0x4, [⟨CLK.SYNC_STAT_TIME_VALID, .ro, .l, 0⟩, ⟨CLK.SYNC_STAT_MISALIGN, .w1c, .l, 0⟩, ⟨CLK.SYNC_STAT_EPOCH_PEND, .ro, .l, 0⟩, ⟨CLK.SYNC_STAT_SYNC_CNT, .ro, .l, 0⟩]⟩,
  ⟨0x050, 1, 0x4, [⟨CLK.EPOCH_LO_EPOCH_L, .rw, .s, 0⟩]⟩,
  ⟨0x054, 1, 0x4, [⟨CLK.EPOCH_HI, .rw, .s, 0⟩]⟩,
  ⟨0x058, 1, 0x4, [⟨CLK.TIME_LO, .ro, .l, 0⟩]⟩,
  ⟨0x05C, 2, 0x1000000, [⟨CLK.TIME_HI, .ro, .l, 0⟩]⟩,
  ⟨0x060, 1, 0x4, [⟨CLK.SKEW_TRIM_TRIM, .rw, .b, 0⟩]⟩,
  ⟨0x064, 1, 0x4, [⟨CLK.SHOT_REF_TILE, .rw, .s, 0x10⟩]⟩,
  ⟨0x200, 176, 0x4, [⟨CLK.OUT_DELAY_COARSE, .rw, .b, 0⟩, ⟨CLK.OUT_DELAY_FINE, .rw, .b, 0⟩]⟩]


/-! ### HOOP page -/

def HOOP.FW_VER : Fld := ⟨0x040, 0x4, 0, 32⟩
def HOOP.FW_STAT : Fld := ⟨0x044, 0x4, 0, 32⟩
def HOOP.FW_STAT_SLOT : Fld := ⟨0x044, 0x4, 0, 1⟩
def HOOP.FW_STAT_RESIDENT : Fld := ⟨0x044, 0x4, 1, 1⟩
def HOOP.FW_STAT_SVN : Fld := ⟨0x044, 0x4, 8, 8⟩
def HOOP.FW_CRC : Fld := ⟨0x048, 0x4, 0, 32⟩
def HOOP.SP_MAX : Fld := ⟨0x04C, 0x4, 0, 32⟩
def HOOP.SP_MAX_SP_MAX : Fld := ⟨0x04C, 0x4, 0, 16⟩
def HOOP.CMD_LAST : Fld := ⟨0x050, 0x4, 0, 32⟩
def HOOP.CMD_LAST_OPCODE : Fld := ⟨0x050, 0x4, 0, 16⟩
def HOOP.CMD_LAST_STATUS : Fld := ⟨0x050, 0x4, 16, 16⟩
def HOOP.CMD_SEQ : Fld := ⟨0x054, 0x4, 0, 32⟩
def HOOP.CMD_PROG : Fld := ⟨0x058, 0x4, 0, 32⟩
def HOOP.MC_STAT : Fld := ⟨0x05C, 0x4, 0, 32⟩
def HOOP.MC_STAT_ADDR : Fld := ⟨0x05C, 0x4, 0, 16⟩
def HOOP.MC_STAT_CNT : Fld := ⟨0x05C, 0x4, 16, 8⟩
def HOOP.ABORTS : Fld := ⟨0x060, 0x4, 0, 32⟩
def HOOP.ABORTS_ABORTS : Fld := ⟨0x060, 0x4, 0, 16⟩
def HOOP.ABORTS_SUSP : Fld := ⟨0x060, 0x4, 16, 16⟩

/-- The per-page fields of CAPS and STATUS on HOOP pages. -/
def HOOP.hdrRegs : List RegDesc := [
]


/-- The block registers of HOOP pages. -/
def HOOP.regs : List RegDesc := [
  ⟨0x040, 1, 0x4, [⟨HOOP.FW_VER, .ro, .l, 0⟩]⟩,
  ⟨0x044, 1, 0x4, [⟨HOOP.FW_STAT_SLOT, .ro, .l, 0⟩, ⟨HOOP.FW_STAT_RESIDENT, .ro, .l, 0⟩, ⟨HOOP.FW_STAT_SVN, .ro, .l, 0⟩]⟩,
  ⟨0x048, 1, 0x4, [⟨HOOP.FW_CRC, .ro, .l, 0⟩]⟩,
  ⟨0x04C, 1, 0x4, [⟨HOOP.SP_MAX_SP_MAX, .ro, .l, 0⟩]⟩,
  ⟨0x050, 1, 0x4, [⟨HOOP.CMD_LAST_OPCODE, .ro, .l, 0⟩, ⟨HOOP.CMD_LAST_STATUS, .ro, .l, 0⟩]⟩,
  ⟨0x054, 1, 0x4, [⟨HOOP.CMD_SEQ, .ro, .l, 0⟩]⟩,
  ⟨0x058, 1, 0x4, [⟨HOOP.CMD_PROG, .ro, .l, 0⟩]⟩,
  ⟨0x05C, 1, 0x4, [⟨HOOP.MC_STAT_ADDR, .ro, .l, 0⟩, ⟨HOOP.MC_STAT_CNT, .ro, .l, 0⟩]⟩,
  ⟨0x060, 1, 0x4, [⟨HOOP.ABORTS_ABORTS, .ro, .l, 0⟩, ⟨HOOP.ABORTS_SUSP, .ro, .l, 0⟩]⟩]


/-! ### NVS page -/

def NVS.NVS_STAT : Fld := ⟨0x040, 0x4, 0, 32⟩
def NVS.NVS_STAT_BUSY : Fld := ⟨0x040, 0x4, 0, 1⟩
def NVS.NVS_STAT_REPLAY : Fld := ⟨0x040, 0x4, 1, 1⟩
def NVS.NVS_STAT_JDISC : Fld := ⟨0x040, 0x4, 2, 1⟩
def NVS.LOG_WP : Fld := ⟨0x044, 0x4, 0, 32⟩
def NVS.LOG_OVW : Fld := ⟨0x048, 0x4, 0, 32⟩

/-- The per-page fields of CAPS and STATUS on NVS pages. -/
def NVS.hdrRegs : List RegDesc := [
]


/-- The block registers of NVS pages. -/
def NVS.regs : List RegDesc := [
  ⟨0x040, 1, 0x4, [⟨NVS.NVS_STAT_BUSY, .ro, .l, 0⟩, ⟨NVS.NVS_STAT_REPLAY, .ro, .l, 0⟩, ⟨NVS.NVS_STAT_JDISC, .w1c, .l, 0⟩]⟩,
  ⟨0x044, 1, 0x4, [⟨NVS.LOG_WP, .ro, .l, 0⟩]⟩,
  ⟨0x048, 1, 0x4, [⟨NVS.LOG_OVW, .ro, .l, 0⟩]⟩]


/-! ### HKP page -/

def HKP.STATUS_ON : Fld := ⟨0x010, 0x4, 8, 1⟩
def HKP.STATUS_RND_BUSY : Fld := ⟨0x010, 0x4, 9, 1⟩
def HKP.STATUS_RND_PEND : Fld := ⟨0x010, 0x4, 10, 1⟩
def HKP.STATUS_INJ_BUSY : Fld := ⟨0x010, 0x4, 11, 1⟩
def HKP.STATUS_CUR : Fld := ⟨0x010, 0x4, 12, 6⟩
def HKP.HKP_CTL : Fld := ⟨0x040, 0x4, 0, 32⟩
def HKP.HKP_CTL_RGO : Fld := ⟨0x040, 0x4, 0, 1⟩
def HKP.HKP_CTL_INJ_GO : Fld := ⟨0x040, 0x4, 1, 4⟩
def HKP.HKP_OVR : Fld := ⟨0x044, 0x4, 0, 32⟩
def HKP.HKP_OVR_OVR : Fld := ⟨0x044, 0x4, 0, 5⟩
def HKP.HKP_OVR_CNT : Fld := ⟨0x044, 0x4, 16, 16⟩
def HKP.RND_CNT : Fld := ⟨0x048, 0x4, 0, 32⟩
def HKP.INJ : Fld := ⟨0x050, 0x4, 0, 32⟩
def HKP.INJ_SEL : Fld := ⟨0x050, 0x4, 0, 6⟩
def HKP.INJ_EVM_EN : Fld := ⟨0x050, 0x4, 8, 1⟩
def HKP.BSEL : Fld := ⟨0x060, 0x4, 0, 32⟩
def HKP.BSEL_OUT : Fld := ⟨0x060, 0x4, 0, 6⟩
def HKP.ICFG : Fld := ⟨0x100, 0x10, 0, 32⟩
def HKP.ICFG_EN : Fld := ⟨0x100, 0x10, 0, 1⟩
def HKP.ICFG_AVG : Fld := ⟨0x100, 0x10, 1, 4⟩
def HKP.ICFG_SHIFT : Fld := ⟨0x100, 0x10, 5, 4⟩
def HKP.ICFG_MM_RST : Fld := ⟨0x100, 0x10, 9, 1⟩
def HKP.RES : Fld := ⟨0x104, 0x10, 0, 32⟩
def HKP.RES_VALUE : Fld := ⟨0x104, 0x10, 0, 16⟩
def HKP.RES_SEQ : Fld := ⟨0x104, 0x10, 16, 8⟩
def HKP.RES_FRESH : Fld := ⟨0x104, 0x10, 24, 1⟩
def HKP.MINMAX : Fld := ⟨0x108, 0x10, 0, 32⟩
def HKP.MINMAX_MIN : Fld := ⟨0x108, 0x10, 0, 16⟩
def HKP.MINMAX_MAX : Fld := ⟨0x108, 0x10, 16, 16⟩
def HKP.THR : Fld := ⟨0x10C, 0x10, 0, 32⟩
def HKP.THR_TLO : Fld := ⟨0x10C, 0x10, 0, 16⟩
def HKP.THR_THI : Fld := ⟨0x10C, 0x10, 16, 16⟩

/-- The per-page fields of CAPS and STATUS on HKP pages. -/
def HKP.hdrRegs : List RegDesc := [
  ⟨0x010, 1, 0x4, [⟨HKP.STATUS_ON, .ro, .l, 0⟩, ⟨HKP.STATUS_RND_BUSY, .ro, .l, 0⟩, ⟨HKP.STATUS_RND_PEND, .ro, .l, 0⟩, ⟨HKP.STATUS_INJ_BUSY, .ro, .l, 0⟩, ⟨HKP.STATUS_CUR, .ro, .l, 0⟩]⟩]


/-- The block registers of HKP pages. -/
def HKP.regs : List RegDesc := [
  ⟨0x040, 1, 0x4, [⟨HKP.HKP_CTL_RGO, .wo, .l, 0⟩, ⟨HKP.HKP_CTL_INJ_GO, .wo, .l, 0⟩]⟩,
  ⟨0x044, 1, 0x4, [⟨HKP.HKP_OVR_OVR, .w1c, .l, 0⟩, ⟨HKP.HKP_OVR_CNT, .ro, .l, 0⟩]⟩,
  ⟨0x048, 1, 0x4, [⟨HKP.RND_CNT, .ro, .l, 0⟩]⟩,
  ⟨0x050, 4, 0x4, [⟨HKP.INJ_SEL, .rw, .l, 0⟩, ⟨HKP.INJ_EVM_EN, .rw, .l, 0⟩]⟩,
  ⟨0x060, 16, 0x4, [⟨HKP.BSEL_OUT, .rw, .l, 0⟩]⟩,
  ⟨0x100, 48, 0x10, [⟨HKP.ICFG_EN, .rw, .l, 1⟩, ⟨HKP.ICFG_AVG, .rw, .l, 4⟩, ⟨HKP.ICFG_SHIFT, .rw, .l, 4⟩, ⟨HKP.ICFG_MM_RST, .wo, .l, 0⟩]⟩,
  ⟨0x104, 48, 0x10, [⟨HKP.RES_VALUE, .ro, .l, 0⟩, ⟨HKP.RES_SEQ, .ro, .l, 0⟩, ⟨HKP.RES_FRESH, .rc, .l, 0⟩]⟩,
  ⟨0x108, 48, 0x10, [⟨HKP.MINMAX_MIN, .ro, .l, 0xffff⟩, ⟨HKP.MINMAX_MAX, .ro, .l, 0⟩]⟩,
  ⟨0x10C, 48, 0x10, [⟨HKP.THR_TLO, .rw, .l, 0⟩, ⟨HKP.THR_THI, .rw, .l, 0xffff⟩]⟩]


/-! ### THM page -/

def THM.CAPS_SENSORS : Fld := ⟨0x008, 0x4, 0, 4⟩
def THM.CAPS_BANDS : Fld := ⟨0x008, 0x4, 4, 3⟩
def THM.CAPS_HW_TRIP : Fld := ⟨0x008, 0x4, 7, 1⟩
def THM.STATUS_BAND : Fld := ⟨0x010, 0x4, 8, 3⟩
def THM.STATUS_ALARM : Fld := ⟨0x010, 0x4, 11, 1⟩
def THM.STATUS_SHDN : Fld := ⟨0x010, 0x4, 12, 1⟩
def THM.STATUS_BROKEN_N : Fld := ⟨0x010, 0x4, 13, 4⟩
def THM.TEMP_MAX : Fld := ⟨0x040, 0x4, 0, 32⟩
def THM.TEMP_MAX_MAX : Fld := ⟨0x040, 0x4, 0, 16⟩
def THM.TEMP_MAX_SENSOR : Fld := ⟨0x040, 0x4, 16, 4⟩
def THM.THM_CTL : Fld := ⟨0x044, 0x4, 0, 32⟩
def THM.THM_CTL_SHDN_CLR : Fld := ⟨0x044, 0x4, 0, 1⟩
def THM.THM_CTL_LEG_EN : Fld := ⟨0x044, 0x4, 1, 1⟩
def THM.THM_CTL_LEG_SEL : Fld := ⟨0x044, 0x4, 4, 4⟩
def THM.BROKEN : Fld := ⟨0x048, 0x4, 0, 32⟩
def THM.BROKEN_MASK : Fld := ⟨0x048, 0x4, 0, 12⟩
def THM.TRIP_CNT : Fld := ⟨0x04C, 0x4, 0, 32⟩
def THM.TRIP_CNT_TRIPS : Fld := ⟨0x04C, 0x4, 0, 16⟩
def THM.ZBAND0 : Fld := ⟨0x050, 0x4, 0, 32⟩
def THM.ZBAND0_Z0_9 : Fld := ⟨0x050, 0x4, 0, 30⟩
def THM.ZBAND1 : Fld := ⟨0x054, 0x4, 0, 32⟩
def THM.ZBAND1_Z10_11 : Fld := ⟨0x054, 0x4, 0, 6⟩
def THM.TEMP : Fld := ⟨0x060, 0x4, 0, 32⟩
def THM.TEMP_T : Fld := ⟨0x060, 0x4, 0, 16⟩
def THM.TEMP_BROKEN : Fld := ⟨0x060, 0x4, 16, 1⟩
def THM.TEMP_IMPL : Fld := ⟨0x060, 0x4, 17, 1⟩
def THM.TEMP_RUN : Fld := ⟨0x060, 0x4, 18, 2⟩
def THM.POWER : Fld := ⟨0x0A0, 0x4, 0, 32⟩
def THM.POWER_POWER : Fld := ⟨0x0A0, 0x4, 0, 16⟩
def THM.ENERGY_LO : Fld := ⟨0x0A4, 0x4, 0, 32⟩
def THM.ENERGY_HI : Fld := ⟨0x0A8, 0x1000000, 0, 32⟩
def THM.TEL_BASE_LO : Fld := ⟨0x0C0, 0x4, 0, 32⟩
def THM.TEL_BASE_HI : Fld := ⟨0x0C4, 0x4, 0, 32⟩
def THM.TEL_CFG : Fld := ⟨0x0C8, 0x4, 0, 32⟩
def THM.TEL_CFG_EN : Fld := ⟨0x0C8, 0x4, 0, 1⟩
def THM.TEL_CFG_SIZE_LOG2 : Fld := ⟨0x0C8, 0x4, 1, 4⟩
def THM.TEL_CFG_PERIOD : Fld := ⟨0x0C8, 0x4, 16, 16⟩
def THM.TEL_WP : Fld := ⟨0x0CC, 0x4, 0, 32⟩
def THM.TEL_RP : Fld := ⟨0x0D0, 0x4, 0, 32⟩
def THM.TEL_DROP : Fld := ⟨0x0D4, 0x4, 0, 32⟩
def THM.LEGACY : Fld := ⟨0xF00, 0x4, 0, 32⟩

/-- The per-page fields of CAPS and STATUS on THM pages. -/
def THM.hdrRegs : List RegDesc := [
  ⟨0x008, 1, 0x4, [⟨THM.CAPS_SENSORS, .ro, .l, 0xc⟩, ⟨THM.CAPS_BANDS, .ro, .l, 5⟩, ⟨THM.CAPS_HW_TRIP, .ro, .l, 0⟩]⟩,
  ⟨0x010, 1, 0x4, [⟨THM.STATUS_BAND, .ro, .l, 4⟩, ⟨THM.STATUS_ALARM, .ro, .l, 0⟩, ⟨THM.STATUS_SHDN, .ro, .l, 0⟩, ⟨THM.STATUS_BROKEN_N, .ro, .l, 0⟩]⟩]


/-- The block registers of THM pages. -/
def THM.regs : List RegDesc := [
  ⟨0x040, 1, 0x4, [⟨THM.TEMP_MAX_MAX, .ro, .l, 0⟩, ⟨THM.TEMP_MAX_SENSOR, .ro, .l, 0⟩]⟩,
  ⟨0x044, 1, 0x4, [⟨THM.THM_CTL_SHDN_CLR, .wo, .l, 0⟩, ⟨THM.THM_CTL_LEG_EN, .rw, .l, 0⟩, ⟨THM.THM_CTL_LEG_SEL, .rw, .l, 0⟩]⟩,
  ⟨0x048, 1, 0x4, [⟨THM.BROKEN_MASK, .ro, .l, 0⟩]⟩,
  ⟨0x04C, 1, 0x4, [⟨THM.TRIP_CNT_TRIPS, .ro, .l, 0⟩]⟩,
  ⟨0x050, 1, 0x4, [⟨THM.ZBAND0_Z0_9, .ro, .l, 0x24924924⟩]⟩,
  ⟨0x054, 1, 0x4, [⟨THM.ZBAND1_Z10_11, .ro, .l, 0x24⟩]⟩,
  ⟨0x060, 12, 0x4, [⟨THM.TEMP_T, .ro, .l, 0⟩, ⟨THM.TEMP_BROKEN, .ro, .l, 0⟩, ⟨THM.TEMP_IMPL, .ro, .l, 0⟩, ⟨THM.TEMP_RUN, .ro, .l, 0⟩]⟩,
  ⟨0x0A0, 1, 0x4, [⟨THM.POWER_POWER, .ro, .l, 0⟩]⟩,
  ⟨0x0A4, 1, 0x4, [⟨THM.ENERGY_LO, .ro, .l, 0⟩]⟩,
  ⟨0x0A8, 2, 0x1000000, [⟨THM.ENERGY_HI, .ro, .l, 0⟩]⟩,
  ⟨0x0C0, 1, 0x4, [⟨THM.TEL_BASE_LO, .rw, .l, 0⟩]⟩,
  ⟨0x0C4, 1, 0x4, [⟨THM.TEL_BASE_HI, .rw, .l, 0⟩]⟩,
  ⟨0x0C8, 1, 0x4, [⟨THM.TEL_CFG_EN, .rw, .l, 0⟩, ⟨THM.TEL_CFG_SIZE_LOG2, .rw, .l, 4⟩, ⟨THM.TEL_CFG_PERIOD, .rw, .l, 0x64⟩]⟩,
  ⟨0x0CC, 1, 0x4, [⟨THM.TEL_WP, .ro, .l, 0⟩]⟩,
  ⟨0x0D0, 1, 0x4, [⟨THM.TEL_RP, .rw, .l, 0⟩]⟩,
  ⟨0x0D4, 1, 0x4, [⟨THM.TEL_DROP, .ro, .l, 0⟩]⟩,
  ⟨0xF00, 1, 0x4, [⟨THM.LEGACY, .ro, .l, 0⟩]⟩]


/-! ### MIC page -/

def MIC.CAPS_KINDS : Fld := ⟨0x008, 0x4, 0, 4⟩
def MIC.CAPS_SPARE : Fld := ⟨0x008, 0x4, 4, 4⟩
def MIC.CAPS_SOFT_MAX : Fld := ⟨0x008, 0x4, 8, 11⟩
def MIC.MIC_CTL : Fld := ⟨0x040, 0x4, 0, 32⟩
def MIC.MIC_CTL_SCRUB_EN : Fld := ⟨0x040, 0x4, 0, 1⟩
def MIC.FLIP_SEL : Fld := ⟨0x044, 0x4, 0, 32⟩
def MIC.FLIP_SEL_PAGE : Fld := ⟨0x044, 0x4, 0, 6⟩
def MIC.FLIP_SEL_KIND : Fld := ⟨0x044, 0x4, 8, 4⟩
def MIC.FLIP_SEL_ARM : Fld := ⟨0x044, 0x4, 16, 1⟩
def MIC.FLIP_MASK : Fld := ⟨0x048, 0x4, 0, 32⟩
def MIC.FLIP_MASK_MASK : Fld := ⟨0x048, 0x4, 0, 16⟩
def MIC.MEM_SEL : Fld := ⟨0x04C, 0x1000000, 0, 32⟩
def MIC.MEM_SEL_PAGE : Fld := ⟨0x04C, 0x1000000, 0, 6⟩
def MIC.MEM_SEL_KIND : Fld := ⟨0x04C, 0x1000000, 8, 4⟩
def MIC.MEM_STAT : Fld := ⟨0x050, 0x1000000, 0, 32⟩
def MIC.MEM_STAT_LEVEL : Fld := ⟨0x050, 0x1000000, 0, 8⟩
def MIC.MEM_STAT_OVF : Fld := ⟨0x050, 0x1000000, 8, 8⟩
def MIC.MEM_STAT_SOFT : Fld := ⟨0x050, 0x1000000, 16, 8⟩
def MIC.MEM_STAT_POIS_N : Fld := ⟨0x050, 0x1000000, 24, 8⟩
def MIC.MEM_CNT : Fld := ⟨0x054, 0x1000000, 0, 32⟩
def MIC.MEM_LOST : Fld := ⟨0x058, 0x1000000, 0, 32⟩
def MIC.MEM_LOST_RT_ZERO : Fld := ⟨0x058, 0x1000000, 0, 16⟩
def MIC.MEM_LOST_DROP : Fld := ⟨0x058, 0x1000000, 16, 16⟩
def MIC.BKT_CFG : Fld := ⟨0x060, 0x4, 0, 32⟩
def MIC.BKT_CFG_CAP : Fld := ⟨0x060, 0x4, 0, 8⟩
def MIC.BKT_CFG_LEAK : Fld := ⟨0x060, 0x4, 8, 16⟩
def MIC.SCRUB_PASS : Fld := ⟨0x0A0, 0x4, 0, 32⟩
def MIC.REPAIR_STAT : Fld := ⟨0x0A4, 0x4, 0, 32⟩
def MIC.REPAIR_STAT_SOFT_USED : Fld := ⟨0x0A4, 0x4, 0, 11⟩
def MIC.REPAIR_STAT_EXHAUST : Fld := ⟨0x0A4, 0x4, 11, 1⟩
def MIC.REPAIR_STAT_FUSE_USED : Fld := ⟨0x0A4, 0x4, 12, 11⟩

/-- The per-page fields of CAPS and STATUS on MIC pages. -/
def MIC.hdrRegs : List RegDesc := [
  ⟨0x008, 1, 0x4, [⟨MIC.CAPS_KINDS, .ro, .l, 0xc⟩, ⟨MIC.CAPS_SPARE, .ro, .l, 2⟩, ⟨MIC.CAPS_SOFT_MAX, .ro, .l, 0x400⟩]⟩]


/-- The block registers of MIC pages. -/
def MIC.regs : List RegDesc := [
  ⟨0x040, 1, 0x4, [⟨MIC.MIC_CTL_SCRUB_EN, .rw, .l, 1⟩]⟩,
  ⟨0x044, 1, 0x4, [⟨MIC.FLIP_SEL_PAGE, .rw, .l, 0⟩, ⟨MIC.FLIP_SEL_KIND, .rw, .l, 0⟩, ⟨MIC.FLIP_SEL_ARM, .w1s, .l, 0⟩]⟩,
  ⟨0x048, 1, 0x4, [⟨MIC.FLIP_MASK_MASK, .rw, .l, 0⟩]⟩,
  ⟨0x04C, 2, 0x1000000, [⟨MIC.MEM_SEL_PAGE, .rw, .l, 0⟩, ⟨MIC.MEM_SEL_KIND, .rw, .l, 0⟩]⟩,
  ⟨0x050, 1024, 0x1000000, [⟨MIC.MEM_STAT_LEVEL, .ro, .l, 0⟩, ⟨MIC.MEM_STAT_OVF, .ro, .l, 0⟩, ⟨MIC.MEM_STAT_SOFT, .ro, .l, 0⟩, ⟨MIC.MEM_STAT_POIS_N, .ro, .l, 0⟩]⟩,
  ⟨0x054, 1024, 0x1000000, [⟨MIC.MEM_CNT, .ro, .l, 0⟩]⟩,
  ⟨0x058, 1024, 0x1000000, [⟨MIC.MEM_LOST_RT_ZERO, .ro, .l, 0⟩, ⟨MIC.MEM_LOST_DROP, .ro, .l, 0⟩]⟩,
  ⟨0x060, 12, 0x4, [⟨MIC.BKT_CFG_CAP, .rw, .l, 0x20⟩, ⟨MIC.BKT_CFG_LEAK, .rw, .l, 0x3e8⟩]⟩,
  ⟨0x0A0, 1, 0x4, [⟨MIC.SCRUB_PASS, .ro, .l, 0⟩]⟩,
  ⟨0x0A4, 1, 0x4, [⟨MIC.REPAIR_STAT_SOFT_USED, .ro, .l, 0⟩, ⟨MIC.REPAIR_STAT_EXHAUST, .ro, .l, 0⟩, ⟨MIC.REPAIR_STAT_FUSE_USED, .ro, .l, 0⟩]⟩]


/-! ### EVM page -/

def EVM.CAPS_CHANNELS : Fld := ⟨0x008, 0x4, 0, 7⟩
def EVM.CAPS_TIMERS : Fld := ⟨0x008, 0x4, 8, 3⟩
def EVM.PROT : Fld := ⟨0x040, 0x4, 0, 32⟩
def EVM.PROT_MODE : Fld := ⟨0x040, 0x4, 0, 2⟩
def EVM.PROT_FIXED : Fld := ⟨0x040, 0x4, 2, 1⟩
def EVM.GATE_SW : Fld := ⟨0x044, 0x4, 0, 32⟩
def EVM.GATE_SW_GATE_SW : Fld := ⟨0x044, 0x4, 0, 8⟩
def EVM.HIT_MAP : Fld := ⟨0x048, 0x4, 0, 32⟩
def EVM.MERGE_CNT : Fld := ⟨0x050, 0x4, 0, 32⟩
def EVM.WAKE_STAT : Fld := ⟨0x054, 0x4, 0, 32⟩
def EVM.WAKE_STAT_PEND : Fld := ⟨0x054, 0x4, 0, 8⟩
def EVM.WAKE_STAT_OVR : Fld := ⟨0x054, 0x4, 8, 8⟩
def EVM.LOOP_CNT : Fld := ⟨0x058, 0x4, 0, 32⟩
def EVM.LOOP_CNT_LOOP_CNT : Fld := ⟨0x058, 0x4, 0, 16⟩
def EVM.TMR_PER : Fld := ⟨0x060, 0x8, 0, 32⟩
def EVM.TMR_PER_PERIOD : Fld := ⟨0x060, 0x8, 0, 24⟩
def EVM.TMR_PH : Fld := ⟨0x064, 0x8, 0, 32⟩
def EVM.TMR_PH_PHASE : Fld := ⟨0x064, 0x8, 0, 24⟩
def EVM.CH_CFG : Fld := ⟨0x100, 0x10, 0, 32⟩
def EVM.CH_CFG_SRC : Fld := ⟨0x100, 0x10, 0, 9⟩
def EVM.CH_CFG_DST : Fld := ⟨0x100, 0x10, 16, 5⟩
def EVM.CH_CFG_IRQ : Fld := ⟨0x100, 0x10, 24, 1⟩
def EVM.CH_CFG_GINV : Fld := ⟨0x100, 0x10, 25, 1⟩
def EVM.CH_CFG_EN : Fld := ⟨0x100, 0x10, 31, 1⟩
def EVM.CH_GATE : Fld := ⟨0x104, 0x10, 0, 32⟩
def EVM.CH_GATE_GSEL : Fld := ⟨0x104, 0x10, 0, 8⟩
def EVM.CH_PROT : Fld := ⟨0x108, 0x10, 0, 32⟩
def EVM.CH_PROT_OWN : Fld := ⟨0x108, 0x10, 0, 2⟩
def EVM.CH_PROT_SEC : Fld := ⟨0x108, 0x10, 2, 1⟩
def EVM.CH_PROT_LK : Fld := ⟨0x108, 0x10, 3, 1⟩
def EVM.CH_CNT : Fld := ⟨0x10C, 0x10, 0, 32⟩
def EVM.CH_CNT_EVT : Fld := ⟨0x10C, 0x10, 0, 16⟩
def EVM.CH_CNT_GATED : Fld := ⟨0x10C, 0x10, 16, 16⟩

/-- The per-page fields of CAPS and STATUS on EVM pages. -/
def EVM.hdrRegs : List RegDesc := [
  ⟨0x008, 1, 0x4, [⟨EVM.CAPS_CHANNELS, .ro, .l, 0x40⟩, ⟨EVM.CAPS_TIMERS, .ro, .l, 4⟩]⟩]


/-- The block registers of EVM pages. -/
def EVM.regs : List RegDesc := [
  ⟨0x040, 1, 0x4, [⟨EVM.PROT_MODE, .rw, .l, 0⟩, ⟨EVM.PROT_FIXED, .ro, .l, 0⟩]⟩,
  ⟨0x044, 1, 0x4, [⟨EVM.GATE_SW_GATE_SW, .rw, .l, 0⟩]⟩,
  ⟨0x048, 2, 0x4, [⟨EVM.HIT_MAP, .w1c, .l, 0⟩]⟩,
  ⟨0x050, 1, 0x4, [⟨EVM.MERGE_CNT, .ro, .l, 0⟩]⟩,
  ⟨0x054, 1, 0x4, [⟨EVM.WAKE_STAT_PEND, .w1c, .l, 0⟩, ⟨EVM.WAKE_STAT_OVR, .w1c, .l, 0⟩]⟩,
  ⟨0x058, 1, 0x4, [⟨EVM.LOOP_CNT_LOOP_CNT, .ro, .l, 0⟩]⟩,
  ⟨0x060, 4, 0x8, [⟨EVM.TMR_PER_PERIOD, .rw, .l, 0⟩]⟩,
  ⟨0x064, 4, 0x8, [⟨EVM.TMR_PH_PHASE, .rw, .l, 0⟩]⟩,
  ⟨0x100, 64, 0x10, [⟨EVM.CH_CFG_SRC, .rw, .l, 0⟩, ⟨EVM.CH_CFG_DST, .rw, .l, 0⟩, ⟨EVM.CH_CFG_IRQ, .rw, .l, 0⟩, ⟨EVM.CH_CFG_GINV, .rw, .l, 0⟩, ⟨EVM.CH_CFG_EN, .rw, .l, 0⟩]⟩,
  ⟨0x104, 64, 0x10, [⟨EVM.CH_GATE_GSEL, .rw, .l, 0⟩]⟩,
  ⟨0x108, 64, 0x10, [⟨EVM.CH_PROT_OWN, .rw, .l, 0⟩, ⟨EVM.CH_PROT_SEC, .rw, .l, 0⟩, ⟨EVM.CH_PROT_LK, .w1s, .l, 0⟩]⟩,
  ⟨0x10C, 64, 0x10, [⟨EVM.CH_CNT_EVT, .ro, .l, 0⟩, ⟨EVM.CH_CNT_GATED, .ro, .l, 0⟩]⟩]


/-! ### PAT page -/

def PAT.CAPS_PINS : Fld := ⟨0x008, 0x4, 0, 6⟩
def PAT.CAPS_SEGS : Fld := ⟨0x008, 0x4, 8, 8⟩
def PAT.CAPS_PRK_KIB : Fld := ⟨0x008, 0x4, 16, 16⟩
def PAT.STATUS_TLOCK : Fld := ⟨0x010, 0x4, 8, 1⟩
def PAT.STATUS_OVERRUN : Fld := ⟨0x010, 0x4, 9, 1⟩
def PAT.STATUS_JPEND : Fld := ⟨0x010, 0x4, 10, 1⟩
def PAT.STATUS_SEG : Fld := ⟨0x010, 0x4, 16, 6⟩
def PAT.PAT_CFG : Fld := ⟨0x040, 0x4, 0, 32⟩
def PAT.PAT_CFG_VPER : Fld := ⟨0x040, 0x4, 0, 8⟩
def PAT.PAT_CFG_PW : Fld := ⟨0x040, 0x4, 8, 4⟩
def PAT.PAT_CFG_SRC : Fld := ⟨0x040, 0x4, 12, 2⟩
def PAT.PAT_CFG_TSEL : Fld := ⟨0x040, 0x4, 14, 2⟩
def PAT.PAT_CFG_FIRST : Fld := ⟨0x040, 0x4, 16, 6⟩
def PAT.PAT_CFG_STOP_FAIL : Fld := ⟨0x040, 0x4, 22, 1⟩
def PAT.PAT_CTL : Fld := ⟨0x044, 0x4, 0, 32⟩
def PAT.PAT_CTL_GO : Fld := ⟨0x044, 0x4, 0, 1⟩
def PAT.PAT_CTL_STOP : Fld := ⟨0x044, 0x4, 1, 1⟩
def PAT.PAT_CTL_ABORT : Fld := ⟨0x044, 0x4, 2, 1⟩
def PAT.PAT_CTL_JUMP : Fld := ⟨0x044, 0x4, 3, 1⟩
def PAT.PAT_CTL_JTGT : Fld := ⟨0x044, 0x4, 8, 6⟩
def PAT.PAT_START_LO : Fld := ⟨0x048, 0x4, 0, 32⟩
def PAT.PAT_START_HI : Fld := ⟨0x04C, 0x4, 0, 32⟩
def PAT.PIN_IDLE : Fld := ⟨0x050, 0x4, 0, 32⟩
def PAT.PAT_STROBE : Fld := ⟨0x058, 0x4, 0, 32⟩
def PAT.PAT_STROBE_CMP_OFS : Fld := ⟨0x058, 0x4, 0, 8⟩
def PAT.PAT_STROBE_STRB : Fld := ⟨0x058, 0x4, 8, 4⟩
def PAT.PAT_TRIG : Fld := ⟨0x05C, 0x4, 0, 32⟩
def PAT.PAT_TRIG_JEN : Fld := ⟨0x05C, 0x4, 0, 4⟩
def PAT.PAT_TRIG_JTGT : Fld := ⟨0x05C, 0x4, 8, 24⟩
def PAT.FAIL_CNT : Fld := ⟨0x060, 0x4, 0, 32⟩
def PAT.FAIL_PINS : Fld := ⟨0x064, 0x4, 0, 32⟩
def PAT.FAIL_FIRST : Fld := ⟨0x068, 0x4, 0, 32⟩
def PAT.FAIL_FIRST_VEC : Fld := ⟨0x068, 0x4, 0, 17⟩
def PAT.FAIL_FIRST_SEG : Fld := ⟨0x068, 0x4, 24, 6⟩
def PAT.FAIL_TIME : Fld := ⟨0x06C, 0x4, 0, 32⟩
def PAT.FAIL_TIME_HI : Fld := ⟨0x070, 0x4, 0, 32⟩
def PAT.FAIL_TIME_HI_T_H : Fld := ⟨0x070, 0x4, 0, 16⟩
def PAT.FAIL_TIME_HI_PASS : Fld := ⟨0x070, 0x4, 16, 16⟩
def PAT.JMP_CNT : Fld := ⟨0x074, 0x4, 0, 32⟩
def PAT.JMP_CNT_REPL : Fld := ⟨0x074, 0x4, 0, 16⟩
def PAT.JMP_CNT_BAD : Fld := ⟨0x074, 0x4, 16, 16⟩
def PAT.SEG_START : Fld := ⟨0x200, 0x10, 0, 32⟩
def PAT.SEG_START_START : Fld := ⟨0x200, 0x10, 0, 17⟩
def PAT.SEG_LEN : Fld := ⟨0x204, 0x10, 0, 32⟩
def PAT.SEG_LEN_LEN : Fld := ⟨0x204, 0x10, 0, 18⟩
def PAT.SEG_CTL : Fld := ⟨0x208, 0x10, 0, 32⟩
def PAT.SEG_CTL_REPEAT : Fld := ⟨0x208, 0x10, 0, 16⟩
def PAT.SEG_CTL_NEXT : Fld := ⟨0x208, 0x10, 16, 6⟩
def PAT.SEG_CTL_END : Fld := ⟨0x208, 0x10, 22, 1⟩
def PAT.SEG_CTL_EN : Fld := ⟨0x208, 0x10, 23, 1⟩
def PAT.SEG_CTL_PMASK : Fld := ⟨0x208, 0x10, 24, 4⟩

/-- The per-page fields of CAPS and STATUS on PAT pages. -/
def PAT.hdrRegs : List RegDesc := [
  ⟨0x008, 1, 0x4, [⟨PAT.CAPS_PINS, .ro, .l, 0x20⟩, ⟨PAT.CAPS_SEGS, .ro, .l, 0x40⟩, ⟨PAT.CAPS_PRK_KIB, .ro, .l, 0x800⟩]⟩,
  ⟨0x010, 1, 0x4, [⟨PAT.STATUS_TLOCK, .ro, .l, 0⟩, ⟨PAT.STATUS_OVERRUN, .w1c, .l, 0⟩, ⟨PAT.STATUS_JPEND, .ro, .l, 0⟩, ⟨PAT.STATUS_SEG, .ro, .l, 0⟩]⟩]


/-- The block registers of PAT pages. -/
def PAT.regs : List RegDesc := [
  ⟨0x040, 1, 0x4, [⟨PAT.PAT_CFG_VPER, .rw, .s, 0⟩, ⟨PAT.PAT_CFG_PW, .rw, .b, 3⟩, ⟨PAT.PAT_CFG_SRC, .rw, .s, 0⟩, ⟨PAT.PAT_CFG_TSEL, .rw, .s, 0⟩, ⟨PAT.PAT_CFG_FIRST, .rw, .s, 0⟩, ⟨PAT.PAT_CFG_STOP_FAIL, .rw, .b, 0⟩]⟩,
  ⟨0x044, 1, 0x4, [⟨PAT.PAT_CTL_GO, .wo, .l, 0⟩, ⟨PAT.PAT_CTL_STOP, .wo, .l, 0⟩, ⟨PAT.PAT_CTL_ABORT, .wo, .l, 0⟩, ⟨PAT.PAT_CTL_JUMP, .wo, .l, 0⟩, ⟨PAT.PAT_CTL_JTGT, .wo, .l, 0⟩]⟩,
  ⟨0x048, 1, 0x4, [⟨PAT.PAT_START_LO, .rw, .s, 0⟩]⟩,
  ⟨0x04C, 1, 0x4, [⟨PAT.PAT_START_HI, .rw, .s, 0⟩]⟩,
  ⟨0x050, 2, 0x4, [⟨PAT.PIN_IDLE, .rw, .b, 0⟩]⟩,
  ⟨0x058, 1, 0x4, [⟨PAT.PAT_STROBE_CMP_OFS, .rw, .b, 0⟩, ⟨PAT.PAT_STROBE_STRB, .rw, .b, 8⟩]⟩,
  ⟨0x05C, 1, 0x4, [⟨PAT.PAT_TRIG_JEN, .rw, .l, 0⟩, ⟨PAT.PAT_TRIG_JTGT, .rw, .l, 0⟩]⟩,
  ⟨0x060, 1, 0x4, [⟨PAT.FAIL_CNT, .ro, .l, 0⟩]⟩,
  ⟨0x064, 1, 0x4, [⟨PAT.FAIL_PINS, .w1c, .l, 0⟩]⟩,
  ⟨0x068, 1, 0x4, [⟨PAT.FAIL_FIRST_VEC, .ro, .l, 0⟩, ⟨PAT.FAIL_FIRST_SEG, .ro, .l, 0⟩]⟩,
  ⟨0x06C, 1, 0x4, [⟨PAT.FAIL_TIME, .ro, .l, 0⟩]⟩,
  ⟨0x070, 1, 0x4, [⟨PAT.FAIL_TIME_HI_T_H, .ro, .l, 0⟩, ⟨PAT.FAIL_TIME_HI_PASS, .ro, .l, 0⟩]⟩,
  ⟨0x074, 1, 0x4, [⟨PAT.JMP_CNT_REPL, .ro, .l, 0⟩, ⟨PAT.JMP_CNT_BAD, .ro, .l, 0⟩]⟩,
  ⟨0x200, 64, 0x10, [⟨PAT.SEG_START_START, .rw, .b, 0⟩]⟩,
  ⟨0x204, 64, 0x10, [⟨PAT.SEG_LEN_LEN, .rw, .b, 0⟩]⟩,
  ⟨0x208, 64, 0x10, [⟨PAT.SEG_CTL_REPEAT, .rw, .b, 0⟩, ⟨PAT.SEG_CTL_NEXT, .rw, .b, 0⟩, ⟨PAT.SEG_CTL_END, .rw, .b, 0⟩, ⟨PAT.SEG_CTL_EN, .rw, .b, 0⟩, ⟨PAT.SEG_CTL_PMASK, .rw, .b, 0⟩]⟩]


/-! ### BIA page -/

def BIA.CAPS_OUTS : Fld := ⟨0x008, 0x4, 0, 8⟩
def BIA.CAPS_GROUPS : Fld := ⟨0x008, 0x4, 8, 4⟩
def BIA.BIA_CTL : Fld := ⟨0x040, 0x4, 0, 32⟩
def BIA.BIA_CTL_CLR_SW : Fld := ⟨0x040, 0x4, 0, 1⟩
def BIA.BIA_CTL_PIN_EN : Fld := ⟨0x040, 0x4, 4, 4⟩
def BIA.BIA_CTL_EVM_EN : Fld := ⟨0x040, 0x4, 8, 4⟩
def BIA.BIA_STROBE : Fld := ⟨0x044, 0x4, 0, 32⟩
def BIA.BIA_STROBE_STROBE : Fld := ⟨0x044, 0x4, 0, 4⟩
def BIA.LIM_MAP : Fld := ⟨0x048, 0x4, 0, 32⟩
def BIA.PEND_MAP : Fld := ⟨0x050, 0x4, 0, 32⟩
def BIA.BIAS_CFG : Fld := ⟨0x100, 0x10, 0, 32⟩
def BIA.BIAS_CFG_RANGE : Fld := ⟨0x100, 0x10, 0, 2⟩
def BIA.BIAS_CFG_GROUP : Fld := ⟨0x100, 0x10, 4, 2⟩
def BIA.BIAS_CODE : Fld := ⟨0x104, 0x10, 0, 32⟩
def BIA.BIAS_CODE_CODE : Fld := ⟨0x104, 0x10, 0, 20⟩
def BIA.BIAS_CLR : Fld := ⟨0x108, 0x10, 0, 32⟩
def BIA.BIAS_CLR_CLR : Fld := ⟨0x108, 0x10, 0, 20⟩
def BIA.BIAS_STAT : Fld := ⟨0x10C, 0x10, 0, 32⟩
def BIA.BIAS_STAT_STATE : Fld := ⟨0x10C, 0x10, 0, 3⟩
def BIA.BIAS_STAT_PEND : Fld := ⟨0x10C, 0x10, 3, 1⟩
def BIA.BIAS_STAT_LIMIT : Fld := ⟨0x10C, 0x10, 4, 1⟩
def BIA.BIAS_STAT_SHORT : Fld := ⟨0x10C, 0x10, 5, 1⟩
def BIA.BIAS_STAT_COMPL : Fld := ⟨0x10C, 0x10, 6, 1⟩
def BIA.BIAS_STAT_IGN : Fld := ⟨0x10C, 0x10, 7, 1⟩
def BIA.BIAS_STAT_OUT : Fld := ⟨0x10C, 0x10, 12, 20⟩

/-- The per-page fields of CAPS and STATUS on BIA pages. -/
def BIA.hdrRegs : List RegDesc := [
  ⟨0x008, 1, 0x4, [⟨BIA.CAPS_OUTS, .ro, .l, 0x40⟩, ⟨BIA.CAPS_GROUPS, .ro, .l, 4⟩]⟩]


/-- The block registers of BIA pages. -/
def BIA.regs : List RegDesc := [
  ⟨0x040, 1, 0x4, [⟨BIA.BIA_CTL_CLR_SW, .rw, .l, 0⟩, ⟨BIA.BIA_CTL_PIN_EN, .rw, .l, 0xf⟩, ⟨BIA.BIA_CTL_EVM_EN, .rw, .l, 0⟩]⟩,
  ⟨0x044, 1, 0x4, [⟨BIA.BIA_STROBE_STROBE, .wo, .l, 0⟩]⟩,
  ⟨0x048, 2, 0x4, [⟨BIA.LIM_MAP, .ro, .l, 0⟩]⟩,
  ⟨0x050, 2, 0x4, [⟨BIA.PEND_MAP, .ro, .l, 0⟩]⟩,
  ⟨0x100, 64, 0x10, [⟨BIA.BIAS_CFG_RANGE, .rw, .l, 0⟩, ⟨BIA.BIAS_CFG_GROUP, .rw, .l, 0⟩]⟩,
  ⟨0x104, 64, 0x10, [⟨BIA.BIAS_CODE_CODE, .rw, .l, 0⟩]⟩,
  ⟨0x108, 64, 0x10, [⟨BIA.BIAS_CLR_CLR, .rw, .l, 0⟩]⟩,
  ⟨0x10C, 64, 0x10, [⟨BIA.BIAS_STAT_STATE, .ro, .l, 0⟩, ⟨BIA.BIAS_STAT_PEND, .ro, .l, 0⟩, ⟨BIA.BIAS_STAT_LIMIT, .ro, .l, 0⟩, ⟨BIA.BIAS_STAT_SHORT, .w1c, .l, 0⟩, ⟨BIA.BIAS_STAT_COMPL, .w1c, .l, 0⟩, ⟨BIA.BIAS_STAT_IGN, .w1c, .l, 0⟩, ⟨BIA.BIAS_STAT_OUT, .ro, .l, 0⟩]⟩]


/-! ### MON page -/

def MON.CAPS_CMPS : Fld := ⟨0x008, 0x4, 0, 8⟩
def MON.CAPS_TBITS : Fld := ⟨0x008, 0x4, 8, 4⟩
def MON.MON_CTL : Fld := ⟨0x040, 0x4, 0, 32⟩
def MON.MON_CTL_PERIOD : Fld := ⟨0x040, 0x4, 0, 16⟩
def MON.TRIP_MAP : Fld := ⟨0x048, 0x4, 0, 32⟩
def MON.UNARM_MAP : Fld := ⟨0x060, 0x4, 0, 32⟩
def MON.MON_CFG : Fld := ⟨0x200, 0x20, 0, 32⟩
def MON.MON_CFG_EN : Fld := ⟨0x200, 0x20, 0, 1⟩
def MON.MON_CFG_MODE : Fld := ⟨0x200, 0x20, 1, 1⟩
def MON.MON_CFG_CLRMODE : Fld := ⟨0x200, 0x20, 2, 1⟩
def MON.MON_CFG_TEST : Fld := ⟨0x200, 0x20, 3, 2⟩
def MON.MON_CFG_RTRIG : Fld := ⟨0x200, 0x20, 5, 2⟩
def MON.MON_CFG_RGO : Fld := ⟨0x200, 0x20, 7, 1⟩
def MON.MON_THR : Fld := ⟨0x204, 0x20, 0, 32⟩
def MON.MON_THR_LO : Fld := ⟨0x204, 0x20, 0, 10⟩
def MON.MON_THR_HYS : Fld := ⟨0x204, 0x20, 10, 6⟩
def MON.MON_THR_HI : Fld := ⟨0x204, 0x20, 16, 10⟩
def MON.MON_RSTEP : Fld := ⟨0x208, 0x20, 0, 32⟩
def MON.MON_RSTEP_START : Fld := ⟨0x208, 0x20, 0, 10⟩
def MON.MON_RSTEP_STEP : Fld := ⟨0x208, 0x20, 16, 16⟩
def MON.MON_RWIN : Fld := ⟨0x20C, 0x20, 0, 32⟩
def MON.MON_RWIN_TMIN : Fld := ⟨0x20C, 0x20, 0, 16⟩
def MON.MON_RWIN_TMAX : Fld := ⟨0x20C, 0x20, 16, 16⟩
def MON.MON_STAT : Fld := ⟨0x210, 0x20, 0, 32⟩
def MON.MON_STAT_TRIP_LO : Fld := ⟨0x210, 0x20, 0, 1⟩
def MON.MON_STAT_TRIP_HI : Fld := ⟨0x210, 0x20, 1, 1⟩
def MON.MON_STAT_TRIP_R : Fld := ⟨0x210, 0x20, 2, 1⟩
def MON.MON_STAT_LIVE : Fld := ⟨0x210, 0x20, 3, 1⟩
def MON.MON_STAT_UNARMED : Fld := ⟨0x210, 0x20, 4, 1⟩
def MON.MON_STAT_CFG_ERR : Fld := ⟨0x210, 0x20, 5, 1⟩
def MON.MON_STAT_RBUSY : Fld := ⟨0x210, 0x20, 6, 1⟩
def MON.MON_STAT_CROSS : Fld := ⟨0x210, 0x20, 16, 16⟩

/-- The per-page fields of CAPS and STATUS on MON pages. -/
def MON.hdrRegs : List RegDesc := [
  ⟨0x008, 1, 0x4, [⟨MON.CAPS_CMPS, .ro, .l, 0x50⟩, ⟨MON.CAPS_TBITS, .ro, .l, 0xa⟩]⟩]


/-- The block registers of MON pages. -/
def MON.regs : List RegDesc := [
  ⟨0x040, 1, 0x4, [⟨MON.MON_CTL_PERIOD, .rw, .l, 0x3e8⟩]⟩,
  ⟨0x048, 3, 0x4, [⟨MON.TRIP_MAP, .ro, .l, 0⟩]⟩,
  ⟨0x060, 3, 0x4, [⟨MON.UNARM_MAP, .ro, .l, 0⟩]⟩,
  ⟨0x200, 80, 0x20, [⟨MON.MON_CFG_EN, .rw, .l, 0⟩, ⟨MON.MON_CFG_MODE, .rw, .l, 0⟩, ⟨MON.MON_CFG_CLRMODE, .rw, .l, 0⟩, ⟨MON.MON_CFG_TEST, .rw, .l, 0⟩, ⟨MON.MON_CFG_RTRIG, .rw, .l, 0⟩, ⟨MON.MON_CFG_RGO, .wo, .l, 0⟩]⟩,
  ⟨0x204, 80, 0x20, [⟨MON.MON_THR_LO, .rw, .l, 0⟩, ⟨MON.MON_THR_HYS, .rw, .l, 0⟩, ⟨MON.MON_THR_HI, .rw, .l, 0x3ff⟩]⟩,
  ⟨0x208, 80, 0x20, [⟨MON.MON_RSTEP_START, .rw, .l, 0⟩, ⟨MON.MON_RSTEP_STEP, .rw, .l, 0⟩]⟩,
  ⟨0x20C, 80, 0x20, [⟨MON.MON_RWIN_TMIN, .rw, .l, 0⟩, ⟨MON.MON_RWIN_TMAX, .rw, .l, 0xfffe⟩]⟩,
  ⟨0x210, 80, 0x20, [⟨MON.MON_STAT_TRIP_LO, .w1c, .l, 0⟩, ⟨MON.MON_STAT_TRIP_HI, .w1c, .l, 0⟩, ⟨MON.MON_STAT_TRIP_R, .w1c, .l, 0⟩, ⟨MON.MON_STAT_LIVE, .ro, .l, 0⟩, ⟨MON.MON_STAT_UNARMED, .ro, .l, 0⟩, ⟨MON.MON_STAT_CFG_ERR, .ro, .l, 0⟩, ⟨MON.MON_STAT_RBUSY, .ro, .l, 0⟩, ⟨MON.MON_STAT_CROSS, .ro, .l, 0xffff⟩]⟩]


/-! ### TUL page -/

def TUL.CAPS_SLOTS : Fld := ⟨0x008, 0x4, 0, 16⟩
def TUL.CAPS_PORTS : Fld := ⟨0x008, 0x4, 16, 4⟩
def TUL.STATUS_RT_PEND : Fld := ⟨0x010, 0x4, 8, 1⟩
def TUL.STATUS_LOST_N : Fld := ⟨0x010, 0x4, 9, 10⟩
def TUL.TUL_CTL : Fld := ⟨0x040, 0x4, 0, 32⟩
def TUL.TUL_CTL_NDET_DROP : Fld := ⟨0x040, 0x4, 0, 1⟩
def TUL.TUL_CTL_TRACE_EN : Fld := ⟨0x040, 0x4, 1, 1⟩
def TUL.PUB_CNT : Fld := ⟨0x044, 0x4, 0, 32⟩
def TUL.REJ_CNT : Fld := ⟨0x048, 0x4, 0, 32⟩
def TUL.NDET_CNT : Fld := ⟨0x04C, 0x4, 0, 32⟩
def TUL.EXP_LATE_CNT : Fld := ⟨0x050, 0x4, 0, 32⟩
def TUL.EXP_LATE_CNT_LATE : Fld := ⟨0x050, 0x4, 0, 16⟩
def TUL.EXP_LATE_CNT_IMP_ERR : Fld := ⟨0x050, 0x4, 16, 16⟩
def TUL.TRACE_WP : Fld := ⟨0x054, 0x4, 0, 32⟩
def TUL.TRACE_WP_WP : Fld := ⟨0x054, 0x4, 0, 8⟩
def TUL.TRACE_WP_TOTAL : Fld := ⟨0x054, 0x4, 8, 24⟩
def TUL.SLOT_SEL : Fld := ⟨0x060, 0x1000000, 0, 32⟩
def TUL.SLOT_SEL_SLOT : Fld := ⟨0x060, 0x1000000, 0, 9⟩
def TUL.SLOT_SRC : Fld := ⟨0x064, 0x1000000, 0, 32⟩
def TUL.SLOT_SRC_KIND : Fld := ⟨0x064, 0x1000000, 0, 3⟩
def TUL.SLOT_SRC_TILE : Fld := ⟨0x064, 0x1000000, 4, 3⟩
def TUL.SLOT_SRC_TONE : Fld := ⟨0x064, 0x1000000, 8, 5⟩
def TUL.SLOT_SRC_DOUT : Fld := ⟨0x064, 0x1000000, 16, 7⟩
def TUL.SLOT_RT : Fld := ⟨0x068, 0x1000000, 0, 32⟩
def TUL.SLOT_RT_EXPORT : Fld := ⟨0x068, 0x1000000, 0, 8⟩
def TUL.SLOT_RT_IMP_PORT : Fld := ⟨0x068, 0x1000000, 8, 3⟩
def TUL.SLOT_RT_NDET : Fld := ⟨0x068, 0x1000000, 12, 1⟩
def TUL.SLOT_RT_LOST : Fld := ⟨0x068, 0x1000000, 13, 1⟩
def TUL.SLOT_RT_HOPS : Fld := ⟨0x068, 0x1000000, 16, 4⟩
def TUL.SLOT_RT_RT_PEND : Fld := ⟨0x068, 0x1000000, 20, 1⟩
def TUL.SLOT_RT_PUBDEV : Fld := ⟨0x068, 0x1000000, 24, 5⟩
def TUL.SLOT_LAT : Fld := ⟨0x06C, 0x1000000, 0, 32⟩
def TUL.SLOT_LAT_LAT : Fld := ⟨0x06C, 0x1000000, 0, 16⟩
def TUL.SLOT_LAST : Fld := ⟨0x070, 0x1000000, 0, 32⟩
def TUL.SLOT_LAST_VALUE : Fld := ⟨0x070, 0x1000000, 0, 2⟩
def TUL.SLOT_LAST_LEAK : Fld := ⟨0x070, 0x1000000, 2, 1⟩
def TUL.SLOT_LAST_LOWC : Fld := ⟨0x070, 0x1000000, 3, 1⟩
def TUL.SLOT_LAST_NDET : Fld := ⟨0x070, 0x1000000, 4, 1⟩
def TUL.SLOT_LAST_SEEN : Fld := ⟨0x070, 0x1000000, 5, 1⟩
def TUL.SLOT_LAST_DTIME : Fld := ⟨0x070, 0x1000000, 8, 24⟩
def TUL.SLOT_CNT : Fld := ⟨0x074, 0x1000000, 0, 32⟩
def TUL.LOST_MAP : Fld := ⟨0x100, 0x4, 0, 32⟩

/-- The per-page fields of CAPS and STATUS on TUL pages. -/
def TUL.hdrRegs : List RegDesc := [
  ⟨0x008, 1, 0x4, [⟨TUL.CAPS_SLOTS, .ro, .l, 0x200⟩, ⟨TUL.CAPS_PORTS, .ro, .l, 8⟩]⟩,
  ⟨0x010, 1, 0x4, [⟨TUL.STATUS_RT_PEND, .ro, .l, 0⟩, ⟨TUL.STATUS_LOST_N, .ro, .l, 0x200⟩]⟩]


/-- The block registers of TUL pages. -/
def TUL.regs : List RegDesc := [
  ⟨0x040, 1, 0x4, [⟨TUL.TUL_CTL_NDET_DROP, .rw, .b, 0⟩, ⟨TUL.TUL_CTL_TRACE_EN, .rw, .l, 1⟩]⟩,
  ⟨0x044, 1, 0x4, [⟨TUL.PUB_CNT, .ro, .l, 0⟩]⟩,
  ⟨0x048, 1, 0x4, [⟨TUL.REJ_CNT, .ro, .l, 0⟩]⟩,
  ⟨0x04C, 1, 0x4, [⟨TUL.NDET_CNT, .ro, .l, 0⟩]⟩,
  ⟨0x050, 1, 0x4, [⟨TUL.EXP_LATE_CNT_LATE, .ro, .l, 0⟩, ⟨TUL.EXP_LATE_CNT_IMP_ERR, .ro, .l, 0⟩]⟩,
  ⟨0x054, 1, 0x4, [⟨TUL.TRACE_WP_WP, .ro, .l, 0⟩, ⟨TUL.TRACE_WP_TOTAL, .ro, .l, 0⟩]⟩,
  ⟨0x060, 2, 0x1000000, [⟨TUL.SLOT_SEL_SLOT, .rw, .l, 0⟩]⟩,
  ⟨0x064, 512, 0x1000000, [⟨TUL.SLOT_SRC_KIND, .rw, .b, 0⟩, ⟨TUL.SLOT_SRC_TILE, .rw, .b, 0⟩, ⟨TUL.SLOT_SRC_TONE, .rw, .b, 0⟩, ⟨TUL.SLOT_SRC_DOUT, .rw, .b, 0⟩]⟩,
  ⟨0x068, 512, 0x1000000, [⟨TUL.SLOT_RT_EXPORT, .ro, .l, 0⟩, ⟨TUL.SLOT_RT_IMP_PORT, .ro, .l, 0⟩, ⟨TUL.SLOT_RT_NDET, .ro, .l, 0⟩, ⟨TUL.SLOT_RT_LOST, .ro, .l, 1⟩, ⟨TUL.SLOT_RT_HOPS, .ro, .l, 0⟩, ⟨TUL.SLOT_RT_RT_PEND, .ro, .l, 0⟩, ⟨TUL.SLOT_RT_PUBDEV, .ro, .l, 0⟩]⟩,
  ⟨0x06C, 512, 0x1000000, [⟨TUL.SLOT_LAT_LAT, .ro, .l, 3⟩]⟩,
  ⟨0x070, 512, 0x1000000, [⟨TUL.SLOT_LAST_VALUE, .ro, .l, 0⟩, ⟨TUL.SLOT_LAST_LEAK, .ro, .l, 0⟩, ⟨TUL.SLOT_LAST_LOWC, .ro, .l, 0⟩, ⟨TUL.SLOT_LAST_NDET, .ro, .l, 0⟩, ⟨TUL.SLOT_LAST_SEEN, .ro, .l, 0⟩, ⟨TUL.SLOT_LAST_DTIME, .ro, .l, 0⟩]⟩,
  ⟨0x074, 512, 0x1000000, [⟨TUL.SLOT_CNT, .ro, .l, 0⟩]⟩,
  ⟨0x100, 16, 0x4, [⟨TUL.LOST_MAP, .ro, .l, 0xffffffff⟩]⟩]


/-! ### DRN page -/

def DRN.CAPS_PATCHES : Fld := ⟨0x008, 0x4, 0, 4⟩
def DRN.CAPS_SYN : Fld := ⟨0x008, 0x4, 8, 8⟩
def DRN.CAPS_DOUT : Fld := ⟨0x008, 0x4, 16, 8⟩
def DRN.PATCH_CFG : Fld := ⟨0x040, 0x10, 0, 32⟩
def DRN.PATCH_CFG_EN : Fld := ⟨0x040, 0x10, 0, 1⟩
def DRN.PATCH_CFG_DIFF : Fld := ⟨0x040, 0x10, 1, 1⟩
def DRN.PATCH_CFG_LEAK_ESC : Fld := ⟨0x040, 0x10, 2, 1⟩
def DRN.PATCH_CFG_LOWC_ESC : Fld := ⟨0x040, 0x10, 3, 1⟩
def DRN.PATCH_CFG_ESC_PUB : Fld := ⟨0x040, 0x10, 4, 1⟩
def DRN.PATCH_CFG_REC_ALL : Fld := ⟨0x040, 0x10, 5, 1⟩
def DRN.PATCH_CFG_BANK : Fld := ⟨0x040, 0x10, 6, 1⟩
def DRN.PATCH_CFG_ROUND_TO : Fld := ⟨0x040, 0x10, 8, 12⟩
def DRN.PATCH_MAP : Fld := ⟨0x044, 0x10, 0, 32⟩
def DRN.PATCH_MAP_SYN_BASE : Fld := ⟨0x044, 0x10, 0, 7⟩
def DRN.PATCH_MAP_NSYN : Fld := ⟨0x044, 0x10, 8, 8⟩
def DRN.PATCH_MAP_OUT_BASE : Fld := ⟨0x044, 0x10, 16, 7⟩
def DRN.PATCH_MAP_NOUT : Fld := ⟨0x044, 0x10, 24, 8⟩
def DRN.PATCH_RND : Fld := ⟨0x048, 0x10, 0, 32⟩
def DRN.PATCH_STAT : Fld := ⟨0x04C, 0x10, 0, 32⟩
def DRN.PATCH_STAT_OPEN : Fld := ⟨0x04C, 0x10, 0, 1⟩
def DRN.PATCH_STAT_CFG_ERR : Fld := ⟨0x04C, 0x10, 1, 1⟩
def DRN.PATCH_STAT_HELD : Fld := ⟨0x04C, 0x10, 2, 8⟩
def DRN.PATCH_STAT_ESC_N : Fld := ⟨0x04C, 0x10, 16, 16⟩
def DRN.PATCH_CTL : Fld := ⟨0x0C0, 0x4, 0, 32⟩
def DRN.PATCH_CTL_CLR : Fld := ⟨0x0C0, 0x4, 0, 8⟩
def DRN.ESC_STAT : Fld := ⟨0x0C4, 0x4, 0, 32⟩
def DRN.ESC_STAT_DEPTH : Fld := ⟨0x0C4, 0x4, 0, 7⟩
def DRN.ESC_STAT_DROP : Fld := ⟨0x0C4, 0x4, 16, 16⟩
def DRN.ESC_CTL : Fld := ⟨0x0C8, 0x4, 0, 32⟩
def DRN.ESC_CTL_TH : Fld := ⟨0x0C8, 0x4, 0, 7⟩
def DRN.ESC_CTL_POP : Fld := ⟨0x0C8, 0x4, 8, 1⟩
def DRN.DISC_CNT : Fld := ⟨0x0CC, 0x4, 0, 32⟩
def DRN.ESC_DATA : Fld := ⟨0x0D0, 0x4, 0, 32⟩
def DRN.SYN_MAP : Fld := ⟨0x200, 0x4, 0, 32⟩
def DRN.SYN_MAP_SLOT : Fld := ⟨0x200, 0x4, 0, 9⟩
def DRN.SYN_MAP_EN : Fld := ⟨0x200, 0x4, 9, 1⟩
def DRN.SYN_MAP_INV : Fld := ⟨0x200, 0x4, 10, 1⟩
def DRN.DOUT_SLOT : Fld := ⟨0x400, 0x4, 0, 32⟩
def DRN.DOUT_SLOT_SLOT : Fld := ⟨0x400, 0x4, 0, 9⟩

/-- The per-page fields of CAPS and STATUS on DRN pages. -/
def DRN.hdrRegs : List RegDesc := [
  ⟨0x008, 1, 0x4, [⟨DRN.CAPS_PATCHES, .ro, .l, 8⟩, ⟨DRN.CAPS_SYN, .ro, .l, 0x80⟩, ⟨DRN.CAPS_DOUT, .ro, .l, 0x80⟩]⟩]


/-- The block registers of DRN pages. -/
def DRN.regs : List RegDesc := [
  ⟨0x040, 8, 0x10, [⟨DRN.PATCH_CFG_EN, .rw, .b, 0⟩, ⟨DRN.PATCH_CFG_DIFF, .rw, .b, 1⟩, ⟨DRN.PATCH_CFG_LEAK_ESC, .rw, .b, 1⟩, ⟨DRN.PATCH_CFG_LOWC_ESC, .rw, .b, 0⟩, ⟨DRN.PATCH_CFG_ESC_PUB, .rw, .b, 0⟩, ⟨DRN.PATCH_CFG_REC_ALL, .rw, .b, 0⟩, ⟨DRN.PATCH_CFG_BANK, .rw, .b, 0⟩, ⟨DRN.PATCH_CFG_ROUND_TO, .rw, .b, 0x40⟩]⟩,
  ⟨0x044, 8, 0x10, [⟨DRN.PATCH_MAP_SYN_BASE, .rw, .b, 0⟩, ⟨DRN.PATCH_MAP_NSYN, .rw, .b, 0⟩, ⟨DRN.PATCH_MAP_OUT_BASE, .rw, .b, 0⟩, ⟨DRN.PATCH_MAP_NOUT, .rw, .b, 0⟩]⟩,
  ⟨0x048, 8, 0x10, [⟨DRN.PATCH_RND, .ro, .l, 0⟩]⟩,
  ⟨0x04C, 8, 0x10, [⟨DRN.PATCH_STAT_OPEN, .ro, .l, 0⟩, ⟨DRN.PATCH_STAT_CFG_ERR, .ro, .l, 0⟩, ⟨DRN.PATCH_STAT_HELD, .ro, .l, 0⟩, ⟨DRN.PATCH_STAT_ESC_N, .ro, .l, 0⟩]⟩,
  ⟨0x0C0, 1, 0x4, [⟨DRN.PATCH_CTL_CLR, .wo, .l, 0⟩]⟩,
  ⟨0x0C4, 1, 0x4, [⟨DRN.ESC_STAT_DEPTH, .ro, .l, 0⟩, ⟨DRN.ESC_STAT_DROP, .ro, .l, 0⟩]⟩,
  ⟨0x0C8, 1, 0x4, [⟨DRN.ESC_CTL_TH, .rw, .l, 0⟩, ⟨DRN.ESC_CTL_POP, .wo, .l, 0⟩]⟩,
  ⟨0x0CC, 1, 0x4, [⟨DRN.DISC_CNT, .ro, .l, 0⟩]⟩,
  ⟨0x0D0, 8, 0x4, [⟨DRN.ESC_DATA, .ro, .l, 0⟩]⟩,
  ⟨0x200, 128, 0x4, [⟨DRN.SYN_MAP_SLOT, .rw, .b, 0⟩, ⟨DRN.SYN_MAP_EN, .rw, .b, 0⟩, ⟨DRN.SYN_MAP_INV, .rw, .b, 0⟩]⟩,
  ⟨0x400, 128, 0x4, [⟨DRN.DOUT_SLOT_SLOT, .rw, .b, 0⟩]⟩]


/-! ### PCI page -/

def PCI.CAPS_CHANNELS : Fld := ⟨0x008, 0x4, 0, 5⟩
def PCI.CAPS_VECS : Fld := ⟨0x008, 0x4, 8, 9⟩
def PCI.CAPS_MAXW : Fld := ⟨0x008, 0x4, 20, 4⟩
def PCI.CAPS_MAXS : Fld := ⟨0x008, 0x4, 24, 3⟩
def PCI.STATUS_LINK_UP : Fld := ⟨0x010, 0x4, 8, 1⟩
def PCI.STATUS_WIDTH : Fld := ⟨0x010, 0x4, 9, 4⟩
def PCI.STATUS_SPEED : Fld := ⟨0x010, 0x4, 13, 3⟩
def PCI.STATUS_BME : Fld := ⟨0x010, 0x4, 16, 1⟩
def PCI.MIT_BASE_LO : Fld := ⟨0x040, 0x4, 0, 32⟩
def PCI.MIT_BASE_HI : Fld := ⟨0x044, 0x4, 0, 32⟩
def PCI.MIT_CTL : Fld := ⟨0x048, 0x4, 0, 32⟩
def PCI.MIT_CTL_COUNT : Fld := ⟨0x048, 0x4, 0, 13⟩
def PCI.MIT_CTL_LOAD : Fld := ⟨0x048, 0x4, 31, 1⟩
def PCI.MIT_STAT : Fld := ⟨0x04C, 0x4, 0, 32⟩
def PCI.MIT_STAT_BUSY : Fld := ⟨0x04C, 0x4, 0, 1⟩
def PCI.MIT_STAT_DONE : Fld := ⟨0x04C, 0x4, 1, 1⟩
def PCI.MIT_STAT_RESULT : Fld := ⟨0x04C, 0x4, 2, 4⟩
def PCI.MIT_STAT_BAD_IDX : Fld := ⟨0x04C, 0x4, 16, 13⟩
def PCI.MBX_BASE_LO : Fld := ⟨0x050, 0x4, 0, 32⟩
def PCI.MBX_BASE_HI : Fld := ⟨0x054, 0x4, 0, 32⟩
def PCI.MBX_DB : Fld := ⟨0x058, 0x4, 0, 32⟩
def PCI.MBX_STAT : Fld := ⟨0x05C, 0x4, 0, 32⟩
def PCI.MBX_STAT_BUSY : Fld := ⟨0x05C, 0x4, 0, 1⟩
def PCI.MBX_STAT_FAIL : Fld := ⟨0x05C, 0x4, 1, 1⟩
def PCI.MBX_STAT_PROG : Fld := ⟨0x05C, 0x4, 16, 16⟩
def PCI.MBX_DONE : Fld := ⟨0x060, 0x4, 0, 32⟩
def PCI.AER_CNT : Fld := ⟨0x064, 0x4, 0, 32⟩
def PCI.VEC_MAP : Fld := ⟨0x100, 0x4, 0, 32⟩
def PCI.VEC_MAP_VEC : Fld := ⟨0x100, 0x4, 0, 8⟩
def PCI.CH_CFG : Fld := ⟨0x400, 0x40, 0, 32⟩
def PCI.CH_CFG_MODE : Fld := ⟨0x400, 0x40, 0, 3⟩
def PCI.CH_CFG_BTILE : Fld := ⟨0x400, 0x40, 8, 6⟩
def PCI.CH_CFG_BSLOT : Fld := ⟨0x400, 0x40, 16, 3⟩
def PCI.CH_CFG_HSIZE_LOG2 : Fld := ⟨0x400, 0x40, 24, 5⟩
def PCI.CH_CTL : Fld := ⟨0x404, 0x40, 0, 32⟩
def PCI.CH_CTL_EN : Fld := ⟨0x404, 0x40, 0, 1⟩
def PCI.CH_CTL_RESET : Fld := ⟨0x404, 0x40, 1, 1⟩
def PCI.CH_STAT : Fld := ⟨0x408, 0x40, 0, 32⟩
def PCI.CH_STAT_STATE : Fld := ⟨0x408, 0x40, 0, 2⟩
def PCI.CH_STAT_LAST : Fld := ⟨0x408, 0x40, 8, 8⟩
def PCI.CH_STAT_POIS : Fld := ⟨0x408, 0x40, 16, 16⟩
def PCI.CH_HADDR_LO : Fld := ⟨0x40C, 0x40, 0, 32⟩
def PCI.CH_HADDR_HI : Fld := ⟨0x410, 0x40, 0, 32⟩
def PCI.CH_CPL_LO : Fld := ⟨0x414, 0x40, 0, 32⟩
def PCI.CH_CPL_HI : Fld := ⟨0x418, 0x40, 0, 32⟩
def PCI.CH_HEAD : Fld := ⟨0x41C, 0x40, 0, 32⟩
def PCI.CH_HEAD_HEAD : Fld := ⟨0x41C, 0x40, 0, 16⟩
def PCI.CH_TAIL : Fld := ⟨0x420, 0x40, 0, 32⟩
def PCI.CH_TAIL_TAIL : Fld := ⟨0x420, 0x40, 0, 16⟩
def PCI.CH_HPOS : Fld := ⟨0x424, 0x40, 0, 32⟩
def PCI.CH_DPOS : Fld := ⟨0x428, 0x40, 0, 32⟩
def PCI.CH_IRQ : Fld := ⟨0x42C, 0x40, 0, 32⟩
def PCI.CH_IRQ_TH : Fld := ⟨0x42C, 0x40, 0, 16⟩
def PCI.CH_IRQ_HOLD : Fld := ⟨0x42C, 0x40, 16, 16⟩
def PCI.CH_LINES : Fld := ⟨0x430, 0x40, 0, 32⟩

/-- The per-page fields of CAPS and STATUS on PCI pages. -/
def PCI.hdrRegs : List RegDesc := [
  ⟨0x008, 1, 0x4, [⟨PCI.CAPS_CHANNELS, .ro, .l, 0x10⟩, ⟨PCI.CAPS_VECS, .ro, .l, 0x100⟩, ⟨PCI.CAPS_MAXW, .ro, .l, 8⟩, ⟨PCI.CAPS_MAXS, .ro, .l, 5⟩]⟩,
  ⟨0x010, 1, 0x4, [⟨PCI.STATUS_LINK_UP, .ro, .l, 0⟩, ⟨PCI.STATUS_WIDTH, .ro, .l, 0⟩, ⟨PCI.STATUS_SPEED, .ro, .l, 0⟩, ⟨PCI.STATUS_BME, .ro, .l, 0⟩]⟩]


/-- The block registers of PCI pages. -/
def PCI.regs : List RegDesc := [
  ⟨0x040, 1, 0x4, [⟨PCI.MIT_BASE_LO, .rw, .l, 0⟩]⟩,
  ⟨0x044, 1, 0x4, [⟨PCI.MIT_BASE_HI, .rw, .l, 0⟩]⟩,
  ⟨0x048, 1, 0x4, [⟨PCI.MIT_CTL_COUNT, .rw, .l, 0⟩, ⟨PCI.MIT_CTL_LOAD, .wo, .l, 0⟩]⟩,
  ⟨0x04C, 1, 0x4, [⟨PCI.MIT_STAT_BUSY, .ro, .l, 0⟩, ⟨PCI.MIT_STAT_DONE, .w1c, .l, 0⟩, ⟨PCI.MIT_STAT_RESULT, .ro, .l, 0⟩, ⟨PCI.MIT_STAT_BAD_IDX, .ro, .l, 0⟩]⟩,
  ⟨0x050, 1, 0x4, [⟨PCI.MBX_BASE_LO, .rw, .l, 0⟩]⟩,
  ⟨0x054, 1, 0x4, [⟨PCI.MBX_BASE_HI, .rw, .l, 0⟩]⟩,
  ⟨0x058, 1, 0x4, [⟨PCI.MBX_DB, .wo, .l, 0⟩]⟩,
  ⟨0x05C, 1, 0x4, [⟨PCI.MBX_STAT_BUSY, .ro, .l, 0⟩, ⟨PCI.MBX_STAT_FAIL, .w1c, .l, 0⟩, ⟨PCI.MBX_STAT_PROG, .ro, .l, 0⟩]⟩,
  ⟨0x060, 1, 0x4, [⟨PCI.MBX_DONE, .ro, .l, 0⟩]⟩,
  ⟨0x064, 1, 0x4, [⟨PCI.AER_CNT, .ro, .l, 0⟩]⟩,
  ⟨0x100, 58, 0x4, [⟨PCI.VEC_MAP_VEC, .rw, .l, 0⟩]⟩,
  ⟨0x400, 16, 0x40, [⟨PCI.CH_CFG_MODE, .rw, .s, 0⟩, ⟨PCI.CH_CFG_BTILE, .rw, .s, 0⟩, ⟨PCI.CH_CFG_BSLOT, .rw, .s, 0⟩, ⟨PCI.CH_CFG_HSIZE_LOG2, .rw, .s, 4⟩]⟩,
  ⟨0x404, 16, 0x40, [⟨PCI.CH_CTL_EN, .rw, .l, 0⟩, ⟨PCI.CH_CTL_RESET, .wo, .l, 0⟩]⟩,
  ⟨0x408, 16, 0x40, [⟨PCI.CH_STAT_STATE, .ro, .l, 0⟩, ⟨PCI.CH_STAT_LAST, .ro, .l, 0⟩, ⟨PCI.CH_STAT_POIS, .ro, .l, 0⟩]⟩,
  ⟨0x40C, 16, 0x40, [⟨PCI.CH_HADDR_LO, .rw, .s, 0⟩]⟩,
  ⟨0x410, 16, 0x40, [⟨PCI.CH_HADDR_HI, .rw, .s, 0⟩]⟩,
  ⟨0x414, 16, 0x40, [⟨PCI.CH_CPL_LO, .rw, .s, 0⟩]⟩,
  ⟨0x418, 16, 0x40, [⟨PCI.CH_CPL_HI, .rw, .s, 0⟩]⟩,
  ⟨0x41C, 16, 0x40, [⟨PCI.CH_HEAD_HEAD, .ro, .l, 0⟩]⟩,
  ⟨0x420, 16, 0x40, [⟨PCI.CH_TAIL_TAIL, .rw, .l, 0⟩]⟩,
  ⟨0x424, 16, 0x40, [⟨PCI.CH_HPOS, .rw, .l, 0⟩]⟩,
  ⟨0x428, 16, 0x40, [⟨PCI.CH_DPOS, .ro, .l, 0⟩]⟩,
  ⟨0x42C, 16, 0x40, [⟨PCI.CH_IRQ_TH, .rw, .l, 0⟩, ⟨PCI.CH_IRQ_HOLD, .rw, .l, 0⟩]⟩,
  ⟨0x430, 16, 0x40, [⟨PCI.CH_LINES, .ro, .l, 0⟩]⟩]


/-! ### DBG page -/

def DBG.DBG_STAT : Fld := ⟨0x040, 0x4, 0, 32⟩
def DBG.DBG_STAT_LEVEL : Fld := ⟨0x040, 0x4, 0, 2⟩
def DBG.DBG_STAT_PW_SET : Fld := ⟨0x040, 0x4, 2, 1⟩
def DBG.DBG_STAT_NONCE : Fld := ⟨0x040, 0x4, 3, 1⟩
def DBG.DBG_STAT_FAILS : Fld := ⟨0x040, 0x4, 8, 8⟩
def DBG.DBG_STAT_WAIT : Fld := ⟨0x040, 0x4, 16, 16⟩
def DBG.BD_ADDR : Fld := ⟨0x044, 0x4, 0, 32⟩
def DBG.BD_ADDR_ADDR : Fld := ⟨0x044, 0x4, 0, 20⟩
def DBG.BD_DATA : Fld := ⟨0x048, 0x4, 0, 32⟩
def DBG.SCAN_ID : Fld := ⟨0x04C, 0x4, 0, 32⟩

/-- The per-page fields of CAPS and STATUS on DBG pages. -/
def DBG.hdrRegs : List RegDesc := [
]


/-- The block registers of DBG pages. -/
def DBG.regs : List RegDesc := [
  ⟨0x040, 1, 0x4, [⟨DBG.DBG_STAT_LEVEL, .ro, .l, 0⟩, ⟨DBG.DBG_STAT_PW_SET, .ro, .l, 0⟩, ⟨DBG.DBG_STAT_NONCE, .ro, .l, 0⟩, ⟨DBG.DBG_STAT_FAILS, .ro, .l, 0⟩, ⟨DBG.DBG_STAT_WAIT, .ro, .l, 0⟩]⟩,
  ⟨0x044, 1, 0x4, [⟨DBG.BD_ADDR_ADDR, .rw, .l, 0⟩]⟩,
  ⟨0x048, 1, 0x4, [⟨DBG.BD_DATA, .ro, .l, 0⟩]⟩,
  ⟨0x04C, 1, 0x4, [⟨DBG.SCAN_ID, .ro, .l, 0⟩]⟩]


/-! ### DMP page -/

def DMP.DUMP_BASE_LO : Fld := ⟨0x040, 0x4, 0, 32⟩
def DMP.DUMP_BASE_HI : Fld := ⟨0x044, 0x4, 0, 32⟩
def DMP.DUMP_CTL : Fld := ⟨0x048, 0x4, 0, 32⟩
def DMP.DUMP_CTL_EN : Fld := ⟨0x048, 0x4, 0, 1⟩
def DMP.DUMP_STAT : Fld := ⟨0x04C, 0x4, 0, 32⟩
def DMP.DUMP_STAT_STATE : Fld := ⟨0x04C, 0x4, 0, 2⟩
def DMP.DUMP_STAT_WHERE : Fld := ⟨0x04C, 0x4, 2, 2⟩
def DMP.DUMP_STAT_RESULT : Fld := ⟨0x04C, 0x4, 4, 4⟩
def DMP.DUMP_STAT_FATAL_CNT : Fld := ⟨0x04C, 0x4, 8, 8⟩
def DMP.DUMP_STAT_SUM_VALID : Fld := ⟨0x04C, 0x4, 16, 1⟩
def DMP.TILE_MAP : Fld := ⟨0x050, 0x4, 0, 32⟩
def DMP.MAP_SRC : Fld := ⟨0x054, 0x4, 0, 32⟩
def DMP.HLTH_CFG : Fld := ⟨0x058, 0x4, 0, 32⟩
def DMP.HLTH_CFG_MC_MAX : Fld := ⟨0x058, 0x4, 0, 8⟩

/-- The per-page fields of CAPS and STATUS on DMP pages. -/
def DMP.hdrRegs : List RegDesc := [
]


/-- The block registers of DMP pages. -/
def DMP.regs : List RegDesc := [
  ⟨0x040, 1, 0x4, [⟨DMP.DUMP_BASE_LO, .rw, .l, 0⟩]⟩,
  ⟨0x044, 1, 0x4, [⟨DMP.DUMP_BASE_HI, .rw, .l, 0⟩]⟩,
  ⟨0x048, 1, 0x4, [⟨DMP.DUMP_CTL_EN, .rw, .l, 0⟩]⟩,
  ⟨0x04C, 1, 0x4, [⟨DMP.DUMP_STAT_STATE, .ro, .l, 0⟩, ⟨DMP.DUMP_STAT_WHERE, .ro, .l, 0⟩, ⟨DMP.DUMP_STAT_RESULT, .ro, .l, 0⟩, ⟨DMP.DUMP_STAT_FATAL_CNT, .ro, .l, 0⟩, ⟨DMP.DUMP_STAT_SUM_VALID, .ro, .l, 0⟩]⟩,
  ⟨0x050, 1, 0x4, [⟨DMP.TILE_MAP, .ro, .l, 0⟩]⟩,
  ⟨0x054, 1, 0x4, [⟨DMP.MAP_SRC, .ro, .l, 0⟩]⟩,
  ⟨0x058, 1, 0x4, [⟨DMP.HLTH_CFG_MC_MAX, .rw, .l, 3⟩]⟩]


/-! ### DRV page -/

def DRV.CAPS_TONES : Fld := ⟨0x008, 0x4, 0, 8⟩
def DRV.CAPS_DACS : Fld := ⟨0x008, 0x4, 8, 4⟩
def DRV.CAPS_MIX : Fld := ⟨0x008, 0x4, 12, 1⟩
def DRV.CAPS_ENV_KIB : Fld := ⟨0x008, 0x4, 16, 16⟩
def DRV.STATUS_BLANK : Fld := ⟨0x010, 0x4, 8, 2⟩
def DRV.STATUS_MODE : Fld := ⟨0x010, 0x4, 10, 2⟩
def DRV.TONE_FTW_LO : Fld := ⟨0x200, 0x10, 0, 32⟩
def DRV.TONE_FTW_HI : Fld := ⟨0x204, 0x10, 0, 32⟩
def DRV.TONE_FTW_HI_FTW_H : Fld := ⟨0x204, 0x10, 0, 16⟩
def DRV.TONE_CFG : Fld := ⟨0x208, 0x10, 0, 32⟩
def DRV.TONE_CFG_EN : Fld := ⟨0x208, 0x10, 0, 1⟩
def DRV.TONE_CFG_PF_EN : Fld := ⟨0x208, 0x10, 1, 1⟩
def DRV.TONE_CFG_BAND : Fld := ⟨0x208, 0x10, 8, 1⟩
def DRV.TONE_GAIN : Fld := ⟨0x20C, 0x10, 0, 32⟩
def DRV.TONE_GAIN_GAIN : Fld := ⟨0x20C, 0x10, 0, 16⟩
def DRV.TONE_GAIN_SINC_C : Fld := ⟨0x20C, 0x10, 16, 16⟩
def DRV.DAC_CFG : Fld := ⟨0x300, 0x20, 0, 32⟩
def DRV.DAC_CFG_MODE : Fld := ⟨0x300, 0x20, 0, 1⟩
def DRV.DAC_CFG_SINC_EN : Fld := ⟨0x300, 0x20, 1, 1⟩
def DRV.DAC_CFG_SHIFT : Fld := ⟨0x300, 0x20, 2, 2⟩
def DRV.DAC_CFG_FSADJ : Fld := ⟨0x300, 0x20, 4, 4⟩
def DRV.DAC_CFG_PD : Fld := ⟨0x300, 0x20, 8, 1⟩
def DRV.DAC_STAT : Fld := ⟨0x304, 0x20, 0, 32⟩
def DRV.DAC_STAT_SAT : Fld := ⟨0x304, 0x20, 0, 1⟩
def DRV.DAC_STAT_READY : Fld := ⟨0x304, 0x20, 1, 1⟩
def DRV.DAC_STAT_BAND_ANY : Fld := ⟨0x304, 0x20, 2, 1⟩
def DRV.DAC_SAT_CNT : Fld := ⟨0x308, 0x20, 0, 32⟩
def DRV.DAC_TRIM : Fld := ⟨0x30C, 0x20, 0, 32⟩
def DRV.DAC_TRIM_TRIM_USE : Fld := ⟨0x30C, 0x20, 0, 8⟩
def DRV.DAC_TRIM_LIM : Fld := ⟨0x30C, 0x20, 8, 1⟩
def DRV.DAC_TRIM_SET_SEQ : Fld := ⟨0x30C, 0x20, 16, 16⟩
def DRV.PF_STAT : Fld := ⟨0x380, 0x4, 0, 32⟩
def DRV.PF_STAT_X : Fld := ⟨0x380, 0x4, 0, 16⟩
def DRV.PF_STAT_Z : Fld := ⟨0x380, 0x4, 16, 16⟩
def DRV.FRAME_PH : Fld := ⟨0x3C0, 0x4, 0, 32⟩

/-- The per-page fields of CAPS and STATUS on DRV pages. -/
def DRV.hdrRegs : List RegDesc := [
  ⟨0x008, 1, 0x4, [⟨DRV.CAPS_TONES, .ro, .l, 0x10⟩, ⟨DRV.CAPS_DACS, .ro, .l, 2⟩, ⟨DRV.CAPS_MIX, .ro, .l, 1⟩, ⟨DRV.CAPS_ENV_KIB, .ro, .l, 0x400⟩]⟩,
  ⟨0x010, 1, 0x4, [⟨DRV.STATUS_BLANK, .ro, .l, 0⟩, ⟨DRV.STATUS_MODE, .ro, .l, 0⟩]⟩]


/-- The block registers of DRV pages. -/
def DRV.regs : List RegDesc := [
  ⟨0x200, 16, 0x10, [⟨DRV.TONE_FTW_LO, .rw, .b, 0⟩]⟩,
  ⟨0x204, 16, 0x10, [⟨DRV.TONE_FTW_HI_FTW_H, .rw, .b, 0⟩]⟩,
  ⟨0x208, 16, 0x10, [⟨DRV.TONE_CFG_EN, .rw, .b, 0⟩, ⟨DRV.TONE_CFG_PF_EN, .rw, .b, 1⟩, ⟨DRV.TONE_CFG_BAND, .ro, .l, 0⟩]⟩,
  ⟨0x20C, 16, 0x10, [⟨DRV.TONE_GAIN_GAIN, .rw, .b, 0x8000⟩, ⟨DRV.TONE_GAIN_SINC_C, .ro, .l, 0x8000⟩]⟩,
  ⟨0x300, 2, 0x20, [⟨DRV.DAC_CFG_MODE, .rw, .s, 0⟩, ⟨DRV.DAC_CFG_SINC_EN, .rw, .b, 0⟩, ⟨DRV.DAC_CFG_SHIFT, .rw, .b, 3⟩, ⟨DRV.DAC_CFG_FSADJ, .rw, .s, 0⟩, ⟨DRV.DAC_CFG_PD, .rw, .s, 0⟩]⟩,
  ⟨0x304, 2, 0x20, [⟨DRV.DAC_STAT_SAT, .w1c, .l, 0⟩, ⟨DRV.DAC_STAT_READY, .ro, .l, 0⟩, ⟨DRV.DAC_STAT_BAND_ANY, .ro, .l, 0⟩]⟩,
  ⟨0x308, 2, 0x20, [⟨DRV.DAC_SAT_CNT, .ro, .l, 0⟩]⟩,
  ⟨0x30C, 2, 0x20, [⟨DRV.DAC_TRIM_TRIM_USE, .ro, .l, 0⟩, ⟨DRV.DAC_TRIM_LIM, .ro, .l, 0⟩, ⟨DRV.DAC_TRIM_SET_SEQ, .ro, .l, 0⟩]⟩,
  ⟨0x380, 1, 0x4, [⟨DRV.PF_STAT_X, .ro, .l, 0⟩, ⟨DRV.PF_STAT_Z, .ro, .l, 0⟩]⟩,
  ⟨0x3C0, 16, 0x4, [⟨DRV.FRAME_PH, .ro, .l, 0⟩]⟩]


/-! ### RDO page -/

def RDO.CAPS_TONES : Fld := ⟨0x008, 0x4, 0, 8⟩
def RDO.CAPS_BINS : Fld := ⟨0x008, 0x4, 8, 8⟩
def RDO.CAPS_KSETS : Fld := ⟨0x008, 0x4, 16, 4⟩
def RDO.STATUS_OPEN : Fld := ⟨0x010, 0x4, 8, 6⟩
def RDO.STATUS_SETS : Fld := ⟨0x010, 0x4, 16, 4⟩
def RDO.STATUS_FULL : Fld := ⟨0x010, 0x4, 20, 1⟩
def RDO.STATUS_SWAP_PEND : Fld := ⟨0x010, 0x4, 21, 1⟩
def RDO.TONE_FTW_LO : Fld := ⟨0x200, 0x10, 0, 32⟩
def RDO.TONE_FTW_HI : Fld := ⟨0x204, 0x10, 0, 32⟩
def RDO.TONE_FTW_HI_FTW_H : Fld := ⟨0x204, 0x10, 0, 16⟩
def RDO.TONE_CFG : Fld := ⟨0x208, 0x10, 0, 32⟩
def RDO.TONE_CFG_EN : Fld := ⟨0x208, 0x10, 0, 1⟩
def RDO.TONE_CFG_BAND : Fld := ⟨0x208, 0x10, 8, 1⟩
def RDO.TONE_GAIN : Fld := ⟨0x20C, 0x10, 0, 32⟩
def RDO.TONE_GAIN_GAIN : Fld := ⟨0x20C, 0x10, 0, 16⟩
def RDO.TONE_GAIN_SINC_C : Fld := ⟨0x20C, 0x10, 16, 16⟩
def RDO.RX_CFG : Fld := ⟨0x400, 0x10, 0, 32⟩
def RDO.RX_CFG_RX_EN : Fld := ⟨0x400, 0x10, 0, 1⟩
def RDO.RX_CFG_BIN : Fld := ⟨0x400, 0x10, 8, 5⟩
def RDO.RX_CFG_AGRP_MASK : Fld := ⟨0x400, 0x10, 16, 4⟩
def RDO.RX_WIN : Fld := ⟨0x404, 0x10, 0, 32⟩
def RDO.RX_WIN_WIN_OFF : Fld := ⟨0x404, 0x10, 0, 12⟩
def RDO.RX_STAT : Fld := ⟨0x408, 0x10, 0, 32⟩
def RDO.RX_STAT_OPEN : Fld := ⟨0x408, 0x10, 0, 1⟩
def RDO.RX_STAT_PEND : Fld := ⟨0x408, 0x10, 1, 3⟩
def RDO.RX_STAT_BIN_ERR : Fld := ⟨0x408, 0x10, 4, 1⟩
def RDO.KDESC : Fld := ⟨0x600, 0x4, 0, 32⟩
def RDO.KDESC_KBASE : Fld := ⟨0x600, 0x4, 0, 13⟩
def RDO.KDESC_BOX : Fld := ⟨0x600, 0x4, 13, 1⟩
def RDO.KDESC_KLEN : Fld := ⟨0x600, 0x4, 16, 12⟩
def RDO.KDESC_KSH : Fld := ⟨0x600, 0x4, 28, 4⟩
def RDO.PDAC_CFG : Fld := ⟨0x800, 0x4, 0, 32⟩
def RDO.PDAC_CFG_SINC_EN : Fld := ⟨0x800, 0x4, 1, 1⟩
def RDO.PDAC_CFG_FSADJ : Fld := ⟨0x800, 0x4, 4, 4⟩
def RDO.PDAC_CFG_PD : Fld := ⟨0x800, 0x4, 8, 1⟩
def RDO.PDAC_CFG_SHIFT : Fld := ⟨0x800, 0x4, 9, 3⟩
def RDO.PDAC_STAT : Fld := ⟨0x804, 0x4, 0, 32⟩
def RDO.PDAC_STAT_SAT : Fld := ⟨0x804, 0x4, 0, 1⟩
def RDO.PDAC_STAT_READY : Fld := ⟨0x804, 0x4, 1, 1⟩
def RDO.PDAC_STAT_BAND_ANY : Fld := ⟨0x804, 0x4, 2, 1⟩
def RDO.PDAC_SAT_CNT : Fld := ⟨0x808, 0x4, 0, 32⟩
def RDO.PDAC_TRIM : Fld := ⟨0x80C, 0x4, 0, 32⟩
def RDO.PDAC_TRIM_TRIM_USE : Fld := ⟨0x80C, 0x4, 0, 8⟩
def RDO.PDAC_TRIM_LIM : Fld := ⟨0x80C, 0x4, 8, 1⟩
def RDO.PDAC_TRIM_SET_SEQ : Fld := ⟨0x80C, 0x4, 16, 16⟩
def RDO.ADC_CFG : Fld := ⟨0x840, 0x4, 0, 32⟩
def RDO.ADC_CFG_IL_EN : Fld := ⟨0x840, 0x4, 0, 1⟩
def RDO.ADC_CFG_PD : Fld := ⟨0x840, 0x4, 1, 1⟩
def RDO.ADC_STAT : Fld := ⟨0x844, 0x4, 0, 32⟩
def RDO.ADC_STAT_OVR : Fld := ⟨0x844, 0x4, 0, 1⟩
def RDO.ADC_STAT_READY : Fld := ⟨0x844, 0x4, 1, 1⟩
def RDO.ADC_OVR_CNT : Fld := ⟨0x848, 0x4, 0, 32⟩
def RDO.ADC_TRIM : Fld := ⟨0x84C, 0x4, 0, 32⟩
def RDO.ADC_TRIM_TRIM_USE : Fld := ⟨0x84C, 0x4, 0, 8⟩
def RDO.ADC_TRIM_LIM : Fld := ⟨0x84C, 0x4, 8, 1⟩
def RDO.ADC_TRIM_SET_SEQ : Fld := ⟨0x84C, 0x4, 16, 16⟩
def RDO.CHAN_STAT : Fld := ⟨0x860, 0x4, 0, 32⟩
def RDO.CHAN_STAT_READY : Fld := ⟨0x860, 0x4, 0, 1⟩
def RDO.BIN_USE : Fld := ⟨0x864, 0x4, 0, 32⟩
def RDO.WIN_CNT : Fld := ⟨0x870, 0x4, 0, 32⟩
def RDO.WIN_DROP_CNT : Fld := ⟨0x874, 0x4, 0, 32⟩
def RDO.ADC_IL : Fld := ⟨0x880, 0x4, 0, 32⟩
def RDO.ADC_IL_GAIN : Fld := ⟨0x880, 0x4, 0, 8⟩
def RDO.ADC_IL_OFFS : Fld := ⟨0x880, 0x4, 8, 8⟩
def RDO.ADC_IL_SKEW : Fld := ⟨0x880, 0x4, 16, 8⟩
def RDO.DEC_CFG : Fld := ⟨0xA00, 0x4, 0, 32⟩
def RDO.DEC_CFG_SLOT : Fld := ⟨0xA00, 0x4, 0, 9⟩
def RDO.DEC_CFG_PUB : Fld := ⟨0xA00, 0x4, 9, 1⟩
def RDO.DEC_CFG_STAT : Fld := ⟨0xA00, 0x4, 10, 1⟩
def RDO.DEC_CFG_PF_EN : Fld := ⟨0xA00, 0x4, 11, 1⟩
def RDO.DEC_CFG_PF_TILE : Fld := ⟨0xA00, 0x4, 12, 4⟩
def RDO.DEC_CFG_PF_TONE : Fld := ⟨0xA00, 0x4, 16, 4⟩
def RDO.DEC_CFG_PRE : Fld := ⟨0xA00, 0x4, 20, 1⟩
def RDO.DEC_CFG_CLS : Fld := ⟨0xA00, 0x4, 21, 3⟩
def RDO.DEC_CFG_HCORR : Fld := ⟨0xA00, 0x4, 24, 1⟩
def RDO.UNMIX_CFG : Fld := ⟨0xA80, 0x4, 0, 32⟩
def RDO.UNMIX_CFG_EN : Fld := ⟨0xA80, 0x4, 0, 1⟩
def RDO.UNMIX_CFG_MBASE : Fld := ⟨0xA80, 0x4, 3, 13⟩
def RDO.UNMIX_STAT : Fld := ⟨0xA84, 0x4, 0, 32⟩
def RDO.UNMIX_STAT_LOADING : Fld := ⟨0xA84, 0x4, 0, 1⟩
def RDO.UNMIX_STAT_SWAP_PEND : Fld := ⟨0xA84, 0x4, 1, 1⟩
def RDO.UNMIX_STAT_FAIL : Fld := ⟨0xA84, 0x4, 2, 1⟩
def RDO.UNMIX_STAT_MBASE_F : Fld := ⟨0xA84, 0x4, 3, 13⟩
def RDO.UNMIX_STAT_PART_CNT : Fld := ⟨0xA84, 0x4, 16, 16⟩
def RDO.RES_WP : Fld := ⟨0xA88, 0x4, 0, 32⟩
def RDO.RES_RP : Fld := ⟨0xA8C, 0x4, 0, 32⟩
def RDO.RES_STAT : Fld := ⟨0xA90, 0x4, 0, 32⟩
def RDO.RES_STAT_FILL : Fld := ⟨0xA90, 0x4, 0, 18⟩
def RDO.RES_STAT_DROP : Fld := ⟨0xA90, 0x4, 18, 1⟩
def RDO.RES_STAT_STAT_SAT : Fld := ⟨0xA90, 0x4, 19, 1⟩
def RDO.RES_DROP : Fld := ⟨0xA94, 0x4, 0, 32⟩
def RDO.RES_DROP2 : Fld := ⟨0xA98, 0x4, 0, 32⟩
def RDO.RES_DROP2_MIC : Fld := ⟨0xA98, 0x4, 0, 16⟩
def RDO.RES_DROP2_SS : Fld := ⟨0xA98, 0x4, 16, 16⟩
def RDO.RES_TH : Fld := ⟨0xA9C, 0x4, 0, 32⟩
def RDO.RES_TH_TH : Fld := ⟨0xA9C, 0x4, 0, 18⟩
def RDO.STAT_SEL : Fld := ⟨0xAA0, 0x1000000, 0, 32⟩
def RDO.STAT_SEL_TONE : Fld := ⟨0xAA0, 0x1000000, 0, 5⟩
def RDO.STAT_SEL_CLR_ALL : Fld := ⟨0xAA0, 0x1000000, 9, 1⟩
def RDO.ACC_CNT : Fld := ⟨0xAA4, 0x1000000, 0, 32⟩
def RDO.ACC_I_LO : Fld := ⟨0xAA8, 0x1000000, 0, 32⟩
def RDO.ACC_I_HI : Fld := ⟨0xAAC, 0x1000000, 0, 32⟩
def RDO.ACC_I_HI_I_H : Fld := ⟨0xAAC, 0x1000000, 0, 16⟩
def RDO.ACC_Q_LO : Fld := ⟨0xAB0, 0x1000000, 0, 32⟩
def RDO.ACC_Q_HI : Fld := ⟨0xAB4, 0x1000000, 0, 32⟩
def RDO.ACC_Q_HI_Q_H : Fld := ⟨0xAB4, 0x1000000, 0, 16⟩
def RDO.HIST : Fld := ⟨0xAB8, 0x4, 0, 32⟩
def RDO.DISC_SEL : Fld := ⟨0xB00, 0x1000000, 0, 32⟩
def RDO.DISC_SEL_TONE : Fld := ⟨0xB00, 0x1000000, 0, 5⟩
def RDO.DISC_SEL_VIEW : Fld := ⟨0xB00, 0x1000000, 8, 1⟩
def RDO.DISC_W0 : Fld := ⟨0xB04, 0x1000000, 0, 32⟩
def RDO.DISC_W0_C0_I : Fld := ⟨0xB04, 0x1000000, 0, 24⟩
def RDO.DISC_W0_LOWC_TH : Fld := ⟨0xB04, 0x1000000, 24, 8⟩
def RDO.DISC_W1 : Fld := ⟨0xB08, 0x1000000, 0, 32⟩
def RDO.DISC_W1_C0_Q : Fld := ⟨0xB08, 0x1000000, 0, 24⟩
def RDO.DISC_W1_LEAK_D : Fld := ⟨0xB08, 0x1000000, 24, 8⟩
def RDO.DISC_W2 : Fld := ⟨0xB0C, 0x1000000, 0, 32⟩
def RDO.DISC_W2_C1_I : Fld := ⟨0xB0C, 0x1000000, 0, 24⟩
def RDO.DISC_W2_SSH : Fld := ⟨0xB0C, 0x1000000, 24, 4⟩
def RDO.DISC_W3 : Fld := ⟨0xB10, 0x1000000, 0, 32⟩
def RDO.DISC_W3_C1_Q : Fld := ⟨0xB10, 0x1000000, 0, 24⟩
def RDO.DISC_W3_TRACK : Fld := ⟨0xB10, 0x1000000, 24, 1⟩
def RDO.DISC_W4 : Fld := ⟨0xB14, 0x1000000, 0, 32⟩
def RDO.DISC_W4_C2_I : Fld := ⟨0xB14, 0x1000000, 0, 24⟩
def RDO.DISC_W5 : Fld := ⟨0xB18, 0x1000000, 0, 32⟩
def RDO.DISC_W5_C2_Q : Fld := ⟨0xB18, 0x1000000, 0, 24⟩
def RDO.DISC_W6 : Fld := ⟨0xB1C, 0x1000000, 0, 32⟩
def RDO.DISC_W6_SPR0 : Fld := ⟨0xB1C, 0x1000000, 0, 16⟩
def RDO.DISC_W6_SPR1 : Fld := ⟨0xB1C, 0x1000000, 16, 16⟩
def RDO.DISC_W7 : Fld := ⟨0xB20, 0x1000000, 0, 32⟩
def RDO.DISC_W7_SPR2 : Fld := ⟨0xB20, 0x1000000, 0, 16⟩
def RDO.DISC_W7_SET_SEQ : Fld := ⟨0xB20, 0x1000000, 16, 16⟩

/-- The per-page fields of CAPS and STATUS on RDO pages. -/
def RDO.hdrRegs : List RegDesc := [
  ⟨0x008, 1, 0x4, [⟨RDO.CAPS_TONES, .ro, .l, 0x20⟩, ⟨RDO.CAPS_BINS, .ro, .l, 0x40⟩, ⟨RDO.CAPS_KSETS, .ro, .l, 4⟩]⟩,
  ⟨0x010, 1, 0x4, [⟨RDO.STATUS_OPEN, .ro, .l, 0⟩, ⟨RDO.STATUS_SETS, .ro, .l, 0⟩, ⟨RDO.STATUS_FULL, .ro, .l, 0⟩, ⟨RDO.STATUS_SWAP_PEND, .ro, .l, 0⟩]⟩]


/-- The block registers of RDO pages. -/
def RDO.regs : List RegDesc := [
  ⟨0x200, 32, 0x10, [⟨RDO.TONE_FTW_LO, .rw, .b, 0⟩]⟩,
  ⟨0x204, 32, 0x10, [⟨RDO.TONE_FTW_HI_FTW_H, .rw, .b, 0⟩]⟩,
  ⟨0x208, 32, 0x10, [⟨RDO.TONE_CFG_EN, .rw, .b, 0⟩, ⟨RDO.TONE_CFG_BAND, .ro, .l, 0⟩]⟩,
  ⟨0x20C, 32, 0x10, [⟨RDO.TONE_GAIN_GAIN, .rw, .b, 0x8000⟩, ⟨RDO.TONE_GAIN_SINC_C, .ro, .l, 0x8000⟩]⟩,
  ⟨0x400, 32, 0x10, [⟨RDO.RX_CFG_RX_EN, .rw, .b, 0⟩, ⟨RDO.RX_CFG_BIN, .rw, .s, 0⟩, ⟨RDO.RX_CFG_AGRP_MASK, .rw, .b, 0⟩]⟩,
  ⟨0x404, 32, 0x10, [⟨RDO.RX_WIN_WIN_OFF, .rw, .b, 0⟩]⟩,
  ⟨0x408, 32, 0x10, [⟨RDO.RX_STAT_OPEN, .ro, .l, 0⟩, ⟨RDO.RX_STAT_PEND, .ro, .l, 0⟩, ⟨RDO.RX_STAT_BIN_ERR, .ro, .l, 0⟩]⟩,
  ⟨0x600, 128, 0x4, [⟨RDO.KDESC_KBASE, .rw, .b, 0⟩, ⟨RDO.KDESC_BOX, .rw, .b, 0⟩, ⟨RDO.KDESC_KLEN, .rw, .b, 4⟩, ⟨RDO.KDESC_KSH, .rw, .b, 0⟩]⟩,
  ⟨0x800, 1, 0x4, [⟨RDO.PDAC_CFG_SINC_EN, .rw, .b, 0⟩, ⟨RDO.PDAC_CFG_FSADJ, .rw, .s, 0⟩, ⟨RDO.PDAC_CFG_PD, .rw, .s, 0⟩, ⟨RDO.PDAC_CFG_SHIFT, .rw, .b, 5⟩]⟩,
  ⟨0x804, 1, 0x4, [⟨RDO.PDAC_STAT_SAT, .w1c, .l, 0⟩, ⟨RDO.PDAC_STAT_READY, .ro, .l, 0⟩, ⟨RDO.PDAC_STAT_BAND_ANY, .ro, .l, 0⟩]⟩,
  ⟨0x808, 1, 0x4, [⟨RDO.PDAC_SAT_CNT, .ro, .l, 0⟩]⟩,
  ⟨0x80C, 1, 0x4, [⟨RDO.PDAC_TRIM_TRIM_USE, .ro, .l, 0⟩, ⟨RDO.PDAC_TRIM_LIM, .ro, .l, 0⟩, ⟨RDO.PDAC_TRIM_SET_SEQ, .ro, .l, 0⟩]⟩,
  ⟨0x840, 1, 0x4, [⟨RDO.ADC_CFG_IL_EN, .rw, .b, 1⟩, ⟨RDO.ADC_CFG_PD, .rw, .s, 0⟩]⟩,
  ⟨0x844, 1, 0x4, [⟨RDO.ADC_STAT_OVR, .w1c, .l, 0⟩, ⟨RDO.ADC_STAT_READY, .ro, .l, 0⟩]⟩,
  ⟨0x848, 1, 0x4, [⟨RDO.ADC_OVR_CNT, .ro, .l, 0⟩]⟩,
  ⟨0x84C, 1, 0x4, [⟨RDO.ADC_TRIM_TRIM_USE, .ro, .l, 0⟩, ⟨RDO.ADC_TRIM_LIM, .ro, .l, 0⟩, ⟨RDO.ADC_TRIM_SET_SEQ, .ro, .l, 0⟩]⟩,
  ⟨0x860, 1, 0x4, [⟨RDO.CHAN_STAT_READY, .ro, .l, 0⟩]⟩,
  ⟨0x864, 1, 0x4, [⟨RDO.BIN_USE, .ro, .l, 0⟩]⟩,
  ⟨0x870, 1, 0x4, [⟨RDO.WIN_CNT, .ro, .l, 0⟩]⟩,
  ⟨0x874, 1, 0x4, [⟨RDO.WIN_DROP_CNT, .ro, .l, 0⟩]⟩,
  ⟨0x880, 16, 0x4, [⟨RDO.ADC_IL_GAIN, .ro, .l, 0⟩, ⟨RDO.ADC_IL_OFFS, .ro, .l, 0⟩, ⟨RDO.ADC_IL_SKEW, .ro, .l, 0⟩]⟩,
  ⟨0xA00, 32, 0x4, [⟨RDO.DEC_CFG_SLOT, .rw, .b, 0⟩, ⟨RDO.DEC_CFG_PUB, .rw, .b, 0⟩, ⟨RDO.DEC_CFG_STAT, .rw, .b, 0⟩, ⟨RDO.DEC_CFG_PF_EN, .rw, .b, 0⟩, ⟨RDO.DEC_CFG_PF_TILE, .rw, .b, 0⟩, ⟨RDO.DEC_CFG_PF_TONE, .rw, .b, 0⟩, ⟨RDO.DEC_CFG_PRE, .rw, .b, 0⟩, ⟨RDO.DEC_CFG_CLS, .rw, .b, 7⟩, ⟨RDO.DEC_CFG_HCORR, .rw, .b, 0⟩]⟩,
  ⟨0xA80, 1, 0x4, [⟨RDO.UNMIX_CFG_EN, .rw, .b, 0⟩, ⟨RDO.UNMIX_CFG_MBASE, .rw, .b, 0⟩]⟩,
  ⟨0xA84, 1, 0x4, [⟨RDO.UNMIX_STAT_LOADING, .ro, .l, 0⟩, ⟨RDO.UNMIX_STAT_SWAP_PEND, .ro, .l, 0⟩, ⟨RDO.UNMIX_STAT_FAIL, .w1c, .l, 0⟩, ⟨RDO.UNMIX_STAT_MBASE_F, .ro, .l, 0⟩, ⟨RDO.UNMIX_STAT_PART_CNT, .ro, .l, 0⟩]⟩,
  ⟨0xA88, 1, 0x4, [⟨RDO.RES_WP, .ro, .l, 0⟩]⟩,
  ⟨0xA8C, 1, 0x4, [⟨RDO.RES_RP, .rw, .l, 0⟩]⟩,
  ⟨0xA90, 1, 0x4, [⟨RDO.RES_STAT_FILL, .ro, .l, 0⟩, ⟨RDO.RES_STAT_DROP, .w1c, .l, 0⟩, ⟨RDO.RES_STAT_STAT_SAT, .w1c, .l, 0⟩]⟩,
  ⟨0xA94, 1, 0x4, [⟨RDO.RES_DROP, .ro, .l, 0⟩]⟩,
  ⟨0xA98, 1, 0x4, [⟨RDO.RES_DROP2_MIC, .ro, .l, 0⟩, ⟨RDO.RES_DROP2_SS, .ro, .l, 0⟩]⟩,
  ⟨0xA9C, 1, 0x4, [⟨RDO.RES_TH_TH, .rw, .l, 0⟩]⟩,
  ⟨0xAA0, 2, 0x1000000, [⟨RDO.STAT_SEL_TONE, .rw, .l, 0⟩, ⟨RDO.STAT_SEL_CLR_ALL, .wo, .l, 0⟩]⟩,
  ⟨0xAA4, 32, 0x1000000, [⟨RDO.ACC_CNT, .rc, .l, 0⟩]⟩,
  ⟨0xAA8, 2, 0x1000000, [⟨RDO.ACC_I_LO, .ro, .l, 0⟩]⟩,
  ⟨0xAAC, 2, 0x1000000, [⟨RDO.ACC_I_HI_I_H, .ro, .l, 0⟩]⟩,
  ⟨0xAB0, 2, 0x1000000, [⟨RDO.ACC_Q_LO, .ro, .l, 0⟩]⟩,
  ⟨0xAB4, 2, 0x1000000, [⟨RDO.ACC_Q_HI_Q_H, .ro, .l, 0⟩]⟩,
  ⟨0xAB8, 4, 0x4, [⟨RDO.HIST, .rc, .l, 0⟩]⟩,
  ⟨0xB00, 2, 0x1000000, [⟨RDO.DISC_SEL_TONE, .rw, .l, 0⟩, ⟨RDO.DISC_SEL_VIEW, .rw, .l, 0⟩]⟩,
  ⟨0xB04, 64, 0x1000000, [⟨RDO.DISC_W0_C0_I, .rw, .b, 0⟩, ⟨RDO.DISC_W0_LOWC_TH, .rw, .b, 0⟩]⟩,
  ⟨0xB08, 64, 0x1000000, [⟨RDO.DISC_W1_C0_Q, .rw, .b, 0⟩, ⟨RDO.DISC_W1_LEAK_D, .rw, .b, 0⟩]⟩,
  ⟨0xB0C, 64, 0x1000000, [⟨RDO.DISC_W2_C1_I, .rw, .b, 0⟩, ⟨RDO.DISC_W2_SSH, .rw, .b, 0⟩]⟩,
  ⟨0xB10, 64, 0x1000000, [⟨RDO.DISC_W3_C1_Q, .rw, .b, 0⟩, ⟨RDO.DISC_W3_TRACK, .rw, .b, 0⟩]⟩,
  ⟨0xB14, 64, 0x1000000, [⟨RDO.DISC_W4_C2_I, .rw, .b, 0⟩]⟩,
  ⟨0xB18, 64, 0x1000000, [⟨RDO.DISC_W5_C2_Q, .rw, .b, 0⟩]⟩,
  ⟨0xB1C, 64, 0x1000000, [⟨RDO.DISC_W6_SPR0, .rw, .b, 0⟩, ⟨RDO.DISC_W6_SPR1, .rw, .b, 0⟩]⟩,
  ⟨0xB20, 64, 0x1000000, [⟨RDO.DISC_W7_SPR2, .rw, .b, 0⟩, ⟨RDO.DISC_W7_SET_SEQ, .ro, .l, 0⟩]⟩]


/-! ### FLX page -/

def FLX.CAPS_OUTS : Fld := ⟨0x008, 0x4, 0, 8⟩
def FLX.CAPS_IIR : Fld := ⟨0x008, 0x4, 8, 4⟩
def FLX.CAPS_ENV_KIB : Fld := ⟨0x008, 0x4, 16, 16⟩
def FLX.STATUS_SWAP_PEND : Fld := ⟨0x010, 0x4, 8, 16⟩
def FLX.OUT_CFG : Fld := ⟨0x200, 0x10, 0, 32⟩
def FLX.OUT_CFG_EN : Fld := ⟨0x200, 0x10, 0, 1⟩
def FLX.OUT_CFG_PD : Fld := ⟨0x200, 0x10, 1, 1⟩
def FLX.OUT_CFG_RANGE : Fld := ⟨0x200, 0x10, 2, 2⟩
def FLX.OUT_CFG_BANK : Fld := ⟨0x200, 0x10, 4, 1⟩
def FLX.OUT_CFG_CORR_EN : Fld := ⟨0x200, 0x10, 5, 1⟩
def FLX.OUT_LVL : Fld := ⟨0x204, 0x10, 0, 32⟩
def FLX.OUT_LVL_GAIN : Fld := ⟨0x204, 0x10, 0, 16⟩
def FLX.OUT_LVL_LIM : Fld := ⟨0x204, 0x10, 16, 15⟩
def FLX.OUT_TRIM : Fld := ⟨0x208, 0x10, 0, 32⟩
def FLX.OUT_TRIM_OFFS : Fld := ⟨0x208, 0x10, 0, 16⟩
def FLX.OUT_TRIM_GTRIM : Fld := ⟨0x208, 0x10, 16, 16⟩
def FLX.OUT_STAT : Fld := ⟨0x20C, 0x10, 0, 32⟩
def FLX.OUT_STAT_SAT : Fld := ⟨0x20C, 0x10, 0, 1⟩
def FLX.OUT_STAT_SHORT : Fld := ⟨0x20C, 0x10, 1, 1⟩
def FLX.OUT_STAT_LOADING : Fld := ⟨0x20C, 0x10, 2, 1⟩
def FLX.OUT_STAT_FAIL : Fld := ⟨0x20C, 0x10, 3, 1⟩
def FLX.OUT_STAT_BANK_F : Fld := ⟨0x20C, 0x10, 4, 1⟩
def FLX.OUT_SAT_CNT : Fld := ⟨0x300, 0x4, 0, 32⟩
def FLX.FLX_STAT : Fld := ⟨0x340, 0x4, 0, 32⟩
def FLX.FLX_STAT_READY : Fld := ⟨0x340, 0x4, 0, 1⟩
def FLX.FLX_STAT_TRIM_USE : Fld := ⟨0x340, 0x4, 8, 8⟩
def FLX.FLX_STAT_LIM : Fld := ⟨0x340, 0x4, 16, 1⟩

/-- The per-page fields of CAPS and STATUS on FLX pages. -/
def FLX.hdrRegs : List RegDesc := [
  ⟨0x008, 1, 0x4, [⟨FLX.CAPS_OUTS, .ro, .l, 0x10⟩, ⟨FLX.CAPS_IIR, .ro, .l, 4⟩, ⟨FLX.CAPS_ENV_KIB, .ro, .l, 0x400⟩]⟩,
  ⟨0x010, 1, 0x4, [⟨FLX.STATUS_SWAP_PEND, .ro, .l, 0⟩]⟩]


/-- The block registers of FLX pages. -/
def FLX.regs : List RegDesc := [
  ⟨0x200, 16, 0x10, [⟨FLX.OUT_CFG_EN, .rw, .b, 0⟩, ⟨FLX.OUT_CFG_PD, .rw, .s, 0⟩, ⟨FLX.OUT_CFG_RANGE, .rw, .s, 0⟩, ⟨FLX.OUT_CFG_BANK, .rw, .b, 0⟩, ⟨FLX.OUT_CFG_CORR_EN, .rw, .b, 0⟩]⟩,
  ⟨0x204, 16, 0x10, [⟨FLX.OUT_LVL_GAIN, .rw, .b, 0x8000⟩, ⟨FLX.OUT_LVL_LIM, .rw, .b, 0⟩]⟩,
  ⟨0x208, 16, 0x10, [⟨FLX.OUT_TRIM_OFFS, .ro, .l, 0⟩, ⟨FLX.OUT_TRIM_GTRIM, .ro, .l, 0⟩]⟩,
  ⟨0x20C, 16, 0x10, [⟨FLX.OUT_STAT_SAT, .w1c, .l, 0⟩, ⟨FLX.OUT_STAT_SHORT, .w1c, .l, 0⟩, ⟨FLX.OUT_STAT_LOADING, .ro, .l, 0⟩, ⟨FLX.OUT_STAT_FAIL, .w1c, .l, 0⟩, ⟨FLX.OUT_STAT_BANK_F, .ro, .l, 0⟩]⟩,
  ⟨0x300, 16, 0x4, [⟨FLX.OUT_SAT_CNT, .ro, .l, 0⟩]⟩,
  ⟨0x340, 1, 0x4, [⟨FLX.FLX_STAT_READY, .ro, .l, 0⟩, ⟨FLX.FLX_STAT_TRIM_USE, .ro, .l, 0⟩, ⟨FLX.FLX_STAT_LIM, .ro, .l, 0⟩]⟩]


/-! ### JDX page -/

def JDX.CAPS_LANES : Fld := ⟨0x008, 0x4, 0, 4⟩
def JDX.CAPS_RATE : Fld := ⟨0x008, 0x4, 8, 8⟩
def JDX.CAPS_MAIN : Fld := ⟨0x008, 0x4, 16, 1⟩
def JDX.CAPS_FB : Fld := ⟨0x008, 0x4, 17, 1⟩
def JDX.STATUS_STATE : Fld := ⟨0x010, 0x4, 8, 3⟩
def JDX.STATUS_FBM : Fld := ⟨0x010, 0x4, 11, 1⟩
def JDX.STATUS_LOCK0 : Fld := ⟨0x010, 0x4, 12, 1⟩
def JDX.STATUS_LOCK1 : Fld := ⟨0x010, 0x4, 13, 1⟩
def JDX.STATUS_LANE_SWAP : Fld := ⟨0x010, 0x4, 14, 1⟩
def JDX.STATUS_POL0 : Fld := ⟨0x010, 0x4, 15, 1⟩
def JDX.STATUS_POL1 : Fld := ⟨0x010, 0x4, 16, 1⟩
def JDX.STATUS_PEER_IDLE : Fld := ⟨0x010, 0x4, 17, 1⟩
def JDX.STATUS_DLY_WARN : Fld := ⟨0x010, 0x4, 18, 1⟩
def JDX.PORT_CFG : Fld := ⟨0x040, 0x4, 0, 32⟩
def JDX.PORT_CFG_AUTO : Fld := ⟨0x040, 0x4, 0, 1⟩
def JDX.PORT_CFG_MODE : Fld := ⟨0x040, 0x4, 1, 2⟩
def JDX.PORT_CTL : Fld := ⟨0x044, 0x4, 0, 32⟩
def JDX.PORT_CTL_TRAIN : Fld := ⟨0x044, 0x4, 0, 1⟩
def JDX.PORT_CTL_IDLE_ENTER : Fld := ⟨0x044, 0x4, 1, 1⟩
def JDX.PORT_CTL_IDLE_EXIT : Fld := ⟨0x044, 0x4, 2, 1⟩
def JDX.PORT_CTL_ACTIVATE : Fld := ⟨0x044, 0x4, 3, 1⟩
def JDX.LINK_LAT : Fld := ⟨0x048, 0x4, 0, 32⟩
def JDX.LINK_LAT_FH : Fld := ⟨0x048, 0x4, 0, 6⟩
def JDX.LINK_LAT_MEAN : Fld := ⟨0x048, 0x4, 16, 16⟩
def JDX.LOOP_APP : Fld := ⟨0x04C, 0x4, 0, 32⟩
def JDX.LOOP_APP_APP : Fld := ⟨0x04C, 0x4, 0, 16⟩
def JDX.LOOP_APP_ID : Fld := ⟨0x04C, 0x4, 16, 7⟩
def JDX.MARGIN : Fld := ⟨0x050, 0x4, 0, 32⟩
def JDX.MARGIN_M0 : Fld := ⟨0x050, 0x4, 0, 6⟩
def JDX.MARGIN_M1 : Fld := ⟨0x050, 0x4, 8, 6⟩
def JDX.MARGIN_TH : Fld := ⟨0x050, 0x4, 16, 6⟩
def JDX.LANE_SKEW : Fld := ⟨0x054, 0x4, 0, 32⟩
def JDX.LANE_SKEW_SKEW : Fld := ⟨0x054, 0x4, 0, 11⟩
def JDX.HDR_ERR : Fld := ⟨0x058, 0x4, 0, 32⟩
def JDX.DEC_CRC_CNT : Fld := ⟨0x060, 0x4, 0, 32⟩
def JDX.UNK_CNT : Fld := ⟨0x064, 0x4, 0, 32⟩
def JDX.UNK_CNT_SEQ_ERR : Fld := ⟨0x064, 0x4, 0, 16⟩
def JDX.UNK_CNT_UNK_TYPE : Fld := ⟨0x064, 0x4, 16, 16⟩
def JDX.RX_CNT : Fld := ⟨0x068, 0x4, 0, 32⟩
def JDX.RX_CNT_RX_LATE : Fld := ⟨0x068, 0x4, 0, 16⟩
def JDX.RX_CNT_EGR_DROP : Fld := ⟨0x068, 0x4, 16, 16⟩
def JDX.TRAIN_CNT : Fld := ⟨0x06C, 0x4, 0, 32⟩
def JDX.TRAIN_CNT_RETRAIN : Fld := ⟨0x06C, 0x4, 0, 16⟩
def JDX.TRAIN_CNT_LOL : Fld := ⟨0x06C, 0x4, 16, 16⟩
def JDX.FILL_CNT : Fld := ⟨0x070, 0x4, 0, 32⟩
def JDX.FILL_CNT_FILL_DEL : Fld := ⟨0x070, 0x4, 0, 16⟩
def JDX.FILL_CNT_FILL_INS : Fld := ⟨0x070, 0x4, 16, 16⟩
def JDX.MGMT_DROP : Fld := ⟨0x074, 0x4, 0, 32⟩

/-- The per-page fields of CAPS and STATUS on JDX pages. -/
def JDX.hdrRegs : List RegDesc := [
  ⟨0x008, 1, 0x4, [⟨JDX.CAPS_LANES, .ro, .l, 2⟩, ⟨JDX.CAPS_RATE, .ro, .l, 0x20⟩, ⟨JDX.CAPS_MAIN, .ro, .l, 1⟩, ⟨JDX.CAPS_FB, .ro, .l, 1⟩]⟩,
  ⟨0x010, 1, 0x4, [⟨JDX.STATUS_STATE, .ro, .l, 1⟩, ⟨JDX.STATUS_FBM, .ro, .l, 0⟩, ⟨JDX.STATUS_LOCK0, .ro, .l, 0⟩, ⟨JDX.STATUS_LOCK1, .ro, .l, 0⟩, ⟨JDX.STATUS_LANE_SWAP, .ro, .l, 0⟩, ⟨JDX.STATUS_POL0, .ro, .l, 0⟩, ⟨JDX.STATUS_POL1, .ro, .l, 0⟩, ⟨JDX.STATUS_PEER_IDLE, .ro, .l, 0⟩, ⟨JDX.STATUS_DLY_WARN, .w1c, .l, 0⟩]⟩]


/-- The block registers of JDX pages. -/
def JDX.regs : List RegDesc := [
  ⟨0x040, 1, 0x4, [⟨JDX.PORT_CFG_AUTO, .rw, .l, 1⟩, ⟨JDX.PORT_CFG_MODE, .rw, .s, 0⟩]⟩,
  ⟨0x044, 1, 0x4, [⟨JDX.PORT_CTL_TRAIN, .wo, .l, 0⟩, ⟨JDX.PORT_CTL_IDLE_ENTER, .wo, .l, 0⟩, ⟨JDX.PORT_CTL_IDLE_EXIT, .wo, .l, 0⟩, ⟨JDX.PORT_CTL_ACTIVATE, .wo, .l, 0⟩]⟩,
  ⟨0x048, 1, 0x4, [⟨JDX.LINK_LAT_FH, .rw, .s, 0⟩, ⟨JDX.LINK_LAT_MEAN, .ro, .l, 0⟩]⟩,
  ⟨0x04C, 1, 0x4, [⟨JDX.LOOP_APP_APP, .ro, .l, 0⟩, ⟨JDX.LOOP_APP_ID, .ro, .l, 0⟩]⟩,
  ⟨0x050, 1, 0x4, [⟨JDX.MARGIN_M0, .ro, .l, 0⟩, ⟨JDX.MARGIN_M1, .ro, .l, 0⟩, ⟨JDX.MARGIN_TH, .rw, .l, 8⟩]⟩,
  ⟨0x054, 1, 0x4, [⟨JDX.LANE_SKEW_SKEW, .ro, .l, 0⟩]⟩,
  ⟨0x058, 2, 0x4, [⟨JDX.HDR_ERR, .ro, .l, 0⟩]⟩,
  ⟨0x060, 1, 0x4, [⟨JDX.DEC_CRC_CNT, .ro, .l, 0⟩]⟩,
  ⟨0x064, 1, 0x4, [⟨JDX.UNK_CNT_SEQ_ERR, .ro, .l, 0⟩, ⟨JDX.UNK_CNT_UNK_TYPE, .ro, .l, 0⟩]⟩,
  ⟨0x068, 1, 0x4, [⟨JDX.RX_CNT_RX_LATE, .ro, .l, 0⟩, ⟨JDX.RX_CNT_EGR_DROP, .ro, .l, 0⟩]⟩,
  ⟨0x06C, 1, 0x4, [⟨JDX.TRAIN_CNT_RETRAIN, .ro, .l, 0⟩, ⟨JDX.TRAIN_CNT_LOL, .ro, .l, 0⟩]⟩,
  ⟨0x070, 1, 0x4, [⟨JDX.FILL_CNT_FILL_DEL, .ro, .l, 0⟩, ⟨JDX.FILL_CNT_FILL_INS, .ro, .l, 0⟩]⟩,
  ⟨0x074, 1, 0x4, [⟨JDX.MGMT_DROP, .ro, .l, 0⟩]⟩]


/-! ### CST page -/

def CST.CAPS_MAXDEV : Fld := ⟨0x008, 0x4, 0, 6⟩
def CST.CAPS_DIAM : Fld := ⟨0x008, 0x4, 8, 4⟩
def CST.STATUS_JOINED : Fld := ⟨0x010, 0x4, 8, 1⟩
def CST.STATUS_NDEV : Fld := ⟨0x010, 0x4, 9, 6⟩
def CST.STATUS_CONFLICT : Fld := ⟨0x010, 0x4, 15, 1⟩
def CST.STATUS_FULL : Fld := ⟨0x010, 0x4, 16, 1⟩
def CST.STATUS_DIAM : Fld := ⟨0x010, 0x4, 17, 1⟩
def CST.STATUS_TR_CONF : Fld := ⟨0x010, 0x4, 18, 1⟩
def CST.ID_CFG : Fld := ⟨0x040, 0x4, 0, 32⟩
def CST.ID_CFG_NUM : Fld := ⟨0x040, 0x4, 0, 5⟩
def CST.ID_CFG_AUTO : Fld := ⟨0x040, 0x4, 5, 1⟩
def CST.ID_CFG_NUM_F : Fld := ⟨0x040, 0x4, 8, 5⟩
def CST.UID_LO : Fld := ⟨0x044, 0x4, 0, 32⟩
def CST.UID_HI : Fld := ⟨0x048, 0x4, 0, 32⟩
def CST.TIME_CFG : Fld := ⟨0x04C, 0x4, 0, 32⟩
def CST.TIME_CFG_FOLLOW : Fld := ⟨0x04C, 0x4, 0, 1⟩
def CST.TIME_CFG_TROOT : Fld := ⟨0x04C, 0x4, 1, 1⟩
def CST.TIME_STAT : Fld := ⟨0x050, 0x4, 0, 32⟩
def CST.TIME_STAT_PORT : Fld := ⟨0x050, 0x4, 0, 3⟩
def CST.TIME_STAT_PARENT : Fld := ⟨0x050, 0x4, 3, 5⟩
def CST.TIME_STAT_DEPTH : Fld := ⟨0x050, 0x4, 8, 3⟩
def CST.TIME_STAT_VALID : Fld := ⟨0x050, 0x4, 11, 1⟩
def CST.TIME_STAT_RESID : Fld := ⟨0x050, 0x4, 16, 8⟩
def CST.TSRC_DLY : Fld := ⟨0x054, 0x4, 0, 32⟩
def CST.TSRC_DLY_D : Fld := ⟨0x054, 0x4, 0, 16⟩
def CST.TOPO_GEN : Fld := ⟨0x058, 0x4, 0, 32⟩
def CST.RT_CFG : Fld := ⟨0x05C, 0x4, 0, 32⟩
def CST.RT_CFG_REPAIR : Fld := ⟨0x05C, 0x4, 0, 1⟩
def CST.RT_CFG_HOLD : Fld := ⟨0x05C, 0x4, 8, 8⟩
def CST.RQ_SLOT : Fld := ⟨0x060, 0x1000000, 0, 32⟩
def CST.RQ_SLOT_SLOT : Fld := ⟨0x060, 0x1000000, 0, 9⟩
def CST.RQ_DEST : Fld := ⟨0x064, 0x1000000, 0, 32⟩
def CST.RQ_CTL : Fld := ⟨0x068, 0x1000000, 0, 32⟩
def CST.RQ_CTL_OP : Fld := ⟨0x068, 0x1000000, 0, 2⟩
def CST.RQ_CTL_NDET_OK : Fld := ⟨0x068, 0x1000000, 2, 1⟩
def CST.RQ_CTL_AUTO_SLOT : Fld := ⟨0x068, 0x1000000, 3, 1⟩
def CST.RQ_CTL_GO : Fld := ⟨0x068, 0x1000000, 31, 1⟩
def CST.RQ_STAT : Fld := ⟨0x06C, 0x1000000, 0, 32⟩
def CST.RQ_STAT_BUSY : Fld := ⟨0x06C, 0x1000000, 0, 1⟩
def CST.RQ_STAT_DONE : Fld := ⟨0x06C, 0x1000000, 1, 1⟩
def CST.RQ_STAT_RESULT : Fld := ⟨0x06C, 0x1000000, 2, 4⟩
def CST.RQ_STAT_GSLOT : Fld := ⟨0x06C, 0x1000000, 6, 9⟩
def CST.RQ_STAT_PART : Fld := ⟨0x06C, 0x1000000, 15, 1⟩
def CST.RQ_STAT_LAT : Fld := ⟨0x06C, 0x1000000, 16, 16⟩
def CST.TOPO_SEL : Fld := ⟨0x080, 0x1000000, 0, 32⟩
def CST.TOPO_SEL_NUM : Fld := ⟨0x080, 0x1000000, 0, 5⟩
def CST.DEV_INFO : Fld := ⟨0x084, 0x4, 0, 32⟩
def CST.DEV_INFO_PRESENT : Fld := ⟨0x084, 0x4, 0, 1⟩
def CST.DEV_INFO_FAR : Fld := ⟨0x084, 0x4, 1, 1⟩
def CST.DEV_INFO_HOPS : Fld := ⟨0x084, 0x4, 2, 3⟩
def CST.DEV_INFO_NEXT : Fld := ⟨0x084, 0x4, 5, 3⟩
def CST.DEV_INFO_FLAGS : Fld := ⟨0x084, 0x4, 8, 8⟩
def CST.DEV_INFO_LSA_SEQ : Fld := ⟨0x084, 0x4, 16, 16⟩
def CST.DEV_UID_LO : Fld := ⟨0x088, 0x4, 0, 32⟩
def CST.DEV_UID_HI : Fld := ⟨0x08C, 0x4, 0, 32⟩
def CST.MSG_CNT : Fld := ⟨0x090, 0x4, 0, 32⟩
def CST.MSG_CNT_UNK : Fld := ⟨0x090, 0x4, 0, 16⟩
def CST.MSG_CNT_FWD : Fld := ⟨0x090, 0x4, 16, 16⟩
def CST.PORT_NB : Fld := ⟨0x094, 0x4, 0, 32⟩

/-- The per-page fields of CAPS and STATUS on CST pages. -/
def CST.hdrRegs : List RegDesc := [
  ⟨0x008, 1, 0x4, [⟨CST.CAPS_MAXDEV, .ro, .l, 0x20⟩, ⟨CST.CAPS_DIAM, .ro, .l, 4⟩]⟩,
  ⟨0x010, 1, 0x4, [⟨CST.STATUS_JOINED, .ro, .l, 0⟩, ⟨CST.STATUS_NDEV, .ro, .l, 0⟩, ⟨CST.STATUS_CONFLICT, .w1c, .l, 0⟩, ⟨CST.STATUS_FULL, .ro, .l, 0⟩, ⟨CST.STATUS_DIAM, .ro, .l, 0⟩, ⟨CST.STATUS_TR_CONF, .ro, .l, 0⟩]⟩]


/-- The block registers of CST pages. -/
def CST.regs : List RegDesc := [
  ⟨0x040, 1, 0x4, [⟨CST.ID_CFG_NUM, .rw, .s, 0⟩, ⟨CST.ID_CFG_AUTO, .rw, .s, 1⟩, ⟨CST.ID_CFG_NUM_F, .ro, .l, 0⟩]⟩,
  ⟨0x044, 1, 0x4, [⟨CST.UID_LO, .ro, .l, 0⟩]⟩,
  ⟨0x048, 1, 0x4, [⟨CST.UID_HI, .ro, .l, 0⟩]⟩,
  ⟨0x04C, 1, 0x4, [⟨CST.TIME_CFG_FOLLOW, .rw, .l, 1⟩, ⟨CST.TIME_CFG_TROOT, .rw, .l, 0⟩]⟩,
  ⟨0x050, 1, 0x4, [⟨CST.TIME_STAT_PORT, .ro, .l, 0⟩, ⟨CST.TIME_STAT_PARENT, .ro, .l, 0⟩, ⟨CST.TIME_STAT_DEPTH, .ro, .l, 0⟩, ⟨CST.TIME_STAT_VALID, .ro, .l, 0⟩, ⟨CST.TIME_STAT_RESID, .ro, .l, 0⟩]⟩,
  ⟨0x054, 1, 0x4, [⟨CST.TSRC_DLY_D, .ro, .l, 0⟩]⟩,
  ⟨0x058, 1, 0x4, [⟨CST.TOPO_GEN, .ro, .l, 0⟩]⟩,
  ⟨0x05C, 1, 0x4, [⟨CST.RT_CFG_REPAIR, .rw, .l, 1⟩, ⟨CST.RT_CFG_HOLD, .rw, .l, 0x64⟩]⟩,
  ⟨0x060, 2, 0x1000000, [⟨CST.RQ_SLOT_SLOT, .rw, .l, 0⟩]⟩,
  ⟨0x064, 2, 0x1000000, [⟨CST.RQ_DEST, .rw, .l, 0⟩]⟩,
  ⟨0x068, 2, 0x1000000, [⟨CST.RQ_CTL_OP, .rw, .l, 0⟩, ⟨CST.RQ_CTL_NDET_OK, .rw, .l, 0⟩, ⟨CST.RQ_CTL_AUTO_SLOT, .rw, .l, 0⟩, ⟨CST.RQ_CTL_GO, .wo, .l, 0⟩]⟩,
  ⟨0x06C, 2, 0x1000000, [⟨CST.RQ_STAT_BUSY, .ro, .l, 0⟩, ⟨CST.RQ_STAT_DONE, .w1c, .l, 0⟩, ⟨CST.RQ_STAT_RESULT, .ro, .l, 0⟩, ⟨CST.RQ_STAT_GSLOT, .ro, .l, 0⟩, ⟨CST.RQ_STAT_PART, .ro, .l, 0⟩, ⟨CST.RQ_STAT_LAT, .ro, .l, 0⟩]⟩,
  ⟨0x080, 2, 0x1000000, [⟨CST.TOPO_SEL_NUM, .rw, .l, 0⟩]⟩,
  ⟨0x084, 1, 0x4, [⟨CST.DEV_INFO_PRESENT, .ro, .l, 0⟩, ⟨CST.DEV_INFO_FAR, .ro, .l, 0⟩, ⟨CST.DEV_INFO_HOPS, .ro, .l, 0⟩, ⟨CST.DEV_INFO_NEXT, .ro, .l, 0⟩, ⟨CST.DEV_INFO_FLAGS, .ro, .l, 0⟩, ⟨CST.DEV_INFO_LSA_SEQ, .ro, .l, 0⟩]⟩,
  ⟨0x088, 1, 0x4, [⟨CST.DEV_UID_LO, .ro, .l, 0⟩]⟩,
  ⟨0x08C, 1, 0x4, [⟨CST.DEV_UID_HI, .ro, .l, 0⟩]⟩,
  ⟨0x090, 1, 0x4, [⟨CST.MSG_CNT_UNK, .ro, .l, 0⟩, ⟨CST.MSG_CNT_FWD, .ro, .l, 0⟩]⟩,
  ⟨0x094, 1, 0x4, [⟨CST.PORT_NB, .ro, .l, 0⟩]⟩]


/-! ### CAL page -/

def CAL.CAPS_SLOTS : Fld := ⟨0x008, 0x4, 0, 4⟩
def CAL.CAPS_ITEMS : Fld := ⟨0x008, 0x4, 4, 4⟩
def CAL.STATUS_STALE_ANY : Fld := ⟨0x010, 0x4, 8, 1⟩
def CAL.STATUS_STORE_BUSY : Fld := ⟨0x010, 0x4, 9, 1⟩
def CAL.CAL_CTL : Fld := ⟨0x040, 0x4, 0, 32⟩
def CAL.CAL_CTL_EN_ADC : Fld := ⟨0x040, 0x4, 0, 1⟩
def CAL.CAL_CTL_EN_DAC : Fld := ⟨0x040, 0x4, 1, 1⟩
def CAL.CAL_CTL_EN_DISC : Fld := ⟨0x040, 0x4, 2, 1⟩
def CAL.CAL_CTL_EN_SKEW : Fld := ⟨0x040, 0x4, 3, 1⟩
def CAL.CAL_CTL_STORE : Fld := ⟨0x040, 0x4, 8, 1⟩
def CAL.CAL_REQ : Fld := ⟨0x044, 0x4, 0, 32⟩
def CAL.CAL_DT : Fld := ⟨0x048, 0x4, 0, 32⟩
def CAL.CAL_DT_DT : Fld := ⟨0x048, 0x4, 0, 12⟩
def CAL.CAL_STALE : Fld := ⟨0x04C, 0x4, 0, 32⟩
def CAL.CAL_STALE_LIMIT : Fld := ⟨0x04C, 0x4, 0, 16⟩
def CAL.DISC_CFG : Fld := ⟨0x050, 0x4, 0, 32⟩
def CAL.DISC_CFG_FG : Fld := ⟨0x050, 0x4, 0, 4⟩
def CAL.DISC_CFG_NP : Fld := ⟨0x050, 0x4, 4, 4⟩
def CAL.DISC_CFG_CONF_MIN : Fld := ⟨0x050, 0x4, 8, 8⟩
def CAL.DISC_CFG_SEP_MIN : Fld := ⟨0x050, 0x4, 16, 8⟩
def CAL.DISC_CFG_MOVE : Fld := ⟨0x050, 0x4, 24, 8⟩
def CAL.DISC_LIM : Fld := ⟨0x054, 0x4, 0, 32⟩
def CAL.DISC_LIM_POP_MIN : Fld := ⟨0x054, 0x4, 0, 8⟩
def CAL.DISC_LIM_OUT_MAX : Fld := ⟨0x054, 0x4, 8, 8⟩
def CAL.DISC_LIM_RATIO : Fld := ⟨0x054, 0x4, 16, 8⟩
def CAL.CONV_LIM : Fld := ⟨0x058, 0x4, 0, 32⟩
def CAL.CONV_LIM_ADC_GMOVE : Fld := ⟨0x058, 0x4, 0, 4⟩
def CAL.CONV_LIM_ADC_OMOVE : Fld := ⟨0x058, 0x4, 4, 4⟩
def CAL.CONV_LIM_ADC_SMOVE : Fld := ⟨0x058, 0x4, 8, 4⟩
def CAL.CONV_LIM_DAC_MOVE : Fld := ⟨0x058, 0x4, 12, 4⟩
def CAL.CONV_LIM_FLX_MOVE : Fld := ⟨0x058, 0x4, 16, 8⟩
def CAL.CONV_LIM_SKEW_MOVE : Fld := ⟨0x058, 0x4, 24, 8⟩
def CAL.TP : Fld := ⟨0x060, 0x4, 0, 32⟩
def CAL.TP_POINT : Fld := ⟨0x060, 0x4, 0, 16⟩
def CAL.REJ_CNT : Fld := ⟨0x080, 0x4, 0, 32⟩
def CAL.REJ_CNT_ADC : Fld := ⟨0x080, 0x4, 0, 16⟩
def CAL.REJ_CNT_DAC : Fld := ⟨0x080, 0x4, 16, 16⟩
def CAL.REJ_CNT1 : Fld := ⟨0x084, 0x4, 0, 32⟩
def CAL.REJ_CNT1_FLX : Fld := ⟨0x084, 0x4, 0, 16⟩
def CAL.REJ_CNT1_DISC : Fld := ⟨0x084, 0x4, 16, 16⟩
def CAL.REJ_CNT2 : Fld := ⟨0x088, 0x4, 0, 32⟩
def CAL.REJ_CNT2_SKEW : Fld := ⟨0x088, 0x4, 0, 16⟩
def CAL.STALE_MAP : Fld := ⟨0x090, 0x4, 0, 32⟩
def CAL.PEND_MAP : Fld := ⟨0x094, 0x4, 0, 32⟩
def CAL.NVS_STAT : Fld := ⟨0x098, 0x4, 0, 32⟩
def CAL.NVS_STAT_COPY : Fld := ⟨0x098, 0x4, 0, 1⟩
def CAL.NVS_STAT_VALID_A : Fld := ⟨0x098, 0x4, 1, 1⟩
def CAL.NVS_STAT_VALID_B : Fld := ⟨0x098, 0x4, 2, 1⟩
def CAL.NVS_STAT_FAIL : Fld := ⟨0x098, 0x4, 3, 1⟩
def CAL.NVS_STAT_STORES : Fld := ⟨0x098, 0x4, 16, 16⟩
def CAL.TILE_SEL : Fld := ⟨0x0A0, 0x1000000, 0, 32⟩
def CAL.TILE_SEL_TILE : Fld := ⟨0x0A0, 0x1000000, 0, 5⟩
def CAL.TILE_STAT : Fld := ⟨0x0A4, 0x1000000, 0, 32⟩
def CAL.TILE_STAT_T_RUN : Fld := ⟨0x0A4, 0x1000000, 0, 16⟩
def CAL.TILE_STAT_VALID : Fld := ⟨0x0A4, 0x1000000, 16, 8⟩
def CAL.TILE_RUN : Fld := ⟨0x0A8, 0x1000000, 0, 32⟩
def CAL.TILE_RUN_STEPS : Fld := ⟨0x0A8, 0x1000000, 0, 7⟩
def CAL.TILE_RUN_DEFER : Fld := ⟨0x0A8, 0x1000000, 8, 8⟩
def CAL.TILE_RUN_RUNS : Fld := ⟨0x0A8, 0x1000000, 16, 16⟩
def CAL.SKEW_STAT : Fld := ⟨0x0AC, 0x4, 0, 32⟩
def CAL.SKEW_STAT_LEAD : Fld := ⟨0x0AC, 0x4, 0, 16⟩
def CAL.SKEW_STAT_PROP : Fld := ⟨0x0AC, 0x4, 16, 8⟩
def CAL.SKEW_STAT_NREP : Fld := ⟨0x0AC, 0x4, 24, 5⟩

/-- The per-page fields of CAPS and STATUS on CAL pages. -/
def CAL.hdrRegs : List RegDesc := [
  ⟨0x008, 1, 0x4, [⟨CAL.CAPS_SLOTS, .ro, .l, 8⟩, ⟨CAL.CAPS_ITEMS, .ro, .l, 5⟩]⟩,
  ⟨0x010, 1, 0x4, [⟨CAL.STATUS_STALE_ANY, .ro, .l, 0⟩, ⟨CAL.STATUS_STORE_BUSY, .ro, .l, 0⟩]⟩]


/-- The block registers of CAL pages. -/
def CAL.regs : List RegDesc := [
  ⟨0x040, 1, 0x4, [⟨CAL.CAL_CTL_EN_ADC, .rw, .l, 1⟩, ⟨CAL.CAL_CTL_EN_DAC, .rw, .l, 1⟩, ⟨CAL.CAL_CTL_EN_DISC, .rw, .l, 1⟩, ⟨CAL.CAL_CTL_EN_SKEW, .rw, .l, 1⟩, ⟨CAL.CAL_CTL_STORE, .wo, .l, 0⟩]⟩,
  ⟨0x044, 1, 0x4, [⟨CAL.CAL_REQ, .wo, .l, 0⟩]⟩,
  ⟨0x048, 1, 0x4, [⟨CAL.CAL_DT_DT, .rw, .l, 0x20⟩]⟩,
  ⟨0x04C, 1, 0x4, [⟨CAL.CAL_STALE_LIMIT, .rw, .l, 0x64⟩]⟩,
  ⟨0x050, 1, 0x4, [⟨CAL.DISC_CFG_FG, .rw, .l, 0xc⟩, ⟨CAL.DISC_CFG_NP, .rw, .l, 0xc⟩, ⟨CAL.DISC_CFG_CONF_MIN, .rw, .l, 0x20⟩, ⟨CAL.DISC_CFG_SEP_MIN, .rw, .l, 0x30⟩, ⟨CAL.DISC_CFG_MOVE, .rw, .l, 0x20⟩]⟩,
  ⟨0x054, 1, 0x4, [⟨CAL.DISC_LIM_POP_MIN, .rw, .l, 4⟩, ⟨CAL.DISC_LIM_OUT_MAX, .rw, .l, 0x10⟩, ⟨CAL.DISC_LIM_RATIO, .rw, .l, 0x50⟩]⟩,
  ⟨0x058, 1, 0x4, [⟨CAL.CONV_LIM_ADC_GMOVE, .rw, .l, 4⟩, ⟨CAL.CONV_LIM_ADC_OMOVE, .rw, .l, 8⟩, ⟨CAL.CONV_LIM_ADC_SMOVE, .rw, .l, 2⟩, ⟨CAL.CONV_LIM_DAC_MOVE, .rw, .l, 4⟩, ⟨CAL.CONV_LIM_FLX_MOVE, .rw, .l, 0x10⟩, ⟨CAL.CONV_LIM_SKEW_MOVE, .rw, .l, 4⟩]⟩,
  ⟨0x060, 8, 0x4, [⟨CAL.TP_POINT, .rw, .l, 0⟩]⟩,
  ⟨0x080, 1, 0x4, [⟨CAL.REJ_CNT_ADC, .ro, .l, 0⟩, ⟨CAL.REJ_CNT_DAC, .ro, .l, 0⟩]⟩,
  ⟨0x084, 1, 0x4, [⟨CAL.REJ_CNT1_FLX, .ro, .l, 0⟩, ⟨CAL.REJ_CNT1_DISC, .ro, .l, 0⟩]⟩,
  ⟨0x088, 1, 0x4, [⟨CAL.REJ_CNT2_SKEW, .ro, .l, 0⟩]⟩,
  ⟨0x090, 1, 0x4, [⟨CAL.STALE_MAP, .ro, .l, 0⟩]⟩,
  ⟨0x094, 1, 0x4, [⟨CAL.PEND_MAP, .ro, .l, 0⟩]⟩,
  ⟨0x098, 1, 0x4, [⟨CAL.NVS_STAT_COPY, .ro, .l, 0⟩, ⟨CAL.NVS_STAT_VALID_A, .ro, .l, 0⟩, ⟨CAL.NVS_STAT_VALID_B, .ro, .l, 0⟩, ⟨CAL.NVS_STAT_FAIL, .w1c, .l, 0⟩, ⟨CAL.NVS_STAT_STORES, .ro, .l, 0⟩]⟩,
  ⟨0x0A0, 2, 0x1000000, [⟨CAL.TILE_SEL_TILE, .rw, .l, 0⟩]⟩,
  ⟨0x0A4, 32, 0x1000000, [⟨CAL.TILE_STAT_T_RUN, .ro, .l, 0⟩, ⟨CAL.TILE_STAT_VALID, .ro, .l, 0⟩]⟩,
  ⟨0x0A8, 32, 0x1000000, [⟨CAL.TILE_RUN_STEPS, .ro, .l, 0⟩, ⟨CAL.TILE_RUN_DEFER, .ro, .l, 0⟩, ⟨CAL.TILE_RUN_RUNS, .ro, .l, 0⟩]⟩,
  ⟨0x0AC, 1, 0x4, [⟨CAL.SKEW_STAT_LEAD, .ro, .l, 0⟩, ⟨CAL.SKEW_STAT_PROP, .ro, .l, 0⟩, ⟨CAL.SKEW_STAT_NREP, .ro, .l, 0⟩]⟩]

/-! ### The page map (R76) -/

/-- The kinds of page (R76). -/
inductive PageKind where
  | glb | clk | hoop | nvs | hkp | thm | mic | evm | pat | bia | mon | tul | drn | pci | dbg | dmp
  | drv | rdo | flx | jdx | cst | cal
  deriving DecidableEq, Repr

/-- The kind of the page with a given index; none for the unassigned indices 0x03A to 0xFFF (R76, R77). -/
def pageKind (p : Nat) : Option PageKind :=
  if p < 0x10 then
    [PageKind.glb, .clk, .hoop, .nvs, .hkp, .thm, .mic, .evm, .pat, .bia, .mon, .tul, .drn, .pci, .dbg, .dmp][p]?
  else if p < 0x20 then some .drv
  else if p < 0x28 then some .rdo
  else if p < 0x30 then some .flx
  else if p < 0x38 then some .jdx
  else if p = 0x38 then some .cst
  else if p = 0x39 then some .cal
  else none

/-- The page index of instance 0 of a kind, which PAGE_ID.KIND holds. -/
def PageKind.base : PageKind → Nat
  | .glb => 0 | .clk => 1 | .hoop => 2 | .nvs => 3 | .hkp => 4 | .thm => 5 | .mic => 6 | .evm => 7 | .pat => 8
  | .bia => 9 | .mon => 0xA | .tul => 0xB | .drn => 0xC | .pci => 0xD | .dbg => 0xE | .dmp => 0xF
  | .drv => 0x10 | .rdo => 0x20 | .flx => 0x28 | .jdx => 0x30 | .cst => 0x38 | .cal => 0x39

/-- Whether a kind is a tile kind. -/
def PageKind.isTile : PageKind → Bool
  | .drv | .rdo | .flx => true
  | _ => false

/-- The block registers of a page kind, from offset 0x040 upward. -/
def PageKind.regs : PageKind → List RegDesc
  | .glb => GLB.regs | .clk => CLK.regs | .hoop => HOOP.regs | .nvs => NVS.regs | .hkp => HKP.regs
  | .thm => THM.regs | .mic => MIC.regs | .evm => EVM.regs | .pat => PAT.regs | .bia => BIA.regs
  | .mon => MON.regs | .tul => TUL.regs | .drn => DRN.regs | .pci => PCI.regs | .dbg => DBG.regs
  | .dmp => DMP.regs | .drv => TMB.regs ++ DRV.regs | .rdo => TMB.regs ++ RDO.regs
  | .flx => TMB.regs ++ FLX.regs | .jdx => JDX.regs | .cst => CST.regs | .cal => CAL.regs

/-- The fields a page kind has in the per-page bits of CAPS and STATUS. -/
def PageKind.hdrRegs : PageKind → List RegDesc
  | .glb => GLB.hdrRegs | .clk => CLK.hdrRegs | .hoop => HOOP.hdrRegs | .nvs => NVS.hdrRegs | .hkp => HKP.hdrRegs
  | .thm => THM.hdrRegs | .mic => MIC.hdrRegs | .evm => EVM.hdrRegs | .pat => PAT.hdrRegs | .bia => BIA.hdrRegs
  | .mon => MON.hdrRegs | .tul => TUL.hdrRegs | .drn => DRN.hdrRegs | .pci => PCI.hdrRegs | .dbg => DBG.hdrRegs
  | .dmp => DMP.hdrRegs | .drv => DRV.hdrRegs | .rdo => RDO.hdrRegs | .flx => FLX.hdrRegs | .jdx => JDX.hdrRegs
  | .cst => CST.hdrRegs | .cal => CAL.hdrRegs

/-- Every register of a page: the header, the per-page header fields and the block registers. -/
def PageKind.allRegs (k : PageKind) : List RegDesc := HDR.regs ++ k.hdrRegs ++ k.regs

/-- Whether an instance of the register stands at page offset `o`. -/
def RegDesc.covers (d : RegDesc) (o : Nat) : Bool :=
  d.off ≤ o && (o - d.off) % d.stride == 0 && decide ((o - d.off) / d.stride < d.count)

/-- The word a register holds after reset by its table. -/
def RegDesc.resetWord (d : RegDesc) : Word :=
  d.fields.foldl (fun acc f => acc ||| BitVec.ofNat 32 (f.rst <<< f.fld.lo)) 0#32

/-- The reset word of page offset `o` on a page of kind `k`. The three tables whose entries reset to a value that
depends on the index are VEC_MAP (n, R92), BSEL (j, 17_housekeeping_thermal) and TP ((30 + 10 i) × 16, R389). -/
def PageKind.resetWord (k : PageKind) (o : Nat) : Word :=
  if k = .pci ∧ PCI.VEC_MAP_VEC.off ≤ o ∧ o < PCI.VEC_MAP_VEC.off + 4 * 58 then
    BitVec.ofNat 32 ((o - PCI.VEC_MAP_VEC.off) / 4)
  else if k = .hkp ∧ HKP.BSEL_OUT.off ≤ o ∧ o < HKP.BSEL_OUT.off + 4 * 16 then
    BitVec.ofNat 32 ((o - HKP.BSEL_OUT.off) / 4)
  else if k = .cal ∧ CAL.TP_POINT.off ≤ o ∧ o < CAL.TP_POINT.off + 4 * 8 then
    BitVec.ofNat 32 ((30 + 10 * ((o - CAL.TP_POINT.off) / 4)) * 16)
  else
    (k.allRegs.filter (fun d => d.covers o)).foldl (fun acc d => acc ||| d.resetWord) 0#32

/-- The reset word of a register-file address: BAR0 offset plus `windowStride` times the window index. PAGE_ID holds the
page index, the kind and the marker (R80), PAGE_VER the major version 1 (R81); no MINOR is stated (log entry 36). -/
def regReset (a : Nat) : Word :=
  let b := a % windowStride
  match pageKind (b / 0x1000) with
  | none => 0#32
  | some k =>
    if b % 0x1000 = 0 then BitVec.ofNat 32 (0x4D510000 + k.base * 256 + b / 0x1000)
    else if b % 0x1000 = 4 then 0x0100#32
    else k.resetWord (b % 0x1000)

/-- The register-file address of instance `i` of a field's register on a page. -/
def Fld.addr (f : Fld) (page i : Nat) : Nat := page * 0x1000 + f.off + f.stride * i

end Sys2Proof.Machine
end

