-- ==== Sys2Proof/Machine/SMap.lean ====
section
/-!
DEFINITION. Sparse tables in one canonical form: lists of (key, value) pairs with strictly rising keys. An
unlisted key holds a default that the caller names. The memories, the register file and the per-unit tables of the
block are such tables; the operations here are their only way in and out.
-/
namespace Sys2Proof.Machine

/-- A table from numbers to values, held as pairs with strictly rising keys. -/
abbrev SMap (α : Type) := List (Nat × α)

/-- What a table lists under a key. -/
def smFind {α : Type} (k : Nat) : SMap α → Option α
  | [] => none
  | (j, v) :: m => if k = j then some v else smFind k m

/-- The value of a key: what the table lists, or the default `d`. -/
def smGet {α : Type} (d : α) (k : Nat) (m : SMap α) : α := (smFind k m).getD d

/-- The table without a key. -/
def smErase {α : Type} (k : Nat) : SMap α → SMap α
  | [] => []
  | (j, v) :: m => if k = j then smErase k m else (j, v) :: smErase k m

/-- The table with `v` listed under the key, in its place among the rising keys. -/
def smSet {α : Type} (k : Nat) (v : α) : SMap α → SMap α
  | [] => [(k, v)]
  | (j, w) :: m =>
    if k < j then (k, v) :: (j, w) :: m
    else if k = j then (k, v) :: m
    else (j, w) :: smSet k v m

/-- The table with `v` under the key, listing it only where it differs from the default `d` of that key. -/
def smPut {α : Type} [DecidableEq α] (d : α) (k : Nat) (v : α) (m : SMap α) : SMap α :=
  if v = d then smErase k m else smSet k v m

/-- The keys rise strictly. -/
def smSorted {α : Type} : SMap α → Bool
  | [] => true
  | [_] => true
  | (j, _) :: (k, w) :: m => decide (j < k) && smSorted ((k, w) :: m)

/-- No entry repeats the default of its key. -/
def smLean {α : Type} [DecidableEq α] (d : Nat → α) (m : SMap α) : Bool :=
  m.all fun e => decide (e.2 ≠ d e.1)

/-- The canonical form: strictly rising keys and no entry equal to the default of its key. -/
def smWf {α : Type} [DecidableEq α] (d : Nat → α) (m : SMap α) : Bool := smSorted m && smLean d m

end Sys2Proof.Machine
end

