-- ==== Sys2Proof/Machine/State.lean ====
section
/-!
DEFINITION. The state of the block: every register, memory, queue, counter, mode and pin the spec names, as plain data.
Registers live in one register file (`regs`), keyed by BAR0 offset, whose unlisted entries hold the reset value of
the register map. What no register holds is in the typed parts below.
-/
namespace Sys2Proof.Machine

/-- The reasons the model stops. -/
inductive Fault where
  /-- Raised by REG_WRITE, BAR2_READ and BAR2_WRITE for an address outside the window of the BAR, or one that the
  access size does not align with (R76, R78, R99). Such an access is no command of this part, so nothing the part
  does is lost: safe. -/
  | outsideWindow
  deriving DecidableEq, Repr

/-- The reasons the model has no meaning for a command. -/
inductive Refusal where
  /-- The command has no meaning yet: raised by the arms of `exec` that name no meaning. Safe. -/
  | notModelled (mnemonic : String)
  deriving DecidableEq, Repr

/-- The two parts of the family (R4, R5, R7). -/
inductive Variant where
  | mq256 | mq128
  deriving DecidableEq, Repr

/-! ### Page headers and interrupts -/

/-- One error record (R95): code, severity, unit, sequence number, detail, address and time stamp. -/
structure ErrRec where
  code : Nat
  sev : Nat
  unit : Nat
  seq : Nat
  info : Word
  addr : Word
  tstamp : Word
  deriving DecidableEq, Repr

/-- The error FIFO of a page, oldest first, and the number the next detected error takes (R95, R96); and of the mc in which
the page last detected an error, for the order within it: the mc, the number its first error took, how many records the
FIFO held before it, and all its errors in order of UNIT, dropped ones too (R95). -/
structure PageErr where
  fifo : List ErrRec := []
  seq : Nat := 0
  mc : Nat := 0
  base : Nat := 0
  old : Nat := 0
  batch : List ErrRec := []
  deriving DecidableEq, Repr

/-- A register whose value changed in an mc: the mc, the word as it stood at the start of that mc, and the requester whose
access changed it, none for a change of the block's own (R79, R87). -/
structure Was where
  mc : Nat
  word : Word
  who : Option Requester
  deriving DecidableEq, Repr

/-- The MSI-X side of the endpoint (R92, R93, R369): vectors unmasked in the BAR4 table, the pending-bit array, and
the messages sent so far, newest first. -/
structure Msix where
  unmasked : List Nat := []
  pba : List Nat := []
  sent : List Nat := []
  deriving DecidableEq, Repr

/-! ### Clocks -/

/-- The root PLL and the SYNC logic beside their registers (R47 to R62). -/
structure Pll where
  /-- The PLL is acquiring lock (R47). -/
  acquiring : Bool := false
  /-- Holdover after a loss of lock, until the 32 fc ramp ends (R53). -/
  holdover : Bool := false
  /-- The model's own clock at the first fc of the holdover: FCLK runs on while TIME stands (R52, R53, R63). -/
  holdAt : Nat := 0
  /-- A write of SOFT waits for its REFCLK edge (R58). -/
  soft : Bool := false
  /-- The epochs under way, oldest first: the TIME, in the running count, of the epoch fc E + 80 of an edge that consumed ARM
  (R59), and the value it loads where the edge is one of R354. -/
  epochs : List (Nat × Option Nat) := []
  /-- The value loaded at the last epoch (R60). -/
  lastEpoch : Nat := 0
  deriving DecidableEq, Repr

/-! ### Tambours -/

/-- A slot of a microword (R107). -/
structure MSlot where
  tone : Nat
  pulse : Nat
  amp : Nat
  phs : Nat
  deriving DecidableEq, Repr

/-- A microword, field by field (R103). -/
structure MWord where
  adv : Nat
  a : MSlot
  b : MSlot
  frm : Nat
  fop : Nat
  fval : Nat
  cond : Nat
  tgt : Nat
  ctr : Nat
  lop : Nat
  lval : Nat
  top : Nat
  tkey : Nat
  mark : Nat
  bnd : Nat
  aux : Nat
  deriving DecidableEq, Repr

/-- The actions of a word at its T, in the order of R106. `flowEnd` is what is left of word 16,383 that still waits at its T: its
stop, if no branch is taken (R120). -/
inductive Act where
  | boundary | loop | tulle | frame | pulseA | pulseB | blank | mark | gap | acq | branch | flowEnd | stop
  deriving DecidableEq, Repr

/-- How a word's FLOW resolved (R116 to R119): whether the branch is taken, and the decision or default used. -/
structure Res where
  taken : Bool := false
  keyed : Bool := false
  dflt : Bool := false
  keyOff : Bool := false
  val : Nat := 0
  ndet : Bool := false
  leak : Bool := false
  lowc : Bool := false
  deriving DecidableEq, Repr

/-- The program state that a Tambour steps through: the four loop counters (8 bits each), the X and Z bits of the
Bobbins, the Bobbins an FRESET waits for, and the shot number (R121, R122, R152). The Tambour keeps it at the issue
point; at the timeline it stands in LOOP_CTR, PF_STAT and SHOT. -/
structure Seq where
  ctr : Nat := 0
  x : Nat := 0
  z : Nat := 0
  freset : Nat := 0
  shot : Nat := 0
  deriving DecidableEq, Repr

/-- An entry of the timed event queue (R139): word address, T, the word, and its resolution once known. -/
structure QEntry where
  addr : Nat
  t : Nat
  w : MWord
  res : Option Res := none
  deriving DecidableEq, Repr

/-- The coefficients of a correction chain (R252): four sections (A, K) and the FIR taps H_0 to H_31. -/
structure Coef where
  a : List Nat := [0, 0, 0, 0]
  k : List Int := [0, 0, 0, 0]
  h : List Int := 0x4000 :: List.replicate 31 0
  deriving DecidableEq, Repr

/-- A route change that waits for the device shot boundary (R263, R359): the import port of KIND 3, or none where the
slot stops importing, and the values for SLOT_RT and SLOT_LAT. -/
structure RouteSet where
  imp : Option Nat
  exports : Nat
  hops : Nat
  pubdev : Nat
  lat : Nat
  ndet : Bool
  deriving DecidableEq, Repr

/-- What the release of a shot-boundary word stages beside the registers (R68, R140): the tile's calibration values, with whether
they end a run; tracked geometries by tone; a loaded matrix with its base; loaded coefficients by output with their bank; and,
for a device shot boundary, a skew trim and route changes by slot. -/
structure Staged where
  cal : Option (List Int × Bool) := none
  geo : SMap (List Word) := []
  mat : Option (SMap Cplx × Nat) := none
  coefs : SMap (Coef × Nat) := []
  skew : Option Nat := none
  routes : SMap RouteSet := []
  deriving DecidableEq, Repr

/-- A released word whose actions have not all taken place (R140): what it read at release, the values staged for
its boundary, and the actions still to come. -/
structure REntry where
  addr : Nat
  t : Nat
  w : MWord
  res : Option Res := none
  todo : List Act := []
  /-- Pulse-table entries of the two slots and the frame-value entry, read at release. -/
  pa : Nat := 0
  pb : Nat := 0
  fv : Nat := 0
  /-- For a shot-boundary word, the values staged at release: (register address, word), and whether the boundary is a
  device shot boundary (R67, R68). -/
  snap : SMap Word := []
  dev : Bool := false
  /-- What else is staged with them. -/
  staged : Staged := {}
  deriving DecidableEq, Repr

/-- A deferred effect, due at the successor's T (R171). -/
inductive Deferred where
  | cadd (t frame value : Nat)
  | fapply (t tone value : Nat)
  deriving DecidableEq, Repr

/-- What a stopped look-ahead waits for (R143, R147): the waiting word's T and successor T, the arm point it sees,
whether it still needs its key, whether it needs the evaluation of UNDR or LOST, and the word's issue fc. -/
structure Wait where
  t : Nat
  ts : Nat
  w : MWord
  armPt : Int
  needKey : Bool
  needEval : Bool
  res : Res
  issued : Nat := 0
  deriving DecidableEq, Repr

/-- A decision as Tulle carries it (R266): value and flags. -/
structure Decision where
  val : Nat
  leak : Bool
  lowc : Bool
  ndet : Bool
  deriving DecidableEq, Repr

/-- A TULLE key of a tile (R144, R146): the held decision with its delivery fc, the fc of a default taken, the arm
point of the issued words, the T of the last ARM done, and whether the first late and the first duplicate of the shot
have been recorded. -/
structure KeySt where
  held : Option (Nat × Decision) := none
  dflt : Option Nat := none
  armPt : Int := -1
  armT : Option Nat := none
  lateRec : Bool := false
  dupRec : Bool := false
  deriving DecidableEq, Repr

/-- What a channel plays (R149, R174): the latched pulse, from its T to its end, or the sample it holds. -/
structure Chan where
  t : Nat
  len : Nat
  start : Nat
  stream : Bool
  hold : Bool
  amp : Nat
  phs : Nat
  conj : Bool
  f : Nat
  x : Bool
  z : Bool
  addr : Nat
  deriving DecidableEq, Repr

/-- The envelope units a released pulse has still to fetch (R157, R164): its channel and T, whether it is a stream
pulse, its slot or the unit to fetch next, the pin time of that unit's first sample, how many are left, and the Ts of released
pulses that will replace it, from the first of which on nothing is fetched (R149). -/
structure FetchRun where
  chan : Nat
  pt : Nat
  stream : Bool
  src : Nat
  t : Nat
  left : Nat
  addr : Nat
  cuts : List Nat := []
  deriving DecidableEq, Repr

/-- A fetched envelope unit (16 bytes as a number) with the pulse it belongs to and its pin time. -/
structure EnvUnit where
  chan : Nat
  pt : Nat
  t : Nat
  data : Nat
  deriving DecidableEq, Repr

/-- An output ramp in progress (R153): its first fc, the state code it ends in. -/
structure Ramp where
  t0 : Nat
  target : Nat
  deriving DecidableEq, Repr

/-- The Tambour, queue and channels of a tile beside its registers. -/
structure Tile where
  /-- Address of the next word to issue, its T, and the first fc in which it may issue. -/
  next : Option Nat := none
  nextT : Nat := 0
  issueAt : Nat := 0
  waiting : Option Wait := none
  la : Seq := {}
  shot0 : Nat := 0
  keys : SMap KeySt := []
  queue : List QEntry := []
  /-- The entry array of the queue, which a flush leaves intact: entries by index, the index the next word takes, and the
  indices that were held at the last flush (R540). -/
  arr : SMap QEntry := []
  wp : Nat := 0
  held : List Nat := []
  released : List REntry := []
  deferred : List Deferred := []
  /-- The stopping fc of a STOP word that has acted (R153). -/
  stopAt : Option Nat := none
  ramp : Option Ramp := none
  /-- Bobbins whose X and Z an executed FRESET clears at the next boundary (R122). -/
  freset : Nat := 0
  chans : SMap Chan := []
  fetches : List FetchRun := []
  units : List EnvUnit := []
  /-- The baseband samples of each tone in the last six fc, newest first (R176, R178). -/
  bHist : SMap (List Cplx) := []
  /-- The codes of the last fc by converter that is in use, first sample first: DACs (R181) or flux outputs (R255). -/
  codes : SMap (List Int) := []
  /-- What stands at the pins by converter: instants in half picoseconds of FCLK time, oldest first, each with the code from that
  instant on (R71, R73, R74). The ADC of a read-out tile, its converter 1, has the instants at which it samples, and code 0. -/
  pins : SMap (List (Nat × Int)) := []
  /-- On the model's own clock, the first fc after the last one in which a converter's code was not its zero level (R396). -/
  busy : SMap Nat := []
  /-- Lines of the failed word that are being refetched (R160). -/
  refetch : List Nat := []
  /-- First fc after the running declared gap, and its first fc (R126). -/
  gapStart : Nat := 0
  gapEnd : Nat := 0
  /-- Live-calibration work of the running gap has been abandoned (R127). -/
  gapViol : Bool := false
  /-- The X bits of the tile's Bobbins over the last 64 fc: (T, X after the change), newest first (R232). -/
  xLog : List (Nat × Nat) := []
  /-- The fc in which each marker flag was last raised (R125). -/
  markT : SMap Nat := []
  /-- Outputs of the tile whose first saturation, or whose clip, of the shot has been recorded (R182, R201). -/
  satShot : Nat := 0
  deriving DecidableEq, Repr

/-! ### Read-out tiles -/

/-- The stage a window has reached (R210 to R216). -/
inductive WinSt where
  | sched | opened | closed | dropped
  deriving DecidableEq, Repr

/-- An integration window (R210): its tone and kernel set, what it latched at the ACQ word's T, its opening and
closing fc, the stage it has reached, its marks and its integrated pair. -/
structure Win where
  tone : Nat
  kset : Nat
  o : Nat
  klen : Nat
  desc : Word
  bin : Nat
  ftw : Nat
  f : Nat
  wantRec : Bool
  st : WinSt := .sched
  ovr : Bool := false
  isat : Bool := false
  pair : Cplx := {}
  /-- The kernel taps applied so far, each read in its own fc (R217). -/
  taps : List Cplx := []
  /-- The fc U_t of R222. -/
  u : Nat
  /-- The unmixed pair with its USAT, PART, OVR and ISAT flags, once UNMIX has run. -/
  unmixed : Option Cplx := none
  usat : Bool := false
  part : Bool := false
  rovr : Bool := false
  risat : Bool := false
  /-- Geometry words DISC_W0 to DISC_W7 and DEC_CFG as in force at U_t + 19, once a boundary has passed that fc. -/
  geo : Option (List Word) := none
  /-- The shot number and the causes of its invalid mark at U_t + 21, once a boundary has passed that fc. -/
  shot : Option (Nat × Nat) := none
  /-- The tone has passed discrimination, or gives no result. -/
  done : Bool := false
  deriving DecidableEq, Repr

/-- A measurement set (R221): the ACQ word's T and address, and its windows. -/
structure MSet where
  t : Nat
  addr : Nat
  wins : List Win
  deriving DecidableEq, Repr

/-- One tone's statistics (R242, R243): count, sums and histogram. -/
structure ToneStat where
  cnt : Nat := 0
  i : Int := 0
  q : Int := 0
  h0 : Nat := 0
  h1 : Nat := 0
  h2 : Nat := 0
  h3 : Nat := 0
  deriving DecidableEq, Repr

/-- The interleave correction that a tile applies from fc `t` on (R200): IL_EN and the words of ADC_IL. -/
structure Il where
  t : Nat
  en : Bool
  words : List Word
  deriving DecidableEq, Repr

/-- The read-out parts of a tile beside its registers. -/
structure Rdo where
  sets : List MSet := []
  /-- Frame phases of the probe tones (R113). -/
  frames : SMap Nat := []
  /-- The unmix matrix in force and the loaded one that waits for its boundary: entry 32 t + j as (Mr, Mi), zero
  entries unlisted; `none` is the identity (R224). -/
  mat : Option (SMap Cplx) := none
  matNext : Option (SMap Cplx) := none
  matNextBase : Nat := 0
  /-- A matrix load in progress: its base line (R224). -/
  loading : Option Nat := none
  /-- Causes of the open shot's invalid mark (R154, R235): bits 0 to 2, 0 for none. -/
  mark : Nat := 0
  /-- After a stop, whether the stop discarded the open shot's statistics (R214, R241). -/
  post : Option Bool := none
  /-- What the open shot has recorded once already: bit 0 RES_DROP, bit 1 UNMIX_PART, bit 2 ADC_OVR. -/
  once : Nat := 0
  stats : SMap ToneStat := []
  staged : SMap ToneStat := []
  /-- The statistics items recorded as saturated since their last read: bit 0 accumulator, bits 1 to 4 bins. -/
  satRec : SMap Nat := []
  /-- The interleave corrections of late, newest first. -/
  il : List Il := []
  /-- The fc in which the ring positions were taken that RES_WP does not count yet, oldest first (R237). -/
  fresh : List Nat := []
  deriving DecidableEq, Repr

/-! ### Flux tiles -/

/-- One flux output beside its registers (R250 to R257): coefficients in force and loaded, the load in progress with
its bank, the chain state (four low-pass states in 2^-40, 32 FIR inputs in 2^-24, newest first). -/
structure FOut where
  coef : Coef := {}
  coefNext : Option Coef := none
  nextBank : Nat := 0
  loading : Option Nat := none
  lp : List Int := [0, 0, 0, 0]
  hist : List Int := List.replicate 32 0
  deriving DecidableEq, Repr


/-! ### Memory integrity -/

/-- A recovery in progress on a line (R452 to R456): which attempt it is, and the partial writes (requester code, address, bytes) and BAR2 reads (address, length) that wait for its end. -/
structure Recov where
  attempt : Nat := 1
  /-- Who detected the line, as R463 codes it. -/
  req : Nat := 4
  /-- The row is being copied into a spare (R456): the line's bytes and the fc in which the copy is complete. -/
  copy : Option (List Byte × Nat) := none
  merges : List (Nat × Nat × List Byte) := []
  reads : List (Nat × Nat) := []
  deriving DecidableEq, Repr

/-- The side array of a line (R448, R449): what its stored check value differs by from the computed one, its poison
bit, its recovery, and whether RT_ZERO has been recorded for it. -/
structure LineSt where
  flip : Nat := 0
  poison : Bool := false
  recov : Option Recov := none
  rtRec : Bool := false
  deriving DecidableEq, Repr

/-- A registered master image (R375) or NVS profile: device range and where its copy lies. -/
structure Master where
  dev : Nat
  len : Nat
  host : Nat
  deriving DecidableEq, Repr


/-! ### Live calibration -/

/-- One set of a tile's temperature-indexed values with the temperature, in 1/16 °C, it was measured at (R389). The
values of a drive tile are 64 group trims and the offset trim of DAC 0, then of DAC 1; of a read-out tile those of the
probe DAC, then GAIN, OFFS and SKEW of each sub-converter; of a flux tile OFFS and GTRIM of each output. -/
structure CalSet where
  temp : Int
  vals : List Int
  deriving DecidableEq, Repr

/-- Live calibration of one tile beside its registers (R389 to R405). -/
structure CalTile where
  slots : SMap CalSet := []
  /-- Values in force, and the shadow that waits for the tile's boundary. -/
  vals : List Int := []
  shadow : Option (List Int) := none
  /-- The shadow holds the values of a run that has just ended (R403). -/
  shadowRun : Bool := false
  /-- The snapshot temperature of the pending run, and whether it still waits for an injected conversion (R393). -/
  snap : Int := 0
  snapWait : Bool := false
  /-- Trims measured by the steps done, and those of the step at hand by DAC, where it has succeeded (R396). -/
  trims : List Int := []
  part : List (Option Int) := []
  /-- When the last step ended, or measurement time began, on the model's own clock. -/
  stepAt : Nat := 0
  /-- The current ADC block has met an overranged fc (R398). -/
  blockOvr : Bool := false
  /-- The second, plus one, of the last record of each rejected item (R402). -/
  rejRec : SMap Nat := []
  deriving DecidableEq, Repr

/-- Discriminator tracking of one tone (R400): the sums per class 0 to 2, the counts of the period, and an accepted
geometry that waits for its boundary (the eight words DISC_W0 to DISC_W7). -/
structure Track where
  w : List Int := [0, 0, 0]
  si : List Int := [0, 0, 0]
  sq : List Int := [0, 0, 0]
  sd : List Int := [0, 0, 0]
  n : Nat := 0
  out : Nat := 0
  shadow : Option (List Word) := none
  deriving DecidableEq, Repr

/-- A SKEW_REPORT held for a device (R406, R407). -/
structure SkewRep where
  root : Nat
  lead : Int
  est : Nat
  /-- When it arrived, on the model's own clock. -/
  since : Nat
  deriving DecidableEq, Repr

/-- Live calibration of the device. -/
structure Cal where
  tiles : SMap CalTile := []
  /-- Tracking by 32 × tile bit + tone. -/
  tracks : SMap Track := []
  /-- A TRIM value accepted and waiting for the device boundary (R403). -/
  skewShadow : Option Nat := none
  /-- Own estimate number, and the reports held by NUM. -/
  est : Nat := 0
  rejSkew : Nat := 0
  reps : SMap SkewRep := []
  /-- An NVS store is due; a store in progress, with the copy it writes (R409). -/
  due : Bool := false
  storing : Option Nat := none
  /-- When the last store started, on the model's own clock (R409). -/
  storeAt : Option Nat := none
  /-- SEQ of the copies A and B (R409). -/
  seqA : Nat := 0
  seqB : Nat := 0
  deriving DecidableEq, Repr


/-! ### Tulle (10_tulle_feedback) -/

/-- An accepted publication or an import on its way to its subscribers (R267): slot, delivery fc, source (1 read-out
tone, 2 Darner output, 3 import), import port and the decision. -/
structure Pub where
  slot : Nat
  due : Nat
  src : Nat
  port : Nat
  dec : Decision
  deriving DecidableEq, Repr

/-- A decision slot beside its registers. -/
structure TulSlot where
  next : Option RouteSet := none
  /-- Hoop firmware has withdrawn the route of this KIND 3 slot (R276). -/
  withdrawn : Bool := false
  /-- The import port has lost lock since the route stands: only Hoop firmware restores it (R277). -/
  cut : Bool := false
  deriving DecidableEq, Repr

/-- What the device shot has recorded once already, cleared at each device shot boundary: slots with a PUB_REJ
(R264), the NDET interrupt (R278), ports with an EXP_LATE, DEC_CRC and RX_LATE record (R272, R318, R319), ports and
slots with an EGR_DROP record as 512 × port + slot (R336), and patches with an ESC_DROP record (R303). -/
structure ShotOnce where
  rej : List Nat := []
  ndet : Bool := false
  expLate : Nat := 0
  decCrc : Nat := 0
  rxLate : Nat := 0
  egr : List Nat := []
  escDrop : Nat := 0
  deriving DecidableEq, Repr

/-! ### Darner (11_darner) -/

/-- A decision held by a syndrome input: its bit after INV, its flags and its delivery fc (R290). -/
structure SynBit where
  b : Bool
  leak : Bool
  lowc : Bool
  ndet : Bool
  t : Nat
  deriving DecidableEq, Repr

/-- A closed round on its way through the pipeline (R296 to R302): its close fc, the reason it closed with (0
complete, 1 OVERLAP, 2 TIMEOUT), its event vector, round number, configuration words in force at the close, the
decisions it held by local input, the missing inputs, and the reference syndrome before its update. -/
structure Round where
  c : Nat
  reason : Nat
  ev : Nat
  rnd : Nat
  cfg : Word
  map : Word
  held : SMap SynBit
  missN : Nat
  missFirst : Nat
  prevRef : Nat
  /-- What the round read of the tables in c + 4 to c + 7 (R301): whether a line failed its check, and the entry found. -/
  read : Option (Bool × Option Nat) := none
  deriving DecidableEq, Repr

/-- A patch beside its registers (R289, R293, R296). -/
structure Patch where
  /-- Enabled and passed the last check; the case of R289 it failed with, 0 for none. -/
  on : Bool := false
  cfgCase : Nat := 0
  opened : Option Nat := none
  held : SMap SynBit := []
  ref : Nat := 0
  rounds : List Round := []
  /-- The fc in which a write of CLR acts (R306). -/
  clrAt : Option Nat := none
  deriving DecidableEq, Repr

/-! ### Jodex (12_jodex_links) -/

/-- A decision word taken out of a decision block and not yet released (R319): slot, decision, the fc it enters
ingress, and whether it came over a fall-back link. -/
structure RxWord where
  slot : Nat
  dec : Decision
  rel : Nat
  fb : Bool
  deriving DecidableEq, Repr

/-- A decision word in an entry of the egress frame (R315): the fc the entry serves, which of its two entries, the
egress fc and the 16-bit word. -/
structure EgrWord where
  serve : Nat
  half : Nat
  e : Nat
  word : Nat
  deriving DecidableEq, Repr

/-- A LOOP block that waits for a management position (R316, R321): a STAMP, whose departure is stamped as it leaves, or a REPORT. -/
inductive OutBlk where
  | stamp (id : Nat)
  | report (id val : Nat)
  deriving DecidableEq, Repr

/-- A block on a lane (R310): its header as R310 writes it, 1 data and 2 control, its payload, and its 66 bits as they go out, the
first sent in bit 0. -/
structure LineBlk where
  hdr : Nat
  pay : Nat
  wire : Nat
  deriving DecidableEq, Repr

/-- The transmit side of a port (R310 to R317, R324, R328, R334, R337, R338). -/
structure Tx where
  /-- The port has entered SEARCH since the start. -/
  on : Bool := false
  /-- When the next block period begins, in 1/16 ns of the model's own clock, and its position b in the frame. -/
  start : Nat := 0
  b : Nat := 0
  /-- The training counter of R328. -/
  ctr : Nat := 0
  /-- Frames are counted; SEQ of the running one, and its F on the model's own clock (R313). -/
  framed : Bool := false
  seq : Nat := 0
  f : Nat := 0
  /-- Frames since the last FILLER, and that the next period is one (R334). -/
  fill : Nat := 0
  filling : Bool := false
  /-- Frames since the last LOOP stamp was due (R341). -/
  since : Nat := 0
  /-- IDLE_ENTER waits, or has gone out in the running frame (R337). -/
  idleReq : Bool := false
  idleSent : Bool := false
  /-- IDLE_EXIT has been written; periods of the training burst still to come, and one more (R338). -/
  exitReq : Bool := false
  burst : Nat := 0
  /-- LOOP blocks that wait, oldest first, and the rest of the message being sent with its channel and whether its first fragment
  is still to come (R316, R322). -/
  loops : List OutBlk := []
  cur : Option (Nat × Bool × List Byte) := none
  /-- The first decision entry not yet sent, as twice the fc it serves plus its half (R314). -/
  unsent : Nat := 0
  /-- The blocks of the last period begun, lane 0 first; none while the lanes are in electrical idle. -/
  blks : List LineBlk := []
  /-- The last 58 scrambled bits of each lane, the latest in bit 57 (R310). -/
  scr0 : Nat := 0
  scr1 : Nat := 0
  /-- The preset in force: post-cursor and pre-cursor de-emphasis and the receive peaking at start, in 1/10 dB (R340). -/
  post : Nat := 55
  pre : Nat := 15
  peak : Nat := 120
  deriving DecidableEq, Repr

/-- A port beside its registers. -/
structure Port where
  /-- TRAIN blocks received on each lane since SEARCH; in AGREE, consecutive ones that show the decision. -/
  rx0 : Nat := 0
  rx1 : Nat := 0
  /-- TRAIN blocks sent in AGREE since the decision (R328). -/
  sent : Nat := 0
  /-- Lane named and training counter of the last TRAIN blocks received on each lane in SEARCH, latest first (R325, R328). -/
  trn0 : List (Nat × Nat) := []
  trn1 : List (Nat × Nat) := []
  /-- The mode decided (R326): false main, true fall-back; the peer's last MAIN_CAP and FB_CAP; and whether the recovered clock lies
  within ±20 ppm. -/
  mode : Option Bool := none
  peerMain : Bool := false
  peerFb : Bool := false
  ppm : Bool := false
  /-- On the model's own clock: the entries to SEARCH, MEASURE and FAILED, and both lanes in lock (R326, R329). -/
  searchUp : Nat := 0
  measUp : Nat := 0
  failUp : Nat := 0
  lockUp : Nat := 0
  /-- Frames in a row with valid markers and SEQ in step, and whether lane 1 is aligned (R328). -/
  frames : Nat := 0
  aligned : Bool := false
  /-- SEQ of the last FRAME marker of each lane, when the last of lane 0 came on the model's own clock, and what the sender said. -/
  seq0 : Option Nat := none
  seq1 : Option Nat := none
  markUp : Nat := 0
  peerPort : Nat := 0
  /-- When the frame ends in which IDLE_ENTER was received (R337). -/
  peerIdleAt : Option Nat := none
  /-- Block periods in the elastic buffer of each lane (R334). -/
  ebuf : Nat := 4
  /-- The arrival stamp of the last lane 0 marker, in 1/16 fc (R353). -/
  arr : Nat := 0
  peerValid : Bool := false
  credit : Nat := 0
  /-- Apparent delays of the training stamps received, and the delays reported for the port's own (R327, R353). -/
  stampN : Nat := 0
  stampSum : Int := 0
  repN : Nat := 0
  repSum : Int := 0
  /-- The ID of the next training stamp (R327). -/
  nextId : Nat := 0
  /-- The apparent delays of R406 in each direction since the last estimate: number and sum. -/
  inN : Nat := 0
  inSum : Int := 0
  outN : Nat := 0
  outSum : Int := 0
  /-- The back-off interval in ms (R329). -/
  backoff : Nat := 1
  rx : List RxWord := []
  egr : List EgrWord := []
  /-- The open management message, the complete ones that wait for Hoop firmware, oldest first (R322). -/
  openMsg : Option (Nat × List Byte) := none
  msgs : List (Nat × List Byte) := []
  /-- Messages of Hoop firmware that wait for credit, oldest first (R322). -/
  mq : List (Nat × List Byte) := []
  /-- TIME blocks received since ARM was set: how many, and the last value with its arrival stamp (R353). -/
  timeN : Nat := 0
  timeF : Nat := 0
  timeA : Nat := 0
  /-- The transmit side. -/
  tx : Tx := {}
  /-- Lanes whose eye margin has fallen below TH since the last entry to SEARCH (R339). -/
  low : Nat := 0
  deriving DecidableEq, Repr

/-! ### Constellation (13_constellation) -/

/-- A port entry of a link-state description (R348). -/
structure LsaPort where
  lstate : Nat
  num : Nat
  port : Nat
  fh : Nat
  uid : Nat
  deriving DecidableEq, Repr

/-- An entry of the topology table: a device's latest link-state description (R350). -/
structure TopoEntry where
  uid : Nat
  num : Nat
  flags : Nat
  seq : Nat
  ports : List LsaPort
  deriving DecidableEq, Repr

/-- The neighbour that a port's last HELLO announced (R348). -/
structure Neighbour where
  uid : Nat
  num : Nat
  flags : Nat
  port : Nat
  seq : Nat
  deriving DecidableEq, Repr

/-- A slot held for a route (R358, R359): tentatively, or committed; a reservation that extends a committed route waits in `tent` for
its COMMIT. `since` is when it was asked for, on the model's own clock. -/
structure Hold where
  route : Nat
  slot : Nat
  rs : RouteSet
  committed : Bool
  tent : Option RouteSet := none
  since : Nat := 0
  deriving DecidableEq, Repr

/-- One device's part of a route: its NUM, the device and the port it hangs from, and its slot entry. -/
structure RouteNode where
  num : Nat
  parent : Nat
  pport : Nat
  rs : RouteSet
  deriving DecidableEq, Repr

/-- A route this device publishes (R356 to R363): who asked for it, ROUTE_ID, slot, destinations, the other devices of its
tree, its own slot entry, the destinations lost, and whether it may use fall-back links. -/
structure Route where
  who : Requester
  route : Nat
  slot : Nat
  dest : Nat
  nodes : List RouteNode
  own : RouteSet
  lost : Nat := 0
  ndetOk : Bool
  deriving DecidableEq, Repr

/-- A reservation in progress (R357 to R359): its route, the devices asked, those that have answered, and whether COMMIT
has been sent; and whether Hoop firmware picks the slot. -/
structure RqState where
  route : Route
  ask : List Nat
  acked : List Nat := []
  committing : Bool := false
  auto : Bool := false
  /-- When the messages that wait for replies were sent, on the model's own clock (R359). -/
  since : Nat := 0
  deriving DecidableEq, Repr

/-- Discovery and routes beside the CST registers. -/
structure Cst where
  /-- The device's own description as last flooded. -/
  own : Option TopoEntry := none
  topo : List TopoEntry := []
  nbs : SMap Neighbour := []
  /-- Since when, on the model's own clock, each end of a link of the table has been there, by 8 × NUM + port. -/
  links : SMap Nat := []
  /-- The NUM of the last conflict, which a device without AUTO does not take until host software has changed NUM (R345). -/
  clash : Option Nat := none
  /-- The NUM the device held before it left (R344). -/
  oldNum : Option Nat := none
  /-- On the model's own clock: the first port in ACTIVE since the start, the last HELLOs and LSA sent, and the arrival of the last
  LSA of each UID (R344, R349, R350). -/
  activeUp : Option Nat := none
  helloUp : Option Nat := none
  floodUp : Option Nat := none
  heard : SMap Nat := []
  /-- The requests that wait for a safe point, by requester: OP, NDET_OK and AUTO_SLOT (R356). -/
  goes : SMap (Nat × Bool × Bool) := []
  /-- Own LSA_SEQ, message counter and route serial number. -/
  lsaSeq : Nat := 0
  mseq : Nat := 0
  serial : Nat := 0
  holds : List Hold := []
  /-- The requests of host software and Hoop firmware, by 0 and 1, and the repairs of routes, by 2 + slot. -/
  rq : SMap RqState := []
  routes : List Route := []
  /-- The fc in which the conditions of R353 began to hold (R354). -/
  slotAt : Option Nat := none
  deriving DecidableEq, Repr

/-! ### Host interface (14_host_interface) -/

/-- A descriptor of a COPY channel (R371) in progress, with its index. -/
structure Desc where
  idx : Nat
  host : Nat
  dev : Nat
  len : Nat
  op : Nat
  flags : Nat
  cookie : Nat
  /-- The data of a host-to-device transfer have been written; a line of the range is still recovering (R372). -/
  landed : Bool := false
  deriving DecidableEq, Repr

/-- A DMA channel beside its registers (R370 to R381). -/
structure Dma where
  /-- COPY: the descriptor whose transfer runs. -/
  desc : Option Desc := none
  /-- STREAM: the reads outstanding, as first position and number of units, oldest first. -/
  reads : List (Nat × Nat) := []
  /-- DPOS at the last message, units written since the last STREAM writeback, and the writebacks so far. -/
  told : Nat := 0
  units : Nat := 0
  wbs : Nat := 0
  deriving DecidableEq, Repr

/-- The mailbox command that Hoop firmware has taken (R382, R498): its header, payload and progress. -/
structure Cmd where
  op : Nat
  seq : Nat
  payload : List Byte
  prog : Nat := 0
  /-- A progressive command is suspended for an urgent service (R498). -/
  susp : Bool := false
  /-- A DL_Down has been seen since it was taken: its response is not written (R383). -/
  cut : Bool := false
  deriving DecidableEq, Repr

/-- The mailbox and the endpoint beside their registers: the SEQ of a doorbell whose buffer has not been read, the
command taken, the values a MIT load took (base, COUNT), and the posted writes sent to host memory, newest first. -/
structure Pcie where
  door : Option Nat := none
  cmd : Option Cmd := none
  mit : Option (Nat × Nat) := none
  out : List (Nat × List Byte) := []
  deriving DecidableEq, Repr

/-! ### Hoop and the NVS (21_hoop) -/

/-- A record on its way through the journal (R503): its target and bytes, the words programmed so far (journal words, the
commit mark, the copied words, the retirement), and whether it is a unit of the mailbox command. -/
structure JRec where
  tgt : Nat
  bytes : List Byte
  done : Nat := 0
  cmd : Bool := false
  deriving DecidableEq, Repr

/-- Urgent services that wait for Hoop firmware (R497). -/
inductive Urgent where
  /-- Withdrawal of the routes that a port carried (R362). -/
  | portLost (n : Nat)
  /-- Event-matrix wake-up line (R485). -/
  | wake (k : Nat)
  /-- Recovery after a relock of the root PLL (R55). -/
  | relock
  /-- Retraining of the ports after an epoch (R355). -/
  | retrain
  /-- Tile map-out for health reasons: tile bit and reason of R534. -/
  | mapOut (b reason : Nat)
  /-- A topology or route change (R349, R361). -/
  | topology
  /-- A route request of a requester, by its index (R356). -/
  | request (k : Nat)
  deriving DecidableEq, Repr

/-- Hoop beside its registers: the NVS contents and its journal, the urgent services that wait, whether an atomic
command has been staged, the contents of the boot flash, and the wake-up lines taken. -/
structure Hoop where
  /-- NVS bytes by NVS offset; an unlisted byte is zero. -/
  nvs : SMap Byte := []
  recs : List JRec := []
  urgent : List Urgent := []
  /-- Wake-up lines served. -/
  woken : List Nat := []
  /-- The boot flash by flash offset; an unlisted byte reads 0xFF, the erased value. -/
  flash : SMap Byte := []
  flashOk : Bool := true
  /-- The microcode store holds the image that was loaded, undamaged (R519). -/
  resident : Bool := false
  /-- Directory indices of the AUTOLOAD images dealt with since the start (R494). -/
  autoDone : List Nat := []
  /-- The count of the management clock at the last safe point, or when Hoop began to run (R530). -/
  spAt : Nat := 0
  deriving DecidableEq, Repr

/-! ### Start, faults and debug (22_start_and_reset, 23_faults_and_debug) -/

/-- What a fatal path was taken for (R536, R538): page, code, ERR_INFO, ERR_ADDR, TIME of detection and the health code
before it. -/
structure FatalRec where
  page : Nat
  code : Nat
  info : Word
  addr : Word
  t : Nat
  health : Nat
  deriving DecidableEq, Repr

/-- Where a dump is being written (R537, R541). -/
inductive DumpTo where
  | host | nvs | none
  deriving DecidableEq, Repr

/-- The start logic beside its registers (R508 to R527). -/
structure Boot where
  /-- Power-on reset is held, with the cause code of the start that follows (R509, R510). -/
  por : Option Nat := some 0
  /-- RESET_N is low (R511). -/
  rstLow : Bool := false
  /-- The entry of R512 in progress: cause code, and whether the start is warm. -/
  req : Option (Nat × Bool) := none
  /-- When the step of the start in progress began, on the model's own clock (R514). -/
  stepAt : Nat := 0
  /-- The 100 ms wait of a failed start (R523). -/
  retry : Bool := false
  /-- INFO words of the START_FAIL records that wait for READY, oldest first (R521). -/
  fails : List Nat := []
  /-- The memories have been cleared since power came up or since the last cold start (R510). -/
  cleared : Bool := false
  /-- Hoop firmware runs; NVS has been restored (R523). -/
  fw : Bool := false
  nvsUp : Bool := false
  /-- The device is held in reset by a thermal trip of the MQ-256A (R441), and a SHUTDOWN record (INFO) waits for READY
  (R443). -/
  trip : Bool := false
  tripRec : Option Nat := none
  /-- The bits of MAPPED that a start keeps, with their reason (R535): tile bit and reason. -/
  mapped : SMap Nat := []
  /-- An automatic warm start waits for its delay (R527). -/
  autoWarm : Bool := false
  /-- The fatal path taken, and the dump it is writing. -/
  fatal : Option FatalRec := none
  dump : Option DumpTo := none
  /-- The HEALTH code at the last SMBus read, and whether SMB_ALERT_N was cleared since the last change (R384). -/
  smbHealth : Nat := 5
  smbAlert : Bool := false
  /-- Hoop firmware has published a temperature and a power over SMBus (R384). -/
  smbPub : Bool := false
  smbShdn : Bool := false
  /-- When the start in progress began, on the model's own clock (R513). -/
  startedAt : Nat := 0
  /-- When a start retry or an automatic warm start falls due, on the model's own clock (R523, R527). -/
  dueAt : Nat := 0
  /-- The fuse shadow fails its CRC (R530). -/
  fuseBad : Bool := false
  /-- The boundary cells: what they drive, what they last sampled, and whether they drive the pins (R542). -/
  cells : List Bool := []
  sampled : List Bool := []
  extest : Bool := false
  scanned : Bool := false
  deriving DecidableEq, Repr

/-- JTAG instruction in force (R542). -/
inductive Jtag where
  | idcode | bypass | samplePreload | extest | extestPulse | extestTrain | scanDump
  deriving DecidableEq, Repr

/-- Debug access beside DBG_STAT (R542, R543): the stored password hash, the challenge outstanding, the second in
which the next attempt is accepted, and the instruction in the JTAG register. -/
structure Debug where
  hash : Option (List Byte) := none
  nonce : Option (List Byte) := none
  /-- When the nonce was made, on the model's own clock. -/
  nonceAt : Nat := 0
  waitEnd : Nat := 0
  ir : Jtag := .idcode
  deriving DecidableEq, Repr

/-! ### Sampler and thermal (17_housekeeping_thermal) -/

/-- Work of the Sampler: a conversion of the round, or injected conversion `k`. -/
inductive Conv where
  | round (input : Nat) (second : Bool)
  | inj (k : Nat)
  deriving DecidableEq, Repr

/-- The Sampler beside its registers (R431 to R437). -/
structure Sampler where
  cur : Option Conv := none
  /-- The conversion of the running round that comes next; none where no round runs. -/
  rnd : Option (Nat × Bool) := none
  rndPend : Bool := false
  injPend : List Nat := []
  injRun : Nat := 0
  /-- Sum and number of conversions by input (R434), and whether a diode pair met code 0 or 4,095 (R436). -/
  acc : SMap (Nat × Nat) := []
  extreme : List Nat := []
  /-- Temperatures of the round's diodes before R436 judges them, by sensor. -/
  temps : SMap Int := []
  /-- TIME of the last round's result, zone dwell ends by zone, and zones that have settled after the start (R439, R440). -/
  roundT : Nat := 0
  /-- On the model's own clock: when the conversion in progress ends, and when the last round ended. -/
  due : Nat := 0
  roundUp : Nat := 0
  dwell : SMap Nat := []
  settled : List Nat := []
  /-- The energy of R444 in 1/16 W ns, 16,000,000 of which make a mJ. -/
  energy : Nat := 0
  /-- Implausible sensors of the round (R436). -/
  impl : List Nat := []
  deriving DecidableEq, Repr

/-! ### Soft repairs (18_memory_integrity) -/

/-- A spare row taken by a soft repair (R456, R458): its entry of the soft-repair map, memory page and kind, block, bank and row
number, and whether the map in the NVS holds it. -/
structure Repair where
  idx : Nat
  page : Nat
  kind : Nat
  block : Nat
  bank : Nat
  row : Nat
  /-- The line that asked for the row, as a BAR2 offset. -/
  line : Nat
  /-- The map in the NVS holds the repair. -/
  stored : Bool
  deriving DecidableEq, Repr


/-! ### Bias outputs and window monitors (16_bias_and_monitors) -/

/-- The bias outputs beside their registers. -/
structure Bias where
  /-- Range in force at the pin, by output; unlisted: 0b00 (R417). -/
  range : SMap Nat := []
  /-- CLR_N is low, after its synchronisation (R416). -/
  clrLow : Bool := false
  /-- Code writes by output: the hc of the last one, and the input code and PEND before it (R414). -/
  fresh : SMap (Nat × Nat × Nat) := []
  /-- What is left of the 1,250 hc of a range change, in fc, by output (R418). -/
  bbm : SMap Nat := []
  /-- Outputs whose RANGE was changed while the page is frozen: their range change begins when it goes on (R418, R419). -/
  rangeHeld : List Nat := []
  /-- Comparators whose LIVE was set by an input above the window (R422). -/
  high : List Nat := []
  deriving DecidableEq, Repr

/-! ### Pattern port (19_pattern_port) -/

/-- A vector read from Pricking memory: its index, segment, pass, pin time and 128 bits. -/
structure PatVec where
  idx : Nat
  seg : Nat
  pass : Nat
  pin : Nat
  data : Nat
  deriving DecidableEq, Repr

/-- A Picot pulse (R471): its pin, and the fc in which it begins and ends. -/
structure PicotPulse where
  pin : Nat
  start : Nat
  stop : Nat
  deriving DecidableEq, Repr

/-- The run of the pattern port (R466 to R477): segment, pass and position of the next vector to read, its pin time, the
pin time at which the pass in progress ends, the vectors read and not yet past their compare, the held jump, a
registered STOP, and the Picot pulses. -/
structure Pat where
  seg : Nat := 0
  pass : Nat := 0
  pos : Nat := 0
  pin : Nat := 0
  passEnd : Nat := 0
  vecs : List PatVec := []
  /-- The held jump with the fc in which it was registered, and its source: 0 the register, 1 + k TRIG_IN[k] (R473). -/
  jump : Option (Nat × Nat) := none
  jsrc : Nat := 0
  /-- Writes of JUMP that wait for their MCLK edge: target, and fc of the management clock (R472). -/
  jreg : List (Nat × Nat) := []
  /-- The fc in which a STOP was registered. -/
  stop : Option Nat := none
  /-- The run has met a failing compare (R468). -/
  failed : Bool := false
  /-- The Picot pulses not yet over. -/
  picot : List PicotPulse := []
  /-- The vectors read that the pins have not passed (R466), and the DRV codes at the 32 pins in the last fc, two bits a
  pin (R465). -/
  outs : List PatVec := []
  drv : Nat := 0
  /-- The DRV codes with the instants at which they reach the pins, in half picoseconds (R467). -/
  pins : List (Nat × Nat) := []
  /-- The fc in which FREEZE stopped the stream. -/
  frozen : Option Nat := none
  deriving DecidableEq, Repr

/-! ### Event matrix (20_event_matrix) -/

/-- An event registered by a channel (R483, R484): channel, destination, whether it sets HIT, and its delivery fc. -/
structure EvmEvent where
  chan : Nat
  dst : Nat
  irq : Bool
  due : Nat
  deriving DecidableEq, Repr

/-- The event matrix beside its registers: source events that wait for their MCLK edge (source code, and fc of the management
clock), events on their way, and the cycle of the last delivery to each destination (R485). -/
structure Evm where
  raised : List (Nat × Nat) := []
  flight : List EvmEvent := []
  last : SMap Nat := []
  deriving DecidableEq, Repr


/-! ### The state -/

/-- The whole block. -/
structure State where
  /-- Which part this is (R4, R5); it never changes. -/
  variant : Variant
  /-- The commands that wait, first in, first out. -/
  pending : List Instr
  /-- TIME, the 64-bit count of fabric cycles (R63). -/
  time : Time
  /-- The register file: the last value written to, or reported by, every register. -/
  regs : SMap Word
  /-- For a register with B-class fields that wait for their commit, the word still in force (R15, R88). -/
  held : SMap Word
  /-- The error FIFO of every page (R95). -/
  errs : SMap PageErr
  /-- The first fatal-class error whose fatal path has not run (R97, R536) -/
  fatal : Option FatalRec
  /-- The root PLL and the SYNC logic. -/
  pll : Pll
  /-- The MSI-X table, pending bits and messages. -/
  msix : Msix
  /-- The SRAM behind BAR2 by BAR2 offset; an unlisted byte is zero (R99, R461). -/
  mem : SMap Byte
  /-- The parity side array: key 0x4000 × tile + word, P3 to P0 in bits 3 to 0 (R129, R130). -/
  side : SMap Nat
  /-- The tiles by tile bit, page index − 0x10. -/
  tiles : SMap Tile
  /-- The read-out parts by tile bit. -/
  rdos : SMap Rdo
  /-- The flux outputs, by 16 × tile bit + output. -/
  flux : SMap FOut
  /-- The data that the last read command returned. -/
  lastRead : BitVec 64
  /-- The bytes that the last BAR2 read returned. -/
  lastBytes : List Byte
  /-- The last BAR2 read ended with Completer Abort (R367). -/
  lastAbort : Bool
  /-- The model's own counter of free values; no field of the part. -/
  free : Nat
  /-- The side arrays of the memories by line address; an unlisted line is good (R448, R449). -/
  lines : SMap LineSt
  /-- The master-image table registered by host software (R375). -/
  masters : List Master
  /-- The NVS profiles that hold a copy of a device range, with the NVS offset of the copy (R452). -/
  profiles : List Master
  /-- The scrubber pointer of each memory, the number of its next line, by 16 × page + kind (R460). -/
  scrub : SMap Nat
  /-- Live calibration beside its registers. -/
  cal : Cal
  /-- Publications and imports in flight through Tulle (R267). -/
  pubs : List Pub
  /-- The decision slots beside their registers. -/
  slots : SMap TulSlot
  /-- What the device shot has recorded once already. -/
  once : ShotOnce
  /-- The Darner patches beside their registers. -/
  patches : SMap Patch
  /-- The escalation queue, oldest first: records of 32 bytes as little-endian numbers (R302, R303). -/
  esc : List Nat
  /-- The first fc after FREEZE of the Darner last cleared (R307). -/
  thaw : Nat
  /-- When the periodic events last happened, on the model's own clock, by number (R381, R397, R424, R432, R445, R459). -/
  timers : SMap Nat
  /-- The Jodex ports beside their registers. -/
  ports : SMap Port
  /-- Discovery, topology and routes beside the CST registers. -/
  cst : Cst
  /-- The DMA channels beside their registers -/
  dma : SMap Dma
  /-- The mailbox, the master-image load and the posted writes -/
  pcie : Pcie
  /-- Hoop firmware, the NVS and the boot flash -/
  hoop : Hoop
  /-- The start logic, the fatal path and the platform pins -/
  boot : Boot
  /-- Debug access -/
  dbgAcc : Debug
  /-- Nanoseconds of the model's own clock since power-on, counted by the idle step; no field of the part -/
  up : Nat
  /-- The Sampler beside its registers -/
  smp : Sampler
  /-- The repair map in force (R458) -/
  repairs : List Repair
  /-- Bias outputs beside their registers -/
  bias : Bias
  /-- The pattern run -/
  pat : Pat
  /-- The event matrix beside its registers -/
  evm : Evm
  /-- Soft resets in progress: page, and the count of `mck` at which the 16 mc end (R82) -/
  softRst : SMap Nat
  /-- The management clock since power-on in 1/40 mc: 10 in a ns on the root clocks and 1 on the backup clocks (R49, R52), counted
  by the idle step and brought into step with TIME at a lock and at an epoch; no field of the part -/
  mck : Nat
  /-- Registers whose value has changed in the mc at hand, by register-file address (R79, R87) -/
  was : SMap Was
  deriving DecidableEq, Repr

/-- The block right after power-on reset, before the start sequence has done a step: the queue of commands is empty,
every register holds the reset value of its table, and the memories list nothing. -/
def State.reset : State where
  variant := .mq256
  pending := []
  time := 0#64
  regs := []
  held := []
  errs := []
  fatal := none
  pll := {}
  msix := {}
  mem := []
  side := []
  tiles := []
  rdos := []
  flux := []
  lastRead := 0#64
  lastBytes := []
  lastAbort := false
  free := 0
  lines := []
  masters := []
  profiles := []
  scrub := []
  cal := {}
  pubs := []
  slots := []
  once := {}
  patches := []
  esc := []
  thaw := 0
  timers := []
  ports := []
  cst := {}
  dma := []
  pcie := {}
  hoop := {}
  boot := {}
  dbgAcc := {}
  up := 0
  smp := {}
  repairs := []
  bias := {}
  pat := {}
  evm := {}
  softRst := []
  mck := 0
  was := []

end Sys2Proof.Machine
end

