-- ==== Sys2Proof/Machine/Ops.lean ====
section
/-!
DEFINITION. The named operations over the state: registers and their fields, values in force, error records,
interrupts, the memory behind BAR2 and the presence of units. Every meaning is written over them.
-/
namespace Sys2Proof.Machine

/-- The outcome of a command. -/
abbrev Res1 := Host.Outcome State Fault Refusal

/-! ### Bits of a word -/

/-- The field of a word: its bits shifted down. -/
def Fld.of (f : Fld) (w : Word) : Nat := w.toNat / 2 ^ f.lo % 2 ^ f.w

/-- The mask of a field within its word. -/
def Fld.mask (f : Fld) : Word := BitVec.ofNat 32 ((2 ^ f.w - 1) <<< f.lo)

/-- The word with a field replaced. -/
def Fld.upd (f : Fld) (v : Nat) (w : Word) : Word :=
  (w &&& ~~~f.mask) ||| (BitVec.ofNat 32 (v % 2 ^ f.w * 2 ^ f.lo))

/-- Bit `i` of a number. -/
def bit (n i : Nat) : Nat := n / 2 ^ i % 2

/-- The number with bit `i` set. -/
def setBit (n i : Nat) : Nat := if bit n i = 1 then n else n + 2 ^ i

/-- The number with bit `i` cleared. -/
def clrBit (n i : Nat) : Nat := if bit n i = 1 then n - 2 ^ i else n

/-- The number with bit `i` inverted. -/
def flipBit (n i : Nat) : Nat := if bit n i = 1 then n - 2 ^ i else n + 2 ^ i

/-- The number with bit `i` set to a truth value. -/
def putBit (n i : Nat) (b : Bool) : Nat := if b then setBit n i else clrBit n i

/-- How many of the low `k` bits are set. -/
def popcount (k n : Nat) : Nat := ((List.range k).map (bit n)).sum

/-- A truth value as a bit. -/
def ofBool (b : Bool) : Nat := if b then 1 else 0

/-- The signed value of a `w`-bit two's-complement number (R20). -/
def toSigned (w n : Nat) : Int := if n % 2 ^ w < 2 ^ (w - 1) then (n % 2 ^ w : Nat) else ((n % 2 ^ w : Nat) : Int) - 2 ^ w

/-- A signed value as a `w`-bit two's-complement number. -/
def ofSigned (w : Nat) (v : Int) : Nat := (v % (2 ^ w : Int)).toNat

/-- A signed value limited to a range. -/
def clampI (lo hi v : Int) : Int := if v < lo then lo else if hi < v then hi else v

/-- The quotient rounded to nearest, ties away from zero; `d` is positive. -/
def roundDiv (n : Int) (d : Nat) : Int :=
  if 0 ≤ n then ((2 * n + d) / (2 * d : Int)) else -((2 * -n + d) / (2 * d : Int))

/-! ### Presence (R4, R7) -/

/-- Whether the part has tile bit `b`: DRV 0–15 at bits 0–15, RDO at 16–23, FLX at 24–31; the MQ-128A has the lower
half of each (R4, R7). -/
def tilePresent (s : State) (b : Nat) : Bool :=
  match s.variant with
  | .mq256 => decide (b < 32)
  | .mq128 => decide (b < 8) || (decide (16 ≤ b) && decide (b < 20)) || (decide (24 ≤ b) && decide (b < 28))

/-- The page of tile bit `b`. -/
def tilePage (b : Nat) : Nat := 0x10 + b

/-- Whether page `p` exists on this part. -/
def pagePresent (s : State) (p : Nat) : Bool :=
  if 0x10 ≤ p ∧ p < 0x30 then tilePresent s (p - 0x10) else decide (p < 0x3A)

/-- Whether tile bit `b` is a drive tile. -/
def isDrv (b : Nat) : Bool := decide (b < 16)

/-- Whether tile bit `b` is a read-out tile. -/
def isRdo (b : Nat) : Bool := decide (16 ≤ b) && decide (b < 24)

/-- Whether tile bit `b` is a flux tile. -/
def isFlx (b : Nat) : Bool := decide (24 ≤ b) && decide (b < 32)

/-- The bias outputs the part has (R7). -/
def biasCount (s : State) : Nat := match s.variant with | .mq256 => 64 | .mq128 => 32

/-- Whether comparator `n` exists: 64 bias comparators on the MQ-256A and 32 on the MQ-128A, then 16 for supplies at
64 to 79 (R4, R7, R419). -/
def cmpPresent (s : State) (n : Nat) : Bool :=
  match s.variant with
  | .mq256 => decide (n < 80)
  | .mq128 => decide (n < 32) || (decide (64 ≤ n) && decide (n < 80))

/-! ### The register file -/

/-- The word at a register-file address. -/
def rdWord (s : State) (a : Nat) : Word := smGet (regReset a) a s.regs

/-- The state with a word at a register-file address. -/
def wrWord (a : Nat) (w : Word) (s : State) : State := { s with regs := smPut (regReset a) a w s.regs }

/-- The value of a field, as last written or reported. -/
def getF (s : State) (p : Nat) (f : Fld) (i : Nat := 0) : Nat := f.of (rdWord s (f.addr p i))

/-- The state with a field set. -/
def putF (p : Nat) (f : Fld) (v : Nat) (i : Nat := 0) (s : State) : State :=
  wrWord (f.addr p i) (f.upd v (rdWord s (f.addr p i))) s

/-- Whether a one-bit field is 1. -/
def isSet (s : State) (p : Nat) (f : Fld) (i : Nat := 0) : Bool := decide (getF s p f i = 1)

/-- The word in force at a register-file address: the held word while a B-class write waits, else the word (R15). -/
def inForce (s : State) (a : Nat) : Word := (smFind a s.held).getD (rdWord s a)

/-- The value in force of a B-class field. -/
def getB (s : State) (p : Nat) (f : Fld) (i : Nat := 0) : Nat := f.of (inForce s (f.addr p i))

/-- A counter field incremented, saturating at its largest value. -/
def incSat (p : Nat) (f : Fld) (i : Nat := 0) (s : State) : State :=
  putF p f (min (getF s p f i + 1) (2 ^ f.w - 1)) i s

/-- A counter field increased by `n`, saturating at its largest value. -/
def addSat (p : Nat) (f : Fld) (n : Nat) (i : Nat := 0) (s : State) : State :=
  putF p f (min (getF s p f i + n) (2 ^ f.w - 1)) i s

/-- A counter field incremented, wrapping by design. -/
def incWrap (p : Nat) (f : Fld) (i : Nat := 0) (s : State) : State :=
  putF p f ((getF s p f i + 1) % 2 ^ f.w) i s

/-- A field pair read as one number, low part first. -/
def getPair (s : State) (p : Nat) (lo hi : Fld) (i : Nat := 0) : Nat :=
  getF s p lo i + getF s p hi i * 2 ^ lo.w

/-- A field pair written from one number, low part first. -/
def putPair (p : Nat) (lo hi : Fld) (v : Nat) (i : Nat := 0) (s : State) : State :=
  putF p hi (v / 2 ^ lo.w) i (putF p lo v i s)

/-! ### TIME -/

/-- TIME as a number. -/
def now (s : State) : Nat := s.time.toNat

/-- TIME in the fc t0 of the MCLK edge at which a register access reaches its page (R79). -/
def busTime (s : State) : Nat := now s - now s % 4

/-- The fc that FCLK has come to: TIME while the root PLL is locked; in a holdover TIME stands (R63), and FCLK runs on (R52). -/
def fcNow (s : State) : Time :=
  if isSet s 1 CLK.PLL_STAT_LOCK then s.time else s.time + BitVec.ofNat 64 (s.up - s.pll.holdAt)

/-- The mc at hand, as a number that tells one mc from another: four fc on the root clocks, 40 ns on the backup clocks (R49,
R52, R79). -/
def mcNow (s : State) : Nat :=
  if isSet s 1 CLK.PLL_STAT_BACKUP then 2 * (s.up / 40) + 1 else 2 * ((fcNow s).toNat / 4)

/-- The word at a register-file address as an access of a requester sees it: a change of the mc at hand is not seen (R79,
R87), unless it is the requester's own, whose next access falls in a later mc. -/
def seenWord (s : State) (who : Requester) (a : Nat) : Word :=
  match smFind a s.was with
  | some w => if w.mc = mcNow s ∧ w.who ≠ some who then w.word else rdWord s a
  | none => rdWord s a

/-- A field as an access of a requester sees it (R79, R87). -/
def seenF (s : State) (who : Requester) (p : Nat) (f : Fld) (i : Nat := 0) : Nat := f.of (seenWord s who (f.addr p i))

/-- A one-bit field as an access of a requester sees it. -/
def seenSet (s : State) (who : Requester) (p : Nat) (f : Fld) (i : Nat := 0) : Bool := decide (seenF s who p f i = 1)

/-- The word `w` kept as what the register at `a` held at the start of the mc at hand, unless an earlier change of this mc has
kept one; what earlier mc have kept is dropped (R79, R87). -/
def keepWas (who : Option Requester) (a : Nat) (w : Word) (s : State) : State :=
  let l := s.was.filter (fun e => decide (e.2.mc = mcNow s))
  match smFind a l with
  | some _ => { s with was := l }
  | none => { s with was := smSet a { mc := mcNow s, word := w, who := who } l }

/-- The register at `a` kept as it stands, before a change of it. -/
def noteWas (who : Option Requester) (a : Nat) (s : State) : State := keepWas who a (rdWord s a) s

/-! ### Interrupts (R85, R92, R93) -/

/-- Whether the interrupt line of a page is asserted: the OR of IRQ_STAT AND IRQ_EN (R92). -/
def irqLine (s : State) (p : Nat) : Bool :=
  decide ((rdWord s (HDR.IRQ_STAT.addr p 0) &&& rdWord s (HDR.IRQ_EN.addr p 0)) ≠ 0#32)

/-- A message on a vector: sent while the vector is unmasked, else recorded in the pending-bit array (R93, R369). -/
def sendVec (v : Nat) (s : State) : State :=
  if v ∈ s.msix.unmasked then { s with msix := { s.msix with sent := v :: s.msix.sent } }
  else if v ∈ s.msix.pba then s
  else { s with msix := { s.msix with pba := v :: s.msix.pba } }

/-- The vector of a page's line (R92). -/
def pageVec (s : State) (p : Nat) : Nat := getF s 0xD PCI.VEC_MAP_VEC p

/-- The page's message, sent when its line has risen from `was` (R93). -/
def irqEdge (p : Nat) (was : Bool) (s : State) : State :=
  if irqLine s p && !was then sendVec (pageVec s p) s else s

/-- IRQ_STAT with the bits of a mask set, and the message of the line if it rises. -/
def irqSet (p : Nat) (mask : Word) (s : State) : State :=
  irqEdge p (irqLine s p)
    (wrWord (HDR.IRQ_STAT.addr p 0) (rdWord s (HDR.IRQ_STAT.addr p 0) ||| mask) s)

/-- One IRQ_STAT bit set. -/
def irqBit (p b : Nat) (s : State) : State := irqSet p (BitVec.ofNat 32 (2 ^ b)) s

/-! ### The management clock -/

/-- The fc of the management clock, 4 to an mc and 16 to an hc: in step with TIME while the root PLL is locked, and going on with the
backup clocks while it is not (R49, R52, R483). -/
def mfc (s : State) : Nat := s.mck / 10

/-- The management clock brought into step with TIME: its edges are those at which TIME is a multiple of 4 and of 16 (R49). What
counts on it goes on from there (DEDUCED, log entry 11). -/
def alignMck (s : State) : State :=
  let d := (10 * (now s % 16) + 160 - s.mck % 160) % 160
  { s with mck := s.mck + d, hoop := { s.hoop with spAt := s.hoop.spAt + d }, softRst := s.softRst.map (fun e => (e.1, e.2 + d)) }

/-! ### Periods -/

/-- The events that recur after a period, by number: the Sampler's round timer, telemetry, the monitoring periods, the leak of the bucket
of each memory, and the unreported progress of each DMA channel (R381, R424, R432, R445, R459). -/
def tmRound : Nat := 0
def tmTelemetry : Nat := 1
def tmMon : Nat := 2
def tmLeak (idx : Nat) : Nat := 100 + idx
def tmHold (c : Nat) : Nat := 10 + c
/-- The stale timer of a tile's calibration run, and the freeze of the CAL page that holds it (R397, R405). -/
def tmStale (b : Nat) : Nat := 3000 + b
def tmCalHeld : Nat := 3032
/-- The estimation block of a read-out tile's ADC (R398). -/
def tmBlock (b : Nat) : Nat := 3100 + b

/-- A period of `ns` has passed since an event last happened, if it has. -/
def timerDue (s : State) (k ns : Nat) : Bool :=
  match smFind k s.timers with
  | some t => decide (t + ns ≤ s.up)
  | none => true

/-- An event happens now. -/
def stampTimer (k : Nat) (s : State) : State := { s with timers := smSet k s.up s.timers }

/-- A timer that has stood still for `d` ns. -/
def shiftTimer (k d : Nat) (s : State) : State :=
  match smFind k s.timers with
  | some t => { s with timers := smSet k (t + d) s.timers }
  | none => s

/-- An event is no longer timed. -/
def dropTimer (k : Nat) (s : State) : State := { s with timers := smErase k s.timers }

/-! ### Work for Hoop firmware -/

/-- Work for an urgent service (R497). -/
def urge (u : Urgent) (s : State) : State :=
  if u ∈ s.hoop.urgent then s else { s with hoop := { s.hoop with urgent := s.hoop.urgent ++ [u] } }

/-! ### Error records (R95 to R98) -/

/-- The error side of a page. -/
def pageErr (s : State) (p : Nat) : PageErr := smGet {} p s.errs

/-- The errors of an mc in ascending UNIT order, those of one unit in the order they were detected (R95). -/
def insUnit (r : ErrRec) : List ErrRec → List ErrRec
  | [] => [r]
  | x :: l => if x.unit ≤ r.unit then x :: insUnit r l else r :: x :: l

/-- The error side of a page with a further error of the mc at hand. The errors of one mc stand in ascending UNIT order behind
the records held before it, and take their numbers in that order; those for which the FIFO of four has no place are
dropped (R95, R96). -/
def PageErr.add (mc : Nat) (r : ErrRec) (e : PageErr) : PageErr :=
  let same := decide (e.mc = mc) && decide (e.batch ≠ [])
  let held := if same then e.fifo.take e.old else e.fifo
  let base := if same then e.base else e.seq
  let batch := (insUnit r (if same then e.batch else [])).mapIdx (fun i x => { x with seq := (base + i) % 256 })
  { fifo := held ++ batch.take (4 - held.length), seq := (e.seq + 1) % 256, mc := mc, base := base, old := held.length, batch := batch }

/-- A detected error: queued behind the records held, or dropped and counted while the FIFO holds four (R95, R96). A
record of severity 0b11 escalates to the fatal path; the first one is kept for it, and each is counted (R97, R537). -/
def errRec (p code sev unit : Nat) (info addr : Nat) (s : State) : State :=
  let e := pageErr s p
  let r : ErrRec := { code := code, sev := sev, unit := unit, seq := e.seq, info := BitVec.ofNat 32 info,
                      addr := BitVec.ofNat 32 addr, tstamp := BitVec.ofNat 32 (now s / 16) }
  let s := incSat p HDR.ERR_CNT_TOTAL 0 s
  let s := { s with errs := smSet p (e.add (mcNow s) r) s.errs }
  let s := if e.fifo.length < 4 then irqBit p 24 s else irqBit p 25 (incSat p HDR.ERR_CNT_OVF 0 s)
  if sev = 3 then
    if s.fatal.isNone && s.boot.fatal.isNone then
      let r : FatalRec := { page := p, code := code, info := BitVec.ofNat 32 info, addr := BitVec.ofNat 32 addr, t := now s, health := getF s 0 GLB.HEALTH_STATE }
      putF 0xF DMP.DUMP_STAT_FATAL_CNT 1 0 { s with fatal := some r }
    else incSat 0xF DMP.DUMP_STAT_FATAL_CNT 0 s
  else s

/-- No reset is held: power-on reset, RESET_N and a thermal trip of the MQ-256A (R509, R511, R441). -/
def alive (s : State) : Bool := s.boot.por.isNone && !s.boot.rstLow && !s.boot.trip

/-- A Hoop machine check at a word address of the microcode store (R40, R495): recorded fatal-class, and the store no longer holds
the image undamaged, so that the warm start of the fatal path reloads it. -/
def hoopCheck (a : Nat) (s : State) : State :=
  if alive s && s.boot.fw then
    let s := incSat 2 HOOP.MC_STAT_CNT 0 (putF 2 HOOP.MC_STAT_ADDR a 0 s)
    errRec 2 0x21 3 0 a 0 { s with hoop := { s.hoop with resident := false } }
  else s

/-- CFG_BUSY of a page with its interrupt (03_register_conventions, STATUS and IRQ_STAT). -/
def cfgBusy (p : Nat) (s : State) : State := irqBit p 26 (putF p HDR.STATUS_CFG_BUSY 1 0 s)

/-! ### Tiles -/

/-- The tile of tile bit `b`. -/
def tileOf (s : State) (b : Nat) : Tile := smGet {} b s.tiles

/-- The state with a tile. -/
def setTile (b : Nat) (t : Tile) (s : State) : State := { s with tiles := smSet b t s.tiles }

/-- The state with a tile changed. -/
def modTile (b : Nat) (g : Tile → Tile) (s : State) : State := setTile b (g (tileOf s b)) s

/-- The read-out part of tile bit `b`. -/
def rdoOf (s : State) (b : Nat) : Rdo := smGet {} b s.rdos

/-- The state with a read-out part. -/
def setRdo (b : Nat) (r : Rdo) (s : State) : State := { s with rdos := smSet b r s.rdos }

/-- The state with a read-out part changed. -/
def modRdo (b : Nat) (g : Rdo → Rdo) (s : State) : State := setRdo b (g (rdoOf s b)) s

/-- Flux output `k` of tile bit `b`. -/
def fluxOf (s : State) (b k : Nat) : FOut := smGet {} (16 * b + k) s.flux

/-- The state with a flux output. -/
def setFlux (b k : Nat) (o : FOut) (s : State) : State := { s with flux := smSet (16 * b + k) o s.flux }

/-- The tile bits of the part, in page order. -/
def tileBits (s : State) : List Nat := (List.range 32).filter (tilePresent s)

/-- STATUS.RUN of a tile: 1 in ARMED, RUN and STOPPING (R84, R150). -/
def tileRunning (s : State) (b : Nat) : Bool := isSet s (tilePage b) HDR.STATUS_RUN

/-- Whether any Tambour of the device runs. -/
def anyRunning (s : State) : Bool := (tileBits s).any (tileRunning s)

/-- `TMB_STAT.STATE` of a tile (R150). -/
def tileState (s : State) (b : Nat) : Nat := getF s (tilePage b) TMB.TMB_STAT_STATE

/-- The shot number a tile holds in SHOT_LO and SHOT_HI (R152). -/
def shotNum (s : State) (b : Nat) : Nat := getPair s (tilePage b) TMB.SHOT_LO TMB.SHOT_HI_SHOT_H

/-- The state codes of R150. -/
def stStopped : Nat := 0
def stArmed : Nat := 1
def stRun : Nat := 2
def stStopping : Nat := 3
def stHaltedMc : Nat := 4
def stHaltedClk : Nat := 5
def stFrozen : Nat := 6

/-- The lowest-indexed running tile. -/
def lowestRunning (s : State) : Option Nat := (tileBits s).find? (tileRunning s)

/-- The tile whose shot boundaries are device shot boundaries (R67, `CLK.SHOT_REF.TILE`). -/
def deviceTile (s : State) : Option Nat :=
  let p := getF s 1 CLK.SHOT_REF_TILE
  if 0x10 ≤ p ∧ p < 0x30 ∧ tilePresent s (p - 0x10) = true ∧ tileRunning s (p - 0x10) = true then some (p - 0x10)
  else lowestRunning s

/-! ### Memory behind BAR2 -/

/-- One byte of BAR2 memory. -/
def rdByte (s : State) (a : Nat) : Byte := smGet 0#8 a s.mem

/-- The state with one byte of BAR2 memory. -/
def wrByte (a : Nat) (v : Byte) (s : State) : State := { s with mem := smPut 0#8 a v s.mem }

/-- BAR2 memory cleared wherever `hit` holds: those bytes read zero. -/
def wipe (hit : Nat → Bool) (s : State) : State := { s with mem := s.mem.filter (fun e => !hit e.1) }

/-- `n` bytes from an address as a little-endian number (R11). -/
def rdBytes (s : State) (a : Nat) : Nat → Nat
  | 0 => 0
  | n + 1 => (rdByte s a).toNat + 256 * rdBytes s (a + 1) n

/-- Bytes written from an address upward. -/
def wrBytes (a : Nat) : List Byte → State → State
  | [], s => s
  | v :: l, s => wrBytes (a + 1) l (wrByte a v s)

/-- A number as `n` little-endian bytes. -/
def toBytes (v : Nat) : Nat → List Byte
  | 0 => []
  | n + 1 => BitVec.ofNat 8 v :: toBytes (v / 256) n

/-- The BAR2 base of a tile's aperture (R99). -/
def aperture (b : Nat) : Nat := b * 0x800000

/-! ### Folds over units -/

/-- A state operation done for every element of a list in turn. -/
def forAll {α : Type} (l : List α) (g : α → State → State) (s : State) : State := l.foldl (fun s x => g x s) s

/-- A fresh free value's index, and the state that has used it up. -/
def useFree (s : State) : State := { s with free := s.free + 1 }

end Sys2Proof.Machine
end

