-- ==== Sys2Proof/Machine/Operands.lean ====
section
/-!
DEFINITION. Register accesses as operands of commands: which register an offset names, which requester reaches it,
and what ownership, LOCK, soft reset and the change classes let a write do (R77 to R91, R522); and the operand fields
of a microword (R103).
-/
namespace Sys2Proof.Machine

/-! ### Which register -/

/-- The fields that stand at page offset `o` of a page kind. -/
def fieldsAt (k : PageKind) (o : Nat) : List FieldDesc :=
  ((k.allRegs.filter (fun d => d.covers o)).map (fun d => d.fields)).flatten

/-- Whether a register stands at page offset `o`. -/
def mapped (k : PageKind) (o : Nat) : Bool := k.allRegs.any (fun d => d.covers o)

/-- The description of a field of a page kind. -/
def descOf (k : PageKind) (f : Fld) : FieldDesc :=
  ((fieldsAt k f.off).find? (fun d => decide (d.fld.lo = f.lo) && decide (d.fld.w = f.w))).getD ⟨f, .ro, .l, 0⟩

/-- The code of a requester in OWNER.OWN and in ERR_INFO (R91, R98). -/
def reqCode : Requester → Nat
  | .host => 1
  | .hoop => 2

/-- The index of a requester among values held per requester. -/
def reqIdx : Requester → Nat
  | .host => 0
  | .hoop => 1

/-- The window index through which a requester reaches a register (R245, and the SEL registers of TUL, MIC, CAL and
CST): the selected unit, the requester's own copy, or 0. -/
def winIdx (s : State) (who : Requester) (p o : Nat) : Nat :=
  match pageKind p with
  | some .rdo =>
    if o = RDO.STAT_SEL_TONE.off ∨ o = RDO.DISC_SEL_TONE.off ∨ (RDO.ACC_I_LO.off ≤ o ∧ o ≤ RDO.ACC_Q_HI_Q_H.off) then reqIdx who
    else if o = RDO.ACC_CNT.off then getF s p RDO.STAT_SEL_TONE (reqIdx who)
    else if RDO.DISC_W0.off ≤ o ∧ o ≤ RDO.DISC_W7.off then getF s p RDO.DISC_SEL_TONE (reqIdx who)
    else 0
  | some .tul =>
    if o = TUL.SLOT_SEL_SLOT.off then reqIdx who
    else if TUL.SLOT_SRC.off ≤ o ∧ o ≤ TUL.SLOT_CNT.off then getF s p TUL.SLOT_SEL_SLOT (reqIdx who)
    else 0
  | some .mic =>
    if o = MIC.MEM_SEL_PAGE.off then reqIdx who
    else if MIC.MEM_STAT.off ≤ o ∧ o ≤ MIC.MEM_LOST.off then
      getF s p MIC.MEM_SEL_PAGE (reqIdx who) * 16 + getF s p MIC.MEM_SEL_KIND (reqIdx who)
    else 0
  | some .cal =>
    if o = CAL.TILE_SEL_TILE.off then reqIdx who
    else if o = CAL.TILE_STAT.off ∨ o = CAL.TILE_RUN.off then getF s p CAL.TILE_SEL_TILE (reqIdx who)
    else 0
  | some .cst =>
    if o = CST.TOPO_SEL_NUM.off ∨ (CST.RQ_SLOT_SLOT.off ≤ o ∧ o ≤ CST.RQ_STAT_BUSY.off) then reqIdx who else 0
  | some .clk => if o = CLK.TIME_HI.off then reqIdx who else 0
  | some .thm => if o = THM.ENERGY_HI.off then reqIdx who else 0
  | _ => 0

/-- The register-file address that an access reaches. -/
def accAddr (s : State) (who : Requester) (p o : Nat) : Nat := p * 0x1000 + o + windowStride * winIdx s who p o

/-! ### Who may write what -/

/-- Whether BAR0 reaches a page: all after READY, GLB before it, GLB and PCI in SAFE mode (R522). -/
def reachable (s : State) (p : Nat) : Bool :=
  isSet s 0 GLB.START_STAT_READY || decide (p = 0) || (isSet s 0 GLB.START_STAT_SAFE && decide (p = 0xD))

/-- Whether a requester reaches a page: the limits of R522 bind BAR0 accesses of the host. -/
def reaches (s : State) (who : Requester) (p : Nat) : Bool := reachable s p || decide (who = .hoop)

/-- Whether ownership discards a requester's write to page offset `o` (R90). -/
def ownBlocks (s : State) (who : Requester) (p o : Nat) : Bool :=
  let own := getF s p HDR.OWNER_OWN
  let guarded := decide (o ∈ [0x00C, 0x018, 0x01C, 0x020, 0x034]) || decide (0x040 ≤ o)
  let rstCtl := decide (who = .host) && decide (p = 0) && decide (o = GLB.RST_CTL.off)
  let mbx := decide (who = .host) && decide (p = 0xD) && isSet s 0 GLB.START_STAT_SAFE
    && decide (o ∈ [PCI.MBX_BASE_LO.off, PCI.MBX_BASE_HI.off, PCI.MBX_DB.off])
  guarded && decide (own ≠ 0) && decide (own ≠ reqCode who) && !rstCtl && !mbx

/-- A write discarded under the ownership rules: the interrupt and the record (R90, R91). -/
def ownViol (who : Requester) (p o : Nat) (s : State) : State :=
  errRec p 0x03 0 0 (reqCode who) (p * 0x1000 + o) (irqBit p 27 s)

/-- A write that tried to change a locked field (R89). -/
def lockViol (who : Requester) (p o : Nat) (s : State) : State :=
  errRec p 0x04 0 0 (reqCode who) (p * 0x1000 + o) (irqBit p 28 s)

/-- Whether LOCK protects a field of the register at offset `o`: LK_CFG the B-class and S-class fields and IRQ_EN,
LK_ALL in addition the L-class fields of the block registers and CTRL. Only a field that a write could change is
protected (R89). -/
def lockProt (s : State) (p o : Nat) (d : FieldDesc) : Bool :=
  let cfg := isSet s p HDR.LOCK_LK_CFG || isSet s p HDR.LOCK_LK_ALL
  let all := isSet s p HDR.LOCK_LK_ALL
  let writable := match d.acc with | .ro => false | .rc => false | _ => true
  writable && ((cfg && (decide (d.cls = .b) || decide (d.cls = .s) || decide (o = 0x018)))
    || (all && (decide (0x040 ≤ o) || decide (o = 0x00C))))

/-- Whether a write of `data` would change a protected field: another value for RW, a 1 for WO, W1S and W1C (R89). -/
def lockHit (d : FieldDesc) (data old : Word) : Bool :=
  match d.acc with
  | .rw => decide (d.fld.of data ≠ d.fld.of old)
  | .w1c | .w1s | .wo => decide (d.fld.of data ≠ 0)
  | _ => false

/-- The tile bit that owns an OUT_DELAY entry (R75). -/
def delayOwner (i : Nat) : Nat :=
  if i < 32 then i / 2 else if i < 40 then 16 + (i - 32) else if i < 168 then 24 + (i - 40) / 16 else 16 + (i - 168)

/-- Whether a page's STATUS.RUN holds for a write of a requester: it is 1, and was at the start of the mc (R79, R87). -/
def runsFor (s : State) (who : Requester) (p : Nat) : Bool := isSet s p HDR.STATUS_RUN && seenSet s who p HDR.STATUS_RUN

/-- Whether the S-class fields of the register at offset `o` of a page are shut for a requester: the page counts as running,
as the mc of the write began (R84, R86, R87). The CLK page counts while any Tambour runs, the CST page while JOINED, the PAT page during a run, a Jodex port in
ACTIVE and E_IDLE (R324), and a DMA channel's registers while the channel is not IDLE (R370). -/
def sBlocked (s : State) (who : Requester) (p o : Nat) : Bool :=
  match pageKind p with
  | some .clk => (tileBits s).any (fun b => seenSet s who (tilePage b) HDR.STATUS_RUN)
  | some .cst => seenSet s who p CST.STATUS_JOINED
  | some .pat => seenSet s who p HDR.STATUS_RUN
  | some .drv | some .rdo | some .flx => seenSet s who p HDR.STATUS_RUN
  | some .pci =>
    if 0x400 ≤ o then decide (getF s p PCI.CH_STAT_STATE ((o - 0x400) / 0x40) ≠ 0) else isSet s p HDR.CTRL_EN
  | some .jdx => decide (seenF s who p JDX.STATUS_STATE = 5) || decide (seenF s who p JDX.STATUS_STATE = 6)
  | _ => isSet s p HDR.CTRL_EN

/-- Whether a B-class write of a requester at offset `o` of a page waits for a boundary (R15, R67, R69): the page's own tile
runs, a Tambour of the device runs for a device-level page, the owning tile runs for an OUT_DELAY entry, or a pattern run is
in progress for the PAT page. A page that started in the mc of the write counts as stopped (R87); one that stopped in it has
had its boundary. -/
def bWaits (s : State) (who : Requester) (p o : Nat) : Bool :=
  match pageKind p with
  | some .drv | some .rdo | some .flx => runsFor s who p
  | some .pat => runsFor s who p
  | some .clk =>
    if CLK.OUT_DELAY_COARSE.off ≤ o then runsFor s who (tilePage (delayOwner ((o - CLK.OUT_DELAY_COARSE.off) / 4)))
    else (tileBits s).any (fun b => runsFor s who (tilePage b))
  | _ => (tileBits s).any (fun b => runsFor s who (tilePage b))

/-- Whether a field takes a written value at all: the values that the register tables say are ignored. -/
def fieldTakes (p o : Nat) (d : FieldDesc) (v : Nat) : Bool :=
  match pageKind p with
  | some .clk => !(decide (o = CLK.SYNC_CTL_SRC.off) && decide (d.fld.lo = CLK.SYNC_CTL_SRC.lo) && decide (v = 3))
  | some .jdx => !(decide (o = JDX.PORT_CFG_MODE.off) && decide (d.fld.lo = JDX.PORT_CFG_MODE.lo) && decide (v = 3))
  | some .tul => !(decide (o = TUL.SLOT_SRC_KIND.off) && decide (d.fld.lo = TUL.SLOT_SRC_KIND.lo) && decide (3 ≤ v))
  | some .pci => !(decide (PCI.VEC_MAP_VEC.off ≤ o) && decide (o < PCI.VEC_MAP_VEC.off + 4 * 58) && decide (58 ≤ v))
  | some .flx => !(decide (FLX.OUT_CFG_RANGE.off ≤ o) && decide (o < FLX.OUT_CFG_RANGE.off + 0x100)
      && decide (o % 0x10 = 0) && decide (d.fld.lo = FLX.OUT_CFG_RANGE.lo) && decide (v = 3))
  | _ => true

/-! ### A trigger field written by its own command -/

/-- What every write meets first: presence and reach (R522), a soft reset in progress (R82; one that ends in the mc of the write
is still in progress for it, R79) and ownership (R90). -/
def busGate (who : Requester) (p o : Nat) (effect : State → State) (s : State) : State :=
  if (pageKind p).isNone || !(pagePresent s p && reaches s who p) then s
  else if seenSet s who p HDR.STATUS_RST_BUSY && decide (o ≠ 0x014) then cfgBusy p s
  else if ownBlocks s who p o then ownViol who p o s
  else effect s

/-- What a read of a register returns for the test of R89: the word written, or, where DISC_SEL.VIEW asks for it, the geometry in
force, with the SET_SEQ in force (R231). -/
def lockView (s : State) (who : Requester) (p o a : Nat) : Word :=
  if pageKind p = some .rdo ∧ RDO.DISC_W0.off ≤ o ∧ o ≤ RDO.DISC_W7.off then
    let live := rdWord s (a + 32 * windowStride)
    if isSet s p RDO.DISC_SEL_VIEW (reqIdx who) then live
    else if o = RDO.DISC_W7.off then RDO.DISC_W7_SET_SEQ.upd (RDO.DISC_W7_SET_SEQ.of live) (rdWord s a)
    else rdWord s a
  else rdWord s a

/-- A write of one field that has a command of its own: what the bus lets it do (R79, R82, R86, R89, R90, R522), then
the field's effect. A write that does not reach its effect leaves only the record and the flags of the refusal; a protected
field keeps its value, and the write is a violation where it carries another (R89). -/
def viaBus (who : Requester) (p : Nat) (f : Fld) (i data : Nat) (effect : State → State) (s : State) : State :=
  match pageKind p with
  | none => s
  | some k =>
    let o := f.off + (if f.stride = windowStride then 0 else f.stride * i)
    let d := descOf k f
    busGate who p o (fun s =>
      if lockProt s p o d then
        (if lockHit d (BitVec.ofNat 32 (data * 2 ^ f.lo)) (lockView s who p o (f.addr p i)) then lockViol who p o s else s)
      else if decide (d.cls = .s) && sBlocked s who p o then cfgBusy p s
      else effect s) s

/-- A page's STATUS, and a tile's TMB_STAT, kept as an access of a requester finds them before it changes them (R79, R87). -/
def notePage (who : Option Requester) (p : Nat) (s : State) : State :=
  let s := noteWas who (HDR.STATUS.addr p 0) s
  if 0x10 ≤ p ∧ p < 0x30 then noteWas who (TMB.TMB_STAT.addr p 0) s else s

/-- An act of a requester's access that may start or stop the block of a page. -/
def ownAct (who : Requester) (p : Nat) (act : State → State) (s : State) : State := act (notePage (some who) p s)

/-! ### The write of a whole register -/

/-- The word a write leaves in a register: every field that the write may change, by its access code (R14, R86). -/
def mergeFields (fs : List FieldDesc) (ok : FieldDesc → Bool) (data old : Word) : Word :=
  fs.foldl (fun w d =>
    if ok d then
      match d.acc with
      | .rw => d.fld.upd (d.fld.of data) w
      | .w1c => w &&& ~~~(data &&& d.fld.mask)
      | .w1s => w ||| (data &&& d.fld.mask)
      | _ => w
    else w) old

/-- STATUS.B_PEND of a page follows whether a value of the page still waits for its commit (R88). -/
def syncBPend (p : Nat) (s : State) : State :=
  putF p HDR.STATUS_B_PEND (ofBool (s.held.any (fun e => decide (e.1 % windowStride / 0x1000 = p)))) 0 s

/-- The value in force of a register kept while a B-class write of it waits (R15, R16). -/
def holdB (p a : Nat) (s : State) : State :=
  match smFind a s.held with
  | some _ => s
  | none => syncBPend p { s with held := smSet a (rdWord s a) s.held }

/-- The geometry words in force stand at window index 32 + tone of DISC_W0 to DISC_W7. A host value that takes effect
is copied there, its SET_SEQ aside (R231). -/
def geoSync (p a : Nat) (w : Word) (s : State) : State :=
  let o := a % windowStride % 0x1000
  if pageKind p = some .rdo ∧ RDO.DISC_W0.off ≤ o ∧ o ≤ RDO.DISC_W7.off ∧ a / windowStride < 32 then
    let b := a + 32 * windowStride
    wrWord b (if o = RDO.DISC_W7.off then RDO.DISC_W7_SPR2.upd (RDO.DISC_W7_SPR2.of w) (rdWord s b) else w) s
  else s

/-- A write that has passed presence, reach, width, soft reset and ownership: each field by its own class and lock
(R86 to R89). -/
def writeReg (who : Requester) (p o : Nat) (data : Word) (s : State) : State :=
  match pageKind p with
  | none => s
  | some k =>
    let fs := fieldsAt k o
    let a := accAddr s who p o
    let old := rdWord s a
    let viol := fs.any (fun d => lockProt s p o d && lockHit d data (lockView s who p o a))
    let shut := sBlocked s who p o
    let busy := shut && fs.any (fun d => decide (d.cls = .s) && !lockProt s p o d)
    let ok := fun d : FieldDesc => !lockProt s p o d && !(shut && decide (d.cls = .s)) && fieldTakes p o d (d.fld.of data)
    let wr := fs.any (fun d => ok d && decide (d.cls = .b) && decide (d.acc = .rw))
    let new := mergeFields fs ok data old
    let s := if wr && bWaits s who p o then holdB p a s else s
    let s := wrWord a new s
    let s := if wr && !bWaits s who p o then geoSync p a new s else s
    let s := if busy then cfgBusy p s else s
    if viol then lockViol who p o s else s

/-! ### The operand fields of a microword (R103) -/

/-- Bits `lo` upward, `w` of them, of a microword. -/
def mwBits (n lo w : Nat) : Nat := n / 2 ^ lo % 2 ^ w

/-- The fields of a 160-bit microword at the places of R103. -/
def decodeWord (n : Nat) : MWord :=
  { adv := mwBits n 148 12
    a := { tone := mwBits n 144 4, pulse := mwBits n 132 12, amp := mwBits n 122 10, phs := mwBits n 110 12 }
    b := { tone := mwBits n 106 4, pulse := mwBits n 94 12, amp := mwBits n 84 10, phs := mwBits n 72 12 }
    frm := mwBits n 68 4
    fop := mwBits n 66 2
    fval := mwBits n 56 10
    cond := mwBits n 50 6
    tgt := mwBits n 36 14
    ctr := mwBits n 34 2
    lop := mwBits n 32 2
    lval := mwBits n 24 8
    top := mwBits n 21 3
    tkey := mwBits n 16 5
    mark := mwBits n 12 4
    bnd := mwBits n 8 4
    aux := mwBits n 0 8 }

/-- The 160-bit microword with given fields (R103). -/
def encodeWord (w : MWord) : Nat :=
  let slot := fun (x : MSlot) => x.tone * 2 ^ 34 + x.pulse * 2 ^ 22 + x.amp * 2 ^ 12 + x.phs
  w.adv * 2 ^ 148 + slot w.a * 2 ^ 110 + slot w.b * 2 ^ 72 + w.frm * 2 ^ 68 + w.fop * 2 ^ 66 + w.fval * 2 ^ 56
    + w.cond * 2 ^ 50 + w.tgt * 2 ^ 36 + w.ctr * 2 ^ 34 + w.lop * 2 ^ 32 + w.lval * 2 ^ 24 + w.top * 2 ^ 21 + w.tkey * 2 ^ 16
    + w.mark * 2 ^ 12 + w.bnd * 2 ^ 8 + w.aux

/-- The distance in fc from a word's T to its successor's: ADV, with 0 meaning 1 (R105). -/
def MWord.advance (w : MWord) : Nat := if w.adv = 0 then 1 else w.adv

/-- The length in fc of a declared gap of a BND class, 2^(BND + 3) (R126). -/
def gapLen (bnd : Nat) : Nat := 2 ^ (bnd + 3)

end Sys2Proof.Machine
end

