-- ==== Sys2Proof/Machine/MemOps.lean ====
section
/-!
DEFINITION. The memories behind BAR2 line by line: the layout of R99 and R100, the line states of R448 to R457, the
microcode parity of R129 and R130, the buckets of R459, and the writes and real-time reads that all units share.
-/
namespace Sys2Proof.Machine

/-- A memory of the part: its page index, its kind (R450), its BAR2 base and its size. -/
structure MemRef where
  page : Nat
  kind : Nat
  base : Nat
  size : Nat
  deriving DecidableEq, Repr

/-- The memory of a tile aperture at an offset in it (R100). -/
def tileMem (b o : Nat) : Option MemRef :=
  let at_ (kind base size : Nat) : Option MemRef :=
    if base ≤ o ∧ o < base + size then some { page := tilePage b, kind := kind, base := aperture b + base, size := size } else none
  (at_ 0 0 0x50000).orElse fun _ =>
  (at_ 2 0x100000 (if isRdo b then 0x80000 else 0x100000)).orElse fun _ =>
  (if isRdo b then at_ 3 0x200000 0x80000 else none).orElse fun _ =>
  (at_ 1 0x300000 0x8000).orElse fun _ =>
  (if isRdo b then at_ 5 0x380000 0x4000 else if isFlx b then at_ 6 0x380000 0x4000 else none).orElse fun _ =>
  (if isRdo b then at_ 4 0x400000 0x200000 else none)

/-- The memories of the shared region above 0x1000_0000 (R99). -/
def sharedMems : List MemRef := [
  ⟨0x8, 7, 0x10000000, 0x200000⟩, ⟨0x2, 8, 0x11000000, 0x40000⟩, ⟨0x2, 9, 0x11100000, 0x200000⟩,
  ⟨0xB, 10, 0x12000000, 0x20000⟩, ⟨0xC, 11, 0x12100000, 0x60000⟩]

/-- The memory at a BAR2 offset; none in a hole and in the NVS window (R99 to R101). -/
def memAt (a : Nat) : Option MemRef :=
  if a < 0x10000000 then tileMem (a / 0x800000) (a % 0x800000)
  else sharedMems.find? (fun m => decide (m.base ≤ a) && decide (a < m.base + m.size))

/-- Memory classes (R37, R450). -/
inductive MemClass where
  | shadowed | recomputable | unrecoverable
  deriving DecidableEq, Repr

/-- The class of a memory kind (R450). -/
def kindClass (k : Nat) : MemClass :=
  if k = 4 ∨ k = 8 ∨ k = 9 then .unrecoverable else if k = 5 ∨ k = 10 then .recomputable else .shadowed

/-- The address of the 64-byte line of an address. -/
def lineOf (a : Nat) : Nat := a - a % 64

/-- The side array of a line. -/
def lineSt (s : State) (a : Nat) : LineSt := smGet {} (lineOf a) s.lines

/-- The state with the side array of a line. -/
def setLine (a : Nat) (l : LineSt) (s : State) : State := { s with lines := smPut {} (lineOf a) l s.lines }

/-- A line is bad when its check value differs or its poison bit is 1 (R449). -/
def lineBad (s : State) (a : Nat) : Bool := decide ((lineSt s a).flip ≠ 0) || (lineSt s a).poison

/-- Whether a registered master image or an NVS profile covers a line (R39, R452). -/
def hasMaster (s : State) (a : Nat) : Bool :=
  (s.masters ++ s.profiles).any fun m => decide (m.dev ≤ lineOf a) && decide (lineOf a + 64 ≤ m.dev + m.len)

/-- The window index of a memory's MIC registers. -/
def MemRef.idx (m : MemRef) : Nat := m.page * 16 + m.kind

/-- A unit added to a memory's bucket `n` times over; at CAP it overflows (R459). -/
def bucketAdd (m : MemRef) (n : Nat) (s : State) : State :=
  let cap := max 1 (getF s 6 MIC.BKT_CFG_CAP m.kind)
  let lvl := getF s 6 MIC.MEM_STAT_LEVEL m.idx + n
  if lvl < cap then putF 6 MIC.MEM_STAT_LEVEL lvl m.idx s
  else
    irqBit 6 0 s
    |> errRec 6 0x20 1 m.kind (m.page + 256 * lvl) 0
    |> incSat 6 MIC.MEM_STAT_OVF m.idx
    |> putF 6 MIC.MEM_STAT_LEVEL (cap / 2) m.idx

/-- A partial write that a poisoned line drops: only WR_DROP reports it (R457). -/
def wrDrop (m : MemRef) (req a : Nat) (s : State) : State :=
  incSat 6 MIC.MEM_LOST_DROP m.idx (errRec 6 0x22 2 m.kind (m.page + 256 * req) (lineOf a) s)

/-- The bytes of a range as they stand. -/
def rdList (s : State) (a n : Nat) : List Byte := (List.range n).map (fun i => rdByte s (a + i))

/-- A line poisoned with its record: requester and cause of R463. What waited for the line ends: partial writes are
dropped, and reads end at the poison (R454, R455). -/
def poisonLine (m : MemRef) (req cause a : Nat) (s : State) : State :=
  let l := lineSt s a
  if l.poison && l.recov.isNone then s
  else
    let s := if l.poison then s else incSat 6 MIC.MEM_STAT_POIS_N m.idx s
    let s := setLine a { l with poison := true, recov := none } s
    let s := irqBit 6 1 (errRec 6 0x21 2 m.kind (m.page + 256 * req + 4096 * cause) (lineOf a) s)
    let s := forAll (l.recov.getD {}).reads (fun e s =>
      { s with lastBytes := rdList s e.1 (lineOf a - e.1), lastAbort := true }) s
    forAll (l.recov.getD {}).merges (fun e s => wrDrop m e.1 e.2.1 s) s

/-- A detected bad line (R452, R453, R455): an unrecoverable line is poisoned, a shadowed line with no master is
poisoned, and any other is marked recovering and adds 1 to its bucket. A second detection on a line already
recovering adds nothing (R459). A line of the Hoop microcode store newly found bad is a Hoop machine check in addition, whoever
finds it (R40). -/
def detectLine (req a : Nat) (s : State) : State :=
  match memAt a with
  | none => s
  | some m =>
    let l := lineSt s a
    match kindClass m.kind with
    | .unrecoverable =>
      let found := decide (m.kind = 8) && !l.poison
      let s := poisonLine m req 1 a s
      if found then hoopCheck ((lineOf a - m.base) / 4) s else s
    | c =>
      if l.recov.isSome then s
      else if c = .shadowed ∧ hasMaster s a = false then poisonLine m req 2 a s
      else bucketAdd m 1 (setLine a { l with recov := some { req := req } } s)

/-- A real-time reader that receives zeros (R450, R451): the line is detected, and RT_ZERO is recorded once per line
per recovery. -/
def rtZero (a : Nat) (s : State) : State :=
  match memAt a with
  | none => s
  | some m =>
    let s := detectLine 4 a s
    if (lineSt s a).rtRec then s
    else
      errRec 6 0x25 2 m.kind m.page (lineOf a) (setLine a { lineSt s a with rtRec := true } s)
      |> incSat 6 MIC.MEM_LOST_RT_ZERO m.idx

/-- What a real-time reader of `n` bytes within one line receives: the bytes, or zero from a bad line (R450). -/
def rtRead (s : State) (a n : Nat) : Nat := if lineBad s a then 0 else rdBytes s a n

/-- The state after a real-time read of an address. -/
def rtTouch (a : Nat) (s : State) : State := if lineBad s a then rtZero a s else s

/-! ### Microcode parity (R129, R130) -/

/-- The odd-parity bits P3 to P0 of a 160-bit word (R129). -/
def wordParity (n : Nat) : Nat :=
  ((List.range 4).map fun q => (1 - popcount 40 (mwBits n (40 * q) 40) % 2) * 2 ^ q).sum

/-- Microword `w` of tile bit `b` as it stands in the store (R104). -/
def storedWord (s : State) (b w : Nat) : Nat := rdBytes s (aperture b + 20 * w) 20

/-- The quarters of a word that fail their parity: every quarter of a word that touches a bad line, else those whose
stored parity bit differs from the computed one (R129, R130, R450). -/
def parityFails (s : State) (b w : Nat) : Nat :=
  let a := aperture b + 20 * w
  if lineBad s a || lineBad s (a + 19) then 15
  else (wordParity (storedWord s b w)) ^^^ (smGet 0 (0x4000 * b + w) s.side)

/-- The parity of the words that a write covers, regenerated from their full contents (R130). -/
def genParity (a n : Nat) (s : State) : State :=
  if a < 0x10000000 ∧ a % 0x800000 < 0x50000 ∧ 0 < n then
    let b := a / 0x800000
    let o := a % 0x800000
    forAll ((List.range ((o + n - 1) / 20 + 1 - o / 20)).map (· + o / 20))
      (fun w s => { s with side := smPut 0 (0x4000 * b + w) (wordParity (storedWord s b w)) s.side }) s
  else s

/-! ### Writes -/

/-- The one-shot corruption of R462, if it is armed for this memory: the mask it stores, and the arm consumed. -/
def flipMask (s : State) (m : MemRef) : Nat :=
  if isSet s 6 MIC.FLIP_SEL_ARM ∧ getF s 6 MIC.FLIP_SEL_PAGE = m.page ∧ getF s 6 MIC.FLIP_SEL_KIND = m.kind
  then getF s 6 MIC.FLIP_MASK_MASK else 0

/-- The arm of R462 consumed by a line write to the memory. -/
def flipUse (m : MemRef) (s : State) : State :=
  if isSet s 6 MIC.FLIP_SEL_ARM ∧ getF s 6 MIC.FLIP_SEL_PAGE = m.page ∧ getF s 6 MIC.FLIP_SEL_KIND = m.kind
  then putF 6 MIC.FLIP_SEL_ARM 0 0 s else s

/-- The next entry of the soft-repair map (R458). -/
def nextRepair (s : State) : Nat := s.repairs.foldl (fun m r => max m (r.idx + 1)) 0

/-- The poisoned lines of a memory. -/
def poisCount (s : State) (idx : Nat) : Nat :=
  (s.lines.filter (fun e => e.2.poison && decide ((memAt e.1).map (fun m => m.idx) = some idx))).length

/-- A line that stops being poisoned leaves the count of its memory, which shows 255 while there are as many (R463's POIS_N). -/
def unpoison (m : MemRef) (a : Nat) (s : State) : State :=
  if (lineSt s a).poison then
    let n := getF s 6 MIC.MEM_STAT_POIS_N m.idx
    putF 6 MIC.MEM_STAT_POIS_N (if n = 255 then min 255 (poisCount s m.idx - 1) else n - 1) m.idx s
  else s

/-- A write of bytes within one line by requester `req` (R449, R454): a full line stores a fresh check value, clears
the poison bit and ends a recovery; a partial write merges into a good line, waits for the recovery of a bad
shadowed or recomputable line, and is dropped at a bad unrecoverable or a poisoned line without recovery. -/
def storeLine (req a : Nat) (bs : List Byte) (s : State) : State :=
  match memAt a with
  | none => s
  | some m =>
    let put := fun s : State => genParity a bs.length (wrBytes a bs s)
    if bs.length = 64 then
      flipUse m (setLine a { flip := flipMask s m } (unpoison m a (put s)))
    else if lineBad s a || (lineSt s a).recov.isSome then
      let s := detectLine req a s
      match (lineSt s a).recov with
      | some r => setLine a { lineSt s a with recov := some { r with merges := r.merges ++ [(req, a, bs)] } } s
      | none => wrDrop m req a s
    else flipUse m (setLine a { lineSt s a with flip := flipMask s m, rtRec := false } (put s))

/-- The pieces of a byte string cut at line borders, with their addresses. -/
def splitLines : Nat → Nat → List Byte → List (Nat × List Byte)
  | 0, _, _ => []
  | _, _, [] => []
  | fuel + 1, a, bs => (a, bs.take (64 - a % 64)) :: splitLines fuel (lineOf a + 64) (bs.drop (64 - a % 64))

/-- A write of a byte string, line by line. -/
def storeMem (req a : Nat) (bs : List Byte) (s : State) : State :=
  forAll (splitLines (bs.length + 1) a bs) (fun e s => storeLine req e.1 e.2 s) s

/-- Line addresses of a range. -/
def linesOf64 (a n : Nat) : List Nat := (List.range ((a + n - 1) / 64 + 1 - a / 64)).map (fun i => 64 * (a / 64 + i))

/-- Lines checked in order (R449, R454, R455): each bad one is detected; the first that stays bad ends the check, with whether
it is recovering. -/
def checkLines (req : Nat) : List Nat → State → Option (Nat × Bool) × State
  | [], s => (none, s)
  | l :: ls, s =>
    if lineBad s l || (lineSt s l).recov.isSome then
      let s := detectLine req l s
      (some (l, (lineSt s l).recov.isSome), s)
    else checkLines req ls s

/-- The routes that a device holds, as numbers: route, slot, import port and exports. -/
def routeKey (s : State) : List Nat :=
  (s.cst.holds.filter (fun h => h.committed)).flatMap (fun h => [h.route, h.slot, (h.rs.imp.map (· + 1)).getD 0, h.rs.exports])
    ++ s.cst.routes.flatMap (fun r => [r.route, r.slot])

/-- Bytes as a BAR2 read finds them: the route table holds what Hoop firmware makes of the routes that stand, zeros while there is none
(R282, R283). -/
def barList (s : State) (a n : Nat) : List Byte :=
  (List.range n).map (fun i =>
    if 0x12008000 ≤ a + i ∧ a + i < 0x12018000 ∧ routeKey s ≠ [] then Config.routeByte (routeKey s) (a + i - 0x12008000)
    else rdByte s (a + i))

/-- A BAR2 read of a memory (R367, R454): the bytes; at a recovering line it waits, and at a poisoned one it ends with the
bytes before it. -/
def readMem (a n : Nat) (s : State) : State :=
  match checkLines 1 (linesOf64 a n) s with
  | (none, s) => { s with lastBytes := barList s a n, lastAbort := false }
  | (some (l, true), s) =>
    setLine l { lineSt s l with recov := (lineSt s l).recov.map (fun r => { r with reads := r.reads ++ [(a, n)] }) } s
  | (some (l, false), s) => { s with lastBytes := barList s a (l - a), lastAbort := true }

/-- A recovered line: its bytes with a fresh check value; the partial writes that waited merge into it, and the reads
that waited complete with the recovered contents (R452, R454). -/
def recoverLine (a : Nat) (bs : List Byte) (s : State) : State :=
  match memAt a with
  | none => s
  | some m =>
    let r := (lineSt s a).recov.getD {}
    let s := genParity (lineOf a) 64 (wrBytes (lineOf a) (bs.take 64) (unpoison m a s))
    let s := incSat 6 MIC.MEM_CNT m.idx (setLine a {} s)
    let s := forAll r.merges (fun e s => storeLine e.1 e.2.1 e.2.2 s) s
    forAll r.reads (fun e s => readMem e.1 e.2 s) s

end Sys2Proof.Machine
end

