-- ==== Sys2Proof/Machine/Flags.lean ====
section
/-!
DEFINITION. The conditions and flags of a microword: which words wait, how COND resolves (R115 to R120), the program
state a word steps (R106 steps 1 to 3), and which reserved encodings it records (R117, R120, R122, R128).
-/
namespace Sys2Proof.Machine

/-- COND[4:0]: the base condition (R116). -/
def MWord.csel (w : MWord) : Nat := w.cond % 32

/-- COND[5]: the inversion (R116). -/
def MWord.cinv (w : MWord) : Bool := decide (w.cond / 32 % 2 = 1)

/-- A STOP word: COND 0x1F without inversion (R117). -/
def MWord.isStop (w : MWord) : Bool := decide (w.cond = 0x1F)

/-- A reserved COND: 0x16 to 0x1E, inverted or not, and 0x3F; treated as 0x00 (R117). -/
def MWord.condRsvd (w : MWord) : Bool := (decide (0x16 ≤ w.csel) && decide (w.csel ≤ 0x1E)) || decide (w.cond = 0x3F)

/-- COND waits on a decision: base conditions DG to VB1 (R117). -/
def MWord.condWaits (w : MWord) : Bool := decide (0x05 ≤ w.csel) && decide (w.csel ≤ 0x0F)

/-- The word waits on its key: through COND, a CADD with such a COND, FAPPLY or WAIT (R123, R143). -/
def MWord.needsKey (w : MWord) : Bool := w.condWaits || decide (w.top = 2) || decide (w.top = 6)

/-- COND is UNDR or LOST, inverted or not (R143, R147). -/
def MWord.needsEval (w : MWord) : Bool := decide (w.csel = 0x12) || decide (w.csel = 0x15)

/-! ### The program state -/

/-- Loop counter `n` of four packed counters. -/
def ctrOf (c n : Nat) : Nat := c / 256 ^ n % 256

/-- The packed counters with counter `n` set. -/
def ctrSet (c n v : Nat) : Nat := c - ctrOf c n * 256 ^ n + v % 256 * 256 ^ n

/-- Step 1 of R106: at a shot boundary the shot number increments, and X and Z clear where an FRESET waits (R122). -/
def seqShot (w : MWord) (q : Seq) : Seq :=
  if w.bnd = 15 then
    { q with shot := (q.shot + 1) % 2 ^ 48,
             x := ((List.range 16).filter (fun i => bit q.x i = 1 ∧ bit q.freset i = 0)).foldl setBit 0,
             z := ((List.range 16).filter (fun i => bit q.z i = 1 ∧ bit q.freset i = 0)).foldl setBit 0,
             freset := 0 }
  else q

/-- The value a LOOP operation gives its counter (R121). -/
def loopVal (lop lval v : Nat) : Nat :=
  if lop = 1 then lval else if lop = 2 then v - 1 else if lop = 3 then (if v = 0 then lval else v - 1) else v

/-- Step 2 of R106: the LOOP operation. -/
def seqLoop (w : MWord) (q : Seq) : Seq := { q with ctr := ctrSet q.ctr w.ctr (loopVal w.lop w.lval (ctrOf q.ctr w.ctr)) }

/-- Step 3 of R106 on a drive tile: FRESET, FLIPX and FLIPZ on Bobbin FRM; other tiles ignore them (R122). -/
def seqTulle (drv : Bool) (w : MWord) (q : Seq) : Seq :=
  if !drv then q
  else if w.top = 3 then { q with freset := setBit q.freset w.frm }
  else if w.top = 4 then { q with x := flipBit q.x w.frm }
  else if w.top = 5 then { q with z := flipBit q.z w.frm }
  else q

/-- An FAPPLY: X XOR value bit 0, Z XOR value bit 1, from the raw value (R122). -/
def seqFapply (tone val : Nat) (q : Seq) : Seq :=
  { q with x := if bit val 0 = 1 then flipBit q.x tone else q.x
           z := if bit val 1 = 1 then flipBit q.z tone else q.z }

/-- Steps 1 to 3 of R106. -/
def seqStep (drv : Bool) (w : MWord) (q : Seq) : Seq := seqTulle drv w (seqLoop w (seqShot w q))

/-! ### Conditions -/

/-- A base condition (R117, R118): `q` after the word's steps 1 to 3, `r` the decision or default of its key. A value
of 0b11 counts as 0b00 for DG, DE, DF, CG and CE. -/
def baseCond (drv : Bool) (w : MWord) (q : Seq) (shot0 : Nat) (undr lost : Bool) (r : Res) : Bool :=
  let v := if r.val = 3 then 0 else r.val
  let x := drv && decide (bit q.x w.frm = 1)
  let cv := if x then (if v = 0 then 1 else if v = 1 then 0 else v) else v
  match w.csel with
  | 0x01 => decide (ctrOf q.ctr 0 = 0)
  | 0x02 => decide (ctrOf q.ctr 1 = 0)
  | 0x03 => decide (ctrOf q.ctr 2 = 0)
  | 0x04 => decide (ctrOf q.ctr 3 = 0)
  | 0x05 => decide (v = 0)
  | 0x06 => decide (v = 1)
  | 0x07 => decide (v = 2)
  | 0x08 => decide (cv = 0)
  | 0x09 => decide (cv = 1)
  | 0x0A => r.dflt
  | 0x0B => r.ndet
  | 0x0C => r.leak
  | 0x0D => r.lowc
  | 0x0E => decide (bit r.val 0 = 1)
  | 0x0F => decide (bit r.val 1 = 1)
  | 0x10 => x
  | 0x11 => drv && decide (bit q.z w.frm = 1)
  | 0x12 => undr
  | 0x13 => decide (q.shot % 2 = 1)
  | 0x14 => decide (q.shot = shot0)
  | 0x15 => lost
  | _ => false

/-- Whether the word's FLOW branches: the base condition, inverted by COND[5]; a reserved COND and STOP never branch
(R116, R117). -/
def flowTaken (drv : Bool) (w : MWord) (q : Seq) (shot0 : Nat) (undr lost : Bool) (r : Res) : Bool :=
  if w.condRsvd || w.isStop then false else baseCond drv w q shot0 undr lost r != w.cinv

/-! ### Reserved encodings -/

/-- The tile types. -/
inductive TileKind where
  | drv | rdo | flx
  deriving DecidableEq, Repr

/-- The type of tile bit `b`. -/
def tileKind (b : Nat) : TileKind := if isDrv b then .drv else if isRdo b then .rdo else .flx

/-- The field codes (R132) of the reserved or inapplicable encodings of a word on a tile type: PHS[10:0] on flux
slots (R249), FRAME on flux (R115), reserved COND (R117), TULLE code 7 and the frame operations off a drive tile
(R122), and reserved AUX bits (R128). -/
def rsvdCodes (k : TileKind) (w : MWord) : List Nat :=
  (if k = .flx ∧ w.a.pulse ≠ 0 ∧ w.a.phs % 2048 ≠ 0 then [1] else [])
  ++ (if k = .flx ∧ w.b.pulse ≠ 0 ∧ w.b.phs % 2048 ≠ 0 then [2] else [])
  ++ (if k = .flx ∧ w.fop ≠ 0 then [3] else [])
  ++ (if w.condRsvd then [4] else [])
  ++ (if w.top = 7 ∨ (k ≠ .drv ∧ 2 ≤ w.top ∧ w.top ≤ 5) then [6] else [])
  ++ (if (k = .drv ∧ 4 ≤ w.aux) ∨ (k = .rdo ∧ 128 ≤ w.aux) ∨ (k = .flx ∧ w.aux ≠ 0) then [8] else [])

/-- The actions a word of a tile type has at its T, in the order of R106. -/
def actsOf (k : TileKind) (w : MWord) : List Act :=
  (if w.bnd = 15 then [.boundary] else [])
  ++ (if w.lop ≠ 0 then [.loop] else [])
  ++ (if w.top = 1 ∨ (k = .drv ∧ 3 ≤ w.top ∧ w.top ≤ 5) then [.tulle] else [])
  ++ (if k ≠ .flx ∧ (w.fop = 1 ∨ w.fop = 2) then [.frame] else [])
  ++ (if w.a.pulse ≠ 0 then [.pulseA] else [])
  ++ (if w.b.pulse ≠ 0 then [.pulseB] else [])
  ++ (if k = .drv then [.blank] else [])
  ++ (if w.mark ≠ 0 then [.mark] else [])
  ++ (if 1 ≤ w.bnd ∧ w.bnd ≤ 14 then [.gap] else [])
  ++ (if k = .rdo ∧ w.aux % 2 = 1 then [.acq] else [])
  ++ (if w.isStop then [.stop] else [.branch])

/-- The step of R106 in which an action stands. -/
def Act.step : Act → Nat
  | .boundary => 1 | .loop => 2 | .tulle => 3 | .frame => 4
  | .pulseA | .pulseB | .blank | .mark | .gap | .acq => 5
  | .branch | .flowEnd | .stop => 6

end Sys2Proof.Machine
end

