-- ==== Sys2Proof/Machine/CalOps.lean ====
section
/-!
DEFINITION. The operations of live calibration that other units call: values in force and their commit at a boundary
(R193, R403, R404), and the tracking of a result (R400).
-/
namespace Sys2Proof.Machine

/-- Live calibration of tile bit `b`. -/
def calTile (s : State) (b : Nat) : CalTile := smGet {} b s.cal.tiles

/-- The state with a tile's calibration changed. -/
def modCal (b : Nat) (g : CalTile → CalTile) (s : State) : State :=
  { s with cal := { s.cal with tiles := smSet b (g (calTile s b)) s.cal.tiles } }

/-- The calibration steps of a tile run back to back from a moment on (R394). -/
def stepsFrom (b at_ : Nat) (s : State) : State := modCal b (fun c => { c with stepAt := max c.stepAt at_ }) s

/-- Tracking of a tone. -/
def trackOf (s : State) (b t : Nat) : Track := smGet {} (32 * b + t) s.cal.tracks

/-- The state with a tone's tracking. -/
def setTrack (b t : Nat) (k : Track) (s : State) : State :=
  { s with cal := { s.cal with tracks := smSet (32 * b + t) k s.cal.tracks } }

/-- The largest trim magnitude of DAC values (64 group trims within ±127 and one offset within ±32,767) as a fraction
of the range, 0xFF for the full range (R193). -/
def dacTrimUse (v : List Int) : Nat :=
  max (((v.take 64).map (fun x => x.natAbs * 255 / 127)).foldl max 0)
    (((v.drop 64).take 1).map (fun x => x.natAbs * 255 / 32767)).sum

/-- TRIM_USE, LIM and SET_SEQ of a trim register after a commit; reaching 0xF0 raises bit 12 and TRIM_LIMIT (R193). -/
def putTrim (p : Nat) (use lim seq : Fld) (i u : Nat) (code unit : Nat) (s : State) : State :=
  let was := getF s p lim i
  let s := putF p use u i s
  let s := putF p lim (ofBool (decide (0xF0 ≤ u))) i s
  let s := putF p seq (getF s p seq i + 1) i s
  if was = 0 ∧ 0xF0 ≤ u then errRec p code 1 unit u 0 (irqBit p 12 s) else s

/-- The registers of a tile that show its calibration values in force (R193, R200, R219, R259). -/
def showCal (b : Nat) (v : List Int) (s : State) : State :=
  let p := tilePage b
  match tileKind b with
  | .drv =>
    putTrim p DRV.DAC_TRIM_TRIM_USE DRV.DAC_TRIM_LIM DRV.DAC_TRIM_SET_SEQ 0 (dacTrimUse (v.take 65)) 0x33 0 s
    |> putTrim p DRV.DAC_TRIM_TRIM_USE DRV.DAC_TRIM_LIM DRV.DAC_TRIM_SET_SEQ 1 (dacTrimUse (v.drop 65)) 0x33 1
  | .rdo =>
    let il := v.drop 65
    let g := fun i => il.getD i 0
    let s := putTrim p RDO.PDAC_TRIM_TRIM_USE RDO.PDAC_TRIM_LIM RDO.PDAC_TRIM_SET_SEQ 0 (dacTrimUse (v.take 65)) 0x33 0 s
    let s := forAll (List.range 16) (fun k s =>
      putF p RDO.ADC_IL_GAIN (ofSigned 8 (g (3 * k))) k s
      |> putF p RDO.ADC_IL_OFFS (ofSigned 8 (g (3 * k + 1))) k
      |> putF p RDO.ADC_IL_SKEW (ofSigned 8 (g (3 * k + 2))) k) s
    putTrim p RDO.ADC_TRIM_TRIM_USE RDO.ADC_TRIM_LIM RDO.ADC_TRIM_SET_SEQ 0
      ((il.map (fun x => x.natAbs * 255 / 127)).foldl max 0) 0x33 1 s
  | .flx =>
    let s := forAll (List.range 16) (fun k s =>
      putF p FLX.OUT_TRIM_OFFS (ofSigned 16 (v.getD (2 * k) 0)) k s
      |> putF p FLX.OUT_TRIM_GTRIM (ofSigned 16 (v.getD (2 * k + 1) 0)) k) s
    let us := v.map (fun x => x.natAbs * 255 / 32767)
    let u : Nat := us.foldl max 0
    let was := getF s p FLX.FLX_STAT_LIM
    let s := putF p FLX.FLX_STAT_LIM (ofBool (decide (0xF0 ≤ u))) 0 (putF p FLX.FLX_STAT_TRIM_USE u 0 s)
    if was = 0 ∧ 0xF0 ≤ u then errRec p 0x33 1 (us.findIdx (fun x => decide (x = u)) / 2) u 0 (irqBit p 12 s) else s

/-- The commit of a tile's calibration values `st` as staged (R68, R403), with whether they end a run: values in force, their
registers and SET_SEQ, and RUN_DONE. A shadow discarded meanwhile commits nothing; one replaced since goes on waiting. A frozen
CAL page makes shadowed values wait (R405). -/
def calCommitTile (b : Nat) (st : Option (List Int × Bool)) (s : State) : State :=
  match st, (calTile s b).shadow with
  | some (v, run), some cur =>
    if isSet s 0x39 HDR.CTRL_FREEZE then s
    else
      let s := modCal b (fun c => if cur = v then { c with vals := v, shadow := none, shadowRun := false } else { c with vals := v }) s
      let s := showCal b v s
      if run then irqBit 0x39 2 s else s
  | _, _ => s

/-- The sums of a tone cleared (R400). -/
def trackClear (b t : Nat) (s : State) : State := setTrack b t { shadow := (trackOf s b t).shadow } s

/-- The commit of a tone's accepted geometry `st` as staged, unless a host write to the geometry commits at the same boundary,
which discards it (R68, R231, R404). -/
def geoCommit (b t : Nat) (st : Option (List Word)) (hostWrote : Bool) (s : State) : State :=
  let k := trackOf s b t
  if hostWrote then setTrack b t { shadow := none } s
  else match st, k.shadow with
  | some ws, some cur =>
    if isSet s 0x39 HDR.CTRL_FREEZE then s
    else
      let p := tilePage b
      let seq := getF s p RDO.DISC_W7_SET_SEQ (32 + t) + 1
      let s := forAll (List.range 8) (fun n s => wrWord ((RDO.DISC_W0.addr p (32 + t)) + 4 * n) (ws.getD n 0#32) s) s
      let s := putF p RDO.DISC_W7_SET_SEQ seq (32 + t) s
      let s := setTrack b t { k with shadow := if cur = ws then none else k.shadow } s
      { s with cal := { s.cal with due := true } }
  | _, _ => s

/-- The commit of a skew trim `st` as staged, at the device boundary; a host write of SKEW_TRIM that commits there wins (R68, R403,
R404). -/
def skewCommit (st : Option Nat) (hostWrote : Bool) (s : State) : State :=
  match st, s.cal.skewShadow with
  | some t, some cur =>
    if isSet s 0x39 HDR.CTRL_FREEZE then s
    else
      let s := { s with cal := { s.cal with skewShadow := if cur = t ∨ hostWrote = true then none else s.cal.skewShadow } }
      if hostWrote then s else irqBit 0x39 5 (putF 1 CLK.SKEW_TRIM_TRIM t 0 s)
  | _, _ => s

/-- Every shadowed calibration value discarded (R404, R405). -/
def calDropShadows (s : State) : State :=
  { s with cal := { s.cal with
      tiles := s.cal.tiles.map (fun e => (e.1, { e.2 with shadow := none, shadowRun := false }))
      tracks := s.cal.tracks.map (fun e => (e.1, { e.2 with shadow := none }))
      skewShadow := none } }

/-- The forgetting step of a sum: v − (v >> FG), an arithmetic shift (R400). -/
def forget (fg : Nat) (v : Int) : Int := v - v / 2 ^ fg

/-- A sum with an amount added to the entry of class `k`. -/
def addAt (k : Nat) (x : Int) (l : List Int) : List Int := l.mapIdx fun i v => if i = k then v + x else v

/-- A tracked result of a tone entered into its sums and counts (R400): class, unmixed pair, centroid in force,
and whether it is an outlier. -/
def trackAdd (b t k : Nat) (v c : Cplx) (outlier : Bool) (s : State) : State :=
  let fg := max 4 (getF s 0x39 CAL.DISC_CFG_FG)
  let r := trackOf s b t
  let f := List.map (forget fg)
  setTrack b t
    { r with
      w := addAt k (2 ^ 16) (f r.w)
      si := addAt k (v.re * 2 ^ 16) (f r.si)
      sq := addAt k (v.im * 2 ^ 16) (f r.sq)
      sd := addAt k (((v.re - c.re) ^ 2 + (v.im - c.im) ^ 2) * 2 ^ 16) (f r.sd)
      n := r.n + 1
      out := r.out + ofBool outlier } s

end Sys2Proof.Machine
end

