-- ==== Sys2Proof/Machine/TulleOps.lean ====
section
/-!
DEFINITION. The operations of the decision network: the sources of slots (R261, R264), which slots are lost (R276,
R277), route changes and their commit (R263), and the publication of a decision (R264, R267).
-/
namespace Sys2Proof.Machine

/-- The TUL page. -/
def pTul : Nat := 0xB

/-- A tile that is present and not mapped out (R276, R534). -/
def tileUsable (s : State) (b : Nat) : Bool := tilePresent s b && decide (bit (rdWord s (DMP.TILE_MAP.addr 0xF 0)).toNat b = 0)

/-- A slot beside its registers. -/
def tulSlot (s : State) (i : Nat) : TulSlot := smGet {} i s.slots

/-- The state with a slot beside its registers. -/
def setTulSlot (i : Nat) (x : TulSlot) (s : State) : State := { s with slots := smPut {} i x s.slots }

/-- A port beside its registers. -/
def portOf (s : State) (n : Nat) : Port := smGet {} n s.ports

/-- The state with a port changed. -/
def modPort (n : Nat) (g : Port → Port) (s : State) : State := { s with ports := smSet n (g (portOf s n)) s.ports }

/-- The page of port `n`. -/
def jdxPage (n : Nat) : Nat := 0x30 + n

/-- The state code of a port (R324). -/
def portState (s : State) (n : Nat) : Nat := getF s (jdxPage n) JDX.STATUS_STATE

/-- A port receives framed traffic: it holds lock in ACTIVE or E_IDLE and its peer is not idle (R276, R337). -/
def portRx (s : State) (n : Nat) : Bool :=
  (decide (portState s n = 5) || decide (portState s n = 6)) && !isSet s (jdxPage n) JDX.STATUS_PEER_IDLE

/-- The KIND in force of a slot. -/
def slotKind (s : State) (i : Nat) : Nat := getB s pTul TUL.SLOT_SRC_KIND i

/-- The lost condition of R276 that holds for a slot, by its cause code in R287: 0 for KIND 0, 1 withdrawn, 2 port
down, 3 tile absent or mapped out. -/
def slotCause (s : State) (i : Nat) : Option Nat :=
  let k := slotKind s i
  if k = 1 then (if tileUsable s (16 + getB s pTul TUL.SLOT_SRC_TILE i) then none else some 3)
  else if k = 2 then none
  else if k = 3 then
    if (tulSlot s i).withdrawn then some 1
    else if !(tulSlot s i).cut && portRx s (getF s pTul TUL.SLOT_RT_IMP_PORT i) then none else some 2
  else some 0

/-- Whether a slot is lost, as LOST of its slot entry shows (R276). -/
def slotLost (s : State) (i : Nat) : Bool := isSet s pTul TUL.SLOT_RT_LOST i

/-- The BAR2 address of a slot entry (R282). -/
def slotAddr (i : Nat) : Nat := 0x12000000 + 64 * i

/-- The bytes of a slot entry that the configuration in force gives (R283); the rest of its line is zero. -/
def slotBytes (s : State) (i : Nat) : List Byte :=
  toBytes (inForce s (TUL.SLOT_SRC.addr pTul i)).toNat 4 ++ toBytes (rdWord s (TUL.SLOT_RT.addr pTul i)).toNat 4
    ++ toBytes (rdWord s (TUL.SLOT_LAT.addr pTul i)).toNat 4

/-- The slot entry written from the configuration in force (R283). -/
def slotEntry (i : Nat) (s : State) : State := wrBytes (slotAddr i) (slotBytes s i) s

/-- LOST of a slot set or cleared in its registers, in LOST_MAP and in LOST_N (R276). -/
def setLost (i : Nat) (b : Bool) (s : State) : State :=
  let was := slotLost s i
  let s := putF pTul TUL.SLOT_RT_LOST (ofBool b) i s
  let s := putF pTul TUL.LOST_MAP (putBit (getF s pTul TUL.LOST_MAP (i / 32)) (i % 32) b) (i / 32) s
  let n := getF s pTul TUL.STATUS_LOST_N
  let s := if b && !was then putF pTul TUL.STATUS_LOST_N (n + 1) 0 s
    else if !b && was then putF pTul TUL.STATUS_LOST_N (n - 1) 0 s else s
  slotEntry i s

/-- The record and the interrupt of a slot of KIND 1 or 3 that becomes lost (R277). -/
def routeLost (i cause : Nat) (s : State) : State :=
  let port := if cause = 2 ∨ cause = 1 then getF s pTul TUL.SLOT_RT_IMP_PORT i else 0
  errRec pTul 0x21 2 port (i + 512 * cause) 0 (irqBit pTul 1 s)

/-- A condition of R276 other than KIND 0 begins to hold for a slot: it is lost, and the condition is recorded, whether or not another
one held already (R277). -/
def loseSlot (cause i : Nat) (s : State) : State := routeLost i cause (setLost i true s)

/-- The slots that hold a KIND. -/
def slotsOfKind (s : State) (k : Nat) : List Nat := (List.range 512).filter (fun i => slotKind s i = k)

/-- Every slot that a port imports becomes lost (R276, R331, R337): `began` that the port received framed traffic until now, `lock`
that it has lost lock, after which only Hoop firmware restores the slot (R277). -/
def losePort (n : Nat) (began lock : Bool) (s : State) : State :=
  let l := (slotsOfKind s 3).filter (fun i => getF s pTul TUL.SLOT_RT_IMP_PORT i = n)
  let s := if lock then forAll l (fun i s => setTulSlot i { tulSlot s i with cut := true } s) s else s
  if began then forAll l (loseSlot 2) s else s

/-- Every slot that names a read-out tile becomes lost, as the tile is mapped out (R276, R534). -/
def loseTile (b : Nat) (s : State) : State :=
  forAll ((slotsOfKind s 1).filter (fun i => 16 + getB s pTul TUL.SLOT_SRC_TILE i = b)) (loseSlot 3) s

/-- STATUS.RT_PEND: some route change waits (10_tulle_feedback, STATUS). -/
def syncRtPend (s : State) : State :=
  putF pTul TUL.STATUS_RT_PEND (ofBool (s.slots.any (fun e => e.2.next.isSome))) 0 s

/-- A route change brought into force (R263, R359): KIND 3 and the import port where it imports, and the route fields. -/
def applyRoute (i : Nat) (r : RouteSet) (s : State) : State :=
  let s := match r.imp with
    | some _ => putF pTul TUL.SLOT_SRC_KIND 3 i { s with held := smErase (TUL.SLOT_SRC.addr pTul i) s.held }
    | none => if slotKind s i = 3 then
        putF pTul TUL.SLOT_SRC_KIND 0 i { s with held := smErase (TUL.SLOT_SRC.addr pTul i) s.held } else s
  let s := putF pTul TUL.SLOT_RT_EXPORT r.exports i s
  let s := putF pTul TUL.SLOT_RT_IMP_PORT (r.imp.getD 0) i s
  let s := putF pTul TUL.SLOT_RT_NDET (ofBool r.ndet) i s
  let s := putF pTul TUL.SLOT_RT_HOPS r.hops i s
  let s := putF pTul TUL.SLOT_RT_PUBDEV r.pubdev i s
  let s := putF pTul TUL.SLOT_RT_RT_PEND 0 i s
  let s := putF pTul TUL.SLOT_LAT_LAT r.lat i s
  setTulSlot i { tulSlot s i with next := none, withdrawn := false, cut := false } s

/-- After a change of what is in force for a slot: LOST follows the conditions of R276, with the record of R277 where
a condition other than KIND 0 begins to hold. `kind0` says that the slot was of KIND 0 before. A local slot reads LAT 3 and HOPS 0
(R273). -/
def refreshSlot (i : Nat) (kind0 : Bool) (s : State) : State :=
  let s := if slotKind s i = 3 then s else putF pTul TUL.SLOT_LAT_LAT 3 i (putF pTul TUL.SLOT_RT_HOPS 0 i s)
  let was := slotLost s i && !kind0
  let c := slotCause s i
  let s := setLost i c.isSome s
  match c with
  | some (k + 1) => if was then s else routeLost i (k + 1) s
  | _ => s

/-- The slots with a route change or a SLOT_SRC write that waits for the device shot boundary, or that are lost. -/
def pendingRoutes (s : State) : List Nat := (s.slots.filter (fun e => e.2.next.isSome)).map Prod.fst

/-- The route changes that wait, by slot. -/
def waitingRoutes (s : State) : SMap RouteSet := s.slots.filterMap (fun e => e.2.next.map (fun r => (e.1, r)))

/-- The route change `r` as staged for a slot, where the change that waits has not been discarded: brought into force, and a later
one goes on waiting (R68, R263, R362). -/
def bringRoute (i : Nat) (r : RouteSet) (s : State) : State :=
  match (tulSlot s i).next with
  | some cur =>
    let s := applyRoute i r s
    if cur = r then s else putF pTul TUL.SLOT_RT_RT_PEND 1 i (setTulSlot i { tulSlot s i with next := some cur } s)
  | none => s

/-- Route changes `st`, as staged, commit at the device shot boundary (R68, R263), and a slot whose lost condition has ended is
restored (R277). `changed` are the slots whose SLOT_SRC commits there, with whether each was of KIND 0. -/
def routeCommit (st : SMap RouteSet) (changed : List (Nat × Bool)) (s : State) : State :=
  let due := st.filter (fun e => (tulSlot s e.1).next.isSome)
  let pend := due.map (fun e => (e.1, decide (slotKind s e.1 = 0)))
  let s := forAll due (fun e s => bringRoute e.1 e.2 s) s
  let lost := ((List.range 512).filter (fun i => slotLost s i && decide (slotKind s i ≠ 0)
      && !(changed.any (fun e => decide (e.1 = i))) && !(pend.any (fun e => decide (e.1 = i))))).map (fun i => (i, false))
  let s := forAll (pend ++ changed ++ lost) (fun e s => refreshSlot e.1 e.2 s) s
  syncRtPend (if pend = [] then s else irqBit pTul 6 s)

/-- A route change handed to Tulle (R263): at the device shot boundary, or at once while no Tambour runs (R69). -/
def stageRoute (i : Nat) (r : RouteSet) (s : State) : State :=
  let s := setTulSlot i { tulSlot s i with next := some r } s
  let s := syncRtPend (putF pTul TUL.SLOT_RT_RT_PEND 1 i s)
  if anyRunning s then s else routeCommit (waitingRoutes s) [] s

/-- What restores lost slots without a new route, an idle peer or a tile that has come back, does so at the device shot boundary, and
at once while no Tambour runs (R69, R277). -/
def restoreSlots (s : State) : State := if anyRunning s then s else routeCommit [] [] s

/-- A route withdrawal takes effect in the fc in which Hoop firmware writes it (R263, R276) and discards a waiting
commit (R362). An importing slot becomes lost; a slot that only exports stops exporting. -/
def withdrawSlot (i : Nat) (s : State) : State :=
  let s := setTulSlot i { tulSlot s i with next := none } s
  let s := syncRtPend (putF pTul TUL.SLOT_RT_RT_PEND 0 i (putF pTul TUL.SLOT_RT_EXPORT 0 i s))
  if slotKind s i ≠ 3 then slotEntry i s
  else if (tulSlot s i).withdrawn then s
  else loseSlot 1 i (setTulSlot i { tulSlot s i with withdrawn := true } s)

/-! ### Publication (R264 to R267) -/

/-- Tulle accepts and delivers only while enabled and not frozen (R286). -/
def tulOn (s : State) : Bool := isSet s pTul HDR.CTRL_EN && !isSet s pTul HDR.CTRL_FREEZE

/-- A device shot boundary of fc `p` or before has still to act: what arrives in fc `p` is judged behind it (R265). -/
def devDue (s : State) (p : Nat) : Bool :=
  (tileBits s).any (fun b => (tileOf s b).released.any (fun e => e.dev && decide (e.t ≤ p) && decide (.boundary ∈ e.todo)))

/-- Whether a slot in force names a publisher (R264). -/
def slotNames (s : State) (i kind tile tone dout : Nat) : Bool :=
  decide (slotKind s i = kind) &&
  (if kind = 1 then decide (getB s pTul TUL.SLOT_SRC_TILE i = tile) && decide (getB s pTul TUL.SLOT_SRC_TONE i = tone)
   else decide (kind = 2) && decide (getB s pTul TUL.SLOT_SRC_DOUT i = dout))

/-- A publication made in fc `p` by a read-out tone (kind 1) or a Darner output (kind 2): accepted for delivery in
`p` + 3, or rejected (R264, R267). -/
def publish (p kind tile tone dout slot : Nat) (d : Decision) (s : State) : State :=
  if !tulOn s then s
  else if slotNames s slot kind tile tone dout then
    incSat pTul TUL.PUB_CNT 0
      { s with pubs := s.pubs ++ [{ slot := slot, due := p + 3, src := kind, port := 0, dec := d }] }
  else
    let s := irqBit pTul 0 (incSat pTul TUL.REJ_CNT 0 s)
    if slot ∈ s.once.rej then s
    else errRec pTul 0x20 0 0 (slot + 512 * kind + 4096 * tile + 2 ^ 15 * tone + 2 ^ 20 * dout) 0
      { s with once := { s.once with rej := slot :: s.once.rej } }

/-- The 16-bit decision word (R266). -/
def decWord (slot : Nat) (d : Decision) : Nat :=
  d.val + 4 * ofBool d.leak + 8 * ofBool d.lowc + 16 * ofBool d.ndet + 64 * slot

/-- A delivery shown in SLOT_LAST, SLOT_CNT and the trace (R268, R284). -/
def noteDelivery (b : Pub) (s : State) : State :=
  let i := b.slot
  let s := putF pTul TUL.SLOT_LAST_VALUE b.dec.val i s
  let s := putF pTul TUL.SLOT_LAST_LEAK (ofBool b.dec.leak) i s
  let s := putF pTul TUL.SLOT_LAST_LOWC (ofBool b.dec.lowc) i s
  let s := putF pTul TUL.SLOT_LAST_NDET (ofBool b.dec.ndet) i s
  let s := putF pTul TUL.SLOT_LAST_SEEN 1 i s
  let s := putF pTul TUL.SLOT_LAST_DTIME b.due i s
  let s := incSat pTul TUL.SLOT_CNT i s
  if isSet s pTul TUL.TUL_CTL_TRACE_EN then
    let wp := getF s pTul TUL.TRACE_WP_WP
    let s := wrBytes (0x12018000 + 16 * wp)
      (toBytes b.due 6 ++ toBytes (decWord i b.dec) 2 ++ [BitVec.ofNat 8 (b.src + 16 * b.port)] ++ List.replicate 7 0#8) s
    incSat pTul TUL.TRACE_WP_TOTAL 0 (incWrap pTul TUL.TRACE_WP_WP 0 s)
  else s

/-! ### Imports (R271, R278, R287) -/

/-- A received word at its ingress check (R271): discarded while Tulle is off, or where the slot does not import from
the port; else delivered 9 fc after it entered ingress, or 7 fc over a fall-back link (R270, R278). -/
def ingress (n : Nat) (w : RxWord) (s : State) : State :=
  if !tulOn s then s
  else
    let s := if w.dec.ndet then incSat pTul TUL.NDET_CNT 0 s else s
    let s := if w.dec.ndet && !s.once.ndet then irqBit pTul 2 { s with once := { s.once with ndet := true } } else s
    if !(decide (slotKind s w.slot = 3) && decide (getF s pTul TUL.SLOT_RT_IMP_PORT w.slot = n)) then
      errRec pTul 0x23 0 n (decWord w.slot w.dec) 0 (irqBit pTul 4 (incSat pTul TUL.EXP_LATE_CNT_IMP_ERR 0 s))
    else if w.dec.ndet && decide (getB s pTul TUL.TUL_CTL_NDET_DROP = 1) then s
    else { s with pubs := s.pubs ++
            [{ slot := w.slot, due := w.rel + (if w.fb then 7 else 9), src := 3, port := n, dec := w.dec }] }

end Sys2Proof.Machine
end

