-- ==== Sys2Proof/Machine/DarnerOps.lean ====
section
/-!
DEFINITION. The operations of the Darner: the check of patches at a commit (R289, R292), the assembly and the close of
rounds (R290 to R296), the match of a closed round against the tables (R297 to R299, R305) and the escalation queue
(R302 to R304).
-/
namespace Sys2Proof.Machine

/-- The DRN page. -/
def pDrn : Nat := 0xC

/-- A patch beside its registers. -/
def patchOf (s : State) (p : Nat) : Patch := smGet {} p s.patches

/-- PATCH_STAT follows the open round (11_darner, PATCH_STAT). -/
def showPatch (p : Nat) (s : State) : State :=
  let x := patchOf s p
  putF pDrn DRN.PATCH_STAT_OPEN (ofBool x.opened.isSome) p s
  |> putF pDrn DRN.PATCH_STAT_HELD x.held.length p
  |> putF pDrn DRN.PATCH_STAT_CFG_ERR (ofBool (decide (x.cfgCase ≠ 0))) p

/-- The state with a patch, shown in its registers. -/
def setPatch (p : Nat) (x : Patch) (s : State) : State := showPatch p { s with patches := smSet p x s.patches }

/-- DISC_CNT increased by `n` discarded deliveries. -/
def discard (n : Nat) (s : State) : State := addSat pDrn DRN.DISC_CNT n 0 s

/-! ### Configuration (R288, R289, R292) -/

/-- The syndrome range of a map word: first input and number of inputs (R288). -/
def synRange (m : Word) : Nat × Nat := (DRN.PATCH_MAP_SYN_BASE.of m, DRN.PATCH_MAP_NSYN.of m)

/-- The output range of a map word (R288). -/
def outRange (m : Word) : Nat × Nat := (DRN.PATCH_MAP_OUT_BASE.of m, DRN.PATCH_MAP_NOUT.of m)

/-- Whether two ranges overlap. -/
def overlaps (a b : Nat × Nat) : Bool := decide (a.1 < b.1 + b.2) && decide (b.1 < a.1 + a.2)

/-- A patch's map word in force. -/
def patchMap (s : State) (p : Nat) : Word := inForce s (DRN.PATCH_MAP.addr pDrn p)

/-- A patch's configuration word in force. -/
def patchCfg (s : State) (p : Nat) : Word := inForce s (DRN.PATCH_CFG.addr pDrn p)

/-- The case of R289 that a patch fails with, given the map words of the lower-numbered patches that passed; 0 if it
passes. -/
def checkCase (m : Word) (passed : List Word) : Nat :=
  let sy := synRange m
  let o := outRange m
  if sy.2 = 0 ∨ 128 < sy.1 + sy.2 then 1
  else if o.2 = 0 ∨ 128 < o.1 + o.2 then 2
  else if passed.any (fun q => overlaps sy (synRange q)) then 3
  else if passed.any (fun q => overlaps o (outRange q)) then 4
  else 0

/-- The outcome of the check for the patches from `p` upward: patch, whether it is enabled, and its failing case. -/
def checkFrom (s : State) : Nat → Nat → List Word → List (Nat × Bool × Nat)
  | 0, _, _ => []
  | n + 1, p, passed =>
    if DRN.PATCH_CFG_EN.of (patchCfg s p) = 1 then
      let c := checkCase (patchMap s p) passed
      (p, decide (c = 0), c) :: checkFrom s n (p + 1) (if c = 0 then passed ++ [patchMap s p] else passed)
    else (p, false, 0) :: checkFrom s n (p + 1) passed

/-- The open round of a patch discarded without a record, its decisions counted (R292). -/
def dropOpen (p : Nat) (s : State) : State :=
  let x := patchOf s p
  setPatch p { x with opened := none, held := [] } (discard x.held.length s)

/-- The check of every patch at a commit (R289). -/
def checkPatches (s : State) : State :=
  forAll (checkFrom s 8 0 []) (fun e s =>
    let x := patchOf s e.1
    let c := e.2.2
    let s := if !e.2.1 && x.opened.isSome then dropOpen e.1 s else s
    let s := setPatch e.1 { patchOf s e.1 with on := e.2.1, cfgCase := c } s
    if c ≠ 0 ∧ c ≠ x.cfgCase then errRec pDrn 0x20 0 e.1 c 0 (irqBit pDrn 3 s) else s) s

/-- The reference and the round number of a patch cleared, and its open round discarded with its decisions counted
(R292). -/
def resetPatch (p : Nat) (s : State) : State :=
  let s := dropOpen p s
  putF pDrn DRN.PATCH_RND 0 p (setPatch p { patchOf s p with ref := 0 } s)

/-- What a commit that changes registers of the page does (R289, R292): `ch` lists the addresses committed with the
words in force before and after. -/
def darnerCommit (ch : List (Nat × Word × Word)) (s : State) : State :=
  let hit := fun a (mask : Word) => ch.any (fun e => decide (e.1 = a) && decide (e.2.1 &&& mask ≠ e.2.2 &&& mask))
  let all := ~~~(0#32)
  let s := forAll (List.range 8) (fun p s =>
    let r := synRange (patchMap s p)
    if hit (DRN.PATCH_CFG.addr pDrn p) (~~~DRN.PATCH_CFG_BANK.mask) || hit (DRN.PATCH_MAP.addr pDrn p) all
        || (List.range r.2).any (fun i => hit (DRN.SYN_MAP.addr pDrn (r.1 + i)) all)
    then resetPatch p s else s) s
  if ch.any (fun e => decide (e.1 / 0x1000 = pDrn)) then checkPatches s else s

/-! ### Rounds (R293 to R296) -/

/-- The enabled inputs of a patch, by local index (R290). -/
def patchInputs (s : State) (p : Nat) : List Nat :=
  let r := synRange (patchMap s p)
  (List.range r.2).filter (fun i => getB s pDrn DRN.SYN_MAP_EN (r.1 + i) = 1)

/-- The round timeout of a configuration word: 0 stands for 4,096 (R294). -/
def roundTo (cfg : Word) : Nat := if DRN.PATCH_CFG_ROUND_TO.of cfg = 0 then 4096 else DRN.PATCH_CFG_ROUND_TO.of cfg

/-- The bits of held decisions as a number over local inputs. -/
def heldBits (h : SMap SynBit) : Nat := (h.map (fun e => if e.2.b then 2 ^ e.1 else 0)).sum

/-- A round of patch `p` closed in fc `c` with the decisions `h` (R296): its event vector, the reference update and
the round number. -/
def closeRound (p c reason : Nat) (h : SMap SynBit) (s : State) : State :=
  let x := patchOf s p
  let cfg := patchCfg s p
  let sv := heldBits h
  let missing := (patchInputs s p).filter (fun i => (smFind i h).isNone)
  let ref := h.foldl (fun r e => putBit r e.1 e.2.b) x.ref
  let s := incWrap pDrn DRN.PATCH_RND p s
  setPatch p
    { x with
      ref := ref
      rounds := x.rounds ++ [{
        c := c, reason := reason
        ev := if DRN.PATCH_CFG_DIFF.of cfg = 1 then sv ^^^ x.ref else sv
        rnd := getF s pDrn DRN.PATCH_RND p
        cfg := cfg, map := patchMap s p, held := h
        missN := missing.length, missFirst := missing.headD 0xFF, prevRef := x.ref }] } s

/-- The open round of a patch closed in fc `c` for TIMEOUT (R294). -/
def timeoutRound (p c : Nat) (s : State) : State :=
  let x := patchOf s p
  closeRound p c 2 x.held (setPatch p { x with opened := none, held := [] } s)

/-- The open round closed if every enabled input of the patch holds a decision (R293). -/
def tryComplete (p c : Nat) (s : State) : State :=
  let x := patchOf s p
  if x.opened.isSome && (patchInputs s p).all (fun i => (smFind i x.held).isSome) then
    closeRound p c 0 x.held (setPatch p { x with opened := none, held := [] } s)
  else s

/-- The last round of a patch that closed complete in fc `f` and already held a decision at local input `i` from an
earlier fc: a delivery to that input in `f` turns its close into an overlap (R295). -/
def undoable (x : Patch) (f i : Nat) : Option Round :=
  match x.rounds.getLast? with
  | some r => if r.c = f ∧ r.reason = 0 ∧ (((smFind i r.held).map (fun h => decide (h.t < f))).getD false) then some r else none
  | none => none

/-- The fc in which the open round of a patch times out: O + ROUND_TO, or the first fc after a freeze has cleared (R294,
R307). -/
def timeoutFc (s : State) (p : Nat) : Option Nat :=
  ((patchOf s p).opened).map (fun o => max (o + roundTo (patchCfg s p)) s.thaw)

/-- A delivery of fc `f` to local input `i` of patch `p`: it joins or opens a round, or closes the open round by
overlap and opens the next (R293, R295). -/
def roundInput (p i f : Nat) (d : SynBit) (s : State) : State :=
  let s := match timeoutFc s p with
    | some c => if c ≤ f then timeoutRound p c s else s
    | none => s
  let x := patchOf s p
  let put := fun (h : SMap SynBit) (s : State) => tryComplete p f (setPatch p { patchOf s p with opened := some f, held := smSet i d h } s)
  match x.opened with
  | some o =>
    if (smFind i x.held).isSome then
      let old := x.held.filter (fun e => e.2.t < f)
      let new := x.held.filter (fun e => ¬ e.2.t < f)
      put new (closeRound p f 1 old (setPatch p { x with opened := none, held := [] } s))
    else tryComplete p f (setPatch p { x with opened := some o, held := smSet i d x.held } s)
  | none =>
    match undoable x f i with
    | some r =>
      let old := r.held.filter (fun e => e.2.t < f)
      let new := r.held.filter (fun e => ¬ e.2.t < f)
      let s := setPatch p { x with ref := r.prevRef, rounds := x.rounds.dropLast } s
      let s := putF pDrn DRN.PATCH_RND (getF s pDrn DRN.PATCH_RND p + 2 ^ 32 - 1) p s
      put new (closeRound p f 1 old s)
    | none => put [] s

/-- The patch in use whose syndrome range holds input `i` (R290). -/
def patchOfInput (s : State) (i : Nat) : Option Nat :=
  (List.range 8).find? (fun p => (patchOf s p).on && decide ((synRange (patchMap s p)).1 ≤ i)
    && decide (i < (synRange (patchMap s p)).1 + (synRange (patchMap s p)).2))

/-- A decision delivered in fc `f` to syndrome input `i` (R290, R307). -/
def darnerInput (i f : Nat) (d : Decision) (s : State) : State :=
  if !isSet s pDrn HDR.CTRL_EN || isSet s pDrn HDR.CTRL_FREEZE then discard 1 s
  else match patchOfInput s i with
    | none => discard 1 s
    | some p =>
      let b := decide (d.val ≠ 0) != decide (getB s pDrn DRN.SYN_MAP_INV i = 1)
      roundInput p (i - (synRange (patchMap s p)).1) f
        { b := b, leak := d.leak || decide (d.val = 2), lowc := d.lowc, ndet := d.ndet, t := f } s

/-- The syndrome inputs that subscribe to a slot (R290). -/
def inputsOf (s : State) (slot : Nat) : List Nat :=
  (List.range 128).filter (fun i => getB s pDrn DRN.SYN_MAP_EN i = 1 ∧ getB s pDrn DRN.SYN_MAP_SLOT i = slot)

/-- A patch cleared (R306, R307): the open round discarded without a record, ref and the round number cleared. -/
def clearPatch (p : Nat) (s : State) : State :=
  putF pDrn DRN.PATCH_RND 0 p (setPatch p { patchOf s p with opened := none, held := [], ref := 0, clrAt := none } s)

/-- A write of 1 to CLR of a patch (R306): it acts in the first fc after the write. -/
def patchClr (p : Nat) (s : State) : State := setPatch p { patchOf s p with clrAt := some (now s + 1) } s

/-! ### Matching (R297 to R299, R305) -/

/-- The events of a vector, lowest first. -/
def events (e : Nat) : List Nat := (List.range 128).filter (fun i => bit e i = 1)

/-- The BAR2 address of the table bank a round reads (R305). -/
def bankAddr (p : Nat) (r : Round) : Nat := 0x12100000 + 0xC000 * p + 0x6000 * DRN.PATCH_CFG_BANK.of r.cfg

/-- The lines a round reads: the W1 entry and the pair list of its first event, for weight 1 and 2 (R301, R305). -/
def roundLines (p : Nat) (r : Round) : List Nat :=
  match events r.ev with
  | [i] => [bankAddr p r + 4 * i]
  | [i, _] => [bankAddr p r + 0x400 + 64 * i]
  | _ => []

/-- The correction word that a round applies (R297 rows 7 and 9), if its tables hold one. -/
def roundEntry (s : State) (p : Nat) (r : Round) : Option Nat :=
  match events r.ev with
  | [i] =>
    let w := rdBytes s (bankAddr p r + 4 * i) 4
    if bit w 31 = 1 ∧ bit w 30 = 0 then some w else none
  | [i, j] =>
    let base := bankAddr p r + 0x400 + 64 * i
    match (List.range 8).find? (fun k => decide (bit (rdBytes s (base + 8 * k) 4) 31 = 1)
        && decide (rdBytes s (base + 8 * k) 4 % 128 = j)) with
    | some k => let w := rdBytes s (base + 8 * k + 4) 4; if bit w 30 = 0 then some w else none
    | none => none
  | _ => none

/-- The REASON of a closed round by the first row of R297 that applies; `crc` says that a line read for it failed, and `entry` is the
correction word that its tables hold. -/
def roundReason (r : Round) (crc : Bool) (entry : Option Nat) : Nat :=
  let w := (events r.ev).length
  if r.reason = 1 then 1
  else if r.reason = 2 then 2
  else if DRN.PATCH_CFG_LEAK_ESC.of r.cfg = 1 ∧ r.held.any (fun e => e.2.leak) then 3
  else if DRN.PATCH_CFG_LOWC_ESC.of r.cfg = 1 ∧ r.held.any (fun e => e.2.lowc) then 4
  else if crc then 8
  else if w = 0 then 0
  else if w = 1 then (if entry.isSome then 0 else 5)
  else if w = 2 then (if entry.isSome then 0 else 6)
  else 7

/-- The value of local output `n` of a matched round (R298). -/
def outValue (w n : Nat) : Nat :=
  (if bit w 18 = 1 ∧ w % 128 = n then mwBits w 7 2 else 0)
    ^^^ (if bit w 19 = 1 ∧ mwBits w 9 7 = n then mwBits w 16 2 else 0)

/-! ### The escalation queue (R302 to R304) -/

/-- The 32-byte record of a round as a little-endian number (R302). -/
def escRecord (p reason : Nat) (r : Round) : Nat :=
  let fl := fun (g : SynBit → Bool) => ofBool (r.held.any (fun e => g e.2))
  r.ev % 2 ^ (synRange r.map).2
  + r.c % 2 ^ 48 * 2 ^ 128
  + r.rnd * 2 ^ 176
  + (p + 8 * fl SynBit.ndet + 16 * fl SynBit.leak + 32 * fl SynBit.lowc) * 2 ^ 208
  + reason * 2 ^ 216
  + (events r.ev).length * 2 ^ 224
  + r.missN * 2 ^ 232
  + r.missFirst * 2 ^ 240

/-- DEPTH follows the queue. -/
def showEsc (s : State) : State := putF pDrn DRN.ESC_STAT_DEPTH s.esc.length 0 s

/-- A record appended to the queue, or dropped when it holds 64 (R303). -/
def escPush (p rnd rec : Nat) (s : State) : State :=
  if s.esc.length < 64 then
    let s := showEsc { s with esc := s.esc ++ [rec] }
    let s := irqBit pDrn 0 s
    let th := getF s pDrn DRN.ESC_CTL_TH
    if th ≠ 0 ∧ th ≤ s.esc.length then irqBit pDrn 1 s else s
  else
    let s := irqBit pDrn 2 (incSat pDrn DRN.ESC_STAT_DROP 0 s)
    if bit s.once.escDrop p = 1 then s
    else errRec pDrn 0x21 2 p rnd 0 { s with once := { s.once with escDrop := setBit s.once.escDrop p } }

/-- The oldest record removed (R304). -/
def escPop (s : State) : State := showEsc { s with esc := s.esc.tail }

/-- The tables read for a round (R299, R301): a line that fails its check is recorded and recovered, and the round holds what it
found. -/
def readTables (p : Nat) (r : Round) (s : State) : Round × State :=
  let bad := if r.reason = 0 then (roundLines p r).filter (fun a => lineBad s a) else []
  ({ r with read := some (decide (bad ≠ []), roundEntry s p r) },
    forAll bad (fun a s => errRec pDrn 0x22 1 0 p (lineOf a) (irqBit pDrn 4 (detectLine 4 a s))) s)

/-- The tables read for the rounds of a patch that are in fc c + 7, the last fc of their table reads (R301). -/
def readDue (p : Nat) (s : State) : State :=
  forAll ((patchOf s p).rounds.filter (fun r => r.read.isNone && decide (r.c + 7 ≤ now s))) (fun r s =>
    let q := readTables p r s
    let x := patchOf q.2 p
    { q.2 with patches := smSet p { x with rounds := x.rounds.map (fun y => if y = r then q.1 else y) } q.2.patches }) s

/-- The Darner in the fc at hand: table reads that end in it (R301). -/
def darnerCycle (s : State) : State := forAll (s.patches.map (fun e => e.1)) readDue s

/-- The clears of R306 that act in the fc that begins. -/
def darnerClears (s : State) : State :=
  forAll ((s.patches.filter (fun e => (e.2.clrAt.map (fun f => decide (f ≤ now s))).getD false)).map (fun e => e.1)) clearPatch s

/-- A closed round at the end of its pipeline, in fc c + 12 (R299 to R303): its frame updates published, and its record written
where it escalates or REC_ALL asks for it. -/
def finishRound (p : Nat) (r : Round) (s : State) : State :=
  let q := if r.read.isSome then (r, s) else readTables p r s
  let s := q.2
  let found := q.1.read.getD (false, none)
  let reason := roundReason r found.1 found.2
  let o := outRange r.map
  let ndet := r.held.any (fun e => e.2.ndet)
  let word := found.2.getD 0
  let pub := fun (g : Nat → Nat) (lowc : Bool) (s : State) =>
    forAll (List.range o.2) (fun n s =>
      publish (r.c + 12) 2 0 0 (o.1 + n) (getB s pDrn DRN.DOUT_SLOT_SLOT (o.1 + n))
        { val := g n, leak := false, lowc := lowc, ndet := ndet } s) s
  let s := if reason = 0 then pub (fun n => if events r.ev = [] then 0 else outValue word n) false s
    else if DRN.PATCH_CFG_ESC_PUB.of r.cfg = 1 then pub (fun _ => 0) true s else s
  let s := if reason = 0 then s else incSat pDrn DRN.PATCH_STAT_ESC_N p s
  if reason ≠ 0 ∨ DRN.PATCH_CFG_REC_ALL.of r.cfg = 1 then escPush p r.rnd (escRecord p reason r) s else s

end Sys2Proof.Machine
end

