-- ==== Sys2Proof/Machine/JodexOps.lean ====
section
/-!
DEFINITION. The operations of a Jodex port: its states (R324 to R331), the egress of decision words (R315, R272, R336),
the contents of a decision block (R317 to R319), loop stamps (R321) and management messages (R322, R323).
-/
namespace Sys2Proof.Machine

/-- A frozen port changes nothing of its state (R83). -/
def portHeld (s : State) (n : Nat) : Bool := isSet s (jdxPage n) HDR.CTRL_FREEZE

/-- A port takes a state; STATUS.RUN is 1 in ACTIVE and E_IDLE (R324). -/
def setPortState (n st : Nat) (s : State) : State :=
  putF (jdxPage n) HDR.STATUS_RUN (ofBool (decide (st = 5) || decide (st = 6))) 0
    (putF (jdxPage n) JDX.STATUS_STATE st 0 (noteWas none (HDR.STATUS.addr (jdxPage n) 0) s))

/-- A change of the port's own entries, which Hoop firmware floods (R349). -/
def topoUrge (s : State) : State := urge .topology s

/-- What waits to be sent on a port that is no longer ACTIVE or E_IDLE, and what is not yet released, is gone; the lanes of a port in
DISABLED or FAILED are silent (R324, R331; DESIGN CHOICE for FAILED, log entry 93). -/
def portDropped (st up : Nat) (x : Port) : Port :=
  { x with
    rx := [], egr := [], mq := [], peerIdleAt := none
    failUp := if st = 7 then up else x.failUp
    tx := { x.tx with loops := [], cur := none, idleReq := false, idleSent := false, exitReq := false, burst := 0, blks := [] } }

/-- What a port leaves behind when it is no longer ACTIVE or E_IDLE (R331): the entries not yet released are lost, and
so are the slots it imports. Hoop firmware has the routes that the port carried to withdraw (R362), and what the neighbour announced
no longer counts (R344). -/
def portDown (n st : Nat) (s : State) : State :=
  let s := if portState s n = 5 ∨ portState s n = 6 then urge (.portLost n) s else s
  let s := { s with cst := { s.cst with nbs := smErase n s.cst.nbs } }
  losePort n (portRx s n) true (setPortState n st (modPort n (portDropped st s.up) s))

/-- The band of zone 8, whose presets the ports use (R339, R340). -/
def linkBand (s : State) : Nat := min 4 (getF s 5 THM.ZBAND0_Z0_9 / 8 ^ 8 % 8)

/-- A port as it enters SEARCH (R328, R340): training starts afresh, the first block period begins with the next FCLK edge, and the
presets of the band are taken. The scramblers run on; how they stand at first the spec does not say (DESIGN CHOICE, log entry 93). -/
def freshPort (up band : Nat) (x : Port) : Port :=
  { backoff := x.backoff, msgs := x.msgs, searchUp := up
    tx := { on := true, start := 16 * up, scr0 := x.tx.scr0, scr1 := x.tx.scr1, post := 35 + 5 * band, peak := 80 + 10 * band } }

/-- The port enters SEARCH (R325, R328, R329, R339): every entry after the first counts, and training starts afresh. -/
def enterSearch (n : Nat) (s : State) : State :=
  let p := jdxPage n
  let s := portDown n 1 s
  let s := if (portOf s n).tx.on then incSat p JDX.TRAIN_CNT_RETRAIN 0 s else s
  let s := forAll [JDX.STATUS_FBM, JDX.STATUS_LOCK0, JDX.STATUS_LOCK1, JDX.STATUS_LANE_SWAP, JDX.STATUS_POL0,
      JDX.STATUS_POL1, JDX.STATUS_PEER_IDLE] (fun f s => putF p f 0 0 s) s
  modPort n (freshPort s.up (linkBand s)) s

/-- A training failure with its reason (R326, R327, R329, R342). -/
def trainFail (n reason : Nat) (s : State) : State :=
  errRec (jdxPage n) 0x21 0 0 reason 0 (irqBit (jdxPage n) 9 (portDown n 7 s))

/-- A port loses lock (R331): LOCK_LOST with the lanes and the cause, then SEARCH or FAILED by AUTO. -/
def portLol (n lanes cause : Nat) (s : State) : State :=
  let p := jdxPage n
  let s := irqBit p 0 (incSat p JDX.TRAIN_CNT_LOL 0 s)
  let s := errRec p 0x20 2 0 (lanes + 16 * cause) 0 s
  let s := if bit lanes 0 = 1 then putF p JDX.STATUS_LOCK0 0 0 s else s
  let s := if bit lanes 1 = 1 then putF p JDX.STATUS_LOCK1 0 0 s else s
  if isSet s p JDX.PORT_CFG_AUTO then enterSearch n s else portDown n 7 s

/-- A port in training loses lock of lanes: there is no traffic to lose, and with AUTO = 1 it starts afresh (R325). -/
def trainLol (n lanes : Nat) (s : State) : State :=
  let p := jdxPage n
  let s := if bit lanes 0 = 1 then putF p JDX.STATUS_LOCK0 0 0 s else s
  let s := if bit lanes 1 = 1 then putF p JDX.STATUS_LOCK1 0 0 s else s
  if 2 ≤ portState s n ∧ isSet s p JDX.PORT_CFG_AUTO = true then enterSearch n s else s

/-- Loss of lock by the state of the port (R325, R331): ACTIVE and E_IDLE end; training starts afresh; a port that is disabled or has
failed has no lock to lose. -/
def loseLock (n lanes cause : Nat) (s : State) : State :=
  let st := portState s n
  if st = 5 ∨ st = 6 then topoUrge (portLol n lanes cause s)
  else if st = 0 ∨ st = 7 then s
  else trainLol n lanes s

/-- Every port loses lock when the root PLL does, with cause 2 (R54, R333). -/
def allPortsLol (s : State) : State := forAll (List.range 8) (fun n s => loseLock n 3 2 s) s

/-- Whether a port may use main clocking mode, and fall-back mode (`PORT_CFG.MODE`). -/
def mainCap (s : State) (n : Nat) : Bool := decide (getF s (jdxPage n) JDX.PORT_CFG_MODE ≠ 2)
def fbCap (s : State) (n : Nat) : Bool := decide (getF s (jdxPage n) JDX.PORT_CFG_MODE ≠ 1)

/-! ### Egress (R272, R315, R336) -/

/-- Whether the entry (fc, half) of a port's egress is taken, or has gone out. -/
def entryTaken (p : Port) (f h : Nat) : Bool :=
  decide (2 * f + h < p.tx.unsent) || p.egr.any (fun w => decide (w.serve = f) && decide (w.half = h))

/-- The first free entry that serves fc `f` or one of the `k` - 1 after it: the lowest-numbered (R315). -/
def freeEntry (p : Port) : Nat → Nat → Option (Nat × Nat)
  | 0, _ => none
  | k + 1, f => if !entryTaken p f 0 then some (f, 0) else if !entryTaken p f 1 then some (f, 1) else freeEntry p k (f + 1)

/-- A decision of a slot delivered to the egress of port `n` in fc `e` (R315): an entry that serves `e` to `e` + 6, or
a later one with NDET (R272); discarded where the port is not ACTIVE (R336). A frozen port takes none (R83). -/
def egress (n slot e : Nat) (d : Decision) (s : State) : State :=
  if portHeld s n then s
  else if portState s n ≠ 5 then
    let s := incSat (jdxPage n) JDX.RX_CNT_EGR_DROP 0 s
    if 512 * n + slot ∈ s.once.egr then s
    else errRec (jdxPage n) 0x29 0 0 slot 0 { s with once := { s.once with egr := (512 * n + slot) :: s.once.egr } }
  else
    let p := portOf s n
    match freeEntry p 7 e with
    | some (f, h) => modPort n (fun p => { p with egr := p.egr ++ [{ serve := f, half := h, e := e, word := decWord slot d }] }) s
    | none =>
      let f0 := max (e + 7) (p.tx.unsent / 2)
      let fh := (freeEntry p (p.egr.length + 8) f0).getD (f0, 0)
      let s := modPort n (fun p => { p with egr := p.egr ++
        [{ serve := fh.1, half := fh.2, e := e, word := decWord slot { d with ndet := true } }] }) s
      let s := irqBit pTul 3 (incSat pTul TUL.EXP_LATE_CNT_LATE 0 s)
      if bit s.once.expLate n = 1 then s
      else errRec pTul 0x22 0 n slot 0 { s with once := { s.once with expLate := setBit s.once.expLate n } }

/-! ### Blocks (R310) -/

/-- A payload after the 58 scrambled bits `h`, the earliest in bit 0 (R310): bit i goes out as itself, plus the bit sent 39 before
it, plus the bit sent 58 before it. The first 39 bits follow from `h` alone. -/
def scramble (h pay : Nat) : Nat :=
  let lo := (pay ^^^ (h / 2 ^ 19) ^^^ h) % 2 ^ 39
  let q := h + 2 ^ 58 * lo
  lo + 2 ^ 39 * ((pay / 2 ^ 39 ^^^ q / 2 ^ 58 ^^^ q / 2 ^ 39) % 2 ^ 25)

/-- The payload that scrambled bits carry after the 58 bits `h` (R310). -/
def descramble (h line : Nat) : Nat :=
  let q := h + 2 ^ 58 * line
  (line ^^^ q / 2 ^ 19 ^^^ q) % 2 ^ 64

/-- The last 58 bits of a lane after 64 more. -/
def scrNext (h line : Nat) : Nat := (h + 2 ^ 58 * line) / 2 ^ 64

/-- The 66 bits of a block as they go out (R310): 0b01 sends 0 and then 1, and the payload follows from bit 0. -/
def wireBits (hdr line : Nat) : Nat := (if hdr = 1 then 2 else 1) + 4 * line

/-- A valid header, as its two bits in the order sent (R310). -/
def hdrOk (a b : Nat) : Bool := decide (a ≠ b)

/-- Whether 64 blocks from bit `p` of a lane's bits all have valid headers (R330). -/
def lockAt (line p : Nat) : Bool := (List.range 64).all (fun j => hdrOk (bit line (p + 66 * j)) (bit line (p + 66 * j + 1)))

/-- A lane that has received `line` finds block lock at one of the 66 positions (R330). -/
def locks (line : Nat) : Bool := (List.range 66).any (lockAt line)

/-! ### Decision blocks (R317 to R319) -/

/-- One step of the CRC-7 register with polynomial x^7 + x^3 + 1 over a payload bit (R318). -/
def crc7Step (c b : Nat) : Nat :=
  let top := (bit c 6 + b) % 2
  (c * 2 % 128) ^^^ (if top = 1 then 9 else 0)

/-- The CRC-7 of payload bits 0 to 56 (R318). -/
def crc7 (pay : Nat) : Nat := (List.range 57).foldl (fun c i => crc7Step c (bit pay i)) 0

/-- The CRC a decision block carries in payload bits [63:57], the most significant bit in bit 63 (R318). -/
def blockCrc (pay : Nat) : Nat := mwBits pay 57 7

/-- An entry of a decision block (R317). -/
def blockEntry (pay k : Nat) : Nat := mwBits pay (19 * k) 19

/-- The decision of an entry (R317). -/
def entryDec (x : Nat) : Decision :=
  { val := x % 4, leak := decide (bit x 2 = 1), lowc := decide (bit x 3 = 1), ndet := decide (bit x 4 = 1) }

/-- The latest fc at or before `ref` whose TIME[3:0] is `tag` (R319). -/
def egressFc (ref tag : Nat) : Nat := ref - (ref % 16 + 16 - tag) % 16

/-- An entry of a block that leaves the deserializer in fc `ta` (R319, R335): ignored with V = 0, else kept until the
fc it enters ingress; late words carry NDET. -/
def takeEntry (n ta x : Nat) (s : State) : State :=
  if bit x 18 = 0 then s
  else
    let p := jdxPage n
    let slot := mwBits x 5 9
    let d := entryDec x
    let add := fun (w : RxWord) (s : State) => modPort n (fun q => { q with rx := q.rx ++ [w] }) s
    if isSet s p JDX.STATUS_FBM then add { slot := slot, dec := { d with ndet := true }, rel := ta + 1, fb := true } s
    else
      let fh := getF s p JDX.LINK_LAT_FH
      let rel := egressFc (ta - 18 - fh) (mwBits x 14 4) + 29 + fh
      if ta + 1 ≤ rel then add { slot := slot, dec := d, rel := rel, fb := false } s
      else
        let s := add { slot := slot, dec := { d with ndet := true }, rel := ta + 1, fb := false } s
        let s := irqBit p 5 (incSat p JDX.RX_CNT_RX_LATE 0 s)
        if bit s.once.rxLate n = 1 then s
        else errRec p 0x24 0 0 (slot + 2 ^ 16 * min 255 (ta + 1 - rel)) 0
          { s with once := { s.once with rxLate := setBit s.once.rxLate n } }

/-- A decision block discarded for its header or its CRC (R318). -/
def dropBlock (n : Nat) (s : State) : State :=
  let p := jdxPage n
  let s := irqBit p 3 (incSat p JDX.DEC_CRC_CNT 0 s)
  if bit s.once.decCrc n = 1 then s
  else errRec p 0x22 2 0 ((portOf s n).seq0.getD 0) 0 { s with once := { s.once with decCrc := setBit s.once.decCrc n } }

/-! ### Loop stamps (R321) -/

/-- A LOOP block handed to the management positions (R316). -/
def sendBlk (n : Nat) (b : OutBlk) (s : State) : State := modPort n (fun p => { p with tx := { p.tx with loops := p.tx.loops ++ [b] } }) s

/-- The apparent delay of a stamp (R321). -/
def apparent (dep arr : Nat) : Int := toSigned 48 ((arr % 2 ^ 48 + 2 ^ 48 - dep % 2 ^ 48) % 2 ^ 48)

/-- A loop stamp handed to the management positions (R321, R341); frames count on toward the next. -/
def sendStamp (n id : Nat) (s : State) : State :=
  sendBlk n (.stamp id) (modPort n (fun p => { p with tx := { p.tx with since := p.tx.since % 1024 } }) s)

/-! ### Management messages (R322, R323) -/

/-- A message discarded for a cause (R323). -/
def mgmtDrop (n chan cause : Nat) (s : State) : State :=
  errRec (jdxPage n) 0x27 0 0 (chan + 16 * cause) 0 (incSat (jdxPage n) JDX.MGMT_DROP 0 s)

/-- A message of Hoop firmware handed to a port, to start when its turn comes and the peer's credit lets it (R322). -/
def sendMsg (n chan : Nat) (bytes : List Byte) (s : State) : State :=
  modPort n (fun p => { p with mq := p.mq ++ [(chan, bytes)] }) s

/-- The free management receive buffers of a port, as CREDIT shows them (R322). -/
def freeBufs (s : State) (n : Nat) : Nat :=
  4 - ((portOf s n).msgs.length + ofBool (portOf s n).openMsg.isSome)

/-- One step of the CRC-32 register, reflected, polynomial 0xEDB88320, over a bit (R133). -/
def crc32Bit (c : Nat) : Nat := if c % 2 = 1 then (c / 2) ^^^ 0xEDB88320 else c / 2

/-- The CRC-32 of a byte string (R133). -/
def crc32 (bs : List Byte) : Nat :=
  (bs.foldl (fun c v => (List.range 8).foldl (fun c _ => crc32Bit c) (c ^^^ v.toNat)) 0xFFFFFFFF) ^^^ 0xFFFFFFFF

/-- A byte string as a little-endian number. -/
def leNat : List Byte → Nat
  | [] => 0
  | v :: l => v.toNat + 256 * leNat l

/-- Whether a message ends in the CRC-32 of the bytes before it (R322). -/
def msgCrcOk (bs : List Byte) : Bool :=
  decide (4 ≤ bs.length) && decide (leNat (bs.drop (bs.length - 4)) = crc32 (bs.take (bs.length - 4)))

/-- Whether Hoop firmware knows a message: VER 1 and a TYPE of its channel (R347, R348, R406). -/
def knownMsg (chan : Nat) (bs : List Byte) : Bool :=
  let t := leNat (bs.take 1)
  decide (12 ≤ bs.length) && decide (leNat ((bs.drop 1).take 1) = 1) &&
  ((decide (chan = 0) && (decide (t = 1) || decide (t = 2)))
    || (decide (chan = 1) && decide (0x10 ≤ t) && decide (t ≤ 0x15))
    || (decide (chan = 2) && decide (t = 0x20)))

/-! ### Training (R325 to R328) -/

/-- Whether both lanes hold block lock. -/
def bothLocked (s : State) (n : Nat) : Bool := isSet s (jdxPage n) JDX.STATUS_LOCK0 && isSet s (jdxPage n) JDX.STATUS_LOCK1

/-- MAIN_OK of a port (R326): its mode permits main clocking mode, both lanes are locked, and the recovered clock is within ±20 ppm. -/
def mainOkOwn (s : State) (n : Nat) : Bool := mainCap s n && bothLocked s n && (portOf s n).ppm

/-- SEARCH ends once both lanes hold lock and each has received 16 TRAIN blocks (R328). -/
def searchDone (n : Nat) (s : State) : State :=
  let x := portOf s n
  if decide (portState s n = 1) && bothLocked s n && decide (16 ≤ x.rx0) && decide (16 ≤ x.rx1) then
    setPortState n 2 (modPort n (fun x => { x with rx0 := 0, rx1 := 0, sent := 0, mode := none }) s)
  else s

/-- AGREE ends once the decided mode has been sent in 64 blocks and seen in 16 consecutive ones on each lane (R328). -/
def agreeDone (n : Nat) (s : State) : State :=
  let x := portOf s n
  match x.mode with
  | some fb =>
    if portState s n = 2 ∧ 16 ≤ x.rx0 ∧ 16 ≤ x.rx1 ∧ 64 ≤ x.sent then
      putF (jdxPage n) JDX.STATUS_FBM (ofBool fb) 0 (setPortState n 3 (modPort n (fun x => { x with frames := 0 }) s))
    else s
  | none => s

/-- DESKEW ends once lane 1 is aligned and eight frames in a row have arrived in step (R328). -/
def deskewDone (n : Nat) (s : State) : State :=
  let x := portOf s n
  if portState s n = 3 ∧ x.aligned = true ∧ 8 ≤ x.frames then
    setPortState n 4 (modPort n (fun x => { x with
      stampN := 0, stampSum := 0, repN := 0, repSum := 0, nextId := 0, measUp := s.up }) s)
  else s

/-! ### The time port (R353, R354) -/

/-- The time port. -/
def timePort (s : State) : Nat := getF s 0x38 CST.TIME_STAT_PORT

/-- The one-way flight D in 1/16 fc: the mean of LINK_LAT.MEAN and the mean of the reports of MEASURE (R353). -/
def timeDelay (s : State) : Int :=
  let n := timePort s
  let x := portOf s n
  roundDiv (toSigned 16 (getF s (jdxPage n) JDX.LINK_LAT_MEAN) * max 1 x.repN + x.repSum) (2 * max 1 x.repN)

/-- The conditions of R353. -/
def slotReady (s : State) : Bool :=
  let n := timePort s
  let x := portOf s n
  decide (getF s 1 CLK.SYNC_CTL_SRC = 2) && isSet s 1 CLK.SYNC_CTL_ARM && decide (portState s n = 5)
    && !isSet s (jdxPage n) JDX.STATUS_FBM && x.peerValid && decide (16 ≤ x.timeN)

/-- The conditions of R353 looked at again: the fc in which they began to hold, and D as TSRC_DLY shows it. -/
def slotWatch (s : State) : State :=
  if slotReady s then
    let s := putF 0x38 CST.TSRC_DLY_D (ofSigned 16 (timeDelay s)) 0 s
    if s.cst.slotAt.isSome then s else { s with cst := { s.cst with slotAt := some (now s) } }
  else { s with cst := { s.cst with slotAt := none } }

/-- The epoch value and the residue in 1/16 fc, if the REFCLK edge in the fc at hand is the edge E of R354: the conditions
have held for 160 fc, and S(E + 80) lies within 1 fc of a multiple of 16. -/
def slotEdge (s : State) : Option (Nat × Int) :=
  let x := portOf s (timePort s)
  match s.cst.slotAt with
  | none => none
  | some c =>
    if slotReady s && decide (c + 160 ≤ now s) then
      let v : Int := 16 * (x.timeF + now s + 80) - x.timeA + timeDelay s
      let m := (v + 128) / 256
      let r := v - 256 * m
      if -16 ≤ r ∧ r ≤ 16 then some ((16 * m).toNat, r) else none
    else none

end Sys2Proof.Machine
end

