-- ==== Sys2Proof/Machine/JodexTx.lean ====
section
/-!
DEFINITION. The transmit side of a Jodex port in a fabric cycle: block periods (R310), TRAIN blocks and frames (R312, R313, R328),
decision blocks (R314, R317), management positions (R316, R320, R322), fillers (R334) and electrical idle (R337, R338).
-/
namespace Sys2Proof.Machine

/-! ### Payloads (R311, R317, R320) -/

/-- A control block of a type, with what its bytes 1 to 7 hold. -/
def ctlPay (type rest : Nat) : Nat := type + 256 * (rest % 2 ^ 56)

def idlePay : Nat := ctlPay 0x1E 0
def fillerPay : Nat := ctlPay 0x87 0
def idleEnterPay : Nat := ctlPay 0x99 0

/-- The FRAME marker of lane `l` (R320). -/
def framePay (s : State) (n l : Nat) : Nat :=
  ctlPay 0x4B (l + 2 * getF s (jdxPage n) JDX.STATUS_FBM + 4 * getF s 1 CLK.SYNC_STAT_TIME_VALID
    + 2 ^ 8 * (portOf s n).tx.seq + 2 ^ 24 * n + 2 ^ 32 * freeBufs s n)

/-- The TRAIN block of lane `l` (R320, R326, R328). -/
def trainPay (s : State) (n l : Nat) : Nat :=
  ctlPay 0x78 (l + 2 ^ 8 * (ofBool (mainCap s n) + 2 * ofBool (mainOkOwn s n) + 4 * ofBool (fbCap s n))
    + 2 ^ 16 * portState s n + 2 ^ 24 * (portOf s n).tx.ctr)

/-- A LOOP block (R320, R321). -/
def loopPay (kind id val : Nat) : Nat := ctlPay 0x66 (kind + 2 * id + 2 ^ 8 * val)

/-- A MGMT fragment of up to six bytes (R320). -/
def mgmtPay (som eom : Bool) (chan : Nat) (bs : List Byte) : Nat :=
  ctlPay 0x2D (ofBool som + 2 * ofBool eom + 4 * (bs.length - 1) + 32 * chan + 2 ^ 8 * leNat bs)

/-! ### The frame (R312 to R315) -/

/-- TIME in the fc F of the running frame; it follows a reload of TIME (R313). -/
def frameTime (s : State) (n : Nat) : Int := (now s : Int) - s.up + (portOf s n).tx.f

/-- The TIME block of the running frame (R312, R320). -/
def timePay (s : State) (n : Nat) : Nat := ctlPay 0x55 (frameTime s n % 2 ^ 56).toNat

/-- The decision blocks of a frame before position `b` (R312, R314). -/
def blocksBefore (b : Nat) : Nat :=
  ((List.range b).map (fun i => if i = 0 ∨ i = 8 then 0 else if i % 2 = 1 then 2 else 1)).sum

/-- Decision entry `i` of a frame that serves the fc at twice that fc plus its half, `x` (R314, R317): the word placed there with TAG
and V, or free with V = 0. What the other bits of a free entry hold the spec does not say (log entry 93). -/
def entryOf (p : Port) (x : Int) : Nat :=
  match p.egr.find? (fun w => decide ((2 * w.serve + w.half : Nat) = x)) with
  | some w => w.word % 32 + 32 * (w.word / 64 % 512) + 2 ^ 14 * (w.e % 16) + 2 ^ 18
  | none => (Config.freeEntry x.toNat).toNat

/-- Three entries with their CRC-7 (R317, R318). -/
def decisionPay (a b c : Nat) : Nat :=
  let pay := a + 2 ^ 19 * b + 2 ^ 38 * c
  pay + 2 ^ 57 * crc7 pay

/-- Decision block `d` of the running frame (R314): its entries have gone out. -/
def decisionBlk (n d : Nat) (s : State) : Nat × State :=
  let x : Int := 2 * frameTime s n - 4 + (3 * d : Nat)
  let p := portOf s n
  (decisionPay (entryOf p x) (entryOf p (x + 1)) (entryOf p (x + 2)),
    modPort n (fun p => { p with
      egr := p.egr.filter (fun w => decide (x + 3 ≤ (2 * w.serve + w.half : Nat)))
      tx := { p.tx with unsent := (x + 3).toNat } }) s)

/-! ### Management positions (R316) -/

/-- The departure stamp of a block that begins now (R321). -/
def departure (s : State) (n : Nat) : Nat := (16 * now s + (portOf s n).tx.start % 16) % 2 ^ 48

/-- A LOOP block as it leaves (R320, R321). -/
def loopBlk (s : State) (n : Nat) : OutBlk → Nat
  | .stamp id => loopPay 0 id (departure s n)
  | .report id val => loopPay 1 id val

/-- A fragment of the message being sent (R320, R322): its first fragment has SOM, its last EOM. -/
def fragment (n : Nat) (c : Nat × Bool × List Byte) (s : State) : Nat × State :=
  let rest := c.2.2.drop 6
  (mgmtPay c.2.1 (decide (rest = [])) c.1 (c.2.2.take 6),
    modPort n (fun p => { p with tx := { p.tx with cur := if rest = [] then none else some (c.1, false, rest) } }) s)

/-- A MGMT block, where a message is being sent or may start (R322): credit is used as one starts. -/
def mgmtBlk (n : Nat) (s : State) : Nat × State :=
  let p := portOf s n
  match p.tx.cur, p.mq with
  | some c, _ => fragment n c s
  | none, m :: ms =>
    if 0 < p.credit then fragment n (m.1, true, m.2) (modPort n (fun p => { p with mq := ms, credit := p.credit - 1 }) s)
    else (idlePay, s)
  | none, [] => (idlePay, s)

/-- The first block that waits of a LOOP block, IDLE_ENTER and, in ACTIVE, MGMT; else IDLE (R316). -/
def waitingBlk (n : Nat) (s : State) : Nat × State :=
  let p := portOf s n
  match p.tx.loops with
  | l :: ls => (loopBlk s n l, modPort n (fun p => { p with tx := { p.tx with loops := ls } }) s)
  | [] =>
    if p.tx.idleReq then (idleEnterPay, modPort n (fun p => { p with tx := { p.tx with idleReq := false, idleSent := true } }) s)
    else if portState s n = 5 then mgmtBlk n s
    else (idlePay, s)

/-- The block of the management position at `b` (R316, R328): IDLE in DESKEW; in MEASURE one of the sixteen stamps at b = 2. -/
def positionBlk (n b : Nat) (s : State) : Nat × State :=
  let p := portOf s n
  if portState s n = 3 then (idlePay, s)
  else if portState s n = 4 ∧ b = 2 ∧ p.nextId < 16 then
    (loopPay 0 p.nextId (departure s n), modPort n (fun p => { p with nextId := p.nextId + 1 }) s)
  else waitingBlk n s

/-! ### A block period -/

/-- The blocks of a framed period at position `b`, as header and payload, lane 0 first (R312). -/
def framedBlks (n b : Nat) (s : State) : List (Nat × Nat) × State :=
  if b = 0 then ([(2, framePay s n 0), (2, framePay s n 1)], s)
  else if b = 8 then
    let m := positionBlk n b s
    ([(2, timePay s n), (2, m.1)], m.2)
  else
    let d := decisionBlk n (blocksBefore b) s
    if b % 2 = 1 then
      let e := decisionBlk n (blocksBefore b + 1) d.2
      ([(1, d.1), (1, e.1)], e.2)
    else
      let m := positionBlk n b d.2
      ([(1, d.1), (2, m.1)], m.2)

/-- A control block on either lane. -/
def onBoth (p0 p1 : Nat) (s : State) : List (Nat × Nat) × State := ([(2, p0), (2, p1)], s)

/-- A pair of TRAIN blocks sent: those that show AGREE and the decision count (R328). -/
def trainSent (n : Nat) (s : State) : State :=
  if portState s n = 2 ∧ (portOf s n).mode.isSome = true then
    agreeDone n (modPort n (fun p => { p with sent := p.sent + 1 }) s) else s

/-- What a port sends in a block period that begins now at position `b` (R324, R328, R334, R337, R338). -/
def periodBlks (n b : Nat) (s : State) : List (Nat × Nat) × State :=
  let t := (portOf s n).tx
  if t.filling then onBoth fillerPay fillerPay s
  else if portState s n = 6 then
    if 1 < t.burst then
      onBoth (trainPay s n 0) (trainPay s n 1) (modPort n (fun p => { p with tx := { p.tx with burst := t.burst - 1 } }) s)
    else if t.exitReq && decide (b = 1) then
      onBoth (trainPay s n 0) (trainPay s n 1) (modPort n (fun p => { p with tx := { p.tx with burst := 31, exitReq := false } }) s)
    else ([], s)
  else if t.framed then framedBlks n b s
  else onBoth (trainPay s n 0) (trainPay s n 1) (trainSent n s)

/-- A frame begins (R313, R328): a port in DESKEW or later sends or counts frames, from SEQ 0 on. -/
def frameBegins (st : Nat) (t : Tx) : Tx :=
  if t.b = 0 ∧ t.filling = false then
    { t with framed := decide (3 ≤ st) && decide (st ≤ 6), seq := if t.framed then (t.seq + 16) % 65536 else 0
             f := (t.start + 15) / 16 }
  else t

/-- The period over (R313, R328, R334, R341): the next one follows without a gap; after 64 frames in fall-back mode it is a FILLER. -/
def periodEnds (fb : Bool) (t : Tx) : Tx :=
  let t := { t with start := t.start + 33, ctr := (t.ctr + 1) % 65536 }
  if t.filling then { t with filling := false }
  else if t.b < 15 then { t with b := t.b + 1 }
  else if !t.framed then { t with b := 0 }
  else
    let due := fb && decide (64 ≤ t.fill + 1)
    { t with b := 0, since := t.since + 1, fill := if due then 0 else t.fill + 1, filling := due }

/-- The blocks of a period put on the lanes (R310): each lane scrambles its own payload bits. -/
def putBlks (l : List (Nat × Nat)) (t : Tx) : Tx :=
  match l with
  | [a, b] =>
    let w0 := scramble t.scr0 a.2
    let w1 := scramble t.scr1 b.2
    { t with
      blks := [{ hdr := a.1, pay := a.2, wire := wireBits a.1 w0 }, { hdr := b.1, pay := b.2, wire := wireBits b.1 w1 }]
      scr0 := scrNext t.scr0 w0, scr1 := scrNext t.scr1 w1 }
  | _ => { t with blks := [] }

/-- The transmit side of a port changed. -/
def modTx (n : Nat) (g : Tx → Tx) (s : State) : State := modPort n (fun p => { p with tx := g p.tx }) s

/-- A port in the fc at hand: a block period that begins in it is sent (R310, R312). A period is 33/16 fc, so one begins at most. A port
that has not entered SEARCH, is frozen, disabled or failed sends nothing. After a time without clock periods begin afresh. -/
def portCycle (n : Nat) (s : State) : State :=
  let st := portState s n
  let t := (portOf s n).tx
  if !t.on || decide (st = 0) || decide (st = 7) || portHeld s n || decide (16 * s.up + 16 ≤ t.start) then s
  else
    let s := modTx n (fun t => frameBegins st (if t.start < 16 * s.up then { t with start := 16 * s.up, b := 0 } else t)) s
    let r := periodBlks n (portOf s n).tx.b s
    modTx n (fun t => periodEnds (isSet r.2 (jdxPage n) JDX.STATUS_FBM) (putBlks r.1 t)) r.2

/-- Every port in the fc at hand. -/
def portCycles (s : State) : State := forAll (s.ports.map (fun e => e.1)) portCycle s

/-- The frame of a port that ends with the fc at hand (R337, R338): after IDLE_ENTER the lanes stop driving and the port enters
E_IDLE; after the training burst it is ACTIVE again. -/
def frameEnds (n : Nat) (s : State) : State :=
  let t := (portOf s n).tx
  if t.b ≠ 0 ∨ 16 * (s.up + 1) < t.start ∨ portHeld s n = true then s
  else if portState s n = 5 ∧ t.idleSent = true then
    topoUrge (setPortState n 6 (modTx n (fun t => { t with idleSent := false, blks := [] }) s))
  else if portState s n = 6 ∧ t.burst = 1 then
    topoUrge (irqBit (jdxPage n) 1 (setPortState n 5 (modTx n (fun t => { t with burst := 0 }) s)))
  else s

/-- The frame with the peer's IDLE_ENTER ends with the fc at hand (R337): PEER_IDLE sets, and the slots the port imports are lost. -/
def peerIdles (n : Nat) (s : State) : State :=
  match (portOf s n).peerIdleAt with
  | none => s
  | some u =>
    if s.up + 1 < u ∨ portHeld s n = true then s
    else
      let s := modPort n (fun p => { p with peerIdleAt := none }) s
      topoUrge (losePort n true false (putF (jdxPage n) JDX.STATUS_PEER_IDLE 1 0 s))

/-- What the ends of frames bring about, as an fc ends. -/
def portEnds (s : State) : State := forAll (s.ports.map (fun e => e.1)) (fun n s => peerIdles n (frameEnds n s)) s

end Sys2Proof.Machine
end

