-- ==== Sys2Proof/Machine/Trig.lean ====
section
/-!
DEFINITION. The COS and SIN tables of R176 and the sinc-correction factor of R186, computed from their definitions in
fixed point with 80 fraction bits.
-/
namespace Sys2Proof.Machine

/-- 1.0 in the fixed point of this file. -/
def fxOne : Int := 2 ^ 80

/-- π in the fixed point of this file, rounded down. -/
def fxPi : Int := 3797952473636338580787993

/-- The product of two fixed-point values. -/
def fxMul (a b : Int) : Int := a * b / fxOne

/-- The tail of the Taylor series of sine or cosine from a term on; `k` is the next factor of the factorial. -/
def fxSeries (x2 : Int) : Nat → Nat → Int → Int
  | 0, _, t => t
  | n + 1, k, t => t + fxSeries x2 n (k + 2) (-(fxMul t x2 / (k * (k + 1) : Nat)))

/-- Sine of a fixed-point angle in 0 to π/2. -/
def fxSin (x : Int) : Int := fxSeries (fxMul x x) 18 2 x

/-- Cosine of a fixed-point angle in 0 to π/2. -/
def fxCos (x : Int) : Int := fxSeries (fxMul x x) 18 1 fxOne

/-- Sine of `p` / 2^20 turn within the first quarter turn. -/
def sinQuarter (p : Nat) : Int := fxSin (2 * fxPi * p / 2 ^ 20)

/-- SIN[p] of R176: round(2^17 × sin(2π p / 2^20)), to nearest with ties away from zero. -/
def sinTab (p : Nat) : Int :=
  let p := p % 2 ^ 20
  let v := if p ≤ 2 ^ 18 then sinQuarter p
    else if p ≤ 2 ^ 19 then sinQuarter (2 ^ 19 - p)
    else if p ≤ 3 * 2 ^ 18 then -sinQuarter (p - 2 ^ 19)
    else -sinQuarter (2 ^ 20 - p)
  roundDiv (v * 2 ^ 17) (2 ^ 80)

/-- COS[p] of R176. -/
def cosTab (p : Nat) : Int := sinTab (p + 2 ^ 18)

/-- The carrier phase θ in 2^-20 turn at DCLK index `n` (R166). -/
def carrier (ftw n : Nat) : Nat := (ftw * n % 2 ^ 48 + 2 ^ 27) / 2 ^ 28 % 2 ^ 20

/-- Whether a 48-bit frequency word lies in the band of a mode: NRZ DC to 7.6 GHz, mix 8.4 to 14 GHz (R185). -/
def inBand (mix : Bool) (ftw : Nat) : Bool :=
  if mix then decide (0x866666666667 ≤ ftw) && decide (ftw ≤ 0xE00000000000) else decide (ftw ≤ 0x79999999999A)

/-- SINC_C of a tone (R186): round(2^15 × H_min / H(f)) with H of R185, UQ1.15; 1.0 for a tone out of its band or
with the correction off. -/
def sincFactor (en mix : Bool) (ftw : Nat) : Nat :=
  if !en || !inBand mix ftw then 0x8000
  else if mix then
    let y := fxPi * ftw / 2 ^ 49
    let sy := if y ≤ fxPi / 2 then fxSin y else fxSin (fxPi - y)
    (roundDiv (2 ^ 15 * 653777 * y * fxOne) (1000000 * sy * sy).toNat).toNat
  else if ftw = 0 then (roundDiv (2 ^ 15 * 668060) 1000000).toNat
  else
    let y := fxPi * ftw / 2 ^ 48
    let sy := if y ≤ fxPi / 2 then fxSin y else fxSin (fxPi - y)
    (roundDiv (2 ^ 15 * 668060 * y) (1000000 * sy).toNat).toNat

end Sys2Proof.Machine
end

