-- ==== Sys2Proof/Machine/CommitOps.lean ====
section
/-!
DEFINITION. What a commit of B-class values brings about (R15, R16, R66 to R69): values in force, and what follows
from them on the tiles (R185, R186, R206, R207, R232), in Tulle (R263), in the Darner (R289, R292) and in the
coefficient buffers (R224, R253).
-/
namespace Sys2Proof.Machine

/-- The B-class bits of the register at a register-file address. -/
def bMask (a : Nat) : Word :=
  match pageKind (a % windowStride / 0x1000) with
  | none => 0#32
  | some k => ((fieldsAt k (a % 0x1000)).filter (fun d => d.cls = .b)).foldl (fun m d => m ||| d.fld.mask) 0#32

/-- A change a commit makes: the register-file address, and the words in force before and after. -/
abbrev Change := Nat × Word × Word

/-- Staged words brought into force: a register whose B-class fields have not been written since is no longer pending,
another keeps its later write waiting (R16, R68). -/
def bringIn (snap : SMap Word) (s : State) : State :=
  snap.foldl (fun s e =>
    let s := if (rdWord s e.1 ^^^ e.2) &&& bMask e.1 = 0#32 then { s with held := smErase e.1 s.held }
      else { s with held := smSet e.1 e.2 s.held }
    geoSync (e.1 % windowStride / 0x1000) e.1 e.2 s) s

/-- The changes that a set of staged words makes. -/
def changesOf (snap : SMap Word) (s : State) : List Change := snap.map (fun e => (e.1, inForce s e.1, e.2))

/-- The page and the offset of a register-file address. -/
def pageOf (a : Nat) : Nat := a % windowStride / 0x1000
def offOf (a : Nat) : Nat := a % 0x1000

/-! ### Tones (R185, R186, R196) -/

/-- The tones of a tile: 16 on a drive tile, 32 on a read-out tile. -/
def toneCount (b : Nat) : Nat := if isDrv b then 16 else if isRdo b then 32 else 0

/-- The DAC of a tone (R163). -/
def toneDac (b t : Nat) : Nat := if isDrv b then t / 8 else 0

/-- The 48-bit frequency word in force of a tone (R165, R197). -/
def toneFtw (s : State) (b t : Nat) : Nat :=
  getB s (tilePage b) DRV.TONE_FTW_LO t + 2 ^ 32 * getB s (tilePage b) DRV.TONE_FTW_HI_FTW_H t

/-- Mix mode of a tone's DAC (R184). -/
def toneMix (s : State) (b t : Nat) : Bool := isDrv b && decide (getB s (tilePage b) DRV.DAC_CFG_MODE (toneDac b t) = 1)

/-- Sinc correction of a tone's DAC (R186). -/
def toneSinc (s : State) (b t : Nat) : Bool :=
  if isDrv b then decide (getB s (tilePage b) DRV.DAC_CFG_SINC_EN (toneDac b t) = 1)
  else decide (getB s (tilePage b) RDO.PDAC_CFG_SINC_EN = 1)

/-- Whether an enabled tone lies out of its DAC's band (R185). -/
def toneOut (s : State) (b t : Nat) : Bool :=
  decide (getB s (tilePage b) DRV.TONE_CFG_EN t = 1) && !inBand (toneMix s b t) (toneFtw s b t)

/-- BAND_ANY of a DAC: the OR of BAND over its tones. -/
def showBandAny (b d : Nat) (s : State) : State :=
  let any := (List.range (toneCount b)).any (fun t => decide (toneDac b t = d) && isSet s (tilePage b) DRV.TONE_CFG_BAND t)
  if isDrv b then putF (tilePage b) DRV.DAC_STAT_BAND_ANY (ofBool any) d s
  else putF (tilePage b) RDO.PDAC_STAT_BAND_ANY (ofBool any) 0 s

/-- BAND and SINC_C of a tone as in force, with the record of a tone that is out of band: at a GO always, at a commit
where it was not before (R185, R186). -/
def refreshTone (b : Nat) (atGo : Bool) (t : Nat) (s : State) : State :=
  let p := tilePage b
  let was := isSet s p DRV.TONE_CFG_BAND t
  let out := toneOut s b t
  let s := putF p DRV.TONE_CFG_BAND (ofBool out) t s
  let s := putF p DRV.TONE_GAIN_SINC_C (sincFactor (toneSinc s b t) (toneMix s b t) (toneFtw s b t)) t s
  let s := showBandAny b (toneDac b t) s
  if out && (atGo || !was) then errRec p 0x32 0 t (toneFtw s b t / 2 ^ 16) 0 (irqBit p 10 s) else s

/-! ### Bins (R206, R207) -/

/-- Whether a captured tone has a bin error: its BIN is 0, or f lies more than 62.5 MHz from 8 GHz − 125 MHz × BIN
(R207). In units of 62.5 MHz, which are 2^40 of the frequency word, the centre is 128 − 2 × BIN. -/
def binErr (s : State) (b t : Nat) : Bool :=
  let p := tilePage b
  let bin := getB s p RDO.RX_CFG_BIN t
  decide (getB s p RDO.RX_CFG_RX_EN t = 1) &&
    (decide (bin = 0) || decide ((2 : Int) ^ 40 < (((toneFtw s b t : Nat) : Int) - (128 - 2 * bin) * 2 ^ 40).natAbs))

/-- BIN_ERR of a tone as in force, with its record (R207). -/
def refreshBin (b : Nat) (atGo : Bool) (t : Nat) (s : State) : State :=
  let p := tilePage b
  let was := isSet s p RDO.RX_STAT_BIN_ERR t
  let bad := binErr s b t
  let s := putF p RDO.RX_STAT_BIN_ERR (ofBool bad) t s
  if bad && (atGo || !was) then errRec p 0x35 0 t 1 0 (irqBit p 13 s) else s

/-- BIN_USE: the bins that a captured tone names (R206). -/
def showBinUse (b : Nat) (s : State) : State :=
  let p := tilePage b
  let use := (List.range 32).foldl (fun m t =>
    if getB s p RDO.RX_CFG_RX_EN t = 1 ∧ getB s p RDO.RX_CFG_BIN t ≠ 0 then setBit m (getB s p RDO.RX_CFG_BIN t) else m) 0
  putF p RDO.BIN_USE use 0 s

/-! ### Frame source (R232) -/

/-- Whether a DEC_CFG word names a frame source that is absent or mapped out (R232). -/
def pfBad (s : State) (w : Word) : Bool :=
  decide (RDO.DEC_CFG_PF_EN.of w = 1) && !tileUsable s (RDO.DEC_CFG_PF_TILE.of w)

/-- The PF_SRC record of a tone (R232). -/
def pfRecord (b t : Nat) (w : Word) (s : State) : State :=
  errRec (tilePage b) 0x3C 0 t (RDO.DEC_CFG_PF_TILE.of w) 0 s

/-! ### What follows from a commit -/

/-- The tones of a tile that a set of changes bears on. -/
def changedTones (b : Nat) (ch : List Change) : List Nat :=
  (List.range (toneCount b)).filter fun t => ch.any fun e =>
    decide (pageOf e.1 = tilePage b) &&
    ((decide (0x200 ≤ offOf e.1) && decide (offOf e.1 < 0x200 + 0x10 * toneCount b) && decide ((offOf e.1 - 0x200) / 0x10 = t))
     || (isDrv b && decide (offOf e.1 = 0x300 + 0x20 * (t / 8)))
     || (isRdo b && decide (offOf e.1 = 0x800)))

/-- The tones of a read-out tile whose bin a set of changes bears on. -/
def changedBins (b : Nat) (ch : List Change) : List Nat :=
  (List.range 32).filter fun t => ch.any fun e =>
    decide (pageOf e.1 = tilePage b) &&
    ((decide (offOf e.1 = 0x200 + 0x10 * t)) || decide (offOf e.1 = 0x204 + 0x10 * t) || decide (offOf e.1 = 0x400 + 0x10 * t))

/-- STATUS.MODE of a drive tile follows DAC_CFG (06_drive_path, STATUS). -/
def showMode (b : Nat) (s : State) : State :=
  let p := tilePage b
  putF p DRV.STATUS_MODE (getF s p DRV.DAC_CFG_MODE 0 + 2 * getF s p DRV.DAC_CFG_MODE 1) 0 s

/-- What changes of a tile page bring about. -/
def tileCommit (ch : List Change) (b : Nat) (s : State) : State :=
  let s := forAll (changedTones b ch) (refreshTone b false) s
  let s := if isDrv b && ch.any (fun e => decide (pageOf e.1 = tilePage b) && decide (0x300 ≤ offOf e.1)) then showMode b s else s
  if isRdo b then
    let s := forAll (changedBins b ch) (refreshBin b false) s
    let s := if ch.any (fun e => decide (pageOf e.1 = tilePage b) && decide (0x400 ≤ offOf e.1) && decide (offOf e.1 < 0x600))
      then showBinUse b s else s
    let s := forAll (ch.filter (fun e => decide (pageOf e.1 = tilePage b) && decide (0xA00 ≤ offOf e.1) && decide (offOf e.1 < 0xA80)))
      (fun e s => if pfBad s e.2.2 && !pfBad s e.2.1 then pfRecord b ((offOf e.1 - 0xA00) / 4) e.2.2 s else s) s
    forAll (ch.filter (fun e => decide (pageOf e.1 = tilePage b) && decide (0xB04 ≤ offOf e.1) && decide (offOf e.1 ≤ 0xB20)))
      (fun e s => trackClear b (e.1 / windowStride) s) s
  else s

/-- The slots whose SLOT_SRC a set of changes commits, with whether each was of KIND 0 before. -/
def changedSlots (ch : List Change) : List (Nat × Bool) :=
  (ch.filter (fun e => decide (pageOf e.1 = pTul) && decide (offOf e.1 = TUL.SLOT_SRC.off))).map
    (fun e => (e.1 / windowStride, decide (TUL.SLOT_SRC_KIND.of e.2.1 = 0)))

/-- What a set of changes that has come into force brings about on every page, with the route changes staged with them. -/
def afterCommit (routes : SMap RouteSet) (ch : List Change) (s : State) : State :=
  let pages := (ch.map (fun e => pageOf e.1)).eraseDups
  let s := forAll ((List.range 32).filter (fun b => tilePage b ∈ pages)) (tileCommit ch) s
  let s := if changedSlots ch = [] then s else routeCommit routes (changedSlots ch) s
  let s := if pDrn ∈ pages then darnerCommit ch s else s
  forAll pages syncBPend s

/-- Staged words brought into force with all that follows. -/
def commitWords (routes : SMap RouteSet) (snap : SMap Word) (s : State) : State :=
  let ch := changesOf snap s
  afterCommit routes ch (bringIn snap s)

/-- The pending words of the registers that commit at a boundary of tile `b`: its page, and the OUT_DELAY entries of
its converters (R67, R74). -/
def tilePending (s : State) (b : Nat) : SMap Word :=
  (s.held.filter (fun e => decide (pageOf e.1 = tilePage b) ||
      (decide (pageOf e.1 = 1) && decide (CLK.OUT_DELAY_COARSE.off ≤ offOf e.1)
        && decide (delayOwner ((offOf e.1 - CLK.OUT_DELAY_COARSE.off) / 4) = b)))).map (fun e => (e.1, rdWord s e.1))

/-- The pending words of the registers that commit at a device shot boundary: every device-level page but PAT, whose
B-class fields commit at the end of a pass (R67, R469). -/
def devPending (s : State) : SMap Word :=
  (s.held.filter (fun e => decide (pageOf e.1 ≠ 8) && !(decide (0x10 ≤ pageOf e.1) && decide (pageOf e.1 < 0x30))
      && !(decide (pageOf e.1 = 1) && decide (CLK.OUT_DELAY_COARSE.off ≤ offOf e.1)))).map (fun e => (e.1, rdWord s e.1))

/-! ### Coefficient buffers (R224, R253) -/

/-- A loaded unmix matrix `st`, as staged, takes effect (R68, R224), where its load has not been cancelled; a matrix loaded since
goes on waiting. -/
def unmixSwap (b : Nat) (st : Option (SMap Cplx × Nat)) (s : State) : State :=
  match st, (rdoOf s b).matNext with
  | some (m, base), some cur =>
    let p := tilePage b
    let s := putF p RDO.UNMIX_STAT_MBASE_F base 0 s
    let same := decide (cur = m) && decide ((rdoOf s b).matNextBase = base)
    let s := modRdo b (fun r => { r with mat := some m, matNext := if same then none else r.matNext }) s
    irqBit p 20 (if same then putF p RDO.UNMIX_STAT_SWAP_PEND 0 0 (putF p RDO.STATUS_SWAP_PEND 0 0 s) else s)
  | _, _ => s

/-- A loaded coefficient buffer `st` of a flux output, as staged, takes effect (R68, R253), where its load has not been
cancelled. -/
def fluxSwap (b k : Nat) (st : Option (Coef × Nat)) (s : State) : State :=
  let o := fluxOf s b k
  match st, o.coefNext with
  | some (c, bank), some cur =>
    let p := tilePage b
    let same := decide (cur = c) && decide (o.nextBank = bank)
    let s := setFlux b k { o with coef := c, coefNext := if same then none else some cur } s
    let s := putF p FLX.OUT_STAT_BANK_F bank k s
    irqBit p 11 (if same then putF p FLX.STATUS_SWAP_PEND (clrBit (getF s p FLX.STATUS_SWAP_PEND) k) 0 s else s)
  | _, _ => s

/-- What a shot boundary of tile `b` would bring into force beside the registers, as it stands (R68). -/
def stageTile (s : State) (b : Nat) : Staged :=
  { cal := (calTile s b).shadow.map (fun v => (v, (calTile s b).shadowRun))
    geo := if isRdo b then (List.range 32).filterMap (fun t => (trackOf s b t).shadow.map (fun w => (t, w))) else []
    mat := (rdoOf s b).matNext.map (fun m => (m, (rdoOf s b).matNextBase))
    coefs := if isFlx b then (List.range 16).filterMap (fun k => (fluxOf s b k).coefNext.map (fun c => (k, (c, (fluxOf s b k).nextBank))))
      else [] }

/-- What a device shot boundary would bring into force beside the registers, as it stands (R68). -/
def stageDev (s : State) : Staged := { skew := s.cal.skewShadow, routes := waitingRoutes s }

/-- The loaded buffers of a tile, as staged, take effect. -/
def swapBuffers (b : Nat) (st : Staged) (s : State) : State :=
  if isRdo b then unmixSwap b st.mat s
  else if isFlx b then forAll (List.range 16) (fun k s => fluxSwap b k (smFind k st.coefs) s) s
  else s

/-- The calibration values of a tile, as staged, come into force (R403, R404): `ch` are the changes that commit with them, which
win over a tracked geometry (R231). -/
def calCommit (st : Staged) (ch : List Change) (b : Nat) (s : State) : State :=
  let s := calCommitTile b st.cal s
  if isRdo b then
    forAll (List.range 32) (fun t s =>
      if (trackOf s b t).shadow.isSome then
        geoCommit b t (smFind t st.geo) (ch.any (fun e => decide (pageOf e.1 = tilePage b) && decide (0xB04 ≤ offOf e.1)
          && decide (offOf e.1 ≤ 0xB20) && decide (e.1 / windowStride = t))) s
      else s) s
  else s

/-- What the device shot has recorded once already, forgotten as a new one begins. -/
def newDevShot (s : State) : State := { s with once := {} }

/-- A device shot boundary (R67, R68): device-level values, route changes and a skew trim as staged, and the marks of what the
device shot has recorded. -/
def deviceCommit (st : Staged) (snap : SMap Word) (s : State) : State :=
  let ch := changesOf snap s
  let s := commitWords st.routes snap s
  let s := if changedSlots ch = [] then routeCommit st.routes [] s else s
  let s := skewCommit st.skew (ch.any (fun e => decide (e.1 = CLK.SKEW_TRIM.addr 1 0))) s
  newDevShot s

/-- With no Tambour running, what still waits takes effect (R69). -/
def settle (s : State) : State :=
  if anyRunning s then s
  else if devPending s = [] ∧ pendingRoutes s = [] ∧ s.cal.skewShadow = none then s
  else deviceCommit (stageDev s) (devPending s) s

end Sys2Proof.Machine
end

