-- ==== Sys2Proof/Machine/TileOps.lean ====
section
/-!
DEFINITION. The operations of a tile's Tambour and timeline: keys and waits (R143 to R147, R567), the result ring and
shot marks (R154, R235 to R240), statistics (R241 to R243), the shot boundary (R66, R106), the stop (R153) and the
machine check (R160).
-/
namespace Sys2Proof.Machine

/-! ### The result ring (R236 to R240) -/

/-- FILL of the result ring, and STATUS.FULL (R236). -/
def resFill (s : State) (b : Nat) : Nat :=
  (getF s (tilePage b) RDO.RES_WP + 2 ^ 32 - getF s (tilePage b) RDO.RES_RP) % 2 ^ 32

/-- FILL shown after a pointer has moved. -/
def showFill (b : Nat) (s : State) : State :=
  putF (tilePage b) RDO.STATUS_FULL (ofBool (decide (131070 < resFill s b))) 0
    (putF (tilePage b) RDO.RES_STAT_FILL (resFill s b) 0 s)

/-- The BAR2 address of a ring position (R236). -/
def ringAddr (b pos : Nat) : Nat := aperture b + 0x400000 + 16 * (pos % 131072)

/-- RES_WP counts one more record, and FILL rising to TH raises bit 17 (R240). -/
def ringStep (b : Nat) (s : State) : State :=
  let p := tilePage b
  let s := showFill b (incWrap p RDO.RES_WP 0 s)
  let th := getF s p RDO.RES_TH_TH
  if th ≠ 0 ∧ th ≤ resFill s b then irqBit p 17 s else s

/-- The ring positions taken, with those that RES_WP does not count yet (R237, R238). -/
def ringTaken (s : State) (b : Nat) : Nat := resFill s b + (rdoOf s b).fresh.length

/-- A record written at the next ring position (R236, R237, R239): its line may drop it, and its position is consumed. RES_WP counts
it from 2 fc later on. -/
def ringPut (b : Nat) (bytes : List Byte) (s : State) : State :=
  let p := tilePage b
  let a := ringAddr b (getF s p RDO.RES_WP + (rdoOf s b).fresh.length)
  let bad := lineBad s a || (lineSt s a).recov.isSome
  let s := storeLine 4 a bytes s
  let s := if bad then incSat p RDO.RES_DROP2_MIC 0 s else s
  let t := now s
  modRdo b (fun r => { r with fresh := r.fresh ++ [t] }) s

/-- The bytes of a shot-status record (R235). -/
def statusBytes (cause shot : Nat) : List Byte :=
  toBytes cause 1 ++ toBytes 0 5 ++ toBytes shot 6 ++ [0x9F#8, 0x80#8, 0#8, 0#8]

/-- The shot-status record of a marked shot, at its boundary or stop (R154, R235, R238). -/
def shotStatus (b : Nat) (s : State) : State :=
  if (rdoOf s b).mark = 0 then s
  else if ringTaken s b ≤ 131071 then ringPut b (statusBytes (rdoOf s b).mark (shotNum s b)) s
  else incSat (tilePage b) RDO.RES_DROP2_SS 0 s

/-- A cause of R235 raised on a read-out tile's open shot (R154). -/
def raiseMark (b cause : Nat) (s : State) : State :=
  if isRdo b && decide (tileState s b = stRun) then modRdo b (fun r => { r with mark := setBit r.mark cause }) s else s

/-! ### Statistics (R241 to R243) -/

/-- Two contributions of a tone added, without saturation. -/
def statAdd (x y : ToneStat) : ToneStat :=
  { cnt := x.cnt + y.cnt, i := x.i + y.i, q := x.q + y.q, h0 := x.h0 + y.h0, h1 := x.h1 + y.h1, h2 := x.h2 + y.h2, h3 := x.h3 + y.h3 }

/-- The sums limited to 48 signed bits and the counts to 32 (R242, R243). -/
def statSat (x : ToneStat) : ToneStat :=
  let a := clampI (-(2 ^ 47)) (2 ^ 47 - 1)
  let n := min (2 ^ 32 - 1)
  { cnt := n x.cnt, i := a x.i, q := a x.q, h0 := n x.h0, h1 := n x.h1, h2 := n x.h2, h3 := n x.h3 }

/-- The items of R244 that have saturated: bit 0 the accumulator, bits 1 to 4 the bins. -/
def statFull (x : ToneStat) : Nat :=
  let y := statSat x
  ofBool (decide (x.cnt ≠ y.cnt) || decide (x.i ≠ y.i) || decide (x.q ≠ y.q))
  + 2 * ofBool (decide (x.h0 ≠ y.h0)) + 4 * ofBool (decide (x.h1 ≠ y.h1))
  + 8 * ofBool (decide (x.h2 ≠ y.h2)) + 16 * ofBool (decide (x.h3 ≠ y.h3))

/-- A tone's statistics shown through ACC_CNT and HIST of its window. -/
def showStat (b t : Nat) (s : State) : State :=
  putF (tilePage b) RDO.ACC_CNT (smGet {} t (rdoOf s b).stats).cnt t s

/-- A contribution committed to a tone's statistics, with the record of a first saturation (R241, R243). -/
def statCommit (b t : Nat) (x : ToneStat) (s : State) : State :=
  let p := tilePage b
  let y := statAdd (smGet {} t (rdoOf s b).stats) x
  let full := statFull y
  let rec0 := smGet 0 t (rdoOf s b).satRec
  let s := showStat b t (modRdo b (fun r => { r with stats := smSet t (statSat y) r.stats }) s)
  if full = 0 then s
  else
    let s := irqBit p 18 (putF p RDO.RES_STAT_STAT_SAT 1 0 s)
    let new := (List.range 5).foldl (fun m k => if bit full k = 1 ∧ bit rec0 k = 0 then setBit m k else m) 0
    let s := modRdo b (fun r => { r with satRec := smSet t (full ||| rec0) r.satRec }) s
    if new = 0 then s else errRec p 0x3B 0 t new 0 s

/-- The staged statistics of the open shot committed, or discarded where the shot is marked or its stop discards it
(R241). -/
def statsClose (b : Nat) (discard : Bool) (s : State) : State :=
  let st := (rdoOf s b).staged
  let s := modRdo b (fun r => { r with staged := [] }) s
  if discard || decide ((rdoOf s b).mark ≠ 0) then s else forAll st (fun e s => statCommit b e.1 e.2 s) s

/-! ### Keys (R119, R124, R143 to R146) -/

/-- A key of a tile. -/
def keyOf (s : State) (b k : Nat) : KeySt := smGet {} k (tileOf s b).keys

/-- The state with a key. -/
def setKey (b k : Nat) (x : KeySt) (s : State) : State := modTile b (fun t => { t with keys := smSet k x t.keys }) s

/-- Whether a tile's Tambour is started: ARMED or RUN. -/
def tmbOn (s : State) (b : Nat) : Bool := decide (tileState s b = stArmed) || decide (tileState s b = stRun)

/-- The word of `TKEY_MAP[k]` that governs the last issued word (R567): the value staged for the last boundary that has
been released and not committed, else the value in force. -/
def govKey (s : State) (b k : Nat) : Word :=
  let a := TMB.TKEY_MAP.addr (tilePage b) k
  match ((tileOf s b).released.filter (fun e => e.todo.contains Act.boundary)).getLast? with
  | some e => (smFind a e.snap).getD (inForce s a)
  | none => inForce s a

/-- Whether the governing shot-boundary word is still in the queue (R567). -/
def govQueued (s : State) (b : Nat) : Bool := (tileOf s b).queue.any (fun e => e.w.bnd = 15)

/-- The default of a key: DFLT, with 0b11 treated as 0b00. -/
def keyDefault (m : Word) : Nat := if TMB.TKEY_MAP_DFLT.of m = 3 then 0 else TMB.TKEY_MAP_DFLT.of m

/-- The deadline D of a waiting word (R145). -/
def keyDeadline (m : Word) (tw ts : Nat) : Nat := min (tw + TMB.TKEY_MAP_DL.of m) (ts - 20)

/-- A wait resolved by a decision: counted in WAIT_CNT. -/
def byDecision (b : Nat) (d : Decision) (s : State) : Res × State :=
  ({ keyed := true, val := d.val, ndet := d.ndet, leak := d.leak, lowc := d.lowc }, incSat (tilePage b) TMB.WAIT_CNT 0 s)

/-- A wait resolved by the key's default in the fc at hand (R119, R146): counted, and the key stays defaulted. -/
def byDefault (b k : Nat) (m : Word) (s : State) : Res × State :=
  let p := tilePage b
  let s := irqBit p 4 (incSat p TMB.DFLT_CNT 0 s)
  ({ keyed := true, dflt := true, keyOff := decide (TMB.TKEY_MAP_EN.of m = 0), val := keyDefault m },
   setKey b k { keyOf s b k with dflt := some (now s) } s)

/-- How a waiting word's key resolves in the fc at hand, if it does (R124, R143 to R146): a key that is off by its
default at once; a key that stays defaulted by its default; a usable decision delivered by D; or the default once D has
passed. A decision that arrives after D resolves nothing, not even a word that issues later still: R145 and R148 bind the
decision held at issue of R143 too (log entry 77). -/
def keyResolve (b : Nat) (w : Wait) (s : State) : Option (Res × State) :=
  let k := w.w.tkey
  let m := govKey s b k
  let x := keyOf s b k
  let d := keyDeadline m w.t w.ts
  let usable := fun f : Nat => decide (w.armPt < f) && decide (f ≤ d)
  if TMB.TKEY_MAP_EN.of m = 0 then some (byDefault b k m s)
  else if (x.dflt.map (fun f => decide (w.armPt < f))).getD false then some (byDefault b k m s)
  else match x.held.filter (fun e => usable e.1) with
    | some (_, dec) => some (byDecision b dec s)
    | none => if d < now s then some (byDefault b k m s) else none

/-! ### Issue of the successor -/

/-- A released word with nothing left to do and its flow known leaves, and its deferred effects become due at its
successor's T (R113, R122, R171). -/
def retire (b : Nat) (s : State) : State :=
  let x := tileOf s b
  let fin := fun (e : REntry) => decide (e.todo = []) && e.res.isSome
  let defs := ((x.released.filter fin).map (fun e =>
    let r := e.res.getD {}
    let ts := e.t + e.w.advance
    (if isFlx b = false ∧ e.w.fop = 3 ∧ r.taken = true then
      [Deferred.cadd ts (e.w.frm + (if isRdo b ∧ bit e.w.aux 6 = 1 then 16 else 0)) e.fv] else [])
    ++ (if isDrv b = true ∧ e.w.top = 2 then [Deferred.fapply ts e.w.frm r.val] else []))).flatten
  setTile b { x with released := x.released.filter (fun e => !fin e), deferred := x.deferred ++ defs } s

/-- The resolution of a word written to its entry, in the queue or released (R139). -/
def putRes (b t : Nat) (r : Res) (s : State) : State :=
  retire b (modTile b (fun x => { x with
    queue := x.queue.map (fun e => if e.t = t then { e with res := some r } else e)
    released := x.released.map (fun e => if e.t = t then { e with res := some r } else e) }) s)

/-- LOST of the slot a word's governing key names (R117, R147). -/
def lostOf (s : State) (b : Nat) (w : MWord) : Bool := slotLost s (TMB.TKEY_MAP_SLOT.of (govKey s b w.tkey))

/-- The word whose FLOW is known: its resolution written, an FAPPLY entered into the look-ahead state, and its
successor due for issue in fc `at_` (R116, R120, R141, R171). -/
def flowKnown (b addr tw at_ : Nat) (w : MWord) (r : Res) (s : State) : State :=
  let x := tileOf s b
  let drv := isDrv b
  let taken := flowTaken drv w x.la x.shot0 (isSet s (tilePage b) TMB.TMB_STAT_UNDR) (lostOf s b w) r
  let r := { r with taken := taken }
  let la := if drv && decide (w.top = 2) then seqFapply w.frm r.val x.la else x.la
  let next := if w.isStop then none else if taken then some w.tgt else if addr = 16383 then none else some (addr + 1)
  putRes b tw r (modTile b (fun x => { x with la := la, next := next, nextT := tw + w.advance, issueAt := at_, waiting := none }) s)

/-- The address of the last issued word, `TMB_STAT.PC`. -/
def pcOf (s : State) (b : Nat) : Nat := getF s (tilePage b) TMB.TMB_STAT_PC

/-- A waiting word whose key has resolved: look-ahead continues unless it still waits for its evaluation. WAIT reads 0 from the fc
of the resolution; that it does so, and not only from the successor's issue, is this model's choice (DESIGN CHOICE, log entry
78). -/
def keyDone (b : Nat) (w : Wait) (r : Res) (at_ : Nat) (s : State) : State :=
  let w := { w with needKey := false, res := r }
  if w.needEval then modTile b (fun x => { x with waiting := some w }) s
  else putF (tilePage b) TMB.TMB_STAT_WAIT 0 0 (flowKnown b (pcOf s b) w.t at_ w.w r s)

/-- A key resolution tried again in the fc at hand: after a delivery (`extra` 4) or at the release of the governing
boundary word (`extra` 1) (R145, R567). -/
def retryKey (b extra : Nat) (s : State) : State :=
  match (tileOf s b).waiting with
  | some w =>
    if w.needKey && !govQueued s b then
      match keyResolve b w s with
      | some (r, s) => keyDone b w r (now s + extra) s
      | none => s
    else s
  | none => s

/-- Whether an ARM on a key has its T in fc `f`: done already, or still to be done in this fc (R146). -/
def armAt (s : State) (b k f : Nat) : Bool :=
  decide ((keyOf s b k).armT = some f) || (tileOf s b).released.any (fun e =>
    decide (e.t = f) && decide (e.w.top = 1) && decide (e.w.tkey = k) && e.todo.contains Act.tulle)

/-- A decision delivered to a key in fc `f` (R145, R146). -/
def deliverKey (b k f : Nat) (d : Decision) (s : State) : State :=
  let p := tilePage b
  let overdue := match (tileOf s b).waiting with
    | some w => decide (w.w.tkey = k) && decide (keyDeadline (govKey s b k) w.t w.ts < f)
    | none => false
  let s := if overdue then retryKey b 4 s else s
  let x := keyOf s b k
  if !tmbOn s b then s
  else if armAt s b k f then irqBit p 5 s
  else if x.dflt.isSome then
    let s := irqBit p 5 (incSat p TMB.DEC_DISC_LATE 0 s)
    if x.lateRec then s else errRec p 0x2A 0 0 k 0 (setKey b k { x with lateRec := true } s)
  else if x.held.isSome then
    let s := irqBit p 5 (incSat p TMB.DEC_DISC_DUP 0 s)
    if x.dupRec then s else errRec p 0x2B 0 0 k 0 (setKey b k { x with dupRec := true } s)
  else
    let s := setKey b k { x with held := some (f, d) } s
    match (tileOf s b).waiting with
    | some w => if w.w.tkey = k then retryKey b 4 s else s
    | none => s

/-- The keys of a tile that subscribe to a slot: in force, with EN = 1 (R267). -/
def keysOf (s : State) (b slot : Nat) : List Nat :=
  (List.range 32).filter (fun k => getB s (tilePage b) TMB.TKEY_MAP_EN k = 1 ∧ getB s (tilePage b) TMB.TKEY_MAP_SLOT k = slot)

/-! ### Actions of released words (R106, R140) -/

/-- The released word whose action may take place now (R106): the first with that action to come and its T reached,
with no earlier word unfinished, no deferred effect of an earlier word outstanding and no earlier step of its own to
come. A word that only waits to learn its branch does not hold up its successors. -/
def readyAct (s : State) (b : Nat) (a : Act) : Option REntry :=
  let x := tileOf s b
  match x.released.find? (fun e => e.todo ≠ []) with
  | some e =>
    if e.t ≤ now s ∧ e.todo.contains a = true ∧ (e.todo.all (fun y => decide (a.step ≤ y.step))) = true
      ∧ (x.deferred.all (fun d => match d with | .cadd t _ _ => decide (e.t < t) | .fapply t _ _ => decide (e.t < t))) = true
    then some e else none
  | none => none

/-- An action of the word at `t` done. -/
def doneAct (b t : Nat) (a : Act) (s : State) : State :=
  retire b (modTile b (fun x => { x with
    released := x.released.map (fun e => if e.t = t then { e with todo := e.todo.filter (fun y => y ≠ a) } else e) }) s)

/-- An action done on the released word that is ready for it, if there is one. -/
def withAct (b : Nat) (a : Act) (g : REntry → State → State) (s : State) : State :=
  match readyAct s b a with
  | some e => doneAct b e.t a (g e s)
  | none => s

/-- A record of a word address with a field code (R132). -/
def wordRec (b code addr field : Nat) (s : State) : State := errRec (tilePage b) code 0 0 (addr + 2 ^ 16 * field) 0 s

/-- A declared gap runs in fc `t` (R126). -/
def gapRuns (s : State) (b t : Nat) : Bool := decide ((tileOf s b).gapStart ≤ t) && decide (t < (tileOf s b).gapEnd)

/-- A violation of the running gap (R127): its live-calibration work is abandoned, and it is recorded. -/
def gapViolate (b addr field : Nat) (s : State) : State :=
  wordRec b 0x23 addr field (modTile b (fun x => { x with gapViol := true }) s)

/-! ### The X bits of Bobbins (R232, R279) -/

/-- The X and Z bits of a tile's Bobbins, as PF_STAT shows them. -/
def pauliX (s : State) (b : Nat) : Nat := getF s (tilePage b) DRV.PF_STAT_X
def pauliZ (s : State) (b : Nat) : Nat := getF s (tilePage b) DRV.PF_STAT_Z

/-- The X and Z bits set from fc `t`, the X bits kept for the samples of R232. -/
def setPauli (b t x z : Nat) (s : State) : State :=
  let s := putF (tilePage b) DRV.PF_STAT_X x 0 (putF (tilePage b) DRV.PF_STAT_Z z 0 s)
  modTile b (fun y => { y with xLog := ((t, x) :: y.xLog).take 64 }) s

/-- The X bit of a Bobbin as it stood at TIME `u` (R232). -/
def pauliAt (s : State) (b tone u : Nat) : Nat :=
  match (tileOf s b).xLog.find? (fun e => decide (e.1 ≤ u)) with
  | some e => bit e.2 tone
  | none => 0

/-! ### Windows -/

/-- The geometry of a tone in force with its DEC_CFG word: DISC_W0 to DISC_W7, then DEC_CFG (R227 to R233). -/
def geometry (s : State) (b t : Nat) : List Word :=
  ((List.range 8).map (fun n => rdWord s (RDO.DISC_W0.addr (tilePage b) (32 + t) + 4 * n)))
    ++ [inForce s (RDO.DEC_CFG.addr (tilePage b) t)]

/-- Windows whose fc U + 19 a boundary in fc `f` passes keep the geometry in force before it (R231), and those whose fc U + 21 it
passes keep the shot number in force before it, with the marks of that shot (R43, R154). -/
def keepGeometry (b f : Nat) (s : State) : State :=
  modRdo b (fun r => { r with sets := r.sets.map (fun m => { m with wins := m.wins.map (fun w =>
    let w := if w.geo = none ∧ w.done = false ∧ w.u + 19 < f then { w with geo := some (geometry s b w.tone) } else w
    if w.shot = none ∧ w.done = false ∧ w.u + 21 < f then { w with shot := some (shotNum s b, r.mark) } else w) }) }) s

/-- The counts that STATUS and RX_STAT show of a tile's windows (R212, R221). -/
def showWins (b : Nat) (s : State) : State :=
  let p := tilePage b
  let ws := ((rdoOf s b).sets.map (fun m => m.wins)).flatten
  let nOpen := fun t => (ws.filter (fun w => w.tone = t ∧ w.st = .opened)).length
  let s := putF p RDO.STATUS_SETS (rdoOf s b).sets.length 0 s
  let s := putF p RDO.STATUS_OPEN ((List.range 32).filter (fun t => 0 < nOpen t)).length 0 s
  forAll (List.range 32) (fun t s =>
    putF p RDO.RX_STAT_OPEN (ofBool (decide (0 < nOpen t))) t s
    |> putF p RDO.RX_STAT_PEND (ws.filter (fun w => w.tone = t ∧ w.st = .sched)).length t) s

/-- Sets whose members have all passed discrimination, or give no result, are released (R221). -/
def dropSets (b : Nat) (s : State) : State :=
  showWins b (modRdo b (fun r => { r with sets := r.sets.filter (fun m => !(m.wins.all (fun w => w.done))) }) s)

/-- The windows that a stop in fc `f` abandons (R214): those not closed, and results whose U is not before it. -/
def abandonWins (b f : Nat) (s : State) : State :=
  dropSets b (modRdo b (fun r => { r with sets := r.sets.map (fun m => { m with wins := m.wins.map (fun w =>
    if w.done then w
    else if w.st = .closed ∨ w.st = .dropped then (if f ≤ w.u then { w with done := true } else w)
    else { w with st := .dropped, done := true }) }) }) s)

/-! ### The shot boundary (R66, R67, R106 step 1) -/

/-- The FRESETs that wait for a boundary in fc `f` (R122). -/
def fresetDue (b f : Nat) (s : State) : State :=
  if isDrv b then
    let fr := (tileOf s b).freset
    let clr := fun n => ((List.range 16).filter (fun i => bit n i = 1 ∧ bit fr i = 0)).foldl setBit 0
    if fr = 0 then s
    else modTile b (fun x => { x with freset := 0 }) (setPauli b f (clr (pauliX s b)) (clr (pauliZ s b)) s)
  else s

/-- The interleave correction of a read-out tile noted, where it differs from the last one noted, for the samples from fc `f` on
(R200). -/
def noteIl (b f : Nat) (s : State) : State :=
  let p := tilePage b
  let x : Il := { t := f, en := decide (getB s p RDO.ADC_CFG_IL_EN = 1)
                  words := (List.range 16).map (fun k => rdWord s (RDO.ADC_IL.addr p k)) }
  modRdo b (fun r => match r.il with
    | y :: _ => if x.en = y.en ∧ x.words = y.words then r
        else { r with il := x :: r.il.takeWhile (fun z => decide (f < z.t + 8300)) ++ (r.il.dropWhile (fun z => decide (f < z.t + 8300))).take 1 }
    | [] => { r with il := [x] }) s

/-- What a boundary of tile `b` in fc `f` does beside the shot number (R66): values in force, buffers and calibration as staged
(`snap` and `st`), the shot-status record and statistics of the shot that ends, and the FRESETs that wait. `normal` is false for a
stop that discards the open shot. -/
def boundary (b f : Nat) (snap : SMap Word) (st : Staged) (normal : Bool) (s : State) : State :=
  let p := tilePage b
  let s := if isRdo b then keepGeometry b f s else s
  let s := if isRdo b then statsClose b (!normal) (shotStatus b s) else s
  let tile := snap.filter (fun e => decide (pageOf e.1 = p) || decide (pageOf e.1 = 1 ∧ CLK.OUT_DELAY_COARSE.off ≤ offOf e.1))
  let ch := changesOf tile s
  let s := commitWords [] tile s
  let s := calCommit st ch b (swapBuffers b st s)
  let s := putF p TMB.TMB_STAT_UNDR 0 0 (if isRdo b then noteIl b f s else s)
  fresetDue b f (modTile b (fun x => { x with
    satShot := 0, keys := x.keys.map (fun e => (e.1, { e.2 with lateRec := false, dupRec := false })) }) s)

/-- The device-level part of a set of staged words. -/
def devPart (snap : SMap Word) : SMap Word :=
  snap.filter (fun e => !(decide (0x10 ≤ pageOf e.1) && decide (pageOf e.1 < 0x30))
    && !(decide (pageOf e.1 = 1) && decide (CLK.OUT_DELAY_COARSE.off ≤ offOf e.1)))

/-- The shot number advanced by one (R106). -/
def nextShot (b : Nat) (s : State) : State :=
  putPair (tilePage b) TMB.SHOT_LO TMB.SHOT_HI_SHOT_H ((shotNum s b + 1) % 2 ^ 48) 0 s

/-- The boundary of the word `e` (R106 step 1): commits, the FRESETs that wait (R122), and the new shot. -/
def shotBoundary (b : Nat) (e : REntry) (s : State) : State :=
  let s := nextShot b (boundary b e.t e.snap e.staged true s)
  let s := if isRdo b then modRdo b (fun r => { r with mark := 0, once := 0 }) s else s
  if e.dev then deviceCommit e.staged (devPart e.snap) s else s

/-! ### Stopping (R153) -/

/-- A tile enters STOPPED, HALTED_MC, HALTED_CLK or FROZEN (R84, R150): RUN clears, bit 0 is raised, flux chains are
zeroed (R254), and what still waits takes effect (R69). -/
def enterStopped (b target : Nat) (s : State) : State :=
  let p := tilePage b
  let s := notePage none p s
  let s := putF p TMB.TMB_STAT_STATE target 0 s
  let s := irqBit p 0 (putF p HDR.STATUS_RUN 0 0 s)
  let s := if isSet s p HDR.CTRL_FREEZE then putF p HDR.STATUS_FROZEN 1 0 s else s
  let s := modTile b (fun x => { x with ramp := none, chans := [], fetches := [], units := [], bHist := [], codes := [] }) s
  let s := if isFlx b then forAll (List.range 16) (fun k s =>
      setFlux b k { fluxOf s b k with lp := [0, 0, 0, 0], hist := List.replicate 32 0 } s) s else s
  let snap := tilePending s b
  let ch := changesOf snap s
  let st := stageTile s b
  settle (swapBuffers b st (calCommit st ch b (commitWords [] snap s)))

/-- The indices of the entry array that the queue holds (R540). -/
def heldIdx (x : Tile) : List Nat := (List.range x.queue.length).map (fun i => (x.wp + 512 - x.queue.length + i) % 512)

/-- The stop of a running tile in fc `f` (R153): the queue is flushed, actions at or after `f` are cancelled, pulses that would have
been replaced by cancelled ones go on being fetched, windows are abandoned, the open shot is marked (`cause`, a mask of R235, 0 for
a STOP word or request) and closed, values commit (R69), and the 32 fc ramp to `target` begins. A saturated fc of the ramp may write
a DAC_SAT record with the number of the shot that the stop has closed: that the ramp counts as a shot of its own for the
once-per-shot record is this model's choice (R182; DESIGN CHOICE, log entry 79). -/
def stopTile (b f target cause : Nat) (s : State) : State :=
  let p := tilePage b
  let isDev := deviceTile s = some b
  let s := modTile b (fun x => { x with
    next := none, waiting := none, queue := [], held := heldIdx x, wp := 0
    released := x.released.filter (fun e => e.t < f)
    deferred := x.deferred.filter (fun d => match d with | .cadd t _ _ => decide (t < f) | .fapply t _ _ => decide (t < f))
    stopAt := none
    fetches := (x.fetches.filter (fun r => r.pt < f)).map (fun r => { r with cuts := r.cuts.filter (fun c => c < f) })
    gapEnd := min x.gapEnd f
    ramp := some { t0 := f, target := target } }) s
  let s := forAll [TMB.TMB_STAT_WAIT, TMB.TMB_STAT_STOP_PEND, TMB.QUEUE_DEPTH] (fun g s => putF p g 0 0 s) s
  let s := if cause = 0 then s else
    forAll ((List.range 3).filter (fun i => bit cause i = 1)) (fun i s => raiseMark b i s) s
  let s := if isRdo b then abandonWins b f s else s
  let s := if isRdo b then modRdo b (fun r => { r with post := some (decide (cause ≠ 0) || decide (r.mark ≠ 0)) }) s else s
  let s := boundary b f (tilePending s b) (stageTile s b) (decide (cause = 0)) s
  let s := if isDev then deviceCommit (stageDev s) (devPending s) s else s
  putF p TMB.TMB_STAT_STATE stStopping 0 s

/-- An abort of a tile in ARMED or RUN (R153): from ARMED straight to STOPPED; that fc too is a shot boundary of the tile, and of
the device where the tile defines it (R67, R69). -/
def abortTile (b f cause : Nat) (s : State) : State :=
  if tileState s b = stArmed then
    let isDev := deviceTile s = some b
    let s := modTile b (fun x => { x with next := none, waiting := none, queue := [], held := heldIdx x, wp := 0, released := [], deferred := [] })
      (forAll [TMB.TMB_STAT_WAIT, TMB.TMB_STAT_STOP_PEND, TMB.QUEUE_DEPTH] (fun g s => putF (tilePage b) g 0 0 s) s)
    stepsFrom b (s.up + 32) (enterStopped b stStopped (if isDev then deviceCommit (stageDev s) (devPending s) s else s))
  else if tileState s b = stRun then stopTile b f stStopped cause s
  else s

/-- The output ramp complete (R84, R153): the tile enters the state its stop gives. -/
def rampDone (b : Nat) (s : State) : State :=
  match (tileOf s b).ramp with
  | some r => stepsFrom b s.up (enterStopped b r.target s)
  | none => s

/-! ### Machine check (R160) -/

/-- The lines of a microword. -/
def wordLines (b w : Nat) : List Nat :=
  let a := aperture b + 20 * w
  if lineOf a = lineOf (a + 19) then [lineOf a] else [lineOf a, lineOf (a + 19)]

/-- The word's lines refetched from a registered master image (R160), where one covers them. -/
def refetchWord (b w : Nat) (s : State) : State :=
  let ls := (wordLines b w).filter (fun a => hasMaster s a)
  let s := modTile b (fun x => { x with refetch := ls }) s
  forAll ls (fun a s => if (lineSt s a).recov.isNone then setLine a { lineSt s a with recov := some {} } s else s) s

/-- A line of a tile's store has been refetched: REFETCHED is set once every line of the failed word has been (R160). -/
def refetched (a : Nat) (s : State) : State :=
  forAll ((List.range 32).filter (fun b => lineOf a ∈ (tileOf s b).refetch)) (fun b s =>
    let s := modTile b (fun x => { x with refetch := x.refetch.filter (fun l => l ≠ lineOf a) }) s
    if (tileOf s b).refetch = [] then putF (tilePage b) TMB.MC_STAT_REFETCHED 1 0 s else s) s

/-- A microword that fails its parity (R160); a tile that reaches MC_MAX machine checks is to be mapped out (R534). -/
def machineCheck (b w quarters : Nat) (s : State) : State :=
  let p := tilePage b
  let s := forAll ((wordLines b w).filter (fun a => lineBad s a)) (fun a s => detectLine 4 a s) s
  let s := putF p TMB.MC_STAT_ADDR w 0 (putF p TMB.MC_STAT_QUART quarters 0 (putF p TMB.MC_STAT_REFETCHED 0 0 s))
  let s := irqBit p 1 (incSat p TMB.MC_STAT_CNT 0 s)
  let s := errRec p 0x28 2 0 (w + 2 ^ 16 * quarters) 0 s
  let max := getF s 0xF DMP.HLTH_CFG_MC_MAX
  let s := if max ≠ 0 ∧ max ≤ getF s p TMB.MC_STAT_CNT then urge (.mapOut b 2) s else s
  stopTile b (now s) stHaltedMc 2 (refetchWord b w s)

end Sys2Proof.Machine
end

