-- ==== Sys2Proof/Machine/EvmOps.lean ====
section
/-!
DEFINITION. What the event matrix takes from other units: a source event (R479, R480).
-/
namespace Sys2Proof.Machine

/-- The EVM page. -/
def pEvm : Nat := 7

/-- A source raised in the fc at hand; it waits for its MCLK edge (R483). -/
def raiseSrc (src : Nat) (s : State) : State :=
  { s with evm := { s.evm with raised := s.evm.raised ++ [(src, mfc s)] } }

/-- The MCLK edge after fc `f`, which registers an event of that fc (R483). -/
def evmEdge (f : Nat) : Nat := 4 * (f / 4 + 1)

/-- The source code of Tambour flag `m` of tile bit `b` (R479). -/
def flagSrc (b m : Nat) : Nat := 0x100 + 4 * b + m

/-- A Tambour flag raised in the fc at hand (R125, R142): the fc is kept with the tile. -/
def raiseFlag (b m : Nat) (s : State) : State :=
  raiseSrc (flagSrc b m) (modTile b (fun x => { x with markT := smSet m (now s) x.markT }) s)

end Sys2Proof.Machine
end

