-- ==== Sys2Proof/Machine/BiasOps.lean ====
section
/-!
DEFINITION. The operations of the bias outputs and of the window comparators: strobes, the clear and range changes (R414
to R419), latches and ramps (R422 to R427).
-/
namespace Sys2Proof.Machine

/-- The BIA page and the MON page. -/
def pBia : Nat := 9
def pMon : Nat := 0xA

/-! ### Comparators -/

/-- A field of comparator `n` of MON_STAT set, with its bit in the trip map or in the map of unarmed comparators. -/
def setUnarmed (n : Nat) (b : Bool) (s : State) : State :=
  putF pMon MON.UNARM_MAP (putBit (getF s pMon MON.UNARM_MAP (n / 32)) (n % 32) b) (n / 32)
    (putF pMon MON.MON_STAT_UNARMED (ofBool b) n s)

/-- Whether a latch of a comparator is set. -/
def latched (s : State) (n : Nat) : Bool :=
  isSet s pMon MON.MON_STAT_TRIP_LO n || isSet s pMon MON.MON_STAT_TRIP_HI n || isSet s pMon MON.MON_STAT_TRIP_R n

/-- TRIP_MAP follows the latches of a comparator (R424). -/
def showTrip (n : Nat) (s : State) : State :=
  putF pMon MON.TRIP_MAP (putBit (getF s pMon MON.TRIP_MAP (n / 32)) (n % 32) (latched s n)) (n / 32) s

/-- The self-test selection in force of a comparator (R425). -/
def monTest (s : State) (n : Nat) : Nat := getF s pMon MON.MON_CFG_TEST n

/-- The code a comparator sees, given the code at its own input and at the input of comparator n XOR 1 (R425). -/
def monInput (s : State) (n code other : Nat) : Nat :=
  match monTest s n with
  | 1 => other
  | 2 => 500
  | 3 => 1000
  | _ => code

/-- A latch set (R424): its bits in the maps, and outside the self-test the interrupt and the event-matrix sources of the
comparator and of the supplies. A latch already set raises nothing. -/
def latch (n : Nat) (f : Fld) (s : State) : State :=
  if isSet s pMon f n then s
  else
    let s := showTrip n (putF pMon f 1 n s)
    if monTest s n ≠ 0 then s
    else
      let s := raiseSrc (0x040 + n) (irqBit pMon 0 s)
      if 64 ≤ n then raiseSrc 0x090 s else s

/-- Whether a comparator evaluates (R419, R420, R422): present, enabled, without a configuration error, the page not
frozen, its output not changing range. -/
def monActive (s : State) (n : Nat) : Bool :=
  cmpPresent s n && isSet s pMon MON.MON_CFG_EN n && isSet s pMon HDR.CTRL_EN && !isSet s pMon HDR.CTRL_FREEZE
    && !(decide (n < 64) && decide (getF s pBia BIA.BIAS_STAT_STATE n = 2))

/-- Whether a comparator works as a window, its thresholds consistent (R422). -/
def monWindow (s : State) (n : Nat) : Bool :=
  monActive s n && decide (getF s pMon MON.MON_CFG_MODE n = 0) && !isSet s pMon MON.MON_STAT_CFG_ERR n

/-- LO + 2 × HYS > HI (R422). -/
def monBad (s : State) (n : Nat) : Bool :=
  decide (getF s pMon MON.MON_THR_HI n < getF s pMon MON.MON_THR_LO n + 2 * getF s pMon MON.MON_THR_HYS n)

/-- The code lies in the low or the high band (R422). -/
def monBand (s : State) (n c : Nat) : Bool :=
  let lo := getF s pMon MON.MON_THR_LO n
  let hi := getF s pMon MON.MON_THR_HI n
  let hys := getF s pMon MON.MON_THR_HYS n
  (decide (lo ≤ c) && decide (c < lo + hys)) || (decide (hi < c + hys) && decide (c ≤ hi))

/-- A comparator with no history (R420, R423, R425): UNARMED, unless its bands are empty. -/
def monFresh (n : Nat) (s : State) : State :=
  setUnarmed n (decide (getF s pMon MON.MON_THR_HYS n ≠ 0)) (putF pMon MON.MON_STAT_LIVE 0 n s)

/-- The evaluation of a code in window mode: a trip latches and sets LIVE (R422). -/
def monTrip (n c : Nat) (s : State) : State :=
  let side := fun (h : List Nat) => { s with bias := { s.bias with high := h } }
  let rest := s.bias.high.filter (fun m => m ≠ n)
  if c < getF s pMon MON.MON_THR_LO n then latch n MON.MON_STAT_TRIP_LO (putF pMon MON.MON_STAT_LIVE 1 n (side rest))
  else if getF s pMon MON.MON_THR_HI n < c then latch n MON.MON_STAT_TRIP_HI (putF pMon MON.MON_STAT_LIVE 1 n (side (n :: rest)))
  else s

/-- The input has come back past the hysteresis of the side it tripped on, and lies in the window (R422). -/
def monBack (s : State) (n c : Nat) : Bool :=
  let lo := getF s pMon MON.MON_THR_LO n
  let hi := getF s pMon MON.MON_THR_HI n
  let hys := getF s pMon MON.MON_THR_HYS n
  decide (lo ≤ c) && decide (c ≤ hi) && (if n ∈ s.bias.high then decide (c + hys ≤ hi) else decide (lo + hys ≤ c))

/-- A ramp triggered on a comparator in ramp mode (R426); a trigger during a ramp restarts it. -/
def rampStart (n : Nat) (s : State) : State :=
  if cmpPresent s n && isSet s pMon MON.MON_CFG_EN n && isSet s pMon MON.MON_CFG_MODE n && isSet s pMon HDR.CTRL_EN
    && !isSet s pMon HDR.CTRL_FREEZE
  then putF pMon MON.MON_STAT_RBUSY 1 n s else s

/-- RTRIG of a comparator, 0b11 taken as 0b00. -/
def rtrig (s : State) (n : Nat) : Nat :=
  if getF s pMon MON.MON_CFG_RTRIG n = 3 then 0 else getF s pMon MON.MON_CFG_RTRIG n

/-- The latches of a comparator cleared, where LIVE is 0 (R424). -/
def monClear (n : Nat) (s : State) : State :=
  if isSet s pMon MON.MON_STAT_LIVE n then s
  else showTrip n (putF pMon MON.MON_STAT_TRIP_LO 0 n (putF pMon MON.MON_STAT_TRIP_HI 0 n (putF pMon MON.MON_STAT_TRIP_R 0 n s)))

/-! ### Outputs -/

/-- The state code of a bias output (R417). -/
def biasState (s : State) (n : Nat) : Nat := getF s pBia BIA.BIAS_STAT_STATE n

/-- PEND of an output with its bit in PEND_MAP. -/
def setPend (n : Nat) (b : Bool) (s : State) : State :=
  putF pBia BIA.PEND_MAP (putBit (getF s pBia BIA.PEND_MAP (n / 32)) (n % 32) b) (n / 32)
    (putF pBia BIA.BIAS_STAT_PEND (ofBool b) n s)

/-- The clear is in force (R416). -/
def clearInForce (s : State) : Bool :=
  s.bias.clrLow || isSet s pBia BIA.BIA_CTL_CLR_SW || !isSet s pBia HDR.CTRL_EN

/-- The output codes of every output that is not opening or in INIT follow the clear code while the clear is in force
(R416); INIT and WAIT already drive it (R417). -/
def driveClear (s : State) : State :=
  if clearInForce s && !isSet s pBia HDR.CTRL_FREEZE then
    forAll ((List.range (biasCount s)).filter (fun n => biasState s n ≠ 2))
      (fun n s => putF pBia BIA.BIAS_STAT_OUT (getF s pBia BIA.BIAS_CLR_CLR n) n s) s
  else s

/-- The hc at hand. -/
def hcNow (s : State) : Nat := mfc s / 16

/-- The input code and PEND that a strobe of this hc sees, where the code has been written in this hc: such a code waits for the
next strobe (R414). -/
def freshCode (s : State) (n : Nat) : Option (Nat × Nat) :=
  match smFind n s.bias.fresh with
  | some (h, code, pend) => if h = hcNow s then some (code, pend) else none
  | none => none

/-- The input code and PEND that a strobe of this hc sees (R414). -/
def strobeView (s : State) (n : Nat) : Nat × Nat :=
  (freshCode s n).getD (getF s pBia BIA.BIAS_CODE_CODE n, getF s pBia BIA.BIAS_STAT_PEND n)

/-- A strobe of a group at one output (R415): it loads the input code, or is ignored with its record. A code that waits for the next
strobe stays pending. -/
def strobeOne (g n : Nat) (s : State) : State :=
  let (code, pend) := strobeView s n
  let st := biasState s n
  if st = 1 ∨ ((st = 0 ∨ st = 3) ∧ pend = 1) then
    let s := putF pBia BIA.BIAS_STAT_STATE 1 n (putF pBia BIA.BIAS_STAT_OUT code n s)
    let s := if (freshCode s n).isSome then s else setPend n false s
    if rtrig s n = 1 then rampStart n s else s
  else
    let s := irqBit pBia 2 s
    if isSet s pBia BIA.BIAS_STAT_IGN n then s
    else errRec pBia 0x22 0 n (g + 16 * st) 0 (putF pBia BIA.BIAS_STAT_IGN 1 n s)

/-- A strobe of group `g` (R414, R416, R419): nothing while the clear is in force, the page is frozen, or in SAFE mode. -/
def strobe (g : Nat) (s : State) : State :=
  if clearInForce s || isSet s pBia HDR.CTRL_FREEZE || isSet s 0 GLB.START_STAT_SAFE then s
  else forAll ((List.range (biasCount s)).filter (fun n => getF s pBia BIA.BIAS_CFG_GROUP n = g)) (strobeOne g) s

/-- A code written into an output's input code (R415). -/
def writeCode (n code : Nat) (s : State) : State :=
  let old := getF s pBia BIA.BIAS_CODE_CODE n
  let pend := getF s pBia BIA.BIAS_STAT_PEND n
  let s := { s with bias := { s.bias with fresh := smSet n (hcNow s, old, pend) s.bias.fresh } }
  setPend n true (putF pBia BIA.BIAS_CODE_CODE code n s)

/-- LIMIT of an output with its bit in LIM_MAP. -/
def setLimit (n : Nat) (on : Bool) (s : State) : State :=
  putF pBia BIA.LIM_MAP (putBit (getF s pBia BIA.LIM_MAP (n / 32)) (n % 32) on) (n / 32) (putF pBia BIA.BIAS_STAT_LIMIT (ofBool on) n s)

/-- A range change (R418): the output opens, so that it limits nothing; the sum of the Sampler input that reads it is discarded (R430); its
comparator is masked (R420). -/
def rangeChange (n : Nat) (s : State) : State :=
  let s := setLimit n false (putF pBia BIA.BIAS_STAT_STATE 2 n { s with bias := { s.bias with bbm := smSet n 200000 s.bias.bbm } })
  let bad := (List.range 16).filter (fun j => getF s 4 HKP.BSEL_OUT j = n)
  { s with smp := { s.smp with acc := bad.foldl (fun m j => smErase (30 + j) m) s.smp.acc } }

/-- The range changes that waited for the page to go on (R418, R419). -/
def rangeThaw (s : State) : State :=
  forAll s.bias.rangeHeld rangeChange { s with bias := { s.bias with rangeHeld := [] } }

/-- The 1,250 hc of a range change over (R418): the output connects at its clear code in the new range and enters WAIT;
its comparator starts afresh. -/
def bbmDone (n : Nat) (s : State) : State :=
  let s := putF pBia BIA.BIAS_STAT_OUT (getF s pBia BIA.BIAS_CLR_CLR n) n (putF pBia BIA.BIAS_STAT_STATE 3 n s)
  let s := { s with bias := { s.bias with range := smPut 0 n (getF s pBia BIA.BIAS_CFG_RANGE n) s.bias.range
                                          bbm := smErase n s.bias.bbm } }
  let s := irqBit pBia 3 s
  let s := if isSet s pMon MON.MON_CFG_EN n then monFresh n s else s
  if rtrig s n = 2 then rampStart n s else s

/-- Every output put in INIT (R417): the ±5 V range at 0 V, nothing pending. -/
def biasInit (s : State) : State :=
  { s with bias := { s.bias with range := [], fresh := [], bbm := [], rangeHeld := [] } }

end Sys2Proof.Machine
end

