-- ==== Sys2Proof/Machine/PatOps.lean ====
section
/-!
DEFINITION. The operations of the pattern port: starts and ends of runs, segments, jumps and the freeze (R466 to R477).
-/
namespace Sys2Proof.Machine

/-- The PAT page. -/
def pPat : Nat := 8

/-- A run is in progress (19_pattern_port, PAT page). -/
def patRuns (s : State) : Bool := isSet s pPat HDR.STATUS_RUN

/-- The length of a vector in fc (R466). -/
def patPer (s : State) : Nat := getF s pPat PAT.PAT_CFG_VPER + 1

/-- Fields in force of segment descriptor `k`. -/
def segStart (s : State) (k : Nat) : Nat := getB s pPat PAT.SEG_START_START k
def segLen (s : State) (k : Nat) : Nat := getB s pPat PAT.SEG_LEN_LEN k
def segOn (s : State) (k : Nat) : Bool := decide (getB s pPat PAT.SEG_CTL_EN k = 1) && decide (segLen s k ≠ 0)

/-- The B-class fields of the page that wait commit at a pass end (R469). -/
def patCommit (s : State) : State :=
  let snap := (s.held.filter (fun e => decide (pageOf e.1 = pPat))).map (fun e => (e.1, rdWord s e.1))
  if snap = [] then s else commitWords [] snap s

/-- The held jump shown in JPEND. -/
def setJump (j : Option (Nat × Nat)) (src : Nat) (s : State) : State :=
  putF pPat PAT.STATUS_JPEND (ofBool j.isSome) 0 { s with pat := { s.pat with jump := j, jsrc := src } }

/-- The run ends (R476): the page no longer counts as running, bit 0 is raised, the compares not performed are dropped,
and what waits commits as at a segment end. -/
def patEnd (s : State) : State :=
  let s := setJump none 0 { s with pat := { s.pat with
    vecs := [], stop := none, frozen := none, outs := s.pat.outs.filter (fun v => decide (v.pin ≤ now s)) } }
  let s := irqBit pPat 0 (putF pPat HDR.STATUS_RUN 0 0 (noteWas none (HDR.STATUS.addr pPat 0) s))
  patCommit s

/-- The run, if there is one, ends at the vector in progress (R476). -/
def patAbort (s : State) : State := if patRuns s then patEnd s else s

/-- Segment `k` starts at pin time `t` (R469 to R471): the page shows it, a range past the memory is recorded, and the next
vector to read is its first. A descriptor that is off ends the run (R470). -/
def segBegin (k t : Nat) (s : State) : State :=
  if segOn s k then
    let s := putF pPat PAT.STATUS_SEG k 0 s
    let s := if 131072 < segStart s k + segLen s k then irqBit pPat 4 (errRec pPat 0x23 0 0 k 0 s) else s
    { s with pat := { s.pat with seg := k, pass := 0, pos := 0, pin := t, passEnd := t + patPer s * segLen s k } }
  else patEnd (errRec pPat 0x24 0 0 k 0 s)

/-- A pulse of pin `k` from fc `t` to `e` (R471): one that is still high then goes on to `e`. -/
def pulseFrom (k t e : Nat) (l : List PicotPulse) : List PicotPulse :=
  if l.any (fun p => decide (p.pin = k) && decide (t ≤ p.stop)) then
    l.map (fun p => if p.pin = k ∧ t ≤ p.stop then { p with stop := e } else p)
  else l ++ [{ pin := k, start := t, stop := e }]

/-- PICOT[k] is high (R471); a frozen page holds its pins idle (R477). -/
def picotHigh (s : State) (k : Nat) : Bool :=
  s.pat.frozen.isNone && s.pat.picot.any (fun p => decide (p.pin = k) && decide (p.start ≤ now s) && decide (now s < p.stop))

/-- The Picot pulses of a pass that starts at pin time `t` (R471): a pulse on a pin that is still high restarts its
width. -/
def picotStart (t : Nat) (s : State) : State :=
  let mask := getB s pPat PAT.SEG_CTL_PMASK s.pat.seg
  let pw := getB s pPat PAT.PAT_CFG_PW + 1
  { s with pat := { s.pat with picot :=
      ((List.range 4).filter (fun k => bit mask k = 1)).foldl (fun m k => pulseFrom k t (t + pw) m) s.pat.picot } }

/-- A run starts with its first vector at pin time `t` (R475): the counters clear, TLOCK is 1. -/
def patStart (t : Nat) (s : State) : State :=
  let s := { s with pat := { seg := 0, picot := s.pat.picot, outs := s.pat.outs, drv := s.pat.drv, pins := s.pat.pins, jreg := s.pat.jreg } }
  let s := forAll [PAT.FAIL_CNT, PAT.JMP_CNT] (fun f s => putF pPat f 0 0 s) s
  let s := putF pPat PAT.STATUS_JPEND 0 0 (putF pPat PAT.STATUS_TLOCK 1 0 (putF pPat HDR.STATUS_RUN 1 0 s))
  let s := segBegin (getF s pPat PAT.PAT_CFG_FIRST) t s
  if patRuns s then picotStart t s else s

/-- Whether the page takes starts: enabled and not frozen (R83). -/
def patOn (s : State) : Bool := isSet s pPat HDR.CTRL_EN && !isSet s pPat HDR.CTRL_FREEZE

/-- A start that arrives during a run is dropped with its record (R475). -/
def patOver (s : State) : State :=
  errRec pPat 0x21 0 0 (getF s pPat PAT.PAT_CFG_SRC) 0 (irqBit pPat 3 (putF pPat PAT.STATUS_OVERRUN 1 0 s))

/-- A start by a trigger edge or the event matrix in fc `f` (R475). -/
def patTrigger (f : Nat) (s : State) : State :=
  if !patOn s then s else if patRuns s then patOver s else patStart (f + 16) s

/-- SRC in force, 0b11 taken as 0b00 (R475). -/
def patSrc (s : State) : Nat := if getF s pPat PAT.PAT_CFG_SRC = 3 then 0 else getF s pPat PAT.PAT_CFG_SRC

/-- A jump request to segment `k` registered in fc `f` from `src` (0 the register, 1 + k TRIG_IN[k]) (R472, R473): refused
for a segment that is off; it replaces a held one, but of requests of one fc the one with the lowest source stays. -/
def jumpReq (k src f : Nat) (s : State) : State :=
  if !patRuns s then s
  else if !segOn s k then
    errRec pPat 0x22 0 0 (k + 256 * src) 0 (irqBit pPat 2 (incSat pPat PAT.JMP_CNT_BAD 0 s))
  else match s.pat.jump with
    | none => setJump (some (k, f)) src s
    | some (_, g) =>
      let s := incSat pPat PAT.JMP_CNT_REPL 0 s
      if g = f ∧ s.pat.jsrc < src then s else setJump (some (k, f)) src s

/-- A write of JUMP reaches the page (R472): it waits for the first MCLK edge after it. There is nothing to jump in without a run. -/
def jumpWrite (k : Nat) (s : State) : State :=
  if patRuns s then { s with pat := { s.pat with jreg := s.pat.jreg ++ [(k, evmEdge (mfc s))] } } else s

/-- The writes of JUMP whose MCLK edge has come are registered (R472). -/
def registerJumps (s : State) : State :=
  let due := s.pat.jreg.filter (fun e => decide (e.2 ≤ mfc s))
  if due = [] then s
  else forAll due (fun e s => jumpReq e.1 0 (now s) s)
    { s with pat := { s.pat with jreg := s.pat.jreg.filter (fun e => decide (mfc s < e.2)) } }

/-- The pass boundary reached (R469, R473, R474, R476): what waits commits, and the run stops, jumps, repeats the segment
or goes on with NEXT. A request registered after the boundary waits for the next one. -/
def passEnd (s : State) : State :=
  let t := s.pat.passEnd
  let seg := s.pat.seg
  let last := decide (getB s pPat PAT.SEG_CTL_REPEAT seg ≤ s.pat.pass)
  let stops := (s.pat.stop.map (fun f => decide (f < t))).getD false
    || (last && decide (getB s pPat PAT.SEG_CTL_END seg = 1))
  let next := getB s pPat PAT.SEG_CTL_NEXT seg
  let jump := s.pat.jump.filter (fun e => decide (e.2 < t))
  if stops then
    let s := if s.pat.jump.isSome then incSat pPat PAT.JMP_CNT_REPL 0 s else s
    patEnd s
  else
    let s := patCommit s
    match jump with
    | some (k, _) =>
      let s := segBegin k t (setJump none 0 s)
      if patRuns s then picotStart t s else s
    | none =>
      if last then
        let s := segBegin next t s
        if patRuns s then picotStart t s else s
      else
        let s := { s with pat := { s.pat with pass := s.pat.pass + 1, pos := 0, pin := t, passEnd := t + patPer s * segLen s seg } }
        picotStart t s

/-- FREEZE set on the page (R477): the stream holds its place. -/
def patFreeze (s : State) : State :=
  if patRuns s && s.pat.frozen.isNone then
    putF pPat PAT.STATUS_TLOCK 0 0 { s with pat := { s.pat with frozen := some (now s) } }
  else s

/-- FREEZE cleared (R477): the next vector of the stream is in the fc after the clear, and the stream follows it. -/
def patThaw (s : State) : State :=
  match s.pat.frozen with
  | none => s
  | some f =>
    let nxt := ((s.pat.outs.map (fun v => v.pin)).find? (fun p => f < p)).getD s.pat.pin
    let mv := fun p => if f < p then p + (now s + 1) - nxt else p
    { s with pat := { s.pat with
        frozen := none
        pin := mv s.pat.pin
        passEnd := mv s.pat.passEnd
        vecs := s.pat.vecs.map (fun v => { v with pin := mv v.pin })
        outs := (s.pat.outs.filter (fun v => decide (f < v.pin))).map (fun v => { v with pin := mv v.pin })
        picot := s.pat.picot.map (fun p => { p with start := mv p.start, stop := mv p.stop }) } }

end Sys2Proof.Machine
end

