-- ==== Sys2Proof/Machine/HoopOps.lean ====
section
/-!
DEFINITION. The operations of Hoop firmware that other units call: the NVS journal and the event log (R503, R504),
mailbox responses (R382, R498 to R501), health (R531, R532) and tile map-outs (R534).
-/
namespace Sys2Proof.Machine

/-! ### Host memory -/

/-- The endpoint can write to and read from host memory: link up and bus mastering enabled (R376, R537). -/
def hostOn (s : State) : Bool := isSet s 0xD PCI.STATUS_LINK_UP && isSet s 0xD PCI.STATUS_BME

/-- A posted write to host memory, sent while the endpoint can. -/
def hostWrite (a : Nat) (bs : List Byte) (s : State) : State :=
  if hostOn s then { s with pcie := { s.pcie with out := (a, bs) :: s.pcie.out } } else s

/-! ### NVS (R503, R504) -/

/-- NVS_STAT.BUSY follows the records on their way. -/
def showNvs (s : State) : State := putF 3 NVS.NVS_STAT_BUSY (ofBool (decide (s.hoop.recs ≠ []))) 0 s

/-- NVS bytes written. -/
def nvsPut (a : Nat) : List Byte → State → State
  | [], s => s
  | v :: l, s => nvsPut (a + 1) l { s with hoop := { s.hoop with nvs := smPut 0#8 a v s.hoop.nvs } }

/-- One byte of the NVS. -/
def nvsByte (s : State) (a : Nat) : Byte := smGet 0#8 a s.hoop.nvs

/-- A record handed to the journal (R503); the always-on thermal logic is served first (R506). -/
def journal (tgt : Nat) (bs : List Byte) (cmd first : Bool) (s : State) : State :=
  let r : JRec := { tgt := tgt, bytes := bs, cmd := cmd }
  let rs := s.hoop.recs
  let rs := if first then (rs.take 1).filter (fun e => decide (0 < e.done)) ++ [r]
      ++ (rs.take 1).filter (fun e => ¬ 0 < e.done) ++ rs.drop 1
    else rs ++ [r]
  showNvs { s with hoop := { s.hoop with recs := rs } }

/-- The NVS words of a byte string. -/
def nvsWords (bs : List Byte) : Nat := (bs.length + 7) / 8

/-- An event-log entry (R504); `detail` is bytes 20 to 27. -/
def logEntry (page code sev : Nat) (info addr : Word) (detail : Nat) (first : Bool) (s : State) : State :=
  let n := getF s 3 NVS.LOG_WP
  let body := toBytes (now s) 6 ++ toBytes n 2 ++ toBytes page 1 ++ toBytes code 1 ++ toBytes sev 1 ++ [0#8]
    ++ toBytes info.toNat 4 ++ toBytes addr.toNat 4 ++ toBytes detail 8
  let s := journal (0x40000 + 32 * (n % 8192)) (body ++ toBytes (crc32 body) 4) false first s
  let s := incWrap 3 NVS.LOG_WP 0 s
  if 8192 ≤ n then incSat 3 NVS.LOG_OVW 0 s else s

/-! ### The mailbox (R382, R383, R498 to R501) -/

/-- A 64-bit register pair of a page. -/
def addr64 (s : State) (p : Nat) (lo hi : Fld) (i : Nat := 0) : Nat := getF s p lo i + 2 ^ 32 * getF s p hi i

/-- The command taken from the mailbox ends with a status (R382, R499, R501): its response is written to host memory, unless
the link went down since it was taken (R383), and the registers of both pages record it. -/
def respond (status : Nat) (payload : List Byte) (s : State) : State :=
  match s.pcie.cmd with
  | none => s
  | some c =>
    let base := addr64 s 0xD PCI.MBX_BASE_LO PCI.MBX_BASE_HI
    let s := if c.cut then s else
      hostWrite (base + 0x800) (toBytes c.seq 4 ++ toBytes status 2 ++ toBytes 0 2 ++ toBytes payload.length 4
        ++ toBytes c.prog 4 ++ payload) s
    let s := putF 2 HOOP.CMD_LAST_OPCODE c.op 0 (putF 2 HOOP.CMD_LAST_STATUS status 0 s)
    let s := putF 2 HOOP.CMD_PROG c.prog 0 (putF 2 HOOP.CMD_SEQ c.seq 0 s)
    let s := putF 0xD PCI.MBX_STAT_BUSY 0 0 (putF 0xD PCI.MBX_STAT_PROG 0 0 s)
    let s := putF 0xD PCI.MBX_DONE c.seq 0 { s with pcie := { s.pcie with cmd := none } }
    if c.cut then s else sendVec 80 s

/-- A unit of the running progressive command is complete (R498): PROG counts it. -/
def unitDone (s : State) : State :=
  match s.pcie.cmd with
  | none => s
  | some c =>
    putF 0xD PCI.MBX_STAT_PROG (min (c.prog + 1) 0xFFFF) 0
      (putF 2 HOOP.CMD_PROG (c.prog + 1) 0 { s with pcie := { s.pcie with cmd := some { c with prog := c.prog + 1 } } })

/-- The command running is abandoned without a response (R496, R499); CMD_PROG keeps the units it has completed. -/
def dropCmd (s : State) : State :=
  { s with pcie := { s.pcie with cmd := none }
           hoop := { s.hoop with recs := s.hoop.recs.map (fun r => { r with cmd := false }) } }

/-! ### Health (R531 to R533) -/

/-- SMB_ALERT_N is asserted while HEALTH differs from its value at the last SMBus read, until it is cleared (R384). -/
def smbAlert (s : State) : State :=
  { s with boot := { s.boot with smbAlert := decide (getF s 0 GLB.HEALTH_STATE ≠ s.boot.smbHealth) } }

/-- The health cause bits that hold now, bit 8 at bit 0 (R531). -/
def healthCauses (s : State) : Nat :=
  let c := fun (k : Nat) (b : Bool) => if b then 2 ^ k else 0
  c 0 (isSet s 6 MIC.REPAIR_STAT_EXHAUST)
  + c 1 ((tileBits s).any (fun b => match tileKind b with
      | .drv => isSet s (tilePage b) DRV.DAC_TRIM_LIM 0 || isSet s (tilePage b) DRV.DAC_TRIM_LIM 1
      | .rdo => isSet s (tilePage b) RDO.PDAC_TRIM_LIM || isSet s (tilePage b) RDO.ADC_TRIM_LIM
      | .flx => isSet s (tilePage b) FLX.FLX_STAT_LIM))
  + c 2 ((List.range 8).any (fun n => decide (portState s n = 5) &&
decide ((portOf s n).low ≠ 0)))
  + c 3 (decide (getF s 5 THM.BROKEN_MASK ≠ 0))
  + c 4 ((tileBits s).any (fun b => decide (getF s 0xF DMP.HLTH_CFG_MC_MAX ≠ 0)
      && decide (getF s 0xF DMP.HLTH_CFG_MC_MAX ≤ getF s (tilePage b) TMB.MC_STAT_CNT)))
  + c 5 (decide (rdWord s (DMP.TILE_MAP.addr 0xF 0) ≠ 0#32))
  + c 6 ((List.range 16).any (fun n => latched s (64 + n)))
  + c 7 (isSet s 0 GLB.START_STAT_EVER_FAIL)

/-- The state that a set of causes demands (R531, R532): repeated machine checks demand theirs through bit 13 alone. -/
def healthOf (c : Nat) : Nat := if bit c 5 = 1 then 2 else if clrBit c 4 = 0 then 0 else 1

/-- A state change of the device's health with what each change does (R532). -/
def setHealth (code : Nat) (s : State) : State :=
  let old := getF s 0 GLB.HEALTH_STATE
  if code = old then s
  else
    let info := code + 16 * old + 256 * getF s 0 GLB.HEALTH_CAUSE
    let s := irqBit 0 3 (putF 0 GLB.HEALTH_STATE code 0 s)
    let s := errRec 0 0x24 0 0 info 0 s
    smbAlert (logEntry 0 0x24 0 (BitVec.ofNat 32 info) 0#32 0 false s)

/-- The causes of a shutdown on broken sensors: two or more (R441, R443). -/
def brokenTwo (s : State) : Bool := decide (2 ≤ popcount 12 (getF s 5 THM.BROKEN_MASK))

/-- Health re-evaluated (R531, R532): a cause stays set until the next start, bit 13 follows the map; FAILED stays on the
fatal path and in a shutdown on broken sensors. -/
def healthEval (s : State) : State :=
  if !isSet s 0 GLB.START_STAT_READY then s
  else
    let c := healthCauses s
    let was := getF s 0 GLB.HEALTH_CAUSE
    let new := (was ||| c) - (if bit was 5 = 1 ∧ bit c 5 = 0 then 2 ^ 5 else 0)
    let s := putF 0 GLB.HEALTH_CAUSE new 0 s
    if s.boot.fatal.isSome || (isSet s 5 THM.STATUS_SHDN && brokenTwo s) then setHealth 3 s
    else setHealth (healthOf new) s

/-- HEALTH_N drives low (R533): the health code is 1 to 4, and no power-on reset is held. -/
def healthLow (s : State) : Bool :=
  s.boot.por.isNone && decide (1 ≤ getF s 0 GLB.HEALTH_STATE) && decide (getF s 0 GLB.HEALTH_STATE ≤ 4)

/-! ### Mapping tiles out (R534, R535) -/

/-- A tile mapped out with a reason: 1 host, 2 machine checks, 3 broken sensor, 4 start failure (R534). -/
def mapOut (b reason : Nat) (s : State) : State :=
  let p := tilePage b
  let s := abortTile b (now s) 2 s
  let m := getF s 0xF DMP.TILE_MAP
  let s := putF 0xF DMP.TILE_MAP (setBit m b) 0 s
  let s := putF 0xF DMP.MAP_SRC (putBit (getF s 0xF DMP.MAP_SRC) b (decide (reason = 1))) 0 s
  let s := putF p HDR.OWNER_OWN 2 0 (putF p HDR.CTRL_EN 0 0 s)
  let s := { s with boot := { s.boot with mapped := smSet b reason s.boot.mapped } }
  let s := if isRdo b then loseTile b s else s
  irqBit 0xF 1 (errRec 0 0x25 1 0 (b + 256 * reason + 2 ^ 12) 0 s)

/-- A tile returned to service (R535). -/
def mapIn (b : Nat) (s : State) : State :=
  let p := tilePage b
  let reason := smGet 1 b s.boot.mapped
  let s := putF 0xF DMP.TILE_MAP (clrBit (getF s 0xF DMP.TILE_MAP) b) 0 s
  let s := putF 0xF DMP.MAP_SRC (clrBit (getF s 0xF DMP.MAP_SRC) b) 0 s
  let s := putF p HDR.OWNER_OWN 0 0 (putF p HDR.CTRL_EN 1 0 s)
  let s := putF p TMB.TMB_STAT_STATE stStopped 0 s
  let s := { s with boot := { s.boot with mapped := smErase b s.boot.mapped } }
  restoreSlots (irqBit 0xF 1 (errRec 0 0x25 1 0 (b + 256 * reason) 0 s))

/-- The zone sensor of a tile (R438). -/
def zoneOf (b : Nat) : Nat := if isDrv b then b / 4 else if isRdo b then 4 + (b - 16) / 4 else 6 + (b - 24) / 4

/-- The zone temperature of a tile in 1/16 °C (R438). -/
def zoneTemp (s : State) (b : Nat) : Int := toSigned 16 (getF s 5 THM.TEMP_T (zoneOf b))

end Sys2Proof.Machine
end

