-- ==== Sys2Proof/Machine/StartOps.lean ====
section
/-!
DEFINITION. Resets and starts: what a reset keeps (R82, R509 to R512, R519, R520), failed starts and SAFE mode (R523,
R524), the stop of the endpoint (R368), and a loss of the root PLL's lock (R53, R54).
-/
namespace Sys2Proof.Machine

/-- READY (R521). -/
def ready (s : State) : Bool := isSet s 0 GLB.START_STAT_READY

/-- The start step in progress (R513). -/
def startStep (s : State) : Nat := getF s 0 GLB.START_STAT_STEP

/-! ### What registers keep -/

/-- The bits of the register at page offset `o` that satisfy a test of their field. -/
def fieldMask (k : PageKind) (o : Nat) (t : FieldDesc → Bool) : Word :=
  ((fieldsAt k o).filter t).foldl (fun m d => m ||| d.fld.mask) 0#32

/-- The bits that hardware alone writes. -/
def roMask (k : PageKind) (o : Nat) : Word := fieldMask k o (fun d => decide (d.acc = .ro))

/-- The masks of fields of one register, joined. -/
def masks (l : List Fld) (o : Nat) : Word := (l.filter (fun f => f.off = o)).foldl (fun m f => m ||| f.mask) 0#32

/-- The masks of fields of a table with `n` entries. -/
def tableMask (f : Fld) (n o : Nat) : Word :=
  if f.off ≤ o ∧ o < f.off + f.stride * n ∧ (o - f.off) % f.stride = 0 then f.mask else 0#32

/-- The bits of a register that a soft reset of its page keeps (R82): the header but CTRL, STATUS and IRQ_STAT; counters
that clear at warm and cold start only; what reports the state of something the soft reset leaves alone; calibration
values in force with SET_SEQ; and the positions of rings in memory. -/
def softKeeps (k : PageKind) (o : Nat) : Word :=
  let all := ~~~(0#32)
  if o < 0x040 then
    if o = 0x00C ∨ o = 0x014 then 0#32
    else if o = 0x010 then
      match k with
      | .jdx | .pci | .thm => roMask k o &&& ~~~(0xFF#32)
      | .cst => CST.STATUS_JOINED.mask
      | .cal => CAL.STATUS_STORE_BUSY.mask
      | .tul => roMask k o &&& ~~~(0xFF#32)
      | _ => 0#32
    else all
  else match k with
    | .glb | .hoop | .nvs | .thm | .dmp | .dbg | .mic | .jdx => roMask k o
    | .cal => if o = CAL.STALE_MAP.off ∨ o = CAL.PEND_MAP.off then 0#32 else roMask k o
    | .clk => masks [CLK.PLL_STAT_LOCK, CLK.PLL_STAT_REF_OK, CLK.PLL_STAT_BACKUP, CLK.PLL_STAT_LOL_CNT,
        CLK.SYNC_STAT_TIME_VALID, CLK.TIME_LO, CLK.TIME_HI] o
    | .tul => masks [TUL.PUB_CNT, TUL.REJ_CNT, TUL.NDET_CNT, TUL.EXP_LATE_CNT, TUL.TRACE_WP_TOTAL, TUL.SLOT_SRC,
        TUL.SLOT_RT, TUL.SLOT_LAT, TUL.SLOT_LAST, TUL.SLOT_CNT] o ||| tableMask TUL.LOST_MAP 16 o
    | .drn => masks [DRN.ESC_STAT_DROP, DRN.DISC_CNT] o ||| tableMask DRN.PATCH_STAT_ESC_N 8 o
    | .evm => masks [EVM.PROT_MODE, EVM.PROT_FIXED, EVM.MERGE_CNT, EVM.LOOP_CNT] o ||| tableMask EVM.CH_CNT 64 o
    | .cst => masks [CST.ID_CFG_NUM_F, CST.UID_LO, CST.UID_HI] o
    | .drv => masks [TMB.MC_STAT_CNT] o ||| tableMask TMB.STRM_FILL 8 o ||| tableMask TMB.STRM_CONS 8 o
        ||| tableMask DRV.DAC_STAT_READY 2 o ||| tableMask DRV.DAC_TRIM 2 o
    | .rdo => masks [TMB.MC_STAT_CNT, RDO.PDAC_STAT_READY, RDO.ADC_STAT_READY, RDO.CHAN_STAT_READY, RDO.PDAC_TRIM,
          RDO.ADC_TRIM, RDO.RES_WP, RDO.RES_RP, RDO.DISC_W7_SET_SEQ, RDO.UNMIX_STAT_MBASE_F] o
        ||| tableMask RDO.ADC_IL 16 o ||| tableMask TMB.STRM_FILL 8 o ||| tableMask TMB.STRM_CONS 8 o
    | .flx => masks [TMB.MC_STAT_CNT, FLX.FLX_STAT_READY, FLX.FLX_STAT_TRIM_USE, FLX.FLX_STAT_LIM] o
        ||| tableMask FLX.OUT_TRIM 16 o ||| tableMask FLX.OUT_STAT_BANK_F 16 o
        ||| tableMask TMB.STRM_FILL 8 o ||| tableMask TMB.STRM_CONS 8 o
    | _ => 0#32

/-- The register file with every register that `hit` names back at its reset value but for the bits that `keep` gives. A
B-class write of a register that keeps all its bits goes on waiting (R286). -/
def resetRegs (hit : Nat → Bool) (keep : Nat → Word) (s : State) : State :=
  let mix := fun a w => (w &&& keep a) ||| (regReset a &&& ~~~(keep a))
  { s with
    regs := (s.regs.map (fun e => if hit e.1 then (e.1, mix e.1 e.2) else e)).filter (fun e => decide (e.2 ≠ regReset e.1))
    held := s.held.filter (fun e => !hit e.1 || decide (keep e.1 = ~~~(0#32))) }

/-- The registers of a page back at their reset values, but for what R82 keeps. -/
def resetPage (p : Nat) (s : State) : State :=
  match pageKind p with
  | none => s
  | some k => resetRegs (fun a => decide (pageOf a = p)) (fun a => softKeeps k (offOf a)) s

/-! ### The endpoint (R368) -/

/-- Every DMA channel stopped with no completion or writeback, what the mailbox and the master-image load hold dropped,
and the master-image table cleared (R368, R375, R383). -/
def stopDma (s : State) : State :=
  let s := { s with dma := [], masters := [] }
  { s with pcie := { s.pcie with door := none, mit := none, cmd := s.pcie.cmd.map (fun c => { c with cut := true }) } }

/-- The link gone (R368): the channels stop, the PCI page takes its reset values, LINK_UP clears, and LINK_DOWN is recorded
with its cause. -/
def linkDown (cause : Nat) (s : State) : State :=
  let s := resetPage 0xD (stopDma s)
  let s := resetRegs (fun a => decide (pageOf a = 0xD) && decide (offOf a = 0x010)) (fun _ => 0#32) s
  irqBit 0xD 0 (errRec 0xD 0x21 2 0 cause 0 s)

/-! ### Resets (R509 to R512, R519, R520) -/

/-- The bits of a register that a start keeps (R510, R520): the always-on domain on every start but a power-on reset, the
event-log position that lies in the NVS, and on a warm start what its table names. -/
def startKeeps (warm : Bool) (a : Nat) : Word :=
  let all := ~~~(0#32)
  let p := pageOf a
  let o := offOf a
  let aon := (decide (p = 0) && (decide (o = GLB.RST_CFG.off) || decide (o = GLB.START_STAT.off) || decide (o = GLB.START_CAUSE.off)))
    || (decide (p = 5) && (decide (o = THM.BROKEN.off) || decide (o = THM.TRIP_CNT.off)))
    || (decide (p = 3) && decide (o = NVS.LOG_WP.off))
    || (decide (p = 0xE) && decide (o = DBG.DBG_STAT.off))
    || (decide (p = 1) && decide (o = CLK.PLL_STAT.off))
  if aon then
    if p = 0xE then (if warm then DBG.DBG_STAT_LEVEL.mask else 0#32) ||| DBG.DBG_STAT_PW_SET.mask ||| DBG.DBG_STAT_FAILS.mask
    else if p = 1 then CLK.PLL_STAT_REF_OK.mask ||| (if warm then CLK.PLL_STAT_LOCK.mask ||| CLK.PLL_STAT_BACKUP.mask
      ||| CLK.PLL_STAT_LOL_CNT.mask else 0#32)
    else all
  else if !warm then 0#32
  else if p = 2 then masks [HOOP.FW_VER, HOOP.FW_STAT, HOOP.FW_CRC, HOOP.MC_STAT, HOOP.CMD_LAST, HOOP.CMD_SEQ, HOOP.CMD_PROG] o
  else if p = 7 then masks [EVM.PROT] o
  else if 0x10 ≤ p ∧ p < 0x30 then masks [TMB.MC_STAT] o
  else if p = 0x39 then masks [CAL.TILE_STAT, CAL.TILE_RUN] o
  else if p = 0xF then masks [DMP.DUMP_STAT, DMP.TILE_MAP, DMP.MAP_SRC, DMP.HLTH_CFG] o
  else if p = 0xD ∧ o = 0x010 then roMask .pci o &&& ~~~(0xFF#32)
  else 0#32

/-- Reset applied for a start of a cause (R510, R520): what survives is kept, every other part is as after power-on, and
the start sequence stands at step 1. -/
def applyReset (cause : Nat) (warm : Bool) (s : State) : State :=
  let r := State.reset
  let kept := s.boot.mapped.filter (fun e => warm && (decide (e.2 = 2) || decide (e.2 = 3)))
  let map := (kept.map (fun e => 2 ^ e.1)).sum
  let n : State :=
    { r with
      variant := s.variant
      pending := s.pending
      time := s.time
      regs := s.regs
      pll := if warm then { acquiring := s.pll.acquiring } else {}
      msix := if warm then s.msix else { sent := s.msix.sent }
      mem := s.mem
      side := s.side
      lines := s.lines
      lastRead := s.lastRead
      rdos := if warm then s.rdos.map (fun e => (e.1, { mat := e.2.mat })) else []
      flux := if warm then s.flux.map (fun e => (e.1, { coef := e.2.coef })) else []
      free := s.free
      mck := s.mck
      up := s.up
      profiles := s.profiles
      repairs := if warm then s.repairs else s.repairs.filter (fun r => r.stored)
      pcie := { out := s.pcie.out }
      smp := if s.boot.trip then s.smp else {}
      hoop := { nvs := s.hoop.nvs, recs := s.hoop.recs.map (fun e => { e with cmd := false }), flash := s.hoop.flash, flashOk := s.hoop.flashOk, resident := warm && s.hoop.resident }
      dbgAcc := { hash := s.dbgAcc.hash, ir := s.dbgAcc.ir }
      cal := { r.cal with
        tiles := if warm then s.cal.tiles.map (fun e => (e.1, { slots := e.2.slots, vals := e.2.vals, snap := e.2.snap })) else []
        seqA := s.cal.seqA
        seqB := s.cal.seqB }
      boot := { por := none, rstLow := s.boot.rstLow, trip := s.boot.trip, smbShdn := s.boot.smbShdn, fails := s.boot.fails, cleared := warm && s.boot.cleared, fuseBad := warm && s.boot.fuseBad, startedAt := s.boot.startedAt, mapped := kept, tripRec := s.boot.tripRec, smbHealth := s.boot.smbHealth, cells := s.boot.cells, sampled := s.boot.sampled, extest := s.boot.extest, fw := false, scanned := false } }
  let n := resetRegs (fun _ => true) (startKeeps warm) n
  let n := putF 0xF DMP.TILE_MAP map 0 (putF 0xF DMP.MAP_SRC (getF n 0xF DMP.MAP_SRC &&& map) 0 n)
  let n := forAll kept (fun e s => putF (tilePage e.1) HDR.OWNER_OWN 2 0 (putF (tilePage e.1) HDR.CTRL_EN 0 0 s)) n
  let n := forAll [(GLB.START_STAT_STEP, 1), (GLB.START_STAT_READY, 0), (GLB.START_STAT_SAFE, 0),
    (GLB.START_STAT_KIND, if warm then 2 else if cause = 0 then 0 else 1), (GLB.START_CAUSE_CAUSE, cause),
    (GLB.START_CAUSE_SKIP, 0)] (fun e s => putF 0 e.1 e.2 0 s) n
  smbAlert (if s.boot.trip && brokenTwo n then putF 0 GLB.HEALTH_STATE 3 0 n else n)

/-- A start requested (R510, R512): every tile stops as under ABORT, every port stops transmitting, a running command is
abandoned, and reset is applied once the ramps are complete. A warm start is replaced by a cold one while the memories
have not been cleared. After a scan dump only a cold start is taken (R544). -/
def requestStart (cause : Nat) (warm : Bool) (s : State) : State :=
  if s.boot.scanned && warm && s.boot.cleared then s else
  let s := forAll (tileBits s) (fun b s => abortTile b (now s) 2 s) s
  let s := forAll (List.range 8) (fun n s => if portState s n = 0 then s else portDown n 0 s) s
  let s := dropCmd s
  { s with boot := { s.boot with req := some (cause, warm && s.boot.cleared), retry := false, autoWarm := false, startedAt := s.up } }

/-- An output of a tile still ramps (R153); without the root clock nothing does. -/
def ramping (s : State) : Bool :=
  isSet s 1 CLK.PLL_STAT_LOCK && (tileBits s).any (fun b => match (tileOf s b).ramp with
    | some r => decide (now s < r.t0 + 32)
    | none => false)

/-! ### Failed starts and SAFE mode (R523, R524) -/

/-- START_MS taken from the model's own clock, in ms (R513). -/
def showStartMs (s : State) : State := putF 0 GLB.START_CAUSE_START_MS (min ((s.up - s.boot.startedAt) / 1000000) 65535) 0 s

/-- The START_FAIL records that wait, oldest first, with their interrupt (R521, R524). -/
def failRecords (s : State) : State :=
  let s := if s.boot.fails = [] then s else irqBit 0 2 s
  let s := forAll s.boot.fails (fun i s => errRec 0 0x20 2 0 i 0 s) s
  { s with boot := { s.boot with fails := [] } }

/-- The converters of a tile powered down (R524). -/
def powerDown (b : Nat) (s : State) : State :=
  let p := tilePage b
  let put := fun (l : List (Fld × Nat × Nat)) => forAll l (fun e s => putF p e.1 e.2.1 e.2.2 s) s
  match tileKind b with
  | .drv => put [(DRV.DAC_STAT_READY, 0, 0), (DRV.DAC_STAT_READY, 0, 1), (DRV.DAC_CFG_PD, 1, 0), (DRV.DAC_CFG_PD, 1, 1)]
  | .rdo => put [(RDO.PDAC_STAT_READY, 0, 0), (RDO.ADC_STAT_READY, 0, 0), (RDO.PDAC_CFG_PD, 1, 0), (RDO.ADC_CFG_PD, 1, 0)]
  | .flx => put ((FLX.FLX_STAT_READY, 0, 0) :: (List.range 16).map (fun k => (FLX.OUT_CFG_PD, 1, k)))

/-- SAFE mode entered (R524): its bits and HEALTH, every page owned by Hoop, the pages of tiles, TUL, DRN, JDX, PAT and CAL
disabled, converters powered down, one attempt to lock the root PLL, and the records. -/
def enterSafe (s : State) : State :=
  let s := putF 0 GLB.START_STAT_STEP 0 0 (putF 0 GLB.START_STAT_SAFE 1 0 s)
  let s := forAll ((List.range 0x3A).filter (fun p => pagePresent s p)) (fun p s => putF p HDR.OWNER_OWN 2 0 s) s
  let s := forAll ((tileBits s).map tilePage ++ [8, pTul, pDrn, 0x39] ++ (List.range 8).map jdxPage)
    (fun p s => putF p HDR.CTRL_EN 0 0 s) s
  let s := forAll (List.range 8) (fun n s => portDown n 0 s) s
  let s := forAll (tileBits s) powerDown s
  let s := putF 0 GLB.HEALTH_STATE 4 0 (irqBit 0 1 s)
  let s := if isSet s 1 CLK.PLL_STAT_REF_OK && !isSet s 1 CLK.PLL_STAT_LOCK then
    { s with pll := { s.pll with acquiring := true } } else s
  let s := errRec 0 0x23 2 0 (getF s 0 GLB.START_STAT_FAILS) 0 (showStartMs s)
  smbAlert (failRecords { s with hoop := { s.hoop with spAt := s.mck }, boot := { s.boot with fw := false } })

/-- The start in progress fails with a code (R514, R523): counted and kept for its record; an event-log entry where Hoop
firmware runs and the NVS has been restored; then the 100 ms wait, or SAFE mode from the third failure on. -/
def startFail (code : Nat) (s : State) : State :=
  let step := startStep s
  let s := incSat 0 GLB.START_STAT_FAILS 0 s
  let s := putF 0 GLB.START_STAT_FAIL_STEP step 0 (putF 0 GLB.START_STAT_FAIL_CODE code 0 s)
  let s := putF 0 GLB.START_STAT_EVER_FAIL 1 0 s
  let info := step + 16 * code + 256 * getF s 0 GLB.START_STAT_KIND + 4096 * getF s 0 GLB.START_STAT_FAILS
  let s := { s with boot := { s.boot with fails := s.boot.fails ++ [info] } }
  let s := if s.boot.fw && s.boot.nvsUp then logEntry 0 0x20 2 (BitVec.ofNat 32 info) 0#32 0 false s else s
  if getF s 0 GLB.START_STAT_FAILS < 3 then
    { s with boot := { s.boot with retry := true, dueAt := s.up + 100000000 } } else enterSafe s

/-- Whether a start is in progress after step 4, so that a fatal error or a loss of lock fails it (R514, R526). -/
def lateStart (s : State) : Bool :=
  !ready s && decide (4 < startStep s) && alive s && s.boot.req.isNone && !s.boot.retry

/-! ### Loss of lock (R53, R54) -/

/-- The root PLL loses lock (R53, R54, R60, R404, R477): holdover; every tile stops into HALTED_CLK in this fc, one in HALTED_MC too,
since R53 says every tile, where R161 has HALTED_MC left by GO alone (DESIGN CHOICE, log entry 84); the epoch
under way is cancelled; shadowed calibration values are discarded; a pattern run ends. A start after step 4 fails. -/
def lossOfLock (s : State) : State :=
  let s := calDropShadows s
  let s := if isSet s 1 HDR.CTRL_FREEZE then s else incSat 1 CLK.PLL_STAT_LOL_CNT 0 s
  let s := putF 1 CLK.PLL_STAT_LOCK 0 0 (putF 1 CLK.PLL_STAT_LOL 1 0 s)
  let s := errRec 1 Config.lolCode.toNat (Config.lolSev.toNat % 3) 0 Config.lolInfo.toNat 0 (irqBit 1 0 s)
  let go := isSet s 1 CLK.PLL_CTL_RELOCK_AUTO && isSet s 1 CLK.PLL_STAT_REF_OK
  let s := { s with pll := { s.pll with acquiring := go } }
  let s := if !isSet s 1 CLK.SYNC_CTL_ARM then putF 1 CLK.SYNC_STAT_EPOCH_PEND 0 0 s else s
  let s := forAll (tileBits s) (fun b s =>
    if tileState s b = stRun then stopTile b (now s) stHaltedClk 6 s
    else if tileState s b = stArmed then
      let s := abortTile b (now s) 0 s
      putF (tilePage b) TMB.TMB_STAT_STATE stHaltedClk 0 s
    else if tileState s b = stStopping then
      modTile b (fun x => { x with ramp := x.ramp.map (fun r => { r with target := stHaltedClk }) }) s
    else putF (tilePage b) TMB.TMB_STAT_STATE stHaltedClk 0 s) s
  let s := patAbort s
  let s := if lateStart s then startFail 4 s else s
  { s with pll := { s.pll with holdover := true, holdAt := s.up, epochs := [] } }

end Sys2Proof.Machine
end

