-- ==== Sys2Proof/Machine/Tambour.lean ====
section
/-!
DEFINITION. The commands of 04_tambour_microword and 05_sequencing_and_timeline: start and stop of a Tambour (R150 to
R153), issue, waits and release (R139 to R147, R567), and the actions of a released word that belong to no datapath
(R106, R116 to R127).
-/
namespace Sys2Proof.Machine

/-! ### GO (R151, R152) -/

/-- Envelope units of a tile (R112). -/
def envUnits (b : Nat) : Nat := if isRdo b then 32768 else 65536

/-- Base 2 logarithm of the ring size of a stream slot; a value out of range is taken as 2 (05, STRM_CFG). -/
def ringLog (s : State) (b i : Nat) : Nat :=
  let n := getF s (tilePage b) TMB.STRM_CFG_SIZE_LOG2 i
  if 2 ≤ n ∧ n ≤ 16 then n else 2

/-- Every converter of the tile with PD = 0 is READY (R192, R219, R259). -/
def convReady (s : State) (b : Nat) : Bool :=
  let p := tilePage b
  match tileKind b with
  | .drv => (List.range 2).all (fun d => isSet s p DRV.DAC_CFG_PD d || isSet s p DRV.DAC_STAT_READY d)
  | .rdo => (isSet s p RDO.PDAC_CFG_PD || isSet s p RDO.PDAC_STAT_READY) && (isSet s p RDO.ADC_CFG_PD || isSet s p RDO.ADC_STAT_READY)
  | .flx => isSet s p FLX.FLX_STAT_READY || (List.range 16).all (fun k => isSet s p FLX.OUT_CFG_PD k)

/-- TMB_START of a tile. -/
def tmbStart (s : State) (b : Nat) : Nat := getPair s (tilePage b) TMB.TMB_START_LO TMB.TMB_START_HI

/-- The ERR_INFO of the first condition of R151 that fails, in table order; none where a GO is accepted. What changes in the mc of
the write is judged as it stood before (R79). -/
def goRefusal (s : State) (who : Requester) (b : Nat) : Option Nat :=
  let p := tilePage b
  let st := seenF s who p TMB.TMB_STAT_STATE
  if st ≠ stStopped ∧ st ≠ stHaltedMc ∧ st ≠ stHaltedClk then some 0x1
  else if !isSet s p HDR.CTRL_EN then some 0x12
  else if isSet s p HDR.CTRL_FREEZE then some 0x22
  else if decide (s.variant = .mq128) && isSet s 5 THM.STATUS_SHDN then some 0x32
  else if !convReady s b then some 0x42
  else if isRdo b && !isSet s p RDO.CHAN_STAT_READY then some 0x52
  else if !seenSet s who 1 CLK.SYNC_STAT_TIME_VALID || seenSet s who 1 CLK.SYNC_STAT_EPOCH_PEND then some 0x3
  else if tmbStart s b < busTime s + 64 then some 0x4
  else if (List.range 8).any (fun i => isSet s p TMB.STRM_CFG_EN i
      && decide (envUnits b < getF s p TMB.STRM_CFG_BASE i + 2 ^ ringLog s b i)) then some 0x5
  else none

/-- The counters cleared at GO. -/
def goClears (b : Nat) (s : State) : State :=
  let p := tilePage b
  let clr := fun (l : List Fld) (i : Nat) (s : State) => forAll l (fun f s => putF p f 0 i s) s
  let s := clr [TMB.TMB_STAT_UNDR, TMB.TMB_STAT_WAIT, TMB.TMB_STAT_STOP_PEND, TMB.QUEUE_DEPTH, TMB.LOOP_CTR, TMB.WAIT_CNT,
    TMB.DFLT_CNT, TMB.DEC_DISC, TMB.TRUNC_CNT, TMB.UNDR_CNT] 0 s
  let s := forAll (List.range 8) (clr [TMB.STRM_STAT_SKIP]) s
  match tileKind b with
  | .drv => forAll (List.range 2) (clr [DRV.DAC_SAT_CNT]) (forAll (List.range 16) (clr [DRV.FRAME_PH]) (clr [DRV.PF_STAT, DRV.STATUS_BLANK] 0 s))
  | .rdo => clr [RDO.PDAC_SAT_CNT, RDO.ADC_OVR_CNT, RDO.WIN_CNT, RDO.WIN_DROP_CNT, RDO.UNMIX_STAT_PART_CNT, RDO.RES_DROP,
      RDO.RES_DROP2] 0 s
  | .flx => forAll (List.range 16) (clr [FLX.OUT_SAT_CNT]) s

/-- An accepted GO (R152, R169, R254), with the records of R185, R207 and R232. -/
def goAccept (b : Nat) (s : State) : State :=
  let p := tilePage b
  let start := tmbStart s b
  let shot := shotNum s b
  let s := setTile b
    { next := some (getF s p TMB.TMB_ENTRY_ENTRY)
      nextT := start
      issueAt := now s
      la := { shot := shot }
      shot0 := shot
      keys := (List.range 32).map (fun k => (k, { armPt := (start : Int) - 1 }))
      markT := (tileOf s b).markT
      xLog := (tileOf s b).xLog
      pins := (tileOf s b).pins
      busy := (tileOf s b).busy
      refetch := (tileOf s b).refetch } s
  let s := if isRdo b then
      showWins b (modRdo b (fun r => { r with sets := [], frames := [], mark := 0, once := 0, post := none, staged := [] }) s) else s
  let s := if isFlx b then forAll (List.range 16) (fun k s =>
      setFlux b k { fluxOf s b k with lp := [0, 0, 0, 0], hist := List.replicate 32 0 } s) s else s
  let s := if isDrv b then setPauli b (now s) 0 0 s else s
  let s := putF p TMB.TMB_STAT_STATE stArmed 0 (putF p HDR.STATUS_RUN 1 0 (goClears b s))
  let s := forAll (List.range (toneCount b)) (refreshTone b true) s
  if isRdo b then
    let s := noteIl b (now s) (forAll (List.range 32) (refreshBin b true) s)
    forAll (List.range 32) (fun t s =>
      let w := inForce s (RDO.DEC_CFG.addr p t)
      if pfBad s w then pfRecord b t w s else s) s
  else s

/-- The effect of a write of GO (R151). -/
def tmbGoEffect (who : Requester) (b : Nat) (s : State) : State :=
  match goRefusal s who b with
  | some i => errRec (tilePage b) 0x29 0 0 i 0 (irqBit (tilePage b) 3 s)
  | none => goAccept b s

/-- A write of GO (R151). -/
def execTmbGo (who : Requester) (b : Nat) (s : State) : Res1 :=
  .next (viaBus who (tilePage b) TMB.TMB_CTL_GO 0 1
    (ownAct who (tilePage b) (tmbGoEffect who b)) s)

/-! ### Release (R139, R140) -/

/-- Fields of a pulse-table entry (R111). -/
def peStart (n : Nat) : Nat := n % 2 ^ 16
def peLen (n : Nat) : Nat := n / 2 ^ 16 % 2 ^ 12
def peStream (n : Nat) : Bool := decide (bit n 28 = 1)
def peHold (n : Nat) : Bool := decide (bit n 29 = 1)
def peConj (n : Nat) : Bool := decide (bit n 30 = 1)

/-- The channel of a slot (R108). -/
def slotChan (b : Nat) (second : Bool) (w : MWord) : Nat :=
  if second then (if isRdo b then 16 + w.b.tone else w.b.tone) else w.a.tone

/-- Both slots name one channel, so slot B is discarded (R110). -/
def slotClash (b : Nat) (w : MWord) : Bool :=
  decide (w.a.pulse ≠ 0) && decide (w.b.pulse ≠ 0) && decide (slotChan b false w = slotChan b true w)

/-- The BAR2 addresses of a pulse-table entry and of a frame-value entry (R111, R114). -/
def pulseAddr (b n : Nat) : Nat := aperture b + 0x300000 + 4 * n
def frameAddr (b n : Nat) : Nat := aperture b + 0x304000 + 4 * n

/-- The fetches of a released pulse, behind those of earlier pulses; an earlier non-stream pulse of the channel loses the
units that start at or after `t` (R149, R164), unless the tile stops at or before `t`. Bit 31 of an entry, and START[15:3] of a stream
entry, are ignored and recorded nowhere: R111 says what they must be and not what they do otherwise (DESIGN CHOICE, log entry 80). -/
def addFetch (b chan t pe addr : Nat) (s : State) : State :=
  if peLen pe = 0 then s
  else modTile b (fun x => { x with
    fetches := x.fetches.map (fun r => if r.chan = chan ∧ r.stream = false then { r with cuts := t :: r.cuts } else r)
      ++ [{ chan := chan, pt := t, stream := peStream pe, src := if peStream pe then peStart pe % 8 else peStart pe,
            t := t, left := peLen pe, addr := addr }] }) s

/-- The head of a tile's queue released (R139, R140, R142): what it reads is read, its boundary is staged, its fetches
begin, and its actions are to come. Whether the tile defines the device shot boundary (R67) is judged at this release, where R68 has
the device-level values staged; the rule does not say at which fc it is judged (DESIGN CHOICE, log entry 81). -/
def releaseHead (b : Nat) (e : QEntry) (s : State) : State :=
  let p := tilePage b
  let w := e.w
  let full := decide ((tileOf s b).queue.length = 512)
  let s := modTile b (fun x => { x with queue := x.queue.drop 1, issueAt := if full then max x.issueAt (now s + 1) else x.issueAt }) s
  let s := putF p TMB.QUEUE_DEPTH (tileOf s b).queue.length 0 s
  let pa := if w.a.pulse = 0 then 0 else rtRead s (pulseAddr b w.a.pulse) 4
  let s := if w.a.pulse = 0 then s else rtTouch (pulseAddr b w.a.pulse) s
  let useB := decide (w.b.pulse ≠ 0) && !slotClash b w
  let pb := if useB then rtRead s (pulseAddr b w.b.pulse) 4 else 0
  let s := if useB then rtTouch (pulseAddr b w.b.pulse) s else s
  let useF := decide (w.fop ≠ 0) && !isFlx b
  let fv := if useF then rtRead s (frameAddr b w.fval) 4 else 0
  let s := if useF then rtTouch (frameAddr b w.fval) s else s
  let dev := decide (w.bnd = 15) && decide (deviceTile s = some b)
  let snap := if w.bnd = 15 then tilePending s b ++ (if dev then devPending s else []) else []
  let st := if w.bnd = 15 then stageTile s b else {}
  let st := if dev then { st with skew := (stageDev s).skew, routes := (stageDev s).routes } else st
  let s := modTile b (fun x => { x with released := x.released ++
    [{ addr := e.addr, t := e.t, w := w, res := e.res, todo := actsOf (tileKind b) w, pa := pa, pb := pb, fv := fv,
       snap := snap, dev := dev, staged := st }] }) s
  let s := addFetch b (slotChan b false w) e.t pa e.addr s
  let s := if useB then addFetch b (slotChan b true w) e.t pb e.addr s else s
  if w.bnd = 15 then retryKey b 1 s else s

/-- The head of the queue released where its release fc has come. -/
def releaseDue (b : Nat) (s : State) : State :=
  match (tileOf s b).queue.head? with
  | some e => if tileState s b = stRun ∧ e.t ≤ now s + 16 then releaseHead b e s else s
  | none => s

/-- T − 16 of the queue's oldest word (R139). -/
def execWordRelease (b : Nat) (s : State) : Res1 := .next (releaseDue b s)

/-- TMB_START − 16: the tile enters RUN and its first word is released (R152). -/
def execTmbRunStart (b : Nat) (s : State) : Res1 :=
  if tileState s b = stArmed ∧ tmbStart s b ≤ now s + 16 then
    .next (releaseDue b (putF (tilePage b) TMB.TMB_STAT_STATE stRun 0 s))
  else .next s

/-! ### Issue (R139 to R147) -/

/-- A word entered into the queue at its issue (R139). -/
def enqueue (b addr t : Nat) (w : MWord) (s : State) : State :=
  let p := tilePage b
  let s := modTile b (fun x => { x with
    queue := x.queue ++ [{ addr := addr, t := t, w := w }]
    arr := smSet x.wp { addr := addr, t := t, w := w } x.arr
    wp := (x.wp + 1) % 512 }) s
  let n := (tileOf s b).queue.length
  let s := putF p TMB.TMB_STAT_PC addr 0 (putF p TMB.QUEUE_DEPTH n 0 s)
  putF p TMB.QUEUE_HWM (max (getF s p TMB.QUEUE_HWM) n) 0 s

/-- A word whose look-ahead stops or resolves at its issue (R143, R144, R147, R567). -/
def issueWait (b addr t : Nat) (w : MWord) (s : State) : State :=
  let wt : Wait := { t := t, ts := t + w.advance, w := w, armPt := (keyOf s b w.tkey).armPt, needKey := w.needsKey,
                     needEval := w.needsEval, res := {}, issued := now s }
  let stop := fun (wt : Wait) (s : State) =>
    putF (tilePage b) TMB.TMB_STAT_WAIT 1 0 (modTile b (fun x => { x with waiting := some wt }) s)
  if w.needsKey && !govQueued s b then
    match keyResolve b wt s with
    | some (r, s) =>
      if w.needsEval then stop { wt with needKey := false, res := r } s else flowKnown b addr t (now s + 1) w r s
    | none => stop wt s
  else if w.needsKey || w.needsEval then stop wt s
  else flowKnown b addr t (now s + 1) w {} s

/-- The issue of the next word (R141, R142, R144): the word is read and checked, an ARM moves its key's arm point, and the
word's program steps are taken. -/
def issueWord (b addr : Nat) (s : State) : State :=
  let quarters := parityFails s b addr
  if quarters ≠ 0 then machineCheck b addr quarters s
  else
    let w := decodeWord (storedWord s b addr)
    let t := (tileOf s b).nextT
    let s := if w.top = 1 then setKey b w.tkey { keyOf s b w.tkey with armPt := t } s else s
    let s := modTile b (fun x => { x with la := seqStep (isDrv b) w x.la, next := none }) s
    issueWait b addr t w (enqueue b addr t w s)

/-- One word issues, where the Tambour may issue in the fc at hand (R141 to R143). -/
def execWordIssue (b : Nat) (s : State) : Res1 :=
  let x := tileOf s b
  match x.next with
  | some addr =>
    if tmbOn s b && x.waiting.isNone && decide (x.issueAt ≤ now s) && decide (x.queue.length < 512)
    then .next (issueWord b addr s) else .next s
  | none => .next s

/-- The wait of a tile resolved where it can be: by a usable decision or a default that counts, and else by the key's
default once D has come (R145, R567). -/
def resolveDue (b : Nat) (s : State) : State :=
  match (tileOf s b).waiting with
  | some w =>
    if w.needKey && !govQueued s b then
      match keyResolve b w s with
      | some (r, s) => keyDone b w r (now s + 1) s
      | none =>
        let m := govKey s b w.w.tkey
        let d := keyDeadline m w.t w.ts
        if d ≤ now s then
          let e := byDefault b w.w.tkey m s
          keyDone b w e.1 (d + 4) e.2
        else s
    else s
  | none => s

/-- The deadline of a waiting word's key (R145). -/
def execKeyDeadline (b : Nat) (s : State) : Res1 := .next (resolveDue b s)

/-- A WAIT word at the head of look-ahead (R119, R122): it waits on its key, and resolves as R145 says once it can. -/
def execTulleWait (b : Nat) (s : State) : Res1 :=
  match (tileOf s b).waiting with
  | some w => .next (if w.w.top = 6 then resolveDue b s else s)
  | none => .next s

/-- The evaluation of UNDR or LOST at T_S − 20, or at the release of the governing boundary word (R147, R567). -/
def execUndrLostEval (b : Nat) (s : State) : Res1 :=
  match (tileOf s b).waiting with
  | some w =>
    if w.needEval && !w.needKey && !govQueued s b && decide (w.ts ≤ now s + 20) then
      .next (putF (tilePage b) TMB.TMB_STAT_WAIT 0 0 (flowKnown b (pcOf s b) w.t (w.ts - 16) w.w w.res s))
    else .next s
  | none => .next s

/-! ### Stops (R153) -/

/-- The effect of a write of STOP: the tile stops at the first shot-boundary word whose T comes (R153). -/
def tmbStopEffect (b : Nat) (s : State) : State :=
  if tmbOn s b then putF (tilePage b) TMB.TMB_STAT_STOP_PEND 1 0 s else s

/-- A write of STOP: the tile stops at the first shot-boundary word whose T comes (R153). -/
def execTmbStop (who : Requester) (b : Nat) (s : State) : Res1 :=
  .next (viaBus who (tilePage b) TMB.TMB_CTL_STOP 0 1
    (tmbStopEffect b) s)

/-- A write of ABORT (R153). -/
def execTmbAbort (who : Requester) (b : Nat) (s : State) : Res1 :=
  .next (viaBus who (tilePage b) TMB.TMB_CTL_ABORT 0 1 (ownAct who (tilePage b) (fun s => abortTile b (now s) 2 s)) s)

/-- The stopping fc that a STOP word has set (R153). -/
def execTileStopping (b : Nat) (s : State) : Res1 :=
  match (tileOf s b).stopAt with
  | some f => .next (if tileState s b = stRun ∧ f ≤ now s then stopTile b f stStopped 0 s else s)
  | none => .next s

/-- The output ramp has run its 32 fc (R84, R153); in a holdover it ends with the holdover. -/
def execStopRampDone (b : Nat) (s : State) : Res1 :=
  match (tileOf s b).ramp with
  | some r => .next (if r.t0 + 32 ≤ now s then rampDone b s else s)
  | none => .next s

/-! ### Actions of a word at its T (R106) -/

/-- The shot boundary of a word, and the stop that waits for it (R66, R106, R153). -/
def execShotBoundary (b : Nat) (s : State) : Res1 :=
  .next (withAct b .boundary (fun e s =>
    let s := shotBoundary b e s
    if isSet s (tilePage b) TMB.TMB_STAT_STOP_PEND then stopTile b e.t stStopped 0 s else s) s)

/-- A LOOP operation of kind `lop` (R121). -/
def loopAct (b lop : Nat) (s : State) : State :=
  match readyAct s b .loop with
  | some e =>
    if e.w.lop = lop then
      let p := tilePage b
      let c := getF s p TMB.LOOP_CTR
      doneAct b e.t .loop (putF p TMB.LOOP_CTR (ctrSet c e.w.ctr (loopVal lop e.w.lval (ctrOf c e.w.ctr))) 0 s)
    else s
  | none => s

/-- LOAD: counter ← LVAL (R121). -/
def execLoopLoad (b : Nat) (s : State) : Res1 := .next (loopAct b 1 s)

/-- DEC: a counter at 0 stays 0 (R121). -/
def execLoopDec (b : Nat) (s : State) : Res1 := .next (loopAct b 2 s)

/-- RELOAD: a counter at 0 takes LVAL, another counts down (R121). -/
def execLoopReload (b : Nat) (s : State) : Res1 := .next (loopAct b 3 s)

/-- A TULLE operation of kind `top` that acts at T (R122). -/
def tulleAct (b top : Nat) (g : REntry → State → State) (s : State) : State :=
  match readyAct s b .tulle with
  | some e => if e.w.top = top then doneAct b e.t .tulle (g e s) else s
  | none => s

/-- ARM: the held decision and a default taken are discarded at T (R122, R146). -/
def execTulleArm (b : Nat) (s : State) : Res1 :=
  .next (tulleAct b 1 (fun e s =>
    setKey b e.w.tkey { keyOf s b e.w.tkey with held := none, dflt := none, armT := some e.t } s) s)

/-- FRESET: X and Z of the Bobbin clear at the next shot boundary after T (R122). -/
def execFreset (b : Nat) (s : State) : Res1 :=
  .next (tulleAct b 3 (fun e s => modTile b (fun x => { x with freset := setBit x.freset e.w.frm }) s) s)

/-- FLIPX: X ← NOT X at T (R122). -/
def execFlipx (b : Nat) (s : State) : Res1 :=
  .next (tulleAct b 4 (fun e s => setPauli b e.t (flipBit (pauliX s b) e.w.frm) (pauliZ s b) s) s)

/-- FLIPZ: Z ← NOT Z at T (R122). -/
def execFlipz (b : Nat) (s : State) : Res1 :=
  .next (tulleAct b 5 (fun e s => setPauli b e.t (pauliX s b) (flipBit (pauliZ s b) e.w.frm) s) s)

/-- The fc of a deferred effect. -/
def deferredT : Deferred → Nat
  | .cadd t _ _ => t
  | .fapply t _ _ => t

/-- A deferred effect of one kind whose T has come and before which no other is due, applied and removed (R171). -/
def deferredDue (b : Nat) (g : Deferred → Option (State → State)) (s : State) : State :=
  let ds := (tileOf s b).deferred
  match ds.find? (fun d => (g d).isSome && decide (deferredT d ≤ now s) && ds.all (fun e => decide (deferredT d ≤ deferredT e))) with
  | some d => ((g d).getD id) (modTile b (fun x => { x with deferred := x.deferred.erase d }) s)
  | none => s

/-- FAPPLY at the successor's T: X XOR value bit 0, Z XOR value bit 1, from the raw value (R122, R171). -/
def execFapply (b : Nat) (s : State) : Res1 :=
  .next (deferredDue b (fun d => match d with
    | .fapply t tone v => some (fun s => setPauli b t
        (if bit v 0 = 1 then flipBit (pauliX s b) tone else pauliX s b)
        (if bit v 1 = 1 then flipBit (pauliZ s b) tone else pauliZ s b) s)
    | .cadd _ _ _ => none) s)

/-- What is known of a released word's resolution at its T: its own, or, for a word that waits for the evaluation of UNDR or LOST,
how its key resolved (R124, R147). -/
def resAt (s : State) (b : Nat) (e : REntry) : Res :=
  e.res.getD (match (tileOf s b).waiting with
    | some w => if w.t = e.t ∧ w.needKey = false then w.res else {}
    | none => {})

/-- The records that a word writes in the fc of its T for reserved encodings outside its pulses and for a key that is off
(R117, R122, R124, R128, R132). -/
def encRecords (b : Nat) (e : REntry) (s : State) : State :=
  let s := forAll ((rsvdCodes (tileKind b) e.w).filter (fun c => 2 < c)) (fun c s => wordRec b 0x20 e.addr c s) s
  if (resAt s b e).keyOff then wordRec b 0x25 e.addr 6 s else s

/-- Word 16,383 once its flow is known: with no taken branch it behaves as STOP, with a record of the FLOW field (R120). Where its
COND is reserved too, the one record of field 4 stands for both causes; a word 16,383 that is a STOP word writes none, since
its stop is its own (DESIGN CHOICE, log entry 82). -/
def lastWord (b : Nat) (e : REntry) (s : State) : State :=
  if e.addr = 16383 ∧ (e.res.getD {}).taken = false then
    modTile b (fun x => { x with stopAt := some (e.t + e.w.advance) }) (if e.w.condRsvd then s else wordRec b 0x20 e.addr 4 s)
  else s

/-- The FLOW step of a word that is no STOP word (R116, R120): its records at its T, and the stop of word 16,383 where no branch is
taken. A word 16,383 that still waits at its T has that stop when its flow is known. -/
def execBranch (b : Nat) (s : State) : Res1 :=
  match readyAct s b .branch with
  | some e =>
    let s := encRecords b e s
    if e.addr = 16383 ∧ e.res.isNone = true then
      .next (modTile b (fun x => { x with released := x.released.map (fun r =>
        if r.t = e.t then { r with todo := r.todo.map (fun a => if a = .branch then .flowEnd else a) } else r) }) s)
    else .next (doneAct b e.t .branch (lastWord b e s))
  | none =>
    match readyAct s b .flowEnd with
    | some e => .next (if e.res.isNone then s else doneAct b e.t .flowEnd (lastWord b e s))
    | none => .next s

/-- A STOP word: no successor, and the tile stops at T + ADV (R120, R153). -/
def execStopWord (b : Nat) (s : State) : Res1 :=
  .next (withAct b .stop (fun e s => modTile b (fun x => { x with stopAt := some (e.t + e.w.advance) }) (encRecords b e s)) s)

/-- The markers of a word (R125). -/
def execPicotMark (b : Nat) (s : State) : Res1 :=
  .next (withAct b .mark (fun e s => forAll ((List.range 4).filter (fun m => bit e.w.mark m = 1)) (raiseFlag b) s) s)

/-- The windows of a read-out tile that are open when a gap begins in fc `t`, with their ACQ words (R213). One that opened in `t` has
been met as it opened where a gap ran already then (`met`). -/
def openWins (s : State) (b t : Nat) (met : Bool) : List Nat :=
  ((rdoOf s b).sets.map (fun m => (m.wins.filter (fun w =>
    w.st = .opened ∧ (w.o < t ∨ (w.o = t ∧ met = false)) ∧ t < w.o + w.klen * 4)).map (fun _ => m.addr))).flatten

/-- A declared gap begins (R126, R127, R213): an earlier one ends and is violated, and pulses of the word and open windows
violate the new one. -/
def execDeclaredGap (b : Nat) (s : State) : Res1 :=
  .next (withAct b .gap (fun e s =>
    let met := gapRuns s b e.t
    let s := if met then gapViolate b e.addr 7 s else s
    let s := modTile b (fun x => { x with gapStart := e.t, gapEnd := e.t + gapLen e.w.bnd, gapViol := false }) s
    let s := if e.w.a.pulse ≠ 0 then gapViolate b e.addr 1 s else s
    let s := if e.w.b.pulse ≠ 0 then gapViolate b e.addr 2 s else s
    if isRdo b then forAll (openWins s b e.t met) (fun a s => gapViolate b a 8 s) s else s) s)

end Sys2Proof.Machine
end

