-- ==== Sys2Proof/Machine/DmaOps.lean ====
section
/-!
DEFINITION. The operations of the DMA channels (R370 to R381): bindings, errors and completions, the reads of a STREAM
channel, and writebacks with their messages.
-/
namespace Sys2Proof.Machine

/-- The PCI page. -/
def pPci : Nat := 0xD

/-- The state code of a channel (R370). -/
def chState (s : State) (c : Nat) : Nat := getF s pPci PCI.CH_STAT_STATE c

/-- The mode of a channel; a reserved code is OFF (R370). -/
def chMode (s : State) (c : Nat) : Nat := if getF s pPci PCI.CH_CFG_MODE c ≤ 4 then getF s pPci PCI.CH_CFG_MODE c else 0

/-- A channel beside its registers. -/
def chOf (s : State) (c : Nat) : Dma := smGet {} c s.dma

/-- The state with a channel changed. -/
def modCh (c : Nat) (g : Dma → Dma) (s : State) : State := { s with dma := smSet c (g (chOf s c)) s.dma }

/-- The channels issue requests: the endpoint reaches the host, and the PCI page is enabled and not frozen (R83, R376). -/
def dmaOn (s : State) : Bool := hostOn s && isSet s pPci HDR.CTRL_EN && !isSet s pPci HDR.CTRL_FREEZE

/-- Whether a DMA channel that is not IDLE is bound in a mode to a tile page, and to a slot in STREAM mode (R378, R380). -/
def dmaBound (s : State) (mode page slot : Nat) : Bool :=
  (List.range 16).any fun c =>
    decide (getF s 0xD PCI.CH_STAT_STATE c ≠ 0) && decide (getF s 0xD PCI.CH_CFG_MODE c = mode)
    && (decide (mode = 4) || decide (getF s 0xD PCI.CH_CFG_BTILE c = page))
    && (decide (mode ≠ 2) || decide (getF s 0xD PCI.CH_CFG_BSLOT c = slot))

/-- The record of a write to a pointer that a bound channel moves (R378, R380). -/
def boundWrite (page slot : Nat) (s : State) : State := errRec 0xD 0x25 0 0 (page + 256 * slot) 0 s

/-- The difference of two positions modulo 2^32. -/
def posDiff (a b : Nat) : Nat := (a + 2 ^ 32 - b) % 2 ^ 32

/-- The message of a channel (R369). -/
def chVec (c : Nat) (s : State) : State := sendVec (64 + c) s

/-- A failure of a channel (R373): LAST, the message, IRQ_STAT bit 4 and the record. -/
def chFail (c status idx : Nat) (s : State) : State :=
  let s := putF pPci PCI.CH_STAT_LAST status c s
  errRec pPci 0x20 2 c (status + 2 ^ 16 * idx) 0 (irqBit pPci 4 (chVec c s))

/-- A failure that puts the channel into ERROR (R373). -/
def chError (c status idx : Nat) (s : State) : State := chFail c status idx (putF pPci PCI.CH_STAT_STATE 2 c s)

/-- The number of entries of a channel's host structure. -/
def chRing (s : State) (c : Nat) : Nat := 2 ^ getF s pPci PCI.CH_CFG_HSIZE_LOG2 c

/-- Host base and completion address of a channel. -/
def chHaddr (s : State) (c : Nat) : Nat := addr64 s pPci PCI.CH_HADDR_LO PCI.CH_HADDR_HI c
def chCpl (s : State) (c : Nat) : Nat := addr64 s pPci PCI.CH_CPL_LO PCI.CH_CPL_HI c

/-! ### COPY (R371, R372) -/

/-- The completion entry of a descriptor (R372). -/
def completion (c idx status cookie : Nat) (s : State) : State :=
  let phase := 1 - idx / chRing s c % 2
  hostWrite (chCpl s c + 16 * (idx % chRing s c))
    (toBytes idx 2 ++ toBytes status 1 ++ toBytes phase 1 ++ toBytes cookie 4 ++ toBytes (now s) 6 ++ toBytes 0 2) s

/-- A descriptor finished with a status: its completion entry, HEAD past it, and what the status brings (R371 to R373). -/
def finishDesc (c status : Nat) (d : Desc) (s : State) : State :=
  let s := completion c d.idx status d.cookie s
  let s := putF pPci PCI.CH_HEAD_HEAD ((d.idx + 1) % 65536) c (modCh c (fun x => { x with desc := none }) s)
  if status = 0 then (if bit d.flags 0 = 1 then chVec c s else s) else chError c status d.idx s

/-- The end of the memory that a BAR2 address lies in; none in a hole, in an absent aperture and outside BAR2. -/
def regionEnd (s : State) (a : Nat) : Option Nat :=
  if 0x14000000 ≤ a ∧ a < 0x14400000 then some 0x14400000
  else match memAt a with
    | none => none
    | some m => if pagePresent s m.page then some (m.base + m.size) else none

/-- Why a device range cannot be moved (R372): 2 a hole or an absent aperture, 3 protected, 4 the code of a running tile. -/
def rangeFault (s : State) (dev len op : Nat) : Option Nat :=
  match regionEnd s dev with
  | none => some 2
  | some e =>
    if e < dev + len then some 2
    else match memAt dev with
      | none => some 3
      | some m =>
        if m.kind = 8 ∨ m.kind = 5 ∨ m.kind = 10 ∨ (m.kind = 9 ∧ getF s 0xE DBG.DBG_STAT_LEVEL = 0) then some 3
        else if op = 1 ∧ m.kind ≤ 1 ∧ isSet s m.page HDR.STATUS_RUN = true then some 4
        else none

/-- A descriptor as read from its ring (R371). -/
def parseDesc (idx : Nat) (bs : List Byte) : Desc :=
  let f := fun (o n : Nat) => leNat ((bs.drop o).take n)
  { idx := idx, host := f 0 8, dev := f 8 4, len := f 12 4, op := f 16 1, flags := f 17 1, cookie := f 20 4 }

/-- Whether a descriptor is malformed (R371, R372). -/
def malformed (d : Desc) (bs : List Byte) : Bool :=
  decide (bs.length ≠ 32) || (decide (d.op ≠ 1) && decide (d.op ≠ 2)) || decide (d.len < 4) || decide (2 ^ 24 < d.len)
    || decide (d.len % 4 ≠ 0) || decide (d.host % 4 ≠ 0) || decide (d.dev % 4 ≠ 0) || decide (4 ≤ d.flags)
    || decide (leNat ((bs.drop 18).take 2) ≠ 0) || decide (leNat ((bs.drop 24).take 8) ≠ 0)

/-- Lines moved by a channel counted. -/
def addLines (c n : Nat) (s : State) : State := putF pPci PCI.CH_LINES ((getF s pPci PCI.CH_LINES c + n) % 2 ^ 32) c s

/-! ### Writebacks and messages of bound channels (R381) -/

/-- A message that reports the progress of a channel so far (R381). -/
def chTell (c : Nat) (s : State) : State :=
  let d := getF s pPci PCI.CH_DPOS c
  chVec c (modCh c (fun x => { x with told := d }) (dropTimer (tmHold c) s))

/-- A message where DPOS has advanced by at least TH since the last one (R381); else the progress stands unreported from now on. -/
def chProgress (c : Nat) (s : State) : State :=
  let th := getF s pPci PCI.CH_IRQ_TH c
  let d := getF s pPci PCI.CH_DPOS c
  if th ≠ 0 ∧ th ≤ posDiff d (chOf s c).told then chTell c s
  else if d = (chOf s c).told ∨ (smFind (tmHold c) s.timers).isSome = true then s
  else stampTimer (tmHold c) s

/-- DPOS of a STREAM channel bound to a slot follows STRM_FILL where an underrun moves it beyond (R378), which is progress (R381). -/
def dposFollow (p i fill : Nat) (s : State) : State :=
  forAll ((List.range 16).filter (fun c => decide (getF s 0xD PCI.CH_STAT_STATE c ≠ 0) && decide (getF s 0xD PCI.CH_CFG_MODE c = 2)
      && decide (getF s 0xD PCI.CH_CFG_BTILE c = p) && decide (getF s 0xD PCI.CH_CFG_BSLOT c = i)))
    (fun c s =>
      let d := posDiff fill (getF s 0xD PCI.CH_DPOS c)
      if 0 < d ∧ d < 2 ^ 31 then chProgress c (putF 0xD PCI.CH_DPOS fill c s) else s) s

/-- A writeback (R381). -/
def writeback (c : Nat) (s : State) : State :=
  let p := getF s pPci PCI.CH_CFG_BTILE c
  let mid := if chMode s c = 2 then getF s p TMB.STRM_CONS (getF s pPci PCI.CH_CFG_BSLOT c)
    else if chMode s c = 3 then getF s p RDO.RES_DROP else getF s 0xC DRN.ESC_STAT_DROP
  let s := hostWrite (chCpl s c) (toBytes (getF s pPci PCI.CH_DPOS c) 4 ++ toBytes mid 4 ++ toBytes (now s) 6
    ++ toBytes (chState s c) 1 ++ toBytes (chOf s c).wbs 1) s
  modCh c (fun x => { x with wbs := (x.wbs + 1) % 256 }) s

/-! ### STREAM (R377, R378) -/

/-- A difference of positions read as a signed number, and nothing where it is negative. -/
def posAhead (a b : Nat) : Nat := if posDiff a b < 2 ^ 31 then posDiff a b else 0

/-- The units a STREAM channel may fetch next: n of R377, in one read of at most 32 that crosses no multiple of 32. -/
def streamNext (s : State) (c : Nat) : Nat :=
  let p := getF s pPci PCI.CH_CFG_BTILE c
  let i := getF s pPci PCI.CH_CFG_BSLOT c
  let d := getF s pPci PCI.CH_DPOS c
  let lim := (getF s p TMB.STRM_CONS i + 2 ^ ringLog s (p - 0x10) i) % 2 ^ 32
  min (min (posAhead (getF s pPci PCI.CH_HPOS c) d) (posAhead lim d)) (32 - d % 32)

/-- The reads that a STREAM channel issues now, up to `k` of them (R377): each moves DPOS, which is progress (R381). -/
def streamIssue (c : Nat) : Nat → State → State
  | 0, s => s
  | k + 1, s =>
    let n := streamNext s c
    if chState s c = 1 ∧ chMode s c = 2 ∧ dmaOn s = true ∧ (chOf s c).reads.length < 8 ∧ 0 < n then
      let d := getF s pPci PCI.CH_DPOS c
      let s := modCh c (fun x => { x with reads := x.reads ++ [(d, n)] }) s
      streamIssue c k (chProgress c (putF pPci PCI.CH_DPOS ((d + n) % 2 ^ 32) c s))
    else s

/-- The STREAM channels bound to a slot look at it again: CONS has moved (R377). -/
def streamWake (p i : Nat) (s : State) : State :=
  forAll ((List.range 16).filter (fun c => decide (chState s c = 1) && decide (chMode s c = 2)
    && decide (getF s pPci PCI.CH_CFG_BTILE c = p) && decide (getF s pPci PCI.CH_CFG_BSLOT c = i))) (fun c s => streamIssue c 8 s) s

/-- The BAR2 address of the unit at a position of a stream slot (R155). -/
def unitAddr (s : State) (p i pos : Nat) : Nat :=
  aperture (p - 0x10) + 0x100000 + 16 * (getF s p TMB.STRM_CFG_BASE i + pos % 2 ^ ringLog s (p - 0x10) i)

/-- Units from a position written to the ring, in at most two pieces (R377). -/
def storeUnits (p i pos : Nat) (bs : List Byte) (s : State) : State :=
  let ring := 2 ^ ringLog s (p - 0x10) i
  let k := 16 * (ring - pos % ring)
  let s := storeMem 3 (unitAddr s p i pos) (bs.take k) s
  if bs.length ≤ k then s else storeMem 3 (unitAddr s p i 0) (bs.drop k) s

/-- The data of a read of `n` units at `pos` written (R377, R381): units below CONS are discarded, STRM_FILL advances, and
every 256 units bring a writeback. -/
def streamData (c pos n : Nat) (bs : List Byte) (s : State) : State :=
  let p := getF s pPci PCI.CH_CFG_BTILE c
  let i := getF s pPci PCI.CH_CFG_BSLOT c
  let stale := min n (posAhead (getF s p TMB.STRM_CONS i) pos)
  let e := (pos + n) % 2 ^ 32
  let s := if stale < n then storeUnits p i ((pos + stale) % 2 ^ 32) ((bs.take (16 * n)).drop (16 * stale)) s else s
  let s := if 0 < posAhead e (getF s p TMB.STRM_FILL i) then putF p TMB.STRM_FILL e i s else s
  let s := addLines c ((n + 3) / 4) s
  let u := (chOf s c).units + (n - stale)
  let s := modCh c (fun x => { x with units := u % 256 }) s
  let s := if 256 ≤ u then writeback c s else s
  streamIssue c 8 (chProgress c s)

/-! ### Upload (R379) -/

/-- The records that a burst of a channel moves: bounded by 64, the source, the room in the host ring and the end of either
ring (R379). -/
def burstSize (s : State) (c : Nat) : Nat :=
  let d := getF s pPci PCI.CH_DPOS c
  let ring := chRing s c
  let room := ring - posDiff d (getF s pPci PCI.CH_HPOS c)
  let b := getF s pPci PCI.CH_CFG_BTILE c - 0x10
  let src := if chMode s c = 3 then min (resFill s b) (131072 - getF s (tilePage b) RDO.RES_RP % 131072) else s.esc.length
  min (min 64 src) (min room (ring - d % ring))

/-- A result record as the upload reads it: 0xFF throughout from a poisoned line (R379). -/
def uploadRecord (c a : Nat) (s : State) : List Byte × State :=
  if lineBad s a then
    (List.replicate 16 0xFF#8, incSat pPci PCI.CH_STAT_POIS c (detectLine 3 a s))
  else (rdList s a 16, s)

/-- `k` result records read from a ring position upward. -/
def uploadRecords (c b : Nat) : Nat → Nat → State → List Byte × State
  | 0, _, s => ([], s)
  | k + 1, pos, s =>
    let r := uploadRecord c (ringAddr b pos) s
    let t := uploadRecords c b k (pos + 1) r.2
    (r.1 ++ t.1, t.2)

end Sys2Proof.Machine
end

