-- ==== Sys2Proof/Machine/Drive.lean ====
section
/-!
DEFINITION. The commands of pulses, frames and streams: the start of a slot's pulse (R107 to R112, R149, R174, R189,
R249, R258), FRAME operations (R113 to R115, R169), BLANK (R128, R183) and the stream slots (R155 to R159, R378).
-/
namespace Sys2Proof.Machine

/-! ### Frames (R113) -/

/-- The frame phase of a tone: a Bobbin's in FRAME_PH, a probe tone's beside the registers. -/
def framePh (s : State) (b t : Nat) : Nat :=
  if isDrv b then getF s (tilePage b) DRV.FRAME_PH t else smGet 0 t (rdoOf s b).frames

/-- The state with a frame phase. -/
def setFrame (b t v : Nat) (s : State) : State :=
  if isDrv b then putF (tilePage b) DRV.FRAME_PH (v % 2 ^ 32) t s
  else modRdo b (fun r => { r with frames := smPut 0 t (v % 2 ^ 32) r.frames }) s

/-- The frame that a word's FRAME operation acts on (R113, R128). -/
def frameOf (b : Nat) (w : MWord) : Nat := w.frm + (if isRdo b ∧ bit w.aux 6 = 1 then 16 else 0)

/-- A FRAME operation of kind `fop` that acts at T (R113). -/
def frameAct (b fop : Nat) (g : REntry → State → State) (s : State) : State :=
  match readyAct s b .frame with
  | some e => if e.w.fop = fop then doneAct b e.t .frame (g e s) else s
  | none => s

/-- ADD: adds the frame-value entry modulo 2^32 at T (R113). -/
def execFrameAdd (b : Nat) (s : State) : Res1 :=
  .next (frameAct b 1 (fun e s => setFrame b (frameOf b e.w) (framePh s b (frameOf b e.w) + e.fv) s) s)

/-- SET: the frame phase becomes the entry at T (R113). -/
def execFrameSet (b : Nat) (s : State) : Res1 :=
  .next (frameAct b 2 (fun e s => setFrame b (frameOf b e.w) e.fv s) s)

/-- CADD: adds the entry at the successor's T, where the word's condition was true (R113, R115, R171). -/
def execFrameCadd (b : Nat) (s : State) : Res1 :=
  .next (deferredDue b (fun d => match d with
    | .cadd _ t v => some (fun s => setFrame b t (framePh s b t + v) s)
    | .fapply _ _ _ => none) s)

/-- The BLANK bits of a drive word in force from its T (R128, R183). -/
def execBlank (b : Nat) (s : State) : Res1 :=
  .next (withAct b .blank (fun e s => putF (tilePage b) DRV.STATUS_BLANK (e.w.aux % 4) 0 s) s)

/-! ### Pulses -/

/-- Whether a channel is enabled in force: TONE_CFG.EN or OUT_CFG.EN (R180, R258). -/
def chanOn (s : State) (b c : Nat) : Bool :=
  match tileKind b with
  | .drv => decide (getB s (tilePage b) DRV.TONE_CFG_EN c = 1)
  | .rdo => decide (getB s (tilePage b) RDO.TONE_CFG_EN c = 1)
  | .flx => decide (getB s (tilePage b) FLX.OUT_CFG_EN c = 1)

/-- The X or Z bit that a pulse latches (R174, R175, R195). -/
def latchBit (s : State) (b c bits : Nat) : Bool :=
  isDrv b && decide (getB s (tilePage b) DRV.TONE_CFG_PF_EN c = 1) && decide (bit bits c = 1)

/-- The records of a pulse of entry `pe` that starts on a channel at the T of the word at `addr`: slot code `f`. PULSE_TRUNC has four
bits for the channel (R162) and a read-out tile 32 tones: the record holds the channel modulo 16 (DESIGN CHOICE, log entry 83). -/
def pulseRecords (b c f t pe addr : Nat) (gap : Bool) (s : State) : State :=
  let p := tilePage b
  let s := if gap && gapRuns s b t then gapViolate b addr f s else s
  let s := if !peStream pe && decide (envUnits b < peStart pe + peLen pe) then errRec p 0x22 2 0 (addr + 2 ^ 16 * f) 0 s else s
  let s := if peStream pe && !isSet s p TMB.STRM_CFG_EN (peStart pe % 8) then errRec p 0x2C 2 (peStart pe % 8) addr 0 s else s
  let s := if chanOn s b c then s else errRec p 0x30 0 c addr 0 (irqBit p (if isFlx b then 9 else 11) s)
  match smFind c (tileOf s b).chans with
  | some ch =>
    if ch.t ≤ t ∧ t < ch.t + 4 * ch.len then errRec p 0x26 0 0 (addr + 2 ^ 16 * (c % 16)) 0 (incSat p TMB.TRUNC_CNT 0 s) else s
  | none => s

/-- The pulse of a slot starts (R174): its channel plays the entry read at release with what the tile latches at T. A
null entry starts nothing (R111). -/
def pulseStart (b c f pe : Nat) (sl : MSlot) (e : REntry) (s : State) : State :=
  if peLen pe = 0 then s
  else
    let s := pulseRecords b c f e.t pe e.addr (decide (e.w.bnd = 0) || decide (e.w.bnd = 15)) s
    let ch : Chan :=
      { t := e.t, len := peLen pe, start := peStart pe, stream := peStream pe, hold := peHold pe, amp := sl.amp, phs := sl.phs,
        conj := peConj pe, f := if isFlx b then 0 else framePh s b c, x := latchBit s b c (pauliX s b),
        z := latchBit s b c (pauliZ s b), addr := e.addr }
    modTile b (fun x => { x with
      chans := smSet c ch x.chans
      fetches := x.fetches.filter (fun r => !(decide (r.chan = c) && !r.stream && decide (r.pt < e.t) && decide (e.t ≤ r.t))) }) s

/-- A slot of a word at its T: SLOT A, or SLOT B where `second` (R107 to R110, R249). -/
def execPulseStart (b : Nat) (second : Bool) (s : State) : Res1 :=
  let f := if second then 2 else 1
  .next (withAct b (if second then .pulseB else .pulseA) (fun e s =>
    let s := if (rsvdCodes (tileKind b) e.w).contains f then wordRec b 0x20 e.addr f s else s
    if second && slotClash b e.w then wordRec b 0x21 e.addr 2 s
    else pulseStart b (slotChan b second e.w) f (if second then e.pb else e.pa) (if second then e.w.b else e.w.a) e s) s)

/-! ### Streams -/

/-- The effect of a write of STRM_FILL (R156, R378). -/
def strmFillWriteEffect (who : Requester) (b i v : Nat) (s : State) : State :=
  let p := tilePage b
  if decide (who = .host) && dmaBound s 2 p i then boundWrite p i s
    else
      let d := posDiff v (getF s p TMB.STRM_FILL i)
      if d = 0 ∨ 2 ^ 31 ≤ d then s
      else if 2 ^ ringLog s b i < posDiff v (getF s p TMB.STRM_CONS i) then errRec p 0x2D 0 i v 0 s
      else putF p TMB.STRM_FILL v i s

/-- A write of STRM_FILL (R156, R378). -/
def execStrmFillWrite (who : Requester) (b i v : Nat) (s : State) : Res1 :=
  let p := tilePage b
  .next (viaBus who p TMB.STRM_FILL i v (strmFillWriteEffect who b i v) s)

/-- The effect of a write of STRM_CFG (R155): a write that lands sets FILL and CONS to 0. -/
def strmCfgWriteEffect (who : Requester) (b i : Nat) (w : Word) (s : State) : State :=
  let p := tilePage b
  let o := TMB.STRM_CFG.off + 0x10 * i
  let lands := !sBlocked s who p o && !isSet s p HDR.LOCK_LK_CFG && !isSet s p HDR.LOCK_LK_ALL
  let s := writeReg who p o w s
  if lands then putF p TMB.STRM_FILL 0 i (putF p TMB.STRM_CONS 0 i s) else s

/-- A write of STRM_CFG (R155): a write that lands sets FILL and CONS to 0. -/
def execStrmCfgWrite (who : Requester) (b i : Nat) (w : Word) (s : State) : Res1 :=
  let p := tilePage b
  let o := TMB.STRM_CFG.off + 0x10 * i
  .next (busGate who p o (strmCfgWriteEffect who b i w) s)

/-- A unit of slot `i` played as zeros, with what the first one of the shot does (R158). -/
def underrun (b i : Nat) (s : State) : State :=
  let p := tilePage b
  let s := incSat p TMB.STRM_STAT_SKIP i (incSat p TMB.UNDR_CNT 0 s)
  if isSet s p TMB.TMB_STAT_UNDR then s
  else
    let s := irqBit p 2 (putF p TMB.STRM_STAT_UNDR 1 i (putF p TMB.TMB_STAT_UNDR 1 0 s))
    let s := errRec p 0x27 2 i (shotNum s b % 2 ^ 32) 0 s
    forAll (List.range 32) (fun r s => raiseMark r 0 s) s

/-- One stream unit judged: its bytes from the ring as a number, or zero (R157, R159). -/
def streamUnit (b i : Nat) (s : State) : Nat × State :=
  let p := tilePage b
  if !isSet s p TMB.STRM_CFG_EN i then (0, underrun b i s)
  else
    let pos := getF s p TMB.STRM_CONS i
    let d := posDiff (getF s p TMB.STRM_FILL i) pos
    let next := (pos + 1) % 2 ^ 32
    if 0 < d ∧ d < 2 ^ 31 then
      let a := aperture b + 0x100000 + 16 * (getF s p TMB.STRM_CFG_BASE i + pos % 2 ^ ringLog s b i)
      (rtRead s a 16, putF p TMB.STRM_CONS next i (rtTouch a s))
    else
      (0, dposFollow p i next (putF p TMB.STRM_FILL next i (putF p TMB.STRM_CONS next i (underrun b i s))))

/-- The next unit of a fetch run taken: the run moves on by one unit of 4 fc. -/
def fetchStep (r : FetchRun) (l : List FetchRun) : List FetchRun :=
  (l.map (fun x => if x = r then { x with t := x.t + 4, left := x.left - 1, src := if x.stream then x.src else x.src + 1 } else x)).filter
    (fun x => 0 < x.left)

/-- Whether the next unit of a run is still fetched: not where a released pulse replaces its own from that unit on (R149), and not
for a stopped tile that plays nothing any more, from 32 fc after its stop (R153). -/
def fetchLive (s : State) (b : Nat) (r : FetchRun) : Bool :=
  r.cuts.all (fun c => decide (r.t < c)) && (match (tileOf s b).ramp with
  | some x => decide (r.t < x.t0 + 32)
  | none => true)

/-- The fetch of the oldest stream unit that is due, 16 fc before its first sample's pin time (R157). -/
def execStreamUnitFetch (b : Nat) (s : State) : Res1 :=
  match (tileOf s b).fetches.find? (fun r => r.stream && decide (r.t ≤ now s + 16) && fetchLive s b r) with
  | some r =>
    let u := streamUnit b r.src s
    .next (modTile b (fun x => { x with
      fetches := fetchStep r x.fetches
      units := x.units ++ [{ chan := r.chan, pt := r.pt, t := r.t, data := u.1 }] }) (streamWake (tilePage b) r.src u.2))
  | none => .next s

end Sys2Proof.Machine
end

