-- ==== Sys2Proof/Machine/Capture.lean ====
section
/-!
DEFINITION. The capture path from ADC codes to window samples: the interleaved ADC and its correction (R198 to R202), the channelizer
(R203 to R205) and fine demodulation (R208, R209). The spec names the filters and gives no formulas: the order and the widths of
the arithmetic are this model's (DESIGN CHOICE, log entries 89 and 90).
-/
namespace Sys2Proof.Machine

/-! ### The ADC and its correction (R198, R200, R201) -/

/-- The interleave correction of a tile as it stands. -/
def ilNow (s : State) (b : Nat) : Il :=
  { t := now s, en := decide (getB s (tilePage b) RDO.ADC_CFG_IL_EN = 1)
    words := (List.range 16).map (fun k => rdWord s (RDO.ADC_IL.addr (tilePage b) k)) }

/-- The correction that a tile applies to the samples of fc `n`: the latest noted up to it, else the earliest noted, else the one in
force (R200). -/
def ilAt (s : State) (b n : Nat) : Il :=
  let l := (rdoOf s b).il
  ((l.find? (fun x => decide (x.t ≤ n))).orElse (fun _ => l.getLast?)).getD (ilNow s b)

/-- A 12-bit code of the ADC (R198). -/
def adcCode (c : Int) : Int := clampI (-2048) 2047 c

/-- A sample of sub-converter `k` corrected, in 2^-16 LSB, from its code and those on either side (R200): OFFS in 1/8 LSB is added,
GAIN in 2^-13 scales, and the term of a nonzero SKEW is the implementation's. -/
def ilCorrect (x : Il) (k : Nat) (prev c next : Int) : Int :=
  if x.en then
    let w := x.words.getD k 0#32
    let skew := toSigned 8 (RDO.ADC_IL_SKEW.of w)
    (8 * c + toSigned 8 (RDO.ADC_IL_OFFS.of w)) * (2 ^ 13 + toSigned 8 (RDO.ADC_IL_GAIN.of w))
      + (if skew = 0 then 0 else Config.skewTerm skew prev c next)
  else 2 ^ 16 * c

/-- A corrected sample within −2,048 to +2,047 LSB (R201). -/
def clipLsb (v : Int) : Int := clampI (-2048 * 2 ^ 16) (2047 * 2 ^ 16) v

/-- Codes of consecutive samples corrected, the first of index `m`, before the clip: sub-converter s takes the samples with
m ≡ s mod 16, eight of them in an fc (R198, R200). -/
def ilRun (il : Nat → Il) : Nat → Int → List Int → List Int
  | _, _, [] => []
  | m, prev, c :: l => ilCorrect (il (m / 8)) (m % 16) prev c (l.headD 0) :: ilRun il (m + 1) c l

/-- The samples that a run of codes from index `m` on gives, before the clip; a powered-down ADC delivers code 0 (R202). -/
def adcRun (s : State) (b m : Nat) (codes : List Int) : List Int :=
  if isSet s (tilePage b) RDO.ADC_CFG_PD then [] else ilRun (ilAt s b) m 0 (codes.map adcCode)

/-! ### The channelizer (R203 to R205) -/

/-- The nonzero taps of the prototype filter with their numbers, Q1.15 (R205). -/
def protoTaps (s : State) (b : Nat) : List (Nat × Int) :=
  (List.range 320).filterMap (fun j =>
    let v := toSigned 16 (rdBytes s (aperture b + 0x380000 + 2 * j) 2)
    if v = 0 then none else some (j, v))

/-- The equaliser value of a bin, Q2.14 (R205). -/
def equaliser (s : State) (b k : Nat) : Cplx :=
  let v := rdBytes s (aperture b + 0x380400 + 4 * k) 4
  { re := toSigned 16 v, im := toSigned 16 (v / 2 ^ 16) }

/-- The taps of a phase of the fractional-delay filter, Q1.15 (R205). -/
def fracTaps (s : State) (b ph : Nat) : List Int :=
  (List.range 8).map (fun d => toSigned 16 (rdBytes s (aperture b + 0x380800 + 2 * (8 * ph + d)) 2))

/-- The product of two complex values. -/
def cMul (x y : Cplx) : Cplx := { re := x.re * y.re - x.im * y.im, im := x.re * y.im + x.im * y.re }

/-- The sum of two complex values. -/
def cAdd (x y : Cplx) : Cplx := { re := x.re + y.re, im := x.im + y.im }

/-- e^(−jθ) in 2^-17 for an angle θ in 2^-20 turn, from the tables of R176. -/
def unitConj (p : Nat) : Cplx := { re := cosTab p, im := -sinTab p }

/-- The sample of bin `k` at the close of the 4 fc grid interval before fc `g`, from the ADC samples `x` of index `m0` on: the last 320
samples shifted down by the bin's centre, weighed by the prototype filter (R203, R204). -/
def binSample (x : Array Int) (m0 k : Nat) (taps : List (Nat × Int)) (g : Nat) : Cplx :=
  taps.foldl (fun a e =>
    if 8 * g < m0 + 1 + e.1 then a
    else
      let m := 8 * g - 1 - e.1
      let v := x.getD (m - m0) 0
      if v = 0 then a else cAdd a (cMul { re := e.2 * v } (unitConj (k * m % 64 * 2 ^ 14)))) {}

/-! ### Fine demodulation (R208, R209) -/

/-- The ADC samples that a window's samples can depend on start 68 fc before its opening: 40 fc of the prototype filter and eight
grid intervals of the fractional delay (R204, R205, R208). -/
def Win.from (w : Win) : Nat := w.o - 68

/-- The stream of a bin on the window's own grid (R208): sample `i` closes with fc O + 4 i + 3, and the phase of the fractional-delay
filter is the place of O on the grid of R203. `ys` are the bin samples of the grid points from `g0` on, in units of 4 fc. -/
def gridSample (ys : Array Cplx) (g0 : Nat) (frac : List Int) (o i : Nat) : Cplx :=
  let n := (o + 4 * i + 4) / 4
  (frac.mapIdx (fun d h =>
    let y : Cplx := if n < g0 + d then {} else ys.getD (n - d - g0) {}
    { re := h * y.re, im := h * y.im : Cplx })).foldl cAdd {}

/-- The angle in 2^-20 turn that brings window sample `i` of a tone to zero frequency and takes its frame phase off: the carrier of
R166 and the bin's centre at the last ADC sample of the window sample, and F (R208, R209). -/
def demodAngle (w : Win) (i : Nat) : Nat :=
  let m := 8 * (w.o + 4 * i + 4) - 1
  carrier w.ftw (2 * m) + w.bin * m % 64 * 2 ^ 14 + (w.f + 2 ^ 11) / 2 ^ 12

/-- A window sample within Q1.17 (R208). -/
def sat17 (z : Cplx) : Cplx := { re := clampI (-(2 ^ 17)) (2 ^ 17 - 1) z.re, im := clampI (-(2 ^ 17)) (2 ^ 17 - 1) z.im }

/-- A demodulated sample: the spectral inversion of R199 is removed by conjugation, the tone is rotated to zero frequency, and the
result is rounded once (R208, R209). The product stands in 2^-105. -/
def demod (y : Cplx) (angle : Nat) : Cplx :=
  let z := cMul { y with im := -y.im } (unitConj angle)
  sat17 { re := roundDiv z.re (2 ^ 88), im := roundDiv z.im (2 ^ 88) }

/-- The window samples z_i of an open window from the ADC codes of the fc from `w.from` on (R203 to R209); codes that are not given
count as zero. -/
def windowSamples (s : State) (b : Nat) (w : Win) (codes : List Int) : List Cplx :=
  let m0 := 8 * w.from
  let x := (adcRun s b m0 codes).map clipLsb
  if x.all (fun v => decide (v = 0)) then List.replicate w.klen {}
  else
    let g0 := (w.from + 3) / 4
    let taps := protoTaps s b
    let xs := x.toArray
    let ys := ((List.range ((w.o + 4 * w.klen) / 4 + 1 - g0)).map (fun n =>
      cMul (binSample xs m0 w.bin taps (4 * (g0 + n))) (equaliser s b w.bin))).toArray
    let frac := fracTaps s b (w.o % 4)
    (List.range w.klen).map (fun i => demod (gridSample ys g0 frac w.o i) (demodAngle w i))

/-- Whether an ADC sample of the window itself, from fc O on, is clipped (R201). -/
def windowClips (s : State) (b : Nat) (w : Win) (codes : List Int) : Bool :=
  ((adcRun s b (8 * w.from) codes).drop (8 * (w.o - w.from))).any (fun v => decide (clipLsb v ≠ v))

end Sys2Proof.Machine
end

