-- ==== Sys2Proof/Machine/Readout.lean ====
section
/-!
DEFINITION. The commands of 07_readout_capture and 08_readout_decisions: acquisition windows (R210 to R218), unmixing
(R221 to R226), discrimination with its decision and record (R227 to R238), the result ring (R240), statistics (R241 to
R243), the unmix matrix load (R224), channelizer readiness (R206) and ADC overrange (R201).
-/
namespace Sys2Proof.Machine

/-! ### Windows -/

/-- The windows of a tile with their sets. -/
def winsOf (s : State) (b : Nat) : List (MSet × Win) := ((rdoOf s b).sets.map (fun m => m.wins.map (fun w => (m, w)))).flatten

/-- A window, named by its set's T and its tone, changed. -/
def modWin (b mt tone : Nat) (g : Win → Win) (s : State) : State :=
  modRdo b (fun r => { r with sets := r.sets.map (fun m =>
    if m.t = mt then { m with wins := m.wins.map (fun w => if w.tone = tone then g w else w) } else m) }) s

/-- The closing fc of a window (R210). -/
def Win.close (w : Win) : Nat := w.o + 4 * w.klen

/-- WIN_DROP with its count and interrupt (R212, R221): `n` windows, ERR_INFO `info`. -/
def winDrop (b n tone info : Nat) (s : State) : State :=
  let p := tilePage b
  errRec p 0x36 2 tone info 0 (irqBit p 14 (addSat p RDO.WIN_DROP_CNT n 0 s))

/-- Taps of a kernel descriptor, limited to 4 to 2,048 (R215). -/
def kdTaps (w : Word) : Nat := max 4 (min 2048 (RDO.KDESC_KLEN.of w))

/-- The entry M[t][j] of the matrix in force, in Q2.14 (R223, R224). -/
def matAt (s : State) (b t j : Nat) : Cplx :=
  match (rdoOf s b).mat with
  | none => if t = j then { re := 0x4000 } else {}
  | some m => smGet {} (32 * t + j) m

/-- The row set of a tone (R222). -/
def rowSet (s : State) (b t : Nat) : List Nat :=
  if getB s (tilePage b) RDO.UNMIX_CFG_EN = 1 then
    (List.range 32).filter (fun j => decide (j = t) || decide (matAt s b t j ≠ {}))
  else [t]

/-- The tones that an ACQ word names: captured, and in its group (R210). -/
def acqTones (s : State) (b : Nat) (w : MWord) : List Nat :=
  let p := tilePage b
  (List.range 32).filter (fun t => getB s p RDO.RX_CFG_RX_EN t = 1 ∧ bit (getB s p RDO.RX_CFG_AGRP_MASK t) (w.aux / 2 % 4) = 1)

/-- Windows of a tone that are scheduled and not yet open (R212). -/
def pendWins (s : State) (b t : Nat) : Nat := ((winsOf s b).filter (fun e => e.2.tone = t ∧ e.2.st = .sched)).length

/-- The window that an ACQ word schedules for a tone (R210). -/
def schedWin (s : State) (b t : Nat) (e : REntry) : Win :=
  let p := tilePage b
  let k := e.w.aux / 8 % 4
  let d := inForce s (RDO.KDESC.addr p (4 * t + k))
  { tone := t, kset := k, o := e.t + getB s p RDO.RX_WIN_WIN_OFF t, klen := kdTaps d, desc := d, bin := getF s p RDO.RX_CFG_BIN t,
    ftw := toneFtw s b t, f := framePh s b t, wantRec := decide (bit e.w.aux 5 = 1), u := 0 }

/-- An ACQ word schedules its windows as one measurement set, or drops them (R210, R212, R221, R222). -/
def acquire (b : Nat) (e : REntry) (s : State) : State :=
  let all := acqTones s b e.w
  let ok := all.filter (fun t => pendWins s b t < 4)
  if all = [] then s
  else if (rdoOf s b).sets.length = 8 then winDrop b ok.length (ok.headD 0) (3 + 16 * e.addr) s
  else
    let ws := ok.map (fun t => schedWin s b t e)
    let ws := ws.map (fun w =>
      { w with u := ((ws.filter (fun v => v.tone ∈ rowSet s b w.tone)).map Win.close).foldl max 0 })
    let s := forAll (all.filter (fun t => ¬ pendWins s b t < 4)) (fun t s => winDrop b 1 t 2 s) s
    if ws = [] then s else showWins b (modRdo b (fun r => { r with sets := r.sets ++ [{ t := e.t, addr := e.addr, wins := ws }] }) s)

/-- An ACQ word at its T. -/
def execAcq (b : Nat) (s : State) : Res1 := .next (withAct b .acq (acquire b) s)

/-- The opening of a tone's oldest scheduled window at its O (R212, R213, R215). -/
def execWindowOpen (b t : Nat) (s : State) : Res1 :=
  let p := tilePage b
  match (winsOf s b).find? (fun e => decide (e.2.tone = t) && decide (e.2.st = .sched) && decide (e.2.o ≤ now s)) with
  | some (m, w) =>
    if (winsOf s b).any (fun e => decide (e.2.tone = t) && decide (e.2.st = .opened) && decide (w.o < e.2.close)) then
      .next (dropSets b (winDrop b 1 t 1 (modWin b m.t t (fun w => { w with st := .dropped, done := true }) s)))
    else
      let s := modWin b m.t t (fun w => { w with st := .opened }) (incSat p RDO.WIN_CNT 0 s)
      let s := if RDO.KDESC_BOX.of w.desc = 0 ∧ 0x80000 < 64 * RDO.KDESC_KBASE.of w.desc + 4 * w.klen
        then errRec p 0x35 0 t (2 + 16 * w.kset) 0 s else s
      let s := if gapRuns s b w.o then gapViolate b m.addr 8 s else s
      .next (showWins b s)
  | none => .next s

/-- The BAR2 address of a kernel's tap (R215). -/
def tapAddr (b : Nat) (d : Word) (i : Nat) : Nat := aperture b + 0x200000 + 64 * RDO.KDESC_KBASE.of d + 4 * i

/-- Tap `i` of a window's kernel in Q1.15: 1.0 with BOX, zero beyond the end of kernel memory (R215). -/
def tapOf (s : State) (b : Nat) (d : Word) (i : Nat) : Cplx :=
  if RDO.KDESC_BOX.of d = 1 then { re := 2 ^ 15 }
  else if 0x80000 ≤ 64 * RDO.KDESC_KBASE.of d + 4 * i then {}
  else
    let n := rtRead s (tapAddr b d i) 4
    { re := toSigned 16 n, im := toSigned 16 (n / 2 ^ 16) }

/-- sat24 of R216. -/
def sat24 (v : Int) : Int := clampI (-(2 ^ 23)) (2 ^ 23 - 1) v

/-- The exact complex sum of window samples (Q1.17) and taps (Q1.15). -/
def kernelSum (z k : List Cplx) : Cplx :=
  (List.zipWith (fun a b : Cplx => ({ re := a.re * b.re - a.im * b.im, im := a.re * b.im + a.im * b.re } : Cplx)) z k).foldl
    (fun a b => { re := a.re + b.re, im := a.im + b.im }) {}

/-- The pair that a window passes on, and its integration-saturation mark (R216). -/
def closePair (w : Win) (z : List Cplx) : Cplx × Bool :=
  let sum := kernelSum z w.taps
  let q := fun v : Int => roundDiv v (2 ^ (17 + RDO.KDESC_KSH.of w.desc))
  let i := q sum.re
  let j := q sum.im
  ({ re := sat24 i, im := sat24 j }, decide (sat24 i ≠ i) || decide (sat24 j ≠ j))

/-- A window's taps up to `n` of them, those it has not applied before as kernel memory holds them now (R217). -/
def withTaps (s : State) (b n : Nat) (w : Win) : Win :=
  { w with taps := w.taps ++ ((List.range (min n w.klen)).drop w.taps.length).map (tapOf s b w.desc) }

/-- The lines that the taps which a window has still to apply, up to `n` of them, stand in. -/
def tapLines (b n : Nat) (w : Win) : List Nat :=
  if RDO.KDESC_BOX.of w.desc = 1 then []
  else (((List.range (min n w.klen)).drop w.taps.length).map (fun i => lineOf (tapAddr b w.desc i))).eraseDups.filter
    (fun a => a < aperture b + 0x280000)

/-- The taps that a window applies in the fc at hand: tap `i` in the last fc of window sample `i` (R217; DESIGN CHOICE, log entry 90). -/
def applyTaps (b mt : Nat) (w : Win) (s : State) : State :=
  let n := (now s + 1 - w.o) / 4
  if n ≤ w.taps.length ∨ w.klen ≤ w.taps.length then s
  else modWin b mt w.tone (fun _ => withTaps s b n w) (forAll (tapLines b n w) rtTouch s)

/-- The close of a tone's open window at its C (R216): `codes` are the codes that the ADC has taken since 68 fc before its O. -/
def execWindowClose (b t : Nat) (codes : List Int) (s : State) : Res1 :=
  match (winsOf s b).find? (fun e => decide (e.2.tone = t) && decide (e.2.st = .opened) && decide (e.2.close ≤ now s)) with
  | some (m, w) =>
    let v := withTaps s b w.klen w
    let r := closePair v (windowSamples s b w codes)
    let ovr := w.ovr || windowClips s b w codes
    let s := forAll (tapLines b w.klen w) rtTouch s
    .next (showWins b (modWin b m.t t (fun _ => { v with st := .closed, ovr := ovr, isat := r.2, pair := r.1 }) s))
  | none => .next s

/-- Whether one of the eight ADC samples of the fc at hand is clipped (R201): `codes` are those of the fc, with the one before it in
front and the one after it behind. -/
def adcClips (s : State) (b : Nat) (codes : List Int) : Bool :=
  (((adcRun s b (8 * now s - 1) codes).drop 1).take 8).any (fun v => decide (clipLsb v ≠ v))

/-- An fc with a clipped ADC sample (R201). -/
def execAdcOverrange (fc : AdcFc) (s : State) : Res1 :=
  let b := fc.tile
  let p := tilePage b
  if !(isRdo b && tilePresent s b) || !adcClips s b fc.codes then .next s
  else
    let s := irqBit p 9 (putF p RDO.ADC_STAT_OVR 1 0 (incSat p RDO.ADC_OVR_CNT 0 s))
    let n := now s
    let s := modRdo b (fun r => { r with sets := r.sets.map (fun m => { m with wins := m.wins.map (fun w =>
      if w.st = .opened ∧ w.o ≤ n ∧ n < w.close then { w with ovr := true } else w) }) }) s
    let s := modCal b (fun c => { c with blockOvr := true }) s
    if bit (rdoOf s b).once 2 = 1 then .next s
    else .next (errRec p 0x34 0 0 (shotNum s b % 2 ^ 32) 0 (modRdo b (fun r => { r with once := setBit r.once 2 }) s))

/-! ### Unmixing (R222 to R226) -/

/-- The pair of a tone in a set, where its window has one: closed and not dropped (R225). -/
def setPair (m : MSet) (j : Nat) : Option Win := m.wins.find? (fun w => decide (w.tone = j) && decide (w.st = .closed))

/-- The unmixed pair of a row before rounding, in 2^-14 (R223). -/
def unmixSum (s : State) (b t : Nat) (m : MSet) (row : List Nat) : Cplx :=
  row.foldl (fun a j =>
    let u := ((setPair m j).map (fun w => w.pair)).getD {}
    let k := matAt s b t j
    { re := a.re + (k.re * u.re - k.im * u.im), im := a.im + (k.re * u.im + k.im * u.re) }) {}

/-- The unmix of a tone at U + 16 (R222, R223, R225, R226). -/
def execUnmix (b t : Nat) (s : State) : Res1 :=
  let p := tilePage b
  match (winsOf s b).find? (fun e => decide (e.2.tone = t) && decide (e.2.st = .closed) && e.2.unmixed.isNone && !e.2.done
      && decide (e.2.u + 16 ≤ now s)) with
  | some (m, w) =>
    let row := rowSet s b t
    if m.wins.any (fun v => decide (v.tone ∈ row) && (decide (v.st = .opened) || decide (v.st = .sched)) && decide (v.close ≤ w.u))
    then .next s
    else
      let en := decide (getB s p RDO.UNMIX_CFG_EN = 1)
      let sum := unmixSum s b t m row
      let v : Cplx := if en then { re := roundDiv sum.re (2 ^ 14), im := roundDiv sum.im (2 ^ 14) } else w.pair
      let usat := decide (sat24 v.re ≠ v.re) || decide (sat24 v.im ≠ v.im)
      let missing := row.filter (fun j => (setPair m j).isNone)
      let any := fun f : Win → Bool => row.any (fun j => ((setPair m j).map f).getD false)
      let part := decide (missing ≠ [])
      let s := modWin b m.t t (fun w => { w with unmixed := some { re := sat24 v.re, im := sat24 v.im }, usat := usat, part := part,
                                                 rovr := any (fun w => w.ovr), risat := any (fun w => w.isat) }) s
      if !part then .next s
      else
        let s := irqBit p 19 (incSat p RDO.UNMIX_STAT_PART_CNT 0 s)
        if bit (rdoOf s b).once 1 = 1 then .next s
        else .next (errRec p 0x3A 0 t (missing.headD 0) 0 (modRdo b (fun r => { r with once := setBit r.once 1 }) s))
  | none => .next s

/-! ### Discrimination (R227 to R243) -/

/-- The geometry of a tone as the discriminator takes it (R227 to R230). -/
structure Geom where
  c : List Cplx
  spr : List Nat
  lowcTh : Nat
  leakD : Nat
  track : Bool
  deriving DecidableEq, Repr

/-- The geometry of nine words: DISC_W0 to DISC_W7 and DEC_CFG. -/
def geomOf (ws : List Word) : Geom :=
  let w := fun n => ws.getD n 0#32
  let s24 := toSigned 24
  let ssh := RDO.DISC_W2_SSH.of (w 2)
  let spr := fun n : Nat => (if n = 0 then 1 else n) * 2 ^ ssh
  { c := [{ re := s24 (RDO.DISC_W0_C0_I.of (w 0)), im := s24 (RDO.DISC_W1_C0_Q.of (w 1)) },
          { re := s24 (RDO.DISC_W2_C1_I.of (w 2)), im := s24 (RDO.DISC_W3_C1_Q.of (w 3)) },
          { re := s24 (RDO.DISC_W4_C2_I.of (w 4)), im := s24 (RDO.DISC_W5_C2_Q.of (w 5)) }]
    spr := [spr (RDO.DISC_W6_SPR0.of (w 6)), spr (RDO.DISC_W6_SPR1.of (w 6)), spr (RDO.DISC_W7_SPR2.of (w 7))]
    lowcTh := RDO.DISC_W0_LOWC_TH.of (w 0)
    leakD := RDO.DISC_W1_LEAK_D.of (w 1)
    track := decide (RDO.DISC_W3_TRACK.of (w 3) = 1) }

/-- d_k in 2^-8, saturating (R227). -/
def distOf (g : Geom) (v : Cplx) (k : Nat) : Nat :=
  let c := g.c.getD k {}
  let d := ((v.re - c.re) ^ 2 + (v.im - c.im) ^ 2).toNat
  let sg := g.spr.getD k 1
  min (2 ^ 8 * d / (sg * sg)) (2 ^ 32 - 1)

/-- The enabled classes of a CLS field; 0b000 is taken as 0b011 (R228). -/
def classesOf (cls : Nat) : List Nat := (List.range 3).filter (fun k => bit (if cls = 0 then 3 else cls) k = 1)

/-- The class with the least distance, a tie to the lower number, with its distance (R228). -/
def bestClass (g : Geom) (v : Cplx) (ks : List Nat) : Nat × Nat :=
  ks.foldl (fun a k => if distOf g v k < a.2 then (k, distOf g v k) else a) (ks.headD 0, distOf g v (ks.headD 0))

/-- CONF: with one class 255, else eight times the gap of the two least distances (R229). -/
def confOf (g : Geom) (v : Cplx) (ks : List Nat) : Nat :=
  let best := bestClass g v ks
  match ks.filter (fun k => k ≠ best.1) with
  | [] => 255
  | r => min 255 (((bestClass g v r).2 - best.2) / 32)

/-- What discrimination finds for an unmixed pair (R228 to R230): state, confidence, LEAK, LOWC, and whether the point is an
outlier of its class. -/
structure Verdict where
  st : Nat
  conf : Nat
  leak : Bool
  lowc : Bool
  outlier : Bool
  deriving DecidableEq, Repr

/-- The verdict of a geometry on a pair; `flagged` that the result carries OVR, ISAT, USAT or PART. -/
def judge (g : Geom) (cls : Nat) (v : Cplx) (flagged : Bool) : Verdict :=
  let ks := classesOf cls
  let best := bestClass g v ks
  let conf := confOf g v ks
  let out := decide (g.leakD ≠ 0) && decide (256 * g.leakD < best.2)
  { st := best.1, conf := conf, leak := decide (best.1 = 2) || out, lowc := decide (conf < g.lowcTh) || flagged, outlier := out }

/-- The X bit that frame correction uses (R232). -/
def frameX (s : State) (dec : Word) (u : Nat) : Nat :=
  if RDO.DEC_CFG_PF_EN.of dec = 1 ∧ tileUsable s (RDO.DEC_CFG_PF_TILE.of dec) = true
  then pauliAt s (RDO.DEC_CFG_PF_TILE.of dec) (RDO.DEC_CFG_PF_TONE.of dec) u else 0

/-- Ground and excited exchanged while X = 1 (R118, R232). -/
def exchange (x st : Nat) : Nat := if x = 1 ∧ st < 2 then 1 - st else st

/-- The 16 bytes of a result record (R234). -/
def resultBytes (w : Win) (v : Cplx) (k : Verdict) (x : Nat) (pre invalid : Bool) (shot : Nat) : List Byte :=
  let iq : Cplx := if pre then w.pair else v
  toBytes (ofSigned 24 iq.re) 3 ++ toBytes (ofSigned 24 iq.im) 3 ++ toBytes shot 6
    ++ toBytes w.tone 1
    ++ toBytes (k.st + 4 * exchange x k.st + 16 * x + 32 * ofBool k.leak + 64 * ofBool k.lowc + 128 * ofBool invalid) 1
    ++ toBytes k.conf 1
    ++ toBytes (ofBool w.rovr + 2 * ofBool w.risat + 4 * ofBool w.usat + 8 * ofBool w.part + 16 * ofBool pre + 32 * w.kset) 1

/-- A result record written, or dropped where FILL exceeds 131,070 (R238). -/
def putResult (b t : Nat) (bytes : List Byte) (s : State) : State :=
  let p := tilePage b
  if ringTaken s b ≤ 131070 then ringPut b bytes s
  else
    let s := irqBit p 16 (putF p RDO.RES_STAT_DROP 1 0 (incSat p RDO.RES_DROP 0 s))
    if bit (rdoOf s b).once 0 = 1 then s
    else errRec p 0x38 2 t (shotNum s b % 2 ^ 32) 0 (modRdo b (fun r => { r with once := setBit r.once 0 }) s)

/-- The shot that a window's result belongs to and the causes of its invalid mark: those of U + 21 (R43, R154, R213). -/
def shotOf (s : State) (b : Nat) (w : Win) : Nat × Nat := w.shot.getD (shotNum s b, (rdoOf s b).mark)

/-- A result enters its tone's statistics (R241 to R243): staged for the open shot; committed at once, or discarded, with a shot that
has ended since its U + 21, or after a stop with the shot of the stop (R214). -/
def enterStat (b t : Nat) (w : Win) (x : ToneStat) (s : State) : State :=
  match w.shot, (rdoOf s b).post with
  | some e, _ => if e.2 = 0 then statCommit b t x s else s
  | none, some true => s
  | none, some false => statCommit b t x s
  | none, none => modRdo b (fun r => { r with staged := smSet t (statAdd (smGet {} t r.staged) x) r.staged }) s

/-- The contribution of a result (R242, R243). -/
def contribution (w : Win) (v : Cplx) (k : Verdict) (x : Nat) (dec : Word) : ToneStat :=
  let iq : Cplx := if RDO.DEC_CFG_PRE.of dec = 1 then w.pair else v
  let h := if RDO.DEC_CFG_HCORR.of dec = 1 then exchange x k.st else k.st
  { cnt := 1, i := iq.re, q := iq.im, h0 := ofBool (decide (h = 0)), h1 := ofBool (decide (h = 1)), h2 := ofBool (decide (h = 2)),
    h3 := ofBool k.lowc }

/-- Whether a result is tracked (R400); a frozen CAL page holds its estimators (R405). -/
def tracked (s : State) (b : Nat) (w : Win) (g : Geom) (k : Verdict) (flagged : Bool) : Bool :=
  g.track && !flagged && decide ((shotOf s b w).2 = 0) && decide (getF s 0x39 CAL.DISC_CFG_CONF_MIN ≤ k.conf)
    && !isSet s 0x39 HDR.CTRL_FREEZE

/-- A tone classified, published, recorded and counted (R227 to R243, R400). -/
def discriminate (b : Nat) (m : MSet) (w : Win) (v : Cplx) (s : State) : State :=
  let t := w.tone
  let ws := w.geo.getD (geometry s b t)
  let dec := ws.getD 8 0#32
  let g := geomOf ws
  let flagged := w.rovr || w.risat || w.usat || w.part
  let k := judge g (RDO.DEC_CFG_CLS.of dec) v flagged
  let x := frameX s dec w.u
  let s := if RDO.DEC_CFG_PUB.of dec = 1 then
      publish (w.u + 21) 1 (b - 16) t 0 (RDO.DEC_CFG_SLOT.of dec) { val := k.st, leak := k.leak, lowc := k.lowc, ndet := false } s
    else s
  let s := if w.wantRec then
      putResult b t (resultBytes w v k x (decide (RDO.DEC_CFG_PRE.of dec = 1)) (decide ((shotOf s b w).2 ≠ 0)) (shotOf s b w).1) s
    else s
  let s := if RDO.DEC_CFG_STAT.of dec = 1 then enterStat b t w (contribution w v k x dec) s else s
  let s := if tracked s b w g k flagged then trackAdd b t k.st v (g.c.getD k.st {}) k.outlier s else s
  dropSets b (modWin b m.t t (fun w => { w with done := true }) s)

/-- Whether a window's discrimination has its turn: results go by fc and within an fc by tone, and behind the shot boundaries of that
fc (R43, R106, R237, R265). -/
def discTurn (s : State) (b : Nat) (w : Win) : Bool :=
  !(winsOf s b).any (fun e => !e.2.done && e.2.unmixed.isSome
      && (decide (e.2.u < w.u) || (decide (e.2.u = w.u) && decide (e.2.tone < w.tone))))
    && !(tileOf s b).released.any (fun e => decide (e.t ≤ w.u + 21) && decide (.boundary ∈ e.todo)) && !devDue s (w.u + 21)

/-- The discrimination of a tone at U + 21 (R222). -/
def execDiscrimination (b t : Nat) (s : State) : Res1 :=
  match (winsOf s b).find? (fun e => decide (e.2.tone = t) && !e.2.done && e.2.unmixed.isSome && decide (e.2.u + 21 ≤ now s)
      && discTurn s b e.2) with
  | some (m, w) => .next (discriminate b m w (w.unmixed.getD {}) s)
  | none => .next s

/-! ### The result ring and statistics as registers -/

/-- RES_RP moved to `v` (R240). -/
def takeResults (b v : Nat) (s : State) : State := showFill b (putF (tilePage b) RDO.RES_RP v 0 s)

/-- The effect of a write of RES_RP (R240, R380). -/
def resRpWriteEffect (b v : Nat) (s : State) : State :=
  let p := tilePage b
  if dmaBound s 3 p 0 then boundWrite p 0 s
    else if posDiff v (getF s p RDO.RES_RP) ≤ resFill s b then takeResults b v s
    else errRec p 0x39 0 0 v 0 s

/-- A write of RES_RP (R240, R380). -/
def execResRpWrite (who : Requester) (b v : Nat) (s : State) : Res1 :=
  let p := tilePage b
  .next (viaBus who p RDO.RES_RP 0 v (resRpWriteEffect b v) s)

/-- A histogram bin of a tone. -/
def ToneStat.bin (x : ToneStat) (n : Nat) : Nat := if n = 0 then x.h0 else if n = 1 then x.h1 else if n = 2 then x.h2 else x.h3

/-- The effect of a write of CLR_ALL clears the statistics of every tone (R241); what the open shot has staged stays staged. -/
def statClrAllEffect (b : Nat) (s : State) : State :=
  forAll (List.range 32) (showStat b) (modRdo b (fun r => { r with stats := [], satRec := [] }) s)

/-- A write of CLR_ALL clears the statistics of every tone (R241); what the open shot has staged stays staged. -/
def execStatClrAll (who : Requester) (b : Nat) (s : State) : Res1 :=
  .next (viaBus who (tilePage b) RDO.STAT_SEL_CLR_ALL (reqIdx who) 1 (statClrAllEffect b) s)

/-! ### Channelizer and unmix matrix -/

/-- The bytes of the coefficient region as Hoop firmware leaves them (R205, R206): reserved places and the equaliser entries
of bins that no tone names are zero. -/
def coefBytes (s : State) (b : Nat) (bs : List Byte) : List Byte :=
  let named := fun k => (List.range 32).any (fun t => decide (getF s (tilePage b) RDO.RX_CFG_BIN t = k))
  (List.range 0x840).map (fun o =>
    if o < 0x280 ∨ 0x800 ≤ o ∨ (0x404 ≤ o ∧ o < 0x480 ∧ named ((o - 0x400) / 4) = true) then bs.getD o 0#8 else 0#8)

/-- The coefficients of a tile written by Hoop firmware, and READY (R206). -/
def chanCoef (b : Nat) (bs : List Byte) (s : State) : State :=
  putF (tilePage b) RDO.CHAN_STAT_READY 1 0 (storeMem 2 (aperture b + 0x380000) (coefBytes s b bs) s)

/-- Hoop firmware has recomputed a tile's coefficients and sets READY (R206). `bs` is what it computed. -/
def execChanCoefRecompute (b : Nat) (bs : List Byte) (s : State) : Res1 :=
  if isRdo b && tilePresent s b && !isSet s (tilePage b) RDO.CHAN_STAT_READY then
    .next (chanCoef b bs s)
  else .next s

/-- The effect of a write of UNMIX_CFG (R224): one that lands starts a load of the matrix from the MBASE it names. -/
def unmixCfgWriteEffect (who : Requester) (b : Nat) (w : Word) (s : State) : State :=
  let p := tilePage b
  let lands := !isSet s p HDR.LOCK_LK_CFG && !isSet s p HDR.LOCK_LK_ALL
  let s := writeReg who p RDO.UNMIX_CFG.off w s
  if lands && isRdo b then
    putF p RDO.UNMIX_STAT_LOADING 1 0 (modRdo b (fun r => { r with loading := some (RDO.UNMIX_CFG_MBASE.of w) }) s)
  else s

/-- A write of UNMIX_CFG (R224): one that lands starts a load of the matrix from the MBASE it names. -/
def execUnmixCfgWrite (who : Requester) (b : Nat) (w : Word) (s : State) : Res1 :=
  let p := tilePage b
  .next (busGate who p RDO.UNMIX_CFG.off (unmixCfgWriteEffect who b w) s)

/-- The lines of kernel memory that a load reads (R224). -/
def matLines (b base : Nat) : List Nat :=
  ((List.range 64).filter (fun i => base + i < 8192)).map (fun i => aperture b + 0x200000 + 64 * (base + i))

/-- The matrix that stands in kernel memory at a base, its zero entries left out (R224). -/
def readMatrix (s : State) (b base : Nat) : SMap Cplx :=
  (List.range 1024).filterMap (fun n =>
    let o := 64 * base + 4 * n
    let v := if o < 0x80000 then rdBytes s (aperture b + 0x200000 + o) 4 else 0
    if v = 0 then none else some (n, { re := toSigned 16 v, im := toSigned 16 (v / 2 ^ 16) }))

/-- The end of a matrix load (R224): it fails at a poisoned line, waits for a line in recovery, and else takes effect at the
tile's next shot boundary, or at once on a stopped tile. A frozen page holds it (R83). -/
def execUnmixLoadComplete (b : Nat) (s : State) : Res1 :=
  let p := tilePage b
  match (if isSet s p HDR.CTRL_FREEZE then none else (rdoOf s b).loading) with
  | none => .next s
  | some base =>
    let s := forAll ((matLines b base).filter (fun a => lineBad s a && !(lineSt s a).poison)) (fun a s => detectLine 4 a s) s
    let past := fun s => if 8192 < base + 64 then errRec p 0x35 0 0 (3 + 2 ^ 16 * base) 0 s else s
    match (matLines b base).find? (fun a => (lineSt s a).poison) with
    | some a =>
      let s := putF p RDO.UNMIX_STAT_LOADING 0 0 (putF p RDO.UNMIX_STAT_FAIL 1 0 (modRdo b (fun r => { r with loading := none }) s))
      .next (errRec p 0x3D 2 0 0 a (detectLine 4 a (past s)))
    | none =>
      if (matLines b base).any (lineBad s) then .next s
      else
        let s := past s
        let s := modRdo b (fun r => { r with loading := none, matNext := some (readMatrix s b base), matNextBase := base }) s
        let s := putF p RDO.UNMIX_STAT_LOADING 0 0 (putF p RDO.UNMIX_STAT_SWAP_PEND 1 0 (putF p RDO.STATUS_SWAP_PEND 1 0 s))
        .next (if tileRunning s b then s else unmixSwap b (stageTile s b).mat s)

end Sys2Proof.Machine
end

