-- ==== Sys2Proof/Machine/Flux.lean ====
section
/-!
DEFINITION. The commands of 09_flux_path: the write of OUT_CFG and the coefficient load it starts (R253), and the latch of
a shorted output (R257).
-/
namespace Sys2Proof.Machine

/-- The effect of a write of OUT_CFG (R253, R257): one that lands starts a load of the bank it names; RANGE 0b11 is not taken and sets
CFG_BUSY. -/
def outCfgWriteEffect (who : Requester) (b k : Nat) (w : Word) (s : State) : State :=
  let p := tilePage b
  let o := FLX.OUT_CFG.off + 0x10 * k
  let lands := !isSet s p HDR.LOCK_LK_CFG && !isSet s p HDR.LOCK_LK_ALL
  let s := writeReg who p o w s
  if !isFlx b then s
  else
    let s := if FLX.OUT_CFG_RANGE.of w = 3 then cfgBusy p s else s
    if lands then
      putF p FLX.OUT_STAT_LOADING 1 k (setFlux b k { fluxOf s b k with loading := some (FLX.OUT_CFG_BANK.of w) } s)
    else s

/-- A write of OUT_CFG (R253, R257): one that lands starts a load of the bank it names; RANGE 0b11 is not taken and sets
CFG_BUSY. -/
def execOutCfgWrite (who : Requester) (b k : Nat) (w : Word) (s : State) : Res1 :=
  let p := tilePage b
  let o := FLX.OUT_CFG.off + 0x10 * k
  .next (busGate who p o (outCfgWriteEffect who b k w) s)

/-- The BAR2 address of a coefficient bank (R252). -/
def coefAddr (b k bank : Nat) : Nat := aperture b + 0x380000 + 0x400 * k + 0x100 * bank

/-- The coefficients that stand in a bank (R252). -/
def readBank (s : State) (b k bank : Nat) : Coef :=
  let a := coefAddr b k bank
  { a := (List.range 4).map (fun i => rdBytes s (a + 8 * i) 4)
    k := (List.range 4).map (fun i => toSigned 24 (rdBytes s (a + 8 * i + 4) 3))
    h := (List.range 32).map (fun j => toSigned 16 (rdBytes s (a + 0x40 + 2 * j) 2)) }

/-- The end of a coefficient load (R253): it fails at a poisoned line, waits for a line in recovery, and else takes effect
at the tile's next shot boundary, or at once on a stopped tile. A frozen page holds it (R83). -/
def execCorrLoadComplete (b k : Nat) (s : State) : Res1 :=
  let p := tilePage b
  match (if isSet s p HDR.CTRL_FREEZE then none else (fluxOf s b k).loading) with
  | none => .next s
  | some bank =>
    let ls := [coefAddr b k bank, coefAddr b k bank + 0x40]
    let s := forAll (ls.filter (fun a => lineBad s a && !(lineSt s a).poison)) (fun a s => detectLine 4 a s) s
    match ls.find? (fun a => (lineSt s a).poison) with
    | some a =>
      let s := putF p FLX.OUT_STAT_LOADING 0 k (putF p FLX.OUT_STAT_FAIL 1 k (setFlux b k { fluxOf s b k with loading := none } s))
      .next (errRec p 0x32 2 k bank a (irqBit p 10 (detectLine 4 a s)))
    | none =>
      if ls.any (lineBad s) then .next s
      else
        let s := setFlux b k { fluxOf s b k with loading := none, coefNext := some (readBank s b k bank), nextBank := bank } s
        let s := putF p FLX.STATUS_SWAP_PEND (setBit (getF s p FLX.STATUS_SWAP_PEND) k) 0 (putF p FLX.OUT_STAT_LOADING 0 k s)
        .next (if tileRunning s b then s else fluxSwap b k ((fluxOf s b k).coefNext.map (fun c => (c, (fluxOf s b k).nextBank))) s)

/-- An output has limited its current for 256 consecutive fc: it latches off (R257). -/
def execOutShort (b k : Nat) (s : State) : Res1 :=
  let p := tilePage b
  if isFlx b && tilePresent s b && !isSet s p FLX.OUT_STAT_SHORT k && !isSet s p FLX.OUT_CFG_PD k then
    .next (errRec p 0x34 2 k (shotNum s b % 2 ^ 32) 0 (irqBit p 13 (putF p FLX.OUT_STAT_SHORT 1 k s)))
  else .next s

end Sys2Proof.Machine
end

