-- ==== Sys2Proof/Machine/Samples.lean ====
section
/-!
DEFINITION. What the converters do in a fabric cycle: envelope fetch (R112, R164), baseband samples and carriers (R166, R172 to R176),
interpolation (R178), DAC codes (R180 to R183, R195), the correction chain and codes of flux outputs (R247 to R256), and the
levels of the pattern pins (R465, R466).
-/
namespace Sys2Proof.Machine

/-! ### Envelope units (R112, R164) -/

/-- A unit of a non-stream pulse as it stands in envelope memory; past the end of the memory it is zero (R112). -/
def envUnit (b src : Nat) (s : State) : Nat × State :=
  let a := aperture b + 0x100000 + 16 * src
  if src < envUnits b then (rtRead s a 16, rtTouch a s) else (0, s)

/-- One unit of a fetch run taken. -/
def envFetch (b : Nat) (r : FetchRun) (s : State) : State :=
  let u := envUnit b r.src s
  modTile b (fun x => { x with
    fetches := fetchStep r x.fetches
    units := x.units ++ [{ chan := r.chan, pt := r.pt, t := r.t, data := u.1 }] }) u.2

/-- The non-stream units of a tile that are due, 16 fc before their first sample's pin time (R164). -/
def fetchDue (b : Nat) (s : State) : State :=
  forAll ((tileOf s b).fetches.filter (fun r => !r.stream && decide (r.t ≤ now s + 16) && fetchLive s b r)) (envFetch b) s

/-- Sample `i` of a channel's stream counted from the pulse's T, `per` samples to a unit: the unit's data and the sample's
place in it. After the last unit the last sample is held under HOLD; nothing else plays (R111, R173). -/
def streamAt (x : Tile) (per c i : Nat) (ch : Chan) : Option (Nat × Nat) :=
  let n := per * ch.len
  let j := if i < n then i else n - 1
  if i < n ∨ ch.hold = true then
    (x.units.find? (fun u => decide (u.chan = c) && decide (u.pt = ch.t) && decide (u.t = ch.t + 4 * (j / per)))).map
      (fun u => (u.data, j % per))
  else none

/-- Units kept after fc `n`: those with samples to come, and the last unit of a pulse that is held. -/
def unitLives (x : Tile) (n : Nat) (u : EnvUnit) : Bool :=
  decide (n + 1 < u.t + 4) || (match smFind u.chan x.chans with
    | some ch => ch.hold && decide (ch.t = u.pt) && decide (u.t + 4 = ch.t + 4 * ch.len)
    | none => false)

/-! ### Baseband (R172 to R176) -/

/-- Complex sample `i` of a drive or probe unit (R172). -/
def unitIQ (data i : Nat) : Cplx := { re := toSigned 16 (data / 2 ^ (32 * i)), im := toSigned 16 (data / 2 ^ (32 * i + 16)) }

/-- The limits of Q2.16 (R176). -/
def satQ216 (v : Int) : Int := clampI (-(2 ^ 17)) (2 ^ 17 - 1) v

/-- The rotation angle of a pulse in 2^-20 turn (R176). -/
def pulseAngle (ch : Chan) : Nat :=
  let phi := (ch.f + ch.phs * 2 ^ 20) % 2 ^ 32
  let phi := if ch.x then (2 ^ 32 - phi) % 2 ^ 32 else phi
  let phi := if ch.z then phi + 2 ^ 31 else phi
  (phi % 2 ^ 32 + 2 ^ 11) / 2 ^ 12 % 2 ^ 20

/-- The baseband sample of an envelope sample under a pulse (R176). -/
def baseband (ch : Chan) (e : Cplx) : Cplx :=
  let e := if ch.conj then { e with im := -e.im } else e
  let e := if ch.x then { e with im := -e.im } else e
  let p := pulseAngle ch
  let c := cosTab p
  let sn := sinTab p
  { re := satQ216 (roundDiv (ch.amp * (e.re * c - e.im * sn)) (2 ^ 25))
    im := satQ216 (roundDiv (ch.amp * (e.re * sn + e.im * c)) (2 ^ 25)) }

/-- The baseband sample of a tone in fc `n`. -/
def toneBase (x : Tile) (t n : Nat) : Cplx :=
  match smFind t x.chans with
  | some ch => match streamAt x 4 t (n - ch.t) ch with
    | some (d, i) => baseband ch (unitIQ d i)
    | none => {}
  | none => {}

/-- The six newest baseband samples of a tone with the sample of fc `n` in front; nothing is listed once all are zero. -/
def basePush (n t : Nat) (x : Tile) : Tile :=
  let h := (toneBase x t n :: smGet [] t x.bHist).take 6
  { x with bHist := if h.all (fun c => decide (c = {})) then smErase t x.bHist else smSet t h x.bHist }

/-! ### Interpolation, mixing and codes (R178, R180, R181) -/

/-- Tap `n` of the 96 of the interpolation filter: tap 16 d + k weighs, in sample k of an fc, the baseband sample of d fc before.
Linear phase makes the taps mirror about the middle, and unity gain at 0 Hz fixes the two middle ones: all taps sum to 16 (R178). -/
def fir (n : Nat) : Int :=
  let m := min n (95 - n)
  if m = 47 then 8 * 2 ^ Config.firBits - ((List.range 47).map Config.firTap).sum else Config.firTap m

/-- Interpolated sample `k` of an fc from one component of the last six baseband samples, newest first (R178). Zeros interpolate to
zero whatever the taps are. -/
def interp (k : Nat) (h : List Int) : Int :=
  if h.all (fun v => decide (v = 0)) then 0
  else satQ216 (roundDiv ((h.mapIdx (fun d v => fir (16 * d + k) * v)).sum) (2 ^ Config.firBits))

/-- What a tone contributes at sample `k` of fc `n`, in 2^-63 (R180, R189). -/
def toneTerm (s : State) (b n k t : Nat) : Int :=
  match smFind t (tileOf s b).bHist with
  | some h =>
    if chanOn s b t then
      let re := interp k (h.map (fun c => c.re))
      let im := interp k (h.map (fun c => c.im))
      let p := carrier (toneFtw s b t) (16 * n + k)
      ((getB s (tilePage b) DRV.TONE_GAIN_GAIN t * getF s (tilePage b) DRV.TONE_GAIN_SINC_C t : Nat) : Int)
        * (re * cosTab p - im * sinTab p)
    else 0
  | none => 0

/-- The tones of DAC `d` of a tile (R163, R195). -/
def dacTones (b d : Nat) : List Nat := (List.range (toneCount b)).filter (fun t => decide (toneDac b t = d))

/-- SHIFT in force of DAC `d` (R181, R195). -/
def dacShift (s : State) (b d : Nat) : Nat :=
  if isDrv b then getB s (tilePage b) DRV.DAC_CFG_SHIFT d else getB s (tilePage b) RDO.PDAC_CFG_SHIFT

/-- Sample `k` of fc `n` of DAC `d` before its limit (R181). -/
def dacSum (s : State) (b d n k : Nat) : Int :=
  roundDiv ((dacTones b d).map (toneTerm s b n k)).sum (2 ^ (50 + dacShift s b d))

/-- A DAC code: its limits (R181). -/
def satDac (v : Int) : Int := clampI (-8192) 8191 v

/-- Whether DAC `d` outputs code 0 (R183). -/
def dacBlank (s : State) (b d : Nat) : Bool := isDrv b && decide (bit (getF s (tilePage b) DRV.STATUS_BLANK) d = 1)

/-- The factor, in 1/32, of the output ramp in fc `n` (R153). -/
def rampFactor (x : Tile) (n : Nat) : Nat :=
  match x.ramp with
  | some r => if r.t0 ≤ n then 31 - (n - r.t0) else 32
  | none => 32

/-- A value under the output ramp (R153). -/
def ramped (x : Tile) (n : Nat) (v : Int) : Int := if rampFactor x n = 32 then v else roundDiv (v * rampFactor x n) 32

/-! ### Pin times (R71 to R74) -/

/-- The OUT_DELAY entry of converter `u` of a tile (R75): DAC or output `u`, and the ADC of a read-out tile as its converter 1. -/
def delayEntry (b u : Nat) : Nat :=
  match tileKind b with
  | .drv => 2 * b + u
  | .rdo => if u = 0 then 32 + (b - 16) else 168 + (b - 16)
  | .flx => 40 + 16 * (b - 24) + u

/-- The sample period of a converter in half picoseconds (R73). -/
def samplePeriod (b u : Nat) : Nat :=
  match tileKind b with
  | .drv => 125
  | .rdo => if u = 0 then 125 else 250
  | .flx => 1000

/-- The delay in half picoseconds that the FINE stage of converter `n` adds: within ±(1 ps + 2 %) of its nominal value and monotonic,
by construction (R73). -/
def fineDelay (n fine : Nat) : Nat :=
  if fine = 0 then 0
  else
    let at_ : Nat → Nat := fun f =>
      let d : Int := 2 + ((f / 25 : Nat) : Int)
      (2 * (f : Int) + clampI (-d) d (Config.fineError n f)).toNat
    ((List.range (fine + 1)).map at_).foldl max 0

/-- The delay of a converter at its pin in half picoseconds: SKEW_TRIM and its OUT_DELAY entry (R71, R73). -/
def pinDelay (s : State) (b u : Nat) : Nat :=
  let n := delayEntry b u
  125 * getB s 1 CLK.SKEW_TRIM_TRIM + samplePeriod b u * getB s 1 CLK.OUT_DELAY_COARSE n
    + fineDelay n (getB s 1 CLK.OUT_DELAY_FINE n)

/-- Codes set against the instants at which they reach the pin. -/
def atPin (t0 per : Nat) : List Int → List (Nat × Int)
  | [] => []
  | v :: l => (t0, v) :: atPin (t0 + per) per l

/-- What an instant of the past leaves at a pin: the last code before it, and what is still to come. -/
def pinKeep {α : Type} (t : Nat) (l : List (Nat × α)) : List (Nat × α) :=
  ((l.filter (fun e => decide (e.1 ≤ t))).getLast?).toList ++ l.filter (fun e => decide (t < e.1))

/-- A powered-down DAC: its pins sit at the common-mode level (R191, R195, R258). -/
def pinOff (s : State) (b u : Nat) : Bool :=
  match tileKind b with
  | .drv => isSet s (tilePage b) DRV.DAC_CFG_PD u
  | .rdo => isSet s (tilePage b) RDO.PDAC_CFG_PD
  | .flx => isSet s (tilePage b) FLX.OUT_CFG_PD u

/-- The codes of the fc at hand set against a converter's pin (R73, R74): an earlier code stands until the next one comes, so that an
added delay repeats the last sample, and earlier codes that a smaller delay leaves at or behind the first new one are lost. -/
def pinPush (s : State) (b u : Nat) (l : List Int) (old : List (Nat × Int)) : List (Nat × Int) :=
  let t := 2000 * now s + pinDelay s b u
  pinKeep (2000 * now s) (old.filter (fun e => decide (e.1 < t))) ++ atPin t (samplePeriod b u) l

/-- OFFS of an output, its zero level (R255). -/
def fluxOffs (s : State) (b k : Nat) : Int := toSigned 16 (getF s (tilePage b) FLX.OUT_TRIM_OFFS k)

/-- The code of a converter that puts nothing out (R249, R255, R396). -/
def zeroCode (s : State) (b u : Nat) : Int := if isFlx b then fluxOffs s b u else 0

/-- The codes of a converter listed for the fc, and what they put at its pin. -/
def setCodes (b u : Nat) (l : List Int) (s : State) : State :=
  modTile b (fun x => { x with
    codes := smSet u l x.codes
    busy := if l.all (fun c => decide (c = zeroCode s b u)) then x.busy else smSet u (s.up + 1) x.busy
    pins := if pinOff s b u then smErase u x.pins else smSet u (pinPush s b u l ((smFind u x.pins).getD [])) x.pins }) s

/-- A saturated fc of a converter (R182, R256): counted and shown, and the first of the shot recorded. -/
def saturated (b u irq : Nat) (cnt stat : Fld) (s : State) : State :=
  let p := tilePage b
  let s := irqBit p irq (putF p stat 1 u (incSat p cnt u s))
  if bit (tileOf s b).satShot u = 1 then s
  else errRec p 0x31 0 u (shotNum s b % 2 ^ 32) 0 (modTile b (fun x => { x with satShot := setBit x.satShot u }) s)

/-- The sixteen codes of a DAC in fc `n`, and whether one of them saturates (R180 to R183). A powered-down DAC forms its codes as
usual, and one that saturates counts like any other (DESIGN CHOICE, log entry 88). -/
def dacCycle (b n d : Nat) (s : State) : State :=
  if dacBlank s b d then setCodes b d (List.replicate 16 0) s
  else
    let v := (List.range 16).map (dacSum s b d n)
    let x := tileOf s b
    let s := setCodes b d (v.map (fun c => ramped x n (satDac c))) s
    if v.any (fun c => decide (satDac c ≠ c)) then
      if isDrv b then saturated b d (8 + d) DRV.DAC_SAT_CNT DRV.DAC_STAT_SAT s
      else saturated b d 8 RDO.PDAC_SAT_CNT RDO.PDAC_STAT_SAT s
    else s

/-- A drive or read-out tile in fc `n`: its tones' baseband samples, then its DACs. -/
def toneCycle (b n : Nat) (s : State) : State :=
  let s := modTile b (fun x => (List.range (toneCount b)).foldl (fun x t => basePush n t x) x) s
  forAll (List.range (if isDrv b then 2 else 1)) (dacCycle b n) s

/-! ### Flux outputs (R247 to R256) -/

/-- The limits of Q4.24 (R250). -/
def satQ424 (v : Int) : Int := clampI (-(2 ^ 27)) (2 ^ 27 - 1) v

/-- One section of the correction chain (R250): its low-pass state, its output, and whether the output saturated. -/
def iirSection (a : Nat) (k lp x : Int) : Int × Int × Bool :=
  if a = 0 then (x * 2 ^ 16, x, false)
  else
    let lp := lp + roundDiv (a * (x * 2 ^ 16 - lp)) (2 ^ 32)
    let v := x + roundDiv (k * (x * 2 ^ 16 - lp)) (2 ^ 38)
    (lp, satQ424 v, decide (satQ424 v ≠ v))

/-- The sections in cascade (R250). -/
def iirChain : List Nat → List Int → List Int → Int → List Int × Int × Bool
  | a :: as, k :: ks, lp :: lps, x =>
    let r := iirSection a k lp x
    let q := iirChain as ks lps r.2.1
    (r.1 :: q.1, q.2.1, r.2.2 || q.2.2)
  | _, _, _, x => ([], x, false)

/-- The FIR over the last 32 section outputs, before its limit (R250). -/
def firSum (h x : List Int) : Int := roundDiv (List.zipWith (fun a b => a * b) h x).sum (2 ^ 14)

/-- One sample of an output's chain (R250): its state, y, and whether it saturated. Without CORR_EN every section tracks its
input and y is x0. -/
def chainSample (on : Bool) (o : FOut) (x0 : Int) : FOut × Int × Bool :=
  let a := if on then o.coef.a else List.replicate 4 0
  let r := iirChain a o.coef.k o.lp x0
  let hist := (r.2.1 :: o.hist).take 32
  let y := firSum o.coef.h hist
  ({ o with lp := r.1, hist := hist }, if on then satQ424 y else x0, on && (r.2.2 || decide (satQ424 y ≠ y)))

/-- The chain input of sample `h` (0 or 1) of fc `n` of output `k` (R247, R249, R254, R258). -/
def fluxIn (s : State) (b k n h : Nat) : Int :=
  let x := tileOf s b
  if !chanOn s b k || decide (tileState s b = stStopping) then 0
  else match smFind k x.chans with
    | some ch => match streamAt x 8 k (2 * (n - ch.t) + h) ch with
      | some (d, i) => (if bit ch.phs 11 = 1 then -1 else 1) * toSigned 16 (d / 2 ^ (16 * i)) * ch.amp
      | none => 0
    | none => 0

/-- LIM in force of an output (R255). -/
def fluxLim (s : State) (b k : Nat) : Nat :=
  if getB s (tilePage b) FLX.OUT_LVL_LIM k = 0 then 32767 else getB s (tilePage b) FLX.OUT_LVL_LIM k

/-- The code of `y` and whether LIM or the code range limits it (R255, R256). While EN is 0 it is the zero level. -/
def fluxCode (s : State) (b k n : Nat) (y : Int) : Int × Bool :=
  if chanOn s b k then
    let v := roundDiv (y * getB s (tilePage b) FLX.OUT_LVL_GAIN k) (2 ^ 24)
    let w := clampI (-(fluxLim s b k)) (fluxLim s b k) v
    let c := ramped (tileOf s b) n w + fluxOffs s b k
    let d := clampI (-32768) 32767 c
    (d, decide (w ≠ v) || decide (d ≠ c))
  else (fluxOffs s b k, false)

/-- Whether an output of a running tile can give anything but its zero level. -/
def fluxActive (s : State) (b k : Nat) : Bool :=
  (smFind k (tileOf s b).chans).isSome || (fluxOf s b k).lp.any (fun v => decide (v ≠ 0)) || (fluxOf s b k).hist.any (fun v => decide (v ≠ 0))

/-- Output `k` in fc `n`: two samples through its chain, their codes, and what a saturated one does (R250 to R256). -/
def fluxCycle (b n k : Nat) (s : State) : State :=
  let on := decide (getB s (tilePage b) FLX.OUT_CFG_CORR_EN k = 1)
  let p := chainSample on (fluxOf s b k) (fluxIn s b k n 0)
  let q := chainSample on p.1 (fluxIn s b k n 1)
  let c := fluxCode s b k n p.2.1
  let d := fluxCode s b k n q.2.1
  let s := setCodes b k [c.1, d.1] (setFlux b k q.1 s)
  if p.2.2 || q.2.2 || c.2 || d.2 then saturated b k 8 FLX.OUT_SAT_CNT FLX.OUT_STAT_SAT s else s

/-! ### A tile and the pattern pins in one fc -/

/-- Whether a tile plays: in RUN, or ramping to a stop. -/
def tilePlays (s : State) (b : Nat) : Bool := decide (tileState s b = stRun) || decide (tileState s b = stStopping)

/-- A tile that plays in the fc at hand: its converters' samples, and the units that are spent. -/
def tileCycle (b : Nat) (s : State) : State :=
  let n := now s
  if tilePlays s b then
    let s := if isFlx b then forAll ((List.range 16).filter (fluxActive s b)) (fluxCycle b n) s
      else if (tileOf s b).chans = [] ∧ (tileOf s b).bHist = [] then s
      else toneCycle b n s
    modTile b (fun x => { x with units := x.units.filter (unitLives x n) }) s
  else s

/-- Tiles with a Tambour that has been started. -/
def usedTiles (s : State) : List Nat := (s.tiles.map (fun e => e.1)).filter (tilePresent s)

/-- The capture side of a read-out tile in the fc at hand: every open window applies the tap that falls in it (R217), and the eight
sampling instants of the ADC stand against its converter number 1 while it is powered (R71, R73, R198, R202). -/
def adcCycle (b : Nat) (s : State) : State :=
  if isRdo b then
    let s := forAll ((winsOf s b).filter (fun e => decide (e.2.st = .opened))) (fun e s => applyTaps b e.1.t e.2 s) s
    let at_ := atPin (2000 * now s + pinDelay s b 1) (samplePeriod b 1) (List.replicate 8 0)
    modTile b (fun x => { x with pins := if isSet s (tilePage b) RDO.ADC_CFG_PD then smErase 1 x.pins else smSet 1 at_ x.pins }) s
  else s

/-- RES_WP counts the records whose positions were taken two fc before, and FILL rising to TH raises bit 17 (R237, R240). -/
def ringCount (b : Nat) (s : State) : State :=
  let r := rdoOf s b
  forAll (r.fresh.filter (fun f => decide (f + 2 ≤ now s))) (fun _ s => ringStep b s)
    (if r.fresh = [] then s else setRdo b { r with fresh := r.fresh.filter (fun f => decide (now s < f + 2)) } s)

/-- The samples of every tile in the fc at hand. -/
def playTiles (s : State) : State := forAll (usedTiles s) (fun b s => adcCycle b (tileCycle b s)) s

/-- The units due at every tile that plays. -/
def fetchTiles (s : State) : State := forAll ((usedTiles s).filter (tilePlays s)) fetchDue s

/-- The DRV codes of a vector, two bits a pin; the reserved code is Z (R465). -/
def drvOf (data : Nat) : Nat :=
  (List.range 32).foldl (fun m n => m + (if mwBits data (4 * n) 2 = 3 then 0 else mwBits data (4 * n) 2) * 4 ^ n) 0

/-- The idle state of the pins, in the coding of DRV (R476). -/
def idlePins (s : State) : Nat :=
  let w := getB s pPat PAT.PIN_IDLE 0 + 2 ^ 32 * getB s pPat PAT.PIN_IDLE 1
  (List.range 32).foldl (fun m n => m + (if mwBits w (2 * n) 2 = 3 then 0 else mwBits w (2 * n) 2) * 4 ^ n) 0

/-- The DRV codes of an fc, and when they reach the pins: SKEW_TRIM after it (R467). -/
def setPins (d : Nat) (s : State) : State :=
  let t := 2000 * now s + 125 * getB s 1 CLK.SKEW_TRIM_TRIM
  { s with pat := { s.pat with
    drv := d
    pins := pinKeep (2000 * now s) (s.pat.pins.filter (fun e => decide (e.1 < t))) ++ [(t, d)] } }

/-- The pattern pins in the fc at hand (R466, R476, R477): the vector in its pin time, else the idle state. A frozen stream holds
its place. -/
def drivePins (s : State) : State :=
  if s.pat.frozen.isSome then setPins (idlePins s) s
  else
    let n := now s
    let outs := s.pat.outs.filter (fun v => decide (n < v.pin + patPer s))
    let at_ := (outs.filter (fun v => decide (v.pin ≤ n))).getLast?
    setPins ((at_.map (fun v => drvOf v.data)).getD (idlePins s)) { s with pat := { s.pat with outs := outs } }

end Sys2Proof.Machine
end

