-- ==== Sys2Proof/Machine/Datapath.lean ====
section
/-!
DEFINITION. What happens in every fabric cycle whatever is commanded: the converters play (R164 to R183, R246 to R256), TIME counts
(R63), and the model's own clock runs.
-/
namespace Sys2Proof.Machine

/-- What follows the fabric clock in one fc, while the root PLL is locked: units released in this fc are read, every converter
gives the samples of this fc, every port sends the blocks that begin in it (R312), TIME counts (R62, R63), and before anything else
happens in the next fc the units due in it are read and the result records become readable (R164, R237). -/
def fabricCycle (s : State) : State :=
  let s := slotWatch (portCycles (darnerCycle (drivePins (playTiles (fetchTiles s)))))
  let s := darnerClears (fetchTiles (portEnds { s with time := s.time + 1 }))
  forAll (s.rdos.map (fun e => e.1)) ringCount s

/-- What a ns adds to the management clock, in 1/40 mc: MCLK runs from the root or, while BACKUP is 1, at 25 MHz (R49, R52). -/
def mckStep (s : State) : Nat := if isSet s 1 CLK.PLL_STAT_BACKUP then 1 else 10

/-- The model's own clock, the management clock, and the range changes of the bias outputs that wait on it while the page is
not frozen (R52, R83, R418). -/
def ownClock (s : State) : State :=
  let wait := fun (m : SMap Nat) => if isSet s pBia HDR.CTRL_FREEZE then m else m.map (fun e => (e.1, e.2 - mckStep s))
  { s with up := s.up + 1, mck := s.mck + mckStep s, bias := { s.bias with bbm := wait s.bias.bbm } }

/-- One fc of the holdover (R53): the outputs ramp, and TIME stands. -/
def holdCycle (s : State) : State := { fabricCycle { s with time := fcNow s } with time := s.time }

/-- One fc passes; without lock and outside a holdover there is no fabric cycle (R52, R62). -/
def tick (s : State) : State :=
  if isSet s 1 CLK.PLL_STAT_LOCK then registerJumps (ownClock (fabricCycle s))
  else if s.pll.holdover then ownClock (holdCycle s) else ownClock s

end Sys2Proof.Machine
end

