-- ==== Sys2Proof/Machine/Bias.lean ====
section
/-!
DEFINITION. The commands of 16_bias_and_monitors: codes, strobes and the clear (R414 to R416), range changes (R418),
limits (R413), window comparators (R422 to R425) and ramps (R426, R427).
-/
namespace Sys2Proof.Machine

/-- A write of BIAS_CODE (R415); that of an absent output is discarded (R419). -/
def execBiasCodeWrite (who : Requester) (n code : Nat) (s : State) : Res1 :=
  .next (if biasCount s ≤ n then s else viaBus who pBia BIA.BIAS_CODE_CODE n code (writeCode n code) s)

/-- A falling edge on LDAC_N[g] (R414). -/
def execLdacEdge (g : Nat) (s : State) : Res1 :=
  .next (if bit (getF s pBia BIA.BIA_CTL_PIN_EN) g = 1 then strobe g s else s)

/-- A write of BIA_STROBE (R414). -/
def execBiasStrobe (who : Requester) (mask : Nat) (s : State) : Res1 :=
  .next (viaBus who pBia BIA.BIA_STROBE_STROBE 0 mask (fun s => forAll ((List.range 4).filter (fun g => bit mask g = 1)) strobe s) s)

/-- The effect of a write of RANGE (R418): an unchanged value is no range change, and on a frozen page, where no state changes, the
range change waits (R419). -/
def biasRangeChangeEffect (n range : Nat) (s : State) : State :=
  if getF s pBia BIA.BIAS_CFG_RANGE n = range then s
    else
      let s := putF pBia BIA.BIAS_CFG_RANGE range n s
      if isSet s pBia HDR.CTRL_FREEZE then
        { s with bias := { s.bias with rangeHeld := s.bias.rangeHeld.filter (fun m => m ≠ n) ++ [n] } }
      else rangeChange n s

/-- A write of RANGE (R418, R419). -/
def execBiasRangeChange (who : Requester) (n range : Nat) (s : State) : Res1 :=
  .next (if biasCount s ≤ n then s else viaBus who pBia BIA.BIAS_CFG_RANGE n range (biasRangeChangeEffect n range) s)

/-- The 1,250 hc of a range change are over (R418, R419, R420). -/
def execBbmDone (n : Nat) (s : State) : Res1 :=
  .next (if smFind n s.bias.bbm = some 0 ∧ biasState s n = 2 ∧ isSet s pBia HDR.CTRL_FREEZE = false then bbmDone n s else s)

/-- CLR_N goes low (R416). -/
def execClrNAssert (s : State) : Res1 := .next (driveClear { s with bias := { s.bias with clrLow := true } })

/-- CLR_N goes high (R416): every output keeps its clear code. -/
def execClrNRelease (s : State) : Res1 := .next { s with bias := { s.bias with clrLow := false } }

/-- An output begins or ends limiting (R413): its current limit in a voltage range, its compliance voltage in a current range.
Only the first hc of limiting acts, and a record is written only while the flag was clear. An open output draws nothing. -/
def execBiasLimit (n : Nat) (on : Bool) (s : State) : Res1 :=
  if biasCount s ≤ n then .next s
  else if !on then .next (setLimit n false s)
  else if biasState s n = 2 ∨ isSet s pBia BIA.BIAS_STAT_LIMIT n = true then .next s
  else
    let r := smGet 0 n s.bias.range
    let f := if r < 2 then BIA.BIAS_STAT_SHORT else BIA.BIAS_STAT_COMPL
    let was := isSet s pBia f n
    let s := irqBit pBia (if r < 2 then 0 else 1) (putF pBia f 1 n (setLimit n true s))
    .next (if was then s else errRec pBia (if r < 2 then 0x20 else 0x21) 0 n r 0 s)

/-- A comparator's input leaves its window (R422). -/
def execComparatorTrip (n code other : Nat) (s : State) : Res1 :=
  .next (if monWindow s n && !isSet s pMon MON.MON_STAT_UNARMED n then monTrip n (monInput s n code other) s else s)

/-- An unarmed comparator's input leaves both bands (R423): it arms, and trips at once where it lies outside the window. -/
def execComparatorArm (n code other : Nat) (s : State) : Res1 :=
  let c := monInput s n code other
  .next (if monWindow s n && isSet s pMon MON.MON_STAT_UNARMED n && !monBand s n c then monTrip n c (setUnarmed n false s) else s)

/-- A tripped comparator's input returns into its window (R422): LIVE returns to 0. -/
def execLiveClear (n code other : Nat) (s : State) : Res1 :=
  .next (if monWindow s n && isSet s pMon MON.MON_STAT_LIVE n && monBack s n (monInput s n code other)
    then putF pMon MON.MON_STAT_LIVE 0 n s else s)

/-- A monitoring period starts, PERIOD µs after the last one or the write of the value (R424). -/
def execMonPeriod (s : State) : Res1 :=
  let per := getF s pMon MON.MON_CTL_PERIOD
  .next (if per = 0 ∨ isSet s pMon HDR.CTRL_EN = false ∨ isSet s pMon HDR.CTRL_FREEZE = true ∨ timerDue s tmMon (1000 * per) = false then s
    else stampTimer tmMon <| forAll ((List.range 80).filter (fun n => cmpPresent s n && isSet s pMon MON.MON_CFG_CLRMODE n)) monClear s)

/-- The effect of a write of RGO (R426): a ramp on a comparator with RTRIG = 0. -/
def rampGoEffect (n : Nat) (s : State) : State :=
  if rtrig s n = 0 then rampStart n s else s

/-- A write of RGO (R426): a ramp on a comparator with RTRIG = 0. -/
def execRampGo (who : Requester) (n : Nat) (s : State) : Res1 :=
  .next (viaBus who pMon MON.MON_CFG_RGO n 1 (rampGoEffect n) s)

/-- A ramp reaches its input, or TMAX passes (R426, R427); a comparator is masked while its output is open (R420). -/
def execRampCross (n cross : Nat) (s : State) : Res1 :=
  if !(isSet s pMon MON.MON_STAT_RBUSY n && monActive s n) then .next s
  else
    let x := if getF s pMon MON.MON_RWIN_TMAX n < cross then 0xFFFF else cross
    let s := irqBit pMon 1 (putF pMon MON.MON_STAT_CROSS x n (putF pMon MON.MON_STAT_RBUSY 0 n s))
    .next (if x < getF s pMon MON.MON_RWIN_TMIN n ∨ getF s pMon MON.MON_RWIN_TMAX n < x then
      errRec pMon 0x21 0 0 (n + 2 ^ 16 * x) 0 (latch n MON.MON_STAT_TRIP_R s) else s)

end Sys2Proof.Machine
end

