-- ==== Sys2Proof/Machine/CstOps.lean ====
section
/-!
DEFINITION. The operations of discovery and routes: management messages (R347 to R349), the topology table and what
follows from a change of it (R350 to R352, R361 to R363), trees and reservations (R357 to R359), and the skew proposals
that the reports of other devices bring about (R402, R407).
-/
namespace Sys2Proof.Machine

/-- The CST page. -/
def pCst : Nat := 0x38

/-- Hoop firmware runs discovery: it is up, and the CST page is enabled and not frozen (R361). -/
def cstOn (s : State) : Bool := s.boot.fw && isSet s pCst HDR.CTRL_EN && !isSet s pCst HDR.CTRL_FREEZE

/-- The device holds a NUM; the NUM. -/
def joined (s : State) : Bool := isSet s pCst CST.STATUS_JOINED
def ownNum (s : State) : Nat := getF s pCst CST.ID_CFG_NUM_F

/-- The NUM that messages carry as their sender: 0xFF while the device is UNJOINED (R347). -/
def srcNum (s : State) : Nat := if joined s then ownNum s else 0xFF

/-- The ports in ACTIVE. -/
def activePorts (s : State) : List Nat := (List.range 8).filter (fun n => portState s n = 5)

/-- The device's own UID. -/
def ownUid : Nat := Config.uid.toNat

/-! ### Link-state descriptions (R348, R350) -/

/-- FLAGS of HELLO and LSA (R348). -/
def ownFlags (s : State) : Nat :=
  getF s pCst CST.ID_CFG_AUTO + 2 * getF s 1 CLK.SYNC_STAT_TIME_VALID + 4 * getF s pCst CST.TIME_CFG_TROOT
    + 8 * (match s.variant with | .mq256 => 0 | .mq128 => 1)

/-- The device's own entry of port `n` (R348). -/
def ownPort (s : State) (n : Nat) : LsaPort :=
  let p := jdxPage n
  let st := portState s n
  let nb := smGet { uid := 0, num := 0xFF, flags := 0, port := 0, seq := 0 } n s.cst.nbs
  if st = 5 ∨ (st = 6 ∧ isSet s p JDX.STATUS_PEER_IDLE = true) then
    { lstate := if isSet s p JDX.STATUS_PEER_IDLE then 3 else if isSet s p JDX.STATUS_FBM then 2 else 1
      num := nb.num, port := nb.port, fh := getF s p JDX.LINK_LAT_FH, uid := nb.uid % 2 ^ 32 }
  else { lstate := 0, num := 0, port := 0, fh := 0, uid := 0 }

/-- The device's own description. -/
def ownEntry (s : State) : TopoEntry :=
  { uid := ownUid, num := ownNum s, flags := ownFlags s, seq := s.cst.lsaSeq, ports := (List.range 8).map (ownPort s) }

/-- The topology table: the device's own entry as last flooded, while it is joined, and those of the others (R350). -/
def topoTable (s : State) : List TopoEntry := s.cst.own.toList ++ s.cst.topo

/-- One direction of a link of the table: from port `p` of device `a` to port `q` of device `b`, whether it runs in
fall-back mode, and the FH of port `q`. -/
structure Link where
  a : Nat
  p : Nat
  b : Nat
  q : Nat
  fb : Bool
  fh : Nat
  deriving DecidableEq, Repr

/-- Whether an LSA entry reports an ACTIVE link to port `p` of the device with this NUM and UID. -/
def portMatches (x : LsaPort) (num p uid : Nat) : Bool :=
  (decide (x.lstate = 1) || decide (x.lstate = 2)) && decide (x.num = num) && decide (x.port = p) && decide (x.uid = uid % 2 ^ 32)

/-- The links of a table: both ends report the link ACTIVE to each other with matching port numbers and UIDs (R350). -/
def linksOf (es : List TopoEntry) : List Link :=
  (es.map (fun a => ((List.range 8).map (fun p =>
    match a.ports[p]? with
    | none => []
    | some x =>
      match es.find? (fun b => decide (b.num = x.num)) with
      | none => []
      | some b =>
        match b.ports[x.port]? with
        | none => []
        | some y =>
          if portMatches x b.num x.port b.uid && portMatches y a.num p a.uid then
            [{ a := a.num, p := p, b := b.num, q := x.port, fb := decide (x.lstate = 2) || decide (y.lstate = 2), fh := y.fh }]
          else [])).flatten)).flatten

/-! ### Shortest trees (R349, R351, R352, R357) -/

/-- A device reached by a tree: its hops, its SLOT_LAT, the device and port it hangs from, its own import port, whether
its path crosses a fall-back link, and the root's port toward it. -/
structure TreeNode where
  num : Nat
  hops : Nat
  lat : Nat
  parent : Nat
  pport : Nat
  iport : Nat
  ndet : Bool
  first : Nat
  deriving DecidableEq, Repr

/-- The order in which a tree takes devices: fewest hops, then lower cumulative latency, then lower parent NUM (R357), then
the lower port of the parent. -/
def nodeBefore (x y : TreeNode) : Bool :=
  decide (x.hops < y.hops) || (decide (x.hops = y.hops) && (decide (x.lat < y.lat) || (decide (x.lat = y.lat) &&
    (decide (x.parent < y.parent) || (decide (x.parent = y.parent) && decide (x.pport < y.pport))))))

/-- The devices that the links add to a tree in one hop. -/
def candidates (ls : List Link) (t : List TreeNode) : List TreeNode :=
  (t.map (fun x => (ls.filter (fun l => decide (l.a = x.num) && !(t.any (fun y => decide (y.num = l.b))))).map (fun l =>
    { num := l.b, hops := x.hops + 1, lat := x.lat + 38 + l.fh, parent := x.num, pport := l.p, iport := l.q
      ndet := x.ndet || l.fb, first := if x.hops = 0 then l.p else x.first }))).flatten

/-- The tree grown by its best candidate, up to `k` times. -/
def growTree (ls : List Link) : Nat → List TreeNode → List TreeNode
  | 0, t => t
  | k + 1, t =>
    match candidates ls t with
    | [] => t
    | c :: cs => growTree ls k (t ++ [cs.foldl (fun m x => if nodeBefore x m then x else m) c])

/-- A tree of one device. -/
def rootNode (n : Nat) : List TreeNode :=
  [{ num := n, hops := 0, lat := 3, parent := n, pport := 0, iport := 0, ndet := false, first := 0 }]

/-- The shortest tree over the links of the table, from a device. -/
def walkFrom (s : State) (n : Nat) : List TreeNode := growTree (linksOf (topoTable s)) 32 (rootNode n)

/-- How many hops away a device is over table links. -/
def hopsTo (s : State) (n : Nat) : Option Nat := ((walkFrom s (ownNum s)).find? (fun x => decide (x.num = n))).map TreeNode.hops

/-- The local port on a shortest path to a device: among equal paths one that starts on a fall-back link (R335, R349). -/
def nextPort (s : State) (n : Nat) : Option Nat :=
  match hopsTo s n with
  | none => none
  | some h =>
    let ls := linksOf (topoTable s)
    let ok := (ls.filter (fun l => decide (l.a = ownNum s))).filter (fun l =>
      ((growTree ls 32 (rootNode l.b)).any (fun x => decide (x.num = n) && decide (x.hops + 1 = h))))
    match (ok.filter (fun l => l.fb)) ++ ok with
    | l :: _ => some l.p
    | [] => none

/-! ### Messages (R347 to R349) -/

/-- A management message: header, body and CRC-32 (R347). -/
def mkMsg (s : State) (type dst : Nat) (body : List Byte) : List Byte :=
  let m := [BitVec.ofNat 8 type, 1#8, BitVec.ofNat 8 (srcNum s), BitVec.ofNat 8 dst] ++ toBytes s.cst.mseq 2
    ++ toBytes body.length 2 ++ body
  m ++ toBytes (crc32 m) 4

/-- The message counter advanced. -/
def bumpMseq (s : State) : State := { s with cst := { s.cst with mseq := (s.cst.mseq + 1) % 65536 } }

/-- A message sent on a port. -/
def sendPort (n chan type dst : Nat) (body : List Byte) (s : State) : State :=
  bumpMseq (sendMsg n chan (mkMsg s type dst body) s)

/-- A message flooded: sent on every ACTIVE port. -/
def sendFlood (chan type : Nat) (body : List Byte) (s : State) : State :=
  bumpMseq (forAll (activePorts s) (fun n s => sendMsg n chan (mkMsg s type 0xFF body) s) s)

/-- A message sent to one device, by the shortest path (R349). -/
def sendNum (num chan type : Nat) (body : List Byte) (s : State) : State :=
  match nextPort s num with
  | some n => sendPort n chan type num body s
  | none => s

/-- A received message passed on as it came, and counted. -/
def passOn (ports : List Nat) (chan : Nat) (bs : List Byte) (s : State) : State :=
  if ports = [] then s else incSat pCst CST.MSG_CNT_FWD 0 (forAll ports (fun n s => sendMsg n chan bs s) s)

/-- Header and body fields of a received message. -/
def msgType (bs : List Byte) : Nat := leNat (bs.take 1)
def msgSrc (bs : List Byte) : Nat := leNat ((bs.drop 2).take 1)
def msgDst (bs : List Byte) : Nat := leNat ((bs.drop 3).take 1)
def msgField (bs : List Byte) (o n : Nat) : Nat := leNat ((bs.drop (8 + o)).take n)

/-- The oldest message of a type that a port has received taken out of its buffer. -/
def takeMsg (n type : Nat) (s : State) : Option ((Nat × List Byte) × State) :=
  match (portOf s n).msgs.find? (fun m => decide (msgType m.2 = type)) with
  | none => none
  | some m => some (m, modPort n (fun x => { x with msgs := x.msgs.erase m }) s)

/-- Hoop firmware takes a message of a type: one for another device goes on toward it, one for this device has its effect. -/
def onMsg (n type : Nat) (g : List Byte → State → State) (s : State) : State :=
  if !cstOn s then s
  else match takeMsg n type s with
    | none => s
    | some ((c, bs), s) =>
      let d := msgDst bs
      if d = 0xFE ∨ d = 0xFF ∨ (joined s ∧ d = ownNum s) then g bs s
      else passOn ((nextPort s d).toList) c bs s

/-! ### Requests (R356 to R359, R364) -/

/-- The body of the reservation messages that name a route and a slot (R348). -/
def routeBody (r slot reason : Nat) : List Byte := toBytes r 4 ++ toBytes slot 2 ++ toBytes reason 1 ++ toBytes 0 1

/-- The body of RESERVE (R348). -/
def reserveBody (r slot : Nat) (x : RouteSet) : List Byte :=
  toBytes r 4 ++ toBytes slot 2 ++ toBytes 0 1 ++ toBytes (x.imp.getD 0xFF) 1 ++ toBytes x.exports 1 ++ toBytes x.hops 1
    ++ toBytes x.lat 2 ++ toBytes (ofBool x.ndet) 1 ++ toBytes 0 3

/-- The requester whose RQ_STAT a reservation reports in. -/
def rqIdx (q : RqState) : Nat := reqIdx q.route.who

/-- The publisher's own EXPORT as it was before a reservation that had come to COMMIT (R359): that of the route it repairs, else
none. -/
def rqUndo (q : RqState) (s : State) : State :=
  if !q.committing then s
  else match s.cst.routes.find? (fun r => decide (r.slot = q.route.slot)) with
    | some r => stageRoute r.slot r.own s
    | none => withdrawSlot q.route.slot s

/-- A reservation ends without success: RELEASE to every device asked, the publisher's own entry as before, and, for a request, the
result (R359, R364). -/
def rqFail (key : Nat) (q : RqState) (result : Nat) (s : State) : State :=
  let s := rqUndo q s
  let s := forAll q.ask (fun d s => sendNum d 1 0x14 (routeBody q.route.route q.route.slot 0) s) s
  let s := { s with cst := { s.cst with rq := smErase key s.cst.rq } }
  if key < 2 then
    let s := putF pCst CST.RQ_STAT_RESULT result key (putF pCst CST.RQ_STAT_BUSY 0 key s)
    let s := putF pCst CST.RQ_STAT_DONE 1 key s
    errRec pCst 0x23 0 0 (result + 256 * q.route.slot) 0 (irqBit pCst 1 s)
  else s

/-- A request that ends before anything is asked. -/
def rqRefuse (key slot result : Nat) (s : State) : State :=
  let s := putF pCst CST.RQ_STAT_RESULT result key (putF pCst CST.RQ_STAT_BUSY 0 key s)
  errRec pCst 0x23 0 0 (result + 256 * slot) 0 (irqBit pCst 1 (putF pCst CST.RQ_STAT_DONE 1 key s))

/-- The largest SLOT_LAT over the destinations of a route (R360). -/
def routeLat (r : Route) : Nat :=
  (r.nodes.filter (fun n => bit r.dest n.num = 1)).foldl (fun m n => max m n.rs.lat) 0

/-- PART of a requester: some destination of one of its routes is unreachable (R363). -/
def showPart (who : Requester) (s : State) : State :=
  putF pCst CST.RQ_STAT_PART (ofBool (s.cst.routes.any (fun r => decide (r.who = who) && decide (r.lost ≠ 0)))) (reqIdx who) s

/-- A reservation whose COMMITs have all been acknowledged (R359, R363). -/
def rqDone (key : Nat) (q : RqState) (s : State) : State :=
  let s := { s with cst := { s.cst with rq := smErase key s.cst.rq
                                        routes := s.cst.routes.filter (fun r => r.slot ≠ q.route.slot) ++ [q.route] } }
  let s := showPart q.route.who s
  if key < 2 then
    let s := putF pCst CST.RQ_STAT_RESULT 0 key (putF pCst CST.RQ_STAT_BUSY 0 key s)
    let s := putF pCst CST.RQ_STAT_GSLOT q.route.slot key (putF pCst CST.RQ_STAT_LAT (routeLat q.route) key s)
    irqBit pCst 1 (putF pCst CST.RQ_STAT_DONE 1 key s)
  else irqBit pCst 2 s

/-- COMMIT to every device asked, and EXPORT written on the publisher itself (R359). -/
def rqCommit (key : Nat) (q : RqState) (s : State) : State :=
  let s := stageRoute q.route.slot q.route.own s
  let s := forAll q.ask (fun d s => sendNum d 1 0x13 (routeBody q.route.route q.route.slot 0) s) s
  let q := { q with acked := [], committing := true, since := s.up }
  if q.ask = [] then rqDone key q s else { s with cst := { s.cst with rq := smSet key q s.cst.rq } }

/-- RESERVE to every device of the tree except the publisher (R358). -/
def rqStart (key : Nat) (q : RqState) (s : State) : State :=
  let q := { q with since := s.up }
  let s := forAll (q.route.nodes.filter (fun n => n.num ∈ q.ask)) (fun n s => sendNum n.num 1 0x10 (reserveBody q.route.route q.route.slot n.rs) s) s
  if q.ask = [] then rqCommit key q s else { s with cst := { s.cst with rq := smSet key q s.cst.rq } }

/-- A device has answered (R359). -/
def rqAck (key num : Nat) (q : RqState) (s : State) : State :=
  let q := { q with acked := num :: q.acked }
  if q.ask.all (fun d => decide (d ∈ q.acked)) then (if q.committing then rqDone key q s else rqCommit key q s)
  else { s with cst := { s.cst with rq := smSet key q s.cst.rq } }

/-- The reservation of a route id. -/
def rqOf (s : State) (route : Nat) : Option (Nat × RqState) := s.cst.rq.find? (fun e => decide (e.2.route.route = route))

/-- Whether a route holds a slot on this device (R358). -/
def slotHeld (s : State) (slot : Nat) : Bool :=
  s.cst.holds.any (fun h => decide (h.slot = slot)) || s.cst.routes.any (fun r => decide (r.slot = slot))
    || s.cst.rq.any (fun e => decide (e.2.route.slot = slot))

/-- Whether the local slot has a KIND of 1 or 2 in force or pending (R357). -/
def localSource (s : State) (slot : Nat) : Bool :=
  let k := slotKind s slot
  let n := getF s pTul TUL.SLOT_SRC_KIND slot
  decide (k = 1) || decide (k = 2) || decide (n = 1) || decide (n = 2)

/-- The lowest slot from `k` upward with a local source that no route holds (R357). -/
def autoSlot (s : State) (k : Nat) : Option Nat :=
  (List.range 512).find? (fun i => decide (k ≤ i) && localSource s i && !slotHeld s i)

/-- The links of the table that have stayed for HOLD ms (R357). -/
def heldLinks (s : State) : List Link :=
  let hold := getF s pCst CST.RT_CFG_HOLD * 1000000
  let old := fun (k : Nat) => decide (smGet s.up k s.cst.links + hold ≤ s.up)
  (linksOf (topoTable s)).filter (fun l => old (8 * l.a + l.p) && old (8 * l.b + l.q))

/-- The tree from the publisher (R357): over links in main clocking mode, and beyond them, where allowed, over fall-back
links. -/
def routeTree (s : State) (ndetOk : Bool) : List TreeNode :=
  let ls := heldLinks s
  let main := growTree (ls.filter (fun l => !l.fb)) 32 (rootNode (ownNum s))
  if ndetOk then growTree ls 32 main else main

/-- The devices on the path of a tree to a device, the device first. -/
def pathTo (t : List TreeNode) : Nat → Nat → List TreeNode
  | 0, _ => []
  | k + 1, n =>
    match t.find? (fun x => decide (x.num = n) && decide (x.hops ≠ 0)) with
    | some x => x :: pathTo t k x.parent
    | none => []

/-- The destinations of a mask. -/
def destList (dest : Nat) : List Nat := (List.range 32).filter (fun d => bit dest d = 1)

/-- The part of a tree that reaches the destinations. -/
def pruneTree (t : List TreeNode) (dest : Nat) : List TreeNode :=
  let need := ((destList dest).map (fun d => pathTo t 32 d)).flatten
  t.filter (fun x => decide (x ∈ need))

/-- The EXPORT mask of a device of a tree: the ports its children hang from. -/
def exportsOf (t : List TreeNode) (n : Nat) : Nat :=
  t.foldl (fun m x => if x.parent = n ∧ x.hops ≠ 0 then setBit m x.pport else m) 0

/-- The devices of a pruned tree with their slot entries (R359, R360). -/
def treeNodes (t : List TreeNode) (pub : Nat) : List RouteNode :=
  t.map (fun x => { num := x.num, parent := x.parent, pport := x.pport
                    rs := { imp := some x.iport, exports := exportsOf t x.num, hops := x.hops, pubdev := pub, lat := x.lat, ndet := x.ndet } })

/-- The publisher's own entry. -/
def ownSet (t : List TreeNode) (pub : Nat) : RouteSet :=
  { imp := none, exports := exportsOf t pub, hops := 0, pubdev := pub, lat := 3, ndet := false }

/-- Why the destinations cannot be reached, by the codes of RQ_STAT: 2 unreachable, 4 FAR, 3 no deterministic path; none
where they can (R351, R357). -/
def reachFault (s : State) (t : List TreeNode) (dest : Nat) : Option Nat :=
  let out := (destList dest).filter (fun d => !(t.any (fun x => decide (x.num = d))))
  let walk := walkFrom s (ownNum s)
  if (destList dest).any (fun d => !(walk.any (fun x => decide (x.num = d)))) then some 2
  else if (destList dest).any (fun d => walk.any (fun x => decide (x.num = d) && decide (4 < x.hops))) then some 4
  else if out = [] then none
  else some 3

/-! ### Leaving (R361, R362) -/

/-- A device's part in a route given up: the slot withdrawn and free again. -/
def dropHold (h : Hold) (s : State) : State :=
  let s := { s with cst := { s.cst with holds := s.cst.holds.filter (fun x => x.route ≠ h.route) } }
  if h.committed then withdrawSlot h.slot s else s

/-- A route that this device publishes given up: a repair of it ends, RELEASE goes to the other devices, and its own exports end
(R359). -/
def dropRoute (r : Route) (s : State) : State :=
  let s := match smFind (2 + r.slot) s.cst.rq with
    | some q => rqFail (2 + r.slot) q 8 s
    | none => s
  let s := forAll r.nodes (fun n s => sendNum n.num 1 0x14 (routeBody r.route r.slot 0) s) s
  let s := { s with cst := { s.cst with routes := s.cst.routes.filter (fun x => x.slot ≠ r.slot) } }
  showPart r.who (withdrawSlot r.slot s)

/-- Every route that the device takes part in withdrawn (R345, R361). -/
def dropAll (s : State) : State :=
  let s := forAll s.cst.rq (fun e s => rqFail e.1 e.2 8 s) s
  forAll s.cst.routes dropRoute (forAll s.cst.holds dropHold s)

/-- The devices below this one on the routes that a lost port carried are told to withdraw (R362): WITHDRAW goes to the
neighbours on the exporting ports, which pass it on. -/
def tellBelow (h : Hold) (s : State) : State :=
  forAll ((List.range 8).filter (fun n => bit h.rs.exports n = 1)) (fun n s =>
    sendPort n 1 0x15 (smGet { uid := 0, num := 0xFE, flags := 0, port := 0, seq := 0 } n s.cst.nbs).num (routeBody h.route h.slot 0) s) s

/-- Service of a lost import port (R362). -/
def servePort (n : Nat) (s : State) : State :=
  if cstOn s then forAll (s.cst.holds.filter (fun h => h.committed && decide (h.rs.imp = some n))) tellBelow s else s

/-! ### Requests taken (R356 to R359) -/

/-- A RESERVE request taken by Hoop firmware (R357, R358). -/
def reserve (who : Requester) (ndetOk auto : Bool) (s : State) : State :=
  let k := reqIdx who
  let slot := if auto then autoSlot s 0 else some (getF s pCst CST.RQ_SLOT_SLOT k)
  let num := slot.getD 0
  if !joined s then rqRefuse k num 7 s
  else if slot.isNone || !localSource s num then rqRefuse k num 6 s
  else if slotHeld s num then rqRefuse k num 1 s
  else
    let dest := clrBit (getF s pCst CST.RQ_DEST k) (ownNum s)
    let t := routeTree s ndetOk
    match reachFault s t dest with
    | some r => rqRefuse k num r s
    | none =>
      let pt := pruneTree t dest
      let nodes := treeNodes pt (ownNum s)
      let id := ownNum s * 2 ^ 27 + s.cst.serial
      let s := { s with cst := { s.cst with serial := (s.cst.serial + 1) % 2 ^ 27 } }
      rqStart k { route := { who := who, route := id, slot := num, dest := dest, nodes := nodes, own := ownSet pt (ownNum s), ndetOk := ndetOk }
                  ask := nodes.map RouteNode.num, auto := auto } s

/-- A RELEASE request taken by Hoop firmware (R359): the route of the slot is withdrawn on every device at once. The result where the
device publishes no route on the slot is open (log entry 30). -/
def release (who : Requester) (s : State) : State :=
  let k := reqIdx who
  let slot := getF s pCst CST.RQ_SLOT_SLOT k
  let done := fun (r : Nat) (s : State) =>
    irqBit pCst 1 (putF pCst CST.RQ_STAT_DONE 1 k (putF pCst CST.RQ_STAT_RESULT r k (putF pCst CST.RQ_STAT_BUSY 0 k s)))
  match s.cst.routes.find? (fun r => decide (r.slot = slot)) with
  | some r => done 0 (putF pCst CST.RQ_STAT_GSLOT slot k (dropRoute r s))
  | none => done ((Config.freeValue s.free).toNat % 16) (useFree s)

/-- A request that waits, taken at a safe point (R356). While the CST page is frozen it goes on waiting. -/
def serveRequest (k : Nat) (s : State) : State :=
  match smFind k s.cst.goes with
  | none => s
  | some (op, ndetOk, auto) =>
    if !s.boot.fw || isSet s pCst HDR.CTRL_FREEZE then s
    else
      let s := { s with cst := { s.cst with goes := smErase k s.cst.goes } }
      let who : Requester := if k = 0 then .host else .hoop
      if op = 1 then reserve who ndetOk auto s else release who s

/-! ### Changes of the topology table (R350 to R352, R361, R363) -/

/-- What counts as a change of the table: the entries without their sequence numbers, and the links. -/
def topoView (s : State) : List (Nat × Nat × Nat × List LsaPort) × List Link :=
  ((topoTable s).map (fun e => (e.uid, e.num, e.flags, e.ports)), linksOf (topoTable s))

/-- The time root: the lowest NUM with TROOT, the device's own as TIME_CFG holds it (R352). -/
def timeRoot (s : State) : Option Nat :=
  match (if joined s && isSet s pCst CST.TIME_CFG_TROOT then [ownNum s] else [])
      ++ (s.cst.topo.filter (fun e => bit e.flags 2 = 1)).map TopoEntry.num with
  | [] => none
  | n :: ns => some (ns.foldl min n)

/-- Hoop firmware's choice of time root and parent (R352). SRC and the time port are written only while no Tambour runs, and not from
the write of ARM to its epoch, since a new root or parent affects only the next epoch that is armed. -/
def chooseTime (s : State) : State :=
  if !cstOn s || !joined s then s
  else
    let me := ownNum s
    let conf := isSet s pCst CST.TIME_CFG_TROOT && (match timeRoot s with | some r => decide (r ≠ me) | none => false)
    let s := if conf && !isSet s pCst CST.STATUS_TR_CONF then errRec pCst 0x24 0 0 ((timeRoot s).getD 0) 0 s else s
    let s := putF pCst CST.STATUS_TR_CONF (ofBool conf) 0 s
    match timeRoot s with
    | none => s
    | some r =>
      if r = me then putF pCst CST.TIME_STAT_DEPTH 0 0 s
      else if !isSet s pCst CST.TIME_CFG_FOLLOW || anyRunning s || isSet s 1 CLK.SYNC_STAT_EPOCH_PEND then s
      else
        let main := (linksOf (topoTable s)).filter (fun l => !l.fb)
        let t := growTree main 32 (rootNode r)
        match t.find? (fun x => decide (x.num = me)) with
        | none => s
        | some x =>
          let up := (main.filter (fun l => decide (l.a = me))).filter (fun l =>
            t.any (fun y => decide (y.num = l.b) && decide (y.hops + 1 = x.hops)))
          match up with
          | [] => s
          | l :: ls =>
            let b := ls.foldl (fun m y => if y.b < m.b ∨ (y.b = m.b ∧ y.p < m.p) then y else m) l
            putF 1 CLK.SYNC_CTL_SRC 2 0 (putF pCst CST.TIME_STAT_PORT b.p 0
              (putF pCst CST.TIME_STAT_PARENT b.b 0 (putF pCst CST.TIME_STAT_DEPTH x.hops 0 s)))

/-- Whether every link on the path of a route to a device still stands in the table. -/
def pathStands (ls : List Link) (nodes : List RouteNode) (pub : Nat) : Nat → Nat → Bool
  | 0, _ => false
  | k + 1, d =>
    if d = pub then true
    else match nodes.find? (fun n => decide (n.num = d)) with
      | none => false
      | some n => ls.any (fun l => decide (l.a = n.parent) && decide (l.p = n.pport) && decide (l.b = d)) && pathStands ls nodes pub k n.parent

/-- The destinations that a route does not reach. -/
def lostDests (s : State) (r : Route) : Nat :=
  let ls := linksOf (topoTable s)
  (destList r.dest).foldl (fun m d => if pathStands ls r.nodes (ownNum s) 33 d then m else setBit m d) 0

/-- A route looked at after a change (R363): destinations newly lost are recorded. -/
def routeCheck (r : Route) (s : State) : State :=
  let lost := lostDests s r
  let s := { s with cst := { s.cst with routes := s.cst.routes.map (fun x => if x.slot = r.slot then { x with lost := lost } else x) } }
  let s := showPart r.who s
  if (destList lost).any (fun d => decide (bit r.lost d = 0)) then errRec pCst 0x26 1 0 r.slot lost s else s

/-- The repair of a partial route, where a destination it has lost can be reached again (R363). -/
def routeRepair (r : Route) (s : State) : State :=
  let t := routeTree s r.ndetOk
  let back := (destList r.lost).filter (fun d => t.any (fun x => decide (x.num = d) && decide (x.hops ≤ 4)))
  if isSet s pCst CST.RT_CFG_REPAIR && decide (back ≠ []) && (smFind (2 + r.slot) s.cst.rq).isNone then
    let reach := (destList r.dest).filter (fun d => decide (bit r.lost d = 0) || decide (d ∈ back))
    let pt := pruneTree t (reach.foldl setBit 0)
    let nodes := treeNodes pt (ownNum s)
    let ask := (nodes.filter (fun n => !(r.nodes.any (fun o => decide (o = n))) || decide (n.num ∈ back))).map RouteNode.num
    let lost := (destList r.lost).foldl (fun m d => if d ∈ back then m else setBit m d) 0
    rqStart (2 + r.slot) { route := { r with nodes := nodes, own := ownSet pt (ownNum s), lost := lost }, ask := ask } s
  else s

/-- Every route of this device that can be repaired. -/
def repairAll (s : State) : State := if cstOn s && joined s then forAll s.cst.routes routeRepair s else s

/-- What a change of the table brings about: the generation, the link ages, NDEV, FAR devices, reservations cut short,
routes of departed publishers, lost destinations and the choice of the time parent. -/
def topoChanged (s : State) : State :=
  let es := topoTable s
  let ls := linksOf es
  let ages := ls.foldl (fun m l => smSet (8 * l.a + l.p) (smGet s.up (8 * l.a + l.p) s.cst.links) m) []
  let s := { s with cst := { s.cst with links := ages } }
  let s := irqBit pCst 0 (incWrap pCst CST.TOPO_GEN 0 s)
  let s := putF pCst CST.STATUS_NDEV es.length 0 s
  let walk := walkFrom s (ownNum s)
  let far := (walk.filter (fun x => decide (4 < x.hops))).map TreeNode.num
  let s := match far with
    | [] => putF pCst CST.STATUS_DIAM 0 0 s
    | f :: fs =>
      let was := isSet s pCst CST.STATUS_DIAM
      let s := irqBit pCst 4 (putF pCst CST.STATUS_DIAM 1 0 s)
      if was then s else errRec pCst 0x21 0 0 (fs.foldl min f) 0 s
  let s := forAll s.cst.rq (fun e s => rqFail e.1 e.2 8 s) s
  let gone := s.cst.holds.filter (fun h => !(walk.any (fun x => decide (x.num = h.route / 2 ^ 27))))
  let s := forAll gone dropHold s
  let s := forAll s.cst.routes routeCheck s
  repairAll (chooseTime s)

/-- A change made to what the table is built from, with what follows if the table has changed. -/
def topoEdit (g : State → State) (s : State) : State :=
  let was := topoView s
  let s := g s
  if topoView s = was then s else topoChanged s

/-! ### NUM (R344 to R346) -/

/-- The numbers that known devices announce. -/
def usedNums (s : State) : List Nat :=
  s.cst.topo.map TopoEntry.num ++ (s.cst.nbs.map (fun e => e.2.num)).filter (fun n => n < 32)

/-- The device joins with a NUM. -/
def joinAs (n : Nat) (s : State) : State :=
  urge .topology (topoEdit (fun s =>
    let s := noteWas none (HDR.STATUS.addr pCst 0) s
    let s := putF pCst CST.STATUS_FULL 0 0 (putF pCst CST.STATUS_JOINED 1 0 (putF pCst CST.ID_CFG_NUM_F n 0 s))
    { s with cst := { s.cst with own := some (ownEntry s), oldNum := some n } }) s)

/-- Another device announces this device's NUM (R345): the lower UID keeps it. -/
def numClash (uid num : Nat) (s : State) : State :=
  if joined s && decide (num = ownNum s) && decide (uid < ownUid) then
    let s := dropAll s
    let s := errRec pCst 0x20 0 0 num (uid % 2 ^ 32) (irqBit pCst 3 (putF pCst CST.STATUS_CONFLICT 1 0 s))
    topoEdit (fun s => putF pCst CST.STATUS_JOINED 0 0 { s with cst := { s.cst with own := none, clash := some num } }) (noteWas none (HDR.STATUS.addr pCst 0) s)
  else s

/-- A new own description flooded (R349). -/
def floodLsa (s : State) : State :=
  let s := { s with hoop := { s.hoop with urgent := s.hoop.urgent.filter (fun u => u ≠ .topology) } }
  if cstOn s && joined s then
    let s := topoEdit (fun s =>
      let s := { s with cst := { s.cst with lsaSeq := (s.cst.lsaSeq + 1) % 2 ^ 32, floodUp := some s.up } }
      { s with cst := { s.cst with own := some (ownEntry s) } }) s
    let e := ownEntry s
    let body := toBytes e.uid 8 ++ toBytes e.num 1 ++ toBytes e.flags 1 ++ toBytes 0 2 ++ toBytes e.seq 4
      ++ (e.ports.map (fun x => toBytes x.lstate 1 ++ toBytes x.num 1 ++ toBytes x.port 1 ++ toBytes x.fh 1 ++ toBytes x.uid 4)).flatten
    sendFlood 0 0x02 body s
  else s

/-! ### Skew (R402, R403, R407) -/

/-- A rejection of the skew item (R402). -/
def skewReject (reason : Nat) (s : State) : State :=
  let sec := s.up / 1000000000 + 1
  let s := irqBit 0x39 0 (incSat 0x39 CAL.REJ_CNT2_SKEW 0 s)
  if s.cal.rejSkew = sec then s
  else errRec 0x39 0x20 0 0 (5 + 16 * reason) 0 { s with cal := { s.cal with rejSkew := sec } }

/-- The reports that count: those of the last 3 s from devices with the same root (R407). -/
def currentReps (s : State) : List (Nat × SkewRep) :=
  s.cal.reps.filter (fun e => decide (s.up ≤ e.2.since + 3000000000) && decide (some e.2.root = timeRoot s))

/-- The least lead of the current reports, the device's own included (R407). -/
def leastLead (s : State) (own : Int) : Int := (currentReps s).foldl (fun m e => min m e.2.lead) own

/-- The skew proposal from the device's own lead (R402, R403, R407). -/
def skewPropose (s : State) : State :=
  if !isSet s 0x39 HDR.CTRL_EN || isSet s 0x39 HDR.CTRL_FREEZE || !isSet s 0x39 CAL.CAL_CTL_EN_SKEW then s
  else
    let own := toSigned 16 (getF s 0x39 CAL.SKEW_STAT_LEAD)
    let trim := own - leastLead s own
    let s := putF 0x39 CAL.SKEW_STAT_PROP (clampI 0 255 trim).toNat 0 (putF 0x39 CAL.SKEW_STAT_NREP (currentReps s).length 0 s)
    let cur : Int := getB s 1 CLK.SKEW_TRIM_TRIM
    if getF s 0x39 CAL.CONV_LIM_SKEW_MOVE < (trim - cur).natAbs then skewReject 3 s
    else if trim < 0 ∨ 255 < trim then skewReject 4 s
    else settle { s with cal := { s.cal with skewShadow := some trim.toNat } }

end Sys2Proof.Machine
end

