-- ==== Sys2Proof/Machine/CalRunOps.lean ====
section
/-!
DEFINITION. The work of live calibration: pending runs (R393), temperature slots and their interpolation (R389, R390),
plausibility and acceptance (R402, R403), and the calibration stores (R408, R409).
-/
namespace Sys2Proof.Machine

/-- The CAL page. -/
def pCal : Nat := 0x39

/-- Live calibration works (R405). -/
def calOn (s : State) : Bool := isSet s pCal HDR.CTRL_EN && !isSet s pCal HDR.CTRL_FREEZE

/-! ### Exact roots -/

/-- The whole part of a square root, by the binary digits of the result from `k` − 1 down. -/
def isqrtFrom (n : Nat) : Nat → Nat → Nat
  | 0, r => r
  | k + 1, r => isqrtFrom n k (if (r + 2 ^ k) * (r + 2 ^ k) ≤ n then r + 2 ^ k else r)

/-- The whole part of the square root of `n`. -/
def isqrt (n : Nat) : Nat := isqrtFrom n (Nat.log2 n / 2 + 1) 0

/-- The square root of n / d to the nearest whole number, a tie upward; `d` is positive. -/
def rootRound (n d : Nat) : Nat := (isqrt (4 * n / d) + 1) / 2

/-- round(sqrt(n / d) − c), ties away from zero; `d` is positive. -/
def rootLess (n d c : Nat) : Int :=
  let r := isqrt (4 * n / d)
  let tie := decide (r % 2 = 1) && decide (r * r * d = 4 * n)
  (if tie && decide (r < 2 * c) then ((r - 1) / 2 : Nat) else ((r + 1) / 2 : Nat)) - (c : Int)

/-! ### The values of a tile -/

/-- How many calibration values a tile has: the trims of R395 that its DACs take, and on a read-out tile three values per
sub-converter. -/
def valCount (b : Nat) : Nat :=
  match tileKind b with
  | .drv => 130
  | .rdo => 113
  | .flx => 32

/-- The values in force of a tile; none yet measured is zero. -/
def calVals (s : State) (b : Nat) : List Int := (List.range (valCount b)).map (fun i => (calTile s b).vals.getD i 0)

/-- The values that the next commit of a tile will put in force. -/
def calNext (s : State) (b : Nat) : List Int := ((calTile s b).shadow).getD (calVals s b)

/-- The number of DACs of a tile. -/
def dacCount (b : Nat) : Nat :=
  match tileKind b with
  | .drv => 2
  | .rdo => 1
  | .flx => 16

/-- A DAC of a tile is powered down (R388). -/
def dacPd (s : State) (b d : Nat) : Bool :=
  match tileKind b with
  | .drv => isSet s (tilePage b) DRV.DAC_CFG_PD d
  | .rdo => isSet s (tilePage b) RDO.PDAC_CFG_PD
  | .flx => isSet s (tilePage b) FLX.OUT_CFG_PD d

/-- The steps of a run (R395). -/
def stepCount (b : Nat) : Nat := if isFlx b then 2 else 65

/-- The index among a tile's values of what step `k` measures on DAC `d` (R395). -/
def stepVal (b d k : Nat) : Nat := if isFlx b then 2 * d + k else 65 * d + k

/-- The DAC that a value of a tile belongs to; none for a value of a sub-converter. -/
def valDac (b i : Nat) : Option Nat := if isFlx b then some (i / 2) else if i / 65 < dacCount b then some (i / 65) else none

/-! ### Slots (R389, R390) -/

/-- The slot point `i` in 1/16 °C. -/
def slotPoint (s : State) (i : Nat) : Int := toSigned 16 (getF s pCal CAL.TP_POINT i)

/-- The slot that a temperature selects: the nearest point, a tie to the lower slot (R389). -/
def slotFor (s : State) (t : Int) : Nat :=
  (List.range 8).foldl (fun m i => if (t - slotPoint s i).natAbs < (t - slotPoint s m).natAbs then i else m) 0

/-- VALID of a tile shows which slots hold a set. -/
def showValid (b : Nat) (s : State) : State :=
  putF pCal CAL.TILE_STAT_VALID ((((calTile s b).slots).map (fun e => e.1)).foldl setBit 0) b s

/-- A set stored in a slot of a tile (R389). -/
def putSlot (b i : Nat) (x : CalSet) (s : State) : State :=
  showValid b (modCal b (fun c => { c with slots := smSet i x c.slots }) s)

/-- A slot of a tile emptied (R389). -/
def dropSlot (b i : Nat) (s : State) : State := showValid b (modCal b (fun c => { c with slots := smErase i c.slots }) s)

/-- The set with the highest temperature up to `t`, and that with the lowest above it (R390). -/
def below (t : Int) (l : List CalSet) : Option CalSet :=
  (l.filter (fun x => x.temp ≤ t)).foldl (fun m x => match m with
    | none => some x
    | some y => if y.temp < x.temp then some x else some y) none
def above (t : Int) (l : List CalSet) : Option CalSet :=
  (l.filter (fun x => t < x.temp)).foldl (fun m x => match m with
    | none => some x
    | some y => if x.temp < y.temp then some x else some y) none

/-- The values evaluated at a temperature from the sets of a tile (R390); none without a set. -/
def evalSets (t : Int) (l : List CalSet) : Option (List Int) :=
  match below t l, above t l with
  | some a, some b =>
    some (List.zipWith (fun x y => roundDiv (x * (b.temp - a.temp) + (y - x) * (t - a.temp)) (b.temp - a.temp).toNat) a.vals b.vals)
  | some a, none => some a.vals
  | none, some b => some b.vals
  | none, none => none

/-- The sets that a tile holds. -/
def setsOf (s : State) (b : Nat) : List CalSet := ((calTile s b).slots).map (fun e => e.2)

/-- Values entered into a tile's shadow; on a tile that does not run they take effect at once (R69, R403). -/
def calShadow (b : Nat) (v : List Int) (ends : Bool) (s : State) : State :=
  let s := modCal b (fun c => { c with shadow := some v, shadowRun := c.shadowRun || ends }) s
  if tileRunning s b then s else calCommitTile b (stageTile s b).cal s

/-- The values of a tile re-evaluated at a temperature (R391). -/
def calEval (b : Nat) (t : Int) (ends : Bool) (s : State) : State :=
  match evalSets t (setsOf s b) with
  | some v => calShadow b v ends s
  | none => s

/-! ### Runs (R393 to R397) -/

/-- A run of a tile is pending. -/
def calPending (s : State) (b : Nat) : Bool := decide (bit (getF s pCal CAL.PEND_MAP) b = 1)

/-- The Sampler holds an injected conversion, pending or in progress (R393). -/
def injHeld (s : State) : Bool :=
  decide (s.smp.injPend ≠ []) || (match s.smp.cur with | some (.inj _) => true | _ => false)

/-- STEPS of a tile. -/
def putSteps (b n : Nat) (s : State) : State := putF pCal CAL.TILE_RUN_STEPS n b s

/-- What a run has measured discarded: it starts again from step 0. -/
def calRestart (b : Nat) (s : State) : State := putSteps b 0 (modCal b (fun c => { c with trims := [], part := [] }) s)

/-- A run becomes pending on a tile, or merges into the one that is (R393). -/
def setPending (b : Nat) (s : State) : State :=
  if !isSet s pCal HDR.CTRL_EN || !tileUsable s b || calPending s b then s
  else
    let s := putF pCal CAL.PEND_MAP (setBit (getF s pCal CAL.PEND_MAP) b) 0 (calRestart b s)
    let t := zoneTemp s b
    let w := injHeld s
    stampTimer (tmStale b) (stepsFrom b s.up (modCal b (fun c => { c with snap := t, snapWait := w }) s))

/-- The CAL page freezes: stale timers hold (R405). -/
def calFreeze (s : State) : State := stampTimer tmCalHeld s

/-- The CAL page goes on (R405): the estimators and the stale timers of the pending runs stood still, and a step begins afresh. -/
def calResume (s : State) : State :=
  let d := s.up - smGet s.up tmCalHeld s.timers
  let s := forAll (List.range 32) (fun b s => shiftTimer (tmBlock b) d s) s
  forAll ((List.range 32).filter (calPending s)) (fun b s => modCal b (fun c => { c with stepAt := s.up }) (shiftTimer (tmStale b) d s)) s

/-- The injected conversions are over: the runs that waited take their snapshot (R393). -/
def snapReady (s : State) : State :=
  if injHeld s then s
  else forAll ((List.range 32).filter (fun b => (calTile s b).snapWait))
    (fun b s => modCal b (fun c => { c with snap := zoneTemp s b, snapWait := false }) s) s

/-- A round's zone temperatures against the last run's snapshot (R393). -/
def runTrigger (b : Nat) (s : State) : State :=
  if getF s pCal CAL.CAL_DT_DT < (zoneTemp s b - toSigned 16 (getF s pCal CAL.TILE_STAT_T_RUN b)).natAbs then setPending b s else s

/-- Every pending run discarded (R405). -/
def calDropRuns (s : State) : State :=
  putF pCal CAL.PEND_MAP 0 0
    (forAll ((List.range 32).filter (calPending s)) (fun b s => modCal b (fun c => { c with snapWait := false }) (calRestart b s)) s)

/-- The stale bit of a tile. -/
def setStale (b : Nat) (v : Bool) (s : State) : State :=
  let s := putF pCal CAL.STALE_MAP (putBit (getF s pCal CAL.STALE_MAP) b v) 0 s
  putF pCal CAL.STATUS_STALE_ANY (ofBool (decide (getF s pCal CAL.STALE_MAP ≠ 0))) 0 s

/-- Measurement time on a tile (R394): a step that ends in the fc at hand lies in a declared gap of class 4 or above that has
not been violated, or in a stopped interval. -/
def measurable (s : State) (b : Nat) : Bool :=
  let t := tileOf s b
  decide (tileState s b = stStopped) || decide (tileState s b = stHaltedMc)
    || (decide (tileState s b = stRun) && decide (t.gapStart + 128 ≤ t.gapEnd) && !t.gapViol
        && decide (t.gapStart + 96 ≤ now s) && decide (now s + 32 ≤ t.gapEnd))

/-! ### Rejection (R402) -/

/-- The counter of an item's rejections. -/
def rejFld (item : Nat) : Fld :=
  if item = 1 then CAL.REJ_CNT_ADC else if item = 2 then CAL.REJ_CNT_DAC else if item = 3 then CAL.REJ_CNT1_FLX else CAL.REJ_CNT1_DISC

/-- A rejection of an item on a tile, with its reason, tone and unit (R402, R411). -/
def calReject (item reason b tone unit : Nat) (s : State) : State :=
  let sec := s.up / 1000000000 + 1
  let s := irqBit pCal 0 (incSat pCal (rejFld item) 0 s)
  if smGet 0 item (calTile s b).rejRec = sec then s
  else errRec pCal 0x20 0 unit (item + 16 * reason + 256 * b + 2 ^ 16 * tone) 0
    (modCal b (fun c => { c with rejRec := smSet item sec c.rejRec }) s)

/-- The limit of movement and of range of a value of a tile (R402): the first reason that a new value fails for, if any. -/
def valReason (move lim : Nat) (old new : Int) : Option Nat :=
  if move < (new - old).natAbs then some 3 else if lim < new.natAbs then some 4 else none

/-- The first value of a list that a check fails: its index and the reason. Every check of the movement comes before those
of the range. -/
def firstReason (l : List (Nat × Option Nat)) : Option (Nat × Nat) :=
  match l.find? (fun e => e.2 = some 3) with
  | some (i, _) => some (i, 3)
  | none => (l.find? (fun e => e.2 = some 4)).map (fun e => (e.1, 4))

/-! ### The end of a run -/

/-- What a run measured, over the values in force of the DACs it skipped (R388, R396). -/
def runVals (s : State) (b : Nat) : List Int :=
  let c := calTile s b
  (calNext s b).mapIdx (fun i v => match valDac b i with
    | none => v
    | some d => if dacPd s b d then (calVals s b).getD i 0 else c.trims.getD i 0)

/-- The check of a run (R402). -/
def runCheck (s : State) (b : Nat) (v : List Int) : Option (Nat × Nat) :=
  let old := calVals s b
  firstReason ((List.range v.length).filterMap (fun i => (valDac b i).map (fun d =>
    (d, valReason (if isFlx b then getF s pCal CAL.CONV_LIM_FLX_MOVE else getF s pCal CAL.CONV_LIM_DAC_MOVE)
      (if isFlx b || decide (i % 65 = 64) then 32767 else 127) (old.getD i 0) (v.getD i 0)))))

/-- The estimation block of a read-out tile closes, and the next one begins (R398). -/
def closeBlock (b : Nat) (s : State) : State := stampTimer (tmBlock b) (modCal b (fun c => { c with blockOvr := false }) s)

/-- A run is complete (R396): it is no longer pending, and it is checked and accepted, or rejected (R389, R391, R402, R403,
R409). On a read-out tile its set holds the ADC values too, and the ADC block in progress closes. -/
def runDone (b : Nat) (s : State) : State :=
  let v := runVals s b
  let t := (calTile s b).snap
  let bad := runCheck s b v
  let s := calRestart b (putF pCal CAL.PEND_MAP (clrBit (getF s pCal CAL.PEND_MAP) b) 0 s)
  let s := incSat pCal CAL.TILE_RUN_RUNS b (putF pCal CAL.TILE_STAT_T_RUN (ofSigned 16 t) b (setStale b false s))
  let s := { s with cal := { s.cal with due := true } }
  match bad with
  | some (u, r) => calReject (if isFlx b then 3 else 2) r b 0 u s
  | none =>
    let s := if isRdo b then closeBlock b s else s
    calEval b t true (putSlot b (slotFor s t) { temp := t, vals := v } s)

/-! ### The NVS area (R408 to R410) -/

/-- The NVS offset of copy A or B (R503). -/
def calBase (copy : Nat) : Nat := if copy = 0 then 0x10000 else 0x24000

/-- `n` zero bytes. -/
def zeros (n : Nat) : List Byte := List.replicate n 0#8

/-- Bytes filled up with zeros to `n`. -/
def padTo (n : Nat) (l : List Byte) : List Byte := l ++ zeros (n - l.length)

/-- A DAC block: group trims g at byte g, the offset trim at 64 and 65 (R408). -/
def dacBlock (v : List Int) : List Byte :=
  padTo 0x80 (((v.take 64).map (fun x => (toBytes (ofSigned 8 x) 1))).flatten ++ toBytes (ofSigned 16 (v.getD 64 0)) 2)

/-- One converter set in its 256 bytes (R408). -/
def setBytes (b : Nat) (v : List Int) : List Byte :=
  let g := fun i => v.getD i 0
  padTo 0x100 (match tileKind b with
    | .drv => dacBlock (v.take 65) ++ dacBlock (v.drop 65)
    | .rdo => dacBlock (v.take 65) ++ ((List.range 16).map (fun k =>
        toBytes (RDO.ADC_IL_GAIN.upd (ofSigned 8 (g (65 + 3 * k))) (RDO.ADC_IL_OFFS.upd (ofSigned 8 (g (66 + 3 * k)))
          (RDO.ADC_IL_SKEW.upd (ofSigned 8 (g (67 + 3 * k))) 0#32))).toNat 4)).flatten
    | .flx => ((List.range 16).map (fun k => toBytes (FLX.OUT_TRIM_OFFS.upd (ofSigned 16 (g (2 * k)))
        (FLX.OUT_TRIM_GTRIM.upd (ofSigned 16 (g (2 * k + 1))) 0#32)).toNat 4)).flatten)

/-- The body of a copy, from offset 64 (R408). -/
def calBody (s : State) : List Byte :=
  let slot := fun b i => smFind i (calTile s b).slots
  let dir := (List.range 32).map (fun b => ((List.range 8).map (fun i => toBytes (match slot b i with
    | some x => 2 ^ 31 + ofSigned 16 x.temp
    | none => 0) 4)).flatten)
  let geo := (List.range 8).map (fun t => ((List.range 32).map (fun k =>
    (((geometry s (16 + t) k).take 8).map (fun w => toBytes w.toNat 4)).flatten)).flatten)
  let sets := (List.range 32).map (fun b => ((List.range 8).map (fun i => match slot b i with
    | some x => setBytes b x.vals
    | none => zeros 0x100)).flatten)
  zeros (0x400 - 64) ++ dir.flatten ++ padTo (0x4000 - 0x800) geo.flatten ++ sets.flatten

/-- The header of a copy with a CRC value (R408). -/
def calHeader (seq crc : Nat) : List Byte :=
  toBytes 0x534C4143 4 ++ toBytes 1 4 ++ toBytes 0x14000 4 ++ toBytes seq 4 ++ zeros 44 ++ toBytes crc 4

/-- `n` bytes of the NVS. -/
def nvsList (s : State) (a n : Nat) : List Byte := (List.range n).map (fun i => nvsByte s (a + i))

/-- A copy's header with its CRC field, and whether the copy is valid (R408, R410). -/
def copyValid (s : State) (copy : Nat) : Bool :=
  let l := nvsList s (calBase copy) 0x14000
  decide (leNat (l.take 4) = 0x534C4143) && decide (leNat ((l.drop 60).take 4) = crc32 (l.take 60 ++ zeros 4 ++ l.drop 64))

/-- SEQ `a` is newer than `b`, modulo 2^32 as a signed difference (R410). -/
def seqNewer (a b : Nat) : Bool := decide (a ≠ b) && decide ((a + 2 ^ 32 - b) % 2 ^ 32 < 2 ^ 31)

/-- The copy that a store writes: an invalid one, else the one with the older SEQ (R409). -/
def storeCopy (s : State) : Nat :=
  if !isSet s pCal CAL.NVS_STAT_VALID_A then 0
  else if !isSet s pCal CAL.NVS_STAT_VALID_B then 1
  else if seqNewer s.cal.seqA s.cal.seqB then 1 else 0

/-- A calibration store starts (R409): the body goes first, so the copy being written is invalid until its header is there.
One asked for during a store is made after it. -/
def storeStart (s : State) : State :=
  match s.cal.storing with
  | some _ => { s with cal := { s.cal with due := true } }
  | none =>
    let c := storeCopy s
    let s := nvsPut (calBase c) (zeros 64 ++ calBody s) s
    let s := putF pCal (if c = 0 then CAL.NVS_STAT_VALID_A else CAL.NVS_STAT_VALID_B) 0 0 (putF pCal CAL.STATUS_STORE_BUSY 1 0 s)
    { s with cal := { s.cal with due := false, storing := some c, storeAt := some s.up } }

/-- The store that is due starts, at most one in 10 s (R409). -/
def storeAuto (s : State) : State :=
  if s.cal.due && s.cal.storing.isNone && s.boot.fw && s.boot.nvsUp
      && (match s.cal.storeAt with | none => true | some t => decide (t + 10000000000 ≤ s.up)) then storeStart s else s

end Sys2Proof.Machine
end

