-- ==== Sys2Proof/Machine/Cal.lean ====
section
/-!
DEFINITION. The commands of 15_live_calibration: runs and their steps (R393 to R397), the estimators (R398 to R402),
inter-device skew (R406), the calibration stores (R409) and the slot points (R389).
-/
namespace Sys2Proof.Machine

/-! ### Runs -/

/-- A write of CAL_REQ (R393): the bits of absent tiles are ignored (R388). -/
def execCalReq (who : Requester) (mask : Nat) (s : State) : Res1 :=
  .next (viaBus who pCal CAL.CAL_REQ 0 mask (fun s => forAll ((List.range 32).filter (fun b => bit mask b = 1)) setPending s) s)

/-- What a step has found entered into the run (R396): a DAC that is powered down or off zero is skipped. -/
def enterStep (b k : Nat) (meas : List (Option Int)) (s : State) : State :=
  let old := (calTile s b).part
  let part := (List.range (dacCount b)).map (fun d => match old.getD d none with
    | some v => some v
    | none => if dacPd s b d then none else meas.getD d none)
  let done := (List.range (dacCount b)).all (fun d => dacPd s b d || (part.getD d none).isSome)
  let at_ := s.up
  if !done then modCal b (fun c => { c with part := part, stepAt := at_ }) s
  else
    let tr := fun (l : List Int) => (List.range (valCount b)).map (fun i =>
      match (List.range (dacCount b)).find? (fun d => decide (stepVal b d k = i)) with
      | some d => (part.getD d none).getD (l.getD i 0)
      | none => l.getD i 0)
    stampTimer (tmStale b) (putSteps b (k + 1) (modCal b (fun c => { c with trims := tr c.trims, part := [], stepAt := at_ }) s))

/-- A DAC's input was zero for the 64 fc before a step that ends in the fc at hand, and stayed zero throughout it (R193, R396). -/
def quiet (s : State) (b d : Nat) : Bool := decide (smGet 0 d (tileOf s b).busy + 128 ≤ s.up)

/-- A 64 fc step ends (R394 to R396, R388, R405). A DAC that did not stay quiet is skipped. -/
def execCalStepDone (b : Nat) (meas : List (Option Int)) (s : State) : Res1 :=
  let ok := tileUsable s b && calPending s b && calOn s && isSet s pCal CAL.CAL_CTL_EN_DAC && !(calTile s b).snapWait
    && measurable s b && decide ((calTile s b).stepAt + 64 ≤ s.up) && isSet s 1 CLK.PLL_STAT_LOCK
  if !ok then .next s
  else
    let meas := meas.mapIdx (fun d m => if quiet s b d then m else none)
    let s := enterStep b (getF s pCal CAL.TILE_RUN_STEPS b) meas s
    .next (if stepCount b ≤ getF s pCal CAL.TILE_RUN_STEPS b then runDone b s else s)

/-- The limit of the stale timers, in ns (R397): CAL_STALE counts ms, and 0 means 65,536. -/
def staleLimit (s : State) : Nat :=
  1000000 * (if getF s pCal CAL.CAL_STALE_LIMIT = 0 then 65536 else getF s pCal CAL.CAL_STALE_LIMIT)

/-- The stale timer of a pending run reaches its limit (R397): the run is deferred. A frozen page holds the timer (R405). It starts with
the run, and again with every step completed (DEDUCED, log entry 96). -/
def execCalStale (b : Nat) (s : State) : Res1 :=
  if !(calPending s b && calOn s && timerDue s (tmStale b) (staleLimit s)) then .next s
  else
    let n := getF s pCal CAL.TILE_RUN_STEPS b
    let s := stampTimer (tmStale b) (irqBit pCal 1 (setStale b true (calRestart b s)))
    let s := errRec pCal 0x21 0 0 (b + 256 * n) 0 (incSat pCal CAL.TILE_RUN_DEFER b s)
    .next (calEval b (zoneTemp s b) false s)

/-! ### ADC interleave (R398) -/

/-- The number of samples of a block and sub-converter. -/
def blockLen : Nat := 2 ^ 22

/-- N² times the variance of a sub-converter's samples. -/
def varOf (x : Int × Nat × Int) : Int := (blockLen : Int) * x.2.1 - x.1 ^ 2

/-- The values that a block estimates (R398): GAIN, OFFS and SKEW of each sub-converter, `skew` those in force. The gain of a
sub-converter without variance is open: free value `g`. -/
def adcEstimate (sums : List (Int × Nat × Int)) (skew : Nat → Int) (g : Nat → Int) : List Int :=
  let at_ := fun k => sums.getD k (0, 0, 0)
  let sumX := (sums.map (fun x => x.1)).sum
  let sumP := (sums.map varOf).sum
  ((List.range 16).map (fun k =>
    let p := varOf (at_ k)
    let gain := if p ≤ 0 then g k else rootLess (2 ^ 22 * sumP.toNat) p.toNat (2 ^ 13)
    let offs := roundDiv (-8 * (16 * (at_ k).1 - sumX)) (16 * blockLen)
    let e := 16 * (blockLen : Int) * ((at_ ((k + 15) % 16)).2.2 - (at_ k).2.2)
    let sk := if sumP < 2 ^ 12 * e.natAbs then skew k + e.sign else skew k
    [gain, offs, sk])).flatten

/-- The ADC of a read-out tile has an estimation block of 2^22 samples per sub-converter, 2 ns apart, complete (R387, R398, R405). -/
def blockReady (s : State) (b : Nat) : Bool :=
  isRdo b && tileUsable s b && calOn s && isSet s pCal CAL.CAL_CTL_EN_ADC && !isSet s (tilePage b) RDO.ADC_CFG_PD
    && timerDue s (tmBlock b) (2 * blockLen)

/-- An estimation block completes (R398): discarded below 2^-14 of full scale squared (a full scale of 2,048
LSB, R201) or with an overranged fc, else checked and accepted (R402, R403, R409). -/
def execAdcBlockDone (b : Nat) (sums : List (Int × Nat × Int)) (s : State) : Res1 :=
  if !blockReady s b then .next s
  else if (calTile s b).blockOvr || decide ((sums.map varOf).sum < 2 ^ 12 * (blockLen : Int) ^ 2) then
    .next (closeBlock b s)
  else
    let s := closeBlock b s
    let old := calVals s b
    let n0 := s.free
    let v := adcEstimate sums (fun k => old.getD (67 + 3 * k) 0) (fun k => (Config.freeValue (n0 + k)).toInt)
    let s := { s with free := s.free + 16 }
    let lim := fun (i : Nat) => getF s pCal
      (if i % 3 = 0 then CAL.CONV_LIM_ADC_GMOVE else if i % 3 = 1 then CAL.CONV_LIM_ADC_OMOVE else CAL.CONV_LIM_ADC_SMOVE)
    match firstReason ((List.range 48).map (fun i => (i / 3, valReason (lim i) 127 (old.getD (65 + i) 0) (v.getD i 0)))) with
    | some (u, r) => .next (calReject 1 r b 0 u s)
    | none =>
      let i := slotFor s (zoneTemp s b)
      let s := match smFind i (calTile s b).slots with
        | some x => { putSlot b i { x with vals := x.vals.take 65 ++ v } s with cal := { (putSlot b i { x with vals := x.vals.take 65 ++ v } s).cal with due := true } }
        | none => s
      .next (calShadow b ((calNext s b).take 65 ++ v) false s)

/-! ### Discriminator geometry (R400 to R402) -/

/-- A proposal for one class (R401): the new centroid, and the new spread before its scale. -/
structure Prop1 where
  c : Cplx
  spr : Nat
  deriving DecidableEq, Repr

/-- The class values that the sums propose (R401); where a class has no weight, or its sums leave no variance, the value is
open: free values from `n`. -/
def propClass (r : Track) (g : Geom) (ssh k n : Nat) : Prop1 :=
  let w := r.w.getD k 0
  let i := r.si.getD k 0
  let q := r.sq.getD k 0
  let free := fun j => (Config.freeValue (n + 3 * k + j)).toNat
  if w ≤ 0 then { c := { re := free 0, im := free 1 }, spr := free 2 }
  else
    let c := g.c.getD k {}
    let num := r.sd.getD k 0 * w - (i - c.re * w) ^ 2 - (q - c.im * w) ^ 2
    { c := { re := roundDiv i w.toNat, im := roundDiv q w.toNat }
      spr := if num < 0 then free 2 else rootRound num.toNat ((2 * w ^ 2).toNat * 4 ^ ssh) }

/-- The squared distance of two points. -/
def dist2 (x y : Cplx) : Nat := ((x.re - y.re) ^ 2 + (x.im - y.im) ^ 2).toNat

/-- The check of a geometry proposal (R402): `ks` the enabled classes, `qs` those that move, `c` and `sg` the centroids and
spreads that would be in force, `spr` the new SPR fields. -/
def discReason (s : State) (r : Track) (g : Geom) (ks qs : List Nat) (c : Nat → Cplx) (sg spr : Nat → Nat) : Option Nat :=
  let sep := getF s pCal CAL.DISC_CFG_SEP_MIN
  let move := getF s pCal CAL.DISC_CFG_MOVE
  let ratio := getF s pCal CAL.DISC_LIM_RATIO
  let old := fun k => g.spr.getD k 1
  let apart := ks.all (fun i => ks.all (fun j => decide (j ≤ i)
    || decide ((sep * max (sg i) (sg j)) ^ 2 ≤ 256 * dist2 (c i) (c j))))
  let near := qs.all (fun k => decide (64 ^ 2 * dist2 (c k) (g.c.getD k {}) ≤ (move * old k) ^ 2)
    && decide (64 * sg k ≤ ratio * old k) && decide (64 * old k ≤ ratio * sg k))
  let in24 := fun v : Int => decide (-(2 ^ 23) ≤ v) && decide (v < 2 ^ 23)
  let fits := qs.all (fun k => in24 (c k).re && in24 (c k).im && decide (1 ≤ spr k) && decide (spr k ≤ 65535))
  if !apart then some 1
  else if getF s pCal CAL.DISC_LIM_OUT_MAX * r.n < 256 * r.out then some 2
  else if !near then some 3
  else if !fits then some 4
  else none

/-- The eight words of a geometry with the values of one class replaced. -/
def setClass (k : Nat) (x : Prop1) (ws : List Word) : List Word :=
  let fs : Fld × Fld × Fld × Nat × Nat × Nat :=
    if k = 0 then (RDO.DISC_W0_C0_I, RDO.DISC_W1_C0_Q, RDO.DISC_W6_SPR0, 0, 1, 6)
    else if k = 1 then (RDO.DISC_W2_C1_I, RDO.DISC_W3_C1_Q, RDO.DISC_W6_SPR1, 2, 3, 6)
    else (RDO.DISC_W4_C2_I, RDO.DISC_W5_C2_Q, RDO.DISC_W7_SPR2, 4, 5, 7)
  ws.mapIdx (fun i w =>
    let w := if i = fs.2.2.2.1 then fs.1.upd (ofSigned 24 x.c.re) w else w
    let w := if i = fs.2.2.2.2.1 then fs.2.1.upd (ofSigned 24 x.c.im) w else w
    if i = fs.2.2.2.2.2 then fs.2.2.1.upd x.spr w else w)

/-- A tone's tracked results have reached 2^NP and hand a proposal to Hoop firmware, which checks it (R401, R402, R403). The
counts restart. -/
def execDiscProposal (b t : Nat) (s : State) : Res1 :=
  let r := trackOf s b t
  if !(isRdo b && tileUsable s b && calOn s && isSet s pCal CAL.CAL_CTL_EN_DISC && s.boot.fw
      && decide (2 ^ getF s pCal CAL.DISC_CFG_NP ≤ r.n)) then .next s
  else
    let ws := geometry s b t
    let g := geomOf ws
    let ssh := RDO.DISC_W2_SSH.of (ws.getD 2 0#32)
    let ks := classesOf (RDO.DEC_CFG_CLS.of (ws.getD 8 0#32))
    let qs := ks.filter (fun k => getF s pCal CAL.DISC_LIM_POP_MIN * (r.w.sum : Int) ≤ 256 * r.w.getD k 0)
    let x := fun k => propClass r g ssh k s.free
    let c := fun k => if k ∈ qs then (x k).c else g.c.getD k {}
    let sg := fun k => if k ∈ qs then (x k).spr * 2 ^ ssh else g.spr.getD k 1
    let why := discReason s r g ks qs c sg (fun k => (x k).spr)
    let new := qs.foldl (fun l k => setClass k (x k) l) (ws.take 8)
    let s := setTrack b t { r with n := 0, out := 0 } { s with free := s.free + 9 }
    if qs = [] then .next s
    else match why with
      | some n => .next (calReject 4 n b t 0 s)
      | none =>
        let s := setTrack b t { trackOf s b t with shadow := some new } s
        .next (if tileRunning s b then s else geoCommit b t (trackOf s b t).shadow false s)

/-! ### Inter-device skew (R406) -/

/-- The lead of a device over its time parent from the 512 apparent delays of its time port, in 1/16 fc (R406): half the
difference of the two means of 256. -/
def leadOver (p : Port) : Int := roundDiv (p.inSum - p.outSum) 512

/-- A device takes part in the skew estimates (R387, R406): one whose epoch came over its time port, and the time root, whose lead
of 0 is a report like any other (R407; DEDUCED, log entry 97). -/
def skewTakes (s : State) : Bool :=
  cstOn s && joined s && calOn s && isSet s pCal CAL.CAL_CTL_EN_SKEW
    && (isSet s pCst CST.TIME_STAT_VALID || decide (timeRoot s = some (ownNum s)))

/-- Hoop firmware completes a skew estimate (R406): LEAD, and a SKEW_REPORT flooded on channel 2. A time root has lead 0; a
device whose parent's report it does not hold makes none. -/
def execSkewEstimate (s : State) : Res1 :=
  if !skewTakes s then .next s
  else
    let n := timePort s
    let root := timeRoot s
    let parent := getF s pCst CST.TIME_STAT_PARENT
    let up : Option Int := if some parent = root then some 0 else ((currentReps s).find? (fun e => decide (e.1 = parent))).map (fun e => e.2.lead)
    let p := portOf s n
    let lead : Option Int :=
      if root = some (ownNum s) then some 0
      else if portState s n = 5 ∧ p.mode = some false ∧ p.inN = 256 ∧ p.outN = 256 then up.map (fun u => leadOver p + u)
      else none
    match lead with
    | none => .next s
    | some l =>
      let s := modPort n (fun p => { p with inN := 0, inSum := 0, outN := 0, outSum := 0 }) s
      let s := putF pCal CAL.SKEW_STAT_LEAD (ofSigned 16 l) 0 s
      let est := (s.cal.est + 1) % 2 ^ 32
      let s := { s with cal := { s.cal with est := est } }
      let body := toBytes (ownNum s) 1 ++ toBytes (root.getD 0) 1 ++ toBytes 0 2 ++ toBytes (ofSigned 32 l) 4 ++ toBytes est 4 ++ toBytes 0 4
      .next (skewPropose (sendFlood 2 0x20 body s))

/-! ### Stores (R409) and slot points (R389) -/

/-- A write of 1 to CAL_CTL.STORE (R409). -/
def execCalStoreReq (who : Requester) (s : State) : Res1 :=
  .next (viaBus who pCal CAL.CAL_CTL_STORE 0 1 storeStart s)

/-- The calibration store in progress ends (R408, R409): the header is written last, or the store has failed. -/
def execCalStoreDone (ok : Bool) (err : Nat) (s : State) : Res1 :=
  match s.cal.storing with
  | none => .next s
  | some c =>
    let s := putF pCal CAL.STATUS_STORE_BUSY 0 0 { s with cal := { s.cal with storing := none } }
    let valid := if c = 0 then CAL.NVS_STAT_VALID_A else CAL.NVS_STAT_VALID_B
    if !ok then
      .next (errRec pCal 0x22 2 0 (c + 16 * err) 0 (irqBit pCal 3 (putF pCal CAL.NVS_STAT_FAIL 1 0 s)))
    else
      let other := if c = 0 then (if isSet s pCal CAL.NVS_STAT_VALID_B then s.cal.seqB else 0)
        else (if isSet s pCal CAL.NVS_STAT_VALID_A then s.cal.seqA else 0)
      let seq := (other + 1) % 2 ^ 32
      let crc := crc32 (calHeader seq 0 ++ nvsList s (calBase c + 64) (0x14000 - 64))
      let s := nvsPut (calBase c) (calHeader seq crc) s
      let s := if c = 0 then { s with cal := { s.cal with seqA := seq } } else { s with cal := { s.cal with seqB := seq } }
      .next (incSat pCal CAL.NVS_STAT_STORES 0 (putF pCal valid 1 0 (putF pCal CAL.NVS_STAT_COPY c 0 s)))

/-- The effect of a write of TP[i] (R389): slot i of every tile becomes empty. -/
def tpWriteEffect (i v : Nat) (s : State) : State :=
  forAll (List.range 32) (fun b => dropSlot b i) (putF pCal CAL.TP_POINT v i s)

/-- A write of TP[i] (R389): slot i of every tile becomes empty. -/
def execTpWrite (who : Requester) (i v : Nat) (s : State) : Res1 :=
  .next (viaBus who pCal CAL.TP_POINT i v (tpWriteEffect i v) s)

end Sys2Proof.Machine
end

