-- ==== Sys2Proof/Machine/Clk.lean ====
section
/-!
DEFINITION. The commands of 02_clocks_and_time: the REFCLK monitor and the root PLL (R47, R48, R53 to R55), SYNC and the
epoch (R58 to R60) and the read of TIME (R64).
-/
namespace Sys2Proof.Machine

/-- REF_OK sets (R48); with RELOCK_AUTO, and in SAFE mode, an unlocked PLL starts acquisition (R47, R55, R524). -/
def execRefOkQualify (s : State) : Res1 :=
  let s := putF 1 CLK.PLL_STAT_REF_OK 1 0 s
  .next (if isSet s 1 CLK.PLL_CTL_RELOCK_AUTO && !isSet s 1 CLK.PLL_STAT_LOCK
    then { s with pll := { s.pll with acquiring := true } } else s)

/-- REF_OK clears (R48): a locked PLL declares loss of lock in this fc, and an acquisition ends. -/
def execRefclkFault (s : State) : Res1 :=
  if isSet s 1 CLK.PLL_STAT_REF_OK then
    let s := irqBit 1 1 (putF 1 CLK.PLL_STAT_REF_OK 0 0 s)
    let s := { s with pll := { s.pll with acquiring := false } }
    .next (if isSet s 1 CLK.PLL_STAT_LOCK then lossOfLock s else s)
  else .next s

/-- The PLL declares lock (R47): only while it acquires with REF_OK at 1 and the holdover is over. MCLK and HCLK return to
the root, in step with TIME, which counts from 0 (R49, R62). A relock outside a start makes work for Hoop firmware (R497). -/
def execPllLock (s : State) : Res1 :=
  if s.pll.acquiring && isSet s 1 CLK.PLL_STAT_REF_OK && !s.pll.holdover then
    let s := putF 1 CLK.PLL_STAT_LOCK 1 0 (putF 1 CLK.PLL_STAT_BACKUP 0 0 s)
    let s := { s with pll := { s.pll with acquiring := false }
                      time := 0#64 }
    let s := alignMck s
    .next (if ready s then urge .relock s else s)
  else .next s

/-- The PLL declares loss of lock (R47, R53, R54). -/
def execLossOfLock (s : State) : Res1 :=
  .next (if isSet s 1 CLK.PLL_STAT_LOCK then lossOfLock s else s)

/-- The 32 fc ramp of the holdover completes (R53), 32 fc after the holdover began: the tiles enter HALTED_CLK, the root clocks
stop, MCLK and HCLK move to the backup clocks, TIME_VALID clears, and every port loses lock (R333). -/
def execHoldoverRampDone (s : State) : Res1 :=
  if s.pll.holdover && decide (s.pll.holdAt + 32 ≤ s.up) then
    let s := allPortsLol (forAll (tileBits s) rampDone s)
    .next (putF 1 CLK.PLL_STAT_BACKUP 1 0 (putF 1 CLK.SYNC_STAT_TIME_VALID 0 0 { s with pll := { s.pll with holdover := false } }))
  else .next s

/-- Acquisition begins where REF_OK is 1 and the PLL is not locked (R47, R55). A PLL that is locked has nothing to acquire: what a
write of RELOCK does then, the spec does not say, and here it changes nothing (DESIGN CHOICE, log entry 75). -/
def pllAcquire (s : State) : State :=
  if isSet s 1 CLK.PLL_STAT_REF_OK && !isSet s 1 CLK.PLL_STAT_LOCK
    then { s with pll := { s.pll with acquiring := true } } else s

/-- The effect of a write of RELOCK (R55): acquisition starts if REF_OK is 1, else the write is ignored. -/
def pllRelockEffect (s : State) : State := pllAcquire s

/-- A write of RELOCK_AUTO (R55): while it is 1, an unlocked PLL acquires as soon as REF_OK is 1, so a 1 written with REF_OK at 1
starts acquisition. -/
def relockAutoEffect (v : Nat) (s : State) : State :=
  let s := putF 1 CLK.PLL_CTL_RELOCK_AUTO v 0 s
  if v = 1 then pllAcquire s else s

/-- A write of RELOCK (R55): acquisition starts if REF_OK is 1, else the write is ignored. -/
def execPllRelock (who : Requester) (s : State) : Res1 :=
  .next (viaBus who 1 CLK.PLL_CTL_RELOCK 0 1
    pllRelockEffect s)

/-- The edge E chosen on the time port: the residue is shown (R354). -/
def slotTake (s : State) : State :=
  match slotEdge s with
  | some (_, r) => putF 0x38 CST.TIME_STAT_RESID (ofSigned 8 r) 0 { s with cst := { s.cst with slotAt := none } }
  | none => s

/-- How far TIME, in the fc 80 fc after an edge now, will stand from the value loaded at the last epoch before it (R60): from
the epoch under way that comes last before that fc, else from the last epoch. -/
def epochOffset (s : State) : Int :=
  match (s.pll.epochs.filter (fun e => decide (e.1 ≤ now s + 80))).getLast? with
  | some e => (now s : Int) + 80 - e.1
  | none => (now s : Int) + 80 - s.pll.lastEpoch

/-- An edge of a source (R58, R60). An edge of another source, one at the pins while REF_OK is 0, the first sample there,
a soft edge that nothing asked for, and a REFCLK edge that R354 does not choose are no sampled edges. The REFCLK edge that a
write of SOFT asked for answers it, whatever source is selected when it comes. A sampled edge is counted; with the PLL locked
it consumes ARM, or is checked against the epoch in force while one is. A frozen CLK page sees no edge (R83). -/
def execSyncEdge (src : Nat) (first : Bool) (s : State) : Res1 :=
  let arm := isSet s 1 CLK.SYNC_CTL_ARM
  let sampled := decide (src = getF s 1 CLK.SYNC_CTL_SRC) &&
    (if src = 0 then isSet s 1 CLK.PLL_STAT_REF_OK && !first else if src = 1 then s.pll.soft else (slotEdge s).isSome)
  let slot := if src = 2 then (slotEdge s).map (fun e => e.1) else none
  if isSet s 1 HDR.CTRL_FREEZE then .next s
  else
  let s := if src = 1 then { s with pll := { s.pll with soft := false } } else s
  if sampled then
    let s := if src = 2 then slotTake s else s
    let s := incWrap 1 CLK.SYNC_STAT_SYNC_CNT 0 s
    if !isSet s 1 CLK.PLL_STAT_LOCK then .next s
    else if arm then
      .next (putF 1 CLK.SYNC_CTL_ARM 0 0 { s with pll := { s.pll with epochs := s.pll.epochs ++ [(now s + 80, slot)] } })
    else if isSet s 1 CLK.SYNC_CTL_CHECK_EN && isSet s 1 CLK.SYNC_STAT_TIME_VALID
        && decide (epochOffset s % 80 ≠ 0) then
      .next (irqBit 1 2 (putF 1 CLK.SYNC_STAT_MISALIGN 1 0 s))
    else .next s
  else .next s

/-- The effect of a write of SOFT (R58): with SRC soft, the next REFCLK rising edge is a sampled edge; else ignored. -/
def softSyncEffect (s : State) : State :=
  if getF s 1 CLK.SYNC_CTL_SRC = 1 then { s with pll := { s.pll with soft := true } } else s

/-- A write of SOFT (R58): with SRC soft, the next REFCLK rising edge is a sampled edge; else ignored. -/
def execSoftSync (who : Requester) (s : State) : Res1 :=
  .next (viaBus who 1 CLK.SYNC_CTL_SOFT 0 1
    softSyncEffect s)

/-- The effect of a write of ARM (R60): refused with CFG_BUSY while a Tambour runs, else ARM and EPOCH_PEND set. -/
def syncArmEffect (s : State) : State :=
  let s := forAll (List.range 8) (fun n s => modPort n (fun x => { x with timeN := 0 }) s) s
  let s := { s with cst := { s.cst with slotAt := none } }
  putF 1 CLK.SYNC_CTL_ARM 1 0 (putF 1 CLK.SYNC_STAT_EPOCH_PEND 1 0 s)

/-- A write of ARM (R60): refused with CFG_BUSY while a Tambour runs, else ARM and EPOCH_PEND set. -/
def execSyncArm (who : Requester) (s : State) : Res1 :=
  .next (viaBus who 1 CLK.SYNC_CTL_ARM 0 1
    syncArmEffect s)

/-- The epoch at E + 80 (R59, R60): TIME takes EPOCH_HI and EPOCH_LO, or the value of R354; TIME_VALID sets; EPOCH_PEND clears
unless ARM has been set again or another epoch is under way; bit 3 is raised, and Hoop firmware has the ports to retrain
(R355). What else is timed in the running count keeps its fc. -/
def epochNow (e : Nat × Option Nat) (rest : List (Nat × Option Nat)) (s : State) : State :=
  let v := match e.2 with
    | some v => v
    | none => getF s 1 CLK.EPOCH_HI * 2 ^ 32 + getF s 1 CLK.EPOCH_LO_EPOCH_L * 16
  let stat := rdWord s (CLK.SYNC_STAT.addr 1 0)
  let s := putF 0x38 CST.TIME_STAT_VALID (ofBool e.2.isSome) 0 s
  let s := forAll (s.ports.map (fun x => x.1)) (fun n s => modPort n (fun x => { x with egr := [], tx := { x.tx with unsent := 0 } }) s) s
  let s := { s with time := BitVec.ofNat 64 (v + (now s - e.1))
                    pll := { s.pll with epochs := rest.map (fun x => (v + (x.1 - e.1), x.2)), lastEpoch := v } }
  let s := keepWas none (CLK.SYNC_STAT.addr 1 0) stat (alignMck s)
  let s := if isSet s 1 CLK.SYNC_CTL_ARM || decide (rest ≠ []) then s else putF 1 CLK.SYNC_STAT_EPOCH_PEND 0 0 s
  urge .retrain (irqBit 1 3 (putF 1 CLK.SYNC_STAT_TIME_VALID 1 0 s))

/-- The fc of the oldest epoch under way (R59, R60). A frozen CLK page holds the epoch logic (R83). -/
def execEpoch (s : State) : Res1 :=
  match s.pll.epochs with
  | [] => .next s
  | e :: rest =>
    .next (if e.1 ≤ now s ∧ isSet s 1 CLK.PLL_STAT_LOCK = true ∧ isSet s 1 HDR.CTRL_FREEZE = false then epochNow e rest s else s)

end Sys2Proof.Machine
end

