-- ==== Sys2Proof/Machine/Cst.lean ====
section
/-!
DEFINITION. The commands of 13_constellation: discovery and the topology table (R343 to R351), route requests and
reservations (R356 to R359), departures (R361, R362) and the reports of inter-device skew (R406, R407).
-/
namespace Sys2Proof.Machine

/-- Whether an interval in ms has passed since something was last done, if it has been. -/
def elapsed (s : State) (last : Option Nat) (ms : Nat) : Bool :=
  match last with
  | some t => decide (t + 1000000 * ms ≤ s.up)
  | none => true

/-- HELLO on every ACTIVE port, every 10 ms (R348, R349). -/
def execHelloSend (s : State) : Res1 :=
  .next (if cstOn s && elapsed s s.cst.helloUp 10 then
      let s := { s with cst := { s.cst with helloUp := some s.up } }
      bumpMseq (forAll (activePorts s) (fun n s =>
        sendMsg n 0 (mkMsg s 0x01 0xFE (toBytes ownUid 8 ++ toBytes (srcNum s) 1 ++ toBytes (ownFlags s) 1 ++ toBytes n 1
          ++ toBytes 0 1 ++ toBytes s.cst.lsaSeq 4)) s) s)
    else s)

/-- A HELLO from a neighbour (R345, R348): what a port entry of the own description says of the peer. -/
def execHelloRx (n : Nat) (s : State) : Res1 :=
  .next (onMsg n 0x01 (fun bs s =>
    let nb : Neighbour := { uid := msgField bs 0 8, num := msgField bs 8 1, flags := msgField bs 9 1, port := msgField bs 10 1
                            seq := msgField bs 12 4 }
    let was := smFind n s.cst.nbs
    let s := { s with cst := { s.cst with nbs := smSet n nb s.cst.nbs } }
    let s := if was.map (fun x => (x.uid, x.num, x.port)) = some (nb.uid, nb.num, nb.port) then s else urge .topology s
    numClash nb.uid nb.num s) s)

/-- A new LSA flooded, after a change of the own port entries or at the 100 ms interval (R349). -/
def execLsaFlood (s : State) : Res1 :=
  .next (if decide (.topology ∈ s.hoop.urgent) || elapsed s s.cst.floodUp 100 then repairAll (floodLsa s) else s)

/-- The description that an LSA carries (R348). -/
def lsaEntry (bs : List Byte) : TopoEntry :=
  { uid := msgField bs 0 8, num := msgField bs 8 1, flags := msgField bs 9 1, seq := msgField bs 12 4
    ports := (List.range 8).map (fun p =>
      { lstate := msgField bs (16 + 8 * p) 1, num := msgField bs (17 + 8 * p) 1, port := msgField bs (18 + 8 * p) 1
        fh := msgField bs (19 + 8 * p) 1, uid := msgField bs (20 + 8 * p) 4 }) }

/-- Whether a 32-bit sequence number is newer than another. -/
def newer (a b : Nat) : Bool :=
  let d := (a + 2 ^ 32 - b) % 2 ^ 32
  decide (d ≠ 0) && decide (d < 2 ^ 31)

/-- An LSA of another device heard at this moment: the 350 ms of R350 start again. -/
def hear (uid : Nat) (s : State) : State :=
  if uid = ownUid then s else { s with cst := { s.cst with heard := smSet uid s.up s.cst.heard } }

/-- An LSA is received (R345, R349, R350): a newer one is passed on and entered in the table. -/
def execLsaRx (n : Nat) (s : State) : Res1 :=
  .next (match takeMsg n 0x02 s with
    | none => s
    | some ((c, bs), t) =>
      if !cstOn s then s
      else
        let e := lsaEntry bs
        let t := hear e.uid t
        let old := t.cst.topo.find? (fun x => decide (x.uid = e.uid))
        if decide (e.uid = ownUid) || !((old.map (fun x => newer e.seq x.seq)).getD true) then t
        else
          let t := passOn ((activePorts t).filter (fun p => p ≠ n)) c bs t
          let t := topoEdit (fun t => { t with cst := { t.cst with topo := t.cst.topo.filter (fun x => x.uid ≠ e.uid) ++ [e] } }) t
          repairAll (numClash e.uid e.num t))

/-- No LSA has arrived from a UID for 350 ms (R350). -/
def execTopoAgeOut (uid : Nat) (s : State) : Res1 :=
  .next (if !elapsed s (smFind uid s.cst.heard) 350 || !cstOn s then s else topoEdit (fun s => { s with cst := { s.cst with topo := s.cst.topo.filter (fun x => x.uid ≠ uid) } }) s)

/-- The device takes a NUM (R344 to R346): ID_CFG.NUM, or with AUTO, 10 ms after its first port has reached ACTIVE, the number it held
if that is still free, else the lowest free one. With 32 numbers in use it stays UNJOINED. -/
def execNumAssign (s : State) : Res1 :=
  if !cstOn s || joined s || decide (activePorts s = []) then .next s
  else
    let used := usedNums s
    let auto := isSet s pCst CST.ID_CFG_AUTO
    if auto && !elapsed s s.cst.activeUp 10 then .next s
    else match (List.range 32).find? (fun n => decide (n ∉ used)) with
      | none => .next (errRec pCst 0x22 0 0 0 0 (irqBit pCst 5 (putF pCst CST.STATUS_FULL 1 0 s)))
      | some n =>
        if auto then .next (joinAs (match s.cst.oldNum with | some o => if o ∈ used then n else o | none => n) s)
        else
          let m := getF s pCst CST.ID_CFG_NUM
          .next (if s.cst.clash = some m then s else joinAs m s)

/-- A write of ID_CFG.NUM: one that changes it ends the hold of a conflict (R345). -/
def idNumEffect (v : Nat) (s : State) : State :=
  let s := putF pCst CST.ID_CFG_NUM v 0 s
  if s.cst.clash = some v then s else { s with cst := { s.cst with clash := none } }

/-- The effect of a GO that asks for something (R356): with BUSY set it is ignored and recorded, else the request waits for Hoop
firmware's next safe point. -/
def rqGo (who : Requester) (op : Nat) (ndetOk auto : Bool) (s : State) : State :=
  let k := reqIdx who
  if isSet s pCst CST.RQ_STAT_BUSY k then errRec pCst 0x25 0 0 0 0 s
  else urge (.request k) (putF pCst CST.RQ_STAT_BUSY 1 k { s with cst := { s.cst with goes := smSet k (op, ndetOk, auto) s.cst.goes } })

/-- The fields of RQ_CTL that a GO writes beside GO (13_constellation, RQ_CTL). -/
def putRqCtl (k op : Nat) (ndetOk auto : Bool) (s : State) : State :=
  putF pCst CST.RQ_CTL_OP op k (putF pCst CST.RQ_CTL_NDET_OK (ofBool ndetOk) k (putF pCst CST.RQ_CTL_AUTO_SLOT (ofBool auto) k s))

/-- The effect of a GO with OP RESERVE (R356, R357). -/
def rqReserveEffect (who : Requester) (ndetOk auto : Bool) (s : State) : State :=
  rqGo who 1 ndetOk auto (putRqCtl (reqIdx who) 1 ndetOk auto s)

/-- A GO with OP RESERVE (R356, R357). -/
def execRqReserve (who : Requester) (ndetOk auto : Bool) (s : State) : Res1 :=
  .next (viaBus who pCst CST.RQ_CTL_GO 0 1 (rqReserveEffect who ndetOk auto) s)

/-- The effect of a GO with OP RELEASE (R356, R359). -/
def rqReleaseEffect (who : Requester) (s : State) : State :=
  rqGo who 2 false false (putF pCst CST.RQ_CTL_OP 2 (reqIdx who) s)

/-- A GO with OP RELEASE (R356, R359). -/
def execRqRelease (who : Requester) (s : State) : Res1 :=
  .next (viaBus who pCst CST.RQ_CTL_GO 0 1 (rqReleaseEffect who) s)

/-- The slot entry that a RESERVE carries (R348). -/
def reserveSet (bs : List Byte) : RouteSet :=
  let imp := msgField bs 7 1
  { imp := if imp = 0xFF then none else some (imp % 8)
    exports := msgField bs 8 1, hops := msgField bs 9 1, pubdev := msgField bs 0 4 / 2 ^ 27, lat := msgField bs 10 2
    ndet := decide (msgField bs 12 1 % 2 = 1) }

/-- Why a RESERVE is refused (R348, R358): 1 slot in use, 2 slot tentatively held, 3 a port not ACTIVE. A reservation of a
route that this device already holds extends it. -/
def reserveFault (s : State) (route slot : Nat) (x : RouteSet) : Option Nat :=
  let mine := s.cst.holds.any (fun h => decide (h.route = route) && decide (h.slot = slot))
  let other := s.cst.holds.find? (fun h => decide (h.slot = slot) && decide (h.route ≠ route))
  if (other.map (fun h => !h.committed)).getD false then some 2
  else if other.isSome || (!mine && (decide (slotKind s slot ≠ 0) || decide (getF s pTul TUL.SLOT_SRC_KIND slot ≠ 0) || slotHeld s slot)) then some 1
  else if (match x.imp with | some p => decide (portState s p ≠ 5) | none => false)
      || (List.range 8).any (fun p => decide (bit x.exports p = 1) && decide (portState s p ≠ 5)) then some 3
  else none

/-- A RESERVE is received (R358): the slot held tentatively with RES_ACK, or refused with RES_NAK. A committed route keeps its entry
beside what it is asked to become. -/
def execReserveRx (n : Nat) (s : State) : Res1 :=
  .next (onMsg n 0x10 (fun bs s =>
    let route := msgField bs 0 4
    let slot := msgField bs 4 2 % 512
    let x := reserveSet bs
    let pub := route / 2 ^ 27
    match reserveFault s route slot x with
    | some r => sendNum pub 1 0x12 (routeBody route slot r) s
    | none =>
      let s := { s with cst := { s.cst with
        holds := if s.cst.holds.any (fun h => decide (h.route = route) && h.committed)
          then s.cst.holds.map (fun h => if h.route = route then { h with tent := some x, since := s.up } else h)
          else s.cst.holds.filter (fun h => h.route ≠ route) ++ [{ route := route, slot := slot, rs := x, committed := false, since := s.up }] } }
      sendNum pub 1 0x11 (routeBody route slot 0) s) s)

/-- A RES_ACK is received (R359). -/
def execResAckRx (n : Nat) (s : State) : Res1 :=
  .next (onMsg n 0x11 (fun bs s =>
    match rqOf s (msgField bs 0 4) with
    | some (k, q) => rqAck k (msgSrc bs) q s
    | none => s) s)

/-- A RES_NAK is received (R359): the request ends, or with AUTO_SLOT goes on with the next slot (R357). -/
def execResNakRx (n : Nat) (s : State) : Res1 :=
  .next (onMsg n 0x12 (fun bs s =>
    match rqOf s (msgField bs 0 4) with
    | none => s
    | some (k, q) =>
      match (if q.auto ∧ msgField bs 6 1 ≤ 2 then autoSlot s (q.route.slot + 1) else none) with
      | none => rqFail k q 1 s
      | some slot =>
        let s := forAll q.ask (fun d s => sendNum d 1 0x14 (routeBody q.route.route q.route.slot 0) s) s
        let id := ownNum s * 2 ^ 27 + s.cst.serial
        let s := { s with cst := { s.cst with serial := (s.cst.serial + 1) % 2 ^ 27, rq := smErase k s.cst.rq } }
        rqStart k { q with route := { q.route with route := id, slot := slot }, acked := [] } s) s)

/-- A COMMIT is received (R359): the slot entry is written, to take effect at the device shot boundary (R263), and the COMMIT
is acknowledged. -/
def execCommitRx (n : Nat) (s : State) : Res1 :=
  .next (onMsg n 0x13 (fun bs s =>
    let route := msgField bs 0 4
    match s.cst.holds.find? (fun h => decide (h.route = route)) with
    | none => s
    | some h =>
      let rs := h.tent.getD h.rs
      let s := { s with cst := { s.cst with
        holds := s.cst.holds.map (fun x => if x.route = route then { x with rs := rs, committed := true, tent := none } else x) } }
      sendNum (route / 2 ^ 27) 1 0x11 (routeBody route h.slot 0) (stageRoute h.slot rs s)) s)

/-- What a reservation holds tentatively given up: an extension of a committed route leaves the route as it was (R358). -/
def dropTent (h : Hold) (s : State) : State :=
  if h.committed then
    { s with cst := { s.cst with holds := s.cst.holds.map (fun x => if x.route = h.route then { x with tent := none } else x) } }
  else dropHold h s

/-- A RELEASE is received (R359): a tentatively held or reserved slot is free again. One that ends an extension ends only that
(DESIGN CHOICE, log entry 95). -/
def execReleaseRx (n : Nat) (s : State) : Res1 :=
  .next (onMsg n 0x14 (fun bs s =>
    forAll (s.cst.holds.filter (fun h => h.route = msgField bs 0 4)) (fun h s => if h.tent.isSome then dropTent h s else dropHold h s) s) s)

/-- A WITHDRAW is received from a relay (R362): passed on below, and the route withdrawn. -/
def execWithdrawRx (n : Nat) (s : State) : Res1 :=
  .next (onMsg n 0x15 (fun bs s =>
    forAll (s.cst.holds.filter (fun h => h.route = msgField bs 0 4)) (fun h s => dropHold h (tellBelow h s)) s) s)

/-- 10 ms pass with a reply missing (R359): `key` 0 or 1 names the request of a requester, 2 + slot the repair of a route. -/
def execReserveTimeout (key : Nat) (s : State) : Res1 :=
  match smFind key s.cst.rq with
  | some q => .next (if elapsed s (some q.since) 10 then rqFail key q 5 s else s)
  | none => .next s

/-- 50 ms pass without COMMIT (R358). -/
def execTentativeExpire (route : Nat) (s : State) : Res1 :=
  .next (forAll (s.cst.holds.filter (fun h => decide (h.route = route) && (h.tent.isSome || !h.committed) && elapsed s (some h.since) 50))
    dropTent s)

/-- A SKEW_REPORT is received (R406, R407): kept and passed on where its estimate number is newer; a changed least lead
makes a new proposal. -/
def execSkewReportRx (n : Nat) (s : State) : Res1 :=
  .next (match takeMsg n 0x20 s with
    | none => s
    | some ((c, bs), t) =>
      if !cstOn s then s
      else
        let num := msgField bs 0 1
        let est := msgField bs 8 4
        if joined t && decide (num = ownNum t) || !(((smFind num t.cal.reps).map (fun r => newer est r.est)).getD true) then t
        else
          let own := toSigned 16 (getF t 0x39 CAL.SKEW_STAT_LEAD)
          let was := leastLead t own
          let t := passOn ((activePorts t).filter (fun p => p ≠ n)) c bs t
          let r : SkewRep := { root := msgField bs 1 1, lead := toSigned 32 (msgField bs 4 4), est := est, since := t.up }
          let t := { t with cal := { t.cal with reps := smSet num r t.cal.reps } }
          let t := putF 0x39 CAL.SKEW_STAT_NREP (currentReps t).length 0 t
          if leastLead t own = was then t else skewPropose t)

/-- The effect of a write of 0 to CTRL.EN (R361): the device leaves and withdraws every route it takes part in. -/
def cstLeaveEffect (s : State) : State :=
  let s := if isSet s pCst HDR.CTRL_EN then dropAll s else s
  let s := topoEdit (fun s => putF pCst CST.STATUS_JOINED 0 0 { s with cst := { s.cst with own := none } }) (noteWas none (HDR.STATUS.addr pCst 0) s)
  putF pCst HDR.CTRL_EN 0 0 s

/-- A write of 0 to CTRL.EN (R361): the device leaves and withdraws every route it takes part in. -/
def execCstLeave (who : Requester) (s : State) : Res1 :=
  .next (viaBus who pCst HDR.CTRL_EN 0 0 cstLeaveEffect s)

end Sys2Proof.Machine
end

