-- ==== Sys2Proof/Machine/Darner.lean ====
section
/-!
DEFINITION. The commands of 11_darner: the timeout of a round (R294, R307), the end of its pipeline (R300 to R303), the
clear of a patch (R306) and the pop of the escalation queue (R304).
-/
namespace Sys2Proof.Machine

/-- The open round of a patch closes for TIMEOUT once its fc has come (R294); under FREEZE it holds (R307). -/
def execRoundTimeout (p : Nat) (s : State) : Res1 :=
  match timeoutFc s p with
  | none => .next s
  | some c => .next (if decide (c ≤ now s) && !isSet s pDrn HDR.CTRL_FREEZE then timeoutRound p c s else s)

/-- Whether a round has its turn at the end of its pipeline: rounds go by close fc and within an fc by patch, and behind a device shot
boundary of that fc (R265, R303). -/
def roundTurn (s : State) (p : Nat) (r : Round) : Bool :=
  !s.patches.any (fun e => e.2.rounds.any (fun x => decide (x.c < r.c) || (decide (x.c = r.c) && decide (e.1 < p))))
    && !devDue s (r.c + 12)

/-- The oldest closed round of a patch reaches c + 12 (R300, R301). A round that closed before a freeze or a disable took
effect completes too (R307). -/
def execDarnerPublish (p : Nat) (s : State) : Res1 :=
  match (patchOf s p).rounds with
  | [] => .next s
  | r :: rest =>
    .next (if decide (r.c + 12 ≤ now s) && roundTurn s p r then finishRound p r (setPatch p { patchOf s p with rounds := rest } s) else s)

/-- A write of 1 to bit `p` of CLR (R306). -/
def execPatchClr (who : Requester) (p : Nat) (s : State) : Res1 :=
  .next (viaBus who pDrn DRN.PATCH_CTL_CLR 0 (2 ^ p) (fun s => if p < 8 then patchClr p s else s) s)

/-- The effect of a write of 1 to POP (R304): refused while a DMA channel is bound to escalation upload (R380). -/
def escPopEffect (s : State) : State :=
  if dmaBound s 4 0 0 then boundWrite 0xC 0 s else escPop s

/-- A write of 1 to POP (R304): refused while a DMA channel is bound to escalation upload (R380). -/
def execEscPop (who : Requester) (s : State) : Res1 :=
  .next (viaBus who pDrn DRN.ESC_CTL_POP 0 1
    escPopEffect s)

end Sys2Proof.Machine
end

