-- ==== Sys2Proof/Machine/HouseOps.lean ====
section
/-!
DEFINITION. The operations of the Sampler and of the thermal block: triggers and the order of conversions (R432, R433),
results (R434, R435), diode readings, bands, the alarm and the shutdown (R436 to R443), power and energy (R444).
-/
namespace Sys2Proof.Machine

/-- The HKP page and the THM page. -/
def pHkp : Nat := 4
def pThm : Nat := 5

/-! ### The order of conversions (R432, R433) -/

/-- The Sampler takes triggers and converts: powered, its page enabled and not frozen. -/
def samplerOn (s : State) : Bool := s.boot.por.isNone && isSet s pHkp HDR.CTRL_EN && !isSet s pHkp HDR.CTRL_FREEZE

/-- The conversions of a round in order: inputs 0 to 11 twice, then every input with EN = 1. -/
def roundList (s : State) : List (Nat × Bool) :=
  ((List.range 48).map (fun i =>
    if i < 12 then [(i, false), (i, true)] else if isSet s pHkp HKP.ICFG_EN i then [(i, false)] else [])).flatten

/-- The conversion of a round that follows one. -/
def roundAfter (s : State) (c : Nat × Bool) : Option (Nat × Bool) :=
  (roundList s).find? (fun e => decide (2 * c.1 + ofBool c.2 < 2 * e.1 + ofBool e.2))

/-- A round is running. -/
def roundRuns (s : State) : Bool :=
  s.smp.rnd.isSome || (match s.smp.cur with | some (.round _ _) => true | _ => false)

/-- The input that injection `k` converts; values above 47 are taken as 47 (R433). -/
def injInput (s : State) (k : Nat) : Nat := min 47 (getF s pHkp HKP.INJ_SEL k)

/-- The input of a conversion. -/
def convInput (s : State) : Conv → Nat
  | .round i _ => i
  | .inj k => injInput s k

/-- The state of the Sampler shown in HKP.STATUS. -/
def showSampler (s : State) : State :=
  let s := putF pHkp HKP.STATUS_ON (ofBool s.smp.cur.isSome) 0 s
  let s := putF pHkp HKP.STATUS_RND_BUSY (ofBool (roundRuns s)) 0 s
  let s := putF pHkp HKP.STATUS_RND_PEND (ofBool s.smp.rndPend) 0 s
  let s := putF pHkp HKP.STATUS_INJ_BUSY (ofBool (injHeld s)) 0 s
  match s.smp.cur with
  | some c => putF pHkp HKP.STATUS_CUR (convInput s c) 0 s
  | none => s

/-- The Sampler takes its next work at a conversion boundary (R433), or powers down (R431); `wait` is the start-up delay that
comes before the conversion. -/
def takeWork (wait : Nat) (s : State) : State :=
  let p := s.smp
  let round := p.rnd.isSome || p.rndPend
  let due := s.up + wait + 1024
  match p.injPend with
  | k :: ks =>
    if p.injRun < 4 ∨ round = false then
      showSampler { s with smp := { p with cur := some (.inj k), injPend := ks, injRun := p.injRun + 1, due := due } }
    else
      let c := p.rnd.getD (0, false)
      let new := p.rnd.isNone
      let nxt := roundAfter s c
      showSampler { s with smp := { p with cur := some (.round c.1 c.2), rnd := nxt, rndPend := p.rndPend && !new, injRun := 0, due := due,
                                           temps := if new then [] else p.temps, impl := if new then [] else p.impl } }
  | [] =>
    if round then
      let c := p.rnd.getD (0, false)
      let new := p.rnd.isNone
      let nxt := roundAfter s c
      showSampler { s with smp := { p with cur := some (.round c.1 c.2), rnd := nxt, rndPend := p.rndPend && !new, injRun := 0, due := due,
                                           temps := if new then [] else p.temps, impl := if new then [] else p.impl } }
    else showSampler { s with smp := { p with cur := none } }

/-- A dropped trigger (R433): source 0 the round, 1 + k injection k. -/
def overrun (src : Nat) (s : State) : State :=
  let s := putF pHkp HKP.HKP_OVR_OVR (setBit (getF s pHkp HKP.HKP_OVR_OVR) src) 0 (incSat pHkp HKP.HKP_OVR_CNT 0 s)
  errRec pHkp 0x20 0 0 src 0 (irqBit pHkp 2 s)

/-- A trigger of the round (R432, R433). -/
def roundTrigger (s : State) : State :=
  if !samplerOn s then s
  else if s.smp.rndPend || roundRuns s then overrun 0 s
  else
    let s := { s with smp := { s.smp with rndPend := true } }
    if s.smp.cur.isNone then takeWork 4000 s else showSampler s

/-- A number entered into a rising list. -/
def insertUp (k : Nat) : List Nat → List Nat
  | [] => [k]
  | j :: l => if k < j then k :: j :: l else if k = j then j :: l else j :: insertUp k l

/-- A trigger of injected conversion `k` (R433). -/
def injTrigger (k : Nat) (s : State) : State :=
  if !samplerOn s then s
  else if k ∈ s.smp.injPend ∨ s.smp.cur = some (.inj k) then overrun (1 + k) s
  else
    let s := { s with smp := { s.smp with injPend := insertUp k s.smp.injPend } }
    if s.smp.cur.isNone then takeWork 4000 s else showSampler s

/-! ### Results (R434, R435) -/

/-- AVG of an input: N is 2 to this. -/
def avgOf (s : State) (i : Nat) : Nat := if i < 12 then 1 else max 1 (min 8 (getF s pHkp HKP.ICFG_AVG i))

/-- SHIFT of an input. -/
def shiftOf (s : State) (i : Nat) : Nat := if i < 12 then 1 else min 8 (getF s pHkp HKP.ICFG_SHIFT i)

/-- The accumulated sum of an input discarded (R430, R435). -/
def dropSum (i : Nat) (s : State) : State :=
  { s with smp := { s.smp with acc := smErase i s.smp.acc, extreme := s.smp.extreme.filter (fun j => j ≠ i) } }

/-! ### Temperatures (R436 to R440) -/

/-- The alarm threshold, 100 °C, in 1/16 °C. -/
def alarmT : Int := 1600

/-- A value entered into a rising list of numbers. -/
def insertI (v : Int) : List Int → List Int
  | [] => [v]
  | w :: l => if v ≤ w then v :: w :: l else w :: insertI v l

/-- Twice the median of a list: of an even number of readings, the sum of the two in the middle. -/
def median2 (l : List Int) : Option Int :=
  let m := l.foldl (fun a v => insertI v a) []
  if m = [] then none else some (m.getD ((m.length - 1) / 2) 0 + m.getD (m.length / 2) 0)

/-- Whether a reading of sensor `k` is implausible (R436): a conversion at an end of the scale, outside −40 °C to 150 °C, or
more than 25 °C from the median of the other plausible readings that the round has given. -/
def implausible (s : State) (k : Nat) (t : Int) : Bool :=
  let others := ((s.smp.temps.filter (fun e => decide (e.1 ≠ k) && decide (e.1 ∉ s.smp.impl)))).map (fun e => e.2)
  decide (k ∈ s.smp.extreme) || decide (t < -640) || decide (2400 < t)
    || (match median2 others with | some m => decide (2 * 400 < (2 * t - m).natAbs) | none => false)

/-- Whether a sensor is broken (R437). -/
def broken (s : State) (k : Nat) : Bool := decide (bit (getF s pThm THM.BROKEN_MASK) k = 1)

/-- The tiles of a sensor's zone (R438). -/
def zoneTiles (s : State) (z : Nat) : List Nat := (tileBits s).filter (fun b => zoneOf b = z)

/-- The band of a zone. -/
def bandOf (s : State) (z : Nat) : Nat :=
  if z < 10 then getF s pThm THM.ZBAND0_Z0_9 / 8 ^ z % 8 else getF s pThm THM.ZBAND1_Z10_11 / 8 ^ (z - 10) % 8

/-- A number with its octal digit `k` replaced. -/
def putDigit (n k v : Nat) : Nat := n - n / 8 ^ k % 8 * 8 ^ k + v * 8 ^ k

/-- The band of a zone set, and the device band with it. -/
def putBand (z v : Nat) (s : State) : State :=
  let s := if z < 10 then putF pThm THM.ZBAND0_Z0_9 (putDigit (getF s pThm THM.ZBAND0_Z0_9) z v) 0 s
    else putF pThm THM.ZBAND1_Z10_11 (putDigit (getF s pThm THM.ZBAND1_Z10_11) (z - 10) v) 0 s
  putF pThm THM.STATUS_BAND (((List.range 12).map (bandOf s)).foldl max 0) 0 s

/-- The lower threshold of a band in 1/16 °C (R439). -/
def bandLow (v : Nat) : Int := if v = 1 then 720 else if v = 2 then 1040 else if v = 3 then 1280 else 1520

/-- A zone's band judged on its reading (R439, R440): after a start down by one per round without dwell until it matches, then
with hysteresis and a dwell of 50 ms. A change re-evaluates the calibration of the zone's tiles (R391). -/
def judgeBand (z : Nat) (t : Int) (s : State) : State :=
  let v := bandOf s z
  let move := fun (n : Nat) (s : State) =>
    let s := irqBit pThm 1 (putBand z n { s with smp := { s.smp with dwell := smSet z (s.up + 50000000) s.smp.dwell } })
    forAll ((zoneTiles s z).filter (tileUsable s)) (fun b s => if isSet s pCal HDR.CTRL_EN then calEval b t false s else s) s
  if z ∉ s.smp.settled then
    if 0 < v ∧ t < bandLow v then move (v - 1) s
    else { s with smp := { s.smp with settled := z :: s.smp.settled } }
  else if s.up < smGet 0 z s.smp.dwell then s
  else if v < 4 ∧ bandLow (v + 1) ≤ t then move (v + 1) s
  else if 0 < v ∧ t < bandLow v - 48 then move (v - 1) s
  else s

/-- LEGACY shows the sensor that LEG_SEL names (R446). -/
def showLegacy (s : State) : State :=
  let k := if 11 < getF s pThm THM.THM_CTL_LEG_SEL then 0 else getF s pThm THM.THM_CTL_LEG_SEL
  let t := toSigned 16 (getF s pThm THM.TEMP_T k)
  let v := if !isSet s pThm THM.THM_CTL_LEG_EN || broken s k then 0
    else (clampI 0 1023 ((t + 1024) / 4)).toNat + (if isSet s pThm THM.TEMP_IMPL k then 0 else 2 ^ 15)
  putF pThm THM.LEGACY v 0 s

/-! ### Alarm and shutdown (R441 to R443) -/

/-- A shutdown condition acted on (R441 to R443): every tile stops, the event-log record is first in line, the count goes up;
the MQ-256A puts its bias clear in force and goes into reset, the MQ-128A holds SHDN. `cause` 1 temperature, 2 broken
sensors. -/
def shutdown (cause sensor : Nat) (mx : Int) (s : State) : State :=
  if s.boot.trip || isSet s pThm THM.STATUS_SHDN then s
  else
    let info := cause + 16 * sensor
    let s := forAll (tileBits s) (fun b s => abortTile b (now s) 2 s) s
    let s := incSat pThm THM.TRIP_CNT_TRIPS 0 s
    let s := logEntry pThm 0x22 2 (BitVec.ofNat 32 info) 0#32 (ofSigned 16 mx + 2 ^ 16 * sensor + 2 ^ 32 * getF s pThm THM.BROKEN_MASK) true s
    let s := { s with boot := { s.boot with smbShdn := true } }
    match s.variant with
    | .mq256 =>
      let s := forAll ((List.range (biasCount s)).filter (fun n => biasState s n ≠ 2))
        (fun n s => putF pBia BIA.BIAS_STAT_OUT (getF s pBia BIA.BIAS_CLR_CLR n) n s) s
      let s := requestStart 7 true s
      { s with boot := { s.boot with trip := true, tripRec := some info } }
    | .mq128 => healthEval (errRec pThm 0x22 2 0 info 0 (irqBit pThm 3 (putF pThm THM.STATUS_SHDN 1 0 s)))

/-- The highest reading of a list of sensors, ties to the lower number (R438). -/
def hottest (l : SMap Int) : Option (Nat × Int) :=
  l.foldl (fun m e => match m with
    | none => some e
    | some x => if x.2 < e.2 then some e else some x) none

/-- TEMP_MAX and the alarm once all twelve sensors of the round are read (R438, R441). -/
def roundMax (s : State) : State :=
  match hottest s.smp.temps with
  | some (k, t) =>
    if s.smp.temps.length < 12 then s
    else
      let s := putF pThm THM.TEMP_MAX_MAX (ofSigned 16 t) 0 (putF pThm THM.TEMP_MAX_SENSOR k 0 s)
      if alarmT ≤ t ∧ isSet s pThm THM.STATUS_ALARM = false then
        errRec pThm 0x21 0 0 (ofSigned 16 t + 2 ^ 16 * k) 0 (irqBit pThm 0 (putF pThm THM.STATUS_ALARM 1 0 s))
      else if t < 1552 then putF pThm THM.STATUS_ALARM 0 0 s
      else s
  | none => s

/-- A sensor found broken (R437): recorded, and the tiles of its zone are mapped out. -/
def sensorBroken (k : Nat) (s : State) : State :=
  let s := putF pThm THM.BROKEN_MASK (setBit (getF s pThm THM.BROKEN_MASK) k) 0 s
  let s := errRec pThm 0x20 1 0 k 0 (irqBit pThm 2 s)
  forAll ((zoneTiles s k).filter (tileUsable s)) (fun b s => urge (.mapOut b 3) s) s

/-- A diode result taken by the thermal block (R436 to R441). -/
def diodeResult (k r : Nat) (s : State) : State :=
  let t0 := Config.diodeTemp k r
  let imp := implausible s k t0
  let run := if imp then min 3 (getF s pThm THM.TEMP_RUN k + 1) else 0
  let s := putF pThm THM.TEMP_IMPL (ofBool imp) k (putF pThm THM.TEMP_RUN run k s)
  let s := if imp && decide (run = 3) && !broken s k then sensorBroken k s else s
  let t := if imp || broken s k then alarmT else t0
  let s := putF pThm THM.TEMP_T (ofSigned 16 t) k (putF pThm THM.TEMP_BROKEN (ofBool (broken s k)) k s)
  let s := putF pThm THM.STATUS_BROKEN_N (popcount 12 (getF s pThm THM.BROKEN_MASK)) 0 s
  let s := { s with smp := { s.smp with temps := smSet k t s.smp.temps, extreme := s.smp.extreme.filter (fun j => j ≠ k)
                                        impl := if imp || broken s k then k :: s.smp.impl.filter (fun j => j ≠ k)
                                          else s.smp.impl.filter (fun j => j ≠ k) } }
  let s := showLegacy (roundMax (judgeBand k t s))
  let top := (hottest s.smp.temps).getD (k, t)
  if brokenTwo s then shutdown 2 top.1 top.2 s
  else if 1840 ≤ t0 ∧ imp = false ∧ broken s k = false then shutdown 1 top.1 top.2 s
  else s

/-! ### Power and energy (R444) -/

/-- The voltage scale of rail `r` in 0.5 mV, and its current scale in mA per code (R429). -/
def railMv (r : Nat) : Nat := if r ≤ 2 ∨ r = 5 then 1 else if r < 7 then 2 else 8
def railMa (r : Nat) : Nat := if r = 0 then 20 else if r = 1 ∨ r = 3 then 5 else if r = 2 then 10 else if r < 7 then 2 else 1

/-- The device power in 1/16 W from the results of the nine rails. -/
def powerOf (s : State) : Nat :=
  ((List.range 9).map (fun r => getF s pHkp HKP.RES_VALUE (12 + r) * railMv r * (getF s pHkp HKP.RES_VALUE (21 + r) * railMa r))).sum / 125000

/-- What Hoop firmware does after each round (R444): power and energy. -/
def publishPower (s : State) : State :=
  if !s.boot.fw then s
  else
    let p := min (powerOf s) 65535
    let e := s.smp.energy + p * (s.up - s.smp.roundUp)
    let mj := e / 16000000
    let s := putF pThm THM.ENERGY_LO (mj % 2 ^ 32) 0 (putF pThm THM.POWER_POWER p 0 s)
    { s with smp := { s.smp with energy := e }, boot := { s.boot with smbPub := true } }

/-- A round is complete (R432, R393, R530): its count and interrupt, power, the runs that its temperatures call for, and the
check of the fuse shadow. -/
def roundDone (s : State) : State :=
  let s := irqBit pHkp 0 (incWrap pHkp HKP.RND_CNT 0 { s with smp := { s.smp with roundT := now s } })
  let s := publishPower s
  let at_ := s.up
  let s := { s with smp := { s.smp with roundUp := at_ } }
  let s := if s.boot.fuseBad then errRec 0 0x26 3 0 0 0 s else s
  if ready s then forAll (tileBits s) runTrigger s else s

/-- A conversion's code enters the accumulator of its input (R434), and what follows from a full sum (R435, R436). -/
def enterCode (i code : Nat) (s : State) : State :=
  let (sum, n) := smGet (0, 0) i s.smp.acc
  let s := if i < 12 ∧ (code = 0 ∨ code = 4095) then { s with smp := { s.smp with extreme := insertUp i s.smp.extreme } } else s
  if n + 1 < 2 ^ avgOf s i then { s with smp := { s.smp with acc := smSet i (sum + code, n + 1) s.smp.acc } }
  else
    let r := min ((sum + code) / 2 ^ shiftOf s i) 0xFFFF
    let s := { s with smp := { s.smp with acc := smErase i s.smp.acc } }
    let s := putF pHkp HKP.RES_FRESH 1 i (incWrap pHkp HKP.RES_SEQ i (putF pHkp HKP.RES_VALUE r i s))
    let s := putF pHkp HKP.MINMAX_MIN (min (getF s pHkp HKP.MINMAX_MIN i) r) i s
    let s := putF pHkp HKP.MINMAX_MAX (max (getF s pHkp HKP.MINMAX_MAX i) r) i s
    let s := if r < getF s pHkp HKP.THR_TLO i ∨ getF s pHkp HKP.THR_THI i < r then raiseSrc (0x0C0 + i) (irqBit pHkp 1 s) else s
    if i < 12 then diodeResult i r s else s

/-! ### Telemetry (R445) -/

/-- The ring size of telemetry in records. -/
def telSize (s : State) : Nat :=
  2 ^ (if 4 ≤ getF s pThm THM.TEL_CFG_SIZE_LOG2 ∧ getF s pThm THM.TEL_CFG_SIZE_LOG2 ≤ 15 then getF s pThm THM.TEL_CFG_SIZE_LOG2 else 4)

/-- A telemetry record with number `w` (R445). -/
def telRecord (w : Nat) (s : State) : List Byte :=
  let f := fun fld => getF s pThm fld
  let body := toBytes s.smp.roundT 6 ++ toBytes w 2
    ++ ((List.range 12).map (fun k => toBytes (if broken s k then 0x8000 else getF s pThm THM.TEMP_T k) 2)).flatten
    ++ toBytes (f THM.TEMP_MAX_MAX) 2 ++ toBytes (f THM.TEMP_MAX_SENSOR + 128 * f THM.STATUS_ALARM) 1
    ++ toBytes (f THM.STATUS_BAND + 16 * getF s 0 GLB.HEALTH_STATE) 1 ++ toBytes (f THM.POWER_POWER) 2 ++ toBytes 0 2
    ++ toBytes (s.smp.energy / 16000000) 8 ++ toBytes (f THM.BROKEN_MASK) 2 ++ toBytes (getF s pHkp HKP.HKP_OVR_CNT) 2
    ++ toBytes (f THM.TRIP_CNT_TRIPS) 2 ++ toBytes 0 6
  body ++ toBytes (crc32 body) 4

end Sys2Proof.Machine
end

