-- ==== Sys2Proof/Machine/Evm.lean ====
section
/-!
DEFINITION. The commands of 20_event_matrix: registration, gates and delivery (R479 to R485), timers (R481), channel
configuration with its loop check (R487, R488) and protection (R489).
-/
namespace Sys2Proof.Machine

/-- The matrix takes events (R484). -/
def evmOn (s : State) : Bool := isSet s pEvm HDR.CTRL_EN && !isSet s pEvm HDR.CTRL_FREEZE

/-- The level of a gate code (R482): `trig` the levels of TRIG_IN; reserved codes give 0. -/
def gateLevel (s : State) (trig g : Nat) : Bool :=
  if g = 0 then true
  else if g ≤ 8 then decide (bit (getF s pEvm EVM.GATE_SW_GATE_SW) (g - 1) = 1)
  else if 0x10 ≤ g ∧ g < 0x60 then isSet s pMon MON.MON_STAT_LIVE (g - 0x10)
  else if g = 0x60 then patRuns s
  else if 0x61 ≤ g ∧ g ≤ 0x64 then decide (bit trig (g - 0x61) = 1)
  else if 0x80 ≤ g ∧ g < 0xA0 then tilePresent s (g - 0x80) && tileRunning s (g - 0x80)
  else false

/-- A channel registers an event at edge `e` (R482 to R484): blocked by its gate, or on its way to its destination. -/
def register (c e trig : Nat) (s : State) : State :=
  if gateLevel s trig (getF s pEvm EVM.CH_GATE_GSEL c) != isSet s pEvm EVM.CH_CFG_GINV c then
    let d := getF s pEvm EVM.CH_CFG_DST c
    let x : EvmEvent := { chan := c, dst := if d ≤ 0x11 then d else 0, irq := isSet s pEvm EVM.CH_CFG_IRQ c, due := e + 8 }
    { s with evm := { s.evm with flight := s.evm.flight ++ [x] } }
  else incSat pEvm EVM.CH_CNT_GATED c s

/-- The channels in use whose source is `src`. -/
def takers (s : State) (src : Nat) : List Nat :=
  (List.range 64).filter (fun c => isSet s pEvm EVM.CH_CFG_EN c && decide (getF s pEvm EVM.CH_CFG_SRC c = src))

/-- The events of the oldest MCLK edge that has come are registered (R483 to R485). -/
def execEvmRegister (trig : Nat) (s : State) : Res1 :=
  match s.evm.raised.map (fun r => evmEdge r.2) with
  | [] => .next s
  | x :: xs =>
    let e := xs.foldl min x
    if mfc s < e then .next s
    else
      let here := (s.evm.raised.filter (fun r => evmEdge r.2 = e)).map (fun r => r.1)
      let s := { s with evm := { s.evm with raised := s.evm.raised.filter (fun r => evmEdge r.2 ≠ e) } }
      if !evmOn s then .next s
      else .next (forAll ((List.range 64).filter (fun c => isSet s pEvm EVM.CH_CFG_EN c)) (fun c s =>
        let n := (here.filter (fun r => r ≠ 0 ∧ r = getF s pEvm EVM.CH_CFG_SRC c)).length
        if n = 0 then s else register c e trig (addSat pEvm EVM.MERGE_CNT (n - 1) 0 s)) s)

/-- A wake-up line taken (R485). -/
def wake (w : Nat) (s : State) : State :=
  if bit (getF s pEvm EVM.WAKE_STAT_PEND) w = 1 then
    errRec pEvm 0x22 0 0 w 0 (irqBit pEvm 2 (putF pEvm EVM.WAKE_STAT_OVR (setBit (getF s pEvm EVM.WAKE_STAT_OVR) w) 0 s))
  else urge (.wake w) (putF pEvm EVM.WAKE_STAT_PEND (setBit (getF s pEvm EVM.WAKE_STAT_PEND) w) 0 s)

/-- A delivery to a destination (R480, R485): `f` the delivery fc on the management clock; a pattern starts by TIME. -/
def deliverTo (d f : Nat) (s : State) : State :=
  if d = 0 then s
  else if d ≤ 4 then (if bit (getF s pBia BIA.BIA_CTL_EVM_EN) (d - 1) = 1 then strobe (d - 1) s else s)
  else if d ≤ 8 then (if isSet s pHkp HKP.INJ_EVM_EN (d - 5) then injTrigger (d - 5) s else s)
  else if d = 9 then (if patSrc s = 2 then patTrigger (now s - (mfc s - f)) s else s)
  else wake (d - 10) s

/-- The cycle of a destination's clock in which a delivery of fc `f` falls (R483, R485): HCLK for strobes and injections,
MCLK for the rest. -/
def dstCycle (d f : Nat) : Nat := if 1 ≤ d ∧ d ≤ 8 then (f + 15) / 16 else f / 4

/-- HIT_MAP of a channel. -/
def setHit (c : Nat) (s : State) : State :=
  irqBit pEvm 0 (putF pEvm EVM.HIT_MAP (setBit (getF s pEvm EVM.HIT_MAP (c / 32)) (c % 32)) (c / 32) s)

/-- The oldest registered event is delivered, 2 mc after its edge (R483, R485); the channels that take its channel's output
register it at that edge. -/
def execEvmDeliver (trig : Nat) (s : State) : Res1 :=
  match s.evm.flight with
  | [] => .next s
  | x0 :: xs =>
    let x := xs.foldl (fun m y => if y.due < m.due then y else m) x0
    if mfc s < x.due then .next s
    else
      let s := { s with evm := { s.evm with flight := s.evm.flight.erase x } }
      let s := incSat pEvm EVM.CH_CNT_EVT x.chan s
      let s := if x.irq then setHit x.chan s else s
      let cyc := dstCycle x.dst x.due + 1
      let s := if x.dst = 0 then s
        else if smGet 0 x.dst s.evm.last = cyc then incSat pEvm EVM.MERGE_CNT 0 s
        else deliverTo x.dst x.due { s with evm := { s.evm with last := smSet x.dst cyc s.evm.last } }
      .next (if evmOn s then forAll (takers s (0x180 + x.chan)) (fun c s => register c x.due trig s) s else s)

/-- Timer `t` fires where TIME / 4 modulo PERIOD equals PHASE, once at an edge (R481). -/
def execEvmTimer (t : Nat) (s : State) : Res1 :=
  let per := getF s pEvm EVM.TMR_PER_PERIOD t
  .next (if per ≠ 0 ∧ evmOn s = true ∧ isSet s 1 CLK.SYNC_STAT_TIME_VALID = true ∧ isSet s 1 CLK.PLL_STAT_LOCK = true
      ∧ now s / 4 % per = getF s pEvm EVM.TMR_PH_PHASE t
      ∧ s.evm.raised.all (fun r => r.1 ≠ 0x0F4 + t || r.2 / 4 ≠ mfc s / 4) = true then raiseSrc (0x0F4 + t) s else s)

/-! ### Loops (R487, R488) -/

/-- Whether a source lies in the cause set of a destination (R487). -/
def causes (dst src : Nat) : Bool :=
  if 1 ≤ dst ∧ dst ≤ 4 then (decide (0x40 ≤ src) && decide (src < 0x80)) || (decide (0x0DE ≤ src) && decide (src ≤ 0x0ED))
  else if 5 ≤ dst ∧ dst ≤ 8 then decide (0x0C0 ≤ src) && decide (src ≤ 0x0EF)
  else if dst = 9 then decide (src = 0x0F0)
  else false

/-- The CH_CFG words of the channels in use, with channel `c` holding `w`. -/
def usedChans (s : State) (c : Nat) (w : Word) : List (Nat × Word) :=
  ((List.range 64).map (fun a => (a, if a = c then w else rdWord s (EVM.CH_CFG.addr pEvm a)))).filter
    (fun e => EVM.CH_CFG_EN.of e.2 = 1)

/-- The feeds relation of R487. -/
def feeds (a b : Nat × Word) : Bool :=
  decide (EVM.CH_CFG_SRC.of b.2 = 0x180 + a.1) || causes (EVM.CH_CFG_DST.of a.2) (EVM.CH_CFG_SRC.of b.2)

/-- The channels that the ones of a list reach in up to `n` steps. -/
def reach (l : List (Nat × Word)) : Nat → List (Nat × Word) → List (Nat × Word)
  | 0, r => r
  | n + 1, r => reach l n (r ++ l.filter (fun b => !r.contains b && r.any (fun a => feeds a b)))

/-- The channels that channel `c` feeds, directly or through others. -/
def fedBy (l : List (Nat × Word)) (c : Nat) : List Nat :=
  (reach l 64 (l.filter (fun b => l.any (fun a => decide (a.1 = c) && feeds a b)))).map (fun e => e.1)

/-- Another channel of a cycle through channel `c` of the used channels, the lowest; `c` itself where it only feeds itself. None
where there is no cycle. -/
def cycleOf (l : List (Nat × Word)) (c : Nat) : Option Nat :=
  if c ∈ fedBy l c then some (((fedBy l c).filter (fun x => x ≠ c ∧ c ∈ fedBy l x)).foldl (fun m x => if m = c ∨ x < m then x else m) c)
  else none

/-! ### Protection (R489) -/

/-- What the protection of channel `c` makes of a write to its register at page offset `o` (R489): another requester's, or a
locked one, is discarded with its record. -/
def chanGuard (who : Requester) (c o : Nat) (effect : State → State) (s : State) : State :=
  let own := getF s pEvm EVM.CH_PROT_OWN c
  if getF s pEvm EVM.PROT_MODE = 1 ∧ own ≠ 0 ∧ own ≠ reqCode who then ownViol who pEvm o s
  else if getF s pEvm EVM.PROT_MODE = 2 ∧ isSet s pEvm EVM.CH_PROT_LK c = true then lockViol who pEvm o s
  else effect s

/-- A channel whose registers another requester than its owner reads as 0 (R489). -/
def hiddenChan (s : State) (who : Requester) (c : Nat) : Bool :=
  let own := getF s pEvm EVM.CH_PROT_OWN c
  decide (getF s pEvm EVM.PROT_MODE = 1) && isSet s pEvm EVM.CH_PROT_SEC c && decide (own ≠ 0) && decide (own ≠ reqCode who)

/-- A source that names the output of a secured channel of another owner (R489). -/
def secured (s : State) (c : Nat) (w : Word) : Bool :=
  let src := EVM.CH_CFG_SRC.of w
  decide (getF s pEvm EVM.PROT_MODE = 1) && decide (0x180 ≤ src) && decide (src < 0x1C0)
    && isSet s pEvm EVM.CH_PROT_SEC (src - 0x180)
    && decide (getF s pEvm EVM.CH_PROT_OWN (src - 0x180) ≠ getF s pEvm EVM.CH_PROT_OWN c)

/-- A write of CH_CFG[c] that has passed the page's own gates (R488, R489). -/
def chCfgWrite (who : Requester) (c : Nat) (w : Word) (s : State) : State :=
  let o := 0x100 + 0x10 * c
  chanGuard who c o (fun s =>
    if secured s c w then ownViol who pEvm o s
    else match (if EVM.CH_CFG_EN.of w = 1 then cycleOf (usedChans s c w) c else none) with
      | some x => errRec pEvm 0x20 0 0 (c + 256 * x) 0 (incSat pEvm EVM.LOOP_CNT_LOOP_CNT 0 (irqBit pEvm 1 s))
      | none => writeReg who pEvm o w s) s

/-- A write of CH_CFG[c] (R488, R489). -/
def execEvmChCfgWrite (who : Requester) (c w : Nat) (s : State) : Res1 :=
  .next (busGate who pEvm (0x100 + 0x10 * c) (chCfgWrite who c (BitVec.ofNat 32 w)) s)

/-- The effect of a write of PROT (R489, R486): the first 1 or 2 fixes the mode, and Hoop firmware claims or locks channel
63. -/
def protWrite (v : Nat) (s : State) : State :=
  if isSet s pEvm EVM.PROT_FIXED then errRec pEvm 0x21 0 0 v 0 s
  else if v = 0 ∨ v = 3 then s
  else
    let s := putF pEvm EVM.PROT_FIXED 1 0 (putF pEvm EVM.PROT_MODE v 0 s)
    if !s.boot.fw then s
    else if v = 1 then putF pEvm EVM.CH_PROT_OWN 2 63 s
    else putF pEvm EVM.CH_PROT_LK 1 63 s

/-- A write of PROT.MODE (R489). -/
def execEvmProtWrite (who : Requester) (v : Nat) (s : State) : Res1 := .next (viaBus who pEvm EVM.PROT_MODE 0 v (protWrite v) s)

end Sys2Proof.Machine
end

