-- ==== Sys2Proof/Machine/Host.lean ====
section
/-!
DEFINITION. The commands of 14_host_interface: MSI-X (R93, R369), the endpoint (R365 to R368), accesses to BAR2 (R99 to
R102, R367), the DMA channels (R370 to R381), the master-image load and the mailbox doorbell (R375, R382), and the SMBus
target (R384).
-/
namespace Sys2Proof.Machine

/-! ### MSI-X and the link -/

/-- Vector `v` unmasked in BAR4 (R93, R369): a pending message of a page line is sent only while a line with that vector is
still asserted; the event of a channel or of the mailbox has no line, and its pending message is sent. -/
def execMsixUnmask (v : Nat) (s : State) : Res1 :=
  if v ∈ s.msix.unmasked then .next s
  else
    let was := decide (v ∈ s.msix.pba)
    let s := { s with msix := { s.msix with unmasked := v :: s.msix.unmasked, pba := s.msix.pba.filter (fun x => x ≠ v) } }
    let line := (List.range 0x3A).any (fun p => decide (pageVec s p = v) && irqLine s p)
    .next (if was && (decide (64 ≤ v) || line) then { s with msix := { s.msix with sent := v :: s.msix.sent } } else s)

/-- The link has trained (R365, R518): STATUS, and IRQ_STAT bit 1, with bit 2 below x8 or 32 GT/s. `bme` is the bus-mastering
enable that the host's configuration leaves. -/
def execLinkUp (width speed : Nat) (bme : Bool) (s : State) : Res1 :=
  let s := forAll [(PCI.STATUS_LINK_UP, 1), (PCI.STATUS_WIDTH, width), (PCI.STATUS_SPEED, speed), (PCI.STATUS_BME, ofBool bme)]
    (fun e s => putF pPci e.1 e.2 0 s) s
  let s := irqBit pPci 1 s
  .next (if width < 8 ∨ speed < 5 then irqBit pPci 2 s else s)

/-- DL_Down, a hot reset, an FLR or PERST_N, by its cause code (R368). -/
def execPcieReset (cause : Nat) (s : State) : Res1 := .next (linkDown cause s)

/-- A write TLP to a BAR arrives poisoned (R367): discarded and recorded. -/
def execPoisonRx (bar off : Nat) (s : State) : Res1 := .next (errRec pPci 0x22 0 0 bar off s)

/-! ### BAR2 (R99 to R102) -/

/-- Whether a PCIe request can address a BAR2 range: inside the window, and within 4 KiB as every request is. -/
def bar2Ok (a n : Nat) : Bool := decide (0 < n) && decide (a + n ≤ 0x20000000) && decide (a % 4096 + n ≤ 4096)

/-- The page that owns a BAR2 address: the tile of its aperture, or GLB in the shared region (R101). -/
def bar2Page (a : Nat) : Nat := if a < 0x10000000 then tilePage (a / 0x800000) else 0

/-- The record of an access to a hole (R98, R101). An absent aperture has none (R4). -/
def bar2Hole (a dir : Nat) (s : State) : State :=
  if pagePresent s (bar2Page a) then errRec (bar2Page a) 0x01 0 0 dir a s else s

/-- Bytes of the NVS window (R506): the security area reads as zero, and what the journal holds is open (log entry 31). -/
def nvsRead (s : State) (o n : Nat) : List Byte :=
  (List.range n).map (fun i =>
    let o := o + i
    if 0x3C000 ≤ o ∧ o < 0x40000 then 0#8
    else if 0x1000 ≤ o ∧ o < 0x10000 then BitVec.ofNat 8 (Config.freeValue (s.free + i)).toNat
    else nvsByte s o)

/-- The answer of a read that meets no memory line. -/
def answer (bs : List Byte) (s : State) : State := { s with lastBytes := bs, lastAbort := false }

/-- A BAR2 read of `n` bytes (R101, R102, R367, R454, R506, R522). -/
def execBar2Read (a n : Nat) (s : State) : Res1 :=
  if !bar2Ok a n then .fault .outsideWindow
  else
    let zero := List.replicate n 0#8
    if !ready s then .next (answer zero s)
    else if 0x14000000 ≤ a ∧ a < 0x14400000 then
      .next (let t := answer (nvsRead s (a - 0x14000000) n) s
             { t with free := t.free + n })
    else match memAt a with
      | none => .next (answer zero (bar2Hole a 0 s))
      | some m =>
        if !pagePresent s m.page then .next (answer zero s)
        else if m.base + m.size < a + n then .next (answer zero (bar2Hole a 0 s))
        else if m.kind = 9 ∧ getF s 0xE DBG.DBG_STAT_LEVEL = 0 then .next (answer zero s)
        else .next (readMem a n s)

/-- A host write to a memory (R102, R131, R205, R285): stored line by line, or discarded where host writes may not reach. -/
def hostStore (m : MemRef) (a : Nat) (bs : List Byte) (s : State) : State :=
  if m.kind = 8 ∨ (m.kind = 9 ∧ getF s 0xE DBG.DBG_STAT_LEVEL = 0) then s
  else if m.kind = 5 then errRec m.page 0x37 0 0 0 a s
  else if m.kind = 10 then irqBit pTul 5 (errRec pTul 0x24 0 0 0 a s)
  else if m.kind ≤ 1 ∧ isSet s m.page HDR.STATUS_RUN = true then cfgBusy m.page (errRec m.page 0x24 0 0 0 a s)
  else storeMem 1 a bs s

/-- A BAR2 write (R99 to R102, R506, R522). -/
def execBar2Write (a : Nat) (bs : List Byte) (s : State) : Res1 :=
  if !bar2Ok a bs.length then .fault .outsideWindow
  else if !ready s then .next s
  else if 0x14000000 ≤ a ∧ a < 0x14400000 then .next (errRec 3 0x21 0 0 0 a s)
  else match memAt a with
    | none => .next (bar2Hole a 1 s)
    | some m =>
      if !pagePresent s m.page then .next s
      else if m.base + m.size < a + bs.length then .next (bar2Hole a 1 s)
      else .next (hostStore m a bs s)

/-! ### DMA channels -/

/-- Whether another channel that is not IDLE is bound to the same stream slot, result memory or queue (R380). -/
def boundTwice (s : State) (c : Nat) : Bool :=
  let k := chMode s c
  (List.range 16).any (fun d => decide (d ≠ c) && decide (chState s d ≠ 0) && decide (chMode s d = k)
    && (decide (k = 4) || decide (getF s pPci PCI.CH_CFG_BTILE d = getF s pPci PCI.CH_CFG_BTILE c))
    && (decide (k ≠ 2) || decide (getF s pPci PCI.CH_CFG_BSLOT d = getF s pPci PCI.CH_CFG_BSLOT c)))

/-- Whether the binding of a channel is bad (R380). -/
def bindBad (s : State) (c : Nat) : Bool :=
  let k := chMode s c
  let t := getF s pPci PCI.CH_CFG_BTILE c
  let b := t - 0x10
  let tile := decide (0x10 ≤ t) && decide (t < 0x30) && tilePresent s b
  (decide (k = 2) && !tile) || (decide (k = 3) && !(tile && isRdo b)) || (decide (2 ≤ k) && boundTwice s c)

/-- The effect of EN = 1 on a channel (R370, R377, R380). -/
def chEnable (c : Nat) (s : State) : State :=
  if chMode s c = 0 ∨ chState s c ≠ 0 then s
  else
    let s := putF pPci PCI.CH_CTL_EN 1 c s
    if bindBad s c then chError c 1 0 s
    else
      let s := putF pPci PCI.CH_STAT_STATE 1 c (modCh c (fun x => { wbs := x.wbs, told := x.told }) s)
      if chMode s c = 2 then
        let fill := getF s (getF s pPci PCI.CH_CFG_BTILE c) TMB.STRM_FILL (getF s pPci PCI.CH_CFG_BSLOT c)
        streamIssue c 8 (modCh c (fun x => { x with told := fill }) (putF pPci PCI.CH_DPOS fill c s))
      else modCh c (fun x => { x with told := getF s pPci PCI.CH_DPOS c }) s

/-- A write of EN = 1 (R370, R380). -/
def execChEnable (who : Requester) (c : Nat) (s : State) : Res1 := .next (viaBus who pPci PCI.CH_CTL_EN c 1 (chEnable c) s)

/-- The effect of EN = 0 (R370, R372): a running descriptor is aborted, and the channel drains what is outstanding. -/
def chDisable (c : Nat) (s : State) : State :=
  let s := putF pPci PCI.CH_CTL_EN 0 c s
  if chState s c ≠ 1 then s
  else
    match (chOf s c).desc with
    | some d =>
      let s := completion c d.idx 7 d.cookie s
      let s := putF pPci PCI.CH_HEAD_HEAD ((d.idx + 1) % 65536) c (modCh c (fun x => { x with desc := none }) s)
      putF pPci PCI.CH_STAT_STATE 3 c (chFail c 7 d.idx s)
    | none => putF pPci PCI.CH_STAT_STATE (if (chOf s c).reads = [] then 0 else 3) c s

/-- A write of EN = 0 (R370). -/
def execChDisable (who : Requester) (c : Nat) (s : State) : Res1 := .next (viaBus who pPci PCI.CH_CTL_EN c 0 (chDisable c) s)

/-- The outstanding requests of a disabled channel have drained (R370). -/
def execChDrainDone (c : Nat) (s : State) : Res1 :=
  .next (if chState s c = 3 ∧ isSet s pPci HDR.CTRL_FREEZE = false then putF pPci PCI.CH_STAT_STATE 0 c (modCh c (fun x => { x with reads := [] }) s) else s)

/-- The effect of RESET (R373): HEAD and TAIL stay as they stand. -/
def chReset (c : Nat) (s : State) : State :=
  if chState s c = 2 then putF pPci PCI.CH_STAT_STATE 0 c (modCh c (fun x => { x with reads := [] }) s) else s

/-- A write of RESET (R373). -/
def execChReset (who : Requester) (c : Nat) (s : State) : Res1 := .next (viaBus who pPci PCI.CH_CTL_RESET c 1 (chReset c) s)

/-- A write of TAIL (R371). -/
def execChTailWrite (who : Requester) (c v : Nat) (s : State) : Res1 :=
  .next (viaBus who pPci PCI.CH_TAIL_TAIL c v (putF pPci PCI.CH_TAIL_TAIL v c) s)

/-- The read of a COPY channel's next descriptor ends (R371, R372): `bs` are its bytes, or the host read has failed. A FENCE
waits for the descriptors of every channel. -/
def readDesc (c : Nat) (bs : Option (List Byte)) (s : State) : State :=
  let idx := getF s pPci PCI.CH_HEAD_HEAD c
  if chState s c ≠ 1 ∨ chMode s c ≠ 1 ∨ dmaOn s = false ∨ (chOf s c).desc.isSome = true ∨ idx = getF s pPci PCI.CH_TAIL_TAIL c then s
  else match bs with
    | none => finishDesc c 5 { idx := idx, host := 0, dev := 0, len := 0, op := 0, flags := 0, cookie := 0 } s
    | some bs =>
      let d := parseDesc idx bs
      if malformed d bs then finishDesc c 1 d s
      else match rangeFault s d.dev d.len d.op with
        | some st => finishDesc c st d s
        | none =>
          if bit d.flags 1 = 1 ∧ (List.range 16).any (fun k => (chOf s k).desc.isSome) = true then s
          else modCh c (fun x => { x with desc := some d }) s

/-- A COPY channel reads a descriptor (R371, R372). -/
def execDescriptor (c : Nat) (bs : Option (List Byte)) (s : State) : Res1 := .next (readDesc c bs s)

/-- The data of a host-to-device transfer written, once (R372). -/
def landCopy (c : Nat) (d : Desc) (data : List Byte) (s : State) : State :=
  if d.landed then s
  else
    let s := match memAt d.dev with
      | some m =>
        if m.kind ≤ 1 ∧ isSet s m.page HDR.STATUS_RUN = true then cfgBusy m.page (errRec m.page 0x24 0 0 0 d.dev s)
        else storeMem 3 d.dev data s
      | none => s
    modCh c (fun x => { x with desc := some { d with landed := true } }) (addLines c ((data.length + 63) / 64) s)

/-- The end of a host-to-device transfer (R372): the data that arrived are stored, and `ok` says that every read succeeded. While a
line of the range recovers, so that BAR2 cannot read it yet, the descriptor goes on. -/
def copyIn (c : Nat) (d : Desc) (data : List Byte) (ok : Bool) (s : State) : State :=
  let data := data.take d.len
  let s := landCopy c d data s
  if d.landed || (ok && decide (data.length = d.len)) then
    (if (linesOf64 d.dev d.len).any (fun l => (lineSt s l).recov.isSome) then s else finishDesc c 0 d s)
  else finishDesc c 5 d s

/-- The end of a device-to-host transfer (R372, R454): it waits at a recovering line and ends at a poisoned one. -/
def copyOut (c : Nat) (d : Desc) (s : State) : State :=
  match checkLines 3 (linesOf64 d.dev d.len) s with
  | (none, s) => finishDesc c 0 d (addLines c ((d.len + 63) / 64) (hostWrite d.host (rdList s d.dev d.len) s))
  | (some (_, true), s) => s
  | (some (l, false), s) =>
    let n := l - d.dev
    finishDesc c 6 d (addLines c ((n + 63) / 64) (if n = 0 then s else hostWrite d.host (rdList s d.dev n) s))

/-- The transfer of a descriptor ends (R372, R373): `data` and `ok` for one from the host. A frozen page holds (R83). -/
def execDmaTransferDone (c : Nat) (data : List Byte) (ok : Bool) (s : State) : Res1 :=
  match (if isSet s pPci HDR.CTRL_FREEZE then none else (chOf s c).desc) with
  | none => .next s
  | some d => .next (if d.op = 1 then copyIn c d data ok s else copyOut c d s)

/-- A write of CH_HPOS (R377, R379). -/
def execChHposWrite (who : Requester) (c v : Nat) (s : State) : Res1 :=
  .next (viaBus who pPci PCI.CH_HPOS c v (fun s => streamIssue c 8 (putF pPci PCI.CH_HPOS v c s)) s)

/-- The oldest read of a STREAM channel completes with its data (R377), or fails; a channel that drains discards it. -/
def execHostReadCompletion (c : Nat) (data : List Byte) (ok : Bool) (s : State) : Res1 :=
  match (if isSet s pPci HDR.CTRL_FREEZE then [] else (chOf s c).reads) with
  | [] => .next s
  | (pos, n) :: rest =>
    let s := modCh c (fun x => { x with reads := rest }) s
    if chState s c ≠ 1 then .next s
    else if ok then .next (streamData c pos n data s)
    else .next (chError c 5 0 (modCh c (fun x => { x with reads := [] }) s))

/-- A RESULT or ESCAL channel moves a burst (R379, R381). -/
def execUploadBurst (c : Nat) (s : State) : Res1 :=
  let k := burstSize s c
  if chState s c ≠ 1 ∨ (chMode s c ≠ 3 ∧ chMode s c ≠ 4) ∨ dmaOn s = false ∨ k = 0 then .next s
  else
    let d := getF s pPci PCI.CH_DPOS c
    let b := getF s pPci PCI.CH_CFG_BTILE c - 0x10
    let size := if chMode s c = 3 then 16 else 32
    let rp := getF s (tilePage b) RDO.RES_RP
    let r := if chMode s c = 3 then uploadRecords c b k rp s
      else (((s.esc.take k).map (fun x => toBytes x 32)).flatten, s)
    let s := hostWrite (chHaddr s c + size * (d % chRing s c)) r.1 r.2
    let s := if chMode s c = 3 then showFill b (putF (tilePage b) RDO.RES_RP ((rp + k) % 2 ^ 32) 0 s)
      else showEsc { s with esc := s.esc.drop k }
    let s := putF pPci PCI.CH_DPOS ((d + k) % 2 ^ 32) c (addLines c ((size * k + 63) / 64) s)
    .next (chProgress c (writeback c s))

/-- HOLD µs have passed with unreported progress (R381). A frozen page holds (R83). -/
def execChIrqHoldoff (c : Nat) (s : State) : Res1 :=
  let d := getF s pPci PCI.CH_DPOS c
  let hold := getF s pPci PCI.CH_IRQ_HOLD c
  .next (if chState s c = 1 ∧ 2 ≤ chMode s c ∧ hold ≠ 0 ∧ d ≠ (chOf s c).told ∧ timerDue s (tmHold c) (1000 * hold) = true
      ∧ isSet s pPci HDR.CTRL_FREEZE = false then chTell c s
    else s)

/-- A host read gets no completion within the completion timeout (R372, R376): of channel `x`, or the refetch of the line at
`x`. -/
def execCompletionTimeout (refetch : Bool) (x : Nat) (s : State) : Res1 :=
  if refetch then
    .next (match memAt x with
      | some m => match (lineSt s x).recov with
        | some r => poisonLine m r.req 3 x s
        | none => s
      | none => s)
  else if isSet s pPci HDR.CTRL_FREEZE then .next s
  else if chState s x = 3 then .next (modCh x (fun y => { y with reads := y.reads.tail }) s)
  else if chState s x ≠ 1 then .next s
  else match (chOf s x).desc with
    | some d => .next (if d.op ≠ 1 ∨ d.landed = true then s else finishDesc x 5 d s)
    | none =>
      if chMode s x = 1 then .next (readDesc x none s)
      else if (chOf s x).reads = [] then .next s
      else .next (chError x 5 0 (modCh x (fun y => { y with reads := [] }) s))

/-! ### Master images and mailbox -/

/-- The effect of LOAD (R375): the load takes MIT_BASE and COUNT as they stand, or is ignored while one is pending. -/
def mitLoad (s : State) : State :=
  if isSet s pPci PCI.MIT_STAT_BUSY then errRec pPci 0x23 0 0 6 0 s
  else
    let s := putF pPci PCI.MIT_STAT_BUSY 1 0 s
    { s with pcie := { s.pcie with mit := some (addr64 s pPci PCI.MIT_BASE_LO PCI.MIT_BASE_HI, getF s pPci PCI.MIT_CTL_COUNT) } }

/-- A write of MIT_CTL with LOAD (R375); COUNT takes the value of the same write. -/
def execMitLoad (who : Requester) (count : Nat) (s : State) : Res1 :=
  .next (viaBus who pPci PCI.MIT_CTL_LOAD 0 1 (fun s => mitLoad (putF pPci PCI.MIT_CTL_COUNT count 0 s)) s)

/-- The effect of a doorbell (R382, R383). -/
def doorbell (seq : Nat) (s : State) : State :=
  if isSet s pPci PCI.MBX_STAT_BUSY then errRec pPci 0x24 0 0 seq 0 s
  else
    let s := putF pPci PCI.MBX_STAT_BUSY 1 0 s
    { s with pcie := { s.pcie with door := some seq } }

/-- A write of MBX_DB (R382, R383). -/
def execMbxDoorbell (who : Requester) (seq : Nat) (s : State) : Res1 := .next (viaBus who pPci PCI.MBX_DB 0 seq (doorbell seq) s)

/-! ### SMBus (R384) -/

/-- The value that an SMBus read returns. -/
def smbRead (v : Nat) (s : State) : State := { s with lastRead := BitVec.ofNat 64 v }

/-- Command 0x00: HEALTH; a read of it clears SMB_ALERT_N (R384). -/
def execSmbHealthRead (s : State) : Res1 :=
  let h := getF s 0 GLB.HEALTH_STATE
  .next (smbAlert (smbRead h { s with boot := { s.boot with smbHealth := h } }))

/-- Command 0x01: the maximum diode temperature, or 0x8000 while Hoop firmware has published none (R384). -/
def execSmbTempRead (s : State) : Res1 := .next (smbRead (if s.boot.smbPub then getF s 5 THM.TEMP_MAX_MAX else 0x8000) s)

/-- Command 0x02: the power, or 0xFFFF while Hoop firmware has published none (R384, R444). -/
def execSmbPowerRead (s : State) : Res1 := .next (smbRead (if s.boot.smbPub then getF s 5 THM.POWER_POWER else 0xFFFF) s)

/-- Command 0x03: the energy counter in mJ (R384, R444). -/
def execSmbEnergyRead (s : State) : Res1 := .next (smbRead (s.smp.energy / 16000000) s)

/-- Command 0x04: the UID (R384). -/
def execSmbUidRead (s : State) : Res1 := .next (smbRead Config.uid.toNat s)

/-- Command 0x05: link up, READY, thermal alarm and shutdown latched (R384). -/
def execSmbStatusRead (s : State) : Res1 :=
  .next (smbRead (getF s pPci PCI.STATUS_LINK_UP + 2 * getF s 0 GLB.START_STAT_READY + 4 * getF s 5 THM.STATUS_ALARM
    + 8 * ofBool s.boot.smbShdn) s)

/-- Command 0x10: 0xA5 clears SMB_ALERT_N; any other value does nothing (R384). -/
def execSmbAlertClear (v : Nat) (s : State) : Res1 :=
  .next (if v = 0xA5 then { s with boot := { s.boot with smbAlert := false } } else s)

end Sys2Proof.Machine
end

