-- ==== Sys2Proof/Machine/House.lean ====
section
/-!
DEFINITION. The commands of 17_housekeeping_thermal: Sampler triggers and conversions (R431 to R436), the release of a
shutdown (R441), the energy counter (R444) and telemetry (R445).
-/
namespace Sys2Proof.Machine

/-- The 10 ms round timer (R432). -/
def execSamplerRoundTimer (s : State) : Res1 :=
  .next (if timerDue s tmRound 10000000 then roundTrigger (stampTimer tmRound s) else s)

/-- A write of RGO (R432). -/
def execSamplerRgo (who : Requester) (s : State) : Res1 := .next (viaBus who pHkp HKP.HKP_CTL_RGO 0 1 roundTrigger s)

/-- A write of INJ_GO (R433). -/
def execInjGo (who : Requester) (mask : Nat) (s : State) : Res1 :=
  .next (viaBus who pHkp HKP.HKP_CTL_INJ_GO 0 mask (forAll ((List.range 4).filter (fun k => bit mask k = 1)) injTrigger) s)

/-- The conversion in progress ends (R431, R433, R434): its code enters its accumulator, the round or the injections that wait
for it go on, and the Sampler takes its next work or powers down. -/
def execSamplerConversionDone (code : Nat) (s : State) : Res1 :=
  match s.smp.cur with
  | none => .next s
  | some c =>
    if !samplerOn s || decide (s.up < s.smp.due) then .next s
    else
      let last := match c with | .round _ _ => s.smp.rnd.isNone | .inj _ => false
      let s := enterCode (convInput s c) code s
      let s := { s with smp := { s.smp with cur := none } }
      let s := if last then roundDone s else s
      .next (takeWork 0 (snapReady s))

/-- The effect of a write of SHDN_CLR (R441, R443): ignored on the MQ-256A and while no shutdown holds. -/
def shdnClrEffect (s : State) : State :=
  if s.variant = .mq256 ∨ isSet s pThm THM.STATUS_SHDN = false then s
    else if toSigned 16 (getF s pThm THM.TEMP_MAX_MAX) < 1440 ∧ brokenTwo s = false then
      putF pThm THM.STATUS_SHDN 0 0 { s with boot := { s.boot with smbShdn := false } }
    else errRec pThm 0x23 0 0 (getF s pThm THM.TEMP_MAX_MAX) 0 s

/-- A write of SHDN_CLR (R441, R443): ignored on the MQ-256A and while no shutdown holds. -/
def execShdnClr (who : Requester) (s : State) : Res1 :=
  .next (viaBus who pThm THM.THM_CTL_SHDN_CLR 0 1 shdnClrEffect s)

/-- The effect of a write of MM_RST (R435): the tracker re-arms; a write to ICFG[i] discards the sum in progress. -/
def mmRstEffect (i : Nat) (s : State) : State :=
  putF pHkp HKP.MINMAX_MIN 0xFFFF i (putF pHkp HKP.MINMAX_MAX 0 i (dropSum i s))

/-- A write of MM_RST (R435): the tracker re-arms; a write to ICFG[i] discards the sum in progress. -/
def execMmRst (who : Requester) (i : Nat) (s : State) : Res1 :=
  .next (viaBus who pHkp HKP.ICFG_MM_RST i 1 (mmRstEffect i) s)

/-- PERIOD ms have passed (R445): Hoop firmware writes a telemetry record to the host ring, or drops it. A frozen page holds
(R83). -/
def execTelemetryTimer (s : State) : Res1 :=
  if !(s.boot.fw && ready s && isSet s pThm THM.TEL_CFG_EN && isSet s pThm HDR.CTRL_EN && !isSet s pThm HDR.CTRL_FREEZE
      && timerDue s tmTelemetry (1000000 * max 10 (getF s pThm THM.TEL_CFG_PERIOD))) then .next s
  else
    let s := stampTimer tmTelemetry s
    let w := getF s pThm THM.TEL_WP
    if (w + 2 ^ 32 - getF s pThm THM.TEL_RP) % 2 ^ 32 < telSize s ∧ hostOn s = true then
      let a := addr64 s pThm THM.TEL_BASE_LO THM.TEL_BASE_HI + 64 * (w % telSize s)
      .next (putF pThm THM.TEL_WP ((w + 1) % 2 ^ 32) 0 (hostWrite a (telRecord w s) s))
    else
      let first := decide (bit (getF s pThm HDR.IRQ_STAT) 4 = 0)
      let s := irqBit pThm 4 (incSat pThm THM.TEL_DROP 0 s)
      .next (if first then errRec pThm 0x24 0 0 (w % 2 ^ 16) 0 s else s)

end Sys2Proof.Machine
end

