-- ==== Sys2Proof/Machine/Jodex.lean ====
section
/-!
DEFINITION. The commands of 12_jodex_links: training of a port (R324 to R330), its loss of lock (R331), the blocks that
it receives (R311, R319 to R323, R332, R334), loop stamps and TIME blocks (R321, R327, R341, R353), electrical idle (R337,
R338) and the eye margin (R339).
-/
namespace Sys2Proof.Machine

/-- A write of TRAIN, or a write that takes CTRL.EN from 0 to 1 (R325). A TRAIN of a disabled port has no effect. -/
def execPortTrain (who : Requester) (n : Nat) (en : Bool) (s : State) : Res1 :=
  let p := jdxPage n
  if 8 ≤ n then .next s
  else if en then
    .next (viaBus who p HDR.CTRL_EN 0 1 (ownAct who p (fun s =>
      if isSet s p HDR.CTRL_EN then s else topoUrge (enterSearch n (putF p HDR.CTRL_EN 1 0 s)))) s)
  else .next (viaBus who p JDX.PORT_CTL_TRAIN 0 1 (ownAct who p (fun s => if isSet s p HDR.CTRL_EN then topoUrge (enterSearch n s) else s)) s)

/-- A lane hunts for block lock in the bits it has received, and declares it where 64 headers in a row are valid at one position
(R330). -/
def execLaneBlockLock (n : Nat) (lane : LaneBits) (s : State) : Res1 :=
  let p := jdxPage n
  if portState s n = 0 ∨ portState s n = 7 ∨ 2 ≤ lane.lane ∨ 8 ≤ n ∨ portHeld s n = true ∨ locks lane.bits = false then .next s
  else
    let was := bothLocked s n
    let s := putF p (if lane.lane = 0 then JDX.STATUS_LOCK0 else JDX.STATUS_LOCK1) 1 0 s
    let s := if bothLocked s n && !was then modPort n (fun x => { x with lockUp := s.up }) s else s
    .next (searchDone n s)

/-- A TRAIN block noted with those before it on its lane (R325, R328). -/
def noteTrain (lane blk ctr : Nat) (x : Port) : Port :=
  if lane = 0 then { x with trn0 := ((blk, ctr) :: x.trn0).take 8 } else { x with trn1 := ((blk, ctr) :: x.trn1).take 8 }

/-- The peer's lanes come exchanged (R325): two blocks of one training counter, each on the other's lane. -/
def lanesSwapped (x : Port) : Bool :=
  x.trn0.any (fun e => decide (e.1 = 1) && x.trn1.any (fun d => decide (d.1 = 0) && decide (d.2 = e.2)))

/-- TRAIN blocks counted on a lane (R328). -/
def trainRx (lane : Nat) (x : Port) : Nat := if lane = 0 then x.rx0 else x.rx1

/-- The state with the count of a lane. -/
def setTrainRx (lane k : Nat) (x : Port) : Port := if lane = 0 then { x with rx0 := k } else { x with rx1 := k }

/-- A TRAIN block in AGREE (R326, R328): the decision where both ends show MAIN_OK, and the blocks in a row that show AGREE or a later
state and the decision. -/
def trainAgree (lane : Nat) (mainOk fb own : Bool) (st : Nat) (x : Port) : Port :=
  let x := { x with mode := if x.mode.isNone && own && mainOk then some false else x.mode }
  match x.mode with
  | none => x
  | some m =>
    let same := decide (2 ≤ st) && decide (st ≤ 6) && (if m then fb && !(own && mainOk) else mainOk)
    setTrainRx lane (if same then trainRx lane x + 1 else 0) x

/-- A TRAIN block is received on a lane (R320, R325, R326, R328): `blk` is the lane it names, `inv` that it arrived inverted,
`main` and `fb` the peer's MAIN_CAP, MAIN_OK and FB_CAP, `at_` its state code and training counter, `ppm` whether the recovered clock
lies within ±20 ppm. -/
def execTrainBlockRx (n lane blk : Nat) (inv : Bool) (main : MainBits) (fb : Bool) (at_ : TrainAt) (ppm : Bool) (s : State) : Res1 :=
  let p := jdxPage n
  if portHeld s n then .next s
  else if portState s n = 1 then
    let s := if inv then putF p (if lane = 0 then JDX.STATUS_POL0 else JDX.STATUS_POL1) 1 0 s else s
    let s := modPort n (fun x => setTrainRx lane (trainRx lane x + 1)
      (noteTrain lane blk at_.ctr { x with peerMain := main.cap, peerFb := fb, ppm := ppm })) s
    let s := if lanesSwapped (portOf s n) then putF p JDX.STATUS_LANE_SWAP 1 0 s else s
    .next (searchDone n s)
  else if portState s n = 2 then
    let s := modPort n (fun x => { x with peerMain := main.cap, peerFb := fb, ppm := ppm }) s
    .next (agreeDone n (modPort n (trainAgree lane main.ok fb (mainOkOwn s n) at_.state) s))
  else .next s

/-- MAIN_OK has stayed 0 at either end for 10 µs after lane lock (R326). -/
def execModeTimeout (n : Nat) (s : State) : Res1 :=
  let x := portOf s n
  if portHeld s n then .next s
  else if portState s n = 2 ∧ x.mode = none ∧ bothLocked s n = true ∧ x.lockUp + 10000 ≤ s.up then
    .next (if fbCap s n && x.peerFb then
        modPort n (fun x => { x with mode := some true, rx0 := 0, rx1 := 0, sent := 0 }) s
      else trainFail n 2 s)
  else .next s

/-- SEQ advances by 16 from one frame to the next (R313). -/
def seqNext (q : Nat) : Nat := (q + 16) % 65536

/-- The SEQ that a receiver counts on to while its peer is idle (R337). -/
def seqCounted (s : State) (n : Nat) : Nat :=
  let x := portOf s n
  (x.seq0.getD 0 + 16 * ((s.up - x.markUp + 16) / 33)) % 65536

/-- What a marker says, kept: the SEQ of its lane, and from lane 0 when it came, its arrival stamp, TIME_VALID, port and CREDIT. -/
def keepMarker (n lane seq port credit arr : Nat) (tvalid : Bool) (s : State) : State :=
  if lane = 0 then
    modPort n (fun x => { x with
      seq0 := some seq, markUp := s.up, arr := arr, peerValid := tvalid, peerPort := port, credit := credit }) s
  else modPort n (fun x => { x with seq1 := some seq }) s

/-- A FRAME marker in DESKEW (R327, R328): lane 1 is aligned, unless the skew is above 4 block periods, and the frames in
step are counted. -/
def markerDeskew (n lane seq : Nat) (prev : Option Nat) (skew : Int) (s : State) : State :=
  let p := jdxPage n
  if 264 < skew.natAbs then trainFail n 3 s
  else
    let s := putF p JDX.LANE_SKEW_SKEW (ofSigned 11 skew) 0 s
    let x := portOf s n
    let bad := decide (prev ≠ none) && decide (prev.map seqNext ≠ some seq)
    let both := decide (x.seq0 = x.seq1)
    let f := (if bad then 0 else x.frames) + ofBool (both && decide (lane < 2))
    deskewDone n (modPort n (fun x => { x with frames := f, aligned := x.aligned || both }) s)

/-- A FRAME marker of a peer that was idle (R338): the link is restored, or the port enters SEARCH. -/
def markerRestore (n seq : Nat) (hdrs : Bool) (s : State) : State :=
  let p := jdxPage n
  if hdrs && decide (seq = seqCounted s n) then
    let s := modPort n (fun x => { x with seq0 := some ((seq + 65520) % 65536), seq1 := some ((seq + 65520) % 65536) }) s
    topoUrge (restoreSlots (irqBit p 8 (putF p JDX.STATUS_PEER_IDLE 0 0 s)))
  else topoUrge (enterSearch n s)

/-- A FRAME marker whose SEQ is not the previous one plus 16 (R332). -/
def seqCheck (n seq : Nat) (prev : Option Nat) (s : State) : State :=
  match prev with
  | none => s
  | some q =>
    if seqNext q = seq then s
    else
      let p := jdxPage n
      errRec p 0x23 2 0 (seqNext q + 2 ^ 16 * seq) 0 (irqBit p 4 (incSat p JDX.UNK_CNT_SEQ_ERR 0 s))

/-- A marker in AGREE is the peer's entry to DESKEW (R328): a block of a later state, whose mode bit is the decision. -/
def markerAgree (lane : Nat) (fb : Bool) (x : Port) : Port :=
  if x.mode = some fb then setTrainRx lane (trainRx lane x + 1) x else x

/-- A FRAME marker is received on a lane (R320, R328, R332, R338): `fb` its mode bit, `peer` the sender, `arr` its arrival stamp in
1/16 fc, `skew` lane 1 behind lane 0 in unit intervals, `hdrs` whether the 16 headers before it were valid. -/
def execFrameMarkerRx (n lane : Nat) (fb : Bool) (peer : Sender) (seq credit arr : Nat) (skew : Int) (hdrs : Bool) (s : State) : Res1 :=
  let st := portState s n
  let x := portOf s n
  let prev := fun (x : Port) => if lane = 0 then x.seq0 else x.seq1
  let keep := keepMarker n lane seq peer.port credit arr peer.tvalid
  if portHeld s n then .next s
  else if st = 2 then .next (agreeDone n (modPort n (markerAgree lane fb) s))
  else if st = 3 then .next (markerDeskew n lane seq (prev x) skew (keep s))
  else if st = 4 then .next (keep s)
  else if st = 5 ∨ st = 6 then
    let idle := isSet s (jdxPage n) JDX.STATUS_PEER_IDLE
    let s := if idle then markerRestore n seq hdrs s else s
    if portState s n = 1 then .next s
    else
      let s := if st = 5 then seqCheck n seq (prev (portOf s n)) s else s
      .next (slotWatch (keep s))
  else .next s

/-- The deserializer of a lane gives a block whose header marks no control block (R310, R318, R319, R330, R335): `hdr` is the
header, `pay` the payload as it was received. -/
def execDecisionBlockRx (n lane hdr : Nat) (pay : Scrambled) (s : State) : Res1 :=
  let p := jdxPage n
  let st := portState s n
  let pay := descramble pay.hist pay.line
  if st < 3 ∨ 6 < st ∨ isSet s p JDX.STATUS_PEER_IDLE = true ∨ 2 ≤ lane ∨ portHeld s n = true ∨ hdr = 2 then .next s
  else if hdr ≠ 1 then .next (dropBlock n (incSat p JDX.HDR_ERR lane s))
  else if crc7 pay ≠ blockCrc pay then .next (dropBlock n s)
  else if st < 5 then .next s
  else .next (forAll [0, 1, 2] (fun k s => takeEntry n (now s) (blockEntry pay k) s) s)

/-- A word of a port is released to its ingress check (R271, R319). -/
def execDecisionRelease (n : Nat) (s : State) : Res1 :=
  match (portOf s n).rx.find? (fun w => decide (w.rel ≤ now s)) with
  | none => .next s
  | some w => if devDue s w.rel then .next s else .next (ingress n w (modPort n (fun x => { x with rx := x.rx.erase w }) s))

/-- A block on a locked lane that the port discards for its header, whatever it carries (R330), or, with a valid header of a control
block, for its unknown type (R311). -/
def execUnknownBlockRx (blk : BadBlk) (s : State) : Res1 :=
  let p := jdxPage blk.port
  if 8 ≤ blk.port ∨ 2 ≤ blk.lane ∨ portHeld s blk.port = true
      ∨ isSet s p (if blk.lane = 0 then JDX.STATUS_LOCK0 else JDX.STATUS_LOCK1) = false then .next s
  else if blk.hdr = 2 then .next (incSat p JDX.UNK_CNT_UNK_TYPE 0 s)
  else if blk.hdr = 1 then .next s
  else .next (incSat p JDX.HDR_ERR blk.lane s)

/-- The effect of a write of ACTIVATE in MEASURE (R327, R329). -/
def portActivateEffect (n : Nat) (s : State) : State :=
  let p := jdxPage n
  if portState s n = 4 then
      let s := irqBit p 1 (setPortState n 5 s)
      let s := if isSet s p JDX.STATUS_FBM then irqBit p 2 s else s
      let s := modPort n (fun x => { x with backoff := 1, tx := { x.tx with since := 0 } }) s
      topoUrge { s with cst := { s.cst with activeUp := some (s.cst.activeUp.getD s.up) } }
    else s

/-- A write of ACTIVATE in MEASURE (R327, R329). -/
def execPortActivate (who : Requester) (n : Nat) (s : State) : Res1 :=
  let p := jdxPage n
  .next (viaBus who p JDX.PORT_CTL_ACTIVATE 0 1 (ownAct who p (portActivateEffect n)) s)

/-- A training limit passes (R329): 100 µs in MEASURE, or 1 ms since SEARCH. -/
def execTrainTimeout (n : Nat) (measure : Bool) (s : State) : Res1 :=
  let st := portState s n
  let x := portOf s n
  if portHeld s n then .next s
  else if measure then .next (if st = 4 ∧ x.measUp + 100000 ≤ s.up then trainFail n 5 s else s)
  else .next (if 1 ≤ st ∧ st ≤ 4 ∧ x.tx.on = true ∧ x.searchUp + 1000000 ≤ s.up then trainFail n 1 s else s)

/-- The back-off interval of a failed port passes (R329). -/
def execTrainBackoff (n : Nat) (s : State) : Res1 :=
  let p := jdxPage n
  let x := portOf s n
  .next (if portState s n = 7 ∧ isSet s p JDX.PORT_CFG_AUTO = true ∧ isSet s p HDR.CTRL_EN = true ∧ portHeld s n = false
      ∧ x.failUp + 1000000 * x.backoff ≤ s.up then
      enterSearch n (modPort n (fun x => { x with backoff := min 64 (2 * x.backoff) }) s)
    else s)

/-- The number of a cause of a loss of lock in LOCK_LOST (R331). -/
def lolNum : LolCause → Nat
  | .headers _ => 1
  | .rootPll => 2
  | .signal => 3

/-- Whether a cause takes lock: header errors when 16 of 64 blocks in a row carry invalid headers (R330). -/
def lolTakes : LolCause → Bool
  | .headers bad => decide (16 ≤ popcount 64 bad)
  | _ => true

/-- Lanes of a port lose lock (R330, R331): `lanes` one bit each. -/
def execJodexLossOfLock (n lanes : Nat) (cause : LolCause) (s : State) : Res1 :=
  if 8 ≤ n ∨ portHeld s n = true ∨ lolTakes cause = false then .next s
  else .next (loseLock n lanes (lolNum cause) s)

/-- A stamp of MEASURE in its sums; the sixteenth gives MEAN (R327). -/
def stampMean (n : Nat) (app : Int) (s : State) : State :=
  let s := modPort n (fun x => if x.stampN < 16 then { x with stampN := x.stampN + 1, stampSum := x.stampSum + app } else x) s
  if (portOf s n).stampN = 16 then
    putF (jdxPage n) JDX.LINK_LAT_MEAN (ofSigned 16 (clampI (-32768) 32767 (roundDiv (portOf s n).stampSum 16))) 0 s
  else s

/-- A stamp of an ACTIVE port: its delay enters the sums of R406 and is held against FH (R341). -/
def stampActive (n : Nat) (app : Int) (s : State) : State :=
  let p := jdxPage n
  let s := modPort n (fun x => if x.inN < 256 then { x with inN := x.inN + 1, inSum := x.inSum + app } else x) s
  if (16 * getF s p JDX.LINK_LAT_FH : Int) - 2 < app then
    errRec p 0x26 1 0 (ofSigned 16 (clampI (-32768) 32767 app)) 0 (irqBit p 7 (putF p JDX.STATUS_DLY_WARN 1 0 s))
  else s

/-- A LOOP STAMP arrives (R321): `dep` its departure stamp and `arr` the arrival stamp, in 1/16 fc. -/
def execLoopStampRx (n id dep arr : Nat) (s : State) : Res1 :=
  let p := jdxPage n
  let st := portState s n
  if (st = 4 ∨ st = 5 ∨ st = 6) ∧ isSet s p JDX.STATUS_PEER_IDLE = false ∧ portHeld s n = false then
    let app := apparent dep arr
    let s := putF p JDX.LOOP_APP_APP (ofSigned 16 (clampI (-32768) 32767 app)) 0 (putF p JDX.LOOP_APP_ID id 0 s)
    let s := sendBlk n (.report id (ofSigned 48 app)) s
    if isSet s p JDX.STATUS_FBM then .next s
    else if st = 4 then .next (stampMean n app s)
    else if st = 5 then .next (stampActive n app s)
    else .next s
  else .next s

/-- A LOOP REPORT arrives with the apparent delay that the peer measured for one of the port's stamps (R321, R353, R406). -/
def execLoopReportRx (n val : Nat) (s : State) : Res1 :=
  let v := toSigned 48 val
  if portHeld s n then .next s
  else if portState s n = 4 then .next (modPort n (fun x => { x with repN := x.repN + 1, repSum := x.repSum + v }) s)
  else if portState s n = 5 then
    .next (modPort n (fun x => if x.outN < 256 then { x with outN := x.outN + 1, outSum := x.outSum + v } else x) s)
  else .next s

/-- 1,024 frames of an ACTIVE port in main clocking mode have passed since the last LOOP stamp was due, and another one is (R341). -/
def execLoopStampSend (n id : Nat) (s : State) : Res1 :=
  .next (if portState s n = 5 ∧ isSet s (jdxPage n) JDX.STATUS_FBM = false ∧ 1024 ≤ (portOf s n).tx.since ∧ portHeld s n = false
    then sendStamp n id s else s)

/-- A TIME block arrives with the sender's TIME (R353); one over a fall-back link is no epoch source (R335). -/
def execTimeBlockRx (n val : Nat) (s : State) : Res1 :=
  if portState s n = 5 ∧ isSet s (jdxPage n) JDX.STATUS_FBM = false ∧ isSet s (jdxPage n) JDX.STATUS_PEER_IDLE = false
      ∧ portHeld s n = false then
    .next (slotWatch (modPort n (fun x => { x with timeN := x.timeN + 1, timeF := val, timeA := x.arr }) s))
  else .next s

/-- The end of a received message (R322, R323, R347): its CRC, then its type. -/
def messageEnd (n chan : Nat) (bs : List Byte) (s : State) : State :=
  if !msgCrcOk bs then mgmtDrop n chan 1 s
  else if knownMsg chan bs then modPort n (fun x => { x with msgs := x.msgs ++ [(chan, bs)] }) s
  else incSat 0x38 CST.MSG_CNT_UNK 0 s

/-- The bytes of a fragment added to the open message. -/
def messageAdd (n chan : Nat) (eom : Bool) (bs : List Byte) (s : State) : State :=
  if 1024 < bs.length then mgmtDrop n chan 2 (modPort n (fun x => { x with openMsg := none }) s)
  else if eom then messageEnd n chan bs (modPort n (fun x => { x with openMsg := none }) s)
  else modPort n (fun x => { x with openMsg := some (chan, bs) }) s

/-- A MGMT fragment arrives (R322, R323). -/
def execMgmtFragmentRx (n : Nat) (som eom : Bool) (chan : Nat) (bytes : List Byte) (s : State) : Res1 :=
  let st := portState s n
  if st < 4 ∨ 6 < st ∨ isSet s (jdxPage n) JDX.STATUS_PEER_IDLE = true ∨ portHeld s n = true then .next s
  else if som then
    let s := match (portOf s n).openMsg with
      | some (c, _) => mgmtDrop n c 3 (modPort n (fun x => { x with openMsg := none }) s)
      | none => s
    .next (if freeBufs s n = 0 then mgmtDrop n chan 5 s else messageAdd n chan eom bytes s)
  else
    match (portOf s n).openMsg with
    | some (c, bs) => .next (if c = chan then messageAdd n chan eom (bs ++ bytes) s else mgmtDrop n chan 4 s)
    | none => .next (mgmtDrop n chan 4 s)

/-- The elastic buffer as a FILLER period leaves it (R334): `k` is its level, and a period is deleted above half of the 8, inserted
below. -/
def fillerStep (k : Nat) : Nat := if 4 < k then k - 1 else if k < 4 then k + 1 else k

/-- A FILLER period at the elastic buffer (R334), which `drift` block periods more have entered than left since the last one. -/
def execFillerRx (n : Nat) (drift : Int) (s : State) : Res1 :=
  let p := jdxPage n
  if isSet s p JDX.STATUS_FBM = true ∧ portHeld s n = false then
    let k := (clampI 0 8 ((portOf s n).ebuf + drift)).toNat
    let s := modPort n (fun x => { x with ebuf := fillerStep k }) s
    .next (if 4 < k then incSat p JDX.FILL_CNT_FILL_DEL 0 s else if k < 4 then incSat p JDX.FILL_CNT_FILL_INS 0 s else s)
  else .next s

/-- The effect of a write of IDLE_ENTER (R337): in ACTIVE and main clocking mode the block goes out in the next management position,
and E_IDLE follows at the end of that frame; else the record. -/
def idleEnterReqEffect (n : Nat) (s : State) : State :=
  let p := jdxPage n
  if portState s n = 5 ∧ isSet s p JDX.STATUS_FBM = false then
    modPort n (fun x => { x with tx := { x.tx with idleReq := x.tx.idleReq || !x.tx.idleSent } }) s
  else errRec p 0x28 0 0 (portState s n) 0 s

/-- A write of IDLE_ENTER (R337). -/
def execIdleEnterReq (who : Requester) (n : Nat) (s : State) : Res1 :=
  let p := jdxPage n
  .next (viaBus who p JDX.PORT_CTL_IDLE_ENTER 0 1 (ownAct who p (idleEnterReqEffect n)) s)

/-- IDLE_ENTER is received (R337): PEER_IDLE sets, and the slots the port imports are lost, at the end of that frame, 33 fc after its
FRAME marker. -/
def execIdleEnterRx (n : Nat) (s : State) : Res1 :=
  let p := jdxPage n
  .next (if (portState s n = 5 ∨ portState s n = 6) ∧ isSet s p JDX.STATUS_FBM = false ∧ portHeld s n = false then
      modPort n (fun x => { x with peerIdleAt := some (max s.up (x.markUp + 33)) }) s
    else s)

/-- The effect of a write of IDLE_EXIT in E_IDLE (R338): the training burst begins at the next b = 1. -/
def idleExitEffect (n : Nat) (s : State) : State :=
  if portState s n = 6 then modPort n (fun x => { x with tx := { x.tx with exitReq := true } }) s else s

/-- A write of IDLE_EXIT in E_IDLE (R338): the training burst, then framed traffic. -/
def execIdleExit (who : Requester) (n : Nat) (s : State) : Res1 :=
  .next (viaBus who (jdxPage n) JDX.PORT_CTL_IDLE_EXIT 0 1 (ownAct who (jdxPage n) (idleExitEffect n)) s)

/-- A lane's eye margin has been measured (R339): shown, and recorded where it has fallen below TH. -/
def execMarginLow (n lane m : Nat) (s : State) : Res1 :=
  let p := jdxPage n
  if (portState s n = 5 ∨ portState s n = 6) ∧ lane < 2 ∧ portHeld s n = false then
    let s := putF p (if lane = 0 then JDX.MARGIN_M0 else JDX.MARGIN_M1) m 0 s
    if m < getF s p JDX.MARGIN_TH then
      .next (modPort n (fun x => { x with low := setBit x.low lane })
        (errRec p 0x25 1 0 (lane + 256 * m) 0 (irqBit p 6 s)))
    else .next s
  else .next s

end Sys2Proof.Machine
end

