-- ==== Sys2Proof/Machine/Mic.lean ====
section
/-!
DEFINITION. The commands of 18_memory_integrity: the end of a recovery (R452 to R454), soft repairs (R456, R458), the
scrubber (R460), the buckets (R459) and the test of the checker (R462).
-/
namespace Sys2Proof.Machine

/-- The MIC page. -/
def pMic : Nat := 6

/-- The memory with a page index and a kind, where the part has it (R450). -/
def memNamed (s : State) (page kind : Nat) : Option MemRef :=
  let base : Nat := if kind = 0 then 0 else if kind = 1 then 0x300000 else if kind = 2 then 0x100000 else if kind = 3 then 0x200000
    else if kind = 4 then 0x400000 else 0x380000
  let m := if 0x10 ≤ page ∧ page < 0x30 then (if tilePresent s (page - 0x10) then tileMem (page - 0x10) base else none)
    else sharedMems.find? (fun m => decide (m.page = page) && decide (m.kind = kind))
  m.filter (fun m => decide (m.page = page) && decide (m.kind = kind))

/-- The number of a line within its memory, its bank, its row and its block (R456). -/
def lineNo (m : MemRef) (a : Nat) : Nat := (lineOf a - m.base) / 64
def lineBank (m : MemRef) (a : Nat) : Nat := lineNo m a % 4
def lineRow (m : MemRef) (a : Nat) : Nat := lineNo m a / 16
def lineBlock (m : MemRef) (a : Nat) : Nat := lineRow m a / 512

/-- A spare row of a line's block is free (R456, R458): a block has two, less those of the fuse map and of soft repairs. -/
def spareFree (s : State) (m : MemRef) (a : Nat) : Bool :=
  let used := (s.repairs.filter (fun r => decide (r.page = m.page) && decide (r.kind = m.kind) && decide (r.block = lineBlock m a)
    && decide (r.bank = lineBank m a))).length
  decide (Config.fuseSpares m.page m.kind (lineBlock m a) (lineBank m a) + used < 2)

/-- The bytes of a recovered line written, with a check value that does not verify: the line stays bad (R456). -/
def writeBad (a : Nat) (bs : List Byte) (s : State) : State :=
  setLine a { lineSt s a with flip := 1, poison := false } (genParity (lineOf a) 64 (wrBytes (lineOf a) (bs.take 64) s))

/-- A line whose block has no spare left (R458): recorded; it stays in service as it is, to be recovered at each detection. -/
def exhaust (m : MemRef) (a : Nat) (s : State) : State :=
  let r := (lineSt s a).recov.getD {}
  let s := irqBit pMic 3 (putF pMic MIC.REPAIR_STAT_EXHAUST 1 0 s)
  let s := errRec pMic 0x24 1 m.kind (m.page + 256 * lineBlock m a + 2 ^ 20 * lineBank m a) (lineOf a) s
  let s := setLine a { lineSt s a with recov := none } s
  let s := forAll r.reads (fun e s => { s with lastBytes := rdList s e.1 e.2, lastAbort := false }) s
  forAll r.merges (fun e s => storeLine e.1 e.2.1 e.2.2 s) s

/-- The journal record of a soft repair: its eight bytes in the soft-repair map of the NVS (R456, R502). -/
def repairRecord (r : Repair) (s : State) : State :=
  journal (0x38000 + 8 * r.idx)
    (toBytes r.page 1 ++ toBytes r.kind 1 ++ toBytes r.block 2 ++ toBytes r.bank 1 ++ toBytes r.row 2 ++ [1#8]) false false s

/-- A soft repair made (R456, R458, R459, R504): recorded, counted, entered into the map and into the event log. -/
def softRepair (m : MemRef) (a : Nat) (s : State) : State :=
  let info := m.page + 256 * lineBlock m a + 2 ^ 20 * lineBank m a
  let r : Repair := { idx := nextRepair s, page := m.page, kind := m.kind, block := lineBlock m a, bank := lineBank m a, row := lineRow m a, line := lineOf a, stored := false }
  let s := { s with repairs := s.repairs ++ [r] }
  let s := incSat pMic MIC.REPAIR_STAT_SOFT_USED 0 (incSat pMic MIC.MEM_STAT_SOFT m.idx s)
  let s := irqBit pMic 2 (errRec pMic 0x23 1 m.kind info (lineOf a) s)
  let s := bucketAdd m 4 (repairRecord r s)
  logEntry pMic 0x23 1 (BitVec.ofNat 32 info) (BitVec.ofNat 32 (lineOf a)) 0 false s

/-- The bytes a line is restored from: a line of the Tulle trace is rebuilt as empty entries, one of the
slot entries and the route table from what stands (R282, R453), one that only an NVS profile
covers comes from the NVS (R452), and any other from what the refetch or Hoop firmware brought; none where the refetch
failed (R376). -/
def masterBytes (s : State) (m : MemRef) (a : Nat) (data : Option (List Byte)) : Option (List Byte) :=
  let covers := fun (x : Master) => decide (x.dev ≤ lineOf a) && decide (lineOf a + 64 ≤ x.dev + x.len)
  if 0x12018000 ≤ a ∧ a < 0x12020000 then some (List.replicate 64 0#8)
  else if 0x12000000 ≤ a ∧ a < 0x12008000 then some (slotBytes s ((a - 0x12000000) / 64) ++ List.replicate 52 0#8)
  else if 0x12008000 ≤ a ∧ a < 0x12018000 then some (barList s (lineOf a) 64)
  else if kindClass m.kind = .shadowed then
    if s.masters.any covers then (if hostOn s then data else none)
    else match s.profiles.find? covers with
      | some x => some ((List.range 64).map (fun i => nvsByte s (x.host + (lineOf a - x.dev) + i)))
      | none => none
  else if m.kind = 5 then
    let b := m.page - 0x10
    let off := lineOf a - (aperture b + 0x380000)
    data.map (fun bs => padTo 64 (((coefBytes s b (zeros off ++ bs.take 64)).drop off).take 64))
  else data

/-- The master of a recovering line arrives, is written and verified (R452 to R456): the recovery ends, is repeated once, is
given a spare row, or ends in poison. -/
def execLineRefetchDone (a : Nat) (data : Option (List Byte)) (good : Bool) (s : State) : Res1 :=
  match memAt a, (lineSt s a).recov with
  | some m, some r =>
    if r.copy.isSome then .next s
    else match masterBytes s m a data with
    | none => .next (poisonLine m r.req 3 a s)
    | some bs =>
      if good then .next (refetched a (recoverLine a bs s))
      else
        let s := writeBad a bs (unpoison m a s)
        if r.attempt < 2 then .next (setLine a { lineSt s a with recov := some { r with attempt := 2 } } s)
        else if spareFree s m a then
          .next (setLine a { lineSt s a with recov := some { r with copy := some (bs, now s + 8) } } s)
        else .next (exhaust m a s)
  | _, _ => .next s

/-- The copy of a row into its spare is complete (R456): the line is written there and verified; one that still fails is
poisoned. -/
def execRepairCopyDone (a : Nat) (good : Bool) (s : State) : Res1 :=
  match memAt a, (lineSt s a).recov with
  | some m, some r =>
    match r.copy with
    | none => .next s
    | some (bs, due) =>
      if now s < due then .next s
      else
        let s := softRepair m a s
        .next (if good then refetched a (recoverLine a bs s) else poisonLine m r.req 4 a s)
  | _, _ => .next s

/-- The scrubber reads the next line of a memory (R455, R460). -/
def execScrubRead (page kind : Nat) (s : State) : Res1 :=
  match memNamed s page kind with
  | none => .next s
  | some m =>
    if !(isSet s pMic MIC.MIC_CTL_SCRUB_EN && isSet s pMic HDR.CTRL_EN && !isSet s pMic HDR.CTRL_FREEZE) then .next s
    else
      let n := smGet 0 m.idx s.scrub
      let a := m.base + 64 * n
      let s := if lineBad s a then detectLine 5 a s else s
      let last := decide (m.size ≤ 64 * (n + 1))
      let s := { s with scrub := smPut 0 m.idx (if last then 0 else n + 1) s.scrub }
      .next (if last then incWrap pMic MIC.SCRUB_PASS 0 s else s)

/-- LEAK ms have passed: one is taken from a memory's bucket (R459). -/
def execBucketLeak (page kind : Nat) (s : State) : Res1 :=
  match memNamed s page kind with
  | none => .next s
  | some m =>
    let leak := max 1 (getF s pMic MIC.BKT_CFG_LEAK m.kind)
    if isSet s pMic HDR.CTRL_FREEZE || !timerDue s (tmLeak m.idx) (1000000 * leak) then .next s
    else .next (stampTimer (tmLeak m.idx) <| putF pMic MIC.MEM_STAT_LEVEL (getF s pMic MIC.MEM_STAT_LEVEL m.idx - 1) m.idx s)

/-- A write of FLIP_SEL.ARM (R462). -/
def execFlipArm (who : Requester) (s : State) : Res1 :=
  .next (viaBus who pMic MIC.FLIP_SEL_ARM 0 1 (putF pMic MIC.FLIP_SEL_ARM 1 0) s)

end Sys2Proof.Machine
end

