-- ==== Sys2Proof/Machine/Pattern.lean ====
section
/-!
DEFINITION. The commands of 19_pattern_port: starts and ends of runs (R472, R475, R476), vectors and their compares (R466,
R468), pass ends and jumps (R469 to R474) and Picot pulses (R471).
-/
namespace Sys2Proof.Machine

/-- The effect of GO (R475): refused with TIME not valid or a START less than 64 fc ahead; dropped during a run. -/
def patGo (s : State) : State :=
  let start := getF s pPat PAT.PAT_START_LO + 2 ^ 32 * getF s pPat PAT.PAT_START_HI
  if !patOn s || decide (patSrc s ≠ 0) then s
  else if patRuns s then patOver s
  else if !isSet s 1 CLK.SYNC_STAT_TIME_VALID then errRec pPat 0x20 0 0 1 0 s
  else if start < busTime s + 64 then errRec pPat 0x20 0 0 2 0 s
  else patStart start s

/-- A write of GO (R475). -/
def execPatGo (who : Requester) (s : State) : Res1 := .next (viaBus who pPat PAT.PAT_CTL_GO 0 1 (ownAct who pPat patGo) s)

/-- A rising edge on TRIG_IN[k] as it is detected (R472, R475, R479). -/
def execTrigInEdge (k : Nat) (s : State) : Res1 :=
  let s := raiseSrc (0x0F8 + k) s
  let tgt := getF s pPat PAT.PAT_TRIG_JTGT / 64 ^ k % 64
  let s := if patOn s && decide (bit (getF s pPat PAT.PAT_TRIG_JEN) k = 1) then jumpReq tgt (1 + k) (now s) s else s
  .next (if patSrc s = 1 ∧ getF s pPat PAT.PAT_CFG_TSEL = k then patTrigger (now s) s else s)

/-- The BAR2 address of a vector (R465). -/
def vecAddr (v : Nat) : Nat := 0x10000000 + 16 * v

/-- The next vector of the stream is read, 12 fc before its pin time (R466); past the end of the memory it is zero (R470). -/
def execVectorFetch (s : State) : Res1 :=
  let x := s.pat
  if !patRuns s || x.frozen.isSome || decide (segLen s x.seg ≤ x.pos) || decide (now s + 12 < x.pin) then .next s
  else
    let v := segStart s x.seg + x.pos
    let d := if v < 131072 then rtRead s (vecAddr v) 16 else 0
    let s := if v < 131072 then rtTouch (vecAddr v) s else s
    let e : PatVec := { idx := v, seg := x.seg, pass := x.pass, pin := x.pin, data := d }
    .next { s with pat := { s.pat with pos := x.pos + 1, pin := x.pin + patPer s, vecs := s.pat.vecs ++ [e], outs := s.pat.outs ++ [e] } }

/-- The pins of a vector whose sampled level differs from what it expects (R465, R468). -/
def failPins (data levels : Nat) : Nat :=
  (List.range 32).foldl (fun m n =>
    let cmp := mwBits data (4 * n + 2) 2
    if (cmp = 1 ∧ bit levels n = 1) ∨ (cmp = 2 ∧ bit levels n = 0) then setBit m n else m) 0

/-- A vector that fails on some pins (R468, R476). -/
def vectorFail (v : PatVec) (pins : Nat) (s : State) : State :=
  let first := !s.pat.failed
  let s := incSat pPat PAT.FAIL_CNT 0 s
  let s := raiseSrc 0x0F0 (putF pPat PAT.FAIL_PINS (getF s pPat PAT.FAIL_PINS ||| pins) 0 s)
  if !first then s
  else
    let s := putF pPat PAT.FAIL_FIRST_VEC v.idx 0 (putF pPat PAT.FAIL_FIRST_SEG v.seg 0 { s with pat := { s.pat with failed := true } })
    let s := putF pPat PAT.FAIL_TIME v.pin 0 (putF pPat PAT.FAIL_TIME_HI_T_H (v.pin / 2 ^ 32) 0 (putF pPat PAT.FAIL_TIME_HI_PASS v.pass 0 s))
    let s := errRec pPat 0x25 0 0 (v.idx % 2 ^ 17 + 2 ^ 24 * v.seg) 0 (irqBit pPat 1 s)
    if getB s pPat PAT.PAT_CFG_STOP_FAIL = 1 then patEnd s else s

/-- The compare of the oldest vector, at its pin time + CMP_OFS (R468). -/
def execVectorCompare (levels : Nat) (s : State) : Res1 :=
  match s.pat.vecs with
  | [] => .next s
  | v :: vs =>
    if !patRuns s || s.pat.frozen.isSome || decide (now s < v.pin + getB s pPat PAT.PAT_STROBE_CMP_OFS) then .next s
    else
      let s := { s with pat := { s.pat with vecs := vs } }
      let pins := failPins v.data levels
      .next (if pins = 0 then s else vectorFail v pins s)

/-- The end of the pass in progress, all its vectors read (R469 to R474, R476). -/
def execPassEnd (s : State) : Res1 :=
  .next (if !patRuns s || s.pat.frozen.isSome || decide (s.pat.pos < segLen s s.pat.seg) || decide (now s < s.pat.passEnd) then s
    else passEnd s)

/-- A write of JUMP (R472): registered at the first MCLK edge after it. -/
def execPatJump (who : Requester) (tgt : Nat) (s : State) : Res1 :=
  .next (viaBus who pPat PAT.PAT_CTL_JUMP 0 1 (jumpWrite tgt) s)

/-- The effect of a write of STOP (R476). -/
def patStopEffect (s : State) : State :=
  if patRuns s && s.pat.stop.isNone then { s with pat := { s.pat with stop := some (now s) } } else s

/-- A write of STOP (R476). -/
def execPatStop (who : Requester) (s : State) : Res1 :=
  .next (viaBus who pPat PAT.PAT_CTL_STOP 0 1 patStopEffect s)

/-- A write of ABORT (R476). -/
def execPatAbort (who : Requester) (s : State) : Res1 := .next (viaBus who pPat PAT.PAT_CTL_ABORT 0 1 (ownAct who pPat patAbort) s)

/-- The width of a Picot pulse has passed and its pin falls (R471). A frozen stream holds (R477). -/
def execPicotPulseEnd (k : Nat) (s : State) : Res1 :=
  .next (if s.pat.frozen.isSome then s
    else { s with pat := { s.pat with picot := s.pat.picot.filter (fun p => decide (p.pin ≠ k) || decide (now s < p.stop)) } })

end Sys2Proof.Machine
end

