-- ==== Sys2Proof/Machine/CtrlOps.lean ====
section
/-!
DEFINITION. What the header of a page controls: FREEZE, EN and the soft reset (R82, R83), OWNER (R91), LOCK (R89), IRQ_FORCE
(R85) and ERR_HEAD (R95).
-/
namespace Sys2Proof.Machine

/-- The tile bit of a tile page. -/
def tileOfPage (p : Nat) : Option Nat := if 0x10 ≤ p ∧ p < 0x30 then some (p - 0x10) else none

/-! ### FREEZE and EN (R83) -/

/-- FREEZE set on a page: a tile in ARMED or RUN ramps to zero and enters FROZEN, one in STOPPING first completes its ramp,
and every other block holds at once (R83, R477). -/
def freezeSet (p : Nat) (s : State) : State :=
  if isSet s p HDR.CTRL_FREEZE then s
  else
    let s := putF p HDR.CTRL_FREEZE 1 0 s
    match tileOfPage p with
    | some b =>
      let st := tileState s b
      if st = stArmed ∨ st = stRun then stopTile b (now s) stFrozen 2 s
      else if st = stStopping then s
      else putF p HDR.STATUS_FROZEN 1 0 s
    | none =>
      let s := putF p HDR.STATUS_FROZEN 1 0 s
      if p = pPat then patFreeze s else if p = pCal then calFreeze s else s

/-- The calibration values that a freeze of the CAL page has held on stopped tiles take effect (R403, R405). -/
def calThaw (s : State) : State :=
  settle (forAll ((tileBits s).filter (fun b => !tileRunning s b)) (fun b s => calCommit (stageTile s b) [] b s) (calResume s))

/-- FREEZE cleared on a page: a tile in FROZEN enters STOPPED, one whose ramp to FROZEN still runs will enter STOPPED, and another
block goes on where it stood (R83, R307, R405,
R416, R477). -/
def freezeClear (p : Nat) (s : State) : State :=
  if !isSet s p HDR.CTRL_FREEZE then s
  else
    let s := putF p HDR.STATUS_FROZEN 0 0 (putF p HDR.CTRL_FREEZE 0 0 s)
    match tileOfPage p with
    | some b =>
      let s := modTile b (fun x => { x with ramp := x.ramp.map (fun r => { r with target := if r.target = stFrozen then stStopped else r.target }) }) s
      if tileState s b = stFrozen then stepsFrom b s.up (putF p TMB.TMB_STAT_STATE stStopped 0 s) else s
    | none =>
      if p = pPat then patThaw s
      else if p = pBia then driveClear (rangeThaw s)
      else if p = pDrn then { s with thaw := now s + 1 }
      else if p = pCal then calThaw s
      else if p = pCst then forAll (s.cst.goes.map (fun e => e.1)) (fun k => urge (.request k)) s
      else s

/-- EN of a page taken from 1 to 0: a running tile ramps to zero and stops; a port leaves its link; what the other blocks
do is their chapters' (R83, R307, R325, R361, R405, R416, R476). -/
def blockDisable (p : Nat) (s : State) : State :=
  if !isSet s p HDR.CTRL_EN then s
  else if p = pCst then cstLeaveEffect s
  else
    let s := putF p HDR.CTRL_EN 0 0 s
    match tileOfPage p with
    | some b => if tileState s b = stArmed ∨ tileState s b = stRun then stopTile b (now s) stStopped 2 s else s
    | none =>
      if 0x30 ≤ p ∧ p < 0x38 then topoUrge (portDown (p - 0x30) 0 s)
      else if p = pDrn then forAll (List.range 8) clearPatch s
      else if p = pCal then calDropShadows (calDropRuns s)
      else if p = pPat then patAbort s
      else if p = pBia then driveClear s
      else s

/-- EN of a page taken from 0 to 1: a port enters SEARCH (R325). -/
def blockEnable (p : Nat) (s : State) : State :=
  if isSet s p HDR.CTRL_EN then s
  else
    let s := putF p HDR.CTRL_EN 1 0 s
    if 0x30 ≤ p ∧ p < 0x38 then topoUrge (enterSearch (p - 0x30) s) else s

/-! ### Soft reset (R82) -/

/-- The coefficient loads in progress and the swaps pending of a tile page cancelled (R82, R224, R253). -/
def cancelLoads (p : Nat) (s : State) : State :=
  let b := p - 0x10
  match pageKind p with
  | some .rdo => modRdo b (fun r => { r with loading := none, matNext := none }) s
  | some .flx => forAll (List.range 16) (fun k s => setFlux b k { fluxOf s b k with loading := none, coefNext := none } s) s
  | _ => s

/-- SRST written: RST_BUSY sets for 16 mc, coefficient loads and pending swaps are cancelled, and a tile in ARMED or RUN stops as
under ABORT (R82). -/
def softReset (p : Nat) (s : State) : State :=
  let done := s.mck + 640
  let s := cancelLoads p s
  let s := match tileOfPage p with
    | some b => abortTile b (now s) 2 s
    | none => if p = pPat then patAbort s else s
  putF p HDR.STATUS_RST_BUSY 1 0 (putF p HDR.CTRL_SRST 1 0 { s with softRst := smSet p done s.softRst })

/-- A tile's queue and pipelines emptied. What its pins still show, and the X bits that results of earlier fc ask for (R232), are no
part of them; the X bits are 0 from now on. -/
def freshTile (b : Nat) (s : State) : State :=
  modTile b (fun x => { xLog := if isDrv b then ((now s, 0) :: x.xLog).take 64 else [], pins := x.pins, busy := x.busy, refetch := x.refetch }) s

/-- The queues and internal pipelines of a page's block emptied (R82). The coefficient buffers in force stay, and a load in
progress or a pending swap is cancelled. The GLB, HOOP, NVS, THM, DBG and DMP pages have none: what Hoop firmware keeps for them
(its services, the mailbox command, the journal) stands in its working SRAM and the NVS, which are memories (DESIGN CHOICE,
log entry 86). -/
def flushBlock (p : Nat) (s : State) : State :=
  match pageKind p with
  | some .drv => freshTile (p - 0x10) s
  | some .rdo =>
    let r := rdoOf s (p - 0x10)
    setRdo (p - 0x10) { mat := r.mat } (forAll r.fresh (fun _ s => ringStep (p - 0x10) s) (freshTile (p - 0x10) s))
  | some .flx =>
    forAll (List.range 16) (fun k s => setFlux (p - 0x10) k { coef := (fluxOf s (p - 0x10) k).coef } s) (freshTile (p - 0x10) s)
  | some .clk => { s with pll := { s.pll with soft := false, epochs := [] } }
  | some .tul => { s with pubs := [] }
  | some .drn => { s with patches := [], esc := [] }
  | some .jdx =>
    modPort (p - 0x30) (fun x => { x with
      rx := [], egr := [], openMsg := none, msgs := [], mq := [], tx := { x.tx with loops := [], cur := none, idleReq := false } }) s
  | some .cst => { s with cst := { s.cst with rq := [], goes := [] } }
  | some .pci =>
    { s with
      dma := []
      pcie := { s.pcie with door := none, mit := none, cmd := s.pcie.cmd.map (fun c => { c with cut := true }) } }
  | some .bia => biasInit s
  | some .mon => { s with bias := { s.bias with high := [] } }
  | some .evm => { s with evm := {} }
  | some .mic => { s with scrub := [] }
  | some .pat => { s with pat := {} }
  | some .hkp => { s with smp := { s.smp with cur := none, rnd := none, rndPend := false, injPend := [], acc := [], extreme := [] } }
  | some .cal => { calDropShadows (calDropRuns s) with cal := { (calDropShadows (calDropRuns s)).cal with tracks := [] } }
  | _ => s

/-- The end of a soft reset (R82): the page at its reset values but for what R82 keeps, EN as after reset, FREEZE, IRQ_STAT
and STATUS clear, a tile in STOPPED, and FILL of a result ring as its kept positions give it (R236). -/
def softResetEnd (p : Nat) (s : State) : State :=
  let was := isSet s p HDR.CTRL_EN
  let s := noteWas none (HDR.STATUS.addr p 0) s
  let s := resetPage p (flushBlock p s)
  let s := match tileOfPage p with
    | some b => if isRdo b then showFill b s else s
    | none => s
  let s := settle s
  let s := if p = 1 then pllAcquire s else s
  let s := if 0x30 ≤ p ∧ p < 0x38 ∧ was = false then topoUrge (enterSearch (p - 0x30) s) else s
  { s with softRst := smErase p s.softRst }

/-! ### The other fields of the header -/

/-- The interrupt causes a page has (the IRQ_STAT sentence of each chapter), with the common ones. -/
def irqMask (k : PageKind) : Word :=
  0x1F000000#32 ||| match k with
  | .glb | .clk | .mic | .bia => 0xF#32
  | .hoop | .dbg | .dmp => 0x3#32
  | .nvs => 0x1#32
  | .hkp | .evm | .mon => 0x7#32
  | .thm | .pat | .drn | .pci => 0x1F#32
  | .tul => 0x7F#32
  | .drv => 0x1F3F#32
  | .rdo => 0x1F7F3F#32
  | .flx => 0x3F3F#32
  | .jdx => 0x3FF#32
  | .cst | .cal => 0x3F#32

/-- The causes of a page, none for an unassigned one. -/
def pageCauses (p : Nat) : Word := ((pageKind p).map irqMask).getD 0#32

/-- IRQ_FORCE (R85): the named bits of IRQ_STAT set as their causes would. -/
def irqForce (p : Nat) (mask : Word) (s : State) : State := irqSet p (mask &&& pageCauses p) s

/-- A write of ERR_HEAD (R95): the oldest record leaves. Where errors of the mc were dropped, those that follow in the same mc stand
behind what the FIFO holds: an error once dropped takes no place that comes free later (R96). -/
def errPop (p : Nat) (s : State) : State :=
  let e := pageErr s p
  { s with errs := smSet p (if e.fifo.length < e.old + e.batch.length then { e with fifo := e.fifo.tail, batch := [] }
      else if e.old = 0
      then { e with fifo := e.fifo.tail, batch := e.batch.tail, base := if e.batch = [] then e.base else (e.base + 1) % 256 }
      else { e with fifo := e.fifo.tail, old := e.old - 1 }) s.errs }

/-- Hoop has claimed the page, unowned before, in the mc at hand (R32, R91). -/
def hoopClaimed (p : Nat) (s : State) : Bool :=
  match smFind (HDR.OWNER_OWN.addr p 0) s.was with
  | some w => decide (w.mc = mcNow s) && decide (w.who = some .hoop) && decide (HDR.OWNER_OWN.of w.word = 0)
      && decide (getF s p HDR.OWNER_OWN = 2)
  | none => false

/-- A write of OWNER (R91). A claim by the host in the mc of a claim by Hoop wins: the host access completes first (R32), and the
claim of Hoop is the violation. -/
def ownerWrite (who : Requester) (p v : Nat) (s : State) : State :=
  let own := getF s p HDR.OWNER_OWN
  if who = .host ∧ v = 1 ∧ hoopClaimed p s = true then ownViol .hoop p 0x038 (putF p HDR.OWNER_OWN 1 0 s)
  else if v = 3 ∨ (own = reqCode who ∧ v = own) then s
  else if own = 0 ∨ (own = reqCode who ∧ v = 0) then putF p HDR.OWNER_OWN v 0 (noteWas (some who) (HDR.OWNER_OWN.addr p 0) s)
  else ownViol who p 0x038 s

/-- A write of LOCK (R89): bits only set, and BY_HOOP tells who set the first. -/
def lockWrite (who : Requester) (p : Nat) (cfg all : Bool) (s : State) : State :=
  let none_ := !isSet s p HDR.LOCK_LK_CFG && !isSet s p HDR.LOCK_LK_ALL
  let s := if none_ && (cfg || all) then putF p HDR.LOCK_BY_HOOP (ofBool (decide (who = .hoop))) 0 s else s
  let s := if cfg then putF p HDR.LOCK_LK_CFG 1 0 s else s
  if all then putF p HDR.LOCK_LK_ALL 1 0 s else s

/-- The message that a write of IRQ_STAT or IRQ_EN sends when it leaves the line asserted (R93). -/
def irqResend (p : Nat) (s : State) : State := if irqLine s p then sendVec (pageVec s p) s else s

end Sys2Proof.Machine
end

