-- ==== Sys2Proof/Machine/RegOps.lean ====
section
/-!
DEFINITION. The write of a register through BAR0 or by Hoop (R77, R78, R86 to R91, R522): which page and register it reaches,
and what the fields it writes bring about. A field that starts something does here what the command of its own does.
-/
namespace Sys2Proof.Machine

/-! ### Event matrix protection (R489) -/

/-- A write of CH_GATE[c] (R489). -/
def chGateWrite (who : Requester) (c : Nat) (w : Word) (s : State) : State :=
  let o := EVM.CH_GATE.off + 0x10 * c
  chanGuard who c o (writeReg who pEvm o w) s

/-- A write of CH_PROT[c] (R489): in mode 1 OWN follows R91, in mode 2 LK only sets. -/
def chProtWrite (who : Requester) (c : Nat) (w : Word) (s : State) : State :=
  let o := EVM.CH_PROT.off + 0x10 * c
  if getF s pEvm EVM.PROT_MODE ≠ 1 then writeReg who pEvm o w s
  else chanGuard who c o (fun s =>
    let own := getF s pEvm EVM.CH_PROT_OWN c
    let v := EVM.CH_PROT_OWN.of w
    if v = 3 then writeReg who pEvm o (EVM.CH_PROT_OWN.upd own w) s
    else if own = 0 ∨ v = 0 ∨ v = own then writeReg who pEvm o w s
    else ownViol who pEvm o s) s

/-! ### Resets (R510) -/

/-- A write of RST_CTL (R510, R522): before READY it is busy, and without the key it is discarded. With both bits set the
start is cold (log entry 33). LK_ALL of the GLB page protects it (R89). -/
def rstCtlWrite (who : Requester) (w : Word) (s : State) : State :=
  if isSet s 0 HDR.LOCK_LK_ALL && decide (w &&& 0xFFFF0003#32 ≠ 0#32) then lockViol who 0 GLB.RST_CTL.off s
  else if !ready s then errRec 0 0x22 0 0 0 0 s
  else if GLB.RST_CTL_KEY.of w ≠ 0x5AFE then errRec 0 0x21 0 0 (GLB.RST_CTL_KEY.of w) 0 s
  else if GLB.RST_CTL_COLD.of w = 1 then requestStart 2 false s
  else if GLB.RST_CTL_WARM.of w = 1 then requestStart 5 true s
  else s

/-! ### Registers that a write reaches as a whole -/

/-- The register whose write is one act of its own, with that act: the header's control registers, the buffers whose write
starts a load, the event matrix channels, and RST_CTL. -/
def wholeWrite (who : Requester) (p o : Nat) : Option (Word → State → State) :=
  if o = 0x01C then some (irqForce p)
  else if o = 0x020 then some (fun _ => errPop p)
  else if o = 0x034 then some (fun w => lockWrite who p (decide (HDR.LOCK_LK_CFG.of w = 1)) (decide (HDR.LOCK_LK_ALL.of w = 1)))
  else if o = 0x038 then some (fun w => ownerWrite who p (HDR.OWNER_OWN.of w))
  else match pageKind p with
    | some .glb => if o = GLB.RST_CTL.off then some (rstCtlWrite who) else none
    | some .evm =>
      if 0x100 ≤ o ∧ o < 0x500 then
        let c := (o - 0x100) / 0x10
        if o % 0x10 = 0 then some (chCfgWrite who c)
        else if o % 0x10 = 4 then some (chGateWrite who c)
        else if o % 0x10 = 8 then some (chProtWrite who c)
        else none
      else none
    | some .rdo => if o = RDO.UNMIX_CFG.off then some (unmixCfgWriteEffect who (p - 0x10))
        else if 0x180 ≤ o ∧ o < 0x200 ∧ o % 0x10 = 0 then some (strmCfgWriteEffect who (p - 0x10) ((o - 0x180) / 0x10)) else none
    | some .flx => if 0x200 ≤ o ∧ o < 0x300 ∧ o % 0x10 = 0 then some (outCfgWriteEffect who (p - 0x10) ((o - 0x200) / 0x10))
        else if 0x180 ≤ o ∧ o < 0x200 ∧ o % 0x10 = 0 then some (strmCfgWriteEffect who (p - 0x10) ((o - 0x180) / 0x10)) else none
    | some .drv => if 0x180 ≤ o ∧ o < 0x200 ∧ o % 0x10 = 0 then some (strmCfgWriteEffect who (p - 0x10) ((o - 0x180) / 0x10)) else none
    | _ => none

/-! ### Fields that start something -/

/-- A field with an act of its own: the field, the index of its register, and the act for the value written. -/
abbrev FieldAct := Fld × Nat × (Nat → State → State)

/-- The bits of a mask below `k`. -/
def bitsOf (k mask : Nat) : List Nat := (List.range k).filter (fun i => bit mask i = 1)

/-- A trip latch of comparator `n` written as 1: it clears only while LIVE is 0 (R424). -/
def tripClear (n : Nat) (f : Fld) (_ : Nat) (s : State) : State :=
  if isSet s pMon MON.MON_STAT_LIVE n then s else showTrip n (putF pMon f 0 n s)

/-- SHORT of flux output `k` written as 1: it clears only while the tile is stopped (R257). -/
def shortClear (b k : Nat) (_ : Nat) (s : State) : State :=
  if tileRunning s b then cfgBusy (tilePage b) s else putF (tilePage b) FLX.OUT_STAT_SHORT 0 k s

/-- The fields of the register at page offset `o` whose write starts something, in bit order. `data` is the word written. -/
def fieldActs (who : Requester) (p o : Nat) (data : Word) : List FieldAct :=
  if o = 0x00C then
    [(HDR.CTRL_EN, 0, fun v => ownAct who p (if v = 1 then blockEnable p else blockDisable p)),
     (HDR.CTRL_SRST, 0, fun _ => ownAct who p (softReset p)),
     (HDR.CTRL_FREEZE, 0, fun v => ownAct who p (if v = 1 then freezeSet p else freezeClear p))]
  else
    let b := p - 0x10
    let stream : List FieldAct := if 0x180 ≤ o ∧ o < 0x200 ∧ o % 0x10 = 4 then
        let i := (o - 0x180) / 0x10
        [(TMB.STRM_FILL, i, strmFillWriteEffect who b i)] else []
    let tmb : List FieldAct := if o = TMB.TMB_CTL.off then
        [(TMB.TMB_CTL_GO, 0, fun _ => ownAct who p (tmbGoEffect who b)), (TMB.TMB_CTL_STOP, 0, fun _ => tmbStopEffect b),
         (TMB.TMB_CTL_ABORT, 0, fun _ => ownAct who p (fun s => abortTile b (now s) 2 s))] else stream
    match pageKind p with
    | some .drv => tmb
    | some .rdo =>
      if o = RDO.RES_RP.off then [(RDO.RES_RP, 0, resRpWriteEffect b)]
      else if o = RDO.STAT_SEL.off then [(RDO.STAT_SEL_CLR_ALL, reqIdx who, fun _ => statClrAllEffect b)]
      else tmb
    | some .flx =>
      if 0x200 ≤ o ∧ o < 0x300 ∧ o % 0x10 = 0xC then
        let k := (o - 0x200) / 0x10
        [(FLX.OUT_STAT_SHORT, k, shortClear b k)]
      else tmb
    | some .clk =>
      if o = CLK.PLL_CTL.off then [(CLK.PLL_CTL_RELOCK_AUTO, 0, relockAutoEffect), (CLK.PLL_CTL_RELOCK, 0, fun _ => pllRelockEffect)]
      else if o = CLK.SYNC_CTL.off then [(CLK.SYNC_CTL_ARM, 0, fun _ => syncArmEffect), (CLK.SYNC_CTL_SOFT, 0, fun _ => softSyncEffect)]
      else []
    | some .drn =>
      if o = DRN.PATCH_CTL.off then [(DRN.PATCH_CTL_CLR, 0, fun v => forAll (bitsOf 8 v) patchClr)]
      else if o = DRN.ESC_CTL.off then [(DRN.ESC_CTL_POP, 0, fun _ => escPopEffect)]
      else []
    | some .jdx =>
      let n := p - 0x30
      if o = JDX.PORT_CTL.off then
        [(JDX.PORT_CTL_TRAIN, 0, fun _ => ownAct who p (fun s => if isSet s p HDR.CTRL_EN then topoUrge (enterSearch n s) else s)),
         (JDX.PORT_CTL_IDLE_ENTER, 0, fun _ => ownAct who p (idleEnterReqEffect n)),
         (JDX.PORT_CTL_IDLE_EXIT, 0, fun _ => ownAct who p (idleExitEffect n)),
         (JDX.PORT_CTL_ACTIVATE, 0, fun _ => ownAct who p (portActivateEffect n))]
      else []
    | some .cst =>
      if o = CST.ID_CFG.off then [(CST.ID_CFG_NUM, 0, idNumEffect)]
      else if o = CST.RQ_CTL.off then
        [(CST.RQ_CTL_GO, reqIdx who, fun _ =>
          let op := CST.RQ_CTL_OP.of data
          if op = 1 then rqReserveEffect who (decide (CST.RQ_CTL_NDET_OK.of data = 1)) (decide (CST.RQ_CTL_AUTO_SLOT.of data = 1))
          else if op = 2 then rqReleaseEffect who else id)]
      else []
    | some .pci =>
      if o = PCI.MIT_CTL.off then [(PCI.MIT_CTL_LOAD, 0, fun _ => mitLoad)]
      else if o = PCI.MBX_DB.off then [(PCI.MBX_DB, 0, doorbell)]
      else if 0x400 ≤ o ∧ o < 0x800 then
        let c := (o - 0x400) / 0x40
        if o % 0x40 = 0x04 then
          [(PCI.CH_CTL_EN, c, fun v => if v = 1 then chEnable c else chDisable c), (PCI.CH_CTL_RESET, c, fun _ => chReset c)]
        else if o % 0x40 = 0x24 then [(PCI.CH_HPOS, c, fun v s => streamIssue c 8 (putF pPci PCI.CH_HPOS v c s))]
        else []
      else []
    | some .cal =>
      if o = CAL.CAL_CTL.off then [(CAL.CAL_CTL_STORE, 0, fun _ => storeStart)]
      else if o = CAL.CAL_REQ.off then [(CAL.CAL_REQ, 0, fun v => forAll (bitsOf 32 v) setPending)]
      else if CAL.TP_POINT.off ≤ o ∧ o < CAL.TP_POINT.off + 32 then
        let i := (o - CAL.TP_POINT.off) / 4
        [(CAL.TP_POINT, i, tpWriteEffect i)]
      else []
    | some .bia =>
      if o = BIA.BIA_STROBE.off then [(BIA.BIA_STROBE_STROBE, 0, fun v => forAll (bitsOf 4 v) strobe)]
      else if 0x100 ≤ o ∧ o < 0x500 then
        let n := (o - 0x100) / 0x10
        if o % 0x10 = 0 then [(BIA.BIAS_CFG_RANGE, n, biasRangeChangeEffect n)]
        else if o % 0x10 = 4 then [(BIA.BIAS_CODE_CODE, n, writeCode n)]
        else []
      else []
    | some .mon =>
      if o = MON.MON_CTL.off then [(MON.MON_CTL_PERIOD, 0, fun v s => stampTimer tmMon (putF pMon MON.MON_CTL_PERIOD v 0 s))]
      else if 0x200 ≤ o then
        let n := (o - 0x200) / 0x20
        if o % 0x20 = 0 then [(MON.MON_CFG_RGO, n, fun _ => rampGoEffect n)]
        else if o % 0x20 = 0x10 then
          [(MON.MON_STAT_TRIP_LO, n, tripClear n MON.MON_STAT_TRIP_LO), (MON.MON_STAT_TRIP_HI, n, tripClear n MON.MON_STAT_TRIP_HI),
           (MON.MON_STAT_TRIP_R, n, tripClear n MON.MON_STAT_TRIP_R)]
        else []
      else []
    | some .hkp =>
      if o = HKP.HKP_CTL.off then
        [(HKP.HKP_CTL_RGO, 0, fun _ => roundTrigger), (HKP.HKP_CTL_INJ_GO, 0, fun v => forAll (bitsOf 4 v) injTrigger)]
      else if 0x100 ≤ o ∧ o < 0x400 ∧ o % 0x10 = 0 then [(HKP.ICFG_MM_RST, (o - 0x100) / 0x10, fun _ => mmRstEffect ((o - 0x100) / 0x10))]
      else []
    | some .thm => if o = THM.THM_CTL.off then [(THM.THM_CTL_SHDN_CLR, 0, fun _ => shdnClrEffect)] else []
    | some .pat =>
      if o = PAT.PAT_CTL.off then
        [(PAT.PAT_CTL_GO, 0, fun _ => ownAct who p patGo), (PAT.PAT_CTL_STOP, 0, fun _ => patStopEffect),
         (PAT.PAT_CTL_ABORT, 0, fun _ => ownAct who p patAbort),
         (PAT.PAT_CTL_JUMP, 0, fun _ => jumpWrite (PAT.PAT_CTL_JTGT.of data))]
      else []
    | some .evm => if o = EVM.PROT.off then [(EVM.PROT_MODE, 0, protWrite)] else []
    | _ => []

/-- The act of one field, where the write reaches it: not under LOCK or a running page (both judged on the state before, `s0`),
and for a field that a 1 starts, a 1. A field that the act itself sets is first put back. -/
def actOn (who : Requester) (p o : Nat) (data old : Word) (s0 : State) (h : FieldAct) (s : State) : State :=
  match pageKind p with
  | none => s
  | some k =>
    let (f, i, act) := h
    let d := descOf k f
    if lockProt s0 p o d || (decide (d.cls = .s) && sBlocked s0 who p o) then s
    else match d.acc with
      | .wo => if f.of data = 0 then s else act (f.of data) s
      | .w1s | .w1c => if f.of data = 0 then s else act (f.of data) (putF p f (f.of old) i s)
      | .rw => act (f.of data) (putF p f (f.of old) i s)
      | _ => s

/-! ### What follows from a write -/

/-- CFG_ERR of a comparator, its record and its history after a write of MON_CFG or MON_THR (R422, R423, R425). `old` is
MON_CFG before the write. -/
def monRecheck (n : Nat) (old : Word) (s : State) : State :=
  let bad := isSet s pMon MON.MON_CFG_EN n && decide (getF s pMon MON.MON_CFG_MODE n = 0) && monBad s n
  let was := isSet s pMon MON.MON_STAT_CFG_ERR n
  let s := putF pMon MON.MON_STAT_CFG_ERR (ofBool bad) n s
  let s := if bad && !was then errRec pMon 0x20 0 0 n 0 (irqBit pMon 2 s) else s
  let left := decide (MON.MON_CFG_TEST.of old ≠ 0) && decide (monTest s n = 0)
  let s := if left then
      showTrip n (putF pMon MON.MON_STAT_TRIP_LO 0 n (putF pMon MON.MON_STAT_TRIP_HI 0 n (putF pMon MON.MON_STAT_TRIP_R 0 n s)))
    else s
  if isSet s pMon MON.MON_CFG_EN n && (left || decide (MON.MON_CFG_EN.of old = 0)) then monFresh n s else s

/-- What a landed write of the register at page offset `o` brings about beside its fields' acts. `old` is the word before,
and for comparators `cfg` is MON_CFG before. -/
def writeFollow (who : Requester) (p o : Nat) (old cfg : Word) (s : State) : State :=
  let a := accAddr s who p o
  let new := rdWord s a
  let s := if o < 0x40 ∨ bWaits s who p o = true then s else afterCommit [] [(a, old, new)] s
  if o = 0x014 ∨ o = 0x018 then irqResend p s
  else match pageKind p with
    | some .rdo =>
      if 0x400 ≤ o ∧ o < 0x600 ∧ o % 0x10 = 0 ∧ RDO.RX_CFG_BIN.of old ≠ RDO.RX_CFG_BIN.of new then putF p RDO.CHAN_STAT_READY 0 0 s else s
    | some .hkp =>
      if HKP.BSEL_OUT.off ≤ o ∧ o < HKP.BSEL_OUT.off + 64 then dropSum (30 + (o - HKP.BSEL_OUT.off) / 4) s
      else if 0x100 ≤ o ∧ o < 0x400 ∧ o % 0x10 = 0 then dropSum ((o - 0x100) / 0x10) s
      else s
    | some .thm => if o = THM.THM_CTL.off then showLegacy s else s
    | some .bia =>
      if o = BIA.BIA_CTL.off then driveClear s
      else if 0x100 ≤ o ∧ o % 0x10 = 8 then
        let n := (o - 0x100) / 0x10
        let s := if (biasState s n = 0 ∨ biasState s n = 3) ∧ isSet s pBia HDR.CTRL_FREEZE = false
          then putF pBia BIA.BIAS_STAT_OUT (getF s pBia BIA.BIAS_CLR_CLR n) n s else s
        driveClear s
      else s
    | some .mon =>
      if 0x200 ≤ o ∧ (o % 0x20 = 0 ∨ o % 0x20 = 4) then monRecheck ((o - 0x200) / 0x20) cfg s else s
    | _ => s

/-- Writes that R4, R75, R419 and R430 discard on the MQ-128A: registers of bias outputs, comparators and converters the part has
not, the vectors of absent tile pages, and a BSEL that names an absent output. -/
def partDiscards (s : State) (p o : Nat) (data : Word) : Bool :=
  match pageKind p with
  | some .bia => decide (0x100 ≤ o) && decide (biasCount s ≤ (o - 0x100) / 0x10)
  | some .mon => decide (0x200 ≤ o) && !cmpPresent s ((o - 0x200) / 0x20)
  | some .hkp => decide (HKP.BSEL_OUT.off ≤ o) && decide (o < HKP.BSEL_OUT.off + 64) && decide (biasCount s ≤ HKP.BSEL_OUT.of data)
  | some .clk => decide (CLK.OUT_DELAY_COARSE.off ≤ o) && !tilePresent s (delayOwner ((o - CLK.OUT_DELAY_COARSE.off) / 4))
  | some .pci => decide (PCI.VEC_MAP_VEC.off ≤ o) && decide (o < PCI.VEC_MAP_VEC.off + 4 * 58)
      && !pagePresent s ((o - PCI.VEC_MAP_VEC.off) / 4)
  | _ => false

/-- A write of the register at page offset `o` that has passed the gates of the bus (R86 to R91). -/
def regWrite (who : Requester) (p o : Nat) (data : Word) (s : State) : State :=
  if partDiscards s p o data then s
  else match wholeWrite who p o with
    | some act => act data s
    | none =>
      let old := rdWord s (accAddr s who p o)
      let cfg := rdWord s (MON.MON_CFG.addr pMon ((o - 0x200) / 0x20))
      let s1 := writeReg who p o data s
      let s2 := (fieldActs who p o data).foldl (fun t h => actOn who p o data old s h t) s1
      writeFollow who p o old cfg s2

/-- A 32-bit access that writes page offset `o` of page `p` with byte enables `be` (R4, R77, R78, R82, R90, R522). -/
def busWrite (who : Requester) (p o : Nat) (data : Word) (be : Nat) (s : State) : State :=
  if !reaches s who p || ((pageKind p).isSome && !pagePresent s p) then s
  else match pageKind p with
    | none => errRec 0 0x01 0 0 1 (p * 0x1000 + o) s
    | some k =>
      if !mapped k o then errRec p 0x01 0 0 1 (p * 0x1000 + o) s
      else if be ≠ 15 then errRec p 0x02 0 0 be (p * 0x1000 + o) s
      else busGate who p o (regWrite who p o data) s

end Sys2Proof.Machine
end

