-- ==== Sys2Proof/Machine/ReadOps.lean ====
section
/-!
DEFINITION. Registers as a read returns them (R77, R79, R82, R84, R88, R95), and the side effects of a read (R14, R64, R243,
R434, R444).
-/
namespace Sys2Proof.Machine

/-! ### Registers as read -/

/-- CAPS of a page, with the fields that differ between the parts (R4, R5, and the CAPS tables). -/
def capsView (s : State) (p : Nat) : Word :=
  let w := rdWord s (HDR.CAPS.addr p 0)
  let big := decide (s.variant = .mq256)
  match pageKind p with
  | some .glb => BitVec.ofNat 32 (ofBool (!big) + 16 * Config.dieRev.toNat)
  | some .bia => BIA.CAPS_OUTS.upd (biasCount s) w
  | some .mon => MON.CAPS_CMPS.upd (if big then 0x50 else 0x30) w
  | some .thm => THM.CAPS_HW_TRIP.upd (ofBool big) w
  | _ => w

/-- ERR_HEAD of a record, with the number of records held from it on (R95). -/
def errHead (e : ErrRec) (depth : Nat) : Word :=
  BitVec.ofNat 32 (e.code % 256 + 2 ^ 8 * (e.sev % 4) + 2 ^ 10 * (e.unit % 64) + 2 ^ 16 * (e.seq % 256) + 2 ^ 24 * depth + 2 ^ 31)

/-- The four words of record `i` of a page's FIFO; zero beyond its depth (R95, R540). -/
def errWords (s : State) (p i : Nat) : List Word :=
  let l := (pageErr s p).fifo
  match l[i]? with
  | none => [0#32, 0#32, 0#32, 0#32]
  | some e => [errHead e (l.length - i), e.info, e.addr, e.tstamp]

/-- STATUS as an access of a requester sees it, with RUN and ERR_PEND (R79, R84, R95). -/
def statusView (s : State) (who : Requester) (p : Nat) : Word :=
  HDR.STATUS_ERR_PEND.upd (ofBool (decide ((pageErr s p).fifo ≠ []))) (HDR.STATUS_RUN.upd (ofBool (sBlocked s who p 0))
    (seenWord s who (HDR.STATUS.addr p 0)))

/-- DEV_INFO, DEV_UID and PORT_NB of the device that a requester has selected (R351, CST table). -/
def devView (s : State) (who : Requester) (o : Nat) : Nat :=
  let n := getF s pCst CST.TOPO_SEL_NUM (reqIdx who)
  match (topoTable s).find? (fun e => decide (e.num = n)) with
  | none => 0
  | some e =>
    if o = CST.DEV_INFO.off then
      let way := match hopsTo s n with
        | some h => 2 * ofBool (decide (4 < h)) + 4 * min h 7 + 32 * ((nextPort s n).getD 0)
        | none => 4 * (Config.noPath n).toNat
      1 + way + 2 ^ 8 * (e.flags % 256) + 2 ^ 16 * (e.seq % 65536)
    else if o = CST.DEV_UID_LO.off then e.uid % 2 ^ 32
    else if o = CST.DEV_UID_HI.off then e.uid / 2 ^ 32
    else leNat ((List.range 4).map (fun k =>
      BitVec.ofNat 8 (((e.ports[2 * k]?).map LsaPort.lstate).getD 0 % 4 + 16 * (((e.ports[2 * k + 1]?).map LsaPort.lstate).getD 0 % 4))))

/-- The seconds until the next unlock attempt is accepted (R543). -/
def waitLeft (s : State) : Nat := min 65535 ((s.dbgAcc.waitEnd - s.up + 999999999) / 1000000000)

/-- The statistics of the tone that a requester has selected (R243, R245). -/
def statSel (s : State) (who : Requester) (b : Nat) : ToneStat :=
  smGet {} (getF s (tilePage b) RDO.STAT_SEL_TONE (reqIdx who)) (rdoOf s b).stats

/-- A geometry word as DISC_SEL.VIEW asks for it (R231): the value written, or the one in force; SET_SEQ is that of the set in
force. -/
def discView (s : State) (who : Requester) (p o : Nat) : Word :=
  let a := accAddr s who p o
  let w := rdWord s a
  let live := rdWord s (a + 32 * windowStride)
  if isSet s p RDO.DISC_SEL_VIEW (reqIdx who) then live
  else if o = RDO.DISC_W7.off then RDO.DISC_W7_SET_SEQ.upd (RDO.DISC_W7_SET_SEQ.of live) w
  else w

/-- The registers whose value no register file entry holds, by page kind and offset. BD_DATA itself is open where it can be read
(log entry 37). -/
def liveView (s : State) (who : Requester) (p o : Nat) : Option Word :=
  match pageKind p with
  | some .evm =>
    if 0x100 ≤ o ∧ o < 0x500 then (if hiddenChan s who ((o - 0x100) / 0x10) then some 0#32 else none)
    else if o = EVM.HIT_MAP.off ∨ o = EVM.HIT_MAP.off + 4 then
      some (((List.range 32).filter (fun i => hiddenChan s who (32 * ((o - EVM.HIT_MAP.off) / 4) + i))).foldl
        (fun w i => w &&& ~~~(BitVec.ofNat 32 (2 ^ i))) (seenWord s who (accAddr s who p o)))
    else none
  | some .hkp =>
    if 0x100 ≤ o ∧ o < 0x1C0 ∧ o % 0x10 = 0 then
      some (HKP.ICFG_EN.upd 1 (HKP.ICFG_AVG.upd 1 (HKP.ICFG_SHIFT.upd 1 (seenWord s who (accAddr s who p o)))))
    else none
  | some .clk => if o = CLK.TIME_LO.off then some (BitVec.ofNat 32 (busTime s)) else none
  | some .dbg =>
    if o = DBG.DBG_STAT.off then some (DBG.DBG_STAT_WAIT.upd (waitLeft s) (rdWord s (DBG.DBG_STAT.addr p 0)))
    else if o = DBG.BD_DATA.off then
      some (if getF s p DBG.DBG_STAT_LEVEL = 0 then 0#32 else (Config.freeValue s.free).setWidth 32)
    else if o = DBG.SCAN_ID.off then some Config.scanLen
    else none
  | some .drn =>
    if DRN.ESC_DATA.off ≤ o ∧ o < DRN.ESC_DATA.off + 32 then
      some (BitVec.ofNat 32 ((s.esc.head?.getD 0) / 2 ^ (8 * (o - DRN.ESC_DATA.off))))
    else none
  | some .cst =>
    if o = CST.UID_LO.off then some (BitVec.ofNat 32 ownUid)
    else if o = CST.UID_HI.off then some (BitVec.ofNat 32 (ownUid / 2 ^ 32))
    else if o = CST.DEV_INFO.off ∨ o = CST.DEV_UID_LO.off ∨ o = CST.DEV_UID_HI.off ∨ o = CST.PORT_NB.off then
      some (BitVec.ofNat 32 (devView s who o))
    else none
  | some .rdo =>
    if o = RDO.ACC_CNT.off then some (BitVec.ofNat 32 (statSel s who (p - 0x10)).cnt)
    else if RDO.HIST.off ≤ o ∧ o < RDO.HIST.off + 16 then
      some (BitVec.ofNat 32 ((statSel s who (p - 0x10)).bin ((o - RDO.HIST.off) / 4)))
    else if RDO.DISC_W0.off ≤ o ∧ o ≤ RDO.DISC_W7.off then some (discView s who p o)
    else none
  | _ => none

/-- A register as a requester's read returns it, without the side effects of the read (R77, R80, R540). -/
def regView (s : State) (who : Requester) (p o : Nat) : Word :=
  match pageKind p with
  | none => 0#32
  | some k =>
    if !pagePresent s p || !mapped k o then 0#32
    else if partDiscards s p o 0#32 then 0#32
    else if o = 0x008 then capsView s p
    else if o = 0x010 then statusView s who p
    else if 0x020 ≤ o ∧ o < 0x030 then (errWords s p 0).getD ((o - 0x020) / 4) 0#32
    else (liveView s who p o).getD (seenWord s who (accAddr s who p o))

/-! ### The side effects of a read -/

/-- The tone that a requester's STAT_SEL names (R245). -/
def statTone (s : State) (who : Requester) (b : Nat) : Nat := getF s (tilePage b) RDO.STAT_SEL_TONE (reqIdx who)

/-- A tone's statistics changed by a read, with the items whose saturation it re-arms (R243). -/
def readStat (b t mask : Nat) (g : ToneStat → ToneStat) (s : State) : State :=
  let left := fun n : Nat => ((List.range 5).filter (fun k => bit n k = 1 ∧ bit mask k = 0)).foldl setBit 0
  showStat b t (modRdo b (fun r => { r with
    stats := smSet t (g (smGet {} t r.stats)) r.stats
    satRec := smSet t (left (smGet 0 t r.satRec)) r.satRec }) s)

/-- A tone's statistics with a histogram bin cleared. -/
def ToneStat.clearBin (n : Nat) (x : ToneStat) : ToneStat :=
  if n = 0 then { x with h0 := 0 } else if n = 1 then { x with h1 := 0 } else if n = 2 then { x with h2 := 0 } else { x with h3 := 0 }

/-- A read of ACC_CNT (R242, R245): the sums are captured for the reader, and the accumulator clears. -/
def accCapture (who : Requester) (b : Nat) (s : State) : State :=
  let p := tilePage b
  let t := statTone s who b
  let x := smGet {} t (rdoOf s b).stats
  let i := reqIdx who
  readStat b t 1 (fun y => { y with cnt := 0, i := 0, q := 0 })
    (putPair p RDO.ACC_I_LO RDO.ACC_I_HI_I_H (ofSigned 48 x.i) i (putPair p RDO.ACC_Q_LO RDO.ACC_Q_HI_Q_H (ofSigned 48 x.q) i s))

/-- What a read of the register at page offset `o` does beside returning its value: the captures of TIME, of the shot number, of
the sums and of the energy for the reader (R64, R152, R242, R444), and the RC fields QUEUE.HWM, ACC_CNT, HIST and RES.FRESH
(R14). A read of BD_DATA uses up free values of the image it looks into (R544). -/
def readEffect (who : Requester) (p o : Nat) (s : State) : State :=
  match pageKind p with
  | some .clk => if o = CLK.TIME_LO.off then putF 1 CLK.TIME_HI (busTime s / 2 ^ 32) (reqIdx who) s else s
  | some .thm =>
    if o = THM.ENERGY_LO.off then putF pThm THM.ENERGY_HI (s.smp.energy / 16000000 / 2 ^ 32 % 2 ^ 32) (reqIdx who) s else s
  | some .hkp =>
    if HKP.RES.off ≤ o ∧ o < HKP.RES.off + 0x300 ∧ o % 0x10 = 4 then putF pHkp HKP.RES_FRESH 0 ((o - HKP.RES.off) / 0x10) s else s
  | some .dbg => if o = DBG.BD_DATA.off then { s with free := s.free + 8 } else s
  | some k =>
    if k = .drv ∨ k = .rdo ∨ k = .flx then
      if o = TMB.QUEUE_HWM.off then putF p TMB.QUEUE_HWM 0 0 s
      else if o = TMB.SHOT_LO.off then putF p TMB.SHOT_HI_SHOT_H (getF s p TMB.SHOT_HI_SHOT_H) (1 + reqIdx who) s
      else if k = .rdo ∧ o = RDO.ACC_CNT.off then accCapture who (p - 0x10) s
      else if k = .rdo ∧ RDO.HIST.off ≤ o ∧ o < RDO.HIST.off + 16 then
        let n := (o - RDO.HIST.off) / 4
        readStat (p - 0x10) (statTone s who (p - 0x10)) (2 * 2 ^ n) (ToneStat.clearBin n) s
      else s
    else s
  | none => s

/-- The state that a read of page offset `o` looks at: while a soft reset of the page runs, the block registers read as they will
when it ends (R82). -/
def readState (p o : Nat) (s : State) : State :=
  if isSet s p HDR.STATUS_RST_BUSY && decide (0x40 ≤ o) then softResetEnd p s else s

end Sys2Proof.Machine
end

