-- ==== Sys2Proof/Machine/KwaferOps.lean ====
section
/-!
DEFINITION. Kwafer images as Hoop firmware loads them (R133 to R138, R494): the header and the section table, the checks that
refuse an image, and the load of one section.
-/
namespace Sys2Proof.Machine

/-- An entry of the section table (R134). -/
structure KSect where
  type : Nat
  page : Nat
  flags : Nat
  off : Nat
  len : Nat
  dest : Nat
  crc : Nat
  deriving DecidableEq, Repr

/-- `n` bytes of an image at an offset. -/
def imgBytes (img : List Byte) (o n : Nat) : List Byte := (img.drop o).take n

/-- A little-endian number of an image. -/
def imgNat (img : List Byte) (o n : Nat) : Nat := leNat (imgBytes img o n)

/-- The section table (R134). -/
def sections (img : List Byte) : List KSect :=
  (List.range (min 1024 (imgNat img 0x10 4))).map (fun i =>
    let o := 0x40 + 32 * i
    { type := imgNat img o 2, page := imgNat img (o + 2) 1, flags := imgNat img (o + 3) 1, off := imgNat img (o + 4) 4
      len := imgNat img (o + 8) 4, dest := imgNat img (o + 12) 4, crc := imgNat img (o + 16) 4 })

/-- The payload of a section. -/
def payload (img : List Byte) (k : KSect) : List Byte := imgBytes img k.off k.len

/-- The image with IMG_CRC taken as zero. -/
def crcZeroed (img : List Byte) : List Byte := img.take 0x3C ++ [0#8, 0#8, 0#8, 0#8] ++ img.drop 0x40

/-- The BAR2 region that a memory section loads: its base and size; none for a page of the wrong kind (R135). -/
def sectRegion (k : KSect) : Option (Nat × Nat) :=
  match tileOfPage k.page with
  | some b =>
    let a := aperture b
    if k.type = 1 then some (a, 0x50000)
    else if k.type = 2 then some (a + 0x300000, 0x4000)
    else if k.type = 3 then some (a + 0x304000, 0x1000)
    else if k.type = 4 then some (a + 0x100000, if isRdo b then 0x80000 else 0x100000)
    else if k.type = 5 ∧ isRdo b = true then some (a + 0x200000, 0x80000)
    else if k.type = 6 ∧ isFlx b = true then some (a + 0x380000, 0x4000)
    else none
  | none => if k.type = 10 ∧ k.page = 0xC then some (0x12100000, 0x60000) else none

/-- Whether a section type is a memory section (R135). -/
def sectMem (k : KSect) : Bool := decide (1 ≤ k.type ∧ k.type ≤ 6) || decide (k.type = 10)

/-- Whether a section type is one of R135. -/
def sectKnown (k : KSect) : Bool := decide (1 ≤ k.type ∧ k.type ≤ 10) || decide (k.type = 0x80F0)

/-- Whether a section passes R136: every payload lies in the image and has its CRC, every PAGE is present, and an unknown type is
optional. Beyond the cases that R136 lists, the model refuses a SIGNATURE whose PAGE is not 0 or whose LENGTH is not 96, a KEY_MAP
whose LENGTH is not a multiple of 4, a REG_WRITES whose LENGTH is not a multiple of 8 or a pair of which lies below 0x040 or beyond the
page, and a START whose LENGTH is not 8: they do not have the form that R135 gives (DESIGN CHOICE, log entry 85). -/
def sectOk (s : State) (img : List Byte) (k : KSect) : Bool :=
  decide (k.off + k.len ≤ img.length) && decide (crc32 (payload img k) = k.crc) && pagePresent s k.page
  && if !sectKnown k then decide (bit k.type 15 = 1)
  else
    (if k.type = 0x80F0 then decide (k.page = 0) && decide (k.len = 96)
      else (if sectMem k then
          match sectRegion k with
          | none => false
          | some (_, size) => decide (k.dest + k.len ≤ size) && decide (k.off % 64 = 0) && decide (k.dest % 64 = 0)
            && (decide (k.type ≠ 1) || decide (k.len % 20 = 0)) && (decide (bit k.flags 0 = 0) || decide (k.len % 64 = 0))
        else (tileOfPage k.page).isSome && (
          if k.type = 7 then decide (k.len % 4 = 0) && decide (k.dest + k.len / 4 ≤ 32)
          else if k.type = 8 then decide (k.len % 8 = 0) && (List.range (k.len / 8)).all (fun i =>
              decide (0x40 ≤ imgNat img (k.off + 8 * i) 4) && decide (imgNat img (k.off + 8 * i) 4 < 0x1000))
          else decide (k.len = 8))))

/-- Whether a loader takes an image (R133, R136). It refuses one whose IMAGE_LEN is not its length or whose SECT_CNT is not 1 to 1,024,
which R136 does not list, and takes one whose HDR_LEN is not 64 or that sets reserved header bytes or FLAGS[7:1], for which the spec
gives no action (DESIGN CHOICE, log entry 85). -/
def imageOk (s : State) (img : List Byte) : Bool :=
  decide (imgNat img 0 4 = 0x4641574B) && decide (imgNat img 4 2 = 1) && decide (imgNat img 0x0C 4 = img.length)
  && decide (1 ≤ imgNat img 0x10 4) && decide (imgNat img 0x10 4 ≤ 1024) && decide (0x40 + 32 * imgNat img 0x10 4 ≤ img.length)
  && decide (imgNat img 0x3C 4 = crc32 (crcZeroed img))
  && decide (bit (imgNat img 0x14 4) (if s.variant = .mq256 then 0 else 1) = 1)
  && (sections img).all (sectOk s img)

/-- Whether an image from the boot flash may be loaded (R138, R494): a SIGNATURE section, which is the last section and the end of
the image, must verify; an image without one is loaded only while no customer key is stored. -/
def imageSigned (img : List Byte) : Bool :=
  match (sections img).find? (fun k => decide (k.type = 0x80F0)) with
  | none => !Config.customerKey
  | some k => decide ((sections img).getLast? = some k) && decide (k.off + k.len = img.length)
      && Config.customerSigned ((crcZeroed img).take k.off ++ payload img k)

/-- The sections that a loader loads, in the order of the table: unknown optional ones and the signature are passed over (R136,
R137). -/
def loadable (img : List Byte) : List KSect := (sections img).filter (fun k => sectKnown k && decide (k.type ≠ 0x80F0))

/-- A target tile of an image runs (R131, R137). -/
def imageBusy (s : State) (img : List Byte) : Bool :=
  (loadable img).any (fun k => match tileOfPage k.page with | some b => tileRunning s b | none => false)

/-- A target page of an image is owned by host software (R501). -/
def imageDenied (s : State) (img : List Byte) : Bool := (loadable img).any (fun k => decide (getF s k.page HDR.OWNER_OWN = 1))

/-- One section loaded by Hoop firmware (R135, R137). -/
def loadSection (img : List Byte) (k : KSect) (s : State) : State :=
  let w := fun o => BitVec.ofNat 32 (imgNat img o 4)
  if k.type = 7 then
    forAll (List.range (k.len / 4)) (fun i s => busWrite .hoop k.page (TMB.TKEY_MAP.off + 4 * (k.dest + i)) (w (k.off + 4 * i)) 15 s) s
  else if k.type = 8 then
    forAll (List.range (k.len / 8)) (fun i s => busWrite .hoop k.page (imgNat img (k.off + 8 * i) 4) (w (k.off + 8 * i + 4)) 15 s) s
  else if k.type = 9 then busWrite .hoop k.page TMB.TMB_ENTRY.off (BitVec.ofNat 32 (imgNat img k.off 4 % 0x4000)) 15 s
  else match sectRegion k with
    | some (base, _) => storeMem 2 (base + k.dest) (payload img k) s
    | none => s

/-- A whole image loaded (R137). -/
def loadImage (img : List Byte) (s : State) : State := forAll (loadable img) (loadSection img) s

/-! ### Profiles (R505) -/

/-- Entry `i` of the profile directory: NVS offset, length, flags and CRC-32 (R505; the places in the entry are log entry 34). -/
def profileEntry (s : State) (i : Nat) : Nat × Nat × Nat × Nat :=
  let f := fun o => leNat ((List.range 4).map (fun k => nvsByte s (0x90000 + 32 * i + o + k)))
  (f 0, f 4, f 8, f 12)

/-- The image of a profile entry as the NVS holds it. -/
def profileImage (s : State) (i : Nat) : List Byte :=
  let (o, n, _, _) := profileEntry s i
  (List.range (min n 0x270000)).map (fun k => nvsByte s (o + k))

/-- The NVS masters that the profiles with VALID and MASTER give, by rising profile index (R452, R505). -/
def profileMasters (s : State) : List Master :=
  ((List.range 8).map (fun i =>
    let (o, _, fl, _) := profileEntry s i
    if bit fl 0 = 1 ∧ bit fl 1 = 1 then
      ((loadable (profileImage s i)).filter (fun k => sectMem k && decide (bit k.flags 0 = 1))).filterMap (fun k =>
        (sectRegion k).map (fun r => { dev := r.1 + k.dest, len := k.len, host := o + k.off }))
    else [])).flatten

/-- The profile masters taken again after the profile area has changed. -/
def showProfiles (s : State) : State := { s with profiles := profileMasters s }

/-- A profile with LOAD_AT_START loaded at the NVS restore (R505, R516): one whose CRC fails, or that R136 refuses, is passed over
with an event-log entry, whose code is open (log entry 35). -/
def loadProfile (i : Nat) (s : State) : State :=
  let (_, _, fl, crc) := profileEntry s i
  if bit fl 0 = 0 ∨ bit fl 2 = 0 then s
  else
    let img := profileImage s i
    if crc32 img = crc ∧ imageOk s img = true then loadImage img s
    else logEntry 3 ((Config.freeValue s.free).toNat % 256) 0 (BitVec.ofNat 32 i) 0#32 0 false (useFree s)

end Sys2Proof.Machine
end

