-- ==== Sys2Proof/Machine/StartSeq.lean ====
section
/-!
DEFINITION. The start sequence step by step (R513 to R521).
-/
namespace Sys2Proof.Machine

/-- A start is in progress and neither held nor failed. -/
def starting (s : State) : Bool :=
  alive s && !ready s && !isSet s 0 GLB.START_STAT_SAFE && s.boot.req.isNone && !s.boot.retry

/-- The start in progress is warm. -/
def warmStart (s : State) : Bool := decide (getF s 0 GLB.START_STAT_KIND = 2)

/-- A step shown as skipped, by its bit of SKIP (R519). -/
def skipStep (k : Nat) (s : State) : State := putF 0 GLB.START_CAUSE_SKIP (setBit (getF s 0 GLB.START_CAUSE_SKIP) k) 0 s

/-! ### Memory BIST and clear (R515, R461) -/

/-- The repair counts that MIC shows for the map in force (R458). -/
def showRepairs (s : State) : State :=
  let s := putF pMic MIC.REPAIR_STAT_SOFT_USED s.repairs.length 0 (putF pMic MIC.REPAIR_STAT_FUSE_USED Config.fuseUsed.toNat 0 s)
  forAll s.repairs (fun r s => incSat pMic MIC.MEM_STAT_SOFT (r.page * 16 + r.kind) s) s

/-- A row that fails the BIST, named by a line of it: it takes a spare, or is unrepairable. The result tells whether the start
fails for it; a tile's memory maps its tile out (R514, R515). -/
def bistRow (a : Nat) (s : State) : Bool × State :=
  match memAt a with
  | none => (false, s)
  | some m =>
    if !pagePresent s m.page then (false, s)
    else if spareFree s m a then
      (false, { s with repairs := s.repairs ++
        [{ idx := nextRepair s, page := m.page, kind := m.kind, block := lineBlock m a, bank := lineBank m a, row := lineRow m a, line := lineOf a, stored := false }] })
    else
      let s := putF pMic MIC.REPAIR_STAT_EXHAUST 1 0 s
      match tileOfPage m.page with
      | some b => (false, if tileUsable s b then mapOut b 4 s else s)
      | none => (true, s)

/-- Every row that fails the BIST, in turn. -/
def bistRows : List Nat → State → Bool × State
  | [], s => (false, s)
  | a :: l, s =>
    let (x, s) := bistRow a s
    let (y, s) := bistRows l s
    (x || y, s)

/-- Every tile of the device is mapped out (R514). -/
def allOut (s : State) : Bool := (tileBits s).all (fun b => !tileUsable s b)

/-- The memory clear (R461): at a cold start every memory; at a warm start result memory, Hoop working SRAM and the trace. -/
def memClear (s : State) : State :=
  let hit := fun a : Nat => match memAt a with
    | some m => decide (m.kind = 4) || decide (m.kind = 9) || (decide (0x12018000 ≤ a) && decide (a < 0x12019000))
    | none => false
  let s := if warmStart s then
      wipe hit { s with lines := s.lines.filter (fun e => !hit e.1) }
    else { s with mem := [], side := [], lines := [] }
  { s with boot := { s.boot with cleared := true } }

/-! ### Firmware load (R492) -/

/-- Whether the ROM loader accepts a slot (R492). -/
def fwOk (x : FwSlot) : Bool :=
  x.keyOk && Config.vendorSigned x.signed && decide (Config.fusedSvn.toNat ≤ x.svn) && decide (x.body.length ≤ 0x40000)

/-- The slots in the order the loader tries them: the higher version first, slot A on a tie. -/
def fwOrder (l : List FwSlot) : List FwSlot :=
  match l with
  | [x, y] => if x.version < y.version ∨ (x.version = y.version ∧ y.slot < x.slot) then [y, x] else [x, y]
  | l => l

/-- An accepted slot copied into the microcode store (R492). -/
def fwLoad (x : FwSlot) (s : State) : State :=
  let n := x.body.length
  let s := storeMem 2 0x11000000 (x.body ++ rdList s (0x11000000 + n) ((64 - n % 64) % 64)) s
  let s := putF 2 HOOP.FW_VER x.version 0 (putF 2 HOOP.FW_STAT_SLOT x.slot 0 (putF 2 HOOP.FW_STAT_SVN x.svn 0 s))
  let s := putF 2 HOOP.FW_STAT_RESIDENT 0 0 (putF 2 HOOP.FW_CRC (crc32 x.body) 0 s)
  { s with hoop := { s.hoop with resident := true, spAt := s.mck }, boot := { s.boot with fw := true } }

/-- The slots tried in turn: each rejected one writes FW_SIG, and one accepted after a rejection sets FW_FALLBACK (R492). The result
tells whether a slot was accepted. -/
def fwTry : List FwSlot → Bool → State → Bool × State
  | [], _, s => (false, s)
  | x :: l, first, s =>
    if fwOk x then (true, fwLoad x (if first then s else irqBit 2 1 s))
    else fwTry l false (errRec 2 0x20 0 0 x.slot 0 s)

/-! ### NVS restore (R503, R504, R516) -/

/-- A record of the journal has its commit mark (R503). -/
def committed (r : JRec) : Bool := decide (nvsWords r.bytes + 1 ≤ r.done)

/-- What a record's completion brings about beside its bytes: a soft repair that the NVS now holds (R458), and a profile area that
has changed (R505). -/
def retired (r : JRec) (s : State) : State :=
  let s := if 0x38000 ≤ r.tgt ∧ r.tgt < 0x3C000 then
      { s with repairs := s.repairs.map (fun x => if x.idx = (r.tgt - 0x38000) / 8 then { x with stored := true } else x) }
    else s
  if 0x90000 ≤ r.tgt ∧ r.tgt < 0x300000 then showProfiles s else s

/-- A journal entry at the restore: a committed one is copied again, another is discarded with its record (R503). -/
def replay (r : JRec) (s : State) : State :=
  if committed r then putF 3 NVS.NVS_STAT_REPLAY 1 0 (retired r (nvsPut r.tgt r.bytes s))
  else
    let s := putF 3 NVS.NVS_STAT_JDISC 1 0 (errRec 3 0x22 1 0 0 r.tgt s)
    if 0x40000 ≤ r.tgt ∧ r.tgt < 0x80000 then putF 3 NVS.LOG_WP ((getF s 3 NVS.LOG_WP + 2 ^ 32 - 1) % 2 ^ 32) 0 s else s

/-- The values of a tile as a converter set of a calibration copy holds them (R408). -/
def setVals (s : State) (b a : Nat) : List Int :=
  let byte := fun o => toSigned 8 (nvsByte s (a + o)).toNat
  let num := fun o n => leNat (nvsList s (a + o) n)
  let dac := fun o => (List.range 64).map (fun g => byte (o + g)) ++ [toSigned 16 (num (o + 64) 2)]
  let word := fun o => BitVec.ofNat 32 (num o 4)
  match tileKind b with
  | .drv => dac 0 ++ dac 0x80
  | .rdo => dac 0 ++ ((List.range 16).map (fun k => [toSigned 8 (RDO.ADC_IL_GAIN.of (word (0x80 + 4 * k))),
      toSigned 8 (RDO.ADC_IL_OFFS.of (word (0x80 + 4 * k))), toSigned 8 (RDO.ADC_IL_SKEW.of (word (0x80 + 4 * k)))])).flatten
  | .flx => ((List.range 16).map (fun k => [toSigned 16 (FLX.OUT_TRIM_OFFS.of (word (4 * k))),
      toSigned 16 (FLX.OUT_TRIM_GTRIM.of (word (4 * k)))])).flatten

/-- The slots of a tile taken from a calibration copy (R408, R410). -/
def restoreTile (copy b : Nat) (s : State) : State :=
  forAll (List.range 8) (fun i s =>
    let w := leNat (nvsList s (calBase copy + 0x400 + 32 * b + 4 * i) 4)
    if bit w 31 = 1 then
      putSlot b i { temp := toSigned 16 w, vals := setVals s b (calBase copy + 0x4000 + 0x800 * b + 0x100 * i) } s
    else s) s

/-- The calibration slots restored (R392, R410): the valid copy with the newer SEQ supplies the tiles that hold no slot. -/
def restoreCal (s : State) : State :=
  let va := copyValid s 0
  let vb := copyValid s 1
  let seq := fun c => leNat (nvsList s (calBase c + 12) 4)
  let s := putF pCal CAL.NVS_STAT_VALID_A (ofBool va) 0 (putF pCal CAL.NVS_STAT_VALID_B (ofBool vb) 0 s)
  let s := { s with cal := { s.cal with seqA := seq 0, seqB := seq 1 } }
  if !va && !vb then irqBit pCal 4 (errRec pCal 0x23 1 0 0 0 s)
  else
    let c := if va && (!vb || seqNewer (seq 0) (seq 1)) then 0 else 1
    forAll ((tileBits s).filter (fun b => (calTile s b).slots = [])) (restoreTile c) (putF pCal CAL.NVS_STAT_COPY c 0 s)

/-- The dump summary area holds a summary whose trailer checks good (R541). -/
def summaryGood (s : State) : Bool :=
  decide (leNat ((List.range 4).map (fun i => nvsByte s (0x80000 + i))) = 0x504D5544)
    && decide (leNat ((List.range 4).map (fun i => nvsByte s (0x80000 + 48896 + i))) = crc32 ((List.range 48896).map (fun i => nvsByte s (0x80000 + i))))

/-- Step 8 (R516): the journal, the repairs that step 5 made, the calibration slots, the start entry of the event log, whose code and
detail are open (log entry 35), and the profiles to load. -/
def nvsRestore (s : State) : State :=
  let recs := s.hoop.recs
  let s := forAll recs replay s
  let s := showNvs { s with hoop := { s.hoop with recs := [] }, boot := { s.boot with nvsUp := true } }
  let s := forAll (s.repairs.filter (fun r => !r.stored)) (fun r s =>
    logEntry pMic 0x23 1 (BitVec.ofNat 32 (r.page + 256 * r.block + 2 ^ 20 * r.bank)) (BitVec.ofNat 32 r.line) 0 false (repairRecord r s)) s
  let s := putF 0xF DMP.DUMP_STAT_SUM_VALID (ofBool (summaryGood s)) 0 (restoreCal s)
  let s := logEntry 0 ((Config.freeValue s.free).toNat % 256) 0 (rdWord s (GLB.START_CAUSE.addr 0 0)) 0#32 0 false (useFree s)
  forAll (List.range 8) loadProfile (showProfiles s)

/-! ### Foreground calibration (R517, R519) -/

/-- The READY bits of a tile's converters. -/
def setConvReady (b : Nat) (s : State) : State :=
  let p := tilePage b
  match tileKind b with
  | .drv => putF p DRV.DAC_STAT_READY 1 0 (putF p DRV.DAC_STAT_READY 1 1 s)
  | .rdo => putF p RDO.PDAC_STAT_READY 1 0 (putF p RDO.ADC_STAT_READY 1 0 s)
  | .flx => putF p FLX.FLX_STAT_READY 1 0 s

/-- The tile's foreground calibration may be skipped (R519): its zone has stayed within 5 °C of T_RUN, it holds a slot, and WCAL is
0. -/
def calSkips (s : State) (b : Nat) : Bool :=
  warmStart s && !isSet s 0 GLB.RST_CFG_WCAL && decide ((calTile s b).slots ≠ [])
    && decide ((zoneTemp s b - toSigned 16 (getF s pCal CAL.TILE_STAT_T_RUN b)).natAbs ≤ 80)

/-- A tile whose calibration is skipped keeps its slots, evaluated at its zone temperature (R392, R519). -/
def calKept (b : Nat) (s : State) : State :=
  let v := (evalSets (zoneTemp s b) (setsOf s b)).getD (calVals s b)
  let s := showCal b v (modCal b (fun c => { c with vals := v }) s)
  let s := if isRdo b then putF (tilePage b) RDO.CHAN_STAT_READY 1 0 s else s
  setConvReady b (showValid b s)

/-- A tile calibrated with the values found (R392, R517): they fill the slot of its zone temperature and are in force. -/
def calFound (b : Nat) (v : List Int) (coef : List Byte) (s : State) : State :=
  let t := zoneTemp s b
  let v := (List.range (valCount b)).map (fun i => v.getD i 0)
  let s := putSlot b (slotFor s t) { temp := t, vals := v } s
  let s := putF pCal CAL.TILE_STAT_T_RUN (ofSigned 16 t) b s
  let s := showCal b v (modCal b (fun c => { c with vals := v }) s)
  setConvReady b (if isRdo b then chanCoef b coef s else s)

/-- One tile at step 9: skipped, calibrated, or failed and mapped out (R514, R517, R519). -/
def calTileStart (cal : SMap (List Int)) (coef : SMap (List Byte)) (b : Nat) (s : State) : State :=
  if !tileUsable s b then s
  else if calSkips s b then calKept b s
  else match smFind b cal with
    | some v => calFound b v (smGet [] b coef) s
    | none => mapOut b 4 s

/-! ### READY (R421, R486, R521) -/

/-- The supply comparator `n` set to its window and enabled (R421). -/
def supplyCmp (n lo hi : Nat) (s : State) : State :=
  let s := putF pMon MON.MON_THR_LO lo n (putF pMon MON.MON_THR_HI hi n (putF pMon MON.MON_THR_HYS 4 n s))
  monFresh n (putF pMon MON.MON_CFG_EN 1 n s)

/-- The windows of R421. -/
def supplyWindows : List (Nat × Nat × Nat) :=
  [(64, 713, 787), (65, 713, 787), (66, 713, 787), (67, 713, 787), (68, 760, 840), (69, 760, 840), (70, 475, 525), (71, 475, 525),
   (72, 475, 525), (73, 475, 525), (74, 855, 945), (75, 855, 945), (76, 570, 630), (77, 855, 945), (78, 713, 787), (79, 713, 787)]

/-- Channel 63 of the event matrix as Hoop firmware leaves it (R486). -/
def supplyChan (s : State) : State :=
  let w := EVM.CH_CFG_EN.upd 1 (EVM.CH_CFG_DST.upd 0x11 (EVM.CH_CFG_SRC.upd 0x090 0#32))
  let s := wrWord (EVM.CH_GATE.addr pEvm 63) 0#32 (wrWord (EVM.CH_CFG.addr pEvm 63) w s)
  if getF s pEvm EVM.PROT_MODE = 1 then putF pEvm EVM.CH_PROT_OWN 2 63 s
  else if getF s pEvm EVM.PROT_MODE = 2 then putF pEvm EVM.CH_PROT_LK 1 63 s
  else s

/-- The wait of R543 in seconds after a number of failures. -/
def debugWait (fails : Nat) : Nat := if fails = 0 then 0 else min 65536 (2 ^ (fails - 1))

/-- READY (R392, R421, R443, R486, R521, R531, R543). -/
def enterReady (s : State) : State :=
  let s := forAll supplyWindows (fun e s => supplyCmp e.1 e.2.1 e.2.2 s) s
  let s := supplyChan s
  let s := forAll (List.range 512) slotEntry (wipe (fun a => decide (0x12000000 ≤ a) && decide (a < 0x12020000)) s)
  let s := irqBit 0 0 (putF 0 GLB.START_STAT_STEP 12 0 (putF 0 GLB.START_STAT_READY 1 0 (showStartMs s)))
  let s := putF 0 GLB.START_STAT_FAILS 0 0 (healthEval s)
  let s := failRecords s
  let s := match s.boot.tripRec with
    | some info => errRec pThm 0x22 2 0 info 0 (irqBit pThm 3 s)
    | none => s
  let wait := debugWait (getF s 0xE DBG.DBG_STAT_FAILS)
  { s with boot := { s.boot with tripRec := none }
           dbgAcc := { s.dbgAcc with waitEnd := s.up + wait * 1000000000 } }

/-! ### From step to step -/

/-- Step `k` begins; a step that is skipped gives way to the next at once (R513, R519). -/
def beginStep : Nat → Nat → State → State
  | 0, _, s => s
  | fuel + 1, k, s =>
    let s := putF 0 GLB.START_STAT_STEP k 0 { s with boot := { s.boot with stepAt := s.up } }
    if k = 2 ∧ warmStart s = true ∧ s.boot.fuseBad = false then beginStep fuel 3 (skipStep 0 s)
    else if k = 4 ∧ isSet s 1 CLK.PLL_STAT_LOCK = false ∧ isSet s 1 CLK.PLL_STAT_REF_OK = true then
      { s with pll := { s.pll with acquiring := true } }
    else if k = 5 ∧ warmStart s = true then beginStep fuel 6 (skipStep 1 (showRepairs s))
    else if k = 7 ∧ warmStart s = true ∧ s.hoop.resident = true then
      beginStep fuel 8 (skipStep 3 (putF 2 HOOP.FW_STAT_RESIDENT 1 0
        { s with hoop := { s.hoop with spAt := s.mck }, boot := { s.boot with fw := true } }))
    else if k = 9 ∧ (tileBits s).all (fun b => !tileUsable s b || calSkips s b) = true then
      beginStep fuel 10 (skipStep 4 (forAll ((tileBits s).filter (tileUsable s)) calKept s))
    else if k = 10 then forAll ((List.range 8).filter (fun n => isSet s (jdxPage n) HDR.CTRL_EN)) enterSearch s
    else if k = 12 then enterReady s
    else s

/-- The step after `k` begins. -/
def nextStep (k : Nat) (s : State) : State := beginStep 12 (k + 1) s

/-- A port is disabled, or has ended its training (R518). -/
def portSettled (s : State) (n : Nat) : Bool :=
  !isSet s (jdxPage n) HDR.CTRL_EN || decide (portState s n = 5) || decide (portState s n = 6) || decide (portState s n = 7)

/-- The work of the step in progress, and what follows (R513 to R518). -/
def stepDone (rows : List Nat) (fw : List FwSlot) (cal : SMap (List Int)) (coef : SMap (List Byte)) (s : State) : State :=
  let k := startStep s
  if k = 2 then nextStep k { s with boot := { s.boot with fuseBad := false } }
  else if k = 4 then (if isSet s 1 CLK.PLL_STAT_LOCK then nextStep k s else s)
  else if k = 5 then
    let (bad, s) := bistRows rows s
    let s := showRepairs s
    if bad || allOut s then startFail 2 s else nextStep k s
  else if k = 6 then nextStep k (memClear s)
  else if k = 7 then
    let (ok, s) := fwTry (fwOrder fw) true s
    if ok then nextStep k s else startFail 2 s
  else if k = 8 then nextStep k (nvsRestore s)
  else if k = 9 then
    let s := forAll (tileBits s) (calTileStart cal coef) s
    if allOut s then startFail 2 s else nextStep k s
  else if k = 10 then (if (List.range 8).all (portSettled s) then nextStep k s else s)
  else if k = 11 then
    (if isSet s pCst CST.STATUS_JOINED || (List.range 8).all (fun n => decide (portState s n ≠ 5)) then nextStep k s else s)
  else if 1 ≤ k ∧ k < 4 then nextStep k s
  else s

end Sys2Proof.Machine
end

