-- ==== Sys2Proof/Machine/DumpOps.lean ====
section
/-!
DEFINITION. The dump image (R538 to R541) that the fatal path and the debug backdoor take of the device.
-/
namespace Sys2Proof.Machine

/-! ### Sections (R539 to R541) -/

/-- A word as four bytes. -/
def wordBytes (w : Word) : List Byte := toBytes w.toNat 4

/-- A page as Hoop reads it, 4 KiB. -/
def pageBytes (s : State) (p : Nat) : List Byte := ((List.range 1024).map (fun i => wordBytes (regView s .hoop p (4 * i)))).flatten

/-- An entry of a tile's queue array (R540). -/
def queueBytes (s : State) (b i : Nat) : List Byte :=
  if !tilePresent s b then zeros 32
  else
    let x := tileOf s b
    match smFind i x.arr with
    | none => zeros 32
    | some e =>
      let held := if x.queue = [] then x.held else heldIdx x
      toBytes (encodeWord e.w) 20 ++ toBytes e.t 8 ++ toBytes (e.addr % 0x4000) 2 ++ toBytes (ofBool (decide (i ∈ held))) 1 ++ [0#8]

/-- The queues of every tile page and the escalation queue, oldest first (R539). -/
def queueSection (s : State) : List Byte :=
  ((List.range 32).map (fun b => ((List.range 512).map (queueBytes s b)).flatten)).flatten
    ++ ((List.range 64).map (fun i => toBytes ((s.esc[i]?).getD 0) 32)).flatten

/-- The error FIFO of every page (R539). -/
def errSection (s : State) : List Byte :=
  ((List.range 58).map (fun p => ((List.range 4).map (fun i => ((errWords s p i).map wordBytes).flatten)).flatten)).flatten

/-- The decision trace, oldest first: from WP on once it has wrapped (R284, R539). -/
def traceSection (s : State) : List Byte :=
  let first := if getF s pTul TUL.TRACE_WP_TOTAL < 256 then 0 else getF s pTul TUL.TRACE_WP_WP
  ((List.range 256).map (fun i => rdList s (0x12018000 + 16 * ((first + i) % 256)) 16)).flatten

/-- `n` entries of the Hoop trace from entry `k` of 4,096 on, oldest first: the operations of the vendor's microcode (R540). -/
def hoopSection (s : State) (k n : Nat) : List Byte := (List.range (8 * n)).map (fun i => Config.hoopTrace s.up (8 * k + i))

/-- A section with its header (R538). -/
def section_ (type : Nat) (pages : List Nat) (data : List Byte) : List Byte :=
  toBytes type 2 ++ zeros 2 ++ toBytes data.length 4 ++ padTo 8 (pages.map (BitVec.ofNat 8)) ++ data

/-- The fatal error that a dump header names. An image taken while there has been none has open fields there (log entry 37). -/
def fatalOf (s : State) : FatalRec :=
  match s.boot.fatal.or s.fatal with
  | some r => r
  | none =>
    let f := fun k => (Config.freeValue (s.free + 1 + k)).toNat
    { page := f 0 % 256, code := f 1 % 256, info := BitVec.ofNat 32 (f 2), addr := BitVec.ofNat 32 (f 3), t := f 4, health := f 5 % 256 }

/-- The header of a dump (R538). -/
def dumpHeader (s : State) (r : FatalRec) (kind total sects : Nat) : List Byte :=
  toBytes 0x504D5544 4 ++ toBytes 1 2 ++ toBytes kind 1 ++ toBytes (getF s 0xF DMP.DUMP_STAT_FATAL_CNT) 1 ++ toBytes total 4
    ++ toBytes ownUid 8 ++ toBytes (getF s 2 HOOP.FW_VER) 4 ++ toBytes r.t 6 ++ toBytes r.page 1 ++ toBytes r.code 1
    ++ wordBytes r.info ++ wordBytes r.addr ++ toBytes (ofBool (decide (s.variant = .mq128))) 1 ++ toBytes r.health 1
    ++ toBytes sects 1 ++ zeros 1 ++ wordBytes (rdWord s (GLB.START_STAT.addr 0 0)) ++ zeros 16

/-- The trailer of a dump (R539). -/
def withTrailer (l : List Byte) : List Byte := l ++ toBytes (crc32 l) 4 ++ zeros 12

/-- The full dump image (R538, R539). -/
def dumpImage (s : State) (r : FatalRec) : List Byte :=
  withTrailer (dumpHeader s r 0 804640 5
    ++ section_ 1 [] ((List.range 58).map (pageBytes s)).flatten
    ++ section_ 2 [] (queueSection s)
    ++ section_ 3 [] (errSection s)
    ++ section_ 4 [] (traceSection s)
    ++ section_ 5 [] (hoopSection s 0 4096))

/-- The pages of the NVS summary (R541). -/
def summaryPages : List Nat := [0x00, 0x01, 0x02, 0x05, 0x06, 0x0D, 0x0B, 0x0C]

/-- The NVS dump summary (R541). -/
def summaryImage (s : State) (r : FatalRec) : List Byte :=
  withTrailer (dumpHeader s r 1 48912 4
    ++ section_ 1 summaryPages (summaryPages.map (pageBytes s)).flatten
    ++ section_ 3 [] (errSection s)
    ++ section_ 4 [] (traceSection s)
    ++ section_ 5 [] (hoopSection s 3072 1024))

/-- The word of the full dump image that BD_ADDR selects (R544). -/
def backdoorWord (s : State) : Word :=
  let a := getF s 0xE DBG.BD_ADDR_ADDR
  if getF s 0xE DBG.DBG_STAT_LEVEL = 0 ∨ 0xC471F < a then 0#32
  else BitVec.ofNat 32 (leNat (((dumpImage s (fatalOf s)).drop (a - a % 4)).take 4))

/-- The nonce of a challenge is no longer valid (R543). -/
def dropNonce (s : State) : State := putF 0xE DBG.DBG_STAT_NONCE 0 0 { s with dbgAcc := { s.dbgAcc with nonce := none } }

/-! ### The fatal path (R536, R537, R541) -/

/-- Every DMA channel stops: nothing is outstanding, and no completion or writeback is written (R368, R536). -/
def stopChannels (s : State) : State :=
  forAll (List.range 16) (fun c s => putF 0xD PCI.CH_CTL_EN 0 c (putF 0xD PCI.CH_STAT_STATE 0 c s)) { s with dma := [] }

/-- The write of the NVS summary begins, with the RESULT that is the reason: its body goes first (R541). Before the NVS restore of
a start nothing is written (R526). -/
def beginSummary (r : FatalRec) (result : Nat) (s : State) : State :=
  let s := putF 0xF DMP.DUMP_STAT_RESULT result 0 (putF 0xF DMP.DUMP_STAT_STATE 1 0 s)
  if s.boot.nvsUp then
    let s := putF 0xF DMP.DUMP_STAT_SUM_VALID 0 0 (putF 0xF DMP.DUMP_STAT_WHERE 2 0 s)
    let s := nvsPut 0x80040 ((summaryImage s r).drop 64) s
    { s with boot := { s.boot with dump := some .nvs } }
  else putF 0xF DMP.DUMP_STAT_WHERE 0 0 { s with boot := { s.boot with dump := some .none } }

/-- The write of the dump begins: to the host where R537 lets it, else to the NVS. -/
def beginDump (r : FatalRec) (s : State) : State :=
  if !isSet s 0xF DMP.DUMP_CTL_EN then beginSummary r 1 s
  else if !hostOn s then beginSummary r 2 s
  else
    let s := putF 0xF DMP.DUMP_STAT_STATE 1 0 (putF 0xF DMP.DUMP_STAT_WHERE 1 0 (putF 0xF DMP.DUMP_STAT_RESULT 0 0 s))
    { s with boot := { s.boot with dump := some .host } }

/-- The pages of the part. -/
def allPages (s : State) : List Nat := (List.range 0x3A).filter (fun p => pagePresent s p)

/-- The fatal path for an error (R536): FREEZE and OWN of every page, the channels, the command, health, the log, the dump. -/
def fatalPath (r : FatalRec) (s : State) : State :=
  let s := { s with fatal := none, boot := { s.boot with fatal := some r } }
  let s := forAll (allPages s) freezeSet s
  let s := forAll (allPages s) (fun p s => putF p HDR.OWNER_OWN 2 0 s) s
  let s := healthEval (dropCmd (stopChannels s))
  beginDump r (logEntry r.page r.code 3 r.info r.addr 0 false s)

/-- A fatal error during a start (R504, R526): the start fails with code 3, and the log entry and the summary are written only after
the NVS restore. -/
def fatalStart (r : FatalRec) (s : State) : State :=
  let s := { s with fatal := none }
  let s := if s.boot.nvsUp then nvsPut 0x80000 (summaryImage s r) (logEntry r.page r.code 3 r.info r.addr 0 false s) else s
  startFail 3 s

/-- The dump is complete: DUMP_STAT, the record of a dump that did not reach the host, the interrupt, and the delay of an automatic
warm start (R527, R536, R545). -/
def dumpDone (s : State) : State :=
  let w := getF s 0xF DMP.DUMP_STAT_WHERE
  let s := putF 0xF DMP.DUMP_STAT_STATE 2 0 { s with boot := { s.boot with dump := none } }
  let s := if w = 1 then s else errRec 0xF 0x20 2 0 (getF s 0xF DMP.DUMP_STAT_RESULT) 0 s
  let s := irqBit 0xF 0 s
  if isSet s 0 GLB.RST_CFG_AUTO_WARM then
    { s with boot := { s.boot with autoWarm := true, dueAt := s.up + getF s 0 GLB.RST_CFG_AW_DELAY * 1000000 } }
  else s

/-- The dump finishes writing (R536, R537, R541), which it begins after the ramps: a host dump whose link has gone is replaced by the
summary; `ok` says that every NVS word was programmed. -/
def dumpWritten (ok : Bool) (s : State) : State :=
  let r := fatalOf s
  match (if ramping s then none else s.boot.dump) with
  | none => s
  | some .host =>
    if hostOn s then dumpDone (hostWrite (addr64 s 0xF DMP.DUMP_BASE_LO DMP.DUMP_BASE_HI) (dumpImage s r) s)
    else beginSummary r 3 s
  | some .nvs =>
    if ok then dumpDone (putF 0xF DMP.DUMP_STAT_SUM_VALID 1 0 (nvsPut 0x80000 ((summaryImage s r).take 64) s))
    else dumpDone (putF 0xF DMP.DUMP_STAT_RESULT 4 0 s)
  | some .none => dumpDone s

end Sys2Proof.Machine
end

