-- ==== Sys2Proof/Machine/Fault.lean ====
section
/-!
DEFINITION. Meanings of the commands of 23_faults_and_debug: the fatal path, its dump, the scan dump, the JTAG instructions and
the nonce of a challenge.
-/
namespace Sys2Proof.Machine

/-- The fatal path of an error of severity 0b11 (R526, R536). -/
def execFatalPath (s : State) : Res1 :=
  .next (match s.fatal with
    | none => s
    | some r => if starting s then fatalStart r s else if alive s then fatalPath r s else { s with fatal := none })

/-- The dump or the summary finishes writing (R536, R537, R541). -/
def execDumpWriteDone (ok : Bool) (s : State) : Res1 := .next (dumpWritten ok s)

/-! ### JTAG (R542, R544, R550) -/

/-- An instruction in the JTAG instruction register; the boundary cells drive the pins only under the EXTEST instructions. -/
def loadIr (i : Jtag) (extest : Bool) (s : State) : State :=
  { s with dbgAcc := { s.dbgAcc with ir := i }, boot := { s.boot with extest := extest } }

/-- SCAN_DUMP (R530, R544): at Level 2 the fatal path is taken, and the scan chains shift out; below it there is no such
instruction, and the bypass register is selected as IEEE 1149.1 has it (log entry 38). -/
def execScanDump (s : State) : Res1 :=
  .next (if getF s 0xE DBG.DBG_STAT_LEVEL = 2 then
      let s := errRec 0 0x28 3 0 0 0 (loadIr .scanDump false s)
      { s with boot := { s.boot with scanned := true } }
    else loadIr .bypass false s)

/-- BYPASS (R542). -/
def execBypass (s : State) : Res1 := .next (loadIr .bypass false s)

/-- IDCODE (R542, R550). -/
def execIdcode (s : State) : Res1 :=
  let part := match s.variant with
    | .mq256 => 0x256A
    | .mq128 => 0x128A
  let code := 1 + 2 * Config.jep106.toNat + 2 ^ 12 * part + 2 ^ 28 * Config.dieRev.toNat
  .next { loadIr .idcode false s with lastRead := BitVec.ofNat 64 code }

/-- The levels at the pins, cell by cell: open (log entry 39). -/
def pinCells (s : State) (n : Nat) : List Bool := (List.range n).map (Config.pinLevel s.free)

/-- SAMPLE/PRELOAD (R542): `n` boundary cells capture their pins, or `load` is shifted into them. -/
def execSamplePreload (load : Option (List Bool)) (n : Nat) (s : State) : Res1 :=
  let s := loadIr .samplePreload false s
  .next (match load with
    | some l => { s with boot := { s.boot with cells := l } }
    | none => useFree { s with boot := { s.boot with sampled := pinCells s n } })

/-- The boundary cells drive the pins with what was shifted in, and sample them (R542). -/
def driveCells (i : Jtag) (l : List Bool) (s : State) : State :=
  let s := loadIr i true s
  useFree { s with boot := { s.boot with cells := l, sampled := pinCells s l.length } }

/-- EXTEST (R542). -/
def execExtest (l : List Bool) (s : State) : Res1 := .next (driveCells .extest l s)

/-- EXTEST_PULSE (R542). -/
def execExtestPulse (l : List Bool) (s : State) : Res1 := .next (driveCells .extestPulse l s)

/-- EXTEST_TRAIN (R542). -/
def execExtestTrain (l : List Bool) (s : State) : Res1 := .next (driveCells .extestTrain l s)

/-- 60 s after a CHALLENGE its nonce is no longer valid (R543). -/
def execNonceExpire (s : State) : Res1 :=
  .next (if s.dbgAcc.nonce.isSome && decide (s.dbgAcc.nonceAt + 60000000000 ≤ s.up) then dropNonce s else s)

end Sys2Proof.Machine
end

