-- ==== Sys2Proof/Machine/HoopCmds.lean ====
section
/-!
DEFINITION. Hoop at its safe points (R496, R497), and the mailbox commands it runs (R498 to R501, R534, R543).
-/
namespace Sys2Proof.Machine

/-! ### Hoop runs -/

/-- Hoop executes: its firmware, or in SAFE mode the ROM, and no fatal error, reset or requested start holds it (R493, R496). -/
def hoopUp (s : State) : Bool :=
  alive s && s.fatal.isNone && s.boot.fatal.isNone && s.boot.req.isNone && (s.boot.fw || isSet s 0 GLB.START_STAT_SAFE)

/-! ### Urgent services (R497) -/

/-- One urgent service done. -/
def serve (u : Urgent) (s : State) : State :=
  match u with
  | .portLost n => servePort n s
  | .wake k =>
    putF pEvm EVM.WAKE_STAT_PEND (clrBit (getF s pEvm EVM.WAKE_STAT_PEND) k) 0 { s with hoop := { s.hoop with woken := k :: s.hoop.woken } }
  | .relock =>
    forAll ((List.range 8).filter (fun n => isSet s (jdxPage n) HDR.CTRL_EN && isSet s (jdxPage n) JDX.PORT_CFG_AUTO)) enterSearch s
  | .retrain => forAll ((List.range 8).filter (fun n => decide (4 ≤ portState s n) && decide (portState s n ≤ 6))) enterSearch s
  | .mapOut b reason => if tileUsable s b then mapOut b reason s else s
  | .topology => chooseTime (repairAll (floodLsa s))
  | .request k => serveRequest k s

/-- Whether an opcode is atomic (R500). -/
def atomicOp (op : Nat) : Bool := decide (op ∈ [0x0001, 0x0002, 0x0021, 0x0030, 0x0040, 0x0050, 0x0060])

/-- What urgent work does to the command that Hoop has taken (R498): an atomic one that has committed nothing is aborted, a
progressive one is suspended. -/
def yieldCmd (s : State) : State :=
  match s.pcie.cmd with
  | none => s
  | some c =>
    if atomicOp c.op then
      if s.hoop.recs.any (fun r => r.cmd) then s
      else respond 1 [] (irqBit 2 0 (incSat 2 HOOP.ABORTS_ABORTS 0 s))
    else if c.susp then s
    else
      let s := incSat 2 HOOP.ABORTS_SUSP 0 s
      { s with pcie := { s.pcie with cmd := some { c with susp := true } } }

/-! ### Taking a command (R382, R383, R500) -/

/-- Bytes of a payload as a number. -/
def Cmd.arg (c : Cmd) (o n : Nat) : Nat := leNat ((c.payload.drop o).take n)

/-- The payload length that DEBUG_UNLOCK needs for a SUBOP, none for an unknown one (R543). -/
def debugLen (subop : Nat) : Option Nat :=
  if subop = 1 ∨ subop = 4 then some 20 else if subop = 2 ∨ subop = 5 then some 4 else if subop = 3 then some 36 else none

/-- The opcodes of R500. -/
def opKnown (op : Nat) : Bool :=
  decide (op ∈ [0x0001, 0x0002, 0x0010, 0x0011, 0x0012, 0x0020, 0x0021, 0x0030, 0x0031, 0x0040, 0x0050, 0x0060])

/-- Whether the payload length fits the opcode (R500, R543; fields are 32 bits and host addresses 64: log entry 40). -/
def lenFits (c : Cmd) : Bool :=
  let n := c.payload.length
  if c.op = 0x0001 then true
  else if c.op = 0x0002 ∨ c.op = 0x0050 then decide (n = 0)
  else if c.op = 0x0010 ∨ c.op = 0x0011 then decide (n = 12)
  else if c.op = 0x0012 then decide (n = 4)
  else if c.op = 0x0020 then decide (8 ≤ n) && decide (c.arg 4 4 ≤ 2024) && decide (n = 8 + c.arg 4 4)
  else if c.op = 0x0021 ∨ c.op = 0x0030 ∨ c.op = 0x0040 then decide (n = 8)
  else if c.op = 0x0031 then decide (4 < n)
  else decide (4 ≤ n) && decide (((debugLen (c.arg 0 1)).getD n) = n)

/-- Why a command is refused when it is taken (R493, R500, R501), by its FLAGS and LEN; none where it may run. -/
def refuses (s : State) (c : Cmd) (flags len : Nat) : Option Nat :=
  if isSet s 0 GLB.START_STAT_SAFE && decide (c.op ∉ [0x0001, 0x0002, 0x0030, 0x0031, 0x0050]) then some 0xB
  else if !opKnown c.op then some 2
  else if decide (2032 < len) || !lenFits c then some 3
  else if flags ≠ 0 ∨ (c.op = 0x0060 ∧ (debugLen (c.arg 0 1) = none ∨ c.arg 1 3 ≠ 0)) then some 4
  else none

/-- The command buffer read at a safe point (R382, R383): `buf` are its bytes, none where the read fails. -/
def takeDoor (buf : Option (List Byte)) (s : State) : State :=
  let s := { s with pcie := { s.pcie with door := none } }
  match (if hostOn s then buf else none) with
  | none => putF pPci PCI.MBX_STAT_FAIL 1 0 (putF pPci PCI.MBX_STAT_BUSY 0 0 s)
  | some l =>
    let f := fun o n => leNat ((l.drop o).take n)
    let c : Cmd := { op := f 0 2, seq := f 8 4, payload := (l.drop 16).take (min (f 4 4) 2032) }
    let s := { s with pcie := { s.pcie with cmd := some c } }
    match refuses s c (f 2 2) (f 4 4) with
    | some st => respond st [] s
    | none => s

/-! ### Master-image table (R375) -/

/-- An entry of the table. -/
def mitEntry (l : List Byte) (i : Nat) : Master :=
  let f := fun o n => leNat ((l.drop (32 * i + o)).take n)
  { dev := f 0 4, len := f 4 4, host := f 8 8 }

/-- Whether an entry lies within one shadowed memory of the part. -/
def inShadowed (s : State) (m : Master) : Bool :=
  match memAt m.dev with
  | none => false
  | some r => decide (kindClass r.kind = .shadowed) && pagePresent s r.page && decide (m.dev + m.len ≤ r.base + r.size)

/-- Why an entry is rejected after the entries before it: alignment, not shadowed, overlap. -/
def mitFault (s : State) (before : List Master) (m : Master) : Option Nat :=
  if m.dev % 64 ≠ 0 ∨ m.len % 64 ≠ 0 ∨ m.len = 0 then some 1
  else if !inShadowed s m then some 2
  else if before.any (fun x => decide (m.dev < x.dev + x.len) && decide (x.dev < m.dev + m.len)) then some 3
  else none

/-- The first entry of the rest that is rejected, with its index and reason. -/
def mitCheck (s : State) : List Master → List Master → Option (Nat × Nat)
  | _, [] => none
  | before, m :: l =>
    match mitFault s before m with
    | some r => some (before.length, r)
    | none => mitCheck s (before ++ [m]) l

/-- The load is over (R375). -/
def mitDone (result idx : Nat) (s : State) : State :=
  let s := { s with pcie := { s.pcie with mit := none } }
  let s := forAll [(PCI.MIT_STAT_BUSY, 0), (PCI.MIT_STAT_DONE, 1), (PCI.MIT_STAT_RESULT, result), (PCI.MIT_STAT_BAD_IDX, idx)]
    (fun e s => putF pPci e.1 e.2 0 s) s
  let s := irqBit pPci 3 s
  if result = 0 then s else errRec pPci 0x23 0 0 (result + 2 ^ 16 * idx) 0 s

/-- The table read and checked (R375): `tab` are its bytes, none where the read fails. -/
def loadMit (count : Nat) (tab : Option (List Byte)) (s : State) : State :=
  if 4096 < count then mitDone 5 0 s
  else if count = 0 then mitDone 0 0 { s with masters := [] }
  else match (if hostOn s then tab else none) with
    | none => mitDone 4 0 s
    | some l =>
      if l.length ≠ 32 * count then mitDone 4 0 s
      else
        let es := (List.range count).map (mitEntry l)
        match mitCheck s [] es with
        | some (i, r) => mitDone r i s
        | none => mitDone 0 0 { s with masters := es }

/-! ### Routine services -/

/-- A port in MEASURE whose stamps are in (R327): FH and ACTIVATE, or a retraining in fall-back mode where FH cannot be held. -/
def servePortFh (n : Nat) (s : State) : State :=
  let p := jdxPage n
  let x := portOf s n
  if portState s n ≠ 4 then s
  else if isSet s p JDX.STATUS_FBM then
    (if 16 ≤ x.nextId then busGate .hoop p JDX.PORT_CTL_ACTIVATE.off (fun s => portActivateEffect n (putF p JDX.LINK_LAT_FH 0 0 s)) s else s)
  else if x.stampN < 16 then s
  else
    let fh := ((toSigned 16 (getF s p JDX.LINK_LAT_MEAN) + 19) / 16).toNat
    busGate .hoop p JDX.PORT_CTL_ACTIVATE.off (fun s =>
      if fh ≤ 63 then portActivateEffect n (putF p JDX.LINK_LAT_FH fh 0 s)
      else
        let s := errRec p 0x21 0 0 4 0 (irqBit p 9 (putF p JDX.PORT_CFG_MODE 2 0 s))
        topoUrge (enterSearch n s)) s

/-- An AUTOLOAD image of the directory (R494): loaded once after a start, or refused with a record. -/
def autoLoad (i : Nat) (img : List Byte) (s : State) : State :=
  if i ∈ s.hoop.autoDone ∨ 14 ≤ i ∨ ready s = false then s
  else
    let s := { s with hoop := { s.hoop with autoDone := i :: s.hoop.autoDone } }
    if imageOk s img && imageSigned img && !imageBusy s img && !imageDenied s img then loadImage img s
    else errRec 2 0x22 0 0 i 0 s

/-- The routine services that no command of their own carries. -/
def routine (mit : Option (List Byte)) (auto : Option (Nat × List Byte)) (s : State) : State :=
  match s.pcie.mit with
  | some (_, count) => loadMit count mit s
  | none =>
    let s := forAll (List.range 8) servePortFh (chooseTime (storeAuto s))
    match auto with
    | some (i, img) => autoLoad i img s
    | none => s

/-- A safe point (R497): urgent services come first, in turn. Without one, a waiting doorbell and a waiting master-image load are
read here (R375, R382), and a routine service runs; the steps of the command taken are its own row's (log entry 41). -/
def safePoint (spacing : Nat) (buf mit : Option (List Byte)) (auto : Option (Nat × List Byte)) (s : State) : State :=
  if !hoopUp s then s
  else
    let s := putF 2 HOOP.SP_MAX_SP_MAX (max (getF s 2 HOOP.SP_MAX_SP_MAX) spacing) 0 { s with hoop := { s.hoop with spAt := s.mck } }
    let s := healthEval s
    match s.hoop.urgent with
    | u :: us => serve u (yieldCmd { s with hoop := { s.hoop with urgent := us } })
    | [] =>
      let s := if s.pcie.door.isSome && s.pcie.cmd.isNone then takeDoor buf s else s
      if s.boot.fw && ready s then routine mit auto s else s

/-! ### Steps of a command -/

/-- A step of the command that Hoop has taken, if it has this opcode and no urgent work is pending (R497, R498). -/
def runCmd (op : Nat) (f : Cmd → State → State) (s : State) : State :=
  match s.pcie.cmd with
  | none => s
  | some c =>
    if hoopUp s && decide (s.hoop.urgent = []) && decide (c.op = op) then
      f c { s with pcie := { s.pcie with cmd := some { c with susp := false } } }
    else s

/-- A unit done by a progressive command with `n` units, which ends with the last (R498). -/
def unitOf (n : Nat) (c : Cmd) (s : State) : State :=
  let s := unitDone s
  if c.prog + 1 < n then s else respond 0 [] s

/-- One line of MEM_FILL (R372, R500). -/
def memFill (c : Cmd) (s : State) : State :=
  let a := c.arg 0 4
  let n := c.arg 4 4
  if a % 64 ≠ 0 ∨ n % 64 ≠ 0 then respond 4 [] s
  else if n = 0 then respond 0 [] s
  else match rangeFault s a n 1 with
    | some 2 => respond 4 [] s
    | some 3 => respond 5 [] s
    | some _ => respond 6 [] s
    | none => unitOf (n / 64) c (storeMem 2 (a + 64 * c.prog) ((List.replicate 16 (toBytes (c.arg 8 4) 4)).flatten) s)

/-- One section of an image that a command loads (R136, R137, R494, R500). -/
def loadStep (img : List Byte) (c : Cmd) (s : State) : State :=
  if !imageOk s img then respond 4 [] s
  else if imageDenied s img then respond 5 [] s
  else if imageBusy s img then respond 6 [] s
  else match (loadable img)[c.prog]? with
    | none => respond 0 [] s
    | some k => unitOf (loadable img).length c (loadSection img k s)

/-- BULK_LOAD: `img` is the image as read from host memory, none where the read fails. -/
def bulkLoad (img : Option (List Byte)) (c : Cmd) (s : State) : State :=
  match (if hostOn s then img else none) with
  | none => respond 7 [] s
  | some l => if l.length = c.arg 8 4 then loadStep l c s else respond 7 [] s

/-- IMAGE_LOAD: `img` is the image of the directory entry, none where the flash is absent or reports an error; an entry that names no
image is `some []`. -/
def imageLoad (img : Option (List Byte)) (c : Cmd) (s : State) : State :=
  if 13 < c.arg 0 4 then respond 4 [] s
  else match (if s.hoop.flashOk then img else none) with
    | none => respond 9 [] s
    | some l => if imageOk s l && !imageSigned l then respond 0xA [] s else loadStep l c s

/-- The next unit of NVS_WRITE goes to the journal (R500, R503). -/
def nvsWrite (c : Cmd) (s : State) : State :=
  let o := c.arg 0 4
  let n := c.arg 4 4
  if o % 64 ≠ 0 then respond 4 [] s
  else if o < 0x90000 ∨ 0x400000 < o + n then respond 5 [] s
  else if n = 0 then respond 0 [] s
  else if s.hoop.recs.any (fun r => r.cmd) then s
  else journal (o + 64 * c.prog) ((c.payload.drop (8 + 64 * c.prog)).take 64) true false s

/-- PROFILE_SET: the flags of a directory entry (R500, R505). -/
def profileSet (c : Cmd) (s : State) : State :=
  if 8 ≤ c.arg 0 4 ∨ 8 ≤ c.arg 4 4 then respond 4 [] s
  else if s.hoop.recs.any (fun r => r.cmd) then s
  else journal (0x90000 + 32 * c.arg 0 4 + 8) (toBytes (c.arg 4 4) 4) true false s

/-- FLASH_READ; `ok` says that the flash reports no error. -/
def flashRead (ok : Bool) (c : Cmd) (s : State) : State :=
  let o := c.arg 0 4
  let n := c.arg 4 4
  if 2032 < n ∨ Config.flashSize < o + n then respond 4 [] s
  else if !ok || !s.hoop.flashOk then respond 9 [] s
  else respond 0 ((List.range n).map (fun i => smGet 0xFF#8 (o + i) s.hoop.flash)) s

/-- Bytes of the boot flash programmed. -/
def flashPut (a : Nat) : List Byte → State → State
  | [], s => s
  | v :: l, s => flashPut (a + 1) l { s with hoop := { s.hoop with flash := smPut 0xFF#8 a v s.hoop.flash } }

/-- The slot of the running firmware, 2 in SAFE mode. -/
def runningSlot (s : State) : Nat := if s.boot.fw then getF s 2 HOOP.FW_STAT_SLOT else 2

/-- Whether FLASH_WRITE may reach a range (R500): the directory, and what the directory gives to images and to the other slot. -/
def flashReach (s : State) (o n : Nat) : Bool :=
  decide (o + n ≤ 0x1000)
    || !Config.flashDenied ((List.range 0x1000).map (fun i => smGet 0xFF#8 i s.hoop.flash)) (runningSlot s) o n

/-- One page of FLASH_WRITE; `ok` says that the flash reports no error. -/
def flashWrite (ok : Bool) (c : Cmd) (s : State) : State :=
  let o := c.arg 0 4
  let data := c.payload.drop 4
  if o % 256 ≠ 0 ∨ Config.flashSize < o + data.length then respond 4 [] s
  else if c.prog = 0 ∧ flashReach s o data.length = false then respond 5 [] s
  else if !ok || !s.hoop.flashOk then respond 9 [] s
  else unitOf ((data.length + 255) / 256) c (flashPut (o + 256 * c.prog) ((data.drop (256 * c.prog)).take 256) s)

/-- TILE_MAP (R534, R535). -/
def tileMap (c : Cmd) (s : State) : State :=
  match tileOfPage (c.arg 0 4) with
  | none => respond 4 [] s
  | some b =>
    if !tilePresent s b ∨ 1 < c.arg 4 4 then respond 4 [] s
    else if c.arg 4 4 = 1 then respond 0 [] (if tileUsable s b then mapOut b 1 s else s)
    else match smFind b s.boot.mapped with
      | none => respond 0 [] s
      | some r =>
        if r = 4 ∨ (r = 3 ∧ bit (getF s 5 THM.BROKEN_MASK) (zoneOf b) = 1) then respond 5 [] s
        else respond 0 [] (mapIn b s)

/-! ### Debug access (R543) -/

/-- UID as a password hash and a challenge response take it. -/
def uidBytes : List Byte := toBytes ownUid 8

/-- No attempt is accepted yet (R543). -/
def debugWaits (s : State) : Bool := decide (s.up < s.dbgAcc.waitEnd)

/-- A failed attempt (R543). -/
def unlockFail (s : State) : State :=
  let s := incSat 0xE DBG.DBG_STAT_FAILS 0 s
  let n := getF s 0xE DBG.DBG_STAT_FAILS
  let s := { s with dbgAcc := { s.dbgAcc with waitEnd := s.up + debugWait n * 1000000000 } }
  respond 5 [] (errRec 0xE 0x21 0 0 n 0 (irqBit 0xE 1 s))

/-- A successful unlock of a level (R504, R543). -/
def unlock (level : Nat) (s : State) : State :=
  let s := putF 0xE DBG.DBG_STAT_LEVEL (max level (getF s 0xE DBG.DBG_STAT_LEVEL)) 0 (putF 0xE DBG.DBG_STAT_FAILS 0 0 s)
  let s := errRec 0xE 0x20 0 0 level 0 (irqBit 0xE 0 s)
  respond 0 [] (logEntry 0xE 0x20 0 (BitVec.ofNat 32 level) 0#32 0 false s)

/-- UNLOCK1 (R543). -/
def unlock1 (c : Cmd) (s : State) : State :=
  if debugWaits s then respond 5 [] s
  else match s.dbgAcc.hash with
    | none => respond 5 [] s
    | some h => if Config.sha384 (uidBytes ++ (c.payload.drop 4).take 16) = h then unlock 1 s else unlockFail s

/-- CHALLENGE (R543). -/
def challenge (_ : Cmd) (s : State) : State :=
  let x := (List.range 32).map (fun i => (Config.nonce s.free).getD i 0#8)
  let s := putF 0xE DBG.DBG_STAT_NONCE 1 0 { s with dbgAcc := { s.dbgAcc with nonce := some x, nonceAt := s.up } }
  respond 0 x (useFree s)

/-- UNLOCK2 (R543): an accepted attempt uses the nonce up. -/
def unlock2 (c : Cmd) (s : State) : State :=
  if debugWaits s then respond 5 [] s
  else match s.dbgAcc.nonce with
    | none => respond 4 [] s
    | some x =>
      let s := dropNonce s
      if (c.payload.drop 4).take 32 = Config.hmacDev (x ++ uidBytes ++ [2#8]) then unlock 2 s else unlockFail s

/-- SET_PW (R543). -/
def setPw (c : Cmd) (s : State) : State :=
  if s.dbgAcc.hash.isSome && decide (getF s 0xE DBG.DBG_STAT_LEVEL = 0) then respond 5 [] s
  else
    let s := { s with dbgAcc := { s.dbgAcc with hash := some (Config.sha384 (uidBytes ++ (c.payload.drop 4).take 16)) } }
    respond 0 [] (putF 0xE DBG.DBG_STAT_PW_SET 1 0 s)

/-- RELOCK (R543). -/
def relock (_ : Cmd) (s : State) : State := respond 0 [] (putF 0xE DBG.DBG_STAT_LEVEL 0 0 s)

/-- A SUBOP of DEBUG_UNLOCK. -/
def debugCmd (subop : Nat) (f : Cmd → State → State) (s : State) : State :=
  runCmd 0x0060 (fun c s => if c.arg 0 1 = subop then f c s else s) s

/-! ### The NVS controller (R503) -/

/-- What the completion of a record does for the mailbox command that made it. -/
def cmdRecDone (s : State) : State :=
  match s.pcie.cmd with
  | none => s
  | some c => if c.op = 0x0020 then unitOf ((c.arg 4 4 + 63) / 64) c s else respond 0 [] s

/-- The record being programmed has one more word behind it: journal words, the commit mark, the copied words, the retirement. -/
def nvsWord (r : JRec) (rest : List JRec) (s : State) : State :=
  let n := nvsWords r.bytes
  let k := r.done + 1
  let s := if n + 1 < k ∧ k ≤ 2 * n + 1 then
      let j := k - (n + 2)
      nvsPut (r.tgt + 8 * j) ((r.bytes.drop (8 * j)).take 8) s
    else s
  if 2 * n + 2 ≤ k then
    let s := retired r (showNvs { s with hoop := { s.hoop with recs := rest } })
    if r.cmd then cmdRecDone s else s
  else { s with hoop := { s.hoop with recs := { r with done := k } :: rest } }

/-- The store of a soft repair has failed (R458): NVS_MAP, with an NVS error that is open (log entry 31). -/
def repairLost (r : JRec) (s : State) : State :=
  match (if 0x38000 ≤ r.tgt ∧ r.tgt < 0x3C000 then s.repairs.find? (fun x => decide (x.idx = (r.tgt - 0x38000) / 8)) else none) with
  | some x => errRec 6 0x26 1 x.kind (x.page + 256 * ((Config.freeValue s.free).toNat % 16)) x.line (useFree s)
  | none => s

/-- A word that fails to program (R501, R507): its record is given up. A word of the journal has an open offset (log entry 31). -/
def nvsFail (r : JRec) (rest : List JRec) (s : State) : State :=
  let n := nvsWords r.bytes
  let a := if n + 1 ≤ r.done ∧ r.done ≤ 2 * n then r.tgt + 8 * (r.done - (n + 1)) else (Config.freeValue s.free).toNat
  let s := repairLost r (errRec 3 0x20 2 0 0 a (irqBit 3 0 (useFree s)))
  let s := showNvs { s with hoop := { s.hoop with recs := rest } }
  if r.cmd then respond 8 [] s else s

end Sys2Proof.Machine
end

