-- ==== Sys2Proof/Machine/Hoop.lean ====
section
/-!
DEFINITION. Meanings of the commands of 21_hoop and of the Hoop commands of 23_faults_and_debug.
-/
namespace Sys2Proof.Machine

/-- A safe point (R496, R497): `spacing` in mc since the last one, and what Hoop reads from host memory and flash there. -/
def execHoopSafePoint (spacing : Nat) (buf mit : Option (List Byte)) (auto : Option (Nat × List Byte)) (s : State) : Res1 :=
  .next (safePoint spacing buf mit auto s)

/-- A Hoop machine check at a word address (R495). -/
def execHoopMc (a : Nat) (s : State) : Res1 :=
  .next (hoopCheck a s)

/-- The Hoop watchdog trips (R530): 65,536 mc have passed without a safe point. -/
def execHoopWdt (s : State) : Res1 :=
  .next (if hoopUp s && decide (s.hoop.spAt + 40 * 65536 ≤ s.mck) then errRec 0 0x27 3 0 (Config.hoopFetch s.free).toNat 0 (useFree s) else s)

/-- ECHO (R500). -/
def execEcho (s : State) : Res1 := .next (runCmd 0x0001 (fun c s => respond 0 c.payload s) s)

/-- INFO (R500; widths in log entry 40). -/
def execInfo (s : State) : Res1 :=
  .next (runCmd 0x0002 (fun _ s => respond 0 (toBytes (getF s 2 HOOP.FW_VER) 4 ++ uidBytes
    ++ toBytes (ofBool (decide (s.variant = .mq128))) 1 ++ toBytes (getF s 0 GLB.HEALTH_STATE) 1) s) s)

/-- MEM_FILL (R372, R500). -/
def execMemFill (s : State) : Res1 := .next (runCmd 0x0010 memFill s)

/-- BULK_LOAD (R136, R500). -/
def execBulkLoad (img : Option (List Byte)) (s : State) : Res1 := .next (runCmd 0x0011 (bulkLoad img) s)

/-- IMAGE_LOAD (R494, R500). -/
def execImageLoad (img : Option (List Byte)) (s : State) : Res1 := .next (runCmd 0x0012 (imageLoad img) s)

/-- NVS_WRITE (R500, R503). -/
def execNvsWrite (s : State) : Res1 := .next (runCmd 0x0020 nvsWrite s)

/-- PROFILE_SET (R500, R505). -/
def execProfileSet (s : State) : Res1 := .next (runCmd 0x0021 profileSet s)

/-- FLASH_READ (R500). -/
def execFlashRead (ok : Bool) (s : State) : Res1 := .next (runCmd 0x0030 (flashRead ok) s)

/-- FLASH_WRITE (R500). -/
def execFlashWrite (ok : Bool) (s : State) : Res1 := .next (runCmd 0x0031 (flashWrite ok) s)

/-- TILE_MAP (R534, R535). -/
def execTileMap (s : State) : Res1 := .next (runCmd 0x0040 tileMap s)

/-- WARM_START (R500, R510, R525): OK is written, then the warm start begins. -/
def execWarmStartCmd (s : State) : Res1 := .next (runCmd 0x0050 (fun _ s => requestStart 6 true (respond 0 [] s)) s)

/-- DEBUG_UNLOCK, SUBOP 1 (R543). -/
def execDebugUnlock1 (s : State) : Res1 := .next (debugCmd 1 unlock1 s)

/-- DEBUG_UNLOCK, SUBOP 2 (R543). -/
def execDebugChallenge (s : State) : Res1 := .next (debugCmd 2 challenge s)

/-- DEBUG_UNLOCK, SUBOP 3 (R543). -/
def execDebugUnlock2 (s : State) : Res1 := .next (debugCmd 3 unlock2 s)

/-- DEBUG_UNLOCK, SUBOP 4 (R543). -/
def execDebugSetPw (s : State) : Res1 := .next (debugCmd 4 setPw s)

/-- DEBUG_UNLOCK, SUBOP 5 (R543). -/
def execDebugRelock (s : State) : Res1 := .next (debugCmd 5 relock s)

/-- An NVS word finishes programming, or fails to (R503, R507). -/
def execNvsWordDone (ok : Bool) (s : State) : Res1 :=
  .next (match s.hoop.recs with
    | [] => s
    | r :: rest => if ok then nvsWord r rest s else nvsFail r rest s)

end Sys2Proof.Machine
end

