-- ==== Sys2Proof/Machine/Regs.lean ====
section
/-!
DEFINITION. Meanings of the commands on registers that every page has (03_register_conventions), and of a write of any other
register.
-/
namespace Sys2Proof.Machine

/-- A 32-bit read of page offset `o` of page `p` (R77, R79, R82, R522, R544): its side effects, and the word it returns. A page
that the requester does not reach, and one the part has not, read zero and record nothing; what no register occupies reads
zero and is recorded. -/
def busRead (who : Requester) (p o : Nat) (s : State) : State :=
  let zero := fun s : State => { s with lastRead := 0#64 }
  if !reaches s who p || ((pageKind p).isSome && !pagePresent s p) then zero s
  else match pageKind p with
    | none => zero (errRec 0 0x01 0 0 0 (p * 0x1000 + o) s)
    | some k =>
      if !mapped k o then zero (errRec p 0x01 0 0 0 (p * 0x1000 + o) s)
      else
        let v := if k = .dbg ∧ o = DBG.BD_DATA.off then backdoorWord s else regView (readState p o s) who p o
        let s := if isSet s p HDR.STATUS_RST_BUSY && decide (0x40 ≤ o) then s else readEffect who p o s
        { s with lastRead := v.setWidth 64 }

/-- A read of `size` bytes at a BAR0 offset (R78): the two halves of a 64-bit read in turn, lower address first; the bytes that a
narrower read addresses, with the side effects of the full read. -/
def busReadSize (who : Requester) (off size : Nat) (s : State) : State :=
  let s1 := busRead who (off / 0x1000) (off % 0x1000 / 4 * 4) s
  if size = 8 then
    let s2 := busRead who (off / 0x1000) (off % 0x1000 + 4) s1
    { s2 with lastRead := BitVec.ofNat 64 (s1.lastRead.toNat + 2 ^ 32 * s2.lastRead.toNat) }
  else { s1 with lastRead := BitVec.ofNat 64 (s1.lastRead.toNat / 2 ^ (8 * (off % 4)) % 2 ^ (8 * size)) }

/-- Whether an access of `size` bytes at a BAR0 offset is one of this part: inside the window and aligned (R76, R78). -/
def barOk (off size : Nat) : Bool :=
  decide (off < 2 ^ 24) && decide (size = 1 ∨ size = 2 ∨ size = 4 ∨ size = 8) && decide (off % size = 0)

/-- An access to a register (R77, R78, R86): `off` the BAR0 offset. A write with `be` the byte enables of a 32-bit access and `hi` the
upper half of a 64-bit access, which the page performs as a second one; or a read. An access outside the window, or one that
is not aligned, is none of this part. -/
def execRegWrite (who : Requester) (off : Nat) (data : Word) (be : Nat) (acc : BusAcc) (s : State) : Res1 :=
  match acc with
  | .write hi =>
    if barOk off (if hi.isSome then 8 else 4) then
      let s := busWrite who (off / 0x1000) (off % 0x1000) data be s
      .next (match hi with
        | some w => busWrite who (off / 0x1000) (off % 0x1000 + 4) w 15 s
        | none => s)
    else .fault .outsideWindow
  | .read size => if barOk off size then .next (busReadSize who off size s) else .fault .outsideWindow

/-- A write of SRST (R82). -/
def execSoftReset (who : Requester) (p : Nat) (s : State) : Res1 := .next (viaBus who p HDR.CTRL_SRST 0 1 (ownAct who p (softReset p)) s)

/-- The 16 mc of a soft reset have passed (R82). -/
def execSoftResetEnd (p : Nat) (s : State) : Res1 :=
  .next (match smFind p s.softRst with
    | some t => if t ≤ s.mck then softResetEnd p s else s
    | none => s)

/-- A write of 1 to FREEZE (R83). -/
def execFreezeSet (who : Requester) (p : Nat) (s : State) : Res1 := .next (viaBus who p HDR.CTRL_FREEZE 0 1 (ownAct who p (freezeSet p)) s)

/-- A write of 0 to FREEZE (R83). -/
def execFreezeClear (who : Requester) (p : Nat) (s : State) : Res1 := .next (viaBus who p HDR.CTRL_FREEZE 0 0 (ownAct who p (freezeClear p)) s)

/-- A write of 0 to EN (R83). -/
def execBlockDisable (who : Requester) (p : Nat) (s : State) : Res1 := .next (viaBus who p HDR.CTRL_EN 0 0 (ownAct who p (blockDisable p)) s)

/-- A write of IRQ_FORCE (R85). -/
def execIrqForce (who : Requester) (p : Nat) (mask : Word) (s : State) : Res1 := .next (busGate who p 0x01C (irqForce p mask) s)

/-- A write of ERR_HEAD (R95). -/
def execErrPop (who : Requester) (p : Nat) (s : State) : Res1 := .next (busGate who p 0x020 (errPop p) s)

/-- A write of OWNER (R91). -/
def execOwnerWrite (who : Requester) (p v : Nat) (s : State) : Res1 := .next (busGate who p 0x038 (ownerWrite who p v) s)

/-- A write of LOCK (R89). -/
def execLockSet (who : Requester) (p : Nat) (cfg all : Bool) (s : State) : Res1 :=
  .next (busGate who p 0x034 (lockWrite who p cfg all) s)

/-! ### Registers whose read has a command of its own -/

/-- A read of QUEUE (R14, R139): it returns DEPTH and HWM, and clears HWM. -/
def execQueueHwmRead (b : Nat) (s : State) : Res1 := .next (busRead .host (tilePage b) TMB.QUEUE_HWM.off s)

/-- A read of TIME_LO (R64, R79): TIME as sampled at the page's mc; the read captures the upper half for its reader, and a 64-bit
read returns it. -/
def execTimeLoRead (who : Requester) (wide : Bool) (s : State) : Res1 :=
  .next (busReadSize who (0x1000 + CLK.TIME_LO.off) (if wide then 8 else 4) s)

/-- A read of SHOT_LO (R152): the shot number in force, its upper part captured for the reader. -/
def execShotLoRead (who : Requester) (b : Nat) (s : State) : Res1 := .next (busRead who (tilePage b) TMB.SHOT_LO.off s)

/-- A read of ACC_CNT (R242, R245). -/
def execAccCntRead (who : Requester) (b : Nat) (s : State) : Res1 := .next (busRead who (tilePage b) RDO.ACC_CNT.off s)

/-- A read of histogram bin `n` (R243, R245). -/
def execHistRead (who : Requester) (b n : Nat) (s : State) : Res1 := .next (busRead who (tilePage b) (RDO.HIST.off + 4 * (n % 4)) s)

/-- A read of ENERGY_LO (R444): it captures the upper half for its reader. -/
def execEnergyLoRead (who : Requester) (s : State) : Res1 := .next (busRead who pThm THM.ENERGY_LO.off s)

/-- A read of RES[i] (R434): it clears FRESH. -/
def execResFreshRead (who : Requester) (i : Nat) (s : State) : Res1 := .next (busRead who pHkp (HKP.RES.off + 0x10 * i) s)

/-- A read of BD_DATA (R522, R544). -/
def execBackdoorRead (s : State) : Res1 := .next (busRead .host 0xE DBG.BD_DATA.off s)

end Sys2Proof.Machine
end

