-- ==== Sys2Proof/Machine/Start.lean ====
section
/-!
DEFINITION. Meanings of the commands of 22_start_and_reset: power, RESET_N, requests, and the start sequence.
-/
namespace Sys2Proof.Machine

/-- VDD_AON crosses its threshold (R509): every state is lost but the NVS, the boot flash and what the NVS keeps, and power-on
reset is held. -/
def execPowerOnReset (s : State) : Res1 :=
  let n := applyReset 0 false { s with boot := { por := some 0 } }
  let wp := getF s 3 NVS.LOG_WP
  let dbg := rdWord n (DBG.DBG_STAT.addr 0xE 0)
  let n := { n with regs := [], held := [], time := 0#64, dbgAcc := { n.dbgAcc with waitEnd := 0, ir := .idcode } }
  let n := wrWord (DBG.DBG_STAT.addr 0xE 0) dbg (putF 3 NVS.LOG_WP wp 0 n)
  .next { n with boot := { por := some 0 } }

/-- The watched rails have been good for 10 ms (R509, R513): the start goes on with step 2, unless RESET_N holds it. -/
def execPorRelease (s : State) : Res1 :=
  .next (match s.boot.por with
    | none => s
    | some _ =>
      let s := { s with boot := { s.boot with por := none, startedAt := s.up - 10000000 } }
      if alive s then nextStep 1 s else s)

/-- A watched rail falls while VDD_AON holds (R509): reset at once, and a cold start follows. -/
def execBrownOut (s : State) : Res1 :=
  .next (if s.boot.por.isSome then s
    else
      let s := applyReset 1 false s
      { s with boot := { s.boot with por := some 1, trip := false, retry := false } })

/-- RESET_N has stayed low for 1 µs (R511). -/
def execResetNAssert (s : State) : Res1 :=
  .next (if s.boot.rstLow then s
    else
      let s := if s.boot.por.isSome then s else requestStart 4 true s
      { s with boot := { s.boot with rstLow := true } })

/-- RESET_N rises (R511): the start begins. -/
def execResetNRelease (s : State) : Res1 :=
  .next { s with boot := { s.boot with rstLow := false, startedAt := if s.boot.rstLow then s.up else s.boot.startedAt } }

/-- A write of RST_CTL with WARM (R510). -/
def execRstWarm (who : Requester) (key : Nat) (s : State) : Res1 :=
  .next (busGate who 0 GLB.RST_CTL.off (rstCtlWrite who (BitVec.ofNat 32 (key % 65536 * 65536 + 1))) s)

/-- A write of RST_CTL with COLD (R510). -/
def execRstCold (who : Requester) (key : Nat) (s : State) : Res1 :=
  .next (busGate who 0 GLB.RST_CTL.off (rstCtlWrite who (BitVec.ofNat 32 (key % 65536 * 65536 + 2))) s)

/-- The ramps of a requested start are complete: reset is applied (R512). After a trip of the MQ-256A everything but the always-on
domain, the NVS domain and the Sampler stays in reset, and the link drops (R441). -/
def execResetApply (s : State) : Res1 :=
  match s.boot.req with
  | none => .next s
  | some (cause, warm) =>
    if ramping s then .next s
    else
      let n := applyReset cause warm s
      .next (if s.boot.trip then
          let n := resetRegs (fun a => decide (pageOf a = 0xD)) (fun _ => 0#32) { n with msix := { sent := n.msix.sent } }
          wrWord (THM.TEMP_MAX.addr 5 0) (rdWord s (THM.TEMP_MAX.addr 5 0)) n
        else n)

/-- The step in progress completes its work (R513). `rows` are lines of rows that fail the BIST, `fw` the firmware slots, `cal` and
`coef` what the foreground calibration found by tile bit. -/
def execStartStepDone (rows : List Nat) (fw : List FwSlot) (cal : List (Nat × List Int)) (coef : List (Nat × List Byte))
    (s : State) : Res1 :=
  .next (if starting s then stepDone rows fw cal coef s else s)

/-- The limit of a step of the start, in ns (R513). -/
def stepLimit (k : Nat) : Nat :=
  1000000 * (match k with | 2 => 1 | 3 => 10 | 4 => 20 | 5 => 200 | 6 => 20 | 7 => 500 | 8 => 2000 | 9 => 1000 | 10 => 5 | _ => 50)

/-- The step in progress has passed its limit. -/
def stepOver (s : State) : Bool := decide (s.boot.stepAt + stepLimit (startStep s) ≤ s.up)

/-- The step in progress passes its limit, or fails its check (R514): the start fails, but at steps 10 and 11, which have no check,
the limit ends the step. -/
def execStartStepTimeout (check : Bool) (s : State) : Res1 :=
  let k := startStep s
  .next (if !starting s || decide (k < 2) || decide (11 < k) || !((check && decide (k < 10)) || stepOver s) then s
    else if k = 10 ∨ k = 11 then nextStep k s
    else startFail (if check then 2 else 1) s)

/-- 100 ms after a failed start (R523). -/
def execStartRetry (s : State) : Res1 :=
  .next (if s.boot.retry && alive s && decide (s.boot.dueAt ≤ s.up) then
      let s := applyReset 3 false s
      { s with boot := { s.boot with startedAt := s.up } }
    else s)

/-- The maximum has fallen below 90 °C after a trip (R441): the warm start goes on. -/
def execThermalRestart (s : State) : Res1 :=
  .next (if s.boot.trip && s.boot.req.isNone && decide (toSigned 16 (getF s pThm THM.TEMP_MAX_MAX) < 1440) then
      { s with boot := { s.boot with trip := false, startedAt := s.up } }
    else s)

/-- AW_DELAY has passed since the dump of the fatal path (R527). -/
def execAutoWarmStart (s : State) : Res1 :=
  .next (if s.boot.autoWarm && alive s && decide (s.boot.dueAt ≤ s.up) then requestStart 8 true s else s)

/-- TRST_N is asserted (R510): the test access port alone is reset, and the boundary cells no longer drive the pins. -/
def execTrstNAssert (s : State) : Res1 :=
  .next { s with dbgAcc := { s.dbgAcc with ir := .idcode }, boot := { s.boot with extest := false } }

end Sys2Proof.Machine
end

