-- ==== Sys2Proof/Machine/Tulle.lean ====
section
/-!
DEFINITION. The commands of 10_tulle_feedback: the delivery of a decision (R267, R268, R276, R284, R286) and the withdrawal
of a route (R263, R276).
-/
namespace Sys2Proof.Machine

/-- The publication of a slot that is to be delivered now: the first accepted one whose delivery fc has come (R267). -/
def duePub (s : State) (slot : Nat) : Option Pub := s.pubs.find? (fun b => decide (b.slot = slot) && decide (b.due ≤ now s))

/-- A delivery to the subscribers of a slot on the device (R267): every key in force on any tile that is present, every
Darner input that subscribes, and every port of the EXPORT mask. -/
def deliver (b : Pub) (s : State) : State :=
  let s := noteDelivery b s
  let s := forAll (tileBits s) (fun t s => forAll (keysOf s t b.slot) (fun k s => deliverKey t k b.due b.dec s) s) s
  let s := forAll (inputsOf s b.slot) (fun i s => darnerInput i b.due b.dec s) s
  forAll ((List.range 8).filter (fun n => bit (getF s pTul TUL.SLOT_RT_EXPORT b.slot) n = 1))
    (fun n s => egress n b.slot b.due b.dec s) s

/-- Whether a delivery has its turn: deliveries go by fc and within an fc by slot (R284, R315). -/
def delivTurn (s : State) (b : Pub) : Bool :=
  !s.pubs.any (fun e => decide (e.due < b.due) || (decide (e.due = b.due) && decide (e.slot < b.slot)))

/-- A decision delivered in fc p + 3 (R267). A lost slot, and Tulle while disabled or frozen, deliver nothing (R276,
R286). -/
def execDecisionDelivery (slot : Nat) (s : State) : Res1 :=
  match duePub s slot with
  | none => .next s
  | some b =>
    if !delivTurn s b then .next s else
    let s := { s with pubs := s.pubs.erase b }
    .next (if tulOn s && !slotLost s slot then deliver b s else s)

/-- Hoop firmware withdraws the route of a slot (R263, R276). -/
def execRouteWithdraw (slot : Nat) (s : State) : Res1 := .next (if slot < 512 then withdrawSlot slot s else s)

end Sys2Proof.Machine
end

