-- ==== Sys2Proof/Machine/Dispatch.lean ====
section
/-!
DEFINITION. The dispatch: one arm per command, a direct call of its meaning.
-/
namespace Sys2Proof.Machine

def exec (i : Instr) (s : State) : Host.Outcome State Fault Refusal :=
  match i with
  | .refOkQualify => Sys2Proof.Machine.execRefOkQualify s
  | .refclkFault => Sys2Proof.Machine.execRefclkFault s
  | .pllLock => Sys2Proof.Machine.execPllLock s
  | .lossOfLock => Sys2Proof.Machine.execLossOfLock s
  | .holdoverRampDone => Sys2Proof.Machine.execHoldoverRampDone s
  | .pllRelock who => Sys2Proof.Machine.execPllRelock who s
  | .syncEdge src first => Sys2Proof.Machine.execSyncEdge src first s
  | .softSync who => Sys2Proof.Machine.execSoftSync who s
  | .syncArm who => Sys2Proof.Machine.execSyncArm who s
  | .epoch => Sys2Proof.Machine.execEpoch s
  | .timeLoRead who wide => Sys2Proof.Machine.execTimeLoRead who wide s
  | .regWrite who off data be acc => Sys2Proof.Machine.execRegWrite who off data be acc s
  | .msixUnmask v => Sys2Proof.Machine.execMsixUnmask v s
  | .softReset who p => Sys2Proof.Machine.execSoftReset who p s
  | .softResetEnd p => Sys2Proof.Machine.execSoftResetEnd p s
  | .freezeSet who p => Sys2Proof.Machine.execFreezeSet who p s
  | .freezeClear who p => Sys2Proof.Machine.execFreezeClear who p s
  | .blockDisable who p => Sys2Proof.Machine.execBlockDisable who p s
  | .irqForce who p mask => Sys2Proof.Machine.execIrqForce who p mask s
  | .errPop who p => Sys2Proof.Machine.execErrPop who p s
  | .ownerWrite who p v => Sys2Proof.Machine.execOwnerWrite who p v s
  | .lockSet who p cfg all => Sys2Proof.Machine.execLockSet who p cfg all s
  | .tmbGo who b => Sys2Proof.Machine.execTmbGo who b s
  | .tmbRunStart b => Sys2Proof.Machine.execTmbRunStart b s
  | .tmbStop who b => Sys2Proof.Machine.execTmbStop who b s
  | .tmbAbort who b => Sys2Proof.Machine.execTmbAbort who b s
  | .tileStopping b => Sys2Proof.Machine.execTileStopping b s
  | .stopRampDone b => Sys2Proof.Machine.execStopRampDone b s
  | .wordIssue b => Sys2Proof.Machine.execWordIssue b s
  | .wordRelease b => Sys2Proof.Machine.execWordRelease b s
  | .shotBoundary b => Sys2Proof.Machine.execShotBoundary b s
  | .declaredGap b => Sys2Proof.Machine.execDeclaredGap b s
  | .pulseStart b second => Sys2Proof.Machine.execPulseStart b second s
  | .frameAdd b => Sys2Proof.Machine.execFrameAdd b s
  | .frameSet b => Sys2Proof.Machine.execFrameSet b s
  | .frameCadd b => Sys2Proof.Machine.execFrameCadd b s
  | .loopLoad b => Sys2Proof.Machine.execLoopLoad b s
  | .loopDec b => Sys2Proof.Machine.execLoopDec b s
  | .loopReload b => Sys2Proof.Machine.execLoopReload b s
  | .branch b => Sys2Proof.Machine.execBranch b s
  | .stopWord b => Sys2Proof.Machine.execStopWord b s
  | .tulleArm b => Sys2Proof.Machine.execTulleArm b s
  | .fapply b => Sys2Proof.Machine.execFapply b s
  | .freset b => Sys2Proof.Machine.execFreset b s
  | .flipx b => Sys2Proof.Machine.execFlipx b s
  | .flipz b => Sys2Proof.Machine.execFlipz b s
  | .tulleWait b => Sys2Proof.Machine.execTulleWait b s
  | .picotMark b => Sys2Proof.Machine.execPicotMark b s
  | .keyDeadline b => Sys2Proof.Machine.execKeyDeadline b s
  | .undrLostEval b => Sys2Proof.Machine.execUndrLostEval b s
  | .strmFillWrite who b k v => Sys2Proof.Machine.execStrmFillWrite who b k v s
  | .strmCfgWrite who b k w => Sys2Proof.Machine.execStrmCfgWrite who b k w s
  | .streamUnitFetch b => Sys2Proof.Machine.execStreamUnitFetch b s
  | .acq b => Sys2Proof.Machine.execAcq b s
  | .windowOpen b t => Sys2Proof.Machine.execWindowOpen b t s
  | .windowClose b t codes => Sys2Proof.Machine.execWindowClose b t codes s
  | .unmix b t => Sys2Proof.Machine.execUnmix b t s
  | .discrimination b t => Sys2Proof.Machine.execDiscrimination b t s
  | .resRpWrite who b v => Sys2Proof.Machine.execResRpWrite who b v s
  | .accCntRead who b => Sys2Proof.Machine.execAccCntRead who b s
  | .histRead who b n => Sys2Proof.Machine.execHistRead who b n s
  | .statClrAll who b => Sys2Proof.Machine.execStatClrAll who b s
  | .chanCoefRecompute b bs => Sys2Proof.Machine.execChanCoefRecompute b bs s
  | .unmixCfgWrite who b w => Sys2Proof.Machine.execUnmixCfgWrite who b w s
  | .unmixLoadComplete b => Sys2Proof.Machine.execUnmixLoadComplete b s
  | .outCfgWrite who b k w => Sys2Proof.Machine.execOutCfgWrite who b k w s
  | .corrLoadComplete b k => Sys2Proof.Machine.execCorrLoadComplete b k s
  | .outShort b k => Sys2Proof.Machine.execOutShort b k s
  | .decisionDelivery slot => Sys2Proof.Machine.execDecisionDelivery slot s
  | .routeWithdraw slot => Sys2Proof.Machine.execRouteWithdraw slot s
  | .roundTimeout p => Sys2Proof.Machine.execRoundTimeout p s
  | .darnerPublish p => Sys2Proof.Machine.execDarnerPublish p s
  | .patchClr who p => Sys2Proof.Machine.execPatchClr who p s
  | .escPop who => Sys2Proof.Machine.execEscPop who s
  | .portTrain who n en => Sys2Proof.Machine.execPortTrain who n en s
  | .laneBlockLock n lane => Sys2Proof.Machine.execLaneBlockLock n lane s
  | .jodexLossOfLock n lanes cause => Sys2Proof.Machine.execJodexLossOfLock n lanes cause s
  | .trainBlockRx n lane blk inv main fb at_ ppm => Sys2Proof.Machine.execTrainBlockRx n lane blk inv main fb at_ ppm s
  | .modeTimeout n => Sys2Proof.Machine.execModeTimeout n s
  | .frameMarkerRx n lane fb peer seq credit arr skew hdrs => Sys2Proof.Machine.execFrameMarkerRx n lane fb peer seq credit arr skew hdrs s
  | .decisionBlockRx n lane hdr pay => Sys2Proof.Machine.execDecisionBlockRx n lane hdr pay s
  | .decisionRelease n => Sys2Proof.Machine.execDecisionRelease n s
  | .unknownBlockRx blk => Sys2Proof.Machine.execUnknownBlockRx blk s
  | .portActivate who n => Sys2Proof.Machine.execPortActivate who n s
  | .trainTimeout n measure => Sys2Proof.Machine.execTrainTimeout n measure s
  | .trainBackoff n => Sys2Proof.Machine.execTrainBackoff n s
  | .loopStampRx n id dep arr => Sys2Proof.Machine.execLoopStampRx n id dep arr s
  | .loopReportRx n val => Sys2Proof.Machine.execLoopReportRx n val s
  | .loopStampSend n id => Sys2Proof.Machine.execLoopStampSend n id s
  | .timeBlockRx n val => Sys2Proof.Machine.execTimeBlockRx n val s
  | .mgmtFragmentRx n som eom chan bytes => Sys2Proof.Machine.execMgmtFragmentRx n som eom chan bytes s
  | .fillerRx n drift => Sys2Proof.Machine.execFillerRx n drift s
  | .idleEnterReq who n => Sys2Proof.Machine.execIdleEnterReq who n s
  | .idleEnterRx n => Sys2Proof.Machine.execIdleEnterRx n s
  | .idleExit who n => Sys2Proof.Machine.execIdleExit who n s
  | .marginLow n lane m => Sys2Proof.Machine.execMarginLow n lane m s
  | .helloSend => Sys2Proof.Machine.execHelloSend s
  | .helloRx n => Sys2Proof.Machine.execHelloRx n s
  | .lsaFlood => Sys2Proof.Machine.execLsaFlood s
  | .lsaRx n => Sys2Proof.Machine.execLsaRx n s
  | .topoAgeOut uid => Sys2Proof.Machine.execTopoAgeOut uid s
  | .numAssign => Sys2Proof.Machine.execNumAssign s
  | .rqReserve who ndetOk auto => Sys2Proof.Machine.execRqReserve who ndetOk auto s
  | .rqRelease who => Sys2Proof.Machine.execRqRelease who s
  | .reserveRx n => Sys2Proof.Machine.execReserveRx n s
  | .resAckRx n => Sys2Proof.Machine.execResAckRx n s
  | .resNakRx n => Sys2Proof.Machine.execResNakRx n s
  | .commitRx n => Sys2Proof.Machine.execCommitRx n s
  | .releaseRx n => Sys2Proof.Machine.execReleaseRx n s
  | .withdrawRx n => Sys2Proof.Machine.execWithdrawRx n s
  | .reserveTimeout key => Sys2Proof.Machine.execReserveTimeout key s
  | .tentativeExpire route => Sys2Proof.Machine.execTentativeExpire route s
  | .skewReportRx n => Sys2Proof.Machine.execSkewReportRx n s
  | .cstLeave who => Sys2Proof.Machine.execCstLeave who s
  | .pcieReset cause => Sys2Proof.Machine.execPcieReset cause s
  | .poisonRx bar off => Sys2Proof.Machine.execPoisonRx bar off s
  | .bar2Read a n => Sys2Proof.Machine.execBar2Read a n s
  | .bar2Write a bs => Sys2Proof.Machine.execBar2Write a bs s
  | .chEnable who c => Sys2Proof.Machine.execChEnable who c s
  | .chDisable who c => Sys2Proof.Machine.execChDisable who c s
  | .chDrainDone c => Sys2Proof.Machine.execChDrainDone c s
  | .chReset who c => Sys2Proof.Machine.execChReset who c s
  | .chTailWrite who c v => Sys2Proof.Machine.execChTailWrite who c v s
  | .descriptor c bs => Sys2Proof.Machine.execDescriptor c bs s
  | .dmaTransferDone c data ok => Sys2Proof.Machine.execDmaTransferDone c data ok s
  | .chHposWrite who c v => Sys2Proof.Machine.execChHposWrite who c v s
  | .hostReadCompletion c data ok => Sys2Proof.Machine.execHostReadCompletion c data ok s
  | .uploadBurst c => Sys2Proof.Machine.execUploadBurst c s
  | .chIrqHoldoff c => Sys2Proof.Machine.execChIrqHoldoff c s
  | .mitLoad who count => Sys2Proof.Machine.execMitLoad who count s
  | .mbxDoorbell who seq => Sys2Proof.Machine.execMbxDoorbell who seq s
  | .smbHealthRead => Sys2Proof.Machine.execSmbHealthRead s
  | .smbTempRead => Sys2Proof.Machine.execSmbTempRead s
  | .smbPowerRead => Sys2Proof.Machine.execSmbPowerRead s
  | .smbEnergyRead => Sys2Proof.Machine.execSmbEnergyRead s
  | .smbUidRead => Sys2Proof.Machine.execSmbUidRead s
  | .smbStatusRead => Sys2Proof.Machine.execSmbStatusRead s
  | .smbAlertClear v => Sys2Proof.Machine.execSmbAlertClear v s
  | .calReq who mask => Sys2Proof.Machine.execCalReq who mask s
  | .calStepDone b meas => Sys2Proof.Machine.execCalStepDone b meas s
  | .calStale b => Sys2Proof.Machine.execCalStale b s
  | .adcBlockDone b sums => Sys2Proof.Machine.execAdcBlockDone b sums s
  | .discProposal b t => Sys2Proof.Machine.execDiscProposal b t s
  | .skewEstimate => Sys2Proof.Machine.execSkewEstimate s
  | .calStoreReq who => Sys2Proof.Machine.execCalStoreReq who s
  | .calStoreDone ok err => Sys2Proof.Machine.execCalStoreDone ok err s
  | .tpWrite who k v => Sys2Proof.Machine.execTpWrite who k v s
  | .biasCodeWrite who n code => Sys2Proof.Machine.execBiasCodeWrite who n code s
  | .ldacEdge g => Sys2Proof.Machine.execLdacEdge g s
  | .biasStrobe who mask => Sys2Proof.Machine.execBiasStrobe who mask s
  | .biasRangeChange who n range => Sys2Proof.Machine.execBiasRangeChange who n range s
  | .bbmDone n => Sys2Proof.Machine.execBbmDone n s
  | .clrNAssert => Sys2Proof.Machine.execClrNAssert s
  | .clrNRelease => Sys2Proof.Machine.execClrNRelease s
  | .biasLimit n on => Sys2Proof.Machine.execBiasLimit n on s
  | .comparatorTrip n code other => Sys2Proof.Machine.execComparatorTrip n code other s
  | .comparatorArm n code other => Sys2Proof.Machine.execComparatorArm n code other s
  | .monPeriod => Sys2Proof.Machine.execMonPeriod s
  | .rampGo who n => Sys2Proof.Machine.execRampGo who n s
  | .rampCross n cross => Sys2Proof.Machine.execRampCross n cross s
  | .samplerRoundTimer => Sys2Proof.Machine.execSamplerRoundTimer s
  | .samplerRgo who => Sys2Proof.Machine.execSamplerRgo who s
  | .injGo who mask => Sys2Proof.Machine.execInjGo who mask s
  | .samplerConversionDone code => Sys2Proof.Machine.execSamplerConversionDone code s
  | .shdnClr who => Sys2Proof.Machine.execShdnClr who s
  | .mmRst who k => Sys2Proof.Machine.execMmRst who k s
  | .energyLoRead who => Sys2Proof.Machine.execEnergyLoRead who s
  | .telemetryTimer => Sys2Proof.Machine.execTelemetryTimer s
  | .lineRefetchDone a data good => Sys2Proof.Machine.execLineRefetchDone a data good s
  | .repairCopyDone a good => Sys2Proof.Machine.execRepairCopyDone a good s
  | .scrubRead page kind => Sys2Proof.Machine.execScrubRead page kind s
  | .bucketLeak page kind => Sys2Proof.Machine.execBucketLeak page kind s
  | .flipArm who => Sys2Proof.Machine.execFlipArm who s
  | .patGo who => Sys2Proof.Machine.execPatGo who s
  | .trigInEdge k => Sys2Proof.Machine.execTrigInEdge k s
  | .vectorFetch => Sys2Proof.Machine.execVectorFetch s
  | .vectorCompare levels => Sys2Proof.Machine.execVectorCompare levels s
  | .passEnd => Sys2Proof.Machine.execPassEnd s
  | .patJump who tgt => Sys2Proof.Machine.execPatJump who tgt s
  | .patStop who => Sys2Proof.Machine.execPatStop who s
  | .patAbort who => Sys2Proof.Machine.execPatAbort who s
  | .picotPulseEnd k => Sys2Proof.Machine.execPicotPulseEnd k s
  | .evmRegister trig => Sys2Proof.Machine.execEvmRegister trig s
  | .evmDeliver trig => Sys2Proof.Machine.execEvmDeliver trig s
  | .evmTimer t => Sys2Proof.Machine.execEvmTimer t s
  | .evmChCfgWrite who c w => Sys2Proof.Machine.execEvmChCfgWrite who c w s
  | .evmProtWrite who v => Sys2Proof.Machine.execEvmProtWrite who v s
  | .hoopSafePoint spacing buf mit auto => Sys2Proof.Machine.execHoopSafePoint spacing buf mit auto s
  | .hoopMc a => Sys2Proof.Machine.execHoopMc a s
  | .hoopWdt => Sys2Proof.Machine.execHoopWdt s
  | .echo => Sys2Proof.Machine.execEcho s
  | .info => Sys2Proof.Machine.execInfo s
  | .memFill => Sys2Proof.Machine.execMemFill s
  | .bulkLoad img => Sys2Proof.Machine.execBulkLoad img s
  | .imageLoad img => Sys2Proof.Machine.execImageLoad img s
  | .nvsWrite => Sys2Proof.Machine.execNvsWrite s
  | .profileSet => Sys2Proof.Machine.execProfileSet s
  | .flashRead ok => Sys2Proof.Machine.execFlashRead ok s
  | .flashWrite ok => Sys2Proof.Machine.execFlashWrite ok s
  | .tileMap => Sys2Proof.Machine.execTileMap s
  | .warmStartCmd => Sys2Proof.Machine.execWarmStartCmd s
  | .debugUnlock1 => Sys2Proof.Machine.execDebugUnlock1 s
  | .debugChallenge => Sys2Proof.Machine.execDebugChallenge s
  | .debugUnlock2 => Sys2Proof.Machine.execDebugUnlock2 s
  | .debugSetPw => Sys2Proof.Machine.execDebugSetPw s
  | .debugRelock => Sys2Proof.Machine.execDebugRelock s
  | .backdoorRead => Sys2Proof.Machine.execBackdoorRead s
  | .nvsWordDone ok => Sys2Proof.Machine.execNvsWordDone ok s
  | .powerOnReset => Sys2Proof.Machine.execPowerOnReset s
  | .porRelease => Sys2Proof.Machine.execPorRelease s
  | .brownOut => Sys2Proof.Machine.execBrownOut s
  | .resetNAssert => Sys2Proof.Machine.execResetNAssert s
  | .resetNRelease => Sys2Proof.Machine.execResetNRelease s
  | .rstWarm who key => Sys2Proof.Machine.execRstWarm who key s
  | .rstCold who key => Sys2Proof.Machine.execRstCold who key s
  | .resetApply => Sys2Proof.Machine.execResetApply s
  | .startStepDone rows fw cal coef => Sys2Proof.Machine.execStartStepDone rows fw cal coef s
  | .startStepTimeout check => Sys2Proof.Machine.execStartStepTimeout check s
  | .startRetry => Sys2Proof.Machine.execStartRetry s
  | .thermalRestart => Sys2Proof.Machine.execThermalRestart s
  | .autoWarmStart => Sys2Proof.Machine.execAutoWarmStart s
  | .fatalPath => Sys2Proof.Machine.execFatalPath s
  | .dumpWriteDone ok => Sys2Proof.Machine.execDumpWriteDone ok s
  | .scanDump => Sys2Proof.Machine.execScanDump s
  | .bypass => Sys2Proof.Machine.execBypass s
  | .idcode => Sys2Proof.Machine.execIdcode s
  | .samplePreload load n => Sys2Proof.Machine.execSamplePreload load n s
  | .extest l => Sys2Proof.Machine.execExtest l s
  | .extestPulse l => Sys2Proof.Machine.execExtestPulse l s
  | .extestTrain l => Sys2Proof.Machine.execExtestTrain l s
  | .linkUp width speed bme => Sys2Proof.Machine.execLinkUp width speed bme s
  | .liveClear n code other => Sys2Proof.Machine.execLiveClear n code other s
  | .adcOverrange fc => Sys2Proof.Machine.execAdcOverrange fc s
  | .blank b => Sys2Proof.Machine.execBlank b s
  | .shotLoRead who b => Sys2Proof.Machine.execShotLoRead who b s
  | .queueHwmRead b => Sys2Proof.Machine.execQueueHwmRead b s
  | .resFreshRead who k => Sys2Proof.Machine.execResFreshRead who k s
  | .completionTimeout refetch x => Sys2Proof.Machine.execCompletionTimeout refetch x s
  | .nonceExpire => Sys2Proof.Machine.execNonceExpire s
  | .trstNAssert => Sys2Proof.Machine.execTrstNAssert s

end Sys2Proof.Machine
end

