-- ==== Sys2Proof/Safety.lean ====
section
/-!
DEFINITION. What a safe run is: one whose steps all answer a next state; and the relations between the parts of the state that
every command keeps.
-/
namespace Sys2Proof

/-- `k` steps from a state all answer a next state. -/
def SafeRun : Nat → Machine.State → Prop
  | 0, _ => True
  | k + 1, s => ∃ t, Machine.step s = .next t ∧ SafeRun k t

namespace Machine

/-- The canonical form of the memory behind BAR2: rising addresses, and no byte listed that equals what an unlisted one
reads as. -/
def Memory.wf (m : SMap Byte) : Bool := smWf (fun _ => 0#8) m

/-- What holds between the parts of every state that a run reaches: the escalation queue has at most 64 records (R303), the
error FIFO of every page at most 4 (R95, R96), and the memory behind BAR2 and the register file are in canonical form. -/
structure State.Inv (s : State) : Prop where
  esc : s.esc.length ≤ 64
  errs : ∀ p, (pageErr s p).fifo.length ≤ 4
  mem : Memory.wf s.mem = true
  regs : smWf regReset s.regs = true

/-- A command that is no access to a BAR, or one that lies in its window and is aligned (R76, R78, R99). -/
def accessOk : Instr → Bool
  | .regWrite _ off _ _ (.write hi) => barOk off (if hi.isSome then 8 else 4)
  | .regWrite _ off _ _ (.read size) => barOk off size
  | .bar2Read a n => bar2Ok a n
  | .bar2Write a bs => bar2Ok a bs.length
  | _ => true

/-- Beside tiles, converters and pattern pins nothing has work in an fc: no port sends or ends a frame, no Darner round waits for its
tables and no patch for its clear, every result record is counted, no write of JUMP waits for its edge, and the conditions of R353
neither hold nor have held. -/
def lanesQuiet (s : State) : Bool :=
  s.ports.all (fun e => !e.2.tx.on && !e.2.tx.idleSent && decide (e.2.tx.burst = 0) && e.2.peerIdleAt.isNone)
    && s.patches.all (fun e => e.2.rounds.isEmpty && e.2.clrAt.isNone) && s.rdos.all (fun e => e.2.fresh.isEmpty)
    && s.pat.jreg.isEmpty && !slotReady s && s.cst.slotAt.isNone

/-- A page is present on the part, the device is READY, and no soft reset of the page is in progress (R4, R82, R522). -/
def pageUp (s : State) (p : Nat) : Bool :=
  pagePresent s p && isSet s 0 GLB.START_STAT_READY && !isSet s p HDR.STATUS_RST_BUSY

/-- A page is up, and no soft reset of it was in progress as the mc began for a requester's access (R79, R82). -/
def pageTakes (s : State) (who : Requester) (p : Nat) : Bool := pageUp s p && !seenSet s who p HDR.STATUS_RST_BUSY

/-- A page takes the writes of a requester: it is up for them, nobody else owns it, and LOCK protects nothing on it (R4, R79, R82,
R89, R90, R522). -/
def busOpen (s : State) (who : Requester) (p : Nat) : Bool :=
  pageTakes s who p
    && (decide (getF s p HDR.OWNER_OWN = 0) || decide (getF s p HDR.OWNER_OWN = reqCode who))
    && !isSet s p HDR.LOCK_LK_CFG && !isSet s p HDR.LOCK_LK_ALL

/-- Bit `n` of IRQ_STAT of a page. -/
def irqStat (s : State) (p n : Nat) : Bool := (rdWord s (HDR.IRQ_STAT.addr p 0)).getLsbD n

/-- `t` has the registers of `s` but for the named addresses. -/
def regsSame (but : List Nat) (s t : State) : Prop := ∀ a, a ∉ but → rdWord t a = rdWord s a

/-- `t` is `s` but for the register file with its waiting writes and what accesses of the mc at hand still see of it, the error records
and the interrupt messages. -/
def typedSame (s t : State) : Prop :=
  t = { s with regs := t.regs, held := t.held, was := t.was, errs := t.errs, fatal := t.fatal, msix := t.msix }

/-- The oldest message of a type that port `n` has received, where discovery runs and the message is for this device: sent to
the neighbour or to all, or to the NUM that the device holds (R347, R349). -/
def inbox (s : State) (n type : Nat) : Option (List Byte) :=
  if cstOn s then
    (((portOf s n).msgs.find? (fun m => decide (msgType m.2 = type))).map Prod.snd).filter (fun bs =>
      decide (msgDst bs = 0xFE) || decide (msgDst bs = 0xFF) || (joined s && decide (msgDst bs = ownNum s)))
  else none

/-- The mailbox command `c` has ended with a status (R382, R501): Hoop holds no command, the mailbox is free, and the registers of
both pages name the command. -/
def answered (c : Cmd) (status : Nat) (t : State) : Prop :=
  t.pcie.cmd = none ∧ isSet t 0xD PCI.MBX_STAT_BUSY = false ∧ getF t 0xD PCI.MBX_DONE = c.seq % 2 ^ 32
    ∧ getF t 2 HOOP.CMD_LAST_OPCODE = c.op % 2 ^ 16 ∧ getF t 2 HOOP.CMD_LAST_STATUS = status

/-- The bytes of a response in host memory (R382): SEQ, STATUS, the payload's length, the units completed, and the payload. -/
def responseBytes (c : Cmd) (status : Nat) (payload : List Byte) : List Byte :=
  toBytes c.seq 4 ++ toBytes status 2 ++ toBytes 0 2 ++ toBytes payload.length 4 ++ toBytes c.prog 4 ++ payload

/-- Hoop takes a step of the mailbox command with opcode `op` (R497): it runs, no urgent work is pending, and that command is the
one taken. -/
def hoopTurn (s : State) (op : Nat) : Bool :=
  hoopUp s && decide (s.hoop.urgent = []) && s.pcie.cmd.any (fun c => decide (c.op = op))

/-- `t` has the memory behind BAR2 of `s`, byte for byte. -/
def memSame (s t : State) : Prop := ∀ a, rdByte t a = rdByte s a

end Machine

end Sys2Proof
end

