-- ==== Sys2Proof/Certificates/Slice0/Obligations.lean ====
section
/-!
DEFINITION. The statements about this model for the provers. Each docstring says what is stated and of which rules.
-/
open Sys2Proof Sys2Proof.Machine

/-- A step runs the command at the front of the queue. For every command and every state, a step of a state with that
command at the front of its queue is exec of the command on the state with the rest of the queue. The queue is the
model's own; the step adds nothing else. (95_what_each_step_holds.md, 03_register_conventions.md) -/
def Obligations.StepRunsFrontCommand : Prop :=
  ∀ (c : Instr) (rest : List Instr) (s : State),
    step { s with pending := c :: rest } = exec c { s with pending := rest }

/-- A step with no command is one fabric cycle. With an empty queue the step answers a next state in which one fc has
passed. Without lock of the root PLL and outside a holdover nothing changes but the model's own clocks and the waits
of bias outputs that hang on them. With lock TIME counts by one (R63); in a holdover TIME stands while FCLK runs on
(R52, R53); the management clock runs at ten fortieths of a mc in a ns, and at one while it is on the backup (R49,
R52). In both, where no port sends, no Darner round reads its tables, no result record is waiting to be counted, no
write of JUMP waits for its edge and the conditions of R353 do not hold, the converters, the open windows and the
pattern pins do what they do in that fc: of a tile only its fetched units, baseband samples, codes, the samples at its
pins, outstanding fetches and the marks of saturation change, of a read-out tile the taps its windows have taken, of a
flux output only the state of its chain; no byte of memory changes, no write that waits for a boundary takes effect;
of the registers only the saturation counts and flags of tiles, the counts of Memory Integrity that a bad line moves
(R450), ERR_CNT and IRQ_STAT of these pages change. Where no tile is in RUN or ramping and no read-out tile has been
started, nothing changes but TIME, the clocks and the pins. Each pattern pin shows the DRV code of the vector in its
pin time, the reserved code taken as Z (R465, R466), and its idle state while the stream is frozen or no vector is in
its pin time (R476, R477); a code reaches the pin SKEW_TRIM after the fc (R467). That an empty queue lets a cycle pass
is the model's choice (log entry 2). (02_clocks_and_time.md, 06_drive_path.md, 09_flux_path.md, 19_pattern_port.md) -/
def Obligations.IdleStepIsOneCycle : Prop :=
  ∀ s : State, s.pending = [] →
    (isSet s 1 CLK.PLL_STAT_LOCK = false → s.pll.holdover = false → ∃ t, step s = .next t ∧ t.up = s.up + 1 ∧ t = { s with up := t.up, mck := t.mck, bias := t.bias })
    ∧ (isSet s 1 CLK.PLL_STAT_LOCK = true ∨ s.pll.holdover = true → ∃ t, step s = .next t ∧ t.time = (if isSet s 1 CLK.PLL_STAT_LOCK then s.time + 1 else s.time) ∧ t.up = s.up + 1)
    ∧ (∃ t, step s = .next t ∧ (isSet s 1 CLK.PLL_STAT_BACKUP = false → t.mck = s.mck + 10) ∧ (isSet s 1 CLK.PLL_STAT_BACKUP = true → t.mck = s.mck + 1))
    ∧ (isSet s 1 CLK.PLL_STAT_LOCK = true ∨ s.pll.holdover = true → lanesQuiet s = true → ∃ t, step s = .next t
      ∧ typedSame { s with time := t.time, up := t.up, mck := t.mck, bias := t.bias, pat := t.pat, tiles := t.tiles, rdos := t.rdos, flux := t.flux, lines := t.lines, lastBytes := t.lastBytes, lastAbort := t.lastAbort } t
      ∧ t.held = s.held ∧ t.fatal = s.fatal
      ∧ (∀ b, ∃ fs us bs cs n ps bz, tileOf t b = { tileOf s b with fetches := fs, units := us, bHist := bs, codes := cs, satShot := n, pins := ps, busy := bz })
      ∧ (∀ b, ∃ ms, rdoOf t b = { rdoOf s b with sets := ms })
      ∧ (∀ b k, ∃ lp h, fluxOf t b k = { fluxOf s b k with lp := lp, hist := h })
      ∧ (∃ vs d ps, t.pat = { s.pat with outs := vs, drv := d, pins := ps })
      ∧ t.pat.pins.getLast? = some (2000 * (fcNow s).toNat + 125 * getB s 1 CLK.SKEW_TRIM_TRIM, t.pat.drv)
      ∧ (∀ a, rdWord t a ≠ rdWord s a →
        (pageOf a = 6 ∧ (offOf a = HDR.IRQ_STAT.off ∨ offOf a = HDR.ERR_CNT.off ∨ offOf a = MIC.MEM_STAT.off ∨ offOf a = MIC.MEM_LOST.off))
        ∨ (0x10 ≤ pageOf a ∧ pageOf a < 0x30 ∧ (offOf a = HDR.IRQ_STAT.off ∨ offOf a = HDR.ERR_CNT.off
          ∨ (pageOf a < 0x20 ∧ (∃ d < 2, offOf a = DRV.DAC_SAT_CNT.off + 0x20 * d ∨ offOf a = DRV.DAC_STAT.off + 0x20 * d))
          ∨ (0x20 ≤ pageOf a ∧ pageOf a < 0x28 ∧ (offOf a = RDO.PDAC_SAT_CNT.off ∨ offOf a = RDO.PDAC_STAT.off))
          ∨ (0x28 ≤ pageOf a ∧ (∃ k < 16, offOf a = FLX.OUT_SAT_CNT.off + 4 * k ∨ offOf a = FLX.OUT_STAT.off + 0x10 * k)))))
      ∧ ((∀ b < 32, tilePlays s b = false) → (∀ b ∈ usedTiles s, isRdo b = false) →
        t = { s with time := t.time, up := t.up, mck := t.mck, bias := t.bias, pat := t.pat })
      ∧ (∀ n < 32, s.pat.frozen = none → ∀ v, ((s.pat.outs.filter (fun v => decide ((fcNow s).toNat < v.pin + patPer s))).filter (fun v => decide (v.pin ≤ (fcNow s).toNat))).getLast? = some v →
        mwBits t.pat.drv (2 * n) 2 = if mwBits v.data (4 * n) 2 = 3 then 0 else mwBits v.data (4 * n) 2)
      ∧ (∀ n < 32, (s.pat.frozen.isSome = true ∨ ∀ v ∈ s.pat.outs, ¬ (v.pin ≤ (fcNow s).toNat ∧ (fcNow s).toNat < v.pin + patPer s)) →
        let w := mwBits (getB s pPat PAT.PIN_IDLE (n / 16)) (2 * (n % 16)) 2
        mwBits t.pat.drv (2 * n) 2 = if w = 3 then 0 else w))

/-- The rotation of a pulse's samples and the Pauli frame. The tables hold 0, 1, 0 and -1 at the quarter turns, and the
tables' symmetries carry to the samples (R176). At no rotation the baseband sample is the envelope sample times AMP,
and a quarter turn of PHS multiplies it by j. The Z bit of the Bobbin negates the sample. The X bit, which conjugates
the envelope sample and negates the angle, conjugates the whole sample, where the frame phase is no tie of the
rounding to 2^-20 turn. CONJ and X together leave the envelope as it is and negate the angle alone. Samples at a limit
of Q2.16 are set apart, since its two limits differ in magnitude. (06_drive_path.md) -/
def Obligations.BasebandRotation : Prop :=
  (sinTab 0 = 0 ∧ cosTab 0 = 2 ^ 17 ∧ sinTab (2 ^ 18) = 2 ^ 17 ∧ cosTab (2 ^ 18) = 0 ∧ sinTab (2 ^ 19) = 0 ∧ cosTab (2 ^ 19) = -(2 ^ 17))
  ∧ (∀ p < 2 ^ 20, sinTab (p + 2 ^ 19) = -sinTab p ∧ cosTab (p + 2 ^ 19) = -cosTab p
    ∧ sinTab (2 ^ 20 - p) = -sinTab p ∧ cosTab (2 ^ 20 - p) = cosTab p)
  ∧ (∀ (ch : Chan) (e : Cplx), ch.f = 0 → ch.conj = false → ch.x = false → ch.z = false →
    (ch.phs = 0 → baseband ch e = { re := satQ216 (roundDiv (ch.amp * e.re) (2 ^ 8)), im := satQ216 (roundDiv (ch.amp * e.im) (2 ^ 8)) })
    ∧ (ch.phs = 0x400 → baseband ch e = { re := satQ216 (roundDiv (-(ch.amp * e.im)) (2 ^ 8)), im := satQ216 (roundDiv (ch.amp * e.re) (2 ^ 8)) }))
  ∧ (∀ (ch : Chan) (e : Cplx), (let b := baseband ch e; -(2 ^ 17) < b.re ∧ b.re < 2 ^ 17 - 1 ∧ -(2 ^ 17) < b.im ∧ b.im < 2 ^ 17 - 1) →
    baseband { ch with z := !ch.z } e = { re := -(baseband ch e).re, im := -(baseband ch e).im }
    ∧ (ch.f % 2 ^ 12 ≠ 2 ^ 11 →
      baseband { ch with x := !ch.x } e = { re := (baseband ch e).re, im := -(baseband ch e).im }))
  ∧ (∀ (ch : Chan) (e : Cplx), ch.conj = true → ch.x = true →
    baseband ch e = baseband { ch with conj := false, x := false, f := (2 ^ 32 - ch.f % 2 ^ 32) % 2 ^ 32, phs := (4096 - ch.phs % 4096) % 4096 } e)

/-- Units, DAC codes, the correction chain and flux codes. A non-stream unit is what its 16 bytes hold when it is fetched,
zero beyond the end of the envelope memory, and the fetch moves on by one unit (R112, R164). A DAC gives sixteen codes
within -8,192 to 8,191 in every fc (R181); while it is blanked they are 0 and nothing else happens (R183); one whose
sum falls outside counts the fc, sets SAT and its interrupt bit and marks the shot, and a DAC with none outside
changes no register (R182). The correction chain is stable for every coefficient value: low-pass states in Q4.40 and
outputs in Q4.24 stay there (R250, R251); a settled chain with the identity FIR passes its input unchanged, for every
section has gain 1 at DC (R251); without CORR_EN the output is the input, and the sections track it (R250). The code
of an enabled output never departs from OFFS by more than LIM where the code range allows it, and a disabled one gives
OFFS (R255). (06_drive_path.md, 07_readout_capture.md, 09_flux_path.md, 04_tambour_microword.md) -/
def Obligations.ConverterSamples : Prop :=
  (∀ (s : State) (b : Nat) (r : FetchRun), b < 32 → r ∈ (tileOf s b).fetches → lineBad s (aperture b + 0x100000 + 16 * r.src) = false →
    (tileOf (envFetch b r s) b).units = (tileOf s b).units ++ [{ chan := r.chan, pt := r.pt, t := r.t, data := if r.src < envUnits b then rdBytes s (aperture b + 0x100000 + 16 * r.src) 16 else 0 }]
    ∧ (2 ≤ r.left →
      { r with t := r.t + 4, left := r.left - 1, src := if r.stream then r.src else r.src + 1 } ∈ (tileOf (envFetch b r s) b).fetches))
  ∧ (∀ (s : State) (b d n : Nat), (b < 16 ∧ d < 2) ∨ (16 ≤ b ∧ b < 24 ∧ d = 0) →
    let t := dacCycle b n d s
    let cnt := if isDrv b then DRV.DAC_SAT_CNT else RDO.PDAC_SAT_CNT
    let sat := if isDrv b then DRV.DAC_STAT_SAT else RDO.PDAC_STAT_SAT
    ((smGet [] d (tileOf t b).codes).length = 16 ∧ (∀ c ∈ smGet [] d (tileOf t b).codes, -8192 ≤ c ∧ c ≤ 8191))
    ∧ (dacBlank s b d = true → smGet [] d (tileOf t b).codes = List.replicate 16 0 ∧ t = setTile b (tileOf t b) s)
    ∧ (dacBlank s b d = false → (∃ k < 16, dacSum s b d n k < -8192 ∨ 8191 < dacSum s b d n k) →
      getF t (tilePage b) cnt d = min (getF s (tilePage b) cnt d + 1) (2 ^ 32 - 1) ∧ isSet t (tilePage b) sat d = true
      ∧ irqStat t (tilePage b) (8 + d) = true ∧ bit (tileOf t b).satShot d = 1)
    ∧ ((∀ k < 16, -8192 ≤ dacSum s b d n k ∧ dacSum s b d n k ≤ 8191) → regsSame [] s t ∧ t = setTile b (tileOf t b) s))
  ∧ (∀ (on : Bool) (o : FOut) (x0 : Int), o.coef.a.length = 4 → o.coef.k.length = 4 → o.lp.length = 4 →
    (∀ a ∈ o.coef.a, a < 2 ^ 32) → (∀ l ∈ o.lp, -(2 ^ 43) ≤ l ∧ l ≤ 2 ^ 43) → -(2 ^ 27) ≤ x0 → x0 < 2 ^ 27 →
    ((chainSample on o x0).1.lp.length = 4 ∧ (∀ l ∈ (chainSample on o x0).1.lp, -(2 ^ 43) ≤ l ∧ l ≤ 2 ^ 43))
    ∧ (-(2 ^ 27) ≤ (chainSample on o x0).2.1 ∧ (chainSample on o x0).2.1 < 2 ^ 27)
    ∧ (o.lp = List.replicate 4 (x0 * 2 ^ 16) → o.coef.h = 0x4000 :: List.replicate 31 0 → o.hist.length = 32 →
      (chainSample on o x0).2 = (x0, false) ∧ (chainSample on o x0).1.lp = o.lp)
    ∧ (on = false → (chainSample on o x0).2 = (x0, false) ∧ (chainSample on o x0).1.lp = List.replicate 4 (x0 * 2 ^ 16)))
  ∧ (∀ (s : State) (b k n : Nat) (y : Int), 24 ≤ b → b < 32 → k < 16 →
    (chanOn s b k = false → fluxCode s b k n y = (fluxOffs s b k, false))
    ∧ (chanOn s b k = true → -32768 ≤ fluxOffs s b k - fluxLim s b k → fluxOffs s b k + fluxLim s b k ≤ 32767 →
      ((fluxCode s b k n y).1 - fluxOffs s b k).natAbs ≤ fluxLim s b k)
    ∧ (rampFactor (tileOf s b) n = 0 → (fluxCode s b k n y).1 = fluxOffs s b k))

/-- Every command completes, and none changes which part the device is, or the queue. For every one of the 240 commands,
every operand and every state, exec answers a next state, but for a register or memory access that is none of this
part: one outside the window of its BAR, or not aligned (R76, R78, R99), which ends in the fault outsideWindow. The
next state is one of the same part (R4, R5: the two parts differ in silicon) and its queue of waiting commands is the
one exec was given: no command adds, removes or reorders commands. What the commands do when they complete the other
statements say. (00_scope.md, 03_register_conventions.md, 95_what_each_step_holds.md) -/
def Obligations.NoCommandChangesPartOrQueue : Prop :=
  ∀ (c : Instr) (s : State),
    (accessOk c = true → ∃ t, exec c s = .next t ∧ t.variant = s.variant ∧ t.pending = s.pending)
    ∧ (accessOk c = false → exec c s = .fault .outsideWindow)

/-- The invariant holds after reset. The escalation queue has at most 64 records (R303), every error FIFO at most 4 (R95),
and the memory behind BAR2 and the register file are in canonical form, in the state right after reset.
(22_start_and_reset.md, 11_darner.md, 03_register_conventions.md) -/
def Obligations.InvariantHoldsAtReset : Prop :=
  State.reset.Inv

/-- Every step keeps the invariant. From every state in which the escalation queue has at most 64 records (R303: one that
finds 64 is dropped), every page's error FIFO holds at most 4 records (R95, R96) and the memory behind BAR2 and the
register file are in canonical form, every step that answers a next state answers one with the same properties,
whatever command is at the front. (11_darner.md, 03_register_conventions.md, 18_memory_integrity.md) -/
def Obligations.EveryStepKeepsInvariant : Prop :=
  ∀ s t : State, s.Inv → step s = .next t → t.Inv

/-- The REFCLK monitor and the root PLL. REF_OK_QUALIFY sets REF_OK, and with RELOCK_AUTO an unlocked PLL starts
acquisition (R48, R55). REFCLK_FAULT clears REF_OK and ends an acquisition, and a locked PLL goes into holdover in the
same fc (R48, R53). PLL_LOCK while the PLL acquires with REF_OK at 1 and the holdover over sets LOCK, leaves the
backup clocks and starts TIME at 0 (R47, R62); after READY Hoop firmware has a relock to serve (R497). LOSS_OF_LOCK of
a locked PLL starts the holdover, clears LOCK and cancels the epochs under way (R53, R60); without lock it changes
nothing. At the end of its ramp, 32 fc later and not before, the holdover is over, the clocks are on the backup and
TIME_VALID is 0 (R53). A write of RELOCK on an open page starts acquisition while REF_OK is 1 and LOCK is 0 (R55).
(02_clocks_and_time.md, 21_hoop.md) -/
def Obligations.ReferenceAndLock : Prop :=
  ∀ (s : State) (who : Requester),
    (∃ t, exec .refOkQualify s = .next t ∧ getF t 1 CLK.PLL_STAT_REF_OK = 1
      ∧ t.pll.acquiring = (s.pll.acquiring || (isSet s 1 CLK.PLL_CTL_RELOCK_AUTO && !isSet s 1 CLK.PLL_STAT_LOCK))
      ∧ regsSame [CLK.PLL_STAT.addr 1 0] s t ∧ typedSame { s with pll := t.pll } t)
    ∧ (isSet s 1 CLK.PLL_STAT_REF_OK = true → isSet s 1 CLK.PLL_STAT_LOCK = false →
      ∃ t, exec .refclkFault s = .next t ∧ getF t 1 CLK.PLL_STAT_REF_OK = 0 ∧ t.pll = { s.pll with acquiring := false }
        ∧ regsSame [CLK.PLL_STAT.addr 1 0, HDR.IRQ_STAT.addr 1 0] s t ∧ typedSame { s with pll := t.pll } t)
    ∧ (isSet s 1 CLK.PLL_STAT_REF_OK = true → isSet s 1 CLK.PLL_STAT_LOCK = true →
      ∃ t, exec .refclkFault s = .next t ∧ t.pll.holdover = true ∧ t.pll.holdAt = s.up ∧ t.pll.epochs = [] ∧ isSet t 1 CLK.PLL_STAT_LOCK = false)
    ∧ (s.pll.acquiring = true → isSet s 1 CLK.PLL_STAT_REF_OK = true → s.pll.holdover = false →
      ∃ t, exec .pllLock s = .next t ∧ getF t 1 CLK.PLL_STAT_LOCK = 1 ∧ getF t 1 CLK.PLL_STAT_BACKUP = 0 ∧ t.time = 0#64
        ∧ t.pll = { s.pll with acquiring := false } ∧ (isSet s 0 GLB.START_STAT_READY = true → Urgent.relock ∈ t.hoop.urgent)
        ∧ t.mck % 160 = 0 ∧ s.mck ≤ t.mck ∧ t.mck < s.mck + 160
        ∧ regsSame [CLK.PLL_STAT.addr 1 0] s t ∧ typedSame { s with pll := t.pll, time := t.time, hoop := t.hoop, mck := t.mck, softRst := t.softRst } t)
    ∧ (isSet s 1 CLK.PLL_STAT_LOCK = true →
      ∃ t, exec .lossOfLock s = .next t ∧ t.pll.holdover = true ∧ t.pll.holdAt = s.up ∧ t.pll.epochs = [] ∧ isSet t 1 CLK.PLL_STAT_LOCK = false)
    ∧ (isSet s 1 CLK.PLL_STAT_LOCK = false → exec .lossOfLock s = .next s)
    ∧ (s.pll.holdover = true → s.up < s.pll.holdAt + 32 → exec .holdoverRampDone s = .next s)
    ∧ (s.pll.holdover = true → s.pll.holdAt + 32 ≤ s.up → ∃ t, exec .holdoverRampDone s = .next t ∧ t.pll.holdover = false
        ∧ getF t 1 CLK.PLL_STAT_BACKUP = 1 ∧ getF t 1 CLK.SYNC_STAT_TIME_VALID = 0)
    ∧ (busOpen s who 1 = true → ∃ t, exec (.pllRelock who) s = .next t
        ∧ t = { s with pll := { s.pll with acquiring :=
            (s.pll.acquiring || (isSet s 1 CLK.PLL_STAT_REF_OK && !isSet s 1 CLK.PLL_STAT_LOCK)) } })

/-- SYNC, the epoch and the read of TIME. A sampled edge at the pins (SRC pins, REF_OK 1, not the first sample, CLK not
frozen) increments SYNC_CNT; with LOCK and ARM at 1 it clears ARM and an epoch is due 80 fc later, beside those
already under way (R58, R59, R60). An edge of a source that is not selected, and neither the soft source nor one the
time port chooses, changes nothing (R58); while CLK is frozen no edge changes anything (R83). A soft edge is sampled
exactly where a write of SOFT asked for it, and answers that write (R58). On an open page of a device that counts as
stopped for the write a write of SOFT is kept for the next REFCLK edge exactly while SRC selects the soft SYNC (R58),
and a write of ARM sets ARM and EPOCH_PEND (R60); while a Tambour runs either does nothing but set CFG_BUSY with its
interrupt (R60, R86). The oldest epoch under way, at its fc, with lock, loads TIME with EPOCH_HI and EPOCH_LO, or with
the value of the edge that the time port chose, sets TIME_VALID, clears EPOCH_PEND where ARM is 0 and no other epoch
is under way, and gives Hoop firmware the ports to retrain (R59, R60, R354, R355); before its fc nothing changes. A
read of TIME_LO returns TIME[31:0] as sampled at the page, a 64-bit one all of TIME, and captures TIME[63:32] for its
reader (R64). (02_clocks_and_time.md, 03_register_conventions.md) -/
def Obligations.SyncAndEpoch : Prop :=
  ∀ (s : State) (who : Requester),
    (getF s 1 CLK.SYNC_CTL_SRC = 0 → isSet s 1 CLK.PLL_STAT_REF_OK = true → isSet s 1 CLK.PLL_STAT_LOCK = true →
      isSet s 1 CLK.SYNC_CTL_ARM = true → isSet s 1 HDR.CTRL_FREEZE = false → ∃ t, exec (.syncEdge 0 false) s = .next t
        ∧ getF t 1 CLK.SYNC_STAT_SYNC_CNT = (getF s 1 CLK.SYNC_STAT_SYNC_CNT + 1) % 2 ^ CLK.SYNC_STAT_SYNC_CNT.w
        ∧ getF t 1 CLK.SYNC_CTL_ARM = 0 ∧ t.pll = { s.pll with epochs := s.pll.epochs ++ [(now s + 80, none)] }
        ∧ regsSame [CLK.SYNC_CTL.addr 1 0, CLK.SYNC_STAT.addr 1 0] s t ∧ typedSame { s with pll := t.pll } t)
    ∧ (∀ src first, src ≠ getF s 1 CLK.SYNC_CTL_SRC → src ≠ 1 → exec (.syncEdge src first) s = .next s)
    ∧ (∀ src first, isSet s 1 HDR.CTRL_FREEZE = true → exec (.syncEdge src first) s = .next s)
    ∧ (∀ first, getF s 1 CLK.SYNC_CTL_SRC = 1 → isSet s 1 CLK.PLL_STAT_LOCK = false → isSet s 1 HDR.CTRL_FREEZE = false →
      ∃ t, exec (.syncEdge 1 first) s = .next t ∧ t.pll = { s.pll with soft := false }
        ∧ getF t 1 CLK.SYNC_STAT_SYNC_CNT = (getF s 1 CLK.SYNC_STAT_SYNC_CNT + (if s.pll.soft then 1 else 0)) % 2 ^ CLK.SYNC_STAT_SYNC_CNT.w
        ∧ regsSame [CLK.SYNC_STAT.addr 1 0] s t ∧ typedSame { s with pll := t.pll } t)
    ∧ (busOpen s who 1 = true → sBlocked s who 1 CLK.SYNC_CTL.off = false → ∃ t, exec (.softSync who) s = .next t
        ∧ t = { s with pll := { s.pll with soft := (s.pll.soft || decide (getF s 1 CLK.SYNC_CTL_SRC = 1)) } })
    ∧ (busOpen s who 1 = true → sBlocked s who 1 CLK.SYNC_CTL.off = false → ∃ t, exec (.syncArm who) s = .next t
        ∧ getF t 1 CLK.SYNC_CTL_ARM = 1 ∧ getF t 1 CLK.SYNC_STAT_EPOCH_PEND = 1)
    ∧ (busOpen s who 1 = true → sBlocked s who 1 CLK.SYNC_CTL.off = true → ∀ c ∈ [Instr.syncArm who, .softSync who],
        exec c s = .next (cfgBusy 1 s))
    ∧ (∀ e rest, s.pll.epochs = e :: rest → e.1 ≤ now s → isSet s 1 CLK.PLL_STAT_LOCK = true → isSet s 1 HDR.CTRL_FREEZE = false →
        ∃ t, exec .epoch s = .next t ∧ getF t 1 CLK.SYNC_STAT_TIME_VALID = 1
          ∧ getF t 1 CLK.SYNC_STAT_EPOCH_PEND = (if isSet s 1 CLK.SYNC_CTL_ARM = false ∧ rest = [] then 0 else getF s 1 CLK.SYNC_STAT_EPOCH_PEND)
          ∧ (let v := e.2.getD (getF s 1 CLK.EPOCH_HI * 2 ^ 32 + getF s 1 CLK.EPOCH_LO_EPOCH_L * 16)
             t.time = BitVec.ofNat 64 (v + (now s - e.1)) ∧ t.pll.lastEpoch = v)
          ∧ t.pll.epochs.length = rest.length ∧ Urgent.retrain ∈ t.hoop.urgent ∧ t.mck % 160 = 10 * (now t % 16))
    ∧ (∀ e rest, s.pll.epochs = e :: rest → now s < e.1 → exec .epoch s = .next s)
    ∧ (pageUp s 1 = true → ∀ wide, ∃ t, exec (.timeLoRead who wide) s = .next t
        ∧ t.lastRead = BitVec.ofNat 64 (if wide then busTime s else busTime s % 2 ^ 32)
        ∧ getF t 1 CLK.TIME_HI (reqIdx who) = busTime s / 2 ^ 32 % 2 ^ 32
        ∧ regsSame [CLK.TIME_HI.addr 1 (reqIdx who)] s t ∧ typedSame { s with lastRead := t.lastRead } t)

/-- A write of a register. A 32-bit write of SCRATCH of a page that is up stores its word and changes nothing else. A
write of the stopped-only TMB_ENTRY on an open tile page is stored while the tile is stopped, and while it runs is
ignored with CFG_BUSY (R86). A write of the boundary-class TKEY_MAP on an open page of a running tile reads back at
once while the value in force stays the old one (R15, R88). A write of an offset no register occupies, or of a page
index from 0x03A up, leaves one UNMAPPED record on the page or on GLB (R77), a narrow write of a register one
NARROW_WRITE record (R78), and a write of an absent page nothing (R4). An access outside the 16 MiB window or off its
alignment is refused as no access of this part, and so is a read of another width or off its alignment. A 32-bit read
of a register of a page that is up returns its word where a read has no effect, as of SCRATCH; a read of an offset no
register occupies answers 0 and leaves one UNMAPPED record whose detail is 0; a read of an absent page, or by host
software before READY of a page it does not reach, answers 0 and leaves no record (R4, R77, R522). Before READY a
write of host software to a page other than GLB and, in SAFE mode, PCI changes nothing (R522).
(03_register_conventions.md, 00_scope.md, 22_start_and_reset.md) -/
def Obligations.RegisterWrite : Prop :=
  ∀ (s : State) (who : Requester) (data : Word),
    (∀ p, pageTakes s who p = true → (∃ k, pageKind p = some k) →
      ∃ t, exec (.regWrite who (p * 0x1000 + 0x03C) data 15 (.write none)) s = .next t
        ∧ rdWord t (HDR.SCRATCH.addr p 0) = data ∧ regsSame [HDR.SCRATCH.addr p 0] s t ∧ typedSame s t)
    ∧ (∀ b, b < 32 → busOpen s who (tilePage b) = true → sBlocked s who (tilePage b) 0x048 = false →
      ∃ t, exec (.regWrite who (tilePage b * 0x1000 + 0x048) data 15 (.write none)) s = .next t
        ∧ getF t (tilePage b) TMB.TMB_ENTRY_ENTRY = TMB.TMB_ENTRY_ENTRY.of data
        ∧ regsSame [TMB.TMB_ENTRY.addr (tilePage b) 0] s t)
    ∧ (∀ b, b < 32 → busOpen s who (tilePage b) = true → sBlocked s who (tilePage b) 0x048 = true →
      ∃ t, exec (.regWrite who (tilePage b * 0x1000 + 0x048) data 15 (.write none)) s = .next t
        ∧ getF t (tilePage b) HDR.STATUS_CFG_BUSY = 1
        ∧ regsSame [HDR.STATUS.addr (tilePage b) 0, HDR.IRQ_STAT.addr (tilePage b) 0] s t ∧ typedSame s t)
    ∧ (∀ b k, b < 32 → k < 32 → busOpen s who (tilePage b) = true → bWaits s who (tilePage b) 0x100 = true →
      ∃ t, exec (.regWrite who (tilePage b * 0x1000 + 0x100 + 4 * k) data 15 (.write none)) s = .next t
        ∧ (∀ f ∈ [TMB.TKEY_MAP_SLOT, TMB.TKEY_MAP_DFLT, TMB.TKEY_MAP_EN, TMB.TKEY_MAP_DL],
            getF t (tilePage b) f k = f.of data ∧ getB t (tilePage b) f k = getB s (tilePage b) f k)
        ∧ regsSame [TMB.TKEY_MAP.addr (tilePage b) k, HDR.STATUS.addr (tilePage b) 0] s t)
    ∧ (∀ p o k, pageKind p = some k → pageUp s p = true → o < 0x1000 → o % 4 = 0 → mapped k o = false → ∀ be,
      exec (.regWrite who (p * 0x1000 + o) data be (.write none)) s = .next (errRec p 0x01 0 0 1 (p * 0x1000 + o) s))
    ∧ (∀ p o, 0x3A ≤ p → p < 0x1000 → o < 0x1000 → o % 4 = 0 → isSet s 0 GLB.START_STAT_READY = true → ∀ be,
      exec (.regWrite who (p * 0x1000 + o) data be (.write none)) s = .next (errRec 0 0x01 0 0 1 (p * 0x1000 + o) s))
    ∧ (∀ p o k, pageKind p = some k → pageUp s p = true → o < 0x1000 → o % 4 = 0 → mapped k o = true → ∀ be, be ≠ 15 →
      exec (.regWrite who (p * 0x1000 + o) data be (.write none)) s = .next (errRec p 0x02 0 0 be (p * 0x1000 + o) s))
    ∧ (∀ p o, p < 0x3A → o < 0x1000 → o % 4 = 0 → pagePresent s p = false → ∀ be,
      exec (.regWrite who (p * 0x1000 + o) data be (.write none)) s = .next s)
    ∧ (∀ p o, p < 0x1000 → o < 0x1000 → o % 4 = 0 → reachable s p = false → ∀ be,
      exec (.regWrite .host (p * 0x1000 + o) data be (.write none)) s = .next s)
    ∧ (∀ off be hi, (0x1000000 ≤ off ∨ off % 4 ≠ 0 ∨ (hi ≠ none ∧ off % 8 ≠ 0)) →
      exec (.regWrite who off data be (.write hi)) s = .fault .outsideWindow)
    ∧ (∀ off be size, (0x1000000 ≤ off ∨ off % size ≠ 0 ∨ (size ≠ 1 ∧ size ≠ 2 ∧ size ≠ 4 ∧ size ≠ 8)) →
      exec (.regWrite who off data be (.read size)) s = .fault .outsideWindow)
    ∧ (∀ p be, pageUp s p = true → (∃ k, pageKind p = some k) →
      exec (.regWrite who (p * 0x1000 + 0x03C) data be (.read 4)) s = .next { s with lastRead := (rdWord s (HDR.SCRATCH.addr p 0)).setWidth 64 })
    ∧ (∀ p o k be, pageKind p = some k → pageUp s p = true → o < 0x1000 → o % 4 = 0 → mapped k o = false →
      exec (.regWrite who (p * 0x1000 + o) data be (.read 4)) s = .next { errRec p 0x01 0 0 0 (p * 0x1000 + o) s with lastRead := 0#64 })
    ∧ (∀ p o be, p < 0x3A → o < 0x1000 → o % 4 = 0 → (pagePresent s p = false ∨ (who = .host ∧ reachable s p = false)) →
      exec (.regWrite who (p * 0x1000 + o) data be (.read 4)) s = .next { s with lastRead := 0#64 })

/-- What keeps a command of software from its block. For each of eight commands that software gives through a control
field of a tile, CLK, HKP or MIC page: where the page is up and the other requester owns it, the command has no effect
but OWN_VIOL with its interrupt and record (R90); while a soft reset of the page is in progress, none but CFG_BUSY
with its interrupt (R82); and where the device is not READY, a command of host software has none at all (R522).
(03_register_conventions.md, 22_start_and_reset.md) -/
def Obligations.BusRefusals : Prop :=
  ∀ (s : State) (who : Requester) (b : Nat), b < 32 →
    ∀ e ∈ [(Instr.tmbGo who b, tilePage b, 0x040), (.tmbStop who b, tilePage b, 0x040), (.tmbAbort who b, tilePage b, 0x040),
        (.pllRelock who, 1, 0x044), (.softSync who, 1, 0x048), (.syncArm who, 1, 0x048), (.samplerRgo who, 4, HKP.HKP_CTL.off),
        (.flipArm who, 6, MIC.FLIP_SEL.off)],
      (pageTakes s who e.2.1 = true → getF s e.2.1 HDR.OWNER_OWN ≠ 0 → getF s e.2.1 HDR.OWNER_OWN ≠ reqCode who →
        exec e.1 s = .next (ownViol who e.2.1 e.2.2 s))
      ∧ (pagePresent s e.2.1 = true → isSet s 0 GLB.START_STAT_READY = true → seenSet s who e.2.1 HDR.STATUS_RST_BUSY = true →
        exec e.1 s = .next (cfgBusy e.2.1 s))
      ∧ (who = .host → reachable s e.2.1 = false → exec e.1 s = .next s)

/-- LOCK keeps a protected field. A write of the stopped-only TMB_ENTRY of a page that is up, owned by nobody and locked
with LK_CFG leaves ENTRY as it is: a write that carries its present value raises nothing, and one that carries another
value leaves one LOCK_VIOL record with its interrupt (R89). No write clears LOCK: a lock command only sets bits, and
BY_HOOP tells which requester set the first (R89). (03_register_conventions.md) -/
def Obligations.LockedFields : Prop :=
  ∀ (s : State) (who : Requester) (b : Nat) (data : Word) (cfg all : Bool), b < 32 → pageTakes s who (tilePage b) = true →
    getF s (tilePage b) HDR.OWNER_OWN = 0 →
    (isSet s (tilePage b) HDR.LOCK_LK_CFG = true → sBlocked s who (tilePage b) 0x048 = false →
      ∃ t, exec (.regWrite who (tilePage b * 0x1000 + 0x048) data 15 (.write none)) s = .next t
        ∧ getF t (tilePage b) TMB.TMB_ENTRY_ENTRY = getF s (tilePage b) TMB.TMB_ENTRY_ENTRY
        ∧ (TMB.TMB_ENTRY_ENTRY.of data = getF s (tilePage b) TMB.TMB_ENTRY_ENTRY → t.errs = s.errs ∧ regsSame [] s t)
        ∧ (TMB.TMB_ENTRY_ENTRY.of data ≠ getF s (tilePage b) TMB.TMB_ENTRY_ENTRY →
            isSet t (tilePage b) HDR.IRQ_STAT_LOCK_VIOL = true ∧ (pageErr t (tilePage b)).seq = ((pageErr s (tilePage b)).seq + 1) % 256))
    ∧ (∃ t, exec (.lockSet who (tilePage b) cfg all) s = .next t
        ∧ isSet t (tilePage b) HDR.LOCK_LK_CFG = (cfg || isSet s (tilePage b) HDR.LOCK_LK_CFG)
        ∧ isSet t (tilePage b) HDR.LOCK_LK_ALL = (all || isSet s (tilePage b) HDR.LOCK_LK_ALL)
        ∧ isSet t (tilePage b) HDR.LOCK_BY_HOOP =
            (if (cfg || all) && !isSet s (tilePage b) HDR.LOCK_LK_CFG && !isSet s (tilePage b) HDR.LOCK_LK_ALL
              then decide (who = .hoop) else isSet s (tilePage b) HDR.LOCK_BY_HOOP)
        ∧ regsSame [HDR.LOCK.addr (tilePage b) 0] s t ∧ typedSame s t)

/-- FREEZE, EN and the soft reset of a page. On an open page: SRST sets RST_BUSY and the reset ends 16 mc later (640
fortieths of a mc on the model's management clock) (R82); when it is due its end takes the page off the list of resets
in progress, and before that the event does nothing. FREEZE written 1 on a tile that is ARMED or RUN starts its stop,
on a stopped tile it shows FROZEN at once, and on a page of the device that has no run of its own it sets FREEZE and
FROZEN and changes nothing else; written 0 it takes a FROZEN tile to STOPPED, and a tile whose ramp to FROZEN still
runs will enter STOPPED, and leaves the state of one that is not FROZEN; a write of the value FREEZE has changes
nothing (R83). A write of 0 to EN starts the stop of a tile that is ARMED or RUN, and on a page such as MIC clears EN
and nothing else (R83). (03_register_conventions.md) -/
def Obligations.PageControl : Prop :=
  ∀ (s : State) (who : Requester) (p : Nat), busOpen s who p = true → (∃ k, pageKind p = some k) →
    (∃ t, exec (.softReset who p) s = .next t ∧ isSet t p HDR.STATUS_RST_BUSY = true ∧ smFind p t.softRst = some (s.mck + 640))
    ∧ (∀ e, smFind p s.softRst = some e → e ≤ s.mck → ∃ t, exec (.softResetEnd p) s = .next t ∧ smFind p t.softRst = none)
    ∧ (∀ e, smFind p s.softRst = some e → s.mck < e → exec (.softResetEnd p) s = .next s)
    ∧ (∀ b, p = tilePage b → b < 32 → isSet s p HDR.CTRL_FREEZE = false → (tileState s b = stArmed ∨ tileState s b = stRun) →
      ∃ t, exec (.freezeSet who p) s = .next t ∧ tileState t b = stStopping)
    ∧ (∀ b, p = tilePage b → b < 32 → isSet s p HDR.CTRL_FREEZE = false →
      (tileState s b = stStopped ∨ tileState s b = stHaltedMc ∨ tileState s b = stHaltedClk) →
      ∃ t, exec (.freezeSet who p) s = .next t ∧ tileState t b = tileState s b ∧ isSet t p HDR.STATUS_FROZEN = true
        ∧ isSet t p HDR.CTRL_FREEZE = true ∧ regsSame [HDR.CTRL.addr p 0, HDR.STATUS.addr p 0] s t ∧ typedSame s t)
    ∧ (p < 0x10 → p ≠ 8 → isSet s p HDR.CTRL_FREEZE = false → ∃ t, exec (.freezeSet who p) s = .next t
        ∧ isSet t p HDR.STATUS_FROZEN = true ∧ isSet t p HDR.CTRL_FREEZE = true
        ∧ regsSame [HDR.CTRL.addr p 0, HDR.STATUS.addr p 0] s t ∧ typedSame s t)
    ∧ (isSet s p HDR.CTRL_FREEZE = true → exec (.freezeSet who p) s = .next (notePage (some who) p s))
    ∧ (isSet s p HDR.CTRL_FREEZE = false → exec (.freezeClear who p) s = .next (notePage (some who) p s))
    ∧ (∀ b, p = tilePage b → b < 32 → isSet s p HDR.CTRL_FREEZE = true → ∃ t, exec (.freezeClear who p) s = .next t
        ∧ tileState t b = (if tileState s b = stFrozen then stStopped else tileState s b)
        ∧ isSet t p HDR.CTRL_FREEZE = false ∧ isSet t p HDR.STATUS_FROZEN = false
        ∧ regsSame [HDR.CTRL.addr p 0, HDR.STATUS.addr p 0, TMB.TMB_STAT.addr p 0] s t
        ∧ tileOf t b = { tileOf s b with ramp := (tileOf s b).ramp.map (fun r => { r with target := if r.target = stFrozen then stStopped else r.target }) }
        ∧ typedSame { s with tiles := t.tiles } t)
    ∧ (∀ b, p = tilePage b → b < 32 → isSet s p HDR.CTRL_EN = true → (tileState s b = stArmed ∨ tileState s b = stRun) →
      ∃ t, exec (.blockDisable who p) s = .next t ∧ tileState t b = stStopping)
    ∧ ((p = 6 ∨ p = 7) → isSet s p HDR.CTRL_EN = true → ∃ t, exec (.blockDisable who p) s = .next t
        ∧ isSet t p HDR.CTRL_EN = false ∧ regsSame [HDR.CTRL.addr p 0] s t ∧ typedSame s t)

/-- IRQ_FORCE. On every page that is open to its requester, a write of IRQ_FORCE sets, of the bits it names, exactly those
that are causes of the page in IRQ_STAT, and sends the page's message if the line rises by it; it writes no error
record, changes no counter and no other register, and touches no other part of the state. (R85) -/
def Obligations.InterruptForce : Prop :=
  ∀ (s : State) (who : Requester) (p : Nat) (mask : Word), busOpen s who p = true → (∃ k, pageKind p = some k) →
    ∃ t, exec (.irqForce who p mask) s = .next t
      ∧ rdWord t (HDR.IRQ_STAT.addr p 0) = rdWord s (HDR.IRQ_STAT.addr p 0) ||| (mask &&& pageCauses p)
      ∧ (∀ i, i < 32 → (mask &&& pageCauses p) = BitVec.ofNat 32 (2 ^ i) → t = irqBit p i s)
      ∧ t.msix = (if irqLine t p && !irqLine s p then (sendVec (pageVec s p) s).msix else s.msix)
      ∧ t.errs = s.errs ∧ t.fatal = s.fatal ∧ t.held = s.held
      ∧ regsSame [HDR.IRQ_STAT.addr p 0] s t ∧ typedSame s t

/-- Error records, ERR_HEAD, OWNER and the high-water mark of the queue. On a page that is up and not owned by the other
requester, a write of ERR_HEAD removes the oldest record of the page's FIFO and keeps the others in order, and does
nothing on an empty FIFO (R95). A write of OWNER takes an unowned page, lets the owner release it, ignores 0b11 and
the owner's own code, and every other write is discarded with OWN_VIOL and its record (R91). A read of QUEUE of a tile
returns DEPTH and HWM and clears HWM, and nothing else (R14). The first error of an mc is appended behind the records
held while the page's FIFO holds fewer than four, with ERR set, and with its code, severity and unit, its place in the
sequence, its detail and address and TIME in units of 16 fc (R95); while the FIFO holds four it is not recorded; an
error found while the FIFO holds four is counted in OVF and sets ERR_OVF (R96). The errors of one mc stand behind the
records held before it in ascending UNIT order, numbered on from there, as far as the four places go (R95). Either way
TOTAL counts it and it takes its sequence number, modulo 256; both counts stop at their largest value. A record of
severity 0b11 is kept for the fatal path unless one is already under way (R97). Other pages keep their FIFO.
(03_register_conventions.md) -/
def Obligations.ErrorRecordsAndOwner : Prop :=
  (∀ (s : State) (who : Requester) (p : Nat), pageTakes s who p = true → (∃ k, pageKind p = some k) →
      ((getF s p HDR.OWNER_OWN = 0 ∨ getF s p HDR.OWNER_OWN = reqCode who) → ∃ t, exec (.errPop who p) s = .next t
          ∧ (pageErr t p).fifo = (pageErr s p).fifo.tail ∧ (pageErr t p).seq = (pageErr s p).seq ∧ (∀ q, q ≠ p → pageErr t q = pageErr s q)
          ∧ regsSame [] s t ∧ typedSame s t)
      ∧ (∀ v, (getF s p HDR.OWNER_OWN = 0 ∧ (v = 1 ∨ v = 2)) ∨ (getF s p HDR.OWNER_OWN = reqCode who ∧ v = 0) →
        ∃ t, exec (.ownerWrite who p v) s = .next t ∧ getF t p HDR.OWNER_OWN = v
          ∧ regsSame [HDR.OWNER.addr p 0] s t ∧ typedSame s t)
      ∧ (∀ v, v = 3 ∨ (getF s p HDR.OWNER_OWN = reqCode who ∧ v = reqCode who) → exec (.ownerWrite who p v) s = .next s)
      ∧ (∀ v, v < 3 → getF s p HDR.OWNER_OWN ≠ 0 → ¬ (getF s p HDR.OWNER_OWN = reqCode who ∧ (v = 0 ∨ v = reqCode who)) →
        exec (.ownerWrite who p v) s = .next (ownViol who p 0x038 s))
      ∧ (∀ b, p = tilePage b → ∃ t, exec (.queueHwmRead b) s = .next t ∧ t.lastRead = (rdWord s (TMB.QUEUE.addr p 0)).setWidth 64
          ∧ getF t p TMB.QUEUE_HWM = 0 ∧ getF t p TMB.QUEUE_DEPTH = getF s p TMB.QUEUE_DEPTH
          ∧ regsSame [TMB.QUEUE.addr p 0] s t ∧ typedSame { s with lastRead := t.lastRead } t))
  ∧ (∀ (s : State) (p code sev unit info addr : Nat), p < 0x3A →
      (pageErr (errRec p code sev unit info addr s) p).seq = ((pageErr s p).seq + 1) % 256
      ∧ ((pageErr s p).fifo.length < 4 → ((pageErr s p).mc ≠ mcNow s ∨ (pageErr s p).batch = []) →
        (pageErr (errRec p code sev unit info addr s) p).fifo = (pageErr s p).fifo ++
          [{ code := code, sev := sev, unit := unit, seq := (pageErr s p).seq % 256, info := BitVec.ofNat 32 info,
             addr := BitVec.ofNat 32 addr, tstamp := BitVec.ofNat 32 (now s / 16) }]
        ∧ isSet (errRec p code sev unit info addr s) p HDR.IRQ_STAT_ERR = true)
      ∧ (4 ≤ (pageErr s p).fifo.length → ((pageErr s p).mc ≠ mcNow s ∨ (pageErr s p).batch = []) →
        (pageErr (errRec p code sev unit info addr s) p).fifo = (pageErr s p).fifo)
      ∧ (4 ≤ (pageErr s p).fifo.length →
        getF (errRec p code sev unit info addr s) p HDR.ERR_CNT_OVF = min (getF s p HDR.ERR_CNT_OVF + 1) 0xFFFF
        ∧ isSet (errRec p code sev unit info addr s) p HDR.IRQ_STAT_ERR_OVF = true)
      ∧ ((pageErr s p).mc = mcNow s → (pageErr s p).batch ≠ [] → (pageErr s p).old ≤ (pageErr s p).fifo.length → (pageErr s p).fifo.length ≤ 4 →
        let e := pageErr s p
        let f := pageErr (errRec p code sev unit info addr s) p
        f.fifo = e.fifo.take e.old ++ f.batch.take (4 - e.old)
        ∧ f.batch.length = e.batch.length + 1 ∧ (∀ i, i < f.batch.length → (f.batch.map ErrRec.seq).getD i 0 = (e.base + i) % 256)
        ∧ (e.batch.Pairwise (fun x y => x.unit ≤ y.unit) → f.batch.Pairwise (fun x y => x.unit ≤ y.unit)))
      ∧ getF (errRec p code sev unit info addr s) p HDR.ERR_CNT_TOTAL = min (getF s p HDR.ERR_CNT_TOTAL + 1) 0xFFFF
      ∧ (∀ q, q ≠ p → pageErr (errRec p code sev unit info addr s) q = pageErr s q)
      ∧ (sev ≠ 3 → (errRec p code sev unit info addr s).fatal = s.fatal)
      ∧ (sev = 3 → s.fatal = none → s.boot.fatal = none →
        ∃ r, (errRec p code sev unit info addr s).fatal = some r ∧ r.page = p ∧ r.code = code ∧ r.t = now s))

/-- GO, the start of a run, STOP, ABORT and the end of a stop. On an open tile page a GO with every start condition met
leaves the tile ARMED with RUN set, its first word TMB_ENTRY at TMB_START and an empty queue (R151, R152); where a
condition fails the tile is as before and one record names it (R151). At TMB_START less 16 fc an ARMED tile enters RUN
(R152). STOP on a started tile sets STOP_PEND and nothing else, on another tile nothing (R153). ABORT of a running
tile starts the 32 fc ramp in that fc with the queue flushed, of an ARMED tile it ends in STOPPED, and elsewhere it
changes nothing (R153). The fc that a STOP word has set starts the ramp to STOPPED (R153). A ramp that has run its 32
fc leaves the tile in its target state (STOPPED for a freeze cleared meanwhile) with RUN clear (R84, R83). A read of
SHOT_LO returns the low half of the shot number and captures the high half for its reader (R152).
(05_sequencing_and_timeline.md, 03_register_conventions.md) -/
def Obligations.TambourStartAndStop : Prop :=
  ∀ (s : State) (who : Requester) (b : Nat), b < 32 →
    (busOpen s who (tilePage b) = true → goRefusal s who b = none → ∃ t, exec (.tmbGo who b) s = .next t
      ∧ tileState t b = stArmed ∧ tileRunning t b = true ∧ (tileOf t b).next = some (getF s (tilePage b) TMB.TMB_ENTRY_ENTRY)
      ∧ (tileOf t b).nextT = tmbStart s b ∧ (tileOf t b).queue = [] ∧ shotNum t b = shotNum s b)
    ∧ (∀ i, goRefusal s who b = some i → busOpen s who (tilePage b) = true →
      exec (.tmbGo who b) s = .next (errRec (tilePage b) 0x29 0 0 i 0 (irqBit (tilePage b) 3 (notePage (some who) (tilePage b) s))))
    ∧ ((seenF s who (tilePage b) TMB.TMB_STAT_STATE = stRun ∨ tmbStart s b < busTime s + 64 ∨ isSet s (tilePage b) HDR.CTRL_EN = false) → goRefusal s who b ≠ none)
    ∧ (tileState s b = stArmed → tmbStart s b ≤ now s + 16 → ∃ t, exec (.tmbRunStart b) s = .next t ∧ tileState t b = stRun)
    ∧ (busOpen s who (tilePage b) = true → tmbOn s b = true → ∃ t, exec (.tmbStop who b) s = .next t
      ∧ isSet t (tilePage b) TMB.TMB_STAT_STOP_PEND = true ∧ tileState t b = tileState s b
      ∧ regsSame [TMB.TMB_STAT.addr (tilePage b) 0] s t ∧ typedSame s t)
    ∧ (busOpen s who (tilePage b) = true → tmbOn s b = false →
      exec (.tmbStop who b) s = .next s ∧ exec (.tmbAbort who b) s = .next (notePage (some who) (tilePage b) s))
    ∧ (busOpen s who (tilePage b) = true → tileState s b = stRun → ∃ t, exec (.tmbAbort who b) s = .next t
      ∧ tileState t b = stStopping ∧ (tileOf t b).queue = [] ∧ (tileOf t b).ramp = some { t0 := now s, target := stStopped })
    ∧ (busOpen s who (tilePage b) = true → tileState s b = stArmed → ∃ t, exec (.tmbAbort who b) s = .next t
      ∧ tileState t b = stStopped ∧ tileRunning t b = false ∧ (tileOf t b).queue = [])
    ∧ (∀ f, (tileOf s b).stopAt = some f → tileState s b = stRun → f ≤ now s → ∃ t, exec (.tileStopping b) s = .next t
      ∧ tileState t b = stStopping ∧ (tileOf t b).queue = [] ∧ (tileOf t b).stopAt = none
      ∧ (tileOf t b).ramp = some { t0 := f, target := stStopped })
    ∧ (∀ r, (tileOf s b).ramp = some r → r.target ≤ 6 → r.t0 + 32 ≤ now s → ∃ t, exec (.stopRampDone b) s = .next t
      ∧ tileState t b = (if r.target = stFrozen ∧ isSet s (tilePage b) HDR.CTRL_FREEZE = false then stStopped else r.target)
      ∧ tileRunning t b = false ∧ (tileOf t b).ramp = none)
    ∧ (∀ r, (tileOf s b).ramp = some r → now s < r.t0 + 32 → exec (.stopRampDone b) s = .next s)
    ∧ (pageUp s (tilePage b) = true → ∃ t, exec (.shotLoRead who b) s = .next t
      ∧ t.lastRead = BitVec.ofNat 64 (getF s (tilePage b) TMB.SHOT_LO)
      ∧ getF t (tilePage b) TMB.SHOT_HI_SHOT_H (1 + reqIdx who) = getF s (tilePage b) TMB.SHOT_HI_SHOT_H
      ∧ regsSame [TMB.SHOT_HI_SHOT_H.addr (tilePage b) (1 + reqIdx who)] s t ∧ typedSame { s with lastRead := t.lastRead } t)

/-- Issue of words and the waits of look-ahead. A Tambour that is started, does not wait, has come to its issue fc and has
room in its queue issues the word at its next address: the word enters the queue behind those held with its T, and PC
and DEPTH follow (R139, R141); a word that waits on nothing has its successor ADV later (0 counting as 1): at TGT
where its condition holds, none after a STOP word (R105, R116, R120). A word that fails its parity halts the tile
instead (R160). A wait whose key resolves in the fc at hand is over, and look-ahead goes on in the next fc (R145); a
wait whose deadline D has come without a usable decision takes the key's default, counts it, leaves the key defaulted,
and goes on at D + 4 (R145, R146); a wait before its deadline stays. WAIT words wait as such words do (R119), and
TULLE_WAIT acts on no other word. UNDR and LOST are evaluated at T_S less 20, and the successor issues at T_S less 16
(R147). (05_sequencing_and_timeline.md, 04_tambour_microword.md) -/
def Obligations.IssueAndWaits : Prop :=
  ∀ (s : State) (b : Nat), b < 32 →
    (∀ a, (tileOf s b).next = some a → tmbOn s b = true → (tileOf s b).waiting = none → (tileOf s b).issueAt ≤ now s →
      (tileOf s b).queue.length < 512 → a < 2 ^ 14 →
      (parityFails s b a = 0 → ∃ t, exec (.wordIssue b) s = .next t
        ∧ (tileOf t b).queue.map (fun e => (e.addr, e.t, e.w)) = (tileOf s b).queue.map (fun e => (e.addr, e.t, e.w))
          ++ [(a, (tileOf s b).nextT, decodeWord (storedWord s b a))]
        ∧ pcOf t b = a ∧ getF t (tilePage b) TMB.QUEUE_DEPTH = (tileOf s b).queue.length + 1
        ∧ ((decodeWord (storedWord s b a)).needsKey = false → (decodeWord (storedWord s b a)).needsEval = false →
          (tileOf t b).waiting = none
          ∧ (tileOf t b).nextT = (tileOf s b).nextT + (decodeWord (storedWord s b a)).advance
          ∧ (tileOf t b).issueAt = now s + 1
          ∧ ((decodeWord (storedWord s b a)).cond = 0x1F → (tileOf t b).next = none)
          ∧ ((decodeWord (storedWord s b a)).cond = 0x20 → (tileOf t b).next = some (decodeWord (storedWord s b a)).tgt)
          ∧ ((decodeWord (storedWord s b a)).cond = 0 → a < 16383 → (tileOf t b).next = some (a + 1))))
      ∧ (parityFails s b a ≠ 0 → ∃ t, exec (.wordIssue b) s = .next t ∧ tileState t b = stStopping
        ∧ (tileOf t b).ramp = some { t0 := now s, target := stHaltedMc } ∧ (tileOf t b).queue = []))
    ∧ (∀ w, (tileOf s b).waiting = some w → w.needKey = true → w.needEval = false → govQueued s b = false →
      (∀ r, keyResolve b w s = some r →
        (∃ t, exec (.keyDeadline b) s = .next t ∧ (tileOf t b).waiting = none ∧ (tileOf t b).issueAt = now s + 1
          ∧ (tileOf t b).nextT = w.t + w.w.advance ∧ isSet t (tilePage b) TMB.TMB_STAT_WAIT = false)
        ∧ (w.w.top = 6 → ∃ t, exec (.tulleWait b) s = .next t ∧ (tileOf t b).waiting = none
          ∧ (tileOf t b).issueAt = now s + 1 ∧ (tileOf t b).nextT = w.t + w.w.advance))
      ∧ (keyResolve b w s = none → keyDeadline (govKey s b w.w.tkey) w.t w.ts ≤ now s →
        (∃ t, exec (.keyDeadline b) s = .next t ∧ (tileOf t b).waiting = none
          ∧ (tileOf t b).issueAt = keyDeadline (govKey s b w.w.tkey) w.t w.ts + 4 ∧ (tileOf t b).nextT = w.t + w.w.advance
          ∧ (keyOf t b w.w.tkey).dflt = some (now s) ∧ irqStat t (tilePage b) 4 = true
          ∧ getF t (tilePage b) TMB.DFLT_CNT = min (getF s (tilePage b) TMB.DFLT_CNT + 1) (2 ^ TMB.DFLT_CNT.w - 1))
        ∧ (w.w.top = 6 → ∃ t, exec (.tulleWait b) s = .next t ∧ (tileOf t b).waiting = none
          ∧ (tileOf t b).issueAt = keyDeadline (govKey s b w.w.tkey) w.t w.ts + 4 ∧ (keyOf t b w.w.tkey).dflt = some (now s)))
      ∧ (keyResolve b w s = none → now s < keyDeadline (govKey s b w.w.tkey) w.t w.ts →
        exec (.keyDeadline b) s = .next s ∧ exec (.tulleWait b) s = .next s)
      ∧ (w.w.top ≠ 6 → exec (.tulleWait b) s = .next s))
    ∧ (∀ w, (tileOf s b).waiting = some w → w.needKey = false → w.needEval = true → govQueued s b = false → w.ts ≤ now s + 20 →
      ∃ t, exec (.undrLostEval b) s = .next t ∧ (tileOf t b).waiting = none ∧ (tileOf t b).issueAt = w.ts - 16
        ∧ (tileOf t b).nextT = w.t + w.w.advance ∧ isSet t (tilePage b) TMB.TMB_STAT_WAIT = false)

/-- The release of a word, the shot boundary and declared gaps. On a running tile the head of the queue is released at T
less 16: it leaves the queue, DEPTH follows, and a word that is no boundary stands behind the released ones with all
its actions to come (R139, R140). A released boundary word at its T adds one to the 48-bit shot number and clears the
UNDR of the shot; with STOP_PEND the tile then starts its stop (R66, R106, R153). A gap word at its T begins a
declared gap of 2^(BND + 3) fc, which starts with no violation where the word has no pulse and, on a read-out tile, no
window is open; one that runs already is violated (R126, R127). (05_sequencing_and_timeline.md,
04_tambour_microword.md, 02_clocks_and_time.md) -/
def Obligations.ReleaseAndBoundary : Prop :=
  ∀ (s : State) (b : Nat), b < 32 →
    (∀ e, (tileOf s b).queue.head? = some e → tileState s b = stRun → e.t ≤ now s + 16 → (tileOf s b).queue.length ≤ 512 →
      ∃ t, exec (.wordRelease b) s = .next t
        ∧ (tileOf t b).queue.map (fun e => (e.addr, e.t, e.w)) = ((tileOf s b).queue.drop 1).map (fun e => (e.addr, e.t, e.w))
        ∧ getF t (tilePage b) TMB.QUEUE_DEPTH = (tileOf s b).queue.length - 1
        ∧ (e.w.bnd ≠ 15 → ∃ x, (tileOf t b).released = (tileOf s b).released ++ [x] ∧ x.addr = e.addr ∧ x.t = e.t ∧ x.w = e.w
          ∧ x.res = e.res ∧ x.todo = actsOf (tileKind b) e.w))
    ∧ (∀ e, (tileOf s b).queue.head? = some e → now s + 16 < e.t → exec (.wordRelease b) s = .next s)
    ∧ (∀ e, readyAct s b .boundary = some e → isSet s (tilePage b) TMB.TMB_STAT_STOP_PEND = false →
      ∃ t, exec (.shotBoundary b) s = .next t ∧ shotNum t b = (shotNum s b + 1) % 2 ^ 48
        ∧ isSet t (tilePage b) TMB.TMB_STAT_UNDR = false ∧ tileState t b = tileState s b)
    ∧ (∀ e, readyAct s b .boundary = some e → isSet s (tilePage b) TMB.TMB_STAT_STOP_PEND = true →
      ∃ t, exec (.shotBoundary b) s = .next t ∧ tileState t b = stStopping
        ∧ (tileOf t b).ramp = some { t0 := e.t, target := stStopped })
    ∧ (∀ e, readyAct s b .gap = some e → ∃ t, exec (.declaredGap b) s = .next t
        ∧ (tileOf t b).gapStart = e.t ∧ (tileOf t b).gapEnd = e.t + 2 ^ (e.w.bnd + 3)
        ∧ (e.w.a.pulse = 0 → e.w.b.pulse = 0 → (isRdo b = true → openWins s b e.t (gapRuns s b e.t) = []) → (tileOf t b).gapViol = false)
        ∧ ((e.w.a.pulse ≠ 0 ∨ e.w.b.pulse ≠ 0) → (tileOf t b).gapViol = true))

/-- FRAME and LOOP operations, and the frame-corrected value. At its T a word with a FRAME ADD adds its frame-value entry
to the frame phase it names modulo 2^32, one with a FRAME SET replaces it, and a CADD whose condition was true adds it
when the successor's T comes (R113). LOAD sets the named loop counter to LVAL, DEC counts it down and leaves it at 0,
RELOAD loads LVAL into a counter at 0 and counts another down, and the other three counters stay (R121). FRAME
operations write no register but the frame phase, LOOP operations none but LOOP_CTR, and nothing else changes but the
Tambour of the tile. On a drive tile CG and CE test the delivered value with ground and excited exchanged while the X
bit of Bobbin FRM is 1, the second excited state never exchanged; on read-out and flux tiles they test the raw value,
and BX and BZ are false (R118). (04_tambour_microword.md, 05_sequencing_and_timeline.md) -/
def Obligations.FrameAndLoopOperations : Prop :=
  (∀ (s : State) (b : Nat), b < 32 →
      (∀ e, readyAct s b .frame = some e →
        (e.w.fop = 1 → ∃ t, exec (.frameAdd b) s = .next t
          ∧ framePh t b (frameOf b e.w) = (framePh s b (frameOf b e.w) + e.fv) % 2 ^ 32
          ∧ regsSame (if isDrv b then [DRV.FRAME_PH.addr (tilePage b) (frameOf b e.w)] else []) s t
          ∧ typedSame { s with tiles := t.tiles, rdos := t.rdos } t)
        ∧ (e.w.fop = 2 → ∃ t, exec (.frameSet b) s = .next t ∧ framePh t b (frameOf b e.w) = e.fv % 2 ^ 32
          ∧ regsSame (if isDrv b then [DRV.FRAME_PH.addr (tilePage b) (frameOf b e.w)] else []) s t
          ∧ typedSame { s with tiles := t.tiles, rdos := t.rdos } t))
      ∧ (∀ d f v ds, (tileOf s b).deferred = .cadd d f v :: ds → d ≤ now s → (∀ x ∈ ds, d ≤ deferredT x) →
        ∃ t, exec (.frameCadd b) s = .next t ∧ framePh t b f = (framePh s b f + v) % 2 ^ 32 ∧ (tileOf t b).deferred = ds
          ∧ regsSame (if isDrv b then [DRV.FRAME_PH.addr (tilePage b) f] else []) s t
          ∧ typedSame { s with tiles := t.tiles, rdos := t.rdos } t)
      ∧ (∀ e, readyAct s b .loop = some e → e.w.ctr < 4 → e.w.lval < 256 →
        (e.w.lop = 1 → ∃ t, exec (.loopLoad b) s = .next t
          ∧ (∀ n < 4, ctrOf (getF t (tilePage b) TMB.LOOP_CTR) n =
            if n = e.w.ctr then e.w.lval else ctrOf (getF s (tilePage b) TMB.LOOP_CTR) n)
          ∧ regsSame [TMB.LOOP_CTR.addr (tilePage b) 0] s t ∧ typedSame { s with tiles := t.tiles } t)
        ∧ (e.w.lop = 2 → ∃ t, exec (.loopDec b) s = .next t
          ∧ (∀ n < 4, ctrOf (getF t (tilePage b) TMB.LOOP_CTR) n =
            ctrOf (getF s (tilePage b) TMB.LOOP_CTR) n - (if n = e.w.ctr then 1 else 0))
          ∧ regsSame [TMB.LOOP_CTR.addr (tilePage b) 0] s t ∧ typedSame { s with tiles := t.tiles } t)
        ∧ (e.w.lop = 3 → ∃ t, exec (.loopReload b) s = .next t
          ∧ ctrOf (getF t (tilePage b) TMB.LOOP_CTR) e.w.ctr =
            (if ctrOf (getF s (tilePage b) TMB.LOOP_CTR) e.w.ctr = 0 then e.w.lval
              else ctrOf (getF s (tilePage b) TMB.LOOP_CTR) e.w.ctr - 1)
          ∧ regsSame [TMB.LOOP_CTR.addr (tilePage b) 0] s t ∧ typedSame { s with tiles := t.tiles } t)))
  ∧ (∀ (drv : Bool) (w : MWord) (q : Seq) (shot0 : Nat) (undr lost : Bool) (r : Res), r.val < 3 →
      let x := drv && decide (bit q.x w.frm = 1)
      (w.csel = 0x08 → (baseCond drv w q shot0 undr lost r = true ↔ r.val = if x then 1 else 0))
      ∧ (w.csel = 0x09 → (baseCond drv w q shot0 undr lost r = true ↔ r.val = if x then 0 else 1))
      ∧ (w.csel = 0x10 → drv = false → baseCond drv w q shot0 undr lost r = false)
      ∧ (w.csel = 0x11 → drv = false → baseCond drv w q shot0 undr lost r = false))

/-- The FLOW step, STOP words, markers, blanking and the start of a pulse. At its T a STOP word sets the tile's stopping
fc to T plus ADV (R120, R153). The FLOW step of another word leaves the stopping fc as it is, but for word 16,383
whose branch is not taken, which stops the tile as a STOP word does, and where its flow is not known at its T does so
when it is (R120); a word with no reserved encoding and no key that is off changes no register and records nothing
there. A MARK bit raises its flag of the tile in the fc at hand (R125). A drive word's BLANK bits stand in
STATUS.BLANK from its T and change nothing else (R183). A slot whose entry is no null entry starts the entry on the
slot's channel at the word's T with the slot's amplitude and phase (R174); SLOT B that names the channel of SLOT A
starts nothing and is recorded (R110). (04_tambour_microword.md, 06_drive_path.md, 05_sequencing_and_timeline.md) -/
def Obligations.FlowMarksAndPulses : Prop :=
  ∀ (s : State) (b : Nat), b < 32 →
    (∀ e, readyAct s b .stop = some e → ∃ t, exec (.stopWord b) s = .next t
      ∧ (tileOf t b).stopAt = some (e.t + e.w.advance) ∧ tileState t b = tileState s b)
    ∧ (∀ e, readyAct s b .branch = some e →
      (e.addr ≠ 16383 → ∃ t, exec (.branch b) s = .next t ∧ (tileOf t b).stopAt = (tileOf s b).stopAt
        ∧ (rsvdCodes (tileKind b) e.w = [] → (resAt s b e).keyOff = false →
          regsSame [] s t ∧ t.errs = s.errs ∧ typedSame { s with tiles := t.tiles } t))
      ∧ (∀ r, e.res = some r → e.addr = 16383 → ∃ t, exec (.branch b) s = .next t
        ∧ (tileOf t b).stopAt = (if r.taken then (tileOf s b).stopAt else some (e.t + e.w.advance)))
      ∧ (e.res = none → e.addr = 16383 → ∃ t, exec (.branch b) s = .next t ∧ (tileOf t b).stopAt = (tileOf s b).stopAt
        ∧ ∀ x ∈ (tileOf t b).released, x.t = e.t → Act.branch ∉ x.todo))
    ∧ (readyAct s b .branch = none → ∀ e, readyAct s b .flowEnd = some e → ∀ r, e.res = some r → e.addr = 16383 →
      ∃ t, exec (.branch b) s = .next t ∧ (tileOf t b).stopAt = (if r.taken then (tileOf s b).stopAt else some (e.t + e.w.advance)))
    ∧ (∀ e, readyAct s b .mark = some e → ∃ t, exec (.picotMark b) s = .next t
      ∧ ∀ m < 4, bit e.w.mark m = 1 → smFind m (tileOf t b).markT = some (now s))
    ∧ (∀ e, readyAct s b .blank = some e → ∃ t, exec (.blank b) s = .next t
      ∧ getF t (tilePage b) DRV.STATUS_BLANK = e.w.aux % 4 ∧ regsSame [HDR.STATUS.addr (tilePage b) 0] s t
      ∧ typedSame { s with tiles := t.tiles } t)
    ∧ (∀ e, readyAct s b .pulseA = some e → peLen e.pa ≠ 0 → ∃ t, exec (.pulseStart b false) s = .next t
      ∧ ∃ c, smFind (slotChan b false e.w) (tileOf t b).chans = some c ∧ c.t = e.t ∧ c.len = peLen e.pa ∧ c.start = peStart e.pa
        ∧ c.amp = e.w.a.amp ∧ c.phs = e.w.a.phs ∧ c.addr = e.addr)
    ∧ (∀ e, readyAct s b .pulseB = some e → slotClash b e.w = false → peLen e.pb ≠ 0 → ∃ t, exec (.pulseStart b true) s = .next t
      ∧ ∃ c, smFind (slotChan b true e.w) (tileOf t b).chans = some c ∧ c.t = e.t ∧ c.len = peLen e.pb ∧ c.start = peStart e.pb
        ∧ c.amp = e.w.b.amp ∧ c.phs = e.w.b.phs ∧ c.addr = e.addr)
    ∧ (∀ e, readyAct s b .pulseB = some e → slotClash b e.w = true → ∃ t, exec (.pulseStart b true) s = .next t
      ∧ (tileOf t b).chans = (tileOf s b).chans
      ∧ (rsvdCodes (tileKind b) e.w = [] → t = doneAct b e.t .pulseB (wordRec b 0x21 e.addr 2 s)))

/-- ARM and the Pauli bits of a Bobbin. At its T an ARM discards the decision held for its key and a default taken, and
notes its T as the arm point (R122, R146). FRESET marks its Bobbin for the next shot boundary. FLIPX inverts X and
FLIPZ inverts Z of the Bobbin FRM at T and leaves every other bit (R122). An FAPPLY that is due inverts X where bit 0
of the delivered value is 1 and Z where bit 1 is (R122, R171). (04_tambour_microword.md,
05_sequencing_and_timeline.md) -/
def Obligations.TulleOperations : Prop :=
  ∀ (s : State) (b : Nat), b < 32 →
    (∀ e, readyAct s b .tulle = some e →
      (e.w.top = 1 → ∃ t, exec (.tulleArm b) s = .next t ∧ (keyOf t b e.w.tkey).held = none ∧ (keyOf t b e.w.tkey).dflt = none
        ∧ (keyOf t b e.w.tkey).armT = some e.t ∧ (∀ k, k ≠ e.w.tkey → keyOf t b k = keyOf s b k)
        ∧ regsSame [] s t ∧ typedSame { s with tiles := t.tiles } t)
      ∧ (e.w.top = 3 → ∃ t, exec (.freset b) s = .next t ∧ (tileOf t b).freset = setBit (tileOf s b).freset e.w.frm
        ∧ regsSame [] s t ∧ typedSame { s with tiles := t.tiles } t)
      ∧ (e.w.top = 4 → e.w.frm < 16 → ∃ t, exec (.flipx b) s = .next t
        ∧ (∀ n < 16, bit (pauliX t b) n = if n = e.w.frm then 1 - bit (pauliX s b) n else bit (pauliX s b) n)
        ∧ pauliZ t b = pauliZ s b ∧ regsSame [DRV.PF_STAT_X.addr (tilePage b) 0] s t ∧ typedSame { s with tiles := t.tiles } t)
      ∧ (e.w.top = 5 → e.w.frm < 16 → ∃ t, exec (.flipz b) s = .next t
        ∧ (∀ n < 16, bit (pauliZ t b) n = if n = e.w.frm then 1 - bit (pauliZ s b) n else bit (pauliZ s b) n)
        ∧ pauliX t b = pauliX s b ∧ regsSame [DRV.PF_STAT_X.addr (tilePage b) 0] s t ∧ typedSame { s with tiles := t.tiles } t))
    ∧ (∀ d f v ds, (tileOf s b).deferred = .fapply d f v :: ds → d ≤ now s → (∀ x ∈ ds, d ≤ deferredT x) → f < 16 →
      ∃ t, exec (.fapply b) s = .next t ∧ pauliX t b = (if bit v 0 = 1 then flipBit (pauliX s b) f else pauliX s b)
        ∧ pauliZ t b = (if bit v 1 = 1 then flipBit (pauliZ s b) f else pauliZ s b) ∧ (tileOf t b).deferred = ds
        ∧ regsSame [DRV.PF_STAT_X.addr (tilePage b) 0] s t ∧ typedSame { s with tiles := t.tiles } t)

/-- STRM_FILL moves forward by what the ring holds. On a page open to the writer, a write of V to the STRM_FILL of a slot
that no DMA channel feeds is accepted exactly if V - FILL lies in 1 to 2^31 - 1 and V - CONS is at most 2^SIZE_LOG2,
both modulo 2^32: then FILL is V, and nothing else changes. Any other write is discarded; if only the second condition
fails, the tile writes a STREAM_OVER record. So FILL never moves back, and an accepted write claims at most the units
the ring holds. (R156) -/
def Obligations.StreamFill : Prop :=
  ∀ (s : State) (who : Requester) (b k v : Nat), b < 32 → k < 8 → v < 2 ^ 32 →
    busOpen s who (tilePage b) = true → (who = .hoop ∨ dmaBound s 2 (tilePage b) k = false) →
    let fwd := (v + 2 ^ 32 - getF s (tilePage b) TMB.STRM_FILL k) % 2 ^ 32
    let held := (v + 2 ^ 32 - getF s (tilePage b) TMB.STRM_CONS k) % 2 ^ 32
    (1 ≤ fwd → fwd ≤ 2 ^ 31 - 1 → held ≤ 2 ^ getF s (tilePage b) TMB.STRM_CFG_SIZE_LOG2 k →
        ∃ t, exec (.strmFillWrite who b k v) s = .next t ∧ getF t (tilePage b) TMB.STRM_FILL k = v
          ∧ regsSame [TMB.STRM_FILL.addr (tilePage b) k] s t ∧ typedSame s t)
    ∧ (1 ≤ fwd → fwd ≤ 2 ^ 31 - 1 → 2 ^ getF s (tilePage b) TMB.STRM_CFG_SIZE_LOG2 k < held →
        exec (.strmFillWrite who b k v) s = .next (errRec (tilePage b) 0x2D 0 k v 0 s))
    ∧ ((fwd = 0 ∨ 2 ^ 31 ≤ fwd) → exec (.strmFillWrite who b k v) s = .next s)
    ∧ (∀ t, exec (.strmFillWrite who b k v) s = .next t →
        (getF t (tilePage b) TMB.STRM_FILL k + 2 ^ 32 - getF s (tilePage b) TMB.STRM_FILL k) % 2 ^ 32 < 2 ^ 31
        ∧ (getF t (tilePage b) TMB.STRM_FILL k = getF s (tilePage b) TMB.STRM_FILL k
          ∨ (getF t (tilePage b) TMB.STRM_FILL k + 2 ^ 32 - getF t (tilePage b) TMB.STRM_CONS k) % 2 ^ 32
              ≤ 2 ^ getF t (tilePage b) TMB.STRM_CFG_SIZE_LOG2 k))

/-- Set-up and fetches of a stream slot. A write of STRM_CFG that lands stores its enable and sets FILL and CONS to 0
(R155); on a running tile it is refused with CFG_BUSY (R86). A stream unit due for its fetch plays the 16 bytes at
CONS where the ring holds it, and as zeros where it does not, and CONS moves by one either way; the units that follow
in the tile's run have one behind them (R157). (05_sequencing_and_timeline.md, 14_host_interface.md) -/
def Obligations.StreamSlots : Prop :=
  ∀ (s : State) (who : Requester) (b k : Nat), b < 32 → k < 8 →
    (∀ w, busOpen s who (tilePage b) = true → sBlocked s who (tilePage b) TMB.STRM_CFG_EN.off = false → ∃ t, exec (.strmCfgWrite who b k w) s = .next t
        ∧ getF t (tilePage b) TMB.STRM_CFG_EN k = TMB.STRM_CFG_EN.of w ∧ getF t (tilePage b) TMB.STRM_CFG_BASE k = TMB.STRM_CFG_BASE.of w
        ∧ getF t (tilePage b) TMB.STRM_FILL k = 0 ∧ getF t (tilePage b) TMB.STRM_CONS k = 0
        ∧ regsSame [TMB.STRM_CFG_EN.addr (tilePage b) k, TMB.STRM_FILL.addr (tilePage b) k, TMB.STRM_CONS.addr (tilePage b) k] s t)
    ∧ (∀ w, busOpen s who (tilePage b) = true → sBlocked s who (tilePage b) TMB.STRM_CFG_EN.off = true → ∃ t, exec (.strmCfgWrite who b k w) s = .next t
        ∧ isSet t (tilePage b) HDR.STATUS_CFG_BUSY = true ∧ getF t (tilePage b) TMB.STRM_FILL k = getF s (tilePage b) TMB.STRM_FILL k
        ∧ getF t (tilePage b) TMB.STRM_CFG_EN k = getF s (tilePage b) TMB.STRM_CFG_EN k)
    ∧ (∀ r, (tileOf s b).fetches.find? (fun r => r.stream && decide (r.t ≤ now s + 16) && fetchLive s b r) = some r →
      isSet s (tilePage b) TMB.STRM_CFG_EN r.src = true → r.src < 8 → ∃ t, exec (.streamUnitFetch b) s = .next t
        ∧ getF t (tilePage b) TMB.STRM_CONS r.src = (getF s (tilePage b) TMB.STRM_CONS r.src + 1) % 2 ^ 32
        ∧ ∃ x, (tileOf t b).units = (tileOf s b).units ++ [x] ∧ x.chan = r.chan ∧ x.t = r.t
          ∧ x.data = (if 0 < posDiff (getF s (tilePage b) TMB.STRM_FILL r.src) (getF s (tilePage b) TMB.STRM_CONS r.src)
              ∧ posDiff (getF s (tilePage b) TMB.STRM_FILL r.src) (getF s (tilePage b) TMB.STRM_CONS r.src) < 2 ^ 31
            then rtRead s (aperture b + 0x100000 + 16 * (getF s (tilePage b) TMB.STRM_CFG_BASE r.src
              + getF s (tilePage b) TMB.STRM_CONS r.src % 2 ^ ringLog s b r.src)) 16 else 0))

/-- Acquisition windows and the ADC. An ACQ word at its T schedules one window for each captured tone of its group as one
measurement set, opening RX_WIN after T and as long as the kernel of its set says (R210, R221); with eight sets open
it schedules none and counts its windows as dropped (R221). A scheduled window whose O has come opens and is counted
(R212, R213), or is dropped and counted if the tone's previous window is still open (R212). A window whose C has come
closes with the integrated pair: the sum of the window samples that the capture path forms from the ADC codes (one per
tap, in Q1.17, R203, R208, R209) and the taps, each tap as it stood in the fc it was applied (R217), shifted by 17 +
KSH, rounded to nearest with ties away from zero and saturated to 24 bits (R216); a powered-down ADC gives the pair
zero (R202). An fc with a clipped ADC sample sets OVR and IRQ bit 9, counts, and marks every open window (R201); an fc
without one, that of a powered-down ADC among them, changes nothing, and without the interleave correction no 12-bit
code is clipped (R198, R200, R201). (07_readout_capture.md) -/
def Obligations.Windows : Prop :=
  ∀ (s : State) (b n : Nat), 16 ≤ b → b < 24 → n < 32 →
    (∀ e, readyAct s b .acq = some e → acqTones s b e.w ≠ [] →
      ((∀ t ∈ acqTones s b e.w, pendWins s b t < 4) → (rdoOf s b).sets.length < 8 → ∃ t, exec (.acq b) s = .next t
        ∧ (∃ x, (rdoOf t b).sets = (rdoOf s b).sets ++ [x] ∧ x.t = e.t ∧ x.addr = e.addr ∧ x.wins.map Win.tone = acqTones s b e.w
          ∧ ∀ w ∈ x.wins, w.st = .sched ∧ w.o = e.t + getB s (tilePage b) RDO.RX_WIN_WIN_OFF w.tone
            ∧ w.klen = kdTaps (inForce s (RDO.KDESC.addr (tilePage b) (4 * w.tone + e.w.aux / 8 % 4))))
        ∧ getF t (tilePage b) RDO.STATUS_SETS = (rdoOf s b).sets.length + 1)
      ∧ ((rdoOf s b).sets.length = 8 → ∃ t, exec (.acq b) s = .next t ∧ (rdoOf t b).sets = (rdoOf s b).sets
        ∧ getF t (tilePage b) RDO.WIN_DROP_CNT = min (getF s (tilePage b) RDO.WIN_DROP_CNT
            + ((acqTones s b e.w).filter (fun t => pendWins s b t < 4)).length) (2 ^ RDO.WIN_DROP_CNT.w - 1)
        ∧ irqStat t (tilePage b) 14 = true))
    ∧ (∀ x, (winsOf s b).find? (fun e => decide (e.2.tone = n) && decide (e.2.st = .sched) && decide (e.2.o ≤ now s)) = some x →
      ((winsOf s b).any (fun e => decide (e.2.tone = n) && decide (e.2.st = .opened) && decide (x.2.o < e.2.close)) = false →
        ∃ t, exec (.windowOpen b n) s = .next t ∧ (∃ y ∈ winsOf t b, y.1.t = x.1.t ∧ y.2 = { x.2 with st := .opened })
        ∧ getF t (tilePage b) RDO.WIN_CNT = min (getF s (tilePage b) RDO.WIN_CNT + 1) (2 ^ RDO.WIN_CNT.w - 1))
      ∧ ((winsOf s b).any (fun e => decide (e.2.tone = n) && decide (e.2.st = .opened) && decide (x.2.o < e.2.close)) = true →
        ∃ t, exec (.windowOpen b n) s = .next t
        ∧ (∀ y ∈ winsOf t b, y.1.t = x.1.t → y.2.tone = n → y.2.st = .dropped)
        ∧ getF t (tilePage b) RDO.WIN_DROP_CNT = min (getF s (tilePage b) RDO.WIN_DROP_CNT + 1) (2 ^ RDO.WIN_DROP_CNT.w - 1)
        ∧ getF t (tilePage b) RDO.WIN_CNT = getF s (tilePage b) RDO.WIN_CNT))
    ∧ (∀ x, (winsOf s b).find? (fun e => decide (e.2.tone = n) && decide (e.2.st = .opened) && decide (e.2.close ≤ now s)) = some x →
      ∀ codes, ∃ t, exec (.windowClose b n codes) s = .next t ∧ ∃ y ∈ winsOf t b, y.1.t = x.1.t ∧ y.2.tone = n ∧ y.2.o = x.2.o
        ∧ y.2.st = .closed
        ∧ (∀ i, i < x.2.taps.length → y.2.taps[i]? = x.2.taps[i]?)
        ∧ (∀ i, x.2.taps.length ≤ i → i < x.2.klen → y.2.taps[i]? = some (tapOf s b x.2.desc i))
        ∧ ((windowSamples s b x.2 codes).length = x.2.klen
          ∧ ∀ z ∈ windowSamples s b x.2 codes, -(2 ^ 17) ≤ z.re ∧ z.re < 2 ^ 17 ∧ -(2 ^ 17) ≤ z.im ∧ z.im < 2 ^ 17)
        ∧ (isSet s (tilePage b) RDO.ADC_CFG_PD = true → y.2.pair = {})
        ∧ y.2.pair.re = sat24 (roundDiv (kernelSum (windowSamples s b x.2 codes) y.2.taps).re (2 ^ (17 + RDO.KDESC_KSH.of x.2.desc)))
        ∧ y.2.pair.im = sat24 (roundDiv (kernelSum (windowSamples s b x.2 codes) y.2.taps).im (2 ^ (17 + RDO.KDESC_KSH.of x.2.desc))))
    ∧ (∀ codes, tilePresent s b = true → adcClips s b codes = true → ∃ t, exec (.adcOverrange { tile := b, codes := codes }) s = .next t
      ∧ isSet t (tilePage b) RDO.ADC_STAT_OVR = true ∧ irqStat t (tilePage b) 9 = true
      ∧ getF t (tilePage b) RDO.ADC_OVR_CNT = min (getF s (tilePage b) RDO.ADC_OVR_CNT + 1) (2 ^ RDO.ADC_OVR_CNT.w - 1)
      ∧ ∀ y ∈ winsOf t b, y.2.st = .opened → y.2.o ≤ now s → now s < y.2.close → y.2.ovr = true)
    ∧ (∀ codes, adcClips s b codes = false → exec (.adcOverrange { tile := b, codes := codes }) s = .next s)
    ∧ (∀ codes, (isSet s (tilePage b) RDO.ADC_CFG_PD = true ∨ ((rdoOf s b).il = [] ∧ isSet s (tilePage b) RDO.ADC_CFG_IL_EN = false)) →
      exec (.adcOverrange { tile := b, codes := codes }) s = .next s)

/-- Unmixing and discrimination. At U + 16 a closed window whose row set is complete takes its unmixed pair: its own pair
with the unmix off, else the sum over its row of matrix entry times pair, rounded to nearest with ties away from zero;
either way saturated to 24 bits (R222, R223, R226). At U + 21 the window passes discrimination: the classification of
its pair by the geometry it kept or the one in force goes, where DEC_CFG.PUB is 1, to Tulle as a publication of the
tone (accepted by a slot that names the tone while Tulle is on: delivered 3 fc later), and where the ACQ word wanted a
record and the ring has room, into the ring behind the records there, which RES_WP counts 2 fc later (R227 to R238,
R264, R267); with PUB 0 nothing is published and with no record wanted no position is taken. A discrimination that has
not come, or that has not its turn among those of its fc, changes nothing (R237). (08_readout_decisions.md) -/
def Obligations.UnmixAndDiscrimination : Prop :=
  ∀ (s : State) (b n : Nat), 16 ≤ b → b < 24 → n < 32 →
    (∀ x, (winsOf s b).find? (fun e => decide (e.2.tone = n) && decide (e.2.st = .closed) && e.2.unmixed.isNone && !e.2.done
        && decide (e.2.u + 16 ≤ now s)) = some x →
      x.1.wins.any (fun v => decide (v.tone ∈ rowSet s b n) && (decide (v.st = .opened) || decide (v.st = .sched))
        && decide (v.close ≤ x.2.u)) = false → ∃ t, exec (.unmix b n) s = .next t
        ∧ ∃ y ∈ winsOf t b, y.1.t = x.1.t ∧ y.2.tone = n ∧ y.2.o = x.2.o ∧ y.2.unmixed = some
          (if getB s (tilePage b) RDO.UNMIX_CFG_EN = 1 then
            { re := sat24 (roundDiv (unmixSum s b n x.1 (rowSet s b n)).re (2 ^ 14))
              im := sat24 (roundDiv (unmixSum s b n x.1 (rowSet s b n)).im (2 ^ 14)) }
          else { re := sat24 x.2.pair.re, im := sat24 x.2.pair.im }))
    ∧ (∀ x, (winsOf s b).find? (fun e => decide (e.2.tone = n) && !e.2.done && e.2.unmixed.isSome && decide (e.2.u + 21 ≤ now s) && discTurn s b e.2) = some x →
      ∃ t, exec (.discrimination b n) s = .next t
      ∧ (∀ y ∈ winsOf t b, y.1.t = x.1.t → y.2.tone = n → y.2.done = true)
      ∧ (RDO.DEC_CFG_PUB.of ((x.2.geo.getD (geometry s b n)).getD 8 0#32) = 0 → t.pubs = s.pubs)
      ∧ (RDO.DEC_CFG_PUB.of ((x.2.geo.getD (geometry s b n)).getD 8 0#32) = 1 → tulOn s = true →
        slotNames s (RDO.DEC_CFG_SLOT.of ((x.2.geo.getD (geometry s b n)).getD 8 0#32)) 1 (b - 16) n 0 = true →
        ∃ y, t.pubs = s.pubs ++ [y] ∧ y.due = x.2.u + 24 ∧ y.slot = RDO.DEC_CFG_SLOT.of ((x.2.geo.getD (geometry s b n)).getD 8 0#32)
          ∧ y.dec.val = (judge (geomOf (x.2.geo.getD (geometry s b n))) (RDO.DEC_CFG_CLS.of ((x.2.geo.getD (geometry s b n)).getD 8 0#32))
            (x.2.unmixed.getD {}) (x.2.rovr || x.2.risat || x.2.usat || x.2.part)).st)
      ∧ (x.2.wantRec = true → ringTaken s b ≤ 131070 → (rdoOf t b).fresh = (rdoOf s b).fresh ++ [now s])
      ∧ (x.2.wantRec = false → (rdoOf t b).fresh = (rdoOf s b).fresh)
      ∧ getF t (tilePage b) RDO.RES_WP = getF s (tilePage b) RDO.RES_WP)
    ∧ ((winsOf s b).find? (fun e => decide (e.2.tone = n) && !e.2.done && e.2.unmixed.isSome && decide (e.2.u + 21 ≤ now s) && discTurn s b e.2) = none →
      exec (.discrimination b n) s = .next s)
    ∧ (∀ f, (rdoOf s b).fresh = [f] →
      (f + 2 ≤ now s → getF (ringCount b s) (tilePage b) RDO.RES_WP = (getF s (tilePage b) RDO.RES_WP + 1) % 2 ^ 32
        ∧ (rdoOf (ringCount b s) b).fresh = [])
      ∧ (now s < f + 2 → getF (ringCount b s) (tilePage b) RDO.RES_WP = getF s (tilePage b) RDO.RES_WP
        ∧ (rdoOf (ringCount b s) b).fresh = [f]))

/-- The state is the nearest enabled class. For every geometry, enable mask and pair: the state is an enabled class whose
distance no enabled class undercuts and no enabled class of lower number reaches; CLS 0b000 gives what 0b011 gives;
and two geometries that agree in the enabled classes and the thresholds give the same state, confidence and leakage
test, whatever the disabled classes hold. (R228) -/
def Obligations.StateIsNearestClass : Prop :=
  ∀ (g : Geom) (cls : Nat) (v : Cplx) (flagged : Bool), cls < 8 →
    let on := fun k : Nat => k < 3 ∧ bit (if cls = 0 then 3 else cls) k = 1
    (on (judge g cls v flagged).st
      ∧ (∀ k, on k → distOf g v (judge g cls v flagged).st ≤ distOf g v k)
      ∧ (∀ k, on k → k < (judge g cls v flagged).st → distOf g v (judge g cls v flagged).st < distOf g v k))
    ∧ judge g 0 v flagged = judge g 3 v flagged
    ∧ (∀ h : Geom, h.lowcTh = g.lowcTh → h.leakD = g.leakD → (∀ k, on k → distOf h v k = distOf g v k) →
        judge h cls v flagged = judge g cls v flagged)

/-- The result ring and the statistics as software reads them. On an open read-out page a write of RES_RP within the
records held moves RP, and FILL follows; one beyond them is refused with one record (R240); while a DMA channel
empties the ring, a write of RP is refused instead (R380). A read of ACC_CNT returns the count of the selected tone,
clears the count and both sums, keeps the histogram, and leaves the sums as they stood for its reader (R242, R245). A
read of a histogram bin returns and clears it, and keeps the count and the other bins (R243). CLR_ALL clears the
statistics of every tone; what the open shot has staged stays staged (R241). (08_readout_decisions.md,
14_host_interface.md) -/
def Obligations.ResultRingAndStatistics : Prop :=
  ∀ (s : State) (who : Requester) (b v n : Nat), 16 ≤ b → b < 24 → v < 2 ^ 32 → n < 4 →
    (busOpen s who (tilePage b) = true → dmaBound s 3 (tilePage b) 0 = false →
      posDiff v (getF s (tilePage b) RDO.RES_RP) ≤ resFill s b → ∃ t, exec (.resRpWrite who b v) s = .next t
        ∧ getF t (tilePage b) RDO.RES_RP = v ∧ getF t (tilePage b) RDO.RES_STAT_FILL = resFill t b % 2 ^ RDO.RES_STAT_FILL.w
        ∧ regsSame [RDO.RES_RP.addr (tilePage b) 0, RDO.RES_STAT_FILL.addr (tilePage b) 0, HDR.STATUS.addr (tilePage b) 0] s t
        ∧ typedSame s t)
    ∧ (busOpen s who (tilePage b) = true → dmaBound s 3 (tilePage b) 0 = false →
      resFill s b < posDiff v (getF s (tilePage b) RDO.RES_RP) →
        exec (.resRpWrite who b v) s = .next (errRec (tilePage b) 0x39 0 0 v 0 s))
    ∧ (busOpen s who (tilePage b) = true → dmaBound s 3 (tilePage b) 0 = true →
        exec (.resRpWrite who b v) s = .next (boundWrite (tilePage b) 0 s))
    ∧ (pageUp s (tilePage b) = true → ∃ t, exec (.accCntRead who b) s = .next t
        ∧ t.lastRead = BitVec.ofNat 64 (smGet {} (statTone s who b) (rdoOf s b).stats).cnt
        ∧ smGet {} (statTone s who b) (rdoOf t b).stats =
            { smGet {} (statTone s who b) (rdoOf s b).stats with cnt := 0, i := 0, q := 0 }
        ∧ getPair t (tilePage b) RDO.ACC_I_LO RDO.ACC_I_HI_I_H (reqIdx who) =
            ofSigned 48 (smGet {} (statTone s who b) (rdoOf s b).stats).i
        ∧ getPair t (tilePage b) RDO.ACC_Q_LO RDO.ACC_Q_HI_Q_H (reqIdx who) =
            ofSigned 48 (smGet {} (statTone s who b) (rdoOf s b).stats).q
        ∧ typedSame { s with rdos := t.rdos, lastRead := t.lastRead } t)
    ∧ (pageUp s (tilePage b) = true → ∃ t, exec (.histRead who b n) s = .next t
        ∧ t.lastRead = BitVec.ofNat 64 ((smGet {} (statTone s who b) (rdoOf s b).stats).bin n)
        ∧ smGet {} (statTone s who b) (rdoOf t b).stats = (smGet {} (statTone s who b) (rdoOf s b).stats).clearBin n
        ∧ typedSame { s with rdos := t.rdos, lastRead := t.lastRead } t)
    ∧ (busOpen s who (tilePage b) = true → ∃ t, exec (.statClrAll who b) s = .next t ∧ (rdoOf t b).stats = [] ∧ (rdoOf t b).satRec = []
        ∧ (rdoOf t b).staged = (rdoOf s b).staged ∧ (∀ k < 32, getF t (tilePage b) RDO.ACC_CNT k = 0)
        ∧ typedSame { s with rdos := t.rdos } t)

/-- Channelizer coefficients, the unmix matrix, the flux coefficient banks and a shorted output. Hoop firmware's
recomputation of the coefficients sets CHAN_STAT.READY, and changes nothing while READY stands (R206). On an open page
a write of UNMIX_CFG starts a load of the matrix from the MBASE it names, and a write of OUT_CFG a load of the bank it
names; RANGE of a stopped tile is stored, but 0b11 is not taken and sets CFG_BUSY (R224, R253, R257). A load that ends
with every line good takes effect at once on a stopped tile, and on a running one waits with SWAP_PEND for the shot
boundary; one that meets a poisoned line fails and leaves the values in force (R224, R253); a frozen page holds it
(R83). An output shorted for 256 fc latches SHORT with interrupt and record; a powered-down or latched one does not
(R257). (07_readout_capture.md, 08_readout_decisions.md, 09_flux_path.md) -/
def Obligations.CoefficientLoads : Prop :=
  ∀ (s : State) (who : Requester) (b : Nat),
    (16 ≤ b → b < 24 →
      (∀ bs, tilePresent s b = true → isSet s (tilePage b) RDO.CHAN_STAT_READY = false →
        ∃ t, exec (.chanCoefRecompute b bs) s = .next t ∧ isSet t (tilePage b) RDO.CHAN_STAT_READY = true)
      ∧ (∀ bs, isSet s (tilePage b) RDO.CHAN_STAT_READY = true → exec (.chanCoefRecompute b bs) s = .next s)
      ∧ (∀ w, busOpen s who (tilePage b) = true → ∃ t, exec (.unmixCfgWrite who b w) s = .next t
        ∧ (rdoOf t b).loading = some (RDO.UNMIX_CFG_MBASE.of w) ∧ isSet t (tilePage b) RDO.UNMIX_STAT_LOADING = true
        ∧ getF t (tilePage b) RDO.UNMIX_CFG_MBASE = RDO.UNMIX_CFG_MBASE.of w)
      ∧ (isSet s (tilePage b) HDR.CTRL_FREEZE = true → exec (.unmixLoadComplete b) s = .next s)
      ∧ (∀ base, (rdoOf s b).loading = some base → isSet s (tilePage b) HDR.CTRL_FREEZE = false →
        ((∀ a ∈ matLines b base, lineBad s a = false) → tileRunning s b = true → ∃ t, exec (.unmixLoadComplete b) s = .next t
          ∧ (rdoOf t b).matNext = some (readMatrix s b base) ∧ (rdoOf t b).mat = (rdoOf s b).mat ∧ (rdoOf t b).loading = none
          ∧ isSet t (tilePage b) RDO.UNMIX_STAT_SWAP_PEND = true ∧ isSet t (tilePage b) RDO.UNMIX_STAT_LOADING = false)
        ∧ ((∀ a ∈ matLines b base, lineBad s a = false) → tileRunning s b = false → ∃ t, exec (.unmixLoadComplete b) s = .next t
          ∧ (rdoOf t b).mat = some (readMatrix s b base) ∧ (rdoOf t b).matNext = none ∧ (rdoOf t b).loading = none
          ∧ isSet t (tilePage b) RDO.UNMIX_STAT_SWAP_PEND = false ∧ isSet t (tilePage b) RDO.UNMIX_STAT_LOADING = false)
        ∧ ((∃ a ∈ matLines b base, (lineSt s a).poison = true) → ∃ t, exec (.unmixLoadComplete b) s = .next t
          ∧ isSet t (tilePage b) RDO.UNMIX_STAT_FAIL = true ∧ (rdoOf t b).loading = none ∧ (rdoOf t b).mat = (rdoOf s b).mat)))
    ∧ (24 ≤ b → b < 32 → ∀ k, k < 16 →
      (∀ w, busOpen s who (tilePage b) = true → ∃ t, exec (.outCfgWrite who b k w) s = .next t
        ∧ (fluxOf t b k).loading = some (FLX.OUT_CFG_BANK.of w) ∧ isSet t (tilePage b) FLX.OUT_STAT_LOADING k = true
        ∧ getF t (tilePage b) FLX.OUT_CFG_BANK k = FLX.OUT_CFG_BANK.of w
        ∧ (FLX.OUT_CFG_RANGE.of w = 3 → getF t (tilePage b) FLX.OUT_CFG_RANGE k = getF s (tilePage b) FLX.OUT_CFG_RANGE k
          ∧ isSet t (tilePage b) HDR.STATUS_CFG_BUSY = true)
        ∧ (FLX.OUT_CFG_RANGE.of w ≠ 3 → sBlocked s who (tilePage b) FLX.OUT_CFG_RANGE.off = false → getF t (tilePage b) FLX.OUT_CFG_RANGE k = FLX.OUT_CFG_RANGE.of w))
      ∧ (isSet s (tilePage b) HDR.CTRL_FREEZE = true → exec (.corrLoadComplete b k) s = .next s)
      ∧ (∀ bank, (fluxOf s b k).loading = some bank → isSet s (tilePage b) HDR.CTRL_FREEZE = false →
        ((∀ a ∈ [coefAddr b k bank, coefAddr b k bank + 0x40], lineBad s a = false) →
          (tileRunning s b = true → ∃ t, exec (.corrLoadComplete b k) s = .next t ∧ (fluxOf t b k).loading = none
            ∧ (fluxOf t b k).coefNext = some (readBank s b k bank) ∧ (fluxOf t b k).coef = (fluxOf s b k).coef)
          ∧ (tileRunning s b = false → ∃ t, exec (.corrLoadComplete b k) s = .next t ∧ (fluxOf t b k).loading = none
            ∧ (fluxOf t b k).coefNext = none ∧ (fluxOf t b k).coef = readBank s b k bank
            ∧ isSet t (tilePage b) FLX.OUT_STAT_LOADING k = false))
        ∧ ((∃ a ∈ [coefAddr b k bank, coefAddr b k bank + 0x40], (lineSt s a).poison = true) →
          ∃ t, exec (.corrLoadComplete b k) s = .next t ∧ (fluxOf t b k).loading = none
            ∧ isSet t (tilePage b) FLX.OUT_STAT_FAIL k = true ∧ (fluxOf t b k).coef = (fluxOf s b k).coef))
      ∧ (tilePresent s b = true → isSet s (tilePage b) FLX.OUT_STAT_SHORT k = false → isSet s (tilePage b) FLX.OUT_CFG_PD k = false →
        ∃ t, exec (.outShort b k) s = .next t ∧ isSet t (tilePage b) FLX.OUT_STAT_SHORT k = true ∧ irqStat t (tilePage b) 13 = true)
      ∧ ((isSet s (tilePage b) FLX.OUT_STAT_SHORT k = true ∨ isSet s (tilePage b) FLX.OUT_CFG_PD k = true) →
        exec (.outShort b k) s = .next s))

/-- The delivery of a decision and the withdrawal of a route. The first publication of a slot whose delivery fc has come,
and which has its turn (by fc, and within an fc by slot, R284), is taken off the list. While Tulle is on and the slot
is not lost, it is delivered: SLOT_LAST shows its value, flags and fc, SLOT_CNT counts it (R267, R268), and a
subscribing key of a started tile that holds nothing, has taken no default, is not armed in that fc and does not wait
holds it from then on (R145, R146). Otherwise nothing else changes (R276, R286). A withdrawal discards the slot's
waiting route change and its exports, and makes a slot of KIND 3 lost (R263, R276); another slot keeps its LOST.
(10_tulle_feedback.md, 05_sequencing_and_timeline.md) -/
def Obligations.DecisionDelivery : Prop :=
  ∀ (s : State) (slot : Nat), slot < 512 →
    (∀ b, duePub s slot = some b → delivTurn s b = false → exec (.decisionDelivery slot) s = .next s)
    ∧ (∀ b, duePub s slot = some b → delivTurn s b = true → (tulOn s = false ∨ slotLost s slot = true) →
      exec (.decisionDelivery slot) s = .next { s with pubs := s.pubs.erase b })
    ∧ (∀ b, duePub s slot = some b → delivTurn s b = true → tulOn s = true → slotLost s slot = false → ∃ t, exec (.decisionDelivery slot) s = .next t
      ∧ t.pubs = s.pubs.erase b
      ∧ getF t pTul TUL.SLOT_LAST_VALUE slot = b.dec.val % 2 ^ TUL.SLOT_LAST_VALUE.w ∧ isSet t pTul TUL.SLOT_LAST_SEEN slot = true
      ∧ isSet t pTul TUL.SLOT_LAST_LEAK slot = b.dec.leak ∧ isSet t pTul TUL.SLOT_LAST_LOWC slot = b.dec.lowc
      ∧ getF t pTul TUL.SLOT_LAST_DTIME slot = b.due % 2 ^ TUL.SLOT_LAST_DTIME.w
      ∧ getF t pTul TUL.SLOT_CNT slot = min (getF s pTul TUL.SLOT_CNT slot + 1) (2 ^ TUL.SLOT_CNT.w - 1)
      ∧ (∀ i < 32, tilePresent s i = true → tmbOn s i = true → (tileOf s i).waiting = none → ∀ k ∈ keysOf s i slot,
        (keyOf s i k).held = none → (keyOf s i k).dflt = none → armAt s i k b.due = false →
          (keyOf t i k).held = some (b.due, b.dec)))
    ∧ (duePub s slot = none → exec (.decisionDelivery slot) s = .next s)
    ∧ (∃ t, exec (.routeWithdraw slot) s = .next t ∧ (tulSlot t slot).next = none
      ∧ getF t pTul TUL.SLOT_RT_EXPORT slot = 0 ∧ isSet t pTul TUL.SLOT_RT_RT_PEND slot = false
      ∧ (slotKind s slot = 3 → slotLost t slot = true) ∧ (slotKind s slot ≠ 3 → slotLost t slot = slotLost s slot))

/-- Rounds, escalations and the clears of the Darner. An open round that has reached its timeout, with the page not
frozen, closes with reason TIMEOUT: its decisions go into the pipeline and the round number counts (R294, R296).
Twelve fc after its close, in the order of the close fc and within one of the patches (R303), the oldest round leaves
the pipeline: by what its tables held in their read fc (R301), or hold now where every line it reads is good, a
matched round publishes one value on every output of the patch through the slots that name them while Tulle is on
(R297 to R300), and writes no record unless REC_ALL asks for one; an escalated round counts and appends its record to
a queue that has room (R302, R303), and without ESC_PUB publishes nothing. On the open page CLR acts in the first fc
after the write: it discards the open round of its patch and clears reference and round number, and leaves the rounds
in the pipeline (R306); POP removes the oldest record (R304), and is refused while a DMA channel empties the queue
(R380). (11_darner.md, 14_host_interface.md) -/
def Obligations.DarnerRounds : Prop :=
  ∀ (s : State) (who : Requester) (p : Nat), p < 8 →
    (∀ c, timeoutFc s p = some c → c ≤ now s → isSet s pDrn HDR.CTRL_FREEZE = false → ∃ t, exec (.roundTimeout p) s = .next t
      ∧ (patchOf t p).opened = none ∧ (patchOf t p).held = []
      ∧ (∃ x, (patchOf t p).rounds = (patchOf s p).rounds ++ [x] ∧ x.c = c ∧ x.reason = 2 ∧ x.held = (patchOf s p).held
        ∧ x.rnd = (getF s pDrn DRN.PATCH_RND p + 1) % 2 ^ 32)
      ∧ getF t pDrn DRN.PATCH_RND p = (getF s pDrn DRN.PATCH_RND p + 1) % 2 ^ 32
      ∧ regsSame [DRN.PATCH_RND.addr pDrn p, DRN.PATCH_STAT.addr pDrn p] s t ∧ typedSame { s with patches := t.patches } t)
    ∧ (∀ c, timeoutFc s p = some c → now s < c → exec (.roundTimeout p) s = .next s)
    ∧ (∀ r, (patchOf s p).rounds.head? = some r → r.c + 12 ≤ now s → roundTurn s p r = true → (r.read.isSome = true ∨ ∀ a ∈ roundLines p r, lineBad s a = false) →
      let found := r.read.getD (false, roundEntry s p r)
      let reason := roundReason r found.1 found.2
      ∃ t, exec (.darnerPublish p) s = .next t ∧ (patchOf t p).rounds = (patchOf s p).rounds.tail
      ∧ (reason = 0 → DRN.PATCH_CFG_REC_ALL.of r.cfg = 0 → t.esc = s.esc)
      ∧ (reason = 0 → tulOn s = true →
        (∀ n < (outRange r.map).2, slotNames s (getB s pDrn DRN.DOUT_SLOT_SLOT ((outRange r.map).1 + n)) 2 0 0 ((outRange r.map).1 + n) = true) →
        t.pubs = s.pubs ++ (List.range (outRange r.map).2).map (fun n =>
          { slot := getB s pDrn DRN.DOUT_SLOT_SLOT ((outRange r.map).1 + n), due := r.c + 15, src := 2, port := 0,
            dec := { val := if events r.ev = [] then 0 else outValue (found.2.getD 0) n, leak := false, lowc := false,
                     ndet := r.held.any (fun e => e.2.ndet) } }))
      ∧ (reason ≠ 0 → s.esc.length < 64 → t.esc = s.esc ++ [escRecord p (reason) r]
        ∧ getF t pDrn DRN.PATCH_STAT_ESC_N p = min (getF s pDrn DRN.PATCH_STAT_ESC_N p + 1) (2 ^ DRN.PATCH_STAT_ESC_N.w - 1))
      ∧ (reason ≠ 0 → DRN.PATCH_CFG_ESC_PUB.of r.cfg = 0 → t.pubs = s.pubs))
    ∧ (∀ r, (patchOf s p).rounds.head? = some r → (now s < r.c + 12 ∨ roundTurn s p r = false) → exec (.darnerPublish p) s = .next s)
    ∧ (busOpen s who pDrn = true → ∃ t, exec (.patchClr who p) s = .next t
      ∧ patchOf t p = { patchOf s p with clrAt := some (now s + 1) } ∧ (∀ q, q ≠ p → patchOf t q = patchOf s q)
      ∧ regsSame [DRN.PATCH_STAT.addr pDrn p] s t ∧ typedSame { s with patches := t.patches } t)
    ∧ (∀ f, (patchOf s p).clrAt = some f → f ≤ now s → (patchOf (darnerClears s) p).opened = none ∧ (patchOf (darnerClears s) p).held = []
      ∧ (patchOf (darnerClears s) p).ref = 0 ∧ (patchOf (darnerClears s) p).rounds = (patchOf s p).rounds
      ∧ getF (darnerClears s) pDrn DRN.PATCH_RND p = 0)
    ∧ (busOpen s who pDrn = true → dmaBound s 4 0 0 = false → ∃ t, exec (.escPop who) s = .next t ∧ t.esc = s.esc.tail
      ∧ regsSame [DRN.ESC_STAT_DEPTH.addr pDrn 0] s t ∧ typedSame { s with esc := t.esc } t)
    ∧ (busOpen s who pDrn = true → dmaBound s 4 0 0 = true → exec (.escPop who) s = .next (boundWrite 0xC 0 s))

/-- Training of a port, its activation and its loss of lock. On an open port page TRAIN of an enabled port, and a write
that enables one, put the port into SEARCH; every entry after the first counts a retraining; TRAIN of a disabled port
changes nothing but what accesses of the mc still see (R325). A lane of a port that is not frozen whose bits carry 64
valid headers in a row shows block lock, and other bits show nothing (R330). A TRAIN block in SEARCH is counted for
its lane, keeps what the peer can do and, where the other lane has had one of the same training counter that names
this lane, shows LANE_SWAP (R325, R328); in AGREE, MAIN_OK at both ends decides for main clocking mode (R326). When
MAIN_OK has stayed 0 for 10 µs after both lanes locked the port takes fall-back mode where both ends can, else it
fails with reason 2 (R326); before that nothing happens. MEASURE for 100 µs, and 1 ms since SEARCH, fail the port
(R329); a failed enabled port with AUTO searches again after its back-off interval, which doubles up to 64 ms (R329).
ACTIVATE in MEASURE makes the port ACTIVE with the interrupt and a back-off of 1 ms, and does nothing elsewhere
(R327). Loss of lock of an ACTIVE or idled port counts, loses every slot it imports, and leads to SEARCH with AUTO and
to FAILED without; one whose cause is header errors needs 16 of 64 invalid headers (R330, R331). A port in AGREE,
DESKEW or MEASURE with AUTO starts afresh (R325, R333). A port in SEARCH whose block period begins sends a TRAIN block
on each lane, and the next period follows 33/16 fc later with the training counter one higher (R310, R328).
(12_jodex_links.md) -/
def Obligations.PortTraining : Prop :=
  ∀ (s : State) (who : Requester) (n : Nat), n < 8 →
    (busOpen s who (jdxPage n) = true → isSet s (jdxPage n) HDR.CTRL_EN = true → ∃ t, exec (.portTrain who n false) s = .next t
      ∧ portState t n = 1 ∧ getF t (jdxPage n) JDX.TRAIN_CNT_RETRAIN
        = (if (portOf s n).tx.on then min (getF s (jdxPage n) JDX.TRAIN_CNT_RETRAIN + 1) (2 ^ JDX.TRAIN_CNT_RETRAIN.w - 1)
          else getF s (jdxPage n) JDX.TRAIN_CNT_RETRAIN)
      ∧ (portOf t n).searchUp = s.up ∧ (portOf t n).tx.start = 16 * s.up ∧ Urgent.topology ∈ t.hoop.urgent)
    ∧ (busOpen s who (jdxPage n) = true → isSet s (jdxPage n) HDR.CTRL_EN = false →
      exec (.portTrain who n false) s = .next (notePage (some who) (jdxPage n) s)
      ∧ ∃ t, exec (.portTrain who n true) s = .next t ∧ portState t n = 1 ∧ isSet t (jdxPage n) HDR.CTRL_EN = true)
    ∧ (1 ≤ portState s n → portState s n ≤ 6 → portHeld s n = false → ∀ lane line, lane < 2 →
      (locks line = true → ∃ t, exec (.laneBlockLock n { lane := lane, bits := line }) s = .next t
        ∧ isSet t (jdxPage n) (if lane = 0 then JDX.STATUS_LOCK0 else JDX.STATUS_LOCK1) = true
        ∧ regsSame [HDR.STATUS.addr (jdxPage n) 0] s t ∧ typedSame { s with ports := t.ports } t)
      ∧ (locks line = false → exec (.laneBlockLock n { lane := lane, bits := line }) s = .next s))
    ∧ (portState s n = 1 → portHeld s n = false → ∀ lane blk inv mainCap mainOk fb st ctr ppm, lane < 2 →
      ∃ t, exec (.trainBlockRx n lane blk inv { cap := mainCap, ok := mainOk } fb { state := st, ctr := ctr } ppm) s = .next t
      ∧ (portOf t n).peerMain = mainCap ∧ (portOf t n).peerFb = fb ∧ (portOf t n).ppm = ppm
      ∧ (inv = true → isSet t (jdxPage n) (if lane = 0 then JDX.STATUS_POL0 else JDX.STATUS_POL1) = true)
      ∧ (lane = 0 → blk = 1 → (0, ctr) ∈ (portOf s n).trn1 → isSet t (jdxPage n) JDX.STATUS_LANE_SWAP = true)
      ∧ (bothLocked s n = false → (portOf t n).rx0 = (portOf s n).rx0 + (if lane = 0 then 1 else 0)
        ∧ (portOf t n).rx1 = (portOf s n).rx1 + (if lane = 0 then 0 else 1) ∧ portState t n = 1)
      ∧ (bothLocked s n = true → 16 ≤ (portOf s n).rx0 + (if lane = 0 then 1 else 0) →
        16 ≤ (portOf s n).rx1 + (if lane = 0 then 0 else 1) → portState t n = 2))
    ∧ (portState s n = 2 → portHeld s n = false → (portOf s n).mode = none → mainCap s n = true → bothLocked s n = true →
      ∀ lane blk inv cap fb st ctr, lane < 2 →
      ∃ t, exec (.trainBlockRx n lane blk inv { cap := cap, ok := true } fb { state := st, ctr := ctr } true) s = .next t ∧ (portOf t n).mode = some false)
    ∧ (portState s n = 2 → portHeld s n = false → (portOf s n).mode = none → bothLocked s n = true →
      (s.up < (portOf s n).lockUp + 10000 → exec (.modeTimeout n) s = .next s)
      ∧ ((portOf s n).lockUp + 10000 ≤ s.up → (fbCap s n && (portOf s n).peerFb) = true →
        ∃ t, exec (.modeTimeout n) s = .next t ∧ (portOf t n).mode = some true ∧ portState t n = 2 ∧ regsSame [] s t)
      ∧ ((portOf s n).lockUp + 10000 ≤ s.up → (fbCap s n && (portOf s n).peerFb) = false →
        ∃ t, exec (.modeTimeout n) s = .next t ∧ portState t n = 7 ∧ irqStat t (jdxPage n) 9 = true))
    ∧ (portHeld s n = false → portState s n = 4 →
      ((portOf s n).measUp + 100000 ≤ s.up → ∃ t, exec (.trainTimeout n true) s = .next t ∧ portState t n = 7
        ∧ irqStat t (jdxPage n) 9 = true)
      ∧ (s.up < (portOf s n).measUp + 100000 → exec (.trainTimeout n true) s = .next s))
    ∧ (portHeld s n = false → 1 ≤ portState s n → portState s n ≤ 4 → (portOf s n).tx.on = true →
      ((portOf s n).searchUp + 1000000 ≤ s.up → ∃ t, exec (.trainTimeout n false) s = .next t ∧ portState t n = 7)
      ∧ (s.up < (portOf s n).searchUp + 1000000 → exec (.trainTimeout n false) s = .next s))
    ∧ (portState s n = 7 → portHeld s n = false → isSet s (jdxPage n) JDX.PORT_CFG_AUTO = true → isSet s (jdxPage n) HDR.CTRL_EN = true →
      ((portOf s n).failUp + 1000000 * (portOf s n).backoff ≤ s.up →
        ∃ t, exec (.trainBackoff n) s = .next t ∧ portState t n = 1 ∧ (portOf t n).backoff = min 64 (2 * (portOf s n).backoff))
      ∧ (s.up < (portOf s n).failUp + 1000000 * (portOf s n).backoff → exec (.trainBackoff n) s = .next s))
    ∧ (busOpen s who (jdxPage n) = true → portState s n = 4 → ∃ t, exec (.portActivate who n) s = .next t ∧ portState t n = 5
      ∧ isSet t (jdxPage n) HDR.STATUS_RUN = true ∧ irqStat t (jdxPage n) 1 = true ∧ (portOf t n).backoff = 1)
    ∧ (busOpen s who (jdxPage n) = true → portState s n ≠ 4 →
      exec (.portActivate who n) s = .next (notePage (some who) (jdxPage n) s))
    ∧ ((portState s n = 5 ∨ portState s n = 6) → portHeld s n = false → ∀ lanes cause, (∀ bad, cause = .headers bad → 16 ≤ popcount 64 bad) →
      ∃ t, exec (.jodexLossOfLock n lanes cause) s = .next t
      ∧ portState t n = (if isSet s (jdxPage n) JDX.PORT_CFG_AUTO then 1 else 7)
      ∧ getF t (jdxPage n) JDX.TRAIN_CNT_LOL = min (getF s (jdxPage n) JDX.TRAIN_CNT_LOL + 1) (2 ^ JDX.TRAIN_CNT_LOL.w - 1)
      ∧ ∀ i < 512, slotKind s i = 3 → getF s pTul TUL.SLOT_RT_IMP_PORT i = n → isSet s (jdxPage n) JDX.STATUS_PEER_IDLE = false →
        slotLost t i = true)
    ∧ (∀ lanes bad, popcount 64 bad < 16 → exec (.jodexLossOfLock n lanes (.headers bad)) s = .next s)
    ∧ (2 ≤ portState s n → portState s n ≤ 4 → portHeld s n = false → isSet s (jdxPage n) JDX.PORT_CFG_AUTO = true → ∀ lanes cause,
      (∀ bad, cause = .headers bad → 16 ≤ popcount 64 bad) → ∃ t, exec (.jodexLossOfLock n lanes cause) s = .next t ∧ portState t n = 1)
    ∧ (portState s n = 1 → portHeld s n = false → (portOf s n).tx.on = true → (portOf s n).tx.framed = false → (portOf s n).tx.filling = false →
      16 * s.up ≤ (portOf s n).tx.start → (portOf s n).tx.start < 16 * s.up + 16 →
      (portOf (portCycle n s) n).tx.blks.map (fun b => (b.hdr, b.pay)) = [(2, trainPay s n 0), (2, trainPay s n 1)]
      ∧ (portOf (portCycle n s) n).tx.start = (portOf s n).tx.start + 33
      ∧ (portOf (portCycle n s) n).tx.ctr = ((portOf s n).tx.ctr + 1) % 65536)

/-- What a port does with the blocks it receives. On a port that is not frozen: a FRAME marker of lane 0 in ACTIVE keeps
its SEQ, port, CREDIT, arrival stamp and TIME_VALID, and a SEQ that is not the last plus 16 counts and raises SEQ_ERR
(R332); a marker in DESKEW with more than 4 block periods of skew fails the port with reason 3 (R328); after idle, 16
valid headers and the SEQ counted on restore the link (R338). A block with a wrong header, or a decision block with a
wrong CRC, is discarded and counted, a good one adds every entry with V set, in order; the payload is what the
descrambler gives (R310, R317 to R319, R330). A word whose fc has come leaves the port behind the device shot
boundaries of that fc, and where Tulle is on and its slot imports from the port it is delivered 9 fc later, over a
fall-back link 7 (R265, R271, R278). A control block of unknown type on a locked lane is counted and discarded (R311).
On a fall-back link a FILLER is deleted above half and inserted below half of the elastic buffer of 8 block periods
(R334). A fragment that starts a message opens it, one that ends it with a good CRC and a known type hands it on, and
a fragment with no open message is dropped and counted (R322, R323). A TIME block of an ACTIVE port in main clocking
mode is counted and its value kept (R353). (12_jodex_links.md, 10_tulle_feedback.md) -/
def Obligations.PortReceive : Prop :=
  ∀ (s : State) (n : Nat), n < 8 → portHeld s n = false →
    (portState s n = 5 → isSet s (jdxPage n) JDX.STATUS_PEER_IDLE = false → ∀ fb tv seq port credit arr skew hdrs,
      ∃ t, exec (.frameMarkerRx n 0 fb { tvalid := tv, port := port } seq credit arr skew hdrs) s = .next t ∧ (portOf t n).seq0 = some seq
      ∧ (portOf t n).markUp = s.up ∧ (portOf t n).arr = arr ∧ (portOf t n).peerValid = tv ∧ (portOf t n).peerPort = port
      ∧ (portOf t n).credit = credit ∧ portState t n = 5
      ∧ (∀ q, (portOf s n).seq0 = some q → seqNext q ≠ seq → irqStat t (jdxPage n) 4 = true
        ∧ getF t (jdxPage n) JDX.UNK_CNT_SEQ_ERR = min (getF s (jdxPage n) JDX.UNK_CNT_SEQ_ERR + 1) (2 ^ JDX.UNK_CNT_SEQ_ERR.w - 1))
      ∧ (∀ q, (portOf s n).seq0 = some q → seqNext q = seq → regsSame [CST.TSRC_DLY_D.addr 0x38 0] s t))
    ∧ (portState s n = 3 → ∀ lane fb tv seq port credit arr skew hdrs, 264 < skew.natAbs →
      ∃ t, exec (.frameMarkerRx n lane fb { tvalid := tv, port := port } seq credit arr skew hdrs) s = .next t ∧ portState t n = 7)
    ∧ (portState s n = 5 → isSet s (jdxPage n) JDX.STATUS_PEER_IDLE = true → ∀ lane fb tv port credit arr skew,
      ∃ t, exec (.frameMarkerRx n lane fb { tvalid := tv, port := port } (seqCounted s n) credit arr skew true) s = .next t ∧ portState t n = 5
      ∧ isSet t (jdxPage n) JDX.STATUS_PEER_IDLE = false ∧ irqStat t (jdxPage n) 8 = true)
    ∧ (portState s n = 5 → isSet s (jdxPage n) JDX.STATUS_PEER_IDLE = false → ∀ lane hist line, lane < 2 →
      (∀ hdr, hdr ≠ 1 → hdr ≠ 2 → ∃ t, exec (.decisionBlockRx n lane hdr { hist := hist, line := line }) s = .next t ∧ (portOf t n).rx = (portOf s n).rx
        ∧ irqStat t (jdxPage n) 3 = true
        ∧ getF t (jdxPage n) JDX.HDR_ERR lane = min (getF s (jdxPage n) JDX.HDR_ERR lane + 1) (2 ^ JDX.HDR_ERR.w - 1)
        ∧ getF t (jdxPage n) JDX.DEC_CRC_CNT = min (getF s (jdxPage n) JDX.DEC_CRC_CNT + 1) (2 ^ JDX.DEC_CRC_CNT.w - 1))
      ∧ (crc7 (descramble hist line) ≠ blockCrc (descramble hist line) → ∃ t, exec (.decisionBlockRx n lane 1 { hist := hist, line := line }) s = .next t
        ∧ (portOf t n).rx = (portOf s n).rx ∧ irqStat t (jdxPage n) 3 = true
        ∧ getF t (jdxPage n) JDX.DEC_CRC_CNT = min (getF s (jdxPage n) JDX.DEC_CRC_CNT + 1) (2 ^ JDX.DEC_CRC_CNT.w - 1))
      ∧ (crc7 (descramble hist line) = blockCrc (descramble hist line) → ∃ t, exec (.decisionBlockRx n lane 1 { hist := hist, line := line }) s = .next t
        ∧ (portOf t n).rx.map RxWord.slot = (portOf s n).rx.map RxWord.slot
          ++ ([0, 1, 2].filter (fun k => bit (blockEntry (descramble hist line) k) 18 = 1)).map
            (fun k => mwBits (blockEntry (descramble hist line) k) 5 9)
        ∧ portState t n = 5))
    ∧ (∀ w, (portOf s n).rx.find? (fun w => decide (w.rel ≤ now s)) = some w → devDue s w.rel = true → exec (.decisionRelease n) s = .next s)
    ∧ (∀ w, (portOf s n).rx.find? (fun w => decide (w.rel ≤ now s)) = some w → devDue s w.rel = false →
      ∃ t, exec (.decisionRelease n) s = .next t
      ∧ (portOf t n).rx = (portOf s n).rx.erase w
      ∧ (tulOn s = true → slotKind s w.slot = 3 → getF s pTul TUL.SLOT_RT_IMP_PORT w.slot = n → w.dec.ndet = false →
        t.pubs = s.pubs ++ [{ slot := w.slot, due := w.rel + (if w.fb then 7 else 9), src := 3, port := n, dec := w.dec }]
        ∧ regsSame [] s t)
      ∧ (tulOn s = false → t.pubs = s.pubs))
    ∧ (∀ lane, lane < 2 → isSet s (jdxPage n) (if lane = 0 then JDX.STATUS_LOCK0 else JDX.STATUS_LOCK1) = true →
      ∃ t, exec (.unknownBlockRx { port := n, lane := lane, hdr := 2 }) s = .next t
      ∧ getF t (jdxPage n) JDX.UNK_CNT_UNK_TYPE = min (getF s (jdxPage n) JDX.UNK_CNT_UNK_TYPE + 1) (2 ^ JDX.UNK_CNT_UNK_TYPE.w - 1)
      ∧ regsSame [JDX.UNK_CNT_UNK_TYPE.addr (jdxPage n) 0] s t ∧ typedSame s t)
    ∧ (isSet s (jdxPage n) JDX.STATUS_FBM = true → ∀ drift k, k = (clampI 0 8 ((portOf s n).ebuf + drift)).toNat →
      ∃ t, exec (.fillerRx n drift) s = .next t ∧ (portOf t n).ebuf = (if 4 < k then k - 1 else if k < 4 then k + 1 else k)
      ∧ (4 < k → getF t (jdxPage n) JDX.FILL_CNT_FILL_DEL
        = min (getF s (jdxPage n) JDX.FILL_CNT_FILL_DEL + 1) (2 ^ JDX.FILL_CNT_FILL_DEL.w - 1))
      ∧ (k < 4 → getF t (jdxPage n) JDX.FILL_CNT_FILL_INS
        = min (getF s (jdxPage n) JDX.FILL_CNT_FILL_INS + 1) (2 ^ JDX.FILL_CNT_FILL_INS.w - 1))
      ∧ (k = 4 → regsSame [] s t) ∧ regsSame [JDX.FILL_CNT_FILL_DEL.addr (jdxPage n) 0] s t ∧ typedSame { s with ports := t.ports } t)
    ∧ (portState s n = 5 → isSet s (jdxPage n) JDX.STATUS_PEER_IDLE = false → ∀ chan bytes,
      ((portOf s n).openMsg = none → freeBufs s n ≠ 0 → bytes.length ≤ 1024 → ∃ t, exec (.mgmtFragmentRx n true false chan bytes) s = .next t
        ∧ (portOf t n).openMsg = some (chan, bytes) ∧ (portOf t n).msgs = (portOf s n).msgs ∧ regsSame [] s t)
      ∧ (∀ m, (portOf s n).openMsg = some m → m.1 = chan → (m.2 ++ bytes).length ≤ 1024 → msgCrcOk (m.2 ++ bytes) = true →
        knownMsg chan (m.2 ++ bytes) = true → ∃ t, exec (.mgmtFragmentRx n false true chan bytes) s = .next t
        ∧ (portOf t n).openMsg = none ∧ (portOf t n).msgs = (portOf s n).msgs ++ [(chan, m.2 ++ bytes)] ∧ regsSame [] s t)
      ∧ ((portOf s n).openMsg = none → ∀ eom, ∃ t, exec (.mgmtFragmentRx n false eom chan bytes) s = .next t
        ∧ (portOf t n).msgs = (portOf s n).msgs
        ∧ getF t (jdxPage n) JDX.MGMT_DROP = min (getF s (jdxPage n) JDX.MGMT_DROP + 1) (2 ^ JDX.MGMT_DROP.w - 1)))
    ∧ (portState s n = 5 → isSet s (jdxPage n) JDX.STATUS_FBM = false → isSet s (jdxPage n) JDX.STATUS_PEER_IDLE = false → ∀ val,
      ∃ t, exec (.timeBlockRx n val) s = .next t ∧ (portOf t n).timeN = (portOf s n).timeN + 1 ∧ (portOf t n).timeF = val
      ∧ (portOf t n).timeA = (portOf s n).arr)
    ∧ (∀ h pay, h < 2 ^ 58 → pay < 2 ^ 64 → descramble h (scramble h pay) = pay)

/-- Loop stamps, electrical idle, the eye margin and the frame of a port. On a port that is not frozen: a LOOP STAMP in
MEASURE, ACTIVE or E_IDLE shows its apparent delay and id in LOOP_APP, and a report with the delay waits for a
management position (R316, R321). A report in MEASURE enters the sums of the time port, one on an ACTIVE port the sums
of the skew estimate, and elsewhere it is ignored (R321, R353, R406). Once 1,024 frames have been sent since the last
one was due, a stamp with the next of 128 ids waits (R321, R341). IDLE_ENTER on an open page of an ACTIVE port in main
clocking mode asks for the block, and elsewhere leaves one record (R337); with the block sent, the end of that frame
idles the lanes and the port enters E_IDLE (R337). IDLE_EXIT in E_IDLE asks for the training burst and elsewhere does
nothing, and after the burst the port is ACTIVE with its interrupt (R329, R338). IDLE_ENTER received sets PEER_IDLE
and loses every slot the port imports at the end of that frame (R337). A measured margin is shown, and below TH raises
bit 6 and marks its lane (R339). An ACTIVE port whose block period begins sends the FRAME markers at b = 0, the TIME
block and a management block at b = 8, two decision blocks at every other odd b and one with a management block at
every other even b; of what waits there, a LOOP block goes first, then IDLE_ENTER, and a decision block carries its
CRC-7 (R312, R314, R316, R318). (12_jodex_links.md) -/
def Obligations.PortStampsAndIdle : Prop :=
  ∀ (s : State) (who : Requester) (n : Nat), n < 8 → portHeld s n = false →
    ((portState s n = 4 ∨ portState s n = 5 ∨ portState s n = 6) → isSet s (jdxPage n) JDX.STATUS_PEER_IDLE = false → ∀ id dep arr,
      ∃ t, exec (.loopStampRx n id dep arr) s = .next t
      ∧ getF t (jdxPage n) JDX.LOOP_APP_APP = ofSigned 16 (clampI (-32768) 32767 (apparent dep arr))
      ∧ getF t (jdxPage n) JDX.LOOP_APP_ID = id % 2 ^ JDX.LOOP_APP_ID.w
      ∧ (portOf t n).tx.loops = (portOf s n).tx.loops ++ [.report id (ofSigned 48 (apparent dep arr))])
    ∧ (∀ val,
      (portState s n = 4 → ∃ t, exec (.loopReportRx n val) s = .next t ∧ (portOf t n).repN = (portOf s n).repN + 1
        ∧ (portOf t n).repSum = (portOf s n).repSum + toSigned 48 val ∧ regsSame [] s t ∧ typedSame { s with ports := t.ports } t)
      ∧ (portState s n = 5 → (portOf s n).outN < 256 → ∃ t, exec (.loopReportRx n val) s = .next t
        ∧ (portOf t n).outN = (portOf s n).outN + 1 ∧ (portOf t n).outSum = (portOf s n).outSum + toSigned 48 val
        ∧ regsSame [] s t ∧ typedSame { s with ports := t.ports } t)
      ∧ (portState s n ≠ 4 → portState s n ≠ 5 → exec (.loopReportRx n val) s = .next s))
    ∧ (portState s n = 5 → isSet s (jdxPage n) JDX.STATUS_FBM = false →
      (1024 ≤ (portOf s n).tx.since → ∀ id, ∃ t, exec (.loopStampSend n id) s = .next t
        ∧ (portOf t n).tx.loops = (portOf s n).tx.loops ++ [.stamp id] ∧ regsSame [] s t ∧ typedSame { s with ports := t.ports } t)
      ∧ ((portOf s n).tx.since < 1024 → ∀ id, exec (.loopStampSend n id) s = .next s))
    ∧ (busOpen s who (jdxPage n) = true → portState s n = 5 → isSet s (jdxPage n) JDX.STATUS_FBM = false → (portOf s n).tx.idleSent = false →
      ∃ t, exec (.idleEnterReq who n) s = .next t ∧ (portOf t n).tx.idleReq = true
      ∧ regsSame [] s t ∧ typedSame { s with ports := t.ports } t)
    ∧ (busOpen s who (jdxPage n) = true → portState s n ≠ 5 →
      exec (.idleEnterReq who n) s = .next (errRec (jdxPage n) 0x28 0 0 (portState s n) 0 (notePage (some who) (jdxPage n) s)))
    ∧ (portState s n = 5 → (portOf s n).tx.idleSent = true → (portOf s n).tx.b = 0 → (portOf s n).tx.start ≤ 16 * (s.up + 1) →
      portState (frameEnds n s) n = 6 ∧ isSet (frameEnds n s) (jdxPage n) HDR.STATUS_RUN = true ∧ (portOf (frameEnds n s) n).tx.blks = [])
    ∧ (portState s n = 6 → (portOf s n).tx.burst = 1 → (portOf s n).tx.b = 0 → (portOf s n).tx.start ≤ 16 * (s.up + 1) →
      portState (frameEnds n s) n = 5 ∧ irqStat (frameEnds n s) (jdxPage n) 1 = true)
    ∧ ((portState s n = 5 ∨ portState s n = 6) → isSet s (jdxPage n) JDX.STATUS_FBM = false →
      (∃ t, exec (.idleEnterRx n) s = .next t ∧ (portOf t n).peerIdleAt = some (max s.up ((portOf s n).markUp + 33))
        ∧ regsSame [] s t ∧ typedSame { s with ports := t.ports } t)
      ∧ (∀ u, (portOf s n).peerIdleAt = some u → u ≤ s.up + 1 → isSet (peerIdles n s) (jdxPage n) JDX.STATUS_PEER_IDLE = true
        ∧ portState (peerIdles n s) n = portState s n
        ∧ ∀ i < 512, slotKind s i = 3 → getF s pTul TUL.SLOT_RT_IMP_PORT i = n → slotLost (peerIdles n s) i = true))
    ∧ (busOpen s who (jdxPage n) = true → portState s n = 6 → ∃ t, exec (.idleExit who n) s = .next t ∧ (portOf t n).tx.exitReq = true
      ∧ regsSame [] s t ∧ typedSame { s with ports := t.ports } t)
    ∧ (busOpen s who (jdxPage n) = true → portState s n ≠ 6 → exec (.idleExit who n) s = .next (notePage (some who) (jdxPage n) s))
    ∧ ((portState s n = 5 ∨ portState s n = 6) → ∀ lane m, lane < 2 → ∃ t, exec (.marginLow n lane m) s = .next t
      ∧ getF t (jdxPage n) (if lane = 0 then JDX.MARGIN_M0 else JDX.MARGIN_M1) = m % 2 ^ JDX.MARGIN_M0.w
      ∧ (m < getF s (jdxPage n) JDX.MARGIN_TH → irqStat t (jdxPage n) 6 = true ∧ (portOf t n).low = setBit (portOf s n).low lane)
      ∧ (getF s (jdxPage n) JDX.MARGIN_TH ≤ m → regsSame [JDX.MARGIN_M0.addr (jdxPage n) 0] s t ∧ typedSame s t))
    ∧ (portState s n = 5 → (portOf s n).tx.framed = true → (portOf s n).tx.filling = false → ∀ b, b < 16 →
      ((periodBlks n b s).1.map Prod.fst = (if b = 0 ∨ b = 8 then [2, 2] else if b % 2 = 1 then [1, 1] else [1, 2]))
      ∧ (b = 0 → (periodBlks n b s).1 = [(2, framePay s n 0), (2, framePay s n 1)])
      ∧ (∀ x ∈ (periodBlks n b s).1, x.1 = 1 → crc7 x.2 = blockCrc x.2)
      ∧ (b = 8 → ∀ l ls, (portOf s n).tx.loops = l :: ls → (periodBlks n b s).1 = [(2, timePay s n), (2, loopBlk s n l)])
      ∧ (b = 8 → (portOf s n).tx.loops = [] → (portOf s n).tx.idleReq = true →
        (periodBlks n b s).1 = [(2, timePay s n), (2, idleEnterPay)] ∧ (portOf (periodBlks n b s).2 n).tx.idleSent = true))

/-- HELLO, link-state descriptions, the topology table and NUM. While discovery runs and 10 ms have passed since the last,
HELLO_SEND gives every ACTIVE port a HELLO to send, and takes one message number; before that, or while discovery does
not run, it does nothing (R348, R349, R361). A HELLO for this device leaves its buffer and is kept as the neighbour of
its port, unless it names this device's NUM with a lower UID (R345, R348). A new own description takes the next
sequence number (R349). A description received that is not newer than the one held, or is the device's own, leaves the
table as it was, but that its UID has been heard; a newer one replaces the entry of its UID (R349, R350). An entry
whose UID has been silent for 350 ms leaves the table, and no other does (R350). A device that is not joined and has
an ACTIVE port joins: without AUTO with ID_CFG.NUM, unless that number has just clashed; with AUTO 10 ms after its
first port reached ACTIVE, with the number it held where that is free, else the lowest free one; with every number in
use it joins not and shows FULL (R344 to R346). Each change of the own description is handed to Hoop firmware to flood
(R349). (13_constellation.md) -/
def Obligations.Discovery : Prop :=
  ∀ (s : State) (n : Nat), n < 8 →
    (cstOn s = true → elapsed s s.cst.helloUp 10 = true → ∃ t, exec .helloSend s = .next t ∧ t.cst.mseq = (s.cst.mseq + 1) % 65536
      ∧ (portState s n = 5 →
        ∃ bs, (portOf t n).mq = (portOf s n).mq ++ [(0, bs)] ∧ msgType bs = 1 ∧ msgDst bs = 0xFE)
      ∧ (portState s n ≠ 5 → portOf t n = portOf s n)
      ∧ t.cst.helloUp = some s.up ∧ regsSame [] s t ∧ typedSame { s with ports := t.ports, cst := t.cst } t)
    ∧ ((cstOn s && elapsed s s.cst.helloUp 10) = false → exec .helloSend s = .next s)
    ∧ (∀ bs, inbox s n 1 = some bs →
      (joined s && decide (msgField bs 8 1 = ownNum s) && decide (msgField bs 0 8 < ownUid)) = false → ∃ t, exec (.helloRx n) s = .next t
      ∧ smFind n t.cst.nbs = some { uid := msgField bs 0 8, num := msgField bs 8 1, flags := msgField bs 9 1,
                                    port := msgField bs 10 1, seq := msgField bs 12 4 }
      ∧ (portOf t n).msgs.length + 1 = (portOf s n).msgs.length ∧ regsSame [] s t)
    ∧ ((decide (.topology ∈ s.hoop.urgent) || elapsed s s.cst.floodUp 100) = true →
      (cstOn s = true → joined s = true → ∃ t, exec .lsaFlood s = .next t ∧ t.cst.lsaSeq = (s.cst.lsaSeq + 1) % 2 ^ 32
        ∧ t.cst.floodUp = some s.up ∧ t.cst.own.map TopoEntry.seq = some t.cst.lsaSeq)
      ∧ ((cstOn s && joined s) = false → ∃ t, exec .lsaFlood s = .next t
        ∧ t = { s with hoop := { s.hoop with urgent := s.hoop.urgent.filter (fun u => u ≠ .topology) } }))
    ∧ ((decide (.topology ∈ s.hoop.urgent) || elapsed s s.cst.floodUp 100) = false → exec .lsaFlood s = .next s)
    ∧ (∀ bs, ((portOf s n).msgs.find? (fun m => decide (msgType m.2 = 2))).map Prod.snd = some bs → cstOn s = true →
      (((lsaEntry bs).uid = ownUid
          ∨ (s.cst.topo.find? (fun x => decide (x.uid = (lsaEntry bs).uid))).any (fun x => !newer (lsaEntry bs).seq x.seq) = true) →
        ∃ t, exec (.lsaRx n) s = .next t ∧ t.cst = { s.cst with heard := t.cst.heard } ∧ regsSame [] s t
          ∧ ((lsaEntry bs).uid ≠ ownUid → smFind (lsaEntry bs).uid t.cst.heard = some s.up)
          ∧ typedSame { s with ports := t.ports, cst := t.cst } t)
      ∧ ((lsaEntry bs).uid ≠ ownUid →
          (s.cst.topo.find? (fun x => decide (x.uid = (lsaEntry bs).uid))).any (fun x => !newer (lsaEntry bs).seq x.seq) = false →
        ∃ t, exec (.lsaRx n) s = .next t ∧ smFind (lsaEntry bs).uid t.cst.heard = some s.up
          ∧ t.cst.topo = s.cst.topo.filter (fun x => x.uid ≠ (lsaEntry bs).uid) ++ [lsaEntry bs]))
    ∧ (∀ uid, (cstOn s = true → elapsed s (smFind uid s.cst.heard) 350 = true →
        ∃ t, exec (.topoAgeOut uid) s = .next t ∧ t.cst.topo = s.cst.topo.filter (fun x => x.uid ≠ uid))
      ∧ ((cstOn s && elapsed s (smFind uid s.cst.heard) 350) = false → exec (.topoAgeOut uid) s = .next s))
    ∧ (cstOn s = true → joined s = false → activePorts s ≠ [] → isSet s pCst CST.ID_CFG_AUTO = false → (∃ k < 32, k ∉ usedNums s) →
      s.cst.clash ≠ some (getF s pCst CST.ID_CFG_NUM) → ∃ t, exec .numAssign s = .next t
        ∧ t.cst.own.map TopoEntry.num = some (getF s pCst CST.ID_CFG_NUM) ∧ Urgent.topology ∈ t.hoop.urgent)
    ∧ (cstOn s = true → joined s = false → activePorts s ≠ [] → isSet s pCst CST.ID_CFG_AUTO = true → elapsed s s.cst.activeUp 10 = true →
      ∀ k, k < 32 → k ∉ usedNums s → (∀ j, j < k → j ∈ usedNums s) → ∃ t, exec .numAssign s = .next t
        ∧ (s.cst.oldNum = none → t.cst.own.map TopoEntry.num = some k)
        ∧ (∀ o, o < 32 → s.cst.oldNum = some o → t.cst.own.map TopoEntry.num = some (if o ∈ usedNums s then k else o)))
    ∧ (cstOn s = true → joined s = false → activePorts s ≠ [] → (isSet s pCst CST.ID_CFG_AUTO = true → elapsed s s.cst.activeUp 10 = true) →
      (∀ k < 32, k ∈ usedNums s) → ∃ t, exec .numAssign s = .next t ∧ t.cst = s.cst ∧ isSet t pCst CST.STATUS_FULL = true
        ∧ joined t = false ∧ irqStat t pCst 5 = true)
    ∧ ((cstOn s = false ∨ joined s = true ∨ activePorts s = []) → exec .numAssign s = .next s)

/-- RESERVE and RELEASE requests, and a device that leaves. On the open CST page a GO sets the fields written with it; one
that finds BUSY set leaves one record beside, any other sets BUSY and waits for Hoop firmware's next safe point
(R356). Taken there on a joined device, a reservation of a local slot that no route holds, with destinations the tree
reaches, takes a route number and asks every device of the pruned tree (R357, R358); a device that is not joined ends
it with result 7 (R364). RELEASE of a slot that the device publishes a route on withdraws the route and reports done
with result 0 (R359); of a slot with no route it reports done with a result the spec leaves open. A request whose
replies are missing after 10 ms ends with result 5 and frees its entry; before that it goes on (R359). A write of 0 to
EN leaves the constellation: the device has no description of its own any more and EN is 0 (R361).
(13_constellation.md) -/
def Obligations.RouteRequests : Prop :=
  ∀ (s : State) (who : Requester) (nd : Bool), busOpen s who pCst = true →
    (∀ auto, isSet s pCst CST.RQ_STAT_BUSY (reqIdx who) = true →
      exec (.rqReserve who nd auto) s = .next (errRec pCst 0x25 0 0 0 0 (putRqCtl (reqIdx who) 1 nd auto s)))
    ∧ (∀ auto, isSet s pCst CST.RQ_STAT_BUSY (reqIdx who) = false → ∃ t, exec (.rqReserve who nd auto) s = .next t
      ∧ isSet t pCst CST.RQ_STAT_BUSY (reqIdx who) = true ∧ getF t pCst CST.RQ_CTL_OP (reqIdx who) = 1
      ∧ smFind (reqIdx who) t.cst.goes = some (1, nd, auto) ∧ Urgent.request (reqIdx who) ∈ t.hoop.urgent
      ∧ regsSame [CST.RQ_CTL_OP.addr pCst (reqIdx who), CST.RQ_STAT_BUSY.addr pCst (reqIdx who)] s t
      ∧ typedSame { s with cst := { s.cst with goes := t.cst.goes }, hoop := { s.hoop with urgent := t.hoop.urgent } } t)
    ∧ (isSet s pCst CST.RQ_STAT_BUSY (reqIdx who) = false → ∃ t, exec (.rqRelease who) s = .next t
      ∧ isSet t pCst CST.RQ_STAT_BUSY (reqIdx who) = true ∧ getF t pCst CST.RQ_CTL_OP (reqIdx who) = 2
      ∧ smFind (reqIdx who) t.cst.goes = some (2, false, false) ∧ Urgent.request (reqIdx who) ∈ t.hoop.urgent
      ∧ regsSame [CST.RQ_CTL_OP.addr pCst (reqIdx who), CST.RQ_STAT_BUSY.addr pCst (reqIdx who)] s t
      ∧ typedSame { s with cst := { s.cst with goes := t.cst.goes }, hoop := { s.hoop with urgent := t.hoop.urgent } } t)
    ∧ (∀ nd, smFind (reqIdx who) s.cst.goes = some (1, nd, false) → cstOn s = true → joined s = true →
      localSource s (getF s pCst CST.RQ_SLOT_SLOT (reqIdx who)) = true → slotHeld s (getF s pCst CST.RQ_SLOT_SLOT (reqIdx who)) = false →
      reachFault s (routeTree s nd) (clrBit (getF s pCst CST.RQ_DEST (reqIdx who)) (ownNum s)) = none →
      pruneTree (routeTree s nd) (clrBit (getF s pCst CST.RQ_DEST (reqIdx who)) (ownNum s)) ≠ [] →
        (serveRequest (reqIdx who) s).cst.serial = (s.cst.serial + 1) % 2 ^ 27
        ∧ smFind (reqIdx who) (serveRequest (reqIdx who) s).cst.goes = none
        ∧ ∃ q, smFind (reqIdx who) (serveRequest (reqIdx who) s).cst.rq = some q
          ∧ q.route.slot = getF s pCst CST.RQ_SLOT_SLOT (reqIdx who)
          ∧ q.route.dest = clrBit (getF s pCst CST.RQ_DEST (reqIdx who)) (ownNum s) ∧ q.acked = [] ∧ q.since = s.up
          ∧ q.ask = (pruneTree (routeTree s nd) (clrBit (getF s pCst CST.RQ_DEST (reqIdx who)) (ownNum s))).map TreeNode.num)
    ∧ (∀ nd auto, smFind (reqIdx who) s.cst.goes = some (1, nd, auto) → cstOn s = true → joined s = false →
      getF (serveRequest (reqIdx who) s) pCst CST.RQ_STAT_RESULT (reqIdx who) = 7
      ∧ isSet (serveRequest (reqIdx who) s) pCst CST.RQ_STAT_DONE (reqIdx who) = true
      ∧ isSet (serveRequest (reqIdx who) s) pCst CST.RQ_STAT_BUSY (reqIdx who) = false
      ∧ irqStat (serveRequest (reqIdx who) s) pCst 1 = true)
    ∧ (smFind (reqIdx who) s.cst.goes = some (2, false, false) → cstOn s = true →
      isSet (serveRequest (reqIdx who) s) pCst CST.RQ_STAT_DONE (reqIdx who) = true ∧ irqStat (serveRequest (reqIdx who) s) pCst 1 = true
      ∧ isSet (serveRequest (reqIdx who) s) pCst CST.RQ_STAT_BUSY (reqIdx who) = false
      ∧ (∀ r, s.cst.routes.find? (fun r => decide (r.slot = getF s pCst CST.RQ_SLOT_SLOT (reqIdx who))) = some r →
        getF (serveRequest (reqIdx who) s) pCst CST.RQ_STAT_RESULT (reqIdx who) = 0
        ∧ (serveRequest (reqIdx who) s).cst.routes = s.cst.routes.filter (fun x => x.slot ≠ getF s pCst CST.RQ_SLOT_SLOT (reqIdx who)))
      ∧ (s.cst.routes.find? (fun r => decide (r.slot = getF s pCst CST.RQ_SLOT_SLOT (reqIdx who))) = none →
        (serveRequest (reqIdx who) s).cst = { s.cst with goes := smErase (reqIdx who) s.cst.goes }
        ∧ (serveRequest (reqIdx who) s).free = s.free + 1))
    ∧ (∀ q, smFind (reqIdx who) s.cst.rq = some q →
      (elapsed s (some q.since) 10 = true → ∃ t, exec (.reserveTimeout (reqIdx who)) s = .next t
        ∧ smFind (reqIdx who) t.cst.rq = none ∧ getF t pCst CST.RQ_STAT_RESULT (reqIdx who) = 5
        ∧ isSet t pCst CST.RQ_STAT_DONE (reqIdx who) = true ∧ isSet t pCst CST.RQ_STAT_BUSY (reqIdx who) = false)
      ∧ (elapsed s (some q.since) 10 = false → exec (.reserveTimeout (reqIdx who)) s = .next s))
    ∧ (∀ key, smFind key s.cst.rq = none → exec (.reserveTimeout key) s = .next s)
    ∧ (∃ t, exec (.cstLeave who) s = .next t ∧ t.cst.own = none ∧ isSet t pCst HDR.CTRL_EN = false)

/-- The messages of a reservation, and skew reports. A RESERVE for this device that nothing speaks against holds its slot
tentatively, or, of a route already committed, beside what the route is; one that is refused holds nothing (R358). A
tentative hold with no COMMIT after 50 ms is gone; a committed one stays and loses what was held beside it; before
that nothing goes (R358). COMMIT commits what is held and hands its slot entry to Tulle (R359, R263). RELEASE ends the
holds of its route, or what is held beside them, WITHDRAW every hold of its route, and neither any other (R359, R362).
An answer is entered in its request, and the last one to a COMMIT completes the request of host software or Hoop
firmware with result 0 (R359); a refusal without AUTO_SLOT ends it with result 1 (R357, R359). A skew report with a
newer estimate of another device is kept (R406, R407). (13_constellation.md, 15_live_calibration.md) -/
def Obligations.ReservationMessages : Prop :=
  ∀ (s : State) (n : Nat), n < 8 →
    (∀ bs, inbox s n 0x10 = some bs →
      (reserveFault s (msgField bs 0 4) (msgField bs 4 2 % 512) (reserveSet bs) = none →
        (s.cst.holds.any (fun h => decide (h.route = msgField bs 0 4) && h.committed) = false → ∃ t, exec (.reserveRx n) s = .next t
          ∧ t.cst.holds = s.cst.holds.filter (fun h => h.route ≠ msgField bs 0 4)
            ++ [{ route := msgField bs 0 4, slot := msgField bs 4 2 % 512, rs := reserveSet bs, committed := false, since := s.up }])
        ∧ (s.cst.holds.any (fun h => decide (h.route = msgField bs 0 4) && h.committed) = true → ∃ t, exec (.reserveRx n) s = .next t
          ∧ t.cst.holds = s.cst.holds.map (fun h =>
            if h.route = msgField bs 0 4 then { h with tent := some (reserveSet bs), since := s.up } else h)))
      ∧ (reserveFault s (msgField bs 0 4) (msgField bs 4 2 % 512) (reserveSet bs) ≠ none → ∃ t, exec (.reserveRx n) s = .next t
        ∧ t.cst.holds = s.cst.holds ∧ regsSame [] s t))
    ∧ (∀ route,
      ((∀ h ∈ s.cst.holds, h.route = route → h.committed = false ∧ elapsed s (some h.since) 50 = true) → ∃ t, exec (.tentativeExpire route) s = .next t
        ∧ t = { s with cst := { s.cst with holds := s.cst.holds.filter (fun h => h.route ≠ route) } })
      ∧ ((∀ h ∈ s.cst.holds, h.route = route → h.committed = true ∧ elapsed s (some h.since) 50 = true) → ∃ t, exec (.tentativeExpire route) s = .next t
        ∧ t = { s with cst := { s.cst with holds := s.cst.holds.map (fun h => if h.route = route then { h with tent := none } else h) } })
      ∧ ((∀ h ∈ s.cst.holds, h.route = route → elapsed s (some h.since) 50 = false) → exec (.tentativeExpire route) s = .next s))
    ∧ (∀ bs, inbox s n 0x13 = some bs → ∀ h, s.cst.holds.find? (fun h => decide (h.route = msgField bs 0 4)) = some h →
      ∃ t, exec (.commitRx n) s = .next t
        ∧ t.cst.holds = s.cst.holds.map (fun x =>
          if x.route = msgField bs 0 4 then { x with rs := h.tent.getD h.rs, committed := true, tent := none } else x)
        ∧ (anyRunning s = true → (tulSlot t h.slot).next = some (h.tent.getD h.rs)))
    ∧ (∀ bs, inbox s n 0x14 = some bs →
      ((∀ h ∈ s.cst.holds, h.route = msgField bs 0 4 → h.tent = none) → ∃ t, exec (.releaseRx n) s = .next t
        ∧ t.cst.holds = s.cst.holds.filter (fun h => h.route ≠ msgField bs 0 4))
      ∧ ((∀ h ∈ s.cst.holds, h.route = msgField bs 0 4 → h.committed = true ∧ h.tent ≠ none) → ∃ t, exec (.releaseRx n) s = .next t
        ∧ t.cst.holds = s.cst.holds.map (fun h => if h.route = msgField bs 0 4 then { h with tent := none } else h)))
    ∧ (∀ bs, inbox s n 0x15 = some bs → ∃ t, exec (.withdrawRx n) s = .next t
        ∧ t.cst.holds = s.cst.holds.filter (fun h => h.route ≠ msgField bs 0 4))
    ∧ (∀ bs, inbox s n 0x11 = some bs → ∀ e, rqOf s (msgField bs 0 4) = some e →
      (e.2.ask.all (fun d => decide (d = msgSrc bs ∨ d ∈ e.2.acked)) = false → ∃ t, exec (.resAckRx n) s = .next t
        ∧ smFind e.1 t.cst.rq = some { e.2 with acked := msgSrc bs :: e.2.acked } ∧ regsSame [] s t)
      ∧ (e.2.ask.all (fun d => decide (d = msgSrc bs ∨ d ∈ e.2.acked)) = true → e.2.committing = true → e.1 < 2 →
        ∃ t, exec (.resAckRx n) s = .next t ∧ getF t pCst CST.RQ_STAT_RESULT e.1 = 0 ∧ isSet t pCst CST.RQ_STAT_DONE e.1 = true
        ∧ isSet t pCst CST.RQ_STAT_BUSY e.1 = false ∧ getF t pCst CST.RQ_STAT_GSLOT e.1 = e.2.route.slot % 2 ^ CST.RQ_STAT_GSLOT.w
        ∧ t.cst.routes = s.cst.routes.filter (fun r => r.slot ≠ e.2.route.slot) ++ [e.2.route]))
    ∧ (∀ bs, inbox s n 0x12 = some bs → ∀ e, rqOf s (msgField bs 0 4) = some e → e.2.auto = false → e.1 < 2 →
      ∃ t, exec (.resNakRx n) s = .next t ∧ getF t pCst CST.RQ_STAT_RESULT e.1 = 1 ∧ isSet t pCst CST.RQ_STAT_DONE e.1 = true
        ∧ isSet t pCst CST.RQ_STAT_BUSY e.1 = false ∧ t.cst.rq = smErase e.1 s.cst.rq)
    ∧ (∀ bs, ((portOf s n).msgs.find? (fun m => decide (msgType m.2 = 0x20))).map Prod.snd = some bs → cstOn s = true →
      (joined s && decide (msgField bs 0 1 = ownNum s)) = false →
      (smFind (msgField bs 0 1) s.cal.reps).any (fun r => !newer (msgField bs 8 4) r.est) = false →
      ∃ t, exec (.skewReportRx n) s = .next t ∧ smFind (msgField bs 0 1) t.cal.reps =
        some { root := msgField bs 1 1, lead := toSigned 32 (msgField bs 4 4), est := msgField bs 8 4, since := s.up })

/-- BAR2 accesses and the events of the link. A BAR2 read of a memory of a READY device whose lines are all good returns
its bytes and changes nothing else (R99, R454); before READY a read returns zeros (R522); a read or write outside the
window is refused as no access of this part. A BAR2 write to a memory that takes host writes, its lines good and no
corruption armed, stores its bytes; whatever the lines, no byte outside the written range changes (R99, R449). A write
to microcode or tables of a running tile, and one to the NVS window, stores nothing and leaves a record (R102, R131,
R506). A poisoned write leaves one record (R367). An unmasked vector sends its pending message if a line with that
vector is still asserted or it is the message of a channel or of the mailbox, and the pending bit is gone (R93, R369).
A trained link shows width and speed with LINK_UP, and LINK_REDUCED below x8 or 32 GT/s (R365). The end of the link
stops every channel and raises LINK_DOWN (R368). (14_host_interface.md, 03_register_conventions.md,
04_tambour_microword.md, 18_memory_integrity.md) -/
def Obligations.HostMemoryAccess : Prop :=
  ∀ (s : State) (a n : Nat),
    (∀ m, memAt a = some m → bar2Ok a n = true → ready s = true → pagePresent s m.page = true → a + n ≤ m.base + m.size → m.kind ≠ 9 →
      (∀ l ∈ linesOf64 a n, lineBad s l = false ∧ (lineSt s l).recov = none) →
        ∃ t, exec (.bar2Read a n) s = .next t ∧ t = { s with lastBytes := rdList s a n, lastAbort := false })
    ∧ (bar2Ok a n = true → ready s = false → ∃ t, exec (.bar2Read a n) s = .next t
        ∧ t = { s with lastBytes := List.replicate n 0#8, lastAbort := false })
    ∧ (bar2Ok a n = false → exec (.bar2Read a n) s = .fault .outsideWindow)
    ∧ (∀ bs, (bar2Ok a bs.length = false → exec (.bar2Write a bs) s = .fault .outsideWindow)
      ∧ (bar2Ok a bs.length = true → ∃ t, exec (.bar2Write a bs) s = .next t
        ∧ (∀ x, (x < a ∨ a + bs.length ≤ x) → rdByte t x = rdByte s x)
        ∧ (∀ m, memAt a = some m → ready s = true → pagePresent s m.page = true → a + bs.length ≤ m.base + m.size →
          (m.kind ≤ 7 ∧ m.kind ≠ 5 ∨ m.kind = 11) → (m.kind ≤ 1 → isSet s m.page HDR.STATUS_RUN = false) →
          (∀ l ∈ linesOf64 a bs.length, lineBad s l = false ∧ (lineSt s l).recov = none) → isSet s 6 MIC.FLIP_SEL_ARM = false →
            ∀ i < bs.length, rdByte t (a + i) = bs.getD i 0#8)
        ∧ (∀ m, memAt a = some m → m.kind ≤ 1 → isSet s m.page HDR.STATUS_RUN = true → memSame s t)
        ∧ (0x14000000 ≤ a → a < 0x14400000 → ready s = true → t = errRec 3 0x21 0 0 0 a s)))
    ∧ (∀ bar, exec (.poisonRx bar a) s = .next (errRec pPci 0x22 0 0 bar a s))
    ∧ (∀ v, v ∉ s.msix.unmasked → ∃ t, exec (.msixUnmask v) s = .next t ∧ v ∈ t.msix.unmasked ∧ v ∉ t.msix.pba
        ∧ ((v ∈ s.msix.pba ∧ (64 ≤ v ∨ ∃ p < 0x3A, pageVec s p = v ∧ irqLine s p = true)) → t.msix.sent = v :: s.msix.sent)
        ∧ (v ∉ s.msix.pba → t.msix.sent = s.msix.sent) ∧ regsSame [] s t ∧ typedSame s t)
    ∧ (∀ width speed bme, ∃ t, exec (.linkUp width speed bme) s = .next t ∧ isSet t pPci PCI.STATUS_LINK_UP = true
        ∧ getF t pPci PCI.STATUS_WIDTH = width % 2 ^ PCI.STATUS_WIDTH.w ∧ getF t pPci PCI.STATUS_SPEED = speed % 2 ^ PCI.STATUS_SPEED.w
        ∧ isSet t pPci PCI.STATUS_BME = bme ∧ irqStat t pPci 1 = true ∧ ((width < 8 ∨ speed < 5) → irqStat t pPci 2 = true)
        ∧ regsSame [HDR.STATUS.addr pPci 0, HDR.IRQ_STAT.addr pPci 0] s t ∧ typedSame s t)
    ∧ (∀ cause, ∃ t, exec (.pcieReset cause) s = .next t ∧ isSet t pPci PCI.STATUS_LINK_UP = false ∧ irqStat t pPci 0 = true
        ∧ t.dma = [] ∧ t.masters = [] ∧ (∀ c < 16, chState t c = 0))

/-- Holes in BAR2. On a READY device an access that lies in a hole of BAR2, or runs past the end of a memory, reads as
zeros or stores nothing, and writes one UNMAPPED record to the page of the tile that owns the aperture, in the shared
region to GLB, and changes nothing else; in the aperture of an absent tile (R4) it reads as zeros, stores nothing and
writes no record. (R101) -/
def Obligations.HolesOfBar2 : Prop :=
  ∀ (s : State) (a n : Nat) (bs : List Byte), bar2Ok a n = true → bs.length = n → ready s = true → ¬ (0x14000000 ≤ a ∧ a < 0x14400000) →
    let page := if a < 0x10000000 then 0x10 + a / 0x800000 else 0
    (memAt a).all (fun m => decide (m.base + m.size < a + n)) = true →
      (pagePresent s page = true →
        exec (.bar2Read a n) s = .next { errRec page 0x01 0 0 0 a s with lastBytes := List.replicate n 0#8, lastAbort := false }
        ∧ exec (.bar2Write a bs) s = .next (errRec page 0x01 0 0 1 a s))
      ∧ (pagePresent s page = false →
        exec (.bar2Read a n) s = .next { s with lastBytes := List.replicate n 0#8, lastAbort := false }
        ∧ exec (.bar2Write a bs) s = .next s)

/-- The states of a DMA channel and COPY transfers. On the open PCI page EN = 1 makes an IDLE channel with a good binding
ACTIVE, one with a bad binding ends in ERROR with status 1, and a channel that is off or not idle stays as it is
(R370, R380). EN = 0 brings an ACTIVE channel with nothing outstanding to IDLE, one with reads outstanding to
DRAINING, and ends its running descriptor with status 7 (R370, R372). A drained channel is IDLE; RESET takes a channel
from ERROR to IDLE and does nothing elsewhere (R370, R373). A write of TAIL stores it (R371). A well-formed descriptor
becomes the one in progress, a malformed one ends with status 1 and a failed read with status 5, each putting the
channel into ERROR (R371 to R373). A transfer from the device whose lines are good writes its bytes and the completion
entry to the host and passes HEAD; one from the host whose reads failed ends with status 5, and one whose data are
written ends once no line of its range recovers (R372). A frozen page holds (R83). A host read without completion in
time fails the descriptor with status 5, or poisons the line whose refetch it was (R372, R376). (14_host_interface.md) -/
def Obligations.CopyChannels : Prop :=
  ∀ (s : State) (who : Requester) (c : Nat), c < 16 →
    (busOpen s who pPci = true → chMode s c ≠ 0 → chState s c = 0 →
      (bindBad s c = false → ∃ t, exec (.chEnable who c) s = .next t ∧ chState t c = 1 ∧ isSet t pPci PCI.CH_CTL_EN c = true)
      ∧ (bindBad s c = true → ∃ t, exec (.chEnable who c) s = .next t ∧ chState t c = 2 ∧ getF t pPci PCI.CH_STAT_LAST c = 1
        ∧ irqStat t pPci 4 = true))
    ∧ (busOpen s who pPci = true → (chMode s c = 0 ∨ chState s c ≠ 0) → exec (.chEnable who c) s = .next s)
    ∧ (busOpen s who pPci = true → chState s c = 1 →
      ((chOf s c).desc = none → ∃ t, exec (.chDisable who c) s = .next t ∧ isSet t pPci PCI.CH_CTL_EN c = false
        ∧ chState t c = (if (chOf s c).reads = [] then 0 else 3) ∧ t.dma = s.dma)
      ∧ (∀ d, (chOf s c).desc = some d → ∃ t, exec (.chDisable who c) s = .next t ∧ isSet t pPci PCI.CH_CTL_EN c = false
        ∧ chState t c = 3 ∧ (chOf t c).desc = none ∧ getF t pPci PCI.CH_STAT_LAST c = 7
        ∧ getF t pPci PCI.CH_HEAD_HEAD c = (d.idx + 1) % 65536))
    ∧ (chState s c = 3 → isSet s pPci HDR.CTRL_FREEZE = false → ∃ t, exec (.chDrainDone c) s = .next t ∧ chState t c = 0 ∧ (chOf t c).reads = []
      ∧ regsSame [PCI.CH_STAT_STATE.addr pPci c] s t ∧ typedSame { s with dma := t.dma } t)
    ∧ (busOpen s who pPci = true → chState s c = 2 → ∃ t, exec (.chReset who c) s = .next t ∧ chState t c = 0
      ∧ regsSame [PCI.CH_STAT_STATE.addr pPci c] s t ∧ typedSame { s with dma := t.dma } t)
    ∧ (busOpen s who pPci = true → chState s c ≠ 2 → exec (.chReset who c) s = .next s)
    ∧ (busOpen s who pPci = true → ∀ v, v < 65536 → ∃ t, exec (.chTailWrite who c v) s = .next t ∧ getF t pPci PCI.CH_TAIL_TAIL c = v
      ∧ regsSame [PCI.CH_TAIL_TAIL.addr pPci c] s t ∧ typedSame s t)
    ∧ (chState s c = 1 → chMode s c = 1 → dmaOn s = true → (chOf s c).desc = none →
      getF s pPci PCI.CH_HEAD_HEAD c ≠ getF s pPci PCI.CH_TAIL_TAIL c →
      (∀ bs, malformed (parseDesc (getF s pPci PCI.CH_HEAD_HEAD c) bs) bs = false →
        rangeFault s (parseDesc 0 bs).dev (parseDesc 0 bs).len (parseDesc 0 bs).op = none →
        bit (parseDesc 0 bs).flags 1 = 0 → ∃ t, exec (.descriptor c (some bs)) s = .next t
          ∧ (chOf t c).desc = some (parseDesc (getF s pPci PCI.CH_HEAD_HEAD c) bs) ∧ regsSame [] s t ∧ typedSame { s with dma := t.dma } t)
      ∧ (∀ bs, malformed (parseDesc (getF s pPci PCI.CH_HEAD_HEAD c) bs) bs = true → ∃ t, exec (.descriptor c (some bs)) s = .next t
          ∧ (chOf t c).desc = none ∧ chState t c = 2 ∧ getF t pPci PCI.CH_STAT_LAST c = 1)
      ∧ (∃ t, exec (.descriptor c none) s = .next t ∧ chState t c = 2 ∧ getF t pPci PCI.CH_STAT_LAST c = 5))
    ∧ (isSet s pPci HDR.CTRL_FREEZE = true → exec (.chDrainDone c) s = .next s ∧ (∀ data ok, exec (.dmaTransferDone c data ok) s = .next s))
    ∧ (isSet s pPci HDR.CTRL_FREEZE = false → ∀ d, (chOf s c).desc = some d →
      (d.op ≠ 1 → hostOn s = true → (∀ l ∈ linesOf64 d.dev d.len, lineBad s l = false ∧ (lineSt s l).recov = none) →
        ∀ data ok, ∃ t, exec (.dmaTransferDone c data ok) s = .next t ∧ (chOf t c).desc = none
          ∧ getF t pPci PCI.CH_HEAD_HEAD c = (d.idx + 1) % 65536 ∧ (d.host, rdList s d.dev d.len) ∈ t.pcie.out
          ∧ t.pcie.out.length = s.pcie.out.length + 2 ∧ chState t c = chState s c)
      ∧ (d.op = 1 → d.landed = false → ∀ data, ∃ t, exec (.dmaTransferDone c data false) s = .next t ∧ (chOf t c).desc = none
          ∧ chState t c = 2 ∧ getF t pPci PCI.CH_STAT_LAST c = 5 ∧ getF t pPci PCI.CH_HEAD_HEAD c = (d.idx + 1) % 65536)
      ∧ (chState s c = 1 → d.op = 1 → d.landed = false → ∃ t, exec (.completionTimeout false c) s = .next t ∧ (chOf t c).desc = none
          ∧ chState t c = 2 ∧ getF t pPci PCI.CH_STAT_LAST c = 5))
    ∧ (isSet s pPci HDR.CTRL_FREEZE = false → ∀ d, (chOf s c).desc = some d → d.op = 1 → d.landed = true → ∀ data ok,
      ((∃ l ∈ linesOf64 d.dev d.len, (lineSt s l).recov.isSome = true) → exec (.dmaTransferDone c data ok) s = .next s)
      ∧ ((∀ l ∈ linesOf64 d.dev d.len, (lineSt s l).recov = none) → ∃ t, exec (.dmaTransferDone c data ok) s = .next t
        ∧ (chOf t c).desc = none ∧ chState t c = chState s c ∧ getF t pPci PCI.CH_HEAD_HEAD c = (d.idx + 1) % 65536))
    ∧ (∀ x, (memAt x).isSome = true → (lineSt s x).recov.isSome = true → ∃ t, exec (.completionTimeout true x) s = .next t
      ∧ (lineSt t x).poison = true ∧ (lineSt t x).recov = none)

/-- Bound channels, the master-image load and the doorbell. A write of CH_HPOS on the open PCI page stores it (R377,
R379). The oldest read of a STREAM channel completes: on an ACTIVE channel its data advance STRM_FILL of the bound
slot to the end of the read where that lies ahead, a failed read puts the channel into ERROR with status 5, and a
channel that drains discards it (R377). An upload burst of an ACTIVE channel takes its records off the escalation
queue, or advances RP of the result ring, and DPOS by as many (R379). When HOLD passes with progress not told, the
channel's message goes out or is kept pending (R381); while the page is frozen neither a completion nor the time of
HOLD changes anything (R83). LOAD takes MIT_BASE and COUNT and sets BUSY; a doorbell keeps its SEQ and sets BUSY;
while BUSY is set each leaves one record instead (R375, R382, R383). (14_host_interface.md, 21_hoop.md) -/
def Obligations.BoundChannelsAndMailbox : Prop :=
  ∀ (s : State) (who : Requester) (c : Nat), c < 16 →
    (busOpen s who pPci = true → ∀ v, v < 2 ^ 32 → ∃ t, exec (.chHposWrite who c v) s = .next t ∧ getF t pPci PCI.CH_HPOS c = v)
    ∧ (∀ (data : List Byte) (ok : Bool), isSet s pPci HDR.CTRL_FREEZE = true → exec (.hostReadCompletion c data ok) s = .next s ∧ exec (.chIrqHoldoff c) s = .next s)
    ∧ (∀ r, (chOf s c).reads.head? = some r → isSet s pPci HDR.CTRL_FREEZE = false → ∀ data,
      (chState s c ≠ 1 → ∀ ok, ∃ t, exec (.hostReadCompletion c data ok) s = .next t ∧ (chOf t c).reads = (chOf s c).reads.tail
        ∧ regsSame [] s t ∧ typedSame { s with dma := t.dma } t)
      ∧ (chState s c = 1 → ∃ t, exec (.hostReadCompletion c data false) s = .next t ∧ (chOf t c).reads = [] ∧ chState t c = 2
        ∧ getF t pPci PCI.CH_STAT_LAST c = 5)
      ∧ (chState s c = 1 → 0x10 ≤ getF s pPci PCI.CH_CFG_BTILE c → getF s pPci PCI.CH_CFG_BTILE c < 0x30 →
        getF s pPci PCI.CH_CFG_BSLOT c < 8 → ∃ t, exec (.hostReadCompletion c data true) s = .next t ∧ chState t c = 1
        ∧ getF t (getF s pPci PCI.CH_CFG_BTILE c) TMB.STRM_FILL (getF s pPci PCI.CH_CFG_BSLOT c) =
          (if 0 < posAhead ((r.1 + r.2) % 2 ^ 32) (getF s (getF s pPci PCI.CH_CFG_BTILE c) TMB.STRM_FILL (getF s pPci PCI.CH_CFG_BSLOT c))
            then (r.1 + r.2) % 2 ^ 32
            else getF s (getF s pPci PCI.CH_CFG_BTILE c) TMB.STRM_FILL (getF s pPci PCI.CH_CFG_BSLOT c))))
    ∧ (chState s c = 1 → dmaOn s = true → burstSize s c ≠ 0 →
      (chMode s c = 4 → ∃ t, exec (.uploadBurst c) s = .next t ∧ t.esc = s.esc.drop (burstSize s c)
        ∧ getF t pPci PCI.CH_DPOS c = (getF s pPci PCI.CH_DPOS c + burstSize s c) % 2 ^ 32)
      ∧ (chMode s c = 3 → 0x20 ≤ getF s pPci PCI.CH_CFG_BTILE c → getF s pPci PCI.CH_CFG_BTILE c < 0x28 →
        ∃ t, exec (.uploadBurst c) s = .next t
        ∧ getF t (getF s pPci PCI.CH_CFG_BTILE c) RDO.RES_RP =
          (getF s (getF s pPci PCI.CH_CFG_BTILE c) RDO.RES_RP + burstSize s c) % 2 ^ 32
        ∧ getF t pPci PCI.CH_DPOS c = (getF s pPci PCI.CH_DPOS c + burstSize s c) % 2 ^ 32))
    ∧ (chState s c = 1 → 2 ≤ chMode s c → getF s pPci PCI.CH_IRQ_HOLD c ≠ 0 → getF s pPci PCI.CH_DPOS c ≠ (chOf s c).told →
      isSet s pPci HDR.CTRL_FREEZE = false → timerDue s (tmHold c) (1000 * getF s pPci PCI.CH_IRQ_HOLD c) = true → ∃ t, exec (.chIrqHoldoff c) s = .next t ∧ (chOf t c).told = getF s pPci PCI.CH_DPOS c
        ∧ (64 + c ∈ t.msix.sent ∨ 64 + c ∈ t.msix.pba) ∧ regsSame [] s t ∧ typedSame { s with dma := t.dma } t)
    ∧ (busOpen s who pPci = true → ∀ n,
      (isSet s pPci PCI.MIT_STAT_BUSY = false → ∃ t, exec (.mitLoad who n) s = .next t ∧ isSet t pPci PCI.MIT_STAT_BUSY = true
        ∧ t.pcie.mit = some (addr64 s pPci PCI.MIT_BASE_LO PCI.MIT_BASE_HI, n % 2 ^ PCI.MIT_CTL_COUNT.w)
        ∧ regsSame [PCI.MIT_CTL_COUNT.addr pPci 0, PCI.MIT_STAT_BUSY.addr pPci 0] s t)
      ∧ (isSet s pPci PCI.MIT_STAT_BUSY = true → exec (.mitLoad who n) s = .next (errRec pPci 0x23 0 0 6 0 (putF pPci PCI.MIT_CTL_COUNT n 0 s)))
      ∧ (isSet s pPci PCI.MBX_STAT_BUSY = false → ∃ t, exec (.mbxDoorbell who n) s = .next t ∧ isSet t pPci PCI.MBX_STAT_BUSY = true
        ∧ t.pcie.door = some n ∧ regsSame [PCI.MBX_STAT_BUSY.addr pPci 0] s t)
      ∧ (isSet s pPci PCI.MBX_STAT_BUSY = true → exec (.mbxDoorbell who n) s = .next (errRec pPci 0x24 0 0 n 0 s)))

/-- The SMBus target. Every SMBus read returns its value and changes no register: HEALTH, the maximum temperature and the
power as Hoop firmware published them (0x8000 and 0xFFFF before it has), the energy in mJ, the UID, and link, READY,
thermal alarm and latched shutdown in bits 0 to 3 (R384). A read of HEALTH clears the alert, and of the writes only
0xA5 does (R384). (14_host_interface.md, 16_bias_and_monitors.md, 20_event_matrix.md) -/
def Obligations.SmbusTarget : Prop :=
  ∀ (s : State),
    (∃ t, exec .smbHealthRead s = .next t ∧ t.lastRead = BitVec.ofNat 64 (getF s 0 GLB.HEALTH_STATE) ∧ t.boot.smbAlert = false
      ∧ regsSame [] s t ∧ typedSame { s with lastRead := t.lastRead, boot := { s.boot with smbHealth := t.boot.smbHealth, smbAlert := false } } t)
    ∧ (∃ t, exec .smbTempRead s = .next t
      ∧ t = { s with lastRead := if s.boot.smbPub then BitVec.ofNat 64 (getF s 5 THM.TEMP_MAX_MAX) else 0x8000#64 })
    ∧ (∃ t, exec .smbPowerRead s = .next t
      ∧ t = { s with lastRead := if s.boot.smbPub then BitVec.ofNat 64 (getF s 5 THM.POWER_POWER) else 0xFFFF#64 })
    ∧ (∃ t, exec .smbEnergyRead s = .next t ∧ t = { s with lastRead := BitVec.ofNat 64 (s.smp.energy / 16000000) })
    ∧ (∃ t, exec .smbUidRead s = .next t ∧ t = { s with lastRead := Config.uid })
    ∧ (∃ t, exec .smbStatusRead s = .next t ∧ t.lastRead.getLsbD 0 = isSet s pPci PCI.STATUS_LINK_UP
      ∧ t.lastRead.getLsbD 1 = isSet s 0 GLB.START_STAT_READY ∧ t.lastRead.getLsbD 2 = isSet s 5 THM.STATUS_ALARM
      ∧ t.lastRead.getLsbD 3 = s.boot.smbShdn ∧ regsSame [] s t ∧ typedSame { s with lastRead := t.lastRead } t)
    ∧ (∃ t, exec (.smbAlertClear 0xA5) s = .next t ∧ t = { s with boot := { s.boot with smbAlert := false } })
    ∧ (∀ v, v ≠ 0xA5 → exec (.smbAlertClear v) s = .next s)

/-- Calibration runs, their steps, the stale timer and the slot points. On the open, enabled CAL page a request makes a
run pending on every usable tile it names and on no other; one that is pending already goes on as it is (R393). A step
that ends in measurement time with every DAC of the tile measured, its input at zero all along, counts one step and
enters what it found; a DAC that is powered down is skipped; the last step ends the run: it is no longer pending nor
stale, T_RUN shows its snapshot and RUNS counts it (R394 to R396). The run is entered in the slot of its temperature
when the check passes, and counted as rejected when it does not (R389, R402). A step ends nothing where no run is
pending, the page or the DAC calibration is off, or the time is no measurement time. The stale timer of a pending run,
at its limit and not before, starts it again from step 0, marks the tile stale and raises bit 1 (R397). A write of a
slot point moves it and empties its slot on every tile (R389). (15_live_calibration.md) -/
def Obligations.CalibrationRuns : Prop :=
  ∀ (s : State) (who : Requester),
    (∀ mask, busOpen s who pCal = true → isSet s pCal HDR.CTRL_EN = true → ∃ t, exec (.calReq who mask) s = .next t
      ∧ (∀ b < 32, bit mask b = 1 → tileUsable s b = true → calPending t b = true)
      ∧ (∀ b < 32, bit mask b = 0 ∨ tileUsable s b = false → calPending t b = calPending s b)
      ∧ (∀ b < 32, calPending s b = true → calTile t b = calTile s b)
      ∧ regsSame (CAL.PEND_MAP.addr pCal 0 :: (List.range 32).map (CAL.TILE_RUN_STEPS.addr pCal)) s t
      ∧ typedSame { s with cal := t.cal, timers := t.timers } t)
    ∧ (∀ b meas, (calPending s b = false ∨ calOn s = false ∨ isSet s pCal CAL.CAL_CTL_EN_DAC = false ∨ measurable s b = false
        ∨ s.up < (calTile s b).stepAt + 64) → exec (.calStepDone b meas) s = .next s)
    ∧ (∀ b < 32, ∀ meas, (tileUsable s b && calPending s b && calOn s && isSet s pCal CAL.CAL_CTL_EN_DAC
        && !(calTile s b).snapWait && measurable s b && isSet s 1 CLK.PLL_STAT_LOCK) = true → (calTile s b).stepAt + 64 ≤ s.up →
      (∀ d < dacCount b, dacPd s b d = true ∨ ((calTile s b).part.getD d none).isSome = true
        ∨ (quiet s b d && (meas.getD d none).isSome) = true) →
      (getF s pCal CAL.TILE_RUN_STEPS b + 1 < stepCount b → ∃ t, exec (.calStepDone b meas) s = .next t
        ∧ getF t pCal CAL.TILE_RUN_STEPS b = getF s pCal CAL.TILE_RUN_STEPS b + 1 ∧ calPending t b = true
        ∧ (calTile t b).part = [] ∧ (calTile t b).stepAt = s.up ∧ (calTile t b).vals = (calTile s b).vals
        ∧ (∀ d ∈ List.range (dacCount b), dacPd s b d = false → ((calTile s b).part.getD d none).isSome = false → (meas.getD d none).isSome = true → quiet s b d = true →
          (calTile t b).trims.getD (stepVal b d (getF s pCal CAL.TILE_RUN_STEPS b)) 0 = (meas.getD d none).getD 0)
        ∧ regsSame [CAL.TILE_RUN_STEPS.addr pCal b] s t ∧ typedSame { stampTimer (tmStale b) s with cal := t.cal } t)
      ∧ (getF s pCal CAL.TILE_RUN_STEPS b + 1 = stepCount b → ∃ t, exec (.calStepDone b meas) s = .next t
        ∧ calPending t b = false ∧ getF t pCal CAL.TILE_RUN_STEPS b = 0 ∧ bit (getF t pCal CAL.STALE_MAP) b = 0
        ∧ getF t pCal CAL.TILE_STAT_T_RUN b = ofSigned 16 (calTile s b).snap
        ∧ getF t pCal CAL.TILE_RUN_RUNS b = min (getF s pCal CAL.TILE_RUN_RUNS b + 1) (2 ^ CAL.TILE_RUN_RUNS.w - 1)
        ∧ (let u := enterStep b (getF s pCal CAL.TILE_RUN_STEPS b) (meas.mapIdx (fun d m => if quiet s b d then m else none)) s
           (runCheck u b (runVals u b) = none →
            smFind (slotFor s (calTile s b).snap) (calTile t b).slots = some { temp := (calTile s b).snap, vals := runVals u b })
           ∧ (∀ e, runCheck u b (runVals u b) = some e → (calTile t b).slots = (calTile s b).slots
            ∧ getF t pCal (rejFld (if isFlx b then 3 else 2)) = min (getF s pCal (rejFld (if isFlx b then 3 else 2)) + 1) (2 ^ (rejFld (if isFlx b then 3 else 2)).w - 1)))))
    ∧ (∀ b < 32, calPending s b = true → calOn s = true → timerDue s (tmStale b) (staleLimit s) = true → ∃ t, exec (.calStale b) s = .next t ∧ calPending t b = true
      ∧ getF t pCal CAL.TILE_RUN_STEPS b = 0 ∧ bit (getF t pCal CAL.STALE_MAP) b = 1 ∧ irqStat t pCal 1 = true
      ∧ getF t pCal CAL.TILE_RUN_DEFER b = min (getF s pCal CAL.TILE_RUN_DEFER b + 1) (2 ^ CAL.TILE_RUN_DEFER.w - 1))
    ∧ (∀ b, calPending s b = false ∨ calOn s = false ∨ timerDue s (tmStale b) (staleLimit s) = false → exec (.calStale b) s = .next s)
    ∧ (∀ i < 8, ∀ v < 65536, busOpen s who pCal = true → ∃ t, exec (.tpWrite who i v) s = .next t ∧ getF t pCal CAL.TP_POINT i = v
      ∧ (∀ b < 32, smFind i (calTile t b).slots = none)
      ∧ (∀ b < 32, ∀ j, j ≠ i → smFind j (calTile t b).slots = smFind j (calTile s b).slots)
      ∧ regsSame (CAL.TP_POINT.addr pCal i :: (List.range 32).map (CAL.TILE_STAT_VALID.addr pCal)) s t
      ∧ typedSame { s with cal := t.cal } t)

/-- Estimation blocks of an ADC, geometry proposals and skew estimates. A block of a read-out tile whose samples are too
weak, or that met an overrange, is discarded (R398); one that is judged and accepted puts its 48 values behind the
tile's 65 DAC values, at once on a tile that does not run and at the commit on one that does; one that fails the check
changes no value and is counted (R402, R403). Nothing happens on a tile without an ADC at work, or while the page, ADC
calibration or Hoop firmware is off. A geometry proposal whose class values pass the check is the tone's geometry at
once on a tile that does not run, and its shadow on one that does; one that fails is counted; the counts start afresh
each time (R401, R402). A skew estimate of the time root is lead 0, and that of another device with 256 delays each
way half the difference of their means over its parent's lead; its number goes up by one (R406).
(15_live_calibration.md) -/
def Obligations.CalibrationEstimates : Prop :=
  ∀ (s : State) (b : Nat),
    (∀ sums, blockReady s b = false →
      exec (.adcBlockDone b sums) s = .next s)
    ∧ (∀ sums, blockReady s b = true →
      ((calTile s b).blockOvr = true ∨ (sums.map varOf).sum < 2 ^ 12 * (blockLen : Int) ^ 2 → ∃ t, exec (.adcBlockDone b sums) s = .next t
        ∧ calVals t b = calVals s b ∧ (calTile t b).blockOvr = false ∧ blockReady t b = false ∧ t = { s with cal := t.cal, timers := t.timers })
      ∧ ((calTile s b).blockOvr = false → 2 ^ 12 * (blockLen : Int) ^ 2 ≤ (sums.map varOf).sum →
        let v := adcEstimate sums (fun k => (calVals s b).getD (67 + 3 * k) 0) (fun k => (Config.freeValue (s.free + k)).toInt)
        ∃ t, exec (.adcBlockDone b sums) s = .next t
        ∧ t.free = s.free + 16
        ∧ ((∀ k < 16, ((v.getD (3 * k) 0 - (calVals s b).getD (65 + 3 * k) 0).natAbs ≤ getF s pCal CAL.CONV_LIM_ADC_GMOVE
            ∧ (v.getD (3 * k + 1) 0 - (calVals s b).getD (66 + 3 * k) 0).natAbs ≤ getF s pCal CAL.CONV_LIM_ADC_OMOVE
            ∧ (v.getD (3 * k + 2) 0 - (calVals s b).getD (67 + 3 * k) 0).natAbs ≤ getF s pCal CAL.CONV_LIM_ADC_SMOVE)
            ∧ (v.getD (3 * k) 0).natAbs ≤ 127 ∧ (v.getD (3 * k + 1) 0).natAbs ≤ 127 ∧ (v.getD (3 * k + 2) 0).natAbs ≤ 127) →
          (tileRunning s b = false → (calTile t b).vals = (calNext s b).take 65 ++ v ∧ (calTile t b).shadow = none)
          ∧ (tileRunning s b = true → calVals t b = calVals s b ∧ (calTile t b).shadow = some ((calNext s b).take 65 ++ v)))
        ∧ ((∃ k ∈ List.range 16, getF s pCal CAL.CONV_LIM_ADC_GMOVE < (v.getD (3 * k) 0 - (calVals s b).getD (65 + 3 * k) 0).natAbs) →
          calVals t b = calVals s b ∧ getF t pCal CAL.REJ_CNT_ADC = min (getF s pCal CAL.REJ_CNT_ADC + 1) (2 ^ CAL.REJ_CNT_ADC.w - 1)
          ∧ irqStat t pCal 0 = true)))
    ∧ (∀ k < 32, (isRdo b && tileUsable s b && calOn s && isSet s pCal CAL.CAL_CTL_EN_DISC && s.boot.fw
        && decide (2 ^ getF s pCal CAL.DISC_CFG_NP ≤ (trackOf s b k).n)) = false → exec (.discProposal b k) s = .next s)
    ∧ (∀ k < 32, (isRdo b && tileUsable s b && calOn s && isSet s pCal CAL.CAL_CTL_EN_DISC && s.boot.fw
        && decide (2 ^ getF s pCal CAL.DISC_CFG_NP ≤ (trackOf s b k).n)) = true →
      let r := trackOf s b k
      let ws := geometry s b k
      let g := geomOf ws
      let ks := classesOf (RDO.DEC_CFG_CLS.of (ws.getD 8 0#32))
      let qs := ks.filter (fun j => getF s pCal CAL.DISC_LIM_POP_MIN * (r.w.sum : Int) ≤ 256 * r.w.getD j 0)
      let x := fun j => propClass r g (RDO.DISC_W2_SSH.of (ws.getD 2 0#32)) j s.free
      let why := discReason s r g ks qs (fun j => if j ∈ qs then (x j).c else g.c.getD j {})
        (fun j => if j ∈ qs then (x j).spr * 2 ^ RDO.DISC_W2_SSH.of (ws.getD 2 0#32) else g.spr.getD j 1) (fun j => (x j).spr)
      ∃ t, exec (.discProposal b k) s = .next t ∧ (trackOf t b k).n = 0 ∧ (trackOf t b k).out = 0 ∧ t.free = s.free + 9
        ∧ (qs ≠ [] → why = none → tileRunning s b = true →
          (trackOf t b k).shadow = some (qs.foldl (fun l j => setClass j (x j) l) (ws.take 8)) ∧ geometry t b k = ws)
        ∧ (qs ≠ [] → why = none → tileRunning s b = false → (trackOf t b k).shadow = none
          ∧ (geometry t b k).take 7 = (qs.foldl (fun l j => setClass j (x j) l) (ws.take 8)).take 7
          ∧ RDO.DISC_W7_SPR2.of ((geometry t b k).getD 7 0#32) = RDO.DISC_W7_SPR2.of ((qs.foldl (fun l j => setClass j (x j) l) (ws.take 8)).getD 7 0#32)
          ∧ getF t (tilePage b) RDO.DISC_W7_SET_SEQ (32 + k) = (RDO.DISC_W7_SET_SEQ.of (ws.getD 7 0#32) + 1) % 2 ^ RDO.DISC_W7_SET_SEQ.w)
        ∧ (qs ≠ [] → why ≠ none → geometry t b k = ws ∧ (trackOf t b k).shadow = (trackOf s b k).shadow
          ∧ getF t pCal CAL.REJ_CNT1_DISC = min (getF s pCal CAL.REJ_CNT1_DISC + 1) (2 ^ CAL.REJ_CNT1_DISC.w - 1) ∧ irqStat t pCal 0 = true)
        ∧ (qs = [] → geometry t b k = ws ∧ regsSame [] s t))
    ∧ (skewTakes s = false →
      exec .skewEstimate s = .next s)
    ∧ (skewTakes s = true →
      timeRoot s = some (ownNum s) → ∃ t, exec .skewEstimate s = .next t
        ∧ getF t pCal CAL.SKEW_STAT_LEAD = 0 ∧ t.cal.est = (s.cal.est + 1) % 2 ^ 32)
    ∧ (skewTakes s = true →
      timeRoot s ≠ some (ownNum s) → some (getF s pCst CST.TIME_STAT_PARENT) = timeRoot s → portState s (timePort s) = 5 →
      (portOf s (timePort s)).mode = some false → (portOf s (timePort s)).inN = 256 → (portOf s (timePort s)).outN = 256 →
      ∃ t, exec .skewEstimate s = .next t
        ∧ getF t pCal CAL.SKEW_STAT_LEAD = ofSigned 16 (leadOver (portOf s (timePort s))) ∧ t.cal.est = (s.cal.est + 1) % 2 ^ 32
        ∧ (portOf t (timePort s)).inN = 0 ∧ (portOf t (timePort s)).outN = 0)

/-- Calibration stores. A store asked for on the open CAL page begins at once where none is in progress: the copy that is
invalid, else the older one, becomes invalid, its body goes to the NVS with no header, and STORE_BUSY is 1; one asked
for during a store is due after it (R409). A store that ends well writes its header with the next number after the
other copy's, shows its copy valid in NVS_STAT and counts it; one that fails sets FAIL and bit 3 and leaves the NVS
alone (R408 to R410). With no store in progress its end changes nothing. (15_live_calibration.md, 21_hoop.md) -/
def Obligations.CalibrationStores : Prop :=
  ∀ (s : State) (who : Requester),
    (busOpen s who pCal = true → ∀ c, s.cal.storing = some c →
      exec (.calStoreReq who) s = .next { s with cal := { s.cal with due := true } })
    ∧ (busOpen s who pCal = true → s.cal.storing = none → ∃ t, exec (.calStoreReq who) s = .next t
      ∧ t.cal.storing = some (storeCopy s) ∧ t.cal.due = false ∧ isSet t pCal CAL.STATUS_STORE_BUSY = true
      ∧ isSet t pCal (if storeCopy s = 0 then CAL.NVS_STAT_VALID_A else CAL.NVS_STAT_VALID_B) = false
      ∧ (∀ a, a < calBase (storeCopy s) ∨ calBase (storeCopy s) + 0x14000 ≤ a → nvsByte t a = nvsByte s a)
      ∧ (∀ a, calBase (storeCopy s) ≤ a → a < calBase (storeCopy s) + 0x400 → nvsByte t a = 0#8)
      ∧ regsSame [CAL.STATUS_STORE_BUSY.addr pCal 0, CAL.NVS_STAT_VALID_A.addr pCal 0] s t
      ∧ typedSame { s with cal := t.cal, hoop := t.hoop } t)
    ∧ (∀ ok err, s.cal.storing = none → exec (.calStoreDone ok err) s = .next s)
    ∧ (∀ c err, s.cal.storing = some c → ∃ t, exec (.calStoreDone false err) s = .next t ∧ t.cal = { s.cal with storing := none }
      ∧ isSet t pCal CAL.NVS_STAT_FAIL = true ∧ isSet t pCal CAL.STATUS_STORE_BUSY = false ∧ irqStat t pCal 3 = true ∧ t.hoop = s.hoop)
    ∧ (∀ c < 2, ∀ err, s.cal.storing = some c → ∃ t, exec (.calStoreDone true err) s = .next t ∧ t.cal.storing = none
      ∧ isSet t pCal CAL.STATUS_STORE_BUSY = false ∧ getF t pCal CAL.NVS_STAT_COPY = c
      ∧ isSet t pCal (if c = 0 then CAL.NVS_STAT_VALID_A else CAL.NVS_STAT_VALID_B) = true
      ∧ getF t pCal CAL.NVS_STAT_STORES = min (getF s pCal CAL.NVS_STAT_STORES + 1) (2 ^ CAL.NVS_STAT_STORES.w - 1)
      ∧ (c = 0 → t.cal.seqB = s.cal.seqB ∧ t.cal.seqA
        = ((if isSet s pCal CAL.NVS_STAT_VALID_B then s.cal.seqB else 0) + 1) % 2 ^ 32)
      ∧ (c = 1 → t.cal.seqA = s.cal.seqA ∧ t.cal.seqB
        = ((if isSet s pCal CAL.NVS_STAT_VALID_A then s.cal.seqA else 0) + 1) % 2 ^ 32)
      ∧ nvsList t (calBase c) 64 = calHeader (if c = 0 then t.cal.seqA else t.cal.seqB) (leNat ((nvsList t (calBase c) 64).drop 60))
      ∧ (∀ a, a < calBase c ∨ calBase c + 64 ≤ a → nvsByte t a = nvsByte s a))

/-- Codes, strobes, the clear, range changes and limits of the bias outputs. On the open BIA page a code is written into
the input code of an output and waits there (R415); a strobe of its group, from the register or an enabled pin, puts
it out on every output that is active or that waits with a code in INIT or WAIT, and leaves the outputs of other
groups alone; an opening output ignores it with IGN set (R414, R415). While the clear is in force, the page frozen or
the device SAFE a strobe changes nothing (R414, R416, R419). A changed range opens the output for 1,250 hc; one on a
frozen page waits for the page to go on, and the same value changes nothing (R418, R419). When they are over the
output drives its clear code in the new range and waits (R418). CLR_N low puts out every clear code of an output that
is not opening, and CLR_N high leaves them (R416). A limit begins, where LIMIT is 0, with the flag of its range and
ends with LIMIT 0; an absent output takes nothing (R413, R419). (16_bias_and_monitors.md) -/
def Obligations.BiasOutputs : Prop :=
  ∀ (s : State) (who : Requester) (n : Nat),
    (∀ code < 2 ^ 20, busOpen s who pBia = true → n < biasCount s → ∃ t, exec (.biasCodeWrite who n code) s = .next t
      ∧ getF t pBia BIA.BIAS_CODE_CODE n = code ∧ isSet t pBia BIA.BIAS_STAT_PEND n = true ∧ bit (getF t pBia BIA.PEND_MAP (n / 32)) (n % 32) = 1
      ∧ getF t pBia BIA.BIAS_STAT_OUT n = getF s pBia BIA.BIAS_STAT_OUT n
      ∧ regsSame [BIA.BIAS_CODE_CODE.addr pBia n, BIA.BIAS_STAT.addr pBia n, BIA.PEND_MAP.addr pBia (n / 32)] s t
      ∧ typedSame { s with bias := t.bias } t)
    ∧ (∀ code, biasCount s ≤ n → exec (.biasCodeWrite who n code) s = .next s)
    ∧ (∀ mask < 16, busOpen s who pBia = true → clearInForce s = false → isSet s pBia HDR.CTRL_FREEZE = false →
      isSet s 0 GLB.START_STAT_SAFE = false → n < biasCount s → ∃ t, exec (.biasStrobe who mask) s = .next t
      ∧ (bit mask (getF s pBia BIA.BIAS_CFG_GROUP n) = 1 → biasState s n = 1 ∨ ((biasState s n = 0 ∨ biasState s n = 3) ∧ (strobeView s n).2 = 1) →
        getF t pBia BIA.BIAS_STAT_OUT n = (strobeView s n).1 % 2 ^ BIA.BIAS_STAT_OUT.w ∧ biasState t n = 1
        ∧ (freshCode s n = none → isSet t pBia BIA.BIAS_STAT_PEND n = false)
        ∧ ((freshCode s n).isSome = true → isSet t pBia BIA.BIAS_STAT_PEND n = isSet s pBia BIA.BIAS_STAT_PEND n))
      ∧ (bit mask (getF s pBia BIA.BIAS_CFG_GROUP n) = 0 → rdWord t (BIA.BIAS_STAT.addr pBia n) = rdWord s (BIA.BIAS_STAT.addr pBia n))
      ∧ (bit mask (getF s pBia BIA.BIAS_CFG_GROUP n) = 1 → biasState s n = 2 → biasState t n = 2 ∧ isSet t pBia BIA.BIAS_STAT_IGN n = true
        ∧ irqStat t pBia 2 = true ∧ getF t pBia BIA.BIAS_STAT_OUT n = getF s pBia BIA.BIAS_STAT_OUT n)
      ∧ getF t pBia BIA.BIAS_CODE_CODE n = getF s pBia BIA.BIAS_CODE_CODE n ∧ typedSame s t)
    ∧ (∀ g < 4, bit (getF s pBia BIA.BIA_CTL_PIN_EN) g = 1 → clearInForce s = false → isSet s pBia HDR.CTRL_FREEZE = false →
      isSet s 0 GLB.START_STAT_SAFE = false → n < biasCount s → ∃ t, exec (.ldacEdge g) s = .next t
      ∧ (getF s pBia BIA.BIAS_CFG_GROUP n = g → biasState s n = 1 ∨ ((biasState s n = 0 ∨ biasState s n = 3) ∧ (strobeView s n).2 = 1) →
        getF t pBia BIA.BIAS_STAT_OUT n = (strobeView s n).1 % 2 ^ BIA.BIAS_STAT_OUT.w ∧ biasState t n = 1)
      ∧ (getF s pBia BIA.BIAS_CFG_GROUP n ≠ g → rdWord t (BIA.BIAS_STAT.addr pBia n) = rdWord s (BIA.BIAS_STAT.addr pBia n)) ∧ typedSame s t)
    ∧ (∀ g, bit (getF s pBia BIA.BIA_CTL_PIN_EN) g = 0 ∨ clearInForce s = true ∨ isSet s pBia HDR.CTRL_FREEZE = true
      ∨ isSet s 0 GLB.START_STAT_SAFE = true → exec (.ldacEdge g) s = .next s)
    ∧ (∀ mask, busOpen s who pBia = true → clearInForce s = true ∨ isSet s pBia HDR.CTRL_FREEZE = true ∨ isSet s 0 GLB.START_STAT_SAFE = true →
      exec (.biasStrobe who mask) s = .next s)
    ∧ (∀ r < 4, busOpen s who pBia = true → n < biasCount s → getF s pBia BIA.BIAS_CFG_RANGE n ≠ r → isSet s pBia HDR.CTRL_FREEZE = false →
      ∃ t, exec (.biasRangeChange who n r) s = .next t ∧ getF t pBia BIA.BIAS_CFG_RANGE n = r ∧ biasState t n = 2
      ∧ smFind n t.bias.bbm = some 200000 ∧ t.bias.range = s.bias.range
      ∧ isSet t pBia BIA.BIAS_STAT_LIMIT n = false ∧ bit (getF t pBia BIA.LIM_MAP (n / 32)) (n % 32) = 0
      ∧ regsSame [BIA.BIAS_CFG_RANGE.addr pBia n, BIA.BIAS_STAT.addr pBia n, BIA.LIM_MAP.addr pBia (n / 32)] s t
      ∧ typedSame { s with bias := t.bias, smp := t.smp } t)
    ∧ (∀ r < 4, busOpen s who pBia = true → n < biasCount s → getF s pBia BIA.BIAS_CFG_RANGE n ≠ r → isSet s pBia HDR.CTRL_FREEZE = true →
      ∃ t, exec (.biasRangeChange who n r) s = .next t ∧ getF t pBia BIA.BIAS_CFG_RANGE n = r ∧ n ∈ t.bias.rangeHeld
      ∧ t.bias.bbm = s.bias.bbm ∧ regsSame [BIA.BIAS_CFG_RANGE.addr pBia n] s t ∧ typedSame { s with bias := t.bias } t)
    ∧ (∀ r < 4, busOpen s who pBia = true → biasCount s ≤ n ∨ getF s pBia BIA.BIAS_CFG_RANGE n = r → exec (.biasRangeChange who n r) s = .next s)
    ∧ (n < biasCount s → smFind n s.bias.bbm = some 0 → biasState s n = 2 → isSet s pBia HDR.CTRL_FREEZE = false → ∃ t, exec (.bbmDone n) s = .next t
      ∧ biasState t n = 3 ∧ getF t pBia BIA.BIAS_STAT_OUT n = getF s pBia BIA.BIAS_CLR_CLR n ∧ smGet 0 n t.bias.range = getF s pBia BIA.BIAS_CFG_RANGE n
      ∧ smFind n t.bias.bbm = none ∧ irqStat t pBia 3 = true ∧ typedSame { s with bias := t.bias } t)
    ∧ (smFind n s.bias.bbm ≠ some 0 ∨ biasState s n ≠ 2 ∨ isSet s pBia HDR.CTRL_FREEZE = true → exec (.bbmDone n) s = .next s)
    ∧ (∃ t, exec .clrNAssert s = .next t ∧ t.bias = { s.bias with clrLow := true }
      ∧ (n < biasCount s → isSet s pBia HDR.CTRL_FREEZE = false → biasState s n ≠ 2 →
        getF t pBia BIA.BIAS_STAT_OUT n = getF s pBia BIA.BIAS_CLR_CLR n ∧ biasState t n = biasState s n)
      ∧ (isSet s pBia HDR.CTRL_FREEZE = true ∨ biasState s n = 2 → rdWord t (BIA.BIAS_STAT.addr pBia n) = rdWord s (BIA.BIAS_STAT.addr pBia n))
      ∧ typedSame { s with bias := t.bias } t)
    ∧ exec .clrNRelease s = .next { s with bias := { s.bias with clrLow := false } }
    ∧ (n < biasCount s → biasState s n ≠ 2 → isSet s pBia BIA.BIAS_STAT_LIMIT n = false → ∃ t, exec (.biasLimit n true) s = .next t ∧ isSet t pBia BIA.BIAS_STAT_LIMIT n = true
      ∧ isSet t pBia (if smGet 0 n s.bias.range < 2 then BIA.BIAS_STAT_SHORT else BIA.BIAS_STAT_COMPL) n = true
      ∧ bit (getF t pBia BIA.LIM_MAP (n / 32)) (n % 32) = 1 ∧ irqStat t pBia (if smGet 0 n s.bias.range < 2 then 0 else 1) = true ∧ typedSame s t)
    ∧ (n < biasCount s → ∃ t, exec (.biasLimit n false) s = .next t ∧ isSet t pBia BIA.BIAS_STAT_LIMIT n = false
      ∧ bit (getF t pBia BIA.LIM_MAP (n / 32)) (n % 32) = 0
      ∧ regsSame [BIA.BIAS_STAT.addr pBia n, BIA.LIM_MAP.addr pBia (n / 32)] s t ∧ typedSame s t)
    ∧ (biasCount s ≤ n ∨ biasState s n = 2 ∨ isSet s pBia BIA.BIAS_STAT_LIMIT n = true → exec (.biasLimit n true) s = .next s)

/-- Window comparators, their latches and ramps. A comparator at work as a window and not UNARMED whose code falls below
LO, or rises above HI, latches TRIP_LO, or TRIP_HI, with LIVE 1 and its bit of TRIP_MAP, and a latch not set before
raises bit 0 and its source, but in self-test (R422, R424, R425). A code within the window trips nothing. An unarmed
one arms when its code lies in neither band, and trips at once outside the window (R423). LIVE returns to 0 once the
code is back past the hysteresis (R422). A period clears the latches of every comparator with CLRMODE 1 and LIVE 0,
and no other (R424). RGO starts a ramp of an enabled comparator in ramp mode with RTRIG 0 (R426); a ramp that crosses
within TMIN to TMAX shows its count, one outside them latches TRIP_R and writes a record (R427). A comparator that
does not work, by FREEZE, EN, an open output or a threshold error, changes nothing. (16_bias_and_monitors.md) -/
def Obligations.WindowComparators : Prop :=
  ∀ (s : State) (who : Requester) (n code other : Nat), n < 80 →
    (monWindow s n = true → isSet s pMon MON.MON_STAT_UNARMED n = false → ∃ t, exec (.comparatorTrip n code other) s = .next t
      ∧ (monInput s n code other < getF s pMon MON.MON_THR_LO n → isSet t pMon MON.MON_STAT_TRIP_LO n = true ∧ isSet t pMon MON.MON_STAT_LIVE n = true
        ∧ n ∉ t.bias.high
        ∧ (isSet s pMon MON.MON_STAT_TRIP_LO n = false → bit (getF t pMon MON.TRIP_MAP (n / 32)) (n % 32) = 1
          ∧ (monTest s n = 0 → irqStat t pMon 0 = true ∧ (0x040 + n, mfc s) ∈ t.evm.raised) ∧ (monTest s n ≠ 0 → t.evm = s.evm)))
      ∧ (getF s pMon MON.MON_THR_LO n ≤ monInput s n code other → getF s pMon MON.MON_THR_HI n < monInput s n code other →
        isSet t pMon MON.MON_STAT_TRIP_HI n = true ∧ isSet t pMon MON.MON_STAT_LIVE n = true ∧ n ∈ t.bias.high)
      ∧ (getF s pMon MON.MON_THR_LO n ≤ monInput s n code other → monInput s n code other ≤ getF s pMon MON.MON_THR_HI n → t = s)
      ∧ typedSame { s with bias := t.bias, evm := t.evm } t)
    ∧ (monWindow s n = false ∨ isSet s pMon MON.MON_STAT_UNARMED n = true → exec (.comparatorTrip n code other) s = .next s)
    ∧ (monWindow s n = true → isSet s pMon MON.MON_STAT_UNARMED n = true → monBand s n (monInput s n code other) = false →
      ∃ t, exec (.comparatorArm n code other) s = .next t ∧ isSet t pMon MON.MON_STAT_UNARMED n = false
      ∧ bit (getF t pMon MON.UNARM_MAP (n / 32)) (n % 32) = 0
      ∧ (monInput s n code other < getF s pMon MON.MON_THR_LO n → isSet t pMon MON.MON_STAT_TRIP_LO n = true ∧ isSet t pMon MON.MON_STAT_LIVE n = true)
      ∧ (getF s pMon MON.MON_THR_LO n ≤ monInput s n code other → getF s pMon MON.MON_THR_HI n < monInput s n code other →
        isSet t pMon MON.MON_STAT_TRIP_HI n = true ∧ isSet t pMon MON.MON_STAT_LIVE n = true)
      ∧ (getF s pMon MON.MON_THR_LO n ≤ monInput s n code other → monInput s n code other ≤ getF s pMon MON.MON_THR_HI n →
        isSet t pMon MON.MON_STAT_LIVE n = isSet s pMon MON.MON_STAT_LIVE n ∧ t.evm = s.evm))
    ∧ (monWindow s n = false ∨ isSet s pMon MON.MON_STAT_UNARMED n = false ∨ monBand s n (monInput s n code other) = true →
      exec (.comparatorArm n code other) s = .next s)
    ∧ (monWindow s n = true → isSet s pMon MON.MON_STAT_LIVE n = true → monBack s n (monInput s n code other) = true →
      ∃ t, exec (.liveClear n code other) s = .next t ∧ isSet t pMon MON.MON_STAT_LIVE n = false
      ∧ isSet t pMon MON.MON_STAT_TRIP_LO n = isSet s pMon MON.MON_STAT_TRIP_LO n ∧ isSet t pMon MON.MON_STAT_TRIP_HI n = isSet s pMon MON.MON_STAT_TRIP_HI n
      ∧ regsSame [MON.MON_STAT.addr pMon n] s t ∧ typedSame s t)
    ∧ (monWindow s n = false ∨ isSet s pMon MON.MON_STAT_LIVE n = false ∨ monBack s n (monInput s n code other) = false →
      exec (.liveClear n code other) s = .next s)
    ∧ (getF s pMon MON.MON_CTL_PERIOD ≠ 0 → isSet s pMon HDR.CTRL_EN = true → isSet s pMon HDR.CTRL_FREEZE = false →
      timerDue s tmMon (1000 * getF s pMon MON.MON_CTL_PERIOD) = true → ∃ t, exec .monPeriod s = .next t
      ∧ (cmpPresent s n = true → isSet s pMon MON.MON_CFG_CLRMODE n = true → isSet s pMon MON.MON_STAT_LIVE n = false →
        latched t n = false ∧ bit (getF t pMon MON.TRIP_MAP (n / 32)) (n % 32) = 0)
      ∧ (isSet s pMon MON.MON_CFG_CLRMODE n = false ∨ isSet s pMon MON.MON_STAT_LIVE n = true →
        rdWord t (MON.MON_STAT.addr pMon n) = rdWord s (MON.MON_STAT.addr pMon n))
      ∧ regsSame ((List.range 80).map (MON.MON_STAT.addr pMon) ++ (List.range 3).map (MON.TRIP_MAP.addr pMon)) s t ∧ typedSame (stampTimer tmMon s) t)
    ∧ (getF s pMon MON.MON_CTL_PERIOD = 0 ∨ isSet s pMon HDR.CTRL_EN = false ∨ isSet s pMon HDR.CTRL_FREEZE = true
        ∨ timerDue s tmMon (1000 * getF s pMon MON.MON_CTL_PERIOD) = false → exec .monPeriod s = .next s)
    ∧ (busOpen s who pMon = true → (cmpPresent s n && isSet s pMon MON.MON_CFG_EN n && isSet s pMon MON.MON_CFG_MODE n && isSet s pMon HDR.CTRL_EN
        && !isSet s pMon HDR.CTRL_FREEZE && decide (rtrig s n = 0)) = true → ∃ t, exec (.rampGo who n) s = .next t
      ∧ isSet t pMon MON.MON_STAT_RBUSY n = true ∧ regsSame [MON.MON_STAT.addr pMon n] s t ∧ typedSame s t)
    ∧ (busOpen s who pMon = true → (cmpPresent s n && isSet s pMon MON.MON_CFG_EN n && isSet s pMon MON.MON_CFG_MODE n && isSet s pMon HDR.CTRL_EN
        && !isSet s pMon HDR.CTRL_FREEZE && decide (rtrig s n = 0)) = false → exec (.rampGo who n) s = .next s)
    ∧ (∀ x, isSet s pMon MON.MON_STAT_RBUSY n = true → monActive s n = true → x ≤ getF s pMon MON.MON_RWIN_TMAX n → ∃ t, exec (.rampCross n x) s = .next t
      ∧ getF t pMon MON.MON_STAT_CROSS n = x ∧ isSet t pMon MON.MON_STAT_RBUSY n = false ∧ irqStat t pMon 1 = true
      ∧ (getF s pMon MON.MON_RWIN_TMIN n ≤ x → isSet t pMon MON.MON_STAT_TRIP_R n = isSet s pMon MON.MON_STAT_TRIP_R n ∧ t.errs = s.errs ∧ t.evm = s.evm)
      ∧ (x < getF s pMon MON.MON_RWIN_TMIN n → isSet t pMon MON.MON_STAT_TRIP_R n = true))
    ∧ (∀ x, isSet s pMon MON.MON_STAT_RBUSY n = true → monActive s n = true → getF s pMon MON.MON_RWIN_TMAX n < x → ∃ t, exec (.rampCross n x) s = .next t
      ∧ getF t pMon MON.MON_STAT_CROSS n = 0xFFFF ∧ isSet t pMon MON.MON_STAT_RBUSY n = false
      ∧ (getF s pMon MON.MON_RWIN_TMAX n < 0xFFFF → isSet t pMon MON.MON_STAT_TRIP_R n = true))
    ∧ (∀ x, isSet s pMon MON.MON_STAT_RBUSY n = false ∨ monActive s n = false → exec (.rampCross n x) s = .next s)

/-- Triggers and conversions of the Sampler. The round timer, 10 ms after it last ran out, and a write of RGO on the open
page do the same; before that the timer does nothing. Where the Sampler is powered, on and not frozen and no round is
running or pending, the round is registered: an idle Sampler powers up and begins with input 0, due 5,024 ns later,
and a converting one holds the round pending (R431 to R433). A trigger that meets a round, or an injection that is
already held, is dropped, counted and recorded in HKP_OVR with bit 2 (R433). INJ_GO registers every injection it names
(R433). A conversion that is due enters the accumulator of its input; the one that fills it writes RES with its
shifted sum, sets FRESH, counts SEQ and moves MIN and MAX (R434, R435); the conversion after it is the lowest
injection held, up to four in a row, else the next of the round, else none (R433). The last of a round counts the
round (R432). A conversion ends nothing before it is due. (17_housekeeping_thermal.md) -/
def Obligations.SamplerTriggersAndConversions : Prop :=
  ∀ (s : State) (who : Requester),
    (timerDue s tmRound 10000000 = false → exec .samplerRoundTimer s = .next s)
    ∧ (samplerOn s = false → busOpen s who pHkp = true → exec (.samplerRgo who) s = .next s)
    ∧ (timerDue s tmRound 10000000 = true → busOpen s who pHkp = true →
      exec .samplerRoundTimer s = exec (.samplerRgo who) (stampTimer tmRound s))
    ∧ (timerDue s tmRound 10000000 = true → samplerOn s = true → s.smp.rndPend = false → roundRuns s = false → ∃ t, exec .samplerRoundTimer s = .next t
      ∧ (s.smp.cur = none → s.smp.injPend = [] → t.smp.cur = some (.round 0 false) ∧ t.smp.rnd = some (0, true)
        ∧ t.smp.due = s.up + 5024 ∧ t.smp.rndPend = false ∧ isSet t pHkp HKP.STATUS_ON = true ∧ isSet t pHkp HKP.STATUS_RND_BUSY = true)
      ∧ (s.smp.cur ≠ none → t.smp = { s.smp with rndPend := true } ∧ isSet t pHkp HKP.STATUS_RND_PEND = true)
      ∧ regsSame [HKP.STATUS_ON.addr pHkp 0] s t ∧ typedSame { stampTimer tmRound s with smp := t.smp } t)
    ∧ (busOpen s who pHkp = true → samplerOn s = true → s.smp.rndPend = false → roundRuns s = false → ∃ t, exec (.samplerRgo who) s = .next t
      ∧ (s.smp.cur = none → s.smp.injPend = [] → t.smp.cur = some (.round 0 false) ∧ t.smp.due = s.up + 5024)
      ∧ (s.smp.cur ≠ none → t.smp = { s.smp with rndPend := true })
      ∧ regsSame [HKP.STATUS_ON.addr pHkp 0] s t ∧ typedSame { s with smp := t.smp } t)
    ∧ (timerDue s tmRound 10000000 = true → samplerOn s = true → (s.smp.rndPend = true ∨ roundRuns s = true) →
      ∃ t, exec .samplerRoundTimer s = .next t ∧ t.smp = s.smp
      ∧ bit (getF t pHkp HKP.HKP_OVR_OVR) 0 = 1 ∧ getF t pHkp HKP.HKP_OVR_CNT = min (getF s pHkp HKP.HKP_OVR_CNT + 1) 65535
      ∧ irqStat t pHkp 2 = true ∧ typedSame (stampTimer tmRound s) t)
    ∧ (∀ mask < 16, busOpen s who pHkp = true → samplerOn s = false → exec (.injGo who mask) s = .next s)
    ∧ (∀ mask < 16, busOpen s who pHkp = true → samplerOn s = true → ∃ t, exec (.injGo who mask) s = .next t
      ∧ (∀ k < 4, bit mask k = 1 → k ∈ t.smp.injPend ∨ t.smp.cur = some (.inj k))
      ∧ (∀ k < 4, bit mask k = 0 → (k ∈ t.smp.injPend ∨ t.smp.cur = some (.inj k)) → (k ∈ s.smp.injPend ∨ s.smp.cur = some (.inj k)))
      ∧ (∀ k < 4, bit mask k = 1 → (k ∈ s.smp.injPend ∨ s.smp.cur = some (.inj k)) → bit (getF t pHkp HKP.HKP_OVR_OVR) (1 + k) = 1)
      ∧ typedSame { s with smp := t.smp } t)
    ∧ (∀ code < 4096, (s.smp.cur = none ∨ samplerOn s = false ∨ s.up < s.smp.due) → exec (.samplerConversionDone code) s = .next s)
    ∧ (∀ code < 4096, ∀ c, s.smp.cur = some c → samplerOn s = true → s.smp.due ≤ s.up → convInput s c < 48 → ∃ t, exec (.samplerConversionDone code) s = .next t
      ∧ (let i := convInput s c
         let a := smGet (0, 0) i s.smp.acc
         let r := min ((a.1 + code) / 2 ^ shiftOf s i) 65535
         (a.2 + 1 < 2 ^ avgOf s i → smFind i t.smp.acc = some (a.1 + code, a.2 + 1)
           ∧ rdWord t (HKP.RES.addr pHkp i) = rdWord s (HKP.RES.addr pHkp i) ∧ rdWord t (HKP.MINMAX.addr pHkp i) = rdWord s (HKP.MINMAX.addr pHkp i))
         ∧ (2 ^ avgOf s i ≤ a.2 + 1 → smFind i t.smp.acc = none
           ∧ getF t pHkp HKP.RES_VALUE i = r ∧ isSet t pHkp HKP.RES_FRESH i = true
           ∧ getF t pHkp HKP.RES_SEQ i = (getF s pHkp HKP.RES_SEQ i + 1) % 256
           ∧ getF t pHkp HKP.MINMAX_MIN i = min (getF s pHkp HKP.MINMAX_MIN i) r ∧ getF t pHkp HKP.MINMAX_MAX i = max (getF s pHkp HKP.MINMAX_MAX i) r
           ∧ (r < getF s pHkp HKP.THR_TLO i ∨ getF s pHkp HKP.THR_THI i < r → irqStat t pHkp 1 = true ∧ (0x0C0 + i, mfc s) ∈ t.evm.raised))
         ∧ (∀ j < 48, j ≠ i → rdWord t (HKP.RES.addr pHkp j) = rdWord s (HKP.RES.addr pHkp j)))
      ∧ (s.smp.injPend = [] → s.smp.rnd = none → s.smp.rndPend = false → t.smp.cur = none ∧ isSet t pHkp HKP.STATUS_ON = false)
      ∧ (s.smp.injPend = [] → ∀ n, s.smp.rnd = some n → t.smp.cur = some (.round n.1 n.2) ∧ t.smp.rnd = roundAfter s n ∧ t.smp.due = s.up + 1024)
      ∧ (s.smp.injRun < 4 → ∀ k ∈ s.smp.injPend.take 1, t.smp.cur = some (.inj k) ∧ t.smp.injPend = s.smp.injPend.tail ∧ t.smp.rnd = s.smp.rnd)
      ∧ (∀ i x, c = .round i x → s.smp.rnd = none → getF t pHkp HKP.RND_CNT = (getF s pHkp HKP.RND_CNT + 1) % 2 ^ 32 ∧ irqStat t pHkp 0 = true))

/-- The end of a shutdown, telemetry, and reads and clears of results. On the MQ-128A a write of SHDN_CLR on the open page
ends the shutdown where the highest temperature is below 90 °C and no two sensors are broken, and is recorded without
effect where not; with no shutdown, and on the MQ-256A, it changes nothing (R441, R443). MM_RST arms the minimum and
the maximum of its input again and discards its sum (R435). A read of RES returns the result and clears FRESH, and
nothing else (R434). A read of ENERGY_LO captures the upper half of the energy for its reader (R444). PERIOD ms after
the last one, a telemetry record of 64 bytes goes to the host ring where it has room, with TEL_WP counted; one that
has none is dropped and counted, with bit 4; nothing is written before that, and while telemetry is off or the page is
frozen (R83, R445). (17_housekeeping_thermal.md) -/
def Obligations.ThermalAndResultReads : Prop :=
  ∀ (s : State) (who : Requester),
    (busOpen s who pThm = true → s.variant = .mq256 ∨ isSet s pThm THM.STATUS_SHDN = false → exec (.shdnClr who) s = .next s)
    ∧ (busOpen s who pThm = true → s.variant = .mq128 → isSet s pThm THM.STATUS_SHDN = true →
      (toSigned 16 (getF s pThm THM.TEMP_MAX_MAX) < 1440 ∧ brokenTwo s = false → ∃ t, exec (.shdnClr who) s = .next t
        ∧ isSet t pThm THM.STATUS_SHDN = false ∧ t.boot.smbShdn = false ∧ regsSame [THM.STATUS_SHDN.addr pThm 0] s t ∧ typedSame { s with boot := t.boot } t)
      ∧ (1440 ≤ toSigned 16 (getF s pThm THM.TEMP_MAX_MAX) ∨ brokenTwo s = true → ∃ t, exec (.shdnClr who) s = .next t
        ∧ t = errRec pThm 0x23 0 0 (getF s pThm THM.TEMP_MAX_MAX) 0 s ∧ isSet t pThm THM.STATUS_SHDN = true))
    ∧ (∀ i < 48, busOpen s who pHkp = true → ∃ t, exec (.mmRst who i) s = .next t
      ∧ getF t pHkp HKP.MINMAX_MIN i = 0xFFFF ∧ getF t pHkp HKP.MINMAX_MAX i = 0 ∧ smFind i t.smp.acc = none
      ∧ (∀ j, j ≠ i → smFind j t.smp.acc = smFind j s.smp.acc)
      ∧ regsSame [HKP.MINMAX.addr pHkp i] s t ∧ typedSame { s with smp := t.smp } t)
    ∧ (∀ i < 48, pageUp s pHkp = true → ∃ t, exec (.resFreshRead who i) s = .next t
      ∧ t.lastRead = BitVec.ofNat 64 (rdWord s (HKP.RES.addr pHkp i)).toNat ∧ isSet t pHkp HKP.RES_FRESH i = false
      ∧ getF t pHkp HKP.RES_VALUE i = getF s pHkp HKP.RES_VALUE i ∧ getF t pHkp HKP.RES_SEQ i = getF s pHkp HKP.RES_SEQ i
      ∧ regsSame [HKP.RES.addr pHkp i] s t ∧ typedSame { s with lastRead := t.lastRead } t)
    ∧ (∀ i < 48, reachable s pHkp = false → exec (.resFreshRead .host i) s = .next { s with lastRead := 0#64 })
    ∧ (pageUp s pThm = true → ∃ t, exec (.energyLoRead who) s = .next t ∧ t.lastRead = BitVec.ofNat 64 (getF s pThm THM.ENERGY_LO)
      ∧ getF t pThm THM.ENERGY_HI (reqIdx who) = s.smp.energy / 16000000 / 2 ^ 32 % 2 ^ 32
      ∧ regsSame [THM.ENERGY_HI.addr pThm (reqIdx who)] s t ∧ typedSame { s with lastRead := t.lastRead } t)
    ∧ (reachable s pThm = false → exec (.energyLoRead .host) s = .next { s with lastRead := 0#64 })
    ∧ ((s.boot.fw && ready s && isSet s pThm THM.TEL_CFG_EN && isSet s pThm HDR.CTRL_EN && !isSet s pThm HDR.CTRL_FREEZE
        && timerDue s tmTelemetry (1000000 * max 10 (getF s pThm THM.TEL_CFG_PERIOD))) = false → exec .telemetryTimer s = .next s)
    ∧ ((s.boot.fw && ready s && isSet s pThm THM.TEL_CFG_EN && isSet s pThm HDR.CTRL_EN && !isSet s pThm HDR.CTRL_FREEZE
        && timerDue s tmTelemetry (1000000 * max 10 (getF s pThm THM.TEL_CFG_PERIOD))) = true → hostOn s = true →
      (getF s pThm THM.TEL_WP + 2 ^ 32 - getF s pThm THM.TEL_RP) % 2 ^ 32 < telSize s → ∃ t, exec .telemetryTimer s = .next t
        ∧ (let bs := telRecord (getF s pThm THM.TEL_WP) s
           t.pcie.out = (addr64 s pThm THM.TEL_BASE_LO THM.TEL_BASE_HI + 64 * (getF s pThm THM.TEL_WP % telSize s), bs) :: s.pcie.out
           ∧ bs.length = 64 ∧ (bs.drop 6).take 2 = toBytes (getF s pThm THM.TEL_WP) 2 ∧ bs.drop 60 = toBytes (crc32 (bs.take 60)) 4)
        ∧ getF t pThm THM.TEL_WP = (getF s pThm THM.TEL_WP + 1) % 2 ^ 32
        ∧ regsSame [THM.TEL_WP.addr pThm 0] s t ∧ typedSame { stampTimer tmTelemetry s with pcie := t.pcie } t)
    ∧ ((s.boot.fw && ready s && isSet s pThm THM.TEL_CFG_EN && isSet s pThm HDR.CTRL_EN && !isSet s pThm HDR.CTRL_FREEZE
        && timerDue s tmTelemetry (1000000 * max 10 (getF s pThm THM.TEL_CFG_PERIOD))) = true →
      hostOn s = false ∨ telSize s ≤ (getF s pThm THM.TEL_WP + 2 ^ 32 - getF s pThm THM.TEL_RP) % 2 ^ 32 → ∃ t, exec .telemetryTimer s = .next t
        ∧ getF t pThm THM.TEL_DROP = min (getF s pThm THM.TEL_DROP + 1) (2 ^ 32 - 1) ∧ irqStat t pThm 4 = true
        ∧ getF t pThm THM.TEL_WP = getF s pThm THM.TEL_WP ∧ typedSame (stampTimer tmTelemetry s) t)

/-- The end of a recovery, soft repairs, the scrubber and the buckets. A recovering line whose master arrives and verifies
holds it and is good again, counted in MEM_CNT, where nothing waited to be merged (R452, R454). With no bytes to be
had it is poisoned, with bit 1 (R376, R455). Where the line fails to verify the recovery is repeated once; then, with
a free spare row in its block, the row is copied for 8 fc, and without one the line stays bad in service, with EXHAUST
and bit 3 (R456, R458). When the copy is complete the row is repaired, counted and entered into the map, and the line
holds its bytes, or is poisoned where it still fails (R456). A line that does not recover, and a copy that has not
come to its end, leave the state as it is. The scrubber reads the next line of a memory and begins again after the
last, counting its pass; it does nothing while it is off (R460). A leak takes one from the bucket of its memory
(R459). ARM is set by its write (R462). (18_memory_integrity.md) -/
def Obligations.LineRecovery : Prop :=
  ∀ (s : State) (who : Requester) (a : Nat),
    (∀ data good, memAt a = none ∨ (lineSt s a).recov = none ∨ (lineSt s a).recov.any (fun r => r.copy.isSome) = true →
      exec (.lineRefetchDone a data good) s = .next s)
    ∧ (∀ m, memAt a = some m → ∀ r, (lineSt s a).recov = some r → r.copy = none → ∀ data good,
      (masterBytes s m a data = none → ∃ t, exec (.lineRefetchDone a data good) s = .next t ∧ (lineSt t a).poison = true
        ∧ (lineSt t a).recov = none ∧ irqStat t pMic 1 = true)
      ∧ (∀ bs, masterBytes s m a data = some bs → bs.length = 64 →
        (good = true → ∃ t, exec (.lineRefetchDone a data good) s = .next t ∧ (lineSt t a).recov = none
          ∧ getF t pMic MIC.MEM_CNT m.idx = min (getF s pMic MIC.MEM_CNT m.idx + 1) (2 ^ 32 - 1)
          ∧ (r.merges = [] → lineBad t a = false ∧ rdList t (lineOf a) 64 = bs
            ∧ (∀ x, x < lineOf a ∨ lineOf a + 64 ≤ x → rdByte t x = rdByte s x)))
        ∧ (good = false → r.attempt < 2 → ∃ t, exec (.lineRefetchDone a data good) s = .next t
          ∧ (lineSt t a).recov = some { r with attempt := 2 } ∧ lineBad t a = true ∧ t.repairs = s.repairs)
        ∧ (good = false → 2 ≤ r.attempt → spareFree s m a = true → ∃ t, exec (.lineRefetchDone a data good) s = .next t
          ∧ (lineSt t a).recov = some { r with copy := some (bs, now s + 8) } ∧ t.repairs = s.repairs)
        ∧ (good = false → 2 ≤ r.attempt → spareFree s m a = false → ∃ t, exec (.lineRefetchDone a data good) s = .next t
          ∧ isSet t pMic MIC.REPAIR_STAT_EXHAUST = true ∧ irqStat t pMic 3 = true ∧ t.repairs = s.repairs
          ∧ (r.merges = [] → (lineSt t a).recov = none ∧ lineBad t a = true ∧ (lineSt t a).poison = false))))
    ∧ (∀ m, memAt a = some m → ∀ r, (lineSt s a).recov = some r → ∀ c, r.copy = some c → ∀ good,
      (now s < c.2 → exec (.repairCopyDone a good) s = .next s)
      ∧ (c.2 ≤ now s → c.1.length = 64 → ∃ t, exec (.repairCopyDone a good) s = .next t
        ∧ t.repairs = s.repairs ++ [{ idx := nextRepair s, page := m.page, kind := m.kind, block := lineBlock m a, bank := lineBank m a, row := lineRow m a, line := lineOf a, stored := false }]
        ∧ getF t pMic MIC.REPAIR_STAT_SOFT_USED = min (getF s pMic MIC.REPAIR_STAT_SOFT_USED + 1) (2 ^ MIC.REPAIR_STAT_SOFT_USED.w - 1)
        ∧ irqStat t pMic 2 = true
        ∧ (good = true → r.merges = [] → lineBad t a = false ∧ rdList t (lineOf a) 64 = c.1)
        ∧ (good = false → (lineSt t a).poison = true ∧ (lineSt t a).recov = none)))
    ∧ (∀ good, memAt a = none ∨ (lineSt s a).recov.any (fun r => r.copy.isSome) = false → exec (.repairCopyDone a good) s = .next s)
    ∧ (∀ page kind, memNamed s page kind = none ∨ isSet s pMic MIC.MIC_CTL_SCRUB_EN = false ∨ isSet s pMic HDR.CTRL_EN = false
        ∨ isSet s pMic HDR.CTRL_FREEZE = true → exec (.scrubRead page kind) s = .next s)
    ∧ (∀ page kind, ∀ m, memNamed s page kind = some m → (isSet s pMic MIC.MIC_CTL_SCRUB_EN && isSet s pMic HDR.CTRL_EN && !isSet s pMic HDR.CTRL_FREEZE) = true →
      let n := smGet 0 m.idx s.scrub
      ∃ t, exec (.scrubRead page kind) s = .next t
        ∧ smGet 0 m.idx t.scrub = (if m.size ≤ 64 * (n + 1) then 0 else n + 1)
        ∧ (lineBad s (m.base + 64 * n) = false → getF t pMic MIC.SCRUB_PASS = (if m.size ≤ 64 * (n + 1) then (getF s pMic MIC.SCRUB_PASS + 1) % 2 ^ 32 else getF s pMic MIC.SCRUB_PASS)
          ∧ regsSame [MIC.SCRUB_PASS.addr pMic 0] s t ∧ typedSame { s with scrub := t.scrub } t)
        ∧ t.mem = s.mem)
    ∧ (∀ page kind, ∀ m, memNamed s page kind = some m → isSet s pMic HDR.CTRL_FREEZE = false →
      timerDue s (tmLeak m.idx) (1000000 * max 1 (getF s pMic MIC.BKT_CFG_LEAK m.kind)) = true → ∃ t, exec (.bucketLeak page kind) s = .next t
      ∧ getF t pMic MIC.MEM_STAT_LEVEL m.idx = getF s pMic MIC.MEM_STAT_LEVEL m.idx - 1
      ∧ regsSame [MIC.MEM_STAT.addr pMic m.idx] s t ∧ typedSame (stampTimer (tmLeak m.idx) s) t)
    ∧ (∀ page kind, ∀ m, memNamed s page kind = some m →
      timerDue s (tmLeak m.idx) (1000000 * max 1 (getF s pMic MIC.BKT_CFG_LEAK m.kind)) = false → exec (.bucketLeak page kind) s = .next s)
    ∧ (∀ page kind, memNamed s page kind = none ∨ isSet s pMic HDR.CTRL_FREEZE = true → exec (.bucketLeak page kind) s = .next s)
    ∧ (busOpen s who pMic = true → ∃ t, exec (.flipArm who) s = .next t ∧ isSet t pMic MIC.FLIP_SEL_ARM = true
      ∧ regsSame [MIC.FLIP_SEL.addr pMic 0] s t ∧ typedSame s t)

/-- Starts, stops and jumps of a pattern run. On the open PAT page a GO of an enabled page with SRC 0 and no run in
progress, TIME valid and START at least 64 fc ahead, starts a run: RUN and TLOCK are 1, the counters clear, and the
first vector of segment FIRST is at START (R475). Without TIME, or with START too near, it is refused with its record;
during a run it is dropped with OVERRUN and bit 3; a segment that is off ends the run (R470, R475). An edge on TRIG_IN
raises its source (R479), starts a run 16 fc later where SRC and TSEL name it, and asks for its jump where JEN allows
it (R472, R475). A write of JUMP waits for its MCLK edge and does nothing without a run; a jump that is registered is
held until the pass end, replaces a held one but where that one came in the same fc from a source that goes first, and
is refused for a segment that is off (R472, R473). STOP is registered once, ABORT ends the run at once and raises bit
0; both do nothing without one (R476). A Picot pulse ends when its width has passed (R471). (19_pattern_port.md) -/
def Obligations.PatternRuns : Prop :=
  ∀ (s : State) (who : Requester),
    (busOpen s who pPat = true → patOn s = false ∨ patSrc s ≠ 0 → exec (.patGo who) s = .next (notePage (some who) pPat s))
    ∧ (busOpen s who pPat = true → patOn s = true → patSrc s = 0 → patRuns s = true → ∃ t, exec (.patGo who) s = .next t
      ∧ t.pat = s.pat ∧ isSet t pPat PAT.STATUS_OVERRUN = true ∧ irqStat t pPat 3 = true ∧ patRuns t = true ∧ typedSame s t)
    ∧ (busOpen s who pPat = true → patOn s = true → patSrc s = 0 → patRuns s = false →
      (isSet s 1 CLK.SYNC_STAT_TIME_VALID = false → exec (.patGo who) s = .next (errRec pPat 0x20 0 0 1 0 (notePage (some who) pPat s)))
      ∧ (isSet s 1 CLK.SYNC_STAT_TIME_VALID = true → addr64 s pPat PAT.PAT_START_LO PAT.PAT_START_HI < busTime s + 64 →
        exec (.patGo who) s = .next (errRec pPat 0x20 0 0 2 0 (notePage (some who) pPat s)))
      ∧ (isSet s 1 CLK.SYNC_STAT_TIME_VALID = true → busTime s + 64 ≤ addr64 s pPat PAT.PAT_START_LO PAT.PAT_START_HI →
        (segOn s (getF s pPat PAT.PAT_CFG_FIRST) = true → ∃ t, exec (.patGo who) s = .next t ∧ patRuns t = true
          ∧ isSet t pPat PAT.STATUS_TLOCK = true ∧ getF t pPat PAT.STATUS_SEG = getF s pPat PAT.PAT_CFG_FIRST
          ∧ getF t pPat PAT.FAIL_CNT = 0 ∧ getF t pPat PAT.JMP_CNT = 0
          ∧ t.pat.seg = getF s pPat PAT.PAT_CFG_FIRST ∧ t.pat.pos = 0 ∧ t.pat.pass = 0
          ∧ t.pat.pin = addr64 s pPat PAT.PAT_START_LO PAT.PAT_START_HI ∧ t.pat.jump = none ∧ t.pat.stop = none
          ∧ t.pat.passEnd = t.pat.pin + patPer s * segLen s (getF s pPat PAT.PAT_CFG_FIRST) ∧ typedSame { s with pat := t.pat } t)
        ∧ (segOn s (getF s pPat PAT.PAT_CFG_FIRST) = false → ∃ t, exec (.patGo who) s = .next t ∧ patRuns t = false
          ∧ irqStat t pPat 0 = true ∧ typedSame { s with pat := t.pat } t)))
    ∧ (∀ k < 4, (patOn s = false ∨ (patSrc s ≠ 1 ∨ getF s pPat PAT.PAT_CFG_TSEL ≠ k) ∧ (patRuns s = false ∨ bit (getF s pPat PAT.PAT_TRIG_JEN) k = 0)) →
      ∃ t, exec (.trigInEdge k) s = .next t ∧ t = { s with evm := { s.evm with raised := s.evm.raised ++ [(0x0F8 + k, mfc s)] } })
    ∧ (∀ k < 4, (patOn s && decide (patSrc s = 1) && decide (getF s pPat PAT.PAT_CFG_TSEL = k) && !patRuns s) = true →
      segOn s (getF s pPat PAT.PAT_CFG_FIRST) = true → ∃ t, exec (.trigInEdge k) s = .next t ∧ patRuns t = true ∧ t.pat.pin = now s + 16
        ∧ t.pat.seg = getF s pPat PAT.PAT_CFG_FIRST ∧ t.evm = { s.evm with raised := s.evm.raised ++ [(0x0F8 + k, mfc s)] })
    ∧ (∀ k < 4, (patOn s && patRuns s && decide (bit (getF s pPat PAT.PAT_TRIG_JEN) k = 1)) = true → patSrc s ≠ 1 ∨ getF s pPat PAT.PAT_CFG_TSEL ≠ k →
      segOn s (getF s pPat PAT.PAT_TRIG_JTGT / 64 ^ k % 64) = true → s.pat.jump = none → ∃ t, exec (.trigInEdge k) s = .next t
        ∧ t.pat = { s.pat with jump := some (getF s pPat PAT.PAT_TRIG_JTGT / 64 ^ k % 64, now s), jsrc := 1 + k } ∧ isSet t pPat PAT.STATUS_JPEND = true)
    ∧ (∀ tgt < 64, busOpen s who pPat = true →
      (patRuns s = false → exec (.patJump who tgt) s = .next s)
      ∧ (patRuns s = true → exec (.patJump who tgt) s = .next { s with pat := { s.pat with jreg := s.pat.jreg ++ [(tgt, evmEdge (mfc s))] } }))
    ∧ (∀ tgt < 64, ∀ src < 5, let u := jumpReq tgt src (now s) s
      (patRuns s = true → segOn s tgt = false → u.pat = s.pat ∧ irqStat u pPat 2 = true
        ∧ getF u pPat PAT.JMP_CNT_BAD = min (getF s pPat PAT.JMP_CNT_BAD + 1) 65535)
      ∧ (patRuns s = true → segOn s tgt = true →
        let kept := s.pat.jump.any (fun e => e.2 = now s) && decide (s.pat.jsrc < src)
        u.pat = (if kept then s.pat else { s.pat with jump := some (tgt, now s), jsrc := src })
        ∧ (kept = false → isSet u pPat PAT.STATUS_JPEND = true)
        ∧ getF u pPat PAT.JMP_CNT_REPL = (if s.pat.jump = none then getF s pPat PAT.JMP_CNT_REPL else min (getF s pPat PAT.JMP_CNT_REPL + 1) 65535)
        ∧ regsSame [PAT.STATUS_JPEND.addr pPat 0, PAT.JMP_CNT.addr pPat 0] s u ∧ typedSame { s with pat := u.pat } u))
    ∧ (∀ e, s.pat.jreg = [e] → (e.2 ≤ mfc s → registerJumps s = jumpReq e.1 0 (now s) { s with pat := { s.pat with jreg := [] } })
      ∧ (mfc s < e.2 → registerJumps s = s))
    ∧ (busOpen s who pPat = true → (patRuns s = true → s.pat.stop = none →
        ∃ t, exec (.patStop who) s = .next t ∧ t = { s with pat := { s.pat with stop := some (now s) } })
      ∧ (patRuns s = false ∨ s.pat.stop ≠ none → exec (.patStop who) s = .next s)
      ∧ (patRuns s = true → ∃ t, exec (.patAbort who) s = .next t ∧ patRuns t = false ∧ irqStat t pPat 0 = true ∧ t.pat.vecs = []
        ∧ t.pat.jump = none ∧ isSet t pPat PAT.STATUS_JPEND = false ∧ typedSame { s with pat := t.pat } t)
      ∧ (patRuns s = false → exec (.patAbort who) s = .next (notePage (some who) pPat s)))
    ∧ (∀ k, (s.pat.frozen = none → exec (.picotPulseEnd k) s =
        .next { s with pat := { s.pat with picot := s.pat.picot.filter (fun p => decide (p.pin ≠ k) || decide (now s < p.stop)) } })
      ∧ (s.pat.frozen ≠ none → exec (.picotPulseEnd k) s = .next s))

/-- Vectors, their compares and the ends of passes. The next vector of a run is read 12 fc before its pin time: 16 bytes
of Pricking memory, zeros from a bad line or past its end (R466, R450, R470); the stream goes on by one vector of VPER
+ 1 fc. The oldest vector is compared at its pin time plus CMP_OFS: a pin fails that is high where it expects low, or
low where it expects high (R468). A failing vector counts, its pins are collected and source 0x0F0 is raised; the
first of a run leaves its place and time with bit 1, and ends the run where STOP_FAIL is 1 (R468, R476). At the end of
a pass that is read to its last vector the page's waiting values commit, and the run stops where STOP was registered
before or END says so, goes to the held jump's segment, repeats the segment while passes are left, or goes on with
NEXT (R469, R473, R474, R476). Before their time, without a run and while frozen these change nothing (R477).
(19_pattern_port.md) -/
def Obligations.PatternVectors : Prop :=
  ∀ (s : State),
    (patRuns s = false ∨ s.pat.frozen ≠ none ∨ segLen s s.pat.seg ≤ s.pat.pos ∨ now s + 12 < s.pat.pin → exec .vectorFetch s = .next s)
    ∧ (patRuns s = true → s.pat.frozen = none → s.pat.pos < segLen s s.pat.seg → s.pat.pin ≤ now s + 12 →
      let v := segStart s s.pat.seg + s.pat.pos
      ∃ t, exec .vectorFetch s = .next t ∧ t.pat.pos = s.pat.pos + 1 ∧ t.pat.pin = s.pat.pin + patPer s
        ∧ t.pat.vecs = s.pat.vecs ++ [{ idx := v, seg := s.pat.seg, pass := s.pat.pass, pin := s.pat.pin, data := if v < 131072 ∧ lineBad s (0x10000000 + 16 * v) = false then rdBytes s (0x10000000 + 16 * v) 16 else 0 }]
        ∧ (131072 ≤ v ∨ lineBad s (0x10000000 + 16 * v) = false → typedSame { s with pat := t.pat } t ∧ regsSame [] s t) ∧ t.mem = s.mem)
    ∧ (∀ data levels n : Nat, n < 32 → bit (failPins data levels) n = ofBool
        ((decide (mwBits data (4 * n + 2) 2 = 1) && decide (bit levels n = 1)) || (decide (mwBits data (4 * n + 2) 2 = 2) && decide (bit levels n = 0))))
    ∧ (∀ levels, patRuns s = false ∨ s.pat.frozen ≠ none ∨ s.pat.vecs = []
      ∨ s.pat.vecs.head?.any (fun v => decide (now s < v.pin + getB s pPat PAT.PAT_STROBE_CMP_OFS)) = true → exec (.vectorCompare levels) s = .next s)
    ∧ (∀ levels, patRuns s = true → s.pat.frozen = none → ∀ v, s.pat.vecs.head? = some v → v.pin + getB s pPat PAT.PAT_STROBE_CMP_OFS ≤ now s →
      (failPins v.data levels = 0 → exec (.vectorCompare levels) s = .next { s with pat := { s.pat with vecs := s.pat.vecs.tail } })
      ∧ (failPins v.data levels ≠ 0 → s.pat.failed = true → ∃ t, exec (.vectorCompare levels) s = .next t
        ∧ t.pat = { s.pat with vecs := s.pat.vecs.tail } ∧ getF t pPat PAT.FAIL_CNT = min (getF s pPat PAT.FAIL_CNT + 1) (2 ^ 32 - 1)
        ∧ getF t pPat PAT.FAIL_PINS = (getF s pPat PAT.FAIL_PINS ||| failPins v.data levels)
        ∧ t.evm = { s.evm with raised := s.evm.raised ++ [(0x0F0, mfc s)] }
        ∧ regsSame [PAT.FAIL_CNT.addr pPat 0, PAT.FAIL_PINS.addr pPat 0] s t ∧ typedSame { s with pat := t.pat, evm := t.evm } t)
      ∧ (failPins v.data levels ≠ 0 → s.pat.failed = false → ∃ t, exec (.vectorCompare levels) s = .next t ∧ t.pat.failed = true
        ∧ getF t pPat PAT.FAIL_FIRST_VEC = v.idx % 2 ^ PAT.FAIL_FIRST_VEC.w ∧ getF t pPat PAT.FAIL_FIRST_SEG = v.seg % 2 ^ PAT.FAIL_FIRST_SEG.w
        ∧ getF t pPat PAT.FAIL_TIME = v.pin % 2 ^ 32 ∧ irqStat t pPat 1 = true
        ∧ patRuns t = decide (getB s pPat PAT.PAT_CFG_STOP_FAIL ≠ 1)))
    ∧ (patRuns s = false ∨ s.pat.frozen ≠ none ∨ s.pat.pos < segLen s s.pat.seg ∨ now s < s.pat.passEnd → exec .passEnd s = .next s)
    ∧ (patRuns s = true → s.pat.frozen = none → segLen s s.pat.seg ≤ s.pat.pos → s.pat.passEnd ≤ now s →
      let last := decide (getB s pPat PAT.SEG_CTL_REPEAT s.pat.seg ≤ s.pat.pass)
      let stops := s.pat.stop.any (fun f => decide (f < s.pat.passEnd)) || (last && decide (getB s pPat PAT.SEG_CTL_END s.pat.seg = 1))
      let jump := s.pat.jump.filter (fun e => decide (e.2 < s.pat.passEnd))
      (stops = true → ∃ t, exec .passEnd s = .next t ∧ patRuns t = false ∧ irqStat t pPat 0 = true ∧ t.pat.jump = none)
      ∧ (stops = false → ∀ j, jump = some j → segOn (patCommit s) j.1 = true → ∃ t, exec .passEnd s = .next t ∧ patRuns t = true
        ∧ t.pat.seg = j.1 ∧ t.pat.pass = 0 ∧ t.pat.pos = 0 ∧ t.pat.pin = s.pat.passEnd ∧ t.pat.jump = none ∧ getF t pPat PAT.STATUS_SEG = j.1 % 64)
      ∧ (stops = false → jump = none → last = false → ∃ t, exec .passEnd s = .next t ∧ patRuns t = true
        ∧ t.pat.seg = s.pat.seg ∧ t.pat.pass = s.pat.pass + 1 ∧ t.pat.pos = 0 ∧ t.pat.pin = s.pat.passEnd ∧ t.pat.jump = s.pat.jump)
      ∧ (stops = false → jump = none → last = true → segOn (patCommit s) (getB s pPat PAT.SEG_CTL_NEXT s.pat.seg) = true → ∃ t, exec .passEnd s = .next t
        ∧ patRuns t = true ∧ t.pat.seg = getB s pPat PAT.SEG_CTL_NEXT s.pat.seg ∧ t.pat.pass = 0 ∧ t.pat.pos = 0 ∧ t.pat.pin = s.pat.passEnd)
      ∧ (stops = false → jump = none → last = true → segOn (patCommit s) (getB s pPat PAT.SEG_CTL_NEXT s.pat.seg) = false → ∃ t, exec .passEnd s = .next t
        ∧ patRuns t = false ∧ irqStat t pPat 0 = true))

/-- END, STOP and a jump on one boundary. Where the pass that ends is the last of a segment with END, a STOP was
registered before the boundary and a jump is held for it, the run stops, and the held jump is discarded and counted in
JMP_CNT.REPL. (R474) -/
def Obligations.EndStopAndJumpTogether : Prop :=
  ∀ (s : State), patRuns s = true → s.pat.frozen = none → segLen s s.pat.seg ≤ s.pat.pos → s.pat.passEnd ≤ now s →
    getB s pPat PAT.SEG_CTL_REPEAT s.pat.seg ≤ s.pat.pass → getB s pPat PAT.SEG_CTL_END s.pat.seg = 1 →
    s.pat.stop.any (fun f => decide (f < s.pat.passEnd)) = true → s.pat.jump.any (fun e => decide (e.2 < s.pat.passEnd)) = true →
    ∃ t, exec .passEnd s = .next t ∧ patRuns t = false ∧ t.pat.jump = none ∧ isSet t pPat PAT.STATUS_JPEND = false
      ∧ getF t pPat PAT.JMP_CNT_REPL = min (getF s pPat PAT.JMP_CNT_REPL + 1) 65535

/-- Registration, delivery, timers, channel configuration and protection of the event matrix. At the MCLK edge that has
come the raised events are taken; a channel in use whose source is among them sends one event on its way, to be
delivered 2 mc after the edge, or counts it as gated where its gate is closed; other channels do nothing, and none
does while the page is off or frozen (R482 to R485). The event whose delivery has come counts, hits its map and bit 0
where it says so, and reaches its destination once in a cycle of the destination's clock, else it is merged and
counted; a wake-up line becomes pending, or overrun where it is (R480, R485); the channels that take its channel's
output register it (R484). A timer raises its source, once at an edge, where TIME / 4 modulo PERIOD is PHASE (R481). A
CH_CFG write on the open page that is not held off by protection is taken whole unless it would close a loop, which
counts it, raises bit 1 and changes nothing; a channel fed by its own output is such a loop (R487 to R489). The first
write of 1 or 2 to PROT fixes its mode and gives channel 63 to Hoop firmware; later ones are recorded and change
nothing (R486, R489). (20_event_matrix.md) -/
def Obligations.EventMatrix : Prop :=
  ∀ (s : State) (who : Requester),
    (∀ trig, s.evm.raised = [] → exec (.evmRegister trig) s = .next s)
    ∧ (∀ trig, ∀ e, (s.evm.raised.map (fun r => evmEdge r.2)).min? = some e →
      (mfc s < e → exec (.evmRegister trig) s = .next s)
      ∧ (e ≤ mfc s → ∃ t, exec (.evmRegister trig) s = .next t
        ∧ t.evm.raised = s.evm.raised.filter (fun r => evmEdge r.2 ≠ e) ∧ t.evm.last = s.evm.last
        ∧ (evmOn s = false → t.evm.flight = s.evm.flight ∧ regsSame [] s t)
        ∧ (evmOn s = true → ∀ c < 64,
          let taken := isSet s pEvm EVM.CH_CFG_EN c && s.evm.raised.any (fun r => decide (evmEdge r.2 = e ∧ r.1 ≠ 0 ∧ r.1 = getF s pEvm EVM.CH_CFG_SRC c))
          let opened := gateLevel s trig (getF s pEvm EVM.CH_GATE_GSEL c) != isSet s pEvm EVM.CH_CFG_GINV c
          (taken = true → opened = true →
            EvmEvent.mk c (if getF s pEvm EVM.CH_CFG_DST c ≤ 0x11 then getF s pEvm EVM.CH_CFG_DST c else 0) (isSet s pEvm EVM.CH_CFG_IRQ c) (e + 8) ∈ t.evm.flight ∧ rdWord t (EVM.CH_CNT.addr pEvm c) = rdWord s (EVM.CH_CNT.addr pEvm c))
          ∧ (taken = true → opened = false → getF t pEvm EVM.CH_CNT_GATED c = min (getF s pEvm EVM.CH_CNT_GATED c + 1) 65535
            ∧ getF t pEvm EVM.CH_CNT_EVT c = getF s pEvm EVM.CH_CNT_EVT c)
          ∧ (taken = false ∨ opened = false → ∀ x ∈ t.evm.flight, x.chan = c → x ∈ s.evm.flight)
          ∧ (taken = false → rdWord t (EVM.CH_CNT.addr pEvm c) = rdWord s (EVM.CH_CNT.addr pEvm c)))
        ∧ typedSame { s with evm := t.evm } t))
    ∧ (∀ trig, s.evm.flight = [] → exec (.evmDeliver trig) s = .next s)
    ∧ (∀ trig, ∀ x, s.evm.flight.find? (fun y => s.evm.flight.all (fun z => decide (y.due ≤ z.due))) = some x →
      (mfc s < x.due → exec (.evmDeliver trig) s = .next s)
      ∧ (x.due ≤ mfc s → x.chan < 64 → ∃ t, exec (.evmDeliver trig) s = .next t
        ∧ getF t pEvm EVM.CH_CNT_EVT x.chan = min (getF s pEvm EVM.CH_CNT_EVT x.chan + 1) 65535
        ∧ (x.irq = true → bit (getF t pEvm EVM.HIT_MAP (x.chan / 32)) (x.chan % 32) = 1 ∧ irqStat t pEvm 0 = true)
        ∧ t.evm.flight.take (s.evm.flight.length - 1) = s.evm.flight.erase x
        ∧ (x.dst ≠ 0 → smGet 0 x.dst s.evm.last = dstCycle x.dst x.due + 1 →
          getF t pEvm EVM.MERGE_CNT = min (getF s pEvm EVM.MERGE_CNT + 1) (2 ^ 32 - 1) ∧ t.bias = s.bias ∧ t.smp = s.smp ∧ t.pat = s.pat ∧ t.hoop = s.hoop)
        ∧ (10 ≤ x.dst → x.dst < 18 → smGet 0 x.dst s.evm.last ≠ dstCycle x.dst x.due + 1 →
          smGet 0 x.dst t.evm.last = dstCycle x.dst x.due + 1
          ∧ (bit (getF s pEvm EVM.WAKE_STAT_PEND) (x.dst - 10) = 0 → bit (getF t pEvm EVM.WAKE_STAT_PEND) (x.dst - 10) = 1 ∧ Urgent.wake (x.dst - 10) ∈ t.hoop.urgent)
          ∧ (bit (getF s pEvm EVM.WAKE_STAT_PEND) (x.dst - 10) = 1 → bit (getF t pEvm EVM.WAKE_STAT_OVR) (x.dst - 10) = 1 ∧ irqStat t pEvm 2 = true ∧ t.hoop = s.hoop))
        ∧ (evmOn s = true → ∀ c < 64, isSet s pEvm EVM.CH_CFG_EN c = true → getF s pEvm EVM.CH_CFG_SRC c = 0x180 + x.chan →
          gateLevel t trig (getF s pEvm EVM.CH_GATE_GSEL c) ≠ isSet s pEvm EVM.CH_CFG_GINV c →
          t.evm.flight.any (fun y => decide (y.chan = c ∧ y.due = x.due + 8)) = true)))
    ∧ (∀ k < 4, ((getF s pEvm EVM.TMR_PER_PERIOD k ≠ 0 ∧ evmOn s = true ∧ isSet s 1 CLK.SYNC_STAT_TIME_VALID = true ∧ isSet s 1 CLK.PLL_STAT_LOCK = true
        ∧ now s / 4 % getF s pEvm EVM.TMR_PER_PERIOD k = getF s pEvm EVM.TMR_PH_PHASE k
        ∧ s.evm.raised.all (fun r => r.1 ≠ 0x0F4 + k || r.2 / 4 ≠ mfc s / 4) = true) →
        exec (.evmTimer k) s = .next { s with evm := { s.evm with raised := s.evm.raised ++ [(0x0F4 + k, mfc s)] } })
      ∧ ((getF s pEvm EVM.TMR_PER_PERIOD k = 0 ∨ evmOn s = false ∨ isSet s 1 CLK.SYNC_STAT_TIME_VALID = false ∨ isSet s 1 CLK.PLL_STAT_LOCK = false
        ∨ now s / 4 % getF s pEvm EVM.TMR_PER_PERIOD k ≠ getF s pEvm EVM.TMR_PH_PHASE k
        ∨ s.evm.raised.any (fun r => r.1 = 0x0F4 + k && r.2 / 4 = mfc s / 4) = true) → exec (.evmTimer k) s = .next s))
    ∧ (∀ c < 64, ∀ w < 2 ^ 32, busOpen s who pEvm = true →
      let v := BitVec.ofNat 32 w
      let own := getF s pEvm EVM.CH_PROT_OWN c
      let free := !(decide (getF s pEvm EVM.PROT_MODE = 1) && decide (own ≠ 0) && decide (own ≠ reqCode who))
        && !(decide (getF s pEvm EVM.PROT_MODE = 2) && isSet s pEvm EVM.CH_PROT_LK c) && !secured s c v
      (free = true → EVM.CH_CFG_EN.of v = 0 ∨ cycleOf (usedChans s c v) c = none → ∃ t, exec (.evmChCfgWrite who c w) s = .next t
        ∧ getF t pEvm EVM.CH_CFG_EN c = EVM.CH_CFG_EN.of v ∧ getF t pEvm EVM.CH_CFG_SRC c = EVM.CH_CFG_SRC.of v ∧ getF t pEvm EVM.CH_CFG_DST c = EVM.CH_CFG_DST.of v
        ∧ getF t pEvm EVM.CH_CFG_IRQ c = EVM.CH_CFG_IRQ.of v ∧ getF t pEvm EVM.CH_CFG_GINV c = EVM.CH_CFG_GINV.of v
        ∧ regsSame [EVM.CH_CFG.addr pEvm c] s t ∧ typedSame s t)
      ∧ (free = true → EVM.CH_CFG_EN.of v = 1 → cycleOf (usedChans s c v) c ≠ none ∨ EVM.CH_CFG_SRC.of v = 0x180 + c → ∃ t, exec (.evmChCfgWrite who c w) s = .next t
        ∧ rdWord t (EVM.CH_CFG.addr pEvm c) = rdWord s (EVM.CH_CFG.addr pEvm c) ∧ irqStat t pEvm 1 = true
        ∧ getF t pEvm EVM.LOOP_CNT_LOOP_CNT = min (getF s pEvm EVM.LOOP_CNT_LOOP_CNT + 1) 65535 ∧ typedSame s t)
      ∧ (free = false → ∃ t, exec (.evmChCfgWrite who c w) s = .next t
        ∧ rdWord t (EVM.CH_CFG.addr pEvm c) = rdWord s (EVM.CH_CFG.addr pEvm c) ∧ typedSame s t))
    ∧ (∀ v < 4, busOpen s who pEvm = true →
      (isSet s pEvm EVM.PROT_FIXED = true → exec (.evmProtWrite who v) s = .next (errRec pEvm 0x21 0 0 v 0 s))
      ∧ (isSet s pEvm EVM.PROT_FIXED = false → v = 0 ∨ v = 3 → exec (.evmProtWrite who v) s = .next s)
      ∧ (isSet s pEvm EVM.PROT_FIXED = false → v = 1 ∨ v = 2 → ∃ t, exec (.evmProtWrite who v) s = .next t ∧ getF t pEvm EVM.PROT_MODE = v
        ∧ isSet t pEvm EVM.PROT_FIXED = true ∧ (s.boot.fw = true → v = 1 → getF t pEvm EVM.CH_PROT_OWN 63 = 2)
        ∧ (s.boot.fw = true → v = 2 → isSet t pEvm EVM.CH_PROT_LK 63 = true)
        ∧ regsSame [EVM.PROT.addr pEvm 0, EVM.CH_PROT.addr pEvm 63] s t ∧ typedSame s t))

/-- Safe points, machine checks and the journal of the NVS. At a safe point SP_MAX keeps the largest spacing and the count
of the watchdog begins again; urgent work comes first, one service at a time: a wake-up line is acknowledged, a tile
is mapped out (R496, R497). With none waiting, a doorbell is read: a buffer that cannot be read shows FAIL, one that
is refused is answered with its status, and any other is the command taken (R382, R383, R500). A master-image load
that is checked replaces the table, and reports its result with bit 3 (R375). Where Hoop does not run a safe point
changes nothing (R496). A Hoop machine check counts, shows its address, and is fatal (R495); so is the watchdog once
65,536 mc have passed without a safe point, and not before (R530). A word programmed takes its record one word on
through journal, commit mark, copy and retirement, and the copy is what changes the NVS (R503); a word that fails
gives its record up with bit 3 (R507). (21_hoop.md, 14_host_interface.md, 23_faults_and_debug.md) -/
def Obligations.HoopAndNvs : Prop :=
  ∀ (s : State),
    (∀ sp buf mit auto, hoopUp s = false → exec (.hoopSafePoint sp buf mit auto) s = .next s)
    ∧ (∀ sp < 65536, ∀ buf mit auto, hoopUp s = true → ∃ t, exec (.hoopSafePoint sp buf mit auto) s = .next t
      ∧ getF t 2 HOOP.SP_MAX_SP_MAX = max (getF s 2 HOOP.SP_MAX_SP_MAX) sp ∧ t.hoop.spAt = s.mck
      ∧ (∀ k < 8, s.hoop.urgent.head? = some (.wake k) → bit (getF t pEvm EVM.WAKE_STAT_PEND) k = 0 ∧ t.hoop.urgent = s.hoop.urgent.tail)
      ∧ (∀ b < 32, ∀ r, s.hoop.urgent.head? = some (.mapOut b r) → tileUsable s b = true → tileUsable t b = false ∧ smFind b t.boot.mapped = some r
        ∧ isSet t (tilePage b) HDR.CTRL_EN = false ∧ getF t (tilePage b) HDR.OWNER_OWN = 2)
      ∧ (s.hoop.urgent = [] → s.pcie.door ≠ none → s.pcie.cmd = none → hostOn s = false ∨ buf = none →
        t.pcie.door = none ∧ t.pcie.cmd = none ∧ isSet t pPci PCI.MBX_STAT_FAIL = true ∧ isSet t pPci PCI.MBX_STAT_BUSY = false)
      ∧ (s.hoop.urgent = [] → s.pcie.door ≠ none → s.pcie.cmd = none → hostOn s = true → ∀ l, buf = some l →
        let c : Cmd := { op := leNat (l.take 2), seq := leNat ((l.drop 8).take 4), payload := (l.drop 16).take (min (leNat ((l.drop 4).take 4)) 2032) }
        (refuses s c (leNat ((l.drop 2).take 2)) (leNat ((l.drop 4).take 4)) = none → t.pcie.cmd = some c ∧ t.pcie.door = none)
        ∧ (∀ st, refuses s c (leNat ((l.drop 2).take 2)) (leNat ((l.drop 4).take 4)) = some st → answered c st t)))
    ∧ (∀ sp < 65536, ∀ buf auto, hoopUp s = true → s.hoop.urgent = [] → s.pcie.door = none → s.boot.fw = true → ready s = true → hostOn s = true →
      ∀ e, s.pcie.mit = some e → e.2 ≤ 4096 → e.2 ≠ 0 → ∀ l : List Byte, l.length = 32 * e.2 → ∃ t, exec (.hoopSafePoint sp buf (some l) auto) s = .next t
      ∧ t.pcie.mit = none ∧ isSet t pPci PCI.MIT_STAT_BUSY = false ∧ isSet t pPci PCI.MIT_STAT_DONE = true ∧ irqStat t pPci 3 = true
      ∧ (mitCheck s [] ((List.range e.2).map (mitEntry l)) = none → t.masters = (List.range e.2).map (mitEntry l) ∧ getF t pPci PCI.MIT_STAT_RESULT = 0)
      ∧ (∀ x, mitCheck s [] ((List.range e.2).map (mitEntry l)) = some x → t.masters = s.masters ∧ getF t pPci PCI.MIT_STAT_RESULT = x.2 % 16
        ∧ getF t pPci PCI.MIT_STAT_BAD_IDX = x.1 % 2 ^ 13))
    ∧ (∀ a < 65536, alive s = true → s.boot.fw = true → ∃ t, exec (.hoopMc a) s = .next t
      ∧ getF t 2 HOOP.MC_STAT_CNT = min (getF s 2 HOOP.MC_STAT_CNT + 1) 255 ∧ getF t 2 HOOP.MC_STAT_ADDR = a ∧ t.hoop = { s.hoop with resident := false }
      ∧ (s.fatal = none → s.boot.fatal = none → ∃ f, t.fatal = some f ∧ f.page = 2 ∧ f.code = 0x21 ∧ f.info = BitVec.ofNat 32 a)
      ∧ (∀ f, s.fatal = some f → t.fatal = some f))
    ∧ (∀ a, alive s = false ∨ s.boot.fw = false → exec (.hoopMc a) s = .next s)
    ∧ (hoopUp s = true → s.hoop.spAt + 40 * 65536 ≤ s.mck → ∃ t, exec .hoopWdt s = .next t ∧ t.free = s.free + 1
      ∧ ∃ f, t.fatal = some f ∧ f.page = 0 ∧ f.code = 0x27 ∧ f.info = BitVec.ofNat 32 (Config.hoopFetch s.free).toNat)
    ∧ (hoopUp s = false ∨ s.mck < s.hoop.spAt + 40 * 65536 → exec .hoopWdt s = .next s)
    ∧ (∀ ok, s.hoop.recs = [] → exec (.nvsWordDone ok) s = .next s)
    ∧ (∀ r, s.hoop.recs.head? = some r →
      (r.done + 1 < 2 * nvsWords r.bytes + 2 → ∃ t, exec (.nvsWordDone true) s = .next t
        ∧ t.hoop.recs = { r with done := r.done + 1 } :: s.hoop.recs.tail ∧ regsSame [] s t
        ∧ (r.done ≤ nvsWords r.bytes → ∀ a, nvsByte t a = nvsByte s a)
        ∧ (nvsWords r.bytes < r.done → ∀ i < 8,
          8 * (r.done - (nvsWords r.bytes + 1)) + i < r.bytes.length →
          nvsByte t (r.tgt + 8 * (r.done - (nvsWords r.bytes + 1)) + i) = r.bytes.getD (8 * (r.done - (nvsWords r.bytes + 1)) + i) 0#8))
      ∧ (2 * nvsWords r.bytes + 2 ≤ r.done + 1 → r.cmd = false → ∃ t, exec (.nvsWordDone true) s = .next t ∧ t.hoop.recs = s.hoop.recs.tail
        ∧ isSet t 3 NVS.NVS_STAT_BUSY = decide (s.hoop.recs.tail ≠ []))
      ∧ (∃ t, exec (.nvsWordDone false) s = .next t ∧ t.hoop.recs = s.hoop.recs.tail ∧ t.hoop.nvs = s.hoop.nvs ∧ irqStat t 3 0 = true
        ∧ t.free = s.free + 1 ∧ (∀ c, s.pcie.cmd = some c → r.cmd = true → answered c 8 t)))

/-- The mailbox commands that Hoop runs. In its turn each command does what R500 says and is answered by R501; out of turn
it changes nothing. ECHO returns its payload, INFO the firmware version, UID, part and health. MEM_FILL writes one
line of its pattern and nothing else, and is answered after the last; BULK_LOAD without its image answers HOST_IO,
IMAGE_LOAD of an entry past 13 BAD_ARG and one whose flash fails FLASH_IO. NVS_WRITE and PROFILE_SET hand their bytes
to the journal, one record at a time. FLASH_READ returns bytes of the boot flash; FLASH_WRITE programs one page; both
answer FLASH_IO where the flash fails. TILE_MAP maps its tile out, or back in where its reason lets it (R534, R535).
WARM_START is answered before its start is requested (R510). (21_hoop.md, 23_faults_and_debug.md,
14_host_interface.md) -/
def Obligations.MailboxCommands : Prop :=
  ∀ (s : State) (img : Option (List Byte)) (ok : Bool),
    (hoopTurn s 0x0001 = false → exec .echo s = .next s) ∧ (hoopTurn s 0x0002 = false → exec .info s = .next s)
    ∧ (hoopTurn s 0x0010 = false → exec .memFill s = .next s) ∧ (hoopTurn s 0x0011 = false → exec (.bulkLoad img) s = .next s)
    ∧ (hoopTurn s 0x0012 = false → exec (.imageLoad img) s = .next s) ∧ (hoopTurn s 0x0020 = false → exec .nvsWrite s = .next s)
    ∧ (hoopTurn s 0x0021 = false → exec .profileSet s = .next s) ∧ (hoopTurn s 0x0030 = false → exec (.flashRead ok) s = .next s)
    ∧ (hoopTurn s 0x0031 = false → exec (.flashWrite ok) s = .next s) ∧ (hoopTurn s 0x0040 = false → exec .tileMap s = .next s)
    ∧ (hoopTurn s 0x0050 = false → exec .warmStartCmd s = .next s)
    ∧ (∀ c, s.pcie.cmd = some c → hoopTurn s 0x0001 = true → ∃ t, exec .echo s = .next t ∧ answered c 0 t
      ∧ (c.cut = false → hostOn s = true → t.pcie.out =
        (addr64 s pPci PCI.MBX_BASE_LO PCI.MBX_BASE_HI + 0x800, responseBytes c 0 c.payload) :: s.pcie.out)
      ∧ (c.cut = true → t.pcie.out = s.pcie.out) ∧ typedSame { s with pcie := t.pcie } t)
    ∧ (∀ c, s.pcie.cmd = some c → hoopTurn s 0x0002 = true → ∃ t, exec .info s = .next t ∧ answered c 0 t
      ∧ (c.cut = false → hostOn s = true → t.pcie.out = (addr64 s pPci PCI.MBX_BASE_LO PCI.MBX_BASE_HI + 0x800,
          responseBytes c 0 (toBytes (getF s 2 HOOP.FW_VER) 4 ++ uidBytes ++ toBytes (ofBool (decide (s.variant = .mq128))) 1
            ++ toBytes (getF s 0 GLB.HEALTH_STATE) 1)) :: s.pcie.out) ∧ typedSame { s with pcie := t.pcie } t)
    ∧ (∀ c, s.pcie.cmd = some c → hoopTurn s 0x0010 = true →
      (c.arg 0 4 % 64 ≠ 0 ∨ c.arg 4 4 % 64 ≠ 0 → ∃ t, exec .memFill s = .next t ∧ answered c 4 t ∧ t.mem = s.mem)
      ∧ (c.arg 0 4 % 64 = 0 → c.arg 4 4 % 64 = 0 → c.arg 4 4 ≠ 0 → c.prog < c.arg 4 4 / 64 →
        (rangeFault s (c.arg 0 4) (c.arg 4 4) 1 = some 4 → ∃ t, exec .memFill s = .next t ∧ answered c 6 t ∧ t.mem = s.mem)
        ∧ (rangeFault s (c.arg 0 4) (c.arg 4 4) 1 = none → ∃ t, exec .memFill s = .next t
          ∧ rdList t (c.arg 0 4 + 64 * c.prog) 64 = (List.replicate 16 (toBytes (c.arg 8 4) 4)).flatten
          ∧ (∀ a, a < c.arg 0 4 + 64 * c.prog ∨ c.arg 0 4 + 64 * c.prog + 64 ≤ a → rdByte t a = rdByte s a)
          ∧ (c.prog + 1 < c.arg 4 4 / 64 → t.pcie.cmd = some { c with prog := c.prog + 1, susp := false })
          ∧ (c.prog + 1 = c.arg 4 4 / 64 → answered c 0 t))))
    ∧ (∀ c, s.pcie.cmd = some c → hoopTurn s 0x0011 = true → ∃ t, exec (.bulkLoad img) s = .next t
      ∧ (hostOn s = false ∨ img = none → answered c 7 t ∧ t.mem = s.mem)
      ∧ (hostOn s = true → ∀ l, img = some l → l.length = c.arg 8 4 →
        (imageOk s l = false → answered c 4 t ∧ t.mem = s.mem)
        ∧ ((imageOk s l && !imageDenied s l && !imageBusy s l) = true → ∀ k, (loadable l)[c.prog]? = some k → t.mem = (loadSection l k s).mem
          ∧ (c.prog + 1 < (loadable l).length → t.pcie.cmd.map Cmd.prog = some (c.prog + 1)) ∧ (c.prog + 1 = (loadable l).length → answered c 0 t))))
    ∧ (∀ c, s.pcie.cmd = some c → hoopTurn s 0x0012 = true → ∃ t, exec (.imageLoad img) s = .next t
      ∧ (13 < c.arg 0 4 → answered c 4 t ∧ t.mem = s.mem)
      ∧ (c.arg 0 4 ≤ 13 → s.hoop.flashOk = false ∨ img = none → answered c 9 t ∧ t.mem = s.mem))
    ∧ (∀ c, s.pcie.cmd = some c → hoopTurn s 0x0020 = true →
      (c.arg 0 4 % 64 ≠ 0 → ∃ t, exec .nvsWrite s = .next t ∧ answered c 4 t ∧ t.hoop = s.hoop)
      ∧ (c.arg 0 4 % 64 = 0 → c.arg 0 4 < 0x90000 ∨ 0x400000 < c.arg 0 4 + c.arg 4 4 → ∃ t, exec .nvsWrite s = .next t ∧ answered c 5 t ∧ t.hoop = s.hoop)
      ∧ (c.arg 0 4 % 64 = 0 → 0x90000 ≤ c.arg 0 4 → c.arg 0 4 + c.arg 4 4 ≤ 0x400000 → c.arg 4 4 ≠ 0 → ∃ t, exec .nvsWrite s = .next t
        ∧ t.hoop.nvs = s.hoop.nvs ∧ t.pcie.cmd = some { c with susp := false }
        ∧ (s.hoop.recs.any (fun r => r.cmd) = false → t.hoop.recs = s.hoop.recs
            ++ [{ tgt := c.arg 0 4 + 64 * c.prog, bytes := (c.payload.drop (8 + 64 * c.prog)).take 64, cmd := true }] ∧ isSet t 3 NVS.NVS_STAT_BUSY = true)
        ∧ (s.hoop.recs.any (fun r => r.cmd) = true → t.hoop.recs = s.hoop.recs)))
    ∧ (∀ c, s.pcie.cmd = some c → hoopTurn s 0x0021 = true →
      (8 ≤ c.arg 0 4 ∨ 8 ≤ c.arg 4 4 → ∃ t, exec .profileSet s = .next t ∧ answered c 4 t ∧ t.hoop = s.hoop)
      ∧ (c.arg 0 4 < 8 → c.arg 4 4 < 8 → s.hoop.recs.any (fun r => r.cmd) = false → ∃ t, exec .profileSet s = .next t
        ∧ t.hoop.recs = s.hoop.recs ++ [{ tgt := 0x90000 + 32 * c.arg 0 4 + 8, bytes := toBytes (c.arg 4 4) 4, cmd := true }]))
    ∧ (∀ c, s.pcie.cmd = some c → hoopTurn s 0x0030 = true →
      (2032 < c.arg 4 4 ∨ Config.flashSize < c.arg 0 4 + c.arg 4 4 → ∃ t, exec (.flashRead ok) s = .next t ∧ answered c 4 t)
      ∧ (c.arg 4 4 ≤ 2032 → c.arg 0 4 + c.arg 4 4 ≤ Config.flashSize →
        (ok = false ∨ s.hoop.flashOk = false → ∃ t, exec (.flashRead ok) s = .next t ∧ answered c 9 t)
        ∧ (ok = true → s.hoop.flashOk = true → ∃ t, exec (.flashRead ok) s = .next t ∧ answered c 0 t
          ∧ (c.cut = false → hostOn s = true → t.pcie.out = (addr64 s pPci PCI.MBX_BASE_LO PCI.MBX_BASE_HI + 0x800,
              responseBytes c 0 ((List.range (c.arg 4 4)).map (fun i => smGet 0xFF#8 (c.arg 0 4 + i) s.hoop.flash))) :: s.pcie.out)
          ∧ typedSame { s with pcie := t.pcie } t)))
    ∧ (∀ c, s.pcie.cmd = some c → hoopTurn s 0x0031 = true →
      (c.arg 0 4 % 256 ≠ 0 ∨ Config.flashSize < c.arg 0 4 + (c.payload.length - 4) → ∃ t, exec (.flashWrite ok) s = .next t ∧ answered c 4 t ∧ t.hoop = s.hoop)
      ∧ (c.arg 0 4 % 256 = 0 → c.arg 0 4 + (c.payload.length - 4) ≤ Config.flashSize → flashReach s (c.arg 0 4) (c.payload.length - 4) = true →
        (ok = false ∨ s.hoop.flashOk = false → ∃ t, exec (.flashWrite ok) s = .next t ∧ answered c 9 t ∧ t.hoop = s.hoop)
        ∧ (ok = true → s.hoop.flashOk = true → ∃ t, exec (.flashWrite ok) s = .next t
          ∧ (∀ i < 256, 256 * c.prog + i < c.payload.length - 4 →
            smGet 0xFF#8 (c.arg 0 4 + 256 * c.prog + i) t.hoop.flash = c.payload.getD (4 + 256 * c.prog + i) 0#8)
          ∧ (∀ a, a < c.arg 0 4 + 256 * c.prog ∨ c.arg 0 4 + 256 * c.prog + 256 ≤ a → smGet 0xFF#8 a t.hoop.flash = smGet 0xFF#8 a s.hoop.flash)
          ∧ (c.prog + 1 < (c.payload.length - 4 + 255) / 256 → t.pcie.cmd.map Cmd.prog = some (c.prog + 1))
          ∧ ((c.payload.length - 4 + 255) / 256 ≤ c.prog + 1 → answered c 0 t))))
    ∧ (∀ c, s.pcie.cmd = some c → hoopTurn s 0x0040 = true →
      ((tileOfPage (c.arg 0 4)).any (tilePresent s) = false ∨ 1 < c.arg 4 4 → ∃ t, exec .tileMap s = .next t ∧ answered c 4 t ∧ t.boot = s.boot)
      ∧ (∀ b, tileOfPage (c.arg 0 4) = some b → tilePresent s b = true → c.arg 4 4 = 1 → tileUsable s b = true → ∃ t, exec .tileMap s = .next t
        ∧ answered c 0 t ∧ tileUsable t b = false ∧ smFind b t.boot.mapped = some 1 ∧ isSet t (tilePage b) HDR.CTRL_EN = false
        ∧ getF t (tilePage b) HDR.OWNER_OWN = 2 ∧ bit (getF t 0xF DMP.MAP_SRC) b = 1 ∧ irqStat t 0xF 1 = true)
      ∧ (∀ b, tileOfPage (c.arg 0 4) = some b → tilePresent s b = true → c.arg 4 4 = 0 → ∀ r, smFind b s.boot.mapped = some r →
        (r = 1 ∨ r = 2 → ∃ t, exec .tileMap s = .next t ∧ answered c 0 t ∧ tileUsable t b = true ∧ smFind b t.boot.mapped = none
          ∧ isSet t (tilePage b) HDR.CTRL_EN = true ∧ getF t (tilePage b) HDR.OWNER_OWN = 0 ∧ tileState t b = stStopped)
        ∧ (r = 4 → ∃ t, exec .tileMap s = .next t ∧ answered c 5 t ∧ t.boot = s.boot)))
    ∧ (∀ c, s.pcie.cmd = some c → hoopTurn s 0x0050 = true → (s.boot.scanned && s.boot.cleared) = false → ∃ t, exec .warmStartCmd s = .next t
      ∧ answered c 0 t ∧ t.boot.req = some (6, s.boot.cleared) ∧ t.boot.startedAt = s.up)

/-- Debug access: passwords, challenges, levels and the backdoor. A SUBOP of DEBUG_UNLOCK changes nothing out of its turn.
UNLOCK1 while the wait runs, or with no password, is DENIED; the right password gives at least Level 1 and clears
FAILS, the wrong one counts, starts its wait and raises bit 1 (R543). CHALLENGE answers with a new nonce; UNLOCK2
needs one, uses it up, and the right response gives Level 2 (R543). SET_PW without a password, or at a level, stores
the hash of the new one; else it is DENIED (R543). RELOCK ends the level (R543). A nonce is gone 60 s after its
challenge, and not before (R543). BD_DATA reads zero without a level (R544). (23_faults_and_debug.md, 21_hoop.md) -/
def Obligations.DebugAccess : Prop :=
  ∀ (s : State),
    (∀ k ∈ [(1, Instr.debugUnlock1), (2, Instr.debugChallenge), (3, Instr.debugUnlock2), (4, Instr.debugSetPw), (5, Instr.debugRelock)],
      (hoopTurn s 0x0060 = false → exec k.2 s = .next s)
      ∧ (∀ c, s.pcie.cmd = some c → hoopTurn s 0x0060 = true → c.arg 0 1 ≠ k.1 →
        ∃ t, exec k.2 s = .next t ∧ t = { s with pcie := { s.pcie with cmd := some { c with susp := false } } }))
    ∧ (∀ c, s.pcie.cmd = some c → hoopTurn s 0x0060 = true → c.arg 0 1 = 1 →
      (s.up < s.dbgAcc.waitEnd ∨ s.dbgAcc.hash = none → ∃ t, exec .debugUnlock1 s = .next t ∧ answered c 5 t ∧ t.dbgAcc = s.dbgAcc)
      ∧ (s.dbgAcc.waitEnd ≤ s.up → s.dbgAcc.hash = some (Config.sha384 (uidBytes ++ (c.payload.drop 4).take 16)) →
        ∃ t, exec .debugUnlock1 s = .next t ∧ answered c 0 t ∧ getF t 0xE DBG.DBG_STAT_LEVEL = max 1 (getF s 0xE DBG.DBG_STAT_LEVEL)
        ∧ getF t 0xE DBG.DBG_STAT_FAILS = 0 ∧ irqStat t 0xE 0 = true ∧ t.dbgAcc = s.dbgAcc)
      ∧ (s.dbgAcc.waitEnd ≤ s.up → ∀ h, s.dbgAcc.hash = some h → h ≠ Config.sha384 (uidBytes ++ (c.payload.drop 4).take 16) →
        ∃ t, exec .debugUnlock1 s = .next t ∧ answered c 5 t ∧ getF t 0xE DBG.DBG_STAT_LEVEL = getF s 0xE DBG.DBG_STAT_LEVEL
        ∧ getF t 0xE DBG.DBG_STAT_FAILS = min (getF s 0xE DBG.DBG_STAT_FAILS + 1) 255
        ∧ t.dbgAcc.waitEnd = s.up + debugWait (min (getF s 0xE DBG.DBG_STAT_FAILS + 1) 255) * 1000000000 ∧ irqStat t 0xE 1 = true))
    ∧ (∀ c, s.pcie.cmd = some c → hoopTurn s 0x0060 = true → c.arg 0 1 = 2 → ∃ t, exec .debugChallenge s = .next t ∧ answered c 0 t
      ∧ t.dbgAcc.nonce = some ((List.range 32).map (fun i => (Config.nonce s.free).getD i 0#8)) ∧ t.dbgAcc.nonceAt = s.up ∧ t.free = s.free + 1
      ∧ isSet t 0xE DBG.DBG_STAT_NONCE = true)
    ∧ (∀ c, s.pcie.cmd = some c → hoopTurn s 0x0060 = true → c.arg 0 1 = 3 →
      (s.up < s.dbgAcc.waitEnd → ∃ t, exec .debugUnlock2 s = .next t ∧ answered c 5 t ∧ t.dbgAcc = s.dbgAcc)
      ∧ (s.dbgAcc.waitEnd ≤ s.up → s.dbgAcc.nonce = none → ∃ t, exec .debugUnlock2 s = .next t ∧ answered c 4 t ∧ t.dbgAcc = s.dbgAcc)
      ∧ (s.dbgAcc.waitEnd ≤ s.up → ∀ x, s.dbgAcc.nonce = some x → (c.payload.drop 4).take 32 = Config.hmacDev (x ++ uidBytes ++ [2#8]) →
        ∃ t, exec .debugUnlock2 s = .next t ∧ answered c 0 t ∧ getF t 0xE DBG.DBG_STAT_LEVEL = max 2 (getF s 0xE DBG.DBG_STAT_LEVEL)
        ∧ t.dbgAcc.nonce = none ∧ isSet t 0xE DBG.DBG_STAT_NONCE = false)
      ∧ (s.dbgAcc.waitEnd ≤ s.up → ∀ x, s.dbgAcc.nonce = some x → (c.payload.drop 4).take 32 ≠ Config.hmacDev (x ++ uidBytes ++ [2#8]) →
        ∃ t, exec .debugUnlock2 s = .next t ∧ answered c 5 t ∧ t.dbgAcc.nonce = none
        ∧ getF t 0xE DBG.DBG_STAT_LEVEL = getF s 0xE DBG.DBG_STAT_LEVEL ∧ irqStat t 0xE 1 = true))
    ∧ (∀ c, s.pcie.cmd = some c → hoopTurn s 0x0060 = true → c.arg 0 1 = 4 →
      (s.dbgAcc.hash ≠ none → getF s 0xE DBG.DBG_STAT_LEVEL = 0 → ∃ t, exec .debugSetPw s = .next t ∧ answered c 5 t ∧ t.dbgAcc = s.dbgAcc)
      ∧ (s.dbgAcc.hash = none ∨ getF s 0xE DBG.DBG_STAT_LEVEL ≠ 0 → ∃ t, exec .debugSetPw s = .next t ∧ answered c 0 t
        ∧ t.dbgAcc = { s.dbgAcc with hash := some (Config.sha384 (uidBytes ++ (c.payload.drop 4).take 16)) } ∧ isSet t 0xE DBG.DBG_STAT_PW_SET = true))
    ∧ (∀ c, s.pcie.cmd = some c → hoopTurn s 0x0060 = true → c.arg 0 1 = 5 → ∃ t, exec .debugRelock s = .next t ∧ answered c 0 t
      ∧ getF t 0xE DBG.DBG_STAT_LEVEL = 0 ∧ t.dbgAcc = s.dbgAcc)
    ∧ (s.dbgAcc.nonce ≠ none → s.dbgAcc.nonceAt + 60000000000 ≤ s.up → ∃ t, exec .nonceExpire s = .next t ∧ t.dbgAcc = { s.dbgAcc with nonce := none }
      ∧ isSet t 0xE DBG.DBG_STAT_NONCE = false ∧ regsSame [DBG.DBG_STAT.addr 0xE 0] s t ∧ typedSame { s with dbgAcc := t.dbgAcc } t)
    ∧ (s.dbgAcc.nonce = none ∨ s.up < s.dbgAcc.nonceAt + 60000000000 → exec .nonceExpire s = .next s)
    ∧ (reachable s 0xE = false → exec .backdoorRead s = .next { s with lastRead := 0#64 })
    ∧ (pageUp s 0xE = true → ∃ t, exec .backdoorRead s = .next t ∧ t = { s with lastRead := t.lastRead, free := s.free + 8 }
      ∧ (getF s 0xE DBG.DBG_STAT_LEVEL = 0 ∨ 0xC471F < getF s 0xE DBG.BD_ADDR_ADDR → t.lastRead = 0#64))

/-- Causes of a start, and reset itself. A power-on reset leaves every register at its reset value but the event-log
position and what the NVS keeps for debug access, with TIME at 0, power-on reset held and HEALTH_N released (R533);
its release begins step 2 (R509, R513). A brown-out is reset at once, and holds power-on reset with cause 1 (R509,
R510). RESET_N low requests a warm start of cause 4 and holds the device; RESET_N high lets it go (R510, R511).
RST_CTL with the key requests a warm start of cause 5 or a cold one of cause 2 once READY, and without it, or before,
is recorded (R510, R522). A requested warm start is cold while the memories have not been cleared. Reset is applied
when the last output ramp is over: READY is 0, the step 1, the cause and kind shown, no firmware runs, the engines are
as after power-on, and the memories keep their bytes (R512, R519, R520). The retry of a failed start, the automatic
warm start and the restart after a trip come at their time and not before (R441, R523, R527). TRST_N resets the test
access port alone (R510). (22_start_and_reset.md, 23_faults_and_debug.md, 17_housekeeping_thermal.md) -/
def Obligations.StartsAndResets : Prop :=
  ∀ (s : State),
    (∃ t, exec .powerOnReset s = .next t ∧ healthLow t = false ∧ t.boot = { por := some 0 } ∧ t.time = 0#64 ∧ t.hoop.nvs = s.hoop.nvs ∧ t.hoop.flash = s.hoop.flash
      ∧ t.dbgAcc.hash = s.dbgAcc.hash ∧ t.dbgAcc.nonce = none ∧ getF t 3 NVS.LOG_WP = getF s 3 NVS.LOG_WP
      ∧ (∀ a, a ≠ DBG.DBG_STAT.addr 0xE 0 → a ≠ NVS.LOG_WP.addr 3 0 → rdWord t a = regReset a)
      ∧ getF t 0xE DBG.DBG_STAT_LEVEL = 0 ∧ getF t 0xE DBG.DBG_STAT_FAILS = getF s 0xE DBG.DBG_STAT_FAILS)
    ∧ (s.boot.por = none → exec .porRelease s = .next s)
    ∧ (s.boot.por ≠ none → ∃ t, exec .porRelease s = .next t ∧ t.boot.por = none ∧ t.boot.startedAt = s.up - 10000000
      ∧ (s.boot.rstLow = false → s.boot.trip = false → warmStart s = false → startStep t = 2 ∧ regsSame [GLB.START_STAT.addr 0 0] s t)
      ∧ (s.boot.rstLow = true ∨ s.boot.trip = true → regsSame [] s t) ∧ typedSame { s with boot := t.boot } t)
    ∧ (s.boot.por ≠ none → exec .brownOut s = .next s)
    ∧ (s.boot.por = none → s.boot.trip = false → ∃ t, exec .brownOut s = .next t ∧ t.boot.por = some 1 ∧ ready t = false ∧ startStep t = 1
      ∧ getF t 0 GLB.START_CAUSE_CAUSE = 1 ∧ getF t 0 GLB.START_STAT_KIND = 1 ∧ t.boot.fw = false ∧ t.boot.cleared = false
      ∧ t.tiles = [] ∧ t.cst = {} ∧ t.dma = [] ∧ t.hoop.nvs = s.hoop.nvs)
    ∧ (s.boot.rstLow = true → exec .resetNAssert s = .next s)
    ∧ (s.boot.rstLow = false → s.boot.por = none → (s.boot.scanned && s.boot.cleared) = false → ∃ t, exec .resetNAssert s = .next t
      ∧ t.boot.rstLow = true ∧ t.boot.req = some (4, s.boot.cleared) ∧ t.pcie.cmd = none ∧ (∀ n < 8, portState t n ≠ 5))
    ∧ (s.boot.rstLow = false → s.boot.por ≠ none → ∃ t, exec .resetNAssert s = .next t ∧ t = { s with boot := { s.boot with rstLow := true } })
    ∧ (∃ t, exec .resetNRelease s = .next t ∧ t.boot.rstLow = false ∧ (s.boot.rstLow = true → t.boot.startedAt = s.up) ∧ t = { s with boot := t.boot })
    ∧ (isSet s 0 HDR.STATUS_RST_BUSY = false → isSet s 0 HDR.LOCK_LK_ALL = false →
      (ready s = true → (s.boot.scanned && s.boot.cleared) = false → ∃ t, exec (.rstWarm .host 0x5AFE) s = .next t ∧ t.boot.req = some (5, s.boot.cleared)
        ∧ t.boot.startedAt = s.up ∧ t.pcie.cmd = none)
      ∧ (ready s = true → ∃ t, exec (.rstCold .host 0x5AFE) s = .next t ∧ t.boot.req = some (2, false) ∧ t.pcie.cmd = none)
      ∧ (ready s = true → ∀ key < 65536, key ≠ 0x5AFE → exec (.rstWarm .host key) s = .next (errRec 0 0x21 0 0 key 0 s)
        ∧ exec (.rstCold .host key) s = .next (errRec 0 0x21 0 0 key 0 s))
      ∧ (ready s = false → ∀ key, exec (.rstWarm .host key) s = .next (errRec 0 0x22 0 0 0 0 s) ∧ exec (.rstCold .host key) s = .next (errRec 0 0x22 0 0 0 0 s)))
    ∧ (s.boot.req = none ∨ ramping s = true → exec .resetApply s = .next s)
    ∧ (∀ q, s.boot.req = some q → ramping s = false → s.boot.trip = false → ∃ t, exec .resetApply s = .next t ∧ ready t = false ∧ startStep t = 1
      ∧ isSet t 0 GLB.START_STAT_SAFE = false ∧ getF t 0 GLB.START_CAUSE_CAUSE = q.1 % 16
      ∧ getF t 0 GLB.START_STAT_KIND = (if q.2 then 2 else if q.1 = 0 then 0 else 1) ∧ getF t 0 GLB.START_CAUSE_SKIP = 0
      ∧ t.boot.req = none ∧ t.boot.fw = false ∧ t.boot.nvsUp = false ∧ t.boot.fatal = none ∧ t.boot.por = none ∧ t.boot.rstLow = s.boot.rstLow
      ∧ t.mem = s.mem ∧ t.lines = s.lines ∧ t.hoop.nvs = s.hoop.nvs ∧ t.dbgAcc.hash = s.dbgAcc.hash
      ∧ t.tiles = [] ∧ t.rdos = [] ∧ t.flux = [] ∧ t.slots = [] ∧ t.pubs = [] ∧ t.patches = [] ∧ t.esc = [] ∧ t.ports = [] ∧ t.cst = {} ∧ t.dma = []
      ∧ t.bias = {} ∧ t.pat = {} ∧ t.evm = {} ∧ t.errs = [])
    ∧ ((s.boot.retry && alive s && decide (s.boot.dueAt ≤ s.up)) = true → ∃ t, exec .startRetry s = .next t ∧ t.boot.retry = false ∧ startStep t = 1
      ∧ ready t = false ∧ getF t 0 GLB.START_CAUSE_CAUSE = 3 ∧ getF t 0 GLB.START_STAT_KIND = 1 ∧ t.boot.startedAt = s.up
      ∧ getF t 0 GLB.START_STAT_FAILS = getF s 0 GLB.START_STAT_FAILS)
    ∧ ((s.boot.retry && alive s && decide (s.boot.dueAt ≤ s.up)) = false → exec .startRetry s = .next s)
    ∧ ((s.boot.autoWarm && alive s && decide (s.boot.dueAt ≤ s.up)) = true → (s.boot.scanned && s.boot.cleared) = false →
      ∃ t, exec .autoWarmStart s = .next t ∧ t.boot.req = some (8, s.boot.cleared) ∧ t.boot.autoWarm = false)
    ∧ ((s.boot.autoWarm && alive s && decide (s.boot.dueAt ≤ s.up)) = false → exec .autoWarmStart s = .next s)
    ∧ ((s.boot.trip && s.boot.req.isNone && decide (toSigned 16 (getF s pThm THM.TEMP_MAX_MAX) < 1440)) = true → ∃ t, exec .thermalRestart s = .next t
      ∧ t = { s with boot := { s.boot with trip := false, startedAt := s.up } })
    ∧ ((s.boot.trip && s.boot.req.isNone && decide (toSigned 16 (getF s pThm THM.TEMP_MAX_MAX) < 1440)) = false → exec .thermalRestart s = .next s)
    ∧ (∃ t, exec .trstNAssert s = .next t ∧ t = { s with dbgAcc := { s.dbgAcc with ir := .idcode }, boot := { s.boot with extest := false } })

/-- The start step by step. A step that ends well gives way to the next, which begins then, and a skipped one to the next
after it, with its SKIP bit (R513, R519). Step 4 waits for lock. A cold start clears every memory at step 6 (R461);
step 7 loads the first accepted firmware slot, and fails without one (R492); step 8 brings the NVS up with an empty
journal (R503, R516); step 9 fails only where every tile is out (R514); step 10 waits for the ports that are enabled
and step 11 for a NUM while a port is ACTIVE (R518). Its end is READY: STEP 12, FAILS 0 and bit 0 (R521). A step that
passes the limit of R513, or fails its check, fails the start, but at 10 and 11 the limit ends the step; before the
limit a step without a failed check goes on (R514). A failure counts, keeps its step and code and EVER_FAIL, and leads
to the retry after 100 ms, or from the third on to SAFE mode, with every page owned by Hoop, HEALTH 4, HEALTH_N low
and bit 1 (R523, R524, R533). Where no start runs nothing changes. (22_start_and_reset.md, 18_memory_integrity.md,
21_hoop.md) -/
def Obligations.StartSequence : Prop :=
  ∀ (s : State) (rows : List Nat) (fw : List FwSlot) (cal : List (Nat × List Int)) (coef : List (Nat × List Byte)),
    (starting s = false → exec (.startStepDone rows fw cal coef) s = .next s)
    ∧ (starting s = true → warmStart s = false →
      (startStep s = 1 ∨ startStep s = 3 → ∃ t, exec (.startStepDone rows fw cal coef) s = .next t
        ∧ startStep t = startStep s + 1 ∧ ready t = false ∧ regsSame [GLB.START_STAT.addr 0 0] s t ∧ typedSame { s with pll := t.pll, boot := { s.boot with stepAt := s.up } } t)
      ∧ (startStep s = 2 → ∃ t, exec (.startStepDone rows fw cal coef) s = .next t ∧ startStep t = 3 ∧ t.boot = { s.boot with fuseBad := false, stepAt := s.up })
      ∧ (startStep s = 4 → isSet s 1 CLK.PLL_STAT_LOCK = true → ∃ t, exec (.startStepDone rows fw cal coef) s = .next t ∧ startStep t = 5
        ∧ regsSame [GLB.START_STAT.addr 0 0] s t ∧ typedSame { s with boot := { s.boot with stepAt := s.up } } t)
      ∧ (startStep s = 4 → isSet s 1 CLK.PLL_STAT_LOCK = false → exec (.startStepDone rows fw cal coef) s = .next s)
      ∧ (startStep s = 5 → rows = [] → allOut s = false → ∃ t, exec (.startStepDone rows fw cal coef) s = .next t ∧ startStep t = 6
        ∧ t.repairs = s.repairs ∧ getF t pMic MIC.REPAIR_STAT_SOFT_USED = s.repairs.length % 2 ^ 11)
      ∧ (startStep s = 6 → ∃ t, exec (.startStepDone rows fw cal coef) s = .next t ∧ startStep t = 7 ∧ t.mem = [] ∧ t.side = [] ∧ t.lines = []
        ∧ t.boot.cleared = true ∧ regsSame [GLB.START_STAT.addr 0 0] s t)
      ∧ (startStep s = 7 → (fw.any fwOk) = true → ∃ t, exec (.startStepDone rows fw cal coef) s = .next t ∧ startStep t = 8 ∧ t.boot.fw = true
        ∧ t.hoop.resident = true)
      ∧ (startStep s = 7 → (fw.any fwOk) = false → ∃ t, exec (.startStepDone rows fw cal coef) s = .next t ∧ t.boot.fw = s.boot.fw ∧ ready t = false
        ∧ getF t 0 GLB.START_STAT_FAILS = min (getF s 0 GLB.START_STAT_FAILS + 1) 15 ∧ getF t 0 GLB.START_STAT_FAIL_STEP = 7)
      ∧ (startStep s = 8 → allOut s = false → ∃ t, exec (.startStepDone rows fw cal coef) s = .next t ∧ startStep t = 9 ∧ t.boot.nvsUp = true
        ∧ isSet t pCal CAL.NVS_STAT_VALID_A = copyValid (forAll s.hoop.recs replay s) 0)
      ∧ (startStep s = 9 → (∀ b < 32, smFind b cal ≠ none) → allOut s = false → ∃ t, exec (.startStepDone rows fw cal coef) s = .next t ∧ startStep t = 10
        ∧ (∀ b < 32, tileUsable t b = tileUsable s b) ∧ (∀ b < 16, tileUsable s b = true → isSet t (tilePage b) DRV.DAC_STAT_READY 0 = true))
      ∧ (startStep s = 9 → cal = [] → ∃ t, exec (.startStepDone rows fw cal coef) s = .next t ∧ allOut t = true
        ∧ getF t 0 GLB.START_STAT_FAILS = min (getF s 0 GLB.START_STAT_FAILS + 1) 15)
      ∧ (startStep s = 10 → (List.range 8).all (portSettled s) = true → ∃ t, exec (.startStepDone rows fw cal coef) s = .next t ∧ startStep t = 11
        ∧ regsSame [GLB.START_STAT.addr 0 0] s t ∧ typedSame { s with boot := { s.boot with stepAt := s.up } } t)
      ∧ (startStep s = 10 → (List.range 8).all (portSettled s) = false → exec (.startStepDone rows fw cal coef) s = .next s)
      ∧ (startStep s = 11 → joined s = true ∨ (∀ n < 8, portState s n ≠ 5) → ∃ t, exec (.startStepDone rows fw cal coef) s = .next t ∧ ready t = true
        ∧ startStep t = 12 ∧ getF t 0 GLB.START_STAT_FAILS = 0 ∧ irqStat t 0 0 = true ∧ t.boot.tripRec = none ∧ t.boot.fails = [])
      ∧ (startStep s = 11 → joined s = false → (∃ n ∈ List.range 8, portState s n = 5) → exec (.startStepDone rows fw cal coef) s = .next s))
    ∧ (starting s = true → warmStart s = true → s.boot.fuseBad = false → startStep s = 1 → ∃ t, exec (.startStepDone rows fw cal coef) s = .next t
      ∧ startStep t = 3 ∧ bit (getF t 0 GLB.START_CAUSE_SKIP) 0 = 1)
    ∧ (∀ check, starting s = false ∨ startStep s < 2 ∨ 11 < startStep s → exec (.startStepTimeout check) s = .next s)
    ∧ (∀ check, starting s = true → stepOver s = false → check = false ∨ 10 ≤ startStep s → exec (.startStepTimeout check) s = .next s)
    ∧ (∀ check, starting s = true → stepOver s = true → startStep s = 10 → ∃ t, exec (.startStepTimeout check) s = .next t ∧ startStep t = 11)
    ∧ (∀ check, starting s = true → stepOver s = true → startStep s = 11 → ∃ t, exec (.startStepTimeout check) s = .next t ∧ ready t = true ∧ startStep t = 12)
    ∧ (∀ check, starting s = true → check = true ∨ stepOver s = true → 2 ≤ startStep s → startStep s < 10 → ∃ t, exec (.startStepTimeout check) s = .next t ∧ ready t = false
      ∧ getF t 0 GLB.START_STAT_FAILS = min (getF s 0 GLB.START_STAT_FAILS + 1) 15 ∧ getF t 0 GLB.START_STAT_FAIL_STEP = startStep s
      ∧ getF t 0 GLB.START_STAT_FAIL_CODE = (if check then 2 else 1) ∧ isSet t 0 GLB.START_STAT_EVER_FAIL = true
      ∧ (getF s 0 GLB.START_STAT_FAILS + 1 < 3 → t.boot.retry = true ∧ t.boot.dueAt = s.up + 100000000 ∧ isSet t 0 GLB.START_STAT_SAFE = false)
      ∧ (3 ≤ getF s 0 GLB.START_STAT_FAILS + 1 → isSet t 0 GLB.START_STAT_SAFE = true ∧ t.boot.retry = false ∧ getF t 0 GLB.HEALTH_STATE = 4
        ∧ healthLow t = true ∧ irqStat t 0 1 = true ∧ (∀ p < 0x3A, pagePresent s p = true → getF t p HDR.OWNER_OWN = 2)))

/-- The fatal path and its dump. Without an error of severity 3 the fatal path changes nothing. On a running device it
freezes every page and hands it to Hoop, stops every DMA channel, ends the running command without a response, shows
HEALTH FAILED with HEALTH_N low (R533), and begins its dump: to host memory where DUMP_CTL.EN and the link allow it,
else the summary to the NVS with its reason (R536, R537). During a start it fails the start with code 3 (R526). The
dump begins after the output ramps (R536): until they are over its end changes nothing. A dump that is written shows
STATE 2 and bit 0; a host dump stands in host memory, one whose link has gone is replaced by the summary with reason
3, a summary that is whole is valid, and one with a word that fails is not, with reason 4; one that did not reach the
host has its record (R537, R541). The automatic warm start waits AW_DELAY from there where AUTO_WARM says so (R527,
R545). (23_faults_and_debug.md, 22_start_and_reset.md) -/
def Obligations.FatalPathAndDump : Prop :=
  ∀ (s : State),
    (s.fatal = none → exec .fatalPath s = .next s)
    ∧ (∀ r, s.fatal = some r → starting s = false → alive s = true → ∃ t, exec .fatalPath s = .next t ∧ t.fatal = none ∧ t.boot.fatal = some r
      ∧ t.pcie.cmd = none ∧ t.dma = [] ∧ t.pcie.out = s.pcie.out
      ∧ (ready s = true → getF t 0 GLB.HEALTH_STATE = 3 ∧ healthLow t = true)
      ∧ (∀ p < 0x3A, pagePresent s p = true → isSet t p HDR.CTRL_FREEZE = true ∧ getF t p HDR.OWNER_OWN = 2)
      ∧ (∀ b < 32, tilePresent s b = true → isSet s (tilePage b) HDR.CTRL_FREEZE = false → tileState t b ≠ stRun ∧ tileState t b ≠ stArmed)
      ∧ (∀ n < 16, isSet t 0xD PCI.CH_CTL_EN n = false ∧ getF t 0xD PCI.CH_STAT_STATE n = 0)
      ∧ getF t 3 NVS.LOG_WP ≠ getF s 3 NVS.LOG_WP ∧ getF t 0xF DMP.DUMP_STAT_STATE = 1
      ∧ (isSet s 0xF DMP.DUMP_CTL_EN = true → hostOn s = true → getF t 0xF DMP.DUMP_STAT_WHERE = 1 ∧ getF t 0xF DMP.DUMP_STAT_RESULT = 0 ∧ t.boot.dump = some .host
        ∧ t.hoop.nvs = s.hoop.nvs)
      ∧ (isSet s 0xF DMP.DUMP_CTL_EN = false → getF t 0xF DMP.DUMP_STAT_RESULT = 1
        ∧ t.boot.dump = some (if s.boot.nvsUp then .nvs else .none) ∧ getF t 0xF DMP.DUMP_STAT_WHERE = (if s.boot.nvsUp then 2 else 0))
      ∧ (isSet s 0xF DMP.DUMP_CTL_EN = true → hostOn s = false → getF t 0xF DMP.DUMP_STAT_RESULT = 2))
    ∧ (∀ r, s.fatal = some r → starting s = true → ∃ t, exec .fatalPath s = .next t ∧ t.fatal = none ∧ ready t = false
      ∧ getF t 0 GLB.START_STAT_FAILS = min (getF s 0 GLB.START_STAT_FAILS + 1) 15 ∧ getF t 0 GLB.START_STAT_FAIL_CODE = 3
      ∧ getF t 0 GLB.START_STAT_FAIL_STEP = startStep s ∧ t.boot.fatal = s.boot.fatal)
    ∧ (∀ r, s.fatal = some r → starting s = false → alive s = false → ∃ t, exec .fatalPath s = .next t ∧ t = { s with fatal := none })
    ∧ (∀ ok, s.boot.dump = none ∨ ramping s = true → exec (.dumpWriteDone ok) s = .next s)
    ∧ (∀ ok, ramping s = false → s.boot.dump = some .host → hostOn s = true → getF s 0xF DMP.DUMP_STAT_WHERE = 1 → ∃ t, exec (.dumpWriteDone ok) s = .next t ∧ t.boot.dump = none
      ∧ getF t 0xF DMP.DUMP_STAT_STATE = 2 ∧ irqStat t 0xF 0 = true ∧ t.errs = s.errs
      ∧ t.pcie.out = (addr64 s 0xF DMP.DUMP_BASE_LO DMP.DUMP_BASE_HI, dumpImage s (fatalOf s)) :: s.pcie.out
      ∧ (isSet s 0 GLB.RST_CFG_AUTO_WARM = true → t.boot.autoWarm = true ∧ t.boot.dueAt = s.up + getF s 0 GLB.RST_CFG_AW_DELAY * 1000000)
      ∧ (isSet s 0 GLB.RST_CFG_AUTO_WARM = false → t.boot.autoWarm = s.boot.autoWarm))
    ∧ (∀ ok, ramping s = false → s.boot.dump = some .host → hostOn s = false → ∃ t, exec (.dumpWriteDone ok) s = .next t ∧ getF t 0xF DMP.DUMP_STAT_RESULT = 3
      ∧ t.boot.dump = some (if s.boot.nvsUp then .nvs else .none) ∧ getF t 0xF DMP.DUMP_STAT_STATE = 1 ∧ t.pcie.out = s.pcie.out)
    ∧ (∀ ok, ramping s = false → s.boot.dump = some .nvs → getF s 0xF DMP.DUMP_STAT_WHERE = 2 → ∃ t, exec (.dumpWriteDone ok) s = .next t ∧ t.boot.dump = none
      ∧ getF t 0xF DMP.DUMP_STAT_STATE = 2 ∧ irqStat t 0xF 0 = true ∧ ((pageErr s 0xF).fifo.length < 4 → irqStat t 0xF 24 = true)
      ∧ (ok = true → isSet t 0xF DMP.DUMP_STAT_SUM_VALID = true)
      ∧ (ok = false → getF t 0xF DMP.DUMP_STAT_RESULT = 4 ∧ isSet t 0xF DMP.DUMP_STAT_SUM_VALID = isSet s 0xF DMP.DUMP_STAT_SUM_VALID ∧ t.hoop = s.hoop))
    ∧ (∀ ok, ramping s = false → s.boot.dump = some .none → ∃ t, exec (.dumpWriteDone ok) s = .next t ∧ t.boot.dump = none
      ∧ getF t 0xF DMP.DUMP_STAT_STATE = 2 ∧ irqStat t 0xF 0 = true ∧ t.hoop = s.hoop)

/-- The JTAG instructions. SCAN_DUMP takes the fatal path with its code at Level 2 and shifts the chains out; below that
it selects the bypass register (R530, R544). IDCODE returns the part's code with a 1 in bit 0 (R542, R550); BYPASS
changes nothing else. SAMPLE/PRELOAD loads the cells, or samples one level a pin, and leaves the pins to the device;
the EXTEST instructions load the cells, drive the pins and sample them (R542). Beside the fatal record of SCAN_DUMP
none touches a register, and none a memory or an engine. (23_faults_and_debug.md) -/
def Obligations.JtagInstructions : Prop :=
  ∀ (s : State),
    (getF s 0xE DBG.DBG_STAT_LEVEL = 2 → ∃ t, exec .scanDump s = .next t ∧ t.dbgAcc.ir = .scanDump ∧ t.boot.scanned = true ∧ t.boot.extest = false
      ∧ (s.fatal = none → s.boot.fatal = none → ∃ f, t.fatal = some f ∧ f.page = 0 ∧ f.code = 0x28) ∧ (∀ f, s.fatal = some f → t.fatal = some f)
      ∧ typedSame { s with dbgAcc := t.dbgAcc, boot := t.boot } t)
    ∧ (getF s 0xE DBG.DBG_STAT_LEVEL ≠ 2 → exec .scanDump s = exec .bypass s)
    ∧ (∃ t, exec .bypass s = .next t ∧ t = { s with dbgAcc := { s.dbgAcc with ir := .bypass }, boot := { s.boot with extest := false } })
    ∧ (∃ t, exec .idcode s = .next t ∧ t.dbgAcc.ir = .idcode ∧ t = { s with dbgAcc := t.dbgAcc, boot := { s.boot with extest := false }, lastRead := t.lastRead }
      ∧ t.lastRead.toNat % 2 = 1 ∧ t.lastRead.toNat / 2 ^ 12 % 2 ^ 16 = (if s.variant = .mq256 then 0x256A else 0x128A))
    ∧ (∀ l n, ∃ t, exec (.samplePreload (some l) n) s = .next t
      ∧ t = { s with dbgAcc := { s.dbgAcc with ir := .samplePreload }, boot := { s.boot with extest := false, cells := l } })
    ∧ (∀ n, ∃ t, exec (.samplePreload none n) s = .next t ∧ t.boot.sampled.length = n ∧ t.boot.cells = s.boot.cells ∧ t.boot.extest = false ∧ t.free = s.free + 1
      ∧ t.dbgAcc.ir = .samplePreload)
    ∧ (∀ l, (∃ t, exec (.extest l) s = .next t ∧ t.dbgAcc.ir = .extest ∧ t.boot.cells = l ∧ t.boot.extest = true ∧ t.boot.sampled.length = l.length
        ∧ t = { s with dbgAcc := t.dbgAcc, boot := t.boot, free := s.free + 1 })
      ∧ (∃ t, exec (.extestPulse l) s = .next t ∧ t.dbgAcc.ir = .extestPulse ∧ t.boot.cells = l ∧ t.boot.extest = true ∧ t.boot.sampled.length = l.length
        ∧ t = { s with dbgAcc := t.dbgAcc, boot := t.boot, free := s.free + 1 })
      ∧ (∃ t, exec (.extestTrain l) s = .next t ∧ t.dbgAcc.ir = .extestTrain ∧ t.boot.cells = l ∧ t.boot.extest = true ∧ t.boot.sampled.length = l.length
        ∧ t = { s with dbgAcc := t.dbgAcc, boot := t.boot, free := s.free + 1 }))
end

