-- ==== Sys2Proof/Laws/Regs.lean ====
section
/-!
SUPPORT. Laws of the sparse tables, of register fields and of the register file: what a read gives after a write of the same
place, and that a write leaves every other place alone.
-/
namespace Sys2Proof.Machine

/-! ### Sparse tables -/

theorem smFind_smSet_same {α : Type} (k : Nat) (v : α) (m : SMap α) : smFind k (smSet k v m) = some v := by
  induction m with
  | nil => simp [smSet, smFind]
  | cons e m ih =>
    obtain ⟨j, w⟩ := e
    simp only [smSet]
    split
    · simp [smFind]
    · split
      · simp [smFind]
      · rename_i h; simp [smFind, h, ih]

theorem smFind_smSet_other {α : Type} {j k : Nat} (h : j ≠ k) (v : α) (m : SMap α) : smFind j (smSet k v m) = smFind j m := by
  induction m with
  | nil => simp [smSet, smFind, h]
  | cons e m ih =>
    obtain ⟨i, w⟩ := e
    simp only [smSet]
    split
    · simp [smFind, h]
    · split
      · rename_i e; subst e; simp [smFind, h]
      · simp [smFind, ih]

theorem smFind_smErase_same {α : Type} (k : Nat) (m : SMap α) : smFind k (smErase k m) = none := by
  induction m with
  | nil => rfl
  | cons e m ih =>
    obtain ⟨j, w⟩ := e
    simp only [smErase]
    split
    · exact ih
    · rename_i h; simp [smFind, h, ih]

theorem smFind_smErase_other {α : Type} {j k : Nat} (h : j ≠ k) (m : SMap α) : smFind j (smErase k m) = smFind j m := by
  induction m with
  | nil => rfl
  | cons e m ih =>
    obtain ⟨i, w⟩ := e
    simp only [smErase]
    split
    · rename_i e; subst e; simp [smFind, h, ih]
    · simp [smFind, ih]

/-- A read after a write to the same key. -/
@[simp] theorem smGet_smSet_same {α : Type} (d : α) (k : Nat) (v : α) (m : SMap α) : smGet d k (smSet k v m) = v := by
  simp [smGet, smFind_smSet_same]

/-- A write leaves the other keys alone. -/
theorem smGet_smSet_other {α : Type} (d : α) {j k : Nat} (h : j ≠ k) (v : α) (m : SMap α) :
    smGet d j (smSet k v m) = smGet d j m := by simp [smGet, smFind_smSet_other h]

@[simp] theorem smGet_smPut_same {α : Type} [DecidableEq α] (d : α) (k : Nat) (v : α) (m : SMap α) :
    smGet d k (smPut d k v m) = v := by
  unfold smPut
  split
  · rename_i e; simp [smGet, smFind_smErase_same, e]
  · simp

theorem smGet_smPut_other {α : Type} [DecidableEq α] (d d' : α) {j k : Nat} (h : j ≠ k) (v : α) (m : SMap α) :
    smGet d' j (smPut d k v m) = smGet d' j m := by
  unfold smPut
  split
  · simp [smGet, smFind_smErase_other h]
  · exact smGet_smSet_other d' h v m

/-! ### Canonical form of a table -/

theorem smSorted_tail {α : Type} {e : Nat × α} {m : SMap α} (h : smSorted (e :: m) = true) : smSorted m = true := by
  cases m with
  | nil => rfl
  | cons f m => obtain ⟨i, v⟩ := e; obtain ⟨j, w⟩ := f; simp only [smSorted, Bool.and_eq_true] at h; exact h.2

/-- Every key of a sorted table's tail is above its first. -/
theorem smSorted_head {α : Type} {i : Nat} {v : α} {m : SMap α} (h : smSorted ((i, v) :: m) = true) :
    ∀ e ∈ m, i < e.1 := by
  induction m generalizing i v with
  | nil => simp
  | cons f m ih =>
    obtain ⟨j, w⟩ := f
    simp only [smSorted, Bool.and_eq_true, decide_eq_true_eq] at h
    intro e he
    rcases List.mem_cons.1 he with rfl | he
    · exact h.1
    · exact Nat.lt_trans h.1 (ih h.2 e he)

theorem smSorted_cons {α : Type} {i : Nat} {v : α} {m : SMap α} (h : smSorted m = true) (hi : ∀ e ∈ m, i < e.1) :
    smSorted ((i, v) :: m) = true := by
  cases m with
  | nil => rfl
  | cons f m => obtain ⟨j, w⟩ := f; simp [smSorted, h, hi (j, w) (by simp)]

theorem mem_smErase {α : Type} {k : Nat} {e : Nat × α} {m : SMap α} (h : e ∈ smErase k m) : e ∈ m := by
  induction m with
  | nil => simp [smErase] at h
  | cons f m ih =>
    obtain ⟨j, w⟩ := f
    simp only [smErase] at h
    split at h
    · exact List.mem_cons_of_mem _ (ih h)
    · rcases List.mem_cons.1 h with rfl | h
      · simp
      · exact List.mem_cons_of_mem _ (ih h)

theorem mem_smSet {α : Type} {k : Nat} {v : α} {e : Nat × α} {m : SMap α} (h : e ∈ smSet k v m) : e = (k, v) ∨ e ∈ m := by
  induction m with
  | nil => left; simpa [smSet] using h
  | cons f m ih =>
    obtain ⟨j, w⟩ := f
    simp only [smSet] at h
    split at h
    · simpa using h
    · split at h
      · rcases List.mem_cons.1 h with h | h
        · exact .inl h
        · exact .inr (List.mem_cons_of_mem _ h)
      · rcases List.mem_cons.1 h with rfl | h
        · simp
        · rcases ih h with h | h
          · exact .inl h
          · exact .inr (List.mem_cons_of_mem _ h)

theorem smSorted_smErase {α : Type} {k : Nat} {m : SMap α} (h : smSorted m = true) : smSorted (smErase k m) = true := by
  induction m with
  | nil => rfl
  | cons f m ih =>
    obtain ⟨j, w⟩ := f
    simp only [smErase]
    split
    · exact ih (smSorted_tail h)
    · exact smSorted_cons (ih (smSorted_tail h)) (fun e he => smSorted_head h e (mem_smErase he))

theorem smSorted_filter {α : Type} {q : Nat × α → Bool} {m : SMap α} (h : smSorted m = true) : smSorted (m.filter q) = true := by
  induction m with
  | nil => rfl
  | cons e m ih =>
    obtain ⟨i, v⟩ := e
    rw [List.filter_cons]
    split
    · exact smSorted_cons (ih (smSorted_tail h)) (fun f hf => smSorted_head h f (List.mem_filter.1 hf).1)
    · exact ih (smSorted_tail h)

theorem smSorted_smSet {α : Type} {k : Nat} {v : α} {m : SMap α} (h : smSorted m = true) : smSorted (smSet k v m) = true := by
  induction m with
  | nil => rfl
  | cons f m ih =>
    obtain ⟨j, w⟩ := f
    simp only [smSet]
    split
    · rename_i hk
      refine smSorted_cons h (fun e he => ?_)
      rcases List.mem_cons.1 he with rfl | he
      · exact hk
      · exact Nat.lt_trans hk (smSorted_head h e he)
    · split
      · rename_i e; subst e; exact smSorted_cons (smSorted_tail h) (fun e he => smSorted_head h e he)
      · rename_i h1 h2
        refine smSorted_cons (ih (smSorted_tail h)) (fun e he => ?_)
        rcases mem_smSet he with rfl | he
        · exact Nat.lt_of_le_of_ne (Nat.le_of_not_lt h1) (Ne.symm h2)
        · exact smSorted_head h e he

/-- A table in canonical form stays so under a write. -/
theorem smWf_smPut {α : Type} [DecidableEq α] {d : Nat → α} {k : Nat} {v : α} {m : SMap α} (h : smWf d m = true) :
    smWf d (smPut (d k) k v m) = true := by
  simp only [smWf, Bool.and_eq_true, smLean, List.all_eq_true, decide_eq_true_eq] at h ⊢
  unfold smPut
  split
  · exact ⟨smSorted_smErase h.1, fun e he => h.2 e (mem_smErase he)⟩
  · rename_i hv
    refine ⟨smSorted_smSet h.1, fun e he => ?_⟩
    rcases mem_smSet he with rfl | he
    · exact hv
    · exact h.2 e he

/-! ### Fields of a word -/

theorem Fld.testBit_of (f : Fld) (w : Word) (i : Nat) : (f.of w).testBit i = (decide (i < f.w) && w.getLsbD (f.lo + i)) := by
  rw [Fld.of, Nat.testBit_mod_two_pow, Nat.testBit_div_two_pow, Nat.add_comm i f.lo]
  rfl

theorem Fld.getLsbD_upd (f : Fld) (v : Nat) (w : Word) (j : Nat) (h : j < 32) :
    (f.upd v w).getLsbD j = if f.lo ≤ j ∧ j < f.lo + f.w then v.testBit (j - f.lo) else w.getLsbD j := by
  have hm : f.mask.getLsbD j = decide (f.lo ≤ j ∧ j < f.lo + f.w) := by
    simp only [Fld.mask, BitVec.getLsbD_ofNat, Nat.testBit_shiftLeft, Nat.testBit_two_pow_sub_one, h, decide_true, Bool.true_and]
    by_cases h1 : f.lo ≤ j
    · have : j - f.lo < f.w ↔ j < f.lo + f.w := by omega
      simp [h1, this]
    · simp [h1]
  have hv : (BitVec.ofNat 32 (v % 2 ^ f.w * 2 ^ f.lo)).getLsbD j
      = (decide (f.lo ≤ j) && (decide (j - f.lo < f.w) && v.testBit (j - f.lo))) := by
    simp only [BitVec.getLsbD_ofNat, h, decide_true, Bool.true_and, Nat.testBit_mul_two_pow, Nat.testBit_mod_two_pow]
  rw [Fld.upd, BitVec.getLsbD_or, BitVec.getLsbD_and, BitVec.getLsbD_not, hm, hv]
  by_cases h1 : f.lo ≤ j
  · have h2 : (j - f.lo < f.w) ↔ (j < f.lo + f.w) := by omega
    by_cases h3 : j < f.lo + f.w
    · simp [h, h1, h2, h3]
    · simp [h, h1, h2, h3]
  · simp [h, h1]

/-- A field written and read back. -/
theorem Fld.of_upd (f : Fld) (v : Nat) (w : Word) (h : f.lo + f.w ≤ 32) : f.of (f.upd v w) = v % 2 ^ f.w := by
  apply Nat.eq_of_testBit_eq
  intro i
  rw [Fld.testBit_of, Nat.testBit_mod_two_pow]
  by_cases hi : i < f.w
  · rw [Fld.getLsbD_upd f v w _ (by omega), if_pos (by omega)]
    simp [hi]
  · simp [hi]

/-- A field written leaves the fields beside it alone. -/
theorem Fld.of_upd_other (f g : Fld) (v : Nat) (w : Word) (h : f.lo + f.w ≤ g.lo ∨ g.lo + g.w ≤ f.lo) :
    g.of (f.upd v w) = g.of w := by
  apply Nat.eq_of_testBit_eq
  intro i
  rw [Fld.testBit_of, Fld.testBit_of]
  by_cases hi : i < g.w
  · by_cases hj : g.lo + i < 32
    · rw [Fld.getLsbD_upd f v w _ hj, if_neg (by omega)]
    · rw [BitVec.getLsbD_of_ge _ _ (by omega), BitVec.getLsbD_of_ge _ _ (by omega)]
  · simp [hi]

theorem Fld.of_lt (f : Fld) (w : Word) : f.of w < 2 ^ f.w := Nat.mod_lt _ (Nat.two_pow_pos _)

/-! ### The register file -/

@[simp] theorem rdWord_wrWord (a : Nat) (w : Word) (s : State) : rdWord (wrWord a w s) a = w := by
  simp [rdWord, wrWord]

theorem rdWord_wrWord_other {a b : Nat} (h : b ≠ a) (w : Word) (s : State) : rdWord (wrWord a w s) b = rdWord s b := by
  simp [rdWord, wrWord, smGet_smPut_other _ _ h]

/-- A field of the register file written and read back. -/
theorem getF_putF (p : Nat) (f : Fld) (v i : Nat) (s : State) (h : f.lo + f.w ≤ 32) :
    getF (putF p f v i s) p f i = v % 2 ^ f.w := by
  simp [getF, putF, Fld.of_upd f v _ h]

/-- A field of another register keeps its value. -/
theorem getF_putF_reg {p q i j : Nat} {f g : Fld} (h : g.addr q j ≠ f.addr p i) (v : Nat) (s : State) :
    getF (putF p f v i s) q g j = getF s q g j := by
  simp [getF, putF, rdWord_wrWord_other h]

/-- A field beside the one written keeps its value. -/
theorem getF_putF_beside {p q i j : Nat} {f g : Fld} (h : f.lo + f.w ≤ g.lo ∨ g.lo + g.w ≤ f.lo) (v : Nat) (s : State) :
    getF (putF p f v i s) q g j = getF s q g j := by
  by_cases ha : g.addr q j = f.addr p i
  · simp only [getF, putF, ha, rdWord_wrWord]
    exact Fld.of_upd_other f g v _ h
  · exact getF_putF_reg ha v s

theorem getF_lt (s : State) (p : Nat) (f : Fld) (i : Nat) : getF s p f i < 2 ^ f.w := Fld.of_lt f _

end Sys2Proof.Machine
end

