-- ==== Sys2Proof/Laws/Bus.lean ====
section
/-!
SUPPORT. What the bus lets a write do, once: a page that is open to its requester passes every write on (busGate, viaBus).
-/
namespace Sys2Proof.Machine

variable {s : State} {who : Requester} {p : Nat}

theorem busOpen_parts (h : busOpen s who p = true) :
    pagePresent s p = true ∧ isSet s 0 GLB.START_STAT_READY = true ∧ seenSet s who p HDR.STATUS_RST_BUSY = false
      ∧ (getF s p HDR.OWNER_OWN = 0 ∨ getF s p HDR.OWNER_OWN = reqCode who)
      ∧ isSet s p HDR.LOCK_LK_CFG = false ∧ isSet s p HDR.LOCK_LK_ALL = false := by
  simp only [busOpen, pageTakes, pageUp, Bool.and_eq_true, Bool.not_eq_true', Bool.or_eq_true, decide_eq_true_eq] at h
  obtain ⟨⟨⟨⟨⟨⟨h1, h2⟩, -⟩, h3⟩, h4⟩, h5⟩, h6⟩ := h
  exact ⟨h1, h2, h3, h4, h5, h6⟩

theorem ownBlocks_open (h : busOpen s who p = true) (o : Nat) : ownBlocks s who p o = false := by
  obtain ⟨_, _, _, h4, _⟩ := busOpen_parts h
  rcases h4 with h4 | h4 <;> simp [ownBlocks, h4]

theorem lockProt_open (h : busOpen s who p = true) (o : Nat) (d : FieldDesc) : lockProt s p o d = false := by
  obtain ⟨_, _, _, _, h5, h6⟩ := busOpen_parts h
  simp [lockProt, h5, h6]

/-- An open page passes a gated write on. -/
theorem busGate_open (h : busOpen s who p = true) (hk : (pageKind p).isSome = true) (o : Nat) (e : State → State) :
    busGate who p o e s = e s := by
  obtain ⟨h1, h2, h3, _⟩ := busOpen_parts h
  have hn : (pageKind p).isNone = false := by simpa [Option.isNone_iff_eq_none, Option.isSome_iff_ne_none] using hk
  have hr : reaches s who p = true := by simp [reaches, reachable, h2]
  simp [busGate, hn, h1, hr, h3, ownBlocks_open h]

/-- An open page passes a write of one field on, unless the field is stopped-only and its page runs (R86). -/
theorem viaBus_open {k : PageKind} (h : busOpen s who p = true) (hk : pageKind p = some k) (f : Fld) (i data : Nat) (e : State → State)
    (hs : (descOf k f).cls = .s → sBlocked s who p (f.off + (if f.stride = windowStride then 0 else f.stride * i)) = false) :
    viaBus who p f i data e s = e s := by
  simp only [viaBus, hk]
  rw [busGate_open h (by simp [hk])]
  rw [lockProt_open h]
  by_cases hc : (descOf k f).cls = .s
  · simp [hs hc]
  · simp [hc]

end Sys2Proof.Machine
end

