-- ==== Sys2Proof/Laws/Reads.lean ====
section
/-!
SUPPORT. What a register reads as after each shared operation: the operations on the typed parts of the state leave the register
file alone, and those on records and interrupts write the registers named here and no other.
-/
namespace Sys2Proof.Machine

variable (s : State) (a p q i j b c k v : Nat) (f g : Fld)

/-! ### Operations that touch no register -/

@[simp] theorem rdWord_setTile (t : Tile) : rdWord (setTile b t s) a = rdWord s a := rfl
@[simp] theorem rdWord_modTile (h : Tile → Tile) : rdWord (modTile b h s) a = rdWord s a := rfl
@[simp] theorem rdWord_setRdo (r : Rdo) : rdWord (setRdo b r s) a = rdWord s a := rfl
@[simp] theorem rdWord_modRdo (h : Rdo → Rdo) : rdWord (modRdo b h s) a = rdWord s a := rfl
@[simp] theorem rdWord_setFlux (o : FOut) : rdWord (setFlux b k o s) a = rdWord s a := rfl
@[simp] theorem rdWord_wrByte (x : Byte) : rdWord (wrByte c x s) a = rdWord s a := rfl
@[simp] theorem rdWord_useFree : rdWord (useFree s) a = rdWord s a := rfl

@[simp] theorem rdWord_urge (u : Urgent) : rdWord (urge u s) a = rdWord s a := by
  unfold urge; split <;> rfl

@[simp] theorem rdWord_sendVec : rdWord (sendVec v s) a = rdWord s a := by
  unfold sendVec; split
  · rfl
  · split <;> rfl

@[simp] theorem rdWord_irqEdge (was : Bool) : rdWord (irqEdge p was s) a = rdWord s a := by
  unfold irqEdge; split
  · exact rdWord_sendVec _ _ _
  · rfl

@[simp] theorem rdWord_wrBytes (l : List Byte) : rdWord (wrBytes c l s) a = rdWord s a := by
  induction l generalizing c s with
  | nil => rfl
  | cons x l ih => exact ih (wrByte c x s) (c + 1)

/-! ### Interrupts and records -/

theorem rdWord_irqSet (m : Word) (h : a ≠ HDR.IRQ_STAT.addr p 0) : rdWord (irqSet p m s) a = rdWord s a := by
  simp [irqSet, rdWord_wrWord_other h]

/-- IRQ_STAT after an interrupt: its bits set (R85). -/
theorem rdWord_irqSet_stat (m : Word) :
    rdWord (irqSet p m s) (HDR.IRQ_STAT.addr p 0) = rdWord s (HDR.IRQ_STAT.addr p 0) ||| m := by
  simp [irqSet]

theorem getF_irqBit (h : g.addr q j ≠ HDR.IRQ_STAT.addr p 0) : getF (irqBit p b s) q g j = getF s q g j := by
  simp only [getF, irqBit, rdWord_irqSet _ _ _ _ h]

theorem getF_incSat_reg (h : g.addr q j ≠ f.addr p i) : getF (incSat p f i s) q g j = getF s q g j :=
  getF_putF_reg h _ s

/-- An error record writes ERR_CNT and IRQ_STAT of its page and FATAL_CNT, and no other register. -/
theorem rdWord_errRec (code sev unit info addr : Nat) (h1 : a ≠ HDR.ERR_CNT_TOTAL.addr p 0) (h2 : a ≠ HDR.IRQ_STAT.addr p 0)
    (h3 : a ≠ DMP.DUMP_STAT_FATAL_CNT.addr 0xF 0) : rdWord (errRec p code sev unit info addr s) a = rdWord s a := by
  have h1' : a ≠ HDR.ERR_CNT_OVF.addr p 0 := h1
  have hb : ∀ t n, rdWord (irqBit p n t) a = rdWord t a := fun t n => rdWord_irqSet t a p _ h2
  have hc : ∀ t, rdWord (incSat p HDR.ERR_CNT_TOTAL 0 t) a = rdWord t a := fun t => rdWord_wrWord_other h1 _ t
  have ho : ∀ t, rdWord (incSat p HDR.ERR_CNT_OVF 0 t) a = rdWord t a := fun t => rdWord_wrWord_other h1' _ t
  have hd : ∀ t, rdWord (incSat 0xF DMP.DUMP_STAT_FATAL_CNT 0 t) a = rdWord t a := fun t => rdWord_wrWord_other h3 _ t
  have hp : ∀ t n, rdWord (putF 0xF DMP.DUMP_STAT_FATAL_CNT n 0 t) a = rdWord t a := fun t n => rdWord_wrWord_other h3 _ t
  have he : ∀ (t : State) x, rdWord { t with errs := x } a = rdWord t a := fun _ _ => rfl
  have hf : ∀ (t : State) x, rdWord { t with fatal := x } a = rdWord t a := fun _ _ => rfl
  unfold errRec
  dsimp only
  repeat' split
  all_goals simp only [hp, hf, hd, hb, ho, he, hc]

theorem getF_errRec (code sev unit info addr : Nat) (h1 : g.addr q j ≠ HDR.ERR_CNT_TOTAL.addr p 0)
    (h2 : g.addr q j ≠ HDR.IRQ_STAT.addr p 0) (h3 : g.addr q j ≠ DMP.DUMP_STAT_FATAL_CNT.addr 0xF 0) :
    getF (errRec p code sev unit info addr s) q g j = getF s q g j := by
  simp only [getF, rdWord_errRec s _ p code sev unit info addr h1 h2 h3]

end Sys2Proof.Machine
end

