-- ==== Sys2Proof/Laws/Frames.lean ====
section
/-!
SUPPORT. The frames of the shared operations: which registers each may write (regsSame), and that operations on registers, records
and interrupts leave every other part of the state alone (typedSame).
-/
namespace Sys2Proof.Machine

variable {s t : State} {l : List Nat} {p b i v : Nat} {f : Fld}

/-! ### Registers -/

theorem regsSame_refl (l : List Nat) (s : State) : regsSame l s s := fun _ _ => rfl

theorem regsSame_trans {u : State} (h : regsSame l s t) (h' : regsSame l t u) : regsSame l s u := fun a ha => (h' a ha).trans (h a ha)

theorem regsSame_wrWord {a : Nat} {w : Word} (h : a ∈ l) (hs : regsSame l s t) : regsSame l s (wrWord a w t) := by
  intro c hc
  have : c ≠ a := fun e => hc (by rw [e]; exact h)
  rw [rdWord_wrWord_other this, hs c hc]

theorem regsSame_putF (h : f.addr p i ∈ l) (hs : regsSame l s t) : regsSame l s (putF p f v i t) := regsSame_wrWord h hs

theorem regsSame_incSat (h : f.addr p i ∈ l) (hs : regsSame l s t) : regsSame l s (incSat p f i t) := regsSame_putF h hs

theorem regsSame_incWrap (h : f.addr p i ∈ l) (hs : regsSame l s t) : regsSame l s (incWrap p f i t) := regsSame_putF h hs

theorem regsSame_irqSet {m : Word} (h : HDR.IRQ_STAT.addr p 0 ∈ l) (hs : regsSame l s t) : regsSame l s (irqSet p m t) := by
  intro c hc
  have : c ≠ HDR.IRQ_STAT.addr p 0 := fun e => hc (by rw [e]; exact h)
  rw [rdWord_irqSet _ _ _ _ this, hs c hc]

theorem regsSame_irqBit (h : HDR.IRQ_STAT.addr p 0 ∈ l) (hs : regsSame l s t) : regsSame l s (irqBit p b t) := regsSame_irqSet h hs

theorem regsSame_errRec {code sev unit info addr : Nat} (h1 : HDR.ERR_CNT_TOTAL.addr p 0 ∈ l) (h2 : HDR.IRQ_STAT.addr p 0 ∈ l)
    (h3 : DMP.DUMP_STAT_FATAL_CNT.addr 0xF 0 ∈ l) (hs : regsSame l s t) : regsSame l s (errRec p code sev unit info addr t) := by
  intro c hc
  have n1 : c ≠ HDR.ERR_CNT_TOTAL.addr p 0 := fun e => hc (by rw [e]; exact h1)
  have n2 : c ≠ HDR.IRQ_STAT.addr p 0 := fun e => hc (by rw [e]; exact h2)
  have n3 : c ≠ DMP.DUMP_STAT_FATAL_CNT.addr 0xF 0 := fun e => hc (by rw [e]; exact h3)
  rw [rdWord_errRec _ _ _ _ _ _ _ _ n1 n2 n3, hs c hc]

/-- A field whose register is not among the named ones keeps its value. -/
theorem regsSame_getF {q j : Nat} {g : Fld} (hs : regsSame l s t) (h : g.addr q j ∉ l) : getF t q g j = getF s q g j := by
  simp only [getF, hs _ h]

theorem regsSame_isSet {q j : Nat} {g : Fld} (hs : regsSame l s t) (h : g.addr q j ∉ l) : isSet t q g j = isSet s q g j := by
  simp only [isSet, regsSame_getF hs h]

/-! ### Everything else -/

theorem typedSame_refl (s : State) : typedSame s s := rfl

theorem typedSame_trans {u : State} (h : typedSame s t) (h' : typedSame t u) : typedSame s u := by
  unfold typedSame at *
  rw [h', h]

theorem typedSame_wrWord {a : Nat} {w : Word} (h : typedSame s t) : typedSame s (wrWord a w t) := typedSame_trans h rfl

theorem typedSame_putF (h : typedSame s t) : typedSame s (putF p f v i t) := typedSame_trans h rfl

theorem typedSame_incSat (h : typedSame s t) : typedSame s (incSat p f i t) := typedSame_trans h rfl

theorem typedSame_incWrap (h : typedSame s t) : typedSame s (incWrap p f i t) := typedSame_trans h rfl

theorem typedSame_sendVec (h : typedSame s t) : typedSame s (sendVec v t) := by
  refine typedSame_trans h ?_
  unfold sendVec
  split
  · rfl
  · split <;> rfl

theorem typedSame_irqSet {m : Word} (h : typedSame s t) : typedSame s (irqSet p m t) := by
  unfold irqSet irqEdge
  split
  · exact typedSame_sendVec (typedSame_wrWord h)
  · exact typedSame_wrWord h

theorem typedSame_irqBit (h : typedSame s t) : typedSame s (irqBit p b t) := typedSame_irqSet h

theorem typedSame_ite {c : Prop} [Decidable c] {a b : State} (ha : typedSame s a) (hb : typedSame s b) :
    typedSame s (if c then a else b) := by
  split <;> assumption

theorem typedSame_errs {x : SMap PageErr} (h : typedSame s t) : typedSame s { t with errs := x } := typedSame_trans h rfl

theorem typedSame_held {x : SMap Word} (h : typedSame s t) : typedSame s { t with held := x } := typedSame_trans h rfl

theorem typedSame_fatal {x : Option FatalRec} (h : typedSame s t) : typedSame s { t with fatal := x } := typedSame_trans h rfl

theorem typedSame_errRec {code sev unit info addr : Nat} (h : typedSame s t) : typedSame s (errRec p code sev unit info addr t) := by
  unfold errRec
  dsimp only
  refine typedSame_ite (typedSame_ite (typedSame_putF (typedSame_fatal ?_)) (typedSame_incSat ?_)) ?_ <;>
    exact typedSame_ite (typedSame_irqBit (typedSame_errs (typedSame_incSat h)))
      (typedSame_irqBit (typedSame_incSat (typedSame_errs (typedSame_incSat h))))

theorem typedSame_cfgBusy (h : typedSame s t) : typedSame s (cfgBusy p t) := typedSame_irqBit (typedSame_putF h)

/-- A part of the state that an operation on registers leaves alone. -/
theorem typedSame_eq {α : Type} {g : State → α} (hg : ∀ (u : State) r h w e f m,
    g { u with regs := r, held := h, was := w, errs := e, fatal := f, msix := m } = g u)
    (h : typedSame s t) : g t = g s := by
  unfold typedSame at h
  rw [h, hg]

end Sys2Proof.Machine
end

