-- ==== Sys2Proof/Laws/Keep.lean ====
section
/-!
SUPPORT. What every operation keeps: the part and the queue of commands stay as they are, and the invariant of Safety.lean goes
on holding. One lemma per operation, each assembled from the lemmas of the operations it calls; this file has the relation
itself and the operations that touch what it speaks of.
-/
namespace Sys2Proof.Machine

/-- The parts that `State.Inv` speaks of are as it says. -/
def Parts (regs : SMap Word) (errs : SMap PageErr) (mem : SMap Byte) (esc : List Nat) : Prop :=
  esc.length ≤ 64 ∧ (∀ p, (smGet ({} : PageErr) p errs).fifo.length ≤ 4) ∧ Memory.wf mem = true ∧ smWf regReset regs = true

/-- `Keep`, part by part. -/
def KeepParts (s : State) (v : Variant) (q : List Instr) (regs : SMap Word) (errs : SMap PageErr) (mem : SMap Byte)
    (esc : List Nat) : Prop :=
  v = s.variant ∧ q = s.pending ∧ (Parts s.regs s.errs s.mem s.esc → Parts regs errs mem esc)

/-- `t` has the variant and the queue of `s`, and keeps its invariant. -/
def Keep (s t : State) : Prop := KeepParts s t.variant t.pending t.regs t.errs t.mem t.esc

/-- Where the outcome is a next state, it is in `Keep`. -/
def KeepR (s : State) (r : Res1) : Prop := ∀ t, r = .next t → Keep s t

theorem inv_parts (s : State) : s.Inv ↔ Parts s.regs s.errs s.mem s.esc :=
  ⟨fun h => ⟨h.esc, h.errs, h.mem, h.regs⟩, fun h => ⟨h.1, h.2.1, h.2.2.1, h.2.2.2⟩⟩

theorem Keep.inv {s t : State} (h : Keep s t) (hs : s.Inv) : t.Inv := (inv_parts t).2 (h.2.2 ((inv_parts s).1 hs))

theorem keep_refl (s : State) : Keep s s := ⟨rfl, rfl, id⟩

variable {s0 s : State}

theorem keepR_next {t : State} (h : Keep s0 t) : KeepR s0 (.next t) := by
  intro u e; cases e; exact h

theorem keepR_fault (r : Fault) : KeepR s0 (.fault r) := by
  intro u e; cases e

theorem keep_ite {α : Type} {P : α → Prop} {c : Prop} [Decidable c] {a b : α} (ha : P a) (hb : P b) : P (if c then a else b) := by
  split <;> assumption

theorem keep_itePair {α : Type} {c : Prop} [Decidable c] {a b : α × State} (ha : Keep s0 a.2) (hb : Keep s0 b.2) :
    Keep s0 (if c then a else b).2 := by
  split <;> assumption

theorem keep_mk (variant : Variant) (pending : List Instr) (time : Time) (regs : SMap Word) (held : SMap Word) (errs : SMap PageErr) (fatal : Option FatalRec) (pll : Pll) (msix : Msix) (mem : SMap Byte) (side : SMap Nat) (tiles : SMap Tile) (rdos : SMap Rdo) (flux : SMap FOut) (lastRead : BitVec 64) (lastBytes : List Byte) (lastAbort : Bool) (free : Nat) (lines : SMap LineSt) (masters : List Master) (profiles : List Master) (scrub : SMap Nat) (cal : Cal) (pubs : List Pub) (slots : SMap TulSlot) (once : ShotOnce) (patches : SMap Patch) (esc : List Nat) (thaw : Nat) (timers : SMap Nat) (ports : SMap Port) (cst : Cst) (dma : SMap Dma) (pcie : Pcie) (hoop : Hoop) (boot : Boot) (dbgAcc : Debug) (up : Nat) (smp : Sampler) (repairs : List Repair) (bias : Bias) (pat : Pat) (evm : Evm) (softRst : SMap Nat) (mck : Nat) (was : SMap Was)
    (h : KeepParts s0 variant pending regs errs mem esc) :
    Keep s0 (State.mk variant pending time regs held errs fatal pll msix mem side tiles rdos flux lastRead lastBytes lastAbort free lines masters profiles scrub cal pubs slots once patches esc thaw timers ports cst dma pcie hoop boot dbgAcc up smp repairs bias pat evm softRst mck was) := h

theorem keep_fold {t : State} (h : Keep s0 t) : KeepParts s0 t.variant t.pending t.regs t.errs t.mem t.esc := h

theorem keep_forAll {α : Type} {l : List α} {g : α → State → State} (hg : ∀ x t, Keep s0 t → Keep s0 (g x t)) (h : Keep s0 s) :
    Keep s0 (forAll l g s) := by
  unfold forAll
  induction l generalizing s with
  | nil => exact h
  | cons x l ih => exact ih (hg x s h)

theorem keep_foldl {α : Type} {l : List α} {g : State → α → State} (hg : ∀ t x, Keep s0 t → Keep s0 (g t x)) (h : Keep s0 s) :
    Keep s0 (l.foldl g s) := by
  induction l generalizing s with
  | nil => exact h
  | cons x l ih => exact ih (hg s x h)

/-! ### The operations that touch the parts -/

theorem smWf_smErase {α : Type} [DecidableEq α] {d : Nat → α} {k : Nat} {m : SMap α} (h : smWf d m = true) :
    smWf d (smErase k m) = true := by
  simp only [smWf, smLean, Bool.and_eq_true, List.all_eq_true] at h ⊢
  exact ⟨smSorted_smErase h.1, fun e he => h.2 e (mem_smErase he)⟩

theorem keep_wrWord {a : Nat} {w : Word} (h : Keep s0 s) : Keep s0 (wrWord a w s) :=
  ⟨h.1, h.2.1, fun i => ⟨(h.2.2 i).1, (h.2.2 i).2.1, (h.2.2 i).2.2.1, smWf_smPut (h.2.2 i).2.2.2⟩⟩

theorem keep_wrByte {a : Nat} {v : Byte} (h : Keep s0 s) : Keep s0 (wrByte a v s) :=
  ⟨h.1, h.2.1, fun i => ⟨(h.2.2 i).1, (h.2.2 i).2.1, smWf_smPut (d := fun _ => 0#8) (h.2.2 i).2.2.1, (h.2.2 i).2.2.2⟩⟩

theorem keep_wrBytes {a : Nat} {bs : List Byte} (h : Keep s0 s) : Keep s0 (wrBytes a bs s) := by
  induction bs generalizing a s with
  | nil => exact h
  | cons v l ih => exact ih (keep_wrByte h)

theorem keep_wipe {hit : Nat → Bool} (h : Keep s0 s) : Keep s0 (wipe hit s) := by
  refine ⟨h.1, h.2.1, fun i => ⟨(h.2.2 i).1, (h.2.2 i).2.1, ?_, (h.2.2 i).2.2.2⟩⟩
  have h3 := (h.2.2 i).2.2.1
  simp only [wipe, Memory.wf, smWf, smLean, Bool.and_eq_true, List.all_eq_true] at h3 ⊢
  exact ⟨smSorted_filter h3.1, fun e he => h3.2 e (List.mem_filter.1 he).1⟩

/-- The error side of one page replaced by one whose FIFO holds at most four records. -/
theorem keep_errs {p : Nat} {e : PageErr} (he : (∀ p, (pageErr s p).fifo.length ≤ 4) → e.fifo.length ≤ 4) (h : Keep s0 s) :
    Keep s0 { s with errs := smSet p e s.errs } := by
  refine ⟨h.1, h.2.1, fun i => ?_⟩
  obtain ⟨h1, h2, h3, h4⟩ := h.2.2 i
  refine ⟨h1, fun q => ?_, h3, h4⟩
  by_cases hq : q = p
  · subst hq; simpa using he h2
  · simpa [smGet_smSet_other _ hq] using h2 q

/-- The escalation queue replaced by one that keeps its bound. -/
theorem keep_esc {l : List Nat} (hl : s.esc.length ≤ 64 → l.length ≤ 64) (h : Keep s0 s) : Keep s0 { s with esc := l } := by
  refine ⟨h.1, h.2.1, fun i => ?_⟩
  obtain ⟨h1, h2, h3, h4⟩ := h.2.2 i
  exact ⟨hl h1, h2, h3, h4⟩

end Sys2Proof.Machine
end

