-- ==== Sys2Proof/Laws/KeepOps.lean ====
section
/-!
SUPPORT. What every operation keeps (Laws/Keep.lean): registers, records and interrupts.
-/
namespace Sys2Proof.Machine

variable {s0 s : State}

theorem keep_putF {p : Nat} {f : Fld} {v : Nat} {i : Nat} (hK : Keep s0 s) : Keep s0 (putF p f v i s) := by
  unfold putF
  with_reducible repeat' first | assumption | refine keep_wrWord ?_

theorem keep_incSat {p : Nat} {f : Fld} {i : Nat} (hK : Keep s0 s) : Keep s0 (incSat p f i s) := by
  unfold incSat
  with_reducible repeat' first | assumption | refine keep_putF ?_

theorem keep_addSat {p : Nat} {f : Fld} {n : Nat} {i : Nat} (hK : Keep s0 s) : Keep s0 (addSat p f n i s) := by
  unfold addSat
  with_reducible repeat' first | assumption | refine keep_putF ?_

theorem keep_incWrap {p : Nat} {f : Fld} {i : Nat} (hK : Keep s0 s) : Keep s0 (incWrap p f i s) := by
  unfold incWrap
  with_reducible repeat' first | assumption | refine keep_putF ?_

theorem keep_putPair {p : Nat} {lo hi : Fld} {v : Nat} {i : Nat} (hK : Keep s0 s) : Keep s0 (putPair p lo hi v i s) := by
  unfold putPair
  with_reducible repeat' first | assumption | refine keep_putF ?_

theorem keep_keepWas {who : Option Requester} {a : Nat} {w : Word} (hK : Keep s0 s) : Keep s0 (keepWas who a w s) := by
  unfold keepWas
  try dsimp only
  with_reducible repeat' first | assumption | intro _ | split | (apply keep_mk; refine keep_fold ?_)

theorem keep_noteWas {who : Option Requester} {a : Nat} (hK : Keep s0 s) : Keep s0 (noteWas who a s) := by
  unfold noteWas
  with_reducible repeat' first | assumption | refine keep_keepWas ?_

theorem keep_sendVec {v : Nat} (hK : Keep s0 s) : Keep s0 (sendVec v s) := by
  unfold sendVec
  with_reducible repeat' first | assumption | refine keep_ite ?_ ?_ | (apply keep_mk; refine keep_fold ?_)

theorem keep_irqEdge {p : Nat} {was : Bool} (hK : Keep s0 s) : Keep s0 (irqEdge p was s) := by
  unfold irqEdge
  with_reducible repeat' first | assumption | refine keep_ite ?_ ?_ | refine keep_sendVec ?_

theorem keep_irqSet {p : Nat} {mask : Word} (hK : Keep s0 s) : Keep s0 (irqSet p mask s) := by
  unfold irqSet
  with_reducible repeat' first | assumption | refine keep_irqEdge ?_ | refine keep_wrWord ?_

theorem keep_irqBit {p b : Nat} (hK : Keep s0 s) : Keep s0 (irqBit p b s) := by
  unfold irqBit
  with_reducible repeat' first | assumption | refine keep_irqSet ?_

theorem keep_alignMck  (hK : Keep s0 s) : Keep s0 (alignMck s) := by
  unfold alignMck
  try dsimp only
  with_reducible repeat' first | assumption | intro _ | (apply keep_mk; refine keep_fold ?_)

theorem keep_stampTimer {k : Nat} (hK : Keep s0 s) : Keep s0 (stampTimer k s) := by
  unfold stampTimer
  with_reducible repeat' first | assumption | (apply keep_mk; refine keep_fold ?_)

theorem keep_shiftTimer {k d : Nat} (hK : Keep s0 s) : Keep s0 (shiftTimer k d s) := by
  unfold shiftTimer
  try dsimp only
  with_reducible repeat' first | assumption | split | (apply keep_mk; refine keep_fold ?_)

theorem keep_dropTimer {k : Nat} (hK : Keep s0 s) : Keep s0 (dropTimer k s) := by
  unfold dropTimer
  with_reducible repeat' first | assumption | (apply keep_mk; refine keep_fold ?_)

theorem keep_urge {u : Urgent} (hK : Keep s0 s) : Keep s0 (urge u s) := by
  unfold urge
  with_reducible repeat' first | assumption | refine keep_ite ?_ ?_ | (apply keep_mk; refine keep_fold ?_)

theorem length_pageErr_add {mc : Nat} {r : ErrRec} {e : PageErr} (h : e.fifo.length ≤ 4) : (e.add mc r).fifo.length ≤ 4 := by
  have hl : ∀ b : Bool, (if b then e.fifo.take e.old else e.fifo).length ≤ 4 := by
    intro b; cases b
    · exact h
    · simp only [if_true, List.length_take]; omega
  have := hl (decide (e.mc = mc) && decide (e.batch ≠ []))
  simp only [PageErr.add, List.length_append, List.length_take]
  omega

theorem keep_errRec {p code sev unit : Nat} {info addr : Nat} (h : Keep s0 s) : Keep s0 (errRec p code sev unit info addr s) := by
  have h1 := keep_incSat (p := p) (f := HDR.ERR_CNT_TOTAL) (i := 0) h
  have h2 : ∀ (mc : Nat) (r : ErrRec), Keep s0 { incSat p HDR.ERR_CNT_TOTAL 0 s with
      errs := smSet p ((pageErr s p).add mc r) (incSat p HDR.ERR_CNT_TOTAL 0 s).errs } :=
    fun mc r => keep_errs (fun hs => length_pageErr_add (hs p)) h1
  unfold errRec
  dsimp only
  with_reducible repeat' first
    | exact h2 _ _ | refine keep_ite ?_ ?_ | refine keep_putF ?_ | refine keep_incSat ?_ | refine keep_irqBit ?_
    | (apply keep_mk; refine keep_fold ?_)

theorem keep_hoopCheck {a : Nat} (hK : Keep s0 s) : Keep s0 (hoopCheck a s) := by
  unfold hoopCheck
  try dsimp only
  with_reducible repeat' first
    | assumption | refine keep_ite ?_ ?_ | refine keep_incSat ?_ | refine keep_putF ?_ | refine keep_errRec ?_
    | (apply keep_mk; refine keep_fold ?_)

theorem keep_cfgBusy {p : Nat} (hK : Keep s0 s) : Keep s0 (cfgBusy p s) := by
  unfold cfgBusy
  with_reducible repeat' first | assumption | refine keep_irqBit ?_ | refine keep_putF ?_

theorem keep_setTile {b : Nat} {t : Tile} (hK : Keep s0 s) : Keep s0 (setTile b t s) := by
  unfold setTile
  with_reducible repeat' first | assumption | (apply keep_mk; refine keep_fold ?_)

theorem keep_modTile {b : Nat} {g : Tile → Tile} (hK : Keep s0 s) : Keep s0 (modTile b g s) := by
  unfold modTile
  with_reducible repeat' first | assumption | refine keep_setTile ?_

theorem keep_setRdo {b : Nat} {r : Rdo} (hK : Keep s0 s) : Keep s0 (setRdo b r s) := by
  unfold setRdo
  with_reducible repeat' first | assumption | (apply keep_mk; refine keep_fold ?_)

theorem keep_modRdo {b : Nat} {g : Rdo → Rdo} (hK : Keep s0 s) : Keep s0 (modRdo b g s) := by
  unfold modRdo
  with_reducible repeat' first | assumption | refine keep_setRdo ?_

theorem keep_setFlux {b k : Nat} {o : FOut} (hK : Keep s0 s) : Keep s0 (setFlux b k o s) := by
  unfold setFlux
  with_reducible repeat' first | assumption | (apply keep_mk; refine keep_fold ?_)

theorem keep_useFree  (hK : Keep s0 s) : Keep s0 (useFree s) := by
  unfold useFree
  with_reducible repeat' first | assumption | (apply keep_mk; refine keep_fold ?_)

end Sys2Proof.Machine
end

