-- ==== Sys2Proof/Laws/KeepMem.lean ====
section
/-!
SUPPORT. What every operation keeps (Laws/Keep.lean): the bus gates, the memories, the trims and the decision slots.
-/
namespace Sys2Proof.Machine

variable {s0 s : State}

theorem keep_ownViol {who : Requester} {p o : Nat} (hK : Keep s0 s) : Keep s0 (ownViol who p o s) := by
  unfold ownViol
  with_reducible repeat' first | assumption | refine keep_errRec ?_ | refine keep_irqBit ?_

theorem keep_lockViol {who : Requester} {p o : Nat} (hK : Keep s0 s) : Keep s0 (lockViol who p o s) := by
  unfold lockViol
  with_reducible repeat' first | assumption | refine keep_errRec ?_ | refine keep_irqBit ?_

theorem keep_busGate {who : Requester} {p o : Nat} {effect : State → State} (heffect : ∀  t, Keep s0 t → Keep s0 (effect  t)) (hK : Keep s0 s) : Keep s0 (busGate who p o effect s) := by
  unfold busGate
  with_reducible repeat' first
    | assumption | refine keep_ite ?_ ?_ | refine keep_cfgBusy ?_ | refine keep_ownViol ?_ | apply heffect

theorem keep_viaBus {who : Requester} {p : Nat} {f : Fld} {i data : Nat} {effect : State → State} (heffect : ∀  t, Keep s0 t → Keep s0 (effect  t)) (hK : Keep s0 s) : Keep s0 (viaBus who p f i data effect s) := by
  unfold viaBus
  dsimp only
  with_reducible repeat' first
    | assumption | refine keep_ite ?_ ?_ | refine keep_cfgBusy ?_ | refine keep_lockViol ?_ | apply keep_busGate
    | apply heffect | intro _ | split

theorem keep_notePage {who : Option Requester} {p : Nat} (hK : Keep s0 s) : Keep s0 (notePage who p s) := by
  unfold notePage
  try dsimp only
  with_reducible repeat' first | assumption | refine keep_ite ?_ ?_ | refine keep_noteWas ?_

theorem keep_ownAct {who : Requester} {p : Nat} {act : State → State} (hact : ∀ t, Keep s0 t → Keep s0 (act t)) (hK : Keep s0 s) :
    Keep s0 (ownAct who p act s) := hact _ (keep_notePage hK)

theorem keep_syncBPend {p : Nat} (hK : Keep s0 s) : Keep s0 (syncBPend p s) := by
  unfold syncBPend
  try dsimp only
  with_reducible repeat' first | assumption | refine keep_putF ?_

theorem keep_holdB {p a : Nat} (hK : Keep s0 s) : Keep s0 (holdB p a s) := by
  unfold holdB
  try dsimp only
  with_reducible repeat' first | assumption | refine keep_syncBPend ?_ | split | (apply keep_mk; refine keep_fold ?_)

theorem keep_geoSync {p a : Nat} {w : Word} (hK : Keep s0 s) : Keep s0 (geoSync p a w s) := by
  unfold geoSync
  try dsimp only
  with_reducible repeat' first | assumption | refine keep_ite ?_ ?_ | refine keep_wrWord ?_

theorem keep_writeReg {who : Requester} {p o : Nat} {data : Word} (hK : Keep s0 s) : Keep s0 (writeReg who p o data s) := by
  unfold writeReg
  try dsimp only
  with_reducible repeat' first
    | assumption | refine keep_ite ?_ ?_ | refine keep_holdB ?_ | refine keep_wrWord ?_ | refine keep_geoSync ?_
    | refine keep_cfgBusy ?_ | refine keep_lockViol ?_ | intro _ | split

theorem keep_setLine {a : Nat} {l : LineSt} (hK : Keep s0 s) : Keep s0 (setLine a l s) := by
  unfold setLine
  with_reducible repeat' first | assumption | (apply keep_mk; refine keep_fold ?_)

theorem keep_bucketAdd {m : MemRef} {n : Nat} (hK : Keep s0 s) : Keep s0 (bucketAdd m n s) := by
  unfold bucketAdd
  try dsimp only
  with_reducible repeat' first
    | assumption | refine keep_ite ?_ ?_ | refine keep_putF ?_ | refine keep_irqBit ?_ | refine keep_errRec ?_
    | refine keep_incSat ?_

theorem keep_wrDrop {m : MemRef} {req a : Nat} (hK : Keep s0 s) : Keep s0 (wrDrop m req a s) := by
  unfold wrDrop
  with_reducible repeat' first | assumption | refine keep_incSat ?_ | refine keep_errRec ?_

theorem keep_poisonLine {m : MemRef} {req cause a : Nat} (hK : Keep s0 s) : Keep s0 (poisonLine m req cause a s) := by
  unfold poisonLine
  try dsimp only
  with_reducible repeat' first
    | assumption | refine keep_ite ?_ ?_ | refine keep_itePair ?_ ?_ | apply keep_forAll | refine keep_incSat ?_
    | refine keep_setLine ?_ | refine keep_irqBit ?_ | refine keep_errRec ?_ | refine keep_wrDrop ?_
    | refine keep_forAll ?_ ?_ | intro _ | (apply keep_mk; refine keep_fold ?_)

theorem keep_detectLine {req a : Nat} (hK : Keep s0 s) : Keep s0 (detectLine req a s) := by
  unfold detectLine
  try dsimp only
  with_reducible repeat' first
    | assumption | refine keep_ite ?_ ?_ | refine keep_poisonLine ?_ | refine keep_hoopCheck ?_
    | refine keep_bucketAdd ?_ | refine keep_setLine ?_ | split

theorem keep_rtZero {a : Nat} (hK : Keep s0 s) : Keep s0 (rtZero a s) := by
  unfold rtZero
  try dsimp only
  with_reducible repeat' first
    | assumption | refine keep_ite ?_ ?_ | refine keep_detectLine ?_ | refine keep_errRec ?_ | refine keep_setLine ?_
    | refine keep_incSat ?_ | split

theorem keep_rtTouch {a : Nat} (hK : Keep s0 s) : Keep s0 (rtTouch a s) := by
  unfold rtTouch
  with_reducible repeat' first | assumption | refine keep_ite ?_ ?_ | refine keep_rtZero ?_

theorem keep_genParity {a n : Nat} (hK : Keep s0 s) : Keep s0 (genParity a n s) := by
  unfold genParity
  try dsimp only
  with_reducible repeat' first
    | assumption | refine keep_ite ?_ ?_ | apply keep_forAll | refine keep_forAll ?_ ?_ | intro _
    | (apply keep_mk; refine keep_fold ?_)

theorem keep_flipUse {m : MemRef} (hK : Keep s0 s) : Keep s0 (flipUse m s) := by
  unfold flipUse
  with_reducible repeat' first | assumption | refine keep_ite ?_ ?_ | refine keep_putF ?_

theorem keep_unpoison {m : MemRef} {a : Nat} (hK : Keep s0 s) : Keep s0 (unpoison m a s) := by
  unfold unpoison
  try dsimp only
  with_reducible repeat' first | assumption | refine keep_ite ?_ ?_ | refine keep_putF ?_

theorem keep_storeLine {req a : Nat} {bs : List Byte} (hK : Keep s0 s) : Keep s0 (storeLine req a bs s) := by
  unfold storeLine
  try dsimp only
  with_reducible repeat' first
    | assumption | refine keep_ite ?_ ?_ | refine keep_genParity ?_ | refine keep_wrBytes ?_ | refine keep_flipUse ?_
    | refine keep_setLine ?_ | refine keep_unpoison ?_ | refine keep_detectLine ?_ | refine keep_wrDrop ?_ | intro _
    | split

theorem keep_storeMem {req a : Nat} {bs : List Byte} (hK : Keep s0 s) : Keep s0 (storeMem req a bs s) := by
  unfold storeMem
  try dsimp only
  with_reducible repeat' first
    | assumption | apply keep_forAll | refine keep_storeLine ?_ | refine keep_forAll ?_ ?_ | intro _

theorem keep_checkLines {req : Nat} {l : List Nat} (h : Keep s0 s) : Keep s0 (checkLines req l s).2 := by
  induction l generalizing s with
  | nil => exact h
  | cons a l ih =>
    unfold checkLines
    dsimp only
    split
    · exact keep_detectLine h
    · exact ih h

theorem keep_readMem {a n : Nat} (h : Keep s0 s) : Keep s0 (readMem a n s) := by
  have h1 := keep_checkLines (req := 1) (l := linesOf64 a n) h
  unfold readMem
  split <;> (rename_i e; rw [e] at h1; exact h1)

theorem keep_recoverLine {a : Nat} {bs : List Byte} (hK : Keep s0 s) : Keep s0 (recoverLine a bs s) := by
  unfold recoverLine
  try dsimp only
  with_reducible repeat' first
    | assumption | apply keep_forAll | refine keep_genParity ?_ | refine keep_wrBytes ?_ | refine keep_unpoison ?_
    | refine keep_incSat ?_ | refine keep_setLine ?_ | refine keep_storeLine ?_ | refine keep_readMem ?_
    | refine keep_forAll ?_ ?_ | intro _ | split

theorem keep_modCal {b : Nat} {g : CalTile → CalTile} (hK : Keep s0 s) : Keep s0 (modCal b g s) := by
  unfold modCal
  with_reducible repeat' first | assumption | (apply keep_mk; refine keep_fold ?_)

theorem keep_stepsFrom {b at_ : Nat} (hK : Keep s0 s) : Keep s0 (stepsFrom b at_ s) := by
  unfold stepsFrom
  try dsimp only
  with_reducible repeat' first | assumption | refine keep_modCal ?_

theorem keep_setTrack {b t : Nat} {k : Track} (hK : Keep s0 s) : Keep s0 (setTrack b t k s) := by
  unfold setTrack
  with_reducible repeat' first | assumption | (apply keep_mk; refine keep_fold ?_)

theorem keep_putTrim {p : Nat} {use lim seq : Fld} {i u : Nat} {code unit : Nat} (hK : Keep s0 s) : Keep s0 (putTrim p use lim seq i u code unit s) := by
  unfold putTrim
  try dsimp only
  with_reducible repeat' first
    | assumption | refine keep_ite ?_ ?_ | refine keep_putF ?_ | refine keep_errRec ?_ | refine keep_irqBit ?_

theorem keep_showCal {b : Nat} {v : List Int} (hK : Keep s0 s) : Keep s0 (showCal b v s) := by
  unfold showCal
  try dsimp only
  with_reducible repeat' first
    | assumption | refine keep_ite ?_ ?_ | apply keep_forAll | refine keep_putTrim ?_ | refine keep_putF ?_
    | refine keep_errRec ?_ | refine keep_irqBit ?_ | refine keep_forAll ?_ ?_ | intro _ | split

theorem keep_calCommitTile {b : Nat} {st : Option (List Int × Bool)} (hK : Keep s0 s) : Keep s0 (calCommitTile b st s) := by
  unfold calCommitTile
  try dsimp only
  with_reducible repeat' first
    | assumption | refine keep_ite ?_ ?_ | refine keep_modCal ?_ | refine keep_showCal ?_ | refine keep_irqBit ?_
    | intro _ | split

theorem keep_trackClear {b t : Nat} (hK : Keep s0 s) : Keep s0 (trackClear b t s) := by
  unfold trackClear
  with_reducible repeat' first | assumption | refine keep_setTrack ?_

theorem keep_geoCommit {b t : Nat} {st : Option (List Word)} {hostWrote : Bool} (hK : Keep s0 s) : Keep s0 (geoCommit b t st hostWrote s) := by
  unfold geoCommit
  try dsimp only
  with_reducible repeat' first
    | assumption | refine keep_ite ?_ ?_ | apply keep_forAll | refine keep_setTrack ?_ | refine keep_wrWord ?_
    | refine keep_putF ?_ | refine keep_forAll ?_ ?_ | intro _ | split | (apply keep_mk; refine keep_fold ?_)

theorem keep_skewCommit {st : Option Nat} {hostWrote : Bool} (hK : Keep s0 s) : Keep s0 (skewCommit st hostWrote s) := by
  unfold skewCommit
  try dsimp only
  with_reducible repeat' first
    | assumption | refine keep_ite ?_ ?_ | refine keep_irqBit ?_ | refine keep_putF ?_ | split
    | (apply keep_mk; refine keep_fold ?_)

theorem keep_calDropShadows  (hK : Keep s0 s) : Keep s0 (calDropShadows s) := by
  unfold calDropShadows
  try dsimp only
  with_reducible repeat' first | assumption | intro _ | (apply keep_mk; refine keep_fold ?_)

theorem keep_trackAdd {b t k : Nat} {v c : Cplx} {outlier : Bool} (hK : Keep s0 s) : Keep s0 (trackAdd b t k v c outlier s) := by
  unfold trackAdd
  try dsimp only
  with_reducible repeat' first | assumption | refine keep_setTrack ?_

theorem keep_setTulSlot {i : Nat} {x : TulSlot} (hK : Keep s0 s) : Keep s0 (setTulSlot i x s) := by
  unfold setTulSlot
  with_reducible repeat' first | assumption | (apply keep_mk; refine keep_fold ?_)

theorem keep_modPort {n : Nat} {g : Port → Port} (hK : Keep s0 s) : Keep s0 (modPort n g s) := by
  unfold modPort
  with_reducible repeat' first | assumption | (apply keep_mk; refine keep_fold ?_)

theorem keep_slotEntry {i : Nat} (hK : Keep s0 s) : Keep s0 (slotEntry i s) := by
  unfold slotEntry
  with_reducible repeat' first | assumption | refine keep_wrBytes ?_

theorem keep_setLost {i : Nat} {b : Bool} (hK : Keep s0 s) : Keep s0 (setLost i b s) := by
  unfold setLost
  try dsimp only
  with_reducible repeat' first | assumption | refine keep_ite ?_ ?_ | refine keep_putF ?_ | refine keep_slotEntry ?_

theorem keep_routeLost {i cause : Nat} (hK : Keep s0 s) : Keep s0 (routeLost i cause s) := by
  unfold routeLost
  try dsimp only
  with_reducible repeat' first | assumption | refine keep_ite ?_ ?_ | refine keep_errRec ?_ | refine keep_irqBit ?_

theorem keep_loseSlot {cause i : Nat} (hK : Keep s0 s) : Keep s0 (loseSlot cause i s) := by
  unfold loseSlot
  with_reducible repeat' first | assumption | refine keep_routeLost ?_ | refine keep_setLost ?_

theorem keep_losePort {n : Nat} {began lock : Bool} (hK : Keep s0 s) : Keep s0 (losePort n began lock s) := by
  unfold losePort
  try dsimp only
  with_reducible repeat' first
    | assumption | refine keep_ite ?_ ?_ | apply keep_forAll | refine keep_setTulSlot ?_ | refine keep_loseSlot ?_
    | refine keep_forAll ?_ ?_ | intro _

theorem keep_loseTile {b : Nat} (hK : Keep s0 s) : Keep s0 (loseTile b s) := by
  unfold loseTile
  try dsimp only
  with_reducible repeat' first
    | assumption | apply keep_forAll | refine keep_loseSlot ?_ | refine keep_forAll ?_ ?_ | intro _

theorem keep_syncRtPend  (hK : Keep s0 s) : Keep s0 (syncRtPend s) := by
  unfold syncRtPend
  try dsimp only
  with_reducible repeat' first | assumption | refine keep_putF ?_

theorem keep_applyRoute {i : Nat} {r : RouteSet} (hK : Keep s0 s) : Keep s0 (applyRoute i r s) := by
  unfold applyRoute
  try dsimp only
  with_reducible repeat' first
    | assumption | refine keep_ite ?_ ?_ | refine keep_putF ?_ | refine keep_setTulSlot ?_ | split
    | (apply keep_mk; refine keep_fold ?_)

theorem keep_refreshSlot {i : Nat} {kind0 : Bool} (hK : Keep s0 s) : Keep s0 (refreshSlot i kind0 s) := by
  unfold refreshSlot
  try dsimp only
  with_reducible repeat' first
    | assumption | refine keep_ite ?_ ?_ | refine keep_putF ?_ | refine keep_setLost ?_ | refine keep_routeLost ?_
    | split

theorem keep_bringRoute {i : Nat} {r : RouteSet} (hK : Keep s0 s) : Keep s0 (bringRoute i r s) := by
  unfold bringRoute
  try dsimp only
  with_reducible repeat' first
    | assumption | refine keep_ite ?_ ?_ | refine keep_applyRoute ?_ | refine keep_putF ?_ | refine keep_setTulSlot ?_
    | split

theorem keep_routeCommit {st : SMap RouteSet} {changed : List (Nat × Bool)} (hK : Keep s0 s) : Keep s0 (routeCommit st changed s) := by
  unfold routeCommit
  try dsimp only
  with_reducible repeat' first
    | assumption | refine keep_ite ?_ ?_ | refine keep_itePair ?_ ?_ | apply keep_forAll | refine keep_bringRoute ?_
    | refine keep_refreshSlot ?_ | refine keep_syncRtPend ?_ | refine keep_irqBit ?_ | refine keep_forAll ?_ ?_
    | intro _

theorem keep_stageRoute {i : Nat} {r : RouteSet} (hK : Keep s0 s) : Keep s0 (stageRoute i r s) := by
  unfold stageRoute
  try dsimp only
  with_reducible repeat' first
    | assumption | refine keep_ite ?_ ?_ | refine keep_setTulSlot ?_ | refine keep_syncRtPend ?_ | refine keep_putF ?_
    | refine keep_routeCommit ?_

theorem keep_restoreSlots  (hK : Keep s0 s) : Keep s0 (restoreSlots s) := by
  unfold restoreSlots
  with_reducible repeat' first | assumption | refine keep_ite ?_ ?_ | refine keep_routeCommit ?_

theorem keep_withdrawSlot {i : Nat} (hK : Keep s0 s) : Keep s0 (withdrawSlot i s) := by
  unfold withdrawSlot
  try dsimp only
  with_reducible repeat' first
    | assumption | refine keep_ite ?_ ?_ | refine keep_setTulSlot ?_ | refine keep_syncRtPend ?_ | refine keep_putF ?_
    | refine keep_slotEntry ?_ | refine keep_loseSlot ?_

theorem keep_publish {p kind tile tone dout slot : Nat} {d : Decision} (hK : Keep s0 s) : Keep s0 (publish p kind tile tone dout slot d s) := by
  unfold publish
  try dsimp only
  with_reducible repeat' first
    | assumption | refine keep_ite ?_ ?_ | refine keep_incSat ?_ | refine keep_irqBit ?_ | refine keep_errRec ?_
    | (apply keep_mk; refine keep_fold ?_)

theorem keep_noteDelivery {b : Pub} (hK : Keep s0 s) : Keep s0 (noteDelivery b s) := by
  unfold noteDelivery
  try dsimp only
  with_reducible repeat' first
    | assumption | refine keep_ite ?_ ?_ | refine keep_putF ?_ | refine keep_incSat ?_ | refine keep_wrBytes ?_
    | refine keep_incWrap ?_

theorem keep_ingress {n : Nat} {w : RxWord} (hK : Keep s0 s) : Keep s0 (ingress n w s) := by
  unfold ingress
  try dsimp only
  with_reducible repeat' first
    | assumption | refine keep_ite ?_ ?_ | refine keep_incSat ?_ | refine keep_irqBit ?_ | refine keep_errRec ?_
    | (apply keep_mk; refine keep_fold ?_)

end Sys2Proof.Machine
end

