-- ==== Sys2Proof/Laws/KeepTiles.lean ====
section
/-!
SUPPORT. What every operation keeps (Laws/Keep.lean): the Darner, the links, the commit points, the tiles, the event matrix, the bias outputs and the pattern port.
-/
namespace Sys2Proof.Machine

variable {s0 s : State}

theorem keep_showPatch {p : Nat} (hK : Keep s0 s) : Keep s0 (showPatch p s) := by
  unfold showPatch
  try dsimp only
  with_reducible repeat' first | assumption | refine keep_putF ?_

theorem keep_setPatch {p : Nat} {x : Patch} (hK : Keep s0 s) : Keep s0 (setPatch p x s) := by
  unfold setPatch
  with_reducible repeat' first | assumption | refine keep_showPatch ?_ | (apply keep_mk; refine keep_fold ?_)

theorem keep_discard {n : Nat} (hK : Keep s0 s) : Keep s0 (discard n s) := by
  unfold discard
  with_reducible repeat' first | assumption | refine keep_addSat ?_

theorem keep_dropOpen {p : Nat} (hK : Keep s0 s) : Keep s0 (dropOpen p s) := by
  unfold dropOpen
  try dsimp only
  with_reducible repeat' first
    | assumption | refine keep_setPatch ?_ | refine keep_discard ?_

theorem keep_checkPatches  (hK : Keep s0 s) : Keep s0 (checkPatches s) := by
  unfold checkPatches
  try dsimp only
  with_reducible repeat' first
    | assumption | refine keep_ite ?_ ?_ | refine keep_itePair ?_ ?_ | apply keep_forAll | refine keep_dropOpen ?_
    | refine keep_setPatch ?_ | refine keep_errRec ?_ | refine keep_irqBit ?_ | refine keep_forAll ?_ ?_ | intro _

theorem keep_resetPatch {p : Nat} (hK : Keep s0 s) : Keep s0 (resetPatch p s) := by
  unfold resetPatch
  try dsimp only
  with_reducible repeat' first
    | assumption | refine keep_dropOpen ?_ | refine keep_putF ?_ | refine keep_setPatch ?_

theorem keep_darnerCommit {ch : List (Nat × Word × Word)} (hK : Keep s0 s) : Keep s0 (darnerCommit ch s) := by
  unfold darnerCommit
  try dsimp only
  with_reducible repeat' first
    | assumption | refine keep_ite ?_ ?_ | refine keep_itePair ?_ ?_ | apply keep_forAll | refine keep_resetPatch ?_
    | refine keep_checkPatches ?_ | refine keep_forAll ?_ ?_ | intro _

theorem keep_closeRound {p c reason : Nat} {h : SMap SynBit} (hK : Keep s0 s) : Keep s0 (closeRound p c reason h s) := by
  unfold closeRound
  try dsimp only
  with_reducible repeat' first
    | assumption | refine keep_ite ?_ ?_ | refine keep_itePair ?_ ?_ | refine keep_incWrap ?_
    | refine keep_setPatch ?_

theorem keep_timeoutRound {p c : Nat} (hK : Keep s0 s) : Keep s0 (timeoutRound p c s) := by
  unfold timeoutRound
  try dsimp only
  with_reducible repeat' first
    | assumption | refine keep_closeRound ?_ | refine keep_setPatch ?_

theorem keep_tryComplete {p c : Nat} (hK : Keep s0 s) : Keep s0 (tryComplete p c s) := by
  unfold tryComplete
  try dsimp only
  with_reducible repeat' first
    | assumption | refine keep_ite ?_ ?_ | refine keep_closeRound ?_ | refine keep_setPatch ?_

theorem keep_roundInput {p i f : Nat} {d : SynBit} (hK : Keep s0 s) : Keep s0 (roundInput p i f d s) := by
  unfold roundInput
  try dsimp only
  with_reducible repeat' first
    | assumption | refine keep_ite ?_ ?_ | refine keep_itePair ?_ ?_ | refine keep_timeoutRound ?_
    | refine keep_tryComplete ?_ | refine keep_setPatch ?_ | refine keep_closeRound ?_ | refine keep_putF ?_ | intro _
    | split

theorem keep_darnerInput {i f : Nat} {d : Decision} (hK : Keep s0 s) : Keep s0 (darnerInput i f d s) := by
  unfold darnerInput
  try dsimp only
  with_reducible repeat' first
    | assumption | refine keep_ite ?_ ?_ | refine keep_discard ?_ | refine keep_roundInput ?_ | split

theorem keep_clearPatch {p : Nat} (hK : Keep s0 s) : Keep s0 (clearPatch p s) := by
  unfold clearPatch
  with_reducible repeat' first
    | assumption | refine keep_putF ?_ | refine keep_setPatch ?_

theorem keep_patchClr {p : Nat} (hK : Keep s0 s) : Keep s0 (patchClr p s) := by
  unfold patchClr
  with_reducible repeat' first | assumption | refine keep_setPatch ?_

theorem keep_showEsc  (hK : Keep s0 s) : Keep s0 (showEsc s) := by
  unfold showEsc
  with_reducible repeat' first | assumption | refine keep_putF ?_

theorem keep_escPush {p rnd rec : Nat} (h : Keep s0 s) : Keep s0 (escPush p rnd rec s) := by
  have h1 : s.esc.length < 64 → Keep s0 (irqBit pDrn 0 (showEsc { s with esc := s.esc ++ [rec] })) := fun hl =>
    keep_irqBit (keep_showEsc (keep_esc (fun _ => by simp only [List.length_append, List.length_singleton]; omega) h))
  unfold escPush
  dsimp only
  split
  · rename_i hl
    exact keep_ite (keep_irqBit (h1 hl)) (h1 hl)
  · have h2 := keep_irqBit (p := pDrn) (b := 2) (keep_incSat (p := pDrn) (f := DRN.ESC_STAT_DROP) (i := 0) h)
    exact keep_ite h2 (keep_errRec (s := { irqBit pDrn 2 (incSat pDrn DRN.ESC_STAT_DROP 0 s) with once := _ }) h2)

theorem keep_escPop (h : Keep s0 s) : Keep s0 (escPop s) := by
  unfold escPop
  exact keep_showEsc (keep_esc (fun hl => by simp only [List.length_tail]; omega) h)

theorem keep_readTables {p : Nat} {r : Round} (hK : Keep s0 s) : Keep s0 (readTables p r s).2 := by
  unfold readTables
  try dsimp only
  with_reducible repeat' first
    | assumption | refine keep_ite ?_ ?_ | refine keep_itePair ?_ ?_ | apply keep_forAll | refine keep_errRec ?_
    | refine keep_irqBit ?_ | refine keep_detectLine ?_ | refine keep_forAll ?_ ?_ | intro _

theorem keep_readDue {p : Nat} (hK : Keep s0 s) : Keep s0 (readDue p s) := by
  unfold readDue
  try dsimp only
  with_reducible repeat' first
    | assumption | refine keep_ite ?_ ?_ | refine keep_itePair ?_ ?_ | apply keep_forAll | refine keep_readTables ?_
    | refine keep_forAll ?_ ?_ | intro _ | (apply keep_mk; refine keep_fold ?_)

theorem keep_darnerCycle  (hK : Keep s0 s) : Keep s0 (darnerCycle s) := by
  unfold darnerCycle
  try dsimp only
  with_reducible repeat' first
    | assumption | apply keep_forAll | refine keep_readDue ?_ | refine keep_forAll ?_ ?_ | intro _

theorem keep_darnerClears  (hK : Keep s0 s) : Keep s0 (darnerClears s) := by
  unfold darnerClears
  try dsimp only
  with_reducible repeat' first
    | assumption | apply keep_forAll | refine keep_clearPatch ?_ | refine keep_forAll ?_ ?_ | intro _

theorem keep_finishRound {p : Nat} {r : Round} (hK : Keep s0 s) : Keep s0 (finishRound p r s) := by
  unfold finishRound
  try dsimp only
  with_reducible repeat' first
    | assumption | refine keep_ite ?_ ?_ | refine keep_itePair ?_ ?_ | apply keep_forAll | refine keep_readTables ?_
    | refine keep_publish ?_ | refine keep_incSat ?_ | refine keep_escPush ?_ | refine keep_forAll ?_ ?_ | intro _

theorem keep_setPortState {n st : Nat} (hK : Keep s0 s) : Keep s0 (setPortState n st s) := by
  unfold setPortState
  with_reducible repeat' first | assumption | refine keep_putF ?_ | refine keep_noteWas ?_

theorem keep_topoUrge  (hK : Keep s0 s) : Keep s0 (topoUrge s) := by
  unfold topoUrge
  with_reducible repeat' first | assumption | refine keep_urge ?_

theorem keep_portDown {n st : Nat} (hK : Keep s0 s) : Keep s0 (portDown n st s) := by
  unfold portDown
  try dsimp only
  with_reducible repeat' first
    | assumption | refine keep_ite ?_ ?_ | refine keep_urge ?_ | refine keep_losePort ?_ | refine keep_setPortState ?_
    | refine keep_modPort ?_ | (apply keep_mk; refine keep_fold ?_)

theorem keep_enterSearch {n : Nat} (hK : Keep s0 s) : Keep s0 (enterSearch n s) := by
  unfold enterSearch
  try dsimp only
  with_reducible repeat' first
    | assumption | refine keep_ite ?_ ?_ | apply keep_forAll | refine keep_portDown ?_ | refine keep_incSat ?_
    | refine keep_putF ?_ | refine keep_modPort ?_ | refine keep_forAll ?_ ?_ | intro _

theorem keep_trainFail {n reason : Nat} (hK : Keep s0 s) : Keep s0 (trainFail n reason s) := by
  unfold trainFail
  with_reducible repeat' first | assumption | refine keep_errRec ?_ | refine keep_irqBit ?_ | refine keep_portDown ?_

theorem keep_portLol {n lanes cause : Nat} (hK : Keep s0 s) : Keep s0 (portLol n lanes cause s) := by
  unfold portLol
  try dsimp only
  with_reducible repeat' first
    | assumption | refine keep_ite ?_ ?_ | refine keep_irqBit ?_ | refine keep_incSat ?_ | refine keep_errRec ?_
    | refine keep_putF ?_ | refine keep_enterSearch ?_ | refine keep_portDown ?_

theorem keep_trainLol {n lanes : Nat} (hK : Keep s0 s) : Keep s0 (trainLol n lanes s) := by
  unfold trainLol
  try dsimp only
  with_reducible repeat' first | assumption | refine keep_ite ?_ ?_ | refine keep_putF ?_ | refine keep_enterSearch ?_

theorem keep_loseLock {n lanes cause : Nat} (hK : Keep s0 s) : Keep s0 (loseLock n lanes cause s) := by
  unfold loseLock
  try dsimp only
  with_reducible repeat' first
    | assumption | refine keep_ite ?_ ?_ | refine keep_topoUrge ?_ | refine keep_portLol ?_ | refine keep_trainLol ?_

theorem keep_allPortsLol  (hK : Keep s0 s) : Keep s0 (allPortsLol s) := by
  unfold allPortsLol
  try dsimp only
  with_reducible repeat' first
    | assumption | apply keep_forAll | refine keep_loseLock ?_ | refine keep_forAll ?_ ?_ | intro _

theorem keep_egress {n slot e : Nat} {d : Decision} (hK : Keep s0 s) : Keep s0 (egress n slot e d s) := by
  unfold egress
  try dsimp only
  with_reducible repeat' first
    | assumption | refine keep_ite ?_ ?_ | refine keep_itePair ?_ ?_ | refine keep_incSat ?_ | refine keep_errRec ?_
    | refine keep_modPort ?_ | refine keep_serve ?_ | refine keep_irqBit ?_ | intro _ | split
    | (apply keep_mk; refine keep_fold ?_)

theorem keep_takeEntry {n ta x : Nat} (hK : Keep s0 s) : Keep s0 (takeEntry n ta x s) := by
  unfold takeEntry
  try dsimp only
  with_reducible repeat' first
    | assumption | refine keep_ite ?_ ?_ | refine keep_modPort ?_ | refine keep_irqBit ?_ | refine keep_incSat ?_
    | refine keep_errRec ?_ | intro _ | (apply keep_mk; refine keep_fold ?_)

theorem keep_dropBlock {n : Nat} (hK : Keep s0 s) : Keep s0 (dropBlock n s) := by
  unfold dropBlock
  try dsimp only
  with_reducible repeat' first
    | assumption | refine keep_ite ?_ ?_ | refine keep_irqBit ?_ | refine keep_incSat ?_ | refine keep_errRec ?_
    | (apply keep_mk; refine keep_fold ?_)

theorem keep_sendBlk {n : Nat} {b : OutBlk} (hK : Keep s0 s) : Keep s0 (sendBlk n b s) := by
  unfold sendBlk
  try dsimp only
  with_reducible repeat' first | assumption | refine keep_modPort ?_

theorem keep_sendStamp {n id : Nat} (hK : Keep s0 s) : Keep s0 (sendStamp n id s) := by
  unfold sendStamp
  try dsimp only
  with_reducible repeat' first
    | assumption | refine keep_sendBlk ?_ | refine keep_modPort ?_

theorem keep_mgmtDrop {n chan cause : Nat} (hK : Keep s0 s) : Keep s0 (mgmtDrop n chan cause s) := by
  unfold mgmtDrop
  with_reducible repeat' first | assumption | refine keep_errRec ?_ | refine keep_incSat ?_

theorem keep_sendMsg {n chan : Nat} {bytes : List Byte} (hK : Keep s0 s) : Keep s0 (sendMsg n chan bytes s) := by
  unfold sendMsg
  try dsimp only
  with_reducible repeat' first | assumption | refine keep_modPort ?_

theorem keep_searchDone {n : Nat} (hK : Keep s0 s) : Keep s0 (searchDone n s) := by
  unfold searchDone
  try dsimp only
  with_reducible repeat' first
    | assumption | refine keep_ite ?_ ?_ | refine keep_setPortState ?_ | refine keep_modPort ?_

theorem keep_agreeDone {n : Nat} (hK : Keep s0 s) : Keep s0 (agreeDone n s) := by
  unfold agreeDone
  try dsimp only
  with_reducible repeat' first
    | assumption | refine keep_ite ?_ ?_ | refine keep_putF ?_ | refine keep_setPortState ?_ | refine keep_modPort ?_
    | intro _ | split

theorem keep_deskewDone {n : Nat} (hK : Keep s0 s) : Keep s0 (deskewDone n s) := by
  unfold deskewDone
  try dsimp only
  with_reducible repeat' first
    | assumption | refine keep_ite ?_ ?_ | refine keep_setPortState ?_ | refine keep_modPort ?_

theorem keep_slotWatch  (hK : Keep s0 s) : Keep s0 (slotWatch s) := by
  unfold slotWatch
  try dsimp only
  with_reducible repeat' first
    | assumption | refine keep_ite ?_ ?_ | refine keep_putF ?_ | (apply keep_mk; refine keep_fold ?_)

theorem keep_bringIn {snap : SMap Word} (hK : Keep s0 s) : Keep s0 (bringIn snap s) := by
  unfold bringIn
  try dsimp only
  with_reducible repeat' first
    | assumption | refine keep_ite ?_ ?_ | refine keep_itePair ?_ ?_ | refine keep_geoSync ?_
    | refine keep_foldl ?_ ?_ | intro _ | (apply keep_mk; refine keep_fold ?_)

theorem keep_showBandAny {b d : Nat} (hK : Keep s0 s) : Keep s0 (showBandAny b d s) := by
  unfold showBandAny
  try dsimp only
  with_reducible repeat' first | assumption | refine keep_ite ?_ ?_ | refine keep_putF ?_

theorem keep_refreshTone {b : Nat} {atGo : Bool} {t : Nat} (hK : Keep s0 s) : Keep s0 (refreshTone b atGo t s) := by
  unfold refreshTone
  try dsimp only
  with_reducible repeat' first
    | assumption | refine keep_ite ?_ ?_ | refine keep_putF ?_ | refine keep_showBandAny ?_ | refine keep_errRec ?_
    | refine keep_irqBit ?_

theorem keep_refreshBin {b : Nat} {atGo : Bool} {t : Nat} (hK : Keep s0 s) : Keep s0 (refreshBin b atGo t s) := by
  unfold refreshBin
  try dsimp only
  with_reducible repeat' first
    | assumption | refine keep_ite ?_ ?_ | refine keep_putF ?_ | refine keep_errRec ?_ | refine keep_irqBit ?_

theorem keep_showBinUse {b : Nat} (hK : Keep s0 s) : Keep s0 (showBinUse b s) := by
  unfold showBinUse
  try dsimp only
  with_reducible repeat' first | assumption | refine keep_ite ?_ ?_ | refine keep_putF ?_

theorem keep_pfRecord {b t : Nat} {w : Word} (hK : Keep s0 s) : Keep s0 (pfRecord b t w s) := by
  unfold pfRecord
  with_reducible repeat' first | assumption | refine keep_errRec ?_

theorem keep_showMode {b : Nat} (hK : Keep s0 s) : Keep s0 (showMode b s) := by
  unfold showMode
  try dsimp only
  with_reducible repeat' first | assumption | refine keep_putF ?_

theorem keep_tileCommit {ch : List Change} {b : Nat} (hK : Keep s0 s) : Keep s0 (tileCommit ch b s) := by
  unfold tileCommit
  try dsimp only
  with_reducible repeat' first
    | assumption | refine keep_ite ?_ ?_ | refine keep_itePair ?_ ?_ | apply keep_forAll | refine keep_refreshTone ?_
    | refine keep_showMode ?_ | refine keep_refreshBin ?_ | refine keep_showBinUse ?_ | refine keep_pfRecord ?_
    | refine keep_trackClear ?_ | refine keep_forAll ?_ ?_ | intro _

theorem keep_afterCommit {routes : SMap RouteSet} {ch : List Change} (hK : Keep s0 s) : Keep s0 (afterCommit routes ch s) := by
  unfold afterCommit
  try dsimp only
  with_reducible repeat' first
    | assumption | refine keep_ite ?_ ?_ | apply keep_forAll | refine keep_tileCommit ?_ | refine keep_routeCommit ?_
    | refine keep_darnerCommit ?_ | refine keep_syncBPend ?_ | refine keep_forAll ?_ ?_ | intro _

theorem keep_commitWords {routes : SMap RouteSet} {snap : SMap Word} (hK : Keep s0 s) : Keep s0 (commitWords routes snap s) := by
  unfold commitWords
  try dsimp only
  with_reducible repeat' first | assumption | refine keep_afterCommit ?_ | refine keep_bringIn ?_

theorem keep_unmixSwap {b : Nat} {st : Option (SMap Cplx × Nat)} (hK : Keep s0 s) : Keep s0 (unmixSwap b st s) := by
  unfold unmixSwap
  try dsimp only
  with_reducible repeat' first
    | assumption | refine keep_ite ?_ ?_ | refine keep_putF ?_ | refine keep_modRdo ?_ | refine keep_irqBit ?_
    | intro _ | split

theorem keep_fluxSwap {b k : Nat} {st : Option (Coef × Nat)} (hK : Keep s0 s) : Keep s0 (fluxSwap b k st s) := by
  unfold fluxSwap
  try dsimp only
  with_reducible repeat' first
    | assumption | refine keep_ite ?_ ?_ | refine keep_setFlux ?_ | refine keep_putF ?_ | refine keep_irqBit ?_
    | split

theorem keep_swapBuffers {b : Nat} {st : Staged} (hK : Keep s0 s) : Keep s0 (swapBuffers b st s) := by
  unfold swapBuffers
  try dsimp only
  with_reducible repeat' first
    | assumption | refine keep_ite ?_ ?_ | apply keep_forAll | refine keep_unmixSwap ?_ | refine keep_fluxSwap ?_
    | refine keep_forAll ?_ ?_ | intro _

theorem keep_calCommit {st : Staged} {ch : List Change} {b : Nat} (hK : Keep s0 s) : Keep s0 (calCommit st ch b s) := by
  unfold calCommit
  try dsimp only
  with_reducible repeat' first
    | assumption | refine keep_ite ?_ ?_ | apply keep_forAll | refine keep_calCommitTile ?_ | refine keep_geoCommit ?_
    | refine keep_forAll ?_ ?_ | intro _

theorem keep_newDevShot  (hK : Keep s0 s) : Keep s0 (newDevShot s) := by
  unfold newDevShot
  with_reducible repeat' first | assumption | (apply keep_mk; refine keep_fold ?_)

theorem keep_deviceCommit {st : Staged} {snap : SMap Word} (hK : Keep s0 s) : Keep s0 (deviceCommit st snap s) := by
  unfold deviceCommit
  try dsimp only
  with_reducible repeat' first
    | assumption | refine keep_ite ?_ ?_ | refine keep_commitWords ?_ | refine keep_routeCommit ?_
    | refine keep_skewCommit ?_ | refine keep_newDevShot ?_

theorem keep_settle  (hK : Keep s0 s) : Keep s0 (settle s) := by
  unfold settle
  with_reducible repeat' first | assumption | refine keep_ite ?_ ?_ | refine keep_deviceCommit ?_

theorem keep_showFill {b : Nat} (hK : Keep s0 s) : Keep s0 (showFill b s) := by
  unfold showFill
  with_reducible repeat' first | assumption | refine keep_putF ?_

theorem keep_ringStep {b : Nat} (hK : Keep s0 s) : Keep s0 (ringStep b s) := by
  unfold ringStep
  try dsimp only
  with_reducible repeat' first
    | assumption | refine keep_ite ?_ ?_ | refine keep_showFill ?_ | refine keep_incWrap ?_ | refine keep_irqBit ?_

theorem keep_ringPut {b : Nat} {bytes : List Byte} (hK : Keep s0 s) : Keep s0 (ringPut b bytes s) := by
  unfold ringPut
  try dsimp only
  with_reducible repeat' first
    | assumption | refine keep_ite ?_ ?_ | refine keep_storeLine ?_ | refine keep_incSat ?_ | refine keep_modRdo ?_

theorem keep_shotStatus {b : Nat} (hK : Keep s0 s) : Keep s0 (shotStatus b s) := by
  unfold shotStatus
  with_reducible repeat' first | assumption | refine keep_ite ?_ ?_ | refine keep_ringPut ?_ | refine keep_incSat ?_

theorem keep_raiseMark {b cause : Nat} (hK : Keep s0 s) : Keep s0 (raiseMark b cause s) := by
  unfold raiseMark
  try dsimp only
  with_reducible repeat' first
    | assumption | refine keep_ite ?_ ?_ | refine keep_modRdo ?_

theorem keep_showStat {b t : Nat} (hK : Keep s0 s) : Keep s0 (showStat b t s) := by
  unfold showStat
  with_reducible repeat' first | assumption | refine keep_putF ?_

theorem keep_statCommit {b t : Nat} {x : ToneStat} (hK : Keep s0 s) : Keep s0 (statCommit b t x s) := by
  unfold statCommit
  try dsimp only
  with_reducible repeat' first
    | assumption | refine keep_ite ?_ ?_ | refine keep_showStat ?_ | refine keep_modRdo ?_ | refine keep_irqBit ?_
    | refine keep_putF ?_ | refine keep_errRec ?_

theorem keep_statsClose {b : Nat} {discard : Bool} (hK : Keep s0 s) : Keep s0 (statsClose b discard s) := by
  unfold statsClose
  try dsimp only
  with_reducible repeat' first
    | assumption | refine keep_ite ?_ ?_ | refine keep_itePair ?_ ?_ | apply keep_forAll | refine keep_modRdo ?_
    | refine keep_discard ?_ | refine keep_statCommit ?_ | refine keep_forAll ?_ ?_ | intro _

theorem keep_setKey {b k : Nat} {x : KeySt} (hK : Keep s0 s) : Keep s0 (setKey b k x s) := by
  unfold setKey
  try dsimp only
  with_reducible repeat' first | assumption | refine keep_modTile ?_

theorem keep_byDecision {b : Nat} {d : Decision} (h : Keep s0 s) : Keep s0 (byDecision b d s).2 :=
  keep_incSat h

theorem keep_byDefault {b k : Nat} {m : Word} (h : Keep s0 s) : Keep s0 (byDefault b k m s).2 :=
  keep_setKey (keep_irqBit (keep_incSat h))

theorem keep_keyResolve {b : Nat} {w : Wait} (h : Keep s0 s) {x : Res × State} (e : keyResolve b w s = some x) : Keep s0 x.2 := by
  unfold keyResolve at e
  dsimp only at e
  split at e
  · cases e; exact keep_byDefault h
  · split at e
    · cases e; exact keep_byDefault h
    · split at e
      · cases e; exact keep_byDecision h
      · split at e
        · cases e; exact keep_byDefault h
        · cases e

theorem keep_retire {b : Nat} (hK : Keep s0 s) : Keep s0 (retire b s) := by
  unfold retire
  try dsimp only
  with_reducible repeat' first
    | assumption | refine keep_ite ?_ ?_ | refine keep_setTile ?_

theorem keep_putRes {b t : Nat} {r : Res} (hK : Keep s0 s) : Keep s0 (putRes b t r s) := by
  unfold putRes
  try dsimp only
  with_reducible repeat' first
    | assumption | refine keep_ite ?_ ?_ | refine keep_retire ?_ | refine keep_modTile ?_

theorem keep_flowKnown {b addr tw at_ : Nat} {w : MWord} {r : Res} (hK : Keep s0 s) : Keep s0 (flowKnown b addr tw at_ w r s) := by
  unfold flowKnown
  try dsimp only
  with_reducible repeat' first
    | assumption | refine keep_ite ?_ ?_ | refine keep_putRes ?_ | refine keep_modTile ?_

theorem keep_keyDone {b : Nat} {w : Wait} {r : Res} {at_ : Nat} (hK : Keep s0 s) : Keep s0 (keyDone b w r at_ s) := by
  unfold keyDone
  try dsimp only
  with_reducible repeat' first
    | assumption | refine keep_ite ?_ ?_ | refine keep_modTile ?_ | refine keep_putF ?_ | refine keep_flowKnown ?_

theorem keep_retryKey {b extra : Nat} (h : Keep s0 s) : Keep s0 (retryKey b extra s) := by
  unfold retryKey
  split
  · refine keep_ite ?_ h
    split
    · rename_i e; exact keep_keyDone (keep_keyResolve h e)
    · exact h
  · exact h

theorem keep_deliverKey {b k f : Nat} {d : Decision} (hK : Keep s0 s) : Keep s0 (deliverKey b k f d s) := by
  unfold deliverKey
  try dsimp only
  with_reducible repeat' first
    | assumption | refine keep_ite ?_ ?_ | refine keep_retryKey ?_ | refine keep_irqBit ?_ | refine keep_incSat ?_
    | refine keep_errRec ?_ | refine keep_setKey ?_ | split

theorem keep_doneAct {b t : Nat} {a : Act} (hK : Keep s0 s) : Keep s0 (doneAct b t a s) := by
  unfold doneAct
  try dsimp only
  with_reducible repeat' first
    | assumption | refine keep_ite ?_ ?_ | refine keep_retire ?_ | refine keep_modTile ?_

theorem keep_withAct {b : Nat} {a : Act} {g : REntry → State → State} (hg : ∀ x0 t, Keep s0 t → Keep s0 (g x0 t)) (hK : Keep s0 s) : Keep s0 (withAct b a g s) := by
  unfold withAct
  with_reducible repeat' first | assumption | refine keep_doneAct ?_ | apply hg | intro _ | split

theorem keep_wordRec {b code addr field : Nat} (hK : Keep s0 s) : Keep s0 (wordRec b code addr field s) := by
  unfold wordRec
  with_reducible repeat' first | assumption | refine keep_errRec ?_

theorem keep_gapViolate {b addr field : Nat} (hK : Keep s0 s) : Keep s0 (gapViolate b addr field s) := by
  unfold gapViolate
  try dsimp only
  with_reducible repeat' first
    | assumption | refine keep_wordRec ?_ | refine keep_modTile ?_

theorem keep_setPauli {b t x z : Nat} (hK : Keep s0 s) : Keep s0 (setPauli b t x z s) := by
  unfold setPauli
  try dsimp only
  with_reducible repeat' first
    | assumption | refine keep_putF ?_ | refine keep_modTile ?_

theorem keep_keepGeometry {b f : Nat} (hK : Keep s0 s) : Keep s0 (keepGeometry b f s) := by
  unfold keepGeometry
  try dsimp only
  with_reducible repeat' first
    | assumption | refine keep_ite ?_ ?_ | refine keep_modRdo ?_

theorem keep_showWins {b : Nat} (hK : Keep s0 s) : Keep s0 (showWins b s) := by
  unfold showWins
  try dsimp only
  with_reducible repeat' first
    | assumption | apply keep_forAll | refine keep_putF ?_ | refine keep_forAll ?_ ?_ | intro _

theorem keep_dropSets {b : Nat} (hK : Keep s0 s) : Keep s0 (dropSets b s) := by
  unfold dropSets
  try dsimp only
  with_reducible repeat' first
    | assumption | refine keep_showWins ?_ | refine keep_modRdo ?_

theorem keep_abandonWins {b f : Nat} (hK : Keep s0 s) : Keep s0 (abandonWins b f s) := by
  unfold abandonWins
  try dsimp only
  with_reducible repeat' first
    | assumption | refine keep_ite ?_ ?_ | refine keep_dropSets ?_ | refine keep_modRdo ?_

theorem keep_fresetDue {b f : Nat} (hK : Keep s0 s) : Keep s0 (fresetDue b f s) := by
  unfold fresetDue
  try dsimp only
  with_reducible repeat' first
    | assumption | refine keep_ite ?_ ?_ | refine keep_modTile ?_ | refine keep_setPauli ?_

theorem keep_noteIl {b f : Nat} (hK : Keep s0 s) : Keep s0 (noteIl b f s) := by
  unfold noteIl
  try dsimp only
  with_reducible repeat' first
    | assumption | refine keep_ite ?_ ?_ | refine keep_modRdo ?_

theorem keep_boundary {b f : Nat} {snap : SMap Word} {st : Staged} {normal : Bool} (hK : Keep s0 s) : Keep s0 (boundary b f snap st normal s) := by
  unfold boundary
  try dsimp only
  with_reducible repeat' first
    | assumption | refine keep_ite ?_ ?_ | refine keep_itePair ?_ ?_ | refine keep_keepGeometry ?_
    | refine keep_statsClose ?_ | refine keep_shotStatus ?_ | refine keep_commitWords ?_ | refine keep_calCommit ?_
    | refine keep_swapBuffers ?_ | refine keep_putF ?_ | refine keep_noteIl ?_ | refine keep_fresetDue ?_
    | refine keep_modTile ?_

theorem keep_nextShot {b : Nat} (hK : Keep s0 s) : Keep s0 (nextShot b s) := by
  unfold nextShot
  with_reducible repeat' first | assumption | refine keep_putPair ?_

theorem keep_shotBoundary {b : Nat} {e : REntry} (hK : Keep s0 s) : Keep s0 (shotBoundary b e s) := by
  unfold shotBoundary
  try dsimp only
  with_reducible repeat' first
    | assumption | refine keep_ite ?_ ?_ | refine keep_nextShot ?_ | refine keep_boundary ?_ | refine keep_modRdo ?_
    | refine keep_deviceCommit ?_

theorem keep_enterStopped {b target : Nat} (hK : Keep s0 s) : Keep s0 (enterStopped b target s) := by
  unfold enterStopped
  try dsimp only
  with_reducible repeat' first
    | assumption | refine keep_ite ?_ ?_ | apply keep_forAll | refine keep_notePage ?_ | refine keep_putF ?_
    | refine keep_irqBit ?_ | refine keep_modTile ?_ | refine keep_setFlux ?_ | refine keep_settle ?_
    | refine keep_swapBuffers ?_ | refine keep_calCommit ?_ | refine keep_commitWords ?_ | refine keep_forAll ?_ ?_
    | intro _

theorem keep_stopTile {b f target cause : Nat} (hK : Keep s0 s) : Keep s0 (stopTile b f target cause s) := by
  unfold stopTile
  try dsimp only
  with_reducible repeat' first
    | assumption | refine keep_ite ?_ ?_ | apply keep_forAll | refine keep_modTile ?_ | refine keep_putF ?_
    | refine keep_raiseMark ?_ | refine keep_abandonWins ?_ | refine keep_modRdo ?_ | refine keep_boundary ?_
    | refine keep_deviceCommit ?_ | refine keep_forAll ?_ ?_ | intro _

theorem keep_abortTile {b f cause : Nat} (hK : Keep s0 s) : Keep s0 (abortTile b f cause s) := by
  unfold abortTile
  try dsimp only
  with_reducible repeat' first
    | assumption | refine keep_ite ?_ ?_ | apply keep_forAll | refine keep_modTile ?_ | refine keep_putF ?_
    | refine keep_stepsFrom ?_ | refine keep_enterStopped ?_ | refine keep_deviceCommit ?_ | refine keep_stopTile ?_
    | refine keep_forAll ?_ ?_ | intro _

theorem keep_rampDone {b : Nat} (hK : Keep s0 s) : Keep s0 (rampDone b s) := by
  unfold rampDone
  try dsimp only
  with_reducible repeat' first | assumption | refine keep_stepsFrom ?_ | refine keep_enterStopped ?_ | split

theorem keep_refetchWord {b w : Nat} (hK : Keep s0 s) : Keep s0 (refetchWord b w s) := by
  unfold refetchWord
  try dsimp only
  with_reducible repeat' first
    | assumption | refine keep_ite ?_ ?_ | apply keep_forAll | refine keep_modTile ?_ | refine keep_setLine ?_
    | refine keep_forAll ?_ ?_ | intro _

theorem keep_refetched {a : Nat} (hK : Keep s0 s) : Keep s0 (refetched a s) := by
  unfold refetched
  try dsimp only
  with_reducible repeat' first
    | assumption | refine keep_ite ?_ ?_ | apply keep_forAll | refine keep_modTile ?_ | refine keep_putF ?_
    | refine keep_forAll ?_ ?_ | intro _

theorem keep_machineCheck {b w quarters : Nat} (hK : Keep s0 s) : Keep s0 (machineCheck b w quarters s) := by
  unfold machineCheck
  try dsimp only
  with_reducible repeat' first
    | assumption | refine keep_ite ?_ ?_ | apply keep_forAll | refine keep_detectLine ?_ | refine keep_putF ?_
    | refine keep_irqBit ?_ | refine keep_incSat ?_ | refine keep_errRec ?_ | refine keep_urge ?_
    | refine keep_mapOut ?_ | refine keep_stopTile ?_ | refine keep_refetchWord ?_ | refine keep_forAll ?_ ?_
    | intro _

theorem keep_raiseSrc {src : Nat} (hK : Keep s0 s) : Keep s0 (raiseSrc src s) := by
  unfold raiseSrc
  with_reducible repeat' first | assumption | (apply keep_mk; refine keep_fold ?_)

theorem keep_raiseFlag {b m : Nat} (hK : Keep s0 s) : Keep s0 (raiseFlag b m s) := by
  unfold raiseFlag
  try dsimp only
  with_reducible repeat' first
    | assumption | refine keep_raiseSrc ?_ | refine keep_modTile ?_

theorem keep_setUnarmed {n : Nat} {b : Bool} (hK : Keep s0 s) : Keep s0 (setUnarmed n b s) := by
  unfold setUnarmed
  with_reducible repeat' first | assumption | refine keep_putF ?_

theorem keep_showTrip {n : Nat} (hK : Keep s0 s) : Keep s0 (showTrip n s) := by
  unfold showTrip
  with_reducible repeat' first | assumption | refine keep_putF ?_

theorem keep_latch {n : Nat} {f : Fld} (hK : Keep s0 s) : Keep s0 (latch n f s) := by
  unfold latch
  try dsimp only
  with_reducible repeat' first
    | assumption | refine keep_ite ?_ ?_ | refine keep_showTrip ?_ | refine keep_putF ?_ | refine keep_raiseSrc ?_
    | refine keep_irqBit ?_

theorem keep_monFresh {n : Nat} (hK : Keep s0 s) : Keep s0 (monFresh n s) := by
  unfold monFresh
  with_reducible repeat' first | assumption | refine keep_setUnarmed ?_ | refine keep_putF ?_

theorem keep_monTrip {n c : Nat} (hK : Keep s0 s) : Keep s0 (monTrip n c s) := by
  unfold monTrip
  try dsimp only
  with_reducible repeat' first
    | assumption | refine keep_ite ?_ ?_ | refine keep_latch ?_ | refine keep_putF ?_ | intro _
    | (apply keep_mk; refine keep_fold ?_)

theorem keep_rampStart {n : Nat} (hK : Keep s0 s) : Keep s0 (rampStart n s) := by
  unfold rampStart
  with_reducible repeat' first | assumption | refine keep_ite ?_ ?_ | refine keep_putF ?_

theorem keep_monClear {n : Nat} (hK : Keep s0 s) : Keep s0 (monClear n s) := by
  unfold monClear
  with_reducible repeat' first | assumption | refine keep_ite ?_ ?_ | refine keep_showTrip ?_ | refine keep_putF ?_

theorem keep_setPend {n : Nat} {b : Bool} (hK : Keep s0 s) : Keep s0 (setPend n b s) := by
  unfold setPend
  with_reducible repeat' first | assumption | refine keep_putF ?_

theorem keep_driveClear  (hK : Keep s0 s) : Keep s0 (driveClear s) := by
  unfold driveClear
  try dsimp only
  with_reducible repeat' first
    | assumption | refine keep_ite ?_ ?_ | apply keep_forAll | refine keep_putF ?_ | refine keep_forAll ?_ ?_
    | intro _

theorem keep_strobeOne {g n : Nat} (hK : Keep s0 s) : Keep s0 (strobeOne g n s) := by
  unfold strobeOne
  try dsimp only
  with_reducible repeat' first
    | assumption | refine keep_ite ?_ ?_ | refine keep_putF ?_ | refine keep_setPend ?_ | refine keep_rampStart ?_
    | refine keep_irqBit ?_ | refine keep_errRec ?_

theorem keep_strobe {g : Nat} (hK : Keep s0 s) : Keep s0 (strobe g s) := by
  unfold strobe
  try dsimp only
  with_reducible repeat' first
    | assumption | refine keep_ite ?_ ?_ | apply keep_forAll | refine keep_strobeOne ?_ | refine keep_forAll ?_ ?_
    | intro _

theorem keep_writeCode {n code : Nat} (hK : Keep s0 s) : Keep s0 (writeCode n code s) := by
  unfold writeCode
  try dsimp only
  with_reducible repeat' first
    | assumption | refine keep_setPend ?_ | refine keep_putF ?_ | (apply keep_mk; refine keep_fold ?_)

theorem keep_setLimit {n : Nat} {on : Bool} (hK : Keep s0 s) : Keep s0 (setLimit n on s) := by
  unfold setLimit
  with_reducible repeat' first | assumption | refine keep_putF ?_

theorem keep_rangeChange {n : Nat} (hK : Keep s0 s) : Keep s0 (rangeChange n s) := by
  unfold rangeChange
  try dsimp only
  with_reducible repeat' first
    | assumption | refine keep_setLimit ?_ | refine keep_putF ?_ | intro _ | (apply keep_mk; refine keep_fold ?_)

theorem keep_rangeThaw  (hK : Keep s0 s) : Keep s0 (rangeThaw s) := by
  unfold rangeThaw
  with_reducible repeat' first
    | assumption | apply keep_forAll | refine keep_rangeChange ?_ | refine keep_forAll ?_ ?_ | intro _
    | (apply keep_mk; refine keep_fold ?_)

theorem keep_bbmDone {n : Nat} (hK : Keep s0 s) : Keep s0 (bbmDone n s) := by
  unfold bbmDone
  try dsimp only
  with_reducible repeat' first
    | assumption | refine keep_ite ?_ ?_ | refine keep_putF ?_ | refine keep_irqBit ?_ | refine keep_monFresh ?_
    | refine keep_rampStart ?_ | (apply keep_mk; refine keep_fold ?_)

theorem keep_biasInit  (hK : Keep s0 s) : Keep s0 (biasInit s) := by
  unfold biasInit
  with_reducible repeat' first | assumption | (apply keep_mk; refine keep_fold ?_)

theorem keep_patCommit  (hK : Keep s0 s) : Keep s0 (patCommit s) := by
  unfold patCommit
  try dsimp only
  with_reducible repeat' first | assumption | refine keep_ite ?_ ?_ | refine keep_commitWords ?_

theorem keep_setJump {j : Option (Nat × Nat)} {src : Nat} (hK : Keep s0 s) : Keep s0 (setJump j src s) := by
  unfold setJump
  with_reducible repeat' first | assumption | refine keep_putF ?_ | (apply keep_mk; refine keep_fold ?_)

theorem keep_patEnd  (hK : Keep s0 s) : Keep s0 (patEnd s) := by
  unfold patEnd
  try dsimp only
  with_reducible repeat' first
    | assumption | refine keep_setJump ?_ | refine keep_irqBit ?_ | refine keep_putF ?_ | refine keep_noteWas ?_
    | refine keep_patCommit ?_ | intro _ | (apply keep_mk; refine keep_fold ?_)

theorem keep_patAbort  (hK : Keep s0 s) : Keep s0 (patAbort s) := by
  unfold patAbort
  with_reducible repeat' first | assumption | refine keep_ite ?_ ?_ | refine keep_patEnd ?_

theorem keep_segBegin {k t : Nat} (hK : Keep s0 s) : Keep s0 (segBegin k t s) := by
  unfold segBegin
  try dsimp only
  with_reducible repeat' first
    | assumption | refine keep_ite ?_ ?_ | refine keep_putF ?_ | refine keep_irqBit ?_ | refine keep_errRec ?_
    | refine keep_passEnd ?_ | refine keep_patEnd ?_ | (apply keep_mk; refine keep_fold ?_)

theorem keep_picotStart {t : Nat} (hK : Keep s0 s) : Keep s0 (picotStart t s) := by
  unfold picotStart
  try dsimp only
  with_reducible repeat' first | assumption | intro _ | (apply keep_mk; refine keep_fold ?_)

theorem keep_patStart {t : Nat} (hK : Keep s0 s) : Keep s0 (patStart t s) := by
  unfold patStart
  try dsimp only
  with_reducible repeat' first
    | assumption | refine keep_ite ?_ ?_ | apply keep_forAll | refine keep_putF ?_ | refine keep_segBegin ?_
    | refine keep_picotStart ?_ | refine keep_forAll ?_ ?_ | intro _ | (apply keep_mk; refine keep_fold ?_)

theorem keep_patOver  (hK : Keep s0 s) : Keep s0 (patOver s) := by
  unfold patOver
  with_reducible repeat' first | assumption | refine keep_errRec ?_ | refine keep_irqBit ?_ | refine keep_putF ?_

theorem keep_patTrigger {f : Nat} (hK : Keep s0 s) : Keep s0 (patTrigger f s) := by
  unfold patTrigger
  with_reducible repeat' first | assumption | refine keep_ite ?_ ?_ | refine keep_patOver ?_ | refine keep_patStart ?_

theorem keep_jumpReq {k src f : Nat} (hK : Keep s0 s) : Keep s0 (jumpReq k src f s) := by
  unfold jumpReq
  try dsimp only
  with_reducible repeat' first
    | assumption | refine keep_ite ?_ ?_ | refine keep_errRec ?_ | refine keep_irqBit ?_ | refine keep_incSat ?_
    | refine keep_setJump ?_ | split

theorem keep_jumpWrite {k : Nat} (hK : Keep s0 s) : Keep s0 (jumpWrite k s) := by
  unfold jumpWrite
  with_reducible repeat' first | assumption | refine keep_ite ?_ ?_ | (apply keep_mk; refine keep_fold ?_)

theorem keep_registerJumps  (hK : Keep s0 s) : Keep s0 (registerJumps s) := by
  unfold registerJumps
  try dsimp only
  with_reducible repeat' first
    | assumption | refine keep_ite ?_ ?_ | refine keep_itePair ?_ ?_ | apply keep_forAll | refine keep_jumpReq ?_
    | refine keep_forAll ?_ ?_ | intro _ | (apply keep_mk; refine keep_fold ?_)

theorem keep_passEnd  (hK : Keep s0 s) : Keep s0 (passEnd s) := by
  unfold passEnd
  try dsimp only
  with_reducible repeat' first
    | assumption | refine keep_ite ?_ ?_ | refine keep_itePair ?_ ?_ | refine keep_incSat ?_ | refine keep_patEnd ?_
    | refine keep_patCommit ?_ | refine keep_segBegin ?_ | refine keep_setJump ?_ | refine keep_picotStart ?_
    | intro _ | split | (apply keep_mk; refine keep_fold ?_)

theorem keep_patFreeze  (hK : Keep s0 s) : Keep s0 (patFreeze s) := by
  unfold patFreeze
  with_reducible repeat' first
    | assumption | refine keep_ite ?_ ?_ | refine keep_putF ?_ | (apply keep_mk; refine keep_fold ?_)

theorem keep_patThaw  (hK : Keep s0 s) : Keep s0 (patThaw s) := by
  unfold patThaw
  try dsimp only
  with_reducible repeat' first
    | assumption | refine keep_ite ?_ ?_ | refine keep_passEnd ?_ | intro _ | split
    | (apply keep_mk; refine keep_fold ?_)

end Sys2Proof.Machine
end

