-- ==== Sys2Proof/Laws/KeepSystem.lean ====
section
/-!
SUPPORT. What every operation keeps (Laws/Keep.lean): the NVS, the start logic, discovery and routes, live calibration, the Sampler and the thermal loop.
-/
namespace Sys2Proof.Machine

variable {s0 s : State}

theorem keep_hostWrite {a : Nat} {bs : List Byte} (hK : Keep s0 s) : Keep s0 (hostWrite a bs s) := by
  unfold hostWrite
  with_reducible repeat' first | assumption | refine keep_ite ?_ ?_ | (apply keep_mk; refine keep_fold ?_)

theorem keep_showNvs  (hK : Keep s0 s) : Keep s0 (showNvs s) := by
  unfold showNvs
  with_reducible repeat' first | assumption | refine keep_putF ?_

theorem keep_nvsPut {a : Nat} {l : List Byte} (h : Keep s0 s) : Keep s0 (nvsPut a l s) := by
  induction l generalizing a s with
  | nil => exact h
  | cons v l ih => exact ih (s := { s with hoop := _ }) h

theorem keep_journal {tgt : Nat} {bs : List Byte} {cmd first : Bool} (hK : Keep s0 s) : Keep s0 (journal tgt bs cmd first s) := by
  unfold journal
  try dsimp only
  with_reducible repeat' first
    | assumption | refine keep_ite ?_ ?_ | refine keep_showNvs ?_ | intro _ | (apply keep_mk; refine keep_fold ?_)

theorem keep_logEntry {page code sev : Nat} {info addr : Word} {detail : Nat} {first : Bool} (hK : Keep s0 s) : Keep s0 (logEntry page code sev info addr detail first s) := by
  unfold logEntry
  try dsimp only
  with_reducible repeat' first
    | assumption | refine keep_ite ?_ ?_ | refine keep_journal ?_ | refine keep_incWrap ?_ | refine keep_incSat ?_

theorem keep_respond {status : Nat} {payload : List Byte} (hK : Keep s0 s) : Keep s0 (respond status payload s) := by
  unfold respond
  try dsimp only
  with_reducible repeat' first
    | assumption | refine keep_ite ?_ ?_ | refine keep_hostWrite ?_ | refine keep_putF ?_ | refine keep_sendVec ?_
    | split | (apply keep_mk; refine keep_fold ?_)

theorem keep_unitDone  (hK : Keep s0 s) : Keep s0 (unitDone s) := by
  unfold unitDone
  try dsimp only
  with_reducible repeat' first | assumption | refine keep_putF ?_ | split | (apply keep_mk; refine keep_fold ?_)

theorem keep_dropCmd  (hK : Keep s0 s) : Keep s0 (dropCmd s) := by
  unfold dropCmd
  try dsimp only
  with_reducible repeat' first | assumption | intro _ | (apply keep_mk; refine keep_fold ?_)

theorem keep_smbAlert  (hK : Keep s0 s) : Keep s0 (smbAlert s) := by
  unfold smbAlert
  with_reducible repeat' first | assumption | (apply keep_mk; refine keep_fold ?_)

theorem keep_setHealth {code : Nat} (hK : Keep s0 s) : Keep s0 (setHealth code s) := by
  unfold setHealth
  try dsimp only
  with_reducible repeat' first
    | assumption | refine keep_ite ?_ ?_ | refine keep_irqBit ?_ | refine keep_putF ?_ | refine keep_errRec ?_
    | refine keep_smbAlert ?_ | refine keep_logEntry ?_

theorem keep_healthEval  (hK : Keep s0 s) : Keep s0 (healthEval s) := by
  unfold healthEval
  try dsimp only
  with_reducible repeat' first | assumption | refine keep_ite ?_ ?_ | refine keep_putF ?_ | refine keep_setHealth ?_

theorem keep_mapOut {b reason : Nat} (hK : Keep s0 s) : Keep s0 (mapOut b reason s) := by
  unfold mapOut
  try dsimp only
  with_reducible repeat' first
    | assumption | refine keep_ite ?_ ?_ | refine keep_abortTile ?_ | refine keep_putF ?_ | refine keep_loseTile ?_
    | refine keep_irqBit ?_ | refine keep_errRec ?_ | (apply keep_mk; refine keep_fold ?_)

theorem keep_mapIn {b : Nat} (hK : Keep s0 s) : Keep s0 (mapIn b s) := by
  unfold mapIn
  try dsimp only
  with_reducible repeat' first
    | assumption | refine keep_putF ?_ | refine keep_restoreSlots ?_ | refine keep_irqBit ?_ | refine keep_errRec ?_
    | (apply keep_mk; refine keep_fold ?_)

theorem smSorted_map {α : Type} {g : Nat × α → Nat × α} (hg : ∀ e, (g e).1 = e.1) {m : SMap α} (h : smSorted m = true) :
    smSorted (m.map g) = true := by
  induction m with
  | nil => rfl
  | cons e m ih =>
    obtain ⟨i, v⟩ := e
    have h1 : (g (i, v)) = (i, (g (i, v)).2) := Prod.ext (hg _) rfl
    rw [List.map_cons, h1]
    refine smSorted_cons (ih (smSorted_tail h)) (fun e he => ?_)
    obtain ⟨f, hf, rfl⟩ := List.mem_map.1 he
    rw [hg]
    exact smSorted_head h f hf

theorem keep_resetRegs {hit : Nat → Bool} {keep : Nat → Word} (h : Keep s0 s) : Keep s0 (resetRegs hit keep s) := by
  refine ⟨h.1, h.2.1, fun i => ?_⟩
  obtain ⟨h1, h2, h3, h4⟩ := h.2.2 i
  refine ⟨h1, h2, h3, ?_⟩
  simp only [smWf, Bool.and_eq_true] at h4
  simp only [resetRegs, smWf, smLean, Bool.and_eq_true, List.all_eq_true]
  refine ⟨smSorted_filter (smSorted_map (fun e => by split <;> rfl) h4.1), fun e he => ?_⟩
  simpa using (List.mem_filter.1 he).2

theorem keep_resetPage {p : Nat} (hK : Keep s0 s) : Keep s0 (resetPage p s) := by
  unfold resetPage
  try dsimp only
  with_reducible repeat' first | assumption | refine keep_resetRegs ?_ | intro _ | split

theorem keep_stopDma  (hK : Keep s0 s) : Keep s0 (stopDma s) := by
  unfold stopDma
  try dsimp only
  with_reducible repeat' first | assumption | intro _ | (apply keep_mk; refine keep_fold ?_)

theorem keep_linkDown {cause : Nat} (hK : Keep s0 s) : Keep s0 (linkDown cause s) := by
  unfold linkDown
  try dsimp only
  with_reducible repeat' first
    | assumption | refine keep_resetPage ?_ | refine keep_stopDma ?_ | refine keep_resetRegs ?_
    | refine keep_irqBit ?_ | refine keep_errRec ?_

theorem keep_applyReset {cause : Nat} {warm : Bool} (h : Keep s0 s) : Keep s0 (applyReset cause warm s) := by
  have hn : ∀ t : State, t.variant = s.variant → t.pending = s.pending → t.regs = s.regs → t.errs = [] → t.mem = s.mem →
      t.esc = [] → Keep s0 t := by
    intro t hv hq hr he hm hx
    refine ⟨hv.trans h.1, hq.trans h.2.1, fun i => ?_⟩
    obtain ⟨_, _, h3, h4⟩ := h.2.2 i
    refine ⟨by simp [hx], fun p => by simp [he, smGet, smFind], by rw [hm]; exact h3, by rw [hr]; exact h4⟩
  unfold applyReset
  dsimp only
  with_reducible repeat' first
    | refine keep_smbAlert ?_ | refine keep_ite ?_ ?_ | refine keep_putF ?_ | refine keep_forAll ?_ ?_ | refine keep_resetRegs ?_
    | assumption | intro _
  all_goals exact hn _ rfl rfl rfl rfl rfl rfl

theorem keep_requestStart {cause : Nat} {warm : Bool} (hK : Keep s0 s) : Keep s0 (requestStart cause warm s) := by
  unfold requestStart
  try dsimp only
  with_reducible repeat' first
    | assumption | refine keep_ite ?_ ?_ | apply keep_forAll | refine keep_abortTile ?_ | refine keep_portDown ?_
    | refine keep_dropCmd ?_ | refine keep_forAll ?_ ?_ | intro _ | (apply keep_mk; refine keep_fold ?_)

theorem keep_showStartMs  (hK : Keep s0 s) : Keep s0 (showStartMs s) := by
  unfold showStartMs
  with_reducible repeat' first | assumption | refine keep_putF ?_

theorem keep_failRecords  (hK : Keep s0 s) : Keep s0 (failRecords s) := by
  unfold failRecords
  try dsimp only
  with_reducible repeat' first
    | assumption | refine keep_ite ?_ ?_ | apply keep_forAll | refine keep_irqBit ?_ | refine keep_errRec ?_
    | refine keep_forAll ?_ ?_ | intro _ | (apply keep_mk; refine keep_fold ?_)

theorem keep_powerDown {b : Nat} (hK : Keep s0 s) : Keep s0 (powerDown b s) := by
  unfold powerDown
  try dsimp only
  with_reducible repeat' first
    | assumption | apply keep_forAll | refine keep_putF ?_ | refine keep_forAll ?_ ?_ | intro _ | split

theorem keep_enterSafe  (hK : Keep s0 s) : Keep s0 (enterSafe s) := by
  unfold enterSafe
  try dsimp only
  with_reducible repeat' first
    | assumption | refine keep_ite ?_ ?_ | apply keep_forAll | refine keep_putF ?_ | refine keep_portDown ?_
    | refine keep_powerDown ?_ | refine keep_irqBit ?_ | refine keep_errRec ?_ | refine keep_showStartMs ?_
    | refine keep_smbAlert ?_ | refine keep_failRecords ?_ | refine keep_forAll ?_ ?_ | intro _
    | (apply keep_mk; refine keep_fold ?_)

theorem keep_startFail {code : Nat} (hK : Keep s0 s) : Keep s0 (startFail code s) := by
  unfold startFail
  try dsimp only
  with_reducible repeat' first
    | assumption | refine keep_ite ?_ ?_ | refine keep_incSat ?_ | refine keep_putF ?_ | refine keep_logEntry ?_
    | refine keep_enterSafe ?_ | (apply keep_mk; refine keep_fold ?_)

theorem keep_lossOfLock  (hK : Keep s0 s) : Keep s0 (lossOfLock s) := by
  unfold lossOfLock
  try dsimp only
  with_reducible repeat' first
    | assumption | refine keep_ite ?_ ?_ | apply keep_forAll | refine keep_calDropShadows ?_ | refine keep_incSat ?_
    | refine keep_putF ?_ | refine keep_errRec ?_ | refine keep_irqBit ?_ | refine keep_stopTile ?_
    | refine keep_abortTile ?_ | refine keep_modTile ?_ | refine keep_patAbort ?_ | refine keep_startFail ?_
    | refine keep_forAll ?_ ?_ | intro _ | (apply keep_mk; refine keep_fold ?_)

theorem keep_bumpMseq  (hK : Keep s0 s) : Keep s0 (bumpMseq s) := by
  unfold bumpMseq
  with_reducible repeat' first | assumption | (apply keep_mk; refine keep_fold ?_)

theorem keep_sendPort {n chan type dst : Nat} {body : List Byte} (hK : Keep s0 s) : Keep s0 (sendPort n chan type dst body s) := by
  unfold sendPort
  with_reducible repeat' first | assumption | refine keep_bumpMseq ?_ | refine keep_sendMsg ?_

theorem keep_sendFlood {chan type : Nat} {body : List Byte} (hK : Keep s0 s) : Keep s0 (sendFlood chan type body s) := by
  unfold sendFlood
  try dsimp only
  with_reducible repeat' first
    | assumption | apply keep_forAll | refine keep_bumpMseq ?_ | refine keep_sendMsg ?_ | refine keep_forAll ?_ ?_
    | intro _

theorem keep_sendNum {num chan type : Nat} {body : List Byte} (hK : Keep s0 s) : Keep s0 (sendNum num chan type body s) := by
  unfold sendNum
  try dsimp only
  with_reducible repeat' first | assumption | refine keep_sendPort ?_ | split

theorem keep_passOn {ports : List Nat} {chan : Nat} {bs : List Byte} (hK : Keep s0 s) : Keep s0 (passOn ports chan bs s) := by
  unfold passOn
  try dsimp only
  with_reducible repeat' first
    | assumption | refine keep_ite ?_ ?_ | apply keep_forAll | refine keep_incSat ?_ | refine keep_sendMsg ?_
    | refine keep_forAll ?_ ?_ | intro _

theorem keep_takeMsg {n type : Nat} {x : (Nat × List Byte) × State} (h : Keep s0 s) (e : takeMsg n type s = some x) :
    Keep s0 x.2 := by
  unfold takeMsg at e
  split at e
  · cases e
  · cases e; exact keep_modPort h

theorem keep_onMsg {n type : Nat} {g : List Byte → State → State} (hg : ∀ bs t, Keep s0 t → Keep s0 (g bs t)) (h : Keep s0 s) :
    Keep s0 (onMsg n type g s) := by
  unfold onMsg
  refine keep_ite h ?_
  split
  · exact h
  · rename_i e
    have h1 := keep_takeMsg h e
    dsimp only
    with_reducible repeat' first | exact h1 | refine keep_ite ?_ ?_ | refine hg _ _ ?_ | refine keep_passOn ?_

theorem keep_rqUndo {q : RqState} (hK : Keep s0 s) : Keep s0 (rqUndo q s) := by
  unfold rqUndo
  try dsimp only
  with_reducible repeat' first
    | assumption | refine keep_ite ?_ ?_ | refine keep_stageRoute ?_ | refine keep_withdrawSlot ?_ | intro _ | split

theorem keep_rqFail {key : Nat} {q : RqState} {result : Nat} (hK : Keep s0 s) : Keep s0 (rqFail key q result s) := by
  unfold rqFail
  try dsimp only
  with_reducible repeat' first
    | assumption | refine keep_ite ?_ ?_ | apply keep_forAll | refine keep_rqUndo ?_ | refine keep_sendNum ?_
    | refine keep_putF ?_ | refine keep_errRec ?_ | refine keep_irqBit ?_ | refine keep_forAll ?_ ?_ | intro _
    | (apply keep_mk; refine keep_fold ?_)

theorem keep_rqRefuse {key slot result : Nat} (hK : Keep s0 s) : Keep s0 (rqRefuse key slot result s) := by
  unfold rqRefuse
  try dsimp only
  with_reducible repeat' first | assumption | refine keep_putF ?_ | refine keep_errRec ?_ | refine keep_irqBit ?_

theorem keep_showPart {who : Requester} (hK : Keep s0 s) : Keep s0 (showPart who s) := by
  unfold showPart
  try dsimp only
  with_reducible repeat' first | assumption | refine keep_putF ?_

theorem keep_rqDone {key : Nat} {q : RqState} (hK : Keep s0 s) : Keep s0 (rqDone key q s) := by
  unfold rqDone
  try dsimp only
  with_reducible repeat' first
    | assumption | refine keep_ite ?_ ?_ | refine keep_showPart ?_ | refine keep_putF ?_ | refine keep_irqBit ?_
    | intro _ | (apply keep_mk; refine keep_fold ?_)

theorem keep_rqCommit {key : Nat} {q : RqState} (hK : Keep s0 s) : Keep s0 (rqCommit key q s) := by
  unfold rqCommit
  try dsimp only
  with_reducible repeat' first
    | assumption | refine keep_ite ?_ ?_ | apply keep_forAll | refine keep_stageRoute ?_ | refine keep_sendNum ?_
    | refine keep_rqDone ?_ | refine keep_forAll ?_ ?_ | intro _ | (apply keep_mk; refine keep_fold ?_)

theorem keep_rqStart {key : Nat} {q : RqState} (hK : Keep s0 s) : Keep s0 (rqStart key q s) := by
  unfold rqStart
  try dsimp only
  with_reducible repeat' first
    | assumption | refine keep_ite ?_ ?_ | apply keep_forAll | refine keep_sendNum ?_ | refine keep_rqCommit ?_
    | refine keep_forAll ?_ ?_ | intro _ | (apply keep_mk; refine keep_fold ?_)

theorem keep_rqAck {key num : Nat} {q : RqState} (hK : Keep s0 s) : Keep s0 (rqAck key num q s) := by
  unfold rqAck
  try dsimp only
  with_reducible repeat' first
    | assumption | refine keep_ite ?_ ?_ | refine keep_rqDone ?_ | refine keep_rqCommit ?_ | intro _
    | (apply keep_mk; refine keep_fold ?_)

theorem keep_dropHold {h : Hold} (hK : Keep s0 s) : Keep s0 (dropHold h s) := by
  unfold dropHold
  try dsimp only
  with_reducible repeat' first
    | assumption | refine keep_ite ?_ ?_ | refine keep_withdrawSlot ?_ | intro _
    | (apply keep_mk; refine keep_fold ?_)

theorem keep_dropRoute {r : Route} (hK : Keep s0 s) : Keep s0 (dropRoute r s) := by
  unfold dropRoute
  try dsimp only
  with_reducible repeat' first
    | assumption | apply keep_forAll | refine keep_rqFail ?_ | refine keep_sendNum ?_ | refine keep_showPart ?_
    | refine keep_withdrawSlot ?_ | refine keep_forAll ?_ ?_ | intro _ | split | (apply keep_mk; refine keep_fold ?_)

theorem keep_dropAll  (hK : Keep s0 s) : Keep s0 (dropAll s) := by
  unfold dropAll
  try dsimp only
  with_reducible repeat' first
    | assumption | apply keep_forAll | refine keep_rqFail ?_ | refine keep_dropRoute ?_ | refine keep_dropHold ?_
    | refine keep_forAll ?_ ?_ | intro _

theorem keep_tellBelow {h : Hold} (hK : Keep s0 s) : Keep s0 (tellBelow h s) := by
  unfold tellBelow
  try dsimp only
  with_reducible repeat' first
    | assumption | apply keep_forAll | refine keep_sendPort ?_ | refine keep_forAll ?_ ?_ | intro _

theorem keep_servePort {n : Nat} (hK : Keep s0 s) : Keep s0 (servePort n s) := by
  unfold servePort
  try dsimp only
  with_reducible repeat' first
    | assumption | refine keep_ite ?_ ?_ | apply keep_forAll | refine keep_tellBelow ?_ | refine keep_forAll ?_ ?_
    | intro _

theorem keep_reserve {who : Requester} {ndetOk auto : Bool} (hK : Keep s0 s) : Keep s0 (reserve who ndetOk auto s) := by
  unfold reserve
  try dsimp only
  with_reducible repeat' first
    | assumption | refine keep_ite ?_ ?_ | refine keep_rqRefuse ?_ | refine keep_rqStart ?_ | split
    | (apply keep_mk; refine keep_fold ?_)

theorem keep_release {who : Requester} (hK : Keep s0 s) : Keep s0 (release who s) := by
  unfold release
  try dsimp only
  with_reducible repeat' first
    | assumption | refine keep_irqBit ?_ | refine keep_putF ?_ | refine keep_dropRoute ?_ | refine keep_useFree ?_
    | intro _ | split

theorem keep_serveRequest {k : Nat} (hK : Keep s0 s) : Keep s0 (serveRequest k s) := by
  unfold serveRequest
  try dsimp only
  with_reducible repeat' first
    | assumption | refine keep_ite ?_ ?_ | refine keep_reserve ?_ | refine keep_release ?_ | split
    | (apply keep_mk; refine keep_fold ?_)

theorem keep_chooseTime  (hK : Keep s0 s) : Keep s0 (chooseTime s) := by
  unfold chooseTime
  try dsimp only
  with_reducible repeat' first
    | assumption | refine keep_ite ?_ ?_ | refine keep_errRec ?_ | refine keep_putF ?_ | intro _ | split

theorem keep_routeCheck {r : Route} (hK : Keep s0 s) : Keep s0 (routeCheck r s) := by
  unfold routeCheck
  try dsimp only
  with_reducible repeat' first
    | assumption | refine keep_ite ?_ ?_ | refine keep_showPart ?_ | refine keep_errRec ?_ | intro _
    | (apply keep_mk; refine keep_fold ?_)

theorem keep_routeRepair {r : Route} (hK : Keep s0 s) : Keep s0 (routeRepair r s) := by
  unfold routeRepair
  try dsimp only
  with_reducible repeat' first
    | assumption | refine keep_ite ?_ ?_ | refine keep_rqStart ?_

theorem keep_repairAll  (hK : Keep s0 s) : Keep s0 (repairAll s) := by
  unfold repairAll
  with_reducible repeat' first
    | assumption | refine keep_ite ?_ ?_ | apply keep_forAll | refine keep_routeRepair ?_ | refine keep_forAll ?_ ?_
    | intro _

theorem keep_topoChanged  (hK : Keep s0 s) : Keep s0 (topoChanged s) := by
  unfold topoChanged
  try dsimp only
  with_reducible repeat' first
    | assumption | refine keep_ite ?_ ?_ | refine keep_itePair ?_ ?_ | apply keep_forAll | refine keep_irqBit ?_
    | refine keep_incWrap ?_ | refine keep_putF ?_ | refine keep_errRec ?_ | refine keep_rqFail ?_
    | refine keep_dropHold ?_ | refine keep_routeCheck ?_ | refine keep_repairAll ?_ | refine keep_chooseTime ?_
    | refine keep_forAll ?_ ?_ | intro _ | split | (apply keep_mk; refine keep_fold ?_)

theorem keep_topoEdit {g : State → State} (hg : ∀  t, Keep s0 t → Keep s0 (g  t)) (hK : Keep s0 s) : Keep s0 (topoEdit g s) := by
  unfold topoEdit
  dsimp only
  with_reducible repeat' first | assumption | refine keep_ite ?_ ?_ | refine keep_topoChanged ?_ | apply hg

theorem keep_joinAs {n : Nat} (hK : Keep s0 s) : Keep s0 (joinAs n s) := by
  unfold joinAs
  try dsimp only
  with_reducible repeat' first
    | assumption | refine keep_urge ?_ | apply keep_topoEdit | refine keep_noteWas ?_ | refine keep_putF ?_ | intro _
    | (apply keep_mk; refine keep_fold ?_)

theorem keep_numClash {uid num : Nat} (hK : Keep s0 s) : Keep s0 (numClash uid num s) := by
  unfold numClash
  try dsimp only
  with_reducible repeat' first
    | assumption | refine keep_ite ?_ ?_ | refine keep_dropAll ?_ | refine keep_errRec ?_ | refine keep_irqBit ?_
    | refine keep_putF ?_ | apply keep_topoEdit | refine keep_noteWas ?_ | intro _
    | (apply keep_mk; refine keep_fold ?_)

theorem keep_floodLsa  (hK : Keep s0 s) : Keep s0 (floodLsa s) := by
  unfold floodLsa
  try dsimp only
  with_reducible repeat' first
    | assumption | refine keep_ite ?_ ?_ | apply keep_topoEdit | refine keep_sendFlood ?_ | intro _
    | (apply keep_mk; refine keep_fold ?_)

theorem keep_skewReject {reason : Nat} (hK : Keep s0 s) : Keep s0 (skewReject reason s) := by
  unfold skewReject
  try dsimp only
  with_reducible repeat' first
    | assumption | refine keep_ite ?_ ?_ | refine keep_irqBit ?_ | refine keep_incSat ?_ | refine keep_errRec ?_
    | (apply keep_mk; refine keep_fold ?_)

theorem keep_skewPropose  (hK : Keep s0 s) : Keep s0 (skewPropose s) := by
  unfold skewPropose
  try dsimp only
  with_reducible repeat' first
    | assumption | refine keep_ite ?_ ?_ | refine keep_putF ?_ | refine keep_skewReject ?_ | refine keep_settle ?_
    | (apply keep_mk; refine keep_fold ?_)

theorem keep_showValid {b : Nat} (hK : Keep s0 s) : Keep s0 (showValid b s) := by
  unfold showValid
  try dsimp only
  with_reducible repeat' first | assumption | refine keep_putF ?_

theorem keep_putSlot {b i : Nat} {x : CalSet} (hK : Keep s0 s) : Keep s0 (putSlot b i x s) := by
  unfold putSlot
  try dsimp only
  with_reducible repeat' first
    | assumption | refine keep_showValid ?_ | refine keep_modCal ?_

theorem keep_dropSlot {b i : Nat} (hK : Keep s0 s) : Keep s0 (dropSlot b i s) := by
  unfold dropSlot
  try dsimp only
  with_reducible repeat' first
    | assumption | refine keep_showValid ?_ | refine keep_modCal ?_

theorem keep_calShadow {b : Nat} {v : List Int} {ends : Bool} (hK : Keep s0 s) : Keep s0 (calShadow b v ends s) := by
  unfold calShadow
  try dsimp only
  with_reducible repeat' first
    | assumption | refine keep_ite ?_ ?_ | refine keep_modCal ?_ | refine keep_calCommitTile ?_

theorem keep_calEval {b : Nat} {t : Int} {ends : Bool} (hK : Keep s0 s) : Keep s0 (calEval b t ends s) := by
  unfold calEval
  try dsimp only
  with_reducible repeat' first | assumption | refine keep_calShadow ?_ | split

theorem keep_putSteps {b n : Nat} (hK : Keep s0 s) : Keep s0 (putSteps b n s) := by
  unfold putSteps
  with_reducible repeat' first | assumption | refine keep_putF ?_

theorem keep_calRestart {b : Nat} (hK : Keep s0 s) : Keep s0 (calRestart b s) := by
  unfold calRestart
  try dsimp only
  with_reducible repeat' first
    | assumption | refine keep_putSteps ?_ | refine keep_modCal ?_

theorem keep_setPending {b : Nat} (hK : Keep s0 s) : Keep s0 (setPending b s) := by
  unfold setPending
  try dsimp only
  with_reducible repeat' first
    | assumption | refine keep_ite ?_ ?_ | refine keep_putF ?_ | refine keep_calRestart ?_ | refine keep_stampTimer ?_
    | refine keep_stepsFrom ?_ | refine keep_modCal ?_

theorem keep_calFreeze  (hK : Keep s0 s) : Keep s0 (calFreeze s) := by
  unfold calFreeze
  with_reducible repeat' first | assumption | refine keep_stampTimer ?_

theorem keep_calResume  (hK : Keep s0 s) : Keep s0 (calResume s) := by
  unfold calResume
  try dsimp only
  with_reducible repeat' first
    | assumption | apply keep_forAll | refine keep_shiftTimer ?_ | refine keep_modCal ?_ | refine keep_forAll ?_ ?_
    | intro _

theorem keep_snapReady  (hK : Keep s0 s) : Keep s0 (snapReady s) := by
  unfold snapReady
  try dsimp only
  with_reducible repeat' first
    | assumption | refine keep_ite ?_ ?_ | apply keep_forAll | refine keep_modCal ?_ | refine keep_forAll ?_ ?_
    | intro _

theorem keep_runTrigger {b : Nat} (hK : Keep s0 s) : Keep s0 (runTrigger b s) := by
  unfold runTrigger
  with_reducible repeat' first | assumption | refine keep_ite ?_ ?_ | refine keep_setPending ?_

theorem keep_calDropRuns  (hK : Keep s0 s) : Keep s0 (calDropRuns s) := by
  unfold calDropRuns
  try dsimp only
  with_reducible repeat' first
    | assumption | apply keep_forAll | refine keep_putF ?_ | refine keep_modCal ?_ | refine keep_calRestart ?_
    | refine keep_forAll ?_ ?_ | intro _

theorem keep_setStale {b : Nat} {v : Bool} (hK : Keep s0 s) : Keep s0 (setStale b v s) := by
  unfold setStale
  try dsimp only
  with_reducible repeat' first | assumption | refine keep_putF ?_

theorem keep_calReject {item reason b tone unit : Nat} (hK : Keep s0 s) : Keep s0 (calReject item reason b tone unit s) := by
  unfold calReject
  try dsimp only
  with_reducible repeat' first
    | assumption | refine keep_ite ?_ ?_ | refine keep_irqBit ?_ | refine keep_incSat ?_ | refine keep_errRec ?_
    | refine keep_modCal ?_

theorem keep_closeBlock {b : Nat} (hK : Keep s0 s) : Keep s0 (closeBlock b s) := by
  unfold closeBlock
  try dsimp only
  with_reducible repeat' first
    | assumption | refine keep_stampTimer ?_ | refine keep_modCal ?_

theorem keep_runDone {b : Nat} (hK : Keep s0 s) : Keep s0 (runDone b s) := by
  unfold runDone
  try dsimp only
  with_reducible repeat' first
    | assumption | refine keep_ite ?_ ?_ | refine keep_calRestart ?_ | refine keep_putF ?_ | refine keep_incSat ?_
    | refine keep_setStale ?_ | refine keep_calReject ?_ | refine keep_closeBlock ?_ | refine keep_calEval ?_
    | refine keep_putSlot ?_ | split | (apply keep_mk; refine keep_fold ?_)

theorem keep_storeStart  (hK : Keep s0 s) : Keep s0 (storeStart s) := by
  unfold storeStart
  try dsimp only
  with_reducible repeat' first
    | assumption | refine keep_ite ?_ ?_ | refine keep_nvsPut ?_ | refine keep_putF ?_ | split
    | (apply keep_mk; refine keep_fold ?_)

theorem keep_storeAuto  (hK : Keep s0 s) : Keep s0 (storeAuto s) := by
  unfold storeAuto
  try dsimp only
  with_reducible repeat' first | assumption | refine keep_ite ?_ ?_ | refine keep_storeStart ?_

theorem keep_showSampler  (hK : Keep s0 s) : Keep s0 (showSampler s) := by
  unfold showSampler
  try dsimp only
  with_reducible repeat' first | assumption | refine keep_putF ?_ | split

theorem keep_takeWork {wait : Nat} (hK : Keep s0 s) : Keep s0 (takeWork wait s) := by
  unfold takeWork
  try dsimp only
  with_reducible repeat' first
    | assumption | refine keep_ite ?_ ?_ | refine keep_itePair ?_ ?_ | refine keep_showSampler ?_ | split
    | (apply keep_mk; refine keep_fold ?_)

theorem keep_overrun {src : Nat} (hK : Keep s0 s) : Keep s0 (overrun src s) := by
  unfold overrun
  try dsimp only
  with_reducible repeat' first
    | assumption | refine keep_putF ?_ | refine keep_incSat ?_ | refine keep_errRec ?_ | refine keep_irqBit ?_

theorem keep_roundTrigger  (hK : Keep s0 s) : Keep s0 (roundTrigger s) := by
  unfold roundTrigger
  try dsimp only
  with_reducible repeat' first
    | assumption | refine keep_ite ?_ ?_ | refine keep_overrun ?_ | refine keep_takeWork ?_
    | refine keep_showSampler ?_ | (apply keep_mk; refine keep_fold ?_)

theorem keep_injTrigger {k : Nat} (hK : Keep s0 s) : Keep s0 (injTrigger k s) := by
  unfold injTrigger
  try dsimp only
  with_reducible repeat' first
    | assumption | refine keep_ite ?_ ?_ | refine keep_overrun ?_ | refine keep_takeWork ?_
    | refine keep_showSampler ?_ | (apply keep_mk; refine keep_fold ?_)

theorem keep_dropSum {i : Nat} (hK : Keep s0 s) : Keep s0 (dropSum i s) := by
  unfold dropSum
  try dsimp only
  with_reducible repeat' first | assumption | intro _ | (apply keep_mk; refine keep_fold ?_)

theorem keep_putBand {z v : Nat} (hK : Keep s0 s) : Keep s0 (putBand z v s) := by
  unfold putBand
  try dsimp only
  with_reducible repeat' first | assumption | refine keep_ite ?_ ?_ | refine keep_putF ?_

theorem keep_judgeBand {z : Nat} {t : Int} (hK : Keep s0 s) : Keep s0 (judgeBand z t s) := by
  unfold judgeBand
  try dsimp only
  with_reducible repeat' first
    | assumption | refine keep_ite ?_ ?_ | apply keep_forAll | refine keep_irqBit ?_ | refine keep_putBand ?_
    | refine keep_calEval ?_ | refine keep_forAll ?_ ?_ | intro _ | (apply keep_mk; refine keep_fold ?_)

theorem keep_showLegacy  (hK : Keep s0 s) : Keep s0 (showLegacy s) := by
  unfold showLegacy
  try dsimp only
  with_reducible repeat' first | assumption | refine keep_ite ?_ ?_ | refine keep_putF ?_

theorem keep_shutdown {cause sensor : Nat} {mx : Int} (hK : Keep s0 s) : Keep s0 (shutdown cause sensor mx s) := by
  unfold shutdown
  try dsimp only
  with_reducible repeat' first
    | assumption | refine keep_ite ?_ ?_ | apply keep_forAll | refine keep_abortTile ?_ | refine keep_incSat ?_
    | refine keep_logEntry ?_ | refine keep_putF ?_ | refine keep_requestStart ?_ | refine keep_healthEval ?_
    | refine keep_errRec ?_ | refine keep_irqBit ?_ | refine keep_forAll ?_ ?_ | intro _ | split
    | (apply keep_mk; refine keep_fold ?_)

theorem keep_roundMax  (hK : Keep s0 s) : Keep s0 (roundMax s) := by
  unfold roundMax
  try dsimp only
  with_reducible repeat' first
    | assumption | refine keep_ite ?_ ?_ | refine keep_putF ?_ | refine keep_errRec ?_ | refine keep_irqBit ?_ | split

theorem keep_sensorBroken {k : Nat} (hK : Keep s0 s) : Keep s0 (sensorBroken k s) := by
  unfold sensorBroken
  try dsimp only
  with_reducible repeat' first
    | assumption | apply keep_forAll | refine keep_putF ?_ | refine keep_errRec ?_ | refine keep_irqBit ?_
    | refine keep_urge ?_ | refine keep_mapOut ?_ | refine keep_forAll ?_ ?_ | intro _

theorem keep_diodeResult {k r : Nat} (hK : Keep s0 s) : Keep s0 (diodeResult k r s) := by
  unfold diodeResult
  try dsimp only
  with_reducible repeat' first
    | assumption | refine keep_ite ?_ ?_ | refine keep_itePair ?_ ?_ | refine keep_putF ?_
    | refine keep_sensorBroken ?_ | refine keep_showLegacy ?_ | refine keep_roundMax ?_ | refine keep_judgeBand ?_
    | refine keep_shutdown ?_ | intro _ | (apply keep_mk; refine keep_fold ?_)

theorem keep_publishPower  (hK : Keep s0 s) : Keep s0 (publishPower s) := by
  unfold publishPower
  try dsimp only
  with_reducible repeat' first
    | assumption | refine keep_ite ?_ ?_ | refine keep_putF ?_ | (apply keep_mk; refine keep_fold ?_)

theorem keep_roundDone  (hK : Keep s0 s) : Keep s0 (roundDone s) := by
  unfold roundDone
  try dsimp only
  with_reducible repeat' first
    | assumption | refine keep_ite ?_ ?_ | apply keep_forAll | refine keep_irqBit ?_ | refine keep_incWrap ?_
    | refine keep_publishPower ?_ | refine keep_errRec ?_ | refine keep_runTrigger ?_ | refine keep_forAll ?_ ?_
    | intro _ | (apply keep_mk; refine keep_fold ?_)

theorem keep_enterCode {i code : Nat} (hK : Keep s0 s) : Keep s0 (enterCode i code s) := by
  unfold enterCode
  try dsimp only
  with_reducible repeat' first
    | assumption | refine keep_ite ?_ ?_ | refine keep_putF ?_ | refine keep_incWrap ?_ | refine keep_raiseSrc ?_
    | refine keep_irqBit ?_ | refine keep_diodeResult ?_ | (apply keep_mk; refine keep_fold ?_)

end Sys2Proof.Machine
end

