-- ==== Sys2Proof/Laws/KeepDrive.lean ====
section
/-!
SUPPORT. What every operation keeps (Laws/Keep.lean): the commands of clocks, Tambours, drive, read-out and flux tiles.
-/
namespace Sys2Proof.Machine

variable {s0 s : State}

theorem keep_execRefOkQualify  (hK : Keep s0 s) : KeepR s0 (execRefOkQualify s) := by
  unfold execRefOkQualify
  try dsimp only
  with_reducible repeat' first
    | assumption | refine keep_ite ?_ ?_ | refine keepR_next ?_ | exact keepR_fault _ | refine keep_putF ?_
    | (apply keep_mk; refine keep_fold ?_)

theorem keep_execRefclkFault  (hK : Keep s0 s) : KeepR s0 (execRefclkFault s) := by
  unfold execRefclkFault
  try dsimp only
  with_reducible repeat' first
    | assumption | refine keep_ite ?_ ?_ | refine keepR_next ?_ | exact keepR_fault _ | refine keep_irqBit ?_
    | refine keep_putF ?_ | refine keep_lossOfLock ?_ | (apply keep_mk; refine keep_fold ?_)

theorem keep_execPllLock  (hK : Keep s0 s) : KeepR s0 (execPllLock s) := by
  unfold execPllLock
  try dsimp only
  with_reducible repeat' first
    | assumption | refine keep_ite ?_ ?_ | refine keepR_next ?_ | exact keepR_fault _ | refine keep_putF ?_
    | refine keep_alignMck ?_ | refine keep_urge ?_ | refine keep_relock ?_ | (apply keep_mk; refine keep_fold ?_)

theorem keep_execLossOfLock  (hK : Keep s0 s) : KeepR s0 (execLossOfLock s) := by
  unfold execLossOfLock
  with_reducible repeat' first
    | assumption | refine keep_ite ?_ ?_ | refine keepR_next ?_ | exact keepR_fault _ | refine keep_lossOfLock ?_

theorem keep_execHoldoverRampDone  (hK : Keep s0 s) : KeepR s0 (execHoldoverRampDone s) := by
  unfold execHoldoverRampDone
  try dsimp only
  with_reducible repeat' first
    | assumption | refine keep_ite ?_ ?_ | refine keepR_next ?_ | exact keepR_fault _ | apply keep_forAll
    | refine keep_allPortsLol ?_ | refine keep_rampDone ?_ | refine keep_putF ?_ | refine keep_forAll ?_ ?_ | intro _
    | (apply keep_mk; refine keep_fold ?_)

theorem keep_pllAcquire  (hK : Keep s0 s) : Keep s0 (pllAcquire s) := by
  unfold pllAcquire
  with_reducible repeat' first | assumption | refine keep_ite ?_ ?_ | (apply keep_mk; refine keep_fold ?_)

theorem keep_pllRelockEffect  (hK : Keep s0 s) : Keep s0 (pllRelockEffect s) := by
  unfold pllRelockEffect
  with_reducible repeat' first | assumption | refine keep_pllAcquire ?_

theorem keep_relockAutoEffect {v : Nat} (hK : Keep s0 s) : Keep s0 (relockAutoEffect v s) := by
  unfold relockAutoEffect
  try dsimp only
  with_reducible repeat' first | assumption | refine keep_ite ?_ ?_ | refine keep_putF ?_ | refine keep_pllAcquire ?_

theorem keep_execPllRelock {who : Requester} (hK : Keep s0 s) : KeepR s0 (execPllRelock who s) := by
  unfold execPllRelock
  with_reducible repeat' first
    | assumption | refine keepR_next ?_ | exact keepR_fault _ | apply keep_viaBus | refine keep_pllRelockEffect ?_
    | intro _

theorem keep_slotTake  (hK : Keep s0 s) : Keep s0 (slotTake s) := by
  unfold slotTake
  try dsimp only
  with_reducible repeat' first | assumption | refine keep_putF ?_ | split | (apply keep_mk; refine keep_fold ?_)

theorem keep_execSyncEdge {src : Nat} {first : Bool} (hK : Keep s0 s) : KeepR s0 (execSyncEdge src first s) := by
  unfold execSyncEdge
  try dsimp only
  with_reducible repeat' first
    | assumption | refine keep_ite ?_ ?_ | refine keepR_next ?_ | exact keepR_fault _ | refine keep_slotTake ?_
    | refine keep_incWrap ?_ | refine keep_putF ?_ | refine keep_irqBit ?_ | intro _
    | (apply keep_mk; refine keep_fold ?_)

theorem keep_softSyncEffect  (hK : Keep s0 s) : Keep s0 (softSyncEffect s) := by
  unfold softSyncEffect
  with_reducible repeat' first | assumption | refine keep_ite ?_ ?_ | (apply keep_mk; refine keep_fold ?_)

theorem keep_execSoftSync {who : Requester} (hK : Keep s0 s) : KeepR s0 (execSoftSync who s) := by
  unfold execSoftSync
  with_reducible repeat' first
    | assumption | refine keepR_next ?_ | exact keepR_fault _ | apply keep_viaBus | refine keep_softSyncEffect ?_
    | intro _

theorem keep_syncArmEffect  (hK : Keep s0 s) : Keep s0 (syncArmEffect s) := by
  unfold syncArmEffect
  try dsimp only
  with_reducible repeat' first
    | assumption | apply keep_forAll | refine keep_modPort ?_ | refine keep_putF ?_ | refine keep_forAll ?_ ?_
    | intro _ | (apply keep_mk; refine keep_fold ?_)

theorem keep_execSyncArm {who : Requester} (hK : Keep s0 s) : KeepR s0 (execSyncArm who s) := by
  unfold execSyncArm
  with_reducible repeat' first
    | assumption | refine keepR_next ?_ | exact keepR_fault _ | apply keep_viaBus | refine keep_syncArmEffect ?_
    | intro _

theorem keep_epochNow {e : Nat × Option Nat} {rest : List (Nat × Option Nat)} (hK : Keep s0 s) : Keep s0 (epochNow e rest s) := by
  unfold epochNow
  try dsimp only
  with_reducible repeat' first
    | assumption | refine keep_ite ?_ ?_ | refine keep_itePair ?_ ?_ | apply keep_forAll | refine keep_putF ?_
    | refine keep_modPort ?_ | refine keep_keepWas ?_ | refine keep_alignMck ?_ | refine keep_urge ?_
    | refine keep_irqBit ?_ | refine keep_forAll ?_ ?_ | intro _ | split | (apply keep_mk; refine keep_fold ?_)

theorem keep_execEpoch  (hK : Keep s0 s) : KeepR s0 (execEpoch s) := by
  unfold execEpoch
  try dsimp only
  with_reducible repeat' first
    | assumption | refine keep_ite ?_ ?_ | refine keepR_next ?_ | exact keepR_fault _ | refine keep_epochNow ?_
    | split

theorem keep_goClears {b : Nat} (hK : Keep s0 s) : Keep s0 (goClears b s) := by
  unfold goClears
  try dsimp only
  with_reducible repeat' first
    | assumption | apply keep_forAll | refine keep_putF ?_ | refine keep_forAll ?_ ?_ | intro _ | split

theorem keep_goAccept {b : Nat} (hK : Keep s0 s) : Keep s0 (goAccept b s) := by
  unfold goAccept
  try dsimp only
  with_reducible repeat' first
    | assumption | refine keep_ite ?_ ?_ | apply keep_forAll | refine keep_setTile ?_ | refine keep_showWins ?_
    | refine keep_modRdo ?_ | refine keep_setFlux ?_ | refine keep_setPauli ?_ | refine keep_putF ?_
    | refine keep_goClears ?_ | refine keep_refreshTone ?_ | refine keep_noteIl ?_ | refine keep_refreshBin ?_
    | refine keep_pfRecord ?_ | refine keep_forAll ?_ ?_ | intro _

theorem keep_tmbGoEffect {who : Requester} {b : Nat} (hK : Keep s0 s) : Keep s0 (tmbGoEffect who b s) := by
  unfold tmbGoEffect
  try dsimp only
  with_reducible repeat' first
    | assumption | refine keep_errRec ?_ | refine keep_irqBit ?_ | refine keep_goAccept ?_ | split

theorem keep_execTmbGo {who : Requester} {b : Nat} (hK : Keep s0 s) : KeepR s0 (execTmbGo who b s) := by
  unfold execTmbGo
  with_reducible repeat' first
    | assumption | refine keepR_next ?_ | exact keepR_fault _ | apply keep_viaBus | apply keep_ownAct
    | refine keep_tmbGoEffect ?_ | intro _

theorem keep_addFetch {b chan t pe addr : Nat} (hK : Keep s0 s) : Keep s0 (addFetch b chan t pe addr s) := by
  unfold addFetch
  try dsimp only
  with_reducible repeat' first
    | assumption | refine keep_ite ?_ ?_ | refine keep_modTile ?_

theorem keep_releaseHead {b : Nat} {e : QEntry} (hK : Keep s0 s) : Keep s0 (releaseHead b e s) := by
  unfold releaseHead
  try dsimp only
  with_reducible repeat' first
    | assumption | refine keep_ite ?_ ?_ | refine keep_modTile ?_ | refine keep_putF ?_ | refine keep_rtTouch ?_
    | refine keep_addFetch ?_ | refine keep_retryKey ?_

theorem keep_releaseDue {b : Nat} (hK : Keep s0 s) : Keep s0 (releaseDue b s) := by
  unfold releaseDue
  try dsimp only
  with_reducible repeat' first | assumption | refine keep_ite ?_ ?_ | refine keep_releaseHead ?_ | split

theorem keep_execWordRelease {b : Nat} (hK : Keep s0 s) : KeepR s0 (execWordRelease b s) := by
  unfold execWordRelease
  with_reducible repeat' first | assumption | refine keepR_next ?_ | exact keepR_fault _ | refine keep_releaseDue ?_

theorem keep_execTmbRunStart {b : Nat} (hK : Keep s0 s) : KeepR s0 (execTmbRunStart b s) := by
  unfold execTmbRunStart
  with_reducible repeat' first
    | assumption | refine keep_ite ?_ ?_ | refine keepR_next ?_ | exact keepR_fault _ | refine keep_releaseDue ?_
    | refine keep_putF ?_

theorem keep_enqueue {b addr t : Nat} {w : MWord} (hK : Keep s0 s) : Keep s0 (enqueue b addr t w s) := by
  unfold enqueue
  try dsimp only
  with_reducible repeat' first
    | assumption | refine keep_modTile ?_ | refine keep_putF ?_

theorem keep_issueWait {b addr t : Nat} {w : MWord} (h : Keep s0 s) : Keep s0 (issueWait b addr t w s) := by
  unfold issueWait
  dsimp only
  refine keep_ite ?_ (keep_ite (keep_putF (keep_modTile h)) (keep_flowKnown h))
  split
  · rename_i e
    have h1 := keep_keyResolve h e
    exact keep_ite (keep_putF (keep_modTile h1)) (keep_flowKnown h1)
  · exact keep_putF (keep_modTile h)

theorem keep_issueWord {b addr : Nat} (hK : Keep s0 s) : Keep s0 (issueWord b addr s) := by
  unfold issueWord
  try dsimp only
  with_reducible repeat' first
    | assumption | refine keep_ite ?_ ?_ | refine keep_machineCheck ?_ | refine keep_setKey ?_
    | refine keep_modTile ?_ | refine keep_issueWait ?_ | refine keep_enqueue ?_

theorem keep_execWordIssue {b : Nat} (hK : Keep s0 s) : KeepR s0 (execWordIssue b s) := by
  unfold execWordIssue
  try dsimp only
  with_reducible repeat' first
    | assumption | refine keep_ite ?_ ?_ | refine keepR_next ?_ | exact keepR_fault _ | refine keep_issueWord ?_
    | split

theorem keep_resolveDue {b : Nat} (h : Keep s0 s) : Keep s0 (resolveDue b s) := by
  unfold resolveDue
  split
  · refine keep_ite ?_ h
    split
    · rename_i e; exact keep_keyDone (keep_keyResolve h e)
    · exact keep_ite (keep_keyDone (keep_byDefault h)) h
  · exact h

theorem keep_execKeyDeadline {b : Nat} (hK : Keep s0 s) : KeepR s0 (execKeyDeadline b s) := by
  unfold execKeyDeadline
  with_reducible repeat' first | assumption | refine keepR_next ?_ | exact keepR_fault _ | refine keep_resolveDue ?_

theorem keep_execTulleWait {b : Nat} (hK : Keep s0 s) : KeepR s0 (execTulleWait b s) := by
  unfold execTulleWait
  try dsimp only
  with_reducible repeat' first
    | assumption | refine keep_ite ?_ ?_ | refine keepR_next ?_ | exact keepR_fault _ | refine keep_resolveDue ?_
    | split

theorem keep_execUndrLostEval {b : Nat} (hK : Keep s0 s) : KeepR s0 (execUndrLostEval b s) := by
  unfold execUndrLostEval
  try dsimp only
  with_reducible repeat' first
    | assumption | refine keep_ite ?_ ?_ | refine keepR_next ?_ | exact keepR_fault _ | refine keep_putF ?_
    | refine keep_flowKnown ?_ | split

theorem keep_tmbStopEffect {b : Nat} (hK : Keep s0 s) : Keep s0 (tmbStopEffect b s) := by
  unfold tmbStopEffect
  with_reducible repeat' first | assumption | refine keep_ite ?_ ?_ | refine keep_putF ?_

theorem keep_execTmbStop {who : Requester} {b : Nat} (hK : Keep s0 s) : KeepR s0 (execTmbStop who b s) := by
  unfold execTmbStop
  with_reducible repeat' first
    | assumption | refine keepR_next ?_ | exact keepR_fault _ | apply keep_viaBus | refine keep_tmbStopEffect ?_
    | intro _

theorem keep_execTmbAbort {who : Requester} {b : Nat} (hK : Keep s0 s) : KeepR s0 (execTmbAbort who b s) := by
  unfold execTmbAbort
  try dsimp only
  with_reducible repeat' first
    | assumption | refine keepR_next ?_ | exact keepR_fault _ | apply keep_viaBus | apply keep_ownAct
    | refine keep_abortTile ?_ | intro _

theorem keep_execTileStopping {b : Nat} (hK : Keep s0 s) : KeepR s0 (execTileStopping b s) := by
  unfold execTileStopping
  try dsimp only
  with_reducible repeat' first
    | assumption | refine keep_ite ?_ ?_ | refine keepR_next ?_ | exact keepR_fault _ | refine keep_stopTile ?_
    | split

theorem keep_execStopRampDone {b : Nat} (hK : Keep s0 s) : KeepR s0 (execStopRampDone b s) := by
  unfold execStopRampDone
  try dsimp only
  with_reducible repeat' first
    | assumption | refine keep_ite ?_ ?_ | refine keepR_next ?_ | exact keepR_fault _ | refine keep_rampDone ?_
    | split

theorem keep_execShotBoundary {b : Nat} (hK : Keep s0 s) : KeepR s0 (execShotBoundary b s) := by
  unfold execShotBoundary
  try dsimp only
  with_reducible repeat' first
    | assumption | refine keep_ite ?_ ?_ | refine keepR_next ?_ | exact keepR_fault _ | apply keep_withAct
    | refine keep_boundary ?_ | refine keep_shotBoundary ?_ | refine keep_stopTile ?_ | intro _

theorem keep_loopAct {b lop : Nat} (hK : Keep s0 s) : Keep s0 (loopAct b lop s) := by
  unfold loopAct
  try dsimp only
  with_reducible repeat' first
    | assumption | refine keep_ite ?_ ?_ | refine keep_doneAct ?_ | refine keep_putF ?_ | split

theorem keep_execLoopLoad {b : Nat} (hK : Keep s0 s) : KeepR s0 (execLoopLoad b s) := by
  unfold execLoopLoad
  with_reducible repeat' first | assumption | refine keepR_next ?_ | exact keepR_fault _ | refine keep_loopAct ?_

theorem keep_execLoopDec {b : Nat} (hK : Keep s0 s) : KeepR s0 (execLoopDec b s) := by
  unfold execLoopDec
  with_reducible repeat' first | assumption | refine keepR_next ?_ | exact keepR_fault _ | refine keep_loopAct ?_

theorem keep_execLoopReload {b : Nat} (hK : Keep s0 s) : KeepR s0 (execLoopReload b s) := by
  unfold execLoopReload
  with_reducible repeat' first | assumption | refine keepR_next ?_ | exact keepR_fault _ | refine keep_loopAct ?_

theorem keep_tulleAct {b top : Nat} {g : REntry → State → State} (hg : ∀ x0 t, Keep s0 t → Keep s0 (g x0 t)) (hK : Keep s0 s) : Keep s0 (tulleAct b top g s) := by
  unfold tulleAct
  with_reducible repeat' first | assumption | refine keep_ite ?_ ?_ | refine keep_doneAct ?_ | apply hg | intro _ | split

theorem keep_execTulleArm {b : Nat} (hK : Keep s0 s) : KeepR s0 (execTulleArm b s) := by
  unfold execTulleArm
  try dsimp only
  with_reducible repeat' first
    | assumption | refine keepR_next ?_ | exact keepR_fault _ | apply keep_tulleAct | refine keep_setKey ?_ | intro _

theorem keep_execFreset {b : Nat} (hK : Keep s0 s) : KeepR s0 (execFreset b s) := by
  unfold execFreset
  try dsimp only
  with_reducible repeat' first
    | assumption | refine keepR_next ?_ | exact keepR_fault _ | apply keep_tulleAct | refine keep_modTile ?_ | intro _

theorem keep_execFlipx {b : Nat} (hK : Keep s0 s) : KeepR s0 (execFlipx b s) := by
  unfold execFlipx
  try dsimp only
  with_reducible repeat' first
    | assumption | refine keepR_next ?_ | exact keepR_fault _ | apply keep_tulleAct | refine keep_setPauli ?_
    | intro _

theorem keep_execFlipz {b : Nat} (hK : Keep s0 s) : KeepR s0 (execFlipz b s) := by
  unfold execFlipz
  try dsimp only
  with_reducible repeat' first
    | assumption | refine keepR_next ?_ | exact keepR_fault _ | apply keep_tulleAct | refine keep_setPauli ?_
    | intro _

theorem keep_deferredDue {b : Nat} {g : Deferred → Option (State → State)}
    (hg : ∀ d f, g d = some f → ∀ t, Keep s0 t → Keep s0 (f t)) (h : Keep s0 s) : Keep s0 (deferredDue b g s) := by
  unfold deferredDue
  dsimp only
  split
  · rename_i d _
    have h1 := keep_modTile (b := b) (g := fun x => { x with deferred := x.deferred.erase d }) h
    cases e : g d with
    | none => exact h1
    | some f => exact hg d f e _ h1
  · exact h

theorem keep_execFapply {b : Nat} (h : Keep s0 s) : KeepR s0 (execFapply b s) := by
  refine keepR_next (keep_deferredDue (fun d f e t ht => ?_) h)
  split at e
  · cases e; exact keep_setPauli ht
  · cases e

theorem keep_encRecords {b : Nat} {e : REntry} (hK : Keep s0 s) : Keep s0 (encRecords b e s) := by
  unfold encRecords
  try dsimp only
  with_reducible repeat' first
    | assumption | refine keep_ite ?_ ?_ | apply keep_forAll | refine keep_wordRec ?_ | refine keep_forAll ?_ ?_
    | intro _

theorem keep_lastWord {b : Nat} {e : REntry} (hK : Keep s0 s) : Keep s0 (lastWord b e s) := by
  unfold lastWord
  try dsimp only
  with_reducible repeat' first
    | assumption | refine keep_ite ?_ ?_ | refine keep_modTile ?_ | refine keep_wordRec ?_

theorem keep_execBranch {b : Nat} (hK : Keep s0 s) : KeepR s0 (execBranch b s) := by
  unfold execBranch
  try dsimp only
  with_reducible repeat' first
    | assumption | refine keep_ite ?_ ?_ | refine keepR_next ?_ | exact keepR_fault _ | refine keep_encRecords ?_
    | refine keep_modTile ?_ | refine keep_doneAct ?_ | refine keep_lastWord ?_ | intro _ | split

theorem keep_execStopWord {b : Nat} (hK : Keep s0 s) : KeepR s0 (execStopWord b s) := by
  unfold execStopWord
  try dsimp only
  with_reducible repeat' first
    | assumption | refine keepR_next ?_ | exact keepR_fault _ | apply keep_withAct | refine keep_modTile ?_
    | refine keep_encRecords ?_ | intro _

theorem keep_execPicotMark {b : Nat} (hK : Keep s0 s) : KeepR s0 (execPicotMark b s) := by
  unfold execPicotMark
  try dsimp only
  with_reducible repeat' first
    | assumption | refine keepR_next ?_ | exact keepR_fault _ | apply keep_forAll | apply keep_withAct
    | refine keep_raiseFlag ?_ | refine keep_forAll ?_ ?_ | intro _

theorem keep_execDeclaredGap {b : Nat} (hK : Keep s0 s) : KeepR s0 (execDeclaredGap b s) := by
  unfold execDeclaredGap
  try dsimp only
  with_reducible repeat' first
    | assumption | refine keep_ite ?_ ?_ | refine keepR_next ?_ | exact keepR_fault _ | apply keep_forAll
    | apply keep_withAct | refine keep_gapViolate ?_ | refine keep_modTile ?_ | refine keep_forAll ?_ ?_ | intro _

theorem keep_modCh {c : Nat} {g : Dma → Dma} (hK : Keep s0 s) : Keep s0 (modCh c g s) := by
  unfold modCh
  with_reducible repeat' first | assumption | (apply keep_mk; refine keep_fold ?_)

theorem keep_boundWrite {page slot : Nat} (hK : Keep s0 s) : Keep s0 (boundWrite page slot s) := by
  unfold boundWrite
  with_reducible repeat' first | assumption | refine keep_errRec ?_

theorem keep_chVec {c : Nat} (hK : Keep s0 s) : Keep s0 (chVec c s) := by
  unfold chVec
  with_reducible repeat' first | assumption | refine keep_sendVec ?_

theorem keep_chFail {c status idx : Nat} (hK : Keep s0 s) : Keep s0 (chFail c status idx s) := by
  unfold chFail
  try dsimp only
  with_reducible repeat' first
    | assumption | refine keep_putF ?_ | refine keep_errRec ?_ | refine keep_irqBit ?_ | refine keep_chVec ?_

theorem keep_chError {c status idx : Nat} (hK : Keep s0 s) : Keep s0 (chError c status idx s) := by
  unfold chError
  with_reducible repeat' first | assumption | refine keep_chFail ?_ | refine keep_putF ?_

theorem keep_completion {c idx status cookie : Nat} (hK : Keep s0 s) : Keep s0 (completion c idx status cookie s) := by
  unfold completion
  try dsimp only
  with_reducible repeat' first | assumption | refine keep_hostWrite ?_

theorem keep_finishDesc {c status : Nat} {d : Desc} (hK : Keep s0 s) : Keep s0 (finishDesc c status d s) := by
  unfold finishDesc
  try dsimp only
  with_reducible repeat' first
    | assumption | refine keep_ite ?_ ?_ | refine keep_completion ?_ | refine keep_putF ?_ | refine keep_modCh ?_
    | refine keep_chVec ?_ | refine keep_chError ?_

theorem keep_addLines {c n : Nat} (hK : Keep s0 s) : Keep s0 (addLines c n s) := by
  unfold addLines
  with_reducible repeat' first | assumption | refine keep_putF ?_

theorem keep_chTell {c : Nat} (hK : Keep s0 s) : Keep s0 (chTell c s) := by
  unfold chTell
  try dsimp only
  with_reducible repeat' first
    | assumption | refine keep_chVec ?_ | refine keep_modCh ?_ | refine keep_dropTimer ?_

theorem keep_chProgress {c : Nat} (hK : Keep s0 s) : Keep s0 (chProgress c s) := by
  unfold chProgress
  try dsimp only
  with_reducible repeat' first | assumption | refine keep_ite ?_ ?_ | refine keep_chTell ?_ | refine keep_stampTimer ?_

theorem keep_dposFollow {p i fill : Nat} (hK : Keep s0 s) : Keep s0 (dposFollow p i fill s) := by
  unfold dposFollow
  try dsimp only
  with_reducible repeat' first
    | assumption | refine keep_ite ?_ ?_ | apply keep_forAll | refine keep_chProgress ?_ | refine keep_putF ?_
    | refine keep_forAll ?_ ?_ | intro _

theorem keep_writeback {c : Nat} (hK : Keep s0 s) : Keep s0 (writeback c s) := by
  unfold writeback
  try dsimp only
  with_reducible repeat' first
    | assumption | refine keep_ite ?_ ?_ | refine keep_hostWrite ?_ | refine keep_modCh ?_

theorem keep_streamIssue {c k : Nat} (h : Keep s0 s) : Keep s0 (streamIssue c k s) := by
  induction k generalizing s with
  | zero => exact h
  | succ k ih =>
    unfold streamIssue
    exact keep_ite (ih (keep_chProgress (keep_putF (keep_modCh h)))) h

theorem keep_streamWake {p i : Nat} (hK : Keep s0 s) : Keep s0 (streamWake p i s) := by
  unfold streamWake
  try dsimp only
  with_reducible repeat' first
    | assumption | apply keep_forAll | refine keep_streamIssue ?_ | refine keep_forAll ?_ ?_ | intro _

theorem keep_storeUnits {p i pos : Nat} {bs : List Byte} (hK : Keep s0 s) : Keep s0 (storeUnits p i pos bs s) := by
  unfold storeUnits
  try dsimp only
  with_reducible repeat' first | assumption | refine keep_ite ?_ ?_ | refine keep_storeMem ?_

theorem keep_streamData {c pos n : Nat} {bs : List Byte} (hK : Keep s0 s) : Keep s0 (streamData c pos n bs s) := by
  unfold streamData
  try dsimp only
  with_reducible repeat' first
    | assumption | refine keep_ite ?_ ?_ | refine keep_storeUnits ?_ | refine keep_putF ?_ | refine keep_addLines ?_
    | refine keep_modCh ?_ | refine keep_writeback ?_ | refine keep_streamIssue ?_ | refine keep_chProgress ?_

theorem keep_uploadRecord {c a : Nat} (h : Keep s0 s) : Keep s0 (uploadRecord c a s).2 := by
  unfold uploadRecord
  split
  · exact keep_incSat (keep_detectLine h)
  · exact h

theorem keep_uploadRecords {c b k pos : Nat} (h : Keep s0 s) : Keep s0 (uploadRecords c b k pos s).2 := by
  induction k generalizing pos s with
  | zero => exact h
  | succ k ih => exact ih (keep_uploadRecord h)

theorem keep_setFrame {b t v : Nat} (hK : Keep s0 s) : Keep s0 (setFrame b t v s) := by
  unfold setFrame
  try dsimp only
  with_reducible repeat' first
    | assumption | refine keep_ite ?_ ?_ | refine keep_putF ?_ | refine keep_modRdo ?_

theorem keep_frameAct {b fop : Nat} {g : REntry → State → State} (hg : ∀ x0 t, Keep s0 t → Keep s0 (g x0 t)) (hK : Keep s0 s) : Keep s0 (frameAct b fop g s) := by
  unfold frameAct
  with_reducible repeat' first | assumption | refine keep_ite ?_ ?_ | refine keep_doneAct ?_ | apply hg | intro _ | split

theorem keep_execFrameAdd {b : Nat} (hK : Keep s0 s) : KeepR s0 (execFrameAdd b s) := by
  unfold execFrameAdd
  try dsimp only
  with_reducible repeat' first
    | assumption | refine keepR_next ?_ | exact keepR_fault _ | apply keep_frameAct | refine keep_setFrame ?_
    | intro _

theorem keep_execFrameSet {b : Nat} (hK : Keep s0 s) : KeepR s0 (execFrameSet b s) := by
  unfold execFrameSet
  try dsimp only
  with_reducible repeat' first
    | assumption | refine keepR_next ?_ | exact keepR_fault _ | apply keep_frameAct | refine keep_setFrame ?_
    | intro _

theorem keep_execFrameCadd {b : Nat} (h : Keep s0 s) : KeepR s0 (execFrameCadd b s) := by
  refine keepR_next (keep_deferredDue (fun d f e t ht => ?_) h)
  split at e
  · cases e; exact keep_setFrame ht
  · cases e

theorem keep_execBlank {b : Nat} (hK : Keep s0 s) : KeepR s0 (execBlank b s) := by
  unfold execBlank
  try dsimp only
  with_reducible repeat' first
    | assumption | refine keepR_next ?_ | exact keepR_fault _ | apply keep_withAct | refine keep_putF ?_ | intro _

theorem keep_pulseRecords {b c f t pe addr : Nat} {gap : Bool} (hK : Keep s0 s) : Keep s0 (pulseRecords b c f t pe addr gap s) := by
  unfold pulseRecords
  try dsimp only
  with_reducible repeat' first
    | assumption | refine keep_ite ?_ ?_ | refine keep_gapViolate ?_ | refine keep_errRec ?_ | refine keep_irqBit ?_
    | refine keep_incSat ?_ | split

theorem keep_pulseStart {b c f pe : Nat} {sl : MSlot} {e : REntry} (hK : Keep s0 s) : Keep s0 (pulseStart b c f pe sl e s) := by
  unfold pulseStart
  try dsimp only
  with_reducible repeat' first
    | assumption | refine keep_ite ?_ ?_ | refine keep_pulseRecords ?_ | refine keep_modTile ?_

theorem keep_execPulseStart {b : Nat} {second : Bool} (hK : Keep s0 s) : KeepR s0 (execPulseStart b second s) := by
  unfold execPulseStart
  try dsimp only
  with_reducible repeat' first
    | assumption | refine keep_ite ?_ ?_ | refine keepR_next ?_ | exact keepR_fault _ | apply keep_withAct
    | refine keep_wordRec ?_ | refine keep_pulseStart ?_ | intro _

theorem keep_strmFillWriteEffect {who : Requester} {b i v : Nat} (hK : Keep s0 s) : Keep s0 (strmFillWriteEffect who b i v s) := by
  unfold strmFillWriteEffect
  try dsimp only
  with_reducible repeat' first
    | assumption | refine keep_ite ?_ ?_ | refine keep_boundWrite ?_ | refine keep_errRec ?_ | refine keep_putF ?_

theorem keep_execStrmFillWrite {who : Requester} {b i v : Nat} (hK : Keep s0 s) : KeepR s0 (execStrmFillWrite who b i v s) := by
  unfold execStrmFillWrite
  try dsimp only
  with_reducible repeat' first
    | assumption | refine keepR_next ?_ | exact keepR_fault _ | apply keep_viaBus | refine keep_strmFillWriteEffect ?_
    | intro _

theorem keep_strmCfgWriteEffect {who : Requester} {b i : Nat} {w : Word} (hK : Keep s0 s) : Keep s0 (strmCfgWriteEffect who b i w s) := by
  unfold strmCfgWriteEffect
  try dsimp only
  with_reducible repeat' first | assumption | refine keep_ite ?_ ?_ | refine keep_writeReg ?_ | refine keep_putF ?_

theorem keep_execStrmCfgWrite {who : Requester} {b i : Nat} {w : Word} (hK : Keep s0 s) : KeepR s0 (execStrmCfgWrite who b i w s) := by
  unfold execStrmCfgWrite
  try dsimp only
  with_reducible repeat' first
    | assumption | refine keepR_next ?_ | exact keepR_fault _ | apply keep_busGate | refine keep_strmCfgWriteEffect ?_
    | intro _

theorem keep_underrun {b i : Nat} (hK : Keep s0 s) : Keep s0 (underrun b i s) := by
  unfold underrun
  try dsimp only
  with_reducible repeat' first
    | assumption | refine keep_ite ?_ ?_ | apply keep_forAll | refine keep_incSat ?_ | refine keep_irqBit ?_
    | refine keep_putF ?_ | refine keep_errRec ?_ | refine keep_raiseMark ?_ | refine keep_forAll ?_ ?_ | intro _

theorem keep_streamUnit {b i : Nat} (h : Keep s0 s) : Keep s0 (streamUnit b i s).2 := by
  unfold streamUnit
  dsimp only
  split
  · exact keep_underrun h
  · split
    · exact keep_putF (keep_rtTouch h)
    · exact keep_dposFollow (keep_putF (keep_putF (keep_underrun h)))

theorem keep_execStreamUnitFetch {b : Nat} (hK : Keep s0 s) : KeepR s0 (execStreamUnitFetch b s) := by
  unfold execStreamUnitFetch
  try dsimp only
  with_reducible repeat' first
    | assumption | refine keepR_next ?_ | exact keepR_fault _ | refine keep_streamUnit ?_ | refine keep_modTile ?_
    | refine keep_streamWake ?_ | intro _ | split

theorem keep_modWin {b mt tone : Nat} {g : Win → Win} (hK : Keep s0 s) : Keep s0 (modWin b mt tone g s) := by
  unfold modWin
  try dsimp only
  with_reducible repeat' first
    | assumption | refine keep_ite ?_ ?_ | refine keep_modRdo ?_

theorem keep_winDrop {b n tone info : Nat} (hK : Keep s0 s) : Keep s0 (winDrop b n tone info s) := by
  unfold winDrop
  try dsimp only
  with_reducible repeat' first | assumption | refine keep_errRec ?_ | refine keep_irqBit ?_ | refine keep_addSat ?_

theorem keep_acquire {b : Nat} {e : REntry} (hK : Keep s0 s) : Keep s0 (acquire b e s) := by
  unfold acquire
  try dsimp only
  with_reducible repeat' first
    | assumption | refine keep_ite ?_ ?_ | apply keep_forAll | refine keep_winDrop ?_ | refine keep_showWins ?_
    | refine keep_modRdo ?_ | refine keep_forAll ?_ ?_ | intro _

theorem keep_execAcq {b : Nat} (hK : Keep s0 s) : KeepR s0 (execAcq b s) := by
  unfold execAcq
  with_reducible repeat' first
    | assumption | refine keepR_next ?_ | exact keepR_fault _ | apply keep_withAct | refine keep_acquire ?_ | intro _

theorem keep_execWindowOpen {b t : Nat} (hK : Keep s0 s) : KeepR s0 (execWindowOpen b t s) := by
  unfold execWindowOpen
  try dsimp only
  with_reducible repeat' first
    | assumption | refine keep_ite ?_ ?_ | refine keep_itePair ?_ ?_ | refine keepR_next ?_ | exact keepR_fault _
    | refine keep_dropSets ?_ | refine keep_winDrop ?_ | refine keep_modWin ?_ | refine keep_incSat ?_
    | refine keep_errRec ?_ | refine keep_gapViolate ?_ | refine keep_showWins ?_ | intro _ | split

theorem keep_applyTaps {b mt : Nat} {w : Win} (hK : Keep s0 s) : Keep s0 (applyTaps b mt w s) := by
  unfold applyTaps
  try dsimp only
  with_reducible repeat' first
    | assumption | refine keep_ite ?_ ?_ | apply keep_forAll | refine keep_modWin ?_ | refine keep_rtTouch ?_
    | refine keep_forAll ?_ ?_ | intro _

theorem keep_execWindowClose {b t : Nat} {codes : List Int} (hK : Keep s0 s) : KeepR s0 (execWindowClose b t codes s) := by
  unfold execWindowClose
  try dsimp only
  with_reducible repeat' first
    | assumption | refine keepR_next ?_ | exact keepR_fault _ | apply keep_forAll | refine keep_rtTouch ?_
    | refine keep_showWins ?_ | refine keep_modWin ?_ | refine keep_forAll ?_ ?_ | intro _ | split

theorem keep_execAdcOverrange {fc : AdcFc} (hK : Keep s0 s) : KeepR s0 (execAdcOverrange fc s) := by
  unfold execAdcOverrange
  try dsimp only
  with_reducible repeat' first
    | assumption | refine keep_ite ?_ ?_ | refine keepR_next ?_ | exact keepR_fault _ | refine keep_irqBit ?_
    | refine keep_putF ?_ | refine keep_incSat ?_ | refine keep_modRdo ?_ | refine keep_modCal ?_
    | refine keep_errRec ?_

theorem keep_execUnmix {b t : Nat} (hK : Keep s0 s) : KeepR s0 (execUnmix b t s) := by
  unfold execUnmix
  try dsimp only
  with_reducible repeat' first
    | assumption | refine keep_ite ?_ ?_ | refine keep_itePair ?_ ?_ | refine keepR_next ?_ | exact keepR_fault _
    | refine keep_modWin ?_ | refine keep_irqBit ?_ | refine keep_incSat ?_ | refine keep_errRec ?_
    | refine keep_modRdo ?_ | intro _ | split

theorem keep_putResult {b t : Nat} {bytes : List Byte} (hK : Keep s0 s) : Keep s0 (putResult b t bytes s) := by
  unfold putResult
  try dsimp only
  with_reducible repeat' first
    | assumption | refine keep_ite ?_ ?_ | refine keep_ringPut ?_ | refine keep_irqBit ?_ | refine keep_putF ?_
    | refine keep_incSat ?_ | refine keep_errRec ?_ | refine keep_modRdo ?_

theorem keep_enterStat {b t : Nat} {w : Win} {x : ToneStat} (hK : Keep s0 s) : Keep s0 (enterStat b t w x s) := by
  unfold enterStat
  try dsimp only
  with_reducible repeat' first
    | assumption | refine keep_ite ?_ ?_ | refine keep_itePair ?_ ?_ | refine keep_statCommit ?_
    | refine keep_modRdo ?_ | intro _ | split

theorem keep_discriminate {b : Nat} {m : MSet} {w : Win} {v : Cplx} (hK : Keep s0 s) : Keep s0 (discriminate b m w v s) := by
  unfold discriminate
  try dsimp only
  with_reducible repeat' first
    | assumption | refine keep_ite ?_ ?_ | refine keep_itePair ?_ ?_ | refine keep_publish ?_
    | refine keep_putResult ?_ | refine keep_enterStat ?_ | refine keep_trackAdd ?_ | refine keep_dropSets ?_
    | refine keep_modWin ?_

theorem keep_execDiscrimination {b t : Nat} (hK : Keep s0 s) : KeepR s0 (execDiscrimination b t s) := by
  unfold execDiscrimination
  try dsimp only
  with_reducible repeat' first
    | assumption | refine keepR_next ?_ | exact keepR_fault _ | refine keep_discriminate ?_ | intro _ | split

theorem keep_takeResults {b v : Nat} (hK : Keep s0 s) : Keep s0 (takeResults b v s) := by
  unfold takeResults
  with_reducible repeat' first | assumption | refine keep_showFill ?_ | refine keep_putF ?_

theorem keep_resRpWriteEffect {b v : Nat} (hK : Keep s0 s) : Keep s0 (resRpWriteEffect b v s) := by
  unfold resRpWriteEffect
  try dsimp only
  with_reducible repeat' first
    | assumption | refine keep_ite ?_ ?_ | refine keep_boundWrite ?_ | refine keep_takeResults ?_
    | refine keep_errRec ?_

theorem keep_execResRpWrite {who : Requester} {b v : Nat} (hK : Keep s0 s) : KeepR s0 (execResRpWrite who b v s) := by
  unfold execResRpWrite
  try dsimp only
  with_reducible repeat' first
    | assumption | refine keepR_next ?_ | exact keepR_fault _ | apply keep_viaBus | refine keep_resRpWriteEffect ?_
    | intro _

theorem keep_statClrAllEffect {b : Nat} (hK : Keep s0 s) : Keep s0 (statClrAllEffect b s) := by
  unfold statClrAllEffect
  try dsimp only
  with_reducible repeat' first
    | assumption | apply keep_forAll | refine keep_showStat ?_ | refine keep_modRdo ?_ | refine keep_forAll ?_ ?_
    | intro _

theorem keep_execStatClrAll {who : Requester} {b : Nat} (hK : Keep s0 s) : KeepR s0 (execStatClrAll who b s) := by
  unfold execStatClrAll
  with_reducible repeat' first
    | assumption | refine keepR_next ?_ | exact keepR_fault _ | apply keep_viaBus | refine keep_statClrAllEffect ?_
    | intro _

theorem keep_chanCoef {b : Nat} {bs : List Byte} (hK : Keep s0 s) : Keep s0 (chanCoef b bs s) := by
  unfold chanCoef
  with_reducible repeat' first | assumption | refine keep_putF ?_ | refine keep_storeMem ?_

theorem keep_execChanCoefRecompute {b : Nat} {bs : List Byte} (hK : Keep s0 s) : KeepR s0 (execChanCoefRecompute b bs s) := by
  unfold execChanCoefRecompute
  with_reducible repeat' first
    | assumption | refine keep_ite ?_ ?_ | refine keepR_next ?_ | exact keepR_fault _ | refine keep_chanCoef ?_

theorem keep_unmixCfgWriteEffect {who : Requester} {b : Nat} {w : Word} (hK : Keep s0 s) : Keep s0 (unmixCfgWriteEffect who b w s) := by
  unfold unmixCfgWriteEffect
  try dsimp only
  with_reducible repeat' first
    | assumption | refine keep_ite ?_ ?_ | refine keep_writeReg ?_ | refine keep_putF ?_ | refine keep_modRdo ?_

theorem keep_execUnmixCfgWrite {who : Requester} {b : Nat} {w : Word} (hK : Keep s0 s) : KeepR s0 (execUnmixCfgWrite who b w s) := by
  unfold execUnmixCfgWrite
  try dsimp only
  with_reducible repeat' first
    | assumption | refine keepR_next ?_ | exact keepR_fault _ | apply keep_busGate
    | refine keep_unmixCfgWriteEffect ?_ | intro _

theorem keep_execUnmixLoadComplete {b : Nat} (hK : Keep s0 s) : KeepR s0 (execUnmixLoadComplete b s) := by
  unfold execUnmixLoadComplete
  try dsimp only
  with_reducible repeat' first
    | assumption | refine keep_ite ?_ ?_ | refine keepR_next ?_ | exact keepR_fault _ | apply keep_forAll
    | refine keep_detectLine ?_ | refine keep_errRec ?_ | refine keep_putF ?_ | refine keep_modRdo ?_
    | refine keep_unmixSwap ?_ | refine keep_forAll ?_ ?_ | intro _ | split

theorem keep_outCfgWriteEffect {who : Requester} {b k : Nat} {w : Word} (hK : Keep s0 s) : Keep s0 (outCfgWriteEffect who b k w s) := by
  unfold outCfgWriteEffect
  try dsimp only
  with_reducible repeat' first
    | assumption | refine keep_ite ?_ ?_ | refine keep_writeReg ?_ | refine keep_cfgBusy ?_ | refine keep_putF ?_
    | refine keep_setFlux ?_

theorem keep_execOutCfgWrite {who : Requester} {b k : Nat} {w : Word} (hK : Keep s0 s) : KeepR s0 (execOutCfgWrite who b k w s) := by
  unfold execOutCfgWrite
  try dsimp only
  with_reducible repeat' first
    | assumption | refine keepR_next ?_ | exact keepR_fault _ | apply keep_busGate | refine keep_outCfgWriteEffect ?_
    | intro _

theorem keep_execCorrLoadComplete {b k : Nat} (hK : Keep s0 s) : KeepR s0 (execCorrLoadComplete b k s) := by
  unfold execCorrLoadComplete
  try dsimp only
  with_reducible repeat' first
    | assumption | refine keep_ite ?_ ?_ | refine keepR_next ?_ | exact keepR_fault _ | apply keep_forAll
    | refine keep_detectLine ?_ | refine keep_putF ?_ | refine keep_setFlux ?_ | refine keep_errRec ?_
    | refine keep_irqBit ?_ | refine keep_fluxSwap ?_ | refine keep_forAll ?_ ?_ | intro _ | split

theorem keep_execOutShort {b k : Nat} (hK : Keep s0 s) : KeepR s0 (execOutShort b k s) := by
  unfold execOutShort
  try dsimp only
  with_reducible repeat' first
    | assumption | refine keep_ite ?_ ?_ | refine keepR_next ?_ | exact keepR_fault _ | refine keep_errRec ?_
    | refine keep_irqBit ?_ | refine keep_putF ?_

end Sys2Proof.Machine
end

