-- ==== Sys2Proof/Laws/KeepUnits.lean ====
section
/-!
SUPPORT. What every operation keeps (Laws/Keep.lean): the commands of Tulle, Darner, Jodex, constellation, host, calibration, bias, housekeeping, memory, patterns and events.
-/
namespace Sys2Proof.Machine

variable {s0 s : State}

theorem keep_deliver {b : Pub} (hK : Keep s0 s) : Keep s0 (deliver b s) := by
  unfold deliver
  try dsimp only
  with_reducible repeat' first
    | assumption | apply keep_forAll | refine keep_noteDelivery ?_ | refine keep_deliverKey ?_
    | refine keep_darnerInput ?_ | refine keep_egress ?_ | refine keep_forAll ?_ ?_ | intro _

theorem keep_execDecisionDelivery {slot : Nat} (hK : Keep s0 s) : KeepR s0 (execDecisionDelivery slot s) := by
  unfold execDecisionDelivery
  try dsimp only
  with_reducible repeat' first
    | assumption | refine keep_ite ?_ ?_ | refine keepR_next ?_ | exact keepR_fault _ | refine keep_deliver ?_ | split
    | (apply keep_mk; refine keep_fold ?_)

theorem keep_execRouteWithdraw {slot : Nat} (hK : Keep s0 s) : KeepR s0 (execRouteWithdraw slot s) := by
  unfold execRouteWithdraw
  with_reducible repeat' first
    | assumption | refine keep_ite ?_ ?_ | refine keepR_next ?_ | exact keepR_fault _ | refine keep_withdrawSlot ?_

theorem keep_execRoundTimeout {p : Nat} (hK : Keep s0 s) : KeepR s0 (execRoundTimeout p s) := by
  unfold execRoundTimeout
  try dsimp only
  with_reducible repeat' first
    | assumption | refine keep_ite ?_ ?_ | refine keepR_next ?_ | exact keepR_fault _ | refine keep_timeoutRound ?_
    | split

theorem keep_execDarnerPublish {p : Nat} (hK : Keep s0 s) : KeepR s0 (execDarnerPublish p s) := by
  unfold execDarnerPublish
  try dsimp only
  with_reducible repeat' first
    | assumption | refine keep_ite ?_ ?_ | refine keepR_next ?_ | exact keepR_fault _ | refine keep_finishRound ?_
    | refine keep_setPatch ?_ | split

theorem keep_execPatchClr {who : Requester} {p : Nat} (hK : Keep s0 s) : KeepR s0 (execPatchClr who p s) := by
  unfold execPatchClr
  try dsimp only
  with_reducible repeat' first
    | assumption | refine keep_ite ?_ ?_ | refine keepR_next ?_ | exact keepR_fault _ | apply keep_viaBus
    | refine keep_patchClr ?_ | intro _

theorem keep_escPopEffect  (hK : Keep s0 s) : Keep s0 (escPopEffect s) := by
  unfold escPopEffect
  with_reducible repeat' first | assumption | refine keep_ite ?_ ?_ | refine keep_boundWrite ?_ | refine keep_escPop ?_

theorem keep_execEscPop {who : Requester} (hK : Keep s0 s) : KeepR s0 (execEscPop who s) := by
  unfold execEscPop
  with_reducible repeat' first
    | assumption | refine keepR_next ?_ | exact keepR_fault _ | apply keep_viaBus | refine keep_escPopEffect ?_
    | intro _

theorem keep_execPortTrain {who : Requester} {n : Nat} {en : Bool} (hK : Keep s0 s) : KeepR s0 (execPortTrain who n en s) := by
  unfold execPortTrain
  try dsimp only
  with_reducible repeat' first
    | assumption | refine keep_ite ?_ ?_ | refine keepR_next ?_ | exact keepR_fault _ | apply keep_viaBus
    | apply keep_ownAct | refine keep_topoUrge ?_ | refine keep_enterSearch ?_ | refine keep_putF ?_ | intro _

theorem keep_execLaneBlockLock {n : Nat} {lane : LaneBits} (hK : Keep s0 s) : KeepR s0 (execLaneBlockLock n lane s) := by
  unfold execLaneBlockLock
  try dsimp only
  with_reducible repeat' first
    | assumption | refine keep_ite ?_ ?_ | refine keepR_next ?_ | exact keepR_fault _ | refine keep_putF ?_
    | refine keep_modPort ?_ | refine keep_searchDone ?_

theorem keep_execTrainBlockRx {n lane blk : Nat} {inv : Bool} {main : MainBits} {fb : Bool} {at_ : TrainAt} {ppm : Bool} (hK : Keep s0 s) : KeepR s0 (execTrainBlockRx n lane blk inv main fb at_ ppm s) := by
  unfold execTrainBlockRx
  try dsimp only
  with_reducible repeat' first
    | assumption | refine keep_ite ?_ ?_ | refine keepR_next ?_ | exact keepR_fault _ | refine keep_putF ?_
    | refine keep_modPort ?_ | refine keep_searchDone ?_ | refine keep_agreeDone ?_

theorem keep_execModeTimeout {n : Nat} (hK : Keep s0 s) : KeepR s0 (execModeTimeout n s) := by
  unfold execModeTimeout
  try dsimp only
  with_reducible repeat' first
    | assumption | refine keep_ite ?_ ?_ | refine keepR_next ?_ | exact keepR_fault _ | refine keep_modPort ?_
    | refine keep_trainFail ?_

theorem keep_keepMarker {n lane seq port credit arr : Nat} {tvalid : Bool} (hK : Keep s0 s) : Keep s0 (keepMarker n lane seq port credit arr tvalid s) := by
  unfold keepMarker
  try dsimp only
  with_reducible repeat' first
    | assumption | refine keep_ite ?_ ?_ | refine keep_modPort ?_

theorem keep_markerDeskew {n lane seq : Nat} {prev : Option Nat} {skew : Int} (hK : Keep s0 s) : Keep s0 (markerDeskew n lane seq prev skew s) := by
  unfold markerDeskew
  try dsimp only
  with_reducible repeat' first
    | assumption | refine keep_ite ?_ ?_ | refine keep_trainFail ?_ | refine keep_putF ?_ | refine keep_deskewDone ?_
    | refine keep_modPort ?_

theorem keep_markerRestore {n seq : Nat} {hdrs : Bool} (hK : Keep s0 s) : Keep s0 (markerRestore n seq hdrs s) := by
  unfold markerRestore
  try dsimp only
  with_reducible repeat' first
    | assumption | refine keep_ite ?_ ?_ | refine keep_modPort ?_ | refine keep_topoUrge ?_
    | refine keep_restoreSlots ?_ | refine keep_irqBit ?_ | refine keep_putF ?_ | refine keep_enterSearch ?_

theorem keep_seqCheck {n seq : Nat} {prev : Option Nat} (hK : Keep s0 s) : Keep s0 (seqCheck n seq prev s) := by
  unfold seqCheck
  try dsimp only
  with_reducible repeat' first
    | assumption | refine keep_ite ?_ ?_ | refine keep_errRec ?_ | refine keep_irqBit ?_ | refine keep_incSat ?_
    | split

theorem keep_execFrameMarkerRx {n lane : Nat} {fb : Bool} {peer : Sender} {seq credit arr : Nat} {skew : Int} {hdrs : Bool} (hK : Keep s0 s) : KeepR s0 (execFrameMarkerRx n lane fb peer seq credit arr skew hdrs s) := by
  unfold execFrameMarkerRx
  try dsimp only
  with_reducible repeat' first
    | assumption | refine keep_ite ?_ ?_ | refine keepR_next ?_ | exact keepR_fault _ | refine keep_keepMarker ?_
    | refine keep_agreeDone ?_ | refine keep_modPort ?_ | refine keep_markerDeskew ?_ | refine keep_markerRestore ?_
    | refine keep_seqCheck ?_ | refine keep_slotWatch ?_

theorem keep_execDecisionBlockRx {n lane hdr : Nat} {pay : Scrambled} (hK : Keep s0 s) : KeepR s0 (execDecisionBlockRx n lane hdr pay s) := by
  unfold execDecisionBlockRx
  try dsimp only
  with_reducible repeat' first
    | assumption | refine keep_ite ?_ ?_ | refine keepR_next ?_ | exact keepR_fault _ | apply keep_forAll
    | refine keep_dropBlock ?_ | refine keep_incSat ?_ | refine keep_takeEntry ?_ | refine keep_forAll ?_ ?_ | intro _

theorem keep_execDecisionRelease {n : Nat} (hK : Keep s0 s) : KeepR s0 (execDecisionRelease n s) := by
  unfold execDecisionRelease
  try dsimp only
  with_reducible repeat' first
    | assumption | refine keep_ite ?_ ?_ | refine keepR_next ?_ | exact keepR_fault _ | refine keep_ingress ?_
    | refine keep_modPort ?_ | intro _ | split

theorem keep_execUnknownBlockRx {blk : BadBlk} (hK : Keep s0 s) : KeepR s0 (execUnknownBlockRx blk s) := by
  unfold execUnknownBlockRx
  try dsimp only
  with_reducible repeat' first
    | assumption | refine keep_ite ?_ ?_ | refine keepR_next ?_ | exact keepR_fault _ | refine keep_incSat ?_

theorem keep_portActivateEffect {n : Nat} (hK : Keep s0 s) : Keep s0 (portActivateEffect n s) := by
  unfold portActivateEffect
  try dsimp only
  with_reducible repeat' first
    | assumption | refine keep_ite ?_ ?_ | refine keep_irqBit ?_ | refine keep_setPortState ?_
    | refine keep_modPort ?_ | refine keep_topoUrge ?_ | intro _ | (apply keep_mk; refine keep_fold ?_)

theorem keep_execPortActivate {who : Requester} {n : Nat} (hK : Keep s0 s) : KeepR s0 (execPortActivate who n s) := by
  unfold execPortActivate
  try dsimp only
  with_reducible repeat' first
    | assumption | refine keepR_next ?_ | exact keepR_fault _ | apply keep_viaBus | apply keep_ownAct
    | refine keep_portActivateEffect ?_ | intro _

theorem keep_execTrainTimeout {n : Nat} {measure : Bool} (hK : Keep s0 s) : KeepR s0 (execTrainTimeout n measure s) := by
  unfold execTrainTimeout
  try dsimp only
  with_reducible repeat' first
    | assumption | refine keep_ite ?_ ?_ | refine keepR_next ?_ | exact keepR_fault _ | refine keep_trainFail ?_

theorem keep_execTrainBackoff {n : Nat} (hK : Keep s0 s) : KeepR s0 (execTrainBackoff n s) := by
  unfold execTrainBackoff
  try dsimp only
  with_reducible repeat' first
    | assumption | refine keep_ite ?_ ?_ | refine keepR_next ?_ | exact keepR_fault _ | refine keep_enterSearch ?_
    | refine keep_modPort ?_

theorem keep_execJodexLossOfLock {n lanes : Nat} {cause : LolCause} (hK : Keep s0 s) : KeepR s0 (execJodexLossOfLock n lanes cause s) := by
  unfold execJodexLossOfLock
  with_reducible repeat' first
    | assumption | refine keep_ite ?_ ?_ | refine keepR_next ?_ | exact keepR_fault _ | refine keep_loseLock ?_

theorem keep_stampMean {n : Nat} {app : Int} (hK : Keep s0 s) : Keep s0 (stampMean n app s) := by
  unfold stampMean
  try dsimp only
  with_reducible repeat' first
    | assumption | refine keep_ite ?_ ?_ | refine keep_modPort ?_ | refine keep_putF ?_

theorem keep_stampActive {n : Nat} {app : Int} (hK : Keep s0 s) : Keep s0 (stampActive n app s) := by
  unfold stampActive
  try dsimp only
  with_reducible repeat' first
    | assumption | refine keep_ite ?_ ?_ | refine keep_modPort ?_ | refine keep_errRec ?_ | refine keep_irqBit ?_
    | refine keep_putF ?_

theorem keep_execLoopStampRx {n id dep arr : Nat} (hK : Keep s0 s) : KeepR s0 (execLoopStampRx n id dep arr s) := by
  unfold execLoopStampRx
  try dsimp only
  with_reducible repeat' first
    | assumption | refine keep_ite ?_ ?_ | refine keepR_next ?_ | exact keepR_fault _ | refine keep_putF ?_
    | refine keep_sendBlk ?_ | refine keep_stampMean ?_ | refine keep_stampActive ?_

theorem keep_execLoopReportRx {n val : Nat} (hK : Keep s0 s) : KeepR s0 (execLoopReportRx n val s) := by
  unfold execLoopReportRx
  try dsimp only
  with_reducible repeat' first
    | assumption | refine keep_ite ?_ ?_ | refine keepR_next ?_ | exact keepR_fault _ | refine keep_modPort ?_

theorem keep_execLoopStampSend {n id : Nat} (hK : Keep s0 s) : KeepR s0 (execLoopStampSend n id s) := by
  unfold execLoopStampSend
  with_reducible repeat' first
    | assumption | refine keep_ite ?_ ?_ | refine keepR_next ?_ | exact keepR_fault _ | refine keep_sendStamp ?_

theorem keep_execTimeBlockRx {n val : Nat} (hK : Keep s0 s) : KeepR s0 (execTimeBlockRx n val s) := by
  unfold execTimeBlockRx
  try dsimp only
  with_reducible repeat' first
    | assumption | refine keep_ite ?_ ?_ | refine keepR_next ?_ | exact keepR_fault _ | refine keep_slotWatch ?_
    | refine keep_modPort ?_

theorem keep_messageEnd {n chan : Nat} {bs : List Byte} (hK : Keep s0 s) : Keep s0 (messageEnd n chan bs s) := by
  unfold messageEnd
  try dsimp only
  with_reducible repeat' first
    | assumption | refine keep_ite ?_ ?_ | refine keep_mgmtDrop ?_ | refine keep_modPort ?_ | refine keep_incSat ?_

theorem keep_messageAdd {n chan : Nat} {eom : Bool} {bs : List Byte} (hK : Keep s0 s) : Keep s0 (messageAdd n chan eom bs s) := by
  unfold messageAdd
  try dsimp only
  with_reducible repeat' first
    | assumption | refine keep_ite ?_ ?_ | refine keep_mgmtDrop ?_ | refine keep_modPort ?_
    | refine keep_messageEnd ?_

theorem keep_execMgmtFragmentRx {n : Nat} {som eom : Bool} {chan : Nat} {bytes : List Byte} (hK : Keep s0 s) : KeepR s0 (execMgmtFragmentRx n som eom chan bytes s) := by
  unfold execMgmtFragmentRx
  try dsimp only
  with_reducible repeat' first
    | assumption | refine keep_ite ?_ ?_ | refine keepR_next ?_ | exact keepR_fault _ | refine keep_mgmtDrop ?_
    | refine keep_modPort ?_ | refine keep_messageAdd ?_ | intro _ | split

theorem keep_execFillerRx {n : Nat} {drift : Int} (hK : Keep s0 s) : KeepR s0 (execFillerRx n drift s) := by
  unfold execFillerRx
  try dsimp only
  with_reducible repeat' first
    | assumption | refine keep_ite ?_ ?_ | refine keepR_next ?_ | exact keepR_fault _ | refine keep_modPort ?_
    | refine keep_incSat ?_

theorem keep_idleEnterReqEffect {n : Nat} (hK : Keep s0 s) : Keep s0 (idleEnterReqEffect n s) := by
  unfold idleEnterReqEffect
  try dsimp only
  with_reducible repeat' first
    | assumption | refine keep_ite ?_ ?_ | refine keep_modPort ?_ | refine keep_errRec ?_

theorem keep_execIdleEnterReq {who : Requester} {n : Nat} (hK : Keep s0 s) : KeepR s0 (execIdleEnterReq who n s) := by
  unfold execIdleEnterReq
  try dsimp only
  with_reducible repeat' first
    | assumption | refine keepR_next ?_ | exact keepR_fault _ | apply keep_viaBus | apply keep_ownAct
    | refine keep_idleEnterReqEffect ?_ | intro _

theorem keep_execIdleEnterRx {n : Nat} (hK : Keep s0 s) : KeepR s0 (execIdleEnterRx n s) := by
  unfold execIdleEnterRx
  try dsimp only
  with_reducible repeat' first
    | assumption | refine keep_ite ?_ ?_ | refine keepR_next ?_ | exact keepR_fault _ | refine keep_modPort ?_

theorem keep_idleExitEffect {n : Nat} (hK : Keep s0 s) : Keep s0 (idleExitEffect n s) := by
  unfold idleExitEffect
  try dsimp only
  with_reducible repeat' first
    | assumption | refine keep_ite ?_ ?_ | refine keep_modPort ?_

theorem keep_execIdleExit {who : Requester} {n : Nat} (hK : Keep s0 s) : KeepR s0 (execIdleExit who n s) := by
  unfold execIdleExit
  with_reducible repeat' first
    | assumption | refine keepR_next ?_ | exact keepR_fault _ | apply keep_viaBus | apply keep_ownAct
    | refine keep_idleExitEffect ?_ | intro _

theorem keep_execMarginLow {n lane m : Nat} (hK : Keep s0 s) : KeepR s0 (execMarginLow n lane m s) := by
  unfold execMarginLow
  try dsimp only
  with_reducible repeat' first
    | assumption | refine keep_ite ?_ ?_ | refine keepR_next ?_ | exact keepR_fault _ | refine keep_putF ?_
    | refine keep_modPort ?_ | refine keep_errRec ?_ | refine keep_irqBit ?_

theorem keep_execHelloSend  (hK : Keep s0 s) : KeepR s0 (execHelloSend s) := by
  unfold execHelloSend
  try dsimp only
  with_reducible repeat' first
    | assumption | refine keep_ite ?_ ?_ | refine keepR_next ?_ | exact keepR_fault _ | apply keep_forAll
    | refine keep_bumpMseq ?_ | refine keep_sendMsg ?_ | refine keep_forAll ?_ ?_ | intro _
    | (apply keep_mk; refine keep_fold ?_)

theorem keep_execHelloRx {n : Nat} (hK : Keep s0 s) : KeepR s0 (execHelloRx n s) := by
  unfold execHelloRx
  try dsimp only
  with_reducible repeat' first
    | assumption | refine keep_ite ?_ ?_ | refine keepR_next ?_ | exact keepR_fault _ | apply keep_onMsg
    | refine keep_urge ?_ | refine keep_numClash ?_ | intro _ | (apply keep_mk; refine keep_fold ?_)

theorem keep_execLsaFlood  (hK : Keep s0 s) : KeepR s0 (execLsaFlood s) := by
  unfold execLsaFlood
  with_reducible repeat' first
    | assumption | refine keep_ite ?_ ?_ | refine keepR_next ?_ | exact keepR_fault _ | refine keep_repairAll ?_
    | refine keep_floodLsa ?_

theorem keep_hear {uid : Nat} (hK : Keep s0 s) : Keep s0 (hear uid s) := by
  unfold hear
  with_reducible repeat' first | assumption | refine keep_ite ?_ ?_ | (apply keep_mk; refine keep_fold ?_)

theorem keep_execLsaRx {n : Nat} (h : Keep s0 s) : KeepR s0 (execLsaRx n s) := by
  refine keepR_next ?_
  split
  · exact h
  · rename_i e
    have h1 := keep_takeMsg h e
    exact keep_ite h (keep_ite (keep_hear h1) (keep_repairAll (keep_numClash (keep_topoEdit (fun _ ht => ht) (keep_passOn (keep_hear h1))))))

theorem keep_execTopoAgeOut {uid : Nat} (hK : Keep s0 s) : KeepR s0 (execTopoAgeOut uid s) := by
  unfold execTopoAgeOut
  try dsimp only
  with_reducible repeat' first
    | assumption | refine keep_ite ?_ ?_ | refine keepR_next ?_ | exact keepR_fault _ | apply keep_topoEdit | intro _
    | (apply keep_mk; refine keep_fold ?_)

theorem keep_execNumAssign  (hK : Keep s0 s) : KeepR s0 (execNumAssign s) := by
  unfold execNumAssign
  try dsimp only
  with_reducible repeat' first
    | assumption | refine keep_ite ?_ ?_ | refine keepR_next ?_ | exact keepR_fault _ | refine keep_errRec ?_
    | refine keep_irqBit ?_ | refine keep_putF ?_ | refine keep_joinAs ?_ | intro _ | split

theorem keep_idNumEffect {v : Nat} (hK : Keep s0 s) : Keep s0 (idNumEffect v s) := by
  unfold idNumEffect
  try dsimp only
  with_reducible repeat' first
    | assumption | refine keep_ite ?_ ?_ | refine keep_putF ?_ | (apply keep_mk; refine keep_fold ?_)

theorem keep_rqGo {who : Requester} {op : Nat} {ndetOk auto : Bool} (hK : Keep s0 s) : Keep s0 (rqGo who op ndetOk auto s) := by
  unfold rqGo
  try dsimp only
  with_reducible repeat' first
    | assumption | refine keep_ite ?_ ?_ | refine keep_errRec ?_ | refine keep_urge ?_ | refine keep_putF ?_
    | (apply keep_mk; refine keep_fold ?_)

theorem keep_putRqCtl {k op : Nat} {ndetOk auto : Bool} (hK : Keep s0 s) : Keep s0 (putRqCtl k op ndetOk auto s) := by
  unfold putRqCtl
  with_reducible repeat' first | assumption | refine keep_putF ?_

theorem keep_rqReserveEffect {who : Requester} {ndetOk auto : Bool} (hK : Keep s0 s) : Keep s0 (rqReserveEffect who ndetOk auto s) := by
  unfold rqReserveEffect
  with_reducible repeat' first | assumption | refine keep_rqGo ?_ | refine keep_putRqCtl ?_

theorem keep_execRqReserve {who : Requester} {ndetOk auto : Bool} (hK : Keep s0 s) : KeepR s0 (execRqReserve who ndetOk auto s) := by
  unfold execRqReserve
  with_reducible repeat' first
    | assumption | refine keepR_next ?_ | exact keepR_fault _ | apply keep_viaBus | refine keep_rqReserveEffect ?_
    | intro _

theorem keep_rqReleaseEffect {who : Requester} (hK : Keep s0 s) : Keep s0 (rqReleaseEffect who s) := by
  unfold rqReleaseEffect
  with_reducible repeat' first | assumption | refine keep_rqGo ?_ | refine keep_putF ?_

theorem keep_execRqRelease {who : Requester} (hK : Keep s0 s) : KeepR s0 (execRqRelease who s) := by
  unfold execRqRelease
  with_reducible repeat' first
    | assumption | refine keepR_next ?_ | exact keepR_fault _ | apply keep_viaBus | refine keep_rqReleaseEffect ?_
    | intro _

theorem keep_execReserveRx {n : Nat} (hK : Keep s0 s) : KeepR s0 (execReserveRx n s) := by
  unfold execReserveRx
  try dsimp only
  with_reducible repeat' first
    | assumption | refine keep_ite ?_ ?_ | refine keepR_next ?_ | exact keepR_fault _ | apply keep_onMsg
    | refine keep_sendNum ?_ | intro _ | split | (apply keep_mk; refine keep_fold ?_)

theorem keep_execResAckRx {n : Nat} (hK : Keep s0 s) : KeepR s0 (execResAckRx n s) := by
  unfold execResAckRx
  try dsimp only
  with_reducible repeat' first
    | assumption | refine keepR_next ?_ | exact keepR_fault _ | apply keep_onMsg | refine keep_rqAck ?_ | intro _
    | split

theorem keep_execResNakRx {n : Nat} (hK : Keep s0 s) : KeepR s0 (execResNakRx n s) := by
  unfold execResNakRx
  try dsimp only
  with_reducible repeat' first
    | assumption | refine keep_ite ?_ ?_ | refine keepR_next ?_ | exact keepR_fault _ | apply keep_forAll
    | apply keep_onMsg | refine keep_rqFail ?_ | refine keep_sendNum ?_ | refine keep_rqStart ?_
    | refine keep_forAll ?_ ?_ | intro _ | split | (apply keep_mk; refine keep_fold ?_)

theorem keep_execCommitRx {n : Nat} (hK : Keep s0 s) : KeepR s0 (execCommitRx n s) := by
  unfold execCommitRx
  try dsimp only
  with_reducible repeat' first
    | assumption | refine keep_ite ?_ ?_ | refine keepR_next ?_ | exact keepR_fault _ | apply keep_onMsg
    | refine keep_sendNum ?_ | refine keep_stageRoute ?_ | intro _ | split | (apply keep_mk; refine keep_fold ?_)

theorem keep_dropTent {h : Hold} (hK : Keep s0 s) : Keep s0 (dropTent h s) := by
  unfold dropTent
  try dsimp only
  with_reducible repeat' first
    | assumption | refine keep_ite ?_ ?_ | refine keep_dropHold ?_ | intro _ | (apply keep_mk; refine keep_fold ?_)

theorem keep_execReleaseRx {n : Nat} (hK : Keep s0 s) : KeepR s0 (execReleaseRx n s) := by
  unfold execReleaseRx
  try dsimp only
  with_reducible repeat' first
    | assumption | refine keep_ite ?_ ?_ | refine keepR_next ?_ | exact keepR_fault _ | apply keep_forAll
    | apply keep_onMsg | refine keep_dropTent ?_ | refine keep_dropHold ?_ | refine keep_forAll ?_ ?_ | intro _

theorem keep_execWithdrawRx {n : Nat} (hK : Keep s0 s) : KeepR s0 (execWithdrawRx n s) := by
  unfold execWithdrawRx
  try dsimp only
  with_reducible repeat' first
    | assumption | refine keepR_next ?_ | exact keepR_fault _ | apply keep_forAll | apply keep_onMsg
    | refine keep_dropHold ?_ | refine keep_tellBelow ?_ | refine keep_forAll ?_ ?_ | intro _

theorem keep_execReserveTimeout {key : Nat} (hK : Keep s0 s) : KeepR s0 (execReserveTimeout key s) := by
  unfold execReserveTimeout
  try dsimp only
  with_reducible repeat' first
    | assumption | refine keep_ite ?_ ?_ | refine keepR_next ?_ | exact keepR_fault _ | refine keep_rqFail ?_ | split

theorem keep_execTentativeExpire {route : Nat} (hK : Keep s0 s) : KeepR s0 (execTentativeExpire route s) := by
  unfold execTentativeExpire
  try dsimp only
  with_reducible repeat' first
    | assumption | refine keepR_next ?_ | exact keepR_fault _ | apply keep_forAll | refine keep_dropTent ?_
    | refine keep_forAll ?_ ?_ | intro _

theorem keep_execSkewReportRx {n : Nat} (h : Keep s0 s) : KeepR s0 (execSkewReportRx n s) := by
  refine keepR_next ?_
  split
  · exact h
  · rename_i c bs t e
    have h1 := keep_takeMsg h e
    have h2 := keep_passOn (ports := (activePorts t).filter (fun p => p ≠ n)) (chan := c) (bs := bs) h1
    have h3 := fun (x : SMap SkewRep) m => keep_putF (p := 0x39) (f := CAL.SKEW_STAT_NREP) (i := 0) (v := m)
      (s := { passOn ((activePorts t).filter (fun p => p ≠ n)) c bs t with
        cal := { (passOn ((activePorts t).filter (fun p => p ≠ n)) c bs t).cal with reps := x } }) h2
    exact keep_ite h (keep_ite h1 (keep_ite (h3 _ _) (keep_skewPropose (h3 _ _))))

theorem keep_cstLeaveEffect  (hK : Keep s0 s) : Keep s0 (cstLeaveEffect s) := by
  unfold cstLeaveEffect
  try dsimp only
  with_reducible repeat' first
    | assumption | refine keep_ite ?_ ?_ | refine keep_dropAll ?_ | apply keep_topoEdit | refine keep_putF ?_
    | refine keep_noteWas ?_ | intro _ | (apply keep_mk; refine keep_fold ?_)

theorem keep_execCstLeave {who : Requester} (hK : Keep s0 s) : KeepR s0 (execCstLeave who s) := by
  unfold execCstLeave
  with_reducible repeat' first
    | assumption | refine keepR_next ?_ | exact keepR_fault _ | apply keep_viaBus | refine keep_cstLeaveEffect ?_
    | intro _

theorem keep_execMsixUnmask {v : Nat} (hK : Keep s0 s) : KeepR s0 (execMsixUnmask v s) := by
  unfold execMsixUnmask
  try dsimp only
  with_reducible repeat' first
    | assumption | refine keep_ite ?_ ?_ | refine keepR_next ?_ | exact keepR_fault _ | intro _
    | (apply keep_mk; refine keep_fold ?_)

theorem keep_execLinkUp {width speed : Nat} {bme : Bool} (hK : Keep s0 s) : KeepR s0 (execLinkUp width speed bme s) := by
  unfold execLinkUp
  try dsimp only
  with_reducible repeat' first
    | assumption | refine keep_ite ?_ ?_ | refine keep_itePair ?_ ?_ | refine keepR_next ?_ | exact keepR_fault _
    | apply keep_forAll | refine keep_putF ?_ | refine keep_irqBit ?_ | refine keep_forAll ?_ ?_ | intro _

theorem keep_execPcieReset {cause : Nat} (hK : Keep s0 s) : KeepR s0 (execPcieReset cause s) := by
  unfold execPcieReset
  with_reducible repeat' first | assumption | refine keepR_next ?_ | exact keepR_fault _ | refine keep_linkDown ?_

theorem keep_execPoisonRx {bar off : Nat} (hK : Keep s0 s) : KeepR s0 (execPoisonRx bar off s) := by
  unfold execPoisonRx
  with_reducible repeat' first | assumption | refine keepR_next ?_ | exact keepR_fault _ | refine keep_errRec ?_

theorem keep_bar2Hole {a dir : Nat} (hK : Keep s0 s) : Keep s0 (bar2Hole a dir s) := by
  unfold bar2Hole
  with_reducible repeat' first | assumption | refine keep_ite ?_ ?_ | refine keep_errRec ?_

theorem keep_answer {bs : List Byte} (hK : Keep s0 s) : Keep s0 (answer bs s) := by
  unfold answer
  with_reducible repeat' first | assumption | (apply keep_mk; refine keep_fold ?_)

theorem keep_execBar2Read {a n : Nat} (hK : Keep s0 s) : KeepR s0 (execBar2Read a n s) := by
  unfold execBar2Read
  try dsimp only
  with_reducible repeat' first
    | assumption | refine keep_ite ?_ ?_ | refine keepR_next ?_ | exact keepR_fault _ | refine keep_answer ?_
    | refine keep_bar2Hole ?_ | refine keep_readMem ?_ | split | (apply keep_mk; refine keep_fold ?_)

theorem keep_hostStore {m : MemRef} {a : Nat} {bs : List Byte} (hK : Keep s0 s) : Keep s0 (hostStore m a bs s) := by
  unfold hostStore
  with_reducible repeat' first
    | assumption | refine keep_ite ?_ ?_ | refine keep_errRec ?_ | refine keep_irqBit ?_ | refine keep_cfgBusy ?_
    | refine keep_storeMem ?_

theorem keep_execBar2Write {a : Nat} {bs : List Byte} (hK : Keep s0 s) : KeepR s0 (execBar2Write a bs s) := by
  unfold execBar2Write
  try dsimp only
  with_reducible repeat' first
    | assumption | refine keep_ite ?_ ?_ | refine keepR_next ?_ | exact keepR_fault _ | refine keep_errRec ?_
    | refine keep_bar2Hole ?_ | refine keep_hostStore ?_ | split

theorem keep_chEnable {c : Nat} (hK : Keep s0 s) : Keep s0 (chEnable c s) := by
  unfold chEnable
  try dsimp only
  with_reducible repeat' first
    | assumption | refine keep_ite ?_ ?_ | refine keep_putF ?_ | refine keep_chError ?_ | refine keep_modCh ?_
    | refine keep_streamIssue ?_

theorem keep_execChEnable {who : Requester} {c : Nat} (hK : Keep s0 s) : KeepR s0 (execChEnable who c s) := by
  unfold execChEnable
  with_reducible repeat' first
    | assumption | refine keepR_next ?_ | exact keepR_fault _ | apply keep_viaBus | refine keep_chEnable ?_ | intro _

theorem keep_chDisable {c : Nat} (hK : Keep s0 s) : Keep s0 (chDisable c s) := by
  unfold chDisable
  try dsimp only
  with_reducible repeat' first
    | assumption | refine keep_ite ?_ ?_ | refine keep_putF ?_ | refine keep_completion ?_ | refine keep_modCh ?_
    | refine keep_chFail ?_ | intro _ | split

theorem keep_execChDisable {who : Requester} {c : Nat} (hK : Keep s0 s) : KeepR s0 (execChDisable who c s) := by
  unfold execChDisable
  with_reducible repeat' first
    | assumption | refine keepR_next ?_ | exact keepR_fault _ | apply keep_viaBus | refine keep_chDisable ?_ | intro _

theorem keep_execChDrainDone {c : Nat} (hK : Keep s0 s) : KeepR s0 (execChDrainDone c s) := by
  unfold execChDrainDone
  try dsimp only
  with_reducible repeat' first
    | assumption | refine keep_ite ?_ ?_ | refine keepR_next ?_ | exact keepR_fault _ | refine keep_putF ?_
    | refine keep_modCh ?_

theorem keep_chReset {c : Nat} (hK : Keep s0 s) : Keep s0 (chReset c s) := by
  unfold chReset
  try dsimp only
  with_reducible repeat' first
    | assumption | refine keep_ite ?_ ?_ | refine keep_putF ?_ | refine keep_modCh ?_

theorem keep_execChReset {who : Requester} {c : Nat} (hK : Keep s0 s) : KeepR s0 (execChReset who c s) := by
  unfold execChReset
  with_reducible repeat' first
    | assumption | refine keepR_next ?_ | exact keepR_fault _ | apply keep_viaBus | refine keep_chReset ?_ | intro _

theorem keep_execChTailWrite {who : Requester} {c v : Nat} (hK : Keep s0 s) : KeepR s0 (execChTailWrite who c v s) := by
  unfold execChTailWrite
  with_reducible repeat' first
    | assumption | refine keepR_next ?_ | exact keepR_fault _ | apply keep_viaBus | refine keep_putF ?_ | intro _

theorem keep_readDesc {c : Nat} {bs : Option (List Byte)} (hK : Keep s0 s) : Keep s0 (readDesc c bs s) := by
  unfold readDesc
  try dsimp only
  with_reducible repeat' first
    | assumption | refine keep_ite ?_ ?_ | refine keep_finishDesc ?_ | refine keep_modCh ?_ | intro _ | split

theorem keep_execDescriptor {c : Nat} {bs : Option (List Byte)} (hK : Keep s0 s) : KeepR s0 (execDescriptor c bs s) := by
  unfold execDescriptor
  with_reducible repeat' first | assumption | refine keepR_next ?_ | exact keepR_fault _ | refine keep_readDesc ?_

theorem keep_landCopy {c : Nat} {d : Desc} {data : List Byte} (hK : Keep s0 s) : Keep s0 (landCopy c d data s) := by
  unfold landCopy
  try dsimp only
  with_reducible repeat' first
    | assumption | refine keep_ite ?_ ?_ | refine keep_cfgBusy ?_ | refine keep_errRec ?_ | refine keep_storeMem ?_
    | refine keep_modCh ?_ | refine keep_addLines ?_ | intro _ | split

theorem keep_copyIn {c : Nat} {d : Desc} {data : List Byte} {ok : Bool} (hK : Keep s0 s) : Keep s0 (copyIn c d data ok s) := by
  unfold copyIn
  try dsimp only
  with_reducible repeat' first
    | assumption | refine keep_ite ?_ ?_ | refine keep_landCopy ?_ | refine keep_finishDesc ?_

theorem keep_copyOut {c : Nat} {d : Desc} (h : Keep s0 s) : Keep s0 (copyOut c d s) := by
  have h1 := keep_checkLines (req := 3) (l := linesOf64 d.dev d.len) h
  unfold copyOut
  split <;> (rename_i e; rw [e] at h1)
  · exact keep_finishDesc (keep_addLines (keep_hostWrite h1))
  · exact h1
  · exact keep_finishDesc (keep_addLines (keep_ite h1 (keep_hostWrite h1)))

theorem keep_execDmaTransferDone {c : Nat} {data : List Byte} {ok : Bool} (hK : Keep s0 s) : KeepR s0 (execDmaTransferDone c data ok s) := by
  unfold execDmaTransferDone
  try dsimp only
  with_reducible repeat' first
    | assumption | refine keep_ite ?_ ?_ | refine keepR_next ?_ | exact keepR_fault _ | refine keep_copyIn ?_
    | refine keep_copyOut ?_ | split

theorem keep_execChHposWrite {who : Requester} {c v : Nat} (hK : Keep s0 s) : KeepR s0 (execChHposWrite who c v s) := by
  unfold execChHposWrite
  try dsimp only
  with_reducible repeat' first
    | assumption | refine keepR_next ?_ | exact keepR_fault _ | apply keep_viaBus | refine keep_streamIssue ?_
    | refine keep_putF ?_ | intro _

theorem keep_execHostReadCompletion {c : Nat} {data : List Byte} {ok : Bool} (hK : Keep s0 s) : KeepR s0 (execHostReadCompletion c data ok s) := by
  unfold execHostReadCompletion
  try dsimp only
  with_reducible repeat' first
    | assumption | refine keep_ite ?_ ?_ | refine keepR_next ?_ | exact keepR_fault _ | refine keep_modCh ?_
    | refine keep_streamData ?_ | refine keep_chError ?_ | intro _ | split

theorem keep_execUploadBurst {c : Nat} (h : Keep s0 s) : KeepR s0 (execUploadBurst c s) := by
  unfold execUploadBurst
  dsimp only
  refine keep_ite (keepR_next h) (keepR_next (keep_chProgress (keep_writeback (keep_putF (keep_addLines (keep_ite ?_ ?_))))))
  · exact keep_showFill (keep_putF (keep_hostWrite (keep_ite (P := fun x : List Byte × State => Keep s0 x.2) (keep_uploadRecords h) h)))
  · exact keep_showEsc (keep_esc (fun hl => by simp only [List.length_drop]; omega)
      (keep_hostWrite (keep_ite (P := fun x : List Byte × State => Keep s0 x.2) (keep_uploadRecords h) h)))

theorem keep_execChIrqHoldoff {c : Nat} (hK : Keep s0 s) : KeepR s0 (execChIrqHoldoff c s) := by
  unfold execChIrqHoldoff
  try dsimp only
  with_reducible repeat' first
    | assumption | refine keep_ite ?_ ?_ | refine keepR_next ?_ | exact keepR_fault _ | refine keep_chTell ?_

theorem keep_execCompletionTimeout {refetch : Bool} {x : Nat} (hK : Keep s0 s) : KeepR s0 (execCompletionTimeout refetch x s) := by
  unfold execCompletionTimeout
  try dsimp only
  with_reducible repeat' first
    | assumption | refine keep_ite ?_ ?_ | refine keepR_next ?_ | exact keepR_fault _ | refine keep_poisonLine ?_
    | refine keep_modCh ?_ | refine keep_finishDesc ?_ | refine keep_readDesc ?_ | refine keep_chError ?_ | intro _
    | split

theorem keep_mitLoad  (hK : Keep s0 s) : Keep s0 (mitLoad s) := by
  unfold mitLoad
  try dsimp only
  with_reducible repeat' first
    | assumption | refine keep_ite ?_ ?_ | refine keep_errRec ?_ | refine keep_putF ?_
    | (apply keep_mk; refine keep_fold ?_)

theorem keep_execMitLoad {who : Requester} {count : Nat} (hK : Keep s0 s) : KeepR s0 (execMitLoad who count s) := by
  unfold execMitLoad
  try dsimp only
  with_reducible repeat' first
    | assumption | refine keepR_next ?_ | exact keepR_fault _ | apply keep_viaBus | refine keep_mitLoad ?_
    | refine keep_putF ?_ | intro _

theorem keep_doorbell {seq : Nat} (hK : Keep s0 s) : Keep s0 (doorbell seq s) := by
  unfold doorbell
  try dsimp only
  with_reducible repeat' first
    | assumption | refine keep_ite ?_ ?_ | refine keep_errRec ?_ | refine keep_putF ?_
    | (apply keep_mk; refine keep_fold ?_)

theorem keep_execMbxDoorbell {who : Requester} {seq : Nat} (hK : Keep s0 s) : KeepR s0 (execMbxDoorbell who seq s) := by
  unfold execMbxDoorbell
  with_reducible repeat' first
    | assumption | refine keepR_next ?_ | exact keepR_fault _ | apply keep_viaBus | refine keep_doorbell ?_ | intro _

theorem keep_smbRead {v : Nat} (hK : Keep s0 s) : Keep s0 (smbRead v s) := by
  unfold smbRead
  with_reducible repeat' first | assumption | (apply keep_mk; refine keep_fold ?_)

theorem keep_execSmbHealthRead  (hK : Keep s0 s) : KeepR s0 (execSmbHealthRead s) := by
  unfold execSmbHealthRead
  try dsimp only
  with_reducible repeat' first
    | assumption | refine keepR_next ?_ | exact keepR_fault _ | refine keep_smbAlert ?_ | refine keep_smbRead ?_
    | (apply keep_mk; refine keep_fold ?_)

theorem keep_execSmbTempRead  (hK : Keep s0 s) : KeepR s0 (execSmbTempRead s) := by
  unfold execSmbTempRead
  with_reducible repeat' first
    | assumption | refine keep_ite ?_ ?_ | refine keepR_next ?_ | exact keepR_fault _ | refine keep_smbRead ?_

theorem keep_execSmbPowerRead  (hK : Keep s0 s) : KeepR s0 (execSmbPowerRead s) := by
  unfold execSmbPowerRead
  with_reducible repeat' first
    | assumption | refine keep_ite ?_ ?_ | refine keepR_next ?_ | exact keepR_fault _ | refine keep_smbRead ?_

theorem keep_execSmbEnergyRead  (hK : Keep s0 s) : KeepR s0 (execSmbEnergyRead s) := by
  unfold execSmbEnergyRead
  with_reducible repeat' first | assumption | refine keepR_next ?_ | exact keepR_fault _ | refine keep_smbRead ?_

theorem keep_execSmbUidRead  (hK : Keep s0 s) : KeepR s0 (execSmbUidRead s) := by
  unfold execSmbUidRead
  with_reducible repeat' first | assumption | refine keepR_next ?_ | exact keepR_fault _ | refine keep_smbRead ?_

theorem keep_execSmbStatusRead  (hK : Keep s0 s) : KeepR s0 (execSmbStatusRead s) := by
  unfold execSmbStatusRead
  with_reducible repeat' first | assumption | refine keepR_next ?_ | exact keepR_fault _ | refine keep_smbRead ?_

theorem keep_execSmbAlertClear {v : Nat} (hK : Keep s0 s) : KeepR s0 (execSmbAlertClear v s) := by
  unfold execSmbAlertClear
  with_reducible repeat' first
    | assumption | refine keep_ite ?_ ?_ | refine keepR_next ?_ | exact keepR_fault _ | refine keep_smbAlert ?_
    | (apply keep_mk; refine keep_fold ?_)

theorem keep_execCalReq {who : Requester} {mask : Nat} (hK : Keep s0 s) : KeepR s0 (execCalReq who mask s) := by
  unfold execCalReq
  try dsimp only
  with_reducible repeat' first
    | assumption | refine keepR_next ?_ | exact keepR_fault _ | apply keep_forAll | apply keep_viaBus
    | refine keep_setPending ?_ | refine keep_forAll ?_ ?_ | intro _

theorem keep_enterStep {b k : Nat} {meas : List (Option Int)} (hK : Keep s0 s) : Keep s0 (enterStep b k meas s) := by
  unfold enterStep
  try dsimp only
  with_reducible repeat' first
    | assumption | refine keep_ite ?_ ?_ | refine keep_modCal ?_ | refine keep_stampTimer ?_ | refine keep_putSteps ?_

theorem keep_execCalStepDone {b : Nat} {meas : List (Option Int)} (hK : Keep s0 s) : KeepR s0 (execCalStepDone b meas s) := by
  unfold execCalStepDone
  try dsimp only
  with_reducible repeat' first
    | assumption | refine keep_ite ?_ ?_ | refine keepR_next ?_ | exact keepR_fault _ | refine keep_enterStep ?_
    | refine keep_runDone ?_

theorem keep_execCalStale {b : Nat} (hK : Keep s0 s) : KeepR s0 (execCalStale b s) := by
  unfold execCalStale
  try dsimp only
  with_reducible repeat' first
    | assumption | refine keep_ite ?_ ?_ | refine keepR_next ?_ | exact keepR_fault _ | refine keep_stampTimer ?_
    | refine keep_irqBit ?_ | refine keep_setStale ?_ | refine keep_calRestart ?_ | refine keep_errRec ?_
    | refine keep_incSat ?_ | refine keep_calEval ?_

theorem keep_execAdcBlockDone {b : Nat} {sums : List (Int × Nat × Int)} (hK : Keep s0 s) : KeepR s0 (execAdcBlockDone b sums s) := by
  unfold execAdcBlockDone
  try dsimp only
  with_reducible repeat' first
    | assumption | refine keep_ite ?_ ?_ | refine keepR_next ?_ | exact keepR_fault _ | refine keep_closeBlock ?_
    | refine keep_calReject ?_ | refine keep_putSlot ?_ | refine keep_calShadow ?_ | intro _ | split
    | (apply keep_mk; refine keep_fold ?_)

theorem keep_execDiscProposal {b t : Nat} (hK : Keep s0 s) : KeepR s0 (execDiscProposal b t s) := by
  unfold execDiscProposal
  try dsimp only
  with_reducible repeat' first
    | assumption | refine keep_ite ?_ ?_ | refine keepR_next ?_ | exact keepR_fault _ | refine keep_setTrack ?_
    | refine keep_calReject ?_ | refine keep_geoCommit ?_ | intro _ | split | (apply keep_mk; refine keep_fold ?_)

theorem keep_execSkewEstimate  (hK : Keep s0 s) : KeepR s0 (execSkewEstimate s) := by
  unfold execSkewEstimate
  try dsimp only
  with_reducible repeat' first
    | assumption | refine keep_ite ?_ ?_ | refine keep_itePair ?_ ?_ | refine keepR_next ?_ | exact keepR_fault _
    | refine keep_modPort ?_ | refine keep_putF ?_ | refine keep_skewPropose ?_ | refine keep_sendFlood ?_ | intro _
    | split | (apply keep_mk; refine keep_fold ?_)

theorem keep_execCalStoreReq {who : Requester} (hK : Keep s0 s) : KeepR s0 (execCalStoreReq who s) := by
  unfold execCalStoreReq
  with_reducible repeat' first
    | assumption | refine keepR_next ?_ | exact keepR_fault _ | apply keep_viaBus | refine keep_storeStart ?_
    | intro _

theorem keep_execCalStoreDone {ok : Bool} {err : Nat} (hK : Keep s0 s) : KeepR s0 (execCalStoreDone ok err s) := by
  unfold execCalStoreDone
  try dsimp only
  with_reducible repeat' first
    | assumption | refine keep_ite ?_ ?_ | refine keepR_next ?_ | exact keepR_fault _ | refine keep_putF ?_
    | refine keep_errRec ?_ | refine keep_irqBit ?_ | refine keep_nvsPut ?_ | refine keep_incSat ?_ | split
    | (apply keep_mk; refine keep_fold ?_)

theorem keep_tpWriteEffect {i v : Nat} (hK : Keep s0 s) : Keep s0 (tpWriteEffect i v s) := by
  unfold tpWriteEffect
  try dsimp only
  with_reducible repeat' first
    | assumption | apply keep_forAll | refine keep_dropSlot ?_ | refine keep_putF ?_ | refine keep_forAll ?_ ?_
    | intro _

theorem keep_execTpWrite {who : Requester} {i v : Nat} (hK : Keep s0 s) : KeepR s0 (execTpWrite who i v s) := by
  unfold execTpWrite
  with_reducible repeat' first
    | assumption | refine keepR_next ?_ | exact keepR_fault _ | apply keep_viaBus | refine keep_tpWriteEffect ?_
    | intro _

theorem keep_execBiasCodeWrite {who : Requester} {n code : Nat} (hK : Keep s0 s) : KeepR s0 (execBiasCodeWrite who n code s) := by
  unfold execBiasCodeWrite
  with_reducible repeat' first
    | assumption | refine keep_ite ?_ ?_ | refine keepR_next ?_ | exact keepR_fault _ | apply keep_viaBus
    | refine keep_writeCode ?_ | intro _

theorem keep_execLdacEdge {g : Nat} (hK : Keep s0 s) : KeepR s0 (execLdacEdge g s) := by
  unfold execLdacEdge
  with_reducible repeat' first
    | assumption | refine keep_ite ?_ ?_ | refine keepR_next ?_ | exact keepR_fault _ | refine keep_strobe ?_

theorem keep_execBiasStrobe {who : Requester} {mask : Nat} (hK : Keep s0 s) : KeepR s0 (execBiasStrobe who mask s) := by
  unfold execBiasStrobe
  try dsimp only
  with_reducible repeat' first
    | assumption | refine keepR_next ?_ | exact keepR_fault _ | apply keep_forAll | apply keep_viaBus
    | refine keep_strobe ?_ | refine keep_forAll ?_ ?_ | intro _

theorem keep_biasRangeChangeEffect {n range : Nat} (hK : Keep s0 s) : Keep s0 (biasRangeChangeEffect n range s) := by
  unfold biasRangeChangeEffect
  try dsimp only
  with_reducible repeat' first
    | assumption | refine keep_ite ?_ ?_ | refine keep_putF ?_ | refine keep_rangeChange ?_ | intro _
    | (apply keep_mk; refine keep_fold ?_)

theorem keep_execBiasRangeChange {who : Requester} {n range : Nat} (hK : Keep s0 s) : KeepR s0 (execBiasRangeChange who n range s) := by
  unfold execBiasRangeChange
  with_reducible repeat' first
    | assumption | refine keep_ite ?_ ?_ | refine keepR_next ?_ | exact keepR_fault _ | apply keep_viaBus
    | refine keep_biasRangeChangeEffect ?_ | intro _

theorem keep_execBbmDone {n : Nat} (hK : Keep s0 s) : KeepR s0 (execBbmDone n s) := by
  unfold execBbmDone
  with_reducible repeat' first
    | assumption | refine keep_ite ?_ ?_ | refine keepR_next ?_ | exact keepR_fault _ | refine keep_bbmDone ?_

theorem keep_execClrNAssert  (hK : Keep s0 s) : KeepR s0 (execClrNAssert s) := by
  unfold execClrNAssert
  with_reducible repeat' first
    | assumption | refine keepR_next ?_ | exact keepR_fault _ | refine keep_driveClear ?_
    | (apply keep_mk; refine keep_fold ?_)

theorem keep_execClrNRelease  (hK : Keep s0 s) : KeepR s0 (execClrNRelease s) := by
  unfold execClrNRelease
  with_reducible repeat' first
    | assumption | refine keepR_next ?_ | exact keepR_fault _ | (apply keep_mk; refine keep_fold ?_)

theorem keep_execBiasLimit {n : Nat} {on : Bool} (hK : Keep s0 s) : KeepR s0 (execBiasLimit n on s) := by
  unfold execBiasLimit
  try dsimp only
  with_reducible repeat' first
    | assumption | refine keep_ite ?_ ?_ | refine keepR_next ?_ | exact keepR_fault _ | refine keep_setLimit ?_
    | refine keep_irqBit ?_ | refine keep_putF ?_ | refine keep_errRec ?_

theorem keep_execComparatorTrip {n code other : Nat} (hK : Keep s0 s) : KeepR s0 (execComparatorTrip n code other s) := by
  unfold execComparatorTrip
  with_reducible repeat' first
    | assumption | refine keep_ite ?_ ?_ | refine keepR_next ?_ | exact keepR_fault _ | refine keep_monTrip ?_

theorem keep_execComparatorArm {n code other : Nat} (hK : Keep s0 s) : KeepR s0 (execComparatorArm n code other s) := by
  unfold execComparatorArm
  try dsimp only
  with_reducible repeat' first
    | assumption | refine keep_ite ?_ ?_ | refine keepR_next ?_ | exact keepR_fault _ | refine keep_monTrip ?_
    | refine keep_setUnarmed ?_

theorem keep_execLiveClear {n code other : Nat} (hK : Keep s0 s) : KeepR s0 (execLiveClear n code other s) := by
  unfold execLiveClear
  with_reducible repeat' first
    | assumption | refine keep_ite ?_ ?_ | refine keepR_next ?_ | exact keepR_fault _ | refine keep_putF ?_

theorem keep_execMonPeriod  (hK : Keep s0 s) : KeepR s0 (execMonPeriod s) := by
  unfold execMonPeriod
  try dsimp only
  with_reducible repeat' first
    | assumption | refine keep_ite ?_ ?_ | refine keepR_next ?_ | exact keepR_fault _ | apply keep_forAll
    | refine keep_stampTimer ?_ | refine keep_monClear ?_ | refine keep_forAll ?_ ?_ | intro _

theorem keep_rampGoEffect {n : Nat} (hK : Keep s0 s) : Keep s0 (rampGoEffect n s) := by
  unfold rampGoEffect
  with_reducible repeat' first | assumption | refine keep_ite ?_ ?_ | refine keep_rampStart ?_

theorem keep_execRampGo {who : Requester} {n : Nat} (hK : Keep s0 s) : KeepR s0 (execRampGo who n s) := by
  unfold execRampGo
  with_reducible repeat' first
    | assumption | refine keepR_next ?_ | exact keepR_fault _ | apply keep_viaBus | refine keep_rampGoEffect ?_
    | intro _

theorem keep_execRampCross {n cross : Nat} (hK : Keep s0 s) : KeepR s0 (execRampCross n cross s) := by
  unfold execRampCross
  try dsimp only
  with_reducible repeat' first
    | assumption | refine keep_ite ?_ ?_ | refine keepR_next ?_ | exact keepR_fault _ | refine keep_irqBit ?_
    | refine keep_putF ?_ | refine keep_errRec ?_ | refine keep_latch ?_

theorem keep_execSamplerRoundTimer  (hK : Keep s0 s) : KeepR s0 (execSamplerRoundTimer s) := by
  unfold execSamplerRoundTimer
  with_reducible repeat' first
    | assumption | refine keep_ite ?_ ?_ | refine keepR_next ?_ | exact keepR_fault _ | refine keep_roundTrigger ?_
    | refine keep_stampTimer ?_

theorem keep_execSamplerRgo {who : Requester} (hK : Keep s0 s) : KeepR s0 (execSamplerRgo who s) := by
  unfold execSamplerRgo
  with_reducible repeat' first
    | assumption | refine keepR_next ?_ | exact keepR_fault _ | apply keep_viaBus | refine keep_roundTrigger ?_
    | intro _

theorem keep_execInjGo {who : Requester} {mask : Nat} (hK : Keep s0 s) : KeepR s0 (execInjGo who mask s) := by
  unfold execInjGo
  try dsimp only
  with_reducible repeat' first
    | assumption | refine keepR_next ?_ | exact keepR_fault _ | apply keep_forAll | apply keep_viaBus
    | refine keep_injTrigger ?_ | refine keep_forAll ?_ ?_ | intro _

theorem keep_execSamplerConversionDone {code : Nat} (hK : Keep s0 s) : KeepR s0 (execSamplerConversionDone code s) := by
  unfold execSamplerConversionDone
  try dsimp only
  with_reducible repeat' first
    | assumption | refine keep_ite ?_ ?_ | refine keepR_next ?_ | exact keepR_fault _ | refine keep_enterCode ?_
    | refine keep_roundDone ?_ | refine keep_takeWork ?_ | refine keep_snapReady ?_ | split
    | (apply keep_mk; refine keep_fold ?_)

theorem keep_shdnClrEffect  (hK : Keep s0 s) : Keep s0 (shdnClrEffect s) := by
  unfold shdnClrEffect
  with_reducible repeat' first
    | assumption | refine keep_ite ?_ ?_ | refine keep_putF ?_ | refine keep_errRec ?_
    | (apply keep_mk; refine keep_fold ?_)

theorem keep_execShdnClr {who : Requester} (hK : Keep s0 s) : KeepR s0 (execShdnClr who s) := by
  unfold execShdnClr
  with_reducible repeat' first
    | assumption | refine keepR_next ?_ | exact keepR_fault _ | apply keep_viaBus | refine keep_shdnClrEffect ?_
    | intro _

theorem keep_mmRstEffect {i : Nat} (hK : Keep s0 s) : Keep s0 (mmRstEffect i s) := by
  unfold mmRstEffect
  with_reducible repeat' first | assumption | refine keep_putF ?_ | refine keep_dropSum ?_

theorem keep_execMmRst {who : Requester} {i : Nat} (hK : Keep s0 s) : KeepR s0 (execMmRst who i s) := by
  unfold execMmRst
  with_reducible repeat' first
    | assumption | refine keepR_next ?_ | exact keepR_fault _ | apply keep_viaBus | refine keep_mmRstEffect ?_
    | intro _

theorem keep_execTelemetryTimer  (hK : Keep s0 s) : KeepR s0 (execTelemetryTimer s) := by
  unfold execTelemetryTimer
  try dsimp only
  with_reducible repeat' first
    | assumption | refine keep_ite ?_ ?_ | refine keepR_next ?_ | exact keepR_fault _ | refine keep_stampTimer ?_
    | refine keep_putF ?_ | refine keep_hostWrite ?_ | refine keep_irqBit ?_ | refine keep_incSat ?_
    | refine keep_errRec ?_

theorem keep_writeBad {a : Nat} {bs : List Byte} (hK : Keep s0 s) : Keep s0 (writeBad a bs s) := by
  unfold writeBad
  with_reducible repeat' first
    | assumption | refine keep_setLine ?_ | refine keep_genParity ?_ | refine keep_wrBytes ?_

theorem keep_exhaust {m : MemRef} {a : Nat} (hK : Keep s0 s) : Keep s0 (exhaust m a s) := by
  unfold exhaust
  try dsimp only
  with_reducible repeat' first
    | assumption | apply keep_forAll | refine keep_irqBit ?_ | refine keep_putF ?_ | refine keep_errRec ?_
    | refine keep_setLine ?_ | refine keep_storeLine ?_ | refine keep_forAll ?_ ?_ | intro _
    | (apply keep_mk; refine keep_fold ?_)

theorem keep_repairRecord {r : Repair} (hK : Keep s0 s) : Keep s0 (repairRecord r s) := by
  unfold repairRecord
  with_reducible repeat' first | assumption | refine keep_journal ?_

theorem keep_softRepair {m : MemRef} {a : Nat} (hK : Keep s0 s) : Keep s0 (softRepair m a s) := by
  unfold softRepair
  try dsimp only
  with_reducible repeat' first
    | assumption | refine keep_incSat ?_ | refine keep_irqBit ?_ | refine keep_errRec ?_ | refine keep_bucketAdd ?_
    | refine keep_repairRecord ?_ | refine keep_logEntry ?_ | (apply keep_mk; refine keep_fold ?_)

theorem keep_execLineRefetchDone {a : Nat} {data : Option (List Byte)} {good : Bool} (hK : Keep s0 s) : KeepR s0 (execLineRefetchDone a data good s) := by
  unfold execLineRefetchDone
  try dsimp only
  with_reducible repeat' first
    | assumption | refine keep_ite ?_ ?_ | refine keepR_next ?_ | exact keepR_fault _ | refine keep_poisonLine ?_
    | refine keep_refetched ?_ | refine keep_recoverLine ?_ | refine keep_writeBad ?_ | refine keep_unpoison ?_
    | refine keep_setLine ?_ | refine keep_exhaust ?_ | split

theorem keep_execRepairCopyDone {a : Nat} {good : Bool} (hK : Keep s0 s) : KeepR s0 (execRepairCopyDone a good s) := by
  unfold execRepairCopyDone
  try dsimp only
  with_reducible repeat' first
    | assumption | refine keep_ite ?_ ?_ | refine keepR_next ?_ | exact keepR_fault _ | refine keep_softRepair ?_
    | refine keep_refetched ?_ | refine keep_recoverLine ?_ | refine keep_poisonLine ?_ | split

theorem keep_execScrubRead {page kind : Nat} (hK : Keep s0 s) : KeepR s0 (execScrubRead page kind s) := by
  unfold execScrubRead
  try dsimp only
  with_reducible repeat' first
    | assumption | refine keep_ite ?_ ?_ | refine keepR_next ?_ | exact keepR_fault _ | refine keep_detectLine ?_
    | refine keep_incWrap ?_ | split | (apply keep_mk; refine keep_fold ?_)

theorem keep_execBucketLeak {page kind : Nat} (hK : Keep s0 s) : KeepR s0 (execBucketLeak page kind s) := by
  unfold execBucketLeak
  try dsimp only
  with_reducible repeat' first
    | assumption | refine keep_ite ?_ ?_ | refine keepR_next ?_ | exact keepR_fault _ | refine keep_stampTimer ?_
    | refine keep_putF ?_ | split

theorem keep_execFlipArm {who : Requester} (hK : Keep s0 s) : KeepR s0 (execFlipArm who s) := by
  unfold execFlipArm
  with_reducible repeat' first
    | assumption | refine keepR_next ?_ | exact keepR_fault _ | apply keep_viaBus | refine keep_putF ?_ | intro _

theorem keep_patGo  (hK : Keep s0 s) : Keep s0 (patGo s) := by
  unfold patGo
  try dsimp only
  with_reducible repeat' first
    | assumption | refine keep_ite ?_ ?_ | refine keep_patOver ?_ | refine keep_errRec ?_ | refine keep_patStart ?_

theorem keep_execPatGo {who : Requester} (hK : Keep s0 s) : KeepR s0 (execPatGo who s) := by
  unfold execPatGo
  with_reducible repeat' first
    | assumption | refine keepR_next ?_ | exact keepR_fault _ | apply keep_viaBus | apply keep_ownAct
    | refine keep_patGo ?_ | intro _

theorem keep_execTrigInEdge {k : Nat} (hK : Keep s0 s) : KeepR s0 (execTrigInEdge k s) := by
  unfold execTrigInEdge
  try dsimp only
  with_reducible repeat' first
    | assumption | refine keep_ite ?_ ?_ | refine keepR_next ?_ | exact keepR_fault _ | refine keep_raiseSrc ?_
    | refine keep_jumpReq ?_ | refine keep_patTrigger ?_

theorem keep_execVectorFetch  (hK : Keep s0 s) : KeepR s0 (execVectorFetch s) := by
  unfold execVectorFetch
  try dsimp only
  with_reducible repeat' first
    | assumption | refine keep_ite ?_ ?_ | refine keepR_next ?_ | exact keepR_fault _ | refine keep_rtTouch ?_
    | (apply keep_mk; refine keep_fold ?_)

theorem keep_vectorFail {v : PatVec} {pins : Nat} (hK : Keep s0 s) : Keep s0 (vectorFail v pins s) := by
  unfold vectorFail
  try dsimp only
  with_reducible repeat' first
    | assumption | refine keep_ite ?_ ?_ | refine keep_incSat ?_ | refine keep_raiseSrc ?_ | refine keep_putF ?_
    | refine keep_errRec ?_ | refine keep_irqBit ?_ | refine keep_patEnd ?_ | (apply keep_mk; refine keep_fold ?_)

theorem keep_execVectorCompare {levels : Nat} (hK : Keep s0 s) : KeepR s0 (execVectorCompare levels s) := by
  unfold execVectorCompare
  try dsimp only
  with_reducible repeat' first
    | assumption | refine keep_ite ?_ ?_ | refine keepR_next ?_ | exact keepR_fault _ | refine keep_vectorFail ?_
    | split | (apply keep_mk; refine keep_fold ?_)

theorem keep_execPassEnd  (hK : Keep s0 s) : KeepR s0 (execPassEnd s) := by
  unfold execPassEnd
  with_reducible repeat' first
    | assumption | refine keep_ite ?_ ?_ | refine keepR_next ?_ | exact keepR_fault _ | refine keep_passEnd ?_

theorem keep_execPatJump {who : Requester} {tgt : Nat} (hK : Keep s0 s) : KeepR s0 (execPatJump who tgt s) := by
  unfold execPatJump
  with_reducible repeat' first
    | assumption | refine keepR_next ?_ | exact keepR_fault _ | apply keep_viaBus | refine keep_jumpWrite ?_ | intro _

theorem keep_patStopEffect  (hK : Keep s0 s) : Keep s0 (patStopEffect s) := by
  unfold patStopEffect
  with_reducible repeat' first | assumption | refine keep_ite ?_ ?_ | (apply keep_mk; refine keep_fold ?_)

theorem keep_execPatStop {who : Requester} (hK : Keep s0 s) : KeepR s0 (execPatStop who s) := by
  unfold execPatStop
  with_reducible repeat' first
    | assumption | refine keepR_next ?_ | exact keepR_fault _ | apply keep_viaBus | refine keep_patStopEffect ?_
    | intro _

theorem keep_execPatAbort {who : Requester} (hK : Keep s0 s) : KeepR s0 (execPatAbort who s) := by
  unfold execPatAbort
  with_reducible repeat' first
    | assumption | refine keepR_next ?_ | exact keepR_fault _ | apply keep_viaBus | apply keep_ownAct
    | refine keep_patAbort ?_ | intro _

theorem keep_execPicotPulseEnd {k : Nat} (hK : Keep s0 s) : KeepR s0 (execPicotPulseEnd k s) := by
  unfold execPicotPulseEnd
  try dsimp only
  with_reducible repeat' first
    | assumption | refine keep_ite ?_ ?_ | refine keepR_next ?_ | exact keepR_fault _ | intro _
    | (apply keep_mk; refine keep_fold ?_)

theorem keep_register {c e trig : Nat} (hK : Keep s0 s) : Keep s0 (register c e trig s) := by
  unfold register
  try dsimp only
  with_reducible repeat' first
    | assumption | refine keep_ite ?_ ?_ | refine keep_incSat ?_ | (apply keep_mk; refine keep_fold ?_)

theorem keep_execEvmRegister {trig : Nat} (hK : Keep s0 s) : KeepR s0 (execEvmRegister trig s) := by
  unfold execEvmRegister
  try dsimp only
  with_reducible repeat' first
    | assumption | refine keep_ite ?_ ?_ | refine keep_itePair ?_ ?_ | refine keepR_next ?_ | exact keepR_fault _
    | apply keep_forAll | refine keep_register ?_ | refine keep_addSat ?_ | refine keep_forAll ?_ ?_ | intro _ | split
    | (apply keep_mk; refine keep_fold ?_)

theorem keep_wake {w : Nat} (hK : Keep s0 s) : Keep s0 (wake w s) := by
  unfold wake
  with_reducible repeat' first
    | assumption | refine keep_ite ?_ ?_ | refine keep_errRec ?_ | refine keep_irqBit ?_ | refine keep_putF ?_
    | refine keep_urge ?_

theorem keep_deliverTo {d f : Nat} (hK : Keep s0 s) : Keep s0 (deliverTo d f s) := by
  unfold deliverTo
  with_reducible repeat' first
    | assumption | refine keep_ite ?_ ?_ | refine keep_strobe ?_ | refine keep_injTrigger ?_
    | refine keep_patTrigger ?_ | refine keep_wake ?_

theorem keep_setHit {c : Nat} (hK : Keep s0 s) : Keep s0 (setHit c s) := by
  unfold setHit
  with_reducible repeat' first | assumption | refine keep_irqBit ?_ | refine keep_putF ?_

theorem keep_execEvmDeliver {trig : Nat} (hK : Keep s0 s) : KeepR s0 (execEvmDeliver trig s) := by
  unfold execEvmDeliver
  try dsimp only
  with_reducible repeat' first
    | assumption | refine keep_ite ?_ ?_ | refine keepR_next ?_ | exact keepR_fault _ | apply keep_forAll
    | refine keep_incSat ?_ | refine keep_setHit ?_ | refine keep_deliverTo ?_ | refine keep_register ?_
    | refine keep_forAll ?_ ?_ | intro _ | split | (apply keep_mk; refine keep_fold ?_)

theorem keep_execEvmTimer {t : Nat} (hK : Keep s0 s) : KeepR s0 (execEvmTimer t s) := by
  unfold execEvmTimer
  try dsimp only
  with_reducible repeat' first
    | assumption | refine keep_ite ?_ ?_ | refine keep_itePair ?_ ?_ | refine keepR_next ?_ | exact keepR_fault _
    | refine keep_raiseSrc ?_

theorem keep_chanGuard {who : Requester} {c o : Nat} {effect : State → State} (heffect : ∀  t, Keep s0 t → Keep s0 (effect  t)) (hK : Keep s0 s) : Keep s0 (chanGuard who c o effect s) := by
  unfold chanGuard
  dsimp only
  with_reducible repeat' first
    | assumption | refine keep_ite ?_ ?_ | refine keep_ownViol ?_ | refine keep_lockViol ?_ | apply heffect

theorem keep_chCfgWrite {who : Requester} {c : Nat} {w : Word} (hK : Keep s0 s) : Keep s0 (chCfgWrite who c w s) := by
  unfold chCfgWrite
  try dsimp only
  with_reducible repeat' first
    | assumption | refine keep_ite ?_ ?_ | apply keep_chanGuard | refine keep_ownViol ?_ | refine keep_errRec ?_
    | refine keep_incSat ?_ | refine keep_irqBit ?_ | refine keep_writeReg ?_ | intro _ | split

theorem keep_execEvmChCfgWrite {who : Requester} {c w : Nat} (hK : Keep s0 s) : KeepR s0 (execEvmChCfgWrite who c w s) := by
  unfold execEvmChCfgWrite
  with_reducible repeat' first
    | assumption | refine keepR_next ?_ | exact keepR_fault _ | apply keep_busGate | refine keep_chCfgWrite ?_
    | intro _

theorem keep_protWrite {v : Nat} (hK : Keep s0 s) : Keep s0 (protWrite v s) := by
  unfold protWrite
  try dsimp only
  with_reducible repeat' first | assumption | refine keep_ite ?_ ?_ | refine keep_errRec ?_ | refine keep_putF ?_

theorem keep_execEvmProtWrite {who : Requester} {v : Nat} (hK : Keep s0 s) : KeepR s0 (execEvmProtWrite who v s) := by
  unfold execEvmProtWrite
  with_reducible repeat' first
    | assumption | refine keepR_next ?_ | exact keepR_fault _ | apply keep_viaBus | refine keep_protWrite ?_ | intro _

end Sys2Proof.Machine
end

