-- ==== Sys2Proof/Laws/KeepRegs.lean ====
section
/-!
SUPPORT. What every operation keeps (Laws/Keep.lean): register writes and the page-control commands.
-/
namespace Sys2Proof.Machine

variable {s0 s : State}

theorem keep_freezeSet {p : Nat} (hK : Keep s0 s) : Keep s0 (freezeSet p s) := by
  unfold freezeSet
  try dsimp only
  with_reducible repeat' first
    | assumption | refine keep_ite ?_ ?_ | refine keep_putF ?_ | refine keep_stopTile ?_ | refine keep_patFreeze ?_
    | refine keep_calFreeze ?_ | split

theorem keep_calThaw  (hK : Keep s0 s) : Keep s0 (calThaw s) := by
  unfold calThaw
  try dsimp only
  with_reducible repeat' first
    | assumption | apply keep_forAll | refine keep_settle ?_ | refine keep_calCommit ?_ | refine keep_calResume ?_
    | refine keep_forAll ?_ ?_ | intro _

theorem keep_freezeClear {p : Nat} (hK : Keep s0 s) : Keep s0 (freezeClear p s) := by
  unfold freezeClear
  try dsimp only
  with_reducible repeat' first
    | assumption | refine keep_ite ?_ ?_ | apply keep_forAll | refine keep_putF ?_ | refine keep_modTile ?_
    | refine keep_stepsFrom ?_ | refine keep_patThaw ?_ | refine keep_driveClear ?_ | refine keep_rangeThaw ?_
    | refine keep_calThaw ?_ | refine keep_urge ?_ | refine keep_forAll ?_ ?_ | intro _ | split
    | (apply keep_mk; refine keep_fold ?_)

theorem keep_blockDisable {p : Nat} (hK : Keep s0 s) : Keep s0 (blockDisable p s) := by
  unfold blockDisable
  try dsimp only
  with_reducible repeat' first
    | assumption | refine keep_ite ?_ ?_ | apply keep_forAll | refine keep_cstLeaveEffect ?_ | refine keep_putF ?_
    | refine keep_stopTile ?_ | refine keep_topoUrge ?_ | refine keep_portDown ?_ | refine keep_clearPatch ?_
    | refine keep_calDropShadows ?_ | refine keep_calDropRuns ?_ | refine keep_patAbort ?_ | refine keep_driveClear ?_
    | refine keep_forAll ?_ ?_ | intro _ | split

theorem keep_blockEnable {p : Nat} (hK : Keep s0 s) : Keep s0 (blockEnable p s) := by
  unfold blockEnable
  try dsimp only
  with_reducible repeat' first
    | assumption | refine keep_ite ?_ ?_ | refine keep_putF ?_ | refine keep_topoUrge ?_ | refine keep_enterSearch ?_

theorem keep_cancelLoads {p : Nat} (hK : Keep s0 s) : Keep s0 (cancelLoads p s) := by
  unfold cancelLoads
  try dsimp only
  with_reducible repeat' first
    | assumption | apply keep_forAll | refine keep_modRdo ?_ | refine keep_setFlux ?_ | refine keep_forAll ?_ ?_
    | intro _ | split

theorem keep_softReset {p : Nat} (hK : Keep s0 s) : Keep s0 (softReset p s) := by
  unfold softReset
  try dsimp only
  with_reducible repeat' first
    | assumption | refine keep_ite ?_ ?_ | refine keep_cancelLoads ?_ | refine keep_abortTile ?_
    | refine keep_patAbort ?_ | refine keep_putF ?_ | split | (apply keep_mk; refine keep_fold ?_)

theorem keep_freshTile {b : Nat} (hK : Keep s0 s) : Keep s0 (freshTile b s) := by
  unfold freshTile
  try dsimp only
  with_reducible repeat' first | assumption | refine keep_ite ?_ ?_ | refine keep_modTile ?_

theorem keep_flushBlock {p : Nat} (h : Keep s0 s) : Keep s0 (flushBlock p s) := by
  unfold flushBlock
  split
  case h_6 => exact keep_esc (s := { s with patches := [] }) (fun _ => by simp) h
  all_goals with_reducible repeat' first
    | assumption | apply keep_forAll | refine keep_freshTile ?_ | refine keep_setRdo ?_ | refine keep_ringStep ?_
    | refine keep_setFlux ?_ | refine keep_modPort ?_ | refine keep_biasInit ?_ | refine keep_calDropShadows ?_
    | refine keep_calDropRuns ?_ | refine keep_forAll ?_ ?_ | intro _ | (apply keep_mk; refine keep_fold ?_)

theorem keep_softResetEnd {p : Nat} (hK : Keep s0 s) : Keep s0 (softResetEnd p s) := by
  unfold softResetEnd
  try dsimp only
  with_reducible repeat' first
    | assumption | refine keep_ite ?_ ?_ | refine keep_noteWas ?_ | refine keep_resetPage ?_
    | refine keep_flushBlock ?_ | refine keep_showFill ?_ | refine keep_settle ?_ | refine keep_pllAcquire ?_
    | refine keep_topoUrge ?_ | refine keep_enterSearch ?_ | split | (apply keep_mk; refine keep_fold ?_)

theorem keep_irqForce {p : Nat} {mask : Word} (hK : Keep s0 s) : Keep s0 (irqForce p mask s) := by
  unfold irqForce
  with_reducible repeat' first | assumption | refine keep_irqSet ?_

theorem keep_errPop {p : Nat} (h : Keep s0 s) : Keep s0 (errPop p s) := by
  unfold errPop
  refine keep_errs (fun hs => ?_) h
  have := hs p
  split
  · simp only [List.length_tail]; omega
  · split <;> simp only [List.length_tail] <;> omega

theorem keep_ownerWrite {who : Requester} {p v : Nat} (hK : Keep s0 s) : Keep s0 (ownerWrite who p v s) := by
  unfold ownerWrite
  try dsimp only
  with_reducible repeat' first
    | assumption | refine keep_ite ?_ ?_ | refine keep_ownViol ?_ | refine keep_putF ?_ | refine keep_noteWas ?_

theorem keep_lockWrite {who : Requester} {p : Nat} {cfg all : Bool} (hK : Keep s0 s) : Keep s0 (lockWrite who p cfg all s) := by
  unfold lockWrite
  try dsimp only
  with_reducible repeat' first | assumption | refine keep_ite ?_ ?_ | refine keep_putF ?_

theorem keep_irqResend {p : Nat} (hK : Keep s0 s) : Keep s0 (irqResend p s) := by
  unfold irqResend
  with_reducible repeat' first | assumption | refine keep_ite ?_ ?_ | refine keep_sendVec ?_

theorem keep_chGateWrite {who : Requester} {c : Nat} {w : Word} (hK : Keep s0 s) : Keep s0 (chGateWrite who c w s) := by
  unfold chGateWrite
  try dsimp only
  with_reducible repeat' first | assumption | apply keep_chanGuard | refine keep_writeReg ?_ | intro _

theorem keep_chProtWrite {who : Requester} {c : Nat} {w : Word} (hK : Keep s0 s) : Keep s0 (chProtWrite who c w s) := by
  unfold chProtWrite
  try dsimp only
  with_reducible repeat' first
    | assumption | refine keep_ite ?_ ?_ | refine keep_writeReg ?_ | apply keep_chanGuard | refine keep_ownViol ?_
    | intro _

theorem keep_rstCtlWrite {who : Requester} {w : Word} (hK : Keep s0 s) : Keep s0 (rstCtlWrite who w s) := by
  unfold rstCtlWrite
  with_reducible repeat' first
    | assumption | refine keep_ite ?_ ?_ | refine keep_lockViol ?_ | refine keep_errRec ?_
    | refine keep_requestStart ?_

theorem keep_wholeWrite {who : Requester} {p o : Nat} {f : Word → State → State} (e : wholeWrite who p o = some f) {w : Word}
    (h : Keep s0 s) : Keep s0 (f w s) := by
  unfold wholeWrite at e
  repeat' split at e
  all_goals cases e
  all_goals with_reducible first
    | exact keep_irqForce h | exact keep_errPop h | exact keep_lockWrite h | exact keep_ownerWrite h | exact keep_rstCtlWrite h
    | exact keep_chCfgWrite h | exact keep_chGateWrite h | exact keep_chProtWrite h | exact keep_unmixCfgWriteEffect h
    | exact keep_strmCfgWriteEffect h | exact keep_outCfgWriteEffect h

theorem keep_tripClear {n v : Nat} {f : Fld} (h : Keep s0 s) : Keep s0 (tripClear n f v s) :=
  keep_ite h (keep_showTrip (keep_putF h))

theorem keep_shortClear {b k v : Nat} (h : Keep s0 s) : Keep s0 (shortClear b k v s) :=
  keep_ite (keep_cfgBusy h) (keep_putF h)

/-- Every act of a list keeps what `Keep` says. -/
def ActsOk (s0 : State) (l : List FieldAct) : Prop := ∀ x ∈ l, ∀ v t, Keep s0 t → Keep s0 (x.2.2 v t)

theorem actsOk_nil : ActsOk s0 [] := by simp [ActsOk]

theorem actsOk_cons {f : Fld} {i : Nat} {act : Nat → State → State} {l : List FieldAct}
    (h : ∀ v t, Keep s0 t → Keep s0 (act v t)) (hl : ActsOk s0 l) : ActsOk s0 ((f, i, act) :: l) := by
  intro x hx
  rcases List.mem_cons.1 hx with rfl | hx
  · exact h
  · exact hl x hx

theorem keep_id (h : Keep s0 s) : Keep s0 (id s) := h

theorem keep_iteFn {c : Prop} [Decidable c] {a b : State → State} (ha : Keep s0 (a s)) (hb : Keep s0 (b s)) :
    Keep s0 ((if c then a else b) s) := by
  split <;> assumption

theorem keep_fieldActs {who : Requester} {p o : Nat} {data : Word} : ActsOk s0 (fieldActs who p o data) := by
  unfold fieldActs
  dsimp only
  with_reducible repeat' first
    | assumption | refine keep_ownAct ?_ ?_ | refine keep_id ?_ | exact actsOk_nil | refine actsOk_cons ?_ ?_ | intro _ | refine keep_ite ?_ ?_ | refine keep_iteFn ?_ ?_
    | refine keep_forAll ?_ ?_ | refine keep_putF ?_ | refine keep_patchClr ?_ | refine keep_enterSearch ?_
    | refine keep_relockAutoEffect ?_ | refine keep_idNumEffect ?_ | refine keep_stampTimer ?_
    | refine keep_abortTile ?_ | refine keep_strobe ?_ | refine keep_writeCode ?_ | refine keep_patAbort ?_
    | refine keep_jumpWrite ?_ | refine keep_setPending ?_ | refine keep_storeStart ?_ | refine keep_roundTrigger ?_
    | refine keep_injTrigger ?_ | refine keep_pllRelockEffect ?_ | refine keep_softSyncEffect ?_ | refine keep_syncArmEffect ?_
    | refine keep_tmbGoEffect ?_ | refine keep_tmbStopEffect ?_ | refine keep_streamIssue ?_
    | refine keep_strmFillWriteEffect ?_ | refine keep_resRpWriteEffect ?_ | refine keep_statClrAllEffect ?_
    | refine keep_escPopEffect ?_ | refine keep_topoUrge ?_ | refine keep_portActivateEffect ?_
    | refine keep_idleEnterReqEffect ?_ | refine keep_idleExitEffect ?_ | refine keep_rqReserveEffect ?_
    | refine keep_rqReleaseEffect ?_ | refine keep_chEnable ?_ | refine keep_chDisable ?_ | refine keep_chReset ?_
    | refine keep_mitLoad ?_ | refine keep_doorbell ?_ | refine keep_tpWriteEffect ?_ | refine keep_biasRangeChangeEffect ?_
    | refine keep_rampGoEffect ?_ | refine keep_shdnClrEffect ?_ | refine keep_mmRstEffect ?_ | refine keep_patGo ?_
    | refine keep_patStopEffect ?_ | refine keep_protWrite ?_ | refine keep_freezeSet ?_ | refine keep_freezeClear ?_
    | refine keep_blockDisable ?_ | refine keep_blockEnable ?_ | refine keep_softReset ?_ | refine keep_tripClear ?_
    | refine keep_shortClear ?_
    | split

theorem keep_actOn {who : Requester} {p o : Nat} {data old : Word} {s1 : State} {x : FieldAct} (hx : ∀ v t, Keep s0 t → Keep s0 (x.2.2 v t))
    (h : Keep s0 s) : Keep s0 (actOn who p o data old s1 x s) := by
  unfold actOn
  split
  · exact h
  · refine keep_ite h ?_
    split
    · exact keep_ite h (hx _ _ h)
    · exact keep_ite h (hx _ _ (keep_putF h))
    · exact keep_ite h (hx _ _ (keep_putF h))
    · exact hx _ _ (keep_putF h)
    · exact h

theorem keep_monRecheck {n : Nat} {old : Word} (hK : Keep s0 s) : Keep s0 (monRecheck n old s) := by
  unfold monRecheck
  try dsimp only
  with_reducible repeat' first
    | assumption | refine keep_ite ?_ ?_ | refine keep_putF ?_ | refine keep_errRec ?_ | refine keep_irqBit ?_
    | refine keep_showTrip ?_ | refine keep_monFresh ?_

theorem keep_writeFollow {who : Requester} {p o : Nat} {old cfg : Word} (hK : Keep s0 s) : Keep s0 (writeFollow who p o old cfg s) := by
  unfold writeFollow
  try dsimp only
  with_reducible repeat' first
    | assumption | refine keep_ite ?_ ?_ | refine keep_afterCommit ?_ | refine keep_irqResend ?_ | refine keep_putF ?_
    | refine keep_dropSum ?_ | refine keep_showLegacy ?_ | refine keep_driveClear ?_ | refine keep_monRecheck ?_
    | split

theorem keep_regWrite {who : Requester} {p o : Nat} {data : Word} (h : Keep s0 s) : Keep s0 (regWrite who p o data s) := by
  unfold regWrite
  refine keep_ite h ?_
  split
  · rename_i e; exact keep_wholeWrite e h
  · have hf : ∀ l : List FieldAct, (∀ x ∈ l, ∀ v t, Keep s0 t → Keep s0 (x.2.2 v t)) → ∀ t, Keep s0 t →
        Keep s0 (l.foldl (fun t x => actOn who p o data (rdWord s (accAddr s who p o)) s x t) t) := by
      intro l
      induction l with
      | nil => exact fun _ t ht => ht
      | cons x l ih => exact fun hl t ht => ih (fun y hy => hl y (List.mem_cons_of_mem _ hy)) _ (keep_actOn (hl x (by simp)) ht)
    exact keep_writeFollow (hf _ keep_fieldActs _ (keep_writeReg h))

theorem keep_busWrite {who : Requester} {p o : Nat} {data : Word} {be : Nat} (hK : Keep s0 s) : Keep s0 (busWrite who p o data be s) := by
  unfold busWrite
  try dsimp only
  with_reducible repeat' first
    | assumption | refine keep_ite ?_ ?_ | refine keep_errRec ?_ | apply keep_busGate | refine keep_regWrite ?_
    | intro _ | split

theorem keep_loadSection {img : List Byte} {k : KSect} (hK : Keep s0 s) : Keep s0 (loadSection img k s) := by
  unfold loadSection
  try dsimp only
  with_reducible repeat' first
    | assumption | refine keep_ite ?_ ?_ | apply keep_forAll | refine keep_busWrite ?_ | refine keep_storeMem ?_
    | refine keep_forAll ?_ ?_ | intro _ | split

theorem keep_loadImage {img : List Byte} (hK : Keep s0 s) : Keep s0 (loadImage img s) := by
  unfold loadImage
  with_reducible repeat' first
    | assumption | apply keep_forAll | refine keep_loadSection ?_ | refine keep_forAll ?_ ?_ | intro _

theorem keep_showProfiles  (hK : Keep s0 s) : Keep s0 (showProfiles s) := by
  unfold showProfiles
  with_reducible repeat' first | assumption | (apply keep_mk; refine keep_fold ?_)

theorem keep_loadProfile {i : Nat} (hK : Keep s0 s) : Keep s0 (loadProfile i s) := by
  unfold loadProfile
  try dsimp only
  with_reducible repeat' first
    | assumption | refine keep_ite ?_ ?_ | refine keep_loadImage ?_ | refine keep_logEntry ?_ | refine keep_useFree ?_

theorem keep_readStat {b t mask : Nat} {g : ToneStat → ToneStat} (hK : Keep s0 s) : Keep s0 (readStat b t mask g s) := by
  unfold readStat
  try dsimp only
  with_reducible repeat' first
    | assumption | refine keep_showStat ?_ | refine keep_modRdo ?_

theorem keep_accCapture {who : Requester} {b : Nat} (hK : Keep s0 s) : Keep s0 (accCapture who b s) := by
  unfold accCapture
  try dsimp only
  with_reducible repeat' first
    | assumption | refine keep_readStat ?_ | refine keep_putPair ?_

theorem keep_readEffect {who : Requester} {p o : Nat} (hK : Keep s0 s) : Keep s0 (readEffect who p o s) := by
  unfold readEffect
  try dsimp only
  with_reducible repeat' first
    | assumption | refine keep_ite ?_ ?_ | refine keep_putF ?_ | refine keep_accCapture ?_ | refine keep_readStat ?_
    | split | (apply keep_mk; refine keep_fold ?_)

theorem keep_readState {p o : Nat} (hK : Keep s0 s) : Keep s0 (readState p o s) := by
  unfold readState
  with_reducible repeat' first | assumption | refine keep_ite ?_ ?_ | refine keep_softResetEnd ?_

end Sys2Proof.Machine
end

