-- ==== Sys2Proof/Laws/KeepStart.lean ====
section
/-!
SUPPORT. What every operation keeps (Laws/Keep.lean): the commands of Hoop firmware, start, debug access and faults.
-/
namespace Sys2Proof.Machine

variable {s0 s : State}

theorem keep_skipStep {k : Nat} (hK : Keep s0 s) : Keep s0 (skipStep k s) := by
  unfold skipStep
  with_reducible repeat' first | assumption | refine keep_putF ?_

theorem keep_showRepairs  (hK : Keep s0 s) : Keep s0 (showRepairs s) := by
  unfold showRepairs
  try dsimp only
  with_reducible repeat' first
    | assumption | apply keep_forAll | refine keep_putF ?_ | refine keep_incSat ?_ | refine keep_forAll ?_ ?_
    | intro _

theorem keep_bistRow {a : Nat} (h : Keep s0 s) : Keep s0 (bistRow a s).2 := by
  have h1 := keep_putF (p := pMic) (f := MIC.REPAIR_STAT_EXHAUST) (v := 1) (i := 0) h
  unfold bistRow
  split
  · exact h
  · dsimp only
    split
    · exact h
    · split
      · exact h
      · split
        · exact keep_ite (keep_mapOut h1) h1
        · exact h1

theorem keep_bistRows {l : List Nat} (h : Keep s0 s) : Keep s0 (bistRows l s).2 := by
  induction l generalizing s with
  | nil => exact h
  | cons a l ih => exact ih (keep_bistRow h)

theorem keep_memClear (h : Keep s0 s) : Keep s0 (memClear s) := by
  unfold memClear
  dsimp only
  split
  · apply keep_mk
    exact keep_wipe h
  · exact ⟨h.1, h.2.1, fun i => ⟨(h.2.2 i).1, (h.2.2 i).2.1, rfl, (h.2.2 i).2.2.2⟩⟩

theorem keep_fwLoad {x : FwSlot} (hK : Keep s0 s) : Keep s0 (fwLoad x s) := by
  unfold fwLoad
  try dsimp only
  with_reducible repeat' first
    | assumption | refine keep_storeMem ?_ | refine keep_putF ?_ | (apply keep_mk; refine keep_fold ?_)

theorem keep_fwTry {l : List FwSlot} {first : Bool} (h : Keep s0 s) : Keep s0 (fwTry l first s).2 := by
  induction l generalizing first s with
  | nil => exact h
  | cons x l ih =>
    unfold fwTry
    split
    · exact keep_fwLoad (keep_ite h (keep_irqBit h))
    · exact ih (keep_errRec h)

theorem keep_retired {r : JRec} (hK : Keep s0 s) : Keep s0 (retired r s) := by
  unfold retired
  try dsimp only
  with_reducible repeat' first
    | assumption | refine keep_ite ?_ ?_ | refine keep_showProfiles ?_ | intro _
    | (apply keep_mk; refine keep_fold ?_)

theorem keep_replay {r : JRec} (hK : Keep s0 s) : Keep s0 (replay r s) := by
  unfold replay
  try dsimp only
  with_reducible repeat' first
    | assumption | refine keep_ite ?_ ?_ | refine keep_putF ?_ | refine keep_retired ?_ | refine keep_nvsPut ?_
    | refine keep_errRec ?_

theorem keep_restoreTile {copy b : Nat} (hK : Keep s0 s) : Keep s0 (restoreTile copy b s) := by
  unfold restoreTile
  try dsimp only
  with_reducible repeat' first
    | assumption | refine keep_ite ?_ ?_ | apply keep_forAll | refine keep_putSlot ?_ | refine keep_forAll ?_ ?_
    | intro _

theorem keep_restoreCal  (hK : Keep s0 s) : Keep s0 (restoreCal s) := by
  unfold restoreCal
  try dsimp only
  with_reducible repeat' first
    | assumption | refine keep_ite ?_ ?_ | apply keep_forAll | refine keep_putF ?_ | refine keep_irqBit ?_
    | refine keep_errRec ?_ | refine keep_restoreTile ?_ | refine keep_forAll ?_ ?_ | intro _
    | (apply keep_mk; refine keep_fold ?_)

theorem keep_nvsRestore  (hK : Keep s0 s) : Keep s0 (nvsRestore s) := by
  unfold nvsRestore
  try dsimp only
  with_reducible repeat' first
    | assumption | apply keep_forAll | refine keep_replay ?_ | refine keep_showNvs ?_ | refine keep_logEntry ?_
    | refine keep_repairRecord ?_ | refine keep_putF ?_ | refine keep_restoreCal ?_ | refine keep_useFree ?_
    | refine keep_loadProfile ?_ | refine keep_showProfiles ?_ | refine keep_forAll ?_ ?_ | intro _
    | (apply keep_mk; refine keep_fold ?_)

theorem keep_setConvReady {b : Nat} (hK : Keep s0 s) : Keep s0 (setConvReady b s) := by
  unfold setConvReady
  try dsimp only
  with_reducible repeat' first | assumption | refine keep_putF ?_ | split

theorem keep_calKept {b : Nat} (hK : Keep s0 s) : Keep s0 (calKept b s) := by
  unfold calKept
  try dsimp only
  with_reducible repeat' first
    | assumption | refine keep_ite ?_ ?_ | refine keep_showCal ?_ | refine keep_modCal ?_ | refine keep_putF ?_
    | refine keep_setConvReady ?_ | refine keep_showValid ?_

theorem keep_calFound {b : Nat} {v : List Int} {coef : List Byte} (hK : Keep s0 s) : Keep s0 (calFound b v coef s) := by
  unfold calFound
  try dsimp only
  with_reducible repeat' first
    | assumption | refine keep_ite ?_ ?_ | refine keep_putSlot ?_ | refine keep_putF ?_ | refine keep_showCal ?_
    | refine keep_modCal ?_ | refine keep_setConvReady ?_ | refine keep_chanCoef ?_

theorem keep_calTileStart {cal : SMap (List Int)} {coef : SMap (List Byte)} {b : Nat} (hK : Keep s0 s) : Keep s0 (calTileStart cal coef b s) := by
  unfold calTileStart
  try dsimp only
  with_reducible repeat' first
    | assumption | refine keep_ite ?_ ?_ | refine keep_calKept ?_ | refine keep_calFound ?_ | refine keep_mapOut ?_
    | split

theorem keep_supplyCmp {n lo hi : Nat} (hK : Keep s0 s) : Keep s0 (supplyCmp n lo hi s) := by
  unfold supplyCmp
  try dsimp only
  with_reducible repeat' first | assumption | refine keep_putF ?_ | refine keep_monFresh ?_

theorem keep_supplyChan  (hK : Keep s0 s) : Keep s0 (supplyChan s) := by
  unfold supplyChan
  try dsimp only
  with_reducible repeat' first | assumption | refine keep_ite ?_ ?_ | refine keep_wrWord ?_ | refine keep_putF ?_

theorem keep_enterReady  (hK : Keep s0 s) : Keep s0 (enterReady s) := by
  unfold enterReady
  try dsimp only
  with_reducible repeat' first
    | assumption | apply keep_forAll | refine keep_supplyCmp ?_ | refine keep_supplyChan ?_ | refine keep_slotEntry ?_
    | refine keep_wipe ?_ | refine keep_irqBit ?_ | refine keep_putF ?_ | refine keep_showStartMs ?_
    | refine keep_healthEval ?_ | refine keep_failRecords ?_ | refine keep_errRec ?_ | refine keep_forAll ?_ ?_
    | intro _ | split | (apply keep_mk; refine keep_fold ?_)

theorem keep_beginStep {fuel k : Nat} (h : Keep s0 s) : Keep s0 (beginStep fuel k s) := by
  induction fuel generalizing k s with
  | zero => exact h
  | succ fuel ih =>
    have h1 := keep_putF (p := 0) (f := GLB.START_STAT_STEP) (v := k) (i := 0) h
    unfold beginStep
    exact keep_ite (ih (keep_skipStep h1)) (keep_ite (by apply keep_mk; exact h1) (keep_ite (ih (keep_skipStep (keep_showRepairs h1)))
      (keep_ite (ih (keep_skipStep (keep_putF (s := { putF 0 GLB.START_STAT_STEP k 0 s with boot := _ }) h1)))
        (keep_ite (ih (keep_skipStep (keep_forAll (fun _ _ => keep_calKept) h1))) (keep_ite (keep_forAll (fun _ _ => keep_enterSearch) h1) (keep_ite (keep_enterReady h1) h1))))))

theorem keep_nextStep {k : Nat} (hK : Keep s0 s) : Keep s0 (nextStep k s) := by
  unfold nextStep
  with_reducible repeat' first | assumption | refine keep_beginStep ?_

theorem keep_stepDone {rows : List Nat} {fw : List FwSlot} {cal : SMap (List Int)} {coef : SMap (List Byte)} (hK : Keep s0 s) : Keep s0 (stepDone rows fw cal coef s) := by
  unfold stepDone
  try dsimp only
  with_reducible repeat' first
    | assumption | refine keep_ite ?_ ?_ | apply keep_forAll | refine keep_nextStep ?_ | refine keep_bistRows ?_
    | refine keep_showRepairs ?_ | refine keep_startFail ?_ | refine keep_memClear ?_ | refine keep_fwTry ?_
    | refine keep_nvsRestore ?_ | refine keep_calTileStart ?_ | refine keep_forAll ?_ ?_ | intro _
    | (apply keep_mk; refine keep_fold ?_)

theorem keep_execPowerOnReset (h : Keep s0 s) : KeepR s0 (execPowerOnReset s) := by
  have h1 := keep_applyReset (cause := 0) (warm := false) (s := { s with boot := { por := some 0 } }) h
  unfold execPowerOnReset
  dsimp only
  generalize applyReset 0 false { s with boot := { por := some 0 } } = n at h1 ⊢
  have h2 : ∀ (hd : SMap Word) (tm : Time) (d : Debug), Keep s0 { n with regs := [], held := hd, time := tm, dbgAcc := d } :=
    fun _ _ _ => ⟨h1.1, h1.2.1, fun i => ⟨(h1.2.2 i).1, (h1.2.2 i).2.1, (h1.2.2 i).2.2.1, rfl⟩⟩
  refine keepR_next ?_
  apply keep_mk
  refine keep_fold (keep_wrWord (keep_putF (h2 _ _ _)))

theorem keep_execPorRelease  (hK : Keep s0 s) : KeepR s0 (execPorRelease s) := by
  unfold execPorRelease
  try dsimp only
  with_reducible repeat' first
    | assumption | refine keep_ite ?_ ?_ | refine keepR_next ?_ | exact keepR_fault _ | refine keep_nextStep ?_
    | split | (apply keep_mk; refine keep_fold ?_)

theorem keep_execBrownOut  (hK : Keep s0 s) : KeepR s0 (execBrownOut s) := by
  unfold execBrownOut
  try dsimp only
  with_reducible repeat' first
    | assumption | refine keep_ite ?_ ?_ | refine keepR_next ?_ | exact keepR_fault _ | refine keep_applyReset ?_
    | (apply keep_mk; refine keep_fold ?_)

theorem keep_execResetNAssert  (hK : Keep s0 s) : KeepR s0 (execResetNAssert s) := by
  unfold execResetNAssert
  try dsimp only
  with_reducible repeat' first
    | assumption | refine keep_ite ?_ ?_ | refine keepR_next ?_ | exact keepR_fault _ | refine keep_requestStart ?_
    | (apply keep_mk; refine keep_fold ?_)

theorem keep_execResetNRelease  (hK : Keep s0 s) : KeepR s0 (execResetNRelease s) := by
  unfold execResetNRelease
  with_reducible repeat' first
    | assumption | refine keep_ite ?_ ?_ | refine keepR_next ?_ | exact keepR_fault _
    | (apply keep_mk; refine keep_fold ?_)

theorem keep_execRstWarm {who : Requester} {key : Nat} (hK : Keep s0 s) : KeepR s0 (execRstWarm who key s) := by
  unfold execRstWarm
  with_reducible repeat' first
    | assumption | refine keepR_next ?_ | exact keepR_fault _ | apply keep_busGate | refine keep_rstCtlWrite ?_
    | intro _

theorem keep_execRstCold {who : Requester} {key : Nat} (hK : Keep s0 s) : KeepR s0 (execRstCold who key s) := by
  unfold execRstCold
  with_reducible repeat' first
    | assumption | refine keepR_next ?_ | exact keepR_fault _ | apply keep_busGate | refine keep_rstCtlWrite ?_
    | intro _

theorem keep_execResetApply  (hK : Keep s0 s) : KeepR s0 (execResetApply s) := by
  unfold execResetApply
  try dsimp only
  with_reducible repeat' first
    | assumption | refine keep_ite ?_ ?_ | refine keepR_next ?_ | exact keepR_fault _ | refine keep_applyReset ?_
    | refine keep_resetRegs ?_ | refine keep_wrWord ?_ | intro _ | split | (apply keep_mk; refine keep_fold ?_)

theorem keep_execStartStepDone {rows : List Nat} {fw : List FwSlot} {cal : List (Nat × List Int)} {coef : List (Nat × List Byte)} (hK : Keep s0 s) : KeepR s0 (execStartStepDone rows fw cal coef s) := by
  unfold execStartStepDone
  with_reducible repeat' first
    | assumption | refine keep_ite ?_ ?_ | refine keepR_next ?_ | exact keepR_fault _ | refine keep_stepDone ?_

theorem keep_execStartStepTimeout {check : Bool} (hK : Keep s0 s) : KeepR s0 (execStartStepTimeout check s) := by
  unfold execStartStepTimeout
  try dsimp only
  with_reducible repeat' first
    | assumption | refine keep_ite ?_ ?_ | refine keepR_next ?_ | exact keepR_fault _ | refine keep_nextStep ?_
    | refine keep_startFail ?_

theorem keep_execStartRetry  (hK : Keep s0 s) : KeepR s0 (execStartRetry s) := by
  unfold execStartRetry
  try dsimp only
  with_reducible repeat' first
    | assumption | refine keep_ite ?_ ?_ | refine keepR_next ?_ | exact keepR_fault _ | refine keep_applyReset ?_
    | (apply keep_mk; refine keep_fold ?_)

theorem keep_execThermalRestart  (hK : Keep s0 s) : KeepR s0 (execThermalRestart s) := by
  unfold execThermalRestart
  with_reducible repeat' first
    | assumption | refine keep_ite ?_ ?_ | refine keepR_next ?_ | exact keepR_fault _
    | (apply keep_mk; refine keep_fold ?_)

theorem keep_execAutoWarmStart  (hK : Keep s0 s) : KeepR s0 (execAutoWarmStart s) := by
  unfold execAutoWarmStart
  with_reducible repeat' first
    | assumption | refine keep_ite ?_ ?_ | refine keepR_next ?_ | exact keepR_fault _ | refine keep_requestStart ?_

theorem keep_execTrstNAssert  (hK : Keep s0 s) : KeepR s0 (execTrstNAssert s) := by
  unfold execTrstNAssert
  with_reducible repeat' first
    | assumption | refine keepR_next ?_ | exact keepR_fault _ | (apply keep_mk; refine keep_fold ?_)

theorem keep_dropNonce  (hK : Keep s0 s) : Keep s0 (dropNonce s) := by
  unfold dropNonce
  with_reducible repeat' first | assumption | refine keep_putF ?_ | (apply keep_mk; refine keep_fold ?_)

theorem keep_stopChannels  (hK : Keep s0 s) : Keep s0 (stopChannels s) := by
  unfold stopChannels
  try dsimp only
  with_reducible repeat' first
    | assumption | apply keep_forAll | refine keep_putF ?_ | refine keep_forAll ?_ ?_ | intro _
    | (apply keep_mk; refine keep_fold ?_)

theorem keep_beginSummary {r : FatalRec} {result : Nat} (hK : Keep s0 s) : Keep s0 (beginSummary r result s) := by
  unfold beginSummary
  try dsimp only
  with_reducible repeat' first
    | assumption | refine keep_ite ?_ ?_ | refine keep_putF ?_ | refine keep_nvsPut ?_
    | (apply keep_mk; refine keep_fold ?_)

theorem keep_beginDump {r : FatalRec} (hK : Keep s0 s) : Keep s0 (beginDump r s) := by
  unfold beginDump
  try dsimp only
  with_reducible repeat' first
    | assumption | refine keep_ite ?_ ?_ | refine keep_beginSummary ?_ | refine keep_putF ?_
    | (apply keep_mk; refine keep_fold ?_)

theorem keep_fatalPath {r : FatalRec} (hK : Keep s0 s) : Keep s0 (fatalPath r s) := by
  unfold fatalPath
  try dsimp only
  with_reducible repeat' first
    | assumption | apply keep_forAll | refine keep_freezeSet ?_ | refine keep_putF ?_ | refine keep_healthEval ?_
    | refine keep_dropCmd ?_ | refine keep_stopChannels ?_ | refine keep_beginDump ?_ | refine keep_logEntry ?_
    | refine keep_forAll ?_ ?_ | intro _ | (apply keep_mk; refine keep_fold ?_)

theorem keep_fatalStart {r : FatalRec} (hK : Keep s0 s) : Keep s0 (fatalStart r s) := by
  unfold fatalStart
  try dsimp only
  with_reducible repeat' first
    | assumption | refine keep_ite ?_ ?_ | refine keep_nvsPut ?_ | refine keep_logEntry ?_ | refine keep_startFail ?_
    | (apply keep_mk; refine keep_fold ?_)

theorem keep_dumpDone  (hK : Keep s0 s) : Keep s0 (dumpDone s) := by
  unfold dumpDone
  try dsimp only
  with_reducible repeat' first
    | assumption | refine keep_ite ?_ ?_ | refine keep_putF ?_ | refine keep_errRec ?_ | refine keep_irqBit ?_
    | (apply keep_mk; refine keep_fold ?_)

theorem keep_dumpWritten {ok : Bool} (hK : Keep s0 s) : Keep s0 (dumpWritten ok s) := by
  unfold dumpWritten
  try dsimp only
  with_reducible repeat' first
    | assumption | refine keep_ite ?_ ?_ | refine keep_dumpDone ?_ | refine keep_hostWrite ?_
    | refine keep_beginSummary ?_ | refine keep_putF ?_ | refine keep_nvsPut ?_ | split

theorem keep_busRead {who : Requester} {p o : Nat} (hK : Keep s0 s) : Keep s0 (busRead who p o s) := by
  unfold busRead
  try dsimp only
  with_reducible repeat' first
    | assumption | refine keep_ite ?_ ?_ | refine keep_errRec ?_ | refine keep_readState ?_
    | refine keep_readEffect ?_ | intro _ | split | (apply keep_mk; refine keep_fold ?_)

theorem keep_busReadSize {who : Requester} {off size : Nat} (hK : Keep s0 s) : Keep s0 (busReadSize who off size s) := by
  unfold busReadSize
  try dsimp only
  with_reducible repeat' first
    | assumption | refine keep_ite ?_ ?_ | refine keep_busRead ?_ | (apply keep_mk; refine keep_fold ?_)

theorem keep_execRegWrite {who : Requester} {off : Nat} {data : Word} {be : Nat} {acc : BusAcc} (hK : Keep s0 s) : KeepR s0 (execRegWrite who off data be acc s) := by
  unfold execRegWrite
  try dsimp only
  with_reducible repeat' first
    | assumption | refine keep_ite ?_ ?_ | refine keepR_next ?_ | exact keepR_fault _ | refine keep_busWrite ?_
    | refine keep_busReadSize ?_ | split

theorem keep_execSoftReset {who : Requester} {p : Nat} (hK : Keep s0 s) : KeepR s0 (execSoftReset who p s) := by
  unfold execSoftReset
  with_reducible repeat' first
    | assumption | refine keepR_next ?_ | exact keepR_fault _ | apply keep_viaBus | apply keep_ownAct
    | refine keep_softReset ?_ | intro _

theorem keep_execSoftResetEnd {p : Nat} (hK : Keep s0 s) : KeepR s0 (execSoftResetEnd p s) := by
  unfold execSoftResetEnd
  try dsimp only
  with_reducible repeat' first
    | assumption | refine keep_ite ?_ ?_ | refine keepR_next ?_ | exact keepR_fault _ | refine keep_softResetEnd ?_
    | split

theorem keep_execFreezeSet {who : Requester} {p : Nat} (hK : Keep s0 s) : KeepR s0 (execFreezeSet who p s) := by
  unfold execFreezeSet
  with_reducible repeat' first
    | assumption | refine keepR_next ?_ | exact keepR_fault _ | apply keep_viaBus | apply keep_ownAct
    | refine keep_freezeSet ?_ | intro _

theorem keep_execFreezeClear {who : Requester} {p : Nat} (hK : Keep s0 s) : KeepR s0 (execFreezeClear who p s) := by
  unfold execFreezeClear
  with_reducible repeat' first
    | assumption | refine keepR_next ?_ | exact keepR_fault _ | apply keep_viaBus | apply keep_ownAct
    | refine keep_freezeClear ?_ | intro _

theorem keep_execBlockDisable {who : Requester} {p : Nat} (hK : Keep s0 s) : KeepR s0 (execBlockDisable who p s) := by
  unfold execBlockDisable
  with_reducible repeat' first
    | assumption | refine keepR_next ?_ | exact keepR_fault _ | apply keep_viaBus | apply keep_ownAct
    | refine keep_blockDisable ?_ | intro _

theorem keep_execIrqForce {who : Requester} {p : Nat} {mask : Word} (hK : Keep s0 s) : KeepR s0 (execIrqForce who p mask s) := by
  unfold execIrqForce
  with_reducible repeat' first
    | assumption | refine keepR_next ?_ | exact keepR_fault _ | apply keep_busGate | refine keep_irqForce ?_ | intro _

theorem keep_execErrPop {who : Requester} {p : Nat} (hK : Keep s0 s) : KeepR s0 (execErrPop who p s) := by
  unfold execErrPop
  with_reducible repeat' first
    | assumption | refine keepR_next ?_ | exact keepR_fault _ | apply keep_busGate | refine keep_errPop ?_ | intro _

theorem keep_execOwnerWrite {who : Requester} {p v : Nat} (hK : Keep s0 s) : KeepR s0 (execOwnerWrite who p v s) := by
  unfold execOwnerWrite
  with_reducible repeat' first
    | assumption | refine keepR_next ?_ | exact keepR_fault _ | apply keep_busGate | refine keep_ownerWrite ?_
    | intro _

theorem keep_execLockSet {who : Requester} {p : Nat} {cfg all : Bool} (hK : Keep s0 s) : KeepR s0 (execLockSet who p cfg all s) := by
  unfold execLockSet
  with_reducible repeat' first
    | assumption | refine keepR_next ?_ | exact keepR_fault _ | apply keep_busGate | refine keep_lockWrite ?_
    | intro _

theorem keep_execQueueHwmRead {b : Nat} (hK : Keep s0 s) : KeepR s0 (execQueueHwmRead b s) := by
  unfold execQueueHwmRead
  with_reducible repeat' first | assumption | refine keepR_next ?_ | exact keepR_fault _ | refine keep_busRead ?_

theorem keep_execTimeLoRead {who : Requester} {wide : Bool} (hK : Keep s0 s) : KeepR s0 (execTimeLoRead who wide s) := by
  unfold execTimeLoRead
  with_reducible repeat' first
    | assumption | refine keep_ite ?_ ?_ | refine keepR_next ?_ | exact keepR_fault _ | refine keep_busReadSize ?_

theorem keep_execShotLoRead {who : Requester} {b : Nat} (hK : Keep s0 s) : KeepR s0 (execShotLoRead who b s) := by
  unfold execShotLoRead
  with_reducible repeat' first | assumption | refine keepR_next ?_ | exact keepR_fault _ | refine keep_busRead ?_

theorem keep_execAccCntRead {who : Requester} {b : Nat} (hK : Keep s0 s) : KeepR s0 (execAccCntRead who b s) := by
  unfold execAccCntRead
  with_reducible repeat' first | assumption | refine keepR_next ?_ | exact keepR_fault _ | refine keep_busRead ?_

theorem keep_execHistRead {who : Requester} {b n : Nat} (hK : Keep s0 s) : KeepR s0 (execHistRead who b n s) := by
  unfold execHistRead
  with_reducible repeat' first | assumption | refine keepR_next ?_ | exact keepR_fault _ | refine keep_busRead ?_

theorem keep_execEnergyLoRead {who : Requester} (hK : Keep s0 s) : KeepR s0 (execEnergyLoRead who s) := by
  unfold execEnergyLoRead
  with_reducible repeat' first | assumption | refine keepR_next ?_ | exact keepR_fault _ | refine keep_busRead ?_

theorem keep_execResFreshRead {who : Requester} {i : Nat} (hK : Keep s0 s) : KeepR s0 (execResFreshRead who i s) := by
  unfold execResFreshRead
  with_reducible repeat' first | assumption | refine keepR_next ?_ | exact keepR_fault _ | refine keep_busRead ?_

theorem keep_execBackdoorRead  (hK : Keep s0 s) : KeepR s0 (execBackdoorRead s) := by
  unfold execBackdoorRead
  with_reducible repeat' first | assumption | refine keepR_next ?_ | exact keepR_fault _ | refine keep_busRead ?_

theorem keep_execFatalPath  (hK : Keep s0 s) : KeepR s0 (execFatalPath s) := by
  unfold execFatalPath
  try dsimp only
  with_reducible repeat' first
    | assumption | refine keep_ite ?_ ?_ | refine keepR_next ?_ | exact keepR_fault _ | refine keep_fatalStart ?_
    | refine keep_fatalPath ?_ | split | (apply keep_mk; refine keep_fold ?_)

theorem keep_execDumpWriteDone {ok : Bool} (hK : Keep s0 s) : KeepR s0 (execDumpWriteDone ok s) := by
  unfold execDumpWriteDone
  with_reducible repeat' first | assumption | refine keepR_next ?_ | exact keepR_fault _ | refine keep_dumpWritten ?_

theorem keep_loadIr {i : Jtag} {extest : Bool} (hK : Keep s0 s) : Keep s0 (loadIr i extest s) := by
  unfold loadIr
  with_reducible repeat' first | assumption | (apply keep_mk; refine keep_fold ?_)

theorem keep_execScanDump  (hK : Keep s0 s) : KeepR s0 (execScanDump s) := by
  unfold execScanDump
  try dsimp only
  with_reducible repeat' first
    | assumption | refine keep_ite ?_ ?_ | refine keepR_next ?_ | exact keepR_fault _ | refine keep_errRec ?_
    | refine keep_loadIr ?_ | (apply keep_mk; refine keep_fold ?_)

theorem keep_execBypass  (hK : Keep s0 s) : KeepR s0 (execBypass s) := by
  unfold execBypass
  with_reducible repeat' first | assumption | refine keepR_next ?_ | exact keepR_fault _ | refine keep_loadIr ?_

theorem keep_execIdcode (h : Keep s0 s) : KeepR s0 (execIdcode s) :=
  keepR_next h

theorem keep_execSamplePreload {load : Option (List Bool)} {n : Nat} (hK : Keep s0 s) : KeepR s0 (execSamplePreload load n s) := by
  unfold execSamplePreload
  try dsimp only
  with_reducible repeat' first
    | assumption | refine keepR_next ?_ | exact keepR_fault _ | refine keep_loadIr ?_ | refine keep_useFree ?_ | split
    | (apply keep_mk; refine keep_fold ?_)

theorem keep_driveCells {i : Jtag} {l : List Bool} (hK : Keep s0 s) : Keep s0 (driveCells i l s) := by
  unfold driveCells
  try dsimp only
  with_reducible repeat' first
    | assumption | refine keep_loadIr ?_ | refine keep_useFree ?_ | (apply keep_mk; refine keep_fold ?_)

theorem keep_execExtest {l : List Bool} (hK : Keep s0 s) : KeepR s0 (execExtest l s) := by
  unfold execExtest
  with_reducible repeat' first | assumption | refine keepR_next ?_ | exact keepR_fault _ | refine keep_driveCells ?_

theorem keep_execExtestPulse {l : List Bool} (hK : Keep s0 s) : KeepR s0 (execExtestPulse l s) := by
  unfold execExtestPulse
  with_reducible repeat' first | assumption | refine keepR_next ?_ | exact keepR_fault _ | refine keep_driveCells ?_

theorem keep_execExtestTrain {l : List Bool} (hK : Keep s0 s) : KeepR s0 (execExtestTrain l s) := by
  unfold execExtestTrain
  with_reducible repeat' first | assumption | refine keepR_next ?_ | exact keepR_fault _ | refine keep_driveCells ?_

theorem keep_execNonceExpire  (hK : Keep s0 s) : KeepR s0 (execNonceExpire s) := by
  unfold execNonceExpire
  with_reducible repeat' first
    | assumption | refine keep_ite ?_ ?_ | refine keepR_next ?_ | exact keepR_fault _ | refine keep_dropNonce ?_

theorem keep_serve {u : Urgent} (hK : Keep s0 s) : Keep s0 (serve u s) := by
  unfold serve
  try dsimp only
  with_reducible repeat' first
    | assumption | refine keep_ite ?_ ?_ | apply keep_forAll | refine keep_servePort ?_ | refine keep_wake ?_
    | refine keep_putF ?_ | refine keep_relock ?_ | refine keep_enterSearch ?_ | refine keep_mapOut ?_
    | refine keep_chooseTime ?_ | refine keep_repairAll ?_ | refine keep_floodLsa ?_ | refine keep_serveRequest ?_
    | refine keep_forAll ?_ ?_ | intro _ | split | (apply keep_mk; refine keep_fold ?_)

theorem keep_yieldCmd  (hK : Keep s0 s) : Keep s0 (yieldCmd s) := by
  unfold yieldCmd
  try dsimp only
  with_reducible repeat' first
    | assumption | refine keep_ite ?_ ?_ | refine keep_respond ?_ | refine keep_irqBit ?_ | refine keep_incSat ?_
    | intro _ | split | (apply keep_mk; refine keep_fold ?_)

theorem keep_takeDoor {buf : Option (List Byte)} (hK : Keep s0 s) : Keep s0 (takeDoor buf s) := by
  unfold takeDoor
  try dsimp only
  with_reducible repeat' first
    | assumption | refine keep_ite ?_ ?_ | refine keep_putF ?_ | refine keep_respond ?_ | intro _ | split
    | (apply keep_mk; refine keep_fold ?_)

theorem keep_mitDone {result idx : Nat} (hK : Keep s0 s) : Keep s0 (mitDone result idx s) := by
  unfold mitDone
  try dsimp only
  with_reducible repeat' first
    | assumption | refine keep_ite ?_ ?_ | refine keep_itePair ?_ ?_ | apply keep_forAll | refine keep_putF ?_
    | refine keep_irqBit ?_ | refine keep_errRec ?_ | refine keep_forAll ?_ ?_ | intro _
    | (apply keep_mk; refine keep_fold ?_)

theorem keep_loadMit {count : Nat} {tab : Option (List Byte)} (hK : Keep s0 s) : Keep s0 (loadMit count tab s) := by
  unfold loadMit
  try dsimp only
  with_reducible repeat' first
    | assumption | refine keep_ite ?_ ?_ | refine keep_mitDone ?_ | split | (apply keep_mk; refine keep_fold ?_)

theorem keep_servePortFh {n : Nat} (hK : Keep s0 s) : Keep s0 (servePortFh n s) := by
  unfold servePortFh
  try dsimp only
  with_reducible repeat' first
    | assumption | refine keep_ite ?_ ?_ | apply keep_busGate | refine keep_portActivateEffect ?_
    | refine keep_putF ?_ | refine keep_errRec ?_ | refine keep_irqBit ?_ | refine keep_topoUrge ?_
    | refine keep_enterSearch ?_ | intro _

theorem keep_autoLoad {i : Nat} {img : List Byte} (hK : Keep s0 s) : Keep s0 (autoLoad i img s) := by
  unfold autoLoad
  try dsimp only
  with_reducible repeat' first
    | assumption | refine keep_ite ?_ ?_ | refine keep_loadImage ?_ | refine keep_errRec ?_
    | (apply keep_mk; refine keep_fold ?_)

theorem keep_routine {mit : Option (List Byte)} {auto : Option (Nat × List Byte)} (hK : Keep s0 s) : Keep s0 (routine mit auto s) := by
  unfold routine
  try dsimp only
  with_reducible repeat' first
    | assumption | apply keep_forAll | refine keep_loadMit ?_ | refine keep_servePortFh ?_ | refine keep_chooseTime ?_
    | refine keep_storeAuto ?_ | refine keep_autoLoad ?_ | refine keep_forAll ?_ ?_ | intro _ | split

theorem keep_safePoint {spacing : Nat} {buf mit : Option (List Byte)} {auto : Option (Nat × List Byte)} (hK : Keep s0 s) : Keep s0 (safePoint spacing buf mit auto s) := by
  unfold safePoint
  try dsimp only
  with_reducible repeat' first
    | assumption | refine keep_ite ?_ ?_ | refine keep_putF ?_ | refine keep_healthEval ?_ | refine keep_serve ?_
    | refine keep_yieldCmd ?_ | refine keep_takeDoor ?_ | refine keep_routine ?_ | split
    | (apply keep_mk; refine keep_fold ?_)

theorem keep_runCmd {op : Nat} {f : Cmd → State → State} (hf : ∀ x0 t, Keep s0 t → Keep s0 (f x0 t)) (hK : Keep s0 s) : Keep s0 (runCmd op f s) := by
  unfold runCmd
  dsimp only
  with_reducible repeat' first
    | assumption | refine keep_ite ?_ ?_ | apply hf | intro _ | split | (apply keep_mk; refine keep_fold ?_)

theorem keep_unitOf {n : Nat} {c : Cmd} (hK : Keep s0 s) : Keep s0 (unitOf n c s) := by
  unfold unitOf
  try dsimp only
  with_reducible repeat' first | assumption | refine keep_ite ?_ ?_ | refine keep_unitDone ?_ | refine keep_respond ?_

theorem keep_memFill {c : Cmd} (hK : Keep s0 s) : Keep s0 (memFill c s) := by
  unfold memFill
  try dsimp only
  with_reducible repeat' first
    | assumption | refine keep_ite ?_ ?_ | refine keep_respond ?_ | refine keep_unitOf ?_ | refine keep_storeMem ?_
    | split

theorem keep_loadStep {img : List Byte} {c : Cmd} (hK : Keep s0 s) : Keep s0 (loadStep img c s) := by
  unfold loadStep
  try dsimp only
  with_reducible repeat' first
    | assumption | refine keep_ite ?_ ?_ | refine keep_respond ?_ | refine keep_unitOf ?_ | refine keep_loadSection ?_
    | split

theorem keep_bulkLoad {img : Option (List Byte)} {c : Cmd} (hK : Keep s0 s) : Keep s0 (bulkLoad img c s) := by
  unfold bulkLoad
  try dsimp only
  with_reducible repeat' first
    | assumption | refine keep_ite ?_ ?_ | refine keep_respond ?_ | refine keep_loadStep ?_ | split

theorem keep_imageLoad {img : Option (List Byte)} {c : Cmd} (hK : Keep s0 s) : Keep s0 (imageLoad img c s) := by
  unfold imageLoad
  try dsimp only
  with_reducible repeat' first
    | assumption | refine keep_ite ?_ ?_ | refine keep_respond ?_ | refine keep_loadStep ?_ | split

theorem keep_nvsWrite {c : Cmd} (hK : Keep s0 s) : Keep s0 (nvsWrite c s) := by
  unfold nvsWrite
  try dsimp only
  with_reducible repeat' first
    | assumption | refine keep_ite ?_ ?_ | refine keep_respond ?_ | refine keep_journal ?_

theorem keep_profileSet {c : Cmd} (hK : Keep s0 s) : Keep s0 (profileSet c s) := by
  unfold profileSet
  try dsimp only
  with_reducible repeat' first
    | assumption | refine keep_ite ?_ ?_ | refine keep_respond ?_ | refine keep_journal ?_

theorem keep_flashRead {ok : Bool} {c : Cmd} (hK : Keep s0 s) : Keep s0 (flashRead ok c s) := by
  unfold flashRead
  try dsimp only
  with_reducible repeat' first | assumption | refine keep_ite ?_ ?_ | refine keep_respond ?_

theorem keep_flashPut {a : Nat} {l : List Byte} (h : Keep s0 s) : Keep s0 (flashPut a l s) := by
  induction l generalizing a s with
  | nil => exact h
  | cons v l ih => exact ih (s := { s with hoop := _ }) h

theorem keep_flashWrite {ok : Bool} {c : Cmd} (hK : Keep s0 s) : Keep s0 (flashWrite ok c s) := by
  unfold flashWrite
  try dsimp only
  with_reducible repeat' first
    | assumption | refine keep_ite ?_ ?_ | refine keep_respond ?_ | refine keep_unitOf ?_ | refine keep_flashPut ?_

theorem keep_tileMap {c : Cmd} (hK : Keep s0 s) : Keep s0 (tileMap c s) := by
  unfold tileMap
  try dsimp only
  with_reducible repeat' first
    | assumption | refine keep_ite ?_ ?_ | refine keep_respond ?_ | refine keep_mapOut ?_ | refine keep_mapIn ?_
    | split

theorem keep_unlockFail  (hK : Keep s0 s) : Keep s0 (unlockFail s) := by
  unfold unlockFail
  try dsimp only
  with_reducible repeat' first
    | assumption | refine keep_incSat ?_ | refine keep_respond ?_ | refine keep_errRec ?_ | refine keep_irqBit ?_
    | (apply keep_mk; refine keep_fold ?_)

theorem keep_unlock {level : Nat} (hK : Keep s0 s) : Keep s0 (unlock level s) := by
  unfold unlock
  try dsimp only
  with_reducible repeat' first
    | assumption | refine keep_putF ?_ | refine keep_errRec ?_ | refine keep_irqBit ?_ | refine keep_respond ?_
    | refine keep_logEntry ?_

theorem keep_unlock1 {c : Cmd} (hK : Keep s0 s) : Keep s0 (unlock1 c s) := by
  unfold unlock1
  try dsimp only
  with_reducible repeat' first
    | assumption | refine keep_ite ?_ ?_ | refine keep_respond ?_ | refine keep_unlock ?_ | refine keep_unlockFail ?_
    | split

theorem keep_challenge {c : Cmd} (hK : Keep s0 s) : Keep s0 (challenge c s) := by
  unfold challenge
  try dsimp only
  with_reducible repeat' first
    | assumption | refine keep_putF ?_ | refine keep_respond ?_ | refine keep_useFree ?_ | intro _
    | (apply keep_mk; refine keep_fold ?_)

theorem keep_unlock2 {c : Cmd} (hK : Keep s0 s) : Keep s0 (unlock2 c s) := by
  unfold unlock2
  try dsimp only
  with_reducible repeat' first
    | assumption | refine keep_ite ?_ ?_ | refine keep_respond ?_ | refine keep_dropNonce ?_ | refine keep_unlock ?_
    | refine keep_unlockFail ?_ | split

theorem keep_setPw {c : Cmd} (hK : Keep s0 s) : Keep s0 (setPw c s) := by
  unfold setPw
  try dsimp only
  with_reducible repeat' first
    | assumption | refine keep_ite ?_ ?_ | refine keep_respond ?_ | refine keep_putF ?_
    | (apply keep_mk; refine keep_fold ?_)

theorem keep_relock {c : Cmd} (hK : Keep s0 s) : Keep s0 (relock c s) := by
  unfold relock
  with_reducible repeat' first | assumption | refine keep_respond ?_ | refine keep_putF ?_

theorem keep_debugCmd {subop : Nat} {f : Cmd → State → State} (hf : ∀ x0 t, Keep s0 t → Keep s0 (f x0 t)) (hK : Keep s0 s) : Keep s0 (debugCmd subop f s) := by
  unfold debugCmd
  with_reducible repeat' first | assumption | refine keep_ite ?_ ?_ | apply keep_runCmd | apply hf | intro _

theorem keep_cmdRecDone  (hK : Keep s0 s) : Keep s0 (cmdRecDone s) := by
  unfold cmdRecDone
  try dsimp only
  with_reducible repeat' first
    | assumption | refine keep_ite ?_ ?_ | refine keep_unitOf ?_ | refine keep_respond ?_ | split

theorem keep_nvsWord {r : JRec} {rest : List JRec} (hK : Keep s0 s) : Keep s0 (nvsWord r rest s) := by
  unfold nvsWord
  try dsimp only
  with_reducible repeat' first
    | assumption | refine keep_ite ?_ ?_ | refine keep_nvsPut ?_ | refine keep_retired ?_ | refine keep_showNvs ?_
    | refine keep_cmdRecDone ?_ | (apply keep_mk; refine keep_fold ?_)

theorem keep_repairLost {r : JRec} (hK : Keep s0 s) : Keep s0 (repairLost r s) := by
  unfold repairLost
  try dsimp only
  with_reducible repeat' first
    | assumption | refine keep_ite ?_ ?_ | refine keep_errRec ?_ | refine keep_useFree ?_ | intro _ | split

theorem keep_nvsFail {r : JRec} {rest : List JRec} (hK : Keep s0 s) : Keep s0 (nvsFail r rest s) := by
  unfold nvsFail
  try dsimp only
  with_reducible repeat' first
    | assumption | refine keep_ite ?_ ?_ | refine keep_repairLost ?_ | refine keep_errRec ?_ | refine keep_irqBit ?_
    | refine keep_useFree ?_ | refine keep_showNvs ?_ | refine keep_respond ?_ | (apply keep_mk; refine keep_fold ?_)

theorem keep_execHoopSafePoint {spacing : Nat} {buf mit : Option (List Byte)} {auto : Option (Nat × List Byte)} (hK : Keep s0 s) : KeepR s0 (execHoopSafePoint spacing buf mit auto s) := by
  unfold execHoopSafePoint
  with_reducible repeat' first | assumption | refine keepR_next ?_ | exact keepR_fault _ | refine keep_safePoint ?_

theorem keep_execHoopMc {a : Nat} (hK : Keep s0 s) : KeepR s0 (execHoopMc a s) := by
  unfold execHoopMc
  with_reducible repeat' first | assumption | refine keepR_next ?_ | exact keepR_fault _ | refine keep_hoopCheck ?_

theorem keep_execHoopWdt  (hK : Keep s0 s) : KeepR s0 (execHoopWdt s) := by
  unfold execHoopWdt
  with_reducible repeat' first
    | assumption | refine keep_ite ?_ ?_ | refine keepR_next ?_ | exact keepR_fault _ | refine keep_errRec ?_
    | refine keep_useFree ?_

theorem keep_execEcho  (hK : Keep s0 s) : KeepR s0 (execEcho s) := by
  unfold execEcho
  try dsimp only
  with_reducible repeat' first
    | assumption | refine keepR_next ?_ | exact keepR_fault _ | apply keep_runCmd | refine keep_respond ?_ | intro _

theorem keep_execInfo  (hK : Keep s0 s) : KeepR s0 (execInfo s) := by
  unfold execInfo
  try dsimp only
  with_reducible repeat' first
    | assumption | refine keepR_next ?_ | exact keepR_fault _ | apply keep_runCmd | refine keep_respond ?_ | intro _

theorem keep_execMemFill  (hK : Keep s0 s) : KeepR s0 (execMemFill s) := by
  unfold execMemFill
  with_reducible repeat' first
    | assumption | refine keepR_next ?_ | exact keepR_fault _ | apply keep_runCmd | refine keep_memFill ?_ | intro _

theorem keep_execBulkLoad {img : Option (List Byte)} (hK : Keep s0 s) : KeepR s0 (execBulkLoad img s) := by
  unfold execBulkLoad
  with_reducible repeat' first
    | assumption | refine keepR_next ?_ | exact keepR_fault _ | apply keep_runCmd | refine keep_bulkLoad ?_ | intro _

theorem keep_execImageLoad {img : Option (List Byte)} (hK : Keep s0 s) : KeepR s0 (execImageLoad img s) := by
  unfold execImageLoad
  with_reducible repeat' first
    | assumption | refine keepR_next ?_ | exact keepR_fault _ | apply keep_runCmd | refine keep_imageLoad ?_ | intro _

theorem keep_execNvsWrite  (hK : Keep s0 s) : KeepR s0 (execNvsWrite s) := by
  unfold execNvsWrite
  with_reducible repeat' first
    | assumption | refine keepR_next ?_ | exact keepR_fault _ | apply keep_runCmd | refine keep_nvsWrite ?_ | intro _

theorem keep_execProfileSet  (hK : Keep s0 s) : KeepR s0 (execProfileSet s) := by
  unfold execProfileSet
  with_reducible repeat' first
    | assumption | refine keepR_next ?_ | exact keepR_fault _ | apply keep_runCmd | refine keep_profileSet ?_
    | intro _

theorem keep_execFlashRead {ok : Bool} (hK : Keep s0 s) : KeepR s0 (execFlashRead ok s) := by
  unfold execFlashRead
  with_reducible repeat' first
    | assumption | refine keepR_next ?_ | exact keepR_fault _ | apply keep_runCmd | refine keep_flashRead ?_ | intro _

theorem keep_execFlashWrite {ok : Bool} (hK : Keep s0 s) : KeepR s0 (execFlashWrite ok s) := by
  unfold execFlashWrite
  with_reducible repeat' first
    | assumption | refine keepR_next ?_ | exact keepR_fault _ | apply keep_runCmd | refine keep_flashWrite ?_
    | intro _

theorem keep_execTileMap  (hK : Keep s0 s) : KeepR s0 (execTileMap s) := by
  unfold execTileMap
  with_reducible repeat' first
    | assumption | refine keepR_next ?_ | exact keepR_fault _ | apply keep_runCmd | refine keep_tileMap ?_ | intro _

theorem keep_execWarmStartCmd  (hK : Keep s0 s) : KeepR s0 (execWarmStartCmd s) := by
  unfold execWarmStartCmd
  try dsimp only
  with_reducible repeat' first
    | assumption | refine keepR_next ?_ | exact keepR_fault _ | apply keep_runCmd | refine keep_requestStart ?_
    | refine keep_respond ?_ | intro _

theorem keep_execDebugUnlock1  (hK : Keep s0 s) : KeepR s0 (execDebugUnlock1 s) := by
  unfold execDebugUnlock1
  with_reducible repeat' first
    | assumption | refine keepR_next ?_ | exact keepR_fault _ | apply keep_debugCmd | refine keep_unlock1 ?_ | intro _

theorem keep_execDebugChallenge  (hK : Keep s0 s) : KeepR s0 (execDebugChallenge s) := by
  unfold execDebugChallenge
  with_reducible repeat' first
    | assumption | refine keepR_next ?_ | exact keepR_fault _ | apply keep_debugCmd | refine keep_challenge ?_
    | intro _

theorem keep_execDebugUnlock2  (hK : Keep s0 s) : KeepR s0 (execDebugUnlock2 s) := by
  unfold execDebugUnlock2
  with_reducible repeat' first
    | assumption | refine keepR_next ?_ | exact keepR_fault _ | apply keep_debugCmd | refine keep_unlock2 ?_ | intro _

theorem keep_execDebugSetPw  (hK : Keep s0 s) : KeepR s0 (execDebugSetPw s) := by
  unfold execDebugSetPw
  with_reducible repeat' first
    | assumption | refine keepR_next ?_ | exact keepR_fault _ | apply keep_debugCmd | refine keep_setPw ?_ | intro _

theorem keep_execDebugRelock  (hK : Keep s0 s) : KeepR s0 (execDebugRelock s) := by
  unfold execDebugRelock
  with_reducible repeat' first
    | assumption | refine keepR_next ?_ | exact keepR_fault _ | apply keep_debugCmd | refine keep_relock ?_ | intro _

theorem keep_execNvsWordDone {ok : Bool} (hK : Keep s0 s) : KeepR s0 (execNvsWordDone ok s) := by
  unfold execNvsWordDone
  try dsimp only
  with_reducible repeat' first
    | assumption | refine keep_ite ?_ ?_ | refine keepR_next ?_ | exact keepR_fault _ | refine keep_nvsWord ?_
    | refine keep_nvsFail ?_ | split

end Sys2Proof.Machine
end

