-- ==== Sys2Proof/Laws/KeepSamples.lean ====
section
/-!
SUPPORT. What every operation keeps (Laws/Keep.lean): the operations of Machine/Samples.lean and the tick.
-/
namespace Sys2Proof.Machine

variable {s0 s : State}

theorem keep_envUnit {b src : Nat} (h : Keep s0 s) : Keep s0 (envUnit b src s).2 := by
  unfold envUnit
  split
  · exact keep_rtTouch h
  · exact h

theorem keep_envFetch {b : Nat} {r : FetchRun} (h : Keep s0 s) : Keep s0 (envFetch b r s) := keep_modTile (keep_envUnit h)

theorem keep_fetchDue {b : Nat} (h : Keep s0 s) : Keep s0 (fetchDue b s) := keep_forAll (fun _ _ => keep_envFetch) h

theorem keep_setCodes {b u : Nat} {l : List Int} (h : Keep s0 s) : Keep s0 (setCodes b u l s) := keep_modTile h

theorem keep_saturated {b u irq : Nat} {cnt stat : Fld} (h : Keep s0 s) : Keep s0 (saturated b u irq cnt stat s) :=
  have h1 := keep_irqBit (p := tilePage b) (b := irq) (keep_putF (f := stat) (v := 1) (i := u) (keep_incSat (f := cnt) (i := u) h))
  keep_ite h1 (keep_errRec (keep_modTile h1))

theorem keep_dacCycle {b n d : Nat} (h : Keep s0 s) : Keep s0 (dacCycle b n d s) :=
  keep_ite (keep_setCodes h) (keep_ite (keep_ite (keep_saturated (keep_setCodes h)) (keep_saturated (keep_setCodes h))) (keep_setCodes h))

theorem keep_toneCycle {b n : Nat} (h : Keep s0 s) : Keep s0 (toneCycle b n s) :=
  keep_forAll (fun _ _ => keep_dacCycle) (keep_modTile h)

theorem keep_fluxCycle {b n k : Nat} (h : Keep s0 s) : Keep s0 (fluxCycle b n k s) :=
  keep_ite (keep_saturated (keep_setCodes (keep_setFlux h))) (keep_setCodes (keep_setFlux h))

theorem keep_tileCycle {b : Nat} (h : Keep s0 s) : Keep s0 (tileCycle b s) := by
  unfold tileCycle
  dsimp only
  split
  · refine keep_modTile (keep_ite (keep_forAll (fun _ _ => keep_fluxCycle) h) (keep_ite h (keep_toneCycle h)))
  · exact h

theorem keep_adcCycle {b : Nat} (hK : Keep s0 s) : Keep s0 (adcCycle b s) := by
  unfold adcCycle
  try dsimp only
  with_reducible repeat' first
    | assumption | refine keep_ite ?_ ?_ | refine keep_itePair ?_ ?_ | apply keep_forAll | refine keep_applyTaps ?_
    | refine keep_modTile ?_ | refine keep_forAll ?_ ?_ | intro _

theorem keep_ringCount {b : Nat} (hK : Keep s0 s) : Keep s0 (ringCount b s) := by
  unfold ringCount
  try dsimp only
  with_reducible repeat' first
    | assumption | refine keep_ite ?_ ?_ | apply keep_forAll | refine keep_ringStep ?_ | refine keep_setRdo ?_
    | refine keep_forAll ?_ ?_ | intro _

theorem keep_playTiles (h : Keep s0 s) : Keep s0 (playTiles s) := by
  unfold playTiles
  exact keep_forAll (fun _ _ ht => keep_adcCycle (keep_tileCycle ht)) h

theorem keep_fetchTiles (h : Keep s0 s) : Keep s0 (fetchTiles s) := by
  unfold fetchTiles
  exact keep_forAll (fun _ _ => keep_fetchDue) h

theorem keep_setPins {d : Nat} (hK : Keep s0 s) : Keep s0 (setPins d s) := by
  unfold setPins
  try dsimp only
  with_reducible repeat' first | assumption | intro _ | (apply keep_mk; refine keep_fold ?_)

theorem keep_drivePins (h : Keep s0 s) : Keep s0 (drivePins s) := by
  unfold drivePins
  with_reducible split
  all_goals (apply keep_mk; exact keep_fold h)

theorem keep_decisionBlk {n d : Nat} (hK : Keep s0 s) : Keep s0 (decisionBlk n d s).2 := by
  unfold decisionBlk
  try dsimp only
  with_reducible repeat' first
    | assumption | refine keep_itePair ?_ ?_ | refine keep_modPort ?_

theorem keep_fragment {n : Nat} {c : Nat × Bool × List Byte} (hK : Keep s0 s) : Keep s0 (fragment n c s).2 := by
  unfold fragment
  try dsimp only
  with_reducible repeat' first
    | assumption | refine keep_ite ?_ ?_ | refine keep_itePair ?_ ?_ | refine keep_modPort ?_

theorem keep_mgmtBlk {n : Nat} (hK : Keep s0 s) : Keep s0 (mgmtBlk n s).2 := by
  unfold mgmtBlk
  try dsimp only
  with_reducible repeat' first
    | assumption | refine keep_ite ?_ ?_ | refine keep_itePair ?_ ?_ | refine keep_fragment ?_
    | refine keep_modPort ?_ | intro _ | split

theorem keep_waitingBlk {n : Nat} (hK : Keep s0 s) : Keep s0 (waitingBlk n s).2 := by
  unfold waitingBlk
  try dsimp only
  with_reducible repeat' first
    | assumption | refine keep_ite ?_ ?_ | refine keep_itePair ?_ ?_ | refine keep_modPort ?_ | refine keep_mgmtBlk ?_
    | intro _ | split

theorem keep_positionBlk {n b : Nat} (hK : Keep s0 s) : Keep s0 (positionBlk n b s).2 := by
  unfold positionBlk
  try dsimp only
  with_reducible repeat' first
    | assumption | refine keep_ite ?_ ?_ | refine keep_itePair ?_ ?_ | refine keep_modPort ?_
    | refine keep_waitingBlk ?_

theorem keep_framedBlks {n b : Nat} (hK : Keep s0 s) : Keep s0 (framedBlks n b s).2 := by
  unfold framedBlks
  try dsimp only
  with_reducible repeat' first
    | assumption | refine keep_ite ?_ ?_ | refine keep_itePair ?_ ?_ | refine keep_positionBlk ?_
    | refine keep_decisionBlk ?_

theorem keep_onBoth {p0 p1 : Nat} (hK : Keep s0 s) : Keep s0 (onBoth p0 p1 s).2 := by
  unfold onBoth
  with_reducible repeat' first | assumption

theorem keep_trainSent {n : Nat} (hK : Keep s0 s) : Keep s0 (trainSent n s) := by
  unfold trainSent
  try dsimp only
  with_reducible repeat' first
    | assumption | refine keep_ite ?_ ?_ | refine keep_agreeDone ?_ | refine keep_modPort ?_

theorem keep_periodBlks {n b : Nat} (hK : Keep s0 s) : Keep s0 (periodBlks n b s).2 := by
  unfold periodBlks
  try dsimp only
  with_reducible repeat' first
    | assumption | refine keep_ite ?_ ?_ | refine keep_itePair ?_ ?_ | refine keep_onBoth ?_ | refine keep_modPort ?_
    | refine keep_framedBlks ?_ | refine keep_trainSent ?_

theorem keep_modTx {n : Nat} {g : Tx → Tx} (hK : Keep s0 s) : Keep s0 (modTx n g s) := by
  unfold modTx
  try dsimp only
  with_reducible repeat' first | assumption | refine keep_modPort ?_

theorem keep_portCycle {n : Nat} (hK : Keep s0 s) : Keep s0 (portCycle n s) := by
  unfold portCycle
  try dsimp only
  with_reducible repeat' first
    | assumption | refine keep_ite ?_ ?_ | refine keep_itePair ?_ ?_ | refine keep_modTx ?_
    | refine keep_periodBlks ?_

theorem keep_portCycles  (hK : Keep s0 s) : Keep s0 (portCycles s) := by
  unfold portCycles
  try dsimp only
  with_reducible repeat' first
    | assumption | apply keep_forAll | refine keep_portCycle ?_ | refine keep_forAll ?_ ?_ | intro _

theorem keep_frameEnds {n : Nat} (hK : Keep s0 s) : Keep s0 (frameEnds n s) := by
  unfold frameEnds
  try dsimp only
  with_reducible repeat' first
    | assumption | refine keep_ite ?_ ?_ | refine keep_topoUrge ?_ | refine keep_setPortState ?_
    | refine keep_modTx ?_ | refine keep_irqBit ?_

theorem keep_peerIdles {n : Nat} (hK : Keep s0 s) : Keep s0 (peerIdles n s) := by
  unfold peerIdles
  try dsimp only
  with_reducible repeat' first
    | assumption | refine keep_ite ?_ ?_ | refine keep_modPort ?_ | refine keep_topoUrge ?_ | refine keep_losePort ?_
    | refine keep_putF ?_ | intro _ | split

theorem keep_portEnds  (hK : Keep s0 s) : Keep s0 (portEnds s) := by
  unfold portEnds
  try dsimp only
  with_reducible repeat' first
    | assumption | apply keep_forAll | refine keep_peerIdles ?_ | refine keep_frameEnds ?_ | refine keep_forAll ?_ ?_
    | intro _

theorem keep_time {t : State} (n : Time) (h : Keep s0 t) : Keep s0 { t with time := n } := h

theorem keep_fabricCycle (h : Keep s0 s) : Keep s0 (fabricCycle s) := by
  have h1 := keep_slotWatch (keep_portCycles (keep_darnerCycle (keep_drivePins (keep_playTiles (keep_fetchTiles h)))))
  unfold fabricCycle
  exact keep_forAll (fun _ _ => keep_ringCount) (keep_darnerClears (keep_fetchTiles (keep_portEnds (keep_time _ h1))))

theorem keep_ownClock (h : Keep s0 s) : Keep s0 (ownClock s) := keep_fold h

theorem keep_holdCycle (h : Keep s0 s) : Keep s0 (holdCycle s) := by
  unfold holdCycle
  exact keep_time (t := fabricCycle { s with time := fcNow s }) s.time (keep_fabricCycle (keep_time (t := s) (fcNow s) h))

theorem keep_tick (h : Keep s0 s) : Keep s0 (tick s) :=
  keep_ite (keep_registerJumps (keep_ownClock (keep_fabricCycle h))) (keep_ite (keep_ownClock (keep_holdCycle h)) (keep_ownClock h))

end Sys2Proof.Machine
end

