-- ==== Sys2Proof/Laws/State.lean ====
section
/-!
SUPPORT. What each field of the state is after each named update: the field the update writes, and every other one unchanged.
-/
namespace Sys2Proof.Machine

variable (s : State)

/-! ### wrWord -/

@[simp] theorem wrWord_variant (a : Nat) (w : Word) : (wrWord a w s).variant = s.variant := rfl
@[simp] theorem wrWord_pending (a : Nat) (w : Word) : (wrWord a w s).pending = s.pending := rfl
@[simp] theorem wrWord_time (a : Nat) (w : Word) : (wrWord a w s).time = s.time := rfl
@[simp] theorem wrWord_regs (a : Nat) (w : Word) : (wrWord a w s).regs = smPut (regReset a) a w s.regs := rfl
@[simp] theorem wrWord_held (a : Nat) (w : Word) : (wrWord a w s).held = s.held := rfl
@[simp] theorem wrWord_errs (a : Nat) (w : Word) : (wrWord a w s).errs = s.errs := rfl
@[simp] theorem wrWord_fatal (a : Nat) (w : Word) : (wrWord a w s).fatal = s.fatal := rfl
@[simp] theorem wrWord_pll (a : Nat) (w : Word) : (wrWord a w s).pll = s.pll := rfl
@[simp] theorem wrWord_msix (a : Nat) (w : Word) : (wrWord a w s).msix = s.msix := rfl
@[simp] theorem wrWord_mem (a : Nat) (w : Word) : (wrWord a w s).mem = s.mem := rfl
@[simp] theorem wrWord_side (a : Nat) (w : Word) : (wrWord a w s).side = s.side := rfl
@[simp] theorem wrWord_tiles (a : Nat) (w : Word) : (wrWord a w s).tiles = s.tiles := rfl
@[simp] theorem wrWord_rdos (a : Nat) (w : Word) : (wrWord a w s).rdos = s.rdos := rfl
@[simp] theorem wrWord_flux (a : Nat) (w : Word) : (wrWord a w s).flux = s.flux := rfl
@[simp] theorem wrWord_lastRead (a : Nat) (w : Word) : (wrWord a w s).lastRead = s.lastRead := rfl
@[simp] theorem wrWord_lastBytes (a : Nat) (w : Word) : (wrWord a w s).lastBytes = s.lastBytes := rfl
@[simp] theorem wrWord_lastAbort (a : Nat) (w : Word) : (wrWord a w s).lastAbort = s.lastAbort := rfl
@[simp] theorem wrWord_free (a : Nat) (w : Word) : (wrWord a w s).free = s.free := rfl
@[simp] theorem wrWord_lines (a : Nat) (w : Word) : (wrWord a w s).lines = s.lines := rfl
@[simp] theorem wrWord_masters (a : Nat) (w : Word) : (wrWord a w s).masters = s.masters := rfl
@[simp] theorem wrWord_profiles (a : Nat) (w : Word) : (wrWord a w s).profiles = s.profiles := rfl
@[simp] theorem wrWord_scrub (a : Nat) (w : Word) : (wrWord a w s).scrub = s.scrub := rfl
@[simp] theorem wrWord_cal (a : Nat) (w : Word) : (wrWord a w s).cal = s.cal := rfl
@[simp] theorem wrWord_pubs (a : Nat) (w : Word) : (wrWord a w s).pubs = s.pubs := rfl
@[simp] theorem wrWord_slots (a : Nat) (w : Word) : (wrWord a w s).slots = s.slots := rfl
@[simp] theorem wrWord_once (a : Nat) (w : Word) : (wrWord a w s).once = s.once := rfl
@[simp] theorem wrWord_patches (a : Nat) (w : Word) : (wrWord a w s).patches = s.patches := rfl
@[simp] theorem wrWord_esc (a : Nat) (w : Word) : (wrWord a w s).esc = s.esc := rfl
@[simp] theorem wrWord_thaw (a : Nat) (w : Word) : (wrWord a w s).thaw = s.thaw := rfl
@[simp] theorem wrWord_timers (a : Nat) (w : Word) : (wrWord a w s).timers = s.timers := rfl
@[simp] theorem wrWord_ports (a : Nat) (w : Word) : (wrWord a w s).ports = s.ports := rfl
@[simp] theorem wrWord_cst (a : Nat) (w : Word) : (wrWord a w s).cst = s.cst := rfl
@[simp] theorem wrWord_dma (a : Nat) (w : Word) : (wrWord a w s).dma = s.dma := rfl
@[simp] theorem wrWord_pcie (a : Nat) (w : Word) : (wrWord a w s).pcie = s.pcie := rfl
@[simp] theorem wrWord_hoop (a : Nat) (w : Word) : (wrWord a w s).hoop = s.hoop := rfl
@[simp] theorem wrWord_boot (a : Nat) (w : Word) : (wrWord a w s).boot = s.boot := rfl
@[simp] theorem wrWord_dbgAcc (a : Nat) (w : Word) : (wrWord a w s).dbgAcc = s.dbgAcc := rfl
@[simp] theorem wrWord_up (a : Nat) (w : Word) : (wrWord a w s).up = s.up := rfl
@[simp] theorem wrWord_smp (a : Nat) (w : Word) : (wrWord a w s).smp = s.smp := rfl
@[simp] theorem wrWord_repairs (a : Nat) (w : Word) : (wrWord a w s).repairs = s.repairs := rfl
@[simp] theorem wrWord_bias (a : Nat) (w : Word) : (wrWord a w s).bias = s.bias := rfl
@[simp] theorem wrWord_pat (a : Nat) (w : Word) : (wrWord a w s).pat = s.pat := rfl
@[simp] theorem wrWord_evm (a : Nat) (w : Word) : (wrWord a w s).evm = s.evm := rfl
@[simp] theorem wrWord_softRst (a : Nat) (w : Word) : (wrWord a w s).softRst = s.softRst := rfl
@[simp] theorem wrWord_mck (a : Nat) (w : Word) : (wrWord a w s).mck = s.mck := rfl
@[simp] theorem wrWord_was (a : Nat) (w : Word) : (wrWord a w s).was = s.was := rfl

/-! ### putF -/

@[simp] theorem putF_variant (p : Nat) (f : Fld) (v i : Nat) : (putF p f v i s).variant = s.variant := rfl
@[simp] theorem putF_pending (p : Nat) (f : Fld) (v i : Nat) : (putF p f v i s).pending = s.pending := rfl
@[simp] theorem putF_time (p : Nat) (f : Fld) (v i : Nat) : (putF p f v i s).time = s.time := rfl
@[simp] theorem putF_held (p : Nat) (f : Fld) (v i : Nat) : (putF p f v i s).held = s.held := rfl
@[simp] theorem putF_errs (p : Nat) (f : Fld) (v i : Nat) : (putF p f v i s).errs = s.errs := rfl
@[simp] theorem putF_fatal (p : Nat) (f : Fld) (v i : Nat) : (putF p f v i s).fatal = s.fatal := rfl
@[simp] theorem putF_pll (p : Nat) (f : Fld) (v i : Nat) : (putF p f v i s).pll = s.pll := rfl
@[simp] theorem putF_msix (p : Nat) (f : Fld) (v i : Nat) : (putF p f v i s).msix = s.msix := rfl
@[simp] theorem putF_mem (p : Nat) (f : Fld) (v i : Nat) : (putF p f v i s).mem = s.mem := rfl
@[simp] theorem putF_side (p : Nat) (f : Fld) (v i : Nat) : (putF p f v i s).side = s.side := rfl
@[simp] theorem putF_tiles (p : Nat) (f : Fld) (v i : Nat) : (putF p f v i s).tiles = s.tiles := rfl
@[simp] theorem putF_rdos (p : Nat) (f : Fld) (v i : Nat) : (putF p f v i s).rdos = s.rdos := rfl
@[simp] theorem putF_flux (p : Nat) (f : Fld) (v i : Nat) : (putF p f v i s).flux = s.flux := rfl
@[simp] theorem putF_lastRead (p : Nat) (f : Fld) (v i : Nat) : (putF p f v i s).lastRead = s.lastRead := rfl
@[simp] theorem putF_lastBytes (p : Nat) (f : Fld) (v i : Nat) : (putF p f v i s).lastBytes = s.lastBytes := rfl
@[simp] theorem putF_lastAbort (p : Nat) (f : Fld) (v i : Nat) : (putF p f v i s).lastAbort = s.lastAbort := rfl
@[simp] theorem putF_free (p : Nat) (f : Fld) (v i : Nat) : (putF p f v i s).free = s.free := rfl
@[simp] theorem putF_lines (p : Nat) (f : Fld) (v i : Nat) : (putF p f v i s).lines = s.lines := rfl
@[simp] theorem putF_masters (p : Nat) (f : Fld) (v i : Nat) : (putF p f v i s).masters = s.masters := rfl
@[simp] theorem putF_profiles (p : Nat) (f : Fld) (v i : Nat) : (putF p f v i s).profiles = s.profiles := rfl
@[simp] theorem putF_scrub (p : Nat) (f : Fld) (v i : Nat) : (putF p f v i s).scrub = s.scrub := rfl
@[simp] theorem putF_cal (p : Nat) (f : Fld) (v i : Nat) : (putF p f v i s).cal = s.cal := rfl
@[simp] theorem putF_pubs (p : Nat) (f : Fld) (v i : Nat) : (putF p f v i s).pubs = s.pubs := rfl
@[simp] theorem putF_slots (p : Nat) (f : Fld) (v i : Nat) : (putF p f v i s).slots = s.slots := rfl
@[simp] theorem putF_once (p : Nat) (f : Fld) (v i : Nat) : (putF p f v i s).once = s.once := rfl
@[simp] theorem putF_patches (p : Nat) (f : Fld) (v i : Nat) : (putF p f v i s).patches = s.patches := rfl
@[simp] theorem putF_esc (p : Nat) (f : Fld) (v i : Nat) : (putF p f v i s).esc = s.esc := rfl
@[simp] theorem putF_thaw (p : Nat) (f : Fld) (v i : Nat) : (putF p f v i s).thaw = s.thaw := rfl
@[simp] theorem putF_timers (p : Nat) (f : Fld) (v i : Nat) : (putF p f v i s).timers = s.timers := rfl
@[simp] theorem putF_ports (p : Nat) (f : Fld) (v i : Nat) : (putF p f v i s).ports = s.ports := rfl
@[simp] theorem putF_cst (p : Nat) (f : Fld) (v i : Nat) : (putF p f v i s).cst = s.cst := rfl
@[simp] theorem putF_dma (p : Nat) (f : Fld) (v i : Nat) : (putF p f v i s).dma = s.dma := rfl
@[simp] theorem putF_pcie (p : Nat) (f : Fld) (v i : Nat) : (putF p f v i s).pcie = s.pcie := rfl
@[simp] theorem putF_hoop (p : Nat) (f : Fld) (v i : Nat) : (putF p f v i s).hoop = s.hoop := rfl
@[simp] theorem putF_boot (p : Nat) (f : Fld) (v i : Nat) : (putF p f v i s).boot = s.boot := rfl
@[simp] theorem putF_dbgAcc (p : Nat) (f : Fld) (v i : Nat) : (putF p f v i s).dbgAcc = s.dbgAcc := rfl
@[simp] theorem putF_up (p : Nat) (f : Fld) (v i : Nat) : (putF p f v i s).up = s.up := rfl
@[simp] theorem putF_smp (p : Nat) (f : Fld) (v i : Nat) : (putF p f v i s).smp = s.smp := rfl
@[simp] theorem putF_repairs (p : Nat) (f : Fld) (v i : Nat) : (putF p f v i s).repairs = s.repairs := rfl
@[simp] theorem putF_bias (p : Nat) (f : Fld) (v i : Nat) : (putF p f v i s).bias = s.bias := rfl
@[simp] theorem putF_pat (p : Nat) (f : Fld) (v i : Nat) : (putF p f v i s).pat = s.pat := rfl
@[simp] theorem putF_evm (p : Nat) (f : Fld) (v i : Nat) : (putF p f v i s).evm = s.evm := rfl
@[simp] theorem putF_softRst (p : Nat) (f : Fld) (v i : Nat) : (putF p f v i s).softRst = s.softRst := rfl
@[simp] theorem putF_mck (p : Nat) (f : Fld) (v i : Nat) : (putF p f v i s).mck = s.mck := rfl
@[simp] theorem putF_was (p : Nat) (f : Fld) (v i : Nat) : (putF p f v i s).was = s.was := rfl

/-! ### incSat -/

@[simp] theorem incSat_variant (p : Nat) (f : Fld) (i : Nat) : (incSat p f i s).variant = s.variant := rfl
@[simp] theorem incSat_pending (p : Nat) (f : Fld) (i : Nat) : (incSat p f i s).pending = s.pending := rfl
@[simp] theorem incSat_time (p : Nat) (f : Fld) (i : Nat) : (incSat p f i s).time = s.time := rfl
@[simp] theorem incSat_held (p : Nat) (f : Fld) (i : Nat) : (incSat p f i s).held = s.held := rfl
@[simp] theorem incSat_errs (p : Nat) (f : Fld) (i : Nat) : (incSat p f i s).errs = s.errs := rfl
@[simp] theorem incSat_fatal (p : Nat) (f : Fld) (i : Nat) : (incSat p f i s).fatal = s.fatal := rfl
@[simp] theorem incSat_pll (p : Nat) (f : Fld) (i : Nat) : (incSat p f i s).pll = s.pll := rfl
@[simp] theorem incSat_msix (p : Nat) (f : Fld) (i : Nat) : (incSat p f i s).msix = s.msix := rfl
@[simp] theorem incSat_mem (p : Nat) (f : Fld) (i : Nat) : (incSat p f i s).mem = s.mem := rfl
@[simp] theorem incSat_side (p : Nat) (f : Fld) (i : Nat) : (incSat p f i s).side = s.side := rfl
@[simp] theorem incSat_tiles (p : Nat) (f : Fld) (i : Nat) : (incSat p f i s).tiles = s.tiles := rfl
@[simp] theorem incSat_rdos (p : Nat) (f : Fld) (i : Nat) : (incSat p f i s).rdos = s.rdos := rfl
@[simp] theorem incSat_flux (p : Nat) (f : Fld) (i : Nat) : (incSat p f i s).flux = s.flux := rfl
@[simp] theorem incSat_lastRead (p : Nat) (f : Fld) (i : Nat) : (incSat p f i s).lastRead = s.lastRead := rfl
@[simp] theorem incSat_lastBytes (p : Nat) (f : Fld) (i : Nat) : (incSat p f i s).lastBytes = s.lastBytes := rfl
@[simp] theorem incSat_lastAbort (p : Nat) (f : Fld) (i : Nat) : (incSat p f i s).lastAbort = s.lastAbort := rfl
@[simp] theorem incSat_free (p : Nat) (f : Fld) (i : Nat) : (incSat p f i s).free = s.free := rfl
@[simp] theorem incSat_lines (p : Nat) (f : Fld) (i : Nat) : (incSat p f i s).lines = s.lines := rfl
@[simp] theorem incSat_masters (p : Nat) (f : Fld) (i : Nat) : (incSat p f i s).masters = s.masters := rfl
@[simp] theorem incSat_profiles (p : Nat) (f : Fld) (i : Nat) : (incSat p f i s).profiles = s.profiles := rfl
@[simp] theorem incSat_scrub (p : Nat) (f : Fld) (i : Nat) : (incSat p f i s).scrub = s.scrub := rfl
@[simp] theorem incSat_cal (p : Nat) (f : Fld) (i : Nat) : (incSat p f i s).cal = s.cal := rfl
@[simp] theorem incSat_pubs (p : Nat) (f : Fld) (i : Nat) : (incSat p f i s).pubs = s.pubs := rfl
@[simp] theorem incSat_slots (p : Nat) (f : Fld) (i : Nat) : (incSat p f i s).slots = s.slots := rfl
@[simp] theorem incSat_once (p : Nat) (f : Fld) (i : Nat) : (incSat p f i s).once = s.once := rfl
@[simp] theorem incSat_patches (p : Nat) (f : Fld) (i : Nat) : (incSat p f i s).patches = s.patches := rfl
@[simp] theorem incSat_esc (p : Nat) (f : Fld) (i : Nat) : (incSat p f i s).esc = s.esc := rfl
@[simp] theorem incSat_thaw (p : Nat) (f : Fld) (i : Nat) : (incSat p f i s).thaw = s.thaw := rfl
@[simp] theorem incSat_timers (p : Nat) (f : Fld) (i : Nat) : (incSat p f i s).timers = s.timers := rfl
@[simp] theorem incSat_ports (p : Nat) (f : Fld) (i : Nat) : (incSat p f i s).ports = s.ports := rfl
@[simp] theorem incSat_cst (p : Nat) (f : Fld) (i : Nat) : (incSat p f i s).cst = s.cst := rfl
@[simp] theorem incSat_dma (p : Nat) (f : Fld) (i : Nat) : (incSat p f i s).dma = s.dma := rfl
@[simp] theorem incSat_pcie (p : Nat) (f : Fld) (i : Nat) : (incSat p f i s).pcie = s.pcie := rfl
@[simp] theorem incSat_hoop (p : Nat) (f : Fld) (i : Nat) : (incSat p f i s).hoop = s.hoop := rfl
@[simp] theorem incSat_boot (p : Nat) (f : Fld) (i : Nat) : (incSat p f i s).boot = s.boot := rfl
@[simp] theorem incSat_dbgAcc (p : Nat) (f : Fld) (i : Nat) : (incSat p f i s).dbgAcc = s.dbgAcc := rfl
@[simp] theorem incSat_up (p : Nat) (f : Fld) (i : Nat) : (incSat p f i s).up = s.up := rfl
@[simp] theorem incSat_smp (p : Nat) (f : Fld) (i : Nat) : (incSat p f i s).smp = s.smp := rfl
@[simp] theorem incSat_repairs (p : Nat) (f : Fld) (i : Nat) : (incSat p f i s).repairs = s.repairs := rfl
@[simp] theorem incSat_bias (p : Nat) (f : Fld) (i : Nat) : (incSat p f i s).bias = s.bias := rfl
@[simp] theorem incSat_pat (p : Nat) (f : Fld) (i : Nat) : (incSat p f i s).pat = s.pat := rfl
@[simp] theorem incSat_evm (p : Nat) (f : Fld) (i : Nat) : (incSat p f i s).evm = s.evm := rfl
@[simp] theorem incSat_softRst (p : Nat) (f : Fld) (i : Nat) : (incSat p f i s).softRst = s.softRst := rfl
@[simp] theorem incSat_mck (p : Nat) (f : Fld) (i : Nat) : (incSat p f i s).mck = s.mck := rfl
@[simp] theorem incSat_was (p : Nat) (f : Fld) (i : Nat) : (incSat p f i s).was = s.was := rfl

/-! ### setTile -/

@[simp] theorem setTile_variant (b : Nat) (t : Tile) : (setTile b t s).variant = s.variant := rfl
@[simp] theorem setTile_pending (b : Nat) (t : Tile) : (setTile b t s).pending = s.pending := rfl
@[simp] theorem setTile_time (b : Nat) (t : Tile) : (setTile b t s).time = s.time := rfl
@[simp] theorem setTile_regs (b : Nat) (t : Tile) : (setTile b t s).regs = s.regs := rfl
@[simp] theorem setTile_held (b : Nat) (t : Tile) : (setTile b t s).held = s.held := rfl
@[simp] theorem setTile_errs (b : Nat) (t : Tile) : (setTile b t s).errs = s.errs := rfl
@[simp] theorem setTile_fatal (b : Nat) (t : Tile) : (setTile b t s).fatal = s.fatal := rfl
@[simp] theorem setTile_pll (b : Nat) (t : Tile) : (setTile b t s).pll = s.pll := rfl
@[simp] theorem setTile_msix (b : Nat) (t : Tile) : (setTile b t s).msix = s.msix := rfl
@[simp] theorem setTile_mem (b : Nat) (t : Tile) : (setTile b t s).mem = s.mem := rfl
@[simp] theorem setTile_side (b : Nat) (t : Tile) : (setTile b t s).side = s.side := rfl
@[simp] theorem setTile_tiles (b : Nat) (t : Tile) : (setTile b t s).tiles = smSet b t s.tiles := rfl
@[simp] theorem setTile_rdos (b : Nat) (t : Tile) : (setTile b t s).rdos = s.rdos := rfl
@[simp] theorem setTile_flux (b : Nat) (t : Tile) : (setTile b t s).flux = s.flux := rfl
@[simp] theorem setTile_lastRead (b : Nat) (t : Tile) : (setTile b t s).lastRead = s.lastRead := rfl
@[simp] theorem setTile_lastBytes (b : Nat) (t : Tile) : (setTile b t s).lastBytes = s.lastBytes := rfl
@[simp] theorem setTile_lastAbort (b : Nat) (t : Tile) : (setTile b t s).lastAbort = s.lastAbort := rfl
@[simp] theorem setTile_free (b : Nat) (t : Tile) : (setTile b t s).free = s.free := rfl
@[simp] theorem setTile_lines (b : Nat) (t : Tile) : (setTile b t s).lines = s.lines := rfl
@[simp] theorem setTile_masters (b : Nat) (t : Tile) : (setTile b t s).masters = s.masters := rfl
@[simp] theorem setTile_profiles (b : Nat) (t : Tile) : (setTile b t s).profiles = s.profiles := rfl
@[simp] theorem setTile_scrub (b : Nat) (t : Tile) : (setTile b t s).scrub = s.scrub := rfl
@[simp] theorem setTile_cal (b : Nat) (t : Tile) : (setTile b t s).cal = s.cal := rfl
@[simp] theorem setTile_pubs (b : Nat) (t : Tile) : (setTile b t s).pubs = s.pubs := rfl
@[simp] theorem setTile_slots (b : Nat) (t : Tile) : (setTile b t s).slots = s.slots := rfl
@[simp] theorem setTile_once (b : Nat) (t : Tile) : (setTile b t s).once = s.once := rfl
@[simp] theorem setTile_patches (b : Nat) (t : Tile) : (setTile b t s).patches = s.patches := rfl
@[simp] theorem setTile_esc (b : Nat) (t : Tile) : (setTile b t s).esc = s.esc := rfl
@[simp] theorem setTile_thaw (b : Nat) (t : Tile) : (setTile b t s).thaw = s.thaw := rfl
@[simp] theorem setTile_timers (b : Nat) (t : Tile) : (setTile b t s).timers = s.timers := rfl
@[simp] theorem setTile_ports (b : Nat) (t : Tile) : (setTile b t s).ports = s.ports := rfl
@[simp] theorem setTile_cst (b : Nat) (t : Tile) : (setTile b t s).cst = s.cst := rfl
@[simp] theorem setTile_dma (b : Nat) (t : Tile) : (setTile b t s).dma = s.dma := rfl
@[simp] theorem setTile_pcie (b : Nat) (t : Tile) : (setTile b t s).pcie = s.pcie := rfl
@[simp] theorem setTile_hoop (b : Nat) (t : Tile) : (setTile b t s).hoop = s.hoop := rfl
@[simp] theorem setTile_boot (b : Nat) (t : Tile) : (setTile b t s).boot = s.boot := rfl
@[simp] theorem setTile_dbgAcc (b : Nat) (t : Tile) : (setTile b t s).dbgAcc = s.dbgAcc := rfl
@[simp] theorem setTile_up (b : Nat) (t : Tile) : (setTile b t s).up = s.up := rfl
@[simp] theorem setTile_smp (b : Nat) (t : Tile) : (setTile b t s).smp = s.smp := rfl
@[simp] theorem setTile_repairs (b : Nat) (t : Tile) : (setTile b t s).repairs = s.repairs := rfl
@[simp] theorem setTile_bias (b : Nat) (t : Tile) : (setTile b t s).bias = s.bias := rfl
@[simp] theorem setTile_pat (b : Nat) (t : Tile) : (setTile b t s).pat = s.pat := rfl
@[simp] theorem setTile_evm (b : Nat) (t : Tile) : (setTile b t s).evm = s.evm := rfl
@[simp] theorem setTile_softRst (b : Nat) (t : Tile) : (setTile b t s).softRst = s.softRst := rfl
@[simp] theorem setTile_mck (b : Nat) (t : Tile) : (setTile b t s).mck = s.mck := rfl
@[simp] theorem setTile_was (b : Nat) (t : Tile) : (setTile b t s).was = s.was := rfl

/-! ### modTile -/

@[simp] theorem modTile_variant (b : Nat) (g : Tile → Tile) : (modTile b g s).variant = s.variant := rfl
@[simp] theorem modTile_pending (b : Nat) (g : Tile → Tile) : (modTile b g s).pending = s.pending := rfl
@[simp] theorem modTile_time (b : Nat) (g : Tile → Tile) : (modTile b g s).time = s.time := rfl
@[simp] theorem modTile_regs (b : Nat) (g : Tile → Tile) : (modTile b g s).regs = s.regs := rfl
@[simp] theorem modTile_held (b : Nat) (g : Tile → Tile) : (modTile b g s).held = s.held := rfl
@[simp] theorem modTile_errs (b : Nat) (g : Tile → Tile) : (modTile b g s).errs = s.errs := rfl
@[simp] theorem modTile_fatal (b : Nat) (g : Tile → Tile) : (modTile b g s).fatal = s.fatal := rfl
@[simp] theorem modTile_pll (b : Nat) (g : Tile → Tile) : (modTile b g s).pll = s.pll := rfl
@[simp] theorem modTile_msix (b : Nat) (g : Tile → Tile) : (modTile b g s).msix = s.msix := rfl
@[simp] theorem modTile_mem (b : Nat) (g : Tile → Tile) : (modTile b g s).mem = s.mem := rfl
@[simp] theorem modTile_side (b : Nat) (g : Tile → Tile) : (modTile b g s).side = s.side := rfl
@[simp] theorem modTile_tiles (b : Nat) (g : Tile → Tile) : (modTile b g s).tiles = smSet b (g (tileOf s b)) s.tiles := rfl
@[simp] theorem modTile_rdos (b : Nat) (g : Tile → Tile) : (modTile b g s).rdos = s.rdos := rfl
@[simp] theorem modTile_flux (b : Nat) (g : Tile → Tile) : (modTile b g s).flux = s.flux := rfl
@[simp] theorem modTile_lastRead (b : Nat) (g : Tile → Tile) : (modTile b g s).lastRead = s.lastRead := rfl
@[simp] theorem modTile_lastBytes (b : Nat) (g : Tile → Tile) : (modTile b g s).lastBytes = s.lastBytes := rfl
@[simp] theorem modTile_lastAbort (b : Nat) (g : Tile → Tile) : (modTile b g s).lastAbort = s.lastAbort := rfl
@[simp] theorem modTile_free (b : Nat) (g : Tile → Tile) : (modTile b g s).free = s.free := rfl
@[simp] theorem modTile_lines (b : Nat) (g : Tile → Tile) : (modTile b g s).lines = s.lines := rfl
@[simp] theorem modTile_masters (b : Nat) (g : Tile → Tile) : (modTile b g s).masters = s.masters := rfl
@[simp] theorem modTile_profiles (b : Nat) (g : Tile → Tile) : (modTile b g s).profiles = s.profiles := rfl
@[simp] theorem modTile_scrub (b : Nat) (g : Tile → Tile) : (modTile b g s).scrub = s.scrub := rfl
@[simp] theorem modTile_cal (b : Nat) (g : Tile → Tile) : (modTile b g s).cal = s.cal := rfl
@[simp] theorem modTile_pubs (b : Nat) (g : Tile → Tile) : (modTile b g s).pubs = s.pubs := rfl
@[simp] theorem modTile_slots (b : Nat) (g : Tile → Tile) : (modTile b g s).slots = s.slots := rfl
@[simp] theorem modTile_once (b : Nat) (g : Tile → Tile) : (modTile b g s).once = s.once := rfl
@[simp] theorem modTile_patches (b : Nat) (g : Tile → Tile) : (modTile b g s).patches = s.patches := rfl
@[simp] theorem modTile_esc (b : Nat) (g : Tile → Tile) : (modTile b g s).esc = s.esc := rfl
@[simp] theorem modTile_thaw (b : Nat) (g : Tile → Tile) : (modTile b g s).thaw = s.thaw := rfl
@[simp] theorem modTile_timers (b : Nat) (g : Tile → Tile) : (modTile b g s).timers = s.timers := rfl
@[simp] theorem modTile_ports (b : Nat) (g : Tile → Tile) : (modTile b g s).ports = s.ports := rfl
@[simp] theorem modTile_cst (b : Nat) (g : Tile → Tile) : (modTile b g s).cst = s.cst := rfl
@[simp] theorem modTile_dma (b : Nat) (g : Tile → Tile) : (modTile b g s).dma = s.dma := rfl
@[simp] theorem modTile_pcie (b : Nat) (g : Tile → Tile) : (modTile b g s).pcie = s.pcie := rfl
@[simp] theorem modTile_hoop (b : Nat) (g : Tile → Tile) : (modTile b g s).hoop = s.hoop := rfl
@[simp] theorem modTile_boot (b : Nat) (g : Tile → Tile) : (modTile b g s).boot = s.boot := rfl
@[simp] theorem modTile_dbgAcc (b : Nat) (g : Tile → Tile) : (modTile b g s).dbgAcc = s.dbgAcc := rfl
@[simp] theorem modTile_up (b : Nat) (g : Tile → Tile) : (modTile b g s).up = s.up := rfl
@[simp] theorem modTile_smp (b : Nat) (g : Tile → Tile) : (modTile b g s).smp = s.smp := rfl
@[simp] theorem modTile_repairs (b : Nat) (g : Tile → Tile) : (modTile b g s).repairs = s.repairs := rfl
@[simp] theorem modTile_bias (b : Nat) (g : Tile → Tile) : (modTile b g s).bias = s.bias := rfl
@[simp] theorem modTile_pat (b : Nat) (g : Tile → Tile) : (modTile b g s).pat = s.pat := rfl
@[simp] theorem modTile_evm (b : Nat) (g : Tile → Tile) : (modTile b g s).evm = s.evm := rfl
@[simp] theorem modTile_softRst (b : Nat) (g : Tile → Tile) : (modTile b g s).softRst = s.softRst := rfl
@[simp] theorem modTile_mck (b : Nat) (g : Tile → Tile) : (modTile b g s).mck = s.mck := rfl
@[simp] theorem modTile_was (b : Nat) (g : Tile → Tile) : (modTile b g s).was = s.was := rfl

/-! ### setRdo -/

@[simp] theorem setRdo_variant (b : Nat) (r : Rdo) : (setRdo b r s).variant = s.variant := rfl
@[simp] theorem setRdo_pending (b : Nat) (r : Rdo) : (setRdo b r s).pending = s.pending := rfl
@[simp] theorem setRdo_time (b : Nat) (r : Rdo) : (setRdo b r s).time = s.time := rfl
@[simp] theorem setRdo_regs (b : Nat) (r : Rdo) : (setRdo b r s).regs = s.regs := rfl
@[simp] theorem setRdo_held (b : Nat) (r : Rdo) : (setRdo b r s).held = s.held := rfl
@[simp] theorem setRdo_errs (b : Nat) (r : Rdo) : (setRdo b r s).errs = s.errs := rfl
@[simp] theorem setRdo_fatal (b : Nat) (r : Rdo) : (setRdo b r s).fatal = s.fatal := rfl
@[simp] theorem setRdo_pll (b : Nat) (r : Rdo) : (setRdo b r s).pll = s.pll := rfl
@[simp] theorem setRdo_msix (b : Nat) (r : Rdo) : (setRdo b r s).msix = s.msix := rfl
@[simp] theorem setRdo_mem (b : Nat) (r : Rdo) : (setRdo b r s).mem = s.mem := rfl
@[simp] theorem setRdo_side (b : Nat) (r : Rdo) : (setRdo b r s).side = s.side := rfl
@[simp] theorem setRdo_tiles (b : Nat) (r : Rdo) : (setRdo b r s).tiles = s.tiles := rfl
@[simp] theorem setRdo_rdos (b : Nat) (r : Rdo) : (setRdo b r s).rdos = smSet b r s.rdos := rfl
@[simp] theorem setRdo_flux (b : Nat) (r : Rdo) : (setRdo b r s).flux = s.flux := rfl
@[simp] theorem setRdo_lastRead (b : Nat) (r : Rdo) : (setRdo b r s).lastRead = s.lastRead := rfl
@[simp] theorem setRdo_lastBytes (b : Nat) (r : Rdo) : (setRdo b r s).lastBytes = s.lastBytes := rfl
@[simp] theorem setRdo_lastAbort (b : Nat) (r : Rdo) : (setRdo b r s).lastAbort = s.lastAbort := rfl
@[simp] theorem setRdo_free (b : Nat) (r : Rdo) : (setRdo b r s).free = s.free := rfl
@[simp] theorem setRdo_lines (b : Nat) (r : Rdo) : (setRdo b r s).lines = s.lines := rfl
@[simp] theorem setRdo_masters (b : Nat) (r : Rdo) : (setRdo b r s).masters = s.masters := rfl
@[simp] theorem setRdo_profiles (b : Nat) (r : Rdo) : (setRdo b r s).profiles = s.profiles := rfl
@[simp] theorem setRdo_scrub (b : Nat) (r : Rdo) : (setRdo b r s).scrub = s.scrub := rfl
@[simp] theorem setRdo_cal (b : Nat) (r : Rdo) : (setRdo b r s).cal = s.cal := rfl
@[simp] theorem setRdo_pubs (b : Nat) (r : Rdo) : (setRdo b r s).pubs = s.pubs := rfl
@[simp] theorem setRdo_slots (b : Nat) (r : Rdo) : (setRdo b r s).slots = s.slots := rfl
@[simp] theorem setRdo_once (b : Nat) (r : Rdo) : (setRdo b r s).once = s.once := rfl
@[simp] theorem setRdo_patches (b : Nat) (r : Rdo) : (setRdo b r s).patches = s.patches := rfl
@[simp] theorem setRdo_esc (b : Nat) (r : Rdo) : (setRdo b r s).esc = s.esc := rfl
@[simp] theorem setRdo_thaw (b : Nat) (r : Rdo) : (setRdo b r s).thaw = s.thaw := rfl
@[simp] theorem setRdo_timers (b : Nat) (r : Rdo) : (setRdo b r s).timers = s.timers := rfl
@[simp] theorem setRdo_ports (b : Nat) (r : Rdo) : (setRdo b r s).ports = s.ports := rfl
@[simp] theorem setRdo_cst (b : Nat) (r : Rdo) : (setRdo b r s).cst = s.cst := rfl
@[simp] theorem setRdo_dma (b : Nat) (r : Rdo) : (setRdo b r s).dma = s.dma := rfl
@[simp] theorem setRdo_pcie (b : Nat) (r : Rdo) : (setRdo b r s).pcie = s.pcie := rfl
@[simp] theorem setRdo_hoop (b : Nat) (r : Rdo) : (setRdo b r s).hoop = s.hoop := rfl
@[simp] theorem setRdo_boot (b : Nat) (r : Rdo) : (setRdo b r s).boot = s.boot := rfl
@[simp] theorem setRdo_dbgAcc (b : Nat) (r : Rdo) : (setRdo b r s).dbgAcc = s.dbgAcc := rfl
@[simp] theorem setRdo_up (b : Nat) (r : Rdo) : (setRdo b r s).up = s.up := rfl
@[simp] theorem setRdo_smp (b : Nat) (r : Rdo) : (setRdo b r s).smp = s.smp := rfl
@[simp] theorem setRdo_repairs (b : Nat) (r : Rdo) : (setRdo b r s).repairs = s.repairs := rfl
@[simp] theorem setRdo_bias (b : Nat) (r : Rdo) : (setRdo b r s).bias = s.bias := rfl
@[simp] theorem setRdo_pat (b : Nat) (r : Rdo) : (setRdo b r s).pat = s.pat := rfl
@[simp] theorem setRdo_evm (b : Nat) (r : Rdo) : (setRdo b r s).evm = s.evm := rfl
@[simp] theorem setRdo_softRst (b : Nat) (r : Rdo) : (setRdo b r s).softRst = s.softRst := rfl
@[simp] theorem setRdo_mck (b : Nat) (r : Rdo) : (setRdo b r s).mck = s.mck := rfl
@[simp] theorem setRdo_was (b : Nat) (r : Rdo) : (setRdo b r s).was = s.was := rfl

/-! ### modRdo -/

@[simp] theorem modRdo_variant (b : Nat) (g : Rdo → Rdo) : (modRdo b g s).variant = s.variant := rfl
@[simp] theorem modRdo_pending (b : Nat) (g : Rdo → Rdo) : (modRdo b g s).pending = s.pending := rfl
@[simp] theorem modRdo_time (b : Nat) (g : Rdo → Rdo) : (modRdo b g s).time = s.time := rfl
@[simp] theorem modRdo_regs (b : Nat) (g : Rdo → Rdo) : (modRdo b g s).regs = s.regs := rfl
@[simp] theorem modRdo_held (b : Nat) (g : Rdo → Rdo) : (modRdo b g s).held = s.held := rfl
@[simp] theorem modRdo_errs (b : Nat) (g : Rdo → Rdo) : (modRdo b g s).errs = s.errs := rfl
@[simp] theorem modRdo_fatal (b : Nat) (g : Rdo → Rdo) : (modRdo b g s).fatal = s.fatal := rfl
@[simp] theorem modRdo_pll (b : Nat) (g : Rdo → Rdo) : (modRdo b g s).pll = s.pll := rfl
@[simp] theorem modRdo_msix (b : Nat) (g : Rdo → Rdo) : (modRdo b g s).msix = s.msix := rfl
@[simp] theorem modRdo_mem (b : Nat) (g : Rdo → Rdo) : (modRdo b g s).mem = s.mem := rfl
@[simp] theorem modRdo_side (b : Nat) (g : Rdo → Rdo) : (modRdo b g s).side = s.side := rfl
@[simp] theorem modRdo_tiles (b : Nat) (g : Rdo → Rdo) : (modRdo b g s).tiles = s.tiles := rfl
@[simp] theorem modRdo_rdos (b : Nat) (g : Rdo → Rdo) : (modRdo b g s).rdos = smSet b (g (rdoOf s b)) s.rdos := rfl
@[simp] theorem modRdo_flux (b : Nat) (g : Rdo → Rdo) : (modRdo b g s).flux = s.flux := rfl
@[simp] theorem modRdo_lastRead (b : Nat) (g : Rdo → Rdo) : (modRdo b g s).lastRead = s.lastRead := rfl
@[simp] theorem modRdo_lastBytes (b : Nat) (g : Rdo → Rdo) : (modRdo b g s).lastBytes = s.lastBytes := rfl
@[simp] theorem modRdo_lastAbort (b : Nat) (g : Rdo → Rdo) : (modRdo b g s).lastAbort = s.lastAbort := rfl
@[simp] theorem modRdo_free (b : Nat) (g : Rdo → Rdo) : (modRdo b g s).free = s.free := rfl
@[simp] theorem modRdo_lines (b : Nat) (g : Rdo → Rdo) : (modRdo b g s).lines = s.lines := rfl
@[simp] theorem modRdo_masters (b : Nat) (g : Rdo → Rdo) : (modRdo b g s).masters = s.masters := rfl
@[simp] theorem modRdo_profiles (b : Nat) (g : Rdo → Rdo) : (modRdo b g s).profiles = s.profiles := rfl
@[simp] theorem modRdo_scrub (b : Nat) (g : Rdo → Rdo) : (modRdo b g s).scrub = s.scrub := rfl
@[simp] theorem modRdo_cal (b : Nat) (g : Rdo → Rdo) : (modRdo b g s).cal = s.cal := rfl
@[simp] theorem modRdo_pubs (b : Nat) (g : Rdo → Rdo) : (modRdo b g s).pubs = s.pubs := rfl
@[simp] theorem modRdo_slots (b : Nat) (g : Rdo → Rdo) : (modRdo b g s).slots = s.slots := rfl
@[simp] theorem modRdo_once (b : Nat) (g : Rdo → Rdo) : (modRdo b g s).once = s.once := rfl
@[simp] theorem modRdo_patches (b : Nat) (g : Rdo → Rdo) : (modRdo b g s).patches = s.patches := rfl
@[simp] theorem modRdo_esc (b : Nat) (g : Rdo → Rdo) : (modRdo b g s).esc = s.esc := rfl
@[simp] theorem modRdo_thaw (b : Nat) (g : Rdo → Rdo) : (modRdo b g s).thaw = s.thaw := rfl
@[simp] theorem modRdo_timers (b : Nat) (g : Rdo → Rdo) : (modRdo b g s).timers = s.timers := rfl
@[simp] theorem modRdo_ports (b : Nat) (g : Rdo → Rdo) : (modRdo b g s).ports = s.ports := rfl
@[simp] theorem modRdo_cst (b : Nat) (g : Rdo → Rdo) : (modRdo b g s).cst = s.cst := rfl
@[simp] theorem modRdo_dma (b : Nat) (g : Rdo → Rdo) : (modRdo b g s).dma = s.dma := rfl
@[simp] theorem modRdo_pcie (b : Nat) (g : Rdo → Rdo) : (modRdo b g s).pcie = s.pcie := rfl
@[simp] theorem modRdo_hoop (b : Nat) (g : Rdo → Rdo) : (modRdo b g s).hoop = s.hoop := rfl
@[simp] theorem modRdo_boot (b : Nat) (g : Rdo → Rdo) : (modRdo b g s).boot = s.boot := rfl
@[simp] theorem modRdo_dbgAcc (b : Nat) (g : Rdo → Rdo) : (modRdo b g s).dbgAcc = s.dbgAcc := rfl
@[simp] theorem modRdo_up (b : Nat) (g : Rdo → Rdo) : (modRdo b g s).up = s.up := rfl
@[simp] theorem modRdo_smp (b : Nat) (g : Rdo → Rdo) : (modRdo b g s).smp = s.smp := rfl
@[simp] theorem modRdo_repairs (b : Nat) (g : Rdo → Rdo) : (modRdo b g s).repairs = s.repairs := rfl
@[simp] theorem modRdo_bias (b : Nat) (g : Rdo → Rdo) : (modRdo b g s).bias = s.bias := rfl
@[simp] theorem modRdo_pat (b : Nat) (g : Rdo → Rdo) : (modRdo b g s).pat = s.pat := rfl
@[simp] theorem modRdo_evm (b : Nat) (g : Rdo → Rdo) : (modRdo b g s).evm = s.evm := rfl
@[simp] theorem modRdo_softRst (b : Nat) (g : Rdo → Rdo) : (modRdo b g s).softRst = s.softRst := rfl
@[simp] theorem modRdo_mck (b : Nat) (g : Rdo → Rdo) : (modRdo b g s).mck = s.mck := rfl
@[simp] theorem modRdo_was (b : Nat) (g : Rdo → Rdo) : (modRdo b g s).was = s.was := rfl

/-! ### setFlux -/

@[simp] theorem setFlux_variant (b k : Nat) (o : FOut) : (setFlux b k o s).variant = s.variant := rfl
@[simp] theorem setFlux_pending (b k : Nat) (o : FOut) : (setFlux b k o s).pending = s.pending := rfl
@[simp] theorem setFlux_time (b k : Nat) (o : FOut) : (setFlux b k o s).time = s.time := rfl
@[simp] theorem setFlux_regs (b k : Nat) (o : FOut) : (setFlux b k o s).regs = s.regs := rfl
@[simp] theorem setFlux_held (b k : Nat) (o : FOut) : (setFlux b k o s).held = s.held := rfl
@[simp] theorem setFlux_errs (b k : Nat) (o : FOut) : (setFlux b k o s).errs = s.errs := rfl
@[simp] theorem setFlux_fatal (b k : Nat) (o : FOut) : (setFlux b k o s).fatal = s.fatal := rfl
@[simp] theorem setFlux_pll (b k : Nat) (o : FOut) : (setFlux b k o s).pll = s.pll := rfl
@[simp] theorem setFlux_msix (b k : Nat) (o : FOut) : (setFlux b k o s).msix = s.msix := rfl
@[simp] theorem setFlux_mem (b k : Nat) (o : FOut) : (setFlux b k o s).mem = s.mem := rfl
@[simp] theorem setFlux_side (b k : Nat) (o : FOut) : (setFlux b k o s).side = s.side := rfl
@[simp] theorem setFlux_tiles (b k : Nat) (o : FOut) : (setFlux b k o s).tiles = s.tiles := rfl
@[simp] theorem setFlux_rdos (b k : Nat) (o : FOut) : (setFlux b k o s).rdos = s.rdos := rfl
@[simp] theorem setFlux_flux (b k : Nat) (o : FOut) : (setFlux b k o s).flux = smSet (16 * b + k) o s.flux := rfl
@[simp] theorem setFlux_lastRead (b k : Nat) (o : FOut) : (setFlux b k o s).lastRead = s.lastRead := rfl
@[simp] theorem setFlux_lastBytes (b k : Nat) (o : FOut) : (setFlux b k o s).lastBytes = s.lastBytes := rfl
@[simp] theorem setFlux_lastAbort (b k : Nat) (o : FOut) : (setFlux b k o s).lastAbort = s.lastAbort := rfl
@[simp] theorem setFlux_free (b k : Nat) (o : FOut) : (setFlux b k o s).free = s.free := rfl
@[simp] theorem setFlux_lines (b k : Nat) (o : FOut) : (setFlux b k o s).lines = s.lines := rfl
@[simp] theorem setFlux_masters (b k : Nat) (o : FOut) : (setFlux b k o s).masters = s.masters := rfl
@[simp] theorem setFlux_profiles (b k : Nat) (o : FOut) : (setFlux b k o s).profiles = s.profiles := rfl
@[simp] theorem setFlux_scrub (b k : Nat) (o : FOut) : (setFlux b k o s).scrub = s.scrub := rfl
@[simp] theorem setFlux_cal (b k : Nat) (o : FOut) : (setFlux b k o s).cal = s.cal := rfl
@[simp] theorem setFlux_pubs (b k : Nat) (o : FOut) : (setFlux b k o s).pubs = s.pubs := rfl
@[simp] theorem setFlux_slots (b k : Nat) (o : FOut) : (setFlux b k o s).slots = s.slots := rfl
@[simp] theorem setFlux_once (b k : Nat) (o : FOut) : (setFlux b k o s).once = s.once := rfl
@[simp] theorem setFlux_patches (b k : Nat) (o : FOut) : (setFlux b k o s).patches = s.patches := rfl
@[simp] theorem setFlux_esc (b k : Nat) (o : FOut) : (setFlux b k o s).esc = s.esc := rfl
@[simp] theorem setFlux_thaw (b k : Nat) (o : FOut) : (setFlux b k o s).thaw = s.thaw := rfl
@[simp] theorem setFlux_timers (b k : Nat) (o : FOut) : (setFlux b k o s).timers = s.timers := rfl
@[simp] theorem setFlux_ports (b k : Nat) (o : FOut) : (setFlux b k o s).ports = s.ports := rfl
@[simp] theorem setFlux_cst (b k : Nat) (o : FOut) : (setFlux b k o s).cst = s.cst := rfl
@[simp] theorem setFlux_dma (b k : Nat) (o : FOut) : (setFlux b k o s).dma = s.dma := rfl
@[simp] theorem setFlux_pcie (b k : Nat) (o : FOut) : (setFlux b k o s).pcie = s.pcie := rfl
@[simp] theorem setFlux_hoop (b k : Nat) (o : FOut) : (setFlux b k o s).hoop = s.hoop := rfl
@[simp] theorem setFlux_boot (b k : Nat) (o : FOut) : (setFlux b k o s).boot = s.boot := rfl
@[simp] theorem setFlux_dbgAcc (b k : Nat) (o : FOut) : (setFlux b k o s).dbgAcc = s.dbgAcc := rfl
@[simp] theorem setFlux_up (b k : Nat) (o : FOut) : (setFlux b k o s).up = s.up := rfl
@[simp] theorem setFlux_smp (b k : Nat) (o : FOut) : (setFlux b k o s).smp = s.smp := rfl
@[simp] theorem setFlux_repairs (b k : Nat) (o : FOut) : (setFlux b k o s).repairs = s.repairs := rfl
@[simp] theorem setFlux_bias (b k : Nat) (o : FOut) : (setFlux b k o s).bias = s.bias := rfl
@[simp] theorem setFlux_pat (b k : Nat) (o : FOut) : (setFlux b k o s).pat = s.pat := rfl
@[simp] theorem setFlux_evm (b k : Nat) (o : FOut) : (setFlux b k o s).evm = s.evm := rfl
@[simp] theorem setFlux_softRst (b k : Nat) (o : FOut) : (setFlux b k o s).softRst = s.softRst := rfl
@[simp] theorem setFlux_mck (b k : Nat) (o : FOut) : (setFlux b k o s).mck = s.mck := rfl
@[simp] theorem setFlux_was (b k : Nat) (o : FOut) : (setFlux b k o s).was = s.was := rfl

/-! ### wrByte -/

@[simp] theorem wrByte_variant (a : Nat) (v : Byte) : (wrByte a v s).variant = s.variant := rfl
@[simp] theorem wrByte_pending (a : Nat) (v : Byte) : (wrByte a v s).pending = s.pending := rfl
@[simp] theorem wrByte_time (a : Nat) (v : Byte) : (wrByte a v s).time = s.time := rfl
@[simp] theorem wrByte_regs (a : Nat) (v : Byte) : (wrByte a v s).regs = s.regs := rfl
@[simp] theorem wrByte_held (a : Nat) (v : Byte) : (wrByte a v s).held = s.held := rfl
@[simp] theorem wrByte_errs (a : Nat) (v : Byte) : (wrByte a v s).errs = s.errs := rfl
@[simp] theorem wrByte_fatal (a : Nat) (v : Byte) : (wrByte a v s).fatal = s.fatal := rfl
@[simp] theorem wrByte_pll (a : Nat) (v : Byte) : (wrByte a v s).pll = s.pll := rfl
@[simp] theorem wrByte_msix (a : Nat) (v : Byte) : (wrByte a v s).msix = s.msix := rfl
@[simp] theorem wrByte_mem (a : Nat) (v : Byte) : (wrByte a v s).mem = smPut 0#8 a v s.mem := rfl
@[simp] theorem wrByte_side (a : Nat) (v : Byte) : (wrByte a v s).side = s.side := rfl
@[simp] theorem wrByte_tiles (a : Nat) (v : Byte) : (wrByte a v s).tiles = s.tiles := rfl
@[simp] theorem wrByte_rdos (a : Nat) (v : Byte) : (wrByte a v s).rdos = s.rdos := rfl
@[simp] theorem wrByte_flux (a : Nat) (v : Byte) : (wrByte a v s).flux = s.flux := rfl
@[simp] theorem wrByte_lastRead (a : Nat) (v : Byte) : (wrByte a v s).lastRead = s.lastRead := rfl
@[simp] theorem wrByte_lastBytes (a : Nat) (v : Byte) : (wrByte a v s).lastBytes = s.lastBytes := rfl
@[simp] theorem wrByte_lastAbort (a : Nat) (v : Byte) : (wrByte a v s).lastAbort = s.lastAbort := rfl
@[simp] theorem wrByte_free (a : Nat) (v : Byte) : (wrByte a v s).free = s.free := rfl
@[simp] theorem wrByte_lines (a : Nat) (v : Byte) : (wrByte a v s).lines = s.lines := rfl
@[simp] theorem wrByte_masters (a : Nat) (v : Byte) : (wrByte a v s).masters = s.masters := rfl
@[simp] theorem wrByte_profiles (a : Nat) (v : Byte) : (wrByte a v s).profiles = s.profiles := rfl
@[simp] theorem wrByte_scrub (a : Nat) (v : Byte) : (wrByte a v s).scrub = s.scrub := rfl
@[simp] theorem wrByte_cal (a : Nat) (v : Byte) : (wrByte a v s).cal = s.cal := rfl
@[simp] theorem wrByte_pubs (a : Nat) (v : Byte) : (wrByte a v s).pubs = s.pubs := rfl
@[simp] theorem wrByte_slots (a : Nat) (v : Byte) : (wrByte a v s).slots = s.slots := rfl
@[simp] theorem wrByte_once (a : Nat) (v : Byte) : (wrByte a v s).once = s.once := rfl
@[simp] theorem wrByte_patches (a : Nat) (v : Byte) : (wrByte a v s).patches = s.patches := rfl
@[simp] theorem wrByte_esc (a : Nat) (v : Byte) : (wrByte a v s).esc = s.esc := rfl
@[simp] theorem wrByte_thaw (a : Nat) (v : Byte) : (wrByte a v s).thaw = s.thaw := rfl
@[simp] theorem wrByte_timers (a : Nat) (v : Byte) : (wrByte a v s).timers = s.timers := rfl
@[simp] theorem wrByte_ports (a : Nat) (v : Byte) : (wrByte a v s).ports = s.ports := rfl
@[simp] theorem wrByte_cst (a : Nat) (v : Byte) : (wrByte a v s).cst = s.cst := rfl
@[simp] theorem wrByte_dma (a : Nat) (v : Byte) : (wrByte a v s).dma = s.dma := rfl
@[simp] theorem wrByte_pcie (a : Nat) (v : Byte) : (wrByte a v s).pcie = s.pcie := rfl
@[simp] theorem wrByte_hoop (a : Nat) (v : Byte) : (wrByte a v s).hoop = s.hoop := rfl
@[simp] theorem wrByte_boot (a : Nat) (v : Byte) : (wrByte a v s).boot = s.boot := rfl
@[simp] theorem wrByte_dbgAcc (a : Nat) (v : Byte) : (wrByte a v s).dbgAcc = s.dbgAcc := rfl
@[simp] theorem wrByte_up (a : Nat) (v : Byte) : (wrByte a v s).up = s.up := rfl
@[simp] theorem wrByte_smp (a : Nat) (v : Byte) : (wrByte a v s).smp = s.smp := rfl
@[simp] theorem wrByte_repairs (a : Nat) (v : Byte) : (wrByte a v s).repairs = s.repairs := rfl
@[simp] theorem wrByte_bias (a : Nat) (v : Byte) : (wrByte a v s).bias = s.bias := rfl
@[simp] theorem wrByte_pat (a : Nat) (v : Byte) : (wrByte a v s).pat = s.pat := rfl
@[simp] theorem wrByte_evm (a : Nat) (v : Byte) : (wrByte a v s).evm = s.evm := rfl
@[simp] theorem wrByte_softRst (a : Nat) (v : Byte) : (wrByte a v s).softRst = s.softRst := rfl
@[simp] theorem wrByte_mck (a : Nat) (v : Byte) : (wrByte a v s).mck = s.mck := rfl
@[simp] theorem wrByte_was (a : Nat) (v : Byte) : (wrByte a v s).was = s.was := rfl

/-! ### useFree -/

@[simp] theorem useFree_variant : (useFree s).variant = s.variant := rfl
@[simp] theorem useFree_pending : (useFree s).pending = s.pending := rfl
@[simp] theorem useFree_time : (useFree s).time = s.time := rfl
@[simp] theorem useFree_regs : (useFree s).regs = s.regs := rfl
@[simp] theorem useFree_held : (useFree s).held = s.held := rfl
@[simp] theorem useFree_errs : (useFree s).errs = s.errs := rfl
@[simp] theorem useFree_fatal : (useFree s).fatal = s.fatal := rfl
@[simp] theorem useFree_pll : (useFree s).pll = s.pll := rfl
@[simp] theorem useFree_msix : (useFree s).msix = s.msix := rfl
@[simp] theorem useFree_mem : (useFree s).mem = s.mem := rfl
@[simp] theorem useFree_side : (useFree s).side = s.side := rfl
@[simp] theorem useFree_tiles : (useFree s).tiles = s.tiles := rfl
@[simp] theorem useFree_rdos : (useFree s).rdos = s.rdos := rfl
@[simp] theorem useFree_flux : (useFree s).flux = s.flux := rfl
@[simp] theorem useFree_lastRead : (useFree s).lastRead = s.lastRead := rfl
@[simp] theorem useFree_lastBytes : (useFree s).lastBytes = s.lastBytes := rfl
@[simp] theorem useFree_lastAbort : (useFree s).lastAbort = s.lastAbort := rfl
@[simp] theorem useFree_free : (useFree s).free = s.free + 1 := rfl
@[simp] theorem useFree_lines : (useFree s).lines = s.lines := rfl
@[simp] theorem useFree_masters : (useFree s).masters = s.masters := rfl
@[simp] theorem useFree_profiles : (useFree s).profiles = s.profiles := rfl
@[simp] theorem useFree_scrub : (useFree s).scrub = s.scrub := rfl
@[simp] theorem useFree_cal : (useFree s).cal = s.cal := rfl
@[simp] theorem useFree_pubs : (useFree s).pubs = s.pubs := rfl
@[simp] theorem useFree_slots : (useFree s).slots = s.slots := rfl
@[simp] theorem useFree_once : (useFree s).once = s.once := rfl
@[simp] theorem useFree_patches : (useFree s).patches = s.patches := rfl
@[simp] theorem useFree_esc : (useFree s).esc = s.esc := rfl
@[simp] theorem useFree_thaw : (useFree s).thaw = s.thaw := rfl
@[simp] theorem useFree_timers : (useFree s).timers = s.timers := rfl
@[simp] theorem useFree_ports : (useFree s).ports = s.ports := rfl
@[simp] theorem useFree_cst : (useFree s).cst = s.cst := rfl
@[simp] theorem useFree_dma : (useFree s).dma = s.dma := rfl
@[simp] theorem useFree_pcie : (useFree s).pcie = s.pcie := rfl
@[simp] theorem useFree_hoop : (useFree s).hoop = s.hoop := rfl
@[simp] theorem useFree_boot : (useFree s).boot = s.boot := rfl
@[simp] theorem useFree_dbgAcc : (useFree s).dbgAcc = s.dbgAcc := rfl
@[simp] theorem useFree_up : (useFree s).up = s.up := rfl
@[simp] theorem useFree_smp : (useFree s).smp = s.smp := rfl
@[simp] theorem useFree_repairs : (useFree s).repairs = s.repairs := rfl
@[simp] theorem useFree_bias : (useFree s).bias = s.bias := rfl
@[simp] theorem useFree_pat : (useFree s).pat = s.pat := rfl
@[simp] theorem useFree_evm : (useFree s).evm = s.evm := rfl
@[simp] theorem useFree_softRst : (useFree s).softRst = s.softRst := rfl
@[simp] theorem useFree_mck : (useFree s).mck = s.mck := rfl
@[simp] theorem useFree_was : (useFree s).was = s.was := rfl

/-! ### setLine -/

@[simp] theorem setLine_variant (a : Nat) (l : LineSt) : (setLine a l s).variant = s.variant := rfl
@[simp] theorem setLine_pending (a : Nat) (l : LineSt) : (setLine a l s).pending = s.pending := rfl
@[simp] theorem setLine_time (a : Nat) (l : LineSt) : (setLine a l s).time = s.time := rfl
@[simp] theorem setLine_regs (a : Nat) (l : LineSt) : (setLine a l s).regs = s.regs := rfl
@[simp] theorem setLine_held (a : Nat) (l : LineSt) : (setLine a l s).held = s.held := rfl
@[simp] theorem setLine_errs (a : Nat) (l : LineSt) : (setLine a l s).errs = s.errs := rfl
@[simp] theorem setLine_fatal (a : Nat) (l : LineSt) : (setLine a l s).fatal = s.fatal := rfl
@[simp] theorem setLine_pll (a : Nat) (l : LineSt) : (setLine a l s).pll = s.pll := rfl
@[simp] theorem setLine_msix (a : Nat) (l : LineSt) : (setLine a l s).msix = s.msix := rfl
@[simp] theorem setLine_mem (a : Nat) (l : LineSt) : (setLine a l s).mem = s.mem := rfl
@[simp] theorem setLine_side (a : Nat) (l : LineSt) : (setLine a l s).side = s.side := rfl
@[simp] theorem setLine_tiles (a : Nat) (l : LineSt) : (setLine a l s).tiles = s.tiles := rfl
@[simp] theorem setLine_rdos (a : Nat) (l : LineSt) : (setLine a l s).rdos = s.rdos := rfl
@[simp] theorem setLine_flux (a : Nat) (l : LineSt) : (setLine a l s).flux = s.flux := rfl
@[simp] theorem setLine_lastRead (a : Nat) (l : LineSt) : (setLine a l s).lastRead = s.lastRead := rfl
@[simp] theorem setLine_lastBytes (a : Nat) (l : LineSt) : (setLine a l s).lastBytes = s.lastBytes := rfl
@[simp] theorem setLine_lastAbort (a : Nat) (l : LineSt) : (setLine a l s).lastAbort = s.lastAbort := rfl
@[simp] theorem setLine_free (a : Nat) (l : LineSt) : (setLine a l s).free = s.free := rfl
@[simp] theorem setLine_lines (a : Nat) (l : LineSt) : (setLine a l s).lines = smPut {} (lineOf a) l s.lines := rfl
@[simp] theorem setLine_masters (a : Nat) (l : LineSt) : (setLine a l s).masters = s.masters := rfl
@[simp] theorem setLine_profiles (a : Nat) (l : LineSt) : (setLine a l s).profiles = s.profiles := rfl
@[simp] theorem setLine_scrub (a : Nat) (l : LineSt) : (setLine a l s).scrub = s.scrub := rfl
@[simp] theorem setLine_cal (a : Nat) (l : LineSt) : (setLine a l s).cal = s.cal := rfl
@[simp] theorem setLine_pubs (a : Nat) (l : LineSt) : (setLine a l s).pubs = s.pubs := rfl
@[simp] theorem setLine_slots (a : Nat) (l : LineSt) : (setLine a l s).slots = s.slots := rfl
@[simp] theorem setLine_once (a : Nat) (l : LineSt) : (setLine a l s).once = s.once := rfl
@[simp] theorem setLine_patches (a : Nat) (l : LineSt) : (setLine a l s).patches = s.patches := rfl
@[simp] theorem setLine_esc (a : Nat) (l : LineSt) : (setLine a l s).esc = s.esc := rfl
@[simp] theorem setLine_thaw (a : Nat) (l : LineSt) : (setLine a l s).thaw = s.thaw := rfl
@[simp] theorem setLine_timers (a : Nat) (l : LineSt) : (setLine a l s).timers = s.timers := rfl
@[simp] theorem setLine_ports (a : Nat) (l : LineSt) : (setLine a l s).ports = s.ports := rfl
@[simp] theorem setLine_cst (a : Nat) (l : LineSt) : (setLine a l s).cst = s.cst := rfl
@[simp] theorem setLine_dma (a : Nat) (l : LineSt) : (setLine a l s).dma = s.dma := rfl
@[simp] theorem setLine_pcie (a : Nat) (l : LineSt) : (setLine a l s).pcie = s.pcie := rfl
@[simp] theorem setLine_hoop (a : Nat) (l : LineSt) : (setLine a l s).hoop = s.hoop := rfl
@[simp] theorem setLine_boot (a : Nat) (l : LineSt) : (setLine a l s).boot = s.boot := rfl
@[simp] theorem setLine_dbgAcc (a : Nat) (l : LineSt) : (setLine a l s).dbgAcc = s.dbgAcc := rfl
@[simp] theorem setLine_up (a : Nat) (l : LineSt) : (setLine a l s).up = s.up := rfl
@[simp] theorem setLine_smp (a : Nat) (l : LineSt) : (setLine a l s).smp = s.smp := rfl
@[simp] theorem setLine_repairs (a : Nat) (l : LineSt) : (setLine a l s).repairs = s.repairs := rfl
@[simp] theorem setLine_bias (a : Nat) (l : LineSt) : (setLine a l s).bias = s.bias := rfl
@[simp] theorem setLine_pat (a : Nat) (l : LineSt) : (setLine a l s).pat = s.pat := rfl
@[simp] theorem setLine_evm (a : Nat) (l : LineSt) : (setLine a l s).evm = s.evm := rfl
@[simp] theorem setLine_softRst (a : Nat) (l : LineSt) : (setLine a l s).softRst = s.softRst := rfl
@[simp] theorem setLine_mck (a : Nat) (l : LineSt) : (setLine a l s).mck = s.mck := rfl
@[simp] theorem setLine_was (a : Nat) (l : LineSt) : (setLine a l s).was = s.was := rfl

/-! ### setTulSlot -/

@[simp] theorem setTulSlot_variant (i : Nat) (x : TulSlot) : (setTulSlot i x s).variant = s.variant := rfl
@[simp] theorem setTulSlot_pending (i : Nat) (x : TulSlot) : (setTulSlot i x s).pending = s.pending := rfl
@[simp] theorem setTulSlot_time (i : Nat) (x : TulSlot) : (setTulSlot i x s).time = s.time := rfl
@[simp] theorem setTulSlot_regs (i : Nat) (x : TulSlot) : (setTulSlot i x s).regs = s.regs := rfl
@[simp] theorem setTulSlot_held (i : Nat) (x : TulSlot) : (setTulSlot i x s).held = s.held := rfl
@[simp] theorem setTulSlot_errs (i : Nat) (x : TulSlot) : (setTulSlot i x s).errs = s.errs := rfl
@[simp] theorem setTulSlot_fatal (i : Nat) (x : TulSlot) : (setTulSlot i x s).fatal = s.fatal := rfl
@[simp] theorem setTulSlot_pll (i : Nat) (x : TulSlot) : (setTulSlot i x s).pll = s.pll := rfl
@[simp] theorem setTulSlot_msix (i : Nat) (x : TulSlot) : (setTulSlot i x s).msix = s.msix := rfl
@[simp] theorem setTulSlot_mem (i : Nat) (x : TulSlot) : (setTulSlot i x s).mem = s.mem := rfl
@[simp] theorem setTulSlot_side (i : Nat) (x : TulSlot) : (setTulSlot i x s).side = s.side := rfl
@[simp] theorem setTulSlot_tiles (i : Nat) (x : TulSlot) : (setTulSlot i x s).tiles = s.tiles := rfl
@[simp] theorem setTulSlot_rdos (i : Nat) (x : TulSlot) : (setTulSlot i x s).rdos = s.rdos := rfl
@[simp] theorem setTulSlot_flux (i : Nat) (x : TulSlot) : (setTulSlot i x s).flux = s.flux := rfl
@[simp] theorem setTulSlot_lastRead (i : Nat) (x : TulSlot) : (setTulSlot i x s).lastRead = s.lastRead := rfl
@[simp] theorem setTulSlot_lastBytes (i : Nat) (x : TulSlot) : (setTulSlot i x s).lastBytes = s.lastBytes := rfl
@[simp] theorem setTulSlot_lastAbort (i : Nat) (x : TulSlot) : (setTulSlot i x s).lastAbort = s.lastAbort := rfl
@[simp] theorem setTulSlot_free (i : Nat) (x : TulSlot) : (setTulSlot i x s).free = s.free := rfl
@[simp] theorem setTulSlot_lines (i : Nat) (x : TulSlot) : (setTulSlot i x s).lines = s.lines := rfl
@[simp] theorem setTulSlot_masters (i : Nat) (x : TulSlot) : (setTulSlot i x s).masters = s.masters := rfl
@[simp] theorem setTulSlot_profiles (i : Nat) (x : TulSlot) : (setTulSlot i x s).profiles = s.profiles := rfl
@[simp] theorem setTulSlot_scrub (i : Nat) (x : TulSlot) : (setTulSlot i x s).scrub = s.scrub := rfl
@[simp] theorem setTulSlot_cal (i : Nat) (x : TulSlot) : (setTulSlot i x s).cal = s.cal := rfl
@[simp] theorem setTulSlot_pubs (i : Nat) (x : TulSlot) : (setTulSlot i x s).pubs = s.pubs := rfl
@[simp] theorem setTulSlot_slots (i : Nat) (x : TulSlot) : (setTulSlot i x s).slots = smPut {} i x s.slots := rfl
@[simp] theorem setTulSlot_once (i : Nat) (x : TulSlot) : (setTulSlot i x s).once = s.once := rfl
@[simp] theorem setTulSlot_patches (i : Nat) (x : TulSlot) : (setTulSlot i x s).patches = s.patches := rfl
@[simp] theorem setTulSlot_esc (i : Nat) (x : TulSlot) : (setTulSlot i x s).esc = s.esc := rfl
@[simp] theorem setTulSlot_thaw (i : Nat) (x : TulSlot) : (setTulSlot i x s).thaw = s.thaw := rfl
@[simp] theorem setTulSlot_timers (i : Nat) (x : TulSlot) : (setTulSlot i x s).timers = s.timers := rfl
@[simp] theorem setTulSlot_ports (i : Nat) (x : TulSlot) : (setTulSlot i x s).ports = s.ports := rfl
@[simp] theorem setTulSlot_cst (i : Nat) (x : TulSlot) : (setTulSlot i x s).cst = s.cst := rfl
@[simp] theorem setTulSlot_dma (i : Nat) (x : TulSlot) : (setTulSlot i x s).dma = s.dma := rfl
@[simp] theorem setTulSlot_pcie (i : Nat) (x : TulSlot) : (setTulSlot i x s).pcie = s.pcie := rfl
@[simp] theorem setTulSlot_hoop (i : Nat) (x : TulSlot) : (setTulSlot i x s).hoop = s.hoop := rfl
@[simp] theorem setTulSlot_boot (i : Nat) (x : TulSlot) : (setTulSlot i x s).boot = s.boot := rfl
@[simp] theorem setTulSlot_dbgAcc (i : Nat) (x : TulSlot) : (setTulSlot i x s).dbgAcc = s.dbgAcc := rfl
@[simp] theorem setTulSlot_up (i : Nat) (x : TulSlot) : (setTulSlot i x s).up = s.up := rfl
@[simp] theorem setTulSlot_smp (i : Nat) (x : TulSlot) : (setTulSlot i x s).smp = s.smp := rfl
@[simp] theorem setTulSlot_repairs (i : Nat) (x : TulSlot) : (setTulSlot i x s).repairs = s.repairs := rfl
@[simp] theorem setTulSlot_bias (i : Nat) (x : TulSlot) : (setTulSlot i x s).bias = s.bias := rfl
@[simp] theorem setTulSlot_pat (i : Nat) (x : TulSlot) : (setTulSlot i x s).pat = s.pat := rfl
@[simp] theorem setTulSlot_evm (i : Nat) (x : TulSlot) : (setTulSlot i x s).evm = s.evm := rfl
@[simp] theorem setTulSlot_softRst (i : Nat) (x : TulSlot) : (setTulSlot i x s).softRst = s.softRst := rfl
@[simp] theorem setTulSlot_mck (i : Nat) (x : TulSlot) : (setTulSlot i x s).mck = s.mck := rfl
@[simp] theorem setTulSlot_was (i : Nat) (x : TulSlot) : (setTulSlot i x s).was = s.was := rfl

/-! ### modPort -/

@[simp] theorem modPort_variant (n : Nat) (g : Port → Port) : (modPort n g s).variant = s.variant := rfl
@[simp] theorem modPort_pending (n : Nat) (g : Port → Port) : (modPort n g s).pending = s.pending := rfl
@[simp] theorem modPort_time (n : Nat) (g : Port → Port) : (modPort n g s).time = s.time := rfl
@[simp] theorem modPort_regs (n : Nat) (g : Port → Port) : (modPort n g s).regs = s.regs := rfl
@[simp] theorem modPort_held (n : Nat) (g : Port → Port) : (modPort n g s).held = s.held := rfl
@[simp] theorem modPort_errs (n : Nat) (g : Port → Port) : (modPort n g s).errs = s.errs := rfl
@[simp] theorem modPort_fatal (n : Nat) (g : Port → Port) : (modPort n g s).fatal = s.fatal := rfl
@[simp] theorem modPort_pll (n : Nat) (g : Port → Port) : (modPort n g s).pll = s.pll := rfl
@[simp] theorem modPort_msix (n : Nat) (g : Port → Port) : (modPort n g s).msix = s.msix := rfl
@[simp] theorem modPort_mem (n : Nat) (g : Port → Port) : (modPort n g s).mem = s.mem := rfl
@[simp] theorem modPort_side (n : Nat) (g : Port → Port) : (modPort n g s).side = s.side := rfl
@[simp] theorem modPort_tiles (n : Nat) (g : Port → Port) : (modPort n g s).tiles = s.tiles := rfl
@[simp] theorem modPort_rdos (n : Nat) (g : Port → Port) : (modPort n g s).rdos = s.rdos := rfl
@[simp] theorem modPort_flux (n : Nat) (g : Port → Port) : (modPort n g s).flux = s.flux := rfl
@[simp] theorem modPort_lastRead (n : Nat) (g : Port → Port) : (modPort n g s).lastRead = s.lastRead := rfl
@[simp] theorem modPort_lastBytes (n : Nat) (g : Port → Port) : (modPort n g s).lastBytes = s.lastBytes := rfl
@[simp] theorem modPort_lastAbort (n : Nat) (g : Port → Port) : (modPort n g s).lastAbort = s.lastAbort := rfl
@[simp] theorem modPort_free (n : Nat) (g : Port → Port) : (modPort n g s).free = s.free := rfl
@[simp] theorem modPort_lines (n : Nat) (g : Port → Port) : (modPort n g s).lines = s.lines := rfl
@[simp] theorem modPort_masters (n : Nat) (g : Port → Port) : (modPort n g s).masters = s.masters := rfl
@[simp] theorem modPort_profiles (n : Nat) (g : Port → Port) : (modPort n g s).profiles = s.profiles := rfl
@[simp] theorem modPort_scrub (n : Nat) (g : Port → Port) : (modPort n g s).scrub = s.scrub := rfl
@[simp] theorem modPort_cal (n : Nat) (g : Port → Port) : (modPort n g s).cal = s.cal := rfl
@[simp] theorem modPort_pubs (n : Nat) (g : Port → Port) : (modPort n g s).pubs = s.pubs := rfl
@[simp] theorem modPort_slots (n : Nat) (g : Port → Port) : (modPort n g s).slots = s.slots := rfl
@[simp] theorem modPort_once (n : Nat) (g : Port → Port) : (modPort n g s).once = s.once := rfl
@[simp] theorem modPort_patches (n : Nat) (g : Port → Port) : (modPort n g s).patches = s.patches := rfl
@[simp] theorem modPort_esc (n : Nat) (g : Port → Port) : (modPort n g s).esc = s.esc := rfl
@[simp] theorem modPort_thaw (n : Nat) (g : Port → Port) : (modPort n g s).thaw = s.thaw := rfl
@[simp] theorem modPort_timers (n : Nat) (g : Port → Port) : (modPort n g s).timers = s.timers := rfl
@[simp] theorem modPort_ports (n : Nat) (g : Port → Port) : (modPort n g s).ports = smSet n (g (portOf s n)) s.ports := rfl
@[simp] theorem modPort_cst (n : Nat) (g : Port → Port) : (modPort n g s).cst = s.cst := rfl
@[simp] theorem modPort_dma (n : Nat) (g : Port → Port) : (modPort n g s).dma = s.dma := rfl
@[simp] theorem modPort_pcie (n : Nat) (g : Port → Port) : (modPort n g s).pcie = s.pcie := rfl
@[simp] theorem modPort_hoop (n : Nat) (g : Port → Port) : (modPort n g s).hoop = s.hoop := rfl
@[simp] theorem modPort_boot (n : Nat) (g : Port → Port) : (modPort n g s).boot = s.boot := rfl
@[simp] theorem modPort_dbgAcc (n : Nat) (g : Port → Port) : (modPort n g s).dbgAcc = s.dbgAcc := rfl
@[simp] theorem modPort_up (n : Nat) (g : Port → Port) : (modPort n g s).up = s.up := rfl
@[simp] theorem modPort_smp (n : Nat) (g : Port → Port) : (modPort n g s).smp = s.smp := rfl
@[simp] theorem modPort_repairs (n : Nat) (g : Port → Port) : (modPort n g s).repairs = s.repairs := rfl
@[simp] theorem modPort_bias (n : Nat) (g : Port → Port) : (modPort n g s).bias = s.bias := rfl
@[simp] theorem modPort_pat (n : Nat) (g : Port → Port) : (modPort n g s).pat = s.pat := rfl
@[simp] theorem modPort_evm (n : Nat) (g : Port → Port) : (modPort n g s).evm = s.evm := rfl
@[simp] theorem modPort_softRst (n : Nat) (g : Port → Port) : (modPort n g s).softRst = s.softRst := rfl
@[simp] theorem modPort_mck (n : Nat) (g : Port → Port) : (modPort n g s).mck = s.mck := rfl
@[simp] theorem modPort_was (n : Nat) (g : Port → Port) : (modPort n g s).was = s.was := rfl

/-! ### modCh -/

@[simp] theorem modCh_variant (c : Nat) (g : Dma → Dma) : (modCh c g s).variant = s.variant := rfl
@[simp] theorem modCh_pending (c : Nat) (g : Dma → Dma) : (modCh c g s).pending = s.pending := rfl
@[simp] theorem modCh_time (c : Nat) (g : Dma → Dma) : (modCh c g s).time = s.time := rfl
@[simp] theorem modCh_regs (c : Nat) (g : Dma → Dma) : (modCh c g s).regs = s.regs := rfl
@[simp] theorem modCh_held (c : Nat) (g : Dma → Dma) : (modCh c g s).held = s.held := rfl
@[simp] theorem modCh_errs (c : Nat) (g : Dma → Dma) : (modCh c g s).errs = s.errs := rfl
@[simp] theorem modCh_fatal (c : Nat) (g : Dma → Dma) : (modCh c g s).fatal = s.fatal := rfl
@[simp] theorem modCh_pll (c : Nat) (g : Dma → Dma) : (modCh c g s).pll = s.pll := rfl
@[simp] theorem modCh_msix (c : Nat) (g : Dma → Dma) : (modCh c g s).msix = s.msix := rfl
@[simp] theorem modCh_mem (c : Nat) (g : Dma → Dma) : (modCh c g s).mem = s.mem := rfl
@[simp] theorem modCh_side (c : Nat) (g : Dma → Dma) : (modCh c g s).side = s.side := rfl
@[simp] theorem modCh_tiles (c : Nat) (g : Dma → Dma) : (modCh c g s).tiles = s.tiles := rfl
@[simp] theorem modCh_rdos (c : Nat) (g : Dma → Dma) : (modCh c g s).rdos = s.rdos := rfl
@[simp] theorem modCh_flux (c : Nat) (g : Dma → Dma) : (modCh c g s).flux = s.flux := rfl
@[simp] theorem modCh_lastRead (c : Nat) (g : Dma → Dma) : (modCh c g s).lastRead = s.lastRead := rfl
@[simp] theorem modCh_lastBytes (c : Nat) (g : Dma → Dma) : (modCh c g s).lastBytes = s.lastBytes := rfl
@[simp] theorem modCh_lastAbort (c : Nat) (g : Dma → Dma) : (modCh c g s).lastAbort = s.lastAbort := rfl
@[simp] theorem modCh_free (c : Nat) (g : Dma → Dma) : (modCh c g s).free = s.free := rfl
@[simp] theorem modCh_lines (c : Nat) (g : Dma → Dma) : (modCh c g s).lines = s.lines := rfl
@[simp] theorem modCh_masters (c : Nat) (g : Dma → Dma) : (modCh c g s).masters = s.masters := rfl
@[simp] theorem modCh_profiles (c : Nat) (g : Dma → Dma) : (modCh c g s).profiles = s.profiles := rfl
@[simp] theorem modCh_scrub (c : Nat) (g : Dma → Dma) : (modCh c g s).scrub = s.scrub := rfl
@[simp] theorem modCh_cal (c : Nat) (g : Dma → Dma) : (modCh c g s).cal = s.cal := rfl
@[simp] theorem modCh_pubs (c : Nat) (g : Dma → Dma) : (modCh c g s).pubs = s.pubs := rfl
@[simp] theorem modCh_slots (c : Nat) (g : Dma → Dma) : (modCh c g s).slots = s.slots := rfl
@[simp] theorem modCh_once (c : Nat) (g : Dma → Dma) : (modCh c g s).once = s.once := rfl
@[simp] theorem modCh_patches (c : Nat) (g : Dma → Dma) : (modCh c g s).patches = s.patches := rfl
@[simp] theorem modCh_esc (c : Nat) (g : Dma → Dma) : (modCh c g s).esc = s.esc := rfl
@[simp] theorem modCh_thaw (c : Nat) (g : Dma → Dma) : (modCh c g s).thaw = s.thaw := rfl
@[simp] theorem modCh_timers (c : Nat) (g : Dma → Dma) : (modCh c g s).timers = s.timers := rfl
@[simp] theorem modCh_ports (c : Nat) (g : Dma → Dma) : (modCh c g s).ports = s.ports := rfl
@[simp] theorem modCh_cst (c : Nat) (g : Dma → Dma) : (modCh c g s).cst = s.cst := rfl
@[simp] theorem modCh_dma (c : Nat) (g : Dma → Dma) : (modCh c g s).dma = smSet c (g (chOf s c)) s.dma := rfl
@[simp] theorem modCh_pcie (c : Nat) (g : Dma → Dma) : (modCh c g s).pcie = s.pcie := rfl
@[simp] theorem modCh_hoop (c : Nat) (g : Dma → Dma) : (modCh c g s).hoop = s.hoop := rfl
@[simp] theorem modCh_boot (c : Nat) (g : Dma → Dma) : (modCh c g s).boot = s.boot := rfl
@[simp] theorem modCh_dbgAcc (c : Nat) (g : Dma → Dma) : (modCh c g s).dbgAcc = s.dbgAcc := rfl
@[simp] theorem modCh_up (c : Nat) (g : Dma → Dma) : (modCh c g s).up = s.up := rfl
@[simp] theorem modCh_smp (c : Nat) (g : Dma → Dma) : (modCh c g s).smp = s.smp := rfl
@[simp] theorem modCh_repairs (c : Nat) (g : Dma → Dma) : (modCh c g s).repairs = s.repairs := rfl
@[simp] theorem modCh_bias (c : Nat) (g : Dma → Dma) : (modCh c g s).bias = s.bias := rfl
@[simp] theorem modCh_pat (c : Nat) (g : Dma → Dma) : (modCh c g s).pat = s.pat := rfl
@[simp] theorem modCh_evm (c : Nat) (g : Dma → Dma) : (modCh c g s).evm = s.evm := rfl
@[simp] theorem modCh_softRst (c : Nat) (g : Dma → Dma) : (modCh c g s).softRst = s.softRst := rfl
@[simp] theorem modCh_mck (c : Nat) (g : Dma → Dma) : (modCh c g s).mck = s.mck := rfl
@[simp] theorem modCh_was (c : Nat) (g : Dma → Dma) : (modCh c g s).was = s.was := rfl

/-! ### raiseSrc -/

@[simp] theorem raiseSrc_variant (src : Nat) : (raiseSrc src s).variant = s.variant := rfl
@[simp] theorem raiseSrc_pending (src : Nat) : (raiseSrc src s).pending = s.pending := rfl
@[simp] theorem raiseSrc_time (src : Nat) : (raiseSrc src s).time = s.time := rfl
@[simp] theorem raiseSrc_regs (src : Nat) : (raiseSrc src s).regs = s.regs := rfl
@[simp] theorem raiseSrc_held (src : Nat) : (raiseSrc src s).held = s.held := rfl
@[simp] theorem raiseSrc_errs (src : Nat) : (raiseSrc src s).errs = s.errs := rfl
@[simp] theorem raiseSrc_fatal (src : Nat) : (raiseSrc src s).fatal = s.fatal := rfl
@[simp] theorem raiseSrc_pll (src : Nat) : (raiseSrc src s).pll = s.pll := rfl
@[simp] theorem raiseSrc_msix (src : Nat) : (raiseSrc src s).msix = s.msix := rfl
@[simp] theorem raiseSrc_mem (src : Nat) : (raiseSrc src s).mem = s.mem := rfl
@[simp] theorem raiseSrc_side (src : Nat) : (raiseSrc src s).side = s.side := rfl
@[simp] theorem raiseSrc_tiles (src : Nat) : (raiseSrc src s).tiles = s.tiles := rfl
@[simp] theorem raiseSrc_rdos (src : Nat) : (raiseSrc src s).rdos = s.rdos := rfl
@[simp] theorem raiseSrc_flux (src : Nat) : (raiseSrc src s).flux = s.flux := rfl
@[simp] theorem raiseSrc_lastRead (src : Nat) : (raiseSrc src s).lastRead = s.lastRead := rfl
@[simp] theorem raiseSrc_lastBytes (src : Nat) : (raiseSrc src s).lastBytes = s.lastBytes := rfl
@[simp] theorem raiseSrc_lastAbort (src : Nat) : (raiseSrc src s).lastAbort = s.lastAbort := rfl
@[simp] theorem raiseSrc_free (src : Nat) : (raiseSrc src s).free = s.free := rfl
@[simp] theorem raiseSrc_lines (src : Nat) : (raiseSrc src s).lines = s.lines := rfl
@[simp] theorem raiseSrc_masters (src : Nat) : (raiseSrc src s).masters = s.masters := rfl
@[simp] theorem raiseSrc_profiles (src : Nat) : (raiseSrc src s).profiles = s.profiles := rfl
@[simp] theorem raiseSrc_scrub (src : Nat) : (raiseSrc src s).scrub = s.scrub := rfl
@[simp] theorem raiseSrc_cal (src : Nat) : (raiseSrc src s).cal = s.cal := rfl
@[simp] theorem raiseSrc_pubs (src : Nat) : (raiseSrc src s).pubs = s.pubs := rfl
@[simp] theorem raiseSrc_slots (src : Nat) : (raiseSrc src s).slots = s.slots := rfl
@[simp] theorem raiseSrc_once (src : Nat) : (raiseSrc src s).once = s.once := rfl
@[simp] theorem raiseSrc_patches (src : Nat) : (raiseSrc src s).patches = s.patches := rfl
@[simp] theorem raiseSrc_esc (src : Nat) : (raiseSrc src s).esc = s.esc := rfl
@[simp] theorem raiseSrc_thaw (src : Nat) : (raiseSrc src s).thaw = s.thaw := rfl
@[simp] theorem raiseSrc_timers (src : Nat) : (raiseSrc src s).timers = s.timers := rfl
@[simp] theorem raiseSrc_ports (src : Nat) : (raiseSrc src s).ports = s.ports := rfl
@[simp] theorem raiseSrc_cst (src : Nat) : (raiseSrc src s).cst = s.cst := rfl
@[simp] theorem raiseSrc_dma (src : Nat) : (raiseSrc src s).dma = s.dma := rfl
@[simp] theorem raiseSrc_pcie (src : Nat) : (raiseSrc src s).pcie = s.pcie := rfl
@[simp] theorem raiseSrc_hoop (src : Nat) : (raiseSrc src s).hoop = s.hoop := rfl
@[simp] theorem raiseSrc_boot (src : Nat) : (raiseSrc src s).boot = s.boot := rfl
@[simp] theorem raiseSrc_dbgAcc (src : Nat) : (raiseSrc src s).dbgAcc = s.dbgAcc := rfl
@[simp] theorem raiseSrc_up (src : Nat) : (raiseSrc src s).up = s.up := rfl
@[simp] theorem raiseSrc_smp (src : Nat) : (raiseSrc src s).smp = s.smp := rfl
@[simp] theorem raiseSrc_repairs (src : Nat) : (raiseSrc src s).repairs = s.repairs := rfl
@[simp] theorem raiseSrc_bias (src : Nat) : (raiseSrc src s).bias = s.bias := rfl
@[simp] theorem raiseSrc_pat (src : Nat) : (raiseSrc src s).pat = s.pat := rfl
@[simp] theorem raiseSrc_softRst (src : Nat) : (raiseSrc src s).softRst = s.softRst := rfl
@[simp] theorem raiseSrc_mck (src : Nat) : (raiseSrc src s).mck = s.mck := rfl
@[simp] theorem raiseSrc_was (src : Nat) : (raiseSrc src s).was = s.was := rfl

/-! ### irqSet: the parts beside registers, records and messages -/

@[simp] theorem irqSet_variant (p : Nat) (m : Word) : (irqSet p m s).variant = s.variant :=
  typedSame_eq (g := State.variant) (fun _ _ _ _ _ _ _ => rfl) (typedSame_irqSet rfl)
@[simp] theorem irqSet_pending (p : Nat) (m : Word) : (irqSet p m s).pending = s.pending :=
  typedSame_eq (g := State.pending) (fun _ _ _ _ _ _ _ => rfl) (typedSame_irqSet rfl)
@[simp] theorem irqSet_time (p : Nat) (m : Word) : (irqSet p m s).time = s.time :=
  typedSame_eq (g := State.time) (fun _ _ _ _ _ _ _ => rfl) (typedSame_irqSet rfl)
@[simp] theorem irqSet_pll (p : Nat) (m : Word) : (irqSet p m s).pll = s.pll :=
  typedSame_eq (g := State.pll) (fun _ _ _ _ _ _ _ => rfl) (typedSame_irqSet rfl)
@[simp] theorem irqSet_mem (p : Nat) (m : Word) : (irqSet p m s).mem = s.mem :=
  typedSame_eq (g := State.mem) (fun _ _ _ _ _ _ _ => rfl) (typedSame_irqSet rfl)
@[simp] theorem irqSet_side (p : Nat) (m : Word) : (irqSet p m s).side = s.side :=
  typedSame_eq (g := State.side) (fun _ _ _ _ _ _ _ => rfl) (typedSame_irqSet rfl)
@[simp] theorem irqSet_tiles (p : Nat) (m : Word) : (irqSet p m s).tiles = s.tiles :=
  typedSame_eq (g := State.tiles) (fun _ _ _ _ _ _ _ => rfl) (typedSame_irqSet rfl)
@[simp] theorem irqSet_rdos (p : Nat) (m : Word) : (irqSet p m s).rdos = s.rdos :=
  typedSame_eq (g := State.rdos) (fun _ _ _ _ _ _ _ => rfl) (typedSame_irqSet rfl)
@[simp] theorem irqSet_flux (p : Nat) (m : Word) : (irqSet p m s).flux = s.flux :=
  typedSame_eq (g := State.flux) (fun _ _ _ _ _ _ _ => rfl) (typedSame_irqSet rfl)
@[simp] theorem irqSet_lastRead (p : Nat) (m : Word) : (irqSet p m s).lastRead = s.lastRead :=
  typedSame_eq (g := State.lastRead) (fun _ _ _ _ _ _ _ => rfl) (typedSame_irqSet rfl)
@[simp] theorem irqSet_lastBytes (p : Nat) (m : Word) : (irqSet p m s).lastBytes = s.lastBytes :=
  typedSame_eq (g := State.lastBytes) (fun _ _ _ _ _ _ _ => rfl) (typedSame_irqSet rfl)
@[simp] theorem irqSet_lastAbort (p : Nat) (m : Word) : (irqSet p m s).lastAbort = s.lastAbort :=
  typedSame_eq (g := State.lastAbort) (fun _ _ _ _ _ _ _ => rfl) (typedSame_irqSet rfl)
@[simp] theorem irqSet_free (p : Nat) (m : Word) : (irqSet p m s).free = s.free :=
  typedSame_eq (g := State.free) (fun _ _ _ _ _ _ _ => rfl) (typedSame_irqSet rfl)
@[simp] theorem irqSet_lines (p : Nat) (m : Word) : (irqSet p m s).lines = s.lines :=
  typedSame_eq (g := State.lines) (fun _ _ _ _ _ _ _ => rfl) (typedSame_irqSet rfl)
@[simp] theorem irqSet_masters (p : Nat) (m : Word) : (irqSet p m s).masters = s.masters :=
  typedSame_eq (g := State.masters) (fun _ _ _ _ _ _ _ => rfl) (typedSame_irqSet rfl)
@[simp] theorem irqSet_profiles (p : Nat) (m : Word) : (irqSet p m s).profiles = s.profiles :=
  typedSame_eq (g := State.profiles) (fun _ _ _ _ _ _ _ => rfl) (typedSame_irqSet rfl)
@[simp] theorem irqSet_scrub (p : Nat) (m : Word) : (irqSet p m s).scrub = s.scrub :=
  typedSame_eq (g := State.scrub) (fun _ _ _ _ _ _ _ => rfl) (typedSame_irqSet rfl)
@[simp] theorem irqSet_cal (p : Nat) (m : Word) : (irqSet p m s).cal = s.cal :=
  typedSame_eq (g := State.cal) (fun _ _ _ _ _ _ _ => rfl) (typedSame_irqSet rfl)
@[simp] theorem irqSet_pubs (p : Nat) (m : Word) : (irqSet p m s).pubs = s.pubs :=
  typedSame_eq (g := State.pubs) (fun _ _ _ _ _ _ _ => rfl) (typedSame_irqSet rfl)
@[simp] theorem irqSet_slots (p : Nat) (m : Word) : (irqSet p m s).slots = s.slots :=
  typedSame_eq (g := State.slots) (fun _ _ _ _ _ _ _ => rfl) (typedSame_irqSet rfl)
@[simp] theorem irqSet_once (p : Nat) (m : Word) : (irqSet p m s).once = s.once :=
  typedSame_eq (g := State.once) (fun _ _ _ _ _ _ _ => rfl) (typedSame_irqSet rfl)
@[simp] theorem irqSet_patches (p : Nat) (m : Word) : (irqSet p m s).patches = s.patches :=
  typedSame_eq (g := State.patches) (fun _ _ _ _ _ _ _ => rfl) (typedSame_irqSet rfl)
@[simp] theorem irqSet_esc (p : Nat) (m : Word) : (irqSet p m s).esc = s.esc :=
  typedSame_eq (g := State.esc) (fun _ _ _ _ _ _ _ => rfl) (typedSame_irqSet rfl)
@[simp] theorem irqSet_thaw (p : Nat) (m : Word) : (irqSet p m s).thaw = s.thaw :=
  typedSame_eq (g := State.thaw) (fun _ _ _ _ _ _ _ => rfl) (typedSame_irqSet rfl)
@[simp] theorem irqSet_timers (p : Nat) (m : Word) : (irqSet p m s).timers = s.timers :=
  typedSame_eq (g := State.timers) (fun _ _ _ _ _ _ _ => rfl) (typedSame_irqSet rfl)
@[simp] theorem irqSet_ports (p : Nat) (m : Word) : (irqSet p m s).ports = s.ports :=
  typedSame_eq (g := State.ports) (fun _ _ _ _ _ _ _ => rfl) (typedSame_irqSet rfl)
@[simp] theorem irqSet_cst (p : Nat) (m : Word) : (irqSet p m s).cst = s.cst :=
  typedSame_eq (g := State.cst) (fun _ _ _ _ _ _ _ => rfl) (typedSame_irqSet rfl)
@[simp] theorem irqSet_dma (p : Nat) (m : Word) : (irqSet p m s).dma = s.dma :=
  typedSame_eq (g := State.dma) (fun _ _ _ _ _ _ _ => rfl) (typedSame_irqSet rfl)
@[simp] theorem irqSet_pcie (p : Nat) (m : Word) : (irqSet p m s).pcie = s.pcie :=
  typedSame_eq (g := State.pcie) (fun _ _ _ _ _ _ _ => rfl) (typedSame_irqSet rfl)
@[simp] theorem irqSet_hoop (p : Nat) (m : Word) : (irqSet p m s).hoop = s.hoop :=
  typedSame_eq (g := State.hoop) (fun _ _ _ _ _ _ _ => rfl) (typedSame_irqSet rfl)
@[simp] theorem irqSet_boot (p : Nat) (m : Word) : (irqSet p m s).boot = s.boot :=
  typedSame_eq (g := State.boot) (fun _ _ _ _ _ _ _ => rfl) (typedSame_irqSet rfl)
@[simp] theorem irqSet_dbgAcc (p : Nat) (m : Word) : (irqSet p m s).dbgAcc = s.dbgAcc :=
  typedSame_eq (g := State.dbgAcc) (fun _ _ _ _ _ _ _ => rfl) (typedSame_irqSet rfl)
@[simp] theorem irqSet_up (p : Nat) (m : Word) : (irqSet p m s).up = s.up :=
  typedSame_eq (g := State.up) (fun _ _ _ _ _ _ _ => rfl) (typedSame_irqSet rfl)
@[simp] theorem irqSet_smp (p : Nat) (m : Word) : (irqSet p m s).smp = s.smp :=
  typedSame_eq (g := State.smp) (fun _ _ _ _ _ _ _ => rfl) (typedSame_irqSet rfl)
@[simp] theorem irqSet_repairs (p : Nat) (m : Word) : (irqSet p m s).repairs = s.repairs :=
  typedSame_eq (g := State.repairs) (fun _ _ _ _ _ _ _ => rfl) (typedSame_irqSet rfl)
@[simp] theorem irqSet_bias (p : Nat) (m : Word) : (irqSet p m s).bias = s.bias :=
  typedSame_eq (g := State.bias) (fun _ _ _ _ _ _ _ => rfl) (typedSame_irqSet rfl)
@[simp] theorem irqSet_pat (p : Nat) (m : Word) : (irqSet p m s).pat = s.pat :=
  typedSame_eq (g := State.pat) (fun _ _ _ _ _ _ _ => rfl) (typedSame_irqSet rfl)
@[simp] theorem irqSet_evm (p : Nat) (m : Word) : (irqSet p m s).evm = s.evm :=
  typedSame_eq (g := State.evm) (fun _ _ _ _ _ _ _ => rfl) (typedSame_irqSet rfl)
@[simp] theorem irqSet_softRst (p : Nat) (m : Word) : (irqSet p m s).softRst = s.softRst :=
  typedSame_eq (g := State.softRst) (fun _ _ _ _ _ _ _ => rfl) (typedSame_irqSet rfl)
@[simp] theorem irqSet_mck (p : Nat) (m : Word) : (irqSet p m s).mck = s.mck :=
  typedSame_eq (g := State.mck) (fun _ _ _ _ _ _ _ => rfl) (typedSame_irqSet rfl)

/-! ### irqBit: the parts beside registers, records and messages -/

@[simp] theorem irqBit_variant (p b : Nat) : (irqBit p b s).variant = s.variant :=
  typedSame_eq (g := State.variant) (fun _ _ _ _ _ _ _ => rfl) (typedSame_irqBit rfl)
@[simp] theorem irqBit_pending (p b : Nat) : (irqBit p b s).pending = s.pending :=
  typedSame_eq (g := State.pending) (fun _ _ _ _ _ _ _ => rfl) (typedSame_irqBit rfl)
@[simp] theorem irqBit_time (p b : Nat) : (irqBit p b s).time = s.time :=
  typedSame_eq (g := State.time) (fun _ _ _ _ _ _ _ => rfl) (typedSame_irqBit rfl)
@[simp] theorem irqBit_pll (p b : Nat) : (irqBit p b s).pll = s.pll :=
  typedSame_eq (g := State.pll) (fun _ _ _ _ _ _ _ => rfl) (typedSame_irqBit rfl)
@[simp] theorem irqBit_mem (p b : Nat) : (irqBit p b s).mem = s.mem :=
  typedSame_eq (g := State.mem) (fun _ _ _ _ _ _ _ => rfl) (typedSame_irqBit rfl)
@[simp] theorem irqBit_side (p b : Nat) : (irqBit p b s).side = s.side :=
  typedSame_eq (g := State.side) (fun _ _ _ _ _ _ _ => rfl) (typedSame_irqBit rfl)
@[simp] theorem irqBit_tiles (p b : Nat) : (irqBit p b s).tiles = s.tiles :=
  typedSame_eq (g := State.tiles) (fun _ _ _ _ _ _ _ => rfl) (typedSame_irqBit rfl)
@[simp] theorem irqBit_rdos (p b : Nat) : (irqBit p b s).rdos = s.rdos :=
  typedSame_eq (g := State.rdos) (fun _ _ _ _ _ _ _ => rfl) (typedSame_irqBit rfl)
@[simp] theorem irqBit_flux (p b : Nat) : (irqBit p b s).flux = s.flux :=
  typedSame_eq (g := State.flux) (fun _ _ _ _ _ _ _ => rfl) (typedSame_irqBit rfl)
@[simp] theorem irqBit_lastRead (p b : Nat) : (irqBit p b s).lastRead = s.lastRead :=
  typedSame_eq (g := State.lastRead) (fun _ _ _ _ _ _ _ => rfl) (typedSame_irqBit rfl)
@[simp] theorem irqBit_lastBytes (p b : Nat) : (irqBit p b s).lastBytes = s.lastBytes :=
  typedSame_eq (g := State.lastBytes) (fun _ _ _ _ _ _ _ => rfl) (typedSame_irqBit rfl)
@[simp] theorem irqBit_lastAbort (p b : Nat) : (irqBit p b s).lastAbort = s.lastAbort :=
  typedSame_eq (g := State.lastAbort) (fun _ _ _ _ _ _ _ => rfl) (typedSame_irqBit rfl)
@[simp] theorem irqBit_free (p b : Nat) : (irqBit p b s).free = s.free :=
  typedSame_eq (g := State.free) (fun _ _ _ _ _ _ _ => rfl) (typedSame_irqBit rfl)
@[simp] theorem irqBit_lines (p b : Nat) : (irqBit p b s).lines = s.lines :=
  typedSame_eq (g := State.lines) (fun _ _ _ _ _ _ _ => rfl) (typedSame_irqBit rfl)
@[simp] theorem irqBit_masters (p b : Nat) : (irqBit p b s).masters = s.masters :=
  typedSame_eq (g := State.masters) (fun _ _ _ _ _ _ _ => rfl) (typedSame_irqBit rfl)
@[simp] theorem irqBit_profiles (p b : Nat) : (irqBit p b s).profiles = s.profiles :=
  typedSame_eq (g := State.profiles) (fun _ _ _ _ _ _ _ => rfl) (typedSame_irqBit rfl)
@[simp] theorem irqBit_scrub (p b : Nat) : (irqBit p b s).scrub = s.scrub :=
  typedSame_eq (g := State.scrub) (fun _ _ _ _ _ _ _ => rfl) (typedSame_irqBit rfl)
@[simp] theorem irqBit_cal (p b : Nat) : (irqBit p b s).cal = s.cal :=
  typedSame_eq (g := State.cal) (fun _ _ _ _ _ _ _ => rfl) (typedSame_irqBit rfl)
@[simp] theorem irqBit_pubs (p b : Nat) : (irqBit p b s).pubs = s.pubs :=
  typedSame_eq (g := State.pubs) (fun _ _ _ _ _ _ _ => rfl) (typedSame_irqBit rfl)
@[simp] theorem irqBit_slots (p b : Nat) : (irqBit p b s).slots = s.slots :=
  typedSame_eq (g := State.slots) (fun _ _ _ _ _ _ _ => rfl) (typedSame_irqBit rfl)
@[simp] theorem irqBit_once (p b : Nat) : (irqBit p b s).once = s.once :=
  typedSame_eq (g := State.once) (fun _ _ _ _ _ _ _ => rfl) (typedSame_irqBit rfl)
@[simp] theorem irqBit_patches (p b : Nat) : (irqBit p b s).patches = s.patches :=
  typedSame_eq (g := State.patches) (fun _ _ _ _ _ _ _ => rfl) (typedSame_irqBit rfl)
@[simp] theorem irqBit_esc (p b : Nat) : (irqBit p b s).esc = s.esc :=
  typedSame_eq (g := State.esc) (fun _ _ _ _ _ _ _ => rfl) (typedSame_irqBit rfl)
@[simp] theorem irqBit_thaw (p b : Nat) : (irqBit p b s).thaw = s.thaw :=
  typedSame_eq (g := State.thaw) (fun _ _ _ _ _ _ _ => rfl) (typedSame_irqBit rfl)
@[simp] theorem irqBit_timers (p b : Nat) : (irqBit p b s).timers = s.timers :=
  typedSame_eq (g := State.timers) (fun _ _ _ _ _ _ _ => rfl) (typedSame_irqBit rfl)
@[simp] theorem irqBit_ports (p b : Nat) : (irqBit p b s).ports = s.ports :=
  typedSame_eq (g := State.ports) (fun _ _ _ _ _ _ _ => rfl) (typedSame_irqBit rfl)
@[simp] theorem irqBit_cst (p b : Nat) : (irqBit p b s).cst = s.cst :=
  typedSame_eq (g := State.cst) (fun _ _ _ _ _ _ _ => rfl) (typedSame_irqBit rfl)
@[simp] theorem irqBit_dma (p b : Nat) : (irqBit p b s).dma = s.dma :=
  typedSame_eq (g := State.dma) (fun _ _ _ _ _ _ _ => rfl) (typedSame_irqBit rfl)
@[simp] theorem irqBit_pcie (p b : Nat) : (irqBit p b s).pcie = s.pcie :=
  typedSame_eq (g := State.pcie) (fun _ _ _ _ _ _ _ => rfl) (typedSame_irqBit rfl)
@[simp] theorem irqBit_hoop (p b : Nat) : (irqBit p b s).hoop = s.hoop :=
  typedSame_eq (g := State.hoop) (fun _ _ _ _ _ _ _ => rfl) (typedSame_irqBit rfl)
@[simp] theorem irqBit_boot (p b : Nat) : (irqBit p b s).boot = s.boot :=
  typedSame_eq (g := State.boot) (fun _ _ _ _ _ _ _ => rfl) (typedSame_irqBit rfl)
@[simp] theorem irqBit_dbgAcc (p b : Nat) : (irqBit p b s).dbgAcc = s.dbgAcc :=
  typedSame_eq (g := State.dbgAcc) (fun _ _ _ _ _ _ _ => rfl) (typedSame_irqBit rfl)
@[simp] theorem irqBit_up (p b : Nat) : (irqBit p b s).up = s.up :=
  typedSame_eq (g := State.up) (fun _ _ _ _ _ _ _ => rfl) (typedSame_irqBit rfl)
@[simp] theorem irqBit_smp (p b : Nat) : (irqBit p b s).smp = s.smp :=
  typedSame_eq (g := State.smp) (fun _ _ _ _ _ _ _ => rfl) (typedSame_irqBit rfl)
@[simp] theorem irqBit_repairs (p b : Nat) : (irqBit p b s).repairs = s.repairs :=
  typedSame_eq (g := State.repairs) (fun _ _ _ _ _ _ _ => rfl) (typedSame_irqBit rfl)
@[simp] theorem irqBit_bias (p b : Nat) : (irqBit p b s).bias = s.bias :=
  typedSame_eq (g := State.bias) (fun _ _ _ _ _ _ _ => rfl) (typedSame_irqBit rfl)
@[simp] theorem irqBit_pat (p b : Nat) : (irqBit p b s).pat = s.pat :=
  typedSame_eq (g := State.pat) (fun _ _ _ _ _ _ _ => rfl) (typedSame_irqBit rfl)
@[simp] theorem irqBit_evm (p b : Nat) : (irqBit p b s).evm = s.evm :=
  typedSame_eq (g := State.evm) (fun _ _ _ _ _ _ _ => rfl) (typedSame_irqBit rfl)
@[simp] theorem irqBit_softRst (p b : Nat) : (irqBit p b s).softRst = s.softRst :=
  typedSame_eq (g := State.softRst) (fun _ _ _ _ _ _ _ => rfl) (typedSame_irqBit rfl)
@[simp] theorem irqBit_mck (p b : Nat) : (irqBit p b s).mck = s.mck :=
  typedSame_eq (g := State.mck) (fun _ _ _ _ _ _ _ => rfl) (typedSame_irqBit rfl)

/-! ### errRec: the parts beside registers, records and messages -/

@[simp] theorem errRec_variant (p c v u i a : Nat) : (errRec p c v u i a s).variant = s.variant :=
  typedSame_eq (g := State.variant) (fun _ _ _ _ _ _ _ => rfl) (typedSame_errRec rfl)
@[simp] theorem errRec_pending (p c v u i a : Nat) : (errRec p c v u i a s).pending = s.pending :=
  typedSame_eq (g := State.pending) (fun _ _ _ _ _ _ _ => rfl) (typedSame_errRec rfl)
@[simp] theorem errRec_time (p c v u i a : Nat) : (errRec p c v u i a s).time = s.time :=
  typedSame_eq (g := State.time) (fun _ _ _ _ _ _ _ => rfl) (typedSame_errRec rfl)
@[simp] theorem errRec_pll (p c v u i a : Nat) : (errRec p c v u i a s).pll = s.pll :=
  typedSame_eq (g := State.pll) (fun _ _ _ _ _ _ _ => rfl) (typedSame_errRec rfl)
@[simp] theorem errRec_mem (p c v u i a : Nat) : (errRec p c v u i a s).mem = s.mem :=
  typedSame_eq (g := State.mem) (fun _ _ _ _ _ _ _ => rfl) (typedSame_errRec rfl)
@[simp] theorem errRec_side (p c v u i a : Nat) : (errRec p c v u i a s).side = s.side :=
  typedSame_eq (g := State.side) (fun _ _ _ _ _ _ _ => rfl) (typedSame_errRec rfl)
@[simp] theorem errRec_tiles (p c v u i a : Nat) : (errRec p c v u i a s).tiles = s.tiles :=
  typedSame_eq (g := State.tiles) (fun _ _ _ _ _ _ _ => rfl) (typedSame_errRec rfl)
@[simp] theorem errRec_rdos (p c v u i a : Nat) : (errRec p c v u i a s).rdos = s.rdos :=
  typedSame_eq (g := State.rdos) (fun _ _ _ _ _ _ _ => rfl) (typedSame_errRec rfl)
@[simp] theorem errRec_flux (p c v u i a : Nat) : (errRec p c v u i a s).flux = s.flux :=
  typedSame_eq (g := State.flux) (fun _ _ _ _ _ _ _ => rfl) (typedSame_errRec rfl)
@[simp] theorem errRec_lastRead (p c v u i a : Nat) : (errRec p c v u i a s).lastRead = s.lastRead :=
  typedSame_eq (g := State.lastRead) (fun _ _ _ _ _ _ _ => rfl) (typedSame_errRec rfl)
@[simp] theorem errRec_lastBytes (p c v u i a : Nat) : (errRec p c v u i a s).lastBytes = s.lastBytes :=
  typedSame_eq (g := State.lastBytes) (fun _ _ _ _ _ _ _ => rfl) (typedSame_errRec rfl)
@[simp] theorem errRec_lastAbort (p c v u i a : Nat) : (errRec p c v u i a s).lastAbort = s.lastAbort :=
  typedSame_eq (g := State.lastAbort) (fun _ _ _ _ _ _ _ => rfl) (typedSame_errRec rfl)
@[simp] theorem errRec_free (p c v u i a : Nat) : (errRec p c v u i a s).free = s.free :=
  typedSame_eq (g := State.free) (fun _ _ _ _ _ _ _ => rfl) (typedSame_errRec rfl)
@[simp] theorem errRec_lines (p c v u i a : Nat) : (errRec p c v u i a s).lines = s.lines :=
  typedSame_eq (g := State.lines) (fun _ _ _ _ _ _ _ => rfl) (typedSame_errRec rfl)
@[simp] theorem errRec_masters (p c v u i a : Nat) : (errRec p c v u i a s).masters = s.masters :=
  typedSame_eq (g := State.masters) (fun _ _ _ _ _ _ _ => rfl) (typedSame_errRec rfl)
@[simp] theorem errRec_profiles (p c v u i a : Nat) : (errRec p c v u i a s).profiles = s.profiles :=
  typedSame_eq (g := State.profiles) (fun _ _ _ _ _ _ _ => rfl) (typedSame_errRec rfl)
@[simp] theorem errRec_scrub (p c v u i a : Nat) : (errRec p c v u i a s).scrub = s.scrub :=
  typedSame_eq (g := State.scrub) (fun _ _ _ _ _ _ _ => rfl) (typedSame_errRec rfl)
@[simp] theorem errRec_cal (p c v u i a : Nat) : (errRec p c v u i a s).cal = s.cal :=
  typedSame_eq (g := State.cal) (fun _ _ _ _ _ _ _ => rfl) (typedSame_errRec rfl)
@[simp] theorem errRec_pubs (p c v u i a : Nat) : (errRec p c v u i a s).pubs = s.pubs :=
  typedSame_eq (g := State.pubs) (fun _ _ _ _ _ _ _ => rfl) (typedSame_errRec rfl)
@[simp] theorem errRec_slots (p c v u i a : Nat) : (errRec p c v u i a s).slots = s.slots :=
  typedSame_eq (g := State.slots) (fun _ _ _ _ _ _ _ => rfl) (typedSame_errRec rfl)
@[simp] theorem errRec_once (p c v u i a : Nat) : (errRec p c v u i a s).once = s.once :=
  typedSame_eq (g := State.once) (fun _ _ _ _ _ _ _ => rfl) (typedSame_errRec rfl)
@[simp] theorem errRec_patches (p c v u i a : Nat) : (errRec p c v u i a s).patches = s.patches :=
  typedSame_eq (g := State.patches) (fun _ _ _ _ _ _ _ => rfl) (typedSame_errRec rfl)
@[simp] theorem errRec_esc (p c v u i a : Nat) : (errRec p c v u i a s).esc = s.esc :=
  typedSame_eq (g := State.esc) (fun _ _ _ _ _ _ _ => rfl) (typedSame_errRec rfl)
@[simp] theorem errRec_thaw (p c v u i a : Nat) : (errRec p c v u i a s).thaw = s.thaw :=
  typedSame_eq (g := State.thaw) (fun _ _ _ _ _ _ _ => rfl) (typedSame_errRec rfl)
@[simp] theorem errRec_timers (p c v u i a : Nat) : (errRec p c v u i a s).timers = s.timers :=
  typedSame_eq (g := State.timers) (fun _ _ _ _ _ _ _ => rfl) (typedSame_errRec rfl)
@[simp] theorem errRec_ports (p c v u i a : Nat) : (errRec p c v u i a s).ports = s.ports :=
  typedSame_eq (g := State.ports) (fun _ _ _ _ _ _ _ => rfl) (typedSame_errRec rfl)
@[simp] theorem errRec_cst (p c v u i a : Nat) : (errRec p c v u i a s).cst = s.cst :=
  typedSame_eq (g := State.cst) (fun _ _ _ _ _ _ _ => rfl) (typedSame_errRec rfl)
@[simp] theorem errRec_dma (p c v u i a : Nat) : (errRec p c v u i a s).dma = s.dma :=
  typedSame_eq (g := State.dma) (fun _ _ _ _ _ _ _ => rfl) (typedSame_errRec rfl)
@[simp] theorem errRec_pcie (p c v u i a : Nat) : (errRec p c v u i a s).pcie = s.pcie :=
  typedSame_eq (g := State.pcie) (fun _ _ _ _ _ _ _ => rfl) (typedSame_errRec rfl)
@[simp] theorem errRec_hoop (p c v u i a : Nat) : (errRec p c v u i a s).hoop = s.hoop :=
  typedSame_eq (g := State.hoop) (fun _ _ _ _ _ _ _ => rfl) (typedSame_errRec rfl)
@[simp] theorem errRec_boot (p c v u i a : Nat) : (errRec p c v u i a s).boot = s.boot :=
  typedSame_eq (g := State.boot) (fun _ _ _ _ _ _ _ => rfl) (typedSame_errRec rfl)
@[simp] theorem errRec_dbgAcc (p c v u i a : Nat) : (errRec p c v u i a s).dbgAcc = s.dbgAcc :=
  typedSame_eq (g := State.dbgAcc) (fun _ _ _ _ _ _ _ => rfl) (typedSame_errRec rfl)
@[simp] theorem errRec_up (p c v u i a : Nat) : (errRec p c v u i a s).up = s.up :=
  typedSame_eq (g := State.up) (fun _ _ _ _ _ _ _ => rfl) (typedSame_errRec rfl)
@[simp] theorem errRec_smp (p c v u i a : Nat) : (errRec p c v u i a s).smp = s.smp :=
  typedSame_eq (g := State.smp) (fun _ _ _ _ _ _ _ => rfl) (typedSame_errRec rfl)
@[simp] theorem errRec_repairs (p c v u i a : Nat) : (errRec p c v u i a s).repairs = s.repairs :=
  typedSame_eq (g := State.repairs) (fun _ _ _ _ _ _ _ => rfl) (typedSame_errRec rfl)
@[simp] theorem errRec_bias (p c v u i a : Nat) : (errRec p c v u i a s).bias = s.bias :=
  typedSame_eq (g := State.bias) (fun _ _ _ _ _ _ _ => rfl) (typedSame_errRec rfl)
@[simp] theorem errRec_pat (p c v u i a : Nat) : (errRec p c v u i a s).pat = s.pat :=
  typedSame_eq (g := State.pat) (fun _ _ _ _ _ _ _ => rfl) (typedSame_errRec rfl)
@[simp] theorem errRec_evm (p c v u i a : Nat) : (errRec p c v u i a s).evm = s.evm :=
  typedSame_eq (g := State.evm) (fun _ _ _ _ _ _ _ => rfl) (typedSame_errRec rfl)
@[simp] theorem errRec_softRst (p c v u i a : Nat) : (errRec p c v u i a s).softRst = s.softRst :=
  typedSame_eq (g := State.softRst) (fun _ _ _ _ _ _ _ => rfl) (typedSame_errRec rfl)
@[simp] theorem errRec_mck (p c v u i a : Nat) : (errRec p c v u i a s).mck = s.mck :=
  typedSame_eq (g := State.mck) (fun _ _ _ _ _ _ _ => rfl) (typedSame_errRec rfl)

/-! ### cfgBusy: the parts beside registers, records and messages -/

@[simp] theorem cfgBusy_variant (p : Nat) : (cfgBusy p s).variant = s.variant :=
  typedSame_eq (g := State.variant) (fun _ _ _ _ _ _ _ => rfl) (typedSame_cfgBusy rfl)
@[simp] theorem cfgBusy_pending (p : Nat) : (cfgBusy p s).pending = s.pending :=
  typedSame_eq (g := State.pending) (fun _ _ _ _ _ _ _ => rfl) (typedSame_cfgBusy rfl)
@[simp] theorem cfgBusy_time (p : Nat) : (cfgBusy p s).time = s.time :=
  typedSame_eq (g := State.time) (fun _ _ _ _ _ _ _ => rfl) (typedSame_cfgBusy rfl)
@[simp] theorem cfgBusy_pll (p : Nat) : (cfgBusy p s).pll = s.pll :=
  typedSame_eq (g := State.pll) (fun _ _ _ _ _ _ _ => rfl) (typedSame_cfgBusy rfl)
@[simp] theorem cfgBusy_mem (p : Nat) : (cfgBusy p s).mem = s.mem :=
  typedSame_eq (g := State.mem) (fun _ _ _ _ _ _ _ => rfl) (typedSame_cfgBusy rfl)
@[simp] theorem cfgBusy_side (p : Nat) : (cfgBusy p s).side = s.side :=
  typedSame_eq (g := State.side) (fun _ _ _ _ _ _ _ => rfl) (typedSame_cfgBusy rfl)
@[simp] theorem cfgBusy_tiles (p : Nat) : (cfgBusy p s).tiles = s.tiles :=
  typedSame_eq (g := State.tiles) (fun _ _ _ _ _ _ _ => rfl) (typedSame_cfgBusy rfl)
@[simp] theorem cfgBusy_rdos (p : Nat) : (cfgBusy p s).rdos = s.rdos :=
  typedSame_eq (g := State.rdos) (fun _ _ _ _ _ _ _ => rfl) (typedSame_cfgBusy rfl)
@[simp] theorem cfgBusy_flux (p : Nat) : (cfgBusy p s).flux = s.flux :=
  typedSame_eq (g := State.flux) (fun _ _ _ _ _ _ _ => rfl) (typedSame_cfgBusy rfl)
@[simp] theorem cfgBusy_lastRead (p : Nat) : (cfgBusy p s).lastRead = s.lastRead :=
  typedSame_eq (g := State.lastRead) (fun _ _ _ _ _ _ _ => rfl) (typedSame_cfgBusy rfl)
@[simp] theorem cfgBusy_lastBytes (p : Nat) : (cfgBusy p s).lastBytes = s.lastBytes :=
  typedSame_eq (g := State.lastBytes) (fun _ _ _ _ _ _ _ => rfl) (typedSame_cfgBusy rfl)
@[simp] theorem cfgBusy_lastAbort (p : Nat) : (cfgBusy p s).lastAbort = s.lastAbort :=
  typedSame_eq (g := State.lastAbort) (fun _ _ _ _ _ _ _ => rfl) (typedSame_cfgBusy rfl)
@[simp] theorem cfgBusy_free (p : Nat) : (cfgBusy p s).free = s.free :=
  typedSame_eq (g := State.free) (fun _ _ _ _ _ _ _ => rfl) (typedSame_cfgBusy rfl)
@[simp] theorem cfgBusy_lines (p : Nat) : (cfgBusy p s).lines = s.lines :=
  typedSame_eq (g := State.lines) (fun _ _ _ _ _ _ _ => rfl) (typedSame_cfgBusy rfl)
@[simp] theorem cfgBusy_masters (p : Nat) : (cfgBusy p s).masters = s.masters :=
  typedSame_eq (g := State.masters) (fun _ _ _ _ _ _ _ => rfl) (typedSame_cfgBusy rfl)
@[simp] theorem cfgBusy_profiles (p : Nat) : (cfgBusy p s).profiles = s.profiles :=
  typedSame_eq (g := State.profiles) (fun _ _ _ _ _ _ _ => rfl) (typedSame_cfgBusy rfl)
@[simp] theorem cfgBusy_scrub (p : Nat) : (cfgBusy p s).scrub = s.scrub :=
  typedSame_eq (g := State.scrub) (fun _ _ _ _ _ _ _ => rfl) (typedSame_cfgBusy rfl)
@[simp] theorem cfgBusy_cal (p : Nat) : (cfgBusy p s).cal = s.cal :=
  typedSame_eq (g := State.cal) (fun _ _ _ _ _ _ _ => rfl) (typedSame_cfgBusy rfl)
@[simp] theorem cfgBusy_pubs (p : Nat) : (cfgBusy p s).pubs = s.pubs :=
  typedSame_eq (g := State.pubs) (fun _ _ _ _ _ _ _ => rfl) (typedSame_cfgBusy rfl)
@[simp] theorem cfgBusy_slots (p : Nat) : (cfgBusy p s).slots = s.slots :=
  typedSame_eq (g := State.slots) (fun _ _ _ _ _ _ _ => rfl) (typedSame_cfgBusy rfl)
@[simp] theorem cfgBusy_once (p : Nat) : (cfgBusy p s).once = s.once :=
  typedSame_eq (g := State.once) (fun _ _ _ _ _ _ _ => rfl) (typedSame_cfgBusy rfl)
@[simp] theorem cfgBusy_patches (p : Nat) : (cfgBusy p s).patches = s.patches :=
  typedSame_eq (g := State.patches) (fun _ _ _ _ _ _ _ => rfl) (typedSame_cfgBusy rfl)
@[simp] theorem cfgBusy_esc (p : Nat) : (cfgBusy p s).esc = s.esc :=
  typedSame_eq (g := State.esc) (fun _ _ _ _ _ _ _ => rfl) (typedSame_cfgBusy rfl)
@[simp] theorem cfgBusy_thaw (p : Nat) : (cfgBusy p s).thaw = s.thaw :=
  typedSame_eq (g := State.thaw) (fun _ _ _ _ _ _ _ => rfl) (typedSame_cfgBusy rfl)
@[simp] theorem cfgBusy_timers (p : Nat) : (cfgBusy p s).timers = s.timers :=
  typedSame_eq (g := State.timers) (fun _ _ _ _ _ _ _ => rfl) (typedSame_cfgBusy rfl)
@[simp] theorem cfgBusy_ports (p : Nat) : (cfgBusy p s).ports = s.ports :=
  typedSame_eq (g := State.ports) (fun _ _ _ _ _ _ _ => rfl) (typedSame_cfgBusy rfl)
@[simp] theorem cfgBusy_cst (p : Nat) : (cfgBusy p s).cst = s.cst :=
  typedSame_eq (g := State.cst) (fun _ _ _ _ _ _ _ => rfl) (typedSame_cfgBusy rfl)
@[simp] theorem cfgBusy_dma (p : Nat) : (cfgBusy p s).dma = s.dma :=
  typedSame_eq (g := State.dma) (fun _ _ _ _ _ _ _ => rfl) (typedSame_cfgBusy rfl)
@[simp] theorem cfgBusy_pcie (p : Nat) : (cfgBusy p s).pcie = s.pcie :=
  typedSame_eq (g := State.pcie) (fun _ _ _ _ _ _ _ => rfl) (typedSame_cfgBusy rfl)
@[simp] theorem cfgBusy_hoop (p : Nat) : (cfgBusy p s).hoop = s.hoop :=
  typedSame_eq (g := State.hoop) (fun _ _ _ _ _ _ _ => rfl) (typedSame_cfgBusy rfl)
@[simp] theorem cfgBusy_boot (p : Nat) : (cfgBusy p s).boot = s.boot :=
  typedSame_eq (g := State.boot) (fun _ _ _ _ _ _ _ => rfl) (typedSame_cfgBusy rfl)
@[simp] theorem cfgBusy_dbgAcc (p : Nat) : (cfgBusy p s).dbgAcc = s.dbgAcc :=
  typedSame_eq (g := State.dbgAcc) (fun _ _ _ _ _ _ _ => rfl) (typedSame_cfgBusy rfl)
@[simp] theorem cfgBusy_up (p : Nat) : (cfgBusy p s).up = s.up :=
  typedSame_eq (g := State.up) (fun _ _ _ _ _ _ _ => rfl) (typedSame_cfgBusy rfl)
@[simp] theorem cfgBusy_smp (p : Nat) : (cfgBusy p s).smp = s.smp :=
  typedSame_eq (g := State.smp) (fun _ _ _ _ _ _ _ => rfl) (typedSame_cfgBusy rfl)
@[simp] theorem cfgBusy_repairs (p : Nat) : (cfgBusy p s).repairs = s.repairs :=
  typedSame_eq (g := State.repairs) (fun _ _ _ _ _ _ _ => rfl) (typedSame_cfgBusy rfl)
@[simp] theorem cfgBusy_bias (p : Nat) : (cfgBusy p s).bias = s.bias :=
  typedSame_eq (g := State.bias) (fun _ _ _ _ _ _ _ => rfl) (typedSame_cfgBusy rfl)
@[simp] theorem cfgBusy_pat (p : Nat) : (cfgBusy p s).pat = s.pat :=
  typedSame_eq (g := State.pat) (fun _ _ _ _ _ _ _ => rfl) (typedSame_cfgBusy rfl)
@[simp] theorem cfgBusy_evm (p : Nat) : (cfgBusy p s).evm = s.evm :=
  typedSame_eq (g := State.evm) (fun _ _ _ _ _ _ _ => rfl) (typedSame_cfgBusy rfl)
@[simp] theorem cfgBusy_softRst (p : Nat) : (cfgBusy p s).softRst = s.softRst :=
  typedSame_eq (g := State.softRst) (fun _ _ _ _ _ _ _ => rfl) (typedSame_cfgBusy rfl)
@[simp] theorem cfgBusy_mck (p : Nat) : (cfgBusy p s).mck = s.mck :=
  typedSame_eq (g := State.mck) (fun _ _ _ _ _ _ _ => rfl) (typedSame_cfgBusy rfl)

end Sys2Proof.Machine
end

