-- ==== Sys2Proof/Laws/Memory.lean ====
section
/-!
SUPPORT. Laws of the memories: a byte reads as the last value written, a write leaves every other byte alone, and every memory
operation keeps the canonical form.
-/
namespace Sys2Proof.Machine

variable {s : State}

/-! ### The memory behind BAR2 -/

@[simp] theorem rdByte_wrByte (a : Nat) (v : Byte) (s : State) : rdByte (wrByte a v s) a = v := smGet_smPut_same _ _ _ _

theorem rdByte_wrByte_other {a b : Nat} (h : b ≠ a) (v : Byte) (s : State) : rdByte (wrByte a v s) b = rdByte s b :=
  smGet_smPut_other _ _ h _ _

/-- A string of bytes leaves the bytes outside it alone. -/
theorem rdByte_wrBytes_outside {a x : Nat} {bs : List Byte} (h : x < a ∨ a + bs.length ≤ x) :
    rdByte (wrBytes a bs s) x = rdByte s x := by
  induction bs generalizing a s with
  | nil => rfl
  | cons v l ih =>
    simp only [List.length_cons] at h
    have hx : x ≠ a := by omega
    simp only [wrBytes]
    rw [ih (by omega), rdByte_wrByte_other hx]

/-- A string of bytes written reads back. -/
theorem rdByte_wrBytes_inside {a i : Nat} {bs : List Byte} (h : i < bs.length) :
    rdByte (wrBytes a bs s) (a + i) = bs.getD i 0#8 := by
  induction bs generalizing a i s with
  | nil => simp at h
  | cons v l ih =>
    simp only [wrBytes]
    cases i with
    | zero => rw [Nat.add_zero, rdByte_wrBytes_outside (by omega)]; simp
    | succ i =>
      have := ih (s := wrByte a v s) (a := a + 1) (i := i) (by simpa using h)
      rw [show a + (i + 1) = a + 1 + i by omega, this]; simp

/-! ### The canonical form -/

theorem memory_wf_reset : Memory.wf State.reset.mem = true := rfl

theorem memory_wf_wrByte (h : Memory.wf s.mem = true) (a : Nat) (v : Byte) : Memory.wf (wrByte a v s).mem = true :=
  smWf_smPut (d := fun _ => 0#8) h

theorem memory_wf_wrBytes (h : Memory.wf s.mem = true) (a : Nat) (bs : List Byte) : Memory.wf (wrBytes a bs s).mem = true := by
  induction bs generalizing a s with
  | nil => exact h
  | cons v l ih => exact ih (memory_wf_wrByte h a v) (a + 1)

theorem inv_storeLine (h : s.Inv) (req a : Nat) (bs : List Byte) : (storeLine req a bs s).Inv := (keep_storeLine (keep_refl s)).inv h

theorem inv_storeMem (h : s.Inv) (req a : Nat) (bs : List Byte) : (storeMem req a bs s).Inv := (keep_storeMem (keep_refl s)).inv h

theorem inv_recoverLine (h : s.Inv) (a : Nat) (bs : List Byte) : (recoverLine a bs s).Inv := (keep_recoverLine (keep_refl s)).inv h

/-! ### The NVS and the boot flash -/

theorem nvsByte_nvsPut_outside {a x : Nat} {bs : List Byte} (h : x < a ∨ a + bs.length ≤ x) :
    nvsByte (nvsPut a bs s) x = nvsByte s x := by
  induction bs generalizing a s with
  | nil => rfl
  | cons v l ih =>
    simp only [List.length_cons] at h
    have hx : x ≠ a := by omega
    simp only [nvsPut]
    rw [ih (by omega)]
    exact smGet_smPut_other _ _ hx _ _

theorem wf_nvsPut (h : smWf (fun _ => 0#8) s.hoop.nvs = true) (a : Nat) (bs : List Byte) :
    smWf (fun _ => 0#8) (nvsPut a bs s).hoop.nvs = true := by
  induction bs generalizing a s with
  | nil => exact h
  | cons v l ih => exact ih (smWf_smPut (d := fun _ => 0#8) h) (a + 1)

theorem wf_flashPut (h : smWf (fun _ => 0xFF#8) s.hoop.flash = true) (a : Nat) (bs : List Byte) :
    smWf (fun _ => 0xFF#8) (flashPut a bs s).hoop.flash = true := by
  induction bs generalizing a s with
  | nil => exact h
  | cons v l ih => exact ih (smWf_smPut (d := fun _ => 0xFF#8) h) (a + 1)

end Sys2Proof.Machine
end

