-- ==== Sys2Proof/WellFormed.lean ====
section
/-!
DEFINITION. Which commands are well formed: every operand within the range that its register field or its unit
numbering gives it. Presence on the part at hand is no matter of form: the meanings check it.
-/
namespace Sys2Proof

/-- The command's operands are within their ranges. -/
def Instr.wf : Instr → Bool
  | .refOkQualify => true
  | .refclkFault => true
  | .pllLock => true
  | .lossOfLock => true
  | .holdoverRampDone => true
  | .pllRelock _ => true
  | .syncEdge src _ => decide (src < 3)
  | .softSync _ => true
  | .syncArm _ => true
  | .epoch => true
  | .timeLoRead _ _ => true
  | .regWrite _ off _ be (.write hi) => decide (off < 2 ^ 24) && decide (off % 4 = 0) && decide (0 < be) && decide (be < 16) && (if hi.isNone then true else decide (off % 8 = 0) && decide (be = 15))
  | .regWrite _ off _ _ (.read n) => decide (off < 2 ^ 24) && decide (n = 1 ∨ n = 2 ∨ n = 4 ∨ n = 8) && decide (off % n = 0)
  | .msixUnmask v => decide (v < 256)
  | .softReset _ p => decide (p < 0x3A)
  | .softResetEnd p => decide (p < 0x3A)
  | .freezeSet _ p => decide (p < 0x3A)
  | .freezeClear _ p => decide (p < 0x3A)
  | .blockDisable _ p => decide (p < 0x3A)
  | .irqForce _ p _ => decide (p < 0x3A)
  | .errPop _ p => decide (p < 0x3A)
  | .ownerWrite _ p v => decide (p < 0x3A) && decide (v < 4)
  | .lockSet _ p _ _ => decide (p < 0x3A)
  | .tmbGo _ b => decide (b < 32)
  | .tmbRunStart b => decide (b < 32)
  | .tmbStop _ b => decide (b < 32)
  | .tmbAbort _ b => decide (b < 32)
  | .tileStopping b => decide (b < 32)
  | .stopRampDone b => decide (b < 32)
  | .wordIssue b => decide (b < 32)
  | .wordRelease b => decide (b < 32)
  | .shotBoundary b => decide (b < 32)
  | .declaredGap b => decide (b < 32)
  | .pulseStart b _ => decide (b < 32)
  | .frameAdd b => decide (b < 24)
  | .frameSet b => decide (b < 24)
  | .frameCadd b => decide (b < 24)
  | .loopLoad b => decide (b < 32)
  | .loopDec b => decide (b < 32)
  | .loopReload b => decide (b < 32)
  | .branch b => decide (b < 32)
  | .stopWord b => decide (b < 32)
  | .tulleArm b => decide (b < 32)
  | .fapply b => decide (b < 32)
  | .freset b => decide (b < 16)
  | .flipx b => decide (b < 16)
  | .flipz b => decide (b < 16)
  | .tulleWait b => decide (b < 32)
  | .picotMark b => decide (b < 32)
  | .keyDeadline b => decide (b < 32)
  | .undrLostEval b => decide (b < 32)
  | .strmFillWrite _ b k v => decide (b < 32) && decide (k < 8) && decide (v < 2 ^ 32)
  | .strmCfgWrite _ b k _ => decide (b < 32) && decide (k < 8)
  | .streamUnitFetch b => decide (b < 32)
  | .acq b => decide (16 ≤ b) && decide (b < 24)
  | .windowOpen b t => decide (16 ≤ b) && decide (b < 24) && decide (t < 32)
  | .windowClose b t codes => decide (16 ≤ b) && decide (b < 24) && decide (t < 32) && decide (codes.length ≤ 66080)
      && codes.all (fun c => decide (-2048 ≤ c) && decide (c ≤ 2047))
  | .unmix b t => decide (16 ≤ b) && decide (b < 24) && decide (t < 32)
  | .discrimination b t => decide (16 ≤ b) && decide (b < 24) && decide (t < 32)
  | .resRpWrite _ b v => decide (16 ≤ b) && decide (b < 24) && decide (v < 2 ^ 32)
  | .accCntRead _ b => decide (16 ≤ b) && decide (b < 24)
  | .histRead _ b n => decide (16 ≤ b) && decide (b < 24) && decide (n < 4)
  | .statClrAll _ b => decide (16 ≤ b) && decide (b < 24)
  | .chanCoefRecompute b bs => decide (16 ≤ b) && decide (b < 24) && decide (bs.length ≤ 0x840)
  | .unmixCfgWrite _ b _ => decide (16 ≤ b) && decide (b < 24)
  | .unmixLoadComplete b => decide (16 ≤ b) && decide (b < 24)
  | .outCfgWrite _ b k _ => decide (24 ≤ b) && decide (b < 32) && decide (k < 16)
  | .corrLoadComplete b k => decide (24 ≤ b) && decide (b < 32) && decide (k < 16)
  | .outShort b k => decide (24 ≤ b) && decide (b < 32) && decide (k < 16)
  | .decisionDelivery slot => decide (slot < 512)
  | .routeWithdraw slot => decide (slot < 512)
  | .roundTimeout p => decide (p < 8)
  | .darnerPublish p => decide (p < 8)
  | .patchClr _ p => decide (p < 8)
  | .escPop _ => true
  | .portTrain _ n _ => decide (n < 8)
  | .laneBlockLock n x => decide (n < 8) && decide (x.lane < 2)
  | .jodexLossOfLock n lanes cause =>
    decide (n < 8) && decide (0 < lanes) && decide (lanes < 4) && (match cause with | .headers bad => decide (bad < 2 ^ 64) | _ => true)
  | .trainBlockRx n lane blk _ _ _ at_ _ =>
    decide (n < 8) && decide (lane < 2) && decide (blk < 2) && decide (at_.state < 8) && decide (at_.ctr < 65536)
  | .modeTimeout n => decide (n < 8)
  | .frameMarkerRx n lane _ peer seq credit _ _ _ => decide (n < 8) && decide (peer.port < 8) && decide (lane < 2) && decide (seq < 65536) && decide (seq % 16 = 0) && decide (credit ≤ 4)
  | .decisionBlockRx n lane hdr pay =>
    decide (n < 8) && decide (lane < 2) && decide (hdr < 4) && decide (pay.hist < 2 ^ 58) && decide (pay.line < 2 ^ 64)
  | .decisionRelease n => decide (n < 8)
  | .unknownBlockRx x => decide (x.port < 8) && decide (x.lane < 2) && decide (x.hdr < 4)
  | .portActivate _ n => decide (n < 8)
  | .trainTimeout n _ => decide (n < 8)
  | .trainBackoff n => decide (n < 8)
  | .loopStampRx n id dep arr => decide (n < 8) && decide (id < 128) && decide (dep < 2 ^ 48) && decide (arr < 2 ^ 48)
  | .loopReportRx n val => decide (n < 8) && decide (val < 2 ^ 48)
  | .loopStampSend n id => decide (n < 8) && decide (id < 128)
  | .timeBlockRx n val => decide (n < 8) && decide (val < 2 ^ 56)
  | .mgmtFragmentRx n _ _ chan bytes => decide (n < 8) && decide (chan < 8) && decide (1 ≤ bytes.length) && decide (bytes.length ≤ 6)
  | .fillerRx n _ => decide (n < 8)
  | .idleEnterReq _ n => decide (n < 8)
  | .idleEnterRx n => decide (n < 8)
  | .idleExit _ n => decide (n < 8)
  | .marginLow n lane m => decide (n < 8) && decide (lane < 2) && decide (m < 64)
  | .helloSend => true
  | .helloRx n => decide (n < 8)
  | .lsaFlood => true
  | .lsaRx n => decide (n < 8)
  | .topoAgeOut uid => decide (uid < 2 ^ 64)
  | .numAssign => true
  | .rqReserve _ _ _ => true
  | .rqRelease _ => true
  | .reserveRx n => decide (n < 8)
  | .resAckRx n => decide (n < 8)
  | .resNakRx n => decide (n < 8)
  | .commitRx n => decide (n < 8)
  | .releaseRx n => decide (n < 8)
  | .withdrawRx n => decide (n < 8)
  | .reserveTimeout key => decide (key < 514)
  | .tentativeExpire route => decide (route < 2 ^ 32)
  | .skewReportRx n => decide (n < 8)
  | .cstLeave _ => true
  | .pcieReset cause => decide (1 ≤ cause) && decide (cause ≤ 4)
  | .poisonRx bar off => decide (bar < 5) && decide (off < 2 ^ 32)
  | .bar2Read a n => decide (0 < n) && decide (a + n ≤ 0x20000000) && decide (a % 4096 + n ≤ 4096)
  | .bar2Write a bs => decide (0 < bs.length) && decide (a + bs.length ≤ 0x20000000) && decide (a % 4096 + bs.length ≤ 4096)
  | .chEnable _ c => decide (c < 16)
  | .chDisable _ c => decide (c < 16)
  | .chDrainDone c => decide (c < 16)
  | .chReset _ c => decide (c < 16)
  | .chTailWrite _ c v => decide (c < 16) && decide (v < 65536)
  | .descriptor c bs => decide (c < 16) && decide ((bs.getD (List.replicate 32 0#8)).length = 32)
  | .dmaTransferDone c data _ => decide (c < 16) && decide (data.length ≤ 2 ^ 24)
  | .chHposWrite _ c v => decide (c < 16) && decide (v < 2 ^ 32)
  | .hostReadCompletion c data _ => decide (c < 16) && decide (data.length ≤ 512)
  | .uploadBurst c => decide (c < 16)
  | .chIrqHoldoff c => decide (c < 16)
  | .mitLoad _ count => decide (count < 8192)
  | .mbxDoorbell _ seq => decide (seq < 2 ^ 32)
  | .smbHealthRead => true
  | .smbTempRead => true
  | .smbPowerRead => true
  | .smbEnergyRead => true
  | .smbUidRead => true
  | .smbStatusRead => true
  | .smbAlertClear v => decide (v < 256)
  | .calReq _ mask => decide (mask < 2 ^ 32)
  | .calStepDone b meas => decide (b < 32) && decide (meas.length = (if b < 16 then 2 else if b < 24 then 1 else 16))
  | .calStale b => decide (b < 32)
  | .adcBlockDone b sums => decide (16 ≤ b) && decide (b < 24) && decide (sums.length = 16)
  | .discProposal b t => decide (16 ≤ b) && decide (b < 24) && decide (t < 32)
  | .skewEstimate => true
  | .calStoreReq _ => true
  | .calStoreDone _ err => decide (err < 16)
  | .tpWrite _ k v => decide (k < 8) && decide (v < 65536)
  | .biasCodeWrite _ n code => decide (n < 64) && decide (code < 2 ^ 20)
  | .ldacEdge g => decide (g < 4)
  | .biasStrobe _ mask => decide (mask < 16)
  | .biasRangeChange _ n range => decide (n < 64) && decide (range < 4)
  | .bbmDone n => decide (n < 64)
  | .clrNAssert => true
  | .clrNRelease => true
  | .biasLimit n _ => decide (n < 64)
  | .comparatorTrip n code other => decide (n < 80) && decide (code < 1024) && decide (other < 1024)
  | .comparatorArm n code other => decide (n < 80) && decide (code < 1024) && decide (other < 1024)
  | .monPeriod => true
  | .rampGo _ n => decide (n < 80)
  | .rampCross n cross => decide (n < 80) && decide (cross < 65536)
  | .samplerRoundTimer => true
  | .samplerRgo _ => true
  | .injGo _ mask => decide (mask < 16)
  | .samplerConversionDone code => decide (code < 4096)
  | .shdnClr _ => true
  | .mmRst _ k => decide (k < 48)
  | .energyLoRead _ => true
  | .telemetryTimer => true
  | .lineRefetchDone a data _ => decide (a < 0x20000000) && decide ((data.getD (List.replicate 64 0#8)).length = 64)
  | .repairCopyDone a _ => decide (a < 0x20000000)
  | .scrubRead page kind => decide (page < 0x3A) && decide (kind < 12)
  | .bucketLeak page kind => decide (page < 0x3A) && decide (kind < 12)
  | .flipArm _ => true
  | .patGo _ => true
  | .trigInEdge k => decide (k < 4)
  | .vectorFetch => true
  | .vectorCompare levels => decide (levels < 2 ^ 32)
  | .passEnd => true
  | .patJump _ tgt => decide (tgt < 64)
  | .patStop _ => true
  | .patAbort _ => true
  | .picotPulseEnd k => decide (k < 4)
  | .evmRegister trig => decide (trig < 16)
  | .evmDeliver trig => decide (trig < 16)
  | .evmTimer t => decide (t < 4)
  | .evmChCfgWrite _ c w => decide (c < 64) && decide (w < 2 ^ 32)
  | .evmProtWrite _ v => decide (v < 4)
  | .hoopSafePoint spacing _ _ _ => decide (spacing < 65536)
  | .hoopMc a => decide (a < 65536)
  | .hoopWdt => true
  | .echo => true
  | .info => true
  | .memFill => true
  | .bulkLoad _ => true
  | .imageLoad _ => true
  | .nvsWrite => true
  | .profileSet => true
  | .flashRead _ => true
  | .flashWrite _ => true
  | .tileMap => true
  | .warmStartCmd => true
  | .debugUnlock1 => true
  | .debugChallenge => true
  | .debugUnlock2 => true
  | .debugSetPw => true
  | .debugRelock => true
  | .backdoorRead => true
  | .nvsWordDone _ => true
  | .powerOnReset => true
  | .porRelease => true
  | .brownOut => true
  | .resetNAssert => true
  | .resetNRelease => true
  | .rstWarm _ key => decide (key < 65536)
  | .rstCold _ key => decide (key < 65536)
  | .resetApply => true
  | .startStepDone rows fw cal coef => rows.all (fun a => decide (a < 0x20000000)) && decide (fw.length ≤ 2) && fw.all (fun x => decide (x.slot < 2) && decide (x.version < 2 ^ 32) && decide (x.svn < 256)) && cal.all (fun e => decide (e.1 < 32)) && coef.all (fun e => decide (e.1 < 32) && decide (e.2.length ≤ 0x840))
  | .startStepTimeout _ => true
  | .startRetry => true
  | .thermalRestart => true
  | .autoWarmStart => true
  | .fatalPath => true
  | .dumpWriteDone _ => true
  | .scanDump => true
  | .bypass => true
  | .idcode => true
  | .samplePreload _ _ => true
  | .extest _ => true
  | .extestPulse _ => true
  | .extestTrain _ => true
  | .linkUp width speed _ => decide (width ∈ [1, 2, 4, 8]) && decide (1 ≤ speed) && decide (speed ≤ 5)
  | .liveClear n code other => decide (n < 80) && decide (code < 1024) && decide (other < 1024)
  | .adcOverrange x => decide (16 ≤ x.tile) && decide (x.tile < 24) && decide (x.codes.length ≤ 10)
      && x.codes.all (fun c => decide (-2048 ≤ c) && decide (c ≤ 2047))
  | .blank b => decide (b < 16)
  | .shotLoRead _ b => decide (b < 32)
  | .queueHwmRead b => decide (b < 32)
  | .resFreshRead _ k => decide (k < 48)
  | .completionTimeout refetch x => (if refetch then decide (x < 0x20000000) else decide (x < 16))
  | .nonceExpire => true
  | .trstNAssert => true

end Sys2Proof
end

