-- ==== Sys2Proof/Tests/Slice0.lean ====
section
/-!
SUPPORT. Tests: an ill-formed term for each check of WellFormed.lean, the worked examples of the spec, and for every statement
with hypotheses a state that meets them.
-/
set_option Elab.async false

namespace Sys2Proof.Machine

/-- The device after a start: READY, nothing else set. -/
def readyState : State := putF 0 GLB.START_STAT_READY 1 0 State.reset
/-- An unlocked PLL that acquires. -/
def stAcquire : State := { putF 1 CLK.PLL_STAT_REF_OK 1 0 readyState with pll := { acquiring := true } }
/-- A locked PLL with SYNC armed. -/
def stLocked : State :=
  putF 1 CLK.SYNC_CTL_ARM 1 0 (putF 1 CLK.PLL_STAT_LOCK 1 0 (putF 1 CLK.PLL_STAT_REF_OK 1 0 readyState))
/-- The holdover after a loss of lock. -/
def stHoldover : State := { readyState with pll := { holdover := true } }
/-- An epoch that is due. -/
def stEpoch : State := { stLocked with pll := { epochs := [(0, none)] } }
/-- A drive tile that runs. -/
def stRunning : State := putF 0x10 TMB.TMB_STAT_STATE 2 0 (putF 0x10 HDR.STATUS_RUN 1 0 readyState)
/-- The smaller part, ready. -/
def stReady128 : State := { readyState with variant := .mq128 }
/-- A drive tile whose configuration is locked. -/
def stLockedTile : State := putF 0x10 HDR.LOCK_LK_CFG 1 0 readyState
/-- A frozen drive tile. -/
def stFrozenTile : State :=
  putF 0x10 TMB.TMB_STAT_STATE 6 0 (putF 0x10 HDR.STATUS_FROZEN 1 0 (putF 0x10 HDR.CTRL_FREEZE 1 0 readyState))
/-- A soft reset of the MIC page that is due. -/
def stResetting : State := { readyState with softRst := [(6, 0)] }
/-- The MIC page with four error records. -/
def stFullFifo : State :=
  let s := errRec 6 0x20 0 0 0 0 (errRec 6 0x20 0 0 0 0 (errRec 6 0x20 0 0 0 0 (errRec 6 0x20 0 0 0 0 readyState)))
  { s with errs := smSet 6 { pageErr s 6 with old := 4, batch := [] } s.errs }
/-- Tile `b` running, with one released word whose T has come and whose actions are `acts`. -/
def stWord (b : Nat) (w : MWord) (acts : List Act) : State :=
  setTile b { released := [{ addr := 5, t := 0, w := w, todo := acts, pa := 0x10000, pb := 0x20000, fv := 7 }] }
    (putF (tilePage b) TMB.TMB_STAT_STATE 2 0 (putF (tilePage b) HDR.STATUS_RUN 1 0 readyState))
/-- A word with no field set. -/
def word0 : MWord := decodeWord 0
/-- A drive tile in ARMED with a first word in its queue. -/
def stArmedTile : State :=
  setTile 0 { queue := [{ addr := 3, t := 0, w := word0 }] }
    (putF 0x10 TMB.TMB_STAT_STATE 1 0 (putF 0x10 HDR.STATUS_RUN 1 0 readyState))
/-- A running drive tile with a word in its queue. -/
def stQueued : State := putF 0x10 TMB.TMB_STAT_STATE 2 0 stArmedTile
/-- A running drive tile that may issue the word at address 9. -/
def stIssue : State := setTile 0 { next := some 9, nextT := 100 } stRunning
/-- A running drive tile whose look-ahead waits on key 2 with the deadline past. -/
def stWaiting : State :=
  setTile 0 { waiting := some { t := 0, ts := 20, w := { word0 with top := 6, tkey := 2, adv := 20 }, armPt := -1, needKey := true, needEval := false, res := {} } }
    (putF 0x10 TMB.TKEY_MAP_EN 1 2 { stRunning with time := 1#64 })
/-- The same before the deadline, with TOP another than WAIT. -/
def stWaitLong : State :=
  setTile 0 { waiting := some { t := 0, ts := 200, w := { word0 with top := 2, tkey := 2, adv := 200 }, armPt := -1, needKey := true, needEval := false, res := {} } }
    (putF 0x10 TMB.TKEY_MAP_DL 9 2 stWaiting)
/-- A running drive tile whose look-ahead waits for the evaluation of UNDR. -/
def stEval : State :=
  setTile 0 { waiting := some { t := 0, ts := 20, w := { word0 with cond := 0x12, adv := 20 }, armPt := -1, needKey := false, needEval := true, res := {} } }
    stRunning
/-- A running drive tile with a stopping fc that has come. -/
def stStopWord : State := setTile 0 { stopAt := some 0 } stRunning
/-- A stopping drive tile whose output ramp ends. -/
def stRamp : State :=
  setTile 0 { ramp := some { t0 := 0, target := 0 } } (putF 0x10 TMB.TMB_STAT_STATE 3 0 { stRunning with time := 32#64 })
/-- A drive tile that a GO can start: TIME valid, its converters ready and its start far enough ahead. -/
def stGo : State :=
  putF 0x10 TMB.TMB_START_LO 1000 0 (putF 0x10 DRV.DAC_STAT_READY 1 0 (putF 0x10 DRV.DAC_STAT_READY 1 1
    (putF 1 CLK.SYNC_STAT_TIME_VALID 1 0 readyState)))
/-- A drive tile with deferred effects that are due. -/
def stDeferred (d : Deferred) : State := setTile 0 { deferred := [d] } stRunning
/-- A running drive tile with a stream unit due from slot 1, whose ring holds one unit. -/
def stStream : State :=
  setTile 0 { fetches := [{ chan := 0, pt := 0, stream := true, src := 1, t := 0, left := 2, addr := 5 }] }
    (putF 0x10 TMB.STRM_FILL 1 1 (putF 0x10 TMB.STRM_CFG_EN 1 1 stRunning))
/-- A read-out tile in RUN whose tone 1 is captured. -/
def stRdo : State :=
  putF 0x20 RDO.RX_CFG_RX_EN 1 1 (putF 0x20 RDO.RX_CFG_AGRP_MASK 1 1
    (putF 0x20 TMB.TMB_STAT_STATE 2 0 (putF 0x20 HDR.STATUS_RUN 1 0 readyState)))
/-- That tile with interleave correction of a positive offset. -/
def stIl : State := (List.range 16).foldl (fun s k => putF 0x20 RDO.ADC_IL_OFFS 100 k s) (putF 0x20 RDO.ADC_CFG_IL_EN 1 0 { stRdo with time := 100#64 })
/-- A released ACQ word on that tile. -/
def stAcq : State := setTile 16 { released := [{ addr := 5, t := 0, w := { word0 with aux := 1 }, todo := [.acq] }] } stRdo
/-- That tile with one window of tone 1 at a stage of its life. -/
def stWin (x : Win) : State := setRdo 16 { sets := [{ t := 0, addr := 5, wins := [x] }] } { stRdo with time := 100#64 }
/-- A window of tone 1. -/
def win1 : Win := { tone := 1, kset := 0, o := 0, klen := 4, desc := 0x80000000#32, bin := 1, ftw := 0, f := 0, wantRec := true, u := 16 }
/-- A tile with a matrix load in progress. -/
def stMatLoad : State := setRdo 16 { loading := some 0 } readyState
/-- A flux output with a coefficient load in progress. -/
def stCorrLoad : State := setFlux 24 1 { loading := some 2 } readyState
/-- A publication of slot 1 that is due, with key 2 of a running drive tile and a Darner input that subscribe to it. -/
def stPub : State :=
  putF 0xB TUL.SLOT_SRC_KIND 1 1 (putF 0xB TUL.SLOT_RT_LOST 0 1 (putF 0x10 TMB.TKEY_MAP_EN 1 2 (putF 0x10 TMB.TKEY_MAP_SLOT 1 2
    (putF 0xB HDR.CTRL_EN 1 0 { stRunning with pubs := [{ slot := 1, due := 0, src := 1, port := 0, dec := { val := 1, leak := true, lowc := false, ndet := false } }] }))))
/-- A publication of slot 5 behind one of slot 1 that is due in the same fc. -/
def stPubTwo : State :=
  { stPub with pubs := stPub.pubs ++ [{ slot := 5, due := 0, src := 1, port := 0, dec := { val := 2, leak := false, lowc := false, ndet := false } }] }
/-- A slot that imports from port 0. -/
def stImport : State := putF 0xB TUL.SLOT_SRC_KIND 3 1 (putF 0xB TUL.SLOT_RT_LOST 0 1 readyState)
/-- A patch of one input and one output with an open round past its timeout. -/
def stRound : State :=
  putF 0xC DRN.PATCH_MAP_NSYN 1 0 (putF 0xC DRN.PATCH_MAP_NOUT 1 0
    { readyState with time := 5000#64, patches := [(0, { on := true, opened := some 7, held := [] })] })
/-- That patch with a closed round at the end of its pipeline. -/
def stClosed (reason : Nat) : State :=
  { stRound with patches := [(0, { on := true, rounds := [{ c := 9, reason := reason, ev := 0, rnd := 3, cfg := 0#32, map := rdWord stRound (DRN.PATCH_MAP.addr 0xC 0), held := [], missN := 0, missFirst := 0xFF, prevRef := 0 }] })] }
/-- Port 0 enabled in a state, with block lock on both lanes. -/
def stPort (st : Nat) : State :=
  putF 0x30 HDR.CTRL_EN 1 0 (putF 0x30 JDX.STATUS_LOCK0 1 0 (putF 0x30 JDX.STATUS_LOCK1 1 0 (setPortState 0 st readyState)))
/-- A decision block whose first entry carries a valid word of slot 1. -/
def decPay : Nat := 2 ^ 18 + 2 ^ 5 + 1 + crc7 (2 ^ 18 + 2 ^ 5 + 1) * 2 ^ 57
/-- A joined device with NUM 3, discovery running and port 0 ACTIVE with credit. -/
def stCst : State :=
  modPort 0 (fun x => { x with credit := 2 }) (setPortState 0 5
    (putF pCst CST.ID_CFG_NUM_F 3 0 (putF pCst CST.STATUS_JOINED 1 0 (putF pCst HDR.CTRL_EN 1 0
      { readyState with boot := { readyState.boot with fw := true } }))))
/-- That device with a message received on port 0. -/
def stMsg (type : Nat) (body : List Byte) : State :=
  modPort 0 (fun x => { x with msgs := [(0, mkMsg stCst type 0xFE body)] }) stCst
/-- That device with a reservation of host software in progress, one device asked. -/
def stRq : State :=
  { stCst with cst := { stCst.cst with rq := [(0, { route := { who := .host, route := 7, slot := 4, dest := 2, nodes := [], own := { imp := none, exports := 0, hops := 0, pubdev := 3, lat := 3, ndet := false }, ndetOk := false }, ask := [1] })] } }
/-- An ACTIVE end of a link in a description. -/
def link1 (n p u : Nat) : LsaPort := { lstate := 1, num := n, port := p, fh := 4, uid := u % 2 ^ 32 }
/-- That device, with a link to a neighbour of NUM 9 and a local slot 2 that may be reserved toward it. -/
def stNet : State :=
  let own : TopoEntry := { uid := 5, num := 3, flags := 0, seq := 0, ports := [link1 9 2 77] }
  let nb : TopoEntry := { uid := 77, num := 9, flags := 0, seq := 5, ports := [link1 0 0 0, link1 0 0 0, link1 3 0 5] }
  putF 0x30 JDX.LINK_LAT_FH 4 0 (putF pTul TUL.SLOT_SRC_KIND 1 2 (putF pCst CST.RQ_SLOT_SLOT 2 0 (putF pCst CST.RQ_DEST (2 ^ 9) 0
    (putF pCst CST.RT_CFG_HOLD 0 0 { stCst with cst := { stCst.cst with own := some own, topo := [nb] } }))))
/-- A device whose link is up with bus mastering. -/
def stHost : State := putF pPci PCI.STATUS_LINK_UP 1 0 (putF pPci PCI.STATUS_BME 1 0 (putF pPci HDR.CTRL_EN 1 0 readyState))
/-- That device with channel 0 ACTIVE in a mode, bound to a tile page. -/
def stChan (mode tile : Nat) : State :=
  putF pPci PCI.CH_CFG_MODE mode 0 (putF pPci PCI.CH_CFG_BTILE tile 0 (putF pPci PCI.CH_STAT_STATE 1 0 stHost))
/-- A COPY descriptor of 16 bytes to or from stream memory of tile 0. -/
def desc0 (op : Nat) : Desc := { idx := 0, host := 0x1000, dev := 0x100000, len := 16, op := op, flags := 0, cookie := 9 }
/-- A COPY channel with a descriptor in progress. -/
def stCopy (op : Nat) : State := modCh 0 (fun x => { x with desc := some (desc0 op) }) (stChan 1 0)
/-- The 32 bytes of that descriptor. -/
def descBytes : List Byte := toBytes 0x1000 8 ++ toBytes 0x100000 4 ++ toBytes 16 4 ++ toBytes 1 2 ++ toBytes 0 2 ++ toBytes 9 4 ++ toBytes 0 8
/-- The CAL page at work, the PLL locked, and a run of flux tile 24 pending for 100 ns. -/
def stCal : State :=
  setPending 24 { putF pCal CAL.CAL_CTL_EN_DAC 1 0 (putF pCal HDR.CTRL_EN 1 0 (putF 1 CLK.PLL_STAT_LOCK 1 0 readyState)) with up := 100 }
/-- That run at its last step. -/
def stCalEnd : State := putF pCal CAL.TILE_RUN_STEPS 1 24 stCal
/-- The CAL page at work on the ADC of read-out tile 16. -/
def stAdc : State := putF pCal CAL.CAL_CTL_EN_ADC 1 0 (putF pCal HDR.CTRL_EN 1 0 readyState)
/-- Tracked results of tone 1 of tile 16, enough for a proposal. -/
def stDisc : State :=
  setTrack 16 1 { w := [4000, 0, 0], si := [8000, 0, 0], sq := [4000, 0, 0], sd := [40000, 0, 0], n := 2 ^ 20 }
    (putF pCal CAL.CAL_CTL_EN_DISC 1 0 (putF pCal HDR.CTRL_EN 1 0 { readyState with boot := { readyState.boot with fw := true } }))
/-- A joined device with TIME and the skew calibration at work; `flags` of its own description. -/
def stSkDev (flags : Nat) : State :=
  putF pCst CST.TIME_CFG_TROOT (flags / 4) 0 <| putF pCst CST.TIME_STAT_VALID 1 0 (putF pCal CAL.CAL_CTL_EN_SKEW 1 0 (putF pCal HDR.CTRL_EN 1 0
    { stCst with cst := { stCst.cst with own := some { uid := 5, num := 3, flags := flags, seq := 0, ports := [] } } }))
/-- That device as the time root. -/
def stSkRoot : State := stSkDev 4
/-- That device under a time root of NUM 9, with 256 delays each way on its time port. -/
def stSkLeaf : State :=
  let s := putF pCst CST.TIME_STAT_PARENT 9 0 (modPort 0 (fun p => { p with mode := some false, inN := 256, outN := 256, inSum := 9000, outSum := 5000 }) (stSkDev 0))
  { s with cst := { s.cst with topo := [{ uid := 77, num := 9, flags := 4, seq := 5, ports := [] }] } }
/-- The BIA page at work with its pins enabled; output 1 of group 2 holds a code that waits. -/
def stBia : State :=
  setPend 1 true (putF pBia BIA.BIAS_CODE_CODE 77 1 (putF pBia BIA.BIAS_CFG_GROUP 2 1 (putF pBia BIA.BIA_CTL_PIN_EN 15 0
    (putF pBia HDR.CTRL_EN 1 0 readyState))))
/-- Output 3 at the end of a range change. -/
def stBbm : State := { putF pBia BIA.BIAS_STAT_STATE 2 3 stBia with bias := { stBia.bias with bbm := [(3, 0)] } }
/-- Comparator 5 at work as a window from 100 to 800 with hysteresis 10, cleared by the period. -/
def stMon : State :=
  putF pMon MON.MON_CTL_PERIOD 9 0 (putF pMon MON.MON_CFG_CLRMODE 1 5 (putF pMon MON.MON_THR_HYS 10 5 (putF pMon MON.MON_THR_LO 100 5
    (putF pMon MON.MON_THR_HI 800 5 (putF pMon MON.MON_CFG_EN 1 5 (putF pMon HDR.CTRL_EN 1 0 readyState))))))
/-- That comparator unarmed. -/
def stMonUn : State := setUnarmed 5 true stMon
/-- That comparator tripped low. -/
def stMonLive : State := putF pMon MON.MON_STAT_LIVE 1 5 (putF pMon MON.MON_STAT_TRIP_LO 1 5 stMon)
/-- That comparator in ramp mode, a ramp running. -/
def stMonRamp : State :=
  putF pMon MON.MON_STAT_RBUSY 1 5 (putF pMon MON.MON_CFG_MODE 1 5 (putF pMon MON.MON_RWIN_TMIN 10 5 (putF pMon MON.MON_RWIN_TMAX 500 5 stMon)))
/-- The Sampler powered and idle. -/
def stSmp : State := { readyState with boot := { readyState.boot with por := none } }
/-- Its round at the end of the first conversion. -/
def stSmpRnd : State := { stSmp with up := 6000, smp := { cur := some (.round 0 false), rnd := some (0, true), due := 5024 } }
/-- An injected conversion of input 30 due, half of its sum there and the next injection held. -/
def stSmpIn : State :=
  { putF pHkp HKP.ICFG_AVG 1 30 (putF pHkp HKP.ICFG_SHIFT 1 30 (putF pHkp HKP.INJ_SEL 30 1 stSmp)) with
    up := 6000, smp := { cur := some (.inj 1), injPend := [2], acc := [(30, (100, 1))], due := 5024 } }
/-- An MQ-128A in a shutdown, cool again. -/
def stShdn : State := { putF pThm THM.STATUS_SHDN 1 0 readyState with variant := .mq128 }
/-- A device with telemetry on and its link up. -/
def stTel : State :=
  putF pThm THM.TEL_CFG_EN 1 0 (putF pThm THM.TEL_CFG_SIZE_LOG2 4 0 (putF pThm HDR.CTRL_EN 1 0 { stHost with boot := { stHost.boot with fw := true } }))
/-- A recovering line of the Tulle trace at its `n`-th attempt. -/
def stRec (n : Nat) : State := setLine 0x12018000 { flip := 1, recov := some { attempt := n } } readyState
/-- That line while its row is copied, the copy complete. -/
def stRecCopy : State :=
  { setLine 0x12018000 { flip := 1, recov := some { copy := some (List.replicate 64 0#8, 8) } } readyState with time := 9#64 }
/-- The scrubber at work. -/
def stScrub : State := putF pMic MIC.MIC_CTL_SCRUB_EN 1 0 (putF pMic HDR.CTRL_EN 1 0 readyState)
/-- The PAT page with TIME valid, segments 1 and 2 of four vectors, and a GO that can start. -/
def stPat : State :=
  putF pPat PAT.SEG_CTL_NEXT 2 1 (putF pPat PAT.SEG_CTL_EN 1 1 (putF pPat PAT.SEG_LEN_LEN 4 1 (putF pPat PAT.SEG_CTL_EN 1 2 (putF pPat PAT.SEG_LEN_LEN 4 2
    (putF pPat PAT.PAT_TRIG_JTGT 0x082 0 (putF pPat PAT.PAT_TRIG_JEN 3 0 (putF pPat PAT.PAT_CFG_FIRST 1 0 (putF pPat PAT.PAT_START_LO 3000 0
      (putF pPat HDR.CTRL_EN 1 0 (putF 1 CLK.SYNC_STAT_TIME_VALID 1 0 readyState))))))))))
/-- Its run in segment 1, a Picot pulse high. -/
def stPatRun : State :=
  { putF pPat HDR.STATUS_RUN 1 0 stPat with time := 2000#64, pat := { seg := 1, pin := 1000, passEnd := 1004, picot := [{ pin := 1, start := 1, stop := 5 }] } }
/-- That run with a vector that expects pin 0 low, at its compare. -/
def stPatVec : State := { stPatRun with pat := { stPatRun.pat with pos := 1, vecs := [{ idx := 0, seg := 1, pass := 0, pin := 1000, data := 4 }] } }
/-- That run at the end of a pass. -/
def stPatEnd : State := { stPatRun with pat := { stPatRun.pat with pos := 4 } }
/-- The same pass at its end, with END, a STOP and a jump all registered before it. -/
def stPatEndAll : State := putF pPat PAT.SEG_CTL_END 1 1 { stPatEnd with pat := { stPatEnd.pat with stop := some 7, jump := some (2, 7) } }
/-- The event matrix at work: channel 6 takes comparator 0 to wake-up line 2 with a hit, and its event is raised. -/
def stEvm : State :=
  { putF pEvm EVM.CH_CFG_IRQ 1 6 (putF pEvm EVM.CH_CFG_DST 12 6 (putF pEvm EVM.CH_CFG_SRC 0x40 6 (putF pEvm EVM.CH_CFG_EN 1 6
      (putF pEvm HDR.CTRL_EN 1 0 readyState)))) with time := 40#64, mck := 400, evm := { raised := [(0x40, 1)] } }
/-- That event on its way. -/
def stEvmFly : State := { stEvm with evm := { flight := [{ chan := 6, dst := 12, irq := true, due := 12 }] } }
/-- A device whose Hoop firmware runs, its link up and bus mastering. -/
def stHoop : State := { stHost with boot := { stHost.boot with por := none, fw := true } }
/-- That device with a doorbell waiting. -/
def stHoopDoor : State := putF pPci PCI.MBX_STAT_BUSY 1 0 { stHoop with pcie := { stHoop.pcie with door := some 9 } }
/-- That device with the load of a table of one entry waiting. -/
def stHoopMit : State := putF pPci PCI.MIT_STAT_BUSY 1 0 { stHoop with pcie := { stHoop.pcie with mit := some (0, 1) } }
/-- A record of two bytes in the journal. -/
def stNvs : State := { stHoop with hoop := { stHoop.hoop with recs := [{ tgt := 0x90000, bytes := [1#8, 2#8] }] } }
/-- That device with a mailbox command taken. -/
def stCmd (op : Nat) (p : List Byte) : State :=
  putF pPci PCI.MBX_STAT_BUSY 1 0 { stHoop with pcie := { stHoop.pcie with cmd := some { op := op, seq := 9, payload := p } } }
/-- A cold start at step `k`. -/
def stStep (k : Nat) : State := putF 0 GLB.START_STAT_STEP k 0 { State.reset with boot := { State.reset.boot with por := none } }

/-- Two vectors at the pins, the first in its pin time: pin 0 low and pin 1 high. -/
def stVector : State :=
  { putF 1 CLK.PLL_STAT_LOCK 1 0 readyState with
    pat := { outs := [{ idx := 0, seg := 0, pass := 0, pin := 0, data := 0x21 }, { idx := 1, seg := 0, pass := 0, pin := 1, data := 0 }] } }

/-! ### Ill-formed commands -/

/-- A firmware slot with a header and no bytes. -/
def fwSlot (slot version svn : Nat) : FwSlot := { slot := slot, version := version, svn := svn, keyOk := true, signed := [], body := [] }

theorem test_illFormed_long (data : List Byte) (ok : Bool) (h : 2 ^ 24 < data.length) : (Instr.dmaTransferDone 0 data ok).wf = false := by
  simp [Instr.wf]; omega

theorem test_illFormed_1 : ([
    .syncEdge 3 false, .msixUnmask 256, .softReset .host 58, .softResetEnd 58, .freezeSet .host 58, .freezeClear .host 58,
    .blockDisable .host 58, .irqForce .host 58 0#32, .errPop .host 58, .ownerWrite .host 58 0, .ownerWrite .host 0 4,
    .lockSet .host 58 false false, .tmbGo .host 32, .tmbRunStart 32, .tmbStop .host 32, .tmbAbort .host 32,
    .tileStopping 32, .stopRampDone 32, .wordIssue 32, .wordRelease 32, .shotBoundary 32, .declaredGap 32,
    .pulseStart 32 false, .frameAdd 24, .frameSet 24, .frameCadd 24, .loopLoad 32, .loopDec 32, .loopReload 32, .branch 32,
    .stopWord 32, .tulleArm 32, .fapply 32, .freset 16, .flipx 16, .flipz 16] : List Instr).all (fun i => !i.wf) = true := by
  decide +kernel

theorem test_illFormed_2 : ([
    .tulleWait 32, .picotMark 32, .keyDeadline 32, .undrLostEval 32, .strmFillWrite .host 32 0 0, .strmFillWrite .host 0 8 0,
    .strmFillWrite .host 0 0 4294967296, .strmCfgWrite .host 32 0 0#32, .strmCfgWrite .host 0 8 0#32, .streamUnitFetch 32,
    .acq 15, .acq 24, .windowOpen 15 0, .windowOpen 24 0, .windowOpen 16 32, .windowClose 15 0 [], .windowClose 24 0 [],
    .windowClose 16 32 [], .windowClose 16 0 [2048], .windowClose 16 0 [-2049], .unmix 15 0, .unmix 24 0, .unmix 16 32,
    .discrimination 15 0, .discrimination 24 0, .discrimination 16 32, .resRpWrite .host 15 0, .resRpWrite .host 24 0,
    .resRpWrite .host 16 4294967296, .accCntRead .host 15, .accCntRead .host 24, .histRead .host 15 0,
    .histRead .host 24 0, .histRead .host 16 4, .statClrAll .host 15, .statClrAll .host 24, .chanCoefRecompute 15 []] : List Instr).all (fun i => !i.wf) = true := by
  decide +kernel

theorem test_illFormed_3 : ([
    .chanCoefRecompute 24 [], .chanCoefRecompute 16 (List.replicate 2113 0#8), .unmixCfgWrite .host 15 0#32,
    .unmixCfgWrite .host 24 0#32, .unmixLoadComplete 15, .unmixLoadComplete 24, .outCfgWrite .host 23 0 0#32,
    .outCfgWrite .host 32 0 0#32, .outCfgWrite .host 24 16 0#32, .corrLoadComplete 23 0, .corrLoadComplete 32 0,
    .corrLoadComplete 24 16, .outShort 23 0, .outShort 32 0, .outShort 24 16, .decisionDelivery 512, .routeWithdraw 512,
    .roundTimeout 8, .darnerPublish 8, .patchClr .host 8, .portTrain .host 8 false, .laneBlockLock 8 ⟨0, 0⟩, .laneBlockLock 0 ⟨2, 0⟩,
    .jodexLossOfLock 8 1 (.headers 0), .jodexLossOfLock 0 0 (.headers 0), .jodexLossOfLock 0 4 (.headers 0),
 .jodexLossOfLock 0 1 (.headers 18446744073709551616), .trainBlockRx 8 0 0 false ⟨false, false⟩ false ⟨0, 0⟩ false,
    .trainBlockRx 0 2 0 false ⟨false, false⟩ false ⟨0, 0⟩ false, .trainBlockRx 0 0 2 false ⟨false, false⟩ false ⟨0, 0⟩ false,
    .trainBlockRx 0 0 0 false ⟨false, false⟩ false ⟨8, 0⟩ false, .trainBlockRx 0 0 0 false ⟨false, false⟩ false ⟨0, 65536⟩ false, .modeTimeout 8,
    .frameMarkerRx 8 0 false ⟨false, 0⟩ 0 0 0 0 false, .frameMarkerRx 0 2 false ⟨false, 0⟩ 0 0 0 0 false,
    .frameMarkerRx 0 0 false ⟨false, 0⟩ 65536 0 0 0 false] : List Instr).all (fun i => !i.wf) = true := by
  decide +kernel

theorem test_illFormed_4 : ([
    .frameMarkerRx 0 0 false ⟨false, 0⟩ 1 0 0 0 false, .frameMarkerRx 0 0 false ⟨false, 8⟩ 0 0 0 0 false,
    .frameMarkerRx 0 0 false ⟨false, 0⟩ 0 5 0 0 false, .decisionBlockRx 8 0 0 ⟨0, 0⟩, .decisionBlockRx 0 2 0 ⟨0, 0⟩, .decisionBlockRx 0 0 4 ⟨0, 0⟩,
    .decisionBlockRx 0 0 0 ⟨288230376151711744, 0⟩, .decisionBlockRx 0 0 0 ⟨0, 18446744073709551616⟩, .decisionRelease 8,
    .unknownBlockRx ⟨8, 0, 0⟩, .unknownBlockRx ⟨0, 2, 0⟩, .unknownBlockRx ⟨0, 0, 4⟩,
    .portActivate .host 8, .trainTimeout 8 false, .trainBackoff 8, .loopStampRx 8 0 0 0, .loopStampRx 0 128 0 0,
    .loopStampRx 0 0 281474976710656 0, .loopStampRx 0 0 0 281474976710656, .loopReportRx 8 0,
    .loopReportRx 0 281474976710656, .loopStampSend 8 0, .timeBlockRx 8 0,
    .timeBlockRx 0 72057594037927936, .mgmtFragmentRx 8 false false 0 [0#8], .mgmtFragmentRx 0 false false 8 [0#8],
    .mgmtFragmentRx 0 false false 0 [], .mgmtFragmentRx 0 false false 0 (List.replicate 7 0#8), .fillerRx 8 0,
    .idleEnterReq .host 8, .idleEnterRx 8, .idleExit .host 8, .marginLow 8 0 0, .marginLow 0 2 0,
    .marginLow 0 0 64, .helloRx 8, .lsaRx 8, .topoAgeOut 18446744073709551616, .reserveRx 8] : List Instr).all (fun i => !i.wf) = true := by
  decide +kernel

theorem test_illFormed_5 : ([
    .resAckRx 8, .resNakRx 8, .commitRx 8, .releaseRx 8, .withdrawRx 8, .reserveTimeout 514, .tentativeExpire 4294967296,
    .skewReportRx 8, .pcieReset 0, .pcieReset 5, .poisonRx 5 0, .poisonRx 0 4294967296, .chEnable .host 16,
    .chDisable .host 16, .chDrainDone 16, .chReset .host 16, .chTailWrite .host 16 0, .chTailWrite .host 0 65536,
    .dmaTransferDone 16 [] false, .chHposWrite .host 16 0, .chHposWrite .host 0 4294967296,
    .hostReadCompletion 16 [] false, .hostReadCompletion 0 (List.replicate 513 0#8) false, .uploadBurst 16,
    .chIrqHoldoff 16, .mitLoad .host 8192, .mbxDoorbell .host 4294967296, .smbAlertClear 256, .calReq .host 4294967296,
    .calStale 32, .discProposal 15 0, .discProposal 24 0, .discProposal 16 32, .calStoreDone false 16, .tpWrite .host 8 0,
    .tpWrite .host 0 65536] : List Instr).all (fun i => !i.wf) = true := by
  decide +kernel

theorem test_illFormed_6 : ([
    .biasCodeWrite .host 64 0, .biasCodeWrite .host 0 1048576, .ldacEdge 4, .biasStrobe .host 16,
    .biasRangeChange .host 64 0, .biasRangeChange .host 0 4, .bbmDone 64, .biasLimit 64 false, .comparatorTrip 80 0 0,
    .comparatorTrip 0 1024 0, .comparatorTrip 0 0 1024, .comparatorArm 80 0 0, .comparatorArm 0 1024 0,
    .comparatorArm 0 0 1024, .rampGo .host 80, .rampCross 80 0, .rampCross 0 65536, .injGo .host 16,
    .samplerConversionDone 4096, .mmRst .host 48, .repairCopyDone 536870912 false, .scrubRead 58 0, .scrubRead 0 12,
    .bucketLeak 58 0, .bucketLeak 0 12, .trigInEdge 4, .vectorCompare 4294967296, .patJump .host 64, .picotPulseEnd 4,
    .evmRegister 16, .evmDeliver 16, .evmTimer 4, .evmChCfgWrite .host 64 0, .evmChCfgWrite .host 0 4294967296,
    .evmProtWrite .host 4, .hoopSafePoint 65536 none none none] : List Instr).all (fun i => !i.wf) = true := by
  decide +kernel

theorem test_illFormed_7 : ([
    .hoopMc 65536, .rstWarm .host 65536, .rstCold .host 65536, .liveClear 80 0 0, .liveClear 0 1024 0, .liveClear 0 0 1024,
    .adcOverrange ⟨15, []⟩, .adcOverrange ⟨24, []⟩, .adcOverrange ⟨16, (List.replicate 11 0)⟩, .adcOverrange ⟨16, [2048]⟩, .blank 16, .shotLoRead .host 32, .queueHwmRead 32, .resFreshRead .host 48,
    .regWrite .host 0x1000000 0#32 15 (.write none), .regWrite .host 2 0#32 15 (.write none), .regWrite .host 0 0#32 0 (.write none),
    .regWrite .host 0 0#32 16 (.write none), .regWrite .host 4 0#32 15 (.write (some 0#32)), .regWrite .host 8 0#32 3 (.write (some 0#32)),
    .regWrite .host 0 0#32 15 (.read 3), .regWrite .host 2 0#32 15 (.read 4), .regWrite .host 0x1000000 0#32 15 (.read 1),
    .bar2Read 0 0, .bar2Read 0x1FFFFFFF 2, .bar2Read 0xFFF 2, .bar2Write 0 [], .bar2Write 0x1FFFFFFF [0#8, 0#8],
    .bar2Write 0xFFF [0#8, 0#8], .linkUp 3 5 true, .linkUp 8 0 true, .linkUp 8 6 true,
    .calStepDone 32 (List.replicate 16 none), .calStepDone 0 [], .calStepDone 16 [], .calStepDone 24 [],
    .adcBlockDone 15 (List.replicate 16 (0, 0, 0)), .adcBlockDone 24 (List.replicate 16 (0, 0, 0)), .adcBlockDone 16 [],
    .descriptor 16 none, .descriptor 0 (some [])] : List Instr).all (fun i => !i.wf) = true := by
  decide +kernel

theorem test_illFormed_8 : ([
    .lineRefetchDone 0x20000000 none true, .lineRefetchDone 0 (some []) true, .completionTimeout true 0x20000000,
    .completionTimeout false 16, .startStepDone [0x20000000] [] [] [],
    .startStepDone [] (List.replicate 3 (fwSlot 0 0 0)) [] [], .startStepDone [] [fwSlot 2 (0) 0] [] [],
    .startStepDone [] [fwSlot 0 (2 ^ 32) 0] [] [], .startStepDone [] [fwSlot 0 (0) 256] [] [],
    .startStepDone [] [] [(32, [])] [], .startStepDone [] [] [] [(32, [])],
    .startStepDone [] [] [] [(0, List.replicate 0x841 0#8)]] : List Instr).all (fun i => !i.wf) = true := by
  decide +kernel

theorem test_wellFormed_1 : ([
    .syncEdge 0 false, .regWrite .host 0 0#32 15 (.write none), .regWrite .host 1 0#32 15 (.read 1), .msixUnmask 0, .softReset .host 0, .softResetEnd 0,
    .freezeSet .host 0, .freezeClear .host 0, .blockDisable .host 0, .irqForce .host 0 0#32, .errPop .host 0,
    .ownerWrite .host 0 0, .lockSet .host 0 false false, .tmbGo .host 0, .tmbRunStart 0, .tmbStop .host 0,
    .tmbAbort .host 0, .tileStopping 0, .stopRampDone 0, .wordIssue 0, .wordRelease 0, .shotBoundary 0, .declaredGap 0,
    .pulseStart 0 false, .frameAdd 0, .frameSet 0, .frameCadd 0, .loopLoad 0, .loopDec 0, .loopReload 0, .branch 0,
    .stopWord 0, .tulleArm 0, .fapply 0, .freset 0, .flipx 0, .flipz 0, .tulleWait 0, .picotMark 0, .keyDeadline 0,
    .undrLostEval 0] : List Instr).all Instr.wf = true := by
  decide +kernel

theorem test_wellFormed_2 : ([
    .strmFillWrite .host 0 0 0, .strmCfgWrite .host 0 0 0#32, .streamUnitFetch 0, .acq 16, .windowOpen 16 0,
    .windowClose 16 0 [], .unmix 16 0, .discrimination 16 0, .resRpWrite .host 16 0, .accCntRead .host 16,
    .histRead .host 16 0, .statClrAll .host 16, .chanCoefRecompute 16 [], .unmixCfgWrite .host 16 0#32,
    .unmixLoadComplete 16, .outCfgWrite .host 24 0 0#32, .corrLoadComplete 24 0, .outShort 24 0, .decisionDelivery 0,
    .routeWithdraw 0, .roundTimeout 0, .darnerPublish 0, .patchClr .host 0, .portTrain .host 0 false, .laneBlockLock 0 ⟨0, 0⟩,
    .jodexLossOfLock 0 1 (.headers 0), .trainBlockRx 0 0 0 false ⟨false, false⟩ false ⟨0, 0⟩ false, .modeTimeout 0,
    .frameMarkerRx 0 0 false ⟨false, 0⟩ 0 0 0 0 false, .decisionBlockRx 0 0 0 ⟨0, 0⟩, .decisionRelease 0, .unknownBlockRx ⟨0, 0, 0⟩,
    .portActivate .host 0, .trainTimeout 0 false, .trainBackoff 0, .loopStampRx 0 0 0 0, .loopReportRx 0 0,
    .loopStampSend 0 0, .timeBlockRx 0 0, .mgmtFragmentRx 0 false false 0 [0#8]] : List Instr).all Instr.wf = true := by
  decide +kernel

theorem test_wellFormed_3 : ([
    .fillerRx 0 0, .idleEnterReq .host 0, .idleEnterRx 0, .idleExit .host 0, .marginLow 0 0 0, .helloRx 0, .lsaRx 0,
    .topoAgeOut 0, .reserveRx 0, .resAckRx 0, .resNakRx 0, .commitRx 0, .releaseRx 0, .withdrawRx 0, .reserveTimeout 0,
    .tentativeExpire 0, .skewReportRx 0, .pcieReset 1, .poisonRx 0 0, .bar2Read 0 1, .bar2Write 0 [0#8], .chEnable .host 0,
    .chDisable .host 0, .chDrainDone 0, .chReset .host 0, .chTailWrite .host 0 0, .descriptor 0 none,
    .dmaTransferDone 0 [] false, .chHposWrite .host 0 0, .hostReadCompletion 0 [] false, .uploadBurst 0, .chIrqHoldoff 0,
    .mitLoad .host 0, .mbxDoorbell .host 0, .smbAlertClear 0, .calReq .host 0, .calStepDone 0 (List.replicate 2 none),
    .calStale 0, .adcBlockDone 16 (List.replicate 16 (0, 0, 0)), .discProposal 16 0] : List Instr).all Instr.wf = true := by
  decide +kernel

theorem test_wellFormed_4 : ([
    .calStoreDone false 0, .tpWrite .host 0 0, .biasCodeWrite .host 0 0, .ldacEdge 0, .biasStrobe .host 0,
    .biasRangeChange .host 0 0, .bbmDone 0, .biasLimit 0 false, .comparatorTrip 0 0 0, .comparatorArm 0 0 0,
    .rampGo .host 0, .rampCross 0 0, .injGo .host 0, .samplerConversionDone 0, .mmRst .host 0,
    .lineRefetchDone 0 none false, .repairCopyDone 0 false, .scrubRead 0 0, .bucketLeak 0 0, .trigInEdge 0,
    .vectorCompare 0, .patJump .host 0, .picotPulseEnd 0, .evmRegister 0, .evmDeliver 0, .evmTimer 0,
    .evmChCfgWrite .host 0 0, .evmProtWrite .host 0, .hoopSafePoint 0 none none none, .hoopMc 0, .rstWarm .host 0,
    .rstCold .host 0, .startStepDone [] [] [] [], .linkUp 8 1 false, .liveClear 0 0 0, .adcOverrange ⟨16, []⟩, .blank 0,
    .shotLoRead .host 0, .queueHwmRead 0, .resFreshRead .host 0] : List Instr).all Instr.wf = true := by
  decide +kernel

theorem test_wellFormed_5 : ([
    .completionTimeout false 0] : List Instr).all Instr.wf = true := by
  decide +kernel

/-! ### The worked examples of the spec -/

/-- What a command leaves, as a test reads it; the state itself where the command does not complete. -/
def after (r : Res1) (s : State) : State :=
  match r with
  | .next t => t
  | _ => s

/-- RDO2.STATUS is reached at BAR0 offset 0x0002_2010 (example under R12). -/
theorem test_rdo2_status_address : HDR.STATUS.addr (tilePage 18) 0 = 0x22010 := by decide

/-- DRV6.TONE_FTW_HI[t] lies at 0x0001_6204 + 0x10 × t, FLX2.OUT_CFG[7] at 0x0002_A270, MON_CFG[12] at 0x0000_A380 and
CH_CFG[4] at 0x0000_7140 (examples of chapters 6, 9, 16 and 20). -/
theorem test_register_addresses : DRV.TONE_FTW_HI.addr (tilePage 6) 3 = 0x16234 ∧ FLX.OUT_CFG.addr (tilePage 26) 7 = 0x2A270
    ∧ MON.MON_CFG.addr 0xA 12 = 0xA380 ∧ EVM.CH_CFG.addr 7 4 = 0x7140 := by decide

/-- The word of the example after R129: its fields, its parity bits and its encoding. -/
theorem test_microword_fields :
    decodeWord 0x0285012801000000000000540300000000001000
      = { word0 with adv := 0x028, a := { tone := 5, pulse := 0x012, amp := 0x200, phs := 0x400 }, frm := 5, fop := 1, fval := 3, mark := 1 }
    ∧ wordParity 0x0285012801000000000000540300000000001000 = 0xC := by decide +kernel

/-- The RELOAD loop of the example under R121: 0, 3, 2, 1, 0, branching on COND 0x23 three times. -/
theorem test_reload_loop : [0, 3, 2, 1].map (loopVal 3 3) = [3, 2, 1, 0]
    ∧ [3, 2, 1, 0].map (fun c => flowTaken true { word0 with cond := 0x23 } { ctr := ctrSet 0 2 c } 0 false false {})
      = [true, true, true, false] := by decide

/-- The frame of tone 9 of DRV2 goes from 0x2000_0000 to 0xE000_0000 by the entry for a virtual Z(π/2) (example under R170). -/
theorem test_frame_add :
    let s := setTile 2 { released := [{ addr := 5, t := 0, w := { word0 with frm := 9, fop := 1, fval := 5 }, todo := [.frame], fv := 0xC0000000 }] }
      (putF 0x12 DRV.FRAME_PH 0x20000000 9 (putF 0x12 TMB.TMB_STAT_STATE 2 0 (putF 0x12 HDR.STATUS_RUN 1 0 readyState)))
    framePh (after (exec (.frameAdd 2) s) s) 2 9 = 0xE0000000 := by decide +kernel

/-- A read in the hole above RDO5's result memory returns zeros and leaves UNMAPPED with its address (example under R101). -/
theorem test_hole_of_rdo5 :
    let t := after (exec (.bar2Read 0x0AE00000 4) readyState) readyState
    t.lastBytes = [0#8, 0#8, 0#8, 0#8]
    ∧ (pageErr t 0x25).fifo.map (fun e => (e.code, e.addr)) = [(1, 0x0AE00000#32)] := by decide +kernel

/-- Five errors on RDO5 (example after R98): the fifth is dropped, OVF is 1, TOTAL 5, and ERR_TIME is TIME[35:4]. -/
theorem test_five_errors :
    let e := errRec 0x25 0x30 0 0 0 0
    let s := e (e (e (e (e { readyState with time := 0x1234567890#64 }))))
    getF s 0x25 HDR.ERR_CNT_OVF = 1 ∧ getF s 0x25 HDR.ERR_CNT_TOTAL = 5 ∧ irqStat s 0x25 25 = true
    ∧ (pageErr s 0x25).fifo.map (fun r => (r.seq, r.tstamp)) = [0, 1, 2, 3].map (fun n => (n, 0x23456789#32))
    ∧ (pageErr (e (after (exec (.errPop .host 0x25) s) s)) 0x25).fifo.map ErrRec.seq = [1, 2, 3, 5] := by decide +kernel

/-- SINC_C of the tones of DRV6 (table of the example at the end of chapter 6). -/
theorem test_sinc_table : [0x4C00, 0x4E00, 0x5100, 0x5400, 0x5700, 0x5A00, 0x5D00, 0x6000].map (fun hi => sincFactor true false (hi * 2 ^ 32))
    = [0x634B, 0x641D, 0x6568, 0x66C5, 0x6836, 0x69BC, 0x6B58, 0x6D0B] := by decide +kernel

/-- The geometry of tone 5 of RDO4 (example at the end of chapter 8). -/
def geo5 : Geom := geomOf [0x2001D4C0#32, 0x19FF63C0#32, BitVec.ofNat 32 (RDO.DISC_W2_SSH.upd 4 (RDO.DISC_W2_C1_I.upd (2 ^ 24 - 60000) 0#32)).toNat,
  RDO.DISC_W3_C1_Q.upd 90000 0#32, RDO.DISC_W4_C2_I.upd (2 ^ 24 - 150000) 0#32, RDO.DISC_W5_C2_Q.upd (2 ^ 24 - 30000) 0#32,
  0x07D00753#32, RDO.DISC_W7_SPR2.upd 2500 0#32]

/-- Its distances 36.109375, 1.7578125 and 14.0625 and its verdict: excited, CONF 98, no LEAK. -/
theorem test_tone5_verdict : [0, 1, 2].map (distOf geo5 { re := -30000, im := 60000 }) = [9244, 450, 3600]
    ∧ judge geo5 7 { re := -30000, im := 60000 } false = { st := 1, conf := 98, leak := false, lowc := false, outlier := false } := by decide +kernel

/-- Its result record, byte for byte. -/
theorem test_tone5_record :
    resultBytes { tone := 5, kset := 0, o := 0, klen := 4, desc := 0#32, bin := 1, ftw := 0, f := 0, wantRec := true, u := 0 } { re := -30000, im := 60000 }
      { st := 1, conf := 98, leak := false, lowc := false, outlier := false } 1 false false 1000000
      = [0xD0#8, 0x8A#8, 0xFF#8, 0x60#8, 0xEA#8, 0x00#8, 0x40#8, 0x42#8, 0x0F#8, 0#8, 0#8, 0#8, 0x05#8, 0x11#8, 0x62#8, 0#8] := by decide +kernel

/-- The coefficients of FLX2 output 7 where the example at the end of chapter 9 writes them. -/
theorem test_flux_coefficients :
    readBank (wrBytes 0x0D381C00 (toBytes 0x0694A2D7 4 ++ toBytes 0x0002AAAB 4 ++ toBytes 0x000CE988 4 ++ toBytes 0x00FF0DDF 4)
        (wrBytes 0x0D381C40 (toBytes 0x4000 2) readyState)) 26 7 0
      = { a := [110404311, 846216, 0, 0], k := [174763, -61985, 0, 0], h := 0x4000 :: List.replicate 31 0 } := by decide +kernel

/-- That output in RUN, with a pulse of 0.5 at AMP 0x200 from fc 100 on. -/
def stFluxStep : State :=
  let s := setFlux 26 7 { coef := { a := [110404311, 846216, 0, 0], k := [174763, -61985, 0, 0], h := 0x4000 :: List.replicate 31 0 } }
    (wrBytes (aperture 26 + 0x100000) (List.replicate 8 [0#8, 0x40#8]).flatten (putF 1 CLK.PLL_STAT_LOCK 1 0 State.reset))
  let s := modTile 26 (fun x => { x with
    chans := [(7, { t := 100, len := 1, start := 0, stream := false, hold := false, amp := 0x200, phs := 0, conj := false, f := 0,
                    x := false, z := false, addr := 0 })]
    fetches := [{ chan := 7, pt := 100, stream := false, src := 0, t := 100, left := 1, addr := 0 }] }) s
  { putF 0x2A FLX.OUT_CFG_EN 1 7 (putF 0x2A FLX.OUT_CFG_CORR_EN 1 7 (putF 0x2A TMB.TMB_STAT_STATE 2 0 s)) with time := 100#64 }

/-- Its first code in the fc of the step is 16,797 (the same example). -/
theorem test_flux_first_code : ((smGet [] 7 (tileOf (tick stFluxStep) 26).codes).head?) = some 16797 := by decide +kernel

/-- A vector with pin 0 driven low and pin 1 high at its pin time, and the idle state afterwards (R465, R466, R476). -/
theorem test_pattern_pins : (tick stVector).pat.drv = 9 ∧ (tick (tick stVector)).pat.drv = 0 := by decide +kernel

/-- The deadline of the conditional pulse of chapter 10: key word 0x0006_98C8, T_W = 40,400, T_S = 40,525, D = 40,505. -/
theorem test_deadline : keyDeadline 0x000698C8#32 40400 40525 = 40505 ∧ TMB.TKEY_MAP_SLOT.of 0x000698C8#32 = 200 := by decide

/-- SLOT_SRC 0x0000_0921 names RDO2 tone 9, and SLOT_RT 0x0301_0100 port 1, one hop and device 3 (chapter 10). -/
theorem test_slot_registers :
    TUL.SLOT_SRC_KIND.of 0x00000921#32 = 1 ∧ TUL.SLOT_SRC_TILE.of 0x00000921#32 = 2 ∧ TUL.SLOT_SRC_TONE.of 0x00000921#32 = 9
    ∧ TUL.SLOT_RT_IMP_PORT.of 0x03010100#32 = 1 ∧ TUL.SLOT_RT_HOPS.of 0x03010100#32 = 1 ∧ TUL.SLOT_RT_PUBDEV.of 0x03010100#32 = 3 := by decide

/-- Patch 0 with the tables of the test patch (example at the end of chapter 11). -/
def stPatch0 : State :=
  wrBytes 0x12100000 (toBytes 0x80040080 4 ++ toBytes 0x80040083 4) (wrBytes 0x12100400 (toBytes 0x80000001 4 ++ toBytes 0x00040081 4) readyState)

/-- A closed round of that patch with an event vector. -/
def round0 (ev reason : Nat) : Round :=
  { c := 632, reason := reason, ev := ev, rnd := 0, cfg := 0x1007#32, map := 0x04000200#32, held := [], missN := 0, missFirst := 0xFF, prevRef := 0 }

/-- Its matches: the pair is an error on output 1, an event at a1 alone one on output 3, and no event is a match. -/
theorem test_patch_matches :
    [3, 2, 1, 0].map (fun ev => (roundReason (round0 ev 0) false (roundEntry stPatch0 0 (round0 ev 0)),
      [0, 1, 2, 3].map (outValue ((roundEntry stPatch0 0 (round0 ev 0)).getD 0))))
    = [(0, [0, 1, 0, 0]), (0, [0, 0, 0, 1]), (0, [1, 0, 0, 0]), (0, [0, 0, 0, 0])] := by decide +kernel

/-- The word of slot 200 of the link example in chapter 12: entry 0x0005_D901 of tag 7 is recovered to e = 120,007. -/
theorem test_decision_entry : egressFc 120011 7 = 120007 ∧ egressFc 120008 7 = 120007 ∧ (0x5D901 : Nat) % 32 = 1
    ∧ entryDec 1 = { val := 1, leak := false, lowc := false, ndet := false } ∧ mwBits 0x5D901 5 9 = 200 ∧ mwBits 0x5D901 14 4 = 7 := by decide

/-- CH_CFG 0x1002_1702 binds stream slot 2 of page 0x17 to a host buffer of 2^16 units (example under R378). -/
theorem test_stream_channel : PCI.CH_CFG_MODE.of 0x10021702#32 = 2 ∧ PCI.CH_CFG_BTILE.of 0x10021702#32 = 0x17
    ∧ PCI.CH_CFG_BSLOT.of 0x10021702#32 = 2 ∧ PCI.CH_CFG_HSIZE_LOG2.of 0x10021702#32 = 16 := by decide

/-- Line 0x1234 of DRV5's envelope memory lies at 0x0294_8D00, a memory of kind 2 of page 0x15 (example of chapter 18). -/
theorem test_envelope_line : 0x02800000 + 0x100000 + 0x1234 * 64 = 0x02948D00
    ∧ (memAt 0x02948D00).map (fun m => (m.page, m.kind)) = some (0x15, 2) ∧ kindClass 2 = .shadowed := by decide

/-- The segment of the jump example in chapter 19: a jump detected at 100,063 starts segment 5 at 100,064; one of 100,064 waits. -/
theorem test_jump_on_last_vector :
    let run := fun f : Nat =>
      let s := { putF pPat PAT.SEG_LEN_LEN 32 2 (putF pPat PAT.SEG_LEN_LEN 8 5 (putF pPat PAT.SEG_CTL_EN 1 5 (putF pPat PAT.SEG_CTL_EN 1 2
        (putF pPat PAT.SEG_CTL_REPEAT 3 2 (putF pPat HDR.STATUS_RUN 1 0 readyState))))) with
        time := 100064#64, pat := { seg := 2, pos := 32, passEnd := 100064, jump := some (5, f) } }
      let t := after (exec .passEnd s) s
      (t.pat.seg, t.pat.pin, t.pat.jump.isSome)
    run 100063 = (5, 100064, false) ∧ run 100064 = (2, 100064, true) := by decide +kernel

/-- The refused loop of chapter 20: comparator 12 may not strobe the group of its own output. -/
theorem test_loop_refused :
    let s := putF 8 BIA.BIAS_CFG_GROUP 1 12 readyState
    let t := after (exec (.evmChCfgWrite .host 5 0x8002004C) s) s
    rdWord t (EVM.CH_CFG.addr 7 5) = rdWord s (EVM.CH_CFG.addr 7 5) ∧ irqStat t 7 1 = true
    ∧ (pageErr t 7).fifo.map (fun e => e.info) = [0x0505#32] := by decide +kernel

/-- RST_CTL of the examples of chapters 22 and 23: key 0x5AFE requests the start; another key does nothing but its record. -/
theorem test_rst_key :
    (after (exec (.rstWarm .host 0x5AFE) readyState) readyState).boot.req.isSome = true
    ∧ (after (exec (.rstWarm .host 0x5AFF) readyState) readyState).boot.req = none := by decide +kernel

/-- A step takes the command at the front of the queue and leaves the rest. -/
theorem test_step_takes_front :
    let s := { readyState with pending := [.irqForce .host 6 1#32, .monPeriod] }
    ∃ t, step s = .next t ∧ t.pending = [.monPeriod] ∧ irqStat t 6 0 = true := ⟨_, rfl, by decide⟩

/-- Nothing a table word spells is a command: the table gives its rows no bits. -/
theorem test_no_words : decodeTableWord 16 0 = none := rfl

/-! ### What the hypotheses of the statements allow -/

theorem witness_IdleStepIsOneCycle :
    (∃ s : State, s.pending = [] ∧ isSet s 1 CLK.PLL_STAT_LOCK = false ∧ s.pll.holdover = false)
    ∧ (∃ s : State, s.pending = [] ∧ s.pll.holdover = true ∧ isSet s 1 CLK.PLL_STAT_BACKUP = false ∧ lanesQuiet s = true)
    ∧ isSet (putF 1 CLK.PLL_STAT_BACKUP 1 0 State.reset) 1 CLK.PLL_STAT_BACKUP = true
    ∧ (∃ s : State, s.pending = [] ∧ isSet s 1 CLK.PLL_STAT_LOCK = true ∧ (∀ b < 32, tilePlays s b = false) ∧ (∀ b ∈ usedTiles s, isRdo b = false) ∧ s.pat.frozen.isSome = true ∧ lanesQuiet s = true)
    ∧ (let s := stVector
       s.pat.frozen = none ∧ (((s.pat.outs.filter (fun v => decide ((fcNow s).toNat < v.pin + patPer s))).filter (fun v => decide (v.pin ≤ (fcNow s).toNat))).getLast?).isSome = true) :=
  ⟨⟨State.reset, by decide⟩, ⟨{ putF 1 CLK.PLL_STAT_BACKUP 0 0 State.reset with pll := { holdover := true } }, by decide⟩, by decide,
   ⟨{ putF 1 CLK.PLL_STAT_LOCK 1 0 State.reset with pat := { frozen := some 0 } }, by decide +kernel⟩, by decide +kernel⟩

theorem witness_BasebandRotation :
    let ch : Chan := { t := 0, len := 1, start := 0, stream := false, hold := false, amp := 0x200, phs := 0, conj := false, f := 5, x := false, z := false, addr := 0 }
    (let b := baseband ch { re := 16384, im := 1 }; -(2 ^ 17) < b.re ∧ b.re < 2 ^ 17 - 1 ∧ -(2 ^ 17) < b.im ∧ b.im < 2 ^ 17 - 1)
    ∧ ch.f % 2 ^ 12 ≠ 2 ^ 11 := by decide +kernel

theorem witness_ConverterSamples :
    (let r : FetchRun := { chan := 2, pt := 16, stream := false, src := 0, t := 16, left := 3, addr := 0 }
     let s := modTile 3 (fun x => { x with fetches := [r] }) State.reset
     r ∈ (tileOf s 3).fetches ∧ lineBad s (aperture 3 + 0x100000 + 16 * r.src) = false ∧ 2 ≤ r.left)
    ∧ dacBlank (putF (tilePage 3) DRV.STATUS_BLANK 1 0 State.reset) 3 0 = true
    ∧ (∀ k < 16, -8192 ≤ dacSum State.reset 3 1 0 k ∧ dacSum State.reset 3 1 0 k ≤ 8191)
    ∧ (let o : FOut := {}; o.coef.a.length = 4 ∧ o.lp = List.replicate 4 (0 * 2 ^ 16) ∧ o.hist.length = 32)
    ∧ chanOn State.reset 24 15 = false
    ∧ (let s := putF (tilePage 24) FLX.OUT_CFG_EN 1 15 (putF (tilePage 24) FLX.OUT_LVL_LIM 100 15 State.reset)
       chanOn s 24 15 = true ∧ -32768 ≤ fluxOffs s 24 15 - fluxLim s 24 15 ∧ fluxOffs s 24 15 + fluxLim s 24 15 ≤ 32767)
    ∧ rampFactor { ramp := some { t0 := 0, target := 0 } } 31 = 0 := by decide +kernel

theorem witness_NoCommandChangesPartOrQueue :
    accessOk .monPeriod = true ∧ accessOk (.regWrite .host 0xFFFFFC 0#32 15 (.read 4)) = true ∧ accessOk (.bar2Read 0 64) = true
    ∧ accessOk (.regWrite .host 0xFFFFFE 0#32 15 (.read 4)) = false := by decide

theorem witness_EveryStepKeepsInvariant : State.reset.Inv ∧ ∃ t, step State.reset = .next t :=
  ⟨⟨by decide, fun _ => by simp [State.reset, pageErr, smGet, smFind], rfl, rfl⟩, ⟨_, rfl⟩⟩

theorem witness_ReferenceAndLock :
    (∃ s, isSet s 1 CLK.PLL_STAT_REF_OK = true ∧ isSet s 1 CLK.PLL_STAT_LOCK = false ∧ s.pll.acquiring = true ∧ s.pll.holdover = false)
    ∧ (∃ s, isSet s 1 CLK.PLL_STAT_REF_OK = true ∧ isSet s 1 CLK.PLL_STAT_LOCK = true)
    ∧ (∃ s : State, s.pll.holdover = true ∧ s.up < s.pll.holdAt + 32) ∧ (∃ s : State, s.pll.holdover = true ∧ s.pll.holdAt + 32 ≤ s.up)
    ∧ (∃ s, busOpen s .host 1 = true) :=
  ⟨⟨{ putF 1 CLK.PLL_STAT_REF_OK 1 0 State.reset with pll := { acquiring := true } }, by decide⟩,
   ⟨putF 1 CLK.PLL_STAT_LOCK 1 0 (putF 1 CLK.PLL_STAT_REF_OK 1 0 State.reset), by decide⟩,
   ⟨{ State.reset with pll := { holdover := true } }, by decide⟩,
   ⟨{ State.reset with pll := { holdover := true }, up := 32 }, by decide⟩, ⟨readyState, by decide⟩⟩

theorem witness_SyncAndEpoch :
    (∃ s, getF s 1 CLK.SYNC_CTL_SRC = 0 ∧ isSet s 1 CLK.PLL_STAT_REF_OK = true ∧ isSet s 1 CLK.PLL_STAT_LOCK = true
      ∧ isSet s 1 CLK.SYNC_CTL_ARM = true ∧ isSet s 1 HDR.CTRL_FREEZE = false)
    ∧ 2 ≠ getF State.reset 1 CLK.SYNC_CTL_SRC ∧ (∃ s, isSet s 1 HDR.CTRL_FREEZE = true)
    ∧ (∃ s : State, getF s 1 CLK.SYNC_CTL_SRC = 1 ∧ isSet s 1 CLK.PLL_STAT_LOCK = false ∧ isSet s 1 HDR.CTRL_FREEZE = false ∧ s.pll.soft = true)
    ∧ (∃ s, busOpen s .host 1 = true ∧ sBlocked s .host 1 CLK.SYNC_CTL.off = false)
    ∧ (∃ s, busOpen s .host 1 = true ∧ sBlocked s .host 1 CLK.SYNC_CTL.off = true)
    ∧ (∃ s, s.pll.epochs = [(0, none)] ∧ 0 ≤ now s ∧ isSet s 1 CLK.PLL_STAT_LOCK = true ∧ isSet s 1 HDR.CTRL_FREEZE = false)
    ∧ (∃ s, s.pll.epochs = [(80, none)] ∧ now s < 80) ∧ pageUp readyState 1 = true :=
  ⟨⟨putF 1 CLK.SYNC_CTL_ARM 1 0 (putF 1 CLK.PLL_STAT_LOCK 1 0 (putF 1 CLK.PLL_STAT_REF_OK 1 0 State.reset)), by decide⟩,
   by decide, ⟨putF 1 HDR.CTRL_FREEZE 1 0 readyState, by decide⟩,
   ⟨{ putF 1 CLK.SYNC_CTL_SRC 1 0 State.reset with pll := { soft := true } }, by decide⟩,
   ⟨readyState, by decide⟩, ⟨putF 0x10 HDR.STATUS_RUN 1 0 readyState, by decide⟩,
   ⟨{ putF 1 CLK.PLL_STAT_LOCK 1 0 State.reset with pll := { epochs := [(0, none)] } }, by decide⟩,
   ⟨{ State.reset with pll := { epochs := [(80, none)] } }, by decide⟩, by decide⟩

theorem witness_RegisterWrite :
    (pageTakes readyState .host 6 = true ∧ pageUp readyState 6 = true) ∧ pageKind 6 = some .mic ∧ (∃ s, busOpen s .hoop 0x10 = true ∧ sBlocked s .hoop 0x10 0x048 = false)
    ∧ (busOpen stRunning .host 0x10 = true ∧ sBlocked stRunning .host 0x10 0x048 = true ∧ bWaits stRunning .host 0x10 0x100 = true)
    ∧ mapped .drv 0x07C = false ∧ pageUp readyState 0x10 = true ∧ mapped .mic 0x03C = true
    ∧ (∃ s, pagePresent s 0x18 = false) ∧ reachable State.reset 6 = false :=
  ⟨by decide, rfl, ⟨readyState, by decide⟩, by decide, by decide, by decide, by decide,
   ⟨{ State.reset with variant := .mq128 }, by decide⟩, by decide⟩

theorem witness_BusRefusals :
    (∃ s, pageTakes s .host 0x10 = true ∧ getF s 0x10 HDR.OWNER_OWN ≠ 0 ∧ getF s 0x10 HDR.OWNER_OWN ≠ reqCode .host)
    ∧ (∃ s, pagePresent s 0x10 = true ∧ isSet s 0 GLB.START_STAT_READY = true ∧ seenSet s .host 0x10 HDR.STATUS_RST_BUSY = true)
    ∧ reachable State.reset 0x10 = false :=
  ⟨⟨putF 0x10 HDR.OWNER_OWN 2 0 readyState, by decide⟩, ⟨putF 0x10 HDR.STATUS_RST_BUSY 1 0 readyState, by decide⟩, by decide⟩

theorem witness_LockedFields : pageTakes stLockedTile .host 0x10 = true ∧ getF stLockedTile 0x10 HDR.OWNER_OWN = 0
    ∧ isSet stLockedTile 0x10 HDR.LOCK_LK_CFG = true ∧ sBlocked stLockedTile .host 0x10 0x048 = false := by decide

theorem witness_PageControl :
    busOpen stRunning .host 0x10 = true ∧ isSet stRunning 0x10 HDR.CTRL_FREEZE = false ∧ tileState stRunning 0 = stRun
    ∧ isSet stRunning 0x10 HDR.CTRL_EN = true ∧ busOpen readyState .host 6 = true ∧ isSet readyState 6 HDR.CTRL_FREEZE = false
    ∧ isSet readyState 6 HDR.CTRL_EN = true ∧ tileState readyState 0 = stStopped ∧ busOpen stFrozenTile .host 0x10 = true
    ∧ isSet stFrozenTile 0x10 HDR.CTRL_FREEZE = true ∧ busOpen stResetting .host 6 = true
    ∧ smFind 6 stResetting.softRst = some 0 := by decide

theorem witness_InterruptForce : busOpen readyState .host 6 = true ∧ pageKind 6 = some .mic := by decide

theorem witness_ErrorRecordsAndOwner :
    pageTakes readyState .host 6 = true ∧ getF readyState 6 HDR.OWNER_OWN = 0
    ∧ (∃ s, pageTakes s .host 6 = true ∧ getF s 6 HDR.OWNER_OWN = reqCode .host)
    ∧ (∃ s, pageTakes s .host 6 = true ∧ getF s 6 HDR.OWNER_OWN ≠ 0 ∧ ¬ getF s 6 HDR.OWNER_OWN = reqCode .host)
    ∧ pageTakes readyState .host (tilePage 3) = true :=
  ⟨by decide, by decide, ⟨putF 6 HDR.OWNER_OWN 1 0 readyState, by decide⟩, ⟨putF 6 HDR.OWNER_OWN 2 0 readyState, by decide⟩, by decide⟩

theorem witness_ErrorRecordsAndOwner_records :
    ((pageErr State.reset 6).fifo.length < 4 ∧ (pageErr State.reset 6).batch = []) ∧ (4 ≤ (pageErr stFullFifo 6).fifo.length ∧ (pageErr stFullFifo 6).batch = [])
    ∧ State.reset.fatal = none
    ∧ (let s := errRec 6 0x21 0 7 0 0 State.reset
       (pageErr s 6).mc = mcNow s ∧ (pageErr s 6).batch ≠ [] ∧ (pageErr s 6).old ≤ (pageErr s 6).fifo.length ∧ (pageErr s 6).fifo.length ≤ 4
       ∧ (pageErr s 6).batch.Pairwise (fun x y => x.unit ≤ y.unit)) := by decide

theorem witness_TambourStartAndStop :
    (busOpen stGo .host 0x10 = true ∧ goRefusal stGo .host 0 = none)
    ∧ (busOpen readyState .host 0x10 = true ∧ goRefusal readyState .host 0 = some 0x42)
    ∧ (tileState stArmedTile 0 = stArmed ∧ tmbStart stArmedTile 0 ≤ now stArmedTile + 16 ∧ busOpen stArmedTile .host 0x10 = true)
    ∧ (busOpen stRunning .host 0x10 = true ∧ tmbOn stRunning 0 = true ∧ tileState stRunning 0 = stRun ∧ tmbOn readyState 0 = false)
    ∧ ((tileOf stStopWord 0).stopAt = some 0 ∧ tileState stStopWord 0 = stRun)
    ∧ ((tileOf stRamp 0).ramp = some { t0 := 0, target := 0 } ∧ 0 + 32 ≤ now stRamp) := by decide

theorem witness_IssueAndWaits :
    ((tileOf stIssue 0).next = some 9 ∧ tmbOn stIssue 0 = true ∧ (tileOf stIssue 0).waiting = none
      ∧ (tileOf stIssue 0).issueAt ≤ now stIssue ∧ (tileOf stIssue 0).queue.length < 512
      ∧ parityFails (genParity 180 20 stIssue) 0 9 = 0 ∧ parityFails stIssue 0 9 ≠ 0)
    ∧ ((tileOf stWaiting 0).waiting.isSome = true ∧ govQueued stWaiting 0 = false
      ∧ (tileOf stWaiting 0).waiting.all (fun w => (keyResolve 0 w stWaiting).isSome) = true)
    ∧ (let s := { stWaiting with time := 0#64 }
       (tileOf s 0).waiting.all (fun w => (keyResolve 0 w s).isNone && decide (keyDeadline (govKey s 0 w.w.tkey) w.t w.ts = now s)) = true)
    ∧ (tileOf stWaitLong 0).waiting.all (fun w => (keyResolve 0 w stWaitLong).isNone
      && decide (now stWaitLong < keyDeadline (govKey stWaitLong 0 w.w.tkey) w.t w.ts)) = true
    ∧ ((tileOf stEval 0).waiting.isSome = true ∧ govQueued stEval 0 = false) := by decide +kernel

theorem witness_ReleaseAndBoundary :
    ((tileOf stQueued 0).queue.head? = some { addr := 3, t := 0, w := word0 } ∧ tileState stQueued 0 = stRun)
    ∧ (readyAct (stWord 0 { word0 with bnd := 15 } [.boundary]) 0 .boundary).isSome = true
    ∧ isSet (stWord 0 { word0 with bnd := 15 } [.boundary]) 0x10 TMB.TMB_STAT_STOP_PEND = false
    ∧ (readyAct (stWord 0 { word0 with bnd := 3 } [.gap]) 0 .gap).isSome = true := by decide

theorem witness_FrameAndLoopOperations :
    (readyAct (stWord 0 { word0 with fop := 1, frm := 3 } [.frame]) 0 .frame).isSome = true
    ∧ (readyAct (stWord 16 { word0 with fop := 2 } [.frame]) 16 .frame).isSome = true
    ∧ (tileOf (stDeferred (.cadd 0 2 5)) 0).deferred = [.cadd 0 2 5]
    ∧ (readyAct (stWord 0 { word0 with lop := 1, lval := 9, ctr := 3 } [.loop]) 0 .loop).isSome = true := by decide

theorem witness_FrameAndLoopOperations_value : ∃ r : Res, r.val < 3 ∧ MWord.csel { word0 with cond := 8 } = 0x08
    ∧ MWord.csel { word0 with cond := 0x31 } = 0x11 := ⟨{}, by decide⟩

theorem witness_FlowMarksAndPulses :
    (readyAct (stWord 0 word0 [.stop]) 0 .stop).isSome = true ∧ (readyAct (stWord 0 word0 [.branch]) 0 .branch).isSome = true
    ∧ (readyAct (stWord 0 word0 [.flowEnd]) 0 .branch).isNone = true ∧ (readyAct (stWord 0 word0 [.flowEnd]) 0 .flowEnd).isSome = true
    ∧ (readyAct (stWord 0 { word0 with mark := 5 } [.mark]) 0 .mark).isSome = true
    ∧ (readyAct (stWord 0 word0 [.blank]) 0 .blank).isSome = true
    ∧ (readyAct (stWord 0 { word0 with a := { tone := 2, pulse := 3, amp := 5, phs := 9 } } [.pulseA]) 0 .pulseA).isSome = true
    ∧ (readyAct (stWord 16 { word0 with b := { tone := 2, pulse := 3, amp := 5, phs := 9 } } [.pulseB]) 16 .pulseB).isSome = true
    ∧ peLen 0x10000 = 1 ∧ peLen 0x20000 = 2 := by decide

theorem witness_TulleOperations :
    (∀ k ∈ [1, 3, 4, 5], (readyAct (stWord 0 { word0 with top := k, frm := 4 } [.tulle]) 0 .tulle).isSome = true)
    ∧ (tileOf (stDeferred (.fapply 0 2 3)) 0).deferred = [.fapply 0 2 3] := by decide

theorem witness_StreamFill :
    busOpen readyState .host 0x10 = true ∧ dmaBound readyState 2 0x10 1 = false ∧ getF readyState 0x10 TMB.STRM_FILL 1 = 0
    ∧ getF readyState 0x10 TMB.STRM_CONS 1 = 0 ∧ 1 ≤ 2 ^ getF readyState 0x10 TMB.STRM_CFG_SIZE_LOG2 1
    ∧ 2 ^ getF readyState 0x10 TMB.STRM_CFG_SIZE_LOG2 1 < 2 ^ 30 := by decide

theorem witness_StreamSlots :
    busOpen readyState .host 0x10 = true ∧ sBlocked readyState .host 0x10 TMB.STRM_CFG_EN.off = false
    ∧ busOpen stRunning .host 0x10 = true ∧ sBlocked stRunning .host 0x10 TMB.STRM_CFG_EN.off = true
    ∧ ((tileOf stStream 0).fetches.find? (fun r => r.stream && decide (r.t ≤ now stStream + 16) && fetchLive stStream 0 r)).isSome = true
    ∧ isSet stStream 0x10 TMB.STRM_CFG_EN 1 = true := by decide

theorem witness_Windows :
    ((readyAct stAcq 16 .acq).isSome = true ∧ acqTones stAcq 16 { word0 with aux := 1 } = [1])
    ∧ ((winsOf (stWin win1) 16).map (fun e => (e.2.tone, e.2.st, e.2.o)) = [(1, .sched, 0)])
    ∧ ((winsOf (stWin { win1 with st := .opened }) 16).map (fun e => (e.2.tone, e.2.st, e.2.close)) = [(1, .opened, 16)])
    ∧ (tilePresent stIl 16 = true ∧ adcClips stIl 16 (List.replicate 10 2047) = true)
    ∧ adcClips (putF 0x20 RDO.ADC_CFG_IL_EN 0 0 stRdo) 16 [] = false
    ∧ (rdoOf (putF 0x20 RDO.ADC_CFG_IL_EN 0 0 stRdo) 16).il = [] ∧ isSet (putF 0x20 RDO.ADC_CFG_IL_EN 0 0 stRdo) 0x20 RDO.ADC_CFG_IL_EN = false := by decide +kernel

theorem witness_UnmixAndDiscrimination :
    (let s := stWin { win1 with st := .closed }
     (winsOf s 16).any (fun e => decide (e.2.tone = 1) && decide (e.2.st = .closed) && e.2.unmixed.isNone && !e.2.done
        && decide (e.2.u + 16 ≤ now s)) = true)
    ∧ (let s := stWin { win1 with st := .closed, unmixed := some {} }
      (winsOf s 16).any (fun e => decide (e.2.tone = 1) && !e.2.done && e.2.unmixed.isSome && decide (e.2.u + 21 ≤ now s) && discTurn s 16 e.2) = true)
    ∧ rowSet (stWin win1) 16 1 = [1] ∧ ringTaken (stWin win1) 16 ≤ 131070
    ∧ (winsOf readyState 16).isEmpty = true ∧ (rdoOf (setRdo 16 { fresh := [0] } readyState) 16).fresh = [0] := by decide

theorem witness_StateIsNearestClass : (5 : Nat) < 8
    ∧ (judge { c := [{}, {}, {}], spr := [1, 1, 1], lowcTh := 0, leakD := 0, track := false } 6 {} false).st = 1 := by decide

theorem witness_ResultRingAndStatistics :
    let s := putF 0x20 RDO.RES_WP 10 0 readyState
    busOpen s .host 0x20 = true ∧ dmaBound s 3 0x20 0 = false ∧ posDiff 4 (getF s 0x20 RDO.RES_RP) ≤ resFill s 16
      ∧ resFill s 16 < posDiff 11 (getF s 0x20 RDO.RES_RP) ∧ pageUp s 0x20 = true := by decide

theorem witness_CoefficientLoads :
    (tilePresent readyState 16 = true ∧ isSet readyState 0x20 RDO.CHAN_STAT_READY = false ∧ busOpen readyState .host 0x20 = true)
    ∧ ((rdoOf stMatLoad 16).loading = some 0 ∧ (matLines 16 0).any (lineBad stMatLoad) = false ∧ tileRunning stMatLoad 16 = false)
    ∧ busOpen readyState .host 0x28 = true
    ∧ ((fluxOf stCorrLoad 24 1).loading = some 2 ∧ [coefAddr 24 1 2, coefAddr 24 1 2 + 0x40].any (lineBad stCorrLoad) = false)
    ∧ (isSet readyState 0x20 HDR.CTRL_FREEZE = false ∧ isSet (putF 0x20 HDR.CTRL_FREEZE 1 0 readyState) 0x20 HDR.CTRL_FREEZE = true)
    ∧ sBlocked readyState .host 0x28 FLX.OUT_CFG_RANGE.off = false
    ∧ (isSet readyState 0x28 FLX.OUT_STAT_SHORT 1 = false ∧ isSet (putF 0x28 FLX.OUT_CFG_PD 0 1 readyState) 0x28 FLX.OUT_CFG_PD 1 = false) := by
  decide

theorem witness_DecisionDelivery :
    (duePub stPub 1).any (delivTurn stPub) = true ∧ (duePub stPubTwo 5).any (fun b => !delivTurn stPubTwo b) = true ∧ (duePub stPub 1).isSome = true ∧ tulOn stPub = true ∧ slotLost stPub 1 = false ∧ keysOf stPub 0 1 = [2] ∧ tmbOn stPub 0 = true
    ∧ duePub stPub 2 = none ∧ slotLost State.reset 1 = true
    ∧ duePub { State.reset with pubs := stPub.pubs } 1 ≠ none ∧ slotKind stImport 1 = 3 := by decide

theorem witness_DarnerRounds :
    (timeoutFc stRound 0).isSome = true ∧ ((timeoutFc stRound 0).getD 9999 ≤ now stRound) ∧ isSet stRound pDrn HDR.CTRL_FREEZE = false
    ∧ ((patchOf (stClosed 0) 0).rounds.map (fun r => (r.c, roundReason r false (roundEntry (stClosed 0) 0 r), roundLines 0 r, roundTurn (stClosed 0) 0 r)) = [(9, 0, [], true)])
    ∧ ((patchOf (stClosed 2) 0).rounds.map (fun r => roundReason r false none) = [2])
    ∧ (patchOf { readyState with patches := [(0, { clrAt := some 0 })] } 0).clrAt = some 0
    ∧ busOpen readyState .host pDrn = true ∧ dmaBound readyState 4 0 0 = false := by decide

theorem witness_PortTraining :
    (busOpen (stPort 1) .host 0x30 = true ∧ isSet (stPort 1) 0x30 HDR.CTRL_EN = true ∧ portState (stPort 1) 0 = 1 ∧ bothLocked (stPort 1) 0 = true
      ∧ portHeld (stPort 1) 0 = false)
    ∧ (portState (stPort 2) 0 = 2 ∧ (portOf (stPort 2) 0).mode = none ∧ mainCap (stPort 2) 0 = true ∧ fbCap (stPort 2) 0 = true
      ∧ (portOf (stPort 2) 0).lockUp + 10000 ≤ ({ stPort 2 with up := 10000 } : State).up)
    ∧ (portState (stPort 4) 0 = 4 ∧ busOpen (stPort 4) .host 0x30 = true)
    ∧ portState (stPort 7) 0 = 7 ∧ isSet (putF 0x30 JDX.PORT_CFG_AUTO 1 0 (stPort 7)) 0x30 JDX.PORT_CFG_AUTO = true
    ∧ portState (stPort 5) 0 = 5 ∧ slotKind stImport 1 = 3 ∧ popcount 64 0xFFFF = 16 ∧ popcount 64 1 < 16
    ∧ (let s := modPort 0 (fun p => { p with tx := { p.tx with on := true } }) (stPort 1)
      (portOf s 0).tx.on = true ∧ 16 * s.up ≤ (portOf s 0).tx.start ∧ (portOf s 0).tx.start < 16 * s.up + 16) := by decide

/-- Bits of 64 blocks with valid headers, and bits without any, exist (R330). -/
theorem witness_PortTraining_lock : locks 0 = false ∧ locks ((List.range 64).foldl (fun a j => a + 2 ^ (66 * j)) 0) = true := by decide +kernel

theorem witness_PortReceive :
    (portState (stPort 5) 0 = 5 ∧ isSet (stPort 5) 0x30 JDX.STATUS_PEER_IDLE = false ∧ (portOf (stPort 5) 0).openMsg = none
      ∧ freeBufs (stPort 5) 0 = 4 ∧ portHeld (stPort 5) 0 = false ∧ isSet (stPort 5) 0x30 JDX.STATUS_LOCK1 = true)
    ∧ portState (stPort 3) 0 = 3 ∧ isSet (putF 0x30 JDX.STATUS_PEER_IDLE 1 0 (stPort 5)) 0x30 JDX.STATUS_PEER_IDLE = true
    ∧ crc7 (descramble 5 (scramble 5 decPay)) = blockCrc (descramble 5 (scramble 5 decPay)) ∧ bit (blockEntry decPay 0) 18 = 1
    ∧ crc7 (descramble 0 1) ≠ blockCrc (descramble 0 1)
    ∧ isSet (putF 0x30 JDX.STATUS_FBM 1 0 (stPort 5)) 0x30 JDX.STATUS_FBM = true
    ∧ devDue (modPort 0 (fun x => { x with rx := [{ slot := 1, dec := { val := 1, leak := false, lowc := false, ndet := false }, rel := 0, fb := false }] }) stImport) 0 = false
    ∧ devDue (setTile 0 { released := [{ addr := 5, t := 0, w := word0, todo := [.boundary], dev := true, pa := 0, pb := 0, fv := 0 }] } readyState) 0 = true := by
  decide +kernel

theorem witness_PortStampsAndIdle :
    portState (stPort 4) 0 = 4 ∧ isSet (stPort 4) 0x30 JDX.STATUS_PEER_IDLE = false ∧ portHeld (stPort 4) 0 = false
    ∧ portState (stPort 5) 0 = 5 ∧ isSet (stPort 5) 0x30 JDX.STATUS_FBM = false ∧ busOpen (stPort 5) .host 0x30 = true
    ∧ (portOf (stPort 5) 0).tx.idleSent = false ∧ (portOf (stPort 5) 0).tx.since < 1024
    ∧ portState (stPort 6) 0 = 6 ∧ busOpen (stPort 6) .host 0x30 = true
    ∧ (let s := modPort 0 (fun p => { p with peerIdleAt := some 1, tx := { p.tx with framed := true, idleSent := true, since := 1024, loops := [.stamp 3] } }) (stPort 5)
      (portOf s 0).tx.idleSent = true ∧ (portOf s 0).tx.b = 0 ∧ (portOf s 0).tx.start ≤ 16 * (s.up + 1) ∧ portState s 0 = 5
      ∧ (portOf s 0).tx.framed = true ∧ (portOf s 0).tx.loops = [.stamp 3])
    ∧ (portOf (modPort 0 (fun p => { p with tx := { p.tx with burst := 1 } }) (stPort 6)) 0).tx.burst = 1 := by decide

theorem witness_Discovery :
    cstOn stCst = true ∧ elapsed stCst stCst.cst.helloUp 10 = true ∧ portState stCst 0 = 5 ∧ joined stCst = true
    ∧ usedNums stCst = [] ∧ cstOn readyState = false
    ∧ (let s := stMsg 1 (toBytes 77 8 ++ toBytes 9 1 ++ toBytes 0 7); (inbox s 0 1).isSome = true)
    ∧ (let s := putF pCst CST.STATUS_JOINED 0 0 stCst
       cstOn s = true ∧ joined s = false ∧ activePorts s = [0] ∧ s.cst.clash = none) := by decide +kernel

theorem witness_RouteRequests :
    (busOpen stCst .host pCst = true ∧ isSet stCst pCst CST.RQ_STAT_BUSY 0 = false ∧ cstOn stCst = true)
    ∧ isSet (putF pCst CST.RQ_STAT_BUSY 1 0 stCst) pCst CST.RQ_STAT_BUSY 0 = true
    ∧ (let s := { stNet with cst := { stNet.cst with goes := [(0, (1, false, false))] } }
       busOpen s .host pCst = true ∧ joined s = true ∧ smFind 0 s.cst.goes = some (1, false, false) ∧ localSource s 2 = true ∧ slotHeld s 2 = false
       ∧ getF s pCst CST.RQ_SLOT_SLOT 0 = 2 ∧ reachFault s (routeTree s false) (clrBit (getF s pCst CST.RQ_DEST 0) (ownNum s)) = none
       ∧ (pruneTree (routeTree s false) (clrBit (getF s pCst CST.RQ_DEST 0) (ownNum s))).map TreeNode.num = [9])
    ∧ (smFind 0 stRq.cst.rq).isSome = true ∧ elapsed stRq (some 0) 10 = false ∧ elapsed { stRq with up := 10000000 } (some 0) 10 = true := by
  decide +kernel

theorem witness_ReservationMessages :
    (let s := stMsg 0x10 (reserveBody 9 6 { imp := some 0, exports := 0, hops := 1, pubdev := 0, lat := 50, ndet := false })
     (inbox s 0 0x10).isSome = true ∧ reserveFault s 9 6 { imp := some 0, exports := 0, hops := 1, pubdev := 0, lat := 50, ndet := false } = none)
    ∧ (∀ k ∈ [0x11, 0x12, 0x13, 0x14, 0x15], (inbox (stMsg k (routeBody 7 4 0)) 0 k).map (fun bs => msgField bs 0 4) = some 7)
    ∧ (rqOf stRq 7).isSome = true ∧ (stRq.cst.rq.map (fun e => (e.1, e.2.auto, e.2.committing))) = [(0, false, false)]
    ∧ ((portOf (stMsg 0x20 (toBytes 9 8 ++ toBytes 5 4)) 0).msgs.find? (fun m => decide (msgType m.2 = 0x20))).isSome = true := by
  decide +kernel

theorem witness_HostMemoryAccess :
    (memAt 0x100000).isSome = true ∧ bar2Ok 0x100000 64 = true ∧ ready readyState = true
    ∧ (∀ l ∈ linesOf64 0x100000 64, lineBad readyState l = false ∧ (lineSt readyState l).recov = none)
    ∧ ready State.reset = false ∧ bar2Ok 0 0 = false ∧ isSet readyState 6 MIC.FLIP_SEL_ARM = false
    ∧ (memAt 0).map (fun m => (m.kind, isSet stRunning m.page HDR.STATUS_RUN)) = some (0, true)
    ∧ 1 ∉ readyState.msix.unmasked := by decide +kernel

theorem witness_HolesOfBar2 :
    bar2Ok 0x0AE00000 4 = true ∧ ready readyState = true ∧ (memAt 0x0AE00000).isNone = true ∧ pagePresent readyState (0x10 + 0x0AE00000 / 0x800000) = true
    ∧ (memAt 0x10200000).isNone = true
    ∧ pagePresent stReady128 (0x10 + 0x04000000 / 0x800000) = false ∧ ready stReady128 = true := by decide

theorem witness_CopyChannels :
    (let s := putF pPci PCI.CH_CFG_MODE 1 0 stHost
     busOpen s .host pPci = true ∧ chMode s 0 = 1 ∧ chState s 0 = 0 ∧ bindBad s 0 = false)
    ∧ (let s := putF pPci PCI.CH_CFG_MODE 3 0 stHost; bindBad s 0 = true ∧ chState s 0 = 0)
    ∧ (chState (stChan 1 0) 0 = 1 ∧ dmaOn (stChan 1 0) = true ∧ (chOf (stChan 1 0) 0).desc = none)
    ∧ (chOf (stCopy 2) 0).desc = some (desc0 2) ∧ hostOn (stCopy 2) = true
    ∧ (∀ l ∈ linesOf64 0x100000 16, lineBad (stCopy 2) l = false ∧ (lineSt (stCopy 2) l).recov = none)
    ∧ (let s := putF pPci PCI.CH_TAIL_TAIL 3 0 (stChan 1 0); getF s pPci PCI.CH_HEAD_HEAD 0 ≠ getF s pPci PCI.CH_TAIL_TAIL 0)
    ∧ malformed (parseDesc 0 descBytes) descBytes = false ∧ rangeFault (stChan 1 0) 0x100000 16 1 = none
    ∧ chState (putF pPci PCI.CH_STAT_STATE 2 0 stHost) 0 = 2 ∧ chState (putF pPci PCI.CH_STAT_STATE 3 0 stHost) 0 = 3
    ∧ (lineSt (setLine 0x100000 { recov := some {} } readyState) 0x100000).recov.isSome = true
    ∧ (chOf (modCh 0 (fun x => { x with desc := some { desc0 1 with landed := true } }) (stChan 1 0)) 0).desc = some { desc0 1 with landed := true }
    ∧ (∀ l ∈ linesOf64 0x100000 16, (lineSt (stChan 1 0) l).recov = none) := by decide +kernel

theorem witness_BoundChannelsAndMailbox :
    (let s := modCh 0 (fun x => { x with reads := [(0, 4)] }) (stChan 2 0x10)
     chState s 0 = 1 ∧ (chOf s 0).reads.head? = some (0, 4) ∧ getF s pPci PCI.CH_CFG_BTILE 0 = 0x10)
    ∧ (let s := { putF pPci PCI.CH_CFG_HSIZE_LOG2 5 0 (stChan 4 0) with esc := [5] }
       chMode s 0 = 4 ∧ dmaOn s = true ∧ burstSize s 0 = 1)
    ∧ (let s := putF 0x20 RDO.RES_WP 5 0 (putF pPci PCI.CH_CFG_HSIZE_LOG2 5 0 (stChan 3 0x20))
       chMode s 0 = 3 ∧ burstSize s 0 = 5)
    ∧ (let s := putF pPci PCI.CH_IRQ_HOLD 3 0 (putF pPci PCI.CH_DPOS 3 0 (stChan 2 0x10))
       getF s pPci PCI.CH_IRQ_HOLD 0 ≠ 0 ∧ getF s pPci PCI.CH_DPOS 0 ≠ (chOf s 0).told ∧ isSet s pPci HDR.CTRL_FREEZE = false
         ∧ timerDue { s with up := 3000 } (tmHold 0) 3000 = true)
    ∧ busOpen readyState .host pPci = true ∧ isSet readyState pPci PCI.MIT_STAT_BUSY = false
    ∧ isSet (putF pPci PCI.MIT_STAT_BUSY 1 0 readyState) pPci PCI.MIT_STAT_BUSY = true
    ∧ isSet (putF pPci PCI.MBX_STAT_BUSY 1 0 readyState) pPci PCI.MBX_STAT_BUSY = true := by decide +kernel

theorem witness_SmbusTarget : (0 : Nat) ≠ 0xA5 := by decide

theorem witness_CalibrationRuns :
    (busOpen stCal .host pCal = true ∧ isSet stCal pCal HDR.CTRL_EN = true)
    ∧ (let s := { stCal with up := 300 }
       tileUsable s 24 = true ∧ calPending s 24 = true ∧ calOn s = true ∧ isSet s pCal CAL.CAL_CTL_EN_DAC = true
        ∧ (calTile s 24).snapWait = false ∧ measurable s 24 = true ∧ (calTile s 24).stepAt + 64 ≤ s.up
        ∧ isSet s 1 CLK.PLL_STAT_LOCK = true
        ∧ (∀ d < dacCount 24, (quiet s 24 d && ((List.replicate 16 (some (3 : Int))).getD d none).isSome) = true)
        ∧ getF s pCal CAL.TILE_RUN_STEPS 24 + 1 < stepCount 24)
    ∧ timerDue { stCal with up := 10 ^ 12 } (tmStale 24) (staleLimit stCal) = true ∧ timerDue stCal (tmStale 24) (staleLimit stCal) = false
    ∧ (let u := enterStep 24 1 (List.replicate 16 (some 3)) { stCalEnd with up := 300 }
       getF stCalEnd pCal CAL.TILE_RUN_STEPS 24 + 1 = stepCount 24 ∧ runCheck u 24 (runVals u 24) = none)
    ∧ (let u := enterStep 24 1 (List.replicate 16 (some 99999)) { stCalEnd with up := 300 }
       (runCheck u 24 (runVals u 24)).isSome = true)
    ∧ calPending readyState 0 = false := by decide +kernel

theorem witness_CalibrationEstimates :
    blockReady stAdc 16 = true
    ∧ (calTile stAdc 16).blockOvr = false
    ∧ 2 ^ 12 * (blockLen : Int) ^ 2 ≤ ((List.replicate 16 ((0 : Int), (2 ^ 40 : Nat), (0 : Int))).map varOf).sum
    ∧ (isRdo 16 && tileUsable stDisc 16 && calOn stDisc && isSet stDisc pCal CAL.CAL_CTL_EN_DISC && stDisc.boot.fw
        && decide (2 ^ getF stDisc pCal CAL.DISC_CFG_NP ≤ (trackOf stDisc 16 1).n)) = true
    ∧ skewTakes stSkRoot = true
    ∧ timeRoot stSkRoot = some (ownNum stSkRoot)
    ∧ skewTakes stSkLeaf = true
    ∧ timeRoot stSkLeaf ≠ some (ownNum stSkLeaf) ∧ some (getF stSkLeaf pCst CST.TIME_STAT_PARENT) = timeRoot stSkLeaf
    ∧ portState stSkLeaf (timePort stSkLeaf) = 5 ∧ (portOf stSkLeaf (timePort stSkLeaf)).mode = some false := by decide +kernel

theorem witness_CalibrationStores :
    busOpen stCal .host pCal = true ∧ stCal.cal.storing = none ∧ storeCopy stCal = 0
    ∧ ({ stCal with cal := { stCal.cal with storing := some 1 } }).cal.storing = some 1 := by decide +kernel

theorem witness_BiasOutputs :
    isSet stBia pBia BIA.BIAS_STAT_LIMIT 5 = false ∧ freshCode stBia 1 = none ∧ (freshCode (putF 1 CLK.PLL_STAT_LOCK 1 0 (writeCode 1 99 stBia)) 1).isSome = true
    ∧ busOpen (putF pBia HDR.CTRL_FREEZE 1 0 stBia) .host pBia = true
    ∧ busOpen stBia .host pBia = true ∧ clearInForce stBia = false ∧ isSet stBia pBia HDR.CTRL_FREEZE = false ∧ isSet stBia 0 GLB.START_STAT_SAFE = false
    ∧ getF stBia pBia BIA.BIAS_CFG_GROUP 1 = 2 ∧ biasState stBia 1 = 0 ∧ strobeView stBia 1 = (77, 1) ∧ bit (getF stBia pBia BIA.BIA_CTL_PIN_EN) 2 = 1
    ∧ getF stBia pBia BIA.BIAS_CFG_RANGE 1 = 0 ∧ smFind 3 stBbm.bias.bbm = some 0 ∧ biasState stBbm 3 = 2 ∧ isSet stBbm pBia HDR.CTRL_FREEZE = false
    ∧ clearInForce { stBia with bias := { stBia.bias with clrLow := true } } = true ∧ biasState stBia 5 ≠ 2 ∧ smGet 0 5 stBia.bias.range = 0 := by decide +kernel

theorem witness_WindowComparators :
    monWindow stMon 5 = true ∧ isSet stMon pMon MON.MON_STAT_UNARMED 5 = false ∧ monInput stMon 5 50 0 < getF stMon pMon MON.MON_THR_LO 5
    ∧ getF stMon pMon MON.MON_THR_HI 5 < monInput stMon 5 900 0 ∧ isSet stMon pMon MON.MON_STAT_TRIP_LO 5 = false ∧ monTest stMon 5 = 0
    ∧ monWindow readyState 5 = false ∧ (monWindow stMonUn 5 && isSet stMonUn pMon MON.MON_STAT_UNARMED 5 && !monBand stMonUn 5 500) = true
    ∧ (monWindow stMonLive 5 && isSet stMonLive pMon MON.MON_STAT_LIVE 5 && monBack stMonLive 5 500) = true
    ∧ getF stMon pMon MON.MON_CTL_PERIOD ≠ 0 ∧ isSet stMon pMon MON.MON_CFG_CLRMODE 5 = true
    ∧ busOpen stMon .host pMon = true ∧ (isSet stMonRamp pMon MON.MON_CFG_MODE 5 && decide (rtrig stMonRamp 5 = 0)) = true
    ∧ isSet stMonRamp pMon MON.MON_STAT_RBUSY 5 = true ∧ monActive stMonRamp 5 = true
    ∧ getF stMonRamp pMon MON.MON_RWIN_TMIN 5 = 10 ∧ getF stMonRamp pMon MON.MON_RWIN_TMAX 5 = 500 := by decide +kernel

theorem witness_SamplerTriggersAndConversions :
    busOpen stSmp .host pHkp = true ∧ samplerOn stSmp = true ∧ stSmp.smp.rndPend = false ∧ roundRuns stSmp = false ∧ stSmp.smp.cur = none
    ∧ stSmp.smp.injPend = [] ∧ roundRuns stSmpRnd = true ∧ stSmpRnd.smp.cur = some (.round 0 false) ∧ stSmpRnd.smp.due ≤ stSmpRnd.up
    ∧ stSmpRnd.smp.rnd = some (0, true) ∧ stSmpIn.smp.cur = some (.inj 1) ∧ convInput stSmpIn (.inj 1) = 30 ∧ stSmpIn.smp.injPend = [2]
    ∧ 2 ^ avgOf stSmpIn 30 = 2 ∧ smGet (0, 0) 30 stSmpIn.smp.acc = (100, 1) ∧ samplerOn readyState = false
    ∧ samplerOn (putF pHkp HDR.CTRL_FREEZE 1 0 stSmp) = false := by decide +kernel

theorem witness_ThermalAndResultReads :
    (busOpen stShdn .host pThm = true ∧ stShdn.variant = .mq128 ∧ isSet stShdn pThm THM.STATUS_SHDN = true
      ∧ toSigned 16 (getF stShdn pThm THM.TEMP_MAX_MAX) < 1440 ∧ brokenTwo stShdn = false)
    ∧ brokenTwo (putF pThm THM.BROKEN_MASK 3 0 stShdn) = true ∧ isSet readyState pThm THM.STATUS_SHDN = false
    ∧ busOpen readyState .host pHkp = true ∧ pageUp readyState pHkp = true ∧ timerDue readyState tmRound 10000000 = true ∧ reachable State.reset pHkp = false
    ∧ (stTel.boot.fw && ready stTel && isSet stTel pThm THM.TEL_CFG_EN && isSet stTel pThm HDR.CTRL_EN) = true ∧ hostOn stTel = true
    ∧ (getF stTel pThm THM.TEL_WP + 2 ^ 32 - getF stTel pThm THM.TEL_RP) % 2 ^ 32 < telSize stTel := by decide +kernel

theorem witness_LineRecovery :
    (memAt 0x12018000).isSome = true ∧ (lineSt (stRec 1) 0x12018000).recov = some {} ∧ (lineSt (stRec 2) 0x12018000).recov = some { attempt := 2 }
    ∧ (∀ m, memAt 0x12018000 = some m → masterBytes (stRec 1) m 0x12018000 none = some (List.replicate 64 0#8))
    ∧ (∀ m, memAt 0x10000 = some m → masterBytes (stRec 1) m 0x10000 none = none)
    ∧ (lineSt stRecCopy 0x12018000).recov = some { copy := some (List.replicate 64 0#8, 8) } ∧ now stRecCopy = 9
    ∧ (memNamed stScrub 0xB 10).isSome = true
    ∧ (isSet stScrub pMic MIC.MIC_CTL_SCRUB_EN && isSet stScrub pMic HDR.CTRL_EN && !isSet stScrub pMic HDR.CTRL_FREEZE) = true
    ∧ lineBad stScrub 0x12000000 = false ∧ memNamed stScrub 0x3A 3 = none ∧ busOpen readyState .host pMic = true := by decide +kernel

theorem witness_PatternRuns :
    (busOpen stPat .host pPat && patOn stPat && decide (patSrc stPat = 0) && !patRuns stPat && isSet stPat 1 CLK.SYNC_STAT_TIME_VALID) = true
    ∧ busTime stPat + 64 ≤ addr64 stPat pPat PAT.PAT_START_LO PAT.PAT_START_HI ∧ segOn stPat (getF stPat pPat PAT.PAT_CFG_FIRST) = true
    ∧ (busOpen stPatRun .host pPat && patOn stPatRun && patRuns stPatRun) = true ∧ segOn stPatRun 2 = true ∧ segOn stPatRun 7 = false
    ∧ stPatRun.pat.stop = none ∧ stPatRun.pat.jump = none ∧ picotHigh { stPatRun with time := 2#64 } 1 = true ∧ picotHigh stPatRun 1 = false ∧ now stPatRun = 2000 ∧ stPatRun.pat.frozen = none
    ∧ (patOn stPatRun && patRuns stPatRun && decide (bit (getF stPatRun pPat PAT.PAT_TRIG_JEN) 0 = 1)) = true
    ∧ segOn stPatRun (getF stPatRun pPat PAT.PAT_TRIG_JTGT / 64 ^ 0 % 64) = true
    ∧ (let s := putF pPat PAT.PAT_CFG_SRC 1 0 stPat
       (patOn s && decide (patSrc s = 1) && decide (getF s pPat PAT.PAT_CFG_TSEL = 0) && !patRuns s) = true)
    ∧ isSet readyState 1 CLK.SYNC_STAT_TIME_VALID = false ∧ patRuns readyState = false := by decide +kernel

theorem witness_PatternVectors :
    (patRuns stPatRun = true ∧ stPatRun.pat.frozen = none ∧ stPatRun.pat.pos < segLen stPatRun stPatRun.pat.seg ∧ stPatRun.pat.pin ≤ now stPatRun + 12
      ∧ lineBad stPatRun 0x10000000 = false)
    ∧ (patRuns stPatVec = true ∧ stPatVec.pat.failed = false ∧ stPatVec.pat.vecs.head?.map (fun v => (failPins v.data 1, failPins v.data 0,
        decide (v.pin + getB stPatVec pPat PAT.PAT_STROBE_CMP_OFS ≤ now stPatVec))) = some (1, 0, true))
    ∧ (patRuns stPatEnd = true ∧ segLen stPatEnd stPatEnd.pat.seg ≤ stPatEnd.pat.pos ∧ stPatEnd.pat.passEnd ≤ now stPatEnd
      ∧ getB stPatEnd pPat PAT.SEG_CTL_REPEAT 1 = 0 ∧ getB stPatEnd pPat PAT.SEG_CTL_END 1 = 0 ∧ stPatEnd.pat.jump = none ∧ stPatEnd.pat.stop = none
      ∧ getB stPatEnd pPat PAT.SEG_CTL_NEXT 1 = 2 ∧ segOn (patCommit stPatEnd) 2 = true)
    ∧ patRuns readyState = false := by decide +kernel

theorem witness_EndStopAndJumpTogether :
    (patRuns stPatEndAll && stPatEndAll.pat.frozen.isNone && decide (segLen stPatEndAll stPatEndAll.pat.seg ≤ stPatEndAll.pat.pos)
      && decide (stPatEndAll.pat.passEnd ≤ now stPatEndAll) && decide (getB stPatEndAll pPat PAT.SEG_CTL_REPEAT stPatEndAll.pat.seg ≤ stPatEndAll.pat.pass)
      && decide (getB stPatEndAll pPat PAT.SEG_CTL_END stPatEndAll.pat.seg = 1)
      && stPatEndAll.pat.stop.any (fun f => decide (f < stPatEndAll.pat.passEnd))
      && stPatEndAll.pat.jump.any (fun e => decide (e.2 < stPatEndAll.pat.passEnd))) = true := by decide +kernel

theorem witness_EventMatrix :
    ((stEvm.evm.raised.map (fun r => evmEdge r.2)).min? = some 4 ∧ mfc stEvm = 40 ∧ evmOn stEvm = true
      ∧ isSet stEvm pEvm EVM.CH_CFG_EN 6 = true ∧ getF stEvm pEvm EVM.CH_CFG_SRC 6 = 0x40
      ∧ (gateLevel stEvm 0 (getF stEvm pEvm EVM.CH_GATE_GSEL 6) != isSet stEvm pEvm EVM.CH_CFG_GINV 6) = true)
    ∧ (stEvmFly.evm.flight.find? (fun y => stEvmFly.evm.flight.all (fun z => decide (y.due ≤ z.due))) = some { chan := 6, dst := 12, irq := true, due := 12 }
      ∧ bit (getF stEvmFly pEvm EVM.WAKE_STAT_PEND) 2 = 0 ∧ smGet 0 12 stEvmFly.evm.last = 0)
    ∧ (let s := putF pEvm EVM.TMR_PER_PERIOD 10 1 (putF 1 CLK.SYNC_STAT_TIME_VALID 1 0 (putF 1 CLK.PLL_STAT_LOCK 1 0 stEvm))
       getF s pEvm EVM.TMR_PER_PERIOD 1 ≠ 0 ∧ evmOn s = true ∧ isSet s 1 CLK.SYNC_STAT_TIME_VALID = true ∧ isSet s 1 CLK.PLL_STAT_LOCK = true
        ∧ now s / 4 % getF s pEvm EVM.TMR_PER_PERIOD 1 = getF s pEvm EVM.TMR_PH_PHASE 1
        ∧ s.evm.raised.all (fun r => r.1 ≠ 0x0F4 + 1 || r.2 / 4 ≠ mfc s / 4) = true)
    ∧ busOpen stEvm .host pEvm = true ∧ cycleOf (usedChans stEvm 3 0x80000041#32) 3 = none ∧ isSet stEvm pEvm EVM.PROT_FIXED = false
    ∧ (cycleOf (usedChans stEvm 3 0x80000183#32) 3).isSome = true ∧ getF stEvm pEvm EVM.PROT_MODE = 0 := by decide +kernel

theorem witness_HoopAndNvs :
    (hoopUp stHoop = true ∧ stHoop.hoop.urgent = [] ∧ stHoop.pcie.door = none ∧ stHoop.fatal = none ∧ stHoop.boot.fatal = none ∧ alive stHoop = true)
    ∧ hoopUp readyState = false ∧ alive readyState = false
    ∧ (hoopUp stHoopDoor = true ∧ stHoopDoor.pcie.door ≠ none ∧ stHoopDoor.pcie.cmd = none ∧ hostOn stHoopDoor = true
      ∧ refuses stHoopDoor { op := 1, seq := 9, payload := [] } 0 0 = none ∧ refuses stHoopDoor { op := 3, seq := 9, payload := [] } 0 0 = some 2)
    ∧ (hoopUp stHoopMit = true ∧ ready stHoopMit = true ∧ stHoopMit.boot.fw = true ∧ hostOn stHoopMit = true ∧ stHoopMit.pcie.mit = some (0, 1)
      ∧ mitCheck stHoopMit [] [{ dev := 0x100000, len := 64, host := 0 }] = none)
    ∧ (stNvs.hoop.recs.head? = some { tgt := 0x90000, bytes := [1#8, 2#8] } ∧ nvsWords [1#8, 2#8] = 1)
    ∧ (let s : State := { stHoop with hoop := { stHoop.hoop with urgent := [.mapOut 3 2] } }
       hoopUp s = true ∧ tileUsable s 3 = true) := by decide +kernel

theorem witness_MailboxCommands :
    (hoopTurn (stCmd 1 [7#8]) 1 = true ∧ (stCmd 1 [7#8]).pcie.cmd = some { op := 1, seq := 9, payload := [7#8] } ∧ hostOn (stCmd 1 [7#8]) = true
      ∧ hoopTurn (stCmd 1 []) 2 = false)
    ∧ (let p := toBytes 0x100000 4 ++ toBytes 128 4 ++ toBytes 5 4
       let c : Cmd := { op := 0x10, seq := 9, payload := p }
       hoopTurn (stCmd 0x10 p) 0x10 = true ∧ c.arg 0 4 % 64 = 0 ∧ c.arg 4 4 % 64 = 0 ∧ c.arg 4 4 ≠ 0 ∧ rangeFault (stCmd 0x10 p) (c.arg 0 4) (c.arg 4 4) 1 = none
         ∧ rangeFault (putF 0x10 HDR.STATUS_RUN 1 0 (stCmd 0x10 p)) 0x40 64 1 = some 4)
    ∧ (let p := toBytes 0x90000 4 ++ toBytes 4 4 ++ [1#8, 2#8, 3#8, 4#8]
       let c : Cmd := { op := 0x20, seq := 9, payload := p }
       hoopTurn (stCmd 0x20 p) 0x20 = true ∧ c.arg 0 4 % 64 = 0 ∧ 0x90000 ≤ c.arg 0 4 ∧ c.arg 0 4 + c.arg 4 4 ≤ 0x400000 ∧ c.arg 4 4 ≠ 0)
    ∧ (let p := toBytes 0x13 4 ++ toBytes 1 4
       let c : Cmd := { op := 0x40, seq := 9, payload := p }
       hoopTurn (stCmd 0x40 p) 0x40 = true ∧ tileOfPage (c.arg 0 4) = some 3 ∧ tilePresent readyState 3 = true ∧ c.arg 4 4 = 1 ∧ tileUsable (stCmd 0x40 p) 3 = true)
    ∧ (hoopTurn (stCmd 0x50 []) 0x50 = true ∧ (readyState.boot.scanned && readyState.boot.cleared) = false)
    ∧ (hoopTurn (stCmd 0x30 []) 0x30 = true ∧ hoopTurn (stCmd 0x31 []) 0x31 = true ∧ hoopTurn (stCmd 0x11 []) 0x11 = true
      ∧ hoopTurn (stCmd 0x12 []) 0x12 = true ∧ hoopTurn (stCmd 0x21 []) 0x21 = true ∧ hoopTurn (stCmd 2 []) 2 = true) := by decide +kernel

theorem witness_MailboxCommands_flash :
    hoopTurn (stCmd 0x30 (zeros 8)) 0x30 = true ∧ hoopTurn (stCmd 0x31 (zeros 4)) 0x31 = true
    ∧ ({ op := 0x30, seq := 9, payload := zeros 8 } : Cmd).arg 0 4 + ({ op := 0x30, seq := 9, payload := zeros 8 } : Cmd).arg 4 4 ≤ Config.flashSize
    ∧ ({ op := 0x31, seq := 9, payload := zeros 4 } : Cmd).arg 0 4 + (({ op := 0x31, seq := 9, payload := zeros 4 } : Cmd).payload.length - 4) ≤ Config.flashSize
    ∧ flashReach (stCmd 0x31 (zeros 4)) 0 0 = true := by
  refine ⟨by decide +kernel, by decide +kernel, ?_, ?_, by decide +kernel⟩
  · rw [show ({ op := 0x30, seq := 9, payload := zeros 8 } : Cmd).arg 0 4 + ({ op := 0x30, seq := 9, payload := zeros 8 } : Cmd).arg 4 4 = 0 by decide]
    exact Nat.zero_le _
  · rw [show ({ op := 0x31, seq := 9, payload := zeros 4 } : Cmd).arg 0 4 + (({ op := 0x31, seq := 9, payload := zeros 4 } : Cmd).payload.length - 4) = 0 by decide]
    exact Nat.zero_le _

theorem witness_DebugAccess :
    (∀ k ∈ [1, 2, 3, 4, 5], hoopTurn (stCmd 0x60 (toBytes k 4)) 0x60 = true ∧ ({ op := 0x60, seq := 9, payload := toBytes k 4 } : Cmd).arg 0 1 = k)
    ∧ hoopTurn readyState 0x60 = false
    ∧ (let s : State := stCmd 0x60 (toBytes 1 4)
       s.dbgAcc.waitEnd ≤ s.up ∧ s.dbgAcc.hash = none ∧ s.dbgAcc.nonce = none ∧ getF s 0xE DBG.DBG_STAT_LEVEL = 0)
    ∧ (let s : State := { stCmd 0x60 (toBytes 3 4) with up := 61000000000, dbgAcc := { nonce := some [] } }
       s.dbgAcc.waitEnd ≤ s.up ∧ s.dbgAcc.nonce = some [] ∧ s.dbgAcc.nonceAt + 60000000000 ≤ s.up)
    ∧ pageUp readyState 0xE = true ∧ reachable State.reset 0xE = false := by decide +kernel

theorem witness_DebugAccess_attempts (p : List Byte) :
    (let s : State := { stCmd 0x60 p with dbgAcc := { hash := some (Config.sha384 (uidBytes ++ (p.drop 4).take 16)) } }
     s.dbgAcc.waitEnd ≤ s.up ∧ s.dbgAcc.hash = some (Config.sha384 (uidBytes ++ (p.drop 4).take 16)))
    ∧ (let s : State := { stCmd 0x60 p with dbgAcc := { hash := some (0#8 :: Config.sha384 (uidBytes ++ (p.drop 4).take 16)) } }
     s.dbgAcc.hash = some (0#8 :: Config.sha384 (uidBytes ++ (p.drop 4).take 16))
       ∧ 0#8 :: Config.sha384 (uidBytes ++ (p.drop 4).take 16) ≠ Config.sha384 (uidBytes ++ (p.drop 4).take 16)) :=
  ⟨⟨Nat.zero_le _, rfl⟩, rfl, by intro h; simpa using congrArg List.length h⟩

theorem witness_StartsAndResets :
    (State.reset.boot.por ≠ none ∧ State.reset.boot.rstLow = false ∧ State.reset.boot.trip = false ∧ warmStart State.reset = false)
    ∧ (stHoop.boot.por = none ∧ stHoop.boot.trip = false ∧ stHoop.boot.rstLow = false ∧ (stHoop.boot.scanned && stHoop.boot.cleared) = false
      ∧ isSet stHoop 0 HDR.STATUS_RST_BUSY = false ∧ isSet stHoop 0 HDR.LOCK_LK_ALL = false ∧ ready stHoop = true)
    ∧ (let s : State := { stHoop with boot := { stHoop.boot with req := some (5, true) } }
       s.boot.req = some (5, true) ∧ ramping s = false ∧ s.boot.trip = false)
    ∧ (let s : State := { stHoop with up := 9, boot := { stHoop.boot with retry := true, autoWarm := true, dueAt := 7 } }
       (s.boot.retry && alive s && decide (s.boot.dueAt ≤ s.up)) = true ∧ (s.boot.autoWarm && alive s && decide (s.boot.dueAt ≤ s.up)) = true)
    ∧ (let s : State := { stHoop with boot := { stHoop.boot with trip := true } }
       (s.boot.trip && s.boot.req.isNone && decide (toSigned 16 (getF s pThm THM.TEMP_MAX_MAX) < 1440)) = true) := by decide +kernel

theorem witness_StartSequence :
    (∀ k ∈ [1, 2, 3, 4, 5, 6, 7, 8, 9, 10, 11], starting (stStep k) = true ∧ startStep (stStep k) = k ∧ warmStart (stStep k) = false)
    ∧ allOut (stStep 5) = false ∧ joined (stStep 11) = false ∧ (∀ n < 8, portState (stStep 11) n ≠ 5)
    ∧ isSet (putF 1 CLK.PLL_STAT_LOCK 1 0 (stStep 4)) 1 CLK.PLL_STAT_LOCK = true ∧ isSet (stStep 4) 1 CLK.PLL_STAT_LOCK = false
    ∧ (List.range 8).all (portSettled (stStep 10)) = false
    ∧ (List.range 8).all (portSettled (forAll (List.range 8) (fun n s => setPortState n 5 s) (stStep 10))) = true
    ∧ (let s := putF 0 GLB.START_STAT_KIND 2 0 (stStep 1)
       starting s = true ∧ warmStart s = true ∧ s.boot.fuseBad = false)
    ∧ starting readyState = false
    ∧ stepOver (stStep 10) = false ∧ stepOver { stStep 10 with up := 5000000 } = true ∧ stepOver { stStep 11 with up := 50000000 } = true
    ∧ stepOver { stStep 2 with up := 1000000 } = true ∧ stepOver { stStep 9 with up := 999999999 } = false := by decide +kernel

theorem witness_StartSequence_firmware (x : FwSlot) (h : fwOk x = true) :
    [x].any fwOk = true ∧ starting (stStep 7) = true ∧ startStep (stStep 7) = 7 := ⟨by simp [h], by decide +kernel, by decide +kernel⟩

theorem witness_FatalPathAndDump :
    (let s := errRec 2 0x21 3 0 0 0 stHoop
     s.fatal.isSome = true ∧ starting s = false ∧ alive s = true ∧ ready s = true ∧ isSet s 0xF DMP.DUMP_CTL_EN = false ∧ hostOn s = true)
    ∧ ((errRec 2 0x21 3 0 0 0 (stStep 6)).fatal.isSome = true ∧ starting (errRec 2 0x21 3 0 0 0 (stStep 6)) = true)
    ∧ ((errRec 2 0x21 3 0 0 0 readyState).fatal.isSome = true ∧ starting (errRec 2 0x21 3 0 0 0 readyState) = false ∧ alive readyState = false)
    ∧ (let s := putF 0xF DMP.DUMP_STAT_WHERE 1 0 { stHoop with boot := { stHoop.boot with dump := some .host } }
       s.boot.dump = some .host ∧ hostOn s = true ∧ getF s 0xF DMP.DUMP_STAT_WHERE = 1 ∧ ramping s = false)
    ∧ (let s := putF 0xF DMP.DUMP_STAT_WHERE 2 0 { stHoop with boot := { stHoop.boot with dump := some .nvs } }
       s.boot.dump = some .nvs ∧ getF s 0xF DMP.DUMP_STAT_WHERE = 2 ∧ ramping s = false) := by decide +kernel

theorem witness_JtagInstructions :
    getF (putF 0xE DBG.DBG_STAT_LEVEL 2 0 stHoop) 0xE DBG.DBG_STAT_LEVEL = 2 ∧ getF stHoop 0xE DBG.DBG_STAT_LEVEL ≠ 2
    ∧ stHoop.fatal = none ∧ stHoop.boot.fatal = none := by decide +kernel

end Sys2Proof.Machine
end

section
/-!
PROOFS. The statements of 03_register_conventions: IRQ_FORCE (R85) and the holes of BAR2 (R101).
-/
namespace Sys2Proof.Machine

/-! ### Messages and interrupt lines (R85, R92, R93) -/

section
variable (s : State) (v p q : Nat) (m : Word)

/-- A message touches the interrupt messages only. -/
theorem sendVec_eq : sendVec v s = { s with msix := (sendVec v s).msix } := by
  unfold sendVec
  split
  · rfl
  · split <;> rfl

/-- What a message adds depends on the messages before it only. -/
theorem sendVec_msix_congr {s t : State} (h : t.msix = s.msix) : (sendVec v t).msix = (sendVec v s).msix := by
  simp only [sendVec, h]
  split
  · rfl
  · split
    · exact h
    · rfl

/-- An interrupt writes IRQ_STAT of its page and the interrupt messages, and nothing else. -/
theorem irqSet_eq :
    irqSet p m s = { wrWord (HDR.IRQ_STAT.addr p 0) (rdWord s (HDR.IRQ_STAT.addr p 0) ||| m) s with
      msix := (irqSet p m s).msix } := by
  unfold irqSet irqEdge
  split
  · exact sendVec_eq _ _
  · rfl

theorem irqSet_errs : (irqSet p m s).errs = s.errs := by rw [irqSet_eq]; rfl

theorem irqSet_fatal : (irqSet p m s).fatal = s.fatal := by rw [irqSet_eq]; rfl

theorem irqSet_held : (irqSet p m s).held = s.held := by rw [irqSet_eq]; rfl

@[simp] theorem irqLine_irqEdge (was : Bool) : irqLine (irqEdge q was s) p = irqLine s p := by simp [irqLine]

/-- The VEC_MAP entry of a page is not its IRQ_STAT. -/
theorem vecMap_addr_ne_irqStat : PCI.VEC_MAP_VEC.addr 0xD p ≠ HDR.IRQ_STAT.addr p 0 := by
  simp only [Fld.addr, PCI.VEC_MAP_VEC, HDR.IRQ_STAT]
  omega

/-- A write of IRQ_STAT leaves the vector of the page's line. -/
theorem pageVec_wrWord_irqStat : pageVec (wrWord (HDR.IRQ_STAT.addr p 0) m s) p = pageVec s p :=
  congrArg PCI.VEC_MAP_VEC.of (rdWord_wrWord_other (vecMap_addr_ne_irqStat p) m s)

/-- An interrupt sends the message of its page exactly when the line rises by it (R93). -/
theorem irqSet_msix :
    (irqSet p m s).msix =
      if irqLine (irqSet p m s) p && !irqLine s p then (sendVec (pageVec s p) s).msix else s.msix := by
  simp only [irqSet, irqLine_irqEdge]
  rw [irqEdge]
  split
  · rw [pageVec_wrWord_irqStat]
    exact sendVec_msix_congr _ rfl
  · rfl

end

/-! ### IRQ_FORCE (R85) -/

/-- On an open page a write of IRQ_FORCE is the interrupt of the causes it names. -/
theorem exec_irqForce_open {s : State} {who : Requester} {p : Nat} (mask : Word) (h : busOpen s who p = true)
    (hk : (pageKind p).isSome = true) :
    exec (.irqForce who p mask) s = .next (irqSet p (mask &&& pageCauses p) s) :=
  congrArg Host.Outcome.next (busGate_open h hk 0x01C (irqForce p mask))

/-- Settles O14: on an open page the write is `irqSet` of the named causes, whose effect on IRQ_STAT, messages and the rest
of the state the lemmas above give. -/
theorem interruptForce : Obligations.InterruptForce := by
  intro s who p mask hopen ⟨k, hk⟩
  refine ⟨_, exec_irqForce_open mask hopen (by simp [hk]), rdWord_irqSet_stat s p _, ?bit, irqSet_msix s p _,
    irqSet_errs s p _, irqSet_fatal s p _, irqSet_held s p _, ?regs, typedSame_irqSet (typedSame_refl s)⟩
  case bit =>
    intro i _ hi
    rw [hi, irqBit]
  case regs => exact regsSame_irqSet (by simp) (regsSame_refl _ s)

/-! ### Holes of BAR2 (R4, R99 to R101) -/

/-- A memory picked from two choices is on page `q` when each choice is. -/
theorem page_of_orElse {q : Nat} {x : Option MemRef} {f : Unit → Option MemRef} (hx : ∀ m ∈ x, m.page = q)
    (hf : ∀ m ∈ f (), m.page = q) : ∀ m ∈ x.orElse f, m.page = q := by
  cases x with
  | none => exact hf
  | some _ => exact hx

/-- Every memory of a tile aperture is on the page of its tile (R100). -/
theorem tileMem_page {b o : Nat} : ∀ m ∈ tileMem b o, m.page = tilePage b := by
  unfold tileMem
  repeat' apply page_of_orElse
  all_goals
    intro m hm
    dsimp only at hm
    repeat' split at hm
    all_goals simp only [Option.mem_def, Option.some.injEq, reduceCtorEq] at hm
    all_goals rw [← hm]

/-- The pages of the shared memories are on both parts (R4, R99). -/
theorem pagePresent_sharedMems (s : State) : ∀ m ∈ sharedMems, pagePresent s m.page = true := by
  simp [sharedMems, pagePresent]

/-- A memory stands on a page of the part exactly when the page that records a hole beside it does (R4, R101). -/
theorem pagePresent_memAt {a : Nat} {m : MemRef} (s : State) (h : memAt a = some m) :
    pagePresent s m.page = pagePresent s (bar2Page a) := by
  unfold memAt at h
  unfold bar2Page
  split at h
  · next ha => rw [tileMem_page m h, if_pos ha]
  · next ha =>
    rw [pagePresent_sharedMems s m (List.mem_of_find?_eq_some h), if_neg ha]
    simp [pagePresent]

/-- An access of `n` bytes at `a` meets no memory, or runs past the end of the one it meets (R101). -/
def inHole (a n : Nat) : Bool := (memAt a).all (fun m => decide (m.base + m.size < a + n))

section
variable {s : State} {a n : Nat}

/-- A hole on a present page has one UNMAPPED record (R98, R101). -/
theorem bar2Hole_present {dir : Nat} (h : pagePresent s (bar2Page a) = true) :
    bar2Hole a dir s = errRec (bar2Page a) 0x01 0 0 dir a s := if_pos h

/-- A hole of an absent aperture has none (R4). -/
theorem bar2Hole_absent {dir : Nat} (h : pagePresent s (bar2Page a) = false) : bar2Hole a dir s = s := by
  simp [bar2Hole, h]

/-- The hole behind a memory of an absent tile has none either: both are on the tile's page. -/
theorem bar2Hole_absent_memAt {m : MemRef} {dir : Nat} (hm : memAt a = some m) (h : pagePresent s m.page = false) :
    bar2Hole a dir s = s := bar2Hole_absent (by rwa [← pagePresent_memAt s hm])

/-- A read in a hole of a READY device answers zeros, and the record of the hole is all that it leaves. -/
theorem execBar2Read_hole (hok : bar2Ok a n = true) (hr : ready s = true) (hnvs : ¬ (0x14000000 ≤ a ∧ a < 0x14400000))
    (hh : inHole a n = true) : execBar2Read a n s = .next (answer (List.replicate n 0#8) (bar2Hole a 0 s)) := by
  cases hm : memAt a with
  | none => simp [execBar2Read, hok, hr, hnvs, hm]
  | some m =>
    have hend : m.base + m.size < a + n := by simpa [inHole, hm] using hh
    cases hp : pagePresent s m.page with
    | true => simp [execBar2Read, hok, hr, hnvs, hm, hp, hend]
    | false => simp [execBar2Read, hok, hr, hnvs, hm, hp, bar2Hole_absent_memAt hm hp]

/-- A write in a hole of a READY device leaves the record of the hole only. -/
theorem execBar2Write_hole {bs : List Byte} (hok : bar2Ok a bs.length = true) (hr : ready s = true)
    (hnvs : ¬ (0x14000000 ≤ a ∧ a < 0x14400000)) (hh : inHole a bs.length = true) :
    execBar2Write a bs s = .next (bar2Hole a 1 s) := by
  cases hm : memAt a with
  | none => simp [execBar2Write, hok, hr, hnvs, hm]
  | some m =>
    have hend : m.base + m.size < a + bs.length := by simpa [inHole, hm] using hh
    cases hp : pagePresent s m.page with
    | true => simp [execBar2Write, hok, hr, hnvs, hm, hp, hend]
    | false => simp [execBar2Write, hok, hr, hnvs, hm, hp, bar2Hole_absent_memAt hm hp]

end

/-- Settles O38: in a hole a read and a write leave the record of the hole and no more (`execBar2Read_hole`,
`execBar2Write_hole`), and an absent aperture has no record. -/
theorem holesOfBar2 : Obligations.HolesOfBar2 := by
  intro s a n bs hok hlen hr hnvs page hh
  subst hlen
  have hread : exec (.bar2Read a bs.length) s = .next (answer (List.replicate bs.length 0#8) (bar2Hole a 0 s)) :=
    execBar2Read_hole hok hr hnvs hh
  have hwrite : exec (.bar2Write a bs) s = .next (bar2Hole a 1 s) := execBar2Write_hole hok hr hnvs hh
  rw [hread, hwrite]
  constructor
  · intro hp
    rw [bar2Hole_present hp, bar2Hole_present hp]
    exact ⟨rfl, rfl⟩
  · intro hp
    rw [bar2Hole_absent hp, bar2Hole_absent hp]
    exact ⟨rfl, rfl⟩

end Sys2Proof.Machine
end

section
/-!
PROOFS. The statements of 05_sequencing_and_timeline: the fill position of a stream slot (R156).
-/
namespace Sys2Proof.Machine

/-! ### STRM_FILL (R156) -/

section
variable {s : State} {who : Requester} {b k v : Nat}

/-- Every tile has the register STRM_FILL, and its field is live: a running tile takes a write of it (R86). -/
theorem strmFill_live (hb : b < 32) :
    ∃ kind, pageKind (tilePage b) = some kind ∧ (descOf kind TMB.STRM_FILL).cls = .l := by
  by_cases hdrv : b < 16
  · exact ⟨.drv, by simp only [pageKind, tilePage]; grind, by decide⟩
  · by_cases hrdo : b < 24
    · exact ⟨.rdo, by simp only [pageKind, tilePage]; grind, by decide⟩
    · exact ⟨.flx, by simp only [pageKind, tilePage]; grind, by decide⟩

/-- On an open page, a write to the STRM_FILL of a slot that no DMA channel feeds does one of three things, by how far it
moves FILL and by the ring that the slot has (`ringLog`). -/
theorem exec_strmFillWrite_open (hb : b < 32) (hopen : busOpen s who (tilePage b) = true)
    (hfree : who = .hoop ∨ dmaBound s 2 (tilePage b) k = false) :
    exec (.strmFillWrite who b k v) s = .next
      (let fwd := posDiff v (getF s (tilePage b) TMB.STRM_FILL k)
       if fwd = 0 ∨ 2 ^ 31 ≤ fwd then s
       else if 2 ^ ringLog s b k < posDiff v (getF s (tilePage b) TMB.STRM_CONS k) then errRec (tilePage b) 0x2D 0 k v 0 s
       else putF (tilePage b) TMB.STRM_FILL v k s) := by
  obtain ⟨kind, hkind, hlive⟩ := strmFill_live hb
  have hpass : exec (.strmFillWrite who b k v) s = .next (strmFillWriteEffect who b k v s) :=
    congrArg Host.Outcome.next (viaBus_open hopen hkind TMB.STRM_FILL k v _ (by simp [hlive]))
  have hunbound : (decide (who = .host) && dmaBound s 2 (tilePage b) k) = false := by
    rcases hfree with rfl | hfree
    · rfl
    · simp [hfree]
  rw [hpass, strmFillWriteEffect]
  simp [hunbound]

/-- A write that moves FILL forward, onto units that the ring of the slot holds, is accepted. -/
theorem exec_strmFillWrite_accepted (hb : b < 32) (hopen : busOpen s who (tilePage b) = true)
    (hfree : who = .hoop ∨ dmaBound s 2 (tilePage b) k = false)
    (hmoves : 1 ≤ posDiff v (getF s (tilePage b) TMB.STRM_FILL k))
    (hforward : posDiff v (getF s (tilePage b) TMB.STRM_FILL k) < 2 ^ 31)
    (hheld : posDiff v (getF s (tilePage b) TMB.STRM_CONS k) ≤ 2 ^ ringLog s b k) :
    exec (.strmFillWrite who b k v) s = .next (putF (tilePage b) TMB.STRM_FILL v k s) := by
  have htaken : ¬ (posDiff v (getF s (tilePage b) TMB.STRM_FILL k) = 0
      ∨ 2 ^ 31 ≤ posDiff v (getF s (tilePage b) TMB.STRM_FILL k)) := by omega
  rw [exec_strmFillWrite_open hb hopen hfree]
  simp only [if_neg htaken, if_neg (Nat.not_lt.2 hheld)]

end

/-- The ready device after host software has written 0 to STRM_CFG of slot 1 of DRV0: SIZE_LOG2 reads 0, a value out of
its range 2 to 16, which the register table takes as 2 (05_sequencing_and_timeline.md, STRM_CFG). -/
def stRingOutOfRange : State := strmCfgWriteEffect .host 0 1 0#32 readyState

/-- One command of host software leads from the ready device to that state. -/
theorem exec_strmCfgWrite_stRingOutOfRange : exec (.strmCfgWrite .host 0 1 0#32) readyState = .next stRingOutOfRange :=
  congrArg Host.Outcome.next (busGate_open (by decide) (by decide) _ _)

/-- The slot is open to host software and fed by no channel, its ring is empty, and it holds 2^2 units where SIZE_LOG2
reads 0. -/
theorem stRingOutOfRange_slot :
    busOpen stRingOutOfRange .host (tilePage 0) = true ∧ dmaBound stRingOutOfRange 2 (tilePage 0) 1 = false
    ∧ getF stRingOutOfRange (tilePage 0) TMB.STRM_FILL 1 = 0 ∧ getF stRingOutOfRange (tilePage 0) TMB.STRM_CONS 1 = 0
    ∧ getF stRingOutOfRange (tilePage 0) TMB.STRM_CFG_SIZE_LOG2 1 = 0 ∧ ringLog stRingOutOfRange 0 1 = 2 := by decide

/-- Refutes O22: the statement measures the ring by the SIZE_LOG2 that the register holds, and the model, as the register
table says, takes a value outside 2 to 16 as 2. With SIZE_LOG2 = 0 the ring holds four units, so that a write of 2 to the
STRM_FILL of the empty ring is accepted, where the statement allows an accepted write one unit. -/
theorem not_streamFill : ¬ Obligations.StreamFill := by
  intro h
  obtain ⟨hopen, hfree, hfill, hcons, hsize, hring⟩ := stRingOutOfRange_slot
  have haccepted : exec (.strmFillWrite .host 0 1 2) stRingOutOfRange
      = .next (putF (tilePage 0) TMB.STRM_FILL 2 1 stRingOutOfRange) :=
    exec_strmFillWrite_accepted (by decide) hopen (.inr hfree) (by rw [hfill]; decide) (by rw [hfill]; decide)
      (by rw [hcons, hring]; decide)
  obtain ⟨-, -, -, hclaims⟩ := h stRingOutOfRange .host 0 1 2 (by decide) (by decide) (by decide) hopen (.inr hfree)
  have hnew : getF (putF (tilePage 0) TMB.STRM_FILL 2 1 stRingOutOfRange) (tilePage 0) TMB.STRM_FILL 1 = 2 :=
    getF_putF _ _ _ _ _ (by decide)
  have hcons' : getF (putF (tilePage 0) TMB.STRM_FILL 2 1 stRingOutOfRange) (tilePage 0) TMB.STRM_CONS 1 = 0 :=
    (getF_putF_reg (by decide) _ _).trans hcons
  have hsize' : getF (putF (tilePage 0) TMB.STRM_FILL 2 1 stRingOutOfRange) (tilePage 0) TMB.STRM_CFG_SIZE_LOG2 1 = 0 :=
    (getF_putF_reg (by decide) _ _).trans hsize
  have hone := (hclaims _ haccepted).2
  rw [hnew, hfill, hcons', hsize'] at hone
  exact absurd hone (by decide)

end Sys2Proof.Machine
end

section
/-!
PROOFS. The statements of 08_readout_decisions: the nearest enabled class (R228).
-/
namespace Sys2Proof.Machine

/-! ### The search for the nearest class -/

section
variable {d : Nat → Nat} {seen ks : List Nat} {m k : Nat}

/-- The nearer of two classes by the distances `d`: the first, unless the second undercuts it. -/
def nearer (d : Nat → Nat) (m k : Nat) : Nat := if d k < d m then k else m

/-- Of the classes seen, `m` has the least distance, and a lower number with that distance does not stand among them. -/
structure Nearest (d : Nat → Nat) (seen : List Nat) (m : Nat) : Prop where
  mem : m ∈ seen
  le : ∀ k ∈ seen, d m ≤ d k
  lt : ∀ k ∈ seen, k < m → d m < d k

theorem nearest_singleton : Nearest d [m] m where
  mem := List.mem_singleton_self m
  le k hk := by simp [List.mem_singleton.1 hk]
  lt k hk hkm := absurd (List.mem_singleton.1 hk) (Nat.ne_of_lt hkm)

/-- A class seen after all lower ones leaves the nearer of the two: on a tie the one seen first, of lower number, stays. -/
theorem Nearest.concat (h : Nearest d seen m) (hup : ∀ i ∈ seen, i ≤ k) : Nearest d (seen ++ [k]) (nearer d m k) := by
  obtain ⟨hmem, hle, hlt⟩ := h
  unfold nearer
  split
  case isTrue hk =>
    have hunder : ∀ i ∈ seen, d k < d i := fun i hi => Nat.lt_of_lt_of_le hk (hle i hi)
    constructor <;> grind
  case isFalse hk =>
    have hmk : m ≤ k := hup m hmem
    constructor <;> grind

/-- The search through classes of rising number, behind those seen, ends at the nearest of them all. -/
theorem Nearest.append (hup : (seen ++ ks).Pairwise (· < ·)) (h : Nearest d seen m) :
    Nearest d (seen ++ ks) (ks.foldl (nearer d) m) := by
  induction ks generalizing seen m with
  | nil => simpa using h
  | cons k ks ih =>
    obtain ⟨-, -, hacross⟩ := List.pairwise_append.1 hup
    have hbelow : ∀ i ∈ seen, i ≤ k := fun i hi => Nat.le_of_lt (hacross i hi k List.mem_cons_self)
    rw [List.append_cons] at hup ⊢
    exact ih hup (h.concat hbelow)

end

/-! ### The best class of a list (R228) -/

section
variable {g h : Geom} {v : Cplx} {ks : List Nat}

/-- The best class is the one that the search finds, with its distance. -/
theorem bestClass_cons (g : Geom) (v : Cplx) (k : Nat) (ks : List Nat) :
    bestClass g v (k :: ks)
      = (ks.foldl (nearer (distOf g v)) k, distOf g v (ks.foldl (nearer (distOf g v)) k)) := by
  unfold bestClass
  rw [List.headD_cons, List.foldl_cons, if_neg (Nat.lt_irrefl _)]
  refine List.foldl_hom (fun m => (m, distOf g v m)) fun m j => ?_
  simp only [nearer]
  split <;> rfl

theorem bestClass_nearest (hne : ks ≠ []) (hup : ks.Pairwise (· < ·)) :
    Nearest (distOf g v) ks (bestClass g v ks).1 := by
  obtain ⟨k, ks, rfl⟩ := List.exists_cons_of_ne_nil hne
  rw [bestClass_cons]
  exact Nearest.append (seen := [k]) hup nearest_singleton

/-- The search looks at the distances of the classes it goes through, and at no others. -/
theorem bestClass_congr (hne : ks ≠ []) (hd : ∀ k ∈ ks, distOf h v k = distOf g v k) :
    bestClass h v ks = bestClass g v ks := by
  have hhead : distOf h v (ks.headD 0) = distOf g v (ks.headD 0) := by
    obtain ⟨k, ks, rfl⟩ := List.exists_cons_of_ne_nil hne
    exact hd k List.mem_cons_self
  refine List.foldl_rel (r := Eq) (by rw [hhead]) fun k hk best _ hbest => ?_
  rw [← hbest, hd k hk]

/-- The confidence compares two distances, both of enabled classes. -/
theorem confOf_congr (hne : ks ≠ []) (hd : ∀ k ∈ ks, distOf h v k = distOf g v k) :
    confOf h v ks = confOf g v ks := by
  simp only [confOf, bestClass_congr hne hd]
  split
  case h_1 => rfl
  case h_2 hothers =>
    rw [bestClass_congr hothers fun k hk => hd k (List.mem_filter.1 hk).1]

end

/-! ### The enabled classes (R228) -/

theorem mem_classesOf {cls k : Nat} : k ∈ classesOf cls ↔ k < 3 ∧ bit (if cls = 0 then 3 else cls) k = 1 := by
  simp [classesOf]

/-- Each of the eight values of CLS enables a class: 0b000 enables those of 0b011. -/
theorem classesOf_ne_nil : ∀ {cls : Nat}, cls < 8 → classesOf cls ≠ [] := by decide

theorem classesOf_pairwise_lt (cls : Nat) : (classesOf cls).Pairwise (· < ·) :=
  List.pairwise_lt_range.filter _

/-! ### The verdict (R228 to R230) -/

theorem judge_congr {g h : Geom} {cls : Nat} {v : Cplx} (flagged : Bool) (hcls : cls < 8) (hlowc : h.lowcTh = g.lowcTh)
    (hleak : h.leakD = g.leakD) (hd : ∀ k ∈ classesOf cls, distOf h v k = distOf g v k) :
    judge h cls v flagged = judge g cls v flagged := by
  have hne := classesOf_ne_nil hcls
  simp only [judge, bestClass_congr hne hd, confOf_congr hne hd, hlowc, hleak]

/-- Settles O26: the search goes through the enabled classes in the order of their numbers and changes its choice only
for a lesser distance, and it looks at no other class. -/
theorem stateIsNearestClass : Obligations.StateIsNearestClass := by
  intro g cls v flagged hcls on
  have hon (k : Nat) : on k ↔ k ∈ classesOf cls := mem_classesOf.symm
  obtain ⟨hmem, hle, hlt⟩ : Nearest (distOf g v) (classesOf cls) (judge g cls v flagged).st :=
    bestClass_nearest (classesOf_ne_nil hcls) (classesOf_pairwise_lt cls)
  have hzero : judge g 0 v flagged = judge g 3 v flagged := rfl
  simp only [hon]
  exact ⟨⟨hmem, hle, hlt⟩, hzero, fun h hlowc hleak hd => judge_congr flagged hcls hlowc hleak hd⟩

end Sys2Proof.Machine
end

section
/-!
PROOFS. The statements of 19_pattern_port: what the end of a run leaves in the registers of the page (R469, R476), and the
boundary on which an END, a STOP and a jump meet (R474).
-/
namespace Sys2Proof.Machine

/-! ### Counters, and values noted before a change (R79) -/

/-- A saturating counter read back after one count. -/
theorem getF_incSat {p i : Nat} {f : Fld} (h : f.lo + f.w ≤ 32) (s : State) :
    getF (incSat p f i s) p f i = min (getF s p f i + 1) (2 ^ f.w - 1) := by
  rw [incSat, getF_putF p f _ i s h]
  exact Nat.mod_eq_of_lt (by have := Nat.two_pow_pos f.w; omega)

/-- A register's value noted at the start of an mc stands beside the registers. -/
theorem noteWas_eq (who : Option Requester) (a : Nat) (s : State) :
    noteWas who a s = { s with was := (noteWas who a s).was } := by
  unfold noteWas keepWas
  dsimp only
  split <;> rfl

@[simp] theorem rdWord_noteWas (who : Option Requester) (a b : Nat) (s : State) :
    rdWord (noteWas who a s) b = rdWord s b := by
  rw [noteWas_eq]
  rfl

theorem getF_noteWas (who : Option Requester) (a : Nat) (s : State) (p : Nat) (f : Fld) (i : Nat) :
    getF (noteWas who a s) p f i = getF s p f i := congrArg f.of (rdWord_noteWas ..)

theorem regsSame_noteWas {s t : State} {l : List Nat} {who : Option Requester} {a : Nat} (hs : regsSame l s t) :
    regsSame l s (noteWas who a t) := fun b hb => (rdWord_noteWas ..).trans (hs b hb)

@[simp] theorem noteWas_pat (who : Option Requester) (a : Nat) (s : State) : (noteWas who a s).pat = s.pat := by
  rw [noteWas_eq]

/-! ### The commit at a pass end (R469) -/

/-- PAT words that come into force change nothing but what is held: they are no geometry words, which a read-out page has. -/
theorem bringIn_pat {snap : SMap Word} (h : ∀ e ∈ snap, pageOf e.1 = pPat) (s : State) :
    ∃ held, bringIn snap s = { s with held := held } := by
  induction snap generalizing s with
  | nil => exact ⟨s.held, rfl⟩
  | cons e snap ih =>
    have hpage : e.1 % windowStride / 0x1000 = pPat := h e List.mem_cons_self
    have hkind : pageKind pPat = some .pat := by decide
    have hgeo (w : Word) (t : State) : geoSync (e.1 % windowStride / 0x1000) e.1 w t = t := by
      simp [geoSync, hpage, hkind]
    simp only [bringIn, List.foldl_cons, hgeo]
    split <;> exact ih (fun x hx => h x (List.mem_cons_of_mem _ hx)) _

/-- Changes of PAT words, once in force, bring about no more than the page's B_PEND. -/
theorem afterCommit_pat {routes : SMap RouteSet} {ch : List Change} (hne : ch ≠ []) (h : ∀ e ∈ ch, pageOf e.1 = pPat)
    (s : State) : afterCommit routes ch s = syncBPend pPat s := by
  have hpages : (ch.map (fun e => pageOf e.1)).eraseDups = [pPat] := by
    obtain ⟨e, ch, rfl⟩ := List.exists_cons_of_ne_nil hne
    have hrest : (ch.map (fun e => pageOf e.1)).filter (fun p => !p == pPat) = [] := by
      refine List.filter_eq_nil_iff.2 (List.forall_mem_map.2 fun x hx => ?_)
      simp [h x (List.mem_cons_of_mem _ hx)]
    rw [List.map_cons, List.eraseDups_cons, h e List.mem_cons_self, hrest, List.eraseDups_nil]
  have htiles : (List.range 32).filter (fun b => tilePage b ∈ [pPat]) = [] := by decide
  have hslots : changedSlots ch = [] := by
    simpa [changedSlots] using fun a v w hx hp => absurd ((h (a, v, w) hx).symm.trans hp) (by decide)
  simp only [afterCommit, hpages, htiles, hslots]
  rfl

/-- PAT words committed change what is held, and B_PEND of the page with it. -/
theorem commitWords_pat {routes : SMap RouteSet} {snap : SMap Word} (hne : snap ≠ [])
    (h : ∀ e ∈ snap, pageOf e.1 = pPat) (s : State) :
    ∃ held, commitWords routes snap s = syncBPend pPat { s with held := held } := by
  obtain ⟨held, hheld⟩ := bringIn_pat h s
  have hch : ∀ e ∈ changesOf snap s, pageOf e.1 = pPat := List.forall_mem_map.2 h
  exact ⟨held, by rw [commitWords, hheld, afterCommit_pat (by simpa [changesOf] using hne) hch]⟩

/-- What a commit of the PAT page can do: nothing where nothing waits, else it changes what is held and B_PEND. -/
theorem patCommit_cases (s : State) :
    patCommit s = s ∨ ∃ held, patCommit s = syncBPend pPat { s with held := held } := by
  unfold patCommit
  dsimp only
  split
  case isTrue => exact .inl rfl
  case isFalse hne =>
    refine .inr (commitWords_pat hne (List.forall_mem_map.2 fun e he => ?_) s)
    exact of_decide_eq_true (List.mem_filter.1 he).2

@[simp] theorem patCommit_pat (s : State) : (patCommit s).pat = s.pat := by
  obtain h | ⟨held, h⟩ := patCommit_cases s <;> rw [h]
  rfl

/-- Of the registers, a commit of the PAT page writes STATUS only. -/
theorem regsSame_patCommit {s t : State} {l : List Nat} (h : HDR.STATUS.addr pPat 0 ∈ l) (hs : regsSame l s t) :
    regsSame l s (patCommit t) := by
  obtain hc | ⟨held, hc⟩ := patCommit_cases t <;> rw [hc]
  · exact hs
  · exact regsSame_putF (f := HDR.STATUS_B_PEND) h hs

/-- A commit of the PAT page leaves every field beside B_PEND as it reads. -/
theorem getF_patCommit_beside {q j : Nat} {g : Fld}
    (hg : HDR.STATUS_B_PEND.lo + HDR.STATUS_B_PEND.w ≤ g.lo ∨ g.lo + g.w ≤ HDR.STATUS_B_PEND.lo) (s : State) :
    getF (patCommit s) q g j = getF s q g j := by
  obtain h | ⟨held, h⟩ := patCommit_cases s <;> rw [h]
  exact getF_putF_beside hg _ _

/-! ### The end of a run (R476) -/

/-- The held jump is shown in STATUS and in no other register. -/
theorem regsSame_setJump {s t : State} {l : List Nat} {j : Option (Nat × Nat)} {src : Nat}
    (h : HDR.STATUS.addr pPat 0 ∈ l) (hs : regsSame l s t) : regsSame l s (setJump j src t) :=
  regsSame_trans hs (regsSame_putF (f := PAT.STATUS_JPEND) h fun _ _ => rfl)

section
variable (s : State)

/-- After its end the run no longer counts as in progress. -/
@[simp] theorem patRuns_patEnd : patRuns (patEnd s) = false := by
  have hrun : getF (patEnd s) pPat HDR.STATUS_RUN = 0 := by
    unfold patEnd
    rw [getF_patCommit_beside (by decide), getF_irqBit _ _ _ _ _ _ (by decide)]
    exact getF_putF _ _ _ _ _ (by decide)
  simp [patRuns, isSet, hrun]

/-- The end of a run lets go of the held jump. -/
@[simp] theorem patEnd_jump : (patEnd s).pat.jump = none := by simp [patEnd, setJump]

/-- With no jump held, JPEND reads 0 after the end of a run. -/
@[simp] theorem patEnd_jpend : isSet (patEnd s) pPat PAT.STATUS_JPEND = false := by
  have hjpend : getF (patEnd s) pPat PAT.STATUS_JPEND = 0 := by
    unfold patEnd
    rw [getF_patCommit_beside (by decide), getF_irqBit _ _ _ _ _ _ (by decide), getF_putF_beside (by decide), getF_noteWas]
    exact getF_putF _ _ _ _ _ (by decide)
  simp [isSet, hjpend]

/-- Of the registers, the end of a run writes STATUS and IRQ_STAT of the page only. -/
theorem regsSame_patEnd : regsSame [HDR.STATUS.addr pPat 0, HDR.IRQ_STAT.addr pPat 0] s (patEnd s) := by
  unfold patEnd
  refine regsSame_patCommit (by simp) (regsSame_irqBit (by simp) (regsSame_putF (f := HDR.STATUS_RUN) (by decide) ?_))
  exact regsSame_noteWas (regsSame_setJump (by simp) fun _ _ => rfl)

end

/-! ### A STOP at a pass end (R474) -/

section
variable {s : State}

/-- The command acts where the vectors of the pass are read and its end has come. -/
theorem exec_passEnd_due (hrun : patRuns s = true) (hfrozen : s.pat.frozen = none) (hread : segLen s s.pat.seg ≤ s.pat.pos)
    (hdue : s.pat.passEnd ≤ now s) : exec .passEnd s = .next (passEnd s) := by
  have hexec : exec .passEnd s = execPassEnd s := rfl
  rw [hexec, execPassEnd]
  simp [hrun, hfrozen, hread, hdue]

/-- A STOP registered before the boundary ends the run there, whatever else falls on it; a held jump counts as
replaced. -/
theorem passEnd_stop (hstop : s.pat.stop.any (fun f => decide (f < s.pat.passEnd)) = true) :
    passEnd s = patEnd (if s.pat.jump.isSome then incSat pPat PAT.JMP_CNT_REPL 0 s else s) := by
  obtain ⟨f, hf, hlt⟩ := (Option.any_eq_true ..).1 hstop
  simp [passEnd, hf, hlt]

end

/-- Settles O52: the STOP ends the run (`passEnd_stop`), the held jump is counted before the end lets go of it, and the end
leaves the count (`regsSame_patEnd`). -/
theorem endStopAndJumpTogether : Obligations.EndStopAndJumpTogether := by
  intro s hrun hfrozen hread hdue _ _ hstop hjump
  have hheld : s.pat.jump.isSome = true := Option.isSome_of_any hjump
  have hend : passEnd s = patEnd (incSat pPat PAT.JMP_CNT_REPL 0 s) := by rw [passEnd_stop hstop, if_pos hheld]
  have hcount : getF (patEnd (incSat pPat PAT.JMP_CNT_REPL 0 s)) pPat PAT.JMP_CNT_REPL
      = min (getF s pPat PAT.JMP_CNT_REPL + 1) 65535 :=
    (regsSame_getF (regsSame_patEnd _) (by decide)).trans (getF_incSat (by decide) s)
  refine ⟨_, exec_passEnd_due hrun hfrozen hread hdue, ?_⟩
  rw [hend]
  exact ⟨patRuns_patEnd _, patEnd_jump _, patEnd_jpend _, hcount⟩

end Sys2Proof.Machine
end

section
/-!
PROOFS. What every command keeps and that it completes: the statements about every command and every step (R4, R76, R78, R95, R99, R303).
-/
namespace Sys2Proof.Machine

variable {s0 s : State}

/-! ### Every command keeps the part, the queue and the invariant -/

/-- Whatever the command, a next state is in `Keep`: each command by the lemma about its meaning. -/
theorem keep_exec (h : Keep s0 s) : ∀ c : Instr, KeepR s0 (exec c s)
  | .refOkQualify => keep_execRefOkQualify h
  | .refclkFault => keep_execRefclkFault h
  | .pllLock => keep_execPllLock h
  | .lossOfLock => keep_execLossOfLock h
  | .holdoverRampDone => keep_execHoldoverRampDone h
  | .pllRelock .. => keep_execPllRelock h
  | .syncEdge .. => keep_execSyncEdge h
  | .softSync .. => keep_execSoftSync h
  | .syncArm .. => keep_execSyncArm h
  | .epoch => keep_execEpoch h
  | .timeLoRead .. => keep_execTimeLoRead h
  | .regWrite .. => keep_execRegWrite h
  | .msixUnmask .. => keep_execMsixUnmask h
  | .softReset .. => keep_execSoftReset h
  | .softResetEnd .. => keep_execSoftResetEnd h
  | .freezeSet .. => keep_execFreezeSet h
  | .freezeClear .. => keep_execFreezeClear h
  | .blockDisable .. => keep_execBlockDisable h
  | .irqForce .. => keep_execIrqForce h
  | .errPop .. => keep_execErrPop h
  | .ownerWrite .. => keep_execOwnerWrite h
  | .lockSet .. => keep_execLockSet h
  | .tmbGo .. => keep_execTmbGo h
  | .tmbRunStart .. => keep_execTmbRunStart h
  | .tmbStop .. => keep_execTmbStop h
  | .tmbAbort .. => keep_execTmbAbort h
  | .tileStopping .. => keep_execTileStopping h
  | .stopRampDone .. => keep_execStopRampDone h
  | .wordIssue .. => keep_execWordIssue h
  | .wordRelease .. => keep_execWordRelease h
  | .shotBoundary .. => keep_execShotBoundary h
  | .declaredGap .. => keep_execDeclaredGap h
  | .pulseStart .. => keep_execPulseStart h
  | .frameAdd .. => keep_execFrameAdd h
  | .frameSet .. => keep_execFrameSet h
  | .frameCadd .. => keep_execFrameCadd h
  | .loopLoad .. => keep_execLoopLoad h
  | .loopDec .. => keep_execLoopDec h
  | .loopReload .. => keep_execLoopReload h
  | .branch .. => keep_execBranch h
  | .stopWord .. => keep_execStopWord h
  | .tulleArm .. => keep_execTulleArm h
  | .fapply .. => keep_execFapply h
  | .freset .. => keep_execFreset h
  | .flipx .. => keep_execFlipx h
  | .flipz .. => keep_execFlipz h
  | .tulleWait .. => keep_execTulleWait h
  | .picotMark .. => keep_execPicotMark h
  | .keyDeadline .. => keep_execKeyDeadline h
  | .undrLostEval .. => keep_execUndrLostEval h
  | .strmFillWrite .. => keep_execStrmFillWrite h
  | .strmCfgWrite .. => keep_execStrmCfgWrite h
  | .streamUnitFetch .. => keep_execStreamUnitFetch h
  | .acq .. => keep_execAcq h
  | .windowOpen .. => keep_execWindowOpen h
  | .windowClose .. => keep_execWindowClose h
  | .unmix .. => keep_execUnmix h
  | .discrimination .. => keep_execDiscrimination h
  | .resRpWrite .. => keep_execResRpWrite h
  | .accCntRead .. => keep_execAccCntRead h
  | .histRead .. => keep_execHistRead h
  | .statClrAll .. => keep_execStatClrAll h
  | .chanCoefRecompute .. => keep_execChanCoefRecompute h
  | .unmixCfgWrite .. => keep_execUnmixCfgWrite h
  | .unmixLoadComplete .. => keep_execUnmixLoadComplete h
  | .outCfgWrite .. => keep_execOutCfgWrite h
  | .corrLoadComplete .. => keep_execCorrLoadComplete h
  | .outShort .. => keep_execOutShort h
  | .decisionDelivery .. => keep_execDecisionDelivery h
  | .routeWithdraw .. => keep_execRouteWithdraw h
  | .roundTimeout .. => keep_execRoundTimeout h
  | .darnerPublish .. => keep_execDarnerPublish h
  | .patchClr .. => keep_execPatchClr h
  | .escPop .. => keep_execEscPop h
  | .portTrain .. => keep_execPortTrain h
  | .laneBlockLock .. => keep_execLaneBlockLock h
  | .jodexLossOfLock .. => keep_execJodexLossOfLock h
  | .trainBlockRx .. => keep_execTrainBlockRx h
  | .modeTimeout .. => keep_execModeTimeout h
  | .frameMarkerRx .. => keep_execFrameMarkerRx h
  | .decisionBlockRx .. => keep_execDecisionBlockRx h
  | .decisionRelease .. => keep_execDecisionRelease h
  | .unknownBlockRx .. => keep_execUnknownBlockRx h
  | .portActivate .. => keep_execPortActivate h
  | .trainTimeout .. => keep_execTrainTimeout h
  | .trainBackoff .. => keep_execTrainBackoff h
  | .loopStampRx .. => keep_execLoopStampRx h
  | .loopReportRx .. => keep_execLoopReportRx h
  | .loopStampSend .. => keep_execLoopStampSend h
  | .timeBlockRx .. => keep_execTimeBlockRx h
  | .mgmtFragmentRx .. => keep_execMgmtFragmentRx h
  | .fillerRx .. => keep_execFillerRx h
  | .idleEnterReq .. => keep_execIdleEnterReq h
  | .idleEnterRx .. => keep_execIdleEnterRx h
  | .idleExit .. => keep_execIdleExit h
  | .marginLow .. => keep_execMarginLow h
  | .helloSend => keep_execHelloSend h
  | .helloRx .. => keep_execHelloRx h
  | .lsaFlood => keep_execLsaFlood h
  | .lsaRx .. => keep_execLsaRx h
  | .topoAgeOut .. => keep_execTopoAgeOut h
  | .numAssign => keep_execNumAssign h
  | .rqReserve .. => keep_execRqReserve h
  | .rqRelease .. => keep_execRqRelease h
  | .reserveRx .. => keep_execReserveRx h
  | .resAckRx .. => keep_execResAckRx h
  | .resNakRx .. => keep_execResNakRx h
  | .commitRx .. => keep_execCommitRx h
  | .releaseRx .. => keep_execReleaseRx h
  | .withdrawRx .. => keep_execWithdrawRx h
  | .reserveTimeout .. => keep_execReserveTimeout h
  | .tentativeExpire .. => keep_execTentativeExpire h
  | .skewReportRx .. => keep_execSkewReportRx h
  | .cstLeave .. => keep_execCstLeave h
  | .pcieReset .. => keep_execPcieReset h
  | .poisonRx .. => keep_execPoisonRx h
  | .bar2Read .. => keep_execBar2Read h
  | .bar2Write .. => keep_execBar2Write h
  | .chEnable .. => keep_execChEnable h
  | .chDisable .. => keep_execChDisable h
  | .chDrainDone .. => keep_execChDrainDone h
  | .chReset .. => keep_execChReset h
  | .chTailWrite .. => keep_execChTailWrite h
  | .descriptor .. => keep_execDescriptor h
  | .dmaTransferDone .. => keep_execDmaTransferDone h
  | .chHposWrite .. => keep_execChHposWrite h
  | .hostReadCompletion .. => keep_execHostReadCompletion h
  | .uploadBurst .. => keep_execUploadBurst h
  | .chIrqHoldoff .. => keep_execChIrqHoldoff h
  | .mitLoad .. => keep_execMitLoad h
  | .mbxDoorbell .. => keep_execMbxDoorbell h
  | .smbHealthRead => keep_execSmbHealthRead h
  | .smbTempRead => keep_execSmbTempRead h
  | .smbPowerRead => keep_execSmbPowerRead h
  | .smbEnergyRead => keep_execSmbEnergyRead h
  | .smbUidRead => keep_execSmbUidRead h
  | .smbStatusRead => keep_execSmbStatusRead h
  | .smbAlertClear .. => keep_execSmbAlertClear h
  | .calReq .. => keep_execCalReq h
  | .calStepDone .. => keep_execCalStepDone h
  | .calStale .. => keep_execCalStale h
  | .adcBlockDone .. => keep_execAdcBlockDone h
  | .discProposal .. => keep_execDiscProposal h
  | .skewEstimate => keep_execSkewEstimate h
  | .calStoreReq .. => keep_execCalStoreReq h
  | .calStoreDone .. => keep_execCalStoreDone h
  | .tpWrite .. => keep_execTpWrite h
  | .biasCodeWrite .. => keep_execBiasCodeWrite h
  | .ldacEdge .. => keep_execLdacEdge h
  | .biasStrobe .. => keep_execBiasStrobe h
  | .biasRangeChange .. => keep_execBiasRangeChange h
  | .bbmDone .. => keep_execBbmDone h
  | .clrNAssert => keep_execClrNAssert h
  | .clrNRelease => keep_execClrNRelease h
  | .biasLimit .. => keep_execBiasLimit h
  | .comparatorTrip .. => keep_execComparatorTrip h
  | .comparatorArm .. => keep_execComparatorArm h
  | .monPeriod => keep_execMonPeriod h
  | .rampGo .. => keep_execRampGo h
  | .rampCross .. => keep_execRampCross h
  | .samplerRoundTimer => keep_execSamplerRoundTimer h
  | .samplerRgo .. => keep_execSamplerRgo h
  | .injGo .. => keep_execInjGo h
  | .samplerConversionDone .. => keep_execSamplerConversionDone h
  | .shdnClr .. => keep_execShdnClr h
  | .mmRst .. => keep_execMmRst h
  | .energyLoRead .. => keep_execEnergyLoRead h
  | .telemetryTimer => keep_execTelemetryTimer h
  | .lineRefetchDone .. => keep_execLineRefetchDone h
  | .repairCopyDone .. => keep_execRepairCopyDone h
  | .scrubRead .. => keep_execScrubRead h
  | .bucketLeak .. => keep_execBucketLeak h
  | .flipArm .. => keep_execFlipArm h
  | .patGo .. => keep_execPatGo h
  | .trigInEdge .. => keep_execTrigInEdge h
  | .vectorFetch => keep_execVectorFetch h
  | .vectorCompare .. => keep_execVectorCompare h
  | .passEnd => keep_execPassEnd h
  | .patJump .. => keep_execPatJump h
  | .patStop .. => keep_execPatStop h
  | .patAbort .. => keep_execPatAbort h
  | .picotPulseEnd .. => keep_execPicotPulseEnd h
  | .evmRegister .. => keep_execEvmRegister h
  | .evmDeliver .. => keep_execEvmDeliver h
  | .evmTimer .. => keep_execEvmTimer h
  | .evmChCfgWrite .. => keep_execEvmChCfgWrite h
  | .evmProtWrite .. => keep_execEvmProtWrite h
  | .hoopSafePoint .. => keep_execHoopSafePoint h
  | .hoopMc .. => keep_execHoopMc h
  | .hoopWdt => keep_execHoopWdt h
  | .echo => keep_execEcho h
  | .info => keep_execInfo h
  | .memFill => keep_execMemFill h
  | .bulkLoad .. => keep_execBulkLoad h
  | .imageLoad .. => keep_execImageLoad h
  | .nvsWrite => keep_execNvsWrite h
  | .profileSet => keep_execProfileSet h
  | .flashRead .. => keep_execFlashRead h
  | .flashWrite .. => keep_execFlashWrite h
  | .tileMap => keep_execTileMap h
  | .warmStartCmd => keep_execWarmStartCmd h
  | .debugUnlock1 => keep_execDebugUnlock1 h
  | .debugChallenge => keep_execDebugChallenge h
  | .debugUnlock2 => keep_execDebugUnlock2 h
  | .debugSetPw => keep_execDebugSetPw h
  | .debugRelock => keep_execDebugRelock h
  | .backdoorRead => keep_execBackdoorRead h
  | .nvsWordDone .. => keep_execNvsWordDone h
  | .powerOnReset => keep_execPowerOnReset h
  | .porRelease => keep_execPorRelease h
  | .brownOut => keep_execBrownOut h
  | .resetNAssert => keep_execResetNAssert h
  | .resetNRelease => keep_execResetNRelease h
  | .rstWarm .. => keep_execRstWarm h
  | .rstCold .. => keep_execRstCold h
  | .resetApply => keep_execResetApply h
  | .startStepDone .. => keep_execStartStepDone h
  | .startStepTimeout .. => keep_execStartStepTimeout h
  | .startRetry => keep_execStartRetry h
  | .thermalRestart => keep_execThermalRestart h
  | .autoWarmStart => keep_execAutoWarmStart h
  | .fatalPath => keep_execFatalPath h
  | .dumpWriteDone .. => keep_execDumpWriteDone h
  | .scanDump => keep_execScanDump h
  | .bypass => keep_execBypass h
  | .idcode => keep_execIdcode h
  | .samplePreload .. => keep_execSamplePreload h
  | .extest .. => keep_execExtest h
  | .extestPulse .. => keep_execExtestPulse h
  | .extestTrain .. => keep_execExtestTrain h
  | .linkUp .. => keep_execLinkUp h
  | .liveClear .. => keep_execLiveClear h
  | .adcOverrange .. => keep_execAdcOverrange h
  | .blank .. => keep_execBlank h
  | .shotLoRead .. => keep_execShotLoRead h
  | .queueHwmRead .. => keep_execQueueHwmRead h
  | .resFreshRead .. => keep_execResFreshRead h
  | .completionTimeout .. => keep_execCompletionTimeout h
  | .nonceExpire => keep_execNonceExpire h
  | .trstNAssert => keep_execTrstNAssert h

/-- The invariant speaks of no part that the queue of commands is in. -/
theorem inv_pending (h : s.Inv) (l : List Instr) : State.Inv { s with pending := l } := (inv_parts _).2 ((inv_parts s).1 h)

/-- A step of a state that the invariant holds of leads to one that it holds of. -/
theorem inv_step {t : State} (h : s.Inv) (hstep : step s = .next t) : t.Inv := by
  unfold step at hstep
  split at hstep
  next =>
    cases hstep
    exact (keep_tick (keep_refl s)).inv h
  next c rest _ => exact (keep_exec (keep_refl _) c t hstep).inv (inv_pending h rest)

/-- Settles O7: the empty queue by `keep_tick`, and each command by `keep_exec`. -/
theorem everyStepKeepsInvariant : Obligations.EveryStepKeepsInvariant := fun _ _ => inv_step

/-- Settles O6: the tables are empty after reset, and so is the escalation queue. -/
theorem invariantHoldsAtReset : Obligations.InvariantHoldsAtReset where
  esc := by decide
  errs _ := Nat.zero_le 4
  mem := memory_wf_reset
  regs := rfl

/-- Settles O1: the step is defined so. -/
theorem stepRunsFrontCommand : Obligations.StepRunsFrontCommand := fun _ _ _ => rfl

/-! ### Every command but an access that is none of this part completes (R76, R78, R99) -/

/-- The outcome is a next state. -/
def Answers (r : Res1) : Prop := ∃ t, r = .next t

theorem answers_next (t : State) : Answers (.next t) := ⟨t, rfl⟩

section
variable (s : State)

theorem execRefclkFault_answers : Answers (execRefclkFault s) := by
  simp only [execRefclkFault]
  repeat' (first | exact answers_next _ | split)

theorem execPllLock_answers : Answers (execPllLock s) := by
  simp only [execPllLock]
  repeat' (first | exact answers_next _ | split)

theorem execHoldoverRampDone_answers : Answers (execHoldoverRampDone s) := by
  simp only [execHoldoverRampDone]
  repeat' (first | exact answers_next _ | split)

theorem execSyncEdge_answers (src : Nat) (first : Bool) : Answers (execSyncEdge src first s) := by
  simp only [execSyncEdge]
  repeat' (first | exact answers_next _ | split)

theorem execEpoch_answers : Answers (execEpoch s) := by
  simp only [execEpoch]
  repeat' (first | exact answers_next _ | split)

theorem execMsixUnmask_answers (v : Nat) : Answers (execMsixUnmask v s) := by
  simp only [execMsixUnmask]
  repeat' (first | exact answers_next _ | split)

theorem execTmbRunStart_answers (b : Nat) : Answers (execTmbRunStart b s) := by
  simp only [execTmbRunStart]
  repeat' (first | exact answers_next _ | split)

theorem execTileStopping_answers (b : Nat) : Answers (execTileStopping b s) := by
  simp only [execTileStopping]
  repeat' (first | exact answers_next _ | split)

theorem execStopRampDone_answers (b : Nat) : Answers (execStopRampDone b s) := by
  simp only [execStopRampDone]
  repeat' (first | exact answers_next _ | split)

theorem execWordIssue_answers (b : Nat) : Answers (execWordIssue b s) := by
  simp only [execWordIssue]
  repeat' (first | exact answers_next _ | split)

theorem execBranch_answers (b : Nat) : Answers (execBranch b s) := by
  simp only [execBranch]
  repeat' (first | exact answers_next _ | split)

theorem execTulleWait_answers (b : Nat) : Answers (execTulleWait b s) := by
  simp only [execTulleWait]
  repeat' (first | exact answers_next _ | split)

theorem execUndrLostEval_answers (b : Nat) : Answers (execUndrLostEval b s) := by
  simp only [execUndrLostEval]
  repeat' (first | exact answers_next _ | split)

theorem execStreamUnitFetch_answers (b : Nat) : Answers (execStreamUnitFetch b s) := by
  simp only [execStreamUnitFetch]
  repeat' (first | exact answers_next _ | split)

theorem execWindowOpen_answers (b t : Nat) : Answers (execWindowOpen b t s) := by
  simp only [execWindowOpen]
  repeat' (first | exact answers_next _ | split)

theorem execWindowClose_answers (b t : Nat) (codes : List Int) : Answers (execWindowClose b t codes s) := by
  simp only [execWindowClose]
  repeat' (first | exact answers_next _ | split)

theorem execUnmix_answers (b t : Nat) : Answers (execUnmix b t s) := by
  simp only [execUnmix]
  repeat' (first | exact answers_next _ | split)

theorem execDiscrimination_answers (b t : Nat) : Answers (execDiscrimination b t s) := by
  simp only [execDiscrimination]
  repeat' (first | exact answers_next _ | split)

theorem execChanCoefRecompute_answers (b : Nat) (bs : List Byte) : Answers (execChanCoefRecompute b bs s) := by
  simp only [execChanCoefRecompute]
  repeat' (first | exact answers_next _ | split)

theorem execUnmixLoadComplete_answers (b : Nat) : Answers (execUnmixLoadComplete b s) := by
  simp only [execUnmixLoadComplete]
  repeat' (first | exact answers_next _ | split)

theorem execCorrLoadComplete_answers (b k : Nat) : Answers (execCorrLoadComplete b k s) := by
  simp only [execCorrLoadComplete]
  repeat' (first | exact answers_next _ | split)

theorem execOutShort_answers (b k : Nat) : Answers (execOutShort b k s) := by
  simp only [execOutShort]
  repeat' (first | exact answers_next _ | split)

theorem execDecisionDelivery_answers (slot : Nat) : Answers (execDecisionDelivery slot s) := by
  simp only [execDecisionDelivery]
  repeat' (first | exact answers_next _ | split)

theorem execRoundTimeout_answers (p : Nat) : Answers (execRoundTimeout p s) := by
  simp only [execRoundTimeout]
  repeat' (first | exact answers_next _ | split)

theorem execDarnerPublish_answers (p : Nat) : Answers (execDarnerPublish p s) := by
  simp only [execDarnerPublish]
  repeat' (first | exact answers_next _ | split)

theorem execPortTrain_answers (who : Requester) (n : Nat) (en : Bool) : Answers (execPortTrain who n en s) := by
  simp only [execPortTrain]
  repeat' (first | exact answers_next _ | split)

theorem execLaneBlockLock_answers (n : Nat) (lane : LaneBits) : Answers (execLaneBlockLock n lane s) := by
  simp only [execLaneBlockLock]
  repeat' (first | exact answers_next _ | split)

theorem execJodexLossOfLock_answers (n lanes : Nat) (cause : LolCause) : Answers (execJodexLossOfLock n lanes cause s) := by
  simp only [execJodexLossOfLock]
  repeat' (first | exact answers_next _ | split)

theorem execTrainBlockRx_answers (n lane blk : Nat) (inv : Bool) (main : MainBits) (fb : Bool) (at_ : TrainAt) (ppm : Bool) :
    Answers (execTrainBlockRx n lane blk inv main fb at_ ppm s) := by
  simp only [execTrainBlockRx]
  repeat' (first | exact answers_next _ | split)

theorem execModeTimeout_answers (n : Nat) : Answers (execModeTimeout n s) := by
  simp only [execModeTimeout]
  repeat' (first | exact answers_next _ | split)

theorem execFrameMarkerRx_answers (n lane : Nat) (fb : Bool) (peer : Sender) (seq credit arr : Nat) (skew : Int) (hdrs : Bool) :
    Answers (execFrameMarkerRx n lane fb peer seq credit arr skew hdrs s) := by
  simp only [execFrameMarkerRx]
  repeat' (first | exact answers_next _ | split)

theorem execDecisionBlockRx_answers (n lane hdr : Nat) (pay : Scrambled) :
    Answers (execDecisionBlockRx n lane hdr pay s) := by
  simp only [execDecisionBlockRx]
  repeat' (first | exact answers_next _ | split)

theorem execDecisionRelease_answers (n : Nat) : Answers (execDecisionRelease n s) := by
  simp only [execDecisionRelease]
  repeat' (first | exact answers_next _ | split)

theorem execUnknownBlockRx_answers (blk : BadBlk) : Answers (execUnknownBlockRx blk s) := by
  simp only [execUnknownBlockRx]
  repeat' (first | exact answers_next _ | split)

theorem execTrainTimeout_answers (n : Nat) (measure : Bool) : Answers (execTrainTimeout n measure s) := by
  simp only [execTrainTimeout]
  repeat' (first | exact answers_next _ | split)

theorem execLoopStampRx_answers (n id dep arr : Nat) : Answers (execLoopStampRx n id dep arr s) := by
  simp only [execLoopStampRx]
  repeat' (first | exact answers_next _ | split)

theorem execLoopReportRx_answers (n val : Nat) : Answers (execLoopReportRx n val s) := by
  simp only [execLoopReportRx]
  repeat' (first | exact answers_next _ | split)

theorem execTimeBlockRx_answers (n val : Nat) : Answers (execTimeBlockRx n val s) := by
  simp only [execTimeBlockRx]
  repeat' (first | exact answers_next _ | split)

theorem execMgmtFragmentRx_answers (n : Nat) (som eom : Bool) (chan : Nat) (bytes : List Byte) :
    Answers (execMgmtFragmentRx n som eom chan bytes s) := by
  simp only [execMgmtFragmentRx]
  repeat' (first | exact answers_next _ | split)

theorem execFillerRx_answers (n : Nat) (drift : Int) : Answers (execFillerRx n drift s) := by
  simp only [execFillerRx]
  repeat' (first | exact answers_next _ | split)

theorem execMarginLow_answers (n lane m : Nat) : Answers (execMarginLow n lane m s) := by
  simp only [execMarginLow]
  repeat' (first | exact answers_next _ | split)

theorem execNumAssign_answers : Answers (execNumAssign s) := by
  simp only [execNumAssign]
  repeat' (first | exact answers_next _ | split)

theorem execReserveTimeout_answers (key : Nat) : Answers (execReserveTimeout key s) := by
  simp only [execReserveTimeout]
  repeat' (first | exact answers_next _ | split)

theorem execDmaTransferDone_answers (c : Nat) (data : List Byte) (ok : Bool) :
    Answers (execDmaTransferDone c data ok s) := by
  simp only [execDmaTransferDone]
  repeat' (first | exact answers_next _ | split)

theorem execHostReadCompletion_answers (c : Nat) (data : List Byte) (ok : Bool) :
    Answers (execHostReadCompletion c data ok s) := by
  simp only [execHostReadCompletion]
  repeat' (first | exact answers_next _ | split)

theorem execUploadBurst_answers (c : Nat) : Answers (execUploadBurst c s) := by
  simp only [execUploadBurst]
  repeat' (first | exact answers_next _ | split)

theorem execCalStepDone_answers (b : Nat) (meas : List (Option Int)) : Answers (execCalStepDone b meas s) := by
  simp only [execCalStepDone]
  repeat' (first | exact answers_next _ | split)

theorem execCalStale_answers (b : Nat) : Answers (execCalStale b s) := by
  simp only [execCalStale]
  repeat' (first | exact answers_next _ | split)

theorem execAdcBlockDone_answers (b : Nat) (sums : List (Int × Nat × Int)) : Answers (execAdcBlockDone b sums s) := by
  simp only [execAdcBlockDone]
  repeat' (first | exact answers_next _ | split)

theorem execDiscProposal_answers (b t : Nat) : Answers (execDiscProposal b t s) := by
  simp only [execDiscProposal]
  repeat' (first | exact answers_next _ | split)

theorem execSkewEstimate_answers : Answers (execSkewEstimate s) := by
  simp only [execSkewEstimate]
  repeat' (first | exact answers_next _ | split)

theorem execCalStoreDone_answers (ok : Bool) (err : Nat) : Answers (execCalStoreDone ok err s) := by
  simp only [execCalStoreDone]
  repeat' (first | exact answers_next _ | split)

theorem execBiasLimit_answers (n : Nat) (on : Bool) : Answers (execBiasLimit n on s) := by
  simp only [execBiasLimit]
  repeat' (first | exact answers_next _ | split)

theorem execRampCross_answers (n cross : Nat) : Answers (execRampCross n cross s) := by
  simp only [execRampCross]
  repeat' (first | exact answers_next _ | split)

theorem execSamplerConversionDone_answers (code : Nat) : Answers (execSamplerConversionDone code s) := by
  simp only [execSamplerConversionDone]
  repeat' (first | exact answers_next _ | split)

theorem execTelemetryTimer_answers : Answers (execTelemetryTimer s) := by
  simp only [execTelemetryTimer]
  repeat' (first | exact answers_next _ | split)

theorem execLineRefetchDone_answers (a : Nat) (data : Option (List Byte)) (good : Bool) :
    Answers (execLineRefetchDone a data good s) := by
  simp only [execLineRefetchDone]
  repeat' (first | exact answers_next _ | split)

theorem execRepairCopyDone_answers (a : Nat) (good : Bool) : Answers (execRepairCopyDone a good s) := by
  simp only [execRepairCopyDone]
  repeat' (first | exact answers_next _ | split)

theorem execScrubRead_answers (page kind : Nat) : Answers (execScrubRead page kind s) := by
  simp only [execScrubRead]
  repeat' (first | exact answers_next _ | split)

theorem execBucketLeak_answers (page kind : Nat) : Answers (execBucketLeak page kind s) := by
  simp only [execBucketLeak]
  repeat' (first | exact answers_next _ | split)

theorem execVectorFetch_answers : Answers (execVectorFetch s) := by
  simp only [execVectorFetch]
  repeat' (first | exact answers_next _ | split)

theorem execVectorCompare_answers (levels : Nat) : Answers (execVectorCompare levels s) := by
  simp only [execVectorCompare]
  repeat' (first | exact answers_next _ | split)

theorem execEvmRegister_answers (trig : Nat) : Answers (execEvmRegister trig s) := by
  simp only [execEvmRegister]
  repeat' (first | exact answers_next _ | split)

theorem execEvmDeliver_answers (trig : Nat) : Answers (execEvmDeliver trig s) := by
  simp only [execEvmDeliver]
  repeat' (first | exact answers_next _ | split)

theorem execResetApply_answers : Answers (execResetApply s) := by
  simp only [execResetApply]
  repeat' (first | exact answers_next _ | split)

theorem execAdcOverrange_answers (fc : AdcFc) : Answers (execAdcOverrange fc s) := by
  simp only [execAdcOverrange]
  repeat' (first | exact answers_next _ | split)

theorem execCompletionTimeout_answers (refetch : Bool) (x : Nat) : Answers (execCompletionTimeout refetch x s) := by
  simp only [execCompletionTimeout]
  repeat' (first | exact answers_next _ | split)

/-- An access that its BAR takes answers. -/
theorem execRegWrite_answers {who : Requester} {off be : Nat} {data : Word} {acc : BusAcc}
    (h : accessOk (.regWrite who off data be acc) = true) : Answers (execRegWrite who off data be acc s) := by
  cases acc with
  | write hi => exact ⟨_, if_pos h⟩
  | read size => exact ⟨_, if_pos h⟩

theorem execBar2Read_answers {a n : Nat} (h : bar2Ok a n = true) : Answers (execBar2Read a n s) := by
  unfold execBar2Read
  rw [if_neg (by simp [h])]
  repeat' (first | exact answers_next _ | split)

theorem execBar2Write_answers {a : Nat} {bs : List Byte} (h : bar2Ok a bs.length = true) :
    Answers (execBar2Write a bs s) := by
  unfold execBar2Write
  rw [if_neg (by simp [h])]
  repeat' (first | exact answers_next _ | split)

end

/-- Every command completes: those whose meaning branches by the lemmas above, the others by their definition. -/
theorem exec_answers (c : Instr) (s : State) (h : accessOk c = true) : Answers (exec c s) := by
  cases c
  case regWrite => exact execRegWrite_answers s h
  case bar2Read => exact execBar2Read_answers s h
  case bar2Write => exact execBar2Write_answers s h
  case refclkFault => apply execRefclkFault_answers
  case pllLock => apply execPllLock_answers
  case holdoverRampDone => apply execHoldoverRampDone_answers
  case syncEdge => apply execSyncEdge_answers
  case epoch => apply execEpoch_answers
  case msixUnmask => apply execMsixUnmask_answers
  case tmbRunStart => apply execTmbRunStart_answers
  case tileStopping => apply execTileStopping_answers
  case stopRampDone => apply execStopRampDone_answers
  case wordIssue => apply execWordIssue_answers
  case branch => apply execBranch_answers
  case tulleWait => apply execTulleWait_answers
  case undrLostEval => apply execUndrLostEval_answers
  case streamUnitFetch => apply execStreamUnitFetch_answers
  case windowOpen => apply execWindowOpen_answers
  case windowClose => apply execWindowClose_answers
  case unmix => apply execUnmix_answers
  case discrimination => apply execDiscrimination_answers
  case chanCoefRecompute => apply execChanCoefRecompute_answers
  case unmixLoadComplete => apply execUnmixLoadComplete_answers
  case corrLoadComplete => apply execCorrLoadComplete_answers
  case outShort => apply execOutShort_answers
  case decisionDelivery => apply execDecisionDelivery_answers
  case roundTimeout => apply execRoundTimeout_answers
  case darnerPublish => apply execDarnerPublish_answers
  case portTrain => apply execPortTrain_answers
  case laneBlockLock => apply execLaneBlockLock_answers
  case jodexLossOfLock => apply execJodexLossOfLock_answers
  case trainBlockRx => apply execTrainBlockRx_answers
  case modeTimeout => apply execModeTimeout_answers
  case frameMarkerRx => apply execFrameMarkerRx_answers
  case decisionBlockRx => apply execDecisionBlockRx_answers
  case decisionRelease => apply execDecisionRelease_answers
  case unknownBlockRx => apply execUnknownBlockRx_answers
  case trainTimeout => apply execTrainTimeout_answers
  case loopStampRx => apply execLoopStampRx_answers
  case loopReportRx => apply execLoopReportRx_answers
  case timeBlockRx => apply execTimeBlockRx_answers
  case mgmtFragmentRx => apply execMgmtFragmentRx_answers
  case fillerRx => apply execFillerRx_answers
  case marginLow => apply execMarginLow_answers
  case numAssign => apply execNumAssign_answers
  case reserveTimeout => apply execReserveTimeout_answers
  case dmaTransferDone => apply execDmaTransferDone_answers
  case hostReadCompletion => apply execHostReadCompletion_answers
  case uploadBurst => apply execUploadBurst_answers
  case calStepDone => apply execCalStepDone_answers
  case calStale => apply execCalStale_answers
  case adcBlockDone => apply execAdcBlockDone_answers
  case discProposal => apply execDiscProposal_answers
  case skewEstimate => apply execSkewEstimate_answers
  case calStoreDone => apply execCalStoreDone_answers
  case biasLimit => apply execBiasLimit_answers
  case rampCross => apply execRampCross_answers
  case samplerConversionDone => apply execSamplerConversionDone_answers
  case telemetryTimer => apply execTelemetryTimer_answers
  case lineRefetchDone => apply execLineRefetchDone_answers
  case repairCopyDone => apply execRepairCopyDone_answers
  case scrubRead => apply execScrubRead_answers
  case bucketLeak => apply execBucketLeak_answers
  case vectorFetch => apply execVectorFetch_answers
  case vectorCompare => apply execVectorCompare_answers
  case evmRegister => apply execEvmRegister_answers
  case evmDeliver => apply execEvmDeliver_answers
  case resetApply => apply execResetApply_answers
  case adcOverrange => apply execAdcOverrange_answers
  case completionTimeout => apply execCompletionTimeout_answers
  all_goals exact answers_next _

theorem exec_fault {c : Instr} (s : State) (h : accessOk c = false) : exec c s = .fault .outsideWindow := by
  cases c
  case regWrite who off data be acc =>
    cases acc with
    | write hi => exact if_neg (by simpa [accessOk] using h)
    | read size => exact if_neg (by simpa [accessOk] using h)
  case bar2Read a n => exact if_pos (by simpa [accessOk] using h)
  case bar2Write a bs => exact if_pos (by simpa [accessOk] using h)
  all_goals cases h

/-- Settles O5: each command completes (`exec_answers`) and its next state is in `Keep` (`keep_exec`). -/
theorem noCommandChangesPartOrQueue : Obligations.NoCommandChangesPartOrQueue := by
  intro c s
  refine ⟨fun h => ?_, exec_fault s⟩
  obtain ⟨t, ht⟩ := exec_answers c s h
  obtain ⟨hvariant, hpending, -⟩ := keep_exec (keep_refl s) c t ht
  exact ⟨t, ht, hvariant, hpending⟩

end Sys2Proof.Machine
end

section
/-!
PROOFS. Rules about registers, interrupts and records that the proofs below share: fields side by side, bits of IRQ_STAT, and what a
record adds.
-/
namespace Sys2Proof.Machine

variable {s : State} {p q i j b n v : Nat} {f g : Fld}

/-! ### Fields of one page, and of two -/

/-- Two registers of a page at different offsets stand at different addresses. -/
theorem addr_ne (h : g.off + g.stride * j ≠ f.off + f.stride * i) : g.addr p j ≠ f.addr p i := by
  simp only [Fld.addr]
  omega

/-- Registers of two pages stand at different addresses. -/
theorem addr_ne_page (h : q ≠ p) (hg : g.off + g.stride * j < 0x1000) (hf : f.off + f.stride * i < 0x1000) :
    g.addr q j ≠ f.addr p i := by
  simp only [Fld.addr]
  omega

theorem isSet_eq_true : isSet s p f i = true ↔ getF s p f i = 1 := decide_eq_true_iff

theorem isSet_putF (h : f.lo + f.w ≤ 32) : isSet (putF p f v i s) p f i = decide (v % 2 ^ f.w = 1) := by
  rw [isSet, getF_putF _ _ _ _ _ h]

theorem isSet_putF_beside (h : f.lo + f.w ≤ g.lo ∨ g.lo + g.w ≤ f.lo) :
    isSet (putF p f v i s) q g j = isSet s q g j := by
  rw [isSet, getF_putF_beside h, isSet]

theorem isSet_putF_reg (h : g.addr q j ≠ f.addr p i) : isSet (putF p f v i s) q g j = isSet s q g j := by
  rw [isSet, getF_putF_reg h, isSet]

/-- A one-bit field reads 0 or 1. -/
theorem getF_eq_zero_of_not_isSet (hw : f.w = 1) (h : isSet s p f i = false) : getF s p f i = 0 := by
  have hlt := getF_lt s p f i
  have hne : getF s p f i ≠ 1 := by simpa [isSet] using h
  rw [hw] at hlt
  omega

/-! ### Bits of IRQ_STAT (R85) -/

theorem getLsbD_two_pow (hb : b < 32) (n : Nat) : (BitVec.ofNat 32 (2 ^ b)).getLsbD n = decide (b = n) := by
  rw [BitVec.getLsbD_ofNat, Nat.testBit_two_pow]
  by_cases h : b = n
  · simp [← h, hb]
  · simp [h]

theorem irqStat_irqBit (hb : b < 32) : irqStat (irqBit p b s) p n = (irqStat s p n || decide (b = n)) := by
  rw [irqStat, irqBit, rdWord_irqSet_stat, BitVec.getLsbD_or, getLsbD_two_pow hb, irqStat]

theorem irqStat_irqBit_same (hb : b < 32) : irqStat (irqBit p b s) p b = true := by simp [irqStat_irqBit hb]

theorem irqStat_eq_of_rdWord {t : State} (h : rdWord t (HDR.IRQ_STAT.addr p 0) = rdWord s (HDR.IRQ_STAT.addr p 0)) :
    irqStat t p n = irqStat s p n := congrArg (fun w => w.getLsbD n) h

theorem irqStat_putF (h : HDR.IRQ_STAT.addr p 0 ≠ f.addr q i) : irqStat (putF q f v i s) p n = irqStat s p n :=
  irqStat_eq_of_rdWord (rdWord_wrWord_other h _ _)

/-! ### What a record adds (R95 to R97) -/

section
variable (code sev unit info addr : Nat)

/-- An error counted and queued, or dropped, on its page, before its severity is looked at (R95, R96). -/
def errQueued (p code sev unit info addr : Nat) (s : State) : State :=
  let e := pageErr s p
  let r : ErrRec := { code := code, sev := sev, unit := unit, seq := e.seq, info := BitVec.ofNat 32 info,
                      addr := BitVec.ofNat 32 addr, tstamp := BitVec.ofNat 32 (now s / 16) }
  let s := incSat p HDR.ERR_CNT_TOTAL 0 s
  let s := { s with errs := smSet p (e.add (mcNow s) r) s.errs }
  if e.fifo.length < 4 then irqBit p 24 s else irqBit p 25 (incSat p HDR.ERR_CNT_OVF 0 s)

/-- Severity 3 adds to an error that the first one is kept for the fatal path, and that FATAL_CNT counts (R97, R537). -/
theorem errRec_eq : errRec p code sev unit info addr s =
    let t := errQueued p code sev unit info addr s
    if sev = 3 then
      if t.fatal.isNone && t.boot.fatal.isNone then
        let r : FatalRec := { page := p, code := code, info := BitVec.ofNat 32 info, addr := BitVec.ofNat 32 addr
                              t := now t, health := getF t 0 GLB.HEALTH_STATE }
        putF 0xF DMP.DUMP_STAT_FATAL_CNT 1 0 { t with fatal := some r }
      else incSat 0xF DMP.DUMP_STAT_FATAL_CNT 0 t
    else t := rfl

theorem errQueued_fatal : (errQueued p code sev unit info addr s).fatal = s.fatal := by
  unfold errQueued
  dsimp only
  split <;> rw [irqBit, irqSet_fatal] <;> rfl

theorem errQueued_boot : (errQueued p code sev unit info addr s).boot = s.boot := by
  unfold errQueued
  dsimp only
  split <;> simp

/-- A record of severity below 3 leaves the fatal record. -/
theorem errRec_fatal_of_ne (h : sev ≠ 3) : (errRec p code sev unit info addr s).fatal = s.fatal := by
  rw [errRec_eq]
  simp only [if_neg h, errQueued_fatal]

/-- The first record of severity 3 is kept for the fatal path (R97). -/
theorem errRec_fatal_first (h : s.fatal = none) (hb : s.boot.fatal = none) : ∃ r : FatalRec,
    (errRec p code 3 unit info addr s).fatal = some r ∧ r.page = p ∧ r.code = code ∧ r.info = BitVec.ofNat 32 info := by
  rw [errRec_eq]
  simp only [errQueued_fatal, errQueued_boot, h, hb]
  exact ⟨_, rfl, rfl, rfl, rfl⟩

/-- A fatal record that is kept already stays (R97). -/
theorem errRec_fatal_kept {r : FatalRec} (h : s.fatal = some r) : (errRec p code sev unit info addr s).fatal = some r := by
  have hq : (errQueued p code sev unit info addr s).fatal = some r := (errQueued_fatal ..).trans h
  rw [errRec_eq]
  simp only [hq, Option.isNone_some, Bool.false_and, Bool.false_eq_true, if_false]
  split <;> exact hq

end

end Sys2Proof.Machine
end

section
/-!
PROOFS. The statements of 23_faults_and_debug on JTAG (R530, R542, R544, R550) and of 14_host_interface on SMBus (R384).
-/
namespace Sys2Proof.Machine

/-! ### JTAG -/

/-- What the EXTEST instructions have in common: the cells are loaded, drive the pins and sample them (R542). -/
theorem driveCells_effect (i : Jtag) (l : List Bool) (s : State) :
    (driveCells i l s).dbgAcc.ir = i ∧ (driveCells i l s).boot.cells = l ∧ (driveCells i l s).boot.extest = true
    ∧ (driveCells i l s).boot.sampled.length = l.length
    ∧ driveCells i l s = { s with dbgAcc := (driveCells i l s).dbgAcc, boot := (driveCells i l s).boot, free := s.free + 1 } :=
  ⟨rfl, rfl, rfl, by simp [driveCells, useFree, pinCells], rfl⟩

/-- SCAN_DUMP at Level 2 selects the scan chains and is an error of severity 3 (R530, R544). -/
theorem exec_scanDump_level2 {s : State} (h : getF s 0xE DBG.DBG_STAT_LEVEL = 2) :
    exec .scanDump s = .next
      (let t := errRec 0 0x28 3 0 0 0 (loadIr .scanDump false s)
       { t with boot := { t.boot with scanned := true } }) := by
  simp only [exec, execScanDump, if_pos h]

/-- Below Level 2 SCAN_DUMP selects the bypass register (R544). -/
theorem exec_scanDump_below {s : State} (h : getF s 0xE DBG.DBG_STAT_LEVEL ≠ 2) :
    exec .scanDump s = .next (loadIr .bypass false s) := by
  simp only [exec, execScanDump, if_neg h]

/-- The part number of the two parts (R550). -/
def partNumber : Variant → Nat
  | .mq256 => 0x256A
  | .mq128 => 0x128A

/-- The code of a part: a 1 in bit 0, the manufacturer's code from bit 1, the part number from bit 12, the die revision from
bit 28 (R550). -/
def deviceCode (v : Variant) : Nat := 1 + 2 * Config.jep106.toNat + 2 ^ 12 * partNumber v + 2 ^ 28 * Config.dieRev.toNat

theorem exec_idcode (s : State) :
    exec .idcode s = .next { loadIr .idcode false s with lastRead := BitVec.ofNat 64 (deviceCode s.variant) } := rfl

theorem deviceCode_parts (v : Variant) :
    (BitVec.ofNat 64 (deviceCode v)).toNat % 2 = 1 ∧ (BitVec.ofNat 64 (deviceCode v)).toNat / 2 ^ 12 % 2 ^ 16 = partNumber v := by
  have hjep := Config.jep106.isLt
  have hrev := Config.dieRev.isLt
  have hpart : partNumber v < 2 ^ 16 := by cases v <;> decide
  rw [BitVec.toNat_ofNat, deviceCode]
  omega

/-- Settles O60. -/
theorem jtagInstructions : Obligations.JtagInstructions := by
  intro s
  refine ⟨fun h => ⟨_, exec_scanDump_level2 h, ?ir, rfl, ?extest, fun hf hb => ?first, fun f hf => ?kept, ?same⟩,
    exec_scanDump_below, ⟨_, rfl, rfl⟩, ⟨_, exec_idcode s, rfl, rfl, (deviceCode_parts _).1, ?part⟩,
    fun l n => ⟨_, rfl, rfl⟩, fun n => ⟨_, rfl, by simp [useFree, pinCells], rfl, rfl, rfl, rfl⟩,
    fun l => ⟨⟨_, rfl, driveCells_effect .extest l s⟩, ⟨_, rfl, driveCells_effect .extestPulse l s⟩,
      ⟨_, rfl, driveCells_effect .extestTrain l s⟩⟩⟩
  case ir => simp [loadIr]
  case extest => simp [loadIr]
  case first =>
    obtain ⟨r, hr, hpage, hcode, -⟩ :=
      errRec_fatal_first (s := loadIr .scanDump false s) (p := 0) (code := 0x28) (unit := 0) (info := 0) (addr := 0) hf hb
    exact ⟨r, hr, hpage, hcode⟩
  case kept => exact errRec_fatal_kept (s := loadIr .scanDump false s) _ _ _ _ _ hf
  case same =>
    have hrec : typedSame (loadIr .scanDump false s) (errRec 0 0x28 3 0 0 0 (loadIr .scanDump false s)) :=
      typedSame_errRec (typedSame_refl _)
    unfold typedSame at hrec ⊢
    rw [hrec]
    rfl
  case part =>
    rw [(deviceCode_parts _).2]
    cases s.variant <;> rfl

/-! ### SMBus -/

/-- A read of the status byte returns each state in its bit. -/
theorem statusByte_bits : ∀ a < 2, ∀ b < 2, ∀ c < 2, ∀ d < 2, ∀ w, w = BitVec.ofNat 64 (a + 2 * b + 4 * c + 8 * d) →
    w.getLsbD 0 = decide (a = 1) ∧ w.getLsbD 1 = decide (b = 1) ∧ w.getLsbD 2 = decide (c = 1)
    ∧ w.getLsbD 3 = decide (d = 1) := by
  simp only [forall_eq]
  decide

/-- A read of HEALTH returns it, and leaves it as what the alert is measured against: the alert is clear. -/
theorem exec_smbHealthRead (s : State) : exec .smbHealthRead s = .next { s with
    lastRead := BitVec.ofNat 64 (getF s 0 GLB.HEALTH_STATE)
    boot := { s.boot with smbHealth := getF s 0 GLB.HEALTH_STATE, smbAlert := false } } := by
  simp only [exec, execSmbHealthRead, smbRead, smbAlert, Host.Outcome.next.injEq]
  congr 2
  exact decide_eq_false fun h => h rfl

/-- Settles O41: each command by its definition; a read of the status byte by `statusByte_bits`. -/
theorem smbusTarget : Obligations.SmbusTarget := by
  intro s
  have hbits := statusByte_bits _ (getF_lt s pPci PCI.STATUS_LINK_UP 0) _ (getF_lt s 0 GLB.START_STAT_READY 0)
    _ (getF_lt s 5 THM.STATUS_ALARM 0) (ofBool s.boot.smbShdn) (by cases s.boot.smbShdn <;> decide) _ rfl
  obtain ⟨hlink, hready, halarm, hshdn⟩ := hbits
  refine ⟨⟨_, exec_smbHealthRead s, rfl, rfl, fun _ _ => rfl, rfl⟩, ⟨_, rfl, ?temp⟩, ⟨_, rfl, ?power⟩, ⟨_, rfl, rfl⟩, ⟨_, rfl, ?uid⟩,
    ⟨_, rfl, hlink, hready, halarm, ?shdn, fun _ _ => rfl, rfl⟩, ⟨_, rfl, rfl⟩, fun v hv => ?other⟩
  case temp => cases s.boot.smbPub <;> simp [smbRead]
  case power => cases s.boot.smbPub <;> simp [smbRead]
  case uid => simp [smbRead]
  case shdn => exact hshdn.trans (by cases s.boot.smbShdn <;> rfl)
  case other => exact congrArg Host.Outcome.next (if_neg hv)

end Sys2Proof.Machine
end

section
/-!
PROOFS. Page registers: what a read returns while `was` keeps the word of the mc's start, and what clearing FREEZE does beside the
page. Both statements fail on a state given here.
-/
namespace Sys2Proof.Machine

/-- The next state of an outcome, `d` where it has none. -/
def nextState (d : State) : Res1 → State
  | .next t => t
  | _ => d

theorem nextState_eq {d t : State} {r : Res1} (h : r = .next t) : nextState d r = t := h ▸ rfl

/-! ### A register whose word of the mc's start is still kept (R79) -/

/-- A device that keeps another word of GLB's SCRATCH for the accesses of the mc at hand. -/
def stScratchKept : State :=
  { readyState with was := [(HDR.SCRATCH.addr 0 0, { mc := mcNow readyState, word := 1#32, who := none })] }

theorem stScratchKept_read :
    (nextState stScratchKept (exec (.regWrite .host 0x03C 0#32 15 (.read 4)) stScratchKept)).lastRead = 1#64 := by decide

/-- Refutes O10: a read returns the word that the mc at hand began with where `was` keeps one (R79), and the clause on reads of
SCRATCH claims the word of the register file for every state. -/
theorem not_registerWrite : ¬ Obligations.RegisterWrite := by
  intro h
  obtain ⟨-, -, -, -, -, -, -, -, -, -, -, hread, -⟩ := h stScratchKept .host 0#32
  have hnext := nextState_eq (d := stScratchKept) (hread 0 15 (by decide) ⟨.glb, rfl⟩)
  have hlast : (1#64 : BitVec 64) = (rdWord stScratchKept (HDR.SCRATCH.addr 0 0)).setWidth 64 :=
    stScratchKept_read.symm.trans (congrArg State.lastRead hnext)
  exact absurd hlast (by decide)

/-! ### FREEZE cleared on a frozen tile (R83, R394) -/

/-- A frozen tile some fc after reset. -/
def stFrozenLater : State := { stFrozenTile with up := 5 }

theorem stFrozenLater_thaw :
    (calTile (nextState stFrozenLater (exec (.freezeClear .host (tilePage 0)) stFrozenLater)) 0).stepAt = 5 := by decide

/-- Refutes O13: a tile that goes from FROZEN to STOPPED has its calibration steps run from that moment on (R394), and the clause
on clearing FREEZE claims that beside tiles and registers nothing changes. -/
theorem not_pageControl : ¬ Obligations.PageControl := by
  intro h
  obtain ⟨-, -, -, -, -, -, -, -, hclear, -⟩ := h stFrozenLater .host (tilePage 0) (by decide) ⟨.drv, rfl⟩
  obtain ⟨t, hexec, -, -, -, -, -, hsame⟩ := hclear 0 rfl (by decide) (by decide)
  have hcal : t.cal = stFrozenLater.cal := (typedSame_eq (g := State.cal) (fun _ _ _ _ _ _ _ => rfl) hsame).trans rfl
  have hstep : (calTile t 0).stepAt = 5 := nextState_eq (d := stFrozenLater) hexec ▸ stFrozenLater_thaw
  rw [calTile, hcal] at hstep
  exact absurd hstep (by decide)

end Sys2Proof.Machine
end

section
/-!
PROOFS. Statements that a state of this device denies: one with a word kept for the mc at hand (R79), a count past its register,
a slot withdrawn before, a holdoff that is still timed. Each state is given here and run.
-/
namespace Sys2Proof.Machine

/-! ### Reads while `was` keeps the word that the mc began with (R79) -/

/-- A device that keeps a word, 1, of a register for the accesses of the mc at hand. -/
def stKept (a : Nat) : State :=
  { readyState with was := [(a, { mc := mcNow readyState, word := 1#32, who := none })] }

theorem stKept_shotLoRead :
    (nextState (stKept (TMB.SHOT_LO.addr (tilePage 0) 0)) (exec (.shotLoRead .host 0)
      (stKept (TMB.SHOT_LO.addr (tilePage 0) 0)))).lastRead = 1#64 := by decide

/-- Refutes O16: a read of SHOT_LO returns the word that the mc at hand began with where `was` keeps one (R79), and the clause
claims the shot number in force for every state. -/
theorem not_tambourStartAndStop : ¬ Obligations.TambourStartAndStop := by
  intro h
  obtain ⟨-, -, -, -, -, -, -, -, -, -, -, hread⟩ := h (stKept (TMB.SHOT_LO.addr (tilePage 0) 0)) .host 0 (by decide)
  obtain ⟨t, hexec, hlast, -⟩ := hread (by decide)
  have hone : t.lastRead = 1#64 := nextState_eq (d := stKept (TMB.SHOT_LO.addr (tilePage 0) 0)) hexec ▸ stKept_shotLoRead
  exact absurd (hone.symm.trans hlast) (by decide)

theorem stKept_resFreshRead :
    (nextState (stKept (HKP.RES.addr pHkp 0)) (exec (.resFreshRead .host 0) (stKept (HKP.RES.addr pHkp 0)))).lastRead = 1#64 := by
  decide

/-- Refutes O48: a read of RES returns the word that the mc at hand began with where `was` keeps one (R79), and the clause claims
the word of the register file for every state. -/
theorem not_thermalAndResultReads : ¬ Obligations.ThermalAndResultReads := by
  intro h
  obtain ⟨-, -, -, hread, -⟩ := h (stKept (HKP.RES.addr pHkp 0)) .host
  obtain ⟨t, hexec, hlast, -⟩ := hread 0 (by decide) (by decide)
  have hone : t.lastRead = 1#64 := nextState_eq (d := stKept (HKP.RES.addr pHkp 0)) hexec ▸ stKept_resFreshRead
  exact absurd (hone.symm.trans hlast) (by decide)

/-! ### A count past its register (R242) -/

/-- A tone of read-out tile 16 with 2^32 shots counted. -/
def stCountPast : State := setRdo 16 { stats := [(0, { cnt := 2 ^ 32 })] } readyState

theorem stCountPast_read :
    (nextState stCountPast (exec (.accCntRead .host 16) stCountPast)).lastRead = 0#64 := by decide

/-- Refutes O27: ACC_CNT has 32 bits, so a read returns the count modulo 2^32, and the clause claims the whole count for every
state, one whose count is 2^32 among them. -/
theorem not_resultRingAndStatistics : ¬ Obligations.ResultRingAndStatistics := by
  intro h
  obtain ⟨-, -, -, hread, -⟩ := h stCountPast .host 16 0 0 (by decide) (by decide) (by decide) (by decide)
  obtain ⟨t, hexec, hlast, -⟩ := hread (by decide)
  have hzero : t.lastRead = 0#64 := nextState_eq (d := stCountPast) hexec ▸ stCountPast_read
  exact absurd (hzero.symm.trans hlast) (by decide)

/-! ### A slot withdrawn before (R276) -/

/-- A slot that imports, withdrawn, whose LOST is clear. -/
def stWithdrawn : State := setTulSlot 1 { withdrawn := true } (putF pTul TUL.SLOT_RT_LOST 0 1 stImport)

theorem stWithdrawn_again :
    slotLost (nextState stWithdrawn (exec (.routeWithdraw 1) stWithdrawn)) 1 = false := by decide

/-- Refutes O29: a withdrawal of a slot that is withdrawn already does not lose it again, and the clause claims LOST of every
importing slot afterwards, one whose LOST is clear among them. -/
theorem not_decisionDelivery : ¬ Obligations.DecisionDelivery := by
  intro h
  obtain ⟨-, -, -, -, t, hexec, -, -, -, hlost, -⟩ := h stWithdrawn 1 (by decide)
  have hkept : slotLost t 1 = false := nextState_eq (d := stWithdrawn) hexec ▸ stWithdrawn_again
  exact absurd (hkept.symm.trans (hlost (by decide))) (by decide)

/-! ### A holdoff that is still timed (R381) -/

/-- Channel 0 with progress untold, whose holdoff began 2 µs ago. -/
def stHoldoff : State :=
  putF pPci PCI.CH_IRQ_HOLD 1 0 (putF pPci PCI.CH_DPOS 1 0 { stChan 4 0x20 with up := 2000, timers := [(tmHold 0, 0)] })

theorem stHoldoff_timers : (nextState stHoldoff (exec (.chIrqHoldoff 0) stHoldoff)).timers = [] := by decide

/-- Refutes O40: the message of a channel ends its holdoff, so it is timed no more, and the clause claims that beside the channel
and its vector nothing changes. -/
theorem not_boundChannelsAndMailbox : ¬ Obligations.BoundChannelsAndMailbox := by
  intro h
  obtain ⟨-, -, -, -, hhold, -⟩ := h stHoldoff .host 0 (by decide)
  obtain ⟨t, hexec, -, -, -, hsame⟩ := hhold (by decide) (by decide) (by decide) (by decide) (by decide) (by decide)
  have htimers : t.timers = stHoldoff.timers :=
    (typedSame_eq (g := State.timers) (fun _ _ _ _ _ _ _ => rfl) hsame).trans rfl
  have hnone : t.timers = [] := nextState_eq (d := stHoldoff) hexec ▸ stHoldoff_timers
  exact absurd (htimers.symm.trans hnone) (by decide)

end Sys2Proof.Machine
end

section
/-!
PROOFS. The start: statements that a state of this device denies, one whose STATUS word of the mc at hand is kept (R79), and one
whose start fails for the third time while firmware still counts as running.
-/
namespace Sys2Proof.Machine

/-! ### A soft reset that ends in the mc of the access (R79, R82) -/

/-- A READY device whose GLB page left a soft reset in the mc at hand. -/
def stResetEnded : State :=
  { readyState with was := [(HDR.STATUS.addr 0 0, { mc := mcNow readyState, word := HDR.STATUS_RST_BUSY.upd 1 0#32, who := none })] }

theorem stResetEnded_rstWarm :
    (nextState stResetEnded (exec (.rstWarm .host 0x5AFE) stResetEnded)).boot.req = none := by decide

/-- Refutes O57: a soft reset that ends in the mc of a write of RST_CTL is still in progress for it (R79, R82), and the clause
claims the request for every state whose RST_BUSY is 0. -/
theorem not_startsAndResets : ¬ Obligations.StartsAndResets := by
  intro h
  obtain ⟨-, -, -, -, -, -, -, -, -, hrst, -⟩ := h stResetEnded
  obtain ⟨hwarm, -⟩ := hrst (by decide) (by decide)
  obtain ⟨t, hexec, hreq, -⟩ := hwarm (by decide) (by decide)
  have hnone : t.boot.req = none := nextState_eq (d := stResetEnded) hexec ▸ stResetEnded_rstWarm
  rw [hnone] at hreq
  exact absurd hreq (by decide)

/-! ### A third failure of the start at step 7 (R523, R524) -/

theorem failRecords_fw (s : State) : (failRecords s).boot.fw = s.boot.fw := by
  have hrec : ∀ (l : List Nat) (s : State), (forAll l (fun i s => errRec 0 0x20 2 0 i 0 s) s).boot = s.boot := by
    intro l
    induction l with
    | nil => intro s; rfl
    | cons i l ih => intro s; exact (ih _).trans (by simp)
  unfold failRecords
  split <;> simp [hrec]

/-- SAFE mode runs the ROM, no firmware (R524). -/
theorem enterSafe_fw (s : State) : (enterSafe s).boot.fw = false := by
  simp only [enterSafe, smbAlert]
  exact failRecords_fw _

/-- Step 7 of a cold start with no slot to load fails the start (R492, R514). -/
theorem exec_startStepDone_noSlot {s : State} (hstart : starting s = true) (hstep : startStep s = 7) :
    exec (.startStepDone [] [] [] []) s = .next (startFail 2 s) := by
  have hdone : execStartStepDone [] [] [] [] s = .next (startFail 2 s) := by
    simp [execStartStepDone, hstart, stepDone, hstep, fwOrder, fwTry]
  exact hdone

theorem getF_boot (boot : Boot) (s : State) (p i : Nat) (f : Fld) : getF { s with boot := boot } p f i = getF s p f i := rfl

/-- The third failure of a start enters SAFE mode, so no firmware runs. -/
theorem startFail_fw_of_third {code : Nat} {s : State} (hnvs : s.boot.nvsUp = false) (hfails : getF s 0 GLB.START_STAT_FAILS = 2) :
    (startFail code s).boot.fw = false := by
  unfold startFail
  simp only [putF_boot, incSat_boot, hnvs, Bool.and_false, Bool.false_eq_true, ↓reduceIte]
  rw [if_neg]
  · exact enterSafe_fw _
  · rw [getF_boot, getF_putF_beside (by decide), getF_putF_beside (by decide), getF_putF_beside (by decide), getF_incSat (by decide),
      hfails]
    decide

/-- A device at step 7 of its third start whose firmware still counts as running. -/
def stThirdStart : State :=
  let s := putF 0 GLB.START_STAT_FAILS 2 0 (stStep 7)
  { s with boot := { s.boot with fw := true } }

/-- Refutes O58: the third failure enters SAFE mode, in which no firmware runs (R524), and the clause on step 7 claims that the
failure leaves whether firmware runs as it was. -/
theorem not_startSequence : ¬ Obligations.StartSequence := by
  intro h
  obtain ⟨-, hcold, -⟩ := h stThirdStart [] [] [] []
  obtain ⟨-, -, -, -, -, -, -, hfail, -⟩ := hcold (by decide) (by decide)
  obtain ⟨t, hexec, hfw, -⟩ := hfail (by decide) (by decide)
  have hnext : startFail 2 stThirdStart = t := Host.Outcome.next.inj ((exec_startStepDone_noSlot (by decide) (by decide)).symm.trans hexec)
  rw [← hnext, startFail_fw_of_third (by decide) (by decide)] at hfw
  exact absurd hfw (by decide)

end Sys2Proof.Machine
end

section
/-!
PROOFS. Bits of numbers, the actions of a released word (R106), and ARM, FRESET, FLIPX, FLIPZ and FAPPLY (R122, R171).
-/
namespace Sys2Proof.Machine

/-! ### Bits of numbers -/

theorem bit_eq_toNat_testBit (n i : Nat) : bit n i = (n.testBit i).toNat := (Nat.toNat_testBit n i).symm

/-- A bit that is 0, set by adding its power: no carry. -/
theorem bit_add_two_pow {n i : Nat} (h : bit n i = 0) (j : Nat) : bit (n + 2 ^ i) j = if j = i then 1 else bit n j := by
  obtain ⟨q, hq⟩ : ∃ q, n / 2 ^ i = 2 * q := ⟨n / 2 ^ i / 2, by unfold bit at h; omega⟩
  have hn : n = 2 ^ i * (2 * q) + n % 2 ^ i := by rw [← hq]; exact (Nat.div_add_mod n (2 ^ i)).symm
  have hn' : n + 2 ^ i = 2 ^ i * (2 * q + 1) + n % 2 ^ i := by rw [Nat.mul_add]; omega
  have hlt : n % 2 ^ i < 2 ^ i := Nat.mod_lt _ (Nat.two_pow_pos i)
  rw [hn']
  conv => rhs; rw [hn]
  simp only [bit_eq_toNat_testBit, Nat.testBit_two_pow_mul_add _ hlt]
  rcases Nat.lt_trichotomy j i with hj | rfl | hj
  · simp [hj, Nat.ne_of_lt hj]
  · simp
  · obtain ⟨k, rfl⟩ : ∃ k, j = i + (k + 1) := ⟨j - i - 1, by omega⟩
    have hnot : ¬ i + (k + 1) < i := by omega
    simp [hnot, Nat.testBit_succ, show (2 * q + 1) / 2 = q by omega]

theorem bit_sub_two_pow {n i : Nat} (h : bit n i = 1) (j : Nat) : bit (n - 2 ^ i) j = if j = i then 0 else bit n j := by
  have hle : 2 ^ i ≤ n := by
    by_contra hlt
    rw [bit, Nat.div_eq_of_lt (by omega)] at h
    omega
  have hclear : bit (n - 2 ^ i) i = 0 := by
    have hdiv : n / 2 ^ i = (n - 2 ^ i) / 2 ^ i + 1 := by
      rw [← Nat.add_div_right _ (Nat.two_pow_pos i), Nat.sub_add_cancel hle]
    unfold bit at h ⊢
    omega
  have hadd := bit_add_two_pow hclear j
  rw [Nat.sub_add_cancel hle] at hadd
  split
  · next e => rw [e, hclear]
  · next e => rw [hadd, if_neg e]

theorem bit_zero_or_one (n i : Nat) : bit n i = 0 ∨ bit n i = 1 := by
  have : bit n i < 2 := Nat.mod_lt _ (by decide)
  omega

theorem bit_setBit (n i j : Nat) : bit (setBit n i) j = if j = i then 1 else bit n j := by
  unfold setBit
  rcases bit_zero_or_one n i with h | h
  · rw [if_neg (by omega), bit_add_two_pow h]
  · rw [if_pos h]
    split
    · next e => rw [e, h]
    · rfl

theorem bit_clrBit (n i j : Nat) : bit (clrBit n i) j = if j = i then 0 else bit n j := by
  unfold clrBit
  rcases bit_zero_or_one n i with h | h
  · rw [if_neg (by omega)]
    split
    · next e => rw [e, h]
    · rfl
  · rw [if_pos h, bit_sub_two_pow h]

theorem bit_flipBit (n i j : Nat) : bit (flipBit n i) j = if j = i then 1 - bit n i else bit n j := by
  unfold flipBit
  rcases bit_zero_or_one n i with h | h
  · rw [if_neg (by omega), bit_add_two_pow h, h]
  · rw [if_pos h, bit_sub_two_pow h, h]

/-- The bits that a field keeps of a number. -/
theorem bit_mod_two_pow {n w j : Nat} (h : j < w) : bit (n % 2 ^ w) j = bit n j := by
  simp [bit_eq_toNat_testBit, Nat.testBit_mod_two_pow, h]

/-- A number whose bits from `w` up are 0 is below `2 ^ w`. -/
theorem lt_two_pow_of_bit {n w : Nat} (h : ∀ j, w ≤ j → bit n j = 0) : n < 2 ^ w :=
  Nat.lt_pow_two_of_testBit n fun j hj => by simpa [bit_eq_toNat_testBit] using h j hj

theorem bit_of_lt {n w j : Nat} (h : n < 2 ^ w) (hj : w ≤ j) : bit n j = 0 := by
  rw [bit, Nat.div_eq_of_lt (Nat.lt_of_lt_of_le h (Nat.pow_le_pow_right (by decide) hj))]

theorem setBit_lt {n i w : Nat} (hn : n < 2 ^ w) (hi : i < w) : setBit n i < 2 ^ w :=
  lt_two_pow_of_bit fun j hj => by rw [bit_setBit, if_neg (by omega), bit_of_lt hn hj]

theorem clrBit_lt {n w : Nat} (hn : n < 2 ^ w) (i : Nat) : clrBit n i < 2 ^ w := by
  unfold clrBit; exact Nat.lt_of_le_of_lt (by split <;> simp) hn

theorem flipBit_lt {n i w : Nat} (hn : n < 2 ^ w) (hi : i < w) : flipBit n i < 2 ^ w :=
  lt_two_pow_of_bit fun j hj => by rw [bit_flipBit, if_neg (by omega), bit_of_lt hn hj]

/-! ### What an action leaves of its tile -/

variable {s : State} {b t k : Nat} {a : Act}

@[simp] theorem tileOf_setTile (x : Tile) : tileOf (setTile b x s) b = x := smGet_smSet_same _ _ _ _

@[simp] theorem tileOf_modTile (g : Tile → Tile) : tileOf (modTile b g s) b = g (tileOf s b) := tileOf_setTile _

theorem tileOf_modTile_other {c : Nat} (h : c ≠ b) (g : Tile → Tile) : tileOf (modTile b g s) c = tileOf s c :=
  smGet_smSet_other _ h _ _

/-- An action done changes its tile's released words and deferred effects only. -/
theorem doneAct_eq : doneAct b t a s = { s with tiles := (doneAct b t a s).tiles } := rfl

theorem tileOf_doneAct : tileOf (doneAct b t a s) b =
    { tileOf s b with released := (tileOf (doneAct b t a s) b).released, deferred := (tileOf (doneAct b t a s) b).deferred } := by
  simp only [doneAct, retire, tileOf_setTile, tileOf_modTile]

@[simp] theorem keys_doneAct : (tileOf (doneAct b t a s) b).keys = (tileOf s b).keys := by rw [tileOf_doneAct]
@[simp] theorem freset_doneAct : (tileOf (doneAct b t a s) b).freset = (tileOf s b).freset := by rw [tileOf_doneAct]
@[simp] theorem keyOf_doneAct : keyOf (doneAct b t a s) b k = keyOf s b k := by simp only [keyOf, keys_doneAct]
@[simp] theorem rdWord_doneAct (x : Nat) : rdWord (doneAct b t a s) x = rdWord s x := rfl
theorem regsSame_doneAct {l : List Nat} {u : State} (h : regsSame l s u) : regsSame l s (doneAct b t a u) := h

theorem typedSame_doneAct {u : State} (h : typedSame { s with tiles := u.tiles } u) :
    typedSame { s with tiles := (doneAct b t a u).tiles } (doneAct b t a u) := by
  rw [doneAct_eq]
  unfold typedSame at h ⊢
  rw [h]

@[simp] theorem pauliX_doneAct : pauliX (doneAct b t a s) b = pauliX s b := rfl
@[simp] theorem pauliZ_doneAct : pauliZ (doneAct b t a s) b = pauliZ s b := rfl

/-! ### Pauli bits -/

theorem pauliX_lt (s : State) (b : Nat) : pauliX s b < 2 ^ 16 := getF_lt s _ _ _
theorem pauliZ_lt (s : State) (b : Nat) : pauliZ s b < 2 ^ 16 := getF_lt s _ _ _

theorem pauliX_setPauli {x z : Nat} (hx : x < 2 ^ 16) : pauliX (setPauli b t x z s) b = x := by
  show getF (putF (tilePage b) DRV.PF_STAT_X x 0 (putF (tilePage b) DRV.PF_STAT_Z z 0 s)) (tilePage b) DRV.PF_STAT_X 0 = x
  rw [getF_putF _ _ _ _ _ (by decide)]
  exact Nat.mod_eq_of_lt hx

theorem pauliZ_setPauli {x z : Nat} (hz : z < 2 ^ 16) : pauliZ (setPauli b t x z s) b = z := by
  show getF (putF (tilePage b) DRV.PF_STAT_X x 0 (putF (tilePage b) DRV.PF_STAT_Z z 0 s)) (tilePage b) DRV.PF_STAT_Z 0 = z
  rw [getF_putF_beside (by decide), getF_putF _ _ _ _ _ (by decide)]
  exact Nat.mod_eq_of_lt hz

theorem deferred_setPauli {x z : Nat} : (tileOf (setPauli b t x z s) b).deferred = (tileOf s b).deferred := by
  rw [setPauli, tileOf_modTile]
  rfl

theorem regsSame_setPauli {x z : Nat} : regsSame [DRV.PF_STAT_X.addr (tilePage b) 0] s (setPauli b t x z s) := by
  intro c hc
  have hne : c ≠ DRV.PF_STAT_X.addr (tilePage b) 0 := by simpa using hc
  exact (rdWord_wrWord_other hne _ _).trans (rdWord_wrWord_other hne _ _)

theorem typedSame_setPauli {x z : Nat} : typedSame { s with tiles := (setPauli b t x z s).tiles } (setPauli b t x z s) := rfl

theorem flipX_lt {n : Nat} (h : n < 16) : flipBit (pauliX s b) n < 2 ^ 16 := flipBit_lt (pauliX_lt s b) h
theorem flipZ_lt {n : Nat} (h : n < 16) : flipBit (pauliZ s b) n < 2 ^ 16 := flipBit_lt (pauliZ_lt s b) h

/-! ### The operations -/

theorem tulleAct_ready {top : Nat} {g : REntry → State → State} {e : REntry} (h : readyAct s b .tulle = some e)
    (htop : e.w.top = top) : tulleAct b top g s = doneAct b e.t .tulle (g e s) := by
  simp [tulleAct, h, htop]

theorem exec_tulleArm {e : REntry} (h : readyAct s b .tulle = some e) (htop : e.w.top = 1) : exec (.tulleArm b) s =
    .next (doneAct b e.t .tulle (setKey b e.w.tkey { keyOf s b e.w.tkey with held := none, dflt := none, armT := some e.t } s)) :=
  congrArg Host.Outcome.next (tulleAct_ready h htop)

theorem exec_freset {e : REntry} (h : readyAct s b .tulle = some e) (htop : e.w.top = 3) : exec (.freset b) s =
    .next (doneAct b e.t .tulle (modTile b (fun x => { x with freset := setBit x.freset e.w.frm }) s)) :=
  congrArg Host.Outcome.next (tulleAct_ready h htop)

theorem exec_flipx {e : REntry} (h : readyAct s b .tulle = some e) (htop : e.w.top = 4) : exec (.flipx b) s =
    .next (doneAct b e.t .tulle (setPauli b e.t (flipBit (pauliX s b) e.w.frm) (pauliZ s b) s)) :=
  congrArg Host.Outcome.next (tulleAct_ready h htop)

theorem exec_flipz {e : REntry} (h : readyAct s b .tulle = some e) (htop : e.w.top = 5) : exec (.flipz b) s =
    .next (doneAct b e.t .tulle (setPauli b e.t (pauliX s b) (flipBit (pauliZ s b) e.w.frm) s)) :=
  congrArg Host.Outcome.next (tulleAct_ready h htop)

theorem keyOf_setKey (x : KeySt) : keyOf (setKey b k x s) b k = x := by
  simp [keyOf, setKey]

theorem keyOf_setKey_other {j : Nat} (h : j ≠ k) (x : KeySt) : keyOf (setKey b k x s) b j = keyOf s b j := by
  simp [keyOf, setKey, smGet_smSet_other _ h]

/-- An FAPPLY at the head of the deferred effects, due and before which none is due, acts (R122, R171). -/
theorem exec_fapply {d f v : Nat} {ds : List Deferred} (h : (tileOf s b).deferred = .fapply d f v :: ds) (hd : d ≤ now s)
    (hfirst : ∀ x ∈ ds, d ≤ deferredT x) : exec (.fapply b) s =
      .next (setPauli b d (if bit v 0 = 1 then flipBit (pauliX s b) f else pauliX s b)
        (if bit v 1 = 1 then flipBit (pauliZ s b) f else pauliZ s b) (modTile b (fun x => { x with deferred := ds }) s)) := by
  have hall : ds.all (fun e => decide (d ≤ deferredT e)) = true := by simpa using hfirst
  have hdue : execFapply b s = .next (setPauli b d (if bit v 0 = 1 then flipBit (pauliX s b) f else pauliX s b)
        (if bit v 1 = 1 then flipBit (pauliZ s b) f else pauliZ s b)
        (modTile b (fun x => { x with deferred := x.deferred.erase (.fapply d f v) }) s)) := by
    simp only [execFapply, deferredDue, h]
    have hpick : deferredT (.fapply d f v) ≤ now s ∧ ∀ x ∈ ds, deferredT (.fapply d f v) ≤ deferredT x := ⟨hd, hfirst⟩
    rw [List.find?_cons_of_pos (by simpa using hpick)]
    rfl
  rw [show exec (.fapply b) s = execFapply b s from rfl, hdue]
  simp [modTile, h]

/-- Settles O21: each operation is one write of a key, a Bobbin mark or the Pauli bits of its tile, beside which the action done
changes released words and deferred effects alone. -/
theorem tulleOperations : Obligations.TulleOperations := by
  intro s b _
  refine ⟨fun e he => ⟨fun htop => ?arm, fun htop => ?freset, fun htop hf => ?flipx, fun htop hf => ?flipz⟩,
    fun d f v ds hds hd hfirst hf => ?fapply⟩
  case arm =>
    refine ⟨_, exec_tulleArm he htop, ?_, ?_, ?_, ?_, fun _ _ => rfl, rfl⟩
    · simp [keyOf_setKey]
    · simp [keyOf_setKey]
    · simp [keyOf_setKey]
    · intro k hk
      simp [keyOf_setKey_other hk]
  case freset => exact ⟨_, exec_freset he htop, by simp, fun _ _ => rfl, rfl⟩
  case flipx =>
    refine ⟨_, exec_flipx he htop, ?_, ?_, regsSame_doneAct regsSame_setPauli, typedSame_doneAct rfl⟩
    · intro n _
      rw [pauliX_doneAct, pauliX_setPauli (flipX_lt hf), bit_flipBit]
      split
      · next e => rw [e]
      · rfl
    · rw [pauliZ_doneAct, pauliZ_setPauli (pauliZ_lt s b)]
  case flipz =>
    refine ⟨_, exec_flipz he htop, ?_, ?_, regsSame_doneAct regsSame_setPauli, typedSame_doneAct rfl⟩
    · intro n _
      rw [pauliZ_doneAct, pauliZ_setPauli (flipZ_lt hf), bit_flipBit]
      split
      · next e => rw [e]
      · rfl
    · rw [pauliX_doneAct, pauliX_setPauli (pauliX_lt s b)]
  case fapply =>
    refine ⟨_, exec_fapply hds hd hfirst, ?_, ?_, ?_, regsSame_setPauli, rfl⟩
    · refine pauliX_setPauli ?_
      split
      · exact flipX_lt hf
      · exact pauliX_lt s b
    · refine pauliZ_setPauli ?_
      split
      · exact flipZ_lt hf
      · exact pauliZ_lt s b
    · rw [deferred_setPauli, tileOf_modTile]

end Sys2Proof.Machine
end

section
/-!
PROOFS. The FLOW step, STOP words, markers, blanking and the start of a pulse (R110, R120, R125, R174, R183): the records of a word
stand on its page, and beside them each action is one write of its tile.
-/
namespace Sys2Proof.Machine

variable {s : State} {b : Nat} {e : REntry} {l : List Nat}

/-! ### Shared rules: folds of operations, and the registers a record writes -/

/-- What each operation of a sequence keeps, the sequence keeps. -/
theorem forAll_induction {α : Type} {P : State → Prop} {g : α → State → State} (hg : ∀ x t, P t → P (g x t)) :
    ∀ (l : List α) {s : State}, P s → P (forAll l g s)
  | [], _, h => h
  | x :: l, _, h => forAll_induction hg l (hg x _ h)

theorem regsSame_mono {l' : List Nat} {t : State} (h : l ⊆ l') (hs : regsSame l s t) : regsSame l' s t :=
  fun a ha => hs a (fun hm => ha (h hm))

/-- The registers that a record of a page may write (R95 to R97). -/
def recRegs (p : Nat) : List Nat := [HDR.ERR_CNT_TOTAL.addr p 0, HDR.IRQ_STAT.addr p 0, DMP.DUMP_STAT_FATAL_CNT.addr 0xF 0]

theorem regsSame_record {p code sev unit info addr : Nat} {t : State} (h : regsSame (recRegs p) s t) :
    regsSame (recRegs p) s (errRec p code sev unit info addr t) :=
  regsSame_errRec (by simp [recRegs]) (by simp [recRegs]) (by simp [recRegs]) h

/-- The STATE of a tile stands in none of the registers that its records write. -/
theorem tmbStat_not_recRegs : TMB.TMB_STAT_STATE.addr (tilePage b) 0 ∉ recRegs (tilePage b) := by
  simp [recRegs, Fld.addr, tilePage, TMB.TMB_STAT_STATE, HDR.ERR_CNT_TOTAL, HDR.IRQ_STAT, DMP.DUMP_STAT_FATAL_CNT]
  omega

/-! ### Interrupt bits once set stay set -/

section
variable {p q n v i : Nat} {f : Fld}

theorem irqStat_addr_ne (h : (f.off + f.stride * i) % 0x1000 ≠ 0x014) : HDR.IRQ_STAT.addr q 0 ≠ f.addr p i := by
  simp only [Fld.addr, HDR.IRQ_STAT]
  omega

theorem irqStat_irqSet_of {m : Word} (h : irqStat s q n = true) : irqStat (irqSet p m s) q n = true := by
  by_cases hpq : HDR.IRQ_STAT.addr q 0 = HDR.IRQ_STAT.addr p 0
  · have hqp : q = p := by simp only [Fld.addr] at hpq; omega
    subst hqp
    rw [irqStat] at h ⊢
    rw [rdWord_irqSet_stat, BitVec.getLsbD_or, h, Bool.true_or]
  · exact (irqStat_eq_of_rdWord (rdWord_irqSet _ _ _ _ hpq)).trans h

theorem irqStat_irqBit_of {b : Nat} (h : irqStat s q n = true) : irqStat (irqBit p b s) q n = true := irqStat_irqSet_of h

theorem irqStat_errQueued_of {code sev unit info addr : Nat} (h : irqStat s q n = true) :
    irqStat (errQueued p code sev unit info addr s) q n = true := by
  have htotal : irqStat (incSat p HDR.ERR_CNT_TOTAL 0 s) q n = true :=
    (irqStat_putF (irqStat_addr_ne (by decide))).trans h
  unfold errQueued
  dsimp only
  split
  · exact irqStat_irqBit_of htotal
  · refine irqStat_irqBit_of ?_
    exact (irqStat_putF (irqStat_addr_ne (by decide))).trans htotal

/-- A record sets interrupt bits and clears none. -/
theorem irqStat_errRec_of {code sev unit info addr : Nat} (h : irqStat s q n = true) :
    irqStat (errRec p code sev unit info addr s) q n = true := by
  have hq := irqStat_errQueued_of (p := p) (code := code) (sev := sev) (unit := unit) (info := info) (addr := addr) h
  rw [errRec_eq]
  dsimp only
  split_ifs
  · exact (irqStat_putF (irqStat_addr_ne (by decide))).trans hq
  · exact (irqStat_putF (irqStat_addr_ne (by decide))).trans hq
  · exact hq

end

/-! ### The records of a word (R132) -/

theorem tiles_wordRec {code addr field : Nat} : (wordRec b code addr field s).tiles = s.tiles := errRec_tiles ..

theorem tileOf_congr {t : State} (h : t.tiles = s.tiles) : tileOf t b = tileOf s b := by
  rw [tileOf, h, tileOf]

theorem tiles_encRecords : (encRecords b e s).tiles = s.tiles := by
  have hall : (forAll ((rsvdCodes (tileKind b) e.w).filter (fun c => 2 < c)) (fun c s => wordRec b 0x20 e.addr c s) s).tiles
      = s.tiles :=
    forAll_induction (P := fun t => t.tiles = s.tiles) (fun _ _ h => tiles_wordRec.trans h) _ rfl
  unfold encRecords
  dsimp only
  split
  · exact tiles_wordRec.trans hall
  · exact hall

theorem regsSame_encRecords : regsSame (recRegs (tilePage b)) s (encRecords b e s) := by
  have hall := forAll_induction (P := regsSame (recRegs (tilePage b)) s) (g := fun c s => wordRec b 0x20 e.addr c s)
    (fun _ _ h => regsSame_record h) ((rsvdCodes (tileKind b) e.w).filter (fun c => 2 < c)) (regsSame_refl _ s)
  unfold encRecords
  dsimp only
  split
  · exact regsSame_record hall
  · exact hall

/-- A word with no reserved encoding and no key that is off leaves no record. -/
theorem encRecords_none (h : rsvdCodes (tileKind b) e.w = []) (hk : (resAt s b e).keyOff = false) : encRecords b e s = s := by
  simp [encRecords, h, hk, forAll]

@[simp] theorem tileOf_encRecords : tileOf (encRecords b e s) b = tileOf s b := tileOf_congr tiles_encRecords

/-! ### STOP words and the FLOW step (R116, R120, R153) -/

@[simp] theorem stopAt_doneAct {t : Nat} {a : Act} : (tileOf (doneAct b t a s) b).stopAt = (tileOf s b).stopAt := by rw [tileOf_doneAct]
@[simp] theorem chans_doneAct {t : Nat} {a : Act} : (tileOf (doneAct b t a s) b).chans = (tileOf s b).chans := by rw [tileOf_doneAct]
@[simp] theorem markT_doneAct {t : Nat} {a : Act} : (tileOf (doneAct b t a s) b).markT = (tileOf s b).markT := by rw [tileOf_doneAct]

@[simp] theorem getF_doneAct {t p i : Nat} {a : Act} {f : Fld} : getF (doneAct b t a s) p f i = getF s p f i := rfl

theorem withAct_ready {a : Act} {g : REntry → State → State} (h : readyAct s b a = some e) :
    withAct b a g s = doneAct b e.t a (g e s) := by
  simp [withAct, h]

theorem exec_stopWord (h : readyAct s b .stop = some e) : exec (.stopWord b) s =
    .next (doneAct b e.t .stop (modTile b (fun x => { x with stopAt := some (e.t + e.w.advance) }) (encRecords b e s))) :=
  congrArg Host.Outcome.next (withAct_ready h)

/-- The FLOW step of a word other than 16,383, and of that word once its flow is known. -/
theorem exec_branch (h : readyAct s b .branch = some e) (hknown : ¬ (e.addr = 16383 ∧ e.res.isNone = true)) :
    exec (.branch b) s = .next (doneAct b e.t .branch (lastWord b e (encRecords b e s))) := by
  have hx : execBranch b s = .next (doneAct b e.t .branch (lastWord b e (encRecords b e s))) := by
    simp only [execBranch, h, if_neg hknown]
  exact hx

/-- The released words of a tile with the FLOW step of the word at `t` put off until its flow is known. -/
def deferFlow (t : Nat) (r : REntry) : REntry :=
  if r.t = t then { r with todo := r.todo.map (fun a => if a = .branch then .flowEnd else a) } else r

theorem exec_branch_unknown (h : readyAct s b .branch = some e) (haddr : e.addr = 16383) (hres : e.res = none) :
    exec (.branch b) s = .next (modTile b (fun x => { x with released := x.released.map (deferFlow e.t) }) (encRecords b e s)) := by
  have hx : execBranch b s =
      .next (modTile b (fun x => { x with released := x.released.map (deferFlow e.t) }) (encRecords b e s)) := by
    simp only [execBranch, h, haddr, hres]
    rfl
  exact hx

theorem exec_branch_flowEnd (hb : readyAct s b .branch = none) (h : readyAct s b .flowEnd = some e) {r : Res} (hres : e.res = some r) :
    exec (.branch b) s = .next (doneAct b e.t .flowEnd (lastWord b e s)) := by
  have hx : execBranch b s = .next (doneAct b e.t .flowEnd (lastWord b e s)) := by
    simp [execBranch, hb, h, hres]
  exact hx

theorem deferFlow_todo (t : Nat) (r : REntry) (h : (deferFlow t r).t = t) : Act.branch ∉ (deferFlow t r).todo := by
  have ht : r.t = t := by
    unfold deferFlow at h
    split at h <;> assumption
  simp only [deferFlow, if_pos ht, List.mem_map]
  rintro ⟨a, -, ha⟩
  split at ha
  · exact absurd ha (by decide)
  · contradiction

theorem lastWord_other (h : e.addr ≠ 16383) : lastWord b e s = s := by
  simp [lastWord, h]

theorem stopAt_lastWord {r : Res} (haddr : e.addr = 16383) (hres : e.res = some r) : (tileOf (lastWord b e s) b).stopAt =
    if r.taken then (tileOf s b).stopAt else some (e.t + e.w.advance) := by
  cases ht : r.taken <;> simp [lastWord, haddr, hres, ht]

/-! ### Markers, BLANK and pulses (R110, R125, R174, R183) -/

theorem tiles_raiseFlag (m : Nat) :
    (raiseFlag b m s).tiles = (modTile b (fun x => { x with markT := smSet m (now s) x.markT }) s).tiles := rfl

theorem now_raiseFlag (m : Nat) : now (raiseFlag b m s) = now s := rfl

theorem markT_raiseFlag (m k : Nat) : smFind k (tileOf (raiseFlag b m s) b).markT =
    if k = m then some (now s) else smFind k (tileOf s b).markT := by
  rw [tileOf_congr (tiles_raiseFlag m), tileOf_modTile]
  by_cases h : k = m
  · simp [h, smFind_smSet_same]
  · simp [h, smFind_smSet_other h]

/-- The flags of a list raised in one fc. -/
theorem markT_raiseFlags : ∀ (ms : List Nat) (s : State) (k : Nat), smFind k (tileOf (forAll ms (raiseFlag b) s) b).markT =
    if k ∈ ms then some (now s) else smFind k (tileOf s b).markT
  | [], _, _ => by simp [forAll]
  | m :: ms, s, k => by
    have ih := markT_raiseFlags ms (raiseFlag b m s) k
    rw [show forAll (m :: ms) (raiseFlag b) s = forAll ms (raiseFlag b) (raiseFlag b m s) from rfl, ih, markT_raiseFlag, now_raiseFlag]
    by_cases hk : k = m <;> simp [hk]

theorem exec_picotMark (h : readyAct s b .mark = some e) : exec (.picotMark b) s =
    .next (doneAct b e.t .mark (forAll ((List.range 4).filter (fun m => bit e.w.mark m = 1)) (raiseFlag b) s)) :=
  congrArg Host.Outcome.next (withAct_ready h)

theorem exec_blank (h : readyAct s b .blank = some e) : exec (.blank b) s =
    .next (doneAct b e.t .blank (putF (tilePage b) DRV.STATUS_BLANK (e.w.aux % 4) 0 s)) :=
  congrArg Host.Outcome.next (withAct_ready h)

/-- The action of a slot. -/
def slotAct (second : Bool) : Act := if second then .pulseB else .pulseA

/-- The record of a reserved encoding of a slot. -/
def slotRecord (b f : Nat) (e : REntry) (s : State) : State :=
  if (rsvdCodes (tileKind b) e.w).contains f then wordRec b 0x20 e.addr f s else s

theorem tileOf_slotRecord {f : Nat} : tileOf (slotRecord b f e s) b = tileOf s b := by
  unfold slotRecord
  split
  · exact tileOf_congr tiles_wordRec
  · rfl

theorem exec_pulseStart {second : Bool} (h : readyAct s b (slotAct second) = some e) (hclash : (second && slotClash b e.w) = false) :
    exec (.pulseStart b second) s = .next (doneAct b e.t (slotAct second)
      (pulseStart b (slotChan b second e.w) (if second then 2 else 1) (if second then e.pb else e.pa) (if second then e.w.b else e.w.a) e
        (slotRecord b (if second then 2 else 1) e s))) := by
  have hx : execPulseStart b second s = _ := congrArg Host.Outcome.next (withAct_ready h)
  rw [show exec (.pulseStart b second) s = execPulseStart b second s from rfl, hx]
  simp [hclash, slotRecord, slotAct]

theorem exec_pulseStart_clash (h : readyAct s b .pulseB = some e) (hclash : slotClash b e.w = true) :
    exec (.pulseStart b true) s = .next (doneAct b e.t .pulseB (wordRec b 0x21 e.addr 2 (slotRecord b 2 e s))) := by
  have hx : execPulseStart b true s = _ := congrArg Host.Outcome.next (withAct_ready h)
  rw [show exec (.pulseStart b true) s = execPulseStart b true s from rfl, hx]
  simp [hclash, slotRecord]

/-- A pulse whose entry is no null entry plays on its channel from the word's T (R174). -/
theorem chans_pulseStart {c f pe : Nat} {sl : MSlot} (hlen : peLen pe ≠ 0) :
    ∃ ch, smFind c (tileOf (pulseStart b c f pe sl e s) b).chans = some ch ∧ ch.t = e.t ∧ ch.len = peLen pe
      ∧ ch.start = peStart pe ∧ ch.amp = sl.amp ∧ ch.phs = sl.phs ∧ ch.addr = e.addr := by
  simp only [pulseStart, if_neg hlen, tileOf_modTile, smFind_smSet_same]
  exact ⟨_, rfl, rfl, rfl, rfl, rfl, rfl, rfl⟩

/-- Settles O20: beside the records of the word each action writes one part of its tile, and an action done changes released words
and deferred effects alone. -/
theorem flowMarksAndPulses : Obligations.FlowMarksAndPulses := by
  intro s b _
  refine ⟨fun e he => ?stop, fun e he => ⟨fun haddr => ?other, fun r hr haddr => ?known, fun hr haddr => ?unknown⟩,
    fun hnone e he r hr haddr => ?flowEnd, fun e he => ?mark, fun e he => ?blank, fun e he hlen => ?pulseA,
    fun e he hclash hlen => ?pulseB, fun e he hclash => ?clash⟩
  case stop =>
    refine ⟨_, exec_stopWord he, by simp, ?_⟩
    exact regsSame_getF regsSame_encRecords tmbStat_not_recRegs
  case other =>
    refine ⟨_, exec_branch he (fun h => haddr h.1), by simp [lastWord_other haddr], fun hrsvd hkey => ?_⟩
    rw [lastWord_other haddr, encRecords_none hrsvd hkey]
    exact ⟨fun _ _ => rfl, rfl, rfl⟩
  case known =>
    exact ⟨_, exec_branch he (by simp [hr]), by simp [stopAt_lastWord haddr hr]⟩
  case unknown =>
    refine ⟨_, exec_branch_unknown he haddr hr, by simp, ?_⟩
    intro x hx ht
    simp only [tileOf_modTile, List.mem_map] at hx
    obtain ⟨r, -, rfl⟩ := hx
    exact deferFlow_todo e.t r ht
  case flowEnd => exact ⟨_, exec_branch_flowEnd hnone he hr, by simp [stopAt_lastWord haddr hr]⟩
  case mark =>
    refine ⟨_, exec_picotMark he, fun m hm hbit => ?_⟩
    rw [markT_doneAct, markT_raiseFlags, if_pos (by simp [hm, hbit])]
  case blank =>
    have hregs := regsSame_putF (v := e.w.aux % 4) (l := [HDR.STATUS.addr (tilePage b) 0]) (p := tilePage b) (i := 0) (f := DRV.STATUS_BLANK)
      (by simp [Fld.addr, DRV.STATUS_BLANK, HDR.STATUS]) (regsSame_refl _ s)
    refine ⟨_, exec_blank he, ?_, regsSame_doneAct hregs, rfl⟩
    rw [getF_doneAct, getF_putF _ _ _ _ _ (by decide)]
    exact Nat.mod_mod _ _
  case pulseA =>
    refine ⟨_, exec_pulseStart (second := false) he rfl, ?_⟩
    rw [chans_doneAct]
    exact chans_pulseStart hlen
  case pulseB =>
    refine ⟨_, exec_pulseStart (second := true) he (by simpa using hclash), ?_⟩
    rw [chans_doneAct]
    exact chans_pulseStart hlen
  case clash =>
    refine ⟨_, exec_pulseStart_clash he hclash, ?_, fun hrsvd => ?_⟩
    · rw [chans_doneAct, tileOf_congr tiles_wordRec, tileOf_slotRecord]
    · simp [slotRecord, hrsvd]

end Sys2Proof.Machine
end

section
/-!
PROOFS. What the bus refuses (R82, R90, R522), and a write of a locked field whose page shows a waiting value that there is not (R88).
-/
namespace Sys2Proof.Machine

variable {s : State} {who : Requester} {p : Nat} {f : Fld} {effect : State → State} {k : PageKind}

/-! ### The refusals of a write of one field -/

theorem viaBus_first (hk : pageKind p = some k) (data : Nat) :
    ∃ g : State → State, viaBus who p f 0 data effect s = busGate who p f.off g s := by
  simp only [viaBus, hk, Nat.mul_zero, ite_self, Nat.add_zero]
  exact ⟨_, rfl⟩

/-- A page owned by the other requester takes no write of its block (R90). -/
theorem busGate_owned {o : Nat} (hup : pageTakes s who p = true) (hk : (pageKind p).isSome = true) (ho : 0x040 ≤ o) (hp0 : p ≠ 0)
    (hpD : p ≠ 0xD) (hown : getF s p HDR.OWNER_OWN ≠ 0) (hwho : getF s p HDR.OWNER_OWN ≠ reqCode who) :
    busGate who p o effect s = ownViol who p o s := by
  simp only [pageTakes, pageUp, Bool.and_eq_true, Bool.not_eq_true'] at hup
  obtain ⟨⟨⟨hpres, hready⟩, -⟩, hrst⟩ := hup
  have hn : (pageKind p).isNone = false := by simpa [Option.isNone_iff_eq_none, Option.isSome_iff_ne_none] using hk
  have hr : reaches s who p = true := by simp [reaches, reachable, hready]
  have hblocks : ownBlocks s who p o = true := by simp [ownBlocks, ho, hp0, hpD, hown, hwho]
  simp [busGate, hn, hpres, hr, hrst, hblocks]

/-- A page whose soft reset is in progress for the access answers with CFG_BUSY (R82). -/
theorem busGate_resetting {o : Nat} (hpres : pagePresent s p = true) (hready : isSet s 0 GLB.START_STAT_READY = true)
    (hk : (pageKind p).isSome = true) (ho : 0x040 ≤ o) (hrst : seenSet s who p HDR.STATUS_RST_BUSY = true) :
    busGate who p o effect s = cfgBusy p s := by
  have hn : (pageKind p).isNone = false := by simpa [Option.isNone_iff_eq_none, Option.isSome_iff_ne_none] using hk
  have hr : reaches s who p = true := by simp [reaches, reachable, hready]
  have hne : o ≠ 0x014 := by omega
  simp [busGate, hn, hpres, hr, hrst, hne]

/-- A page that the host does not reach takes nothing of it (R522). -/
theorem busGate_unreached {o : Nat} (h : reachable s p = false) : busGate .host p o effect s = s := by
  simp [busGate, reaches, h]

/-! ### The commands -/

theorem pageKind_tilePage {b : Nat} (hb : b < 32) : ∃ k, pageKind (tilePage b) = some k := by
  have hlo : ¬ tilePage b < 0x10 := by simp [tilePage]
  have hhi : tilePage b < 0x30 := by simp only [tilePage]; omega
  simp only [pageKind, if_neg hlo]
  split_ifs
  · exact ⟨_, rfl⟩
  · exact ⟨_, rfl⟩
  · exact ⟨_, rfl⟩

/-- A command given by writing a field of the block of page `p`, register `o`. -/
def IsFieldCommand (s : State) (who : Requester) (i : Instr) (p o : Nat) : Prop :=
  ∃ (f : Fld) (effect : State → State), exec i s = .next (viaBus who p f 0 1 effect s) ∧ f.off = o

theorem fieldCommand_refusals {i : Instr} {o : Nat} (hi : IsFieldCommand s who i p o) (hk : ∃ k, pageKind p = some k) (ho : 0x040 ≤ o)
    (hp0 : p ≠ 0) (hpD : p ≠ 0xD) :
    (pageTakes s who p = true → getF s p HDR.OWNER_OWN ≠ 0 → getF s p HDR.OWNER_OWN ≠ reqCode who → exec i s = .next (ownViol who p o s))
    ∧ (pagePresent s p = true → isSet s 0 GLB.START_STAT_READY = true → seenSet s who p HDR.STATUS_RST_BUSY = true →
      exec i s = .next (cfgBusy p s))
    ∧ (who = .host → reachable s p = false → exec i s = .next s) := by
  obtain ⟨f, effect, hexec, rfl⟩ := hi
  obtain ⟨k, hk⟩ := hk
  obtain ⟨g, hg⟩ := viaBus_first (s := s) (who := who) (f := f) (effect := effect) hk 1
  have hsome : (pageKind p).isSome = true := by rw [hk]; rfl
  rw [hexec, hg]
  refine ⟨fun hup hown hwho => ?_, fun hpres hready hrst => ?_, fun hhost hreach => ?_⟩
  · rw [busGate_owned hup hsome ho hp0 hpD hown hwho]
  · rw [busGate_resetting hpres hready hsome ho hrst]
  · rw [hhost, busGate_unreached hreach]

/-- Settles O11: each of the eight commands is a write of one field, which the bus refuses before its effect. -/
theorem busRefusals : Obligations.BusRefusals := by
  intro s who b hb e he
  simp only [List.mem_cons, List.not_mem_nil, or_false] at he
  have htile := pageKind_tilePage hb
  have hne0 : tilePage b ≠ 0 := by simp [tilePage]
  have hneD : tilePage b ≠ 0xD := by simp only [tilePage]; omega
  rcases he with rfl | rfl | rfl | rfl | rfl | rfl | rfl | rfl <;> dsimp only
  · exact fieldCommand_refusals ⟨_, _, rfl, rfl⟩ htile (by decide) hne0 hneD
  · exact fieldCommand_refusals ⟨_, _, rfl, rfl⟩ htile (by decide) hne0 hneD
  · exact fieldCommand_refusals ⟨_, _, rfl, rfl⟩ htile (by decide) hne0 hneD
  · exact fieldCommand_refusals ⟨_, _, rfl, rfl⟩ ⟨.clk, rfl⟩ (by decide) (by decide) (by decide)
  · exact fieldCommand_refusals ⟨_, _, rfl, rfl⟩ ⟨.clk, rfl⟩ (by decide) (by decide) (by decide)
  · exact fieldCommand_refusals ⟨_, _, rfl, rfl⟩ ⟨.clk, rfl⟩ (by decide) (by decide) (by decide)
  · exact fieldCommand_refusals ⟨_, _, rfl, rfl⟩ ⟨.hkp, rfl⟩ (by decide) (by decide) (by decide)
  · exact fieldCommand_refusals ⟨_, _, rfl, rfl⟩ ⟨.mic, rfl⟩ (by decide) (by decide) (by decide)

/-! ### A page that shows a waiting value which there is not (R88, R89) -/

/-- A tile page locked with LK_CFG that shows B_PEND while no value waits. -/
def stPendShown : State := putF 0x10 HDR.STATUS_B_PEND 1 0 stLockedTile

theorem stPendShown_write : isSet (nextState stPendShown (exec (.regWrite .host (tilePage 0 * 0x1000 + 0x048) 0#32 15 (.write none))
    stPendShown)) (tilePage 0) HDR.STATUS_B_PEND = false := by decide

/-- Refutes O12: a write that leaves a locked ENTRY as it is brings B_PEND into line with the values that wait (R88), and the clause
claims that it changes no register. -/
theorem not_lockedFields : ¬ Obligations.LockedFields := by
  intro h
  obtain ⟨hwrite, -⟩ := h stPendShown .host 0 0#32 false false (by decide) (by decide) (by decide)
  obtain ⟨t, hexec, -, hsame, -⟩ := hwrite (by decide) (by decide)
  obtain ⟨-, hregs⟩ := hsame (by decide)
  have hclear : isSet t (tilePage 0) HDR.STATUS_B_PEND = false := nextState_eq (d := stPendShown) hexec ▸ stPendShown_write
  have hkept := regsSame_isSet hregs (q := tilePage 0) (j := 0) (g := HDR.STATUS_B_PEND) (by simp)
  exact absurd (hclear.symm.trans hkept) (by decide)

end Sys2Proof.Machine
end

section
/-!
PROOFS. Byte strings and the NVS, and the calibration stores (R408 to R410): a store's body fills its copy from the first byte after
the header to the last, and its header goes last.
-/
namespace Sys2Proof.Machine

variable {s : State} {a i n v : Nat} {bs : List Byte}

/-! ### Byte strings -/

@[simp] theorem length_toBytes (v n : Nat) : (toBytes v n).length = n := by
  induction n generalizing v with
  | zero => rfl
  | succ n ih => simp [toBytes, ih]

@[simp] theorem length_zeros (n : Nat) : (zeros n).length = n := List.length_replicate

theorem length_padTo (h : bs.length ≤ n) : (padTo n bs).length = n := by
  simp only [padTo, List.length_append, length_zeros]
  omega

/-- The bytes of a number give back what they hold of it. -/
theorem toBytes_leNat_toBytes (v n : Nat) : toBytes (leNat (toBytes v n)) n = toBytes v n := by
  induction n generalizing v with
  | zero => rfl
  | succ n ih =>
    have hlow : (BitVec.ofNat 8 v).toNat < 256 := (BitVec.ofNat 8 v).isLt
    have hdiv : ((BitVec.ofNat 8 v).toNat + 256 * leNat (toBytes (v / 256) n)) / 256 = leNat (toBytes (v / 256) n) := by omega
    have hmod : BitVec.ofNat 8 ((BitVec.ofNat 8 v).toNat + 256 * leNat (toBytes (v / 256) n)) = BitVec.ofNat 8 v := by
      apply BitVec.eq_of_toNat_eq
      simp only [BitVec.toNat_ofNat]
      omega
    simp only [toBytes, leNat, hdiv, hmod, ih]

theorem length_flatten_const {α β : Type} (l : List α) (g : α → List β) (h : ∀ x ∈ l, (g x).length = n) :
    ((l.map g).flatten).length = n * l.length := by
  induction l with
  | nil => simp
  | cons x l ih =>
    simp only [List.map_cons, List.flatten_cons, List.length_append, h x (by simp), List.length_cons]
    rw [ih (fun y hy => h y (by simp [hy])), Nat.mul_succ]
    omega

theorem getD_zeros_append (h : i < n) : (zeros n ++ bs).getD i 0#8 = 0#8 := by
  rw [List.getD_append _ _ _ _ (by simpa using h)]
  simp [zeros, h]

/-! ### The NVS -/

/-- Writing NVS bytes changes nothing beside the NVS. -/
theorem nvsPut_eq : nvsPut a bs s = { s with hoop := { s.hoop with nvs := (nvsPut a bs s).hoop.nvs } } := by
  induction bs generalizing a s with
  | nil => rfl
  | cons v l ih => exact ih

theorem nvsByte_nvsPut_inside (h : i < bs.length) : nvsByte (nvsPut a bs s) (a + i) = bs.getD i 0#8 := by
  induction bs generalizing a s i with
  | nil => exact absurd h (by simp)
  | cons v l ih =>
    cases i with
    | zero =>
      have hout := nvsByte_nvsPut_outside (s := { s with hoop := { s.hoop with nvs := smPut 0#8 a v s.hoop.nvs } })
        (a := a + 1) (x := a) (bs := l) (by omega)
      simpa [nvsPut, nvsByte] using hout
    | succ i =>
      have hin := ih (s := { s with hoop := { s.hoop with nvs := smPut 0#8 a v s.hoop.nvs } }) (a := a + 1) (i := i) (by simpa using h)
      rw [show a + (i + 1) = a + 1 + i by omega]
      simpa [nvsPut] using hin

/-- The bytes put stand in the NVS. -/
theorem nvsList_nvsPut : nvsList (nvsPut a bs s) a bs.length = bs := by
  apply List.ext_getElem
  · simp [nvsList]
  · intro i h1 h2
    simp only [nvsList, List.getElem_map, List.getElem_range]
    rw [nvsByte_nvsPut_inside h2, List.getD_eq_getElem _ _ h2]

/-! ### The body and the header of a copy (R408) -/

theorem length_dacBlock (l : List Int) : (dacBlock l).length = 0x80 := by
  refine length_padTo ?_
  rw [List.length_append, length_flatten_const (n := 1) _ _ (by simp), length_toBytes, List.length_take]
  omega

theorem length_setBytes (b : Nat) (l : List Int) : (setBytes b l).length = 0x100 := by
  refine length_padTo ?_
  cases tileKind b with
  | drv => simp [length_dacBlock]
  | rdo =>
    dsimp only
    rw [List.length_append, length_dacBlock, length_flatten_const (n := 4) _ _ (by simp)]
    decide
  | flx =>
    dsimp only
    rw [length_flatten_const (n := 4) _ _ (by simp)]
    decide

/-- The start of the body of a copy is empty, and it ends with its copy. -/
theorem calBody_eq (s : State) : ∃ l : List Byte, calBody s = zeros (0x400 - 64) ++ l ∧ l.length = 0x14000 - 0x400 := by
  refine ⟨_, by rw [calBody, List.append_assoc, List.append_assoc], ?_⟩
  rw [List.length_append, List.length_append]
  rw [length_flatten_const (n := 32) _ _ fun b _ => ?dir, length_padTo ?geo, length_flatten_const (n := 0x800) _ _ fun b _ => ?sets]
  · decide
  case dir =>
    rw [length_flatten_const (n := 4) _ _ (by simp)]
    decide
  case geo =>
    rw [length_flatten_const (n := 0x400) _ _ fun t _ => ?_]
    · decide
    rw [length_flatten_const (n := 32) _ _ fun k _ => ?_]
    · decide
    rw [length_flatten_const (n := 4) _ _ (by simp), List.length_take, geometry]
    simp
  case sets =>
    rw [length_flatten_const (n := 0x100) _ _ fun i _ => ?_]
    · decide
    split
    · exact length_setBytes b _
    · exact length_zeros _

theorem length_calHeader (seq crc : Nat) : (calHeader seq crc).length = 64 := by
  simp [calHeader]

theorem calHeader_crc (seq crc : Nat) : calHeader seq (leNat ((calHeader seq crc).drop 60)) = calHeader seq crc := by
  have hdrop : (calHeader seq crc).drop 60 = toBytes crc 4 := by
    rw [calHeader, List.drop_left' (by simp)]
  rw [hdrop, calHeader, toBytes_leNat_toBytes, calHeader]

/-! ### A store asked for (R409) -/

/-- The VALID bit of a copy. -/
def validFld (c : Nat) : Fld := if c = 0 then CAL.NVS_STAT_VALID_A else CAL.NVS_STAT_VALID_B

theorem validFld_addr (c : Nat) : (validFld c).addr pCal 0 = CAL.NVS_STAT_VALID_A.addr pCal 0 := by
  unfold validFld
  split <;> rfl

theorem validFld_fits (c : Nat) : (validFld c).lo + (validFld c).w ≤ 32 := by
  unfold validFld
  split <;> decide

/-- The state in which a store of copy `c` with the bytes `bs` has begun. -/
def stStoring (c : Nat) (bs : List Byte) (s : State) : State :=
  let s := nvsPut (calBase c) bs s
  let s := putF pCal (validFld c) 0 0 (putF pCal CAL.STATUS_STORE_BUSY 1 0 s)
  { s with cal := { s.cal with due := false, storing := some c, storeAt := some s.up } }

theorem calStore_class : (descOf .cal CAL.CAL_CTL_STORE).cls ≠ .s := by decide

theorem exec_calStoreReq {who : Requester} (h : busOpen s who pCal = true) : exec (.calStoreReq who) s = .next (storeStart s) :=
  congrArg Host.Outcome.next (viaBus_open h (k := .cal) rfl _ _ _ _ (fun hc => absurd hc calStore_class))

theorem storeStart_busy {c : Nat} (h : s.cal.storing = some c) : storeStart s = { s with cal := { s.cal with due := true } } := by
  simp [storeStart, h]

theorem storeStart_idle (h : s.cal.storing = none) : storeStart s = stStoring (storeCopy s) (zeros 64 ++ calBody s) s := by
  simp only [storeStart, h, stStoring, validFld]

theorem length_storeBytes (s : State) : (zeros 64 ++ calBody s).length = 0x14000 := by
  obtain ⟨l, hbody, hlen⟩ := calBody_eq s
  rw [hbody, List.length_append, List.length_append, length_zeros, length_zeros, hlen]

theorem getD_storeBytes (s : State) (h : i < 0x400) : (zeros 64 ++ calBody s).getD i 0#8 = 0#8 := by
  obtain ⟨l, hbody, -⟩ := calBody_eq s
  rw [hbody, ← List.append_assoc, show zeros 64 ++ zeros (0x400 - 64) = zeros 0x400 from List.replicate_append_replicate ..]
  exact getD_zeros_append h

variable {c : Nat}

theorem nvsByte_stStoring : nvsByte (stStoring c bs s) a = nvsByte (nvsPut (calBase c) bs s) a := rfl

theorem rdWord_nvsPut (x : Nat) : rdWord (nvsPut a bs s) x = rdWord s x := by
  rw [nvsPut_eq]
  rfl

theorem regsSame_stStoring : regsSame [CAL.STATUS_STORE_BUSY.addr pCal 0, CAL.NVS_STAT_VALID_A.addr pCal 0] s (stStoring c bs s) := by
  have hnvs : regsSame [CAL.STATUS_STORE_BUSY.addr pCal 0, CAL.NVS_STAT_VALID_A.addr pCal 0] s (nvsPut (calBase c) bs s) :=
    fun x _ => rdWord_nvsPut x
  have hput : regsSame _ s (putF pCal (validFld c) 0 0 (putF pCal CAL.STATUS_STORE_BUSY 1 0 (nvsPut (calBase c) bs s))) :=
    regsSame_putF (by simp [validFld_addr]) (regsSame_putF (by simp) hnvs)
  intro x hx
  show rdWord (putF pCal (validFld c) 0 0 (putF pCal CAL.STATUS_STORE_BUSY 1 0 (nvsPut (calBase c) bs s))) x = rdWord s x
  exact hput x hx

theorem typedSame_stStoring : typedSame { s with cal := (stStoring c bs s).cal, hoop := (stStoring c bs s).hoop } (stStoring c bs s) := by
  have hput := nvsPut_eq (s := s) (a := calBase c) (bs := bs)
  generalize (nvsPut (calBase c) bs s).hoop.nvs = nvs at hput
  simp only [stStoring, hput]
  rfl

theorem storeBusy_stStoring : isSet (stStoring c bs s) pCal CAL.STATUS_STORE_BUSY = true := by
  show isSet (putF pCal (validFld c) 0 0 (putF pCal CAL.STATUS_STORE_BUSY 1 0 (nvsPut (calBase c) bs s))) pCal
    CAL.STATUS_STORE_BUSY = true
  rw [isSet_putF_reg (by rw [validFld_addr]; decide), isSet_putF (by decide)]
  rfl

theorem valid_stStoring : isSet (stStoring c bs s) pCal (validFld c) = false := by
  show isSet (putF pCal (validFld c) 0 0 (putF pCal CAL.STATUS_STORE_BUSY 1 0 (nvsPut (calBase c) bs s))) pCal (validFld c) = false
  rw [isSet_putF (validFld_fits c)]
  simp

/-! ### A store that ends (R408 to R410) -/

/-- The SEQ that a store of copy `c` writes: one past that of the other copy, where that is valid. -/
def nextSeq (s : State) (c : Nat) : Nat :=
  ((if c = 0 then (if isSet s pCal CAL.NVS_STAT_VALID_B then s.cal.seqB else 0)
    else (if isSet s pCal CAL.NVS_STAT_VALID_A then s.cal.seqA else 0)) + 1) % 2 ^ 32

/-- The state in which a store of copy `c` has ended: `err` the error of one that failed. -/
def stStoreEnded (s : State) : State := putF pCal CAL.STATUS_STORE_BUSY 0 0 { s with cal := { s.cal with storing := none } }

theorem exec_calStoreDone_failed {c err : Nat} (h : s.cal.storing = some c) : exec (.calStoreDone false err) s =
    .next (errRec pCal 0x22 2 0 (c + 16 * err) 0 (irqBit pCal 3 (putF pCal CAL.NVS_STAT_FAIL 1 0 (stStoreEnded s)))) := by
  have hx : execCalStoreDone false err s =
      .next (errRec pCal 0x22 2 0 (c + 16 * err) 0 (irqBit pCal 3 (putF pCal CAL.NVS_STAT_FAIL 1 0 (stStoreEnded s)))) := by
    simp [execCalStoreDone, h, stStoreEnded]
  exact hx

/-- The header that a store of copy `c` writes last: its CRC covers the body that stands in the NVS. -/
def storeHeader (s : State) (c : Nat) : List Byte :=
  calHeader (nextSeq s c) (crc32 (calHeader (nextSeq s c) 0 ++ nvsList s (calBase c + 64) (0x14000 - 64)))

/-- The state in which the header `bs` of copy `c` with number `seq` is in the NVS. -/
def stHeaderPut (c seq : Nat) (bs : List Byte) (s : State) : State :=
  let s := nvsPut (calBase c) bs s
  if c = 0 then { s with cal := { s.cal with seqA := seq } } else { s with cal := { s.cal with seqB := seq } }

/-- The state in which the copy `c` so headed is shown. -/
def stStored (c seq : Nat) (bs : List Byte) (s : State) : State :=
  incSat pCal CAL.NVS_STAT_STORES 0 (putF pCal (validFld c) 1 0 (putF pCal CAL.NVS_STAT_COPY c 0 (stHeaderPut c seq bs s)))

theorem exec_calStoreDone_ok {err : Nat} (h : s.cal.storing = some c) : exec (.calStoreDone true err) s =
    .next (stStored c (nextSeq (stStoreEnded s) c) (storeHeader (stStoreEnded s) c) (stStoreEnded s)) := by
  have hx : execCalStoreDone true err s =
      .next (stStored c (nextSeq (stStoreEnded s) c) (storeHeader (stStoreEnded s) c) (stStoreEnded s)) := by
    simp only [execCalStoreDone, h, Bool.not_true, Bool.false_eq_true, ↓reduceIte]
    rfl
  exact hx

theorem getF_stStoreEnded {f : Fld} (h : f.addr pCal 0 ≠ CAL.STATUS_STORE_BUSY.addr pCal 0) :
    getF (stStoreEnded s) pCal f = getF s pCal f := getF_putF_reg h _ _

theorem nextSeq_stStoreEnded (c : Nat) : nextSeq (stStoreEnded s) c = nextSeq s c := by
  have ha : isSet (stStoreEnded s) pCal CAL.NVS_STAT_VALID_A = isSet s pCal CAL.NVS_STAT_VALID_A := by
    rw [isSet, getF_stStoreEnded (by decide), isSet]
  have hb : isSet (stStoreEnded s) pCal CAL.NVS_STAT_VALID_B = isSet s pCal CAL.NVS_STAT_VALID_B := by
    rw [isSet, getF_stStoreEnded (by decide), isSet]
  simp only [nextSeq, ha, hb]
  rfl

variable {seq : Nat}

theorem rdWord_stHeaderPut (x : Nat) : rdWord (stHeaderPut c seq bs s) x = rdWord s x := by
  unfold stHeaderPut
  dsimp only
  split <;> exact rdWord_nvsPut x

theorem getF_stHeaderPut (p i : Nat) (f : Fld) : getF (stHeaderPut c seq bs s) p f i = getF s p f i := by
  simp only [getF, rdWord_stHeaderPut]

theorem cal_stStored : (stStored c seq bs s).cal = if c = 0 then { s.cal with seqA := seq } else { s.cal with seqB := seq } := by
  show (stHeaderPut c seq bs s).cal = _
  simp only [stHeaderPut]
  rw [nvsPut_eq]
  split <;> rfl

theorem nvsByte_stStored : nvsByte (stStored c seq bs s) a = nvsByte (nvsPut (calBase c) bs s) a := by
  show nvsByte (stHeaderPut c seq bs s) a = _
  unfold stHeaderPut
  dsimp only
  split <;> rfl

theorem nvsList_stStored (h : bs.length = 64) : nvsList (stStored c seq bs s) (calBase c) 64 = bs := by
  simp only [nvsList, nvsByte_stStored]
  have hput := nvsList_nvsPut (s := s) (a := calBase c) (bs := bs)
  rwa [h] at hput

/-- The copies' fields of NVS_STAT stand side by side. -/
theorem validFld_beside (c : Nat) {g : Fld} (h : g = CAL.NVS_STAT_COPY ∨ g = CAL.NVS_STAT_STORES) :
    (validFld c).lo + (validFld c).w ≤ g.lo ∨ g.lo + g.w ≤ (validFld c).lo := by
  rcases h with rfl | rfl <;> unfold validFld <;> split <;> decide

theorem copy_stStored (hc : c < 2) : getF (stStored c seq bs s) pCal CAL.NVS_STAT_COPY = c := by
  unfold stStored
  rw [incSat, getF_putF_beside (by decide), getF_putF_beside (validFld_beside c (.inl rfl)), getF_putF _ _ _ _ _ (by decide)]
  exact Nat.mod_eq_of_lt hc

theorem valid_stStored : isSet (stStored c seq bs s) pCal (validFld c) = true := by
  unfold stStored
  rw [incSat, isSet_putF_beside (validFld_beside c (.inr rfl)).symm, isSet_putF (validFld_fits c)]
  unfold validFld
  split <;> decide

theorem stores_stStored : getF (stStored c seq bs s) pCal CAL.NVS_STAT_STORES =
    min (getF s pCal CAL.NVS_STAT_STORES + 1) (2 ^ CAL.NVS_STAT_STORES.w - 1) := by
  unfold stStored
  rw [getF_incSat (by decide), getF_putF_beside (validFld_beside c (.inr rfl)), getF_putF_beside (by decide), getF_stHeaderPut]

theorem storeBusy_stStoreEnded : isSet (stStoreEnded s) pCal CAL.STATUS_STORE_BUSY = false := isSet_putF (by decide)

theorem storeBusy_stStored (h : isSet s pCal CAL.STATUS_STORE_BUSY = false) :
    isSet (stStored c seq bs s) pCal CAL.STATUS_STORE_BUSY = false := by
  have hvalid : CAL.STATUS_STORE_BUSY.addr pCal 0 ≠ (validFld c).addr pCal 0 := by rw [validFld_addr]; decide
  unfold stStored
  rw [incSat, isSet_putF_reg (by decide), isSet_putF_reg hvalid, isSet_putF_reg (by decide), isSet, getF_stHeaderPut]
  exact h

/-- Settles O44: a store writes its copy's 0x14000 bytes with no header, and its end writes the 64 bytes of the header. -/
theorem calibrationStores : Obligations.CalibrationStores := by
  intro s who
  refine ⟨fun hopen c hc => ?busy, fun hopen hidle => ?start, fun ok err hidle => ?none, fun c err hc => ?failed,
    fun c hlt err hc => ?stored⟩
  case busy => rw [exec_calStoreReq hopen, storeStart_busy hc]
  case start =>
    have hexec : exec (.calStoreReq who) s = .next (stStoring (storeCopy s) (zeros 64 ++ calBody s) s) := by
      rw [exec_calStoreReq hopen, storeStart_idle hidle]
    have hlen := length_storeBytes s
    have hzero := fun i (hi : i < 0x400) => getD_storeBytes s hi
    generalize zeros 64 ++ calBody s = bs at hexec hlen hzero
    refine ⟨_, hexec, rfl, rfl, storeBusy_stStoring, valid_stStoring, fun a ha => ?_, fun a hlo hhi => ?_,
      regsSame_stStoring, typedSame_stStoring⟩
    · rw [nvsByte_stStoring, nvsByte_nvsPut_outside (by rw [hlen]; exact ha)]
    · obtain ⟨i, rfl⟩ : ∃ i, a = calBase (storeCopy s) + i := ⟨a - calBase (storeCopy s), by omega⟩
      rw [nvsByte_stStoring, nvsByte_nvsPut_inside (by omega), hzero i (by omega)]
  case none =>
    have hx : execCalStoreDone ok err s = .next s := by simp [execCalStoreDone, hidle]
    exact hx
  case failed =>
    refine ⟨_, exec_calStoreDone_failed hc, ?_, ?_, ?_, ?_, ?_⟩
    · simp [stStoreEnded]
    · rw [isSet, getF_errRec _ _ _ _ _ _ _ _ _ _ (by decide) (by decide) (by decide), getF_irqBit _ _ _ _ _ _ (by decide)]
      exact isSet_putF (by decide)
    · rw [isSet, getF_errRec _ _ _ _ _ _ _ _ _ _ (by decide) (by decide) (by decide), getF_irqBit _ _ _ _ _ _ (by decide)]
      exact (isSet_putF_reg (by decide)).trans storeBusy_stStoreEnded
    · exact irqStat_errRec_of (irqStat_irqBit_same (by decide))
    · simp [stStoreEnded]
  case stored =>
    have hexec := exec_calStoreDone_ok (err := err) hc
    have hlen : (storeHeader (stStoreEnded s) c).length = 64 := length_calHeader _ _
    have hhead : storeHeader (stStoreEnded s) c =
        calHeader (nextSeq (stStoreEnded s) c) (leNat ((storeHeader (stStoreEnded s) c).drop 60)) := (calHeader_crc _ _).symm
    have hseq := nextSeq_stStoreEnded (s := s) c
    generalize storeHeader (stStoreEnded s) c = bs at hexec hlen hhead
    generalize nextSeq (stStoreEnded s) c = seq at hexec hhead hseq
    refine ⟨_, hexec, ?_, storeBusy_stStored storeBusy_stStoreEnded, copy_stStored hlt, valid_stStored, ?_, fun h0 => ?_,
      fun h1 => ?_, ?_, fun a ha => ?_⟩
    · rw [cal_stStored]
      split <;> rfl
    · rw [stores_stStored, getF_stStoreEnded (by decide)]
    · subst h0
      simp only [cal_stStored, hseq]
      exact ⟨rfl, rfl⟩
    · subst h1
      simp only [cal_stStored, hseq]
      exact ⟨rfl, rfl⟩
    · rw [nvsList_stStored hlen, cal_stStored]
      rw [← show (if c = 0 then seq else seq) = seq by simp] at hhead
      split <;> simpa using hhead
    · rw [nvsByte_stStored, nvsByte_nvsPut_outside (by rw [hlen]; exact ha)]
      rfl

end Sys2Proof.Machine
end

section
/-!
PROOFS. The mailbox command that Hoop runs (R382, R497, R501): its turn, its response and its registers; then debug access (R543,
R544), whose commands are the SUBOPs of DEBUG_UNLOCK.
-/
namespace Sys2Proof.Machine

variable {s t : State} {c : Cmd} {op st n : Nat} {pl : List Byte} {l : List Nat}

/-! ### The turn of a command -/

/-- The state in which Hoop runs the command taken. -/
def stTaken (c : Cmd) (s : State) : State := { s with pcie := { s.pcie with cmd := some { c with susp := false } } }

@[simp] theorem stTaken_cmd : (stTaken c s).pcie.cmd = some { c with susp := false } := rfl
@[simp] theorem getF_stTaken (p : Nat) (f : Fld) (i : Nat) : getF (stTaken c s) p f i = getF s p f i := rfl

theorem hoopTurn_parts (h : hoopTurn s op = true) (hc : s.pcie.cmd = some c) :
    hoopUp s = true ∧ s.hoop.urgent = [] ∧ c.op = op := by
  simp only [hoopTurn, hc, Option.any_some, Bool.and_eq_true, decide_eq_true_eq] at h
  obtain ⟨⟨hup, hurg⟩, hop⟩ := h
  exact ⟨hup, hurg, hop⟩

/-- In its turn a command runs. -/
theorem runCmd_turn (f : Cmd → State → State) (hc : s.pcie.cmd = some c) (h : hoopTurn s op = true) :
    runCmd op f s = f c (stTaken c s) := by
  obtain ⟨hup, hurg, hop⟩ := hoopTurn_parts h hc
  simp [runCmd, hc, hup, hurg, hop, stTaken]

/-- Out of its turn a command changes nothing. -/
theorem runCmd_out (f : Cmd → State → State) (h : hoopTurn s op = false) : runCmd op f s = s := by
  unfold runCmd
  cases hc : s.pcie.cmd with
  | none => rfl
  | some c =>
    simp only [hoopTurn, hc, Option.any_some] at h
    simp only [h, Bool.false_eq_true, if_false]

/-! ### The response -/

/-- The registers that a response writes. -/
def respondRegs : List Nat :=
  [HOOP.CMD_LAST_OPCODE.addr 2 0, HOOP.CMD_PROG.addr 2 0, HOOP.CMD_SEQ.addr 2 0, PCI.MBX_STAT_BUSY.addr 0xD 0, PCI.MBX_DONE.addr 0xD 0]

/-- Nothing but registers, the mailbox with what goes to the host, and the messages has changed. -/
def mailOnly (s t : State) : Prop := t = { s with regs := t.regs, pcie := t.pcie, msix := t.msix }

theorem mailOnly_trans {u : State} (h : mailOnly s t) (h' : mailOnly t u) : mailOnly s u := by
  unfold mailOnly at *
  rw [h', h]

theorem mailOnly_putF {p v i : Nat} {f : Fld} (h : mailOnly s t) : mailOnly s (putF p f v i t) := mailOnly_trans h rfl

theorem mailOnly_pcie {x : Pcie} (h : mailOnly s t) : mailOnly s { t with pcie := x } := mailOnly_trans h rfl

theorem mailOnly_sendVec {v : Nat} (h : mailOnly s t) : mailOnly s (sendVec v t) := by
  refine mailOnly_trans h ?_
  unfold sendVec
  split
  · rfl
  · split <;> rfl

theorem mailOnly_hostWrite {a : Nat} {bs : List Byte} (h : mailOnly s t) : mailOnly s (hostWrite a bs t) := by
  refine mailOnly_trans h ?_
  unfold hostWrite
  split <;> rfl

/-- What a part of the state that a response leaves alone says of it. -/
theorem mailOnly_get {α : Type} {g : State → α} (hg : ∀ (u : State) r p m, g { u with regs := r, pcie := p, msix := m } = g u)
    (h : mailOnly s t) : g t = g s := by
  rw [h]
  exact hg ..

/-- The state in which a response's bytes have gone to host memory. -/
def stResponse (status : Nat) (payload : List Byte) (c : Cmd) (s : State) : State :=
  if c.cut then s
  else hostWrite (addr64 s 0xD PCI.MBX_BASE_LO PCI.MBX_BASE_HI + 0x800)
    (toBytes c.seq 4 ++ toBytes status 2 ++ toBytes 0 2 ++ toBytes payload.length 4 ++ toBytes c.prog 4 ++ payload) s

@[simp] theorem rdWord_hostWrite (a : Nat) (bs : List Byte) (x : Nat) : rdWord (hostWrite a bs s) x = rdWord s x := by
  unfold hostWrite
  split <;> rfl

@[simp] theorem rdWord_stResponse (x : Nat) : rdWord (stResponse st pl c s) x = rdWord s x := by
  unfold stResponse
  split
  · rfl
  · exact rdWord_hostWrite ..

/-- The registers of both pages, and the mailbox, once a command has ended. -/
def stEnded (status : Nat) (c : Cmd) (s : State) : State :=
  let s := putF 2 HOOP.CMD_LAST_OPCODE c.op 0 (putF 2 HOOP.CMD_LAST_STATUS status 0 s)
  let s := putF 2 HOOP.CMD_PROG c.prog 0 (putF 2 HOOP.CMD_SEQ c.seq 0 s)
  let s := putF 0xD PCI.MBX_STAT_BUSY 0 0 (putF 0xD PCI.MBX_STAT_PROG 0 0 s)
  putF 0xD PCI.MBX_DONE c.seq 0 { s with pcie := { s.pcie with cmd := none } }

theorem respond_taken (h : s.pcie.cmd = some c) :
    respond st pl s = if c.cut then stEnded st c (stResponse st pl c s) else sendVec 80 (stEnded st c (stResponse st pl c s)) := by
  simp only [respond, h, stResponse, stEnded]

theorem rdWord_respond_taken (h : s.pcie.cmd = some c) (x : Nat) :
    rdWord (respond st pl s) x = rdWord (stEnded st c (stResponse st pl c s)) x := by
  rw [respond_taken h]
  split
  · rfl
  · exact rdWord_sendVec ..

theorem regsSame_pcie {x : Pcie} (h : regsSame l s t) : regsSame l s { t with pcie := x } := h

theorem getF_pcie {x : Pcie} (p : Nat) (f : Fld) (i : Nat) : getF { s with pcie := x } p f i = getF s p f i := rfl

theorem mailOnly_stEnded (h : mailOnly s t) : mailOnly s (stEnded st c t) := by
  unfold stEnded
  exact mailOnly_putF (mailOnly_pcie (mailOnly_putF (mailOnly_putF (mailOnly_putF (mailOnly_putF (mailOnly_putF (mailOnly_putF h)))))))

theorem mailOnly_respond (h : mailOnly s t) : mailOnly s (respond st pl t) := by
  cases hc : t.pcie.cmd with
  | none => simpa [respond, hc] using h
  | some c =>
    have hsent : mailOnly s (stResponse st pl c t) := by
      unfold stResponse
      split
      · exact h
      · exact mailOnly_hostWrite h
    rw [respond_taken hc]
    split
    · exact mailOnly_stEnded hsent
    · exact mailOnly_sendVec (mailOnly_stEnded hsent)

@[simp] theorem respond_dbgAcc : (respond st pl s).dbgAcc = s.dbgAcc :=
  mailOnly_get (g := State.dbgAcc) (fun _ _ _ _ => rfl) (mailOnly_respond (s := s) rfl)

@[simp] theorem respond_free : (respond st pl s).free = s.free :=
  mailOnly_get (g := State.free) (fun _ _ _ _ => rfl) (mailOnly_respond (s := s) rfl)

theorem regsSame_stEnded (h : respondRegs ⊆ l) (hs : regsSame l s t) : regsSame l s (stEnded st c t) := by
  have hm : ∀ {a}, a ∈ respondRegs → a ∈ l := fun ha => h ha
  unfold stEnded
  refine regsSame_putF (hm ?_) (regsSame_pcie (regsSame_putF (hm ?_) (regsSame_putF (hm ?_) (regsSame_putF (hm ?_)
    (regsSame_putF (hm ?_) (regsSame_putF (hm ?_) (regsSame_putF (hm ?_) hs)))))))
  all_goals decide

theorem regsSame_respond (h : respondRegs ⊆ l) (hs : regsSame l s t) : regsSame l s (respond st pl t) := by
  cases hc : t.pcie.cmd with
  | none => simpa [respond, hc] using hs
  | some c =>
    intro x hx
    rw [rdWord_respond_taken hc]
    exact regsSame_stEnded h (fun a ha => (rdWord_stResponse a).trans (hs a ha)) x hx

/-- A register that no response writes keeps its fields. -/
theorem getF_respond {q j : Nat} {g : Fld} (h : g.addr q j ∉ respondRegs) : getF (respond st pl s) q g j = getF s q g j :=
  regsSame_getF (regsSame_respond (List.Subset.refl _) (regsSame_refl _ s)) h

theorem isSet_respond {q j : Nat} {g : Fld} (h : g.addr q j ∉ respondRegs) : isSet (respond st pl s) q g j = isSet s q g j := by
  rw [isSet, isSet, getF_respond h]

theorem irqStat_respond {p : Nat} (h : HDR.IRQ_STAT.addr p 0 ∉ respondRegs) : irqStat (respond st pl s) p n = irqStat s p n := by
  rw [irqStat, irqStat, regsSame_respond (List.Subset.refl _) (regsSame_refl _ s) _ h]

theorem stEnded_cmd : (stEnded st c s).pcie.cmd = none := rfl

/-- The registers that name the command that has ended, and the free mailbox. -/
theorem answered_stEnded (h : st < 65536) : answered c st (stEnded st c s) := by
  refine ⟨rfl, ?_, ?_, ?_, ?_⟩ <;> unfold stEnded
  case refine_1 =>
    rw [isSet_putF_reg (by decide), isSet, getF_pcie, getF_putF _ _ _ _ _ (by decide)]
    rfl
  case refine_2 => rw [getF_putF _ _ _ _ _ (by decide)]; rfl
  case refine_3 =>
    rw [getF_putF_reg (by decide)]
    rw [getF_pcie, getF_putF_reg (by decide), getF_putF_reg (by decide), getF_putF_reg (by decide), getF_putF_reg (by decide),
      getF_putF _ _ _ _ _ (by decide)]
    rfl
  case refine_4 =>
    rw [getF_putF_reg (by decide)]
    rw [getF_pcie, getF_putF_reg (by decide), getF_putF_reg (by decide), getF_putF_reg (by decide), getF_putF_reg (by decide),
      getF_putF_beside (by decide), getF_putF _ _ _ _ _ (by decide)]
    exact Nat.mod_eq_of_lt h

@[simp] theorem sendVec_pcie (v : Nat) : (sendVec v s).pcie = s.pcie := by
  unfold sendVec
  split
  · rfl
  · split <;> rfl

theorem answered_respond (hc : s.pcie.cmd = some c) (h : st < 65536) : answered c st (respond st pl s) := by
  have hend := answered_stEnded (c := c) (s := stResponse st pl c s) h
  rw [respond_taken hc]
  split
  · exact hend
  · obtain ⟨hcmd, hbusy, hdone, hop, hstat⟩ := hend
    refine ⟨?_, ?_, ?_, ?_, ?_⟩
    · rw [sendVec_pcie]
      exact hcmd
    · rw [isSet, getF, rdWord_sendVec]
      exact hbusy
    · simpa only [getF, rdWord_sendVec] using hdone
    · simpa only [getF, rdWord_sendVec] using hop
    · simpa only [getF, rdWord_sendVec] using hstat

/-- The command answered is the one taken. -/
theorem answered_taken (hc : s.pcie.cmd = some { c with susp := false }) (h : st < 65536) : answered c st (respond st pl s) :=
  answered_respond (c := { c with susp := false }) hc h

end Sys2Proof.Machine
end

section
/-!
PROOFS. Debug access (R543, R544): the SUBOPs of DEBUG_UNLOCK, the nonce of a challenge and the backdoor.
-/
namespace Sys2Proof.Machine

variable {s t : State} {c : Cmd} {l : List Nat} {f : Cmd → State → State} {level n : Nat}

/-! ### Event-log entries -/

/-- The registers that an event-log entry writes. -/
def logRegs : List Nat := [NVS.NVS_STAT_BUSY.addr 3 0, NVS.LOG_WP.addr 3 0, NVS.LOG_OVW.addr 3 0]

theorem regsSame_journal {tgt : Nat} {bs : List Byte} {cmd first : Bool} (h : NVS.NVS_STAT_BUSY.addr 3 0 ∈ l) (hs : regsSame l s t) :
    regsSame l s (journal tgt bs cmd first t) :=
  regsSame_putF h hs

theorem regsSame_logEntry {page code sev detail : Nat} {info addr : Word} {first : Bool} (h : logRegs ⊆ l) (hs : regsSame l s t) :
    regsSame l s (logEntry page code sev info addr detail first t) := by
  unfold logEntry
  dsimp only
  split
  · exact regsSame_incSat (h (by decide)) (regsSame_incWrap (h (by decide)) (regsSame_journal (h (by decide)) hs))
  · exact regsSame_incWrap (h (by decide)) (regsSame_journal (h (by decide)) hs)

@[simp] theorem logEntry_dbgAcc {page code sev detail : Nat} {info addr : Word} {first : Bool} :
    (logEntry page code sev info addr detail first s).dbgAcc = s.dbgAcc := by
  unfold logEntry
  dsimp only
  split <;> simp [incWrap, journal, showNvs]

@[simp] theorem logEntry_pcie {page code sev detail : Nat} {info addr : Word} {first : Bool} :
    (logEntry page code sev info addr detail first s).pcie = s.pcie := by
  unfold logEntry
  dsimp only
  split <;> simp [incWrap, journal, showNvs]

/-! ### SUBOPs and their turn -/

/-- Each SUBOP of DEBUG_UNLOCK is a step of the one command. -/
theorem exec_subop {k : Nat × Instr}
    (hk : k ∈ [(1, Instr.debugUnlock1), (2, Instr.debugChallenge), (3, Instr.debugUnlock2), (4, Instr.debugSetPw), (5, Instr.debugRelock)]) :
    ∃ f, ∀ s, exec k.2 s = .next (debugCmd k.1 f s) := by
  simp only [List.mem_cons, List.not_mem_nil, or_false] at hk
  obtain rfl | rfl | rfl | rfl | rfl := hk
  · exact ⟨unlock1, fun _ => rfl⟩
  · exact ⟨challenge, fun _ => rfl⟩
  · exact ⟨unlock2, fun _ => rfl⟩
  · exact ⟨setPw, fun _ => rfl⟩
  · exact ⟨relock, fun _ => rfl⟩

theorem debugCmd_out (h : hoopTurn s 0x0060 = false) : debugCmd n f s = s := runCmd_out _ h

theorem debugCmd_other (hc : s.pcie.cmd = some c) (ht : hoopTurn s 0x0060 = true) (hn : c.arg 0 1 ≠ n) : debugCmd n f s = stTaken c s := by
  rw [debugCmd, runCmd_turn _ hc ht, if_neg hn]

theorem debugCmd_turn (hc : s.pcie.cmd = some c) (ht : hoopTurn s 0x0060 = true) (hn : c.arg 0 1 = n) :
    debugCmd n f s = f c (stTaken c s) := by
  rw [debugCmd, runCmd_turn _ hc ht, if_pos hn]

/-- A refusal of a SUBOP answers its status and leaves debug access as it was. -/
theorem refused_subop (st : Nat) (h : st < 65536) :
    answered c st (respond st [] (stTaken c s)) ∧ (respond st [] (stTaken c s)).dbgAcc = s.dbgAcc :=
  ⟨answered_taken stTaken_cmd h, by simp only [respond_dbgAcc, stTaken]⟩

@[simp] theorem stTaken_dbgAcc : (stTaken c s).dbgAcc = s.dbgAcc := rfl

theorem getF_dbgAcc {x : Debug} (p : Nat) (g : Fld) (i : Nat) : getF { s with dbgAcc := x } p g i = getF s p g i := rfl

/-! ### A level reached, and a failed attempt -/

/-- The registers with the level reached and their record. -/
def stUnlocked (level : Nat) (s : State) : State :=
  let s := putF 0xE DBG.DBG_STAT_LEVEL (max level (getF s 0xE DBG.DBG_STAT_LEVEL)) 0 (putF 0xE DBG.DBG_STAT_FAILS 0 0 s)
  let s := errRec 0xE 0x20 0 0 level 0 (irqBit 0xE 0 s)
  logEntry 0xE 0x20 0 (BitVec.ofNat 32 level) 0#32 0 false s

theorem unlock_eq : unlock level s = respond 0 [] (stUnlocked level s) := rfl

@[simp] theorem stUnlocked_dbgAcc : (stUnlocked level s).dbgAcc = s.dbgAcc := by simp [stUnlocked]

@[simp] theorem stUnlocked_pcie : (stUnlocked level s).pcie = s.pcie := by simp [stUnlocked]

theorem getF_stUnlocked_stat {g : Fld} (h : g.addr 0xE 0 = DBG.DBG_STAT.addr 0xE 0) :
    getF (stUnlocked level s) 0xE g
      = getF (putF 0xE DBG.DBG_STAT_LEVEL (max level (getF s 0xE DBG.DBG_STAT_LEVEL)) 0 (putF 0xE DBG.DBG_STAT_FAILS 0 0 s)) 0xE g := by
  rw [stUnlocked, regsSame_getF (regsSame_logEntry (List.Subset.refl _) (regsSame_refl _ _)) (by rw [h]; decide),
    getF_errRec _ _ _ _ _ _ _ _ _ _ (by rw [h]; decide) (by rw [h]; decide) (by rw [h]; decide),
    getF_irqBit _ _ _ _ _ _ (by rw [h]; decide)]

theorem getF_stUnlocked_fails : getF (stUnlocked level s) 0xE DBG.DBG_STAT_FAILS = 0 := by
  rw [getF_stUnlocked_stat (g := DBG.DBG_STAT_FAILS) rfl, getF_putF_beside (by decide), getF_putF _ _ _ _ _ (by decide)]
  rfl

theorem getF_stUnlocked_level (h : level < 4) :
    getF (stUnlocked level s) 0xE DBG.DBG_STAT_LEVEL = max level (getF s 0xE DBG.DBG_STAT_LEVEL) := by
  have hw : getF s 0xE DBG.DBG_STAT_LEVEL < 4 := getF_lt s 0xE DBG.DBG_STAT_LEVEL 0
  rw [getF_stUnlocked_stat (g := DBG.DBG_STAT_LEVEL) rfl, getF_putF _ _ _ _ _ (by decide)]
  exact Nat.mod_eq_of_lt (by show _ < 4; omega)

theorem getF_stUnlocked_nonce : getF (stUnlocked level s) 0xE DBG.DBG_STAT_NONCE = getF s 0xE DBG.DBG_STAT_NONCE := by
  rw [getF_stUnlocked_stat (g := DBG.DBG_STAT_NONCE) rfl, getF_putF_beside (by decide), getF_putF_beside (by decide)]

theorem irqStat_stUnlocked : irqStat (stUnlocked level s) 0xE 0 = true := by
  rw [stUnlocked, irqStat, regsSame_logEntry (List.Subset.refl _) (regsSame_refl _ _) _ (by decide)]
  exact irqStat_errRec_of (irqStat_irqBit_same (by decide))

/-- The registers and the wait with the attempt counted. -/
def stFailed (s : State) : State :=
  let s := incSat 0xE DBG.DBG_STAT_FAILS 0 s
  let n := getF s 0xE DBG.DBG_STAT_FAILS
  let s := { s with dbgAcc := { s.dbgAcc with waitEnd := s.up + debugWait n * 1000000000 } }
  errRec 0xE 0x21 0 0 n 0 (irqBit 0xE 1 s)

theorem unlockFail_eq : unlockFail s = respond 5 [] (stFailed s) := rfl

@[simp] theorem stFailed_pcie : (stFailed s).pcie = s.pcie := by simp [stFailed]

theorem getF_stFailed_stat {g : Fld} (h : g.addr 0xE 0 = DBG.DBG_STAT.addr 0xE 0) :
    getF (stFailed s) 0xE g = getF (incSat 0xE DBG.DBG_STAT_FAILS 0 s) 0xE g := by
  rw [stFailed, getF_errRec _ _ _ _ _ _ _ _ _ _ (by rw [h]; decide) (by rw [h]; decide) (by rw [h]; decide),
    getF_irqBit _ _ _ _ _ _ (by rw [h]; decide), getF_dbgAcc]

theorem getF_incSat_fails : getF (incSat 0xE DBG.DBG_STAT_FAILS 0 s) 0xE DBG.DBG_STAT_FAILS
    = min (getF s 0xE DBG.DBG_STAT_FAILS + 1) 255 :=
  getF_incSat (by decide) s

theorem stFailed_dbgAcc : (stFailed s).dbgAcc
    = { s.dbgAcc with waitEnd := s.up + debugWait (min (getF s 0xE DBG.DBG_STAT_FAILS + 1) 255) * 1000000000 } := by
  simp only [stFailed, errRec_dbgAcc, irqBit_dbgAcc, getF_incSat_fails, incSat_dbgAcc, incSat_up]

theorem irqStat_stFailed : irqStat (stFailed s) 0xE 1 = true := irqStat_errRec_of (irqStat_irqBit_same (by decide))

/-! ### The SUBOPs -/

theorem exec_unlock1 (hc : s.pcie.cmd = some c) (ht : hoopTurn s 0x0060 = true) (hn : c.arg 0 1 = 1) :
    exec .debugUnlock1 s = .next (unlock1 c (stTaken c s)) :=
  congrArg Host.Outcome.next (debugCmd_turn hc ht hn)

theorem exec_challenge (hc : s.pcie.cmd = some c) (ht : hoopTurn s 0x0060 = true) (hn : c.arg 0 1 = 2) :
    exec .debugChallenge s = .next (challenge c (stTaken c s)) :=
  congrArg Host.Outcome.next (debugCmd_turn hc ht hn)

theorem exec_unlock2 (hc : s.pcie.cmd = some c) (ht : hoopTurn s 0x0060 = true) (hn : c.arg 0 1 = 3) :
    exec .debugUnlock2 s = .next (unlock2 c (stTaken c s)) :=
  congrArg Host.Outcome.next (debugCmd_turn hc ht hn)

theorem exec_setPw (hc : s.pcie.cmd = some c) (ht : hoopTurn s 0x0060 = true) (hn : c.arg 0 1 = 4) :
    exec .debugSetPw s = .next (setPw c (stTaken c s)) :=
  congrArg Host.Outcome.next (debugCmd_turn hc ht hn)

theorem exec_relock (hc : s.pcie.cmd = some c) (ht : hoopTurn s 0x0060 = true) (hn : c.arg 0 1 = 5) :
    exec .debugRelock s = .next (relock c (stTaken c s)) :=
  congrArg Host.Outcome.next (debugCmd_turn hc ht hn)

theorem debugWaits_stTaken : debugWaits (stTaken c s) = decide (s.up < s.dbgAcc.waitEnd) := rfl

theorem unlock1_refused (h : s.up < s.dbgAcc.waitEnd ∨ s.dbgAcc.hash = none) : unlock1 c (stTaken c s) = respond 5 [] (stTaken c s) := by
  unfold unlock1
  split
  · rfl
  · next hw =>
    obtain h | h := h
    · exact absurd (decide_eq_true h) hw
    · have hh : (stTaken c s).dbgAcc.hash = none := h
      simp only [hh]

theorem unlock1_right (hw : s.dbgAcc.waitEnd ≤ s.up)
    (h : s.dbgAcc.hash = some (Config.sha384 (uidBytes ++ (c.payload.drop 4).take 16))) :
    unlock1 c (stTaken c s) = respond 0 [] (stUnlocked 1 (stTaken c s)) := by
  have hh : (stTaken c s).dbgAcc.hash = some (Config.sha384 (uidBytes ++ (c.payload.drop 4).take 16)) := h
  rw [unlock1, debugWaits_stTaken, decide_eq_false (Nat.not_lt.2 hw), if_neg Bool.false_ne_true, hh]
  dsimp only
  rw [if_pos rfl, unlock_eq]

theorem unlock1_wrong {w : List Byte} (hw : s.dbgAcc.waitEnd ≤ s.up) (h : s.dbgAcc.hash = some w)
    (hne : w ≠ Config.sha384 (uidBytes ++ (c.payload.drop 4).take 16)) :
    unlock1 c (stTaken c s) = respond 5 [] (stFailed (stTaken c s)) := by
  have hh : (stTaken c s).dbgAcc.hash = some w := h
  rw [unlock1, debugWaits_stTaken, decide_eq_false (Nat.not_lt.2 hw), if_neg Bool.false_ne_true, hh]
  dsimp only
  rw [if_neg (Ne.symm hne), unlockFail_eq]

/-- The state with the nonce of a challenge. -/
def stNonce (s : State) : State :=
  useFree (putF 0xE DBG.DBG_STAT_NONCE 1 0 { s with dbgAcc := { s.dbgAcc with
    nonce := some ((List.range 32).map (fun i => (Config.nonce s.free).getD i 0#8)), nonceAt := s.up } })

theorem challenge_eq : challenge c s = respond 0 ((List.range 32).map (fun i => (Config.nonce s.free).getD i 0#8)) (stNonce s) := rfl

theorem nonce_stNonce : isSet (stNonce s) 0xE DBG.DBG_STAT_NONCE = true := by
  rw [isSet, getF, stNonce, rdWord_useFree, ← getF, getF_putF _ _ _ _ _ (by decide)]
  rfl

theorem unlock2_waiting (h : s.up < s.dbgAcc.waitEnd) : unlock2 c (stTaken c s) = respond 5 [] (stTaken c s) := by
  rw [unlock2, debugWaits_stTaken, decide_eq_true h, if_pos rfl]

theorem unlock2_noNonce (hw : s.dbgAcc.waitEnd ≤ s.up) (h : s.dbgAcc.nonce = none) :
    unlock2 c (stTaken c s) = respond 4 [] (stTaken c s) := by
  have hh : (stTaken c s).dbgAcc.nonce = none := h
  rw [unlock2, debugWaits_stTaken, decide_eq_false (Nat.not_lt.2 hw), if_neg Bool.false_ne_true, hh]

theorem unlock2_right {x : List Byte} (hw : s.dbgAcc.waitEnd ≤ s.up) (h : s.dbgAcc.nonce = some x)
    (hr : (c.payload.drop 4).take 32 = Config.hmacDev (x ++ uidBytes ++ [2#8])) :
    unlock2 c (stTaken c s) = respond 0 [] (stUnlocked 2 (dropNonce (stTaken c s))) := by
  have hh : (stTaken c s).dbgAcc.nonce = some x := h
  rw [unlock2, debugWaits_stTaken, decide_eq_false (Nat.not_lt.2 hw), if_neg Bool.false_ne_true, hh]
  dsimp only
  rw [if_pos hr, unlock_eq]

theorem unlock2_wrong {x : List Byte} (hw : s.dbgAcc.waitEnd ≤ s.up) (h : s.dbgAcc.nonce = some x)
    (hr : (c.payload.drop 4).take 32 ≠ Config.hmacDev (x ++ uidBytes ++ [2#8])) :
    unlock2 c (stTaken c s) = respond 5 [] (stFailed (dropNonce (stTaken c s))) := by
  have hh : (stTaken c s).dbgAcc.nonce = some x := h
  rw [unlock2, debugWaits_stTaken, decide_eq_false (Nat.not_lt.2 hw), if_neg Bool.false_ne_true, hh]
  dsimp only
  rw [if_neg hr, unlockFail_eq]

theorem getF_dropNonce {g : Fld} (h : DBG.DBG_STAT_NONCE.lo + DBG.DBG_STAT_NONCE.w ≤ g.lo ∨ g.lo + g.w ≤ DBG.DBG_STAT_NONCE.lo) :
    getF (dropNonce s) 0xE g = getF s 0xE g := by
  rw [dropNonce, getF_putF_beside h, getF_dbgAcc]

theorem nonce_dropNonce : isSet (dropNonce s) 0xE DBG.DBG_STAT_NONCE = false := by
  rw [isSet, dropNonce, getF_putF _ _ _ _ _ (by decide)]
  rfl

/-- The state in which SET_PW has stored a password's hash. -/
def stPwSet (c : Cmd) (s : State) : State :=
  putF 0xE DBG.DBG_STAT_PW_SET 1 0
    { s with dbgAcc := { s.dbgAcc with hash := some (Config.sha384 (uidBytes ++ (c.payload.drop 4).take 16)) } }

theorem setPw_refused (hh : s.dbgAcc.hash ≠ none) (hl : getF s 0xE DBG.DBG_STAT_LEVEL = 0) :
    setPw c (stTaken c s) = respond 5 [] (stTaken c s) := by
  have hcond : ((stTaken c s).dbgAcc.hash.isSome && decide (getF (stTaken c s) 0xE DBG.DBG_STAT_LEVEL = 0)) = true := by
    simpa [hl, Option.isSome_iff_ne_none] using hh
  rw [setPw, if_pos hcond]

theorem setPw_stored (h : s.dbgAcc.hash = none ∨ getF s 0xE DBG.DBG_STAT_LEVEL ≠ 0) :
    setPw c (stTaken c s) = respond 0 [] (stPwSet c (stTaken c s)) := by
  have hcond : ¬ ((stTaken c s).dbgAcc.hash.isSome && decide (getF (stTaken c s) 0xE DBG.DBG_STAT_LEVEL = 0)) = true := by
    obtain h | h := h <;> simp [h]
  rw [setPw, if_neg hcond, stPwSet]

theorem pwSet_stPwSet : isSet (stPwSet c s) 0xE DBG.DBG_STAT_PW_SET = true := by
  rw [isSet, stPwSet, getF_putF _ _ _ _ _ (by decide)]
  rfl

/-! ### The nonce's end and the backdoor -/

theorem exec_nonceExpire_due (hn : s.dbgAcc.nonce ≠ none) (ha : s.dbgAcc.nonceAt + 60000000000 ≤ s.up) :
    exec .nonceExpire s = .next (dropNonce s) :=
  congrArg Host.Outcome.next (if_pos (by simp [Option.isSome_iff_ne_none, hn, ha]))

theorem exec_nonceExpire_early (h : s.dbgAcc.nonce = none ∨ s.up < s.dbgAcc.nonceAt + 60000000000) : exec .nonceExpire s = .next s :=
  congrArg Host.Outcome.next (if_neg (by
    obtain h | h := h
    · simp [h]
    · simp [Nat.not_le.2 h]))

theorem exec_backdoorRead_unreached (h : reachable s 0xE = false) : exec .backdoorRead s = .next { s with lastRead := 0#64 } := by
  have hr : reaches s .host 0xE = false := by simp [reaches, h]
  show Host.Outcome.next (busRead .host 0xE DBG.BD_DATA.off s) = _
  simp [busRead, hr]

theorem exec_backdoorRead_up (h : pageUp s 0xE = true) :
    exec .backdoorRead s = .next { s with lastRead := (backdoorWord s).setWidth 64, free := s.free + 8 } := by
  simp only [pageUp, Bool.and_eq_true, Bool.not_eq_true'] at h
  obtain ⟨⟨hpres, hready⟩, hrst⟩ := h
  have hr : reaches s .host 0xE = true := by simp [reaches, reachable, hready]
  have hm : mapped .dbg DBG.BD_DATA.off = true := by decide
  show Host.Outcome.next (busRead .host 0xE DBG.BD_DATA.off s) = _
  simp only [busRead, hr, hpres, Bool.not_true, Bool.and_false, Bool.or_self, Bool.false_eq_true, if_false]
  simp [pageKind, hm, hrst, readEffect]

theorem backdoorWord_closed (h : getF s 0xE DBG.DBG_STAT_LEVEL = 0 ∨ 0xC471F < getF s 0xE DBG.BD_ADDR_ADDR) : backdoorWord s = 0#32 :=
  if_pos h

/-- Settles O56, one SUBOP after the other: each branch ends in one response, which leaves debug access alone. -/
theorem debugAccess : Obligations.DebugAccess := by
  unfold Obligations.DebugAccess
  refine fun s => ⟨fun k hk => ?turn, fun c hc ht hn => ?unlock1, fun c hc ht hn => ?challenge, fun c hc ht hn => ?unlock2,
    fun c hc ht hn => ?setPw, fun c hc ht hn => ?relock, fun hn ha => ?expire, exec_nonceExpire_early, exec_backdoorRead_unreached,
    fun h => ?backdoor⟩
  case turn =>
    obtain ⟨f, hexec⟩ := exec_subop hk
    exact ⟨fun h => by rw [hexec, debugCmd_out h], fun c hc ht hn => ⟨_, hexec s, debugCmd_other hc ht hn⟩⟩
  case unlock1 =>
    refine ⟨fun h => ?_, fun hw hh => ?_, fun hw w hh hne => ?_⟩
    · exact ⟨_, exec_unlock1 hc ht hn, by rw [unlock1_refused h]; exact refused_subop 5 (by decide)⟩
    · refine ⟨_, exec_unlock1 hc ht hn, ?_⟩
      rw [unlock1_right hw hh]
      refine ⟨answered_taken (by simp) (by decide), ?_, ?_, ?_, by simp⟩
      · rw [getF_respond (by decide), getF_stUnlocked_level (by decide), getF_stTaken]
      · rw [getF_respond (by decide), getF_stUnlocked_fails]
      · rw [irqStat_respond (by decide), irqStat_stUnlocked]
    · refine ⟨_, exec_unlock1 hc ht hn, ?_⟩
      rw [unlock1_wrong hw hh hne]
      refine ⟨answered_taken (by simp) (by decide), ?_, ?_, ?_, ?_⟩
      · rw [getF_respond (by decide), getF_stFailed_stat (g := DBG.DBG_STAT_LEVEL) rfl, incSat, getF_putF_beside (by decide), getF_stTaken]
      · rw [getF_respond (by decide), getF_stFailed_stat (g := DBG.DBG_STAT_FAILS) rfl, getF_incSat_fails, getF_stTaken]
      · rw [respond_dbgAcc, stFailed_dbgAcc, getF_stTaken]
        rfl
      · rw [irqStat_respond (by decide), irqStat_stFailed]
  case challenge =>
    refine ⟨_, exec_challenge hc ht hn, ?_⟩
    rw [challenge_eq]
    exact ⟨answered_taken rfl (by decide), by rw [respond_dbgAcc]; rfl, by rw [respond_dbgAcc]; rfl, by rw [respond_free]; rfl,
      by rw [isSet_respond (by decide), nonce_stNonce]⟩
  case unlock2 =>
    refine ⟨fun h => ?_, fun hw h => ?_, fun hw x h hr => ?_, fun hw x h hr => ?_⟩
    · exact ⟨_, exec_unlock2 hc ht hn, by rw [unlock2_waiting h]; exact refused_subop 5 (by decide)⟩
    · exact ⟨_, exec_unlock2 hc ht hn, by rw [unlock2_noNonce hw h]; exact refused_subop 4 (by decide)⟩
    · refine ⟨_, exec_unlock2 hc ht hn, ?_⟩
      rw [unlock2_right hw h hr]
      refine ⟨answered_taken (by rw [stUnlocked_pcie]; rfl) (by decide), ?_, by rw [respond_dbgAcc, stUnlocked_dbgAcc]; rfl, ?_⟩
      · rw [getF_respond (by decide), getF_stUnlocked_level (by decide), getF_dropNonce (by decide), getF_stTaken]
      · rw [isSet_respond (by decide), isSet, getF_stUnlocked_nonce]
        exact nonce_dropNonce
    · refine ⟨_, exec_unlock2 hc ht hn, ?_⟩
      rw [unlock2_wrong hw h hr]
      refine ⟨answered_taken (by rw [stFailed_pcie]; rfl) (by decide), by rw [respond_dbgAcc, stFailed_dbgAcc]; rfl, ?_, ?_⟩
      · rw [getF_respond (by decide), getF_stFailed_stat (g := DBG.DBG_STAT_LEVEL) rfl, incSat, getF_putF_beside (by decide),
          getF_dropNonce (by decide), getF_stTaken]
      · rw [irqStat_respond (by decide), irqStat_stFailed]
  case setPw =>
    refine ⟨fun hh hl => ?_, fun h => ?_⟩
    · exact ⟨_, exec_setPw hc ht hn, by rw [setPw_refused hh hl]; exact refused_subop 5 (by decide)⟩
    · refine ⟨_, exec_setPw hc ht hn, ?_⟩
      rw [setPw_stored h]
      exact ⟨answered_taken rfl (by decide), by rw [respond_dbgAcc]; rfl, by rw [isSet_respond (by decide), pwSet_stPwSet]⟩
  case relock =>
    refine ⟨_, exec_relock hc ht hn, answered_taken rfl (by decide), ?_, by rw [relock, respond_dbgAcc]; rfl⟩
    rw [relock, getF_respond (by decide), getF_putF _ _ _ _ _ (by decide)]
    rfl
  case expire =>
    exact ⟨_, exec_nonceExpire_due hn ha, rfl, nonce_dropNonce, regsSame_putF (by decide) fun _ _ => rfl, rfl⟩
  case backdoor =>
    exact ⟨_, exec_backdoorRead_up h, rfl, fun hz => by simp [backdoorWord_closed hz]⟩

end Sys2Proof.Machine
end

section
/-!
PROOFS. What the detection of a bad line changes (R449 to R459): its side array, the counts, records and interrupts of the Memory
Integrity page, the last answer to a bus read, and for the Hoop microcode store the record of a machine check.
-/
namespace Sys2Proof.Machine

variable {s t : State} {a v i n : Nat} {f : Fld}

/-- The registers that the detection of a bad line may write. -/
def lineReg (a : Nat) : Prop :=
  (pageOf a = 6 ∧ (offOf a = HDR.IRQ_STAT.off ∨ offOf a = HDR.ERR_CNT.off ∨ offOf a = MIC.MEM_STAT.off ∨ offOf a = MIC.MEM_LOST.off))
  ∨ a ∈ HOOP.MC_STAT.addr 2 0 :: recRegs 2

/-- The parts of the state that the detection of a bad line may change. -/
def lineTyped (s t : State) : Prop :=
  t = { s with regs := t.regs, errs := t.errs, fatal := t.fatal, msix := t.msix, lines := t.lines, lastBytes := t.lastBytes,
               lastAbort := t.lastAbort, hoop := { s.hoop with resident := t.hoop.resident } }

/-- What the detection of a bad line may change. -/
structure LineOnly (s t : State) : Prop where
  regs : ∀ a, ¬ lineReg a → rdWord t a = rdWord s a
  typed : lineTyped s t

namespace LineOnly

theorem refl (s : State) : LineOnly s s := ⟨fun _ _ => rfl, rfl⟩

theorem trans {u : State} (h : LineOnly s t) (h' : LineOnly t u) : LineOnly s u :=
  ⟨fun a ha => (h'.regs a ha).trans (h.regs a ha), by
    have ht := h.typed
    have hu := h'.typed
    unfold lineTyped at *
    rw [hu, ht]⟩

theorem setLine {l : LineSt} (h : LineOnly s t) : LineOnly s (setLine a l t) := h.trans ⟨fun _ _ => rfl, rfl⟩

theorem answer {bs : List Byte} {b : Bool} (h : LineOnly s t) : LineOnly s { t with lastBytes := bs, lastAbort := b } :=
  h.trans ⟨fun _ _ => rfl, rfl⟩

theorem resident {b : Bool} (h : LineOnly s t) : LineOnly s { t with hoop := { t.hoop with resident := b } } :=
  h.trans ⟨fun _ _ => rfl, rfl⟩

theorem wrWord {w : Word} (ha : lineReg a) (h : LineOnly s t) : LineOnly s (wrWord a w t) := by
  refine h.trans ⟨fun x hx => rdWord_wrWord_other ?_ _ t, rfl⟩
  rintro rfl
  exact hx ha

theorem sendVec (h : LineOnly s t) : LineOnly s (sendVec v t) := by
  refine h.trans ⟨fun x _ => rdWord_sendVec t x _, ?_⟩
  unfold Machine.sendVec
  split
  · rfl
  · split <;> rfl

theorem putF {p : Nat} (ha : lineReg (f.addr p i)) (h : LineOnly s t) : LineOnly s (putF p f v i t) := wrWord ha h

theorem incSat {p : Nat} (ha : lineReg (f.addr p i)) (h : LineOnly s t) : LineOnly s (incSat p f i t) := h.putF ha

theorem lineReg_mic {p : Nat} (hp : p = 6 ∨ p = 2) : ∀ a ∈ recRegs p, lineReg a := by
  intro a ha
  obtain rfl | rfl := hp
  · simp only [recRegs, List.mem_cons, List.not_mem_nil, or_false] at ha
    obtain rfl | rfl | rfl := ha
    · exact .inl (by decide)
    · exact .inl (by decide)
    · exact .inr (by decide)
  · exact .inr (List.mem_cons_of_mem _ ha)

theorem ite {c : Prop} [Decidable c] {x y : State} (hx : LineOnly s x) (hy : LineOnly s y) : LineOnly s (if c then x else y) := by
  split <;> assumption

theorem errs {x : SMap PageErr} (h : LineOnly s t) : LineOnly s { t with errs := x } := h.trans ⟨fun _ _ => rfl, rfl⟩

theorem fatal {x : Option FatalRec} (h : LineOnly s t) : LineOnly s { t with fatal := x } := h.trans ⟨fun _ _ => rfl, rfl⟩

theorem irqBit {p : Nat} (hp : p = 6 ∨ p = 2) (h : LineOnly s t) : LineOnly s (irqBit p n t) := by
  have hr : lineReg (HDR.IRQ_STAT.addr p 0) := lineReg_mic hp _ (by simp [recRegs])
  unfold Machine.irqBit irqSet irqEdge
  exact ite (sendVec (wrWord hr h)) (wrWord hr h)

theorem errRec {p code sev unit info addr : Nat} (hp : p = 6 ∨ p = 2) (h : LineOnly s t) :
    LineOnly s (errRec p code sev unit info addr t) := by
  have hr := lineReg_mic hp
  have hcnt : lineReg (HDR.ERR_CNT_TOTAL.addr p 0) := hr _ (by simp [recRegs])
  have hfat : lineReg (DMP.DUMP_STAT_FATAL_CNT.addr 0xF 0) := hr _ (by simp [recRegs])
  unfold Machine.errRec
  dsimp only
  refine ite (ite (putF hfat (fatal ?_)) (incSat hfat ?_)) ?_ <;>
    exact ite (irqBit hp (errs (incSat hcnt h))) (irqBit hp (incSat hcnt (errs (incSat hcnt h))))

theorem lineReg_memStat (i : Nat) : lineReg (MIC.MEM_STAT.addr 6 i) := by
  refine .inl ⟨?_, .inr (.inr (.inl ?_))⟩ <;> simp only [pageOf, offOf, Fld.addr, MIC.MEM_STAT, windowStride] <;> omega

theorem lineReg_memLost (i : Nat) : lineReg (MIC.MEM_LOST.addr 6 i) := by
  refine .inl ⟨?_, .inr (.inr (.inr ?_))⟩ <;> simp only [pageOf, offOf, Fld.addr, MIC.MEM_LOST, windowStride] <;> omega

theorem bucketAdd {m : MemRef} (h : LineOnly s t) : LineOnly s (bucketAdd m n t) := by
  have hr := lineReg_memStat m.idx
  exact ite (putF hr h) (putF hr (incSat hr (errRec (.inl rfl) (irqBit (.inl rfl) h))))

theorem wrDrop {m : MemRef} {req : Nat} (h : LineOnly s t) : LineOnly s (wrDrop m req a t) :=
  incSat (lineReg_memLost m.idx) (errRec (.inl rfl) h)

theorem hoopCheck (h : LineOnly s t) : LineOnly s (hoopCheck a t) := by
  have hr : lineReg (HOOP.MC_STAT.addr 2 0) := .inr List.mem_cons_self
  exact ite (errRec (.inr rfl) (resident (incSat hr (putF hr h)))) h

theorem poisonLine {m : MemRef} {req cause : Nat} (h : LineOnly s t) : LineOnly s (poisonLine m req cause a t) := by
  unfold Machine.poisonLine
  dsimp only
  refine ite h (forAll_induction (fun e u hu => wrDrop hu) _ (forAll_induction (fun e u hu => answer hu) _ ?_))
  exact irqBit (.inl rfl) (errRec (.inl rfl) (setLine (ite h (incSat (lineReg_memStat m.idx) h))))

theorem detectLine {req : Nat} (h : LineOnly s t) : LineOnly s (detectLine req a t) := by
  unfold Machine.detectLine
  split
  · exact h
  · next m _ =>
    dsimp only
    split
    · exact ite (hoopCheck (poisonLine h)) (poisonLine h)
    · exact ite h (ite (poisonLine h) (bucketAdd (setLine h)))

theorem rtTouch (h : LineOnly s t) : LineOnly s (rtTouch a t) := by
  unfold Machine.rtTouch rtZero
  refine ite ?_ h
  split
  · exact h
  · exact ite (detectLine h) (incSat (lineReg_memLost _) (errRec (.inl rfl) (setLine (detectLine h))))

theorem tileOf (h : LineOnly s t) (b : Nat) : tileOf t b = tileOf s b := by
  have ht := h.typed
  unfold lineTyped at ht
  rw [ht]
  rfl

/-- A field of a page that detection does not touch. -/
theorem getF {p : Nat} (h : LineOnly s t) (hp : ¬ lineReg (f.addr p i)) : getF t p f i = getF s p f i := by
  simp only [Machine.getF, h.regs _ hp]

end LineOnly

end Sys2Proof.Machine
end

section
/-!
PROOFS. Writes of a register by fields on an open page (R86 to R89), and the stream slots (R155 to R159).
-/
namespace Sys2Proof.Machine

variable {s t : State} {who : Requester} {p o b k v : Nat} {data : Word} {kind : PageKind}

/-! ### A step repeated over a list -/

theorem forAll_induction_mem {α : Type} {P : State → Prop} {g : α → State → State} {l : List α}
    (hg : ∀ x ∈ l, ∀ t, P t → P (g x t)) {s : State} (h : P s) : P (forAll l g s) := by
  induction l generalizing s with
  | nil => exact h
  | cons x l ih => exact ih (fun y hy => hg y (List.mem_cons_of_mem _ hy)) (hg x List.mem_cons_self _ h)

theorem sendVec_tiles (v : Nat) : (sendVec v s).tiles = s.tiles := by
  unfold sendVec
  split
  · rfl
  · split <;> rfl

/-! ### Writes on an open page -/

/-- The word that an accepted write leaves: every field takes its bits, but for a value that the field ignores. -/
def takenWord (kind : PageKind) (p o : Nat) (data old : Word) : Word :=
  mergeFields (fieldsAt kind o) (fun d => fieldTakes p o d (d.fld.of data)) data old

theorem mergeFields_none {fs : List FieldDesc} {ok : FieldDesc → Bool} (h : ∀ d ∈ fs, ok d = false) (w old : Word) :
    mergeFields fs ok w old = old := by
  unfold mergeFields
  induction fs generalizing old with
  | nil => rfl
  | cons d l ih =>
    simp only [List.foldl_cons, h d List.mem_cons_self, Bool.false_eq_true, if_false]
    exact ih (fun e he => h e (List.mem_cons_of_mem _ he)) old

theorem any_none (fs : List FieldDesc) : fs.any (fun _ => false) = false := by simp

/-- Where nothing shuts it, a register with no boundary-class field takes a write at once. -/
theorem writeReg_taken (h : busOpen s who p = true) (hk : pageKind p = some kind) (hcls : ∀ d ∈ fieldsAt kind o, d.cls ≠ .b)
    (hshut : sBlocked s who p o = false) :
    writeReg who p o data s = wrWord (accAddr s who p o) (takenWord kind p o data (rdWord s (accAddr s who p o))) s := by
  have hwr : (fieldsAt kind o).any (fun d => fieldTakes p o d (d.fld.of data) && decide (d.cls = .b) && decide (d.acc = .rw)) = false := by
    simp only [List.any_eq_false, Bool.and_eq_true, decide_eq_true_eq, not_and]
    exact fun d hd h => absurd h.2 (hcls d hd)
  simp only [writeReg, hk, lockProt_open h, hshut, Bool.not_false, Bool.true_and, Bool.and_true, Bool.false_and, hwr, Bool.false_eq_true, if_false,
    any_none, takenWord]

/-- A register of stopped-only fields keeps its word while its page runs, and CFG_BUSY is set (R86). -/
theorem writeReg_shut (h : busOpen s who p = true) (hk : pageKind p = some kind) (hne : fieldsAt kind o ≠ [])
    (hcls : ∀ d ∈ fieldsAt kind o, d.cls = .s) (hshut : sBlocked s who p o = true) :
    writeReg who p o data s = cfgBusy p (wrWord (accAddr s who p o) (rdWord s (accAddr s who p o)) s) := by
  have hok : ∀ d ∈ fieldsAt kind o, (!decide (d.cls = .s) && fieldTakes p o d (d.fld.of data)) = false := by
    intro d hd
    simp [hcls d hd]
  have hwr : (fieldsAt kind o).any (fun d => (!decide (d.cls = .s) && fieldTakes p o d (d.fld.of data)) && decide (d.cls = .b)
      && decide (d.acc = .rw)) = false := by
    simp only [List.any_eq_false]
    intro d hd
    simp [hcls d hd]
  have hbusy : (fieldsAt kind o).any (fun d => decide (d.cls = .s)) = true := by
    obtain ⟨d, hd⟩ := List.exists_mem_of_ne_nil _ hne
    exact List.any_eq_true.2 ⟨d, hd, by simp [hcls d hd]⟩
  simp only [writeReg, hk, lockProt_open h, hshut, Bool.not_false, Bool.true_and, Bool.and_true, Bool.false_and, hwr, Bool.false_eq_true, if_false,
    any_none, hbusy, mergeFields_none hok, if_true]

/-! ### The register STRM_CFG of a slot -/

/-- The fields of STRM_CFG. -/
def strmCfgFields : List FieldDesc :=
  [⟨TMB.STRM_CFG_BASE, .rw, .s, 0⟩, ⟨TMB.STRM_CFG_SIZE_LOG2, .rw, .s, 2⟩, ⟨TMB.STRM_CFG_EN, .rw, .s, 0⟩]

theorem fieldsAt_strmCfg (kind : PageKind) (ht : kind = .drv ∨ kind = .rdo ∨ kind = .flx) (hk : k < 8) :
    fieldsAt kind (TMB.STRM_CFG.off + 0x10 * k) = strmCfgFields := by
  have hdrv : ∀ k < 8, fieldsAt .drv (TMB.STRM_CFG.off + 0x10 * k) = strmCfgFields := by decide +kernel
  have hrdo : ∀ k < 8, fieldsAt .rdo (TMB.STRM_CFG.off + 0x10 * k) = strmCfgFields := by decide +kernel
  have hflx : ∀ k < 8, fieldsAt .flx (TMB.STRM_CFG.off + 0x10 * k) = strmCfgFields := by decide +kernel
  obtain rfl | rfl | rfl := ht
  · exact hdrv k hk
  · exact hrdo k hk
  · exact hflx k hk

theorem pageKind_tile (hb : b < 32) :
    ∃ kind, pageKind (tilePage b) = some kind ∧ (kind = .drv ∨ kind = .rdo ∨ kind = .flx) := by
  by_cases hdrv : b < 16
  · exact ⟨.drv, by simp only [pageKind, tilePage]; grind, .inl rfl⟩
  · by_cases hrdo : b < 24
    · exact ⟨.rdo, by simp only [pageKind, tilePage]; grind, .inr (.inl rfl)⟩
    · exact ⟨.flx, by simp only [pageKind, tilePage]; grind, .inr (.inr rfl)⟩

/-- Whether the stopped-only fields of a tile page are shut does not depend on the register. -/
theorem sBlocked_tile (hb : b < 32) (o o' : Nat) : sBlocked s who (tilePage b) o = sBlocked s who (tilePage b) o' := by
  obtain ⟨kind, hkind, rfl | rfl | rfl⟩ := pageKind_tile hb <;> simp only [sBlocked, hkind]

theorem accAddr_strmCfg (hb : b < 32) (hk : k < 8) :
    accAddr s who (tilePage b) (TMB.STRM_CFG.off + 0x10 * k) = TMB.STRM_CFG.addr (tilePage b) k := by
  have hwin : winIdx s who (tilePage b) (TMB.STRM_CFG.off + 0x10 * k) = 0 := by
    obtain ⟨kind, hkind, rfl | rfl | rfl⟩ := pageKind_tile hb <;> simp only [winIdx, hkind]
    interval_cases k <;> rfl
  rw [accAddr, hwin]
  simp only [Fld.addr, TMB.STRM_CFG]
  omega

theorem takenWord_strmCfg (hb : b < 32) (hk : k < 8) (hkind : pageKind (tilePage b) = some kind) (w old : Word) :
    takenWord kind (tilePage b) (TMB.STRM_CFG.off + 0x10 * k) w old
      = TMB.STRM_CFG_EN.upd (TMB.STRM_CFG_EN.of w) (TMB.STRM_CFG_SIZE_LOG2.upd (TMB.STRM_CFG_SIZE_LOG2.of w)
        (TMB.STRM_CFG_BASE.upd (TMB.STRM_CFG_BASE.of w) old)) := by
  obtain ⟨kind', hkind', ht⟩ := pageKind_tile hb
  obtain rfl : kind' = kind := Option.some.inj (hkind'.symm.trans hkind)
  have htakes : ∀ d v, fieldTakes (tilePage b) (TMB.STRM_CFG.off + 0x10 * k) d v = true := by
    intro d v
    obtain rfl | rfl | rfl := ht <;> simp only [fieldTakes, hkind]
    interval_cases k <;> rfl
  rw [takenWord, fieldsAt_strmCfg kind' ht hk]
  simp only [mergeFields, strmCfgFields, htakes, List.foldl_cons, List.foldl_nil, if_true]

theorem strmCfg_cls : ∀ d ∈ strmCfgFields, d.cls = .s := by decide

/-- The state after a write of STRM_CFG that lands: the slot is set up anew. -/
def stSlotSet (b k : Nat) (w : Word) (s : State) : State :=
  putF (tilePage b) TMB.STRM_FILL 0 k (putF (tilePage b) TMB.STRM_CONS 0 k (wrWord (TMB.STRM_CFG.addr (tilePage b) k) w s))

/-- The fields of STRM_CFG once the slot is set up. -/
theorem getF_stSlotSet {g : Fld} (hg : g.addr (tilePage b) k = TMB.STRM_CFG.addr (tilePage b) k) (w : Word) :
    getF (stSlotSet b k w s) (tilePage b) g k = g.of w := by
  have hfill : g.addr (tilePage b) k ≠ TMB.STRM_FILL.addr (tilePage b) k := by
    rw [hg]
    simp only [Fld.addr, TMB.STRM_CFG, TMB.STRM_FILL]
    omega
  have hcons : g.addr (tilePage b) k ≠ TMB.STRM_CONS.addr (tilePage b) k := by
    rw [hg]
    simp only [Fld.addr, TMB.STRM_CFG, TMB.STRM_CONS]
    omega
  rw [stSlotSet, getF_putF_reg hfill, getF_putF_reg hcons, getF, hg, rdWord_wrWord]

theorem getF_stSlotSet_fill (w : Word) : getF (stSlotSet b k w s) (tilePage b) TMB.STRM_FILL k = 0 := by
  rw [stSlotSet, getF_putF _ _ _ _ _ (by decide)]
  rfl

theorem getF_stSlotSet_cons (w : Word) : getF (stSlotSet b k w s) (tilePage b) TMB.STRM_CONS k = 0 := by
  have hne : TMB.STRM_CONS.addr (tilePage b) k ≠ TMB.STRM_FILL.addr (tilePage b) k := by
    simp only [Fld.addr, TMB.STRM_CONS, TMB.STRM_FILL]
    omega
  rw [stSlotSet, getF_putF_reg hne, getF_putF _ _ _ _ _ (by decide)]
  rfl

theorem exec_strmCfgWrite_lands (hb : b < 32) (hk : k < 8) (h : busOpen s who (tilePage b) = true)
    (hshut : sBlocked s who (tilePage b) TMB.STRM_CFG_EN.off = false) (w : Word) :
    exec (.strmCfgWrite who b k w) s = .next (stSlotSet b k (TMB.STRM_CFG_EN.upd (TMB.STRM_CFG_EN.of w)
      (TMB.STRM_CFG_SIZE_LOG2.upd (TMB.STRM_CFG_SIZE_LOG2.of w) (TMB.STRM_CFG_BASE.upd (TMB.STRM_CFG_BASE.of w)
        (rdWord s (TMB.STRM_CFG.addr (tilePage b) k))))) s) := by
  obtain ⟨kind, hkind, ht⟩ := pageKind_tile hb
  obtain ⟨-, -, -, -, hcfg, hall⟩ := busOpen_parts h
  have hshut' : sBlocked s who (tilePage b) (TMB.STRM_CFG.off + 0x10 * k) = false := by rw [← hshut]; exact sBlocked_tile hb _ _
  have hcls : ∀ d ∈ fieldsAt kind (TMB.STRM_CFG.off + 0x10 * k), d.cls ≠ .b := by
    rw [fieldsAt_strmCfg kind ht hk]
    decide
  refine congrArg Host.Outcome.next ((busGate_open h (by simp [hkind]) _ _).trans ?_)
  simp only [strmCfgWriteEffect, hshut', hcfg, hall, Bool.not_false, Bool.and_self, if_true]
  rw [writeReg_taken h hkind hcls hshut', takenWord_strmCfg hb hk hkind, accAddr_strmCfg hb hk, stSlotSet]

theorem exec_strmCfgWrite_shut (hb : b < 32) (hk : k < 8) (h : busOpen s who (tilePage b) = true)
    (hshut : sBlocked s who (tilePage b) TMB.STRM_CFG_EN.off = true) (w : Word) :
    exec (.strmCfgWrite who b k w) s = .next (cfgBusy (tilePage b)
      (wrWord (TMB.STRM_CFG.addr (tilePage b) k) (rdWord s (TMB.STRM_CFG.addr (tilePage b) k)) s)) := by
  obtain ⟨kind, hkind, ht⟩ := pageKind_tile hb
  have hshut' : sBlocked s who (tilePage b) (TMB.STRM_CFG.off + 0x10 * k) = true := by rw [← hshut]; exact sBlocked_tile hb _ _
  refine congrArg Host.Outcome.next ((busGate_open h (by simp [hkind]) _ _).trans ?_)
  simp only [strmCfgWriteEffect, hshut', Bool.not_true, Bool.false_and, Bool.false_eq_true, if_false]
  rw [writeReg_shut h hkind (by rw [fieldsAt_strmCfg kind ht hk]; decide) (by rw [fieldsAt_strmCfg kind ht hk]; exact strmCfg_cls) hshut',
    accAddr_strmCfg hb hk]

theorem strmFill_addr_ne (h : k < 8) : TMB.STRM_FILL.addr (tilePage b) k ≠ HDR.STATUS.addr (tilePage b) 0
    ∧ TMB.STRM_FILL.addr (tilePage b) k ≠ HDR.IRQ_STAT.addr (tilePage b) 0
    ∧ TMB.STRM_CFG.addr (tilePage b) k ≠ HDR.STATUS.addr (tilePage b) 0
    ∧ TMB.STRM_CFG.addr (tilePage b) k ≠ HDR.IRQ_STAT.addr (tilePage b) 0
    ∧ TMB.STRM_FILL.addr (tilePage b) k ≠ TMB.STRM_CFG.addr (tilePage b) k := by
  simp only [Fld.addr, TMB.STRM_FILL, TMB.STRM_CFG, HDR.STATUS, HDR.IRQ_STAT]
  omega

theorem getF_cfgBusy {q j : Nat} {g : Fld} (h1 : g.addr q j ≠ HDR.STATUS.addr p 0) (h2 : g.addr q j ≠ HDR.IRQ_STAT.addr p 0) :
    getF (cfgBusy p s) q g j = getF s q g j := by
  rw [cfgBusy, getF_irqBit _ _ _ _ _ _ h2]
  exact getF_putF_reg (f := HDR.STATUS_CFG_BUSY) h1 1 s

theorem isSet_cfgBusy : isSet (cfgBusy p s) p HDR.STATUS_CFG_BUSY = true := by
  have hne : HDR.STATUS_CFG_BUSY.addr p 0 ≠ HDR.IRQ_STAT.addr p 0 := by
    simp only [Fld.addr, HDR.STATUS_CFG_BUSY, HDR.IRQ_STAT]
    omega
  rw [isSet, cfgBusy, getF_irqBit _ _ _ _ _ _ hne, getF_putF _ _ _ _ _ (by decide)]
  rfl

/-! ### The fetch of a stream unit -/

/-- What the service of a slot keeps: the tiles, and the position that has just moved. -/
def SlotKept (b k : Nat) (s t : State) : Prop :=
  t.tiles = s.tiles ∧ getF t (tilePage b) TMB.STRM_CONS k = getF s (tilePage b) TMB.STRM_CONS k

namespace SlotKept

variable {i v : Nat} {f : Fld}

theorem refl : SlotKept b k s s := ⟨rfl, rfl⟩

theorem trans {u : State} (h : SlotKept b k s t) (h' : SlotKept b k t u) : SlotKept b k s u := ⟨h'.1.trans h.1, h'.2.trans h.2⟩

theorem putF (ha : TMB.STRM_CONS.addr (tilePage b) k ≠ f.addr p i) (h : SlotKept b k s t) : SlotKept b k s (putF p f v i t) :=
  h.trans ⟨rfl, getF_putF_reg ha v t⟩

theorem ite {c : Prop} [Decidable c] {x y : State} (hx : SlotKept b k s x) (hy : SlotKept b k s y) :
    SlotKept b k s (if c then x else y) := by
  split <;> assumption

/-- A read position of a host memory channel stands in no tile page. -/
theorem cons_ne_dpos (hk : k < 8) {c : Nat} (hc : c < 16) :
    TMB.STRM_CONS.addr (tilePage b) k ≠ PCI.CH_DPOS.addr 0xD c := by
  simp only [Fld.addr, TMB.STRM_CONS, PCI.CH_DPOS, tilePage]
  omega

theorem chProgress {c : Nat} (h : SlotKept b k s t) : SlotKept b k s (chProgress c t) := by
  unfold Machine.chProgress chTell chVec
  dsimp only
  refine ite (h.trans ⟨sendVec_tiles _, ?_⟩) (ite h (h.trans ⟨rfl, rfl⟩))
  simp only [getF, rdWord_sendVec]
  rfl

variable (hk : k < 8)
include hk

theorem streamIssue {c n : Nat} (hc : c < 16) (h : SlotKept b k s t) : SlotKept b k s (streamIssue c n t) := by
  induction n generalizing t with
  | zero => exact h
  | succ n ih =>
    unfold Machine.streamIssue
    exact ite (ih (chProgress (putF (cons_ne_dpos hk hc) (h.trans ⟨rfl, rfl⟩)))) h

theorem streamWake {i : Nat} (h : SlotKept b k s t) : SlotKept b k s (streamWake p i t) :=
  forAll_induction_mem (fun _ hc _ hu => streamIssue hk (List.mem_range.1 (List.mem_of_mem_filter hc)) hu) h

theorem dposFollow {i fill : Nat} (h : SlotKept b k s t) : SlotKept b k s (dposFollow p i fill t) :=
  forAll_induction_mem (fun _ hc _ hu => by
    have hc := List.mem_range.1 (List.mem_of_mem_filter hc)
    exact ite (chProgress (putF (cons_ne_dpos hk hc) hu)) hu) h

end SlotKept

/-! ### A unit that is due -/

section
variable (hb : b < 32) (hk : k < 8)
include hb hk

theorem cons_ne : ¬ lineReg (TMB.STRM_CONS.addr (tilePage b) k) ∧ TMB.STRM_CONS.addr (tilePage b) k ∉ recRegs (tilePage b)
    ∧ TMB.STRM_CONS.addr (tilePage b) k ≠ TMB.STRM_FILL.addr (tilePage b) k := by
  refine ⟨?_, ?_, ?_⟩
  · unfold lineReg
    simp only [recRegs, pageOf, offOf, Fld.addr, TMB.STRM_CONS, tilePage, windowStride, HOOP.MC_STAT, HDR.ERR_CNT_TOTAL, HDR.IRQ_STAT,
      DMP.DUMP_STAT_FATAL_CNT, List.mem_cons, List.not_mem_nil, or_false]
    omega
  · simp only [recRegs, Fld.addr, TMB.STRM_CONS, tilePage, HDR.ERR_CNT_TOTAL, HDR.IRQ_STAT, DMP.DUMP_STAT_FATAL_CNT, List.mem_cons,
      List.not_mem_nil, or_false]
    omega
  · simp only [Fld.addr, TMB.STRM_CONS, TMB.STRM_FILL]
    omega

/-- An underrun moves no position and changes no tile. -/
theorem slotKept_underrun : SlotKept b k s (underrun b k s) := by
  have hskip : TMB.STRM_CONS.addr (tilePage b) k ≠ TMB.STRM_STAT.addr (tilePage b) k := by
    simp only [Fld.addr, TMB.STRM_CONS, TMB.STRM_STAT]
    omega
  have hcnt : TMB.STRM_CONS.addr (tilePage b) k ≠ TMB.UNDR_CNT.addr (tilePage b) 0 := by
    simp only [Fld.addr, TMB.STRM_CONS, TMB.UNDR_CNT]
    omega
  have hstat : TMB.STRM_CONS.addr (tilePage b) k ≠ TMB.TMB_STAT_UNDR.addr (tilePage b) 0 := by
    simp only [Fld.addr, TMB.STRM_CONS, TMB.TMB_STAT_UNDR]
    omega
  have hrec := (cons_ne hb hk).2.1
  have hcounted : SlotKept b k s (incSat (tilePage b) TMB.STRM_STAT_SKIP k (incSat (tilePage b) TMB.UNDR_CNT 0 s)) :=
    SlotKept.putF hskip (SlotKept.putF hcnt .refl)
  refine SlotKept.ite hcounted (forAll_induction (fun r u hu => hu.trans (SlotKept.ite ⟨rfl, rfl⟩ .refl)) _ ?_)
  refine (SlotKept.putF (f := TMB.STRM_STAT_UNDR) (v := 1) hskip (SlotKept.putF (v := 1) hstat hcounted)).trans ⟨by simp, ?_⟩
  rw [getF_errRec _ _ _ _ _ _ _ _ _ _ (fun h => hrec (by simp [recRegs, h])) (fun h => hrec (by simp [recRegs, h]))
    (fun h => hrec (by simp [recRegs, h])), getF_irqBit _ _ _ _ _ _ (fun h => hrec (by simp [recRegs, h]))]

theorem slotKept_rtTouch (a : Nat) : SlotKept b k s (rtTouch a s) := by
  have h : LineOnly s (rtTouch a s) := (LineOnly.refl s).rtTouch
  refine ⟨?_, h.getF (cons_ne hb hk).1⟩
  have ht := h.typed
  unfold lineTyped at ht
  rw [ht]

/-- One unit of an enabled slot: its bytes, or zero where the ring does not hold it, and the position one on either way (R157). -/
theorem streamUnit_enabled (hen : isSet s (tilePage b) TMB.STRM_CFG_EN k = true) :
    (streamUnit b k s).1 = (if 0 < posDiff (getF s (tilePage b) TMB.STRM_FILL k) (getF s (tilePage b) TMB.STRM_CONS k)
        ∧ posDiff (getF s (tilePage b) TMB.STRM_FILL k) (getF s (tilePage b) TMB.STRM_CONS k) < 2 ^ 31
      then rtRead s (aperture b + 0x100000 + 16 * (getF s (tilePage b) TMB.STRM_CFG_BASE k
        + getF s (tilePage b) TMB.STRM_CONS k % 2 ^ ringLog s b k)) 16 else 0)
    ∧ (streamUnit b k s).2.tiles = s.tiles
    ∧ getF (streamUnit b k s).2 (tilePage b) TMB.STRM_CONS k = (getF s (tilePage b) TMB.STRM_CONS k + 1) % 2 ^ 32 := by
  have hwrap : ∀ u, getF (putF (tilePage b) TMB.STRM_CONS ((getF s (tilePage b) TMB.STRM_CONS k + 1) % 2 ^ 32) k u) (tilePage b)
      TMB.STRM_CONS k = (getF s (tilePage b) TMB.STRM_CONS k + 1) % 2 ^ 32 := by
    intro u
    rw [getF_putF _ _ _ _ _ (by decide)]
    exact Nat.mod_mod _ _
  simp only [streamUnit, hen, Bool.not_true, Bool.false_eq_true, if_false]
  by_cases hd : 0 < posDiff (getF s (tilePage b) TMB.STRM_FILL k) (getF s (tilePage b) TMB.STRM_CONS k)
      ∧ posDiff (getF s (tilePage b) TMB.STRM_FILL k) (getF s (tilePage b) TMB.STRM_CONS k) < 2 ^ 31
  · simp only [if_pos hd]
    exact ⟨trivial, (slotKept_rtTouch hb hk _).1, hwrap _⟩
  · simp only [if_neg hd]
    have hkept := SlotKept.dposFollow (p := tilePage b) (i := k) (fill := (getF s (tilePage b) TMB.STRM_CONS k + 1) % 2 ^ 32) hk
      (SlotKept.putF (f := TMB.STRM_FILL) (v := (getF s (tilePage b) TMB.STRM_CONS k + 1) % 2 ^ 32) (cons_ne hb hk).2.2
        (.refl (s := putF (tilePage b) TMB.STRM_CONS ((getF s (tilePage b) TMB.STRM_CONS k + 1) % 2 ^ 32) k (underrun b k s))))
    exact ⟨trivial, hkept.1.trans (slotKept_underrun hb hk).1, hkept.2.trans (hwrap _)⟩

end

theorem exec_streamUnitFetch_due {r : FetchRun}
    (hr : (tileOf s b).fetches.find? (fun r => r.stream && decide (r.t ≤ now s + 16) && fetchLive s b r) = some r) :
    exec (.streamUnitFetch b) s = .next (modTile b (fun x => { x with
      fetches := fetchStep r x.fetches
      units := x.units ++ [{ chan := r.chan, pt := r.pt, t := r.t, data := (streamUnit b r.src s).1 }] })
      (streamWake (tilePage b) r.src (streamUnit b r.src s).2)) := by
  show execStreamUnitFetch b s = _
  simp only [execStreamUnitFetch, hr]

/-- Settles O23: what a write of STRM_CFG leaves, and what the fetch of a stream unit moves. -/
theorem streamSlots : Obligations.StreamSlots := by
  unfold Obligations.StreamSlots
  refine fun s who b k hb hk => ⟨fun w h hshut => ⟨_, exec_strmCfgWrite_lands hb hk h hshut w, ?lands⟩,
    fun w h hshut => ⟨_, exec_strmCfgWrite_shut hb hk h hshut w, isSet_cfgBusy, ?_, ?_⟩, fun r hr hen hsrc => ?fetch⟩
  case lands =>
    refine ⟨?_, ?_, getF_stSlotSet_fill _, getF_stSlotSet_cons _, ?_⟩
    · rw [getF_stSlotSet (g := TMB.STRM_CFG_EN) rfl, Fld.of_upd _ _ _ (by decide)]
      exact Nat.mod_eq_of_lt (Fld.of_lt _ _)
    · rw [getF_stSlotSet (g := TMB.STRM_CFG_BASE) rfl, Fld.of_upd_other _ _ _ _ (by decide), Fld.of_upd_other _ _ _ _ (by decide),
        Fld.of_upd _ _ _ (by decide)]
      exact Nat.mod_eq_of_lt (Fld.of_lt _ _)
    · exact regsSame_putF (by simp) (regsSame_putF (by simp) (regsSame_wrWord List.mem_cons_self (regsSame_refl _ s)))
  case fetch =>
    obtain ⟨hdata, htiles, hcons⟩ := streamUnit_enabled hb hsrc hen
    have hkept := SlotKept.streamWake (p := tilePage b) (i := r.src) (b := b) hsrc (.refl (s := (streamUnit b r.src s).2))
    have hunits : tileOf (streamWake (tilePage b) r.src (streamUnit b r.src s).2) b = tileOf s b :=
      tileOf_congr (hkept.1.trans htiles)
    refine ⟨_, exec_streamUnitFetch_due hr, hkept.2.trans hcons, ⟨r.chan, r.pt, r.t, (streamUnit b r.src s).1⟩, ?_, rfl, rfl, hdata⟩
    rw [tileOf_modTile, hunits]
  all_goals
    obtain ⟨hfs, hfi, hcs, hci, hne⟩ := strmFill_addr_ne (b := b) hk
  · rw [getF_cfgBusy hfs hfi, getF, rdWord_wrWord_other hne, ← getF]
  · rw [getF_cfgBusy (g := TMB.STRM_CFG_EN) hcs hci, getF, getF]
    exact congrArg _ (rdWord_wrWord _ _ _)

end Sys2Proof.Machine
end

section
/-!
PROOFS. A register written field by field on an open page (R15, R86, R88): what each field holds after the write, and what the write
leaves alone.
-/
namespace Sys2Proof.Machine

variable {s t : State} {who : Requester} {p o : Nat} {data old : Word} {kind : PageKind} {fs : List FieldDesc} {ok : FieldDesc → Bool}

/-! ### Fields of a word -/

/-- Two fields of a register share no bit. -/
abbrev Apart (d e : FieldDesc) : Prop := d.fld.lo + d.fld.w ≤ e.fld.lo ∨ e.fld.lo + e.fld.w ≤ d.fld.lo

theorem of_mergeFields_apart {d : FieldDesc} (hacc : ∀ e ∈ fs, e.acc = .rw ∨ e.acc = .ro) (h : ∀ e ∈ fs, Apart d e) :
    d.fld.of (mergeFields fs ok data old) = d.fld.of old := by
  induction fs generalizing old with
  | nil => rfl
  | cons e l ih =>
    have hrest := fun w => ih (old := w) (fun x hx => hacc x (.tail _ hx)) (fun x hx => h x (.tail _ hx))
    simp only [mergeFields, List.foldl_cons] at hrest ⊢
    rw [hrest]
    split
    · obtain he | he := hacc e List.mem_cons_self <;> simp only [he]
      exact Fld.of_upd_other _ _ _ _ (h e List.mem_cons_self).symm
    · rfl

/-- A field of a written register holds its bits of the word written where the write may change it, and else what it held. -/
theorem of_mergeFields {d : FieldDesc} (hd : d ∈ fs) (hrw : d.acc = .rw) (hfit : d.fld.lo + d.fld.w ≤ 32)
    (hacc : ∀ e ∈ fs, e.acc = .rw ∨ e.acc = .ro) (hap : fs.Pairwise Apart) :
    d.fld.of (mergeFields fs ok data old) = if ok d then d.fld.of data else d.fld.of old := by
  induction fs generalizing old with
  | nil => exact absurd hd List.not_mem_nil
  | cons e l ih =>
    obtain ⟨hhead, htail⟩ := List.pairwise_cons.1 hap
    have hacc' := fun x hx => hacc x (.tail _ hx)
    simp only [mergeFields, List.foldl_cons] at ih ⊢
    obtain rfl | hd := List.mem_cons.1 hd
    · have hrest := fun w => of_mergeFields_apart (ok := ok) (data := data) (old := w) hacc' hhead
      simp only [mergeFields] at hrest
      rw [hrest]
      split
      · simp only [hrw]
        rw [Fld.of_upd _ _ _ hfit]
        exact Nat.mod_eq_of_lt (Fld.of_lt _ _)
      · rfl
    · rw [ih hd hacc' htail]
      have hsame : d.fld.of (if ok e then match e.acc with
          | .rw => e.fld.upd (e.fld.of data) old
          | .w1c => old &&& ~~~(data &&& e.fld.mask)
          | .w1s => old ||| (data &&& e.fld.mask)
          | _ => old else old) = d.fld.of old := by
        split
        · obtain he | he := hacc e List.mem_cons_self <;> simp only [he]
          exact Fld.of_upd_other _ _ _ _ (hhead d hd)
        · rfl
      split
      · rfl
      · exact hsame

/-! ### The write -/

/-- Whether a write of an open page changes a field: not a stopped-only one while its page counts as running (R86), and not to a
value that the field ignores. -/
def fieldOpen (s : State) (who : Requester) (p o : Nat) (data : Word) (d : FieldDesc) : Bool :=
  !(sBlocked s who p o && decide (d.cls = .s)) && fieldTakes p o d (d.fld.of data)

/-- The word that a write of an open page leaves. -/
def openWord (kind : PageKind) (who : Requester) (p o : Nat) (data : Word) (s : State) : Word :=
  mergeFields (fieldsAt kind o) (fieldOpen s who p o data) data (rdWord s (accAddr s who p o))

theorem rdWord_geoSync {a x : Nat} {w : Word} (h : x ≠ a + 32 * windowStride) : rdWord (geoSync p a w s) x = rdWord s x := by
  unfold geoSync
  dsimp only
  split
  · exact rdWord_wrWord_other h _ _
  · rfl

theorem rdWord_holdB {a x : Nat} (h : x ≠ HDR.STATUS.addr p 0) : rdWord (holdB p a s) x = rdWord s x := by
  unfold holdB
  split
  · rfl
  · exact rdWord_wrWord_other h _ _

theorem typedSame_geoSync {a : Nat} {w : Word} (h : typedSame s t) : typedSame s (geoSync p a w t) :=
  typedSame_ite (typedSame_wrWord h) h

theorem typedSame_holdB {a : Nat} (h : typedSame s t) : typedSame s (holdB p a t) := by
  unfold holdB
  split
  · exact h
  · exact typedSame_putF (typedSame_held h)

/-- On an open page a write does no more than hold the value in force, change the word, and set CFG_BUSY. -/
theorem writeReg_open (h : busOpen s who p = true) (hk : pageKind p = some kind) :
    ∃ waits sync busy : Bool, writeReg who p o data s =
      (let a := accAddr s who p o
       let u := wrWord a (openWord kind who p o data s) (if waits then holdB p a s else s)
       let u := if sync then geoSync p a (openWord kind who p o data s) u else u
       if busy then cfgBusy p u else u) := by
  have hviol : (fieldsAt kind o).any (fun d => lockProt s p o d && lockHit d data (lockView s who p o (accAddr s who p o))) = false := by
    simp [lockProt_open h]
  have hopen : (fun d : FieldDesc => !lockProt s p o d && !(sBlocked s who p o && decide (d.cls = .s)) && fieldTakes p o d (d.fld.of data))
      = fieldOpen s who p o data := by
    funext d
    simp [lockProt_open h, fieldOpen]
  unfold writeReg openWord
  simp only [hk, hviol, Bool.false_eq_true, if_false, hopen]
  exact ⟨_, _, _, rfl⟩

theorem rdWord_cfgBusy {x : Nat} (h1 : x ≠ HDR.STATUS.addr p 0) (h2 : x ≠ HDR.IRQ_STAT.addr p 0) : rdWord (cfgBusy p s) x = rdWord s x := by
  rw [cfgBusy, irqBit, rdWord_irqSet _ _ _ _ h2]
  exact rdWord_wrWord_other h1 _ _

/-- The word read back after a write of an open page. -/
theorem rdWord_writeReg (h : busOpen s who p = true) (hk : pageKind p = some kind)
    (h1 : accAddr s who p o ≠ HDR.STATUS.addr p 0) (h2 : accAddr s who p o ≠ HDR.IRQ_STAT.addr p 0) :
    rdWord (writeReg who p o data s) (accAddr s who p o) = openWord kind who p o data s := by
  obtain ⟨waits, sync, busy, hw⟩ := writeReg_open (o := o) (data := data) h hk
  have hsync : accAddr s who p o ≠ accAddr s who p o + 32 * windowStride := by
    simp only [windowStride]
    omega
  rw [hw]
  dsimp only
  cases busy <;> cases sync <;>
    simp only [if_true, Bool.false_eq_true, if_false, rdWord_cfgBusy h1 h2, rdWord_geoSync hsync, rdWord_wrWord]

theorem typedSame_writeReg (h : busOpen s who p = true) (hk : pageKind p = some kind) : typedSame s (writeReg who p o data s) := by
  obtain ⟨waits, sync, busy, hw⟩ := writeReg_open (o := o) (data := data) h hk
  have hword := typedSame_wrWord (a := accAddr s who p o) (w := openWord kind who p o data s)
    (typedSame_ite (c := waits = true) (typedSame_holdB (p := p) (a := accAddr s who p o) (typedSame_refl s)) (typedSame_refl s))
  have hsync := typedSame_ite (c := sync = true) (typedSame_geoSync (p := p) (a := accAddr s who p o) (w := openWord kind who p o data s) hword)
    hword
  rw [hw]
  exact typedSame_ite (typedSame_cfgBusy hsync) hsync

end Sys2Proof.Machine
end

section
/-!
PROOFS. Coefficient loads (R206, R224, R253): the writes that start them, the loads that end, and a shorted output (R257).
-/
namespace Sys2Proof.Machine

variable {s t : State} {who : Requester} {b k base bank p : Nat} {w : Word}

/-! ### The detection of a bad line keeps poison -/

/-- No line loses its poison. -/
def PoisonKept (s t : State) : Prop := ∀ a, (lineSt s a).poison = true → (lineSt t a).poison = true

theorem poisonKept_lines (h : t.lines = s.lines) : PoisonKept s t := fun a ha => by
  rw [lineSt, h]
  exact ha

theorem poisonKept_trans {u : State} (h : PoisonKept s t) (h' : PoisonKept t u) : PoisonKept s u := fun a ha => h' a (h a ha)

theorem lineSt_setLine {x a : Nat} {l : LineSt} : lineSt (setLine a l s) x = if lineOf x = lineOf a then l else lineSt s x := by
  simp only [lineSt, setLine_lines]
  split
  · next he => rw [he, smGet_smPut_same]
  · next he => exact smGet_smPut_other _ _ he _ _

/-- A line keeps its poison where the side array given to a line keeps that line's. -/
theorem poisonKept_setLine {a : Nat} {l : LineSt} (h : (lineSt s a).poison = true → l.poison = true) : PoisonKept s (setLine a l s) := by
  intro x hx
  rw [lineSt_setLine]
  split
  · next he =>
    refine h ?_
    rw [lineSt, ← he]
    exact hx
  · exact hx

theorem lines_errRec (p c v u i a : Nat) : (errRec p c v u i a s).lines = s.lines :=
  typedSame_eq (g := State.lines) (fun _ _ _ _ _ _ _ => rfl) (typedSame_errRec rfl)

theorem lines_irqBit (p n : Nat) : (irqBit p n s).lines = s.lines :=
  typedSame_eq (g := State.lines) (fun _ _ _ _ _ _ _ => rfl) (typedSame_irqBit rfl)

theorem lines_wrDrop {m : MemRef} {req a : Nat} : (wrDrop m req a s).lines = s.lines := by
  rw [wrDrop, incSat_lines, lines_errRec]

theorem poisonKept_answer {bs : List Byte} {c : Bool} (h : PoisonKept s t) : PoisonKept s { t with lastBytes := bs, lastAbort := c } := h

theorem poisonKept_poisonLine {m : MemRef} {req cause a : Nat} : PoisonKept s (poisonLine m req cause a s) := by
  unfold poisonLine
  dsimp only
  split
  · exact fun _ h => h
  · refine forAll_induction (P := PoisonKept s) (fun e u hu => poisonKept_trans hu (poisonKept_lines lines_wrDrop)) _
      (forAll_induction (P := PoisonKept s) (fun e u hu => poisonKept_answer hu) _ ?_)
    have hcount : PoisonKept s (if (lineSt s a).poison then s else incSat 6 MIC.MEM_STAT_POIS_N m.idx s) :=
      poisonKept_lines (by split <;> rfl)
    refine poisonKept_trans (poisonKept_trans hcount (poisonKept_setLine (a := a)
      (l := { lineSt s a with poison := true, recov := none }) (fun _ => rfl)))
      (poisonKept_lines ?_)
    rw [lines_irqBit, lines_errRec]

theorem lines_bucketAdd {m : MemRef} {n : Nat} : (bucketAdd m n s).lines = s.lines := by
  unfold bucketAdd
  dsimp only
  split
  · rfl
  · rw [putF_lines, incSat_lines, lines_errRec, lines_irqBit]

theorem lines_hoopCheck {a : Nat} : (hoopCheck a s).lines = s.lines := by
  unfold hoopCheck
  dsimp only
  split
  · rw [lines_errRec]
    rfl
  · rfl

theorem poisonKept_detectLine {req a : Nat} : PoisonKept s (detectLine req a s) := by
  unfold detectLine
  split
  · exact fun _ h => h
  · dsimp only
    split
    · split
      · exact poisonKept_trans poisonKept_poisonLine (poisonKept_lines lines_hoopCheck)
      · exact poisonKept_poisonLine
    · split
      · exact fun _ h => h
      · split
        · exact poisonKept_poisonLine
        · exact poisonKept_trans (poisonKept_setLine (l := { lineSt s a with recov := some { req := req } }) (fun h => h))
            (poisonKept_lines lines_bucketAdd)

/-- The detection of the lines in recovery of a list, as a load does it. -/
def detectAll (ls : List Nat) (s : State) : State :=
  forAll (ls.filter (fun a => lineBad s a && !(lineSt s a).poison)) (fun a s => detectLine 4 a s) s

theorem lineOnly_detectAll (ls : List Nat) : LineOnly s (detectAll ls s) :=
  forAll_induction (fun _ _ h => h.detectLine) _ (.refl s)

theorem poisonKept_detectAll (ls : List Nat) : PoisonKept s (detectAll ls s) :=
  forAll_induction (fun _ _ h => poisonKept_trans h poisonKept_detectLine) _ (fun _ h => h)

/-- Where every line is good nothing is detected. -/
theorem detectAll_good {ls : List Nat} (h : ∀ a ∈ ls, lineBad s a = false) : detectAll ls s = s := by
  have hnil : ls.filter (fun a => lineBad s a && !(lineSt s a).poison) = [] :=
    List.filter_eq_nil_iff.2 fun a ha => by simp [h a ha]
  rw [detectAll, hnil]
  rfl

theorem find_poison_none {ls : List Nat} (h : ∀ a ∈ ls, lineBad s a = false) : ls.find? (fun a => (lineSt s a).poison) = none := by
  refine List.find?_eq_none.2 fun a ha => ?_
  have hgood := h a ha
  simp only [lineBad, Bool.or_eq_false_iff] at hgood
  simp [hgood.2]

theorem any_bad_false {ls : List Nat} (h : ∀ a ∈ ls, lineBad s a = false) : ls.any (lineBad s) = false :=
  List.any_eq_false.2 fun a ha => by simp [h a ha]

theorem find_poison_some {ls : List Nat} (h : ∃ a ∈ ls, (lineSt s a).poison = true) :
    ∃ a ∈ ls, (detectAll ls s |> fun u => ls.find? (fun a => (lineSt u a).poison)) = some a := by
  obtain ⟨a, ha, hp⟩ := h
  have hsome : (ls.find? (fun a => (lineSt (detectAll ls s) a).poison)).isSome = true :=
    List.find?_isSome.2 ⟨a, ha, poisonKept_detectAll ls a hp⟩
  obtain ⟨x, hx⟩ := Option.isSome_iff_exists.1 hsome
  exact ⟨x, List.mem_of_find?_eq_some hx, hx⟩

/-! ### The channelizer coefficients (R206) -/

theorem exec_chanCoef_ready {bs : List Byte} (h : isSet s (tilePage b) RDO.CHAN_STAT_READY = true) :
    exec (.chanCoefRecompute b bs) s = .next s := by
  show execChanCoefRecompute b bs s = _
  simp [execChanCoefRecompute, h]

theorem exec_chanCoef_unready {bs : List Byte} (h : 16 ≤ b) (h' : b < 24) (hp : tilePresent s b = true)
    (hr : isSet s (tilePage b) RDO.CHAN_STAT_READY = false) : exec (.chanCoefRecompute b bs) s = .next (chanCoef b bs s) := by
  show execChanCoefRecompute b bs s = _
  simp [execChanCoefRecompute, isRdo, h, h', hp, hr]

/-! ### The matrix of a read-out tile -/

theorem isRdo_of (h : 16 ≤ b) (h' : b < 24) : isRdo b = true := by simp [isRdo, h, h']

theorem pageKind_rdo (h : 16 ≤ b) (h' : b < 24) : pageKind (tilePage b) = some .rdo := by
  simp only [pageKind, tilePage]
  grind

theorem rdoOf_modRdo (g : Rdo → Rdo) : rdoOf (modRdo b g s) b = g (rdoOf s b) := smGet_smSet_same _ _ _ _

theorem rdoOf_congr (h : t.rdos = s.rdos) : rdoOf t b = rdoOf s b := by rw [rdoOf, rdoOf, h]

theorem unmixCfg_fields : fieldsAt .rdo RDO.UNMIX_CFG.off = [⟨RDO.UNMIX_CFG_EN, .rw, .b, 0⟩, ⟨RDO.UNMIX_CFG_MBASE, .rw, .b, 0⟩] := by
  decide +kernel

theorem exec_unmixCfgWrite_open (h : 16 ≤ b) (h' : b < 24) (hopen : busOpen s who (tilePage b) = true) :
    exec (.unmixCfgWrite who b w) s = .next (putF (tilePage b) RDO.UNMIX_STAT_LOADING 1 0
      (modRdo b (fun r => { r with loading := some (RDO.UNMIX_CFG_MBASE.of w) }) (writeReg who (tilePage b) RDO.UNMIX_CFG.off w s))) := by
  obtain ⟨-, -, -, -, hcfg, hall⟩ := busOpen_parts hopen
  refine congrArg Host.Outcome.next ((busGate_open hopen (by rw [pageKind_rdo h h']; rfl) _ _).trans ?_)
  simp only [unmixCfgWriteEffect, hcfg, hall, isRdo_of h h', Bool.not_false, Bool.and_self, if_true]

theorem mbase_writeReg (h : 16 ≤ b) (h' : b < 24) (hopen : busOpen s who (tilePage b) = true) :
    getF (writeReg who (tilePage b) RDO.UNMIX_CFG.off w s) (tilePage b) RDO.UNMIX_CFG_MBASE = RDO.UNMIX_CFG_MBASE.of w := by
  have hkind := pageKind_rdo h h'
  have haddr : accAddr s who (tilePage b) RDO.UNMIX_CFG.off = RDO.UNMIX_CFG_MBASE.addr (tilePage b) 0 := by
    have hwin : winIdx s who (tilePage b) RDO.UNMIX_CFG.off = 0 := by
      simp only [winIdx, hkind]
      rfl
    rw [accAddr, hwin]
    simp only [Fld.addr, RDO.UNMIX_CFG, RDO.UNMIX_CFG_MBASE]
    omega
  have htakes : fieldOpen s who (tilePage b) RDO.UNMIX_CFG.off w ⟨RDO.UNMIX_CFG_MBASE, .rw, .b, 0⟩ = true := by
    simp [fieldOpen, fieldTakes, hkind]
  rw [getF, ← haddr, rdWord_writeReg hopen hkind, openWord, unmixCfg_fields]
  · have hof := of_mergeFields (fs := [⟨RDO.UNMIX_CFG_EN, .rw, .b, 0⟩, ⟨RDO.UNMIX_CFG_MBASE, .rw, .b, 0⟩])
      (ok := fieldOpen s who (tilePage b) RDO.UNMIX_CFG.off w) (data := w) (old := rdWord s (accAddr s who (tilePage b) RDO.UNMIX_CFG.off))
      (d := ⟨RDO.UNMIX_CFG_MBASE, .rw, .b, 0⟩) (by simp) rfl (by decide) (by simp) (by simp [Apart, RDO.UNMIX_CFG_EN, RDO.UNMIX_CFG_MBASE])
    rw [htakes, if_pos rfl] at hof
    exact hof
  · rw [haddr]
    simp only [Fld.addr, RDO.UNMIX_CFG_MBASE, HDR.STATUS]
    omega
  · rw [haddr]
    simp only [Fld.addr, RDO.UNMIX_CFG_MBASE, HDR.IRQ_STAT]
    omega

/-! ### The end of a matrix load -/

theorem exec_unmixLoad_frozen (h : isSet s (tilePage b) HDR.CTRL_FREEZE = true) : exec (.unmixLoadComplete b) s = .next s := by
  show execUnmixLoadComplete b s = _
  simp only [execUnmixLoadComplete, h, if_true]

/-- The record of a matrix that ends beyond the memory. -/
def pastRec (b base : Nat) (s : State) : State :=
  if 8192 < base + 64 then errRec (tilePage b) 0x35 0 0 (3 + 2 ^ 16 * base) 0 s else s

/-- The state with a matrix that waits for its boundary. -/
def stMatrix (b base : Nat) (s : State) : State :=
  let u := modRdo b (fun r => { r with loading := none, matNext := some (readMatrix (pastRec b base s) b base), matNextBase := base })
    (pastRec b base s)
  putF (tilePage b) RDO.UNMIX_STAT_LOADING 0 0 (putF (tilePage b) RDO.UNMIX_STAT_SWAP_PEND 1 0 (putF (tilePage b) RDO.STATUS_SWAP_PEND 1 0 u))

section
variable (hl : (rdoOf s b).loading = some base) (hf : isSet s (tilePage b) HDR.CTRL_FREEZE = false)
include hl hf

theorem exec_unmixLoad_good (hgood : ∀ a ∈ matLines b base, lineBad s a = false) :
    exec (.unmixLoadComplete b) s = .next (if tileRunning (stMatrix b base s) b then stMatrix b base s
      else unmixSwap b (stageTile (stMatrix b base s) b).mat (stMatrix b base s)) := by
  show execUnmixLoadComplete b s = _
  have hdet := detectAll_good hgood
  unfold detectAll at hdet
  simp only [execUnmixLoadComplete, hf, Bool.false_eq_true, if_false, hl, hdet, find_poison_none hgood, any_bad_false hgood]
  rfl

theorem exec_unmixLoad_poisoned (hp : ∃ a ∈ matLines b base, (lineSt s a).poison = true) :
    ∃ a, exec (.unmixLoadComplete b) s = .next (errRec (tilePage b) 0x3D 2 0 0 a (detectLine 4 a (pastRec b base
      (putF (tilePage b) RDO.UNMIX_STAT_LOADING 0 0 (putF (tilePage b) RDO.UNMIX_STAT_FAIL 1 0
        (modRdo b (fun r => { r with loading := none }) (detectAll (matLines b base) s))))))) := by
  obtain ⟨a, -, ha⟩ := find_poison_some hp
  refine ⟨a, ?_⟩
  show execUnmixLoadComplete b s = _
  simp only [detectAll] at ha
  simp only [execUnmixLoadComplete, hf, Bool.false_eq_true, if_false, hl, ha]
  rfl

end

theorem rdByte_congr (h : t.mem = s.mem) (a : Nat) : rdByte t a = rdByte s a := by rw [rdByte, rdByte, h]

theorem rdBytes_congr (h : t.mem = s.mem) (a n : Nat) : rdBytes t a n = rdBytes s a n := by
  induction n generalizing a with
  | zero => rfl
  | succ n ih => simp only [rdBytes, rdByte_congr h, ih]

theorem readMatrix_congr (h : t.mem = s.mem) : readMatrix t b base = readMatrix s b base := by
  simp only [readMatrix, rdBytes_congr h]

@[simp] theorem pastRec_rdos : (pastRec b base s).rdos = s.rdos := by
  unfold pastRec
  split
  · simp
  · rfl

@[simp] theorem pastRec_mem : (pastRec b base s).mem = s.mem := by
  unfold pastRec
  split
  · simp
  · rfl

theorem rdoOf_putF (q : Nat) (f : Fld) (v i : Nat) : rdoOf (putF q f v i s) b = rdoOf s b := rfl

theorem rdoOf_irqBit (q n : Nat) : rdoOf (irqBit q n s) b = rdoOf s b := rdoOf_congr (irqBit_rdos _ _ _)

theorem rdoOf_stMatrix : rdoOf (stMatrix b base s) b
    = { rdoOf s b with loading := none, matNext := some (readMatrix s b base), matNextBase := base } := by
  rw [stMatrix, rdoOf_putF, rdoOf_putF, rdoOf_putF, rdoOf_modRdo, rdoOf_congr pastRec_rdos, readMatrix_congr pastRec_mem]

theorem swapPend_stMatrix : isSet (stMatrix b base s) (tilePage b) RDO.UNMIX_STAT_SWAP_PEND = true := by
  rw [stMatrix, isSet_putF_beside (by decide), isSet_putF (by decide)]
  rfl

theorem loading_stMatrix : isSet (stMatrix b base s) (tilePage b) RDO.UNMIX_STAT_LOADING = false := by
  rw [stMatrix, isSet_putF (by decide)]
  rfl

theorem status_not_recRegs : HDR.STATUS_RUN.addr (tilePage b) 0 ∉ recRegs (tilePage b) := by
  simp only [recRegs, Fld.addr, HDR.STATUS_RUN, HDR.ERR_CNT_TOTAL, HDR.IRQ_STAT, DMP.DUMP_STAT_FATAL_CNT, List.mem_cons, List.not_mem_nil,
    or_false, tilePage]
  omega

theorem tileRunning_pastRec : tileRunning (pastRec b base s) b = tileRunning s b := by
  unfold pastRec
  split
  · exact regsSame_isSet (regsSame_record (regsSame_refl _ s)) status_not_recRegs
  · rfl

theorem tileRunning_stMatrix : tileRunning (stMatrix b base s) b = tileRunning s b := by
  have hstat : HDR.STATUS_RUN.addr (tilePage b) 0 ≠ RDO.UNMIX_STAT.addr (tilePage b) 0 := by
    simp only [Fld.addr, HDR.STATUS_RUN, RDO.UNMIX_STAT]
    omega
  refine Eq.trans ?_ (tileRunning_pastRec (base := base))
  rw [stMatrix, tileRunning, isSet_putF_reg (f := RDO.UNMIX_STAT_LOADING) hstat, isSet_putF_reg (f := RDO.UNMIX_STAT_SWAP_PEND) hstat,
    isSet_putF_beside (by decide)]
  rfl

/-- The state with a waiting matrix in force. -/
def stUnmixed (b : Nat) (m : SMap Cplx) (base : Nat) (s : State) : State :=
  let u := modRdo b (fun r => { r with mat := some m, matNext := none }) (putF (tilePage b) RDO.UNMIX_STAT_MBASE_F base 0 s)
  irqBit (tilePage b) 20 (putF (tilePage b) RDO.UNMIX_STAT_SWAP_PEND 0 0 (putF (tilePage b) RDO.STATUS_SWAP_PEND 0 0 u))

theorem unmixSwap_waiting {m : SMap Cplx} (hm : (rdoOf s b).matNext = some m) :
    unmixSwap b (stageTile s b).mat s = stUnmixed b m (rdoOf s b).matNextBase s := by
  simp only [unmixSwap, stageTile, hm, Option.map_some, rdoOf_putF, decide_true, Bool.and_self, if_true, stUnmixed]

/-- The state with the matrix just loaded in force. -/
def stSwapped (b base : Nat) (s : State) : State := stUnmixed b (readMatrix s b base) base (stMatrix b base s)

theorem unmixSwap_stMatrix : unmixSwap b (stageTile (stMatrix b base s) b).mat (stMatrix b base s) = stSwapped b base s := by
  rw [unmixSwap_waiting (m := readMatrix s b base) (by rw [rdoOf_stMatrix]), rdoOf_stMatrix, stSwapped]

theorem rdoOf_stUnmixed {m : SMap Cplx} : rdoOf (stUnmixed b m base s) b = { rdoOf s b with mat := some m, matNext := none } := by
  rw [stUnmixed, rdoOf_irqBit, rdoOf_putF, rdoOf_putF, rdoOf_modRdo, rdoOf_putF]

theorem rdoOf_stSwapped : rdoOf (stSwapped b base s) b = { rdoOf s b with
    loading := none, mat := some (readMatrix s b base), matNext := none, matNextBase := base } := by
  rw [stSwapped, rdoOf_stUnmixed, rdoOf_stMatrix]

theorem unmixStat_ne_irqStat : RDO.UNMIX_STAT.addr (tilePage b) 0 ≠ HDR.IRQ_STAT.addr (tilePage b) 0 := by
  simp only [Fld.addr, RDO.UNMIX_STAT, HDR.IRQ_STAT]
  omega

theorem unmixStat_ne_status : RDO.UNMIX_STAT.addr (tilePage b) 0 ≠ RDO.STATUS_SWAP_PEND.addr (tilePage b) 0 := by
  simp only [Fld.addr, RDO.UNMIX_STAT, RDO.STATUS_SWAP_PEND]
  omega

theorem isSet_modRdo (g : Rdo → Rdo) (q : Nat) (f : Fld) (i : Nat) : isSet (modRdo b g s) q f i = isSet s q f i := rfl

theorem isSet_irqBit_ne {q j n : Nat} {g : Fld} (h : g.addr q j ≠ HDR.IRQ_STAT.addr p 0) : isSet (irqBit p n s) q g j = isSet s q g j := by
  rw [isSet, getF_irqBit _ _ _ _ _ _ h, isSet]

theorem swapPend_stSwapped : isSet (stSwapped b base s) (tilePage b) RDO.UNMIX_STAT_SWAP_PEND = false := by
  rw [stSwapped, stUnmixed, isSet_irqBit_ne (g := RDO.UNMIX_STAT_SWAP_PEND) unmixStat_ne_irqStat, isSet_putF (by decide)]
  rfl

theorem loading_stSwapped : isSet (stSwapped b base s) (tilePage b) RDO.UNMIX_STAT_LOADING = false := by
  rw [stSwapped, stUnmixed, isSet_irqBit_ne (g := RDO.UNMIX_STAT_LOADING) unmixStat_ne_irqStat, isSet_putF_beside (by decide),
    isSet_putF_reg (g := RDO.UNMIX_STAT_LOADING) unmixStat_ne_status, isSet_modRdo, isSet_putF_beside (by decide), loading_stMatrix]

/-- The state in which a matrix load has failed, before its records. -/
def stMatFailed (b base : Nat) (s : State) : State :=
  putF (tilePage b) RDO.UNMIX_STAT_LOADING 0 0 (putF (tilePage b) RDO.UNMIX_STAT_FAIL 1 0
    (modRdo b (fun r => { r with loading := none }) (detectAll (matLines b base) s)))

theorem unmixStat_not_recRegs : RDO.UNMIX_STAT_FAIL.addr (tilePage b) 0 ∉ recRegs (tilePage b) := by
  simp only [recRegs, Fld.addr, RDO.UNMIX_STAT_FAIL, HDR.ERR_CNT_TOTAL, HDR.IRQ_STAT, DMP.DUMP_STAT_FATAL_CNT, List.mem_cons,
    List.not_mem_nil, or_false, tilePage]
  omega

theorem not_lineReg_tile {a : Nat} (h : 0x10000 ≤ a) (h' : a < 0x30000) : ¬ lineReg a := by
  unfold lineReg
  simp only [recRegs, pageOf, offOf, Fld.addr, windowStride, HOOP.MC_STAT, HDR.ERR_CNT_TOTAL, HDR.IRQ_STAT, DMP.DUMP_STAT_FATAL_CNT,
    List.mem_cons, List.not_mem_nil, or_false]
  omega

theorem lineOnly_fluxOf (h : LineOnly s t) : fluxOf t b k = fluxOf s b k := by
  have ht := h.typed
  unfold lineTyped at ht
  rw [fluxOf, fluxOf, ht]

theorem lineOnly_rdoOf (h : LineOnly s t) : rdoOf t b = rdoOf s b := by
  have ht := h.typed
  unfold lineTyped at ht
  exact rdoOf_congr (by rw [ht])

/-! ### The coefficient banks of a flux output -/

theorem pageKind_flx (h : 24 ≤ b) (h' : b < 32) : pageKind (tilePage b) = some .flx := by
  simp only [pageKind, tilePage]
  grind

theorem isFlx_of (h : 24 ≤ b) (h' : b < 32) : isFlx b = true := by simp [isFlx, h, h']

theorem fluxOf_setFlux (o : FOut) : fluxOf (setFlux b k o s) b k = o := smGet_smSet_same _ _ _ _

theorem fluxOf_putF (q : Nat) (f : Fld) (v i : Nat) : fluxOf (putF q f v i s) b k = fluxOf s b k := rfl

theorem fluxOf_irqBit (q n : Nat) : fluxOf (irqBit q n s) b k = fluxOf s b k := by rw [fluxOf, fluxOf, irqBit_flux]

theorem fluxOf_congr (h : t.flux = s.flux) : fluxOf t b k = fluxOf s b k := by rw [fluxOf, fluxOf, h]

/-- The fields of OUT_CFG. -/
def outCfgFields : List FieldDesc :=
  [⟨FLX.OUT_CFG_EN, .rw, .b, 0⟩, ⟨FLX.OUT_CFG_PD, .rw, .s, 0⟩, ⟨FLX.OUT_CFG_RANGE, .rw, .s, 0⟩, ⟨FLX.OUT_CFG_BANK, .rw, .b, 0⟩,
    ⟨FLX.OUT_CFG_CORR_EN, .rw, .b, 0⟩]

theorem fieldsAt_outCfg : ∀ k < 16, fieldsAt .flx (FLX.OUT_CFG.off + 0x10 * k) = outCfgFields := by decide +kernel

theorem accAddr_outCfg (h : 24 ≤ b) (h' : b < 32) : accAddr s who (tilePage b) (FLX.OUT_CFG.off + 0x10 * k) = FLX.OUT_CFG.addr (tilePage b) k := by
  have hwin : winIdx s who (tilePage b) (FLX.OUT_CFG.off + 0x10 * k) = 0 := by simp only [winIdx, pageKind_flx h h']
  rw [accAddr, hwin]
  simp only [Fld.addr, FLX.OUT_CFG]
  omega

theorem outCfg_addr_ne (hk : k < 16) : FLX.OUT_CFG.addr (tilePage b) k ≠ HDR.STATUS.addr (tilePage b) 0
    ∧ FLX.OUT_CFG.addr (tilePage b) k ≠ HDR.IRQ_STAT.addr (tilePage b) 0
    ∧ FLX.OUT_CFG.addr (tilePage b) k ≠ FLX.OUT_STAT_LOADING.addr (tilePage b) k
    ∧ HDR.STATUS.addr (tilePage b) 0 ≠ FLX.OUT_STAT_LOADING.addr (tilePage b) k := by
  simp only [Fld.addr, FLX.OUT_CFG, FLX.OUT_STAT_LOADING, HDR.STATUS, HDR.IRQ_STAT]
  omega

section
variable (h : 24 ≤ b) (h' : b < 32) (hk : k < 16)
include h h' hk

/-- A field of OUT_CFG after a write of an open page. -/
theorem of_writeReg_outCfg (hopen : busOpen s who (tilePage b) = true) {d : FieldDesc} (hd : d ∈ outCfgFields) :
    d.fld.of (rdWord (writeReg who (tilePage b) (FLX.OUT_CFG.off + 0x10 * k) w s) (FLX.OUT_CFG.addr (tilePage b) k))
      = if fieldOpen s who (tilePage b) (FLX.OUT_CFG.off + 0x10 * k) w d then d.fld.of w
        else d.fld.of (rdWord s (FLX.OUT_CFG.addr (tilePage b) k)) := by
  have hne := outCfg_addr_ne (b := b) hk
  have hword := rdWord_writeReg (o := FLX.OUT_CFG.off + 0x10 * k) (data := w) hopen (pageKind_flx h h')
    (by rw [accAddr_outCfg h h']; exact hne.1) (by rw [accAddr_outCfg h h']; exact hne.2.1)
  rw [accAddr_outCfg h h'] at hword
  rw [hword, openWord, fieldsAt_outCfg k hk, accAddr_outCfg h h']
  have hall : ∀ e ∈ outCfgFields, e.acc = .rw ∧ e.fld.lo + e.fld.w ≤ 32 := by decide
  exact of_mergeFields hd (hall d hd).1 (hall d hd).2 (fun e he => .inl (hall e he).1) (by decide)

/-- Every field of OUT_CFG but RANGE takes every value; RANGE takes 0 to 2. -/
theorem fieldTakes_outCfg {d : FieldDesc} {v : Nat} :
    fieldTakes (tilePage b) (FLX.OUT_CFG.off + 0x10 * k) d v = !(decide (d.fld.lo = FLX.OUT_CFG_RANGE.lo) && decide (v = 3)) := by
  have hlo : FLX.OUT_CFG_RANGE.off ≤ FLX.OUT_CFG.off + 0x10 * k := Nat.le_add_right _ _
  have hhi : FLX.OUT_CFG.off + 0x10 * k < FLX.OUT_CFG_RANGE.off + 0x100 := by
    show 0x200 + 0x10 * k < 0x300
    omega
  have hmod : (FLX.OUT_CFG.off + 0x10 * k) % 0x10 = 0 := by
    show (0x200 + 0x10 * k) % 0x10 = 0
    omega
  simp only [fieldTakes, pageKind_flx h h', hlo, hhi, hmod, decide_true, Bool.true_and]

/-- The state in which a write of OUT_CFG has landed. -/
def stOutCfg (who : Requester) (b k : Nat) (w : Word) (s : State) : State :=
  let u := writeReg who (tilePage b) (FLX.OUT_CFG.off + 0x10 * k) w s
  let u := if FLX.OUT_CFG_RANGE.of w = 3 then cfgBusy (tilePage b) u else u
  putF (tilePage b) FLX.OUT_STAT_LOADING 1 k (setFlux b k { fluxOf u b k with loading := some (FLX.OUT_CFG_BANK.of w) } u)

omit hk in
theorem exec_outCfgWrite_open (hopen : busOpen s who (tilePage b) = true) :
    exec (.outCfgWrite who b k w) s = .next (stOutCfg who b k w s) := by
  obtain ⟨-, -, -, -, hcfg, hall⟩ := busOpen_parts hopen
  refine congrArg Host.Outcome.next ((busGate_open hopen (by rw [pageKind_flx h h']; rfl) _ _).trans ?_)
  simp only [outCfgWriteEffect, hcfg, hall, isFlx_of h h', Bool.not_true, Bool.not_false, Bool.and_self, if_true, Bool.false_eq_true,
    if_false, stOutCfg]

omit h h' in
theorem getF_stOutCfg {g : Fld} (hg : g.addr (tilePage b) k = FLX.OUT_CFG.addr (tilePage b) k) :
    getF (stOutCfg who b k w s) (tilePage b) g k
      = g.of (rdWord (writeReg who (tilePage b) (FLX.OUT_CFG.off + 0x10 * k) w s) (FLX.OUT_CFG.addr (tilePage b) k)) := by
  obtain ⟨hstat, hirq, hload, -⟩ := outCfg_addr_ne (b := b) hk
  rw [stOutCfg, getF_putF_reg (by rw [hg]; exact hload), getF, hg]
  dsimp only
  split
  · exact congrArg g.of (rdWord_cfgBusy hstat hirq)
  · rfl

omit h h' in
theorem cfgBusy_stOutCfg (hr : FLX.OUT_CFG_RANGE.of w = 3) : isSet (stOutCfg who b k w s) (tilePage b) HDR.STATUS_CFG_BUSY = true := by
  obtain ⟨-, -, -, hload⟩ := outCfg_addr_ne (b := b) hk
  rw [stOutCfg, isSet_putF_reg (g := HDR.STATUS_CFG_BUSY) hload, if_pos hr]
  exact isSet_cfgBusy

end

theorem loading_stOutCfg : (fluxOf (stOutCfg who b k w s) b k).loading = some (FLX.OUT_CFG_BANK.of w) := by
  rw [stOutCfg, fluxOf_putF, fluxOf_setFlux]

theorem loadingBit_stOutCfg : isSet (stOutCfg who b k w s) (tilePage b) FLX.OUT_STAT_LOADING k = true := by
  rw [stOutCfg, isSet_putF (by decide)]
  rfl

/-! ### The end of a bank load -/

theorem exec_corrLoad_frozen (h : isSet s (tilePage b) HDR.CTRL_FREEZE = true) : exec (.corrLoadComplete b k) s = .next s := by
  show execCorrLoadComplete b k s = _
  simp only [execCorrLoadComplete, h, if_true]

/-- The lines of a coefficient bank. -/
def bankLines (b k bank : Nat) : List Nat := [coefAddr b k bank, coefAddr b k bank + 0x40]

/-- The state with a coefficient bank that waits for its boundary. -/
def stBank (b k bank : Nat) (s : State) : State :=
  let u := setFlux b k { fluxOf s b k with loading := none, coefNext := some (readBank s b k bank), nextBank := bank } s
  putF (tilePage b) FLX.STATUS_SWAP_PEND (setBit (getF u (tilePage b) FLX.STATUS_SWAP_PEND) k) 0 (putF (tilePage b) FLX.OUT_STAT_LOADING 0 k u)

/-- The state in which a bank load has failed, before its records. -/
def stBankFailed (b k bank : Nat) (s : State) : State :=
  let u := detectAll (bankLines b k bank) s
  putF (tilePage b) FLX.OUT_STAT_LOADING 0 k (putF (tilePage b) FLX.OUT_STAT_FAIL 1 k (setFlux b k { fluxOf u b k with loading := none } u))

section
variable (hl : (fluxOf s b k).loading = some bank) (hf : isSet s (tilePage b) HDR.CTRL_FREEZE = false)
include hl hf

theorem exec_corrLoad_good (hgood : ∀ a ∈ bankLines b k bank, lineBad s a = false) :
    exec (.corrLoadComplete b k) s = .next (if tileRunning (stBank b k bank s) b then stBank b k bank s
      else fluxSwap b k ((fluxOf (stBank b k bank s) b k).coefNext.map (fun c => (c, (fluxOf (stBank b k bank s) b k).nextBank)))
        (stBank b k bank s)) := by
  show execCorrLoadComplete b k s = _
  have hdet := detectAll_good hgood
  have hnone := find_poison_none hgood
  have hany := any_bad_false hgood
  unfold detectAll at hdet
  unfold bankLines at hdet hnone hany
  simp only [execCorrLoadComplete, hf, Bool.false_eq_true, if_false]
  rw [hl]
  simp only [hdet, hnone, hany, Bool.false_eq_true, if_false]
  rfl

theorem exec_corrLoad_poisoned (hp : ∃ a ∈ bankLines b k bank, (lineSt s a).poison = true) :
    ∃ a, exec (.corrLoadComplete b k) s = .next (errRec (tilePage b) 0x32 2 k bank a (irqBit (tilePage b) 10
      (detectLine 4 a (stBankFailed b k bank s)))) := by
  obtain ⟨a, -, ha⟩ := find_poison_some hp
  refine ⟨a, ?_⟩
  show execCorrLoadComplete b k s = _
  simp only [detectAll, bankLines] at ha
  simp only [execCorrLoadComplete, hf, Bool.false_eq_true, if_false]
  rw [hl]
  simp only [ha]
  rfl

end

theorem fluxOf_stBank : fluxOf (stBank b k bank s) b k
    = { fluxOf s b k with loading := none, coefNext := some (readBank s b k bank), nextBank := bank } := by
  rw [stBank, fluxOf_putF, fluxOf_putF, fluxOf_setFlux]

theorem loading_stBank : isSet (stBank b k bank s) (tilePage b) FLX.OUT_STAT_LOADING k = false := by
  have hne : FLX.OUT_STAT_LOADING.addr (tilePage b) k ≠ FLX.STATUS_SWAP_PEND.addr (tilePage b) 0 := by
    simp only [Fld.addr, FLX.OUT_STAT_LOADING, FLX.STATUS_SWAP_PEND]
    omega
  rw [stBank, isSet_putF_reg hne, isSet_putF (by decide)]
  rfl

theorem tileRunning_stBank : tileRunning (stBank b k bank s) b = tileRunning s b := by
  have hne : HDR.STATUS_RUN.addr (tilePage b) 0 ≠ FLX.OUT_STAT_LOADING.addr (tilePage b) k := by
    simp only [Fld.addr, FLX.OUT_STAT_LOADING, HDR.STATUS_RUN]
    omega
  rw [stBank, tileRunning, isSet_putF_beside (by decide), isSet_putF_reg hne]
  rfl

/-- The state with a waiting coefficient bank in force. -/
def stCorrected (b k : Nat) (c : Coef) (bank : Nat) (s : State) : State :=
  let u := putF (tilePage b) FLX.OUT_STAT_BANK_F bank k (setFlux b k { fluxOf s b k with coef := c, coefNext := none } s)
  irqBit (tilePage b) 11 (putF (tilePage b) FLX.STATUS_SWAP_PEND (clrBit (getF u (tilePage b) FLX.STATUS_SWAP_PEND) k) 0 u)

theorem fluxSwap_waiting {c : Coef} (hc : (fluxOf s b k).coefNext = some c) :
    fluxSwap b k ((fluxOf s b k).coefNext.map (fun c => (c, (fluxOf s b k).nextBank))) s = stCorrected b k c (fluxOf s b k).nextBank s := by
  simp only [fluxSwap, hc, Option.map_some, decide_true, Bool.and_self, if_true, stCorrected]

theorem fluxOf_stCorrected {c : Coef} : fluxOf (stCorrected b k c bank s) b k = { fluxOf s b k with coef := c, coefNext := none } := by
  rw [stCorrected, fluxOf_irqBit, fluxOf_putF, fluxOf_putF, fluxOf_setFlux]

theorem loading_stCorrected {c : Coef} : isSet (stCorrected b k c bank s) (tilePage b) FLX.OUT_STAT_LOADING k
    = isSet s (tilePage b) FLX.OUT_STAT_LOADING k := by
  have hstat : FLX.OUT_STAT_LOADING.addr (tilePage b) k ≠ FLX.STATUS_SWAP_PEND.addr (tilePage b) 0 := by
    simp only [Fld.addr, FLX.OUT_STAT_LOADING, FLX.STATUS_SWAP_PEND]
    omega
  have hirq : FLX.OUT_STAT_LOADING.addr (tilePage b) k ≠ HDR.IRQ_STAT.addr (tilePage b) 0 := by
    simp only [Fld.addr, FLX.OUT_STAT_LOADING, HDR.IRQ_STAT]
    omega
  rw [stCorrected, isSet_irqBit_ne hirq, isSet_putF_reg hstat, isSet_putF_beside (by decide)]
  rfl

/-! ### A shorted output (R257) -/

theorem exec_outShort_off (h : isSet s (tilePage b) FLX.OUT_STAT_SHORT k = true ∨ isSet s (tilePage b) FLX.OUT_CFG_PD k = true) :
    exec (.outShort b k) s = .next s := by
  show execOutShort b k s = _
  unfold execOutShort
  obtain h | h := h <;> simp [h]

theorem exec_outShort_on (hb : isFlx b = true) (hp : tilePresent s b = true) (hs : isSet s (tilePage b) FLX.OUT_STAT_SHORT k = false)
    (hpd : isSet s (tilePage b) FLX.OUT_CFG_PD k = false) :
    exec (.outShort b k) s = .next (errRec (tilePage b) 0x34 2 k (shotNum s b % 2 ^ 32) 0
      (irqBit (tilePage b) 13 (putF (tilePage b) FLX.OUT_STAT_SHORT 1 k s))) := by
  show execOutShort b k s = _
  simp [execOutShort, hb, hp, hs, hpd]

theorem outStat_not_recRegs (hk : k < 16) {g : Fld}
    (hg : g.addr (tilePage b) k = FLX.OUT_STAT.addr (tilePage b) k) : g.addr (tilePage b) k ∉ recRegs (tilePage b) := by
  rw [hg]
  simp only [recRegs, Fld.addr, FLX.OUT_STAT, HDR.ERR_CNT_TOTAL, HDR.IRQ_STAT, DMP.DUMP_STAT_FATAL_CNT, List.mem_cons, List.not_mem_nil,
    or_false, tilePage]
  omega

/-- What the records of a failed matrix load leave of it. -/
theorem matFailed_kept {a : Nat} (h : 16 ≤ b) (h' : b < 24) :
    let t := errRec (tilePage b) 0x3D 2 0 0 a (detectLine 4 a (pastRec b base (stMatFailed b base s)))
    isSet t (tilePage b) RDO.UNMIX_STAT_FAIL = true ∧ (rdoOf t b).loading = none ∧ (rdoOf t b).mat = (rdoOf s b).mat := by
  have hdet : LineOnly (pastRec b base (stMatFailed b base s)) (detectLine 4 a (pastRec b base (stMatFailed b base s))) :=
    (LineOnly.refl _).detectLine
  have hrdo : rdoOf (errRec (tilePage b) 0x3D 2 0 0 a (detectLine 4 a (pastRec b base (stMatFailed b base s)))) b
      = { rdoOf s b with loading := none } := by
    rw [rdoOf_congr (errRec_rdos _ _ _ _ _ _ _), lineOnly_rdoOf hdet, rdoOf_congr pastRec_rdos, stMatFailed, rdoOf_putF, rdoOf_putF,
      rdoOf_modRdo, lineOnly_rdoOf (lineOnly_detectAll _)]
  have hpast : isSet (pastRec b base (stMatFailed b base s)) (tilePage b) RDO.UNMIX_STAT_FAIL
      = isSet (stMatFailed b base s) (tilePage b) RDO.UNMIX_STAT_FAIL := by
    unfold pastRec
    split
    · exact regsSame_isSet (regsSame_record (regsSame_refl _ _)) unmixStat_not_recRegs
    · rfl
  refine ⟨?_, by rw [hrdo], by rw [hrdo]⟩
  rw [regsSame_isSet (regsSame_record (regsSame_refl _ _)) unmixStat_not_recRegs, isSet, hdet.getF (not_lineReg_tile ?_ ?_), ← isSet, hpast,
    stMatFailed, isSet_putF_beside (by decide), isSet_putF (by decide)]
  · rfl
  all_goals
    simp only [Fld.addr, RDO.UNMIX_STAT_FAIL, tilePage]
    omega

/-- What the records of a failed bank load leave of it. -/
theorem bankFailed_kept {a : Nat} (h : 24 ≤ b) (h' : b < 32) (hk : k < 16) :
    let t := errRec (tilePage b) 0x32 2 k bank a (irqBit (tilePage b) 10 (detectLine 4 a (stBankFailed b k bank s)))
    (fluxOf t b k).loading = none ∧ isSet t (tilePage b) FLX.OUT_STAT_FAIL k = true ∧ (fluxOf t b k).coef = (fluxOf s b k).coef := by
  have hdet : LineOnly (stBankFailed b k bank s) (detectLine 4 a (stBankFailed b k bank s)) := (LineOnly.refl _).detectLine
  have hflux : fluxOf (errRec (tilePage b) 0x32 2 k bank a (irqBit (tilePage b) 10 (detectLine 4 a (stBankFailed b k bank s)))) b k
      = { fluxOf s b k with loading := none } := by
    rw [fluxOf_congr (errRec_flux _ _ _ _ _ _ _), fluxOf_irqBit, lineOnly_fluxOf hdet, stBankFailed, fluxOf_putF, fluxOf_putF,
      fluxOf_setFlux, lineOnly_fluxOf (lineOnly_detectAll _)]
  have hirq : FLX.OUT_STAT_FAIL.addr (tilePage b) k ≠ HDR.IRQ_STAT.addr (tilePage b) 0 := by
    simp only [Fld.addr, FLX.OUT_STAT_FAIL, HDR.IRQ_STAT]
    omega
  refine ⟨by rw [hflux], ?_, by rw [hflux]⟩
  rw [regsSame_isSet (regsSame_record (regsSame_refl _ _)) (outStat_not_recRegs (g := FLX.OUT_STAT_FAIL) hk rfl),
    isSet_irqBit_ne hirq, isSet, hdet.getF (not_lineReg_tile ?_ ?_), ← isSet, stBankFailed, isSet_putF_beside (by decide),
    isSet_putF (by decide)]
  · rfl
  all_goals
    simp only [Fld.addr, FLX.OUT_STAT_FAIL, tilePage]
    omega

/-- Settles O28: each write and each end of a load as its lemma above gives it. -/
theorem coefficientLoads : Obligations.CoefficientLoads := by
  unfold Obligations.CoefficientLoads
  refine fun s who b => ⟨fun h h' => ⟨fun bs hp hr => ⟨_, exec_chanCoef_unready h h' hp hr, ?coef⟩,
    fun bs hr => exec_chanCoef_ready hr, fun w hopen => ⟨_, exec_unmixCfgWrite_open h h' hopen, ?_, ?_, ?_⟩, exec_unmixLoad_frozen,
    fun base hl hf => ⟨fun hgood hrun => ?matWait, fun hgood hrun => ?matNow, fun hp => ?matFail⟩⟩, fun h h' k hk =>
    ⟨fun w hopen => ⟨_, exec_outCfgWrite_open h h' hopen, ?cfg⟩, exec_corrLoad_frozen, fun bank hl hf => ⟨fun hgood =>
      ⟨fun hrun => ?bankWait, fun hrun => ?bankNow⟩, fun hp => ?bankFail⟩, fun hp hs hpd => ?short, exec_outShort_off⟩⟩
  case coef => exact isSet_putF (by decide)
  case refine_1 => rw [rdoOf_putF, rdoOf_modRdo]
  case refine_2 => exact isSet_putF (by decide)
  case refine_3 =>
    rw [getF_putF_reg (g := RDO.UNMIX_CFG_MBASE) (by simp only [Fld.addr, RDO.UNMIX_CFG_MBASE, RDO.UNMIX_STAT_LOADING]; omega)]
    exact mbase_writeReg h h' hopen
  case matWait =>
    refine ⟨_, exec_unmixLoad_good hl hf hgood, ?_⟩
    rw [if_pos (tileRunning_stMatrix.trans hrun), rdoOf_stMatrix]
    exact ⟨rfl, rfl, rfl, swapPend_stMatrix, loading_stMatrix⟩
  case matNow =>
    refine ⟨_, exec_unmixLoad_good hl hf hgood, ?_⟩
    rw [if_neg (by rw [tileRunning_stMatrix, hrun]; exact Bool.false_ne_true), unmixSwap_stMatrix, rdoOf_stSwapped]
    exact ⟨rfl, rfl, rfl, swapPend_stSwapped, loading_stSwapped⟩
  case matFail =>
    obtain ⟨a, hexec⟩ := exec_unmixLoad_poisoned hl hf hp
    obtain ⟨hfail, hloading, hmat⟩ := matFailed_kept (s := s) (base := base) (a := a) h h'
    exact ⟨_, hexec, hfail, hloading, hmat⟩
  case cfg =>
    have hall : ∀ {d : FieldDesc}, d ∈ outCfgFields → d.fld.addr (tilePage b) k = FLX.OUT_CFG.addr (tilePage b) k →
        getF (stOutCfg who b k w s) (tilePage b) d.fld k = if fieldOpen s who (tilePage b) (FLX.OUT_CFG.off + 0x10 * k) w d
          then d.fld.of w else getF s (tilePage b) d.fld k := fun hd ha => by
      rw [getF_stOutCfg hk ha, of_writeReg_outCfg h h' hk hopen hd, getF, ha]
    have hbank := hall (d := ⟨FLX.OUT_CFG_BANK, .rw, .b, 0⟩) (by decide) rfl
    have hrange := hall (d := ⟨FLX.OUT_CFG_RANGE, .rw, .s, 0⟩) (by decide) rfl
    have hopenBank : fieldOpen s who (tilePage b) (FLX.OUT_CFG.off + 0x10 * k) w ⟨FLX.OUT_CFG_BANK, .rw, .b, 0⟩ = true := by
      rw [fieldOpen, fieldTakes_outCfg h h' hk]
      simp [FLX.OUT_CFG_BANK, FLX.OUT_CFG_RANGE]
    have hopenRange : fieldOpen s who (tilePage b) (FLX.OUT_CFG.off + 0x10 * k) w ⟨FLX.OUT_CFG_RANGE, .rw, .s, 0⟩
        = (!sBlocked s who (tilePage b) FLX.OUT_CFG_RANGE.off && !decide (FLX.OUT_CFG_RANGE.of w = 3)) := by
      rw [fieldOpen, fieldTakes_outCfg h h' hk, sBlocked_tile h' _ FLX.OUT_CFG_RANGE.off]
      simp
    refine ⟨loading_stOutCfg, loadingBit_stOutCfg, ?_, fun hr => ⟨?_, cfgBusy_stOutCfg hk hr⟩, fun hr hshut => ?_⟩
    · rw [hbank, hopenBank, if_pos rfl]
    · rw [hrange, hopenRange, hr]
      simp
    · rw [hrange, hopenRange, hshut]
      simp [hr]
  case bankWait =>
    refine ⟨_, exec_corrLoad_good hl hf hgood, ?_⟩
    rw [if_pos (tileRunning_stBank.trans hrun), fluxOf_stBank]
    exact ⟨rfl, rfl, rfl⟩
  case bankNow =>
    refine ⟨_, exec_corrLoad_good hl hf hgood, ?_⟩
    rw [if_neg (by rw [tileRunning_stBank, hrun]; exact Bool.false_ne_true), fluxSwap_waiting (c := readBank s b k bank) (by rw [fluxOf_stBank]),
      fluxOf_stCorrected, fluxOf_stBank, loading_stCorrected]
    exact ⟨rfl, rfl, rfl, loading_stBank⟩
  case bankFail =>
    obtain ⟨a, hexec⟩ := exec_corrLoad_poisoned hl hf hp
    obtain ⟨hloading, hfail, hcoef⟩ := bankFailed_kept (s := s) (k := k) (bank := bank) (a := a) h h' hk
    exact ⟨_, hexec, hloading, hfail, hcoef⟩
  case short =>
    refine ⟨_, exec_outShort_on (isFlx_of h h') hp hs hpd, ?_, irqStat_errRec_of (irqStat_irqBit_same (by decide))⟩
    have hirq : FLX.OUT_STAT_SHORT.addr (tilePage b) k ≠ HDR.IRQ_STAT.addr (tilePage b) 0 := by
      simp only [Fld.addr, FLX.OUT_STAT_SHORT, HDR.IRQ_STAT]
      omega
    rw [regsSame_isSet (regsSame_record (regsSame_refl _ _)) (outStat_not_recRegs (g := FLX.OUT_STAT_SHORT) hk rfl),
      isSet_irqBit_ne hirq, isSet_putF (by decide)]
    rfl

end Sys2Proof.Machine
end

section
/-!
PROOFS. The rotation of R176: rounding is odd, the tables have the symmetries of sine and cosine, and the angle of a pulse follows
the bits of its Bobbin.
-/
namespace Sys2Proof.Machine

/-! ### Rounding (ties away from zero) -/

theorem roundDiv_neg (n : Int) (d : Nat) : roundDiv (-n) d = -roundDiv n d := by
  unfold roundDiv
  by_cases hpos : 0 < n
  · rw [if_neg (by omega), if_pos (by omega), neg_neg]
  · by_cases hzero : n = 0
    · subst hzero
      by_cases hd : d = 0
      · subst hd
        decide
      · have hlt : (2 * (0 : Int) + d) / (2 * d) = 0 := Int.ediv_eq_zero_of_lt (by omega) (by omega)
        simp only [neg_zero, le_refl, if_true, hlt]
    · rw [if_pos (by omega), if_neg (by omega)]
      omega

/-- A common factor of a quotient leaves its rounding alone. -/
theorem roundDiv_mul (n : Int) (d m : Nat) (hm : 0 < m) : roundDiv (n * m) (d * m) = roundDiv n d := by
  have hm' : (0 : Int) < m := by exact_mod_cast hm
  have hdiv : ∀ x : Int, (2 * (x * m) + (d * m : Nat)) / (2 * (d * m : Nat) : Int) = (2 * x + d) / (2 * d) := by
    intro x
    rw [show (2 * (x * m) + (d * m : Nat) : Int) = (2 * x + d) * m by push_cast; ring,
      show (2 * (d * m : Nat) : Int) = 2 * d * m by push_cast; ring]
    exact Int.mul_ediv_mul_of_pos_left _ _ hm'
  unfold roundDiv
  by_cases h : 0 ≤ n
  · rw [if_pos (mul_nonneg h hm'.le), if_pos h, hdiv]
  · rw [if_neg (by nlinarith), if_neg h, ← neg_mul, hdiv]

/-! ### The tables -/

/-- The first quarter turn's sine, rounded to the table's entries. -/
def quarterEntry (p : Nat) : Int := roundDiv (sinQuarter p * 2 ^ 17) (2 ^ 80)

theorem quarterEntry_zero : quarterEntry 0 = 0 := by decide +kernel

theorem sinTab_mod (p : Nat) : sinTab (p % 2 ^ 20) = sinTab p := by simp only [sinTab, Nat.mod_mod]

/-- The entries of the first half turn. -/
def halfEntry (p : Nat) : Int := if p ≤ 2 ^ 18 then quarterEntry p else quarterEntry (2 ^ 19 - p)

theorem halfEntry_zero : halfEntry 0 = 0 := quarterEntry_zero

theorem halfEntry_reflect {p : Nat} (h : p ≤ 2 ^ 19) : halfEntry (2 ^ 19 - p) = halfEntry p := by
  unfold halfEntry
  rcases Nat.lt_trichotomy p (2 ^ 18) with hlt | rfl | hgt
  · rw [if_neg (by omega), if_pos (by omega), Nat.sub_sub_self h]
  · rfl
  · rw [if_pos (by omega), if_neg (by omega)]

theorem halfEntry_half : halfEntry (2 ^ 19) = 0 := (halfEntry_reflect (Nat.zero_le _)).trans halfEntry_zero

theorem sinTab_eq {p : Nat} (h : p < 2 ^ 20) : sinTab p = if p ≤ 2 ^ 19 then halfEntry p else -halfEntry (p - 2 ^ 19) := by
  simp only [sinTab, Nat.mod_eq_of_lt h, halfEntry, quarterEntry]
  by_cases hhalf : p ≤ 2 ^ 19
  · rw [if_pos hhalf, if_pos hhalf]
    by_cases hquarter : p ≤ 2 ^ 18
    · rw [if_pos hquarter, if_pos hquarter]
    · rw [if_neg hquarter, if_neg hquarter]
  · rw [if_neg hhalf, if_neg hhalf, if_neg (show ¬ p ≤ 2 ^ 18 by omega)]
    by_cases hquarter : p ≤ 3 * 2 ^ 18
    · rw [if_pos hquarter, if_pos (by omega), neg_mul, roundDiv_neg]
    · rw [if_neg hquarter, if_neg (by omega), neg_mul, roundDiv_neg, show 2 ^ 19 - (p - 2 ^ 19) = 2 ^ 20 - p by omega]

/-- Half a turn on, sine is negated. -/
theorem sinTab_add_half (p : Nat) : sinTab (p + 2 ^ 19) = -sinTab p := by
  have hq : p % 2 ^ 20 < 2 ^ 20 := Nat.mod_lt _ (by decide)
  rw [← sinTab_mod (p + 2 ^ 19), ← sinTab_mod p, sinTab_eq hq, sinTab_eq (Nat.mod_lt _ (by decide))]
  generalize hr : p % 2 ^ 20 = q at hq
  have hsum : (p + 2 ^ 19) % 2 ^ 20 = (q + 2 ^ 19) % 2 ^ 20 := by omega
  rw [hsum]
  rcases Nat.lt_trichotomy q (2 ^ 19) with hlt | rfl | hgt
  · rw [Nat.mod_eq_of_lt (show q + 2 ^ 19 < 2 ^ 20 by omega), if_pos hlt.le]
    by_cases hzero : q = 0
    · rw [hzero, if_pos (by decide), show 0 + 2 ^ 19 = 2 ^ 19 from rfl, halfEntry_half, halfEntry_zero, neg_zero]
    · rw [if_neg (by omega), Nat.add_sub_cancel]
  · rw [if_pos (by decide), if_pos le_rfl, halfEntry_half]
    exact halfEntry_zero
  · rw [show (q + 2 ^ 19) % 2 ^ 20 = q - 2 ^ 19 by omega, if_pos (by omega), if_neg (by omega), neg_neg]

theorem sinTab_add_turn (p : Nat) : sinTab (p + 2 ^ 20) = sinTab p := by
  rw [← sinTab_mod (p + 2 ^ 20), Nat.add_mod_right, sinTab_mod]

/-- Sine is odd. -/
theorem sinTab_sub {p : Nat} (h : p ≤ 2 ^ 20) : sinTab (2 ^ 20 - p) = -sinTab p := by
  have hlow : ∀ q ≤ 2 ^ 19, sinTab (2 ^ 20 - q) = -sinTab q := by
    intro q hq
    rw [show 2 ^ 20 - q = 2 ^ 19 - q + 2 ^ 19 by omega, sinTab_add_half, sinTab_eq (show 2 ^ 19 - q < 2 ^ 20 by omega), if_pos (by omega),
      halfEntry_reflect hq, sinTab_eq (show q < 2 ^ 20 by omega), if_pos hq]
  by_cases hp : p ≤ 2 ^ 19
  · exact hlow p hp
  · have hflip := hlow (2 ^ 20 - p) (by omega)
    rw [Nat.sub_sub_self h] at hflip
    rw [hflip, neg_neg]

theorem cosTab_add_half (p : Nat) : cosTab (p + 2 ^ 19) = -cosTab p := by
  rw [cosTab, cosTab, show p + 2 ^ 19 + 2 ^ 18 = p + 2 ^ 18 + 2 ^ 19 by omega, sinTab_add_half]

/-- Cosine is even. -/
theorem cosTab_sub {p : Nat} (h : p ≤ 2 ^ 20) : cosTab (2 ^ 20 - p) = cosTab p := by
  have hreflect : ∀ q ≤ 2 ^ 20, sinTab (2 ^ 20 - q + 2 ^ 19) = sinTab q := fun q hq => by
    rw [sinTab_add_half, sinTab_sub hq, neg_neg]
  rw [cosTab, cosTab]
  by_cases hp : p + 2 ^ 18 ≤ 2 ^ 20
  · rw [← hreflect _ hp, show 2 ^ 20 - (p + 2 ^ 18) + 2 ^ 19 = 2 ^ 20 - p + 2 ^ 18 by omega]
  · have hback := hreflect (p + 2 ^ 18 - 2 ^ 20) (by omega)
    rw [← sinTab_add_turn (p + 2 ^ 18 - 2 ^ 20), show p + 2 ^ 18 - 2 ^ 20 + 2 ^ 20 = p + 2 ^ 18 by omega] at hback
    rw [← hback, ← sinTab_add_turn (2 ^ 20 - p + 2 ^ 18),
      show 2 ^ 20 - (p + 2 ^ 18 - 2 ^ 20) + 2 ^ 19 = 2 ^ 20 - p + 2 ^ 18 + 2 ^ 20 by omega]

theorem cosTab_mod (p : Nat) : cosTab (p % 2 ^ 20) = cosTab p := by
  rw [cosTab, cosTab, ← sinTab_mod, Nat.mod_add_mod, sinTab_mod]

/-! ### The sample of an angle -/

/-- The sample of an envelope sample of an amplitude at an angle. -/
def sampleAt (amp : Nat) (e : Cplx) (p : Nat) : Cplx :=
  { re := satQ216 (roundDiv (amp * (e.re * cosTab p - e.im * sinTab p)) (2 ^ 25))
    im := satQ216 (roundDiv (amp * (e.re * sinTab p + e.im * cosTab p)) (2 ^ 25)) }

theorem baseband_eq (ch : Chan) (e : Cplx) :
    baseband ch e = sampleAt ch.amp (if xor ch.conj ch.x then { e with im := -e.im } else e) (pulseAngle ch) := by
  cases hc : ch.conj <;> cases hx : ch.x <;> simp [baseband, sampleAt, hc, hx]

theorem satQ216_neg {v : Int} (h : -(2 ^ 17) < satQ216 v) (h' : satQ216 v < 2 ^ 17 - 1) : satQ216 (-v) = -satQ216 v := by
  unfold satQ216 clampI at *
  split_ifs at * <;> omega

theorem sampleAt_half (amp : Nat) (e : Cplx) (p : Nat) (b : Cplx) (hb : b = sampleAt amp e p)
    (hlim : -(2 ^ 17) < b.re ∧ b.re < 2 ^ 17 - 1 ∧ -(2 ^ 17) < b.im ∧ b.im < 2 ^ 17 - 1) :
    sampleAt amp e (p + 2 ^ 19) = { re := -b.re, im := -b.im } := by
  subst hb
  obtain ⟨h1, h2, h3, h4⟩ := hlim
  simp only [sampleAt] at h1 h2 h3 h4 ⊢
  have hre : amp * (e.re * -cosTab p - e.im * -sinTab p) = -(amp * (e.re * cosTab p - e.im * sinTab p)) := by ring
  have him : amp * (e.re * -sinTab p + e.im * -cosTab p) = -(amp * (e.re * sinTab p + e.im * cosTab p)) := by ring
  rw [cosTab_add_half, sinTab_add_half, hre, him, roundDiv_neg, roundDiv_neg, satQ216_neg h1 h2, satQ216_neg h3 h4]

/-- The conjugate of an envelope sample at the negated angle gives the conjugate sample. -/
theorem sampleAt_conj (amp : Nat) (e : Cplx) {p q : Nat} (hcos : cosTab q = cosTab p) (hsin : sinTab q = -sinTab p) (b : Cplx)
    (hb : b = sampleAt amp e p) (hlim : -(2 ^ 17) < b.im ∧ b.im < 2 ^ 17 - 1) :
    sampleAt amp { e with im := -e.im } q = { re := b.re, im := -b.im } := by
  subst hb
  obtain ⟨h3, h4⟩ := hlim
  simp only [sampleAt] at h3 h4 ⊢
  have hre : amp * (e.re * cosTab p - -e.im * -sinTab p) = amp * (e.re * cosTab p - e.im * sinTab p) := by ring
  have him : amp * (e.re * -sinTab p + -e.im * cosTab p) = -(amp * (e.re * sinTab p + e.im * cosTab p)) := by ring
  rw [hcos, hsin, hre, him, roundDiv_neg, satQ216_neg h3 h4]

/-! ### The angle of a pulse -/

/-- The angle of a pulse at a phase. -/
def angleAt (phi : Nat) : Nat := (phi % 2 ^ 32 + 2 ^ 11) / 2 ^ 12 % 2 ^ 20

/-- The frame phase of a pulse. -/
def pulsePhase (ch : Chan) : Nat :=
  let phi := (ch.f + ch.phs * 2 ^ 20) % 2 ^ 32
  if ch.x then (2 ^ 32 - phi) % 2 ^ 32 else phi

theorem pulseAngle_eq (ch : Chan) : pulseAngle ch = angleAt (if ch.z then pulsePhase ch + 2 ^ 31 else pulsePhase ch) := rfl

theorem pulsePhase_lt (ch : Chan) : pulsePhase ch < 2 ^ 32 := by
  unfold pulsePhase
  dsimp only
  split_ifs <;> exact Nat.mod_lt _ (by decide)

theorem angleAt_add_half {phi : Nat} (h : phi < 2 ^ 32) : angleAt (phi + 2 ^ 31) = (angleAt phi + 2 ^ 19) % 2 ^ 20 := by
  unfold angleAt
  omega

/-- At no tie the angle of the negated phase is the negated angle. -/
theorem angleAt_neg {phi psi : Nat} (h : (phi + psi) % 2 ^ 32 = 0) (htie : phi % 2 ^ 12 ≠ 2 ^ 11) :
    angleAt psi = (2 ^ 20 - angleAt phi) % 2 ^ 20 := by
  unfold angleAt
  omega

theorem sampleAt_mod (amp : Nat) (e : Cplx) (p : Nat) : sampleAt amp e (p % 2 ^ 20) = sampleAt amp e p := by
  simp only [sampleAt, sinTab_mod, cosTab_mod]

/-- The Z bit negates the sample. -/
theorem baseband_not_z (ch : Chan) (e : Cplx)
    (hlim : let b := baseband ch e; -(2 ^ 17) < b.re ∧ b.re < 2 ^ 17 - 1 ∧ -(2 ^ 17) < b.im ∧ b.im < 2 ^ 17 - 1) :
    baseband { ch with z := !ch.z } e = { re := -(baseband ch e).re, im := -(baseband ch e).im } := by
  have hphase : pulsePhase { ch with z := !ch.z } = pulsePhase ch := rfl
  have hlt := pulsePhase_lt ch
  have hangle : pulseAngle { ch with z := !ch.z } = (pulseAngle ch + 2 ^ 19) % 2 ^ 20 := by
    rw [pulseAngle_eq, pulseAngle_eq, hphase]
    cases hz : ch.z
    · simpa [hz] using angleAt_add_half hlt
    · simp only [Bool.not_true, Bool.false_eq_true, if_false, if_true]
      rw [angleAt_add_half hlt]
      unfold angleAt
      omega
  rw [baseband_eq { ch with z := !ch.z }, hangle, sampleAt_mod]
  exact sampleAt_half _ _ _ _ (baseband_eq ch e) hlim

/-- The phases of a pulse with and without its X bit sum to whole turns, and neither is a tie where the frame phase is none. -/
theorem pulsePhase_not_x (ch : Chan) : (pulsePhase ch + pulsePhase { ch with x := !ch.x }) % 2 ^ 32 = 0 := by
  have hlt : (ch.f + ch.phs * 2 ^ 20) % 2 ^ 32 < 2 ^ 32 := Nat.mod_lt _ (by decide)
  unfold pulsePhase
  cases hx : ch.x <;> simp only [Bool.not_true, Bool.not_false, Bool.false_eq_true, if_false, if_true] <;> omega

theorem pulsePhase_tie (ch : Chan) (htie : ch.f % 2 ^ 12 ≠ 2 ^ 11) : pulsePhase ch % 2 ^ 12 ≠ 2 ^ 11 := by
  unfold pulsePhase
  dsimp only
  split_ifs <;> omega

theorem pulseAngle_not_x (ch : Chan) (htie : ch.f % 2 ^ 12 ≠ 2 ^ 11) :
    pulseAngle { ch with x := !ch.x } = (2 ^ 20 - pulseAngle ch) % 2 ^ 20 := by
  have hsum := pulsePhase_not_x ch
  have hno := pulsePhase_tie ch htie
  rw [pulseAngle_eq, pulseAngle_eq]
  cases hz : ch.z
  · simpa [hz] using angleAt_neg hsum hno
  · simp only [if_true]
    rw [hz] at hsum
    exact angleAt_neg (by omega) (by omega)

theorem pulseAngle_le (ch : Chan) : pulseAngle ch ≤ 2 ^ 20 := (Nat.mod_lt _ (by decide)).le

/-- The X bit conjugates the sample, but at a tie of the rounding. -/
theorem baseband_not_x (ch : Chan) (e : Cplx) (htie : ch.f % 2 ^ 12 ≠ 2 ^ 11)
    (hlim : let b := baseband ch e; -(2 ^ 17) < b.re ∧ b.re < 2 ^ 17 - 1 ∧ -(2 ^ 17) < b.im ∧ b.im < 2 ^ 17 - 1) :
    baseband { ch with x := !ch.x } e = { re := (baseband ch e).re, im := -(baseband ch e).im } := by
  obtain ⟨-, -, hlo, hhi⟩ := hlim
  have hconj : (if xor ch.conj (!ch.x) then { e with im := -e.im } else e)
      = { (if xor ch.conj ch.x then { e with im := -e.im } else e) with
          im := -(if xor ch.conj ch.x then { e with im := -e.im } else e).im } := by
    cases ch.conj <;> cases ch.x <;> simp
  rw [baseband_eq { ch with x := !ch.x }, pulseAngle_not_x ch htie, sampleAt_mod, hconj]
  exact sampleAt_conj _ _ (cosTab_sub (pulseAngle_le ch)) (sinTab_sub (pulseAngle_le ch)) _ (baseband_eq ch e) ⟨hlo, hhi⟩

/-- CONJ and X together leave the envelope sample and negate the angle alone. -/
theorem baseband_conj_x (ch : Chan) (e : Cplx) (hc : ch.conj = true) (hx : ch.x = true) : baseband ch e
    = baseband { ch with conj := false, x := false, f := (2 ^ 32 - ch.f % 2 ^ 32) % 2 ^ 32, phs := (4096 - ch.phs % 4096) % 4096 } e := by
  have hphase : pulsePhase ch = pulsePhase { ch with
      conj := false, x := false, f := (2 ^ 32 - ch.f % 2 ^ 32) % 2 ^ 32, phs := (4096 - ch.phs % 4096) % 4096 } := by
    unfold pulsePhase
    simp only [hx, if_true, Bool.false_eq_true, if_false]
    omega
  rw [baseband_eq, baseband_eq, pulseAngle_eq, pulseAngle_eq, hphase, hc, hx]
  rfl

/-! ### Quarter turns -/

theorem tab_zero : sinTab 0 = 0 ∧ cosTab 0 = 2 ^ 17 := by decide +kernel

theorem tab_quarter : sinTab (2 ^ 18) = 2 ^ 17 ∧ cosTab (2 ^ 18) = 0 := by decide +kernel

theorem tab_half : sinTab (2 ^ 19) = 0 ∧ cosTab (2 ^ 19) = -(2 ^ 17) := by decide +kernel

/-- A product with 1.0 of the tables keeps 8 bits below the unit. -/
theorem roundDiv_one (n : Int) : roundDiv (n * 2 ^ 17) (2 ^ 25) = roundDiv n (2 ^ 8) := by
  have h := roundDiv_mul n (2 ^ 8) (2 ^ 17) (by decide)
  exact_mod_cast h

theorem sampleAt_zero (amp : Nat) (e : Cplx) :
    sampleAt amp e 0 = { re := satQ216 (roundDiv (amp * e.re) (2 ^ 8)), im := satQ216 (roundDiv (amp * e.im) (2 ^ 8)) } := by
  obtain ⟨hs, hc⟩ := tab_zero
  rw [sampleAt, hs, hc, ← roundDiv_one, ← roundDiv_one]
  ring_nf

theorem sampleAt_quarter (amp : Nat) (e : Cplx) :
    sampleAt amp e (2 ^ 18) = { re := satQ216 (roundDiv (-(amp * e.im)) (2 ^ 8)), im := satQ216 (roundDiv (amp * e.re) (2 ^ 8)) } := by
  obtain ⟨hs, hc⟩ := tab_quarter
  rw [sampleAt, hs, hc, ← roundDiv_one, ← roundDiv_one]
  ring_nf

/-- Settles O3, from the symmetries of the tables and of the angle. -/
theorem basebandRotation : Obligations.BasebandRotation := by
  unfold Obligations.BasebandRotation
  refine ⟨⟨tab_zero.1, tab_zero.2, tab_quarter.1, tab_quarter.2, tab_half.1, tab_half.2⟩, fun p hp => ⟨sinTab_add_half p, cosTab_add_half p,
    sinTab_sub hp.le, cosTab_sub hp.le⟩, fun ch e hf hc hx hz => ⟨fun hp => ?zero, fun hp => ?quarter⟩, fun ch e hlim =>
    ⟨baseband_not_z ch e hlim, fun htie => baseband_not_x ch e htie hlim⟩, baseband_conj_x⟩
  case zero =>
    have hangle : pulseAngle ch = 0 := by simp [pulseAngle, hf, hx, hz, hp]
    rw [baseband_eq, hangle, hc, hx]
    exact sampleAt_zero _ _
  case quarter =>
    have hangle : pulseAngle ch = 2 ^ 18 := by simp [pulseAngle, hf, hx, hz, hp]
    rw [baseband_eq, hangle, hc, hx]
    exact sampleAt_quarter _ _

end Sys2Proof.Machine
end

section
/-!
PROOFS. Units, DAC codes, the correction chain and flux codes (R112, R164, R181 to R183, R250 to R256): a share of a value never leaves
the interval between zero and the value, which bounds the ramp and the low-pass states alike.
-/
namespace Sys2Proof.Machine

variable {s : State} {b d n k : Nat} {v x0 : Int}

/-! ### Shares and limits -/

/-- A share `a / d` of a value that is not negative, rounded, lies between zero and the value. -/
theorem roundDiv_share {a d : Nat} (h : a ≤ d) (hd : 0 < d) (hv : 0 ≤ v) : 0 ≤ roundDiv (a * v) d ∧ roundDiv (a * v) d ≤ v := by
  have hprod : 0 ≤ a * v := mul_nonneg (by omega) hv
  have hle : a * v ≤ d * v := mul_le_mul_of_nonneg_right (by exact_mod_cast h) hv
  rw [roundDiv, if_pos hprod]
  refine ⟨Int.ediv_nonneg (by omega) (by omega), ?_⟩
  refine Int.lt_add_one_iff.1 (Int.ediv_lt_of_lt_mul (by omega) ?_)
  nlinarith

theorem roundDiv_share_neg {a d : Nat} (h : a ≤ d) (hd : 0 < d) (hv : v ≤ 0) : v ≤ roundDiv (a * v) d ∧ roundDiv (a * v) d ≤ 0 := by
  obtain ⟨hlo, hhi⟩ := roundDiv_share (v := -v) h hd (by omega)
  rw [mul_neg, roundDiv_neg] at hlo hhi
  omega

theorem clampI_mem (lo hi : Int) (h : lo ≤ hi) : lo ≤ clampI lo hi v ∧ clampI lo hi v ≤ hi := by
  unfold clampI
  split_ifs <;> omega

theorem clampI_of_mem {lo hi : Int} (h : lo ≤ v) (h' : v ≤ hi) : clampI lo hi v = v := by
  unfold clampI
  rw [if_neg (by omega), if_neg (by omega)]

theorem rampFactor_le (x : Tile) (n : Nat) : rampFactor x n ≤ 32 := by
  unfold rampFactor
  split
  · split <;> omega
  · exact le_rfl

/-- The ramp takes a value towards zero. -/
theorem ramped_mem (x : Tile) (n : Nat) {lo hi : Int} (hlo : lo ≤ 0) (hhi : 0 ≤ hi) (h : lo ≤ v) (h' : v ≤ hi) :
    lo ≤ ramped x n v ∧ ramped x n v ≤ hi := by
  unfold ramped
  split
  · exact ⟨h, h'⟩
  · rw [mul_comm]
    obtain hv | hv := le_total 0 v
    · have hshare := roundDiv_share (rampFactor_le x n) (by decide) hv
      omega
    · have hshare := roundDiv_share_neg (rampFactor_le x n) (by decide) hv
      omega

theorem ramped_zero (x : Tile) (h : rampFactor x n = 0) : ramped x n v = 0 := by
  rw [ramped, h, if_neg (by decide)]
  simp [roundDiv]

/-! ### Units of an envelope -/

theorem fetchStep_mem {r : FetchRun} {l : List FetchRun} (hr : r ∈ l) (hleft : 2 ≤ r.left) :
    { r with t := r.t + 4, left := r.left - 1, src := if r.stream then r.src else r.src + 1 } ∈ fetchStep r l := by
  refine List.mem_filter.2 ⟨List.mem_map.2 ⟨r, hr, by rw [if_pos rfl]⟩, ?_⟩
  simp only [decide_eq_true_eq]
  omega

theorem envUnit_good (h : lineBad s (aperture b + 0x100000 + 16 * k) = false) :
    envUnit b k s = (if k < envUnits b then rdBytes s (aperture b + 0x100000 + 16 * k) 16 else 0, s) := by
  simp only [envUnit, rtRead, rtTouch, h, Bool.false_eq_true, if_false]
  split <;> rfl

/-! ### DAC codes -/

theorem setTile_tileOf_modTile (g : Tile → Tile) : modTile b g s = setTile b (tileOf (modTile b g s) b) s := by
  rw [tileOf_modTile]
  rfl

theorem codes_setCodes (u : Nat) (l : List Int) : smGet [] u (tileOf (setCodes b u l s) b).codes = l := by
  rw [setCodes, tileOf_modTile]
  exact smGet_smSet_same _ _ _ _

theorem codes_saturated {irq u : Nat} {cnt stat : Fld} : (tileOf (saturated b u irq cnt stat s) b).codes = (tileOf s b).codes := by
  have hbit : tileOf (irqBit (tilePage b) irq (putF (tilePage b) stat 1 u (incSat (tilePage b) cnt u s))) b = tileOf s b :=
    tileOf_congr (by simp)
  unfold saturated
  dsimp only
  split
  · rw [hbit]
  · rw [tileOf_congr (errRec_tiles _ _ _ _ _ _ _), tileOf_modTile, hbit]

/-- The sums of a DAC in an fc, and their codes under the ramp. -/
def dacSums (s : State) (b d n : Nat) : List Int := (List.range 16).map (dacSum s b d n)

def dacCodes (s : State) (b d n : Nat) : List Int := (dacSums s b d n).map (fun c => ramped (tileOf s b) n (satDac c))

theorem mem_dacSums {c : Int} : c ∈ dacSums s b d n ↔ ∃ k < 16, dacSum s b d n k = c := by
  simp [dacSums]

theorem dacCodes_mem {c : Int} (h : c ∈ dacCodes s b d n) : -8192 ≤ c ∧ c ≤ 8191 := by
  obtain ⟨v, -, rfl⟩ := List.mem_map.1 h
  obtain ⟨hlo, hhi⟩ := clampI_mem (v := v) (-8192) 8191 (by decide)
  exact ramped_mem _ _ (by decide) (by decide) hlo hhi

theorem length_dacCodes : (dacCodes s b d n).length = 16 := by simp [dacCodes, dacSums]

theorem dacCycle_blank (h : dacBlank s b d = true) : dacCycle b n d s = setCodes b d (List.replicate 16 0) s := by
  rw [dacCycle, if_pos h]

/-- The count and the flag of a saturated DAC. -/
def dacCnt (b : Nat) : Fld := if isDrv b then DRV.DAC_SAT_CNT else RDO.PDAC_SAT_CNT

def dacFlag (b : Nat) : Fld := if isDrv b then DRV.DAC_STAT_SAT else RDO.PDAC_STAT_SAT

theorem dacCycle_inside (h : dacBlank s b d = false) (hin : ∀ k < 16, -8192 ≤ dacSum s b d n k ∧ dacSum s b d n k ≤ 8191) :
    dacCycle b n d s = setCodes b d (dacCodes s b d n) s := by
  have hany : ((List.range 16).map (dacSum s b d n)).any (fun c => decide (satDac c ≠ c)) = false := by
    refine List.any_eq_false.2 fun c hc => ?_
    obtain ⟨k, hk, rfl⟩ := mem_dacSums.1 hc
    obtain ⟨hlo, hhi⟩ := hin k hk
    simp [satDac, clampI_of_mem hlo hhi]
  simp only [dacCycle, h, hany, Bool.false_eq_true, if_false]
  rfl

theorem dacCycle_outside (hd : (b < 16 ∧ d < 2) ∨ (16 ≤ b ∧ b < 24 ∧ d = 0)) (h : dacBlank s b d = false)
    (hout : ∃ k < 16, dacSum s b d n k < -8192 ∨ 8191 < dacSum s b d n k) :
    dacCycle b n d s = saturated b d (8 + d) (dacCnt b) (dacFlag b) (setCodes b d (dacCodes s b d n) s) := by
  have hany : ((List.range 16).map (dacSum s b d n)).any (fun c => decide (satDac c ≠ c)) = true := by
    obtain ⟨k, hk, hc⟩ := hout
    refine List.any_eq_true.2 ⟨_, mem_dacSums.2 ⟨k, hk, rfl⟩, ?_⟩
    obtain ⟨hlo, hhi⟩ := clampI_mem (v := dacSum s b d n k) (-8192) 8191 (by decide)
    rw [← satDac] at hlo hhi
    simp only [decide_eq_true_eq]
    omega
  simp only [dacCycle, h, hany, Bool.false_eq_true, if_false, if_true, dacCnt, dacFlag]
  obtain ⟨hb, -⟩ | ⟨hb, -, rfl⟩ := hd
  · simp only [isDrv, hb, decide_true, if_true]
    rfl
  · simp only [isDrv, Nat.not_lt.2 hb, decide_false, Bool.false_eq_true, if_false]
    rfl

/-- The codes of a DAC in every fc. -/
theorem codes_dacCycle (hd : (b < 16 ∧ d < 2) ∨ (16 ≤ b ∧ b < 24 ∧ d = 0)) : ∃ l : List Int, smGet [] d (tileOf (dacCycle b n d s) b).codes = l
    ∧ l.length = 16 ∧ ∀ c ∈ l, -8192 ≤ c ∧ c ≤ 8191 := by
  cases hblank : dacBlank s b d
  · refine ⟨dacCodes s b d n, ?_, length_dacCodes, fun c => dacCodes_mem⟩
    by_cases hin : ∀ k < 16, -8192 ≤ dacSum s b d n k ∧ dacSum s b d n k ≤ 8191
    · rw [dacCycle_inside hblank hin, codes_setCodes]
    · push Not at hin
      obtain ⟨k, hk, hc⟩ := hin
      rw [dacCycle_outside hd hblank ⟨k, hk, by omega⟩, codes_saturated, codes_setCodes]
  · refine ⟨List.replicate 16 0, by rw [dacCycle_blank hblank, codes_setCodes], by simp, fun c hc => ?_⟩
    obtain rfl := List.eq_of_mem_replicate hc
    decide

/-- What a saturated fc shows: its count, its flag, its interrupt and the mark of the shot (R182). -/
theorem saturated_shows {u irq : Nat} {cnt stat : Fld} (hcnt : cnt.lo + cnt.w ≤ 32) (hstat : stat.lo = 0) (hw : stat.w = 1)
    (h1 : stat.addr (tilePage b) u ≠ cnt.addr (tilePage b) u) (hirq : irq < 32)
    (h2 : cnt.addr (tilePage b) u ∉ recRegs (tilePage b)) (h3 : stat.addr (tilePage b) u ∉ recRegs (tilePage b)) :
    getF (saturated b u irq cnt stat s) (tilePage b) cnt u = min (getF s (tilePage b) cnt u + 1) (2 ^ cnt.w - 1)
    ∧ isSet (saturated b u irq cnt stat s) (tilePage b) stat u = true
    ∧ irqStat (saturated b u irq cnt stat s) (tilePage b) irq = true
    ∧ bit (tileOf (saturated b u irq cnt stat s) b).satShot u = 1 := by
  have hfit : stat.lo + stat.w ≤ 32 := by omega
  have hmem : HDR.IRQ_STAT.addr (tilePage b) 0 ∈ recRegs (tilePage b) := by simp [recRegs]
  generalize hu : irqBit (tilePage b) irq (putF (tilePage b) stat 1 u (incSat (tilePage b) cnt u s)) = t
  have hc : getF t (tilePage b) cnt u = min (getF s (tilePage b) cnt u + 1) (2 ^ cnt.w - 1) := by
    rw [← hu, getF_irqBit _ _ _ _ _ _ (ne_of_mem_of_not_mem hmem h2).symm, getF_putF_reg (Ne.symm h1), getF_incSat hcnt]
  have hs : isSet t (tilePage b) stat u = true := by
    rw [← hu, isSet_irqBit_ne (ne_of_mem_of_not_mem hmem h3).symm, isSet_putF hfit, hw]
    rfl
  have hi : irqStat t (tilePage b) irq = true := by
    rw [← hu]
    exact irqStat_irqBit_same hirq
  simp only [saturated, hu]
  by_cases hshot : bit (tileOf t b).satShot u = 1
  · rw [if_pos hshot]
    exact ⟨hc, hs, hi, hshot⟩
  · rw [if_neg hshot]
    have hsame := regsSame_record (code := 0x31) (sev := 0) (unit := u) (info := shotNum t b % 2 ^ 32) (addr := 0)
      (regsSame_refl (recRegs (tilePage b)) (modTile b (fun x => { x with satShot := setBit x.satShot u }) t))
    refine ⟨(regsSame_getF hsame h2).trans hc, (regsSame_isSet hsame h3).trans hs, irqStat_errRec_of hi, ?_⟩
    rw [tileOf_congr (errRec_tiles _ _ _ _ _ _ _), tileOf_modTile, bit_setBit, if_pos rfl]

/-! ### The correction chain -/

theorem satQ424_mem (v : Int) : -(2 ^ 27) ≤ satQ424 v ∧ satQ424 v < 2 ^ 27 := by
  have h := clampI_mem (v := v) (-(2 ^ 27)) (2 ^ 27 - 1) (by decide)
  unfold satQ424
  omega

theorem satQ424_of_mem (h : -(2 ^ 27) ≤ v) (h' : v < 2 ^ 27) : satQ424 v = v := clampI_of_mem h (by omega)

/-- A section keeps its low-pass state and its output within their formats, for every coefficient (R250, R251). -/
theorem iirSection_mem {a : Nat} {q lp x : Int} (ha : a < 2 ^ 32) (hlp : -(2 ^ 43) ≤ lp ∧ lp ≤ 2 ^ 43) (hx : -(2 ^ 27) ≤ x ∧ x < 2 ^ 27) :
    (-(2 ^ 43) ≤ (iirSection a q lp x).1 ∧ (iirSection a q lp x).1 ≤ 2 ^ 43)
    ∧ (-(2 ^ 27) ≤ (iirSection a q lp x).2.1 ∧ (iirSection a q lp x).2.1 < 2 ^ 27) := by
  unfold iirSection
  split
  · dsimp only
    omega
  · refine ⟨?_, satQ424_mem _⟩
    dsimp only
    obtain hd | hd := le_total 0 (x * 2 ^ 16 - lp)
    · have hshare := roundDiv_share ha.le (by decide) hd
      omega
    · have hshare := roundDiv_share_neg ha.le (by decide) hd
      omega

theorem iirChain_mem {as : List Nat} {ks lps : List Int} {x : Int} (hlen : as.length = lps.length) (hlen' : ks.length = lps.length)
    (ha : ∀ a ∈ as, a < 2 ^ 32) (hlp : ∀ l ∈ lps, -(2 ^ 43) ≤ l ∧ l ≤ 2 ^ 43) (hx : -(2 ^ 27) ≤ x ∧ x < 2 ^ 27) :
    (iirChain as ks lps x).1.length = lps.length ∧ ∀ l ∈ (iirChain as ks lps x).1, -(2 ^ 43) ≤ l ∧ l ≤ 2 ^ 43 := by
  induction lps generalizing as ks x with
  | nil =>
    obtain rfl := List.eq_nil_of_length_eq_zero hlen
    exact ⟨rfl, fun _ h => absurd h List.not_mem_nil⟩
  | cons lp lps ih =>
    obtain ⟨a, as, rfl⟩ := List.exists_cons_of_length_eq_add_one hlen
    obtain ⟨q, ks, rfl⟩ := List.exists_cons_of_length_eq_add_one hlen'
    obtain ⟨hstate, hout⟩ := iirSection_mem (q := q) (ha a List.mem_cons_self) (hlp lp List.mem_cons_self) hx
    obtain ⟨hl, hall⟩ := ih (as := as) (ks := ks) (Nat.succ.inj hlen) (Nat.succ.inj hlen') (fun y hy => ha y (.tail _ hy))
      (fun y hy => hlp y (.tail _ hy)) hout
    refine ⟨congrArg Nat.succ hl, fun l hmem => ?_⟩
    obtain rfl | hmem := List.mem_cons.1 hmem
    · exact hstate
    · exact hall l hmem

/-- A settled section passes its input (R251). -/
theorem iirSection_settled {a : Nat} {q x : Int} (hx : -(2 ^ 27) ≤ x ∧ x < 2 ^ 27) : iirSection a q (x * 2 ^ 16) x = (x * 2 ^ 16, x, false) := by
  unfold iirSection
  split
  · rfl
  · have hzero : ∀ m : Nat, roundDiv 0 m = 0 := fun m => by
      have h := roundDiv_neg 0 m
      rw [neg_zero] at h
      omega
    simp only [sub_self, mul_zero, hzero, add_zero, satQ424_of_mem hx.1 hx.2, ne_eq, not_true_eq_false, decide_false]

theorem iirChain_settled {x : Int} (hx : -(2 ^ 27) ≤ x ∧ x < 2 ^ 27) : ∀ {as : List Nat} {ks : List Int} {m : Nat}, as.length = m →
    ks.length = m → iirChain as ks (List.replicate m (x * 2 ^ 16)) x = (List.replicate m (x * 2 ^ 16), x, false)
  | [], [], 0, _, _ => rfl
  | a :: as, q :: ks, m + 1, h, h' => by
    rw [List.replicate_succ, iirChain]
    simp only [iirSection_settled hx, iirChain_settled hx (Nat.succ.inj h) (Nat.succ.inj h'), Bool.or_self]

/-- With no coefficient every section tracks its input (R250). -/
theorem iirChain_tracks {x : Int} : ∀ {ks lps : List Int} {m : Nat}, ks.length = m → lps.length = m →
    iirChain (List.replicate m 0) ks lps x = (List.replicate m (x * 2 ^ 16), x, false)
  | [], [], 0, _, _ => rfl
  | q :: ks, lp :: lps, m + 1, h, h' => by
    rw [List.replicate_succ, iirChain]
    simp only [iirSection, if_true, iirChain_tracks (Nat.succ.inj h) (Nat.succ.inj h'), Bool.or_self, List.replicate_succ]

theorem sum_zipWith_zeros (l : List Int) (m : Nat) : (List.zipWith (fun a b => a * b) (List.replicate m 0) l).sum = 0 := by
  induction l generalizing m with
  | nil => simp
  | cons y l ih =>
    cases m with
    | zero => simp
    | succ m => simp [List.replicate_succ, ih]

/-- The FIR of one tap 1.0 passes its newest sample. -/
theorem firSum_identity (x : Int) (l : List Int) : firSum (0x4000 :: List.replicate 31 0) (x :: l) = x := by
  have hscale := roundDiv_mul x 1 (2 ^ 14) (by decide)
  have hone : roundDiv x 1 = x := by
    unfold roundDiv
    split_ifs <;> omega
  rw [firSum, List.zipWith_cons_cons, List.sum_cons, sum_zipWith_zeros, add_zero, mul_comm]
  rw [hone, one_mul] at hscale
  exact_mod_cast hscale

/-! ### Flux codes (R255) -/

theorem toSigned_mem (m : Nat) : -32768 ≤ toSigned 16 m ∧ toSigned 16 m ≤ 32767 := by
  have h : m % 2 ^ 16 < 2 ^ 16 := Nat.mod_lt _ (by decide)
  unfold toSigned
  split_ifs <;> omega

theorem fluxCode_off {y : Int} (h : chanOn s b k = false) : fluxCode s b k n y = (fluxOffs s b k, false) := by
  rw [fluxCode, if_neg (by rw [h]; exact Bool.false_ne_true)]

/-- The value under LIM and the ramp that the code of an enabled output adds to OFFS. -/
def fluxSwing (s : State) (b k n : Nat) (y : Int) : Int :=
  ramped (tileOf s b) n (clampI (-(fluxLim s b k)) (fluxLim s b k) (roundDiv (y * getB s (tilePage b) FLX.OUT_LVL_GAIN k) (2 ^ 24)))

theorem fluxCode_on {y : Int} (h : chanOn s b k = true) :
    (fluxCode s b k n y).1 = clampI (-32768) 32767 (fluxSwing s b k n y + fluxOffs s b k) := by
  rw [fluxCode, if_pos h]
  rfl

theorem fluxSwing_mem (y : Int) : -(fluxLim s b k : Int) ≤ fluxSwing s b k n y ∧ fluxSwing s b k n y ≤ fluxLim s b k := by
  obtain ⟨hlo, hhi⟩ := clampI_mem (v := roundDiv (y * getB s (tilePage b) FLX.OUT_LVL_GAIN k) (2 ^ 24)) (-(fluxLim s b k : Int))
    (fluxLim s b k) (by omega)
  exact ramped_mem _ _ (by omega) (by omega) hlo hhi

/-! ### The chain as a whole -/

section
variable {o : FOut} {on : Bool}

/-- The filter constants in use: none without CORR_EN (R250). -/
def chainCoefs (on : Bool) (o : FOut) : List Nat := if on then o.coef.a else List.replicate 4 0

theorem chainSample_lp : (chainSample on o x0).1.lp = (iirChain (chainCoefs on o) o.coef.k o.lp x0).1 := rfl

theorem chainSample_on : (chainSample true o x0).2 =
    (satQ424 (firSum o.coef.h (((iirChain o.coef.a o.coef.k o.lp x0).2.1 :: o.hist).take 32)),
      (iirChain o.coef.a o.coef.k o.lp x0).2.2
        || decide (satQ424 (firSum o.coef.h (((iirChain o.coef.a o.coef.k o.lp x0).2.1 :: o.hist).take 32))
          ≠ firSum o.coef.h (((iirChain o.coef.a o.coef.k o.lp x0).2.1 :: o.hist).take 32))) := by
  simp only [chainSample, if_true, Bool.true_and]

theorem chainSample_off : (chainSample false o x0).2 = (x0, false) := by
  simp only [chainSample, Bool.false_eq_true, if_false, Bool.false_and]

variable (ha : o.coef.a.length = 4) (hk : o.coef.k.length = 4) (hl : o.lp.length = 4)
include ha hk hl

theorem chainSample_state (hcoef : ∀ a ∈ o.coef.a, a < 2 ^ 32) (hlp : ∀ l ∈ o.lp, -(2 ^ 43) ≤ l ∧ l ≤ 2 ^ 43)
    (hx : -(2 ^ 27) ≤ x0 ∧ x0 < 2 ^ 27) :
    (chainSample on o x0).1.lp.length = 4 ∧ ∀ l ∈ (chainSample on o x0).1.lp, -(2 ^ 43) ≤ l ∧ l ≤ 2 ^ 43 := by
  have hlen : (chainCoefs on o).length = o.lp.length := by
    unfold chainCoefs
    split
    · rw [ha, hl]
    · simp [hl]
  have hsmall : ∀ a ∈ chainCoefs on o, a < 2 ^ 32 := by
    unfold chainCoefs
    split
    · exact hcoef
    · intro a hmem
      obtain rfl := List.eq_of_mem_replicate hmem
      decide
  rw [chainSample_lp, ← hl]
  exact iirChain_mem hlen (hk.trans hl.symm) hsmall hlp hx

omit ha in
theorem chainSample_lp_off : (chainSample false o x0).1.lp = List.replicate 4 (x0 * 2 ^ 16) := by
  have htrack := iirChain_tracks (x := x0) hk hl
  rw [chainSample_lp, chainCoefs, if_neg Bool.false_ne_true, htrack]

omit hl in
/-- A settled chain with the identity FIR passes its input. -/
theorem chainSample_settled (hx : -(2 ^ 27) ≤ x0 ∧ x0 < 2 ^ 27) (hset : o.lp = List.replicate 4 (x0 * 2 ^ 16))
    (hfir : o.coef.h = 0x4000 :: List.replicate 31 0) :
    (chainSample on o x0).2 = (x0, false) ∧ (chainSample on o x0).1.lp = o.lp := by
  cases on
  · refine ⟨chainSample_off, ?_⟩
    rw [chainSample_lp_off hk (by rw [hset]; simp), hset]
  · have hchain := iirChain_settled hx ha hk
    rw [chainSample_on, chainSample_lp, chainCoefs, if_pos rfl, hset, hchain, hfir, List.take_succ_cons]
    simp only [firSum_identity, satQ424_of_mem hx.1 hx.2, ne_eq, not_true_eq_false, decide_false, Bool.or_self, and_self]

end

theorem chainSample_mem {o : FOut} {on : Bool} (hx : -(2 ^ 27) ≤ x0 ∧ x0 < 2 ^ 27) :
    -(2 ^ 27) ≤ (chainSample on o x0).2.1 ∧ (chainSample on o x0).2.1 < 2 ^ 27 := by
  cases on
  · rw [chainSample_off]
    exact hx
  · rw [chainSample_on]
    exact satQ424_mem _

/-! ### The counters of a DAC -/

/-- The count and the flag of a DAC stand in registers of their own. -/
theorem dac_regs (hd : (b < 16 ∧ d < 2) ∨ (16 ≤ b ∧ b < 24 ∧ d = 0)) :
    (dacCnt b).lo + (dacCnt b).w ≤ 32 ∧ (dacCnt b).w = 32 ∧ (dacFlag b).lo = 0 ∧ (dacFlag b).w = 1
    ∧ (dacFlag b).addr (tilePage b) d ≠ (dacCnt b).addr (tilePage b) d
    ∧ (dacCnt b).addr (tilePage b) d ∉ recRegs (tilePage b) ∧ (dacFlag b).addr (tilePage b) d ∉ recRegs (tilePage b) := by
  obtain ⟨hb, hlt⟩ | ⟨hb, hb', rfl⟩ := hd
  · simp only [dacCnt, dacFlag, isDrv, hb, decide_true, if_true, recRegs, List.mem_cons, List.not_mem_nil, or_false, Fld.addr,
      DRV.DAC_SAT_CNT, DRV.DAC_STAT_SAT, HDR.ERR_CNT_TOTAL, HDR.IRQ_STAT, DMP.DUMP_STAT_FATAL_CNT, tilePage, true_and]
    omega
  · simp only [dacCnt, dacFlag, isDrv, Nat.not_lt.2 hb, decide_false, Bool.false_eq_true, if_false, recRegs, List.mem_cons,
      List.not_mem_nil, or_false, Fld.addr, RDO.PDAC_SAT_CNT, RDO.PDAC_STAT_SAT, HDR.ERR_CNT_TOTAL, HDR.IRQ_STAT,
      DMP.DUMP_STAT_FATAL_CNT, tilePage, true_and]
    omega

/-- Settles O4: each converter by its own lemmas. -/
theorem converterSamples : Obligations.ConverterSamples := by
  unfold Obligations.ConverterSamples
  refine ⟨fun s b r hb hr hgood => ?units, fun s b d n hd => ?dac, fun on o x0 ha hk hl hcoef hlp hlo hhi => ?chain,
    fun s b k n y hb hb' hk => ⟨fluxCode_off, fun hon hlo hhi => ?limit, fun hramp => ?zero⟩⟩
  case units =>
    rw [envFetch, envUnit_good hgood]
    dsimp only
    rw [tileOf_modTile]
    exact ⟨rfl, fetchStep_mem hr⟩
  case dac =>
    refine ⟨?_, fun hblank => ?_, fun hblank hout => ?_, fun hin => ?_⟩
    · obtain ⟨l, hl, hlen, hmem⟩ := codes_dacCycle (s := s) (n := n) hd
      rw [hl]
      exact ⟨hlen, hmem⟩
    · rw [dacCycle_blank hblank, codes_setCodes]
      exact ⟨rfl, setTile_tileOf_modTile _⟩
    · obtain ⟨hfit, hw, hlow, hone, hne, hcnt, hflag⟩ := dac_regs hd
      obtain ⟨h1, h2, h3, h4⟩ := saturated_shows (s := setCodes b d (dacCodes s b d n) s) (irq := 8 + d) hfit hlow hone hne
        (by omega) hcnt hflag
      rw [dacCycle_outside hd hblank hout]
      rw [hw] at h1
      exact ⟨h1, h2, h3, h4⟩
    · cases hblank : dacBlank s b d
      · rw [dacCycle_inside hblank hin]
        exact ⟨fun _ _ => rfl, setTile_tileOf_modTile _⟩
      · rw [dacCycle_blank hblank]
        exact ⟨fun _ _ => rfl, setTile_tileOf_modTile _⟩
  case chain =>
    refine ⟨chainSample_state ha hk hl hcoef hlp ⟨hlo, hhi⟩, chainSample_mem ⟨hlo, hhi⟩,
      fun hset hfir _ => chainSample_settled ha hk ⟨hlo, hhi⟩ hset hfir, fun hoff => ?_⟩
    subst hoff
    exact ⟨chainSample_off, chainSample_lp_off hk hl⟩
  case limit =>
    obtain ⟨h1, h2⟩ := fluxSwing_mem (s := s) (b := b) (k := k) (n := n) y
    rw [fluxCode_on hon, clampI_of_mem (by omega) (by omega)]
    omega
  case zero =>
    cases hon : chanOn s b k
    · rw [fluxCode_off hon]
    · obtain ⟨h1, h2⟩ := toSigned_mem (getF s (tilePage b) FLX.OUT_TRIM_OFFS k)
      rw [fluxCode_on hon, fluxSwing, ramped_zero _ hramp, zero_add]
      exact clampI_of_mem h1 h2

end Sys2Proof.Machine
end

section
/-!
PROOFS. The pattern port (19_pattern_port): what the start of a segment, the start and the end of a run leave, and the statement on
the starts, jumps and stops of a run (R469 to R477).
-/
namespace Sys2Proof.Machine

variable {s t : State} {who : Requester} {k p i v : Nat} {l : List Nat} {f : Fld}

/-! ### Accesses of the requester's own, and values in force -/

theorem rdWord_notePage (x : Nat) : rdWord (notePage (some who) p s) x = rdWord s x := by
  unfold notePage
  dsimp only
  split <;> simp

theorem getF_notePage {q j : Nat} {g : Fld} : getF (notePage (some who) p s) q g j = getF s q g j := congrArg g.of (rdWord_notePage _)

theorem isSet_notePage {q j : Nat} {g : Fld} : isSet (notePage (some who) p s) q g j = isSet s q g j := by
  simp only [isSet, getF_notePage]

theorem notePage_eq : notePage (some who) p s = { s with was := (notePage (some who) p s).was } := by
  unfold notePage
  dsimp only
  split
  · rw [noteWas_eq, noteWas_eq]
  · exact noteWas_eq _ _ _

@[simp] theorem notePage_pat : (notePage (some who) p s).pat = s.pat := by rw [notePage_eq]

theorem now_notePage : now (notePage (some who) p s) = now s := by rw [notePage_eq]; rfl

@[simp] theorem irqBit_held : (irqBit p v s).held = s.held := irqSet_held _ _ _

@[simp] theorem errRec_held {code sev unit info addr : Nat} : (errRec p code sev unit info addr s).held = s.held := by
  unfold errRec
  dsimp only
  repeat' split
  all_goals simp

theorem getB_congr {q j : Nat} {g : Fld} (hheld : t.held = s.held) (h : rdWord t (g.addr q j) = rdWord s (g.addr q j)) :
    getB t q g j = getB s q g j := by
  simp only [getB, inForce, hheld, h]

/-! ### States that differ in the run of the pattern port -/

/-- `t` is `s` but for the run of the pattern port, the register file and what records and interrupts leave. -/
def patTyped (s t : State) : Prop := typedSame { s with pat := t.pat } t

theorem patTyped_of_typedSame (h : typedSame s t) : patTyped s t := by
  have hpat : t.pat = s.pat := by rw [h]
  unfold patTyped
  rw [hpat]
  exact h

theorem patTyped_trans {u : State} (h : patTyped s t) (h' : patTyped t u) : patTyped s u := by
  unfold patTyped typedSame at *
  rw [h', h]

theorem patTyped_putF (h : patTyped s t) : patTyped s (putF p f v i t) := typedSame_putF h

theorem patTyped_irqBit (h : patTyped s t) : patTyped s (irqBit p v t) :=
  patTyped_trans h (patTyped_of_typedSame (typedSame_irqBit rfl))

theorem patTyped_errRec {code sev unit info addr : Nat} (h : patTyped s t) : patTyped s (errRec p code sev unit info addr t) :=
  patTyped_trans h (patTyped_of_typedSame (typedSame_errRec rfl))

theorem patTyped_pat {x : Pat} (h : patTyped s t) : patTyped s { t with pat := x } := patTyped_trans h rfl

theorem typedSame_noteWas {w : Option Requester} {a : Nat} (h : typedSame s t) : typedSame s (noteWas w a t) :=
  typedSame_trans h (by unfold typedSame; rw [noteWas_eq])

theorem typedSame_notePage : typedSame s (notePage (some who) p s) := by
  unfold typedSame
  rw [notePage_eq]

theorem patTyped_noteWas {w : Option Requester} {a : Nat} (h : patTyped s t) : patTyped s (noteWas w a t) :=
  patTyped_trans h (patTyped_of_typedSame (typedSame_noteWas rfl))

theorem patTyped_notePage : patTyped s (notePage (some who) p s) := patTyped_of_typedSame typedSame_notePage

theorem patTyped_patCommit (h : patTyped s t) : patTyped s (patCommit t) := by
  obtain hc | ⟨held, hc⟩ := patCommit_cases t <;> rw [hc]
  · exact h
  · exact patTyped_trans h rfl

/-! ### The end of a run -/

theorem patTyped_patEnd (h : patTyped s t) : patTyped s (patEnd t) :=
  patTyped_patCommit (patTyped_irqBit (patTyped_putF (patTyped_noteWas (patTyped_putF (patTyped_pat (patTyped_pat h))))))

theorem irqStat_patEnd (s : State) : irqStat (patEnd s) pPat 0 = true := by
  have hcommit (t : State) : irqStat (patCommit t) pPat 0 = irqStat t pPat 0 :=
    irqStat_eq_of_rdWord (regsSame_patCommit (l := [HDR.STATUS.addr pPat 0]) (by simp) (regsSame_refl _ _) _ (by decide))
  unfold patEnd
  rw [hcommit]
  exact irqStat_irqBit_same (by decide)

/-- What the end of a run leaves of the run. -/
theorem patEnd_pat (s : State) : (patEnd s).pat = { s.pat with
    vecs := [], stop := none, frozen := none, outs := s.pat.outs.filter (fun v => decide (v.pin ≤ now s)), jump := none, jsrc := 0 } := by
  simp [patEnd, setJump]

/-! ### The start of a segment (R469 to R471) -/

/-- The page shows segment `k`, with the record of a range past the memory (R469, R470). -/
def stSegShown (k : Nat) (s : State) : State :=
  if 131072 < segStart (putF pPat PAT.STATUS_SEG k 0 s) k + segLen (putF pPat PAT.STATUS_SEG k 0 s) k then
    irqBit pPat 4 (errRec pPat 0x23 0 0 k 0 (putF pPat PAT.STATUS_SEG k 0 s))
  else putF pPat PAT.STATUS_SEG k 0 s

/-- The registers that the start of a segment writes. -/
def segRegs : List Nat := HDR.STATUS.addr pPat 0 :: recRegs pPat

theorem regsSame_stSegShown : regsSame segRegs s (stSegShown k s) := by
  have hput : regsSame segRegs s (putF pPat PAT.STATUS_SEG k 0 s) := regsSame_putF (by decide) (regsSame_refl _ _)
  unfold stSegShown
  split
  · exact regsSame_irqBit (by decide) (regsSame_errRec (by decide) (by decide) (by decide) hput)
  · exact hput

theorem patTyped_stSegShown : patTyped s (stSegShown k s) := by
  have hput : patTyped s (putF pPat PAT.STATUS_SEG k 0 s) := patTyped_putF (patTyped_of_typedSame rfl)
  unfold stSegShown
  split
  · exact patTyped_irqBit (patTyped_errRec hput)
  · exact hput

@[simp] theorem stSegShown_pat : (stSegShown k s).pat = s.pat := by
  unfold stSegShown
  split <;> simp

theorem stSegShown_held : (stSegShown k s).held = s.held := by
  unfold stSegShown
  split <;> simp

/-- STATUS reads after the start of a segment as it does with the segment shown. -/
theorem getF_stSegShown {g : Fld} (hg : g.addr pPat 0 = HDR.STATUS.addr pPat 0) :
    getF (stSegShown k s) pPat g 0 = getF (putF pPat PAT.STATUS_SEG k 0 s) pPat g 0 := by
  have hstatus : HDR.STATUS.addr pPat 0 ∉ recRegs pPat := by decide
  unfold stSegShown
  split
  · exact regsSame_getF (regsSame_irqBit (by decide) (regsSame_record (regsSame_refl _ _))) (hg ▸ hstatus)
  · rfl

/-- A segment whose descriptor is on starts at `t`: the page shows it and its first vector is the next to read. -/
theorem segBegin_on (h : segOn s k = true) (n : Nat) : segBegin k n s = { stSegShown k s with pat := { s.pat with
    seg := k, pass := 0, pos := 0, pin := n, passEnd := n + patPer s * segLen s k } } := by
  have hper : patPer (stSegShown k s) = patPer s := congrArg (· + 1) (regsSame_getF regsSame_stSegShown (by decide))
  have hlen : segLen (stSegShown k s) k = segLen s k := by
    refine getB_congr stSegShown_held (regsSame_stSegShown _ ?_)
    simp only [segRegs, recRegs, Fld.addr, PAT.SEG_LEN_LEN, HDR.STATUS, HDR.ERR_CNT_TOTAL, HDR.IRQ_STAT, DMP.DUMP_STAT_FATAL_CNT, pPat, List.mem_cons, 
      List.not_mem_nil, or_false]
    omega
  rw [← hper, ← hlen, ← stSegShown_pat (k := k), segBegin, if_pos h]
  rfl

theorem segBegin_off (h : segOn s k = false) (n : Nat) : segBegin k n s = patEnd (errRec pPat 0x24 0 0 k 0 s) := by
  rw [segBegin, if_neg (by simp [h])]

/-! ### The start of a run (R475) -/

/-- The page as a run begins: the counters and JPEND are clear, RUN and TLOCK are 1 (R475). -/
def stRunBegun (s : State) : State :=
  putF pPat PAT.STATUS_JPEND 0 0 (putF pPat PAT.STATUS_TLOCK 1 0 (putF pPat HDR.STATUS_RUN 1 0
    (putF pPat PAT.JMP_CNT 0 0 (putF pPat PAT.FAIL_CNT 0 0 { s with pat :=
      { seg := 0, picot := s.pat.picot, outs := s.pat.outs, drv := s.pat.drv, pins := s.pat.pins, jreg := s.pat.jreg } }))))

/-- The segment a run begins with (R475). -/
def firstSeg (s : State) : Nat := getF s pPat PAT.PAT_CFG_FIRST

theorem regsSame_stRunBegun : regsSame [HDR.STATUS.addr pPat 0, PAT.JMP_CNT.addr pPat 0, PAT.FAIL_CNT.addr pPat 0] s (stRunBegun s) :=
  regsSame_putF (by decide) (regsSame_putF (by decide) (regsSame_putF (by decide) (regsSame_putF (by decide)
    (regsSame_putF (by decide) fun _ _ => rfl))))

theorem patTyped_stRunBegun : patTyped s (stRunBegun s) :=
  patTyped_putF (patTyped_putF (patTyped_putF (patTyped_putF (patTyped_putF (patTyped_pat (patTyped_of_typedSame rfl))))))

theorem firstSeg_stRunBegun : firstSeg (stRunBegun s) = firstSeg s := regsSame_getF regsSame_stRunBegun (by decide)

theorem patPer_stRunBegun : patPer (stRunBegun s) = patPer s :=
  congrArg (· + 1) (regsSame_getF regsSame_stRunBegun (by decide))

/-- The descriptors of the segments stand beside what the start of a run writes. -/
theorem getB_stRunBegun {g : Fld} (hg : 0x200 ≤ g.off) : getB (stRunBegun s) pPat g k = getB s pPat g k := by
  refine getB_congr rfl (regsSame_stRunBegun _ ?_)
  simp only [Fld.addr, HDR.STATUS, PAT.JMP_CNT, PAT.FAIL_CNT, List.mem_cons, List.not_mem_nil, or_false]
  omega

theorem segLen_stRunBegun : segLen (stRunBegun s) k = segLen s k := getB_stRunBegun (by decide)

theorem segOn_stRunBegun : segOn (stRunBegun s) k = segOn s k := by
  simp only [segOn, segLen_stRunBegun, getB_stRunBegun (g := PAT.SEG_CTL_EN) (by decide)]

/-- The page with its first segment shown. -/
def stFirstShown (s : State) : State := stSegShown (firstSeg s) (stRunBegun s)

/-- STATUS after the first segment is shown. -/
theorem getF_stFirstShown {g : Fld} (hg : g.addr pPat 0 = HDR.STATUS.addr pPat 0) :
    getF (stFirstShown s) pPat g 0 = getF (putF pPat PAT.STATUS_SEG (firstSeg s) 0 (stRunBegun s)) pPat g 0 := getF_stSegShown hg

theorem patRuns_stFirstShown : patRuns (stFirstShown s) = true := by
  refine isSet_eq_true.2 ((getF_stFirstShown (g := HDR.STATUS_RUN) rfl).trans ?_)
  rw [getF_putF_beside (by decide), stRunBegun, getF_putF_beside (by decide), getF_putF_beside (by decide), getF_putF _ _ _ _ _ (by decide)]
  rfl

theorem tlock_stFirstShown : isSet (stFirstShown s) pPat PAT.STATUS_TLOCK = true := by
  refine isSet_eq_true.2 ((getF_stFirstShown (g := PAT.STATUS_TLOCK) rfl).trans ?_)
  rw [getF_putF_beside (by decide), stRunBegun, getF_putF_beside (by decide), getF_putF _ _ _ _ _ (by decide)]
  rfl

theorem seg_stFirstShown : getF (stFirstShown s) pPat PAT.STATUS_SEG = firstSeg s := by
  rw [getF_stFirstShown (g := PAT.STATUS_SEG) rfl, getF_putF _ _ _ _ _ (by decide)]
  exact Nat.mod_eq_of_lt (getF_lt s pPat PAT.PAT_CFG_FIRST 0)

/-- The counters read 0 after a run has begun. -/
theorem failCnt_stFirstShown : getF (stFirstShown s) pPat PAT.FAIL_CNT = 0 := by
  rw [stFirstShown, regsSame_getF regsSame_stSegShown (by decide), stRunBegun, getF_putF_reg (by decide), getF_putF_reg (by decide),
    getF_putF_reg (by decide), getF_putF_reg (by decide), getF_putF _ _ _ _ _ (by decide)]
  rfl

theorem jmpCnt_stFirstShown : getF (stFirstShown s) pPat PAT.JMP_CNT = 0 := by
  rw [stFirstShown, regsSame_getF regsSame_stSegShown (by decide), stRunBegun, getF_putF_reg (by decide), getF_putF_reg (by decide),
    getF_putF_reg (by decide), getF_putF _ _ _ _ _ (by decide)]
  rfl

/-- The run right after its start, beside its Picot pulses (R475). -/
def runAtStart (n : Nat) (s : State) : Pat := { (stRunBegun s).pat with
  seg := firstSeg s, pass := 0, pos := 0, pin := n, passEnd := n + patPer s * segLen s (firstSeg s) }

/-- A run starts with a first segment that is on. -/
theorem patStart_on (h : segOn s (firstSeg s) = true) (n : Nat) :
    patStart n s = picotStart n { stFirstShown s with pat := runAtStart n s } := by
  have hbegin : segBegin (firstSeg s) n (stRunBegun s) = { stFirstShown s with pat := runAtStart n s } := by
    rw [segBegin_on (segOn_stRunBegun.trans h), patPer_stRunBegun, segLen_stRunBegun]
    rfl
  have hstart : patStart n s = if patRuns (segBegin (firstSeg (stRunBegun s)) n (stRunBegun s))
      then picotStart n (segBegin (firstSeg (stRunBegun s)) n (stRunBegun s))
      else segBegin (firstSeg (stRunBegun s)) n (stRunBegun s) := rfl
  have hruns : patRuns { stFirstShown s with pat := runAtStart n s } = true := patRuns_stFirstShown
  rw [hstart, firstSeg_stRunBegun, hbegin, if_pos hruns]

/-- A first segment that is off ends the run (R470). -/
theorem patStart_off (h : segOn s (firstSeg s) = false) (n : Nat) :
    patStart n s = patEnd (errRec pPat 0x24 0 0 (firstSeg s) 0 (stRunBegun s)) := by
  have hbegin : segBegin (firstSeg s) n (stRunBegun s) = patEnd (errRec pPat 0x24 0 0 (firstSeg s) 0 (stRunBegun s)) :=
    segBegin_off (segOn_stRunBegun.trans h) n
  have hstart : patStart n s = if patRuns (segBegin (firstSeg (stRunBegun s)) n (stRunBegun s))
      then picotStart n (segBegin (firstSeg (stRunBegun s)) n (stRunBegun s))
      else segBegin (firstSeg (stRunBegun s)) n (stRunBegun s) := rfl
  rw [hstart, firstSeg_stRunBegun, hbegin, patRuns_patEnd, if_neg (by decide)]

/-- The Picot pulses of a pass stand in the run alone. -/
theorem picotStart_eq (n : Nat) (t : State) :
    picotStart n t = { t with pat := { t.pat with picot := (picotStart n t).pat.picot } } := rfl

theorem patTyped_picotStart {n : Nat} (h : patTyped s t) : patTyped s (picotStart n t) := patTyped_trans h rfl

theorem patTyped_patStart (n : Nat) : patTyped s (patStart n s) := by
  cases hon : segOn s (firstSeg s) with
  | true =>
    rw [patStart_on hon]
    exact patTyped_picotStart (patTyped_pat (patTyped_trans patTyped_stRunBegun patTyped_stSegShown))
  | false =>
    rw [patStart_off hon]
    exact patTyped_patEnd (patTyped_errRec patTyped_stRunBegun)

end Sys2Proof.Machine
end

section
/-!
PROOFS. The statement on the starts, jumps and stops of a pattern run (R470 to R477).
-/
namespace Sys2Proof.Machine

variable {s t : State} {who : Requester} {k tgt src : Nat}

/-! ### GO (R475) -/

theorem patRuns_notePage : patRuns (notePage (some who) pPat s) = patRuns s := isSet_notePage

theorem patOn_notePage : patOn (notePage (some who) pPat s) = patOn s := by simp only [patOn, isSet_notePage]

theorem patSrc_notePage : patSrc (notePage (some who) pPat s) = patSrc s := by simp only [patSrc, getF_notePage]

theorem segOn_notePage : segOn (notePage (some who) pPat s) k = segOn s k := by
  have hheld : (notePage (some who) pPat s).held = s.held := by rw [notePage_eq]
  have hB (g : Fld) : getB (notePage (some who) pPat s) pPat g k = getB s pPat g k := getB_congr hheld (rdWord_notePage _)
  unfold segOn segLen
  rw [hB, hB]

theorem exec_patGo (h : busOpen s who pPat = true) : exec (.patGo who) s = .next (patGo (notePage (some who) pPat s)) :=
  congrArg Host.Outcome.next (viaBus_open h (k := .pat) rfl _ _ _ _ (fun hc => absurd hc (by decide)))

/-- The instant that START names (R475). -/
def patStartAt (s : State) : Nat := addr64 s pPat PAT.PAT_START_LO PAT.PAT_START_HI

theorem patStartAt_notePage : patStartAt (notePage (some who) pPat s) = patStartAt s := by
  simp only [patStartAt, addr64, getF_notePage]

theorem patGo_unasked (h : patOn s = false ∨ patSrc s ≠ 0) : patGo s = s := by
  unfold patGo
  obtain h | h := h <;> simp [h]

theorem patGo_running (hon : patOn s = true) (hsrc : patSrc s = 0) (hrun : patRuns s = true) : patGo s = patOver s := by
  simp [patGo, hon, hsrc, hrun]

section
variable (hon : patOn s = true) (hsrc : patSrc s = 0) (hrun : patRuns s = false)
include hon hsrc hrun

theorem patGo_asked : patGo s = if !isSet s 1 CLK.SYNC_STAT_TIME_VALID then errRec pPat 0x20 0 0 1 0 s
    else if patStartAt s < busTime s + 64 then errRec pPat 0x20 0 0 2 0 s else patStart (patStartAt s) s := by
  simp only [patGo, hon, hsrc, hrun]
  rfl

theorem patGo_noTime (h : isSet s 1 CLK.SYNC_STAT_TIME_VALID = false) : patGo s = errRec pPat 0x20 0 0 1 0 s := by
  simp [patGo_asked hon hsrc hrun, h]

theorem patGo_near (h : isSet s 1 CLK.SYNC_STAT_TIME_VALID = true) (hnear : patStartAt s < busTime s + 64) :
    patGo s = errRec pPat 0x20 0 0 2 0 s := by
  simp [patGo_asked hon hsrc hrun, h, hnear]

theorem patGo_start (h : isSet s 1 CLK.SYNC_STAT_TIME_VALID = true) (hfar : busTime s + 64 ≤ patStartAt s) :
    patGo s = patStart (patStartAt s) s := by
  simp [patGo_asked hon hsrc hrun, h, Nat.not_lt.2 hfar]

end

/-- A start that meets a run leaves OVERRUN and bit 3, and the run as it is. -/
theorem patOver_shows (hrun : patRuns s = true) : (patOver s).pat = s.pat ∧ isSet (patOver s) pPat PAT.STATUS_OVERRUN = true
    ∧ irqStat (patOver s) pPat 3 = true ∧ patRuns (patOver s) = true ∧ typedSame s (patOver s) := by
  have hset {f : Fld} (hf : f.addr pPat 0 ∉ HDR.IRQ_STAT.addr pPat 0 :: recRegs pPat) :
      isSet (patOver s) pPat f = isSet (putF pPat PAT.STATUS_OVERRUN 1 0 s) pPat f := by
    refine regsSame_isSet (regsSame_errRec (by decide) (by decide) (by decide) (regsSame_irqBit (by decide) (regsSame_refl _ _))) hf
  refine ⟨by simp [patOver], (hset (by decide)).trans (isSet_putF (by decide)), irqStat_errRec_of (irqStat_irqBit_same (by decide)), ?_,
    typedSame_errRec (typedSame_irqBit (typedSame_putF rfl))⟩
  exact ((hset (f := HDR.STATUS_RUN) (by decide)).trans (isSet_putF_beside (by decide))).trans hrun

/-! ### Jumps (R472, R473) -/

theorem jumpReq_idle (h : patRuns s = false) (f : Nat) : jumpReq tgt src f s = s := by simp [jumpReq, h]

/-- A jump to a segment that is off leaves its record, bit 2 and its count. -/
theorem jumpReq_off (hrun : patRuns s = true) (hoff : segOn s tgt = false) (f : Nat) : jumpReq tgt src f s =
    errRec pPat 0x22 0 0 (tgt + 256 * src) 0 (irqBit pPat 2 (incSat pPat PAT.JMP_CNT_BAD 0 s)) := by
  simp [jumpReq, hrun, hoff]

theorem jumpReq_first (hrun : patRuns s = true) (hon : segOn s tgt = true) (hj : s.pat.jump = none) (f : Nat) :
    jumpReq tgt src f s = setJump (some (tgt, f)) src s := by
  simp [jumpReq, hrun, hon, hj]

theorem jumpReq_held {j : Nat × Nat} (hrun : patRuns s = true) (hon : segOn s tgt = true) (hj : s.pat.jump = some j) (f : Nat) :
    jumpReq tgt src f s = if j.2 = f ∧ s.pat.jsrc < src then incSat pPat PAT.JMP_CNT_REPL 0 s
      else setJump (some (tgt, f)) src (incSat pPat PAT.JMP_CNT_REPL 0 s) := by
  simp only [jumpReq, hrun, hon, hj]
  rfl

theorem setJump_pat (j : Option (Nat × Nat)) : (setJump j src s).pat = { s.pat with jump := j, jsrc := src } := rfl

theorem patTyped_setJump {j : Option (Nat × Nat)} (h : patTyped s t) : patTyped s (setJump j src t) := patTyped_putF (patTyped_pat h)

theorem jpend_setJump (j : Nat × Nat) : isSet (setJump (some j) src s) pPat PAT.STATUS_JPEND = true := isSet_putF (by decide)

/-- What a registered jump to a segment that is on leaves: it is held, unless one of the same fc goes first (R473). -/
theorem jumpReq_on (hrun : patRuns s = true) (hon : segOn s tgt = true) :
    let u := jumpReq tgt src (now s) s
    let kept := s.pat.jump.any (fun e => e.2 = now s) && decide (s.pat.jsrc < src)
    u.pat = (if kept then s.pat else { s.pat with jump := some (tgt, now s), jsrc := src })
      ∧ (kept = false → isSet u pPat PAT.STATUS_JPEND = true)
      ∧ getF u pPat PAT.JMP_CNT_REPL = (if s.pat.jump = none then getF s pPat PAT.JMP_CNT_REPL else min (getF s pPat PAT.JMP_CNT_REPL + 1) 65535)
      ∧ regsSame [PAT.STATUS_JPEND.addr pPat 0, PAT.JMP_CNT.addr pPat 0] s u ∧ patTyped s u := by
  dsimp only
  cases hj : s.pat.jump with
  | none =>
    rw [jumpReq_first hrun hon hj]
    refine ⟨by simp [setJump_pat], fun _ => jpend_setJump _, ?_, regsSame_setJump (by decide) (regsSame_refl _ _), patTyped_setJump rfl⟩
    exact getF_putF_reg (by decide) _ _
  | some j =>
    have hcount : getF (incSat pPat PAT.JMP_CNT_REPL 0 s) pPat PAT.JMP_CNT_REPL = min (getF s pPat PAT.JMP_CNT_REPL + 1) 65535 :=
      getF_incSat (by decide) s
    have hregs : regsSame [PAT.STATUS_JPEND.addr pPat 0, PAT.JMP_CNT.addr pPat 0] s (incSat pPat PAT.JMP_CNT_REPL 0 s) :=
      regsSame_incSat (by decide) (regsSame_refl _ _)
    rw [jumpReq_held hrun hon hj]
    by_cases hkept : j.2 = now s ∧ s.pat.jsrc < src
    · simp only [if_pos hkept]
      exact ⟨by simp [hkept], by simp [hkept], by simpa using hcount, hregs, rfl⟩
    · have hkept' : ((some j).any (fun e => e.2 = now s) && decide (s.pat.jsrc < src)) = false := by simpa using hkept
      simp only [if_neg hkept, hkept']
      refine ⟨rfl, fun _ => jpend_setJump _, ?_, regsSame_setJump (by decide) hregs, patTyped_setJump rfl⟩
      exact (getF_putF_reg (f := PAT.STATUS_JPEND) (by decide) _ _).trans (hcount.trans (by simp))

theorem exec_patJump (h : busOpen s who pPat = true) : exec (.patJump who tgt) s = .next (jumpWrite tgt s) :=
  congrArg Host.Outcome.next (viaBus_open h (k := .pat) rfl _ _ _ _ (fun hc => absurd hc (by decide)))

theorem exec_patStop (h : busOpen s who pPat = true) : exec (.patStop who) s = .next (patStopEffect s) :=
  congrArg Host.Outcome.next (viaBus_open h (k := .pat) rfl _ _ _ _ (fun hc => absurd hc (by decide)))

theorem exec_patAbort (h : busOpen s who pPat = true) : exec (.patAbort who) s = .next (patAbort (notePage (some who) pPat s)) :=
  congrArg Host.Outcome.next (viaBus_open h (k := .pat) rfl _ _ _ _ (fun hc => absurd hc (by decide)))

/-! ### Edges on TRIG_IN (R472, R475, R479) -/

/-- The jump that an edge on TRIG_IN[k] asks for. -/
def edgeJump (k : Nat) (s : State) : State :=
  if patOn s && decide (bit (getF s pPat PAT.PAT_TRIG_JEN) k = 1) then
    jumpReq (getF s pPat PAT.PAT_TRIG_JTGT / 64 ^ k % 64) (1 + k) (now s) s
  else s

theorem exec_trigInEdge : exec (.trigInEdge k) s = .next
    (if patSrc (edgeJump k (raiseSrc (0x0F8 + k) s)) = 1 ∧ getF (edgeJump k (raiseSrc (0x0F8 + k) s)) pPat PAT.PAT_CFG_TSEL = k then
      patTrigger (now (edgeJump k (raiseSrc (0x0F8 + k) s))) (edgeJump k (raiseSrc (0x0F8 + k) s))
    else edgeJump k (raiseSrc (0x0F8 + k) s)) := rfl

theorem edgeJump_unasked (h : patOn s = false ∨ patRuns s = false ∨ bit (getF s pPat PAT.PAT_TRIG_JEN) k = 0) : edgeJump k s = s := by
  unfold edgeJump
  obtain h | h | h := h
  · simp [h]
  · simp [jumpReq_idle h]
  · simp [h]

theorem patOn_raiseSrc (n : Nat) : patOn (raiseSrc n s) = patOn s := rfl
theorem patRuns_raiseSrc (n : Nat) : patRuns (raiseSrc n s) = patRuns s := rfl
theorem getF_raiseSrc (n p i : Nat) (f : Fld) : getF (raiseSrc n s) p f i = getF s p f i := rfl

/-- An edge on a line that starts no run only raises its source and asks for its jump. -/
theorem exec_trigInEdge_jump (h : patSrc s ≠ 1 ∨ getF s pPat PAT.PAT_CFG_TSEL ≠ k)
    (hregs : regsSame (HDR.STATUS.addr pPat 0 :: PAT.JMP_CNT.addr pPat 0 :: HDR.IRQ_STAT.addr pPat 0 :: recRegs pPat) s
      (edgeJump k (raiseSrc (0x0F8 + k) s))) : exec (.trigInEdge k) s = .next (edgeJump k (raiseSrc (0x0F8 + k) s)) := by
  have hsrc : patSrc (edgeJump k (raiseSrc (0x0F8 + k) s)) = patSrc s := by
    unfold patSrc
    rw [regsSame_getF hregs (by decide)]
  have htsel : getF (edgeJump k (raiseSrc (0x0F8 + k) s)) pPat PAT.PAT_CFG_TSEL = getF s pPat PAT.PAT_CFG_TSEL :=
    regsSame_getF hregs (by decide)
  rw [exec_trigInEdge, hsrc, htsel, if_neg (by tauto)]

/-! ### The run as software and the pins see it -/

/-- The registered jump whose MCLK edge has come is registered alone (R472). -/
theorem registerJumps_one {e : Nat × Nat} (h : s.pat.jreg = [e]) : registerJumps s =
    if e.2 ≤ mfc s then jumpReq e.1 0 (now s) { s with pat := { s.pat with jreg := [] } } else s := by
  by_cases hdue : e.2 ≤ mfc s
  · have hlate : ¬ mfc s < e.2 := by omega
    simp [registerJumps, h, hdue, hlate, forAll]
    rfl
  · simp [registerJumps, h, hdue]

/-- What the start of a run shows, with its first vector at pin time `n` (R475). -/
theorem patStart_shows {n : Nat} (h : segOn s (firstSeg s) = true) : patRuns (patStart n s) = true
    ∧ isSet (patStart n s) pPat PAT.STATUS_TLOCK = true ∧ getF (patStart n s) pPat PAT.STATUS_SEG = firstSeg s
    ∧ getF (patStart n s) pPat PAT.FAIL_CNT = 0 ∧ getF (patStart n s) pPat PAT.JMP_CNT = 0 := by
  rw [patStart_on h]
  exact ⟨patRuns_stFirstShown, tlock_stFirstShown, seg_stFirstShown, failCnt_stFirstShown, jmpCnt_stFirstShown⟩

/-- Where the run stands after its start. -/
theorem patStart_pat {n : Nat} (h : segOn s (firstSeg s) = true) : (patStart n s).pat =
    { runAtStart n s with picot := (patStart n s).pat.picot } := by
  rw [patStart_on h]
  rfl

/-- Settles O50: GO, edges, jumps and stops each come down to the operation of the run they ask for (`patGo`, `patStart`,
`jumpReq`, `patAbort`), whose effect the lemmas above give. -/
theorem patternRuns : Obligations.PatternRuns := by
  intro s who
  refine ⟨?unasked, ?running, ?go, ?edge, ?edgeStart, ?edgeJump, ?jump, ?request, ?register, ?stops, ?pulse⟩
  case unasked =>
    intro hopen h
    rw [exec_patGo hopen, patGo_unasked (by rwa [patOn_notePage, patSrc_notePage])]
  case running =>
    intro hopen hon hsrc hrun
    have hrun' := patRuns_notePage (who := who).trans hrun
    obtain ⟨hpat, hover, hirq, hruns, htyped⟩ := patOver_shows hrun'
    refine ⟨_, exec_patGo hopen, ?_⟩
    rw [patGo_running (patOn_notePage.trans hon) (patSrc_notePage.trans hsrc) hrun']
    exact ⟨hpat.trans notePage_pat, hover, hirq, hruns, typedSame_trans typedSame_notePage htyped⟩
  case go =>
    intro hopen hon hsrc hrun
    have hon' := patOn_notePage (who := who).trans hon
    have hsrc' := patSrc_notePage (who := who).trans hsrc
    have hrun' := patRuns_notePage (who := who).trans hrun
    have hbus : busTime (notePage (some who) pPat s) = busTime s := by simp only [busTime, now_notePage]
    have hfirst : firstSeg (notePage (some who) pPat s) = firstSeg s := getF_notePage
    refine ⟨fun htime => ?noTime, fun htime hnear => ?near, fun htime hfar => ?start⟩
    case noTime => rw [exec_patGo hopen, patGo_noTime hon' hsrc' hrun' (isSet_notePage.trans htime)]
    case near =>
      rw [exec_patGo hopen, patGo_near hon' hsrc' hrun' (isSet_notePage.trans htime)]
      rwa [patStartAt_notePage, hbus]
    case start =>
      have hgo : exec (.patGo who) s = .next (patStart (patStartAt s) (notePage (some who) pPat s)) := by
        rw [exec_patGo hopen, patGo_start hon' hsrc' hrun' (isSet_notePage.trans htime), patStartAt_notePage]
        rwa [patStartAt_notePage, hbus]
      have htyped := patTyped_trans (patTyped_notePage (s := s) (who := who) (p := pPat)) (patTyped_patStart (patStartAt s))
      refine ⟨fun hseg => ?on, fun hseg => ?off⟩
      case on =>
        have hseg' : segOn (notePage (some who) pPat s) (firstSeg (notePage (some who) pPat s)) = true := by
          rwa [hfirst, segOn_notePage]
        obtain ⟨hruns, htlock, hshown, hfail, hjmp⟩ := patStart_shows (n := patStartAt s) hseg'
        refine ⟨_, hgo, hruns, htlock, hshown.trans hfirst, hfail, hjmp, ?_⟩
        have hper : patPer (notePage (some who) pPat s) = patPer s := congrArg (· + 1) getF_notePage
        have hlen : segLen (notePage (some who) pPat s) (firstSeg s) = segLen s (firstSeg s) :=
          getB_congr (by rw [notePage_eq]) (rdWord_notePage _)
        have hpat := patStart_pat (n := patStartAt s) hseg'
        rw [runAtStart, hfirst, hper, hlen] at hpat
        refine ⟨?_, ?_, ?_, ?_, ?_, ?_, ?_, htyped⟩ <;> rw [hpat] <;> rfl
      case off =>
        refine ⟨_, hgo, ?_, ?_, htyped⟩ <;> rw [patStart_off (by rwa [hfirst, segOn_notePage])]
        · exact patRuns_patEnd _
        · exact irqStat_patEnd _
  case edge =>
    intro k _ h
    have hidle : edgeJump k (raiseSrc (0x0F8 + k) s) = raiseSrc (0x0F8 + k) s :=
      edgeJump_unasked (by obtain h | ⟨_, h | h⟩ := h; exacts [.inl h, .inr (.inl h), .inr (.inr h)])
    obtain h | ⟨h, _⟩ := h
    · refine ⟨_, exec_trigInEdge, ?_⟩
      have hoff : patTrigger (now s) (raiseSrc (0x0F8 + k) s) = raiseSrc (0x0F8 + k) s :=
        if_pos (by rw [patOn_raiseSrc, h]; rfl)
      rw [hidle]
      split
      · exact hoff
      · rfl
    · exact ⟨_, exec_trigInEdge_jump h (by rw [hidle]; exact fun _ _ => rfl), hidle⟩
  case edgeStart =>
    intro k _ h hseg
    simp only [Bool.and_eq_true, Bool.not_eq_true', decide_eq_true_eq] at h
    obtain ⟨⟨⟨hon, hsrc⟩, htsel⟩, hrun⟩ := h
    have hidle : edgeJump k (raiseSrc (0x0F8 + k) s) = raiseSrc (0x0F8 + k) s := edgeJump_unasked (.inr (.inl hrun))
    have hstart : exec (.trigInEdge k) s = .next (patStart (now s + 16) (raiseSrc (0x0F8 + k) s)) := by
      rw [exec_trigInEdge, hidle, if_pos ⟨hsrc, htsel⟩, patTrigger, if_neg (by rw [patOn_raiseSrc, hon]; decide),
        if_neg (by rw [patRuns_raiseSrc, hrun]; decide)]
      rfl
    have hseg' : segOn (raiseSrc (0x0F8 + k) s) (firstSeg (raiseSrc (0x0F8 + k) s)) = true := hseg
    have htyped : patTyped (raiseSrc (0x0F8 + k) s) (patStart (now s + 16) (raiseSrc (0x0F8 + k) s)) := patTyped_patStart _
    refine ⟨_, hstart, (patStart_shows hseg').1, ?_, ?_, ?_⟩
    · rw [patStart_pat hseg']; rfl
    · rw [patStart_pat hseg']; rfl
    · rw [htyped]; rfl
  case edgeJump =>
    intro k _ h hsrc hseg hnone
    simp only [Bool.and_eq_true, decide_eq_true_eq] at h
    obtain ⟨⟨hon, hrun⟩, hjen⟩ := h
    have hjump : edgeJump k (raiseSrc (0x0F8 + k) s)
        = setJump (some (getF s pPat PAT.PAT_TRIG_JTGT / 64 ^ k % 64, now s)) (1 + k) (raiseSrc (0x0F8 + k) s) := by
      rw [edgeJump, patOn_raiseSrc, getF_raiseSrc, getF_raiseSrc, if_pos (by simp [hon, hjen])]
      exact jumpReq_first (s := raiseSrc (0x0F8 + k) s) hrun hseg hnone _
    refine ⟨_, (exec_trigInEdge_jump hsrc ?_).trans (congrArg Host.Outcome.next hjump), rfl, jpend_setJump _⟩
    rw [hjump]
    exact regsSame_setJump (by decide) fun _ _ => rfl
  case jump =>
    intro tgt _ hopen
    rw [exec_patJump hopen]
    exact ⟨fun hrun => by rw [jumpWrite, if_neg (by simp [hrun])], fun hrun => by rw [jumpWrite, if_pos hrun]⟩
  case request =>
    intro tgt _ src _
    refine ⟨fun hrun hoff => ?off, fun hrun hon => jumpReq_on hrun hon⟩
    rw [jumpReq_off hrun hoff]
    refine ⟨by simp, irqStat_errRec_of (irqStat_irqBit_same (by decide)), ?_⟩
    rw [getF_errRec _ _ _ _ _ _ _ _ _ _ (by decide) (by decide) (by decide), getF_irqBit _ _ _ _ _ _ (by decide)]
    exact getF_incSat (by decide) s
  case register =>
    intro e he
    rw [registerJumps_one he]
    exact ⟨fun h => if_pos h, fun h => if_neg (by omega)⟩
  case stops =>
    intro hopen
    rw [exec_patStop hopen, exec_patAbort hopen]
    refine ⟨fun hrun hnone => ?first, fun h => ?again, fun hrun => ?abort, fun hrun => ?idle⟩
    case first => exact ⟨_, rfl, if_pos (by simp [hrun, hnone])⟩
    case again =>
      rw [patStopEffect, if_neg]
      obtain h | h := h <;> simp [h]
    case abort =>
      have hend : patAbort (notePage (some who) pPat s) = patEnd (notePage (some who) pPat s) := if_pos (patRuns_notePage.trans hrun)
      rw [hend]
      refine ⟨_, rfl, patRuns_patEnd _, irqStat_patEnd _, ?_, patEnd_jump _, patEnd_jpend _, patTyped_patEnd patTyped_notePage⟩
      rw [patEnd_pat]
    case idle =>
      rw [patAbort, if_neg (by simp [patRuns_notePage, hrun])]
  case pulse =>
    intro k
    refine ⟨fun h => ?_, fun h => ?_⟩
    · exact congrArg Host.Outcome.next (if_neg (by simp [h]))
    · exact congrArg Host.Outcome.next (if_pos (Option.isSome_iff_ne_none.2 h))

end Sys2Proof.Machine
end

section
/-!
PROOFS. The statement on the vectors of a pattern run, their compares and the ends of passes (R466 to R476).
-/
namespace Sys2Proof.Machine

variable {s t : State} {k n : Nat}

/-! ### The fetch of a vector (R466, R470) -/

/-- What reading a vector does to the state, and what it gives. -/
def vecTouched (v : Nat) (s : State) : State := if v < 131072 then rtTouch (vecAddr v) s else s

def vecData (v : Nat) (s : State) : Nat := if v < 131072 then rtRead s (vecAddr v) 16 else 0

theorem lineOnly_vecTouched (v : Nat) : LineOnly s (vecTouched v s) := LineOnly.ite (LineOnly.rtTouch (.refl s)) (.refl s)

theorem vecTouched_good {v : Nat} (h : 131072 ≤ v ∨ lineBad s (0x10000000 + 16 * v) = false) : vecTouched v s = s := by
  unfold vecTouched
  split
  case isTrue hv =>
    have hbad : lineBad s (vecAddr v) = false := h.resolve_left (by omega)
    rw [rtTouch, hbad, if_neg (by decide)]
  case isFalse => rfl

theorem vecData_eq (v : Nat) : vecData v s = if v < 131072 ∧ lineBad s (0x10000000 + 16 * v) = false then rdBytes s (0x10000000 + 16 * v) 16
    else 0 := by
  have haddr : vecAddr v = 0x10000000 + 16 * v := rfl
  by_cases hv : v < 131072 <;> cases hbad : lineBad s (0x10000000 + 16 * v) <;> simp [vecData, rtRead, haddr, hv, hbad]

/-- The vector that the run reads next. -/
def nextVec (s : State) : PatVec :=
  { idx := segStart s s.pat.seg + s.pat.pos, seg := s.pat.seg, pass := s.pat.pass, pin := s.pat.pin
    data := vecData (segStart s s.pat.seg + s.pat.pos) s }

theorem exec_vectorFetch_early (h : patRuns s = false ∨ s.pat.frozen ≠ none ∨ segLen s s.pat.seg ≤ s.pat.pos ∨ now s + 12 < s.pat.pin) :
    exec .vectorFetch s = .next s := by
  have hearly : (!patRuns s || s.pat.frozen.isSome || decide (segLen s s.pat.seg ≤ s.pat.pos) || decide (now s + 12 < s.pat.pin)) = true := by
    obtain h | h | h | h := h
    · simp [h]
    · simp [Option.isSome_iff_ne_none.2 h]
    · simp [h]
    · simp [h]
  exact if_pos hearly

theorem exec_vectorFetch_due (hrun : patRuns s = true) (hfrozen : s.pat.frozen = none) (hpos : s.pat.pos < segLen s s.pat.seg)
    (hdue : s.pat.pin ≤ now s + 12) : exec .vectorFetch s = .next { vecTouched (nextVec s).idx s with pat := { s.pat with
      pos := s.pat.pos + 1, pin := s.pat.pin + patPer s, vecs := s.pat.vecs ++ [nextVec s], outs := s.pat.outs ++ [nextVec s] } } := by
  have hline : LineOnly s (vecTouched (nextVec s).idx s) := lineOnly_vecTouched _
  have hper : patPer (vecTouched (nextVec s).idx s) = patPer s :=
    congrArg (· + 1) (hline.getF (f := PAT.PAT_CFG_VPER) (by unfold lineReg; decide))
  have hpat : (vecTouched (nextVec s).idx s).pat = s.pat := by rw [hline.typed]
  have hlate : (!patRuns s || s.pat.frozen.isSome || decide (segLen s s.pat.seg ≤ s.pat.pos) || decide (now s + 12 < s.pat.pin)) = false := by
    simp [hrun, hfrozen, Nat.not_le.2 hpos, Nat.not_lt.2 hdue]
  have hexec : exec .vectorFetch s = .next { vecTouched (nextVec s).idx s with pat := { (vecTouched (nextVec s).idx s).pat with
      pos := s.pat.pos + 1, pin := s.pat.pin + patPer (vecTouched (nextVec s).idx s)
      vecs := (vecTouched (nextVec s).idx s).pat.vecs ++ [nextVec s], outs := (vecTouched (nextVec s).idx s).pat.outs ++ [nextVec s] } } :=
    if_neg (by rw [hlate]; decide)
  rw [hexec, hper, hpat]

/-! ### The pins that fail (R465, R468) -/

/-- Bit `n` of a mask gathered from a list of bit numbers. -/
theorem bit_foldl_setBit (c : Nat → Prop) [DecidablePred c] (l : List Nat) (m n : Nat) :
    bit (l.foldl (fun m k => if c k then setBit m k else m) m) n = if n ∈ l ∧ c n then 1 else bit m n := by
  induction l generalizing m with
  | nil => simp
  | cons x l ih =>
    rw [List.foldl_cons, ih]
    by_cases hin : n ∈ l ∧ c n
    · rw [if_pos hin, if_pos ⟨List.mem_cons_of_mem _ hin.1, hin.2⟩]
    · rw [if_neg hin]
      by_cases hx : n = x ∧ c n
      · obtain ⟨rfl, hc⟩ := hx
        rw [if_pos hc, bit_setBit, if_pos rfl, if_pos ⟨List.mem_cons_self, hc⟩]
      · have hno : ¬ (n ∈ x :: l ∧ c n) := fun h => (List.mem_cons.1 h.1).elim (fun e => hx ⟨e, h.2⟩) (fun e => hin ⟨e, h.2⟩)
        rw [if_neg hno]
        split
        case isTrue hcx => rw [bit_setBit, if_neg (fun e => hx ⟨e, e ▸ hcx⟩)]
        case isFalse => rfl

/-- Pin `n` fails: it is high where the vector expects low, or low where it expects high. -/
def pinFails (data levels n : Nat) : Bool :=
  (decide (mwBits data (4 * n + 2) 2 = 1) && decide (bit levels n = 1))
    || (decide (mwBits data (4 * n + 2) 2 = 2) && decide (bit levels n = 0))

theorem bit_failPins (data levels n : Nat) : bit (failPins data levels) n = if n < 32 ∧ pinFails data levels n = true then 1 else 0 := by
  have hzero : bit 0 n = 0 := by simp [bit]
  have hfold := bit_foldl_setBit (fun k => (mwBits data (4 * k + 2) 2 = 1 ∧ bit levels k = 1)
    ∨ (mwBits data (4 * k + 2) 2 = 2 ∧ bit levels k = 0)) (List.range 32) 0 n
  rw [hzero] at hfold
  refine hfold.trans ?_
  simp [pinFails]

theorem failPins_lt (data levels : Nat) : failPins data levels < 2 ^ 32 := by
  refine lt_two_pow_of_bit fun j hj => ?_
  rw [bit_failPins, if_neg fun h => by omega]

/-! ### The compare of a vector (R468, R476) -/

/-- The oldest vector is past its compare. -/
def vecPassed (s : State) : State := { s with pat := { s.pat with vecs := s.pat.vecs.tail } }

theorem exec_vectorCompare_due {levels : Nat} {v : PatVec} (hrun : patRuns s = true) (hfrozen : s.pat.frozen = none)
    (hv : s.pat.vecs.head? = some v) (hdue : v.pin + getB s pPat PAT.PAT_STROBE_CMP_OFS ≤ now s) : exec (.vectorCompare levels) s = .next
      (if failPins v.data levels = 0 then vecPassed s else vectorFail v (failPins v.data levels) (vecPassed s)) := by
  obtain ⟨vs, hvs⟩ := List.head?_eq_some_iff.1 hv
  have hexec : exec (.vectorCompare levels) s = execVectorCompare levels s := rfl
  rw [hexec, execVectorCompare, vecPassed, hvs]
  simp only [hrun, hfrozen, Nat.not_lt.2 hdue]
  rfl

theorem exec_vectorCompare_early {levels : Nat} (h : patRuns s = false ∨ s.pat.frozen ≠ none ∨ s.pat.vecs = []
    ∨ s.pat.vecs.head?.any (fun v => decide (now s < v.pin + getB s pPat PAT.PAT_STROBE_CMP_OFS)) = true) :
    exec (.vectorCompare levels) s = .next s := by
  have hexec : exec (.vectorCompare levels) s = execVectorCompare levels s := rfl
  rw [hexec, execVectorCompare]
  cases hvs : s.pat.vecs with
  | nil => rfl
  | cons v vs =>
    refine if_pos ?_
    rw [hvs] at h
    obtain h | h | h | h := h
    · simp [h]
    · simp [Option.isSome_iff_ne_none.2 h]
    · simp at h
    · have hlate : decide (now s < v.pin + getB s pPat PAT.PAT_STROBE_CMP_OFS) = true := h
      simp [hlate]

/-- A failing vector counts, and its pins are collected. -/
def stFailCounted (pins : Nat) (s : State) : State :=
  raiseSrc 0x0F0 (putF pPat PAT.FAIL_PINS (getF s pPat PAT.FAIL_PINS ||| pins) 0 (incSat pPat PAT.FAIL_CNT 0 s))

/-- The place and time of the first failing vector of a run. -/
def stFirstFail (v : PatVec) (s : State) : State :=
  putF pPat PAT.FAIL_TIME v.pin 0 (putF pPat PAT.FAIL_TIME_HI_T_H (v.pin / 2 ^ 32) 0 (putF pPat PAT.FAIL_TIME_HI_PASS v.pass 0
    (putF pPat PAT.FAIL_FIRST_VEC v.idx 0 (putF pPat PAT.FAIL_FIRST_SEG v.seg 0 { s with pat := { s.pat with failed := true } }))))

theorem vectorFail_again {v : PatVec} {pins : Nat} (h : s.pat.failed = true) : vectorFail v pins s = stFailCounted pins s := by
  have hpins : getF (incSat pPat PAT.FAIL_CNT 0 s) pPat PAT.FAIL_PINS = getF s pPat PAT.FAIL_PINS := getF_putF_reg (by decide) _ _
  simp only [vectorFail, h, hpins]
  rfl

/-- The first failure, with its record. -/
def stFailShown (v : PatVec) (pins : Nat) (s : State) : State :=
  errRec pPat 0x25 0 0 (v.idx % 2 ^ 17 + 2 ^ 24 * v.seg) 0 (irqBit pPat 1 (stFirstFail v (stFailCounted pins s)))

theorem vectorFail_first {v : PatVec} {pins : Nat} (h : s.pat.failed = false) : vectorFail v pins s =
    if getB (stFailShown v pins s) pPat PAT.PAT_CFG_STOP_FAIL = 1 then patEnd (stFailShown v pins s) else stFailShown v pins s := by
  have hpins : getF (incSat pPat PAT.FAIL_CNT 0 s) pPat PAT.FAIL_PINS = getF s pPat PAT.FAIL_PINS := getF_putF_reg (by decide) _ _
  unfold vectorFail
  dsimp only
  rw [hpins, if_neg (by simp [h])]
  unfold stFailShown stFirstFail stFailCounted
  with_reducible rfl

theorem stFailCounted_shows {pins : Nat} (h : pins < 2 ^ 32) :
    getF (stFailCounted pins s) pPat PAT.FAIL_CNT = min (getF s pPat PAT.FAIL_CNT + 1) (2 ^ 32 - 1)
      ∧ getF (stFailCounted pins s) pPat PAT.FAIL_PINS = (getF s pPat PAT.FAIL_PINS ||| pins) := by
  refine ⟨?_, ?_⟩ <;> rw [stFailCounted, getF_raiseSrc]
  · rw [getF_putF_reg (by decide)]
    exact getF_incSat (f := PAT.FAIL_CNT) (by decide) s
  · rw [getF_putF _ _ _ _ _ (by decide)]
    refine Nat.mod_eq_of_lt ?_
    exact Nat.or_lt_two_pow (getF_lt s pPat PAT.FAIL_PINS 0) h

theorem regsSame_raiseSrc {l : List Nat} (h : regsSame l s t) : regsSame l s (raiseSrc n t) := h

theorem regsSame_stFailCounted {pins : Nat} : regsSame [PAT.FAIL_CNT.addr pPat 0, PAT.FAIL_PINS.addr pPat 0] s (stFailCounted pins s) := by
  unfold stFailCounted
  exact regsSame_raiseSrc (regsSame_putF (f := PAT.FAIL_PINS) (by decide) (regsSame_incSat (by decide) (regsSame_refl _ _)))

/-- The registers of the first failure are read past its record. -/
theorem getF_stFailShown {v : PatVec} {pins : Nat} {g : Fld} (hg : g.addr pPat 0 ∉ HDR.IRQ_STAT.addr pPat 0 :: recRegs pPat) :
    getF (stFailShown v pins s) pPat g 0 = getF (stFirstFail v (stFailCounted pins s)) pPat g 0 :=
  regsSame_getF (regsSame_errRec (by decide) (by decide) (by decide) (regsSame_irqBit (by decide) (regsSame_refl _ _))) hg

/-- The registers that a first failure writes. -/
def failRegs : List Nat := HDR.IRQ_STAT.addr pPat 0 :: PAT.FAIL_TIME.addr pPat 0 :: PAT.FAIL_TIME_HI.addr pPat 0 :: PAT.FAIL_FIRST.addr pPat 0
  :: PAT.FAIL_CNT.addr pPat 0 :: PAT.FAIL_PINS.addr pPat 0 :: recRegs pPat

theorem regsSame_stFailShown {v : PatVec} {pins : Nat} : regsSame failRegs s (stFailShown v pins s) := by
  have hcounted : regsSame failRegs s (stFailCounted pins s) := regsSame_mono (by decide) regsSame_stFailCounted
  refine regsSame_errRec (by decide) (by decide) (by decide) (regsSame_irqBit (by decide) ?_)
  exact regsSame_putF (by decide) (regsSame_putF (by decide) (regsSame_putF (by decide) (regsSame_putF (by decide)
    (regsSame_putF (by decide) hcounted))))

/-- Place and time of the first failure as the page shows them. -/
theorem stFailShown_shows {v : PatVec} {pins : Nat} :
    getF (stFailShown v pins s) pPat PAT.FAIL_FIRST_VEC = v.idx % 2 ^ PAT.FAIL_FIRST_VEC.w
      ∧ getF (stFailShown v pins s) pPat PAT.FAIL_FIRST_SEG = v.seg % 2 ^ PAT.FAIL_FIRST_SEG.w
      ∧ getF (stFailShown v pins s) pPat PAT.FAIL_TIME = v.pin % 2 ^ 32 := by
  refine ⟨(getF_stFailShown (by decide)).trans ?_, (getF_stFailShown (by decide)).trans ?_, (getF_stFailShown (by decide)).trans ?_⟩
    <;> rw [stFirstFail]
  · rw [getF_putF_reg (by decide), getF_putF_reg (by decide), getF_putF_reg (by decide), getF_putF _ _ _ _ _ (by decide)]
  · rw [getF_putF_reg (by decide), getF_putF_reg (by decide), getF_putF_reg (by decide), getF_putF_beside (by decide),
      getF_putF _ _ _ _ _ (by decide)]
  · exact getF_putF _ PAT.FAIL_TIME _ _ _ (by decide)

theorem irqStat_patEnd_of {i : Nat} (h : irqStat s pPat i = true) : irqStat (patEnd s) pPat i = true := by
  have hcommit (t : State) : irqStat (patCommit t) pPat i = irqStat t pPat i :=
    irqStat_eq_of_rdWord (regsSame_patCommit (l := [HDR.STATUS.addr pPat 0]) (by simp) (regsSame_refl _ _) _ (by decide))
  unfold patEnd
  rw [hcommit]
  refine irqStat_irqBit_of ((irqStat_eq_of_rdWord (regsSame_putF (l := [HDR.STATUS.addr pPat 0]) (by decide) ?_ _ (by decide))).trans h)
  exact regsSame_noteWas (regsSame_setJump (by simp) fun _ _ => rfl)

/-- What the first failure of a run leaves, and the end of the run that STOP_FAIL asks for. -/
theorem vectorFail_first_shows {v : PatVec} {pins : Nat} :
    let t := if getB (stFailShown v pins (vecPassed s)) pPat PAT.PAT_CFG_STOP_FAIL = 1 then patEnd (stFailShown v pins (vecPassed s))
      else stFailShown v pins (vecPassed s)
    patRuns s = true → t.pat.failed = true
      ∧ getF t pPat PAT.FAIL_FIRST_VEC = v.idx % 2 ^ PAT.FAIL_FIRST_VEC.w ∧ getF t pPat PAT.FAIL_FIRST_SEG = v.seg % 2 ^ PAT.FAIL_FIRST_SEG.w
      ∧ getF t pPat PAT.FAIL_TIME = v.pin % 2 ^ 32 ∧ irqStat t pPat 1 = true
      ∧ patRuns t = decide (getB s pPat PAT.PAT_CFG_STOP_FAIL ≠ 1) := by
  intro t hrun
  have hregs : regsSame failRegs s (stFailShown v pins (vecPassed s)) := regsSame_stFailShown (s := vecPassed s)
  have hstop : getB (stFailShown v pins (vecPassed s)) pPat PAT.PAT_CFG_STOP_FAIL = getB s pPat PAT.PAT_CFG_STOP_FAIL :=
    getB_congr (by simp [stFailShown, stFirstFail, stFailCounted, vecPassed]) (hregs _ (by decide))
  have hfailed : (stFailShown v pins (vecPassed s)).pat.failed = true := by simp [stFailShown, stFirstFail]
  have hirq : irqStat (stFailShown v pins (vecPassed s)) pPat 1 = true := irqStat_errRec_of (irqStat_irqBit_same (by decide))
  have hruns : patRuns (stFailShown v pins (vecPassed s)) = true := (regsSame_isSet hregs (by decide)).trans hrun
  obtain ⟨hvec, hseg, htime⟩ := stFailShown_shows (s := vecPassed s) (v := v) (pins := pins)
  by_cases h : getB s pPat PAT.PAT_CFG_STOP_FAIL = 1
  · have ht : t = patEnd (stFailShown v pins (vecPassed s)) := if_pos (hstop.trans h)
    have hend {g : Fld} (hg : g.addr pPat 0 ∉ [HDR.STATUS.addr pPat 0, HDR.IRQ_STAT.addr pPat 0]) :
        getF t pPat g = getF (stFailShown v pins (vecPassed s)) pPat g := by
      rw [ht]
      exact regsSame_getF (regsSame_patEnd _) hg
    refine ⟨?_, (hend (by decide)).trans hvec, (hend (by decide)).trans hseg, (hend (by decide)).trans htime, ?_, ?_⟩ <;> rw [ht]
    · rw [patEnd_pat]; exact hfailed
    · exact irqStat_patEnd_of hirq
    · simp [h]
  · have ht : t = stFailShown v pins (vecPassed s) := if_neg (hstop ▸ h)
    rw [ht]
    exact ⟨hfailed, hvec, hseg, htime, hirq, by simp [h, hruns]⟩

/-! ### The end of a pass (R469, R473, R474, R476) -/

/-- The pass that ends is the last of its segment. -/
def lastPass (s : State) : Bool := decide (getB s pPat PAT.SEG_CTL_REPEAT s.pat.seg ≤ s.pat.pass)

/-- The run stops at the boundary. -/
def passStops (s : State) : Bool :=
  s.pat.stop.any (fun f => decide (f < s.pat.passEnd)) || (lastPass s && decide (getB s pPat PAT.SEG_CTL_END s.pat.seg = 1))

/-- The jump held for the boundary. -/
def passJump (s : State) : Option (Nat × Nat) := s.pat.jump.filter (fun e => decide (e.2 < s.pat.passEnd))

/-- A segment begins at the boundary, with its Picot pulses. -/
def segEntered (k t : Nat) (s : State) : State := if patRuns (segBegin k t s) then picotStart t (segBegin k t s) else segBegin k t s

/-- The next pass of the same segment. -/
def passAgain (s u : State) : State :=
  picotStart s.pat.passEnd { u with pat := { u.pat with
    pass := u.pat.pass + 1, pos := 0, pin := s.pat.passEnd, passEnd := s.pat.passEnd + patPer u * segLen u s.pat.seg } }

theorem passEnd_eq : passEnd s = if passStops s then patEnd (if s.pat.jump.isSome then incSat pPat PAT.JMP_CNT_REPL 0 s else s)
    else match passJump s with
      | some (k, _) => segEntered k s.pat.passEnd (setJump none 0 (patCommit s))
      | none => if lastPass s then segEntered (getB s pPat PAT.SEG_CTL_NEXT s.pat.seg) s.pat.passEnd (patCommit s)
          else passAgain s (patCommit s) := by
  have hstop : (s.pat.stop.map (fun f => decide (f < s.pat.passEnd))).getD false = s.pat.stop.any (fun f => decide (f < s.pat.passEnd)) := by
    cases s.pat.stop <;> rfl
  rw [passEnd, hstop]
  rfl

theorem patRuns_patCommit : patRuns (patCommit s) = patRuns s := by
  unfold patRuns isSet
  rw [getF_patCommit_beside (by decide)]

theorem patRuns_setJump (j : Option (Nat × Nat)) : patRuns (setJump j k s) = patRuns s := isSet_putF_beside (by decide)

theorem patRuns_stSegShown : patRuns (stSegShown k s) = patRuns s := by
  unfold patRuns isSet
  rw [getF_stSegShown (g := HDR.STATUS_RUN) rfl, getF_putF_beside (by decide)]

/-- The segment that begins at the boundary of a run, its descriptor on: the run goes on with its first pass. -/
theorem segEntered_on (hrun : patRuns s = true) (h : segOn s k = true) (t : Nat) : segEntered k t s =
    picotStart t { stSegShown k s with pat := { s.pat with seg := k, pass := 0, pos := 0, pin := t, passEnd := t + patPer s * segLen s k } } := by
  have hruns : patRuns (segBegin k t s) = true := by
    rw [segBegin_on h]
    exact patRuns_stSegShown.trans hrun
  rw [segEntered, if_pos hruns, segBegin_on h]

theorem segEntered_off (h : segOn s k = false) (t : Nat) : segEntered k t s = patEnd (errRec pPat 0x24 0 0 k 0 s) := by
  rw [segEntered, segBegin_off h, if_neg (by simp)]

theorem segOn_setJump (j : Option (Nat × Nat)) : segOn (setJump j n s) k = segOn s k := by
  have hB {g : Fld} (hg : 0x200 ≤ g.off) : getB (setJump j n s) pPat g k = getB s pPat g k := by
    refine getB_congr rfl (regsSame_setJump (l := [HDR.STATUS.addr pPat 0]) (by simp) (regsSame_refl _ _) _ ?_)
    simp only [Fld.addr, HDR.STATUS, List.mem_cons, List.not_mem_nil, or_false]
    omega
  unfold segOn segLen
  rw [hB (by decide), hB (by decide)]

theorem exec_passEnd_early (h : patRuns s = false ∨ s.pat.frozen ≠ none ∨ s.pat.pos < segLen s s.pat.seg ∨ now s < s.pat.passEnd) :
    exec .passEnd s = .next s := by
  refine congrArg Host.Outcome.next (if_pos ?_)
  obtain h | h | h | h := h
  · simp [h]
  · simp [Option.isSome_iff_ne_none.2 h]
  · simp [h]
  · simp [h]

/-- Settles O51: the fetch reads `nextVec`, the compare gathers the pins that fail (`bit_failPins`), and the end of a pass goes by
the cases of `passEnd_eq`. -/
theorem patternVectors : Obligations.PatternVectors := by
  intro s
  refine ⟨exec_vectorFetch_early, ?fetch, ?pins, fun _ => exec_vectorCompare_early, ?compare, exec_passEnd_early, ?passEnd⟩
  case fetch =>
    intro hrun hfrozen hpos hdue
    refine ⟨_, exec_vectorFetch_due hrun hfrozen hpos hdue, rfl, rfl, ?data, fun hgood => ?good, ?mem⟩
    case data => exact congrArg (fun d => s.pat.vecs ++ [{ nextVec s with data := d }]) (vecData_eq _)
    case good =>
      rw [show vecTouched (nextVec s).idx s = s from vecTouched_good hgood]
      exact ⟨rfl, fun _ _ => rfl⟩
    case mem =>
      have hline : LineOnly s (vecTouched (nextVec s).idx s) := lineOnly_vecTouched _
      show (vecTouched (nextVec s).idx s).mem = s.mem
      rw [hline.typed]
  case pins =>
    intro data levels n hn
    rw [bit_failPins]
    cases hp : pinFails data levels n <;> rw [pinFails] at hp <;> rw [hp] <;> simp [hn, ofBool]
  case compare =>
    intro levels hrun hfrozen v hv hdue
    rw [exec_vectorCompare_due hrun hfrozen hv hdue]
    refine ⟨fun hpass => by rw [if_pos hpass]; rfl, fun hfail hagain => ?again, fun hfail hfirst => ?first⟩
    case again =>
      rw [if_neg hfail, vectorFail_again (s := vecPassed s) hagain]
      obtain ⟨hcnt, hpins⟩ := stFailCounted_shows (s := vecPassed s) (failPins_lt v.data levels)
      exact ⟨_, rfl, rfl, hcnt, hpins, rfl, regsSame_stFailCounted (s := vecPassed s), rfl⟩
    case first => exact ⟨_, by rw [if_neg hfail, vectorFail_first (s := vecPassed s) hfirst], vectorFail_first_shows hrun⟩
  case passEnd =>
    intro hrun hfrozen hread hdue
    have hcommit : patRuns (patCommit s) = true := patRuns_patCommit.trans hrun
    rw [exec_passEnd_due hrun hfrozen hread hdue, passEnd_eq]
    refine ⟨fun (hstop : passStops s = true) => ?stop, fun (hgo : passStops s = false) j (hj : passJump s = some j) hon => ?jump,
      fun (hgo : passStops s = false) (hj : passJump s = none) (hlast : lastPass s = false) => ?again,
      fun (hgo : passStops s = false) (hj : passJump s = none) (hlast : lastPass s = true) hon => ?next,
      fun (hgo : passStops s = false) (hj : passJump s = none) (hlast : lastPass s = true) hoff => ?off⟩
    case stop =>
      rw [if_pos hstop]
      exact ⟨_, rfl, patRuns_patEnd _, irqStat_patEnd _, patEnd_jump _⟩
    case jump =>
      have hruns : patRuns (setJump none 0 (patCommit s)) = true := (patRuns_setJump none).trans hcommit
      rw [if_neg (by rw [hgo]; decide), hj]
      refine ⟨_, congrArg Host.Outcome.next (segEntered_on hruns ((segOn_setJump none).trans hon) _),
        patRuns_stSegShown.trans hruns, rfl, rfl, rfl, rfl, rfl, ?_⟩
      exact (getF_stSegShown (g := PAT.STATUS_SEG) rfl).trans (getF_putF _ PAT.STATUS_SEG _ _ _ (by decide))
    case again =>
      rw [if_neg (by rw [hgo]; decide), hj]
      refine ⟨_, congrArg Host.Outcome.next (if_neg (by rw [hlast]; decide)), hcommit, ?_⟩
      have hseg : (patCommit s).pat.seg = s.pat.seg := congrArg Pat.seg (patCommit_pat s)
      have hpass : (patCommit s).pat.pass + 1 = s.pat.pass + 1 := congrArg (fun x => x.pass + 1) (patCommit_pat s)
      have hjump : (patCommit s).pat.jump = s.pat.jump := congrArg Pat.jump (patCommit_pat s)
      exact ⟨hseg, hpass, rfl, rfl, hjump⟩
    case next =>
      rw [if_neg (by rw [hgo]; decide), hj]
      refine ⟨_, congrArg Host.Outcome.next ((if_pos hlast).trans (segEntered_on hcommit hon _)), patRuns_stSegShown.trans hcommit, rfl, rfl, rfl, rfl⟩
    case off =>
      rw [if_neg (by rw [hgo]; decide), hj]
      exact ⟨_, congrArg Host.Outcome.next ((if_pos hlast).trans (segEntered_off hoff _)), patRuns_patEnd _, irqStat_patEnd _⟩

end Sys2Proof.Machine
end

section
/-!
PROOFS. The event matrix (20_event_matrix): what the registration of events changes, and which events it sends on their way (R480 to
R484).
-/
namespace Sys2Proof.Machine

variable {s t : State} {a c e i p trig v : Nat} {f : Fld} {merges : Bool} {P : Nat → Prop}

/-- What registrations of the channels of a set change: events of these channels are on their way, or counted as gated; and, where
events merge, MERGE_CNT counts them (R482 to R485). -/
structure Registered (merges : Bool) (P : Nat → Prop) (s t : State) : Prop where
  regs : ∀ a, (merges = true → a ≠ EVM.MERGE_CNT.addr pEvm 0) → (∀ c, P c → a ≠ EVM.CH_CNT.addr pEvm c) → rdWord t a = rdWord s a
  evt : ∀ c, getF t pEvm EVM.CH_CNT_EVT c = getF s pEvm EVM.CH_CNT_EVT c
  flight : ∃ l, t.evm.flight = s.evm.flight ++ l ∧ ∀ x ∈ l, P x.chan
  typed : typedSame { s with evm := { s.evm with flight := t.evm.flight } } t

namespace Registered

theorem refl (s : State) : Registered merges P s s := ⟨fun _ _ _ => rfl, fun _ => rfl, ⟨[], (List.append_nil _).symm, by simp⟩, rfl⟩

theorem trans {u : State} (h : Registered merges P s t) (h' : Registered merges P t u) : Registered merges P s u where
  regs := fun a hm ha => (h'.regs a hm ha).trans (h.regs a hm ha)
  evt := fun c => (h'.evt c).trans (h.evt c)
  flight := by
    obtain ⟨l, hl, hP⟩ := h.flight
    obtain ⟨l', hl', hP'⟩ := h'.flight
    refine ⟨l ++ l', by rw [hl', hl, List.append_assoc], fun x hx => ?_⟩
    exact (List.mem_append.1 hx).elim (hP x) (hP' x)
  typed := by
    have ht := h.typed
    have hu := h'.typed
    unfold typedSame at *
    rw [hu, ht]

/-- A channel registers. -/
theorem register (hc : P c) (h : Registered merges P s t) : Registered merges P s (register c e trig t) := by
  refine h.trans ?_
  unfold Machine.register
  split
  · exact ⟨fun _ _ _ => rfl, fun _ => rfl, ⟨_, rfl, by simpa using hc⟩, rfl⟩
  · exact ⟨fun a _ ha => rdWord_wrWord_other (ha c hc) _ _, fun _ => getF_putF_beside (by decide) _ _, ⟨[], (List.append_nil _).symm, by simp⟩, rfl⟩

/-- Merged events are counted. -/
theorem merged {n : Nat} (h : Registered true P s t) : Registered true P s (addSat pEvm EVM.MERGE_CNT n 0 t) := by
  refine h.trans ⟨fun a ha _ => rdWord_wrWord_other (ha rfl) _ _, fun c => getF_putF_reg ?_ _ _, ⟨[], (List.append_nil _).symm, by simp⟩, rfl⟩
  simp only [Fld.addr, EVM.CH_CNT_EVT, EVM.MERGE_CNT]
  omega

/-- A register beside those of the counts. -/
theorem word (h : Registered merges P s t) (hm : a ≠ EVM.MERGE_CNT.addr pEvm 0) (ha : ∀ c, a ≠ EVM.CH_CNT.addr pEvm c) :
    rdWord t a = rdWord s a := h.regs a (fun _ => hm) (fun c _ => ha c)

/-- A field that stands below the counts of the channels, or on another page. -/
theorem getF (h : Registered merges P s t) (hm : f.addr p i ≠ EVM.MERGE_CNT.addr pEvm 0) (ha : ∀ c, f.addr p i ≠ EVM.CH_CNT.addr pEvm c) :
    getF t p f i = getF s p f i := congrArg f.of (h.word hm ha)

/-- The counts of a channel that does not register. -/
theorem count (h : Registered merges P s t) (hc : ¬ P c) : rdWord t (EVM.CH_CNT.addr pEvm c) = rdWord s (EVM.CH_CNT.addr pEvm c) := by
  refine h.regs _ (fun _ => ?_) (fun c' hc' => ?_)
  · simp only [Fld.addr, EVM.CH_CNT, EVM.MERGE_CNT]
    omega
  · have hne : c ≠ c' := fun e => hc (e ▸ hc')
    simp only [Fld.addr, EVM.CH_CNT]
    omega

/-- The settings of a channel. -/
theorem setting (h : Registered merges P s t) {g : Fld} (hg : g.off = 0x100 ∨ g.off = 0x104) (hs : g.stride = 0x10) :
    Machine.getF t pEvm g c = Machine.getF s pEvm g c := by
  refine h.getF ?_ fun c' => ?_
  · simp only [Fld.addr, EVM.MERGE_CNT, hs]
    omega
  · simp only [Fld.addr, EVM.CH_CNT, hs]
    omega

theorem evmOn (h : Registered merges P s t) : evmOn t = evmOn s := by
  have hen : Machine.getF t pEvm HDR.CTRL_EN = Machine.getF s pEvm HDR.CTRL_EN := by
    refine h.getF (by decide) fun c => ?_
    simp only [Fld.addr, EVM.CH_CNT, HDR.CTRL_EN]
    omega
  have hfreeze : Machine.getF t pEvm HDR.CTRL_FREEZE = Machine.getF s pEvm HDR.CTRL_FREEZE := by
    refine h.getF (by decide) fun c => ?_
    simp only [Fld.addr, EVM.CH_CNT, HDR.CTRL_FREEZE]
    omega
  simp only [Machine.evmOn, isSet, hen, hfreeze]

theorem setting_isSet (h : Registered merges P s t) {g : Fld} (hg : g.off = 0x100 ∨ g.off = 0x104) (hs : g.stride = 0x10) :
    isSet t pEvm g c = isSet s pEvm g c := by
  simp only [isSet, h.setting hg hs]

/-- No gate hangs on a count. -/
theorem gateLevel (h : Registered merges P s t) (g : Nat) : gateLevel t trig g = gateLevel s trig g := by
  have hsw : Machine.getF t pEvm EVM.GATE_SW_GATE_SW = Machine.getF s pEvm EVM.GATE_SW_GATE_SW := by
    refine h.getF (by decide) fun c => ?_
    simp only [Fld.addr, EVM.CH_CNT, EVM.GATE_SW_GATE_SW]
    omega
  have hset {q j : Nat} {x : Fld} (hlo : x.addr q j < 0x5000 ∨ 0x8000 ≤ x.addr q j ∧ x.addr q j % 0x10 = 0) :
      isSet t q x j = isSet s q x j := by
    have hx : Machine.getF t q x j = Machine.getF s q x j := by
      refine h.getF ?_ fun c => ?_
      · simp only [EVM.MERGE_CNT, Fld.addr, pEvm] at hlo ⊢
        omega
      · simp only [EVM.CH_CNT, Fld.addr, pEvm] at hlo ⊢
        omega
    simp only [isSet, hx]
  have hlive (n : Nat) : isSet t pMon MON.MON_STAT_LIVE n = isSet s pMon MON.MON_STAT_LIVE n :=
    hset (by simp only [Fld.addr, MON.MON_STAT_LIVE, pMon]; omega)
  have hruns : patRuns t = patRuns s := hset (by decide)
  have htile (b : Nat) : tileRunning t b = tileRunning s b :=
    hset (by simp only [Fld.addr, HDR.STATUS_RUN, tilePage]; omega)
  have hpresent (b : Nat) : tilePresent t b = tilePresent s b := by
    have hv : t.variant = s.variant := by rw [h.typed]
    simp only [tilePresent, hv]
  simp only [Machine.gateLevel, hsw, hlive, hruns, htile, hpresent]

end Registered

/-- The gate of a channel lets its event through (R482). -/
def gateOpen (s : State) (trig c : Nat) : Bool := gateLevel s trig (getF s pEvm EVM.CH_GATE_GSEL c) != isSet s pEvm EVM.CH_CFG_GINV c

/-- The event that a channel sends on its way at edge `e`. -/
def evmEvent (s : State) (c e : Nat) : EvmEvent :=
  EvmEvent.mk c (if getF s pEvm EVM.CH_CFG_DST c ≤ 0x11 then getF s pEvm EVM.CH_CFG_DST c else 0) (isSet s pEvm EVM.CH_CFG_IRQ c) (e + 8)

theorem Registered.gateOpen (h : Registered merges P s t) : gateOpen t trig c = gateOpen s trig c := by
  simp only [Machine.gateOpen, h.gateLevel, h.setting (g := EVM.CH_GATE_GSEL) (.inr rfl) rfl, h.setting_isSet (g := EVM.CH_CFG_GINV) (.inl rfl) rfl]

theorem Registered.evmEvent (h : Registered merges P s t) : evmEvent t c e = evmEvent s c e := by
  simp only [Machine.evmEvent, h.setting (g := EVM.CH_CFG_DST) (.inl rfl) rfl, h.setting_isSet (g := EVM.CH_CFG_IRQ) (.inl rfl) rfl]

theorem register_open (h : gateOpen s trig c = true) :
    register c e trig s = { s with evm := { s.evm with flight := s.evm.flight ++ [evmEvent s c e] } } := if_pos h

theorem register_gated (h : gateOpen s trig c = false) : register c e trig s = incSat pEvm EVM.CH_CNT_GATED c s :=
  if_neg (by rw [gateOpen] at h; simp [h])

/-! ### The edge that has come (R483 to R485) -/

/-- What channel `c` does at edge `e`, where `n` of the sources raised for it are its own. -/
def takeEvents (n e trig c : Nat) (s : State) : State :=
  if n = 0 then s else register c e trig (addSat pEvm EVM.MERGE_CNT (n - 1) 0 s)

/-- The events of the edge that are channel `c`'s. -/
def ownEvents (here : List Nat) (c : Nat) (s : State) : Nat := (here.filter (fun r => r ≠ 0 ∧ r = getF s pEvm EVM.CH_CFG_SRC c)).length

theorem Registered.takeEvents {n : Nat} (hc : P c) (h : Registered true P s t) : Registered true P s (takeEvents n e trig c t) := by
  unfold Machine.takeEvents
  split
  · exact h
  · exact register hc (merged h)

theorem Registered.takeAll {here : List Nat} {l : List Nat} (hl : ∀ c ∈ l, P c) :
    Registered true P s (forAll l (fun c s => Machine.takeEvents (ownEvents here c s) e trig c s) s) :=
  forAll_induction_mem (P := Registered true P s) (fun _ hc _ h => h.takeEvents (hl _ hc)) (.refl s)

/-- Where a channel is among those in use, its turn comes once: before and after it only other channels register. -/
theorem takeAll_split {here : List Nat} {l : List Nat} (hc : c ∈ l) (hl : l.Nodup) :
    ∃ u, Registered true (· ≠ c) s u ∧ Registered true (· ≠ c) (takeEvents (ownEvents here c u) e trig c u)
      (forAll l (fun c s => takeEvents (ownEvents here c s) e trig c s) s) := by
  obtain ⟨l₁, l₂, rfl⟩ := List.append_of_mem hc
  obtain ⟨-, hl₂, hdisj⟩ := List.nodup_append.1 hl
  have h₁ : ∀ x ∈ l₁, x ≠ c := fun x hx => hdisj x hx c List.mem_cons_self
  have h₂ : ∀ x ∈ l₂, x ≠ c := fun x hx e => (List.nodup_cons.1 hl₂).1 (e ▸ hx)
  refine ⟨_, Registered.takeAll (here := here) (e := e) (trig := trig) h₁, ?_⟩
  simp only [forAll, List.foldl_append, List.foldl_cons]
  exact Registered.takeAll h₂

/-- An event of a channel that did not register was on its way before. -/
theorem Registered.mem_flight {x : EvmEvent} (h : Registered merges (· ≠ c) s t) (hx : x ∈ t.evm.flight) (hchan : x.chan = c) :
    x ∈ s.evm.flight := by
  obtain ⟨l, hl, hP⟩ := h.flight
  rw [hl] at hx
  exact (List.mem_append.1 hx).resolve_right fun hm => hP x hm hchan

theorem Registered.flight_subset (h : Registered merges P s t) : s.evm.flight ⊆ t.evm.flight := by
  obtain ⟨l, hl, -⟩ := h.flight
  rw [hl]
  exact List.subset_append_left _ _

/-- The state with the sources of edge `e` taken. -/
def stEdge (e : Nat) (s : State) : State := { s with evm := { s.evm with raised := s.evm.raised.filter (fun r => evmEdge r.2 ≠ e) } }

/-- The sources of edge `e`. -/
def edgeSources (e : Nat) (s : State) : List Nat := (s.evm.raised.filter (fun r => evmEdge r.2 = e)).map (fun r => r.1)

/-- The channels in use. -/
def usedList (s : State) : List Nat := (List.range 64).filter (fun c => isSet s pEvm EVM.CH_CFG_EN c)

/-- The state after the edge `e` of a matrix that takes events. -/
def stRegistered (e trig : Nat) (s : State) : State :=
  forAll (usedList s) (fun c u => takeEvents (ownEvents (edgeSources e s) c u) e trig c u) (stEdge e s)

theorem exec_evmRegister {x : Nat} (hmin : (s.evm.raised.map (fun r => evmEdge r.2)).min? = some x) :
    exec (.evmRegister trig) s = .next (if mfc s < x then s else if evmOn s then stRegistered x trig s else stEdge x s) := by
  have hexec : exec (.evmRegister trig) s = execEvmRegister trig s := rfl
  rw [hexec, execEvmRegister]
  cases hr : s.evm.raised.map (fun r => evmEdge r.2) with
  | nil => simp [hr] at hmin
  | cons y ys =>
    rw [hr] at hmin
    obtain rfl : ys.foldl min y = x := Option.some.inj hmin
    dsimp only
    split
    · rfl
    · have hon : evmOn (stEdge (ys.foldl min y) s) = evmOn s := rfl
      cases h : evmOn s <;> rw [h] at hon
      · exact if_pos (by rw [← stEdge, hon]; rfl)
      · exact if_neg (by rw [← stEdge, hon]; decide)

theorem registered_stEdge : Registered true (· ∈ usedList s) (stEdge e s) (stRegistered e trig s) := Registered.takeAll fun _ h => h

/-- The channel takes an event at edge `e`: it is in use and its source is among those raised. -/
def takesAt (e c : Nat) (s : State) : Bool :=
  isSet s pEvm EVM.CH_CFG_EN c && s.evm.raised.any (fun r => decide (evmEdge r.2 = e ∧ r.1 ≠ 0 ∧ r.1 = getF s pEvm EVM.CH_CFG_SRC c))

theorem ownEvents_eq_zero : ownEvents (edgeSources e s) c s = 0
    ↔ s.evm.raised.any (fun r => decide (evmEdge r.2 = e ∧ r.1 ≠ 0 ∧ r.1 = getF s pEvm EVM.CH_CFG_SRC c)) = false := by
  simp only [ownEvents, edgeSources, List.length_eq_zero_iff, List.filter_eq_nil_iff, List.mem_map, List.mem_filter, List.any_eq_false,
    decide_eq_true_eq]
  constructor
  · rintro h r hr ⟨he, hne, hsrc⟩
    exact h r.1 ⟨r, ⟨hr, he⟩, rfl⟩ ⟨hne, hsrc⟩
  · rintro h _ ⟨r, ⟨hr, he⟩, rfl⟩ ⟨hne, hsrc⟩
    exact h r hr ⟨he, hne, hsrc⟩

theorem ownEvents_congr {here : List Nat} (h : Registered true P s t) : ownEvents here c t = ownEvents here c s := by
  simp only [ownEvents, h.setting (g := EVM.CH_CFG_SRC) (.inl rfl) rfl]

theorem ownEvents_stEdge {here : List Nat} : ownEvents here c (stEdge e s) = ownEvents here c s := rfl

/-- The turn of a channel that takes an event, among those of the others. -/
theorem takesAt_split (h : takesAt e c s = true) (hc : c < 64) : ∃ u, Registered true (· ≠ c) (stEdge e s) u
    ∧ Registered true (· ≠ c) (register c e trig u) (stRegistered e trig s) := by
  simp only [takesAt, Bool.and_eq_true] at h
  obtain ⟨hen, hany⟩ := h
  have hmem : c ∈ usedList s := List.mem_filter.2 ⟨List.mem_range.2 hc, hen⟩
  obtain ⟨u, hu, ht⟩ := takeAll_split (s := stEdge e s) (here := edgeSources e s) (e := e) (trig := trig) hmem
    (List.nodup_range.filter _)
  have hown : ownEvents (edgeSources e s) c u ≠ 0 := by
    rw [ownEvents_congr hu, ownEvents_stEdge]
    exact fun h0 => Bool.false_ne_true ((ownEvents_eq_zero.1 h0).symm.trans hany)
  rw [takeEvents, if_neg hown] at ht
  exact ⟨_, .merged hu, ht⟩

/-- A channel that takes no event does not register. -/
theorem registered_of_not_takesAt (h : takesAt e c s = false) : Registered true (· ≠ c) (stEdge e s) (stRegistered e trig s) := by
  by_cases hmem : c ∈ usedList s
  · have hen : isSet s pEvm EVM.CH_CFG_EN c = true := (List.mem_filter.1 hmem).2
    obtain ⟨u, hu, ht⟩ := takeAll_split (s := stEdge e s) (here := edgeSources e s) (e := e) (trig := trig) hmem
      (List.nodup_range.filter _)
    have hown : ownEvents (edgeSources e s) c u = 0 := by
      rw [ownEvents_congr hu, ownEvents_stEdge]
      exact ownEvents_eq_zero.2 (by simpa [takesAt, hen] using h)
    rw [takeEvents, if_pos hown] at ht
    exact hu.trans ht
  · exact Registered.takeAll fun x hx e => hmem (e ▸ hx)

/-- What a channel does at the edge (R482 to R484). -/
theorem channel_at_edge (hc : c < 64) :
    (takesAt e c s = true → gateOpen s trig c = true →
        evmEvent s c e ∈ (stRegistered e trig s).evm.flight
          ∧ rdWord (stRegistered e trig s) (EVM.CH_CNT.addr pEvm c) = rdWord s (EVM.CH_CNT.addr pEvm c))
      ∧ (takesAt e c s = true → gateOpen s trig c = false →
        getF (stRegistered e trig s) pEvm EVM.CH_CNT_GATED c = min (getF s pEvm EVM.CH_CNT_GATED c + 1) 65535
          ∧ getF (stRegistered e trig s) pEvm EVM.CH_CNT_EVT c = getF s pEvm EVM.CH_CNT_EVT c)
      ∧ (takesAt e c s = false ∨ gateOpen s trig c = false → ∀ x ∈ (stRegistered e trig s).evm.flight, x.chan = c → x ∈ s.evm.flight)
      ∧ (takesAt e c s = false → rdWord (stRegistered e trig s) (EVM.CH_CNT.addr pEvm c) = rdWord s (EVM.CH_CNT.addr pEvm c)) := by
  refine ⟨fun htakes hopen => ?sent, fun htakes hshut => ?gated, fun h x hx hchan => ?others, fun h => (registered_of_not_takesAt h).count (by simp)⟩
  case sent =>
    obtain ⟨u, hu, ht⟩ := takesAt_split (trig := trig) htakes hc
    rw [register_open (hu.gateOpen.trans hopen), hu.evmEvent] at ht
    exact ⟨ht.flight_subset (List.mem_append_right _ List.mem_cons_self), (ht.count (by simp)).trans (hu.count (by simp))⟩
  case gated =>
    obtain ⟨u, hu, ht⟩ := takesAt_split (trig := trig) htakes hc
    rw [register_gated (hu.gateOpen.trans hshut)] at ht
    refine ⟨?_, registered_stEdge.evt c⟩
    have hcount : getF (stRegistered e trig s) pEvm EVM.CH_CNT_GATED c = getF (incSat pEvm EVM.CH_CNT_GATED c u) pEvm EVM.CH_CNT_GATED c :=
      congrArg EVM.CH_CNT_GATED.of (ht.count (by simp))
    have hbefore : getF u pEvm EVM.CH_CNT_GATED c = getF s pEvm EVM.CH_CNT_GATED c := congrArg EVM.CH_CNT_GATED.of (hu.count (by simp))
    rw [hcount, getF_incSat (by decide), hbefore]
    rfl
  case others =>
    cases htakes : takesAt e c s with
    | false => exact (registered_of_not_takesAt htakes).mem_flight hx hchan
    | true =>
      obtain ⟨u, hu, ht⟩ := takesAt_split (trig := trig) htakes hc
      rw [register_gated (hu.gateOpen.trans (h.resolve_left (by simp [htakes])))] at ht
      exact hu.mem_flight (ht.mem_flight hx hchan) hchan

end Sys2Proof.Machine
end

section
/-!
PROOFS. Deliveries of the event matrix (R480, R483, R485): what a delivery leaves of the matrix's own page, and what it does there.
-/
namespace Sys2Proof.Machine

variable {s t : State} {a c d e i n p trig v : Nat} {f : Fld} {x : EvmEvent}

/-! ### What deliveries leave of the EVM page -/

/-- The registers of the EVM page that the wake-up lines write. -/
def wakeRegs : List Nat := [EVM.WAKE_STAT.addr pEvm 0, HDR.IRQ_STAT.addr pEvm 0, HDR.ERR_CNT_TOTAL.addr pEvm 0]

/-- A delivery leaves the events of the matrix, and of its page all but what the wake-up lines show. -/
structure EvmKept (s t : State) : Prop where
  regs : ∀ a, 0x7000 ≤ a → a < 0x8000 → a ∉ wakeRegs → rdWord t a = rdWord s a
  irq : ∀ n, irqStat s pEvm n = true → irqStat t pEvm n = true
  evm : t.evm = s.evm

namespace EvmKept

theorem refl (s : State) : EvmKept s s := ⟨fun _ _ _ _ => rfl, fun _ h => h, rfl⟩

theorem trans {u : State} (h : EvmKept s t) (h' : EvmKept t u) : EvmKept s u :=
  ⟨fun a h1 h2 h3 => (h'.regs a h1 h2 h3).trans (h.regs a h1 h2 h3), fun n hn => h'.irq n (h.irq n hn), h'.evm.trans h.evm⟩

/-- Parts of the state beside the registers and the matrix. -/
theorem same {u : State} (h : EvmKept s t) (hregs : u.regs = t.regs) (hevm : u.evm = t.evm) : EvmKept s u := by
  have hrd : ∀ a, rdWord u a = rdWord t a := fun a => by rw [rdWord, hregs]; rfl
  exact h.trans ⟨fun a _ _ _ => hrd a, fun n hn => (irqStat_eq_of_rdWord (hrd _)).trans hn, hevm⟩

theorem putF (ha : f.addr p i < 0x7000 ∨ 0x8000 ≤ f.addr p i ∨ f.addr p i = EVM.WAKE_STAT.addr pEvm 0) (h : EvmKept s t) :
    EvmKept s (putF p f v i t) := by
  refine h.trans ⟨fun a h1 h2 h3 => rdWord_wrWord_other ?_ _ _, fun n hn => (irqStat_putF ?_).trans hn, rfl⟩
  · rintro rfl
    obtain h | h | h := ha
    · omega
    · omega
    · exact h3 (by rw [h]; exact List.mem_cons_self)
  · simp only [Fld.addr, HDR.IRQ_STAT, EVM.WAKE_STAT, pEvm] at ha ⊢
    omega

theorem incSat (ha : f.addr p i < 0x7000 ∨ 0x8000 ≤ f.addr p i ∨ f.addr p i = EVM.WAKE_STAT.addr pEvm 0) (h : EvmKept s t) :
    EvmKept s (incSat p f i t) := h.putF ha

/-- An interrupt bit of any page. -/
theorem irqBit (h : EvmKept s t) : EvmKept s (irqBit p n t) := by
  refine h.trans ⟨fun a h1 h2 h3 => rdWord_irqSet _ _ _ _ ?_, fun n hn => irqStat_irqBit_of hn, by simp⟩
  rintro rfl
  refine h3 ?_
  simp only [Fld.addr, HDR.IRQ_STAT, wakeRegs, pEvm, List.mem_cons, List.not_mem_nil, or_false] at h1 h2 ⊢
  omega

/-- A record of any page. -/
theorem errRec {code sev unit info addr : Nat} (h : EvmKept s t) : EvmKept s (errRec p code sev unit info addr t) := by
  refine h.trans ⟨fun a h1 h2 h3 => rdWord_errRec _ _ _ _ _ _ _ _ ?_ ?_ ?_, fun n hn => irqStat_errRec_of hn, by simp⟩ <;> rintro rfl
  · refine h3 ?_
    simp only [Fld.addr, HDR.ERR_CNT_TOTAL, wakeRegs, pEvm, List.mem_cons, List.not_mem_nil, or_false] at h1 h2 ⊢
    omega
  · refine h3 ?_
    simp only [Fld.addr, HDR.IRQ_STAT, wakeRegs, pEvm, List.mem_cons, List.not_mem_nil, or_false] at h1 h2 ⊢
    omega
  · simp only [Fld.addr, DMP.DUMP_STAT_FATAL_CNT] at h2
    omega

theorem ite {b : Prop} [Decidable b] {y z : State} (hy : EvmKept s y) (hz : EvmKept s z) : EvmKept s (if b then y else z) := by
  split
  · exact hy
  · exact hz

end EvmKept

/-! ### The destinations (R480) -/

theorem evmKept_rampStart (h : EvmKept s t) : EvmKept s (rampStart n t) := by
  refine EvmKept.ite (EvmKept.putF ?_ h) h
  simp only [Fld.addr, MON.MON_STAT_RBUSY, pMon]
  omega

/-- A register of a bias output stands past the EVM page. -/
theorem bia_addr (f : Fld) (i : Nat) : f.addr pBia i < 0x7000 ∨ 0x8000 ≤ f.addr pBia i ∨ f.addr pBia i = EVM.WAKE_STAT.addr pEvm 0 := by
  simp only [Fld.addr, pBia]
  omega

theorem evmKept_strobeOne (h : EvmKept s t) : EvmKept s (strobeOne d n t) := by
  unfold strobeOne setPend
  dsimp only
  have hact (code : Nat) := EvmKept.putF (v := 1) (bia_addr BIA.BIAS_STAT_STATE n) (EvmKept.putF (v := code) (bia_addr BIA.BIAS_STAT_OUT n) h)
  split
  · split
    · exact EvmKept.ite (evmKept_rampStart (hact _)) (hact _)
    · have hpend (code v w : Nat) := EvmKept.putF (v := w) (bia_addr BIA.PEND_MAP (n / 32))
        (EvmKept.putF (v := v) (bia_addr BIA.BIAS_STAT_PEND n) (hact code))
      exact EvmKept.ite (evmKept_rampStart (hpend _ _ _)) (hpend _ _ _)
  · exact EvmKept.ite h.irqBit (EvmKept.errRec (EvmKept.putF (bia_addr _ _) h.irqBit))

theorem evmKept_strobe (h : EvmKept s t) : EvmKept s (strobe d t) :=
  EvmKept.ite h (forAll_induction (P := EvmKept s) (fun _ _ => evmKept_strobeOne) _ h)

/-- A register of HKP stands before the EVM page. -/
theorem hkp_addr (hf : f.off < 0x1000) : f.addr pHkp 0 < 0x7000 ∨ 0x8000 ≤ f.addr pHkp 0 ∨ f.addr pHkp 0 = EVM.WAKE_STAT.addr pEvm 0 := by
  simp only [Fld.addr, pHkp]
  omega

theorem evmKept_showSampler (h : EvmKept s t) : EvmKept s (showSampler t) := by
  unfold showSampler
  dsimp only
  have hshown {a b c d : Nat} : EvmKept s (putF pHkp HKP.STATUS_INJ_BUSY a 0 (putF pHkp HKP.STATUS_RND_PEND b 0
      (putF pHkp HKP.STATUS_RND_BUSY c 0 (putF pHkp HKP.STATUS_ON d 0 t)))) :=
    EvmKept.putF (hkp_addr (by decide)) (EvmKept.putF (hkp_addr (by decide)) (EvmKept.putF (hkp_addr (by decide))
      (EvmKept.putF (hkp_addr (by decide)) h)))
  split
  · exact EvmKept.putF (f := HKP.STATUS_CUR) (hkp_addr (by decide)) hshown
  · exact hshown

theorem evmKept_takeWork (h : EvmKept s t) : EvmKept s (takeWork n t) := by
  have hsmp (x : Sampler) : EvmKept s (showSampler { t with smp := x }) := evmKept_showSampler (h.same rfl rfl)
  unfold takeWork
  dsimp only
  split
  · exact EvmKept.ite (hsmp _) (hsmp _)
  · exact EvmKept.ite (hsmp _) (hsmp _)

theorem evmKept_injTrigger (h : EvmKept s t) : EvmKept s (injTrigger n t) := by
  have hpend : EvmKept s { t with smp := { t.smp with injPend := insertUp n t.smp.injPend } } := h.same rfl rfl
  have hover : EvmKept s (overrun (1 + n) t) := by
    unfold overrun
    exact EvmKept.errRec (EvmKept.irqBit (EvmKept.putF (f := HKP.HKP_OVR_OVR) (hkp_addr (by decide))
      (EvmKept.incSat (f := HKP.HKP_OVR_CNT) (hkp_addr (by decide)) h)))
  exact EvmKept.ite h (EvmKept.ite hover (EvmKept.ite (evmKept_takeWork hpend) (evmKept_showSampler hpend)))

/-- Whatever writes the PAT page and page 0xF only leaves the EVM page as it is. -/
theorem evmKept_of_patTyped {l : List Nat} (hl : ∀ a ∈ l, a < 0x7000 ∨ 0x8000 ≤ a) (hregs : regsSame l s t) (htyped : patTyped s t) :
    EvmKept s t := by
  have hkept (a : Nat) (h1 : 0x7000 ≤ a) (h2 : a < 0x8000) : rdWord t a = rdWord s a :=
    hregs a fun hm => (hl a hm).elim (by omega) (by omega)
  refine ⟨fun a h1 h2 _ => hkept a h1 h2, fun n hn => (irqStat_eq_of_rdWord (hkept _ (by decide) (by decide))).trans hn, ?_⟩
  rw [htyped]

/-- The registers that the start of a run writes. -/
def patRegs : List Nat := PAT.JMP_CNT.addr pPat 0 :: PAT.FAIL_CNT.addr pPat 0 :: segRegs

theorem regsSame_patStart : regsSame patRegs s (patStart n s) := by
  have hbegun : regsSame patRegs s (stRunBegun s) := regsSame_mono (by decide) regsSame_stRunBegun
  cases hon : segOn s (firstSeg s) with
  | true =>
    rw [patStart_on hon]
    exact regsSame_trans hbegun (regsSame_mono (by decide) regsSame_stSegShown)
  | false =>
    rw [patStart_off hon]
    exact regsSame_trans (regsSame_errRec (by decide) (by decide) (by decide) hbegun) (regsSame_mono (by decide) (regsSame_patEnd _))

theorem evmKept_patTrigger (h : EvmKept s t) : EvmKept s (patTrigger n t) := by
  have hover : EvmKept s (patOver t) :=
    EvmKept.errRec (EvmKept.irqBit (EvmKept.putF (f := PAT.STATUS_OVERRUN) (.inr (.inl (by decide))) h))
  have hstart : EvmKept s (patStart (n + 16) t) :=
    h.trans (evmKept_of_patTyped (l := patRegs) (by decide) regsSame_patStart (patTyped_patStart _))
  exact EvmKept.ite h (EvmKept.ite hover hstart)

theorem urge_evm (u : Urgent) : (urge u s).evm = s.evm := by
  unfold urge
  split <;> rfl

theorem evmKept_urge {u : Urgent} (h : EvmKept s t) : EvmKept s (urge u t) := by
  refine h.same ?_ (urge_evm u)
  unfold urge
  split <;> rfl

theorem evmKept_wake (h : EvmKept s t) : EvmKept s (wake n t) :=
  EvmKept.ite (EvmKept.errRec (EvmKept.irqBit (EvmKept.putF (f := EVM.WAKE_STAT_OVR) (.inr (.inr rfl)) h)))
    (evmKept_urge (EvmKept.putF (f := EVM.WAKE_STAT_PEND) (.inr (.inr rfl)) h))

theorem evmKept_deliverTo (h : EvmKept s t) : EvmKept s (deliverTo d e t) :=
  EvmKept.ite h (EvmKept.ite (EvmKept.ite (evmKept_strobe h) h) (EvmKept.ite (EvmKept.ite (evmKept_injTrigger h) h)
    (EvmKept.ite (EvmKept.ite (evmKept_patTrigger h) h) (evmKept_wake h))))

/-! ### The oldest event (R483) -/

/-- The first event with the least delivery fc, as a fold. -/
def oldest (y : EvmEvent) (l : List EvmEvent) : EvmEvent := l.foldl (fun m z => if z.due < m.due then z else m) y

/-- The fold finds an event that is due before those in front of it, and not after those behind it. -/
theorem oldest_split (y : EvmEvent) (l : List EvmEvent) : ∃ as bs, y :: l = as ++ oldest y l :: bs
    ∧ (∀ z ∈ as, (oldest y l).due < z.due) ∧ (∀ z ∈ bs, (oldest y l).due ≤ z.due) := by
  induction l generalizing y with
  | nil => exact ⟨[], [], rfl, by simp, by simp⟩
  | cons z l ih =>
    by_cases hz : z.due < y.due
    · have hold : oldest y (z :: l) = oldest z l := by simp [oldest, hz]
      obtain ⟨as, bs, hsplit, has, hbs⟩ := ih z
      rw [hold]
      have hle : (oldest z l).due ≤ z.due := by
        have hmem : z ∈ as ++ oldest z l :: bs := hsplit ▸ List.mem_cons_self
        simp only [List.mem_append, List.mem_cons] at hmem
        obtain h | h | h := hmem
        · exact (has z h).le
        · exact h ▸ le_rfl
        · exact hbs z h
      refine ⟨y :: as, bs, by rw [hsplit]; rfl, fun w hw => ?_, hbs⟩
      obtain rfl | hw := List.mem_cons.1 hw
      · omega
      · exact has w hw
    · have hold : oldest y (z :: l) = oldest y l := by simp [oldest, hz]
      obtain ⟨as, bs, hsplit, has, hbs⟩ := ih y
      rw [hold]
      cases as with
      | nil =>
        obtain ⟨hy, rfl⟩ := List.cons.inj hsplit
        refine ⟨[], z :: l, by rw [← hy]; rfl, by simp, fun w hw => ?_⟩
        obtain rfl | hw := List.mem_cons.1 hw
        · rw [← hy]
          omega
        · exact hbs w hw
      | cons w as =>
        obtain ⟨rfl, hl⟩ := List.cons.inj hsplit
        have hy := has _ List.mem_cons_self
        refine ⟨y :: z :: as, bs, congrArg (fun r => y :: z :: r) hl, fun w hw => ?_, hbs⟩
        simp only [List.mem_cons] at hw
        obtain rfl | rfl | hw := hw
        · exact hy
        · omega
        · exact has w (List.mem_cons_of_mem _ hw)

/-- The fold finds the first event that no other is due before. -/
theorem find_oldest (y : EvmEvent) (l : List EvmEvent) :
    (y :: l).find? (fun z => (y :: l).all (fun w => decide (z.due ≤ w.due))) = some (oldest y l) := by
  obtain ⟨as, bs, hsplit, has, hbs⟩ := oldest_split y l
  refine List.find?_eq_some_iff_append.2 ⟨?_, as, bs, hsplit, fun z hz => ?_⟩
  · rw [hsplit]
    simp only [List.all_eq_true, List.mem_append, List.mem_cons, decide_eq_true_eq]
    rintro w (h | rfl | h)
    · exact (has w h).le
    · exact le_rfl
    · exact hbs w h
  · have hlate : ¬ z.due ≤ (oldest y l).due := Nat.not_le.2 (has z hz)
    rw [Bool.not_eq_true', List.all_eq_false]
    exact ⟨oldest y l, by rw [hsplit]; simp, by simpa using hlate⟩

end Sys2Proof.Machine
end

section
/-!
PROOFS. The statement on the event matrix: deliveries, timers, the writes of a channel's configuration with the loop check (R487,
R488) and the protection (R489).
-/
namespace Sys2Proof.Machine

variable {s t : State} {who : Requester} {c trig v w : Nat} {x : EvmEvent}

/-! ### A delivery (R483, R485) -/

/-- The event leaves those on their way, counts, and hits its map where it says so. -/
def stCounted (x : EvmEvent) (s : State) : State :=
  if x.irq then setHit x.chan (incSat pEvm EVM.CH_CNT_EVT x.chan { s with evm := { s.evm with flight := s.evm.flight.erase x } })
  else incSat pEvm EVM.CH_CNT_EVT x.chan { s with evm := { s.evm with flight := s.evm.flight.erase x } }

/-- The mark of the destination's cycle in which an event arrives; the cycles count from 1. -/
def cycleMark (x : EvmEvent) : Nat := dstCycle x.dst x.due + 1

/-- The event reaches its destination, once in a cycle of the destination's clock. -/
def stDelivered (x : EvmEvent) (s : State) : State :=
  if x.dst = 0 then stCounted x s
  else if smGet 0 x.dst (stCounted x s).evm.last = cycleMark x then incSat pEvm EVM.MERGE_CNT 0 (stCounted x s)
  else deliverTo x.dst x.due { stCounted x s with evm :=
    { (stCounted x s).evm with last := smSet x.dst (cycleMark x) (stCounted x s).evm.last } }

/-- The channels that take the output of the event's channel register it. -/
def stPassedOn (x : EvmEvent) (trig : Nat) (s : State) : State :=
  if evmOn s then forAll (takers s (0x180 + x.chan)) (fun c s => register c x.due trig s) s else s

theorem exec_evmDeliver (h : s.evm.flight.find? (fun y => s.evm.flight.all (fun z => decide (y.due ≤ z.due))) = some x) :
    exec (.evmDeliver trig) s = .next (if mfc s < x.due then s else stPassedOn x trig (stDelivered x s)) := by
  have hexec : exec (.evmDeliver trig) s = execEvmDeliver trig s := rfl
  rw [hexec, execEvmDeliver]
  cases hf : s.evm.flight with
  | nil => simp [hf] at h
  | cons y l =>
    rw [hf] at h
    obtain rfl : oldest y l = x := Option.some.inj ((find_oldest y l).symm.trans h)
    have hcounted : stCounted (oldest y l) s = (if (oldest y l).irq then setHit (oldest y l).chan
        (incSat pEvm EVM.CH_CNT_EVT (oldest y l).chan { s with evm := { s.evm with flight := (y :: l).erase (oldest y l) } })
        else incSat pEvm EVM.CH_CNT_EVT (oldest y l).chan { s with evm := { s.evm with flight := (y :: l).erase (oldest y l) } }) := by
      rw [stCounted, hf]
    by_cases hdue : mfc s < (oldest y l).due
    · rw [if_pos hdue]
      exact if_pos hdue
    · rw [if_neg hdue, stPassedOn, stDelivered, hcounted]
      exact if_neg hdue

theorem stCounted_evm : (stCounted x s).evm = { s.evm with flight := s.evm.flight.erase x } := by
  unfold stCounted setHit
  split <;> simp

/-- Beside the count of the channel, and HIT_MAP with bit 0, the page stays. -/
theorem regsSame_stCounted : regsSame [EVM.CH_CNT.addr pEvm x.chan, EVM.HIT_MAP.addr pEvm (x.chan / 32), HDR.IRQ_STAT.addr pEvm 0] s
    (stCounted x s) := by
  have hcount : regsSame [EVM.CH_CNT.addr pEvm x.chan, EVM.HIT_MAP.addr pEvm (x.chan / 32), HDR.IRQ_STAT.addr pEvm 0] s
      (incSat pEvm EVM.CH_CNT_EVT x.chan { s with evm := { s.evm with flight := s.evm.flight.erase x } }) :=
    regsSame_incSat (f := EVM.CH_CNT_EVT) (by exact List.mem_cons_self) fun _ _ => rfl
  unfold stCounted setHit
  split
  · exact regsSame_irqBit (by simp) (regsSame_putF (by simp) hcount)
  · exact hcount

theorem typedSame_stCounted : typedSame { s with evm := (stCounted x s).evm } (stCounted x s) := by
  rw [stCounted_evm]
  unfold stCounted setHit
  split
  · exact typedSame_irqBit rfl
  · rfl

theorem evt_stCounted : getF (stCounted x s) pEvm EVM.CH_CNT_EVT x.chan = min (getF s pEvm EVM.CH_CNT_EVT x.chan + 1) 65535 := by
  have hcount : getF (incSat pEvm EVM.CH_CNT_EVT x.chan { s with evm := { s.evm with flight := s.evm.flight.erase x } })
      pEvm EVM.CH_CNT_EVT x.chan = min (getF s pEvm EVM.CH_CNT_EVT x.chan + 1) 65535 := getF_incSat (by decide) _
  have hirq : EVM.CH_CNT_EVT.addr pEvm x.chan ≠ HDR.IRQ_STAT.addr pEvm 0 := by
    simp only [Fld.addr, EVM.CH_CNT_EVT, HDR.IRQ_STAT]
    omega
  have hmap : EVM.CH_CNT_EVT.addr pEvm x.chan ≠ EVM.HIT_MAP.addr pEvm (x.chan / 32) := by
    simp only [Fld.addr, EVM.CH_CNT_EVT, EVM.HIT_MAP]
    omega
  unfold stCounted setHit
  split
  · rw [getF_irqBit _ _ _ _ _ _ hirq, getF_putF_reg hmap]
    exact hcount
  · exact hcount

theorem hit_stCounted (hirq : x.irq = true) : bit (getF (stCounted x s) pEvm EVM.HIT_MAP (x.chan / 32)) (x.chan % 32) = 1
    ∧ irqStat (stCounted x s) pEvm 0 = true := by
  have hne : EVM.HIT_MAP.addr pEvm (x.chan / 32) ≠ HDR.IRQ_STAT.addr pEvm 0 := by
    simp only [Fld.addr, EVM.HIT_MAP, HDR.IRQ_STAT]
    omega
  rw [stCounted, if_pos hirq, setHit]
  refine ⟨?_, irqStat_irqBit_same (by decide)⟩
  rw [getF_irqBit _ _ _ _ _ _ hne, getF_putF _ _ _ _ _ (by decide)]
  exact (bit_mod_two_pow (w := 32) (Nat.mod_lt _ (by decide))).trans ((bit_setBit _ _ _).trans (if_pos rfl))

/-- A delivery leaves the events that are on their way, and of the page all but MERGE_CNT and what the wake-up lines show. -/
structure Delivered (s t : State) : Prop where
  regs : ∀ a, 0x7000 ≤ a → a < 0x8000 → a ∉ EVM.MERGE_CNT.addr pEvm 0 :: wakeRegs → rdWord t a = rdWord s a
  irq : ∀ n, irqStat s pEvm n = true → irqStat t pEvm n = true
  flight : t.evm.flight = s.evm.flight

theorem delivered_stDelivered : Delivered (stCounted x s) (stDelivered x s) := by
  unfold stDelivered
  split
  case isTrue => exact ⟨fun _ _ _ _ => rfl, fun _ h => h, rfl⟩
  case isFalse =>
    split
    case isTrue =>
      refine ⟨fun a _ _ ha => rdWord_wrWord_other (fun e => ha (by rw [e]; exact List.mem_cons_self)) _ _,
        fun n hn => (irqStat_putF (by decide)).trans hn, rfl⟩
    case isFalse =>
      have h := evmKept_deliverTo (d := x.dst) (e := x.due) (EvmKept.refl { stCounted x s with evm :=
        { (stCounted x s).evm with last := smSet x.dst (cycleMark x) (stCounted x s).evm.last } })
      exact ⟨fun a h1 h2 ha => h.regs a h1 h2 fun hm => ha (List.mem_cons_of_mem _ hm), h.irq, congrArg (fun m => m.flight) h.evm⟩

theorem registered_stPassedOn (u : State) : Registered false (fun _ => True) u (stPassedOn x trig u) := by
  unfold stPassedOn
  split
  · exact forAll_induction (P := Registered false (fun _ => True) u) (fun _ _ h => h.register trivial) _ (.refl u)
  · exact .refl u

/-- The state after the delivery of event `x`. -/
def stEventDone (x : EvmEvent) (trig : Nat) (s : State) : State := stPassedOn x trig (stDelivered x s)

/-- Registers of the page beside the counts, HIT_MAP, MERGE_CNT and the wake-up lines stay. -/
theorem rdWord_stEventDone {a : Nat} (h1 : 0x7000 ≤ a) (h2 : a < 0x8000) (ha : a ∉ EVM.MERGE_CNT.addr pEvm 0 :: wakeRegs)
    (hc : ∀ c, a ≠ EVM.CH_CNT.addr pEvm c) : rdWord (stEventDone x trig s) a = rdWord (stCounted x s) a :=
  ((registered_stPassedOn _).regs a (fun h => absurd h (by decide)) fun c _ => hc c).trans (delivered_stDelivered.regs a h1 h2 ha)

theorem evt_stEventDone (hc : x.chan < 64) :
    getF (stEventDone x trig s) pEvm EVM.CH_CNT_EVT x.chan = min (getF s pEvm EVM.CH_CNT_EVT x.chan + 1) 65535 := by
  refine ((registered_stPassedOn _).evt x.chan).trans (Eq.trans (congrArg EVM.CH_CNT_EVT.of ?_) evt_stCounted)
  refine delivered_stDelivered.regs _ ?_ ?_ ?_
  · simp only [Fld.addr, EVM.CH_CNT_EVT, pEvm]; omega
  · simp only [Fld.addr, EVM.CH_CNT_EVT, pEvm]; omega
  · simp only [Fld.addr, EVM.CH_CNT_EVT, EVM.MERGE_CNT, EVM.WAKE_STAT, HDR.IRQ_STAT, HDR.ERR_CNT_TOTAL, wakeRegs, pEvm, List.mem_cons,
      List.not_mem_nil, or_false]
    omega

theorem hit_stEventDone (hirq : x.irq = true) (hc : x.chan < 64) :
    bit (getF (stEventDone x trig s) pEvm EVM.HIT_MAP (x.chan / 32)) (x.chan % 32) = 1 ∧ irqStat (stEventDone x trig s) pEvm 0 = true := by
  obtain ⟨hmap, hstat⟩ := hit_stCounted (s := s) hirq
  constructor
  · have hword : rdWord (stEventDone x trig s) (EVM.HIT_MAP.addr pEvm (x.chan / 32)) = rdWord (stCounted x s) (EVM.HIT_MAP.addr pEvm (x.chan / 32)) := by
      refine rdWord_stEventDone ?_ ?_ ?_ fun c => ?_
      · simp only [Fld.addr, EVM.HIT_MAP, pEvm]; omega
      · simp only [Fld.addr, EVM.HIT_MAP, pEvm]; omega
      · simp only [Fld.addr, EVM.HIT_MAP, EVM.MERGE_CNT, EVM.WAKE_STAT, HDR.IRQ_STAT, HDR.ERR_CNT_TOTAL, wakeRegs, pEvm, List.mem_cons,
          List.not_mem_nil, or_false]
        omega
      · simp only [Fld.addr, EVM.HIT_MAP, EVM.CH_CNT]
        omega
    have hread : getF (stEventDone x trig s) pEvm EVM.HIT_MAP (x.chan / 32) = getF (stCounted x s) pEvm EVM.HIT_MAP (x.chan / 32) :=
      congrArg EVM.HIT_MAP.of hword
    rw [hread]
    exact hmap
  · have hword : rdWord (stEventDone x trig s) (HDR.IRQ_STAT.addr pEvm 0) = rdWord (stDelivered x s) (HDR.IRQ_STAT.addr pEvm 0) :=
      (registered_stPassedOn _).regs _ (by decide) fun c _ => by
        simp only [Fld.addr, HDR.IRQ_STAT, EVM.CH_CNT]
        omega
    exact (irqStat_eq_of_rdWord hword).trans (delivered_stDelivered.irq 0 hstat)

/-- The events that were on their way stand first in those of the state after. -/
theorem flight_stEventDone (hx : x ∈ s.evm.flight) :
    (stEventDone x trig s).evm.flight.take (s.evm.flight.length - 1) = s.evm.flight.erase x := by
  obtain ⟨l, hl, -⟩ := (registered_stPassedOn (x := x) (trig := trig) (stDelivered x s)).flight
  have hflight : (stDelivered x s).evm.flight = s.evm.flight.erase x := by
    rw [delivered_stDelivered.flight, stCounted_evm]
  have hevents : (stEventDone x trig s).evm.flight = s.evm.flight.erase x ++ l := by rw [stEventDone, hl, hflight]
  rw [hevents, ← List.length_erase_of_mem hx, List.take_left]

/-! ### Merged events and wake-up lines (R485) -/

/-- The registers that stand below the counts of the channels are no count. -/
theorem not_chCnt {a : Nat} (h : a < 0x7100) (c : Nat) : a ≠ EVM.CH_CNT.addr pEvm c := by
  simp only [Fld.addr, EVM.CH_CNT, pEvm]
  omega

theorem rdWord_stPassedOn {a : Nat} (u : State) (h : a < 0x7100) : rdWord (stPassedOn x trig u) a = rdWord u a :=
  (registered_stPassedOn u).regs a (fun h => absurd h (by decide)) fun c _ => not_chCnt h c

/-- A part of the state beside the registers, what records and interrupts leave, and the event matrix. -/
def EvmBlind {α : Type} (g : State → α) : Prop := ∀ (u : State) r h w e f m n,
  g { u with regs := r, held := h, was := w, errs := e, fatal := f, msix := m, evm := n } = g u

/-- The part of the state that channels leave, told by a projection. -/
theorem stPassedOn_keeps {α : Type} (g : State → α) (hg : EvmBlind g) (u : State) : g (stPassedOn x trig u) = g u := by
  rw [(registered_stPassedOn (x := x) (trig := trig) u).typed]
  exact hg u _ _ _ _ _ _ _

theorem stCounted_keeps {α : Type} (g : State → α) (hg : EvmBlind g) : g (stCounted x s) = g s := by
  rw [typedSame_stCounted (x := x) (s := s)]
  exact hg s _ _ _ _ _ _ _

/-- A field of the page below HIT_MAP's neighbours that a count leaves. -/
theorem rdWord_stCounted {a : Nat} (h : 0x7050 ≤ a) (h' : a < 0x7100) (hc : x.chan < 64) : rdWord (stCounted x s) a = rdWord s a := by
  refine regsSame_stCounted a ?_
  simp only [Fld.addr, EVM.CH_CNT, EVM.HIT_MAP, HDR.IRQ_STAT, pEvm, List.mem_cons, List.not_mem_nil, or_false]
  omega

theorem getF_stCounted {g : Fld} (h : 0x7050 ≤ g.addr pEvm 0) (h' : g.addr pEvm 0 < 0x7100) (hc : x.chan < 64) :
    getF (stCounted x s) pEvm g = getF s pEvm g := congrArg g.of (rdWord_stCounted h h' hc)

/-- A second event for a destination within a cycle of its clock is merged. -/
theorem stEventDone_merged (hd : x.dst ≠ 0) (hlast : smGet 0 x.dst s.evm.last = cycleMark x) (hc : x.chan < 64) :
    getF (stEventDone x trig s) pEvm EVM.MERGE_CNT = min (getF s pEvm EVM.MERGE_CNT + 1) (2 ^ 32 - 1)
      ∧ (stEventDone x trig s).bias = s.bias ∧ (stEventDone x trig s).smp = s.smp ∧ (stEventDone x trig s).pat = s.pat
      ∧ (stEventDone x trig s).hoop = s.hoop := by
  have hmerge : stDelivered x s = incSat pEvm EVM.MERGE_CNT 0 (stCounted x s) := by
    rw [stDelivered, if_neg hd, if_pos (by rw [stCounted_evm]; exact hlast)]
  have hkeep {α : Type} (g : State → α) (hg : EvmBlind g) : g (stEventDone x trig s) = g s := by
    rw [stEventDone, stPassedOn_keeps g hg, hmerge]
    exact (hg (stCounted x s) _ (stCounted x s).held (stCounted x s).was (stCounted x s).errs (stCounted x s).fatal (stCounted x s).msix
      (stCounted x s).evm).trans (stCounted_keeps g hg)
  refine ⟨?_, hkeep State.bias fun _ _ _ _ _ _ _ _ => rfl, hkeep State.smp fun _ _ _ _ _ _ _ _ => rfl,
    hkeep State.pat fun _ _ _ _ _ _ _ _ => rfl, hkeep State.hoop fun _ _ _ _ _ _ _ _ => rfl⟩
  have hread : getF (stEventDone x trig s) pEvm EVM.MERGE_CNT = getF (stDelivered x s) pEvm EVM.MERGE_CNT :=
    congrArg EVM.MERGE_CNT.of (rdWord_stPassedOn _ (by decide))
  rw [hread, hmerge, getF_incSat (by decide), getF_stCounted (by decide) (by decide) hc]
  rfl

theorem mem_urge (u : Urgent) : u ∈ (urge u s).hoop.urgent := by
  unfold urge
  split
  case isTrue h => exact h
  case isFalse => simp

/-- A wake-up line that is not pending becomes so, and is work for Hoop firmware. -/
theorem wake_fresh {n : Nat} (hn : n < 8) (h : bit (getF s pEvm EVM.WAKE_STAT_PEND) n = 0) :
    bit (getF (wake n s) pEvm EVM.WAKE_STAT_PEND) n = 1 ∧ Urgent.wake n ∈ (wake n s).hoop.urgent := by
  rw [wake, if_neg (by rw [h]; decide)]
  refine ⟨?_, mem_urge _⟩
  have hread (u : State) : getF (urge (.wake n) u) pEvm EVM.WAKE_STAT_PEND = getF u pEvm EVM.WAKE_STAT_PEND :=
    congrArg EVM.WAKE_STAT_PEND.of (rdWord_urge _ _ _)
  rw [hread, getF_putF _ _ _ _ _ (by decide)]
  exact (bit_mod_two_pow (w := 8) hn).trans ((bit_setBit _ _ _).trans (if_pos rfl))

/-- One that is pending is overrun, with bit 2 and its record. -/
theorem wake_overrun {n : Nat} (hn : n < 8) (h : bit (getF s pEvm EVM.WAKE_STAT_PEND) n = 1) :
    bit (getF (wake n s) pEvm EVM.WAKE_STAT_OVR) n = 1 ∧ irqStat (wake n s) pEvm 2 = true ∧ (wake n s).hoop = s.hoop := by
  rw [wake, if_pos h]
  refine ⟨?_, irqStat_errRec_of (irqStat_irqBit_same (by decide)), by simp⟩
  rw [getF_errRec _ _ _ _ _ _ _ _ _ _ (by decide) (by decide) (by decide), getF_irqBit _ _ _ _ _ _ (by decide), getF_putF _ _ _ _ _ (by decide)]
  exact (bit_mod_two_pow (w := 8) hn).trans ((bit_setBit _ _ _).trans (if_pos rfl))

/-- The matrix right before the wake-up line takes its event. -/
def stWaking (x : EvmEvent) (s : State) : State :=
  { stCounted x s with evm := { (stCounted x s).evm with last := smSet x.dst (cycleMark x) (stCounted x s).evm.last } }

theorem stDelivered_wake (h : 10 ≤ x.dst) (hlast : smGet 0 x.dst s.evm.last ≠ cycleMark x) :
    stDelivered x s = wake (x.dst - 10) (stWaking x s) := by
  have hdeliver (u : State) : deliverTo x.dst x.due u = wake (x.dst - 10) u := by
    rw [deliverTo, if_neg (by omega), if_neg (by omega), if_neg (by omega), if_neg (by omega)]
  rw [stDelivered, if_neg (by omega), if_neg (by rw [stCounted_evm]; exact hlast), hdeliver]
  rfl

/-- What an event for a wake-up line does. -/
theorem stEventDone_wake (h : 10 ≤ x.dst) (h' : x.dst < 18) (hlast : smGet 0 x.dst s.evm.last ≠ cycleMark x) (hc : x.chan < 64) :
    smGet 0 x.dst (stEventDone x trig s).evm.last = cycleMark x
      ∧ (bit (getF s pEvm EVM.WAKE_STAT_PEND) (x.dst - 10) = 0 → bit (getF (stEventDone x trig s) pEvm EVM.WAKE_STAT_PEND) (x.dst - 10) = 1
        ∧ Urgent.wake (x.dst - 10) ∈ (stEventDone x trig s).hoop.urgent)
      ∧ (bit (getF s pEvm EVM.WAKE_STAT_PEND) (x.dst - 10) = 1 → bit (getF (stEventDone x trig s) pEvm EVM.WAKE_STAT_OVR) (x.dst - 10) = 1
        ∧ irqStat (stEventDone x trig s) pEvm 2 = true ∧ (stEventDone x trig s).hoop = s.hoop) := by
  have hwake := stDelivered_wake h hlast
  have hline : x.dst - 10 < 8 := by omega
  have hpend : getF (stWaking x s) pEvm EVM.WAKE_STAT_PEND = getF s pEvm EVM.WAKE_STAT_PEND :=
    getF_stCounted (g := EVM.WAKE_STAT_PEND) (by decide) (by decide) hc
  have hread {g : Fld} (hg : g.addr pEvm 0 < 0x7100) : getF (stEventDone x trig s) pEvm g = getF (wake (x.dst - 10) (stWaking x s)) pEvm g := by
    rw [← hwake]
    exact congrArg g.of (rdWord_stPassedOn _ hg)
  have hhoop : (stEventDone x trig s).hoop = (wake (x.dst - 10) (stWaking x s)).hoop := by
    rw [← hwake]
    exact stPassedOn_keeps State.hoop (fun _ _ _ _ _ _ _ _ => rfl) _
  have hirq : irqStat (stEventDone x trig s) pEvm 2 = irqStat (wake (x.dst - 10) (stWaking x s)) pEvm 2 := by
    rw [← hwake]
    exact irqStat_eq_of_rdWord (rdWord_stPassedOn _ (by decide))
  refine ⟨?last, fun h0 => ?fresh, fun h1 => ?overrun⟩
  case last =>
    have hmark : (stEventDone x trig s).evm.last = (stDelivered x s).evm.last := by
      rw [stEventDone, (registered_stPassedOn (x := x) (trig := trig) (stDelivered x s)).typed]
    rw [hmark, hwake, (evmKept_wake (EvmKept.refl (stWaking x s))).evm]
    exact smGet_smSet_same _ _ _ _
  case fresh =>
    obtain ⟨hbit, hmem⟩ := wake_fresh (s := stWaking x s) hline (hpend ▸ h0)
    rw [hread (by decide), hhoop]
    exact ⟨hbit, hmem⟩
  case overrun =>
    obtain ⟨hbit, hstat, hkept⟩ := wake_overrun (s := stWaking x s) hline (hpend ▸ h1)
    rw [hread (by decide), hhoop, hirq]
    exact ⟨hbit, hstat, hkept.trans (stCounted_keeps State.hoop fun _ _ _ _ _ _ _ _ => rfl)⟩

/-! ### The channels that take a channel's output (R484) -/

/-- A register of a channel's settings reads as before the delivery. -/
theorem getF_stDelivered (hx : x.chan < 64) {g : Fld} (hg : g.off = 0x100 ∨ g.off = 0x104) (hs : g.stride = 0x10) (hc : c < 64) :
    getF (stDelivered x s) pEvm g c = getF s pEvm g c := by
  refine congrArg g.of ((delivered_stDelivered.regs _ ?_ ?_ ?_).trans (regsSame_stCounted _ ?_))
  · simp only [Fld.addr, pEvm]; omega
  · simp only [Fld.addr, pEvm, hs]; omega
  · simp only [Fld.addr, hs, EVM.MERGE_CNT, EVM.WAKE_STAT, HDR.IRQ_STAT, HDR.ERR_CNT_TOTAL, wakeRegs, pEvm, List.mem_cons, List.not_mem_nil,
      or_false]
    omega
  · simp only [Fld.addr, hs, EVM.CH_CNT, EVM.HIT_MAP, HDR.IRQ_STAT, pEvm, List.mem_cons, List.not_mem_nil, or_false]
    omega

theorem isSet_stDelivered (hx : x.chan < 64) {g : Fld} (hg : g.off = 0x100 ∨ g.off = 0x104) (hs : g.stride = 0x10) (hc : c < 64) :
    isSet (stDelivered x s) pEvm g c = isSet s pEvm g c := by
  simp only [isSet, getF_stDelivered hx hg hs hc]

theorem evmOn_stDelivered (hx : x.chan < 64) : evmOn (stDelivered x s) = evmOn s := by
  have hword : rdWord (stDelivered x s) (HDR.CTRL.addr pEvm 0) = rdWord s (HDR.CTRL.addr pEvm 0) := by
    refine (delivered_stDelivered.regs _ (by decide) (by decide) (by decide)).trans (regsSame_stCounted _ ?_)
    simp only [Fld.addr, HDR.CTRL, EVM.CH_CNT, EVM.HIT_MAP, HDR.IRQ_STAT, pEvm, List.mem_cons, List.not_mem_nil, or_false]
    omega
  have hread {g : Fld} (hg : g.addr pEvm 0 = HDR.CTRL.addr pEvm 0) : isSet (stDelivered x s) pEvm g = isSet s pEvm g := by
    rw [isSet, isSet, getF, getF, hg, hword]
  simp only [evmOn, hread (g := HDR.CTRL_EN) rfl, hread (g := HDR.CTRL_FREEZE) rfl]

/-- A channel that takes the output, its gate open, sends its own event on its way. -/
theorem taker_event (hx : x.chan < 64) (hon : evmOn s = true) (hc : c < 64) (hen : isSet s pEvm EVM.CH_CFG_EN c = true)
    (hsrc : getF s pEvm EVM.CH_CFG_SRC c = 0x180 + x.chan)
    (hgate : gateLevel (stEventDone x trig s) trig (getF s pEvm EVM.CH_GATE_GSEL c) ≠ isSet s pEvm EVM.CH_CFG_GINV c) :
    (stEventDone x trig s).evm.flight.any (fun y => decide (y.chan = c ∧ y.due = x.due + 8)) = true := by
  have hmem : c ∈ takers (stDelivered x s) (0x180 + x.chan) := by
    refine List.mem_filter.2 ⟨List.mem_range.2 hc, ?_⟩
    simp [isSet_stDelivered hx (g := EVM.CH_CFG_EN) (.inl rfl) rfl hc, getF_stDelivered hx (g := EVM.CH_CFG_SRC) (.inl rfl) rfl hc, hen, hsrc]
  obtain ⟨l₁, l₂, hl⟩ := List.append_of_mem hmem
  have hdone : stEventDone x trig s = forAll l₂ (fun c s => register c x.due trig s)
      (register c x.due trig (forAll l₁ (fun c s => register c x.due trig s) (stDelivered x s))) := by
    rw [stEventDone, stPassedOn, if_pos ((evmOn_stDelivered hx).trans hon), hl]
    simp only [forAll, List.foldl_append, List.foldl_cons]
  have hregs (l : List Nat) (u : State) : Registered false (fun _ => True) u (forAll l (fun c s => register c x.due trig s) u) :=
    forAll_induction (P := Registered false (fun _ => True) u) (fun _ _ h => h.register trivial) _ (.refl u)
  have hbefore := hregs l₁ (stDelivered x s)
  have hopen : gateOpen (forAll l₁ (fun c s => register c x.due trig s) (stDelivered x s)) trig c = true := by
    rw [hbefore.gateOpen, gateOpen, getF_stDelivered hx (g := EVM.CH_GATE_GSEL) (.inr rfl) rfl hc,
      isSet_stDelivered hx (g := EVM.CH_CFG_GINV) (.inl rfl) rfl hc, ← (registered_stPassedOn (x := x) (trig := trig) (stDelivered x s)).gateLevel]
    rw [← stEventDone]
    simpa using hgate
  have hafter := hregs l₂ (register c x.due trig (forAll l₁ (fun c s => register c x.due trig s) (stDelivered x s)))
  rw [← hdone, register_open hopen] at hafter
  exact List.any_eq_true.2 ⟨_, hafter.flight_subset (List.mem_append_right _ List.mem_cons_self), decide_eq_true ⟨rfl, rfl⟩⟩

end Sys2Proof.Machine
end

section
/-!
PROOFS. The writes of a channel's configuration with the loop check (R487, R488), the protection (R489), and the statement on the
event matrix.
-/
namespace Sys2Proof.Machine

variable {s t : State} {who : Requester} {p o c w v : Nat} {data : Word} {kind : PageKind}

/-! ### Loops (R487, R488) -/

theorem subset_reach (l : List (Nat × Word)) (n : Nat) (r : List (Nat × Word)) : r ⊆ reach l n r := by
  induction n generalizing r with
  | zero => exact List.Subset.refl r
  | succ n ih => exact fun x hx => ih _ (List.mem_append_left _ hx)

/-- A channel whose source is its own output closes a loop. -/
theorem cycleOf_self (hc : c < 64) (hen : EVM.CH_CFG_EN.of data = 1) (hsrc : EVM.CH_CFG_SRC.of data = 0x180 + c) :
    cycleOf (usedChans s c data) c ≠ none := by
  have hused : (c, data) ∈ usedChans s c data :=
    List.mem_filter.2 ⟨List.mem_map.2 ⟨c, List.mem_range.2 hc, by rw [if_pos rfl]⟩, decide_eq_true hen⟩
  have hfeeds : feeds (c, data) (c, data) = true := by simp [feeds, hsrc]
  have hfed : c ∈ fedBy (usedChans s c data) c := by
    refine List.mem_map.2 ⟨(c, data), subset_reach _ _ _ (List.mem_filter.2 ⟨hused, ?_⟩), rfl⟩
    exact List.any_eq_true.2 ⟨(c, data), hused, by simp [hfeeds]⟩
  rw [cycleOf, if_pos hfed]
  exact Option.some_ne_none _

/-! ### Writes that no field shuts -/

theorem mergeFields_congr {fs : List FieldDesc} {ok ok' : FieldDesc → Bool} (h : ∀ d ∈ fs, ok d = ok' d) (data old : Word) :
    mergeFields fs ok data old = mergeFields fs ok' data old := by
  induction fs generalizing old with
  | nil => rfl
  | cons d l ih =>
    have hrest := ih fun e he => h e (.tail _ he)
    simp only [mergeFields, List.foldl_cons, h d List.mem_cons_self] at hrest ⊢
    exact hrest _

/-- A register whose fields are neither held for a boundary nor stopped-only takes a write at once, whatever runs. -/
theorem writeReg_live (h : busOpen s who p = true) (hk : pageKind p = some kind)
    (hcls : ∀ d ∈ fieldsAt kind o, d.cls ≠ .b ∧ d.cls ≠ .s) :
    writeReg who p o data s = wrWord (accAddr s who p o) (takenWord kind p o data (rdWord s (accAddr s who p o))) s := by
  have hword : openWord kind who p o data s = takenWord kind p o data (rdWord s (accAddr s who p o)) :=
    mergeFields_congr (fun d hd => by simp [fieldOpen, (hcls d hd).2]) _ _
  have hwr (x : FieldDesc → Bool) : (fieldsAt kind o).any (fun d => x d && decide (d.cls = .b) && decide (d.acc = .rw)) = false := by
    simp only [List.any_eq_false, Bool.and_eq_true, decide_eq_true_eq, not_and]
    exact fun d hd h => absurd h.2 (hcls d hd).1
  have hbusy (x : Bool) : (x && (fieldsAt kind o).any (fun d => decide (d.cls = .s) && !lockProt s p o d)) = false := by
    rw [Bool.and_eq_false_iff]
    right
    simp only [List.any_eq_false, Bool.and_eq_true, decide_eq_true_eq, not_and]
    exact fun d hd h => absurd h (hcls d hd).2
  have hviol : (fieldsAt kind o).any (fun d => lockProt s p o d && lockHit d data (lockView s who p o (accAddr s who p o))) = false := by
    simp [lockProt_open h]
  have hopen : (fun d : FieldDesc => !lockProt s p o d && !(sBlocked s who p o && decide (d.cls = .s)) && fieldTakes p o d (d.fld.of data))
      = fieldOpen s who p o data := by
    funext d
    simp [lockProt_open h, fieldOpen]
  unfold writeReg
  simp only [hk, hviol, hopen, hwr, hbusy, Bool.false_and, Bool.false_eq_true, if_false]
  rw [← hword]
  rfl

/-! ### CH_CFG (R488, R489) -/

/-- The fields of CH_CFG. -/
def chCfgFields : List FieldDesc :=
  [⟨EVM.CH_CFG_SRC, .rw, .l, 0⟩, ⟨EVM.CH_CFG_DST, .rw, .l, 0⟩, ⟨EVM.CH_CFG_IRQ, .rw, .l, 0⟩, ⟨EVM.CH_CFG_GINV, .rw, .l, 0⟩,
    ⟨EVM.CH_CFG_EN, .rw, .l, 0⟩]

theorem fieldsAt_chCfg : ∀ c < 64, fieldsAt .evm (0x100 + 0x10 * c) = chCfgFields := by decide +kernel

theorem accAddr_chCfg : accAddr s who pEvm (0x100 + 0x10 * c) = EVM.CH_CFG.addr pEvm c := by
  have hkind : pageKind pEvm = some .evm := by decide
  have hwin : winIdx s who pEvm (0x100 + 0x10 * c) = 0 := by simp only [winIdx, hkind]
  rw [accAddr, hwin]
  simp only [Fld.addr, EVM.CH_CFG]
  omega

/-- A channel's configuration after an accepted write. -/
def chCfgWord (s : State) (c : Nat) (data : Word) : Word :=
  takenWord .evm pEvm (0x100 + 0x10 * c) data (rdWord s (EVM.CH_CFG.addr pEvm c))

theorem writeReg_chCfg (h : busOpen s who pEvm = true) (hc : c < 64) :
    writeReg who pEvm (0x100 + 0x10 * c) data s = wrWord (EVM.CH_CFG.addr pEvm c) (chCfgWord s c data) s := by
  rw [writeReg_live h (kind := .evm) (by decide) (by rw [fieldsAt_chCfg c hc]; decide), accAddr_chCfg, chCfgWord]

/-- Every field of CH_CFG takes its bits. -/
theorem of_chCfgWord {d : FieldDesc} (hc : c < 64) (hd : d ∈ chCfgFields) : d.fld.of (chCfgWord s c data) = d.fld.of data := by
  have htakes : fieldTakes pEvm (0x100 + 0x10 * c) d (d.fld.of data) = true := by
    have hkind : pageKind pEvm = some .evm := by decide
    simp only [fieldTakes, hkind]
  have hfit : ∀ d ∈ chCfgFields, d.acc = .rw ∧ d.fld.lo + d.fld.w ≤ 32 := by decide
  have hacc : ∀ e ∈ chCfgFields, e.acc = .rw ∨ e.acc = .ro := by decide
  rw [chCfgWord, takenWord, fieldsAt_chCfg c hc, of_mergeFields hd (hfit d hd).1 (hfit d hd).2 hacc (by decide), if_pos htakes]

/-- The protection and the secured sources let a write of CH_CFG[c] through. -/
def chFree (s : State) (who : Requester) (c : Nat) (data : Word) : Bool :=
  !(decide (getF s pEvm EVM.PROT_MODE = 1) && decide (getF s pEvm EVM.CH_PROT_OWN c ≠ 0) && decide (getF s pEvm EVM.CH_PROT_OWN c ≠ reqCode who))
    && !(decide (getF s pEvm EVM.PROT_MODE = 2) && isSet s pEvm EVM.CH_PROT_LK c) && !secured s c data

theorem exec_evmChCfgWrite (h : busOpen s who pEvm = true) :
    exec (.evmChCfgWrite who c w) s = .next (chCfgWrite who c (BitVec.ofNat 32 w) s) :=
  congrArg Host.Outcome.next (busGate_open h (by decide) _ _)

/-- The channel that a write of CH_CFG would close a loop with. -/
def chLoop (s : State) (c : Nat) (data : Word) : Option Nat := if EVM.CH_CFG_EN.of data = 1 then cycleOf (usedChans s c data) c else none

/-- What the protection asks of a write that it lets through. -/
theorem chFree_parts (h : chFree s who c data = true) :
    ¬ (getF s pEvm EVM.PROT_MODE = 1 ∧ getF s pEvm EVM.CH_PROT_OWN c ≠ 0 ∧ getF s pEvm EVM.CH_PROT_OWN c ≠ reqCode who)
      ∧ ¬ (getF s pEvm EVM.PROT_MODE = 2 ∧ isSet s pEvm EVM.CH_PROT_LK c = true) ∧ ¬ secured s c data = true := by
  simp only [chFree, Bool.and_eq_true, Bool.not_eq_true', Bool.and_eq_false_iff, decide_eq_false_iff_not] at h
  obtain ⟨⟨hown, hlock⟩, hsec⟩ := h
  refine ⟨by tauto, ?_, by simp [hsec]⟩
  rintro ⟨hmode, hlk⟩
  simp [hmode, hlk] at hlock

/-- A write that the protection lets through is taken where it closes no loop. -/
theorem chCfgWrite_taken (h : chFree s who c data = true) (hloop : chLoop s c data = none) :
    chCfgWrite who c data s = writeReg who pEvm (0x100 + 0x10 * c) data s := by
  obtain ⟨hown, hlock, hsec⟩ := chFree_parts h
  unfold chLoop at hloop
  rw [chCfgWrite, chanGuard, if_neg hown, if_neg hlock, if_neg hsec]
  simp only [hloop]

theorem chCfgWrite_loop {x : Nat} (h : chFree s who c data = true) (hloop : chLoop s c data = some x) : chCfgWrite who c data s =
    errRec pEvm 0x20 0 0 (c + 256 * x) 0 (incSat pEvm EVM.LOOP_CNT_LOOP_CNT 0 (irqBit pEvm 1 s)) := by
  obtain ⟨hown, hlock, hsec⟩ := chFree_parts h
  unfold chLoop at hloop
  rw [chCfgWrite, chanGuard, if_neg hown, if_neg hlock, if_neg hsec]
  simp only [hloop]

/-- A write that the protection holds off leaves only a record. -/
theorem chCfgWrite_held (h : chFree s who c data = false) :
    chCfgWrite who c data s = ownViol who pEvm (0x100 + 0x10 * c) s ∨ chCfgWrite who c data s = lockViol who pEvm (0x100 + 0x10 * c) s := by
  rw [chCfgWrite, chanGuard]
  split
  case isTrue => exact .inl rfl
  case isFalse hown =>
    split
    case isTrue => exact .inr rfl
    case isFalse hlock =>
      refine .inl (if_pos ?_)
      by_contra hsec
      have hfree : chFree s who c data = true := by
        simp only [chFree, Bool.and_eq_true, Bool.not_eq_true', Bool.and_eq_false_iff, decide_eq_false_iff_not]
        refine ⟨⟨by tauto, ?_⟩, Bool.eq_false_iff.2 hsec⟩
        by_cases hmode : getF s pEvm EVM.PROT_MODE = 2
        · exact .inr (Bool.eq_false_iff.2 fun hlk => hlock ⟨hmode, hlk⟩)
        · exact .inl hmode
      exact Bool.false_ne_true (h.symm.trans hfree)

theorem typedSame_ownViol {p o : Nat} : typedSame s (ownViol who p o s) := typedSame_errRec (typedSame_irqBit rfl)

theorem typedSame_lockViol {p o : Nat} : typedSame s (lockViol who p o s) := typedSame_errRec (typedSame_irqBit rfl)

/-- The configurations stand in none of the registers that a refusal writes. -/
theorem chCfg_not_recRegs : EVM.CH_CFG.addr pEvm c ∉ EVM.LOOP_CNT.addr pEvm 0 :: HDR.IRQ_STAT.addr pEvm 0 :: recRegs pEvm ∨ 64 ≤ c := by
  simp only [Fld.addr, EVM.CH_CFG, EVM.LOOP_CNT, HDR.IRQ_STAT, HDR.ERR_CNT_TOTAL, DMP.DUMP_STAT_FATAL_CNT, recRegs, pEvm, List.mem_cons,
    List.not_mem_nil, or_false]
  omega

theorem regsSame_ownViol {p o : Nat} : regsSame (HDR.IRQ_STAT.addr p 0 :: recRegs p) s (ownViol who p o s) :=
  regsSame_errRec (by simp [recRegs]) (by simp [recRegs]) (by simp [recRegs]) (regsSame_irqBit (by simp) (regsSame_refl _ _))

theorem regsSame_lockViol {p o : Nat} : regsSame (HDR.IRQ_STAT.addr p 0 :: recRegs p) s (lockViol who p o s) :=
  regsSame_errRec (by simp [recRegs]) (by simp [recRegs]) (by simp [recRegs]) (regsSame_irqBit (by simp) (regsSame_refl _ _))

/-! ### PROT (R489) -/

theorem exec_evmProtWrite (h : busOpen s who pEvm = true) : exec (.evmProtWrite who v) s = .next (protWrite v s) :=
  congrArg Host.Outcome.next (viaBus_open h (k := .evm) rfl _ _ _ _ (fun hc => absurd hc (by decide)))

/-- The mode fixed by the first write of 1 or 2. -/
def stProtFixed (v : Nat) (s : State) : State := putF pEvm EVM.PROT_FIXED 1 0 (putF pEvm EVM.PROT_MODE v 0 s)

theorem protWrite_first (hfixed : isSet s pEvm EVM.PROT_FIXED = false) (hv : v = 1 ∨ v = 2) : protWrite v s =
    if s.boot.fw then (if v = 1 then putF pEvm EVM.CH_PROT_OWN 2 63 (stProtFixed v s) else putF pEvm EVM.CH_PROT_LK 1 63 (stProtFixed v s))
    else stProtFixed v s := by
  have hfw : (stProtFixed v s).boot.fw = s.boot.fw := rfl
  unfold protWrite
  dsimp only
  rw [if_neg (by simp [hfixed]), if_neg (by omega), ← stProtFixed, hfw]
  cases s.boot.fw <;> simp

theorem stProtFixed_shows (hv : v < 4) : getF (stProtFixed v s) pEvm EVM.PROT_MODE = v ∧ isSet (stProtFixed v s) pEvm EVM.PROT_FIXED = true := by
  refine ⟨?_, isSet_putF (by decide)⟩
  rw [stProtFixed, getF_putF_beside (by decide), getF_putF _ _ _ _ _ (by decide)]
  exact Nat.mod_eq_of_lt hv

/-- What the first write of PROT leaves (R486, R489). -/
theorem protWrite_shows (hfixed : isSet s pEvm EVM.PROT_FIXED = false) (hv : v = 1 ∨ v = 2) :
    getF (protWrite v s) pEvm EVM.PROT_MODE = v ∧ isSet (protWrite v s) pEvm EVM.PROT_FIXED = true
      ∧ (s.boot.fw = true → v = 1 → getF (protWrite v s) pEvm EVM.CH_PROT_OWN 63 = 2)
      ∧ (s.boot.fw = true → v = 2 → isSet (protWrite v s) pEvm EVM.CH_PROT_LK 63 = true)
      ∧ regsSame [EVM.PROT.addr pEvm 0, EVM.CH_PROT.addr pEvm 63] s (protWrite v s) ∧ typedSame s (protWrite v s) := by
  obtain ⟨hmode, hfix⟩ := stProtFixed_shows (s := s) (v := v) (by omega)
  have hregs : regsSame [EVM.PROT.addr pEvm 0, EVM.CH_PROT.addr pEvm 63] s (stProtFixed v s) :=
    regsSame_putF (by decide) (regsSame_putF (by decide) (regsSame_refl _ _))
  have htyped : typedSame s (stProtFixed v s) := typedSame_putF (typedSame_putF rfl)
  rw [protWrite_first hfixed hv]
  cases hfw : s.boot.fw with
  | false => exact ⟨hmode, hfix, fun h => absurd h (by decide), fun h => absurd h (by decide), hregs, htyped⟩
  | true =>
    obtain rfl | rfl := hv
    · refine ⟨(getF_putF_reg (by decide) _ _).trans hmode, (isSet_putF_reg (by decide)).trans hfix,
        fun _ _ => getF_putF _ EVM.CH_PROT_OWN _ _ _ (by decide), fun _ h => absurd h (by decide), regsSame_putF (by decide) hregs,
        typedSame_putF htyped⟩
    · refine ⟨(getF_putF_reg (by decide) _ _).trans hmode, (isSet_putF_reg (by decide)).trans hfix, fun _ h => absurd h (by decide),
        fun _ _ => isSet_putF (by decide), regsSame_putF (by decide) hregs, typedSame_putF htyped⟩

/-- Settles O53: registrations go channel by channel (`channel_at_edge`), a delivery is followed through `stEventDone`, and a write of
CH_CFG goes by `chCfgWrite_taken`, `chCfgWrite_loop` or `chCfgWrite_held`. -/
theorem eventMatrix : Obligations.EventMatrix := by
  intro s who
  refine ⟨fun trig h => ?noneRaised, fun trig e hmin => ?register, fun trig h => ?noneFlying, fun trig x hx => ?deliver, fun k _ => ?timer,
    fun c hc w _ hopen => ?config, fun v _ hopen => ?prot⟩
  case noneRaised =>
    have hexec : exec (.evmRegister trig) s = execEvmRegister trig s := rfl
    rw [hexec, execEvmRegister, h]
    rfl
  case noneFlying =>
    have hexec : exec (.evmDeliver trig) s = execEvmDeliver trig s := rfl
    rw [hexec, execEvmDeliver, h]
  case register =>
    rw [exec_evmRegister hmin]
    refine ⟨fun h => by rw [if_pos h], fun hdue => ?_⟩
    rw [if_neg (by omega)]
    cases hon : evmOn s with
    | false => exact ⟨_, rfl, rfl, rfl, fun _ => ⟨rfl, fun _ _ => rfl⟩, fun h => absurd h (by decide), rfl⟩
    | true =>
      have htyped := (registered_stEdge (s := s) (e := e) (trig := trig)).typed
      refine ⟨_, rfl, ?_, ?_, fun h => absurd h (by decide), fun _ c hc => channel_at_edge hc, ?_⟩
      · rw [if_pos rfl, htyped]
        rfl
      · rw [if_pos rfl, htyped]
        rfl
      · rw [if_pos rfl]
        unfold typedSame at *
        rw [htyped]
        rfl
  case deliver =>
    rw [exec_evmDeliver hx]
    refine ⟨fun h => by rw [if_pos h], fun hdue hchan => ?_⟩
    rw [if_neg (by omega)]
    refine ⟨_, rfl, evt_stEventDone hchan, fun hirq => hit_stEventDone hirq hchan, flight_stEventDone (List.mem_of_find?_eq_some hx),
      fun hd hlast => stEventDone_merged hd hlast hchan, fun h h' hlast => stEventDone_wake h h' hlast hchan,
      fun hon c hc hen hsrc hgate => taker_event hchan hon hc hen hsrc hgate⟩
  case timer =>
    refine ⟨fun h => congrArg Host.Outcome.next (if_pos h), fun h => congrArg Host.Outcome.next (if_neg ?_)⟩
    rintro ⟨h1, h2, h3, h4, h5, h6⟩
    simp only [h2, h3, h4, Bool.true_eq_false, false_or, h5, ne_eq, not_true_eq_false] at h
    obtain h | h := h
    · exact h1 h
    · obtain ⟨r, hr, hraised⟩ := List.any_eq_true.1 h
      have hno := List.all_eq_true.1 h6 r hr
      simp only [Bool.and_eq_true, decide_eq_true_eq] at hraised
      simp [hraised.1, hraised.2] at hno
  case config =>
    rw [exec_evmChCfgWrite hopen]
    have hcfg := (chCfg_not_recRegs (c := c)).resolve_right (by omega)
    refine ⟨fun (hfree : chFree s who c (BitVec.ofNat 32 w) = true) hloop => ?taken,
      fun (hfree : chFree s who c (BitVec.ofNat 32 w) = true) hen hloop => ?loop, fun (hheld : chFree s who c (BitVec.ofNat 32 w) = false) => ?held⟩
    case taken =>
      have hnone : chLoop s c (BitVec.ofNat 32 w) = none := by
        obtain h | h := hloop
        · rw [chLoop, if_neg (by omega)]
        · rw [chLoop, h, ite_self]
      have hwrite : chCfgWrite who c (BitVec.ofNat 32 w) s = wrWord (EVM.CH_CFG.addr pEvm c) (chCfgWord s c (BitVec.ofNat 32 w)) s := by
        rw [chCfgWrite_taken hfree hnone]
        exact writeReg_chCfg hopen hc
      have hread {d : FieldDesc} (hd : d ∈ chCfgFields) (ha : d.fld.addr pEvm c = EVM.CH_CFG.addr pEvm c) :
          getF (chCfgWrite who c (BitVec.ofNat 32 w) s) pEvm d.fld c = d.fld.of (BitVec.ofNat 32 w) := by
        rw [getF, ha, hwrite, rdWord_wrWord, of_chCfgWord hc hd]
      refine ⟨_, rfl, hread (d := ⟨EVM.CH_CFG_EN, .rw, .l, 0⟩) (by decide) rfl, hread (d := ⟨EVM.CH_CFG_SRC, .rw, .l, 0⟩) (by decide) rfl,
        hread (d := ⟨EVM.CH_CFG_DST, .rw, .l, 0⟩) (by decide) rfl, hread (d := ⟨EVM.CH_CFG_IRQ, .rw, .l, 0⟩) (by decide) rfl,
        hread (d := ⟨EVM.CH_CFG_GINV, .rw, .l, 0⟩) (by decide) rfl, ?_, ?_⟩ <;> rw [hwrite]
      · exact regsSame_wrWord (by simp) (regsSame_refl _ _)
      · exact typedSame_wrWord rfl
    case loop =>
      have hcycle : cycleOf (usedChans s c (BitVec.ofNat 32 w)) c ≠ none := hloop.elim id fun hsrc => cycleOf_self hc hen hsrc
      obtain ⟨x, hx⟩ := Option.ne_none_iff_exists'.1 hcycle
      have hwrite : chCfgWrite who c (BitVec.ofNat 32 w) s =
          errRec pEvm 0x20 0 0 (c + 256 * x) 0 (incSat pEvm EVM.LOOP_CNT_LOOP_CNT 0 (irqBit pEvm 1 s)) :=
        chCfgWrite_loop hfree ((if_pos hen).trans hx)
      rw [hwrite]
      refine ⟨_, rfl, ?_, irqStat_errRec_of ((irqStat_putF (by decide)).trans (irqStat_irqBit_same (by decide))), ?_,
        typedSame_errRec (typedSame_incSat (typedSame_irqBit rfl))⟩
      · refine (regsSame_errRec (by simp [recRegs]) (by simp [recRegs]) (by simp [recRegs])
          (regsSame_incSat (by decide) (regsSame_irqBit (by simp) (regsSame_refl _ _)))) _ hcfg
      · rw [getF_errRec _ _ _ _ _ _ _ _ _ _ (by decide) (by decide) (by decide), getF_incSat (by decide), getF_irqBit _ _ _ _ _ _ (by decide)]
        rfl
    case held =>
      have hno : EVM.CH_CFG.addr pEvm c ∉ HDR.IRQ_STAT.addr pEvm 0 :: recRegs pEvm := fun h => hcfg (List.mem_cons_of_mem _ h)
      obtain h | h := chCfgWrite_held hheld <;> rw [h]
      · exact ⟨_, rfl, regsSame_ownViol _ hno, typedSame_ownViol⟩
      · exact ⟨_, rfl, regsSame_lockViol _ hno, typedSame_lockViol⟩
  case prot =>
    rw [exec_evmProtWrite hopen]
    refine ⟨fun hfixed => by rw [protWrite, if_pos hfixed], fun hfixed hv => ?_, fun hfixed hv => ⟨_, rfl, protWrite_shows hfixed hv⟩⟩
    rw [protWrite, if_neg (by simp [hfixed]), if_pos hv]

end Sys2Proof.Machine
end

section
/-!
PROOFS. The bias outputs (R413 to R419): strobes output by output, codes, range changes, the clear and limits.
-/
namespace Sys2Proof.Machine

variable {s t : State} {who : Requester} {a g i m n v : Nat} {f : Fld} {P : Nat → Prop}

/-! ### What the strobes of some outputs change -/

/-- The registers that a strobe of any output may write, beside the output's own. -/
def strobeRegs : List Nat := [BIA.PEND_MAP.addr pBia 0, BIA.PEND_MAP.addr pBia 1, HDR.IRQ_STAT.addr pBia 0, HDR.ERR_CNT_TOTAL.addr pBia 0]

/-- Strobes of the outputs of a set: only their STATUS changes, beside PEND_MAP, the records of the page, and the pages behind it,
where comparators start their ramps. -/
structure Strobed (P : Nat → Prop) (s t : State) : Prop where
  regs : ∀ a, a < 0xA000 → a ∉ strobeRegs → (∀ n, P n → a ≠ BIA.BIAS_STAT.addr pBia n) → rdWord t a = rdWord s a
  irq : ∀ k, irqStat s pBia k = true → irqStat t pBia k = true
  typed : typedSame s t

namespace Strobed

theorem refl (s : State) : Strobed P s s := ⟨fun _ _ _ _ => rfl, fun _ h => h, rfl⟩

theorem trans {u : State} (h : Strobed P s t) (h' : Strobed P t u) : Strobed P s u :=
  ⟨fun a h1 h2 h3 => (h'.regs a h1 h2 h3).trans (h.regs a h1 h2 h3), fun k hk => h'.irq k (h.irq k hk), typedSame_trans h.typed h'.typed⟩

/-- A register past the BIA page, the output's own STATUS, or PEND_MAP. -/
theorem putF {p : Nat} (ha : 0xA000 ≤ f.addr p i ∨ (∃ n, n < 64 ∧ P n ∧ f.addr p i = BIA.BIAS_STAT.addr pBia n)
    ∨ f.addr p i = BIA.PEND_MAP.addr pBia 0 ∨ f.addr p i = BIA.PEND_MAP.addr pBia 1) (h : Strobed P s t) : Strobed P s (putF p f v i t) := by
  refine h.trans ⟨fun a h1 h2 h3 => rdWord_wrWord_other ?_ _ _, fun k hk => (irqStat_putF ?_).trans hk, rfl⟩
  · rintro rfl
    obtain h | ⟨n, -, hn, h⟩ | h | h := ha
    · omega
    · exact h3 n hn h
    · exact h2 (by rw [h]; decide)
    · exact h2 (by rw [h]; decide)
  · obtain h | ⟨n, hn, -, h⟩ | h | h := ha
    · simp only [Fld.addr, HDR.IRQ_STAT, pBia] at h ⊢
      omega
    · rw [h]
      simp only [Fld.addr, HDR.IRQ_STAT, BIA.BIAS_STAT, pBia]
      omega
    · rw [h]
      decide
    · rw [h]
      decide

theorem irqBit (h : Strobed P s t) : Strobed P s (irqBit pBia v t) := by
  refine h.trans ⟨fun a _ h2 _ => rdWord_irqSet _ _ _ _ ?_, fun k hk => irqStat_irqBit_of hk, typedSame_irqBit rfl⟩
  rintro rfl
  exact h2 (by decide)

theorem errRec {code sev unit info addr : Nat} (h : Strobed P s t) : Strobed P s (errRec pBia code sev unit info addr t) := by
  refine h.trans ⟨fun a h1 h2 _ => rdWord_errRec _ _ _ _ _ _ _ _ ?_ ?_ ?_, fun k hk => irqStat_errRec_of hk, typedSame_errRec rfl⟩ <;> rintro rfl
  · exact h2 (by decide)
  · exact h2 (by decide)
  · exact absurd h1 (by decide)

theorem ite {c : Prop} [Decidable c] {y z : State} (hy : Strobed P s y) (hz : Strobed P s z) : Strobed P s (if c then y else z) := by
  split
  · exact hy
  · exact hz

theorem rampStart (h : Strobed P s t) : Strobed P s (rampStart n t) := by
  refine Strobed.ite (Strobed.putF (.inl ?_) h) h
  simp only [Fld.addr, MON.MON_STAT_RBUSY, pMon]
  omega

theorem setPend {b : Bool} (hn : n < 64) (hP : P n) (h : Strobed P s t) : Strobed P s (setPend n b t) := by
  have hmap : n / 32 = 0 ∨ n / 32 = 1 := by omega
  refine Strobed.putF (f := BIA.PEND_MAP) (.inr (.inr ?_)) (Strobed.putF (f := BIA.BIAS_STAT_PEND) (.inr (.inl ⟨n, hn, hP, rfl⟩)) h)
  obtain h | h := hmap <;> rw [h]
  · exact .inl rfl
  · exact .inr rfl

/-- A strobe of one output of the set. -/
theorem strobeOne (hn : n < 64) (hP : P n) (h : Strobed P s t) : Strobed P s (strobeOne g n t) := by
  have hown {f : Fld} (hf : f.addr pBia n = BIA.BIAS_STAT.addr pBia n) {v : Nat} {u : State} (hu : Strobed P s u) :
      Strobed P s (Machine.putF pBia f v n u) := Strobed.putF (.inr (.inl ⟨n, hn, hP, hf⟩)) hu
  have hact (code : Nat) := hown (f := BIA.BIAS_STAT_STATE) rfl (v := 1) (hown (f := BIA.BIAS_STAT_OUT) rfl (v := code) h)
  unfold Machine.strobeOne
  dsimp only
  split
  · split
    · exact Strobed.ite (rampStart (hact _)) (hact _)
    · exact Strobed.ite (rampStart (setPend hn hP (hact _))) (setPend hn hP (hact _))
  · exact Strobed.ite (irqBit h) (errRec (hown (f := BIA.BIAS_STAT_IGN) rfl (irqBit h)))

theorem getF {p : Nat} (h : Strobed P s t) (h1 : f.addr p i < 0xA000) (h2 : f.addr p i ∉ strobeRegs)
    (h3 : ∀ n, P n → f.addr p i ≠ BIA.BIAS_STAT.addr pBia n) : getF t p f i = getF s p f i := congrArg f.of (h.regs _ h1 h2 h3)

/-- The settings of an output, and the page's own controls. -/
theorem setting (h : Strobed P s t) {f : Fld} (hf : f.off = 0x100 ∨ f.off = 0x104 ∨ f.off = 0x108) (hs : f.stride = 0x10) (hn : n < 64) :
    Machine.getF t pBia f n = Machine.getF s pBia f n := by
  refine h.getF ?_ ?_ fun m _ => ?_
  · simp only [Fld.addr, hs, pBia]
    omega
  · simp only [Fld.addr, hs, BIA.PEND_MAP, HDR.IRQ_STAT, HDR.ERR_CNT_TOTAL, pBia, strobeRegs, List.mem_cons, List.not_mem_nil, or_false]
    omega
  · simp only [Fld.addr, hs, BIA.BIAS_STAT, pBia]
    omega

/-- A register below those of the outputs. -/
theorem low (h : Strobed P s t) {p : Nat} (h1 : f.addr p i < 0x9048) (h2 : f.addr p i ∉ strobeRegs) :
    isSet t p f i = isSet s p f i := by
  have hread : Machine.getF t p f i = Machine.getF s p f i := by
    refine h.getF (by omega) h2 fun m _ => ?_
    simp only [Fld.addr, BIA.BIAS_STAT, pBia] at h1 ⊢
    omega
  simp only [isSet, hread]

theorem clearInForce (h : Strobed P s t) : clearInForce t = clearInForce s := by
  have hbias : t.bias = s.bias := by rw [h.typed]
  simp only [Machine.clearInForce, hbias, h.low (f := BIA.BIA_CTL_CLR_SW) (p := pBia) (i := 0) (by decide) (by decide),
    h.low (f := HDR.CTRL_EN) (p := pBia) (i := 0) (by decide) (by decide)]

/-- The status of an output that is not strobed. -/
theorem status (h : Strobed P s t) (hn : n < 64) (hP : ¬ P n) : rdWord t (BIA.BIAS_STAT.addr pBia n) = rdWord s (BIA.BIAS_STAT.addr pBia n) := by
  refine h.regs _ ?_ ?_ fun m hm => ?_
  · simp only [Fld.addr, BIA.BIAS_STAT, pBia]
    omega
  · simp only [Fld.addr, BIA.BIAS_STAT, BIA.PEND_MAP, HDR.IRQ_STAT, HDR.ERR_CNT_TOTAL, pBia, strobeRegs, List.mem_cons, List.not_mem_nil, or_false]
    omega
  · have hne : n ≠ m := fun e => hP (e ▸ hm)
    simp only [Fld.addr, BIA.BIAS_STAT, pBia]
    omega

/-- What an output shows is not touched by strobes of others. -/
theorem getF_status (h : Strobed P s t) (hn : n < 64) (hP : ¬ P n) {f : Fld} (hf : f.addr pBia n = BIA.BIAS_STAT.addr pBia n) :
    Machine.getF t pBia f n = Machine.getF s pBia f n := by
  rw [Machine.getF, Machine.getF, hf, h.status hn hP]

theorem freshCode (h : Strobed P s t) : freshCode t n = freshCode s n := by
  have hbias : t.bias = s.bias := by rw [h.typed]
  have hhc : hcNow t = hcNow s := by rw [hcNow, mfc, h.typed]; rfl
  simp only [Machine.freshCode, hbias, hhc]

theorem strobeView (h : Strobed P s t) (hn : n < 64) (hP : ¬ P n) : strobeView t n = strobeView s n := by
  simp only [Machine.strobeView, h.freshCode, h.setting (f := BIA.BIAS_CODE_CODE) (.inr (.inl rfl)) rfl hn,
    h.getF_status hn hP (f := BIA.BIAS_STAT_PEND) rfl]

theorem biasState (h : Strobed P s t) (hn : n < 64) (hP : ¬ P n) : biasState t n = biasState s n := h.getF_status hn hP rfl

end Strobed

/-! ### A strobe at one output (R414, R415) -/

/-- The strobe puts the output's code out: it is active, or it waits with a code in INIT or WAIT. -/
def strobeActs (s : State) (n : Nat) : Prop :=
  Machine.biasState s n = 1 ∨ ((Machine.biasState s n = 0 ∨ Machine.biasState s n = 3) ∧ (Machine.strobeView s n).2 = 1)

/-- The output with its code put out. -/
def stStrobed (n : Nat) (s : State) : State :=
  if (freshCode s n).isSome then putF pBia BIA.BIAS_STAT_STATE 1 n (putF pBia BIA.BIAS_STAT_OUT (strobeView s n).1 n s)
  else setPend n false (putF pBia BIA.BIAS_STAT_STATE 1 n (putF pBia BIA.BIAS_STAT_OUT (strobeView s n).1 n s))

theorem freshCode_putF {p : Nat} (u : State) : freshCode (putF p f v i u) n = freshCode u n := rfl

theorem strobeOne_acts (h : strobeActs s n) : strobeOne g n s =
    if rtrig (stStrobed n s) n = 1 then rampStart n (stStrobed n s) else stStrobed n s := by
  unfold strobeActs at h
  unfold strobeOne
  dsimp only
  rw [if_pos h, freshCode_putF, freshCode_putF, ← stStrobed]

theorem strobeOne_ignored (h : ¬ strobeActs s n) : strobeOne g n s =
    if isSet (irqBit pBia 2 s) pBia BIA.BIAS_STAT_IGN n then irqBit pBia 2 s
    else errRec pBia 0x22 0 n (g + 16 * biasState s n) 0 (putF pBia BIA.BIAS_STAT_IGN 1 n (irqBit pBia 2 s)) := by
  unfold strobeActs at h
  unfold strobeOne
  dsimp only
  rw [if_neg h]

/-- The status of an output is no other register that its strobe writes. -/
theorem biasStat_ne (hn : n < 64) : BIA.BIAS_STAT.addr pBia n ≠ HDR.IRQ_STAT.addr pBia 0
    ∧ BIA.BIAS_STAT.addr pBia n ∉ HDR.IRQ_STAT.addr pBia 0 :: recRegs pBia
    ∧ (∀ m, BIA.BIAS_STAT.addr pBia n ≠ MON.MON_STAT_RBUSY.addr pMon m)
    ∧ BIA.BIAS_STAT.addr pBia n ≠ BIA.PEND_MAP.addr pBia (n / 32) ∧ BIA.BIAS_STAT.addr pBia n ≠ BIA.LIM_MAP.addr pBia (n / 32) := by
  refine ⟨?_, ?_, fun m => ?_, ?_, ?_⟩
  · simp only [Fld.addr, BIA.BIAS_STAT, HDR.IRQ_STAT, pBia]; omega
  · simp only [Fld.addr, BIA.BIAS_STAT, HDR.IRQ_STAT, HDR.ERR_CNT_TOTAL, DMP.DUMP_STAT_FATAL_CNT, recRegs, pBia, List.mem_cons,
      List.not_mem_nil, or_false]
    omega
  · simp only [Fld.addr, BIA.BIAS_STAT, MON.MON_STAT_RBUSY, pBia, pMon]; omega
  · simp only [Fld.addr, BIA.BIAS_STAT, BIA.PEND_MAP, pBia]; omega
  · simp only [Fld.addr, BIA.BIAS_STAT, BIA.LIM_MAP, pBia]; omega

theorem rdWord_rampStart {a : Nat} (h : a ≠ MON.MON_STAT_RBUSY.addr pMon n) (u : State) : rdWord (rampStart n u) a = rdWord u a := by
  unfold rampStart
  split
  · exact rdWord_wrWord_other h _ _
  · rfl

/-- The status of the output after its code has been put out. -/
theorem getF_strobeOne_acts (hn : n < 64) (h : strobeActs s n) {f : Fld} (hf : f.addr pBia n = BIA.BIAS_STAT.addr pBia n) :
    getF (strobeOne g n s) pBia f n = getF (stStrobed n s) pBia f n := by
  refine congrArg f.of ?_
  rw [strobeOne_acts h, hf]
  split
  · exact rdWord_rampStart ((biasStat_ne hn).2.2.1 n) _
  · rfl

/-- PEND_MAP stands beside the status. -/
theorem getF_setPend (hn : n < 64) {b : Bool} {f : Fld} (hf : f.addr pBia n = BIA.BIAS_STAT.addr pBia n) :
    getF (setPend n b s) pBia f n = getF (putF pBia BIA.BIAS_STAT_PEND (ofBool b) n s) pBia f n :=
  getF_putF_reg (by rw [hf]; exact (biasStat_ne hn).2.2.2.1) _ _

/-- The output drives its code and is active. -/
theorem strobeOne_shows (hn : n < 64) (h : strobeActs s n) :
    getF (strobeOne g n s) pBia BIA.BIAS_STAT_OUT n = (strobeView s n).1 % 2 ^ BIA.BIAS_STAT_OUT.w ∧ biasState (strobeOne g n s) n = 1
      ∧ (freshCode s n = none → isSet (strobeOne g n s) pBia BIA.BIAS_STAT_PEND n = false)
      ∧ ((freshCode s n).isSome = true → isSet (strobeOne g n s) pBia BIA.BIAS_STAT_PEND n = isSet s pBia BIA.BIAS_STAT_PEND n) := by
  have hread {f : Fld} (hf : f.addr pBia n = BIA.BIAS_STAT.addr pBia n) := getF_strobeOne_acts (g := g) hn h hf
  have hpend {f : Fld} (hf : f.addr pBia n = BIA.BIAS_STAT.addr pBia n) := getF_setPend (b := false) hn hf
    (s := putF pBia BIA.BIAS_STAT_STATE 1 n (putF pBia BIA.BIAS_STAT_OUT (strobeView s n).1 n s))
  simp only [biasState, isSet, hread (f := BIA.BIAS_STAT_OUT) rfl, hread (f := BIA.BIAS_STAT_STATE) rfl, hread (f := BIA.BIAS_STAT_PEND) rfl]
  cases hfresh : freshCode s n with
  | none =>
    have hst : stStrobed n s = setPend n false (putF pBia BIA.BIAS_STAT_STATE 1 n (putF pBia BIA.BIAS_STAT_OUT (strobeView s n).1 n s)) := by
      rw [stStrobed, hfresh, if_neg (by decide)]
    rw [hst, hpend (f := BIA.BIAS_STAT_OUT) rfl, hpend (f := BIA.BIAS_STAT_STATE) rfl, hpend (f := BIA.BIAS_STAT_PEND) rfl]
    refine ⟨?_, ?_, fun _ => ?_, fun h => absurd h (by decide)⟩
    · rw [getF_putF_beside (by decide), getF_putF_beside (by decide), getF_putF _ _ _ _ _ (by decide)]
    · rw [getF_putF_beside (by decide), getF_putF _ _ _ _ _ (by decide)]
      rfl
    · rw [getF_putF _ _ _ _ _ (by decide)]
      rfl
  | some x =>
    have hst : stStrobed n s = putF pBia BIA.BIAS_STAT_STATE 1 n (putF pBia BIA.BIAS_STAT_OUT (strobeView s n).1 n s) := by
      rw [stStrobed, hfresh, if_pos (by rfl)]
    rw [hst]
    refine ⟨?_, ?_, fun h => absurd h (by simp), fun _ => ?_⟩
    · rw [getF_putF_beside (by decide), getF_putF _ _ _ _ _ (by decide)]
    · rw [getF_putF _ _ _ _ _ (by decide)]
      rfl
    · rw [getF_putF_beside (by decide), getF_putF_beside (by decide)]

/-- An output that does not take the strobe keeps its code and state, with IGN and bit 2. -/
theorem strobeOne_ignores (hn : n < 64) (h : ¬ strobeActs s n) :
    biasState (strobeOne g n s) n = biasState s n ∧ isSet (strobeOne g n s) pBia BIA.BIAS_STAT_IGN n = true
      ∧ irqStat (strobeOne g n s) pBia 2 = true ∧ getF (strobeOne g n s) pBia BIA.BIAS_STAT_OUT n = getF s pBia BIA.BIAS_STAT_OUT n := by
  obtain ⟨hirq, hrec, -⟩ := biasStat_ne (n := n) hn
  have hbit {f : Fld} (hf : f.addr pBia n = BIA.BIAS_STAT.addr pBia n) : getF (irqBit pBia 2 s) pBia f n = getF s pBia f n :=
    getF_irqBit _ _ _ _ _ _ (by rw [hf]; exact hirq)
  have hreg {code sev unit info addr : Nat} {u : State} {f : Fld} (hf : f.addr pBia n = BIA.BIAS_STAT.addr pBia n) :
      getF (errRec pBia code sev unit info addr u) pBia f n = getF u pBia f n :=
    regsSame_getF (regsSame_record (regsSame_refl _ _)) (by rw [hf]; exact fun hm => hrec (List.mem_cons_of_mem _ hm))
  rw [strobeOne_ignored h]
  split
  case isTrue hign => exact ⟨hbit (f := BIA.BIAS_STAT_STATE) rfl, hign, irqStat_irqBit_same (by decide), hbit (f := BIA.BIAS_STAT_OUT) rfl⟩
  case isFalse =>
    refine ⟨?_, ?_, irqStat_errRec_of ((irqStat_putF ?_).trans (irqStat_irqBit_same (by decide))), ?_⟩
    · rw [biasState, hreg (f := BIA.BIAS_STAT_STATE) rfl, getF_putF_beside (by decide), hbit (f := BIA.BIAS_STAT_STATE) rfl]
      rfl
    · rw [isSet, hreg (f := BIA.BIAS_STAT_IGN) rfl, getF_putF _ _ _ _ _ (by decide)]
      rfl
    · exact hirq.symm
    · rw [hreg (f := BIA.BIAS_STAT_OUT) rfl, getF_putF_beside (by decide), hbit (f := BIA.BIAS_STAT_OUT) rfl]

end Sys2Proof.Machine
end

section
/-!
PROOFS. The statement on the bias outputs (R413 to R419).
-/
namespace Sys2Proof.Machine

variable {s t : State} {who : Requester} {g i k n r v : Nat}

/-! ### Strobes of groups (R414, R416, R419) -/

/-- The outputs are held: the clear is in force, the page frozen or the device SAFE. -/
def strobeHeld (s : State) : Bool := clearInForce s || isSet s pBia HDR.CTRL_FREEZE || isSet s 0 GLB.START_STAT_SAFE

theorem strobe_held (h : strobeHeld s = true) : strobe g s = s := if_pos h

/-- The outputs of a group. -/
def groupOutputs (g : Nat) (s : State) : List Nat := (List.range (biasCount s)).filter (fun n => getF s pBia BIA.BIAS_CFG_GROUP n = g)

theorem strobe_free (h : strobeHeld s = false) : strobe g s = forAll (groupOutputs g s) (strobeOne g) s :=
  if_neg (by rw [← strobeHeld, h]; decide)

theorem biasCount_le (s : State) : biasCount s ≤ 64 := by
  unfold biasCount
  split <;> decide

theorem groupOutputs_lt {g : Nat} (h : n ∈ groupOutputs g s) : n < 64 :=
  Nat.lt_of_lt_of_le (List.mem_range.1 (List.mem_filter.1 h).1) (biasCount_le s)

theorem strobed_forAll {P : Nat → Prop} {l : List Nat} (hl : ∀ n ∈ l, n < 64 ∧ P n) : Strobed P s (forAll l (strobeOne g) s) :=
  forAll_induction_mem (P := Strobed P s) (fun _ hn _ h => h.strobeOne (hl _ hn).1 (hl _ hn).2) (.refl s)

theorem strobed_strobe_other (h : getF s pBia BIA.BIAS_CFG_GROUP n ≠ g) : Strobed (· ≠ n) s (strobe g s) := by
  cases hheld : strobeHeld s with
  | true =>
    rw [strobe_held hheld]
    exact .refl s
  | false =>
    rw [strobe_free hheld]
    exact strobed_forAll fun m hm => ⟨groupOutputs_lt hm, fun e => h (e ▸ of_decide_eq_true (List.mem_filter.1 hm).2)⟩

theorem strobed_strobe (g : Nat) : Strobed (fun _ => True) s (strobe g s) := by
  cases hheld : strobeHeld s with
  | true =>
    rw [strobe_held hheld]
    exact .refl s
  | false =>
    rw [strobe_free hheld]
    exact strobed_forAll fun m hm => ⟨groupOutputs_lt hm, trivial⟩

theorem Strobed.strobeHeld {P : Nat → Prop} (h : Strobed P s t) : strobeHeld t = strobeHeld s := by
  simp only [Machine.strobeHeld, h.clearInForce, h.low (f := HDR.CTRL_FREEZE) (p := pBia) (i := 0) (by decide) (by decide),
    h.low (f := GLB.START_STAT_SAFE) (p := 0) (i := 0) (by decide) (by decide)]

theorem Strobed.biasCount {P : Nat → Prop} (h : Strobed P s t) : biasCount t = biasCount s := by
  have hv : t.variant = s.variant := by rw [h.typed]
  simp only [Machine.biasCount, hv]

/-- An output of the group has its turn among those of the others. -/
theorem strobe_split (hheld : strobeHeld s = false) (hn : n < biasCount s) (hg : getF s pBia BIA.BIAS_CFG_GROUP n = g) :
    ∃ u, Strobed (· ≠ n) s u ∧ Strobed (· ≠ n) (strobeOne g n u) (strobe g s) := by
  have hmem : n ∈ groupOutputs g s := List.mem_filter.2 ⟨List.mem_range.2 hn, decide_eq_true hg⟩
  have hnodup : (groupOutputs g s).Nodup := List.nodup_range.filter _
  have hlt : ∀ m ∈ groupOutputs g s, m < 64 := fun m hm => groupOutputs_lt hm
  obtain ⟨l₁, l₂, hl⟩ := List.append_of_mem hmem
  rw [hl] at hnodup hlt
  obtain ⟨-, hl₂, hdisj⟩ := List.nodup_append.1 hnodup
  have h₁ : ∀ m ∈ l₁, m < 64 ∧ m ≠ n := fun m hm => ⟨hlt m (List.mem_append_left _ hm), hdisj m hm n List.mem_cons_self⟩
  have h₂ : ∀ m ∈ l₂, m < 64 ∧ m ≠ n := fun m hm =>
    ⟨hlt m (List.mem_append_right _ (.tail _ hm)), fun e => (List.nodup_cons.1 hl₂).1 (e ▸ hm)⟩
  refine ⟨_, strobed_forAll (g := g) h₁, ?_⟩
  rw [strobe_free hheld, hl]
  simp only [forAll, List.foldl_append, List.foldl_cons]
  exact strobed_forAll h₂

/-- What an output shows when its own turn is among those of others. -/
def OutputDone (n : Nat) (s t : State) : Prop :=
  (strobeActs s n →
      getF t pBia BIA.BIAS_STAT_OUT n = (strobeView s n).1 % 2 ^ BIA.BIAS_STAT_OUT.w ∧ biasState t n = 1
      ∧ (freshCode s n = none → isSet t pBia BIA.BIAS_STAT_PEND n = false)
      ∧ ((freshCode s n).isSome = true → isSet t pBia BIA.BIAS_STAT_PEND n = isSet s pBia BIA.BIAS_STAT_PEND n))
    ∧ (biasState s n = 2 → biasState t n = 2 ∧ isSet t pBia BIA.BIAS_STAT_IGN n = true ∧ irqStat t pBia 2 = true
      ∧ getF t pBia BIA.BIAS_STAT_OUT n = getF s pBia BIA.BIAS_STAT_OUT n)

theorem outputDone {u : State} (hn : n < 64) (hu : Strobed (· ≠ n) s u) (ht : Strobed (· ≠ n) (strobeOne g n u) t) : OutputDone n s t := by
  have hself : ¬ (n ≠ n) := by simp
  have hacts : strobeActs u n ↔ strobeActs s n := by rw [strobeActs, strobeActs, hu.biasState hn hself, hu.strobeView hn hself]
  have hread {f : Fld} (hf : f.addr pBia n = BIA.BIAS_STAT.addr pBia n) := ht.getF_status hn hself hf
  have hbefore {f : Fld} (hf : f.addr pBia n = BIA.BIAS_STAT.addr pBia n) := hu.getF_status hn hself hf
  have hpend : isSet t pBia BIA.BIAS_STAT_PEND n = isSet (strobeOne g n u) pBia BIA.BIAS_STAT_PEND n := by
    rw [isSet, hread (f := BIA.BIAS_STAT_PEND) rfl, isSet]
  refine ⟨fun h => ?acts, fun h => ?opening⟩
  case acts =>
    obtain ⟨hout, hstate, hfree, hheld⟩ := strobeOne_shows (g := g) hn (hacts.2 h)
    rw [hu.strobeView hn hself] at hout
    rw [hu.freshCode] at hfree hheld
    refine ⟨(hread (f := BIA.BIAS_STAT_OUT) rfl).trans hout, (ht.biasState hn hself).trans hstate, fun h => hpend.trans (hfree h),
      fun h => (hpend.trans (hheld h)).trans ?_⟩
    rw [isSet, hbefore (f := BIA.BIAS_STAT_PEND) rfl, isSet]
  case opening =>
    have hno : ¬ strobeActs u n := by
      rw [hacts, strobeActs]
      omega
    obtain ⟨hstate, hign, hirq, hout⟩ := strobeOne_ignores (g := g) hn hno
    refine ⟨((ht.biasState hn hself).trans hstate).trans ((hu.biasState hn hself).trans h), ?_, ht.irq 2 hirq,
      ((hread (f := BIA.BIAS_STAT_OUT) rfl).trans hout).trans (hbefore (f := BIA.BIAS_STAT_OUT) rfl)⟩
    rw [isSet, hread (f := BIA.BIAS_STAT_IGN) rfl]
    exact hign

/-- The groups a mask names. -/
def maskGroups (mask : Nat) : List Nat := (List.range 4).filter (fun g => bit mask g = 1)

theorem exec_biasStrobe {mask : Nat} (h : busOpen s who pBia = true) :
    exec (.biasStrobe who mask) s = .next (forAll (maskGroups mask) strobe s) :=
  congrArg Host.Outcome.next (viaBus_open h (k := .bia) rfl _ _ _ _ (fun hc => absurd hc (by decide)))

theorem forAll_strobe_other {l : List Nat} (h : getF s pBia BIA.BIAS_CFG_GROUP n ∉ l) (hn : n < 64) :
    Strobed (· ≠ n) s (forAll l strobe s) := by
  refine forAll_induction_mem (P := Strobed (· ≠ n) s) (fun g hg t (ht : Strobed (· ≠ n) s t) => ht.trans (strobed_strobe_other ?_)) (.refl s)
  rw [ht.setting (f := BIA.BIAS_CFG_GROUP) (.inl rfl) rfl hn]
  exact fun e => h (e ▸ hg)

theorem forAll_strobe (l : List Nat) : Strobed (fun _ => True) s (forAll l strobe s) :=
  forAll_induction (P := Strobed (fun _ => True) s) (fun g _ (ht : Strobed (fun _ => True) s _) => ht.trans (strobed_strobe g)) _ (.refl s)

/-- An output whose group is strobed has its turn. -/
theorem forAll_strobe_done {mask : Nat} (hheld : strobeHeld s = false) (hn : n < biasCount s)
    (hg : bit mask (getF s pBia BIA.BIAS_CFG_GROUP n) = 1) : OutputDone n s (forAll (maskGroups mask) strobe s) := by
  have hn64 : n < 64 := Nat.lt_of_lt_of_le hn (biasCount_le s)
  have hmem : getF s pBia BIA.BIAS_CFG_GROUP n ∈ maskGroups mask :=
    List.mem_filter.2 ⟨List.mem_range.2 (getF_lt s pBia BIA.BIAS_CFG_GROUP n), decide_eq_true hg⟩
  have hnodup : (maskGroups mask).Nodup := List.nodup_range.filter _
  obtain ⟨l₁, l₂, hl⟩ := List.append_of_mem hmem
  rw [hl] at hnodup
  obtain ⟨-, hl₂, hdisj⟩ := List.nodup_append.1 hnodup
  have hbefore : Strobed (· ≠ n) s (forAll l₁ strobe s) :=
    forAll_strobe_other (fun hm => hdisj _ hm _ List.mem_cons_self rfl) hn64
  have hgroup := hbefore.setting (f := BIA.BIAS_CFG_GROUP) (.inl rfl) rfl hn64
  obtain ⟨u, hu, ht⟩ := strobe_split (hbefore.strobeHeld.trans hheld) (hbefore.biasCount ▸ hn) hgroup
  have hsplit : forAll (maskGroups mask) strobe s = forAll l₂ strobe (strobe (getF s pBia BIA.BIAS_CFG_GROUP n) (forAll l₁ strobe s)) := by
    rw [hl]
    simp only [forAll, List.foldl_append, List.foldl_cons]
  rw [hsplit]
  refine outputDone hn64 (hbefore.trans hu) (ht.trans (forAll_strobe_other ?_ hn64))
  have hafter := (strobed_strobe (s := forAll l₁ strobe s) (getF s pBia BIA.BIAS_CFG_GROUP n)).setting (f := BIA.BIAS_CFG_GROUP) (.inl rfl) rfl hn64
  rw [hafter, hgroup]
  exact (List.nodup_cons.1 hl₂).1

end Sys2Proof.Machine
end

section
/-!
PROOFS. The bias outputs beside their strobes (R413, R415 to R419), and the statement on them.
-/
namespace Sys2Proof.Machine

variable {s t : State} {who : Requester} {i k n r v : Nat}

theorem bit_putBit_same (m : Nat) (b : Bool) : bit (putBit m n b) n = ofBool b := by
  cases b
  · exact (bit_clrBit _ _ _).trans (if_pos rfl)
  · exact (bit_setBit _ _ _).trans (if_pos rfl)

/-- A bit of a map of outputs, once put there. -/
theorem bit_map_putF {p : Nat} {f : Fld} (hw : f.lo + f.w ≤ 32) (hk : k < f.w) (m : Nat) (b : Bool) :
    bit (getF (putF p f (putBit m k b) i s) p f i) k = ofBool b := by
  rw [getF_putF _ _ _ _ _ hw, bit_mod_two_pow hk, bit_putBit_same]

/-! ### A code written (R415) -/

theorem exec_biasCodeWrite {code : Nat} (h : busOpen s who pBia = true) (hn : n < biasCount s) :
    exec (.biasCodeWrite who n code) s = .next (writeCode n code s) :=
  congrArg Host.Outcome.next ((if_neg (by omega)).trans (viaBus_open h (k := .bia) rfl _ _ _ _ (fun hc => absurd hc (by decide))))

/-- The input code with what a strobe of this hc still sees. -/
def stCodeHeld (n code : Nat) (s : State) : State :=
  putF pBia BIA.BIAS_CODE_CODE code n { s with bias := { s.bias with
    fresh := smSet n (hcNow s, getF s pBia BIA.BIAS_CODE_CODE n, getF s pBia BIA.BIAS_STAT_PEND n) s.bias.fresh } }

theorem writeCode_eq {code : Nat} : writeCode n code s = setPend n true (stCodeHeld n code s) := rfl

theorem regsSame_setPend {b : Bool} {l : List Nat} (h1 : BIA.BIAS_STAT.addr pBia n ∈ l) (h2 : BIA.PEND_MAP.addr pBia (n / 32) ∈ l)
    (h : regsSame l s t) : regsSame l s (setPend n b t) :=
  regsSame_putF (f := BIA.PEND_MAP) h2 (regsSame_putF (f := BIA.BIAS_STAT_PEND) h1 h)

theorem biasCode_ne (n : Nat) : BIA.BIAS_CODE_CODE.addr pBia n ≠ BIA.PEND_MAP.addr pBia (n / 32)
    ∧ BIA.BIAS_CODE_CODE.addr pBia n ≠ BIA.BIAS_STAT_PEND.addr pBia n ∧ BIA.PEND_MAP.addr pBia (n / 32) ≠ BIA.BIAS_STAT_PEND.addr pBia n := by
  simp only [Fld.addr, BIA.BIAS_CODE_CODE, BIA.PEND_MAP, BIA.BIAS_STAT_PEND]
  omega

theorem writeCode_shows {code : Nat} (hn : n < 64) (hcode : code < 2 ^ 20) :
    getF (writeCode n code s) pBia BIA.BIAS_CODE_CODE n = code ∧ isSet (writeCode n code s) pBia BIA.BIAS_STAT_PEND n = true
      ∧ bit (getF (writeCode n code s) pBia BIA.PEND_MAP (n / 32)) (n % 32) = 1
      ∧ getF (writeCode n code s) pBia BIA.BIAS_STAT_OUT n = getF s pBia BIA.BIAS_STAT_OUT n
      ∧ regsSame [BIA.BIAS_CODE_CODE.addr pBia n, BIA.BIAS_STAT.addr pBia n, BIA.PEND_MAP.addr pBia (n / 32)] s (writeCode n code s)
      ∧ typedSame { s with bias := (writeCode n code s).bias } (writeCode n code s) := by
  obtain ⟨hmap, hpend, -⟩ := biasCode_ne n
  have hstat := (biasStat_ne hn).2.2.2.1
  rw [writeCode_eq]
  refine ⟨?_, ?_, bit_map_putF (by decide) (Nat.mod_lt _ (by decide)) _ _, ?_, ?_, rfl⟩
  · rw [setPend, getF_putF_reg hmap, getF_putF_reg hpend, stCodeHeld, getF_putF _ _ _ _ _ (by decide)]
    exact Nat.mod_eq_of_lt hcode
  · rw [isSet, getF_setPend hn (f := BIA.BIAS_STAT_PEND) rfl, getF_putF _ _ _ _ _ (by decide)]
    rfl
  · rw [getF_setPend hn (f := BIA.BIAS_STAT_OUT) rfl, getF_putF_beside (by decide), stCodeHeld, getF_putF_reg]
    · rfl
    · simp only [Fld.addr, BIA.BIAS_STAT_OUT, BIA.BIAS_CODE_CODE]
      omega
  · exact regsSame_setPend (by simp) (by simp) (regsSame_putF (by simp) fun _ _ => rfl)

/-! ### A range changed (R418, R419) -/

theorem exec_biasRangeChange (h : busOpen s who pBia = true) (hn : n < biasCount s) :
    exec (.biasRangeChange who n r) s = .next (biasRangeChangeEffect n r s) :=
  congrArg Host.Outcome.next ((if_neg (by omega)).trans (viaBus_open h (k := .bia) rfl _ _ _ _ (fun hc => absurd hc (by decide))))

theorem regsSame_setLimit {b : Bool} {l : List Nat} (h1 : BIA.BIAS_STAT.addr pBia n ∈ l) (h2 : BIA.LIM_MAP.addr pBia (n / 32) ∈ l)
    (h : regsSame l s t) : regsSame l s (setLimit n b t) :=
  regsSame_putF (f := BIA.LIM_MAP) h2 (regsSame_putF (f := BIA.BIAS_STAT_LIMIT) h1 h)

theorem getF_setLimit (hn : n < 64) {b : Bool} {f : Fld} (hf : f.addr pBia n = BIA.BIAS_STAT.addr pBia n) :
    getF (setLimit n b s) pBia f n = getF (putF pBia BIA.BIAS_STAT_LIMIT (ofBool b) n s) pBia f n :=
  getF_putF_reg (by rw [hf]; exact (biasStat_ne hn).2.2.2.2) _ _

theorem limit_setLimit (hn : n < 64) (b : Bool) : isSet (setLimit n b s) pBia BIA.BIAS_STAT_LIMIT n = b
    ∧ bit (getF (setLimit n b s) pBia BIA.LIM_MAP (n / 32)) (n % 32) = ofBool b := by
  refine ⟨?_, bit_map_putF (by decide) (Nat.mod_lt _ (by decide)) _ _⟩
  rw [isSet, getF_setLimit hn (f := BIA.BIAS_STAT_LIMIT) rfl, getF_putF _ _ _ _ _ (by decide)]
  cases b <;> rfl

/-- The output open, with its limit gone. -/
def stOpened (n : Nat) (s : State) : State :=
  setLimit n false (putF pBia BIA.BIAS_STAT_STATE 2 n { s with bias := { s.bias with bbm := smSet n 200000 s.bias.bbm } })

theorem rangeChange_eq : rangeChange n s = { stOpened n s with smp := (rangeChange n s).smp } := rfl

theorem stOpened_shows (hn : n < 64) : biasState (stOpened n s) n = 2 ∧ isSet (stOpened n s) pBia BIA.BIAS_STAT_LIMIT n = false
    ∧ bit (getF (stOpened n s) pBia BIA.LIM_MAP (n / 32)) (n % 32) = 0
    ∧ regsSame [BIA.BIAS_STAT.addr pBia n, BIA.LIM_MAP.addr pBia (n / 32)] s (stOpened n s) := by
  obtain ⟨hlimit, hmap⟩ := limit_setLimit (s := putF pBia BIA.BIAS_STAT_STATE 2 n { s with bias := { s.bias with bbm := smSet n 200000 s.bias.bbm } })
    hn false
  refine ⟨?_, hlimit, hmap, regsSame_setLimit (by simp) (by simp) (regsSame_putF (f := BIA.BIAS_STAT_STATE) ?_ fun _ _ => rfl)⟩
  · rw [biasState, stOpened, getF_setLimit hn (f := BIA.BIAS_STAT_STATE) rfl, getF_putF_beside (by decide), getF_putF _ _ _ _ _ (by decide)]
    rfl
  · exact List.mem_cons_self

theorem stOpened_bias : (stOpened n s).bias = { s.bias with bbm := smSet n 200000 s.bias.bbm } := by simp [stOpened, setLimit]

theorem typedSame_stOpened : typedSame { s with bias := { s.bias with bbm := smSet n 200000 s.bias.bbm } } (stOpened n s) :=
  typedSame_putF (typedSame_putF (typedSame_putF rfl))

theorem getF_smp {p i : Nat} {f : Fld} (x : Sampler) : getF { s with smp := x } p f i = getF s p f i := rfl

theorem regsSame_smp {l : List Nat} {x : Sampler} (h : regsSame l s t) : regsSame l s { t with smp := x } := h

/-- What a range change leaves. -/
theorem rangeChange_shows (hn : n < 64) : biasState (rangeChange n s) n = 2
    ∧ (rangeChange n s).bias = { s.bias with bbm := smSet n 200000 s.bias.bbm }
    ∧ isSet (rangeChange n s) pBia BIA.BIAS_STAT_LIMIT n = false ∧ bit (getF (rangeChange n s) pBia BIA.LIM_MAP (n / 32)) (n % 32) = 0
    ∧ regsSame [BIA.BIAS_STAT.addr pBia n, BIA.LIM_MAP.addr pBia (n / 32)] s (rangeChange n s)
    ∧ typedSame { s with bias := (rangeChange n s).bias, smp := (rangeChange n s).smp } (rangeChange n s) := by
  obtain ⟨hstate, hlimit, hmap, hregs⟩ := stOpened_shows (s := s) hn
  have htyped := typedSame_stOpened (n := n) (s := s)
  have hbias : (rangeChange n s).bias = { s.bias with bbm := smSet n 200000 s.bias.bbm } := by
    rw [rangeChange_eq]
    exact stOpened_bias (n := n) (s := s)
  rw [hbias]
  refine ⟨?_, rfl, ?_, ?_, ?_, ?_⟩ <;> rw [rangeChange_eq]
  · rw [biasState, getF_smp]
    exact hstate
  · rw [isSet, getF_smp]
    exact hlimit
  · rw [getF_smp]
    exact hmap
  · exact regsSame_smp hregs
  · unfold typedSame at *
    rw [htyped]

/-- The range written. -/
def stRangeSet (n r : Nat) (s : State) : State := putF pBia BIA.BIAS_CFG_RANGE r n s

theorem range_stRangeSet (hr : r < 4) : getF (stRangeSet n r s) pBia BIA.BIAS_CFG_RANGE n = r := by
  rw [stRangeSet, getF_putF _ _ _ _ _ (by decide)]
  exact Nat.mod_eq_of_lt hr

theorem freeze_stRangeSet : isSet (stRangeSet n r s) pBia HDR.CTRL_FREEZE = isSet s pBia HDR.CTRL_FREEZE := by
  refine isSet_putF_reg ?_
  simp only [Fld.addr, HDR.CTRL_FREEZE, BIA.BIAS_CFG_RANGE]
  omega

theorem biasRangeChangeEffect_new (h : getF s pBia BIA.BIAS_CFG_RANGE n ≠ r) : biasRangeChangeEffect n r s =
    if isSet s pBia HDR.CTRL_FREEZE then
      stRangeSet n r { s with bias := { s.bias with rangeHeld := s.bias.rangeHeld.filter (fun m => m ≠ n) ++ [n] } }
    else rangeChange n (stRangeSet n r s) := by
  rw [biasRangeChangeEffect, if_neg h, ← freeze_stRangeSet (n := n) (r := r)]
  rfl

theorem biasRange_ne (n : Nat) : BIA.BIAS_CFG_RANGE.addr pBia n ∉ [BIA.BIAS_STAT.addr pBia n, BIA.LIM_MAP.addr pBia (n / 32)] := by
  simp only [Fld.addr, BIA.BIAS_CFG_RANGE, BIA.BIAS_STAT, BIA.LIM_MAP, List.mem_cons, List.not_mem_nil, or_false]
  omega

/-! ### The end of a range change (R418) -/

/-- The output connected at its clear code in the new range, with bit 3. -/
def stConnected (n : Nat) (s : State) : State :=
  irqBit pBia 3 { putF pBia BIA.BIAS_STAT_OUT (getF s pBia BIA.BIAS_CLR_CLR n) n (putF pBia BIA.BIAS_STAT_STATE 3 n s) with
    bias := { s.bias with range := smPut 0 n (getF s pBia BIA.BIAS_CFG_RANGE n) s.bias.range, bbm := smErase n s.bias.bbm } }

theorem bbmDone_eq : bbmDone n s =
    (let u := if isSet (stConnected n s) pMon MON.MON_CFG_EN n then monFresh n (stConnected n s) else stConnected n s
     if rtrig u n = 2 then rampStart n u else u) := by
  have hrange (w : Nat) : getF (putF pBia BIA.BIAS_STAT_OUT w n (putF pBia BIA.BIAS_STAT_STATE 3 n s)) pBia BIA.BIAS_CFG_RANGE n
      = getF s pBia BIA.BIAS_CFG_RANGE n := by
    rw [getF_putF_reg, getF_putF_reg]
    · simp only [Fld.addr, BIA.BIAS_CFG_RANGE, BIA.BIAS_STAT_STATE]; omega
    · simp only [Fld.addr, BIA.BIAS_CFG_RANGE, BIA.BIAS_STAT_OUT]; omega
  unfold bbmDone
  dsimp only
  rw [hrange]
  rfl

/-- What the comparator of an output that connects does stands past the BIA page. -/
structure MonOnly (s t : State) : Prop where
  regs : ∀ a, a < 0xA000 → rdWord t a = rdWord s a
  typed : typedSame s t

theorem MonOnly.putF {f : Fld} (h : MonOnly s t) : MonOnly s (putF pMon f v i t) := by
  refine ⟨fun a ha => (rdWord_wrWord_other ?_ _ _).trans (h.regs a ha), typedSame_putF h.typed⟩
  rintro rfl
  simp only [Fld.addr, pMon] at ha
  omega

theorem MonOnly.rampStart (h : MonOnly s t) : MonOnly s (rampStart n t) := by
  unfold Machine.rampStart
  split
  · exact h.putF
  · exact h

theorem monOnly_bbmDone : MonOnly (stConnected n s) (bbmDone n s) := by
  have hself : MonOnly (stConnected n s) (stConnected n s) := ⟨fun _ _ => rfl, rfl⟩
  rw [bbmDone_eq]
  dsimp only
  split
  · split
    · exact .rampStart (.putF (.putF (.putF hself)))
    · exact .putF (.putF (.putF hself))
  · split
    · exact .rampStart hself
    · exact hself

theorem getF_bias {p i : Nat} {f : Fld} (x : Bias) : getF { s with bias := x } p f i = getF s p f i := rfl

theorem stConnected_shows (hn : n < 64) : biasState (stConnected n s) n = 3
    ∧ getF (stConnected n s) pBia BIA.BIAS_STAT_OUT n = getF s pBia BIA.BIAS_CLR_CLR n ∧ irqStat (stConnected n s) pBia 3 = true := by
  have hirq := (biasStat_ne hn).1
  refine ⟨?_, ?_, irqStat_irqBit_same (by decide)⟩
  · rw [biasState, stConnected, getF_irqBit _ _ _ _ _ _ (show BIA.BIAS_STAT_STATE.addr pBia n ≠ _ from hirq)]
    rw [getF_bias, getF_putF_beside (by decide), getF_putF _ _ _ _ _ (by decide)]
    rfl
  · rw [stConnected, getF_irqBit _ _ _ _ _ _ (show BIA.BIAS_STAT_OUT.addr pBia n ≠ _ from hirq)]
    rw [getF_bias, getF_putF _ _ _ _ _ (by decide)]
    exact Nat.mod_eq_of_lt (getF_lt s pBia BIA.BIAS_CLR_CLR n)

/-! ### The clear (R416) -/

/-- The outputs that follow the clear. -/
def clearedOutputs (s : State) : List Nat := (List.range (biasCount s)).filter (fun n => biasState s n ≠ 2)

/-- CLR_N is low. -/
def stClrLow (s : State) : State := { s with bias := { s.bias with clrLow := true } }

theorem clrNAssert_eq : exec .clrNAssert s = .next (if isSet s pBia HDR.CTRL_FREEZE then stClrLow s
    else forAll (clearedOutputs s) (fun n s => putF pBia BIA.BIAS_STAT_OUT (getF s pBia BIA.BIAS_CLR_CLR n) n s) (stClrLow s)) := by
  have hforce : clearInForce (stClrLow s) = true := rfl
  have hfreeze : isSet (stClrLow s) pBia HDR.CTRL_FREEZE = isSet s pBia HDR.CTRL_FREEZE := rfl
  refine congrArg Host.Outcome.next ?_
  cases h : isSet s pBia HDR.CTRL_FREEZE with
  | true => exact if_neg (by rw [← stClrLow, hforce, hfreeze, h]; decide)
  | false => exact if_pos (by rw [← stClrLow, hforce, hfreeze, h]; decide)

/-- Clear codes put out change OUT of these outputs only. -/
theorem rdWord_forAll_clear {l : List Nat} {a : Nat} (h : ∀ n ∈ l, a ≠ BIA.BIAS_STAT.addr pBia n) (u : State) :
    rdWord (forAll l (fun n s => putF pBia BIA.BIAS_STAT_OUT (getF s pBia BIA.BIAS_CLR_CLR n) n s) u) a = rdWord u a :=
  forAll_induction_mem (P := fun t => rdWord t a = rdWord u a) (fun n hn _ ht => (rdWord_wrWord_other (h n hn) _ _).trans ht) rfl

theorem typedSame_forAll_clear (l : List Nat) (u : State) :
    typedSame u (forAll l (fun n s => putF pBia BIA.BIAS_STAT_OUT (getF s pBia BIA.BIAS_CLR_CLR n) n s) u) :=
  forAll_induction (P := typedSame u) (fun _ _ h => typedSame_putF h) _ rfl

theorem biasStat_inj (h : BIA.BIAS_STAT.addr pBia n = BIA.BIAS_STAT.addr pBia k) : n = k := by
  simp only [Fld.addr, BIA.BIAS_STAT] at h
  omega

/-- An output among the cleared ones drives its clear code. -/
theorem forAll_clear_shows {l : List Nat} (hmem : n ∈ l) (hl : l.Nodup) (u : State) :
    getF (forAll l (fun n s => putF pBia BIA.BIAS_STAT_OUT (getF s pBia BIA.BIAS_CLR_CLR n) n s) u) pBia BIA.BIAS_STAT_OUT n
        = getF u pBia BIA.BIAS_CLR_CLR n
      ∧ biasState (forAll l (fun n s => putF pBia BIA.BIAS_STAT_OUT (getF s pBia BIA.BIAS_CLR_CLR n) n s) u) n = biasState u n := by
  obtain ⟨l₁, l₂, rfl⟩ := List.append_of_mem hmem
  obtain ⟨-, hl₂, hdisj⟩ := List.nodup_append.1 hl
  have hbefore := rdWord_forAll_clear (l := l₁) (a := BIA.BIAS_STAT.addr pBia n) (fun m hm e => hdisj m hm n List.mem_cons_self (biasStat_inj e).symm) u
  have hclr : getF (forAll l₁ (fun n s => putF pBia BIA.BIAS_STAT_OUT (getF s pBia BIA.BIAS_CLR_CLR n) n s) u) pBia BIA.BIAS_CLR_CLR n
      = getF u pBia BIA.BIAS_CLR_CLR n :=
    congrArg BIA.BIAS_CLR_CLR.of (rdWord_forAll_clear (fun m _ => by simp only [Fld.addr, BIA.BIAS_CLR_CLR, BIA.BIAS_STAT]; omega) u)
  have hafter (v : State) := rdWord_forAll_clear (l := l₂) (a := BIA.BIAS_STAT.addr pBia n)
    (fun m hm e => (List.nodup_cons.1 hl₂).1 (biasStat_inj e ▸ hm)) v
  simp only [forAll, List.foldl_append, List.foldl_cons] at hbefore hclr hafter ⊢
  refine ⟨(congrArg BIA.BIAS_STAT_OUT.of (hafter _)).trans ?_, (congrArg BIA.BIAS_STAT_STATE.of (hafter _)).trans ?_⟩
  · refine (getF_putF _ BIA.BIAS_STAT_OUT _ _ _ (by decide)).trans ?_
    rw [hclr]
    exact Nat.mod_eq_of_lt (getF_lt u pBia BIA.BIAS_CLR_CLR n)
  · exact (getF_putF_beside (f := BIA.BIAS_STAT_OUT) (g := BIA.BIAS_STAT_STATE) (by decide) _ _).trans (congrArg BIA.BIAS_STAT_STATE.of hbefore)

/-! ### Limits (R413) -/

/-- The flag of a limit in the range that is driven, and its code. -/
def limitFlag (s : State) (n : Nat) : Fld := if smGet 0 n s.bias.range < 2 then BIA.BIAS_STAT_SHORT else BIA.BIAS_STAT_COMPL

def limitBit (s : State) (n : Nat) : Nat := if smGet 0 n s.bias.range < 2 then 0 else 1

/-- A limit begun, with its flag and interrupt. -/
def stLimited (n : Nat) (s : State) : State := irqBit pBia (limitBit s n) (putF pBia (limitFlag s n) 1 n (setLimit n true s))

theorem exec_biasLimit_on (hn : n < biasCount s) (hstate : biasState s n ≠ 2) (hlimit : isSet s pBia BIA.BIAS_STAT_LIMIT n = false) :
    exec (.biasLimit n true) s = .next (if isSet s pBia (limitFlag s n) n then stLimited n s
      else errRec pBia (if smGet 0 n s.bias.range < 2 then 0x20 else 0x21) 0 n (smGet 0 n s.bias.range) 0 (stLimited n s)) := by
  have hexec : exec (.biasLimit n true) s = execBiasLimit n true s := rfl
  have hidle : ¬ (biasState s n = 2 ∨ isSet s pBia BIA.BIAS_STAT_LIMIT n = true) := by simp [hstate, hlimit]
  rw [hexec, execBiasLimit, if_neg (by omega), if_neg (by decide), if_neg hidle]
  rfl

theorem stLimited_shows (hn : n < 64) : isSet (stLimited n s) pBia BIA.BIAS_STAT_LIMIT n = true
    ∧ isSet (stLimited n s) pBia (limitFlag s n) n = true ∧ bit (getF (stLimited n s) pBia BIA.LIM_MAP (n / 32)) (n % 32) = 1
    ∧ irqStat (stLimited n s) pBia (limitBit s n) = true ∧ typedSame s (stLimited n s) := by
  obtain ⟨hirq, -, -, -, hmap⟩ := biasStat_ne (n := n) hn
  obtain ⟨hset, hbit⟩ := limit_setLimit (s := s) hn true
  have hlim : BIA.LIM_MAP.addr pBia (n / 32) ≠ HDR.IRQ_STAT.addr pBia 0 := by
    simp only [Fld.addr, BIA.LIM_MAP, HDR.IRQ_STAT]
    omega
  have hflag : (limitFlag s n).addr pBia n = BIA.BIAS_STAT.addr pBia n ∧ (limitFlag s n).lo + (limitFlag s n).w ≤ 32 ∧ (limitFlag s n).w = 1
      ∧ ((limitFlag s n).lo + (limitFlag s n).w ≤ BIA.BIAS_STAT_LIMIT.lo ∨ BIA.BIAS_STAT_LIMIT.lo + BIA.BIAS_STAT_LIMIT.w ≤ (limitFlag s n).lo) := by
    unfold limitFlag
    split <;> exact ⟨rfl, by decide, rfl, by decide⟩
  obtain ⟨haddr, hw, hone, happart⟩ := hflag
  have hbits : limitBit s n < 32 := by
    unfold limitBit
    split <;> decide
  refine ⟨?_, ?_, ?_, irqStat_irqBit_same hbits, typedSame_irqBit (typedSame_putF rfl)⟩
  · rw [isSet, stLimited, getF_irqBit _ _ _ _ _ _ (show BIA.BIAS_STAT_LIMIT.addr pBia n ≠ _ from hirq), getF_putF_beside happart]
    exact hset
  · rw [isSet, stLimited, getF_irqBit _ _ _ _ _ _ (by rw [haddr]; exact hirq), getF_putF _ _ _ _ _ hw, hone]
    rfl
  · rw [stLimited, getF_irqBit _ _ _ _ _ _ hlim, getF_putF_reg (by rw [haddr]; exact hmap.symm)]
    exact hbit

/-! ### The statement -/

/-- Settles O45: strobes go output by output (`forAll_strobe_done`, `outputDone`); codes, ranges, the clear and limits change what
`writeCode_shows`, `stOpened_shows`, `stConnected_shows`, `forAll_clear_shows` and `stLimited_shows` say. -/
theorem biasOutputs : Obligations.BiasOutputs := by
  intro s who n
  have hcount : ∀ {n}, n < biasCount s → n < 64 := fun h => Nat.lt_of_lt_of_le h (biasCount_le s)
  refine ⟨fun code hcode hopen hn => ?code, fun code hn => ?absent, fun mask _ hopen hclr hfreeze hsafe hn => ?strobe,
    fun g _ hpin hclr hfreeze hsafe hn => ?ldac, fun g h => ?ldacHeld, fun mask hopen h => ?strobeHeld,
    fun r hr hopen hn hnew hfreeze => ?range, fun r hr hopen hn hnew hfreeze => ?rangeFrozen, fun r _ hopen h => ?rangeSame,
    fun hn hdue hstate hfreeze => ?connect, fun h => ?connectEarly, ?clear, rfl, fun hn hstate hlimit => ?limit, fun hn => ?limitEnd,
    fun h => ?limitNone⟩
  case code => exact ⟨_, exec_biasCodeWrite hopen hn, writeCode_shows (hcount hn) hcode⟩
  case absent => exact congrArg Host.Outcome.next (if_pos hn)
  case strobe =>
    have hheld : strobeHeld s = false := by simp [strobeHeld, hclr, hfreeze, hsafe]
    have hall := forAll_strobe (s := s) (maskGroups mask)
    refine ⟨_, exec_biasStrobe hopen, fun hg => (forAll_strobe_done hheld hn hg).1, fun hg => ?_, fun hg => (forAll_strobe_done hheld hn hg).2,
      hall.setting (f := BIA.BIAS_CODE_CODE) (.inr (.inl rfl)) rfl (hcount hn), hall.typed⟩
    refine (forAll_strobe_other (fun hm => ?_) (hcount hn)).status (hcount hn) (by simp)
    have hone := of_decide_eq_true (List.mem_filter.1 hm).2
    omega
  case ldac =>
    have hheld : strobeHeld s = false := by simp [strobeHeld, hclr, hfreeze, hsafe]
    refine ⟨_, congrArg Host.Outcome.next (if_pos hpin), fun hg hacts => ?_,
      fun hg => (strobed_strobe_other hg).status (hcount hn) (by simp), (strobed_strobe g).typed⟩
    obtain ⟨u, hu, ht⟩ := strobe_split hheld hn hg
    obtain ⟨hout, hstate, -⟩ := (outputDone (hcount hn) hu ht).1 hacts
    exact ⟨hout, hstate⟩
  case ldacHeld =>
    obtain h | h := h
    · exact congrArg Host.Outcome.next (if_neg (by omega))
    · have hheld : strobeHeld s = true := by
        obtain h | h | h := h <;> simp [strobeHeld, h]
      refine congrArg Host.Outcome.next ?_
      rw [strobe_held hheld, ite_self]
  case strobeHeld =>
    have hheld : strobeHeld s = true := by
      obtain h | h | h := h <;> simp [strobeHeld, h]
    rw [exec_biasStrobe hopen]
    exact congrArg Host.Outcome.next
      (forAll_induction (P := fun t => t = s) (fun g t (ht : t = s) => by rw [ht, strobe_held hheld]) (maskGroups mask) rfl)
  case range =>
    obtain ⟨hstate, hbias, hlimit, hmap, hregs, htyped⟩ := rangeChange_shows (s := stRangeSet n r s) (hcount hn)
    rw [exec_biasRangeChange hopen hn, biasRangeChangeEffect_new hnew, if_neg (by rw [hfreeze]; decide)]
    refine ⟨_, rfl, ?_, hstate, ?_, ?_, hlimit, hmap, ?_, ?_⟩
    · exact (regsSame_getF hregs (biasRange_ne n)).trans (range_stRangeSet hr)
    · rw [hbias]
      exact smFind_smSet_same _ _ _
    · rw [hbias]
      rfl
    · exact regsSame_trans (regsSame_putF (f := BIA.BIAS_CFG_RANGE) (by simp) (regsSame_refl _ _))
        (regsSame_mono (List.subset_cons_self _ _) hregs)
    · have hset : typedSame s (stRangeSet n r s) := typedSame_putF rfl
      unfold typedSame at *
      rw [htyped, hset]
  case rangeFrozen =>
    rw [exec_biasRangeChange hopen hn, biasRangeChangeEffect_new hnew, if_pos hfreeze]
    refine ⟨_, rfl, range_stRangeSet hr, ?_, rfl, regsSame_putF (f := BIA.BIAS_CFG_RANGE) (by simp) fun _ _ => rfl, typedSame_putF rfl⟩
    exact List.mem_append_right _ List.mem_cons_self
  case rangeSame =>
    by_cases hn : n < biasCount s
    · rw [exec_biasRangeChange hopen hn, biasRangeChangeEffect, if_pos (h.resolve_left (by omega))]
    · exact congrArg Host.Outcome.next (if_pos (by omega))
  case connect =>
    obtain ⟨hregs, htyped⟩ := monOnly_bbmDone (n := n) (s := s)
    obtain ⟨hthree, hout, hirq⟩ := stConnected_shows (s := s) (hcount hn)
    have hbias : (bbmDone n s).bias = (stConnected n s).bias := by rw [htyped]
    have hlow {f : Fld} (hf : f.off + f.stride * n < 0x1000) : getF (bbmDone n s) pBia f n = getF (stConnected n s) pBia f n :=
      congrArg f.of (hregs _ (by simp only [Fld.addr, pBia]; omega))
    have hrange : (stConnected n s).bias = { s.bias with
        range := smPut 0 n (getF s pBia BIA.BIAS_CFG_RANGE n) s.bias.range, bbm := smErase n s.bias.bbm } := by simp [stConnected]
    have hself := hcount hn
    refine ⟨_, congrArg Host.Outcome.next (if_pos ⟨hdue, hstate, hfreeze⟩), ?_, ?_, ?_, ?_, ?_, ?_⟩
    · exact (hlow (f := BIA.BIAS_STAT_STATE) (by simp only [BIA.BIAS_STAT_STATE]; omega)).trans hthree
    · exact (hlow (f := BIA.BIAS_STAT_OUT) (by simp only [BIA.BIAS_STAT_OUT]; omega)).trans hout
    · rw [hbias, hrange]
      exact smGet_smPut_same _ _ _ _
    · rw [hbias, hrange]
      exact smFind_smErase_same _ _
    · exact (irqStat_eq_of_rdWord (hregs _ (by decide))).trans hirq
    · have hconnected : typedSame { s with bias := (stConnected n s).bias } (stConnected n s) := by
        rw [hrange]
        exact typedSame_irqBit rfl
      rw [hbias]
      exact typedSame_trans hconnected htyped
  case connectEarly =>
    refine congrArg Host.Outcome.next (if_neg ?_)
    rintro ⟨h1, h2, h3⟩
    obtain h | h | h := h
    · exact h h1
    · exact h h2
    · exact Bool.false_ne_true (h3.symm.trans h)
  case clear =>
    rw [clrNAssert_eq]
    cases hfreeze : isSet s pBia HDR.CTRL_FREEZE with
    | true =>
      rw [if_pos rfl]
      exact ⟨_, rfl, rfl, fun _ h => absurd h (by decide), fun _ => rfl, rfl⟩
    | false =>
      rw [if_neg (by decide)]
      have htyped := typedSame_forAll_clear (clearedOutputs s) (stClrLow s)
      refine ⟨_, rfl, ?_, fun hn _ hstate => ?_, fun h => ?_, ?_⟩
      · rw [htyped]
        rfl
      · exact forAll_clear_shows (List.mem_filter.2 ⟨List.mem_range.2 hn, decide_eq_true hstate⟩) (List.nodup_range.filter _) _
      · refine rdWord_forAll_clear (fun m hm e => ?_) _
        have hm2 := of_decide_eq_true (List.mem_filter.1 hm).2
        exact hm2 (biasStat_inj e ▸ h.resolve_left (by decide))
      · unfold typedSame at *
        rw [htyped]
        rfl
  case limit =>
    have hself := hcount hn
    obtain ⟨hlim, hflag, hmap, hirq, htyped⟩ := stLimited_shows (s := s) hself
    rw [exec_biasLimit_on hn hstate hlimit]
    split
    case isTrue => exact ⟨_, rfl, hlim, hflag, hmap, hirq, htyped⟩
    case isFalse =>
      have hrec := (biasStat_ne hself).2.1
      have hset {f : Fld} {code sev unit info addr : Nat} (hf : f.addr pBia n = BIA.BIAS_STAT.addr pBia n) :
          isSet (errRec pBia code sev unit info addr (stLimited n s)) pBia f n = isSet (stLimited n s) pBia f n :=
        regsSame_isSet (regsSame_record (regsSame_refl _ _)) (by rw [hf]; exact fun hm => hrec (List.mem_cons_of_mem _ hm))
      have haddr : (limitFlag s n).addr pBia n = BIA.BIAS_STAT.addr pBia n := by
        unfold limitFlag
        split <;> rfl
      refine ⟨_, rfl, (hset (f := BIA.BIAS_STAT_LIMIT) rfl).trans hlim, (hset haddr).trans hflag, ?_, irqStat_errRec_of hirq, typedSame_errRec htyped⟩
      rw [getF_errRec]
      · exact hmap
      all_goals
        simp only [Fld.addr, BIA.LIM_MAP, HDR.IRQ_STAT, HDR.ERR_CNT_TOTAL, DMP.DUMP_STAT_FATAL_CNT, pBia]
        omega
  case limitEnd =>
    obtain ⟨hlim, hmap⟩ := limit_setLimit (s := s) (hcount hn) false
    refine ⟨_, (if_neg (by omega)).trans (if_pos rfl), hlim, hmap, regsSame_setLimit (by simp) (by simp) (regsSame_refl _ _), rfl⟩
  case limitNone =>
    have hexec : exec (.biasLimit n true) s = execBiasLimit n true s := rfl
    rw [hexec, execBiasLimit]
    by_cases hn : biasCount s ≤ n
    · rw [if_pos hn]
    · rw [if_neg hn, if_neg (by decide), if_pos (h.resolve_left hn)]

end Sys2Proof.Machine
end

section
/-!
PROOFS. The end of a recovery while the one-shot corruption of R462 is armed for the memory: the first write that waited is stored
with a check value that differs, so the second one finds the line bad and a new recovery begins.
-/
namespace Sys2Proof.Machine

/-- The first line of the Tulle trace, and its memory. -/
def traceLine : Nat := 0x12018000
def traceMem : MemRef := ⟨0xB, 10, 0x12000000, 0x20000⟩

/-- A recovery for which two partial writes wait. -/
def twoWaiting : Recov := { merges := [(0, traceLine, [1#8]), (0, traceLine, [2#8])] }

/-- A device whose FLIP_SEL is armed for the memory of a line that recovers. -/
def stFlipArmed : State :=
  putF pMic MIC.FLIP_MASK_MASK 1 0 <| putF pMic MIC.FLIP_SEL_ARM 1 0 <| putF pMic MIC.FLIP_SEL_KIND 10 0 <|
    putF pMic MIC.FLIP_SEL_PAGE 0xB 0 <| setLine traceLine { flip := 1, recov := some twoWaiting } readyState

theorem memAt_traceLine : memAt traceLine = some traceMem := by decide

theorem masterBytes_traceLine : masterBytes stFlipArmed traceMem traceLine none = some (List.replicate 64 0#8) := rfl

theorem stFlipArmed_refetched :
    (lineSt (nextState stFlipArmed (exec (.lineRefetchDone traceLine none true) stFlipArmed)) traceLine).recov.isSome = true := by
  decide +kernel

/-- Refutes O49: the writes that waited for a line are stored when it recovers, and with the corruption of R462 armed one of them
leaves the line bad, so that the next begins a new recovery; the clause claims that the line recovers no more. -/
theorem not_lineRecovery : ¬ Obligations.LineRecovery := by
  intro h
  obtain ⟨-, hdone, -⟩ := h stFlipArmed .host traceLine
  obtain ⟨-, hbytes⟩ := hdone traceMem memAt_traceLine twoWaiting (by decide) rfl none true
  obtain ⟨hgood, -⟩ := hbytes _ masterBytes_traceLine (by decide)
  obtain ⟨t, hexec, hnone, -⟩ := hgood rfl
  have hsome := stFlipArmed_refetched
  rw [nextState_eq hexec, hnone] at hsome
  exact absurd hsome (by decide)

end Sys2Proof.Machine
end

section
/-!
PROOFS. A device shot boundary at which a route change waits for a slot beyond the 512 of the part. LOST_MAP has one word for 32
slots, and nothing in the state bounds the slots of its table: the word of such a slot is a register of another page.
-/
namespace Sys2Proof.Machine

variable {s : State} {i : Nat}

/-! ### Route changes of a device none of whose 512 slots has a KIND -/

/-- An address is SLOT_SRC of one of the 512 slots. -/
def srcAddr (a : Nat) : Bool := decide (a % windowStride = TUL.SLOT_SRC.addr pTul 0) && decide (a / windowStride < 512)

/-- No register of SLOT_SRC has been written. -/
def noSources (s : State) : Bool := !(s.regs.any (fun e => srcAddr e.1) || s.held.any (fun e => srcAddr e.1))

theorem srcAddr_slot (hi : i < 512) : srcAddr (TUL.SLOT_SRC_KIND.addr pTul i) = true := by
  refine Bool.and_eq_true_iff.2 ⟨decide_eq_true ?_, decide_eq_true ?_⟩
  · simp only [Fld.addr, TUL.SLOT_SRC_KIND, TUL.SLOT_SRC, windowStride, pTul]
    omega
  · simp only [Fld.addr, TUL.SLOT_SRC_KIND, windowStride, pTul]
    omega

theorem smFind_none {α : Type} {a : Nat} : ∀ {m : SMap α}, (∀ e ∈ m, e.1 ≠ a) → smFind a m = none
  | [], _ => rfl
  | (j, v) :: m, h => by
    rw [smFind, if_neg (h _ (List.mem_cons_self ..)).symm]
    exact smFind_none fun e he => h e (List.mem_cons_of_mem _ he)

/-- A slot of such a device has the KIND of reset, 0. -/
theorem slotKind_noSources (h : noSources s = true) (hi : i < 512) : slotKind s i = 0 := by
  have hne {α : Type} {m : SMap α} (hm : m.any (fun e => srcAddr e.1) = false) : smFind (TUL.SLOT_SRC_KIND.addr pTul i) m = none := by
    refine smFind_none fun e he ha => ?_
    rw [← Bool.not_eq_true, List.any_eq_true] at hm
    exact hm ⟨e, he, ha ▸ srcAddr_slot hi⟩
  obtain ⟨hregs, hheld⟩ : s.regs.any (fun e => srcAddr e.1) = false ∧ s.held.any (fun e => srcAddr e.1) = false := by
    rwa [noSources, Bool.not_eq_true', Bool.or_eq_false_iff] at h
  have hreset : regReset (TUL.SLOT_SRC_KIND.addr pTul i) = 0#32 := by
    have hoff : TUL.SLOT_SRC_KIND.addr pTul i % windowStride = 0xB064 := by
      simp only [Fld.addr, TUL.SLOT_SRC_KIND, windowStride, pTul]
      omega
    rw [regReset, hoff]
    decide
  rw [slotKind, getB, inForce, hne hheld, rdWord, smGet, hne hregs, hreset]
  decide

/-- The slots that hold a KIND: none where no slot has one. -/
def kindSlots (s : State) (k : Nat) : List Nat := if noSources s && decide (k ≠ 0) then [] else (List.range 512).filter (fun i => slotKind s i = k)

theorem slotsOfKind_kinds : slotsOfKind = kindSlots := by
  funext s k
  unfold slotsOfKind kindSlots
  split
  case isTrue h =>
    obtain ⟨hnone, hk⟩ := Bool.and_eq_true_iff.1 h
    refine List.filter_eq_nil_iff.2 fun i hi => ?_
    simpa [slotKind_noSources hnone (List.mem_range.1 hi)] using Ne.symm (of_decide_eq_true hk)
  case isFalse => rfl

/-- The lost slots that a route change restores: none where no slot has a KIND. -/
def restorable (s : State) (skip : Nat → Bool) : List Nat :=
  if noSources s then [] else (List.range 512).filter (fun i => slotLost s i && decide (slotKind s i ≠ 0) && skip i)

theorem restorable_eq (s : State) (skip : Nat → Bool) :
    (List.range 512).filter (fun i => slotLost s i && decide (slotKind s i ≠ 0) && skip i) = restorable s skip := by
  unfold restorable
  split
  case isTrue h =>
    refine List.filter_eq_nil_iff.2 fun i hi => ?_
    simp [slotKind_noSources h (List.mem_range.1 hi)]
  case isFalse => rfl

/-- `routeCommit`, with the slots that it restores found by `restorable`. -/
def routeChanges (st : SMap RouteSet) (changed : List (Nat × Bool)) (s : State) : State :=
  let due := st.filter (fun e => (tulSlot s e.1).next.isSome)
  let pend := due.map (fun e => (e.1, decide (slotKind s e.1 = 0)))
  let s := forAll due (fun e s => bringRoute e.1 e.2 s) s
  let lost := (restorable s (fun i => !(changed.any (fun e => decide (e.1 = i))) && !(pend.any (fun e => decide (e.1 = i))))).map
    (fun i => (i, false))
  let s := forAll (pend ++ changed ++ lost) (fun e s => refreshSlot e.1 e.2 s) s
  syncRtPend (if pend = [] then s else irqBit pTul 6 s)

theorem routeCommit_changes : routeCommit = routeChanges := by
  funext st changed s
  unfold routeCommit routeChanges
  dsimp only
  rw [← restorable_eq]
  simp only [Bool.and_assoc]

/-- A slot whose LOST_MAP bit is bit 4 of TMB_STAT of tile 0, UNDR. -/
def slotOfUndr : Nat := 32 * 5073 + 4

theorem lostMap_slotOfUndr : TUL.LOST_MAP.addr pTul (slotOfUndr / 32) = TMB.TMB_STAT_UNDR.addr (tilePage 0) 0 := by decide

/-- A route change that brings no import. -/
def routeBare : RouteSet := { imp := none, exports := 0, hops := 0, pubdev := 0, lat := 0, ndet := false }

/-- The boundary word of tile 0, released with that route change staged. -/
def boundaryWord : REntry :=
  { addr := 5, t := 0, w := word0, todo := [.boundary], dev := true, staged := { routes := [(slotOfUndr, routeBare)] } }

/-- A running tile with that word at its T, and the route change still waiting. -/
def stBoundaryDue : State :=
  setTile 0 { released := [boundaryWord] } { stRunning with slots := [(slotOfUndr, { next := some routeBare })] }

theorem stBoundaryDue_undr :
    isSet (nextState stBoundaryDue (exec (.shotBoundary 0) stBoundaryDue)) (tilePage 0) TMB.TMB_STAT_UNDR = true := by
  have hexec : exec (.shotBoundary 0) stBoundaryDue = execShotBoundary 0 stBoundaryDue := rfl
  simp only [hexec, execShotBoundary, shotBoundary, deviceCommit, routeCommit_changes]
  decide +kernel

/-- Refutes O18: the route change of a slot beyond the table marks the slot as lost in LOST_MAP, at an address that is TMB_STAT of a
tile; the clause on the shot boundary claims that UNDR of the tile reads 0 after it, in every state. -/
theorem not_releaseAndBoundary : ¬ Obligations.ReleaseAndBoundary := by
  intro h
  obtain ⟨-, -, hbound, -⟩ := h stBoundaryDue 0 (by decide)
  obtain ⟨t, hexec, -, hundr, -⟩ := hbound boundaryWord (by decide) (by decide)
  have hset := stBoundaryDue_undr
  rw [nextState_eq hexec, hundr] at hset
  exact absurd hset (by decide)

end Sys2Proof.Machine
end

section
/-!
PROOFS. A skew estimate of the time root while a route change waits for a slot whose LOST_MAP word is SKEW_STAT.
-/
namespace Sys2Proof.Machine

/-- A slot whose LOST_MAP bit is bit 0 of SKEW_STAT of the CAL page, in LEAD. -/
def slotOfLead : Nat := 32 * 47083

theorem lostMap_slotOfLead : TUL.LOST_MAP.addr pTul (slotOfLead / 32) = CAL.SKEW_STAT_LEAD.addr pCal 0 := by decide

/-- The time root at work, with a route change that waits for that slot. -/
def stSkewRoute : State := { stSkRoot with slots := [(slotOfLead, { next := some routeBare })] }

theorem stSkewRoute_lead : getF (nextState stSkewRoute (exec .skewEstimate stSkewRoute)) pCal CAL.SKEW_STAT_LEAD = 1 := by
  have hexec : exec .skewEstimate stSkewRoute = execSkewEstimate stSkewRoute := rfl
  simp only [hexec, execSkewEstimate, skewPropose, settle, deviceCommit, routeCommit_changes]
  decide +kernel

/-- Refutes O43: the root's estimate sets LEAD to 0 and proposes a trim; with no tile running the proposal commits, and with it the
route change that waits, which marks its slot as lost in LOST_MAP, at an address that is SKEW_STAT. LEAD then reads 1. -/
theorem not_calibrationEstimates : ¬ Obligations.CalibrationEstimates := by
  intro h
  obtain ⟨-, -, -, -, -, hroot, -⟩ := h stSkewRoute 0
  obtain ⟨t, hexec, hlead, -⟩ := hroot (by decide) (by decide)
  have hone := stSkewRoute_lead
  rw [nextState_eq hexec, hlead] at hone
  exact absurd hone (by decide)

end Sys2Proof.Machine
end

section
/-!
PROOFS. The fatal path on a device whose running tile, stopped by the freeze, brings a route change into force: the LOST_MAP word of
its slot is CTRL of a page frozen before.
-/
namespace Sys2Proof.Machine

/-- A slot whose LOST_MAP bit is bit 2 of CTRL of the Darner page, FREEZE. -/
def slotOfFreeze : Nat := 32 * 963 + 2

theorem lostMap_slotOfFreeze : TUL.LOST_MAP.addr pTul (slotOfFreeze / 32) = HDR.CTRL_FREEZE.addr pDrn 0 := by decide

/-- A running tile, a local slot of that number whose route change waits, and an error of severity 3. -/
def stFatalRoute : State :=
  let s := putF pTul TUL.SLOT_SRC_KIND 2 slotOfFreeze stRunning
  errRec 2 0x21 3 0 0 0 { s with slots := [(slotOfFreeze, { next := some routeBare })], boot := { s.boot with por := none } }

theorem stFatalRoute_freeze : isSet (nextState stFatalRoute (exec .fatalPath stFatalRoute)) pDrn HDR.CTRL_FREEZE = false := by
  have hexec : exec .fatalPath stFatalRoute = execFatalPath stFatalRoute := rfl
  rw [hexec]
  delta execFatalPath fatalPath freezeSet stopTile deviceCommit
  rw [routeCommit_changes]
  decide +kernel

/-- Refutes O59: pages are frozen in their order, and the freeze of a running tile that defines the device's shots brings the route
change into force; its slot is not lost, and the clear of its bit of LOST_MAP clears FREEZE of the Darner page. -/
theorem not_fatalPathAndDump : ¬ Obligations.FatalPathAndDump := by
  intro h
  obtain ⟨-, hfatal, -⟩ := h stFatalRoute
  obtain ⟨t, hexec, -, -, -, -, -, -, hpages, -⟩ := hfatal (fatalOf stFatalRoute) (by decide) (by decide) (by decide)
  have hclear := stFatalRoute_freeze
  rw [nextState_eq hexec, (hpages pDrn (by decide) (by decide)).1] at hclear
  exact absurd hclear (by decide)

end Sys2Proof.Machine
end

section
/-!
PROOFS. WARM_START on a device with a running tile: the abort of the tile is a device shot boundary, at which the route change of a slot
whose LOST_MAP word is MBX_STAT takes effect.
-/
namespace Sys2Proof.Machine

/-- A slot whose LOST_MAP bit is bit 0 of MBX_STAT, BUSY. -/
def slotOfBusy : Nat := 32 * 2007

theorem lostMap_slotOfBusy : TUL.LOST_MAP.addr pTul (slotOfBusy / 32) = PCI.MBX_STAT_BUSY.addr pPci 0 := by decide

/-- Hoop has taken a WARM_START, tile 0 runs, and a route change waits for that slot. -/
def stWarmRoute : State :=
  putF 0x10 TMB.TMB_STAT_STATE 2 0 (putF 0x10 HDR.STATUS_RUN 1 0 { stCmd 0x0050 [] with slots := [(slotOfBusy, { next := some routeBare })] })

theorem stWarmRoute_busy :
    isSet (nextState stWarmRoute (exec .warmStartCmd stWarmRoute)) pPci PCI.MBX_STAT_BUSY = true := by
  have hexec : exec .warmStartCmd stWarmRoute = execWarmStartCmd stWarmRoute := rfl
  simp only [hexec, execWarmStartCmd, requestStart, abortTile, stopTile, deviceCommit, routeCommit_changes, portDown, losePort,
    slotsOfKind_kinds]
  decide +kernel

/-- Refutes O55: WARM_START is answered, which clears BUSY, and then the start it asks for stops the running tile; the device shot
boundary of that stop marks the slot as lost, in LOST_MAP at an address that is MBX_STAT, and BUSY reads 1. -/
theorem not_mailboxCommands : ¬ Obligations.MailboxCommands := by
  intro h
  obtain ⟨-, -, -, -, -, -, -, -, -, -, -, -, -, -, -, -, -, -, -, -, -, hwarm⟩ := h stWarmRoute none true
  obtain ⟨t, hexec, ⟨-, hbusy, -⟩, -⟩ := hwarm { op := 0x0050, seq := 9, payload := [] } (by decide) (by decide) (by decide)
  have hset := stWarmRoute_busy
  have hbusy : isSet t pPci PCI.MBX_STAT_BUSY = false := hbusy
  rw [nextState_eq hexec, hbusy] at hset
  exact absurd hset (by decide)

end Sys2Proof.Machine
end

section
/-!
PROOFS. The states of a DMA channel and COPY transfers (R370 to R373, R376).
-/
namespace Sys2Proof.Machine

variable {s t : State} {who : Requester} {c st idx v n a : Nat} {f g : Fld} {d : Desc}

/-! ### What a channel's operations write -/

/-- A register of the channels on the PCI page. -/
abbrev ChanFld (g : Fld) : Prop := 0x400 ≤ g.off ∧ g.off < 0x440 ∧ g.stride = 0x40

theorem chanFld_addr (hg : ChanFld g) (hc : c < 16) : 0xD400 ≤ g.addr pPci c ∧ g.addr pPci c < 0xD800 := by
  obtain ⟨h1, h2, h3⟩ := hg
  simp only [Fld.addr, pPci, h3]
  omega

theorem rdWord_pciRec {code sev unit info addr : Nat} (h1 : 0xD400 ≤ a) (h2 : a < 0xD800) :
    rdWord (errRec pPci code sev unit info addr s) a = rdWord s a := by
  refine rdWord_errRec s a pPci code sev unit info addr ?_ ?_ ?_ <;>
    simp only [Fld.addr, HDR.ERR_CNT_TOTAL, HDR.IRQ_STAT, DMP.DUMP_STAT_FATAL_CNT, pPci] <;> omega

theorem rdWord_pciIrq (h1 : 0xD400 ≤ a) : rdWord (irqBit pPci n s) a = rdWord s a := by
  refine rdWord_irqSet s a pPci _ ?_
  simp only [Fld.addr, HDR.IRQ_STAT, pPci]
  omega

/-- A failure writes only LAST among the registers of the channels. -/
theorem rdWord_chFail (h1 : 0xD400 ≤ a) (h2 : a < 0xD800) :
    rdWord (chFail c st idx s) a = rdWord (putF pPci PCI.CH_STAT_LAST st c s) a := by
  unfold chFail chVec
  rw [rdWord_pciRec h1 h2, rdWord_pciIrq h1, rdWord_sendVec]

theorem getF_chFail (hg : ChanFld g) (hc : c < 16) :
    getF (chFail c st idx s) pPci g c = getF (putF pPci PCI.CH_STAT_LAST st c s) pPci g c :=
  congrArg g.of (rdWord_chFail (chanFld_addr hg hc).1 (chanFld_addr hg hc).2)

theorem chState_chFail (hc : c < 16) : chState (chFail c st idx s) c = chState s c :=
  (getF_chFail (by decide) hc).trans (getF_putF_beside (by decide) _ _)

theorem last_chFail (hc : c < 16) (h : st < 256) : getF (chFail c st idx s) pPci PCI.CH_STAT_LAST c = st :=
  (getF_chFail (by decide) hc).trans ((getF_putF _ _ _ _ _ (by decide)).trans (Nat.mod_eq_of_lt h))

theorem irqStat_chFail : irqStat (chFail c st idx s) pPci 4 = true := by
  unfold chFail
  exact irqStat_errRec_of (irqStat_irqBit_same (by decide))

theorem typedSame_chFail (h : typedSame s t) : typedSame s (chFail c st idx t) := by
  unfold chFail chVec
  exact typedSame_errRec (typedSame_irqBit (typedSame_sendVec (typedSame_putF h)))

theorem chFail_dma : (chFail c st idx s).dma = s.dma :=
  typedSame_eq (g := State.dma) (fun _ _ _ _ _ _ _ => rfl) (typedSame_chFail (typedSame_refl s))

/-! ### A failure that ends in ERROR (R373) -/

theorem getF_chError (hg : ChanFld g) (h8 : g.off ≠ 0x408) (hc : c < 16) : getF (chError c st idx s) pPci g c = getF s pPci g c := by
  have hother {f : Fld} (hf : f.off = 0x408) (hs : f.stride = 0x40) : g.addr pPci c ≠ f.addr pPci c := by
    obtain ⟨-, -, hgs⟩ := hg
    simp only [Fld.addr, hf, hs, hgs]
    omega
  rw [chError, getF_chFail hg hc, getF_putF_reg (hother rfl rfl), getF_putF_reg (hother rfl rfl)]

theorem chState_chError (hc : c < 16) : chState (chError c st idx s) c = 2 :=
  (chState_chFail hc).trans (getF_putF _ _ _ _ _ (by decide))

theorem last_chError (hc : c < 16) (h : st < 256) : getF (chError c st idx s) pPci PCI.CH_STAT_LAST c = st := last_chFail hc h

theorem chError_dma : (chError c st idx s).dma = s.dma := chFail_dma

theorem irqStat_chError : irqStat (chError c st idx s) pPci 4 = true := irqStat_chFail

/-! ### The end of a descriptor (R372) -/

theorem rdWord_completion (i cookie : Nat) : rdWord (completion c i st cookie s) a = rdWord s a := by simp [completion]

theorem hostWrite_dma (bs : List Byte) : (hostWrite a bs s).dma = s.dma := by
  unfold hostWrite
  split <;> rfl

/-- A descriptor with its completion entry written, and HEAD past it. -/
def stPassed (c st : Nat) (d : Desc) (s : State) : State :=
  putF pPci PCI.CH_HEAD_HEAD ((d.idx + 1) % 65536) c (modCh c (fun x => { x with desc := none }) (completion c d.idx st d.cookie s))

theorem stPassed_dma : (stPassed c st d s).dma = smSet c { chOf s c with desc := none } s.dma := by
  simp only [stPassed, putF_dma, modCh_dma, chOf, completion, hostWrite_dma]

theorem stPassed_desc : (chOf (stPassed c st d s) c).desc = none := by rw [chOf, stPassed_dma, smGet_smSet_same]

theorem head_stPassed : getF (stPassed c st d s) pPci PCI.CH_HEAD_HEAD c = (d.idx + 1) % 65536 :=
  (getF_putF _ _ _ _ _ (by decide)).trans (Nat.mod_mod _ _)

theorem chState_stPassed : chState (stPassed c st d s) c = chState s c := by
  unfold chState stPassed
  rw [getF_putF_reg (addr_ne (by simp only [PCI.CH_STAT_STATE, PCI.CH_HEAD_HEAD]; omega))]
  exact congrArg PCI.CH_STAT_STATE.of (rdWord_completion _ _)

theorem finishDesc_zero : finishDesc c 0 d s = if bit d.flags 0 = 1 then chVec c (stPassed c 0 d s) else stPassed c 0 d s := rfl

theorem finishDesc_fails (h : st ≠ 0) : finishDesc c st d s = chError c st d.idx (stPassed c st d s) := if_neg h

theorem chVec_dma : (chVec c s).dma = s.dma := by
  rw [chVec, sendVec_eq]

theorem rdWord_finishDesc_zero : rdWord (finishDesc c 0 d s) a = rdWord (stPassed c 0 d s) a := by
  rw [finishDesc_zero]
  split
  · exact rdWord_sendVec _ _ _
  · rfl

/-- A descriptor that ends well leaves the channel's state, passes HEAD and is in progress no more. -/
theorem finishDesc_ok : (chOf (finishDesc c 0 d s) c).desc = none ∧ chState (finishDesc c 0 d s) c = chState s c
    ∧ getF (finishDesc c 0 d s) pPci PCI.CH_HEAD_HEAD c = (d.idx + 1) % 65536 := by
  refine ⟨?_, (congrArg PCI.CH_STAT_STATE.of rdWord_finishDesc_zero).trans chState_stPassed,
    (congrArg PCI.CH_HEAD_HEAD.of rdWord_finishDesc_zero).trans head_stPassed⟩
  rw [finishDesc_zero]
  split
  · rw [chOf, chVec_dma]
    exact stPassed_desc
  · exact stPassed_desc

/-- A descriptor that ends with an error puts its channel into ERROR. -/
theorem finishDesc_error (hc : c < 16) (h : st ≠ 0) (h' : st < 256) : (chOf (finishDesc c st d s) c).desc = none
    ∧ chState (finishDesc c st d s) c = 2 ∧ getF (finishDesc c st d s) pPci PCI.CH_STAT_LAST c = st
    ∧ getF (finishDesc c st d s) pPci PCI.CH_HEAD_HEAD c = (d.idx + 1) % 65536 := by
  rw [finishDesc_fails h]
  refine ⟨?_, chState_chError hc, last_chError hc h', (getF_chError (by decide) (by decide) hc).trans head_stPassed⟩
  rw [chOf, chError_dma]
  exact stPassed_desc

/-! ### Reads that a channel issues (R377) -/

theorem rdWord_chProgress : rdWord (chProgress c s) a = rdWord s a := by
  unfold chProgress
  dsimp only
  split_ifs
  · exact rdWord_sendVec _ _ _
  · rfl
  · rfl

theorem rdWord_streamIssue (h : a ≠ PCI.CH_DPOS.addr pPci c) (k : Nat) (s : State) : rdWord (streamIssue c k s) a = rdWord s a := by
  induction k generalizing s with
  | zero => rfl
  | succ k ih =>
    unfold streamIssue
    dsimp only
    split_ifs
    · rw [ih, rdWord_chProgress]
      exact rdWord_wrWord_other h _ _
    · rfl

theorem getF_streamIssue (h : g.addr pPci c ≠ PCI.CH_DPOS.addr pPci c) (k : Nat) : getF (streamIssue c k s) pPci g c = getF s pPci g c :=
  congrArg g.of (rdWord_streamIssue h k s)

end Sys2Proof.Machine
end

section
/-!
PROOFS. The commands of DMA channels (R370 to R373): EN, RESET, TAIL, the drain, descriptors and transfers.
-/
namespace Sys2Proof.Machine

variable {s t : State} {who : Requester} {c st idx v n a : Nat} {f g : Fld} {d : Desc}

/-! ### EN = 1 (R370, R380) -/

theorem exec_chEnable (h : busOpen s who pPci = true) : exec (.chEnable who c) s = .next (chEnable c s) :=
  congrArg Host.Outcome.next (viaBus_open h (k := .pci) rfl _ _ _ _ (fun hc => absurd hc (by decide)))

/-- A channel with EN set. -/
def stEnabled (c : Nat) (s : State) : State := putF pPci PCI.CH_CTL_EN 1 c s

theorem getF_stEnabled (hg : ChanFld g) (h4 : g.off ≠ 0x404) (k : Nat) : getF (stEnabled c s) pPci g k = getF s pPci g k := by
  refine getF_putF_reg ?_ _ _
  obtain ⟨hlo, hhi, hs⟩ := hg
  simp only [Fld.addr, hs, PCI.CH_CTL_EN]
  omega

theorem chMode_stEnabled (k : Nat) : chMode (stEnabled c s) k = chMode s k := by
  simp only [chMode, getF_stEnabled (g := PCI.CH_CFG_MODE) (by decide) (by decide)]

theorem chState_stEnabled (k : Nat) : chState (stEnabled c s) k = chState s k := getF_stEnabled (by decide) (by decide) k

theorem bindBad_stEnabled : bindBad (stEnabled c s) c = bindBad s c := by
  simp only [bindBad, boundTwice, chMode_stEnabled, chState_stEnabled, getF_stEnabled (g := PCI.CH_CFG_BTILE) (by decide) (by decide),
    getF_stEnabled (g := PCI.CH_CFG_BSLOT) (by decide) (by decide)]
  rfl

/-- A channel just made ACTIVE. -/
def stActive (c : Nat) (s : State) : State :=
  putF pPci PCI.CH_STAT_STATE 1 c (modCh c (fun x => { wbs := x.wbs, told := x.told }) (stEnabled c s))

theorem chEnable_bad (hmode : chMode s c ≠ 0) (hidle : chState s c = 0) (hb : bindBad s c = true) :
    chEnable c s = chError c 1 0 (stEnabled c s) := by
  unfold chEnable
  rw [if_neg (by simp [hmode, hidle])]
  exact if_pos (bindBad_stEnabled.trans hb)

theorem getF_chEnable_good (hmode : chMode s c ≠ 0) (hidle : chState s c = 0) (hb : bindBad s c = false)
    (hg : g.addr pPci c ≠ PCI.CH_DPOS.addr pPci c) : getF (chEnable c s) pPci g c = getF (stActive c s) pPci g c := by
  unfold chEnable
  rw [if_neg (by simp [hmode, hidle])]
  dsimp only
  have hgood : ¬ bindBad (putF pPci PCI.CH_CTL_EN 1 c s) c = true := fun he => absurd (bindBad_stEnabled.symm.trans he) (by simp [hb])
  rw [if_neg hgood]
  split_ifs
  · rw [getF_streamIssue hg]
    exact getF_putF_reg hg _ _
  · rfl

theorem chEnable_good (hmode : chMode s c ≠ 0) (hidle : chState s c = 0) (hb : bindBad s c = false) :
    chState (chEnable c s) c = 1 ∧ isSet (chEnable c s) pPci PCI.CH_CTL_EN c = true := by
  constructor
  · refine (getF_chEnable_good hmode hidle hb ?_).trans (getF_putF _ _ _ _ _ (by decide))
    exact addr_ne (by simp only [PCI.CH_STAT_STATE, PCI.CH_DPOS]; omega)
  · rw [isSet_eq_true, getF_chEnable_good hmode hidle hb (addr_ne (by simp only [PCI.CH_CTL_EN, PCI.CH_DPOS]; omega))]
    refine (getF_putF_reg (addr_ne (by simp only [PCI.CH_CTL_EN, PCI.CH_STAT_STATE]; omega)) _ _).trans ?_
    change getF (stEnabled c s) pPci PCI.CH_CTL_EN c = 1
    exact getF_putF _ _ _ _ _ (by decide)

/-! ### EN = 0, the drain, RESET and TAIL (R370, R371, R373) -/

theorem exec_chDisable (h : busOpen s who pPci = true) : exec (.chDisable who c) s = .next (chDisable c s) :=
  congrArg Host.Outcome.next (viaBus_open h (k := .pci) rfl _ _ _ _ (fun hc => absurd hc (by decide)))

theorem exec_chReset (h : busOpen s who pPci = true) : exec (.chReset who c) s = .next (chReset c s) :=
  congrArg Host.Outcome.next (viaBus_open h (k := .pci) rfl _ _ _ _ (fun hc => absurd hc (by decide)))

theorem exec_chTailWrite (h : busOpen s who pPci = true) : exec (.chTailWrite who c v) s = .next (putF pPci PCI.CH_TAIL_TAIL v c s) :=
  congrArg Host.Outcome.next (viaBus_open h (k := .pci) rfl _ _ _ _ (fun hc => absurd hc (by decide)))

/-- A channel with EN cleared. -/
def stDisabled (c : Nat) (s : State) : State := putF pPci PCI.CH_CTL_EN 0 c s

theorem chState_stDisabled : chState (stDisabled c s) c = chState s c :=
  getF_putF_reg (addr_ne (by simp only [PCI.CH_STAT_STATE, PCI.CH_CTL_EN]; omega)) _ _

theorem enable_stDisabled : isSet (stDisabled c s) pPci PCI.CH_CTL_EN c = false := isSet_putF (by decide)

theorem chDisable_idle (hact : chState s c = 1) (hd : (chOf s c).desc = none) :
    chDisable c s = putF pPci PCI.CH_STAT_STATE (if (chOf s c).reads = [] then 0 else 3) c (stDisabled c s) := by
  unfold chDisable
  dsimp only
  rw [if_neg (fun hne => hne (chState_stDisabled.trans hact))]
  change (match (chOf s c).desc with | some d => _ | none => _) = _
  rw [hd]
  rfl

theorem chDisable_desc (hact : chState s c = 1) (hd : (chOf s c).desc = some d) :
    chDisable c s = putF pPci PCI.CH_STAT_STATE 3 c (chFail c 7 d.idx (stPassed c 7 d (stDisabled c s))) := by
  unfold chDisable
  dsimp only
  rw [if_neg (fun hne => hne (chState_stDisabled.trans hact))]
  change (match (chOf s c).desc with | some d => _ | none => _) = _
  rw [hd]
  rfl

theorem chDisable_desc_ends (hc : c < 16) (hact : chState s c = 1) (hd : (chOf s c).desc = some d) :
    isSet (chDisable c s) pPci PCI.CH_CTL_EN c = false ∧ chState (chDisable c s) c = 3 ∧ (chOf (chDisable c s) c).desc = none
      ∧ getF (chDisable c s) pPci PCI.CH_STAT_LAST c = 7 ∧ getF (chDisable c s) pPci PCI.CH_HEAD_HEAD c = (d.idx + 1) % 65536 := by
  have hother {g : Fld} (hg : ChanFld g) (h8 : g.off ≠ 0x408) :
      getF (chDisable c s) pPci g c = getF (stPassed c 7 d (stDisabled c s)) pPci g c := by
    have hne {f : Fld} (hf : f.off = 0x408) (hs : f.stride = 0x40) : g.addr pPci c ≠ f.addr pPci c := by
      obtain ⟨-, -, hgs⟩ := hg
      exact addr_ne (by rw [hf, hs, hgs]; omega)
    rw [chDisable_desc hact hd, getF_putF_reg (hne rfl rfl), getF_chFail hg hc, getF_putF_reg (hne rfl rfl)]
  have hen : isSet (stPassed c 7 d (stDisabled c s)) pPci PCI.CH_CTL_EN c = isSet (stDisabled c s) pPci PCI.CH_CTL_EN c := by
    refine (isSet_putF_reg (addr_ne (by simp only [PCI.CH_CTL_EN, PCI.CH_HEAD_HEAD]; omega))).trans ?_
    exact congrArg (fun w => decide (PCI.CH_CTL_EN.of w = 1)) (rdWord_completion _ _)
  refine ⟨?_, ?_, ?_, ?_, (hother (by decide) (by decide)).trans head_stPassed⟩
  · rw [isSet, hother (by decide) (by decide)]
    exact hen.trans enable_stDisabled
  · rw [chDisable_desc hact hd]
    exact getF_putF _ _ _ _ _ (by decide)
  · rw [chDisable_desc hact hd, chOf, putF_dma, chFail_dma]
    exact stPassed_desc
  · rw [chDisable_desc hact hd, getF_putF_beside (by decide)]
    exact last_chFail hc (by decide)

/-- A channel brought to IDLE with no read outstanding. -/
def stIdle (c : Nat) (s : State) : State := putF pPci PCI.CH_STAT_STATE 0 c (modCh c (fun x => { x with reads := [] }) s)

theorem stIdle_facts : chState (stIdle c s) c = 0 ∧ (chOf (stIdle c s) c).reads = []
    ∧ regsSame [PCI.CH_STAT_STATE.addr pPci c] s (stIdle c s) ∧ typedSame { s with dma := (stIdle c s).dma } (stIdle c s) := by
  refine ⟨getF_putF _ _ _ _ _ (by decide), ?_, regsSame_putF (by simp) (regsSame_refl _ s), ?_⟩
  · rw [chOf, stIdle, putF_dma, modCh_dma, smGet_smSet_same]
  · exact typedSame_putF rfl

theorem exec_chDrainDone (h : chState s c = 3) (hf : isSet s pPci HDR.CTRL_FREEZE = false) :
    exec (.chDrainDone c) s = .next (stIdle c s) := congrArg Host.Outcome.next (if_pos ⟨h, hf⟩)

theorem chReset_error (h : chState s c = 2) : chReset c s = stIdle c s := if_pos h

/-! ### Descriptors (R371, R372) -/

/-- What stands for a descriptor that could not be read. -/
def unreadDesc (idx : Nat) : Desc := { idx := idx, host := 0, dev := 0, len := 0, op := 0, flags := 0, cookie := 0 }

theorem readDesc_live (hact : chState s c = 1) (hmode : chMode s c = 1) (hon : dmaOn s = true) (hd : (chOf s c).desc = none)
    (hht : getF s pPci PCI.CH_HEAD_HEAD c ≠ getF s pPci PCI.CH_TAIL_TAIL c) :
    ¬ (chState s c ≠ 1 ∨ chMode s c ≠ 1 ∨ dmaOn s = false ∨ (chOf s c).desc.isSome = true
      ∨ getF s pPci PCI.CH_HEAD_HEAD c = getF s pPci PCI.CH_TAIL_TAIL c) := by
  simp [hact, hmode, hon, hd, hht]

section
variable {bs : List Byte}
  (hlive : ¬ (chState s c ≠ 1 ∨ chMode s c ≠ 1 ∨ dmaOn s = false ∨ (chOf s c).desc.isSome = true
    ∨ getF s pPci PCI.CH_HEAD_HEAD c = getF s pPci PCI.CH_TAIL_TAIL c))
include hlive

theorem readDesc_failed : readDesc c none s = finishDesc c 5 (unreadDesc (getF s pPci PCI.CH_HEAD_HEAD c)) s := by
  unfold readDesc
  exact if_neg hlive

theorem readDesc_malformed (hm : malformed (parseDesc (getF s pPci PCI.CH_HEAD_HEAD c) bs) bs = true) :
    readDesc c (some bs) s = finishDesc c 1 (parseDesc (getF s pPci PCI.CH_HEAD_HEAD c) bs) s := by
  unfold readDesc
  dsimp only
  rw [if_neg hlive, if_pos hm]

theorem readDesc_taken (hm : malformed (parseDesc (getF s pPci PCI.CH_HEAD_HEAD c) bs) bs = false)
    (hr : rangeFault s (parseDesc 0 bs).dev (parseDesc 0 bs).len (parseDesc 0 bs).op = none) (hfence : bit (parseDesc 0 bs).flags 1 = 0) :
    readDesc c (some bs) s = modCh c (fun x => { x with desc := some (parseDesc (getF s pPci PCI.CH_HEAD_HEAD c) bs) }) s := by
  unfold readDesc
  dsimp only
  rw [if_neg hlive, if_neg (by rw [hm]; decide)]
  change (match rangeFault s (parseDesc 0 bs).dev (parseDesc 0 bs).len (parseDesc 0 bs).op with | some st => _ | none => _) = _
  rw [hr]
  refine if_neg fun hf => ?_
  have hone : bit (parseDesc 0 bs).flags 1 = 1 := hf.1
  omega

end

/-! ### Transfers (R372, R376) -/

theorem exec_dmaTransferDone {data : List Byte} {ok : Bool} (hf : isSet s pPci HDR.CTRL_FREEZE = false) (hd : (chOf s c).desc = some d) :
    exec (.dmaTransferDone c data ok) s = .next (if d.op = 1 then copyIn c d data ok s else copyOut c d s) := by
  change (match (if isSet s pPci HDR.CTRL_FREEZE then none else (chOf s c).desc) with | none => _ | some d => _) = _
  rw [hf, hd]
  rfl

theorem exec_dmaTransferDone_frozen {data : List Byte} {ok : Bool} (hf : isSet s pPci HDR.CTRL_FREEZE = true) :
    exec (.dmaTransferDone c data ok) s = .next s := by
  change (match (if isSet s pPci HDR.CTRL_FREEZE then none else (chOf s c).desc) with | none => _ | some d => _) = _
  rw [hf]
  rfl

theorem checkLines_good {req : Nat} {ls : List Nat} (h : ∀ l ∈ ls, lineBad s l = false ∧ (lineSt s l).recov = none) :
    checkLines req ls s = (none, s) := by
  induction ls with
  | nil => rfl
  | cons l ls ih =>
    obtain ⟨hbad, hrec⟩ := h l (List.mem_cons_self ..)
    unfold checkLines
    rw [if_neg (by simp [hbad, hrec])]
    exact ih fun x hx => h x (List.mem_cons_of_mem _ hx)

/-- A transfer to the host whose bytes have been written, its lines counted. -/
def stCopied (c : Nat) (d : Desc) (s : State) : State := addLines c ((d.len + 63) / 64) (hostWrite d.host (rdList s d.dev d.len) s)

theorem copyOut_good (h : ∀ l ∈ linesOf64 d.dev d.len, lineBad s l = false ∧ (lineSt s l).recov = none) :
    copyOut c d s = finishDesc c 0 d (stCopied c d s) := by
  unfold copyOut
  rw [checkLines_good h]
  rfl

theorem hostWrite_on {bs : List Byte} (h : hostOn s = true) :
    hostWrite a bs s = { s with pcie := { s.pcie with out := (a, bs) :: s.pcie.out } } := if_pos h

theorem finishDesc_zero_pcie : (finishDesc c 0 d s).pcie = (completion c d.idx 0 d.cookie s).pcie := by
  rw [finishDesc_zero]
  split
  · rw [chVec, sendVec_pcie]
    rfl
  · rfl

theorem stCopied_out (h : hostOn s = true) : (stCopied c d s).pcie.out = (d.host, rdList s d.dev d.len) :: s.pcie.out := by
  rw [stCopied, hostWrite_on h]
  rfl

theorem hostOn_stCopied (hc : c < 16) : hostOn (stCopied c d s) = hostOn s := by
  have hkept (g : Fld) (hg : g.addr pPci 0 < 0xD400) : isSet (stCopied c d s) pPci g 0 = isSet s pPci g 0 := by
    refine (isSet_putF_reg ?_).trans (congrArg (fun w => decide (g.of w = 1)) (rdWord_hostWrite _ _ _))
    simp only [Fld.addr, PCI.CH_LINES, pPci] at hg ⊢
    omega
  simp only [hostOn]
  rw [show (0xD : Nat) = pPci from rfl, hkept _ (by decide), hkept _ (by decide)]

theorem chState_stCopied : chState (stCopied c d s) c = chState s c := by
  refine (getF_putF_reg (addr_ne (by simp only [PCI.CH_STAT_STATE, PCI.CH_LINES]; omega)) _ _).trans ?_
  exact congrArg PCI.CH_STAT_STATE.of (rdWord_hostWrite _ _ _)

theorem copyIn_failed (hl : d.landed = false) {data : List Byte} :
    copyIn c d data false s = finishDesc c 5 d (landCopy c d (data.take d.len) s) := by
  unfold copyIn
  dsimp only
  rw [if_neg (by simp [hl])]

theorem copyIn_landed (hl : d.landed = true) {data : List Byte} {ok : Bool} : copyIn c d data ok s
    = if (linesOf64 d.dev d.len).any (fun l => (lineSt s l).recov.isSome) then s else finishDesc c 0 d s := by
  have hland : landCopy c d (data.take d.len) s = s := if_pos hl
  unfold copyIn
  dsimp only
  rw [hland, if_pos (by simp [hl])]

/-! ### A completion timeout (R372, R376) -/

theorem exec_completionTimeout (hf : isSet s pPci HDR.CTRL_FREEZE = false) (hact : chState s c = 1) (hd : (chOf s c).desc = some d)
    (hop : d.op = 1) (hl : d.landed = false) : exec (.completionTimeout false c) s = .next (finishDesc c 5 d s) := by
  have hexec : exec (.completionTimeout false c) s = execCompletionTimeout false c s := rfl
  rw [hexec, execCompletionTimeout, if_neg (by decide), if_neg (by simp [hf]), if_neg (by simp [hact]), if_neg (by simp [hact]), hd]
  exact congrArg Host.Outcome.next (if_neg (by simp [hop, hl]))

theorem poisonLine_lines {m : MemRef} {req cause x : Nat} (h : (lineSt s x).recov.isSome = true) :
    (poisonLine m req cause x s).lines = smPut {} (lineOf x) { lineSt s x with poison := true, recov := none } s.lines := by
  unfold poisonLine
  dsimp only
  rw [if_neg (by simp [Option.isNone_iff_eq_none, Option.isSome_iff_ne_none.mp h])]
  refine forAll_induction (P := fun u => u.lines = smPut {} (lineOf x) { lineSt s x with poison := true, recov := none } s.lines)
    (fun e u hu => lines_wrDrop.trans hu) _ ?_
  refine forAll_induction (P := fun u => u.lines = smPut {} (lineOf x) { lineSt s x with poison := true, recov := none } s.lines)
    (fun e u (hu : u.lines = _) => by exact hu) _ ?_
  rw [lines_irqBit, lines_errRec]
  split <;> rfl

theorem exec_completionTimeout_refetch {x : Nat} (hm : (memAt x).isSome = true) (hr : (lineSt s x).recov.isSome = true) :
    ∃ m req, exec (.completionTimeout true x) s = .next (poisonLine m req 3 x s) := by
  obtain ⟨m, hm⟩ := Option.isSome_iff_exists.mp hm
  obtain ⟨r, hr⟩ := Option.isSome_iff_exists.mp hr
  refine ⟨m, r.req, ?_⟩
  have hexec : exec (.completionTimeout true x) s = execCompletionTimeout true x s := rfl
  rw [hexec, execCompletionTimeout, if_pos rfl, hm, hr]

theorem poisonLine_line {m : MemRef} {req cause x : Nat} (h : (lineSt s x).recov.isSome = true) :
    (lineSt (poisonLine m req cause x s) x).poison = true ∧ (lineSt (poisonLine m req cause x s) x).recov = none := by
  rw [lineSt, poisonLine_lines h, smGet_smPut_same]
  exact ⟨rfl, rfl⟩

/-- Settles O39: the operations of a channel write its own registers of the PCI page, each clause from what the operation writes last. -/
theorem copyChannels : Obligations.CopyChannels := by
  intro s who c hc
  refine ⟨fun hopen hmode hidle => ⟨fun hgood => ?_, fun hbad => ?_⟩, fun hopen hoff => ?_, fun hopen hact => ⟨fun hnone => ?_, fun d hd => ?_⟩,
    fun hdrain hfree => ?_, fun hopen herr => ?_, fun hopen hno => ?_, fun hopen v hv => ?_, fun hact hmode hon hnone hht => ?_,
    fun hfrozen => ⟨?_, fun data ok => exec_dmaTransferDone_frozen hfrozen⟩, fun hfree d hd => ⟨fun hop hhost hlines data ok => ?_,
      fun hop hland data => ?_, fun hact hop hland => ?_⟩, fun hfree d hd hop hland data ok => ⟨?_, fun hclear => ?_⟩, fun x hm hr => ?_⟩
  case refine_1 => exact ⟨_, exec_chEnable hopen, chEnable_good hmode hidle hgood⟩
  case refine_2 =>
    refine ⟨_, exec_chEnable hopen, ?_⟩
    rw [chEnable_bad hmode hidle hbad]
    exact ⟨chState_chError hc, last_chError hc (by decide), irqStat_chError⟩
  case refine_3 => exact (exec_chEnable hopen).trans (congrArg Host.Outcome.next (if_pos hoff))
  case refine_4 =>
    refine ⟨_, exec_chDisable hopen, ?_⟩
    rw [chDisable_idle hact hnone]
    refine ⟨?_, ?_, rfl⟩
    · exact (isSet_putF_reg (addr_ne (by simp only [PCI.CH_STAT_STATE, PCI.CH_CTL_EN]; omega))).trans enable_stDisabled
    · refine (getF_putF _ _ _ _ _ (by decide)).trans (Nat.mod_eq_of_lt ?_)
      split <;> decide
  case refine_5 => exact ⟨_, exec_chDisable hopen, chDisable_desc_ends hc hact hd⟩
  case refine_6 =>
    obtain ⟨hstate, hreads, hregs, htyped⟩ := stIdle_facts (s := s) (c := c)
    exact ⟨_, exec_chDrainDone hdrain hfree, hstate, hreads, hregs, htyped⟩
  case refine_7 =>
    obtain ⟨hstate, -, hregs, htyped⟩ := stIdle_facts (s := s) (c := c)
    exact ⟨_, (exec_chReset hopen).trans (congrArg Host.Outcome.next (chReset_error herr)), hstate, hregs, htyped⟩
  case refine_8 => exact (exec_chReset hopen).trans (congrArg Host.Outcome.next (if_neg hno))
  case refine_9 =>
    exact ⟨_, exec_chTailWrite hopen, (getF_putF _ _ _ _ _ (by decide)).trans (Nat.mod_eq_of_lt hv),
      regsSame_putF (by simp) (regsSame_refl _ s), typedSame_putF (typedSame_refl s)⟩
  case refine_10 =>
    have hlive := readDesc_live hact hmode hon hnone hht
    refine ⟨fun bs hm hr hfence => ?_, fun bs hm => ?_, ?_⟩
    · refine ⟨_, congrArg Host.Outcome.next (readDesc_taken hlive hm hr hfence), ?_, fun _ _ => rfl, rfl⟩
      rw [chOf, modCh_dma, smGet_smSet_same]
    · obtain ⟨hdesc, hstate, hlast, -⟩ :=
        finishDesc_error (s := s) (d := parseDesc (getF s pPci PCI.CH_HEAD_HEAD c) bs) hc (st := 1) (by decide) (by decide)
      exact ⟨_, congrArg Host.Outcome.next (readDesc_malformed hlive hm), hdesc, hstate, hlast⟩
    · obtain ⟨-, hstate, hlast, -⟩ :=
        finishDesc_error (s := s) (d := unreadDesc (getF s pPci PCI.CH_HEAD_HEAD c)) hc (st := 5) (by decide) (by decide)
      exact ⟨_, congrArg Host.Outcome.next (readDesc_failed hlive), hstate, hlast⟩
  case refine_11 => exact congrArg Host.Outcome.next (if_neg (by simp [hfrozen]))
  case refine_12 =>
    obtain ⟨hdesc, hstate, hhead⟩ := finishDesc_ok (c := c) (d := d) (s := stCopied c d s)
    refine ⟨_, (exec_dmaTransferDone hfree hd).trans (congrArg Host.Outcome.next ((if_neg hop).trans (copyOut_good hlines))), hdesc, hhead,
      ?_, ?_, hstate.trans chState_stCopied⟩
    · rw [finishDesc_zero_pcie, completion, hostWrite_on ((hostOn_stCopied hc).trans hhost), stCopied_out hhost]
      exact List.mem_cons_of_mem _ (List.mem_cons_self ..)
    · rw [finishDesc_zero_pcie, completion, hostWrite_on ((hostOn_stCopied hc).trans hhost), stCopied_out hhost]
      rfl
  case refine_13 =>
    obtain ⟨hdesc, hstate, hlast, hhead⟩ :=
      finishDesc_error (s := landCopy c d (data.take d.len) s) (d := d) hc (st := 5) (by decide) (by decide)
    exact ⟨_, (exec_dmaTransferDone hfree hd).trans (congrArg Host.Outcome.next ((if_pos hop).trans (copyIn_failed hland))), hdesc, hstate,
      hlast, hhead⟩
  case refine_14 =>
    obtain ⟨hdesc, hstate, hlast, -⟩ := finishDesc_error (s := s) (d := d) hc (st := 5) (by decide) (by decide)
    exact ⟨_, exec_completionTimeout hfree hact hd hop hland, hdesc, hstate, hlast⟩
  case refine_15 =>
    rintro ⟨l, hl, hr⟩
    refine (exec_dmaTransferDone hfree hd).trans (congrArg Host.Outcome.next ((if_pos hop).trans ((copyIn_landed hland).trans ?_)))
    exact if_pos (List.any_eq_true.mpr ⟨l, hl, hr⟩)
  case refine_16 =>
    obtain ⟨hdesc, hstate, hhead⟩ := finishDesc_ok (c := c) (d := d) (s := s)
    refine ⟨_, (exec_dmaTransferDone hfree hd).trans (congrArg Host.Outcome.next ((if_pos hop).trans ((copyIn_landed hland).trans ?_))),
      hdesc, hstate, hhead⟩
    refine if_neg fun hany => ?_
    obtain ⟨l, hl, hr⟩ := List.any_eq_true.mp hany
    rw [hclear l hl] at hr
    exact absurd hr (by decide)
  case refine_17 =>
    obtain ⟨m, req, hexec⟩ := exec_completionTimeout_refetch hm hr
    exact ⟨_, hexec, poisonLine_line hr⟩

end Sys2Proof.Machine
end

section
/-!
PROOFS. Rounds, escalations and the clears of the Darner (R292 to R307).
-/
namespace Sys2Proof.Machine

variable {s t : State} {who : Requester} {p q a f slot kind tile tone dout reason : Nat} {r : Round} {x : Patch} {d : Decision}
  {found : Bool × Option Nat} {lowc : Bool} {g : Nat → Nat}

/-! ### A patch and its registers -/

@[simp] theorem setPatch_patches : (setPatch p x s).patches = smSet p x s.patches := rfl

theorem patchOf_setPatch_same : patchOf (setPatch p x s) p = x := smGet_smSet_same _ _ _ _

theorem patchOf_setPatch_other (h : q ≠ p) : patchOf (setPatch p x s) q = patchOf s q := smGet_smSet_other _ h _ _

theorem regsSame_setPatch {l : List Nat} (h : DRN.PATCH_STAT.addr pDrn p ∈ l) (hs : regsSame l s t) : regsSame l s (setPatch p x t) :=
  regsSame_putF (f := DRN.PATCH_STAT_CFG_ERR) h (regsSame_putF (f := DRN.PATCH_STAT_HELD) h (regsSame_putF (f := DRN.PATCH_STAT_OPEN) h hs))

theorem typedSame_patches {m m' : SMap Patch} (h : typedSame { s with patches := m } t) :
    typedSame { s with patches := m' } { t with patches := m' } := by
  unfold typedSame at *
  rw [h]

theorem typedSame_setPatch (h : typedSame { s with patches := t.patches } t) :
    typedSame { s with patches := (setPatch p x t).patches } (setPatch p x t) :=
  typedSame_putF (typedSame_putF (typedSame_putF (typedSame_patches h)))

theorem rdWord_setPatch (h : a ≠ DRN.PATCH_STAT.addr pDrn p) : rdWord (setPatch p x s) a = rdWord s a :=
  regsSame_setPatch (l := [DRN.PATCH_STAT.addr pDrn p]) (by simp) (regsSame_refl _ s) a (by simpa using h)

/-- A patch shown in its registers leaves its count of escalations. -/
theorem escN_setPatch : getF (setPatch p x s) pDrn DRN.PATCH_STAT_ESC_N p = getF s pDrn DRN.PATCH_STAT_ESC_N p := by
  unfold setPatch showPatch
  rw [getF_putF_beside (by decide), getF_putF_beside (by decide), getF_putF_beside (by decide)]
  rfl

theorem patchRnd_ne : DRN.PATCH_RND.addr pDrn p ≠ DRN.PATCH_STAT.addr pDrn q := by
  simp only [Fld.addr, DRN.PATCH_RND, DRN.PATCH_STAT]
  omega

/-! ### A round closed by its timeout (R294, R296) -/

/-- The patch with its open round taken out of it. -/
def stShut (p : Nat) (s : State) : State := setPatch p { patchOf s p with opened := none, held := [] } s

theorem closeRound_eq (p c reason : Nat) (h : SMap SynBit) (s : State) : ∃ (y : Patch) (x : Round),
    closeRound p c reason h s = setPatch p y (incWrap pDrn DRN.PATCH_RND p s) ∧ y.opened = (patchOf s p).opened ∧ y.held = (patchOf s p).held
      ∧ y.rounds = (patchOf s p).rounds ++ [x] ∧ x.c = c ∧ x.reason = reason ∧ x.held = h
      ∧ x.rnd = getF (incWrap pDrn DRN.PATCH_RND p s) pDrn DRN.PATCH_RND p :=
  ⟨_, _, rfl, rfl, rfl, rfl, rfl, rfl, rfl, rfl⟩

theorem timeoutRound_facts (p c : Nat) (s : State) : ∃ t, timeoutRound p c s = t
      ∧ (patchOf t p).opened = none ∧ (patchOf t p).held = []
      ∧ (∃ x, (patchOf t p).rounds = (patchOf s p).rounds ++ [x] ∧ x.c = c ∧ x.reason = 2 ∧ x.held = (patchOf s p).held
        ∧ x.rnd = (getF s pDrn DRN.PATCH_RND p + 1) % 2 ^ 32)
      ∧ getF t pDrn DRN.PATCH_RND p = (getF s pDrn DRN.PATCH_RND p + 1) % 2 ^ 32
      ∧ regsSame [DRN.PATCH_RND.addr pDrn p, DRN.PATCH_STAT.addr pDrn p] s t ∧ typedSame { s with patches := t.patches } t := by
  have hshut : patchOf (stShut p s) p = { patchOf s p with opened := none, held := [] } := patchOf_setPatch_same
  have hrnd : getF (incWrap pDrn DRN.PATCH_RND p (stShut p s)) pDrn DRN.PATCH_RND p = (getF s pDrn DRN.PATCH_RND p + 1) % 2 ^ 32 := by
    refine (getF_putF _ _ _ _ _ (by decide)).trans ((Nat.mod_mod _ _).trans ?_)
    exact congrArg (fun v => (v + 1) % 2 ^ 32) (congrArg DRN.PATCH_RND.of (rdWord_setPatch patchRnd_ne))
  obtain ⟨y, x, heq, hopened, hheld, hrounds, hc, hreason, hxheld, hxrnd⟩ := closeRound_eq p c 2 (patchOf s p).held (stShut p s)
  refine ⟨setPatch p y (incWrap pDrn DRN.PATCH_RND p (stShut p s)), heq, ?_⟩
  rw [patchOf_setPatch_same, hopened, hheld, hrounds, hshut]
  refine ⟨rfl, rfl, ⟨x, rfl, hc, hreason, hxheld, hxrnd.trans hrnd⟩, ?_, ?_, ?_⟩
  · exact (congrArg DRN.PATCH_RND.of (rdWord_setPatch patchRnd_ne)).trans hrnd
  · exact regsSame_setPatch (by simp) (regsSame_incWrap (by simp) (regsSame_setPatch (by simp) (regsSame_refl _ s)))
  · have hs : typedSame { s with patches := (stShut p s).patches } (stShut p s) := typedSame_setPatch (t := s) rfl
    have hw : typedSame { s with patches := (incWrap pDrn DRN.PATCH_RND p (stShut p s)).patches } (incWrap pDrn DRN.PATCH_RND p (stShut p s)) :=
      typedSame_incWrap hs
    exact typedSame_setPatch hw

/-! ### Publications of a round (R264, R267, R300) -/

/-- The registers that a publication may write. -/
def pubRegs : List Nat := [TUL.PUB_CNT.addr pTul 0, TUL.REJ_CNT.addr pTul 0] ++ recRegs pTul

theorem regsSame_publish (h : regsSame pubRegs s t) : regsSame pubRegs s (publish f kind tile tone dout slot d t) := by
  have hrec : recRegs pTul ⊆ pubRegs := List.subset_append_right _ _
  unfold publish
  dsimp only
  split_ifs
  · exact h
  · exact regsSame_incSat (by simp [pubRegs]) h
  · exact regsSame_irqBit (hrec (by simp [recRegs])) (regsSame_incSat (by simp [pubRegs]) h)
  · exact regsSame_errRec (hrec (by simp [recRegs])) (hrec (by simp [recRegs])) (hrec (by simp [recRegs]))
      (regsSame_irqBit (hrec (by simp [recRegs])) (regsSame_incSat (by simp [pubRegs]) h))

/-- What a publication leaves of the Darner: its patches and its queue. -/
theorem publish_darner : (publish f kind tile tone dout slot d s).patches = s.patches ∧ (publish f kind tile tone dout slot d s).esc = s.esc := by
  unfold publish
  dsimp only
  split_ifs <;> simp

/-- A publication that Tulle takes. -/
theorem publish_named (hon : tulOn s = true) (hname : slotNames s slot kind tile tone dout = true) :
    publish f kind tile tone dout slot d s = incSat pTul TUL.PUB_CNT 0
      { s with pubs := s.pubs ++ [{ slot := slot, due := f + 3, src := kind, port := 0, dec := d }] } := by
  unfold publish
  rw [if_neg (by simp [hon]), if_pos hname]

/-- The publications that the outputs of a round make, in their order. -/
def publishOuts (r : Round) (ndet : Bool) (g : Nat → Nat) (lowc : Bool) (l : List Nat) (s : State) : State :=
  forAll l (fun n s => publish (r.c + 12) 2 0 0 ((outRange r.map).1 + n) (getB s pDrn DRN.DOUT_SLOT_SLOT ((outRange r.map).1 + n))
    { val := g n, leak := false, lowc := lowc, ndet := ndet } s) s

theorem publishOuts_darner {ndet : Bool} {l : List Nat} :
    (publishOuts r ndet g lowc l s).patches = s.patches ∧ (publishOuts r ndet g lowc l s).esc = s.esc
      ∧ regsSame pubRegs s (publishOuts r ndet g lowc l s) := by
  refine forAll_induction (P := fun u => u.patches = s.patches ∧ u.esc = s.esc ∧ regsSame pubRegs s u) (fun n u hu => ?_) l
    ⟨rfl, rfl, regsSame_refl _ s⟩
  obtain ⟨hpatches, hesc, hregs⟩ := hu
  exact ⟨publish_darner.1.trans hpatches, publish_darner.2.trans hesc, regsSame_publish hregs⟩

/-- What a publication that Tulle takes leaves of the registers that the next one reads. -/
theorem tulSeen_pubCounted {u : State} {l : List Pub} (hu : u = incSat pTul TUL.PUB_CNT 0 { s with pubs := l }) :
    tulOn u = tulOn s ∧ (∀ k < 1000, getB u pDrn DRN.DOUT_SLOT_SLOT k = getB s pDrn DRN.DOUT_SLOT_SLOT k)
      ∧ ∀ i o, slotNames u i 2 0 0 o = slotNames s i 2 0 0 o := by
  have hother {a : Nat} (ha : a ≠ TUL.PUB_CNT.addr pTul 0) : rdWord u a = rdWord s a := by
    rw [hu]
    exact rdWord_wrWord_other ha _ _
  have hin {a : Nat} (ha : a ≠ TUL.PUB_CNT.addr pTul 0) : inForce u a = inForce s a := by
    rw [inForce, hother ha, inForce, hu]
    rfl
  refine ⟨?_, fun k hk => congrArg DRN.DOUT_SLOT_SLOT.of (hin ?_), fun i o => ?_⟩
  · have hset {g : Fld} (hg : g.addr pTul 0 ≠ TUL.PUB_CNT.addr pTul 0) : isSet u pTul g = isSet s pTul g := by
      rw [isSet, getF, hother hg, isSet, getF]
    rw [tulOn, hset (by decide), hset (by decide), tulOn]
  · simp only [Fld.addr, DRN.DOUT_SLOT_SLOT, TUL.PUB_CNT, pDrn, pTul]
    omega
  · have hsrc {g : Fld} (hg : g.addr pTul i = TUL.SLOT_SRC.addr pTul i) : getB u pTul g i = getB s pTul g i := by
      refine congrArg g.of (hin ?_)
      rw [hg]
      simp only [Fld.addr, TUL.SLOT_SRC, TUL.PUB_CNT, pTul]
      omega
    have hkind : slotKind u i = slotKind s i := hsrc rfl
    simp only [slotNames, hkind, hsrc (g := TUL.SLOT_SRC_TILE) rfl, hsrc (g := TUL.SLOT_SRC_TONE) rfl, hsrc (g := TUL.SLOT_SRC_DOUT) rfl]

theorem outRange_lt : (outRange r.map).1 < 128 ∧ (outRange r.map).2 < 256 :=
  ⟨Fld.of_lt DRN.PATCH_MAP_OUT_BASE _, Fld.of_lt DRN.PATCH_MAP_NOUT _⟩

/-- Where Tulle is on and every slot names its output, each output of the list publishes one value. -/
theorem publishOuts_pubs {ndet : Bool} {l : List Nat} (hl : ∀ n ∈ l, n < 256) (hon : tulOn s = true)
    (hname : ∀ n ∈ l, slotNames s (getB s pDrn DRN.DOUT_SLOT_SLOT ((outRange r.map).1 + n)) 2 0 0 ((outRange r.map).1 + n) = true) :
    (publishOuts r ndet g lowc l s).pubs = s.pubs ++ l.map (fun n =>
      { slot := getB s pDrn DRN.DOUT_SLOT_SLOT ((outRange r.map).1 + n), due := r.c + 15, src := 2, port := 0,
        dec := { val := g n, leak := false, lowc := lowc, ndet := ndet } }) := by
  induction l generalizing s with
  | nil => simp [publishOuts, forAll]
  | cons n l ih =>
    have hbase := (outRange_lt (r := r)).1
    have hstep := publish_named (f := r.c + 12) (d := { val := g n, leak := false, lowc := lowc, ndet := ndet }) hon
      (hname n (List.mem_cons_self ..))
    obtain ⟨hon', hslot', hname'⟩ := tulSeen_pubCounted hstep
    change (publishOuts r ndet g lowc l (publish _ _ _ _ _ _ _ s)).pubs = _
    rw [ih (fun m hm => hl m (List.mem_cons_of_mem _ hm)) (hon'.trans hon) fun m hm => ?_]
    · rw [hstep, incSat_pubs, List.map_cons, List.append_assoc]
      refine congrArg (s.pubs ++ ·) (congrArg₂ List.cons rfl (List.map_congr_left fun m hm => ?_))
      have hm := hl m (List.mem_cons_of_mem _ hm)
      rw [← hstep, hslot' _ (by omega)]
    · have hlt := hl m (List.mem_cons_of_mem _ hm)
      rw [hslot' _ (by omega), hname']
      exact hname m (List.mem_cons_of_mem _ hm)

/-! ### The end of a round's pipeline (R297 to R303) -/

/-- A round at the end of its pipeline with its publications made, by what its tables held. -/
def publishRound (r : Round) (found : Bool × Option Nat) (s : State) : State :=
  let ndet := r.held.any (fun e => e.2.ndet)
  let l := List.range (outRange r.map).2
  if roundReason r found.1 found.2 = 0 then publishOuts r ndet (fun n => if events r.ev = [] then 0 else outValue (found.2.getD 0) n) false l s
  else if DRN.PATCH_CFG_ESC_PUB.of r.cfg = 1 then publishOuts r ndet (fun _ => 0) true l s else s

/-- A round leaves its pipeline, by what its tables held. -/
def endRound (p : Nat) (r : Round) (found : Bool × Option Nat) (s : State) : State :=
  let reason := roundReason r found.1 found.2
  let s := publishRound r found s
  let s := if reason = 0 then s else incSat pDrn DRN.PATCH_STAT_ESC_N p s
  if reason ≠ 0 ∨ DRN.PATCH_CFG_REC_ALL.of r.cfg = 1 then escPush p r.rnd (escRecord p reason r) s else s

theorem readTables_good (h : ∀ a ∈ roundLines p r, lineBad s a = false) :
    readTables p r s = ({ r with read := some (false, roundEntry s p r) }, s) := by
  have hnone : (if r.reason = 0 then (roundLines p r).filter (fun a => lineBad s a) else []) = [] := by
    split
    · exact List.filter_eq_nil_iff.mpr fun a ha => by simp [h a ha]
    · rfl
  unfold readTables
  dsimp only
  rw [hnone]
  rfl

theorem finishRound_read {x : Round} (hq : (if r.read.isSome = true then (r, s) else readTables p r s) = (x, s)) (hx : x.read = some found) :
    finishRound p r s = endRound p r found s := by
  unfold finishRound endRound
  rw [hq]
  dsimp only
  rw [hx]
  rfl

theorem finishRound_eq (h : r.read.isSome = true ∨ ∀ a ∈ roundLines p r, lineBad s a = false) :
    finishRound p r s = endRound p r (r.read.getD (false, roundEntry s p r)) s := by
  by_cases hsome : r.read.isSome = true
  · obtain ⟨f, hread⟩ := Option.isSome_iff_exists.mp hsome
    rw [finishRound_read (if_pos hsome) hread, hread]
    rfl
  · have hread : r.read = none := by simpa using hsome
    rw [finishRound_read ((if_neg hsome).trans (readTables_good (h.resolve_left hsome))) rfl, hread]
    rfl

/-- What a record pushed on the queue leaves. -/
theorem escPush_kept (rnd rec : Nat) : (escPush p rnd rec s).patches = s.patches ∧ (escPush p rnd rec s).pubs = s.pubs := by
  unfold escPush showEsc
  dsimp only
  split_ifs <;> simp

theorem escPush_room (rnd rec : Nat) (h : s.esc.length < 64) : (escPush p rnd rec s).esc = s.esc ++ [rec]
    ∧ regsSame [DRN.ESC_STAT_DEPTH.addr pDrn 0, HDR.IRQ_STAT.addr pDrn 0] s (escPush p rnd rec s) := by
  unfold escPush showEsc
  dsimp only
  rw [if_pos h]
  have hfirst : regsSame [DRN.ESC_STAT_DEPTH.addr pDrn 0, HDR.IRQ_STAT.addr pDrn 0] s
      (irqBit pDrn 0 (putF pDrn DRN.ESC_STAT_DEPTH (s.esc ++ [rec]).length 0 { s with esc := s.esc ++ [rec] })) :=
    regsSame_irqBit (by simp) (regsSame_putF (by simp) (fun _ _ => rfl))
  split_ifs
  · exact ⟨by simp, regsSame_irqBit (by simp) hfirst⟩
  · exact ⟨by simp, hfirst⟩

theorem patchStat_not_pubRegs (hp : p < 8) : DRN.PATCH_STAT_ESC_N.addr pDrn p ∉ pubRegs := by
  simp only [pubRegs, recRegs, List.mem_append, List.mem_cons, List.not_mem_nil, or_false, Fld.addr, DRN.PATCH_STAT_ESC_N, TUL.PUB_CNT,
    TUL.REJ_CNT, HDR.ERR_CNT_TOTAL, HDR.IRQ_STAT, DMP.DUMP_STAT_FATAL_CNT, pDrn, pTul]
  omega

/-- What the publications of a round leave, whether it makes any or not. -/
theorem publishRound_kept : (publishRound r found s).patches = s.patches ∧ (publishRound r found s).esc = s.esc
    ∧ regsSame pubRegs s (publishRound r found s) := by
  unfold publishRound
  dsimp only
  split
  · exact publishOuts_darner
  · split
    · exact publishOuts_darner
    · exact ⟨rfl, rfl, regsSame_refl _ s⟩

theorem endRound_patches : (endRound p r found s).patches = s.patches := by
  have hkept {u : State} (hu : u.patches = s.patches) {b : Prop} [Decidable b] (rnd rec : Nat) :
      (if b then escPush p rnd rec u else u).patches = s.patches := by
    split
    · exact (escPush_kept rnd rec).1.trans hu
    · exact hu
  unfold endRound
  dsimp only
  refine hkept ?_ _ _
  split
  · exact publishRound_kept.1
  · exact (incSat_patches ..).trans publishRound_kept.1

theorem endRound_matched (h : roundReason r found.1 found.2 = 0) (hrec : DRN.PATCH_CFG_REC_ALL.of r.cfg = 0) :
    (endRound p r found s).esc = s.esc := by
  unfold endRound
  dsimp only
  rw [if_neg (by simp [h, hrec]), if_pos h]
  exact publishRound_kept.2.1

theorem endRound_pubs (h : roundReason r found.1 found.2 = 0) (hon : tulOn s = true)
    (hname : ∀ n < (outRange r.map).2,
      slotNames s (getB s pDrn DRN.DOUT_SLOT_SLOT ((outRange r.map).1 + n)) 2 0 0 ((outRange r.map).1 + n) = true) :
    (endRound p r found s).pubs = s.pubs ++ (List.range (outRange r.map).2).map (fun n =>
      { slot := getB s pDrn DRN.DOUT_SLOT_SLOT ((outRange r.map).1 + n), due := r.c + 15, src := 2, port := 0,
        dec := { val := if events r.ev = [] then 0 else outValue (found.2.getD 0) n, leak := false, lowc := false,
                 ndet := r.held.any (fun e => e.2.ndet) } }) := by
  have hpub := publishOuts_pubs (r := r) (l := List.range (outRange r.map).2) (lowc := false) (ndet := r.held.any (fun e => e.2.ndet))
    (g := fun n => if events r.ev = [] then 0 else outValue (found.2.getD 0) n)
    (fun n hn => (List.mem_range.mp hn).trans outRange_lt.2) hon (fun n hn => hname n (List.mem_range.mp hn))
  have hround : publishRound r found s = _ := if_pos h
  unfold endRound
  dsimp only
  rw [if_pos h, hround]
  split
  · exact (escPush_kept _ _).2.trans hpub
  · exact hpub

theorem endRound_escalated (hp : p < 8) (h : roundReason r found.1 found.2 ≠ 0) (hroom : s.esc.length < 64) :
    (endRound p r found s).esc = s.esc ++ [escRecord p (roundReason r found.1 found.2) r]
      ∧ getF (endRound p r found s) pDrn DRN.PATCH_STAT_ESC_N p
        = min (getF s pDrn DRN.PATCH_STAT_ESC_N p + 1) (2 ^ DRN.PATCH_STAT_ESC_N.w - 1) := by
  obtain ⟨-, hesc, hregs⟩ := publishRound_kept (r := r) (found := found) (s := s)
  obtain ⟨hpush, hpushed⟩ := escPush_room (p := p) r.rnd (escRecord p (roundReason r found.1 found.2) r)
    (s := incSat pDrn DRN.PATCH_STAT_ESC_N p (publishRound r found s)) (by rw [incSat_esc, hesc]; exact hroom)
  unfold endRound
  dsimp only
  rw [if_pos (Or.inl h), if_neg h]
  refine ⟨hpush.trans ?_, (regsSame_getF hpushed ?_).trans ((getF_incSat (by decide) _).trans ?_)⟩
  · rw [incSat_esc, hesc]
  · simp only [List.mem_cons, List.not_mem_nil, or_false, Fld.addr, DRN.PATCH_STAT_ESC_N, DRN.ESC_STAT_DEPTH, HDR.IRQ_STAT, pDrn]
    omega
  · rw [regsSame_getF hregs (patchStat_not_pubRegs hp)]

theorem endRound_silent (h : roundReason r found.1 found.2 ≠ 0) (hpub : DRN.PATCH_CFG_ESC_PUB.of r.cfg = 0) :
    (endRound p r found s).pubs = s.pubs := by
  have hround : publishRound r found s = s := (if_neg h).trans (if_neg (by simp [hpub]))
  unfold endRound
  dsimp only
  rw [if_pos (Or.inl h), if_neg h, hround]
  exact (escPush_kept _ _).2

/-! ### Clears (R306) and the queue (R304) -/

/-- What one element of a list brings about, and every other keeps, holds after the whole list. -/
theorem forAll_reaches {α : Type} {P Q : State → Prop} {g : α → State → State} {y : α} (hP : ∀ x u, P u → P (g x u))
    (hy : ∀ u, P u → Q (g y u)) (hQ : ∀ x u, Q u → Q (g x u)) {l : List α} (hmem : y ∈ l) (h : P s) : Q (forAll l g s) := by
  obtain ⟨as, bs, rfl⟩ := List.append_of_mem hmem
  have hsplit : forAll (as ++ y :: bs) g s = forAll bs g (g y (forAll as g s)) := by simp [forAll]
  rw [hsplit]
  exact forAll_induction hQ bs (hy _ (forAll_induction hP as h))

theorem mem_of_smFind {α : Type} {k : Nat} {v : α} {m : SMap α} (h : smFind k m = some v) : (k, v) ∈ m := by
  induction m with
  | nil => exact absurd h (by simp [smFind])
  | cons e m ih =>
    obtain ⟨j, w⟩ := e
    simp only [smFind] at h
    split at h
    · next hj =>
      obtain rfl := hj
      obtain rfl := Option.some.inj h
      exact List.mem_cons_self ..
    · exact List.mem_cons_of_mem _ (ih h)

theorem clearPatch_patches : (clearPatch q s).patches
    = smSet q { patchOf s q with opened := none, held := [], ref := 0, clrAt := none } s.patches := rfl

theorem patchOf_clearPatch_same :
    patchOf (clearPatch p s) p = { patchOf s p with opened := none, held := [], ref := 0, clrAt := none } := smGet_smSet_same _ _ _ _

theorem patchOf_clearPatch_other (h : p ≠ q) : patchOf (clearPatch q s) p = patchOf s p := smGet_smSet_other _ h _ _

theorem rnd_clearPatch_same : getF (clearPatch p s) pDrn DRN.PATCH_RND p = 0 := getF_putF _ _ _ _ _ (by decide)

theorem rnd_clearPatch_other (h : p ≠ q) : getF (clearPatch q s) pDrn DRN.PATCH_RND p = getF s pDrn DRN.PATCH_RND p := by
  refine (getF_putF_reg ?_ _ _).trans (congrArg DRN.PATCH_RND.of (rdWord_setPatch patchRnd_ne))
  exact addr_ne (by simp only [DRN.PATCH_RND]; omega)

/-- A patch cleared, its rounds in the pipeline as they were. -/
def patchCleared (p : Nat) (rounds : List Round) (u : State) : Prop :=
  (patchOf u p).opened = none ∧ (patchOf u p).held = [] ∧ (patchOf u p).ref = 0 ∧ (patchOf u p).rounds = rounds
    ∧ getF u pDrn DRN.PATCH_RND p = 0

theorem rounds_clearPatch (q : Nat) : (patchOf (clearPatch q s) p).rounds = (patchOf s p).rounds := by
  by_cases h : p = q
  · rw [h, patchOf_clearPatch_same]
  · rw [patchOf_clearPatch_other h]

theorem patchCleared_clear {rounds : List Round} (h : (patchOf s p).rounds = rounds) : patchCleared p rounds (clearPatch p s) := by
  refine ⟨?_, ?_, ?_, (rounds_clearPatch p).trans h, rnd_clearPatch_same⟩ <;> rw [patchOf_clearPatch_same]

theorem patchCleared_other {rounds : List Round} (h : patchCleared p rounds s) (q : Nat) : patchCleared p rounds (clearPatch q s) := by
  by_cases hq : p = q
  · exact hq ▸ patchCleared_clear h.2.2.2.1
  · unfold patchCleared
    rw [patchOf_clearPatch_other hq, rnd_clearPatch_other hq]
    exact h

theorem darnerClears_due (hclr : (patchOf s p).clrAt = some f) (hf : f ≤ now s) :
    patchCleared p (patchOf s p).rounds (darnerClears s) := by
  have hfind : ∃ x, smFind p s.patches = some x ∧ x.clrAt = some f := by
    cases hx : smFind p s.patches with
    | none =>
      rw [patchOf, smGet, hx] at hclr
      exact absurd hclr (by simp)
    | some x =>
      rw [patchOf, smGet, hx] at hclr
      exact ⟨x, rfl, hclr⟩
  obtain ⟨x, hx, hat⟩ := hfind
  refine forAll_reaches (P := fun u => (patchOf u p).rounds = (patchOf s p).rounds) (y := p) (fun q u hu => (rounds_clearPatch q).trans hu)
    (fun u hu => patchCleared_clear hu) (fun q u hu => patchCleared_other hu q) ?_ rfl
  exact List.mem_map.mpr ⟨(p, x), List.mem_filter.mpr ⟨mem_of_smFind hx, by simp [hat, hf]⟩, rfl⟩

theorem exec_patchClr (h : busOpen s who pDrn = true) (hp : p < 8) : exec (.patchClr who p) s = .next (patchClr p s) :=
  (congrArg Host.Outcome.next (viaBus_open h (k := .drn) rfl _ _ _ _ (fun hc => absurd hc (by decide)))).trans
    (congrArg Host.Outcome.next (if_pos hp))

theorem exec_escPop (h : busOpen s who pDrn = true) : exec (.escPop who) s = .next (escPopEffect s) :=
  congrArg Host.Outcome.next (viaBus_open h (k := .drn) rfl _ _ _ _ (fun hc => absurd hc (by decide)))

/-! ### The commands -/

theorem exec_roundTimeout {c : Nat} (hc : timeoutFc s p = some c) :
    exec (.roundTimeout p) s = .next (if decide (c ≤ now s) && !isSet s pDrn HDR.CTRL_FREEZE then timeoutRound p c s else s) := by
  have hexec : exec (.roundTimeout p) s = execRoundTimeout p s := rfl
  rw [hexec, execRoundTimeout, hc]

/-- A patch with its oldest round taken from the pipeline. -/
def stRoundTaken (p : Nat) (s : State) : State := setPatch p { patchOf s p with rounds := (patchOf s p).rounds.tail } s

theorem exec_darnerPublish (h : (patchOf s p).rounds.head? = some r) : exec (.darnerPublish p) s
    = .next (if decide (r.c + 12 ≤ now s) && roundTurn s p r then finishRound p r (stRoundTaken p s) else s) := by
  have hexec : exec (.darnerPublish p) s = execDarnerPublish p s := rfl
  obtain ⟨rest, hrest⟩ := List.head?_eq_some_iff.mp h
  rw [hexec, execDarnerPublish, stRoundTaken, hrest]
  rfl

theorem tulOn_setPatch : tulOn (setPatch p x s) = tulOn s := by
  have hset {g : Fld} (hg : g.addr pTul 0 < 0xC000) : isSet (setPatch p x s) pTul g = isSet s pTul g := by
    refine congrArg (fun w => decide (g.of w = 1)) (rdWord_setPatch ?_)
    simp only [Fld.addr, DRN.PATCH_STAT, pDrn, pTul] at hg ⊢
    omega
  rw [tulOn, hset (by decide), hset (by decide), tulOn]

theorem inForce_setPatch (h : a ≠ DRN.PATCH_STAT.addr pDrn p) : inForce (setPatch p x s) a = inForce s a := by
  rw [inForce, rdWord_setPatch h, inForce]
  rfl

theorem doutSlot_setPatch (hp : p < 8) (k : Nat) :
    getB (setPatch p x s) pDrn DRN.DOUT_SLOT_SLOT k = getB s pDrn DRN.DOUT_SLOT_SLOT k := by
  refine congrArg DRN.DOUT_SLOT_SLOT.of (inForce_setPatch ?_)
  exact addr_ne (by simp only [DRN.DOUT_SLOT_SLOT, DRN.PATCH_STAT]; omega)

theorem slotNames_setPatch (i kind tile tone dout : Nat) :
    slotNames (setPatch p x s) i kind tile tone dout = slotNames s i kind tile tone dout := by
  have hsrc {g : Fld} (hg : g.addr pTul i = TUL.SLOT_SRC.addr pTul i) : getB (setPatch p x s) pTul g i = getB s pTul g i := by
    refine congrArg g.of (inForce_setPatch ?_)
    rw [hg]
    simp only [Fld.addr, TUL.SLOT_SRC, DRN.PATCH_STAT, pDrn, pTul]
    omega
  have hkind : slotKind (setPatch p x s) i = slotKind s i := hsrc rfl
  simp only [slotNames, hkind, hsrc (g := TUL.SLOT_SRC_TILE) rfl, hsrc (g := TUL.SLOT_SRC_TONE) rfl, hsrc (g := TUL.SLOT_SRC_DOUT) rfl]

/-- Settles O30: a round that leaves its pipeline does what its tables hold, publication by publication; a clear acts on its own patch. -/
theorem darnerRounds : Obligations.DarnerRounds := by
  intro s who p hp
  refine ⟨fun c hc hle hfree => ?_, fun c hc hlt => ?_, fun r hr hdue hturn hgood => ?_, fun r hr hnot => ?_, fun hopen => ?_,
    fun f hclr hf => darnerClears_due hclr hf, fun hopen hunbound => ?_, fun hopen hbound => ?_⟩
  case refine_1 =>
    obtain ⟨t, heq, hfacts⟩ := timeoutRound_facts p c s
    refine ⟨t, ?_, hfacts⟩
    rw [exec_roundTimeout hc, if_pos (by simp [hle, hfree]), heq]
  case refine_2 => exact (exec_roundTimeout hc).trans (congrArg Host.Outcome.next (if_neg (by simp [hlt])))
  case refine_3 =>
    have hexec := (exec_darnerPublish hr).trans (congrArg Host.Outcome.next ((if_pos (by simp [hdue, hturn])).trans
      (finishRound_eq (s := stRoundTaken p s) hgood)))
    refine ⟨_, hexec, ?_, fun hmatch hrec => endRound_matched hmatch hrec, fun hmatch hon hnames => ?_, fun hesc hroom => ?_,
      fun hesc hpub => endRound_silent hesc hpub⟩
    · rw [patchOf, endRound_patches]
      exact congrArg Patch.rounds patchOf_setPatch_same
    · refine (endRound_pubs hmatch (tulOn_setPatch.trans hon) fun n hn => ?_).trans ?_
      · refine (slotNames_setPatch _ _ _ _ _).trans ?_
        rw [doutSlot_setPatch hp]
        exact hnames n hn
      · simp only [doutSlot_setPatch hp]
        rfl
    · obtain ⟨hrec, hcount⟩ := endRound_escalated (s := stRoundTaken p s) hp hesc hroom
      exact ⟨hrec, hcount.trans (by rw [stRoundTaken, escN_setPatch])⟩
  case refine_4 =>
    refine (exec_darnerPublish hr).trans (congrArg Host.Outcome.next (if_neg ?_))
    obtain hlt | hturn := hnot
    · simp [hlt]
    · simp [hturn]
  case refine_5 =>
    exact ⟨_, exec_patchClr hopen hp, patchOf_setPatch_same, fun q hq => patchOf_setPatch_other hq,
      regsSame_setPatch (by simp) (regsSame_refl _ s), typedSame_setPatch (t := s) rfl⟩
  case refine_6 =>
    exact ⟨_, (exec_escPop hopen).trans (congrArg Host.Outcome.next (if_neg (by simp [hunbound]))), rfl,
      regsSame_putF (by simp) (fun _ _ => rfl), typedSame_putF rfl⟩
  case refine_7 => exact (exec_escPop hopen).trans (congrArg Host.Outcome.next (if_pos hbound))

end Sys2Proof.Machine
end

section
/-!
PROOFS. What a shot boundary of a tile or of the device may change (R66 to R69): a relation that every operation of a boundary keeps,
used for what those operations leave alone.
-/
namespace Sys2Proof.Machine

variable {s0 s t : State} {a p i v b n : Nat} {f : Fld}

/-- A register that a shot boundary may write: of a page from Tulle on, of Memory Integrity or the machine-check count by a bad line,
the trim of SYNC, or the STATUS of a page with its B_PEND. -/
def boundaryReg (a : Nat) : Prop :=
  0xB000 ≤ a ∨ lineReg a ∨ a = MIC.FLIP_SEL.addr 6 0 ∨ a = CLK.SKEW_TRIM.addr 1 0 ∨ a % 0x1000 = 0x010

/-- What a shot boundary may change of a Tambour. -/
def boundaryTile (x y : Tile) : Prop := y = { x with keys := y.keys, satShot := y.satShot, freset := y.freset, xLog := y.xLog }

/-- The parts of the state that a shot boundary may change. -/
def boundaryTyped (s t : State) : Prop :=
  t = { s with regs := t.regs, held := t.held, errs := t.errs, fatal := t.fatal, msix := t.msix, was := t.was, mem := t.mem, side := t.side,
               lines := t.lines, lastBytes := t.lastBytes, lastAbort := t.lastAbort, hoop := { s.hoop with resident := t.hoop.resident },
               tiles := t.tiles, rdos := t.rdos, flux := t.flux, slots := t.slots, once := t.once, patches := t.patches,
               cal := { s.cal with tiles := t.cal.tiles, tracks := t.cal.tracks, skewShadow := t.cal.skewShadow, due := t.cal.due } }

/-- What a shot boundary may change. -/
structure BoundaryOnly (s t : State) : Prop where
  regs : ∀ a, ¬ boundaryReg a → rdWord t a = rdWord s a
  typed : boundaryTyped s t
  tiles : ∀ b, boundaryTile (tileOf s b) (tileOf t b)

theorem le_pTul : 0xB ≤ pTul := by decide
theorem le_pDrn : 0xB ≤ pDrn := by decide
theorem le_cal : 0xB ≤ 0x39 := by decide
theorem le_tilePage (b : Nat) : 0xB ≤ tilePage b := by
  unfold tilePage
  omega

theorem boundaryReg_page (hp : 0xB ≤ p) (f : Fld) (i : Nat) : boundaryReg (f.addr p i) := by
  left
  simp only [Fld.addr]
  omega

theorem boundaryTile_trans {x y z : Tile} (h : boundaryTile x y) (h' : boundaryTile y z) : boundaryTile x z := by
  unfold boundaryTile at *
  rw [h', h]

namespace BoundaryOnly

theorem refl (s : State) : BoundaryOnly s s := ⟨fun _ _ => rfl, rfl, fun _ => rfl⟩

theorem trans {u : State} (h : BoundaryOnly s t) (h' : BoundaryOnly t u) : BoundaryOnly s u := by
  refine ⟨fun a ha => (h'.regs a ha).trans (h.regs a ha), ?_, fun b => boundaryTile_trans (h.tiles b) (h'.tiles b)⟩
  have ht := h.typed
  have hu := h'.typed
  unfold boundaryTyped at *
  rw [hu, ht]

/-- A change of the parts that no register and no Tambour stands in. -/
theorem typedChange {u : State} (h : BoundaryOnly s0 s) (hregs : u.regs = s.regs) (htiles : u.tiles = s.tiles) (htyped : boundaryTyped s u) :
    BoundaryOnly s0 u := by
  refine h.trans ⟨fun a _ => ?_, htyped, fun b => ?_⟩
  · simp only [rdWord, hregs]
  · simp only [boundaryTile, tileOf, htiles]

theorem of_lineOnly (h : LineOnly s t) : BoundaryOnly s t := by
  refine ⟨fun a ha => h.regs a fun hl => ha (.inr (.inl hl)), ?_, fun b => ?_⟩
  · have ht := h.typed
    unfold lineTyped at ht
    unfold boundaryTyped
    rw [ht]
  · rw [h.tileOf b]
    rfl

theorem ite {c : Prop} [Decidable c] {x y : State} (hx : BoundaryOnly s0 x) (hy : BoundaryOnly s0 y) :
    BoundaryOnly s0 (if c then x else y) := by
  split <;> assumption

theorem forAll {α : Type} {l : List α} {g : α → State → State} (hg : ∀ x t, BoundaryOnly s0 t → BoundaryOnly s0 (g x t))
    (h : BoundaryOnly s0 s) : BoundaryOnly s0 (forAll l g s) := forAll_induction hg l h

/-! ### Primitive operations -/

theorem wrWord {w : Word} (ha : boundaryReg a) (h : BoundaryOnly s0 s) : BoundaryOnly s0 (wrWord a w s) := by
  refine h.trans ⟨fun x hx => rdWord_wrWord_other ?_ _ s, rfl, fun _ => rfl⟩
  rintro rfl
  exact hx ha

theorem putF (hp : 0xB ≤ p) (h : BoundaryOnly s0 s) : BoundaryOnly s0 (putF p f v i s) := h.wrWord (boundaryReg_page hp f i)

theorem incSat (hp : 0xB ≤ p) (h : BoundaryOnly s0 s) : BoundaryOnly s0 (incSat p f i s) := h.putF hp

theorem addSat (hp : 0xB ≤ p) (h : BoundaryOnly s0 s) : BoundaryOnly s0 (addSat p f n i s) := h.putF hp

theorem irqBit (hp : 0xB ≤ p) (h : BoundaryOnly s0 s) : BoundaryOnly s0 (irqBit p n s) := by
  refine h.trans ⟨fun x hx => rdWord_irqSet s x p _ ?_, ?_, fun b => ?_⟩
  · rintro rfl
    exact hx (boundaryReg_page hp _ _)
  · have ht : typedSame s (Machine.irqBit p n s) := typedSame_irqBit (typedSame_refl s)
    unfold typedSame at ht
    unfold boundaryTyped
    rw [ht]
  · simp only [boundaryTile, tileOf, irqBit_tiles]

theorem errRec {code sev unit info addr : Nat} (hp : 0xB ≤ p) (h : BoundaryOnly s0 s) :
    BoundaryOnly s0 (errRec p code sev unit info addr s) := by
  refine h.trans ⟨fun x hx => rdWord_errRec s x p _ _ _ _ _ ?_ ?_ ?_, ?_, fun b => ?_⟩
  · rintro rfl
    exact hx (boundaryReg_page hp _ _)
  · rintro rfl
    exact hx (boundaryReg_page hp _ _)
  · rintro rfl
    exact hx (boundaryReg_page (by decide) _ _)
  · have ht : typedSame s (Machine.errRec p code sev unit info addr s) := typedSame_errRec (typedSame_refl s)
    unfold typedSame at ht
    unfold boundaryTyped
    rw [ht]
  · simp only [boundaryTile, tileOf, errRec_tiles]

theorem modTile {g : Tile → Tile} (hg : ∀ x, boundaryTile x (g x)) (h : BoundaryOnly s0 s) : BoundaryOnly s0 (modTile b g s) := by
  refine h.trans ⟨fun _ _ => rfl, rfl, fun c => ?_⟩
  by_cases hc : c = b
  · rw [hc, tileOf_modTile]
    exact hg _
  · rw [tileOf_modTile_other hc]
    rfl

theorem modRdo {g : Rdo → Rdo} (h : BoundaryOnly s0 s) : BoundaryOnly s0 (modRdo b g s) := h.typedChange rfl rfl rfl

theorem setFlux {k : Nat} {o : FOut} (h : BoundaryOnly s0 s) : BoundaryOnly s0 (setFlux b k o s) := h.typedChange rfl rfl rfl

theorem setTulSlot {x : TulSlot} (h : BoundaryOnly s0 s) : BoundaryOnly s0 (setTulSlot i x s) := h.typedChange rfl rfl rfl

theorem setTrack {k : Track} (h : BoundaryOnly s0 s) : BoundaryOnly s0 (setTrack b n k s) := h.typedChange rfl rfl rfl

theorem modCal {g : CalTile → CalTile} (h : BoundaryOnly s0 s) : BoundaryOnly s0 (modCal b g s) := h.typedChange rfl rfl rfl

theorem patches {x : SMap Patch} (h : BoundaryOnly s0 s) : BoundaryOnly s0 { s with patches := x } := h.typedChange rfl rfl rfl

theorem held {x : SMap Word} (h : BoundaryOnly s0 s) : BoundaryOnly s0 { s with held := x } := h.typedChange rfl rfl rfl

theorem side {x : SMap Nat} (h : BoundaryOnly s0 s) : BoundaryOnly s0 { s with side := x } := h.typedChange rfl rfl rfl

theorem calDue (h : BoundaryOnly s0 s) : BoundaryOnly s0 { s with cal := { s.cal with due := true } } := h.typedChange rfl rfl rfl

theorem skewShadow {x : Option Nat} (h : BoundaryOnly s0 s) : BoundaryOnly s0 { s with cal := { s.cal with skewShadow := x } } :=
  h.typedChange rfl rfl rfl

theorem newDevShot (h : BoundaryOnly s0 s) : BoundaryOnly s0 (newDevShot s) := h.typedChange rfl rfl rfl

theorem setLine {l : LineSt} (h : BoundaryOnly s0 s) : BoundaryOnly s0 (setLine a l s) := h.typedChange rfl rfl rfl

theorem wrBytes (l : List Byte) (h : BoundaryOnly s0 s) : BoundaryOnly s0 (wrBytes a l s) := by
  induction l generalizing a s with
  | nil => exact h
  | cons x l ih => exact ih (h.typedChange rfl rfl rfl)

end BoundaryOnly

end Sys2Proof.Machine
end

section
/-!
PROOFS. The operations of a shot boundary, each within what a boundary may change (R66 to R69).
-/
namespace Sys2Proof.Machine

variable {s0 s t : State} {a p i v b n : Nat} {f : Fld}

namespace BoundaryOnly

/-! ### Operations of a shot boundary -/

theorem syncBPend (h : BoundaryOnly s0 s) : BoundaryOnly s0 (syncBPend p s) :=
  h.wrWord (.inr (.inr (.inr (.inr (by simp only [Fld.addr, HDR.STATUS_B_PEND]; omega)))))

theorem genParity {a n : Nat} (h : BoundaryOnly s0 s) : BoundaryOnly s0 (genParity a n s) := by
  unfold Machine.genParity
  dsimp only
  with_reducible repeat' first | assumption | refine BoundaryOnly.ite ?_ ?_ | refine BoundaryOnly.forAll ?_ ?_ | intro _ | refine side ?_

theorem flipUse {m : MemRef} (h : BoundaryOnly s0 s) : BoundaryOnly s0 (flipUse m s) :=
  BoundaryOnly.ite (h.wrWord (.inr (.inr (.inl rfl)))) h

theorem unpoison {m : MemRef} (h : BoundaryOnly s0 s) : BoundaryOnly s0 (unpoison m a s) :=
  BoundaryOnly.ite (h.wrWord (.inr (.inl (LineOnly.lineReg_memStat _)))) h

theorem detectLine {req : Nat} (h : BoundaryOnly s0 s) : BoundaryOnly s0 (detectLine req a s) :=
  h.trans (of_lineOnly (LineOnly.refl s).detectLine)

theorem wrDrop {m : MemRef} {req : Nat} (h : BoundaryOnly s0 s) : BoundaryOnly s0 (wrDrop m req a s) :=
  h.trans (of_lineOnly (LineOnly.refl s).wrDrop)

theorem storeLine {req a : Nat} {bs : List Byte} (h : BoundaryOnly s0 s) : BoundaryOnly s0 (storeLine req a bs s) := by
  unfold Machine.storeLine
  dsimp only
  with_reducible repeat' first
    | assumption | refine BoundaryOnly.ite ?_ ?_ | refine genParity ?_ | refine wrBytes _ ?_ | refine flipUse ?_ | refine setLine ?_
    | refine unpoison ?_ | refine detectLine ?_ | refine wrDrop ?_ | intro _ | split

theorem putTrim {use lim seq : Fld} {u code unit : Nat} (hp : 0xB ≤ p) (h : BoundaryOnly s0 s) :
    BoundaryOnly s0 (putTrim p use lim seq i u code unit s) :=
  have hfields := ((h.putF (f := use) (v := u) (i := i) hp).putF (f := lim) hp).putF (f := seq) hp
  BoundaryOnly.ite ((hfields.irqBit hp).errRec hp) hfields

theorem showCal {b : Nat} {v : List Int} (h : BoundaryOnly s0 s) : BoundaryOnly s0 (showCal b v s) := by
  unfold Machine.showCal
  dsimp only
  with_reducible repeat' first
    | assumption | refine BoundaryOnly.ite ?_ ?_ | refine putTrim (le_tilePage _) ?_ | refine putF (le_tilePage _) ?_
    | refine errRec (le_tilePage _) ?_ | refine irqBit (le_tilePage _) ?_ | refine BoundaryOnly.forAll ?_ ?_ | intro _ | split

theorem calCommitTile {b : Nat} {st : Option (List Int × Bool)} (h : BoundaryOnly s0 s) : BoundaryOnly s0 (calCommitTile b st s) := by
  unfold Machine.calCommitTile
  dsimp only
  with_reducible repeat' first
    | assumption | refine BoundaryOnly.ite ?_ ?_ | refine modCal ?_ | refine showCal ?_ | refine irqBit le_cal ?_ | intro _ | split

theorem trackClear {b t : Nat} (h : BoundaryOnly s0 s) : BoundaryOnly s0 (trackClear b t s) := by
  unfold Machine.trackClear
  with_reducible repeat' first | assumption | refine setTrack ?_

theorem geoCommit {st : Option (List Word)} {hostWrote : Bool} (h : BoundaryOnly s0 s) :
    BoundaryOnly s0 (geoCommit b n st hostWrote s) := by
  have hword (k : Nat) : boundaryReg (RDO.DISC_W0.addr (tilePage b) (32 + n) + 4 * k) := by
    have hpage := le_tilePage b
    left
    simp only [Fld.addr]
    omega
  unfold Machine.geoCommit
  dsimp only
  split
  · exact h.setTrack
  · split
    · exact BoundaryOnly.ite h ((((BoundaryOnly.forAll (fun k u hu => hu.wrWord (hword k)) h).putF (le_tilePage b)).setTrack).calDue)
    · exact h

theorem skewCommit {st : Option Nat} {hostWrote : Bool} (h : BoundaryOnly s0 s) : BoundaryOnly s0 (skewCommit st hostWrote s) := by
  unfold Machine.skewCommit
  dsimp only
  split
  · refine BoundaryOnly.ite h (BoundaryOnly.ite h.skewShadow (BoundaryOnly.irqBit le_cal ?_))
    exact h.skewShadow.wrWord (.inr (.inr (.inr (.inl rfl))))
  · exact h

theorem slotEntry (h : BoundaryOnly s0 s) : BoundaryOnly s0 (slotEntry i s) := wrBytes _ h

theorem setLost {i : Nat} {b : Bool} (h : BoundaryOnly s0 s) : BoundaryOnly s0 (setLost i b s) := by
  unfold Machine.setLost
  dsimp only
  with_reducible repeat' first | assumption | refine BoundaryOnly.ite ?_ ?_ | refine putF le_pTul ?_ | refine slotEntry ?_

theorem routeLost {i cause : Nat} (h : BoundaryOnly s0 s) : BoundaryOnly s0 (routeLost i cause s) := by
  unfold Machine.routeLost
  dsimp only
  with_reducible repeat' first | assumption | refine BoundaryOnly.ite ?_ ?_ | refine errRec le_pTul ?_ | refine irqBit le_pTul ?_

theorem loseSlot {cause i : Nat} (h : BoundaryOnly s0 s) : BoundaryOnly s0 (loseSlot cause i s) := by
  unfold Machine.loseSlot
  with_reducible repeat' first | assumption | refine routeLost ?_ | refine setLost ?_

theorem syncRtPend (h : BoundaryOnly s0 s) : BoundaryOnly s0 (syncRtPend s) := h.putF le_pTul

theorem applyRoute {i : Nat} {r : RouteSet} (h : BoundaryOnly s0 s) : BoundaryOnly s0 (applyRoute i r s) := by
  unfold Machine.applyRoute
  dsimp only
  with_reducible repeat' first | assumption | refine BoundaryOnly.ite ?_ ?_ | refine putF le_pTul ?_ | refine setTulSlot ?_ | split | refine held ?_

theorem refreshSlot {i : Nat} {kind0 : Bool} (h : BoundaryOnly s0 s) : BoundaryOnly s0 (refreshSlot i kind0 s) := by
  unfold Machine.refreshSlot
  dsimp only
  with_reducible repeat' first
    | assumption | refine BoundaryOnly.ite ?_ ?_ | refine putF le_pTul ?_ | refine setLost ?_ | refine routeLost ?_ | split

theorem bringRoute {i : Nat} {r : RouteSet} (h : BoundaryOnly s0 s) : BoundaryOnly s0 (bringRoute i r s) := by
  unfold Machine.bringRoute
  dsimp only
  with_reducible repeat' first
    | assumption | refine BoundaryOnly.ite ?_ ?_ | refine applyRoute ?_ | refine putF le_pTul ?_ | refine setTulSlot ?_ | split

theorem routeCommit {st : SMap RouteSet} {changed : List (Nat × Bool)} (h : BoundaryOnly s0 s) :
    BoundaryOnly s0 (routeCommit st changed s) := by
  unfold Machine.routeCommit
  dsimp only
  with_reducible repeat' first
    | assumption | refine BoundaryOnly.ite ?_ ?_ | refine bringRoute ?_ | refine refreshSlot ?_ | refine syncRtPend ?_
    | refine irqBit le_pTul ?_ | refine BoundaryOnly.forAll ?_ ?_ | intro _

theorem stageRoute {i : Nat} {r : RouteSet} (h : BoundaryOnly s0 s) : BoundaryOnly s0 (stageRoute i r s) := by
  unfold Machine.stageRoute
  dsimp only
  with_reducible repeat' first
    | assumption | refine BoundaryOnly.ite ?_ ?_ | refine setTulSlot ?_ | refine syncRtPend ?_ | refine putF le_pTul ?_
    | refine routeCommit ?_

theorem withdrawSlot {i : Nat} (h : BoundaryOnly s0 s) : BoundaryOnly s0 (withdrawSlot i s) := by
  unfold Machine.withdrawSlot
  dsimp only
  with_reducible repeat' first
    | assumption | refine BoundaryOnly.ite ?_ ?_ | refine setTulSlot ?_ | refine syncRtPend ?_ | refine putF le_pTul ?_
    | refine slotEntry ?_ | refine loseSlot ?_

theorem showPatch {p : Nat} (h : BoundaryOnly s0 s) : BoundaryOnly s0 (showPatch p s) := by
  unfold Machine.showPatch
  dsimp only
  with_reducible repeat' first | assumption | refine putF le_pDrn ?_

theorem setPatch {x : Patch} (h : BoundaryOnly s0 s) : BoundaryOnly s0 (setPatch p x s) := h.patches.showPatch

theorem discard {n : Nat} (h : BoundaryOnly s0 s) : BoundaryOnly s0 (discard n s) := by
  unfold Machine.discard
  with_reducible repeat' first | assumption | refine addSat le_pDrn ?_

theorem dropOpen {p : Nat} (h : BoundaryOnly s0 s) : BoundaryOnly s0 (dropOpen p s) := by
  unfold Machine.dropOpen
  dsimp only
  with_reducible repeat' first | assumption | refine setPatch ?_ | refine discard ?_

theorem checkPatches (h : BoundaryOnly s0 s) : BoundaryOnly s0 (checkPatches s) := by
  unfold Machine.checkPatches
  dsimp only
  with_reducible repeat' first
    | assumption | refine BoundaryOnly.ite ?_ ?_ | refine dropOpen ?_ | refine setPatch ?_ | refine errRec le_pDrn ?_
    | refine irqBit le_pDrn ?_ | refine BoundaryOnly.forAll ?_ ?_ | intro _

theorem resetPatch {p : Nat} (h : BoundaryOnly s0 s) : BoundaryOnly s0 (resetPatch p s) := by
  unfold Machine.resetPatch
  dsimp only
  with_reducible repeat' first | assumption | refine dropOpen ?_ | refine putF le_pDrn ?_ | refine setPatch ?_

theorem darnerCommit {ch : List (Nat × Word × Word)} (h : BoundaryOnly s0 s) : BoundaryOnly s0 (darnerCommit ch s) := by
  unfold Machine.darnerCommit
  dsimp only
  with_reducible repeat' first
    | assumption | refine BoundaryOnly.ite ?_ ?_ | refine resetPatch ?_ | refine checkPatches ?_ | refine BoundaryOnly.forAll ?_ ?_
    | intro _

theorem showBandAny {b d : Nat} (h : BoundaryOnly s0 s) : BoundaryOnly s0 (showBandAny b d s) := by
  unfold Machine.showBandAny
  dsimp only
  with_reducible repeat' first | assumption | refine BoundaryOnly.ite ?_ ?_ | refine putF (le_tilePage _) ?_

theorem refreshTone {b : Nat} {atGo : Bool} {t : Nat} (h : BoundaryOnly s0 s) : BoundaryOnly s0 (refreshTone b atGo t s) := by
  unfold Machine.refreshTone
  dsimp only
  with_reducible repeat' first
    | assumption | refine BoundaryOnly.ite ?_ ?_ | refine putF (le_tilePage _) ?_ | refine showBandAny ?_ | refine errRec (le_tilePage _) ?_
    | refine irqBit (le_tilePage _) ?_

theorem refreshBin {b : Nat} {atGo : Bool} {t : Nat} (h : BoundaryOnly s0 s) : BoundaryOnly s0 (refreshBin b atGo t s) := by
  unfold Machine.refreshBin
  dsimp only
  with_reducible repeat' first
    | assumption | refine BoundaryOnly.ite ?_ ?_ | refine putF (le_tilePage _) ?_ | refine errRec (le_tilePage _) ?_
    | refine irqBit (le_tilePage _) ?_

theorem showBinUse {b : Nat} (h : BoundaryOnly s0 s) : BoundaryOnly s0 (showBinUse b s) := by
  unfold Machine.showBinUse
  dsimp only
  with_reducible repeat' first | assumption | refine BoundaryOnly.ite ?_ ?_ | refine putF (le_tilePage _) ?_

theorem pfRecord {b t : Nat} {w : Word} (h : BoundaryOnly s0 s) : BoundaryOnly s0 (pfRecord b t w s) := by
  unfold Machine.pfRecord
  with_reducible repeat' first | assumption | refine errRec (le_tilePage _) ?_

theorem showMode {b : Nat} (h : BoundaryOnly s0 s) : BoundaryOnly s0 (showMode b s) := by
  unfold Machine.showMode
  dsimp only
  with_reducible repeat' first | assumption | refine putF (le_tilePage _) ?_

theorem tileCommit {ch : List Change} {b : Nat} (h : BoundaryOnly s0 s) : BoundaryOnly s0 (tileCommit ch b s) := by
  unfold Machine.tileCommit
  dsimp only
  with_reducible repeat' first
    | assumption | refine BoundaryOnly.ite ?_ ?_ | refine refreshTone ?_ | refine showMode ?_ | refine refreshBin ?_ | refine showBinUse ?_
    | refine pfRecord ?_ | refine trackClear ?_ | refine BoundaryOnly.forAll ?_ ?_ | intro _

theorem afterCommit {routes : SMap RouteSet} {ch : List Change} (h : BoundaryOnly s0 s) : BoundaryOnly s0 (afterCommit routes ch s) := by
  unfold Machine.afterCommit
  dsimp only
  with_reducible repeat' first
    | assumption | refine BoundaryOnly.ite ?_ ?_ | refine tileCommit ?_ | refine routeCommit ?_ | refine darnerCommit ?_
    | refine syncBPend ?_ | refine BoundaryOnly.forAll ?_ ?_ | intro _

theorem geoSync {w : Word} (h : BoundaryOnly s0 s) : BoundaryOnly s0 (geoSync p a w s) :=
  BoundaryOnly.ite (h.wrWord (.inl (by simp only [windowStride]; omega))) h

theorem bringIn (snap : SMap Word) (h : BoundaryOnly s0 s) : BoundaryOnly s0 (bringIn snap s) := by
  unfold Machine.bringIn
  induction snap generalizing s with
  | nil => exact h
  | cons e snap ih => exact ih (geoSync (BoundaryOnly.ite h.held h.held))

theorem commitWords {routes : SMap RouteSet} {snap : SMap Word} (h : BoundaryOnly s0 s) : BoundaryOnly s0 (commitWords routes snap s) := by
  unfold Machine.commitWords
  dsimp only
  with_reducible repeat' first | assumption | refine afterCommit ?_ | refine bringIn _ ?_

theorem unmixSwap {b : Nat} {st : Option (SMap Cplx × Nat)} (h : BoundaryOnly s0 s) : BoundaryOnly s0 (unmixSwap b st s) := by
  unfold Machine.unmixSwap
  dsimp only
  with_reducible repeat' first
    | assumption | refine BoundaryOnly.ite ?_ ?_ | refine putF (le_tilePage _) ?_ | refine modRdo ?_ | refine irqBit (le_tilePage _) ?_
    | intro _ | split

theorem fluxSwap {b k : Nat} {st : Option (Coef × Nat)} (h : BoundaryOnly s0 s) : BoundaryOnly s0 (fluxSwap b k st s) := by
  unfold Machine.fluxSwap
  dsimp only
  with_reducible repeat' first
    | assumption | refine BoundaryOnly.ite ?_ ?_ | refine setFlux ?_ | refine putF (le_tilePage _) ?_ | refine irqBit (le_tilePage _) ?_
    | split

theorem swapBuffers {b : Nat} {st : Staged} (h : BoundaryOnly s0 s) : BoundaryOnly s0 (swapBuffers b st s) := by
  unfold Machine.swapBuffers
  with_reducible repeat' first
    | assumption | refine BoundaryOnly.ite ?_ ?_ | refine unmixSwap ?_ | refine fluxSwap ?_ | refine BoundaryOnly.forAll ?_ ?_ | intro _

theorem calCommit {st : Staged} {ch : List Change} {b : Nat} (h : BoundaryOnly s0 s) : BoundaryOnly s0 (calCommit st ch b s) := by
  unfold Machine.calCommit
  dsimp only
  with_reducible repeat' first
    | assumption | refine BoundaryOnly.ite ?_ ?_ | refine calCommitTile ?_ | refine geoCommit ?_ | refine BoundaryOnly.forAll ?_ ?_
    | intro _

theorem deviceCommit {st : Staged} {snap : SMap Word} (h : BoundaryOnly s0 s) : BoundaryOnly s0 (deviceCommit st snap s) := by
  unfold Machine.deviceCommit
  dsimp only
  with_reducible repeat' first
    | assumption | refine BoundaryOnly.ite ?_ ?_ | refine commitWords ?_ | refine routeCommit ?_ | refine skewCommit ?_
    | refine newDevShot ?_

theorem settle (h : BoundaryOnly s0 s) : BoundaryOnly s0 (settle s) := by
  unfold Machine.settle
  with_reducible repeat' first | assumption | refine BoundaryOnly.ite ?_ ?_ | refine deviceCommit ?_

theorem ringPut {b : Nat} {bytes : List Byte} (h : BoundaryOnly s0 s) : BoundaryOnly s0 (ringPut b bytes s) := by
  unfold Machine.ringPut
  dsimp only
  with_reducible repeat' first
    | assumption | refine BoundaryOnly.ite ?_ ?_ | refine storeLine ?_ | refine incSat (le_tilePage _) ?_ | refine modRdo ?_

theorem shotStatus {b : Nat} (h : BoundaryOnly s0 s) : BoundaryOnly s0 (shotStatus b s) := by
  unfold Machine.shotStatus
  with_reducible repeat' first | assumption | refine BoundaryOnly.ite ?_ ?_ | refine ringPut ?_ | refine incSat (le_tilePage _) ?_

theorem showStat {b t : Nat} (h : BoundaryOnly s0 s) : BoundaryOnly s0 (showStat b t s) := by
  unfold Machine.showStat
  with_reducible repeat' first | assumption | refine putF (le_tilePage _) ?_

theorem statCommit {b t : Nat} {x : ToneStat} (h : BoundaryOnly s0 s) : BoundaryOnly s0 (statCommit b t x s) := by
  unfold Machine.statCommit
  dsimp only
  with_reducible repeat' first
    | assumption | refine BoundaryOnly.ite ?_ ?_ | refine showStat ?_ | refine modRdo ?_ | refine irqBit (le_tilePage _) ?_
    | refine putF (le_tilePage _) ?_ | refine errRec (le_tilePage _) ?_

theorem statsClose {b : Nat} {discard : Bool} (h : BoundaryOnly s0 s) : BoundaryOnly s0 (statsClose b discard s) := by
  unfold Machine.statsClose
  dsimp only
  with_reducible repeat' first
    | assumption | refine BoundaryOnly.ite ?_ ?_ | refine modRdo ?_ | refine discard ?_ | refine statCommit ?_
    | refine BoundaryOnly.forAll ?_ ?_ | intro _

theorem setPauli {x z k : Nat} (h : BoundaryOnly s0 s) : BoundaryOnly s0 (setPauli b k x z s) := by
  unfold Machine.setPauli
  dsimp only
  refine BoundaryOnly.modTile (fun _ => ?_) ((h.putF (le_tilePage b)).putF (le_tilePage b))
  rfl

theorem keepGeometry {b f : Nat} (h : BoundaryOnly s0 s) : BoundaryOnly s0 (keepGeometry b f s) := by
  unfold Machine.keepGeometry
  dsimp only
  with_reducible repeat' first | assumption | refine BoundaryOnly.ite ?_ ?_ | refine modRdo ?_

theorem fresetDue {k : Nat} (h : BoundaryOnly s0 s) : BoundaryOnly s0 (fresetDue b k s) := by
  refine BoundaryOnly.ite (BoundaryOnly.ite h (BoundaryOnly.modTile (fun _ => ?_) h.setPauli)) h
  rfl

theorem noteIl {b f : Nat} (h : BoundaryOnly s0 s) : BoundaryOnly s0 (noteIl b f s) := by
  unfold Machine.noteIl
  dsimp only
  with_reducible repeat' first | assumption | refine BoundaryOnly.ite ?_ ?_ | refine modRdo ?_

theorem boundary {k : Nat} {snap : SMap Word} {st : Staged} {normal : Bool} (h : BoundaryOnly s0 s) :
    BoundaryOnly s0 (boundary b k snap st normal s) := by
  unfold Machine.boundary
  dsimp only
  have hgeo := BoundaryOnly.ite (c := isRdo b = true) (h.keepGeometry (b := b) (f := k)) h
  have hshot := BoundaryOnly.ite (c := isRdo b = true) ((hgeo.shotStatus (b := b)).statsClose (b := b) (discard := !normal)) hgeo
  have hcommit := (hshot.commitWords (routes := []) (snap := snap.filter (fun e =>
    decide (pageOf e.1 = tilePage b) || decide (pageOf e.1 = 1 ∧ CLK.OUT_DELAY_COARSE.off ≤ offOf e.1)))).swapBuffers (b := b) (st := st)
  refine BoundaryOnly.fresetDue (BoundaryOnly.modTile (fun _ => ?_) (BoundaryOnly.putF (le_tilePage b)
    (BoundaryOnly.ite (BoundaryOnly.noteIl hcommit.calCommit) hcommit.calCommit)))
  rfl

end BoundaryOnly

end Sys2Proof.Machine
end

section
/-!
PROOFS. The REFCLK monitor and the root PLL (R47 to R55): what a loss of lock leaves of PLL_STAT and of the model's clock, through the
stop of every tile, the end of a pattern run and the failure of a start.
-/
namespace Sys2Proof.Machine

variable {s0 s t : State} {who : Requester} {p i v b n : Nat} {f : Fld}

/-! ### The parts of a loss of lock -/

/-- What a loss of lock records of itself: LOL and its count, LOCK, the record, and the acquisition and the epochs that end. -/
def lockShown (s : State) : State :=
  let s := calDropShadows s
  let s := if isSet s 1 HDR.CTRL_FREEZE then s else incSat 1 CLK.PLL_STAT_LOL_CNT 0 s
  let s := putF 1 CLK.PLL_STAT_LOCK 0 0 (putF 1 CLK.PLL_STAT_LOL 1 0 s)
  let s := errRec 1 Config.lolCode.toNat (Config.lolSev.toNat % 3) 0 Config.lolInfo.toNat 0 (irqBit 1 0 s)
  let s := { s with pll := { s.pll with acquiring := isSet s 1 CLK.PLL_CTL_RELOCK_AUTO && isSet s 1 CLK.PLL_STAT_REF_OK } }
  if !isSet s 1 CLK.SYNC_CTL_ARM then putF 1 CLK.SYNC_STAT_EPOCH_PEND 0 0 s else s

/-- The stop of one tile at a loss of lock (R53). -/
def tileLost (b : Nat) (s : State) : State :=
  if tileState s b = stRun then stopTile b (now s) stHaltedClk 6 s
  else if tileState s b = stArmed then putF (tilePage b) TMB.TMB_STAT_STATE stHaltedClk 0 (abortTile b (now s) 0 s)
  else if tileState s b = stStopping then
    modTile b (fun x => { x with ramp := x.ramp.map (fun r => { r with target := stHaltedClk }) }) s
  else putF (tilePage b) TMB.TMB_STAT_STATE stHaltedClk 0 s

/-- What a loss of lock stops: the tiles, the pattern run and a start in progress. -/
def lockStops (s : State) : State :=
  let s := patAbort (forAll (tileBits s) tileLost s)
  if lateStart s then startFail 4 s else s

theorem lossOfLock_eq (s : State) : lossOfLock s = { lockStops (lockShown s) with pll :=
    { (lockStops (lockShown s)).pll with holdover := true, holdAt := (lockStops (lockShown s)).up, epochs := [] } } := rfl

/-! ### What the stops of a loss of lock keep -/

/-- PLL_STAT and the model's own clock, as they stood. -/
structure LockKept (s t : State) : Prop where
  stat : rdWord t (CLK.PLL_STAT.addr 1 0) = rdWord s (CLK.PLL_STAT.addr 1 0)
  up : t.up = s.up

namespace LockKept

theorem refl (s : State) : LockKept s s := ⟨rfl, rfl⟩

theorem trans {u : State} (h : LockKept s t) (h' : LockKept t u) : LockKept s u := ⟨h'.stat.trans h.stat, h'.up.trans h.up⟩

theorem same {u : State} (h : LockKept s0 s) (hregs : u.regs = s.regs) (hup : u.up = s.up) : LockKept s0 u :=
  h.trans ⟨by simp only [rdWord, hregs], hup⟩

theorem boundaryOnly (h : LockKept s0 s) (h' : BoundaryOnly s t) : LockKept s0 t := by
  refine h.trans ⟨h'.regs _ ?_, ?_⟩
  · rintro (hlo | hline | hflip | hskew | hstat)
    · exact absurd hlo (by decide)
    · obtain ⟨hpage, -⟩ | hrec := hline
      · exact absurd hpage (by decide)
      · exact absurd hrec (by decide)
    · exact absurd hflip (by decide)
    · exact absurd hskew (by decide)
    · exact absurd hstat (by decide)
  · have ht := h'.typed
    unfold boundaryTyped at ht
    rw [ht]

theorem putF (ha : f.addr p i ≠ 0x1040) (h : LockKept s0 s) : LockKept s0 (putF p f v i s) :=
  h.trans ⟨rdWord_wrWord_other (fun he => ha he.symm) _ _, rfl⟩

theorem incSat (ha : f.addr p i ≠ 0x1040) (h : LockKept s0 s) : LockKept s0 (incSat p f i s) := h.putF ha

/-- A field of a page's header stands below PLL_STAT. -/
theorem header_ne (hf : f.off < 0x40) : f.addr p 0 ≠ 0x1040 := by
  simp only [Fld.addr]
  omega

theorem tile_ne : f.addr (tilePage b) i ≠ 0x1040 := by
  simp only [Fld.addr, tilePage]
  omega

theorem irqBit (h : LockKept s0 s) : LockKept s0 (irqBit p n s) :=
  h.trans ⟨rdWord_irqSet s _ p _ (fun he => header_ne (by decide) he.symm), irqBit_up ..⟩

theorem errRec {code sev unit info addr : Nat} (h : LockKept s0 s) : LockKept s0 (errRec p code sev unit info addr s) :=
  h.trans ⟨rdWord_errRec s _ p _ _ _ _ _ (fun he => header_ne (by decide) he.symm) (fun he => header_ne (by decide) he.symm)
    (by decide), errRec_up ..⟩

theorem ite {c : Prop} [Decidable c] {x y : State} (hx : LockKept s0 x) (hy : LockKept s0 y) : LockKept s0 (if c then x else y) := by
  split <;> assumption

theorem forAll {α : Type} {l : List α} {g : α → State → State} (hg : ∀ x t, LockKept s0 t → LockKept s0 (g x t))
    (h : LockKept s0 s) : LockKept s0 (forAll l g s) := forAll_induction hg l h

theorem modTile {g : Tile → Tile} (h : LockKept s0 s) : LockKept s0 (modTile b g s) := h.same rfl rfl

theorem modRdo {g : Rdo → Rdo} (h : LockKept s0 s) : LockKept s0 (modRdo b g s) := h.same rfl rfl

theorem noteWas {a : Nat} (h : LockKept s0 s) : LockKept s0 (noteWas none a s) :=
  h.same (by rw [noteWas_eq]) (by rw [noteWas_eq])

theorem urge {u : Urgent} (h : LockKept s0 s) : LockKept s0 (urge u s) := ite h (h.same rfl rfl)

/-! ### The stop of a tile (R153) -/

theorem showWins (h : LockKept s0 s) : LockKept s0 (showWins b s) :=
  forAll (fun _ _ hu => (hu.putF tile_ne).putF tile_ne) ((h.putF tile_ne).putF tile_ne)

theorem abandonWins (h : LockKept s0 s) : LockKept s0 (abandonWins b n s) := by
  unfold Machine.abandonWins dropSets
  exact showWins (modRdo (modRdo h))

theorem raiseMark (h : LockKept s0 s) : LockKept s0 (raiseMark b n s) := ite (modRdo h) h

theorem boundary {snap : SMap Word} {st : Staged} {normal : Bool} (h : LockKept s0 s) : LockKept s0 (boundary b n snap st normal s) :=
  h.boundaryOnly (BoundaryOnly.refl s).boundary

theorem deviceCommit {snap : SMap Word} {st : Staged} (h : LockKept s0 s) : LockKept s0 (deviceCommit st snap s) :=
  h.boundaryOnly (BoundaryOnly.refl s).deviceCommit

theorem tileFlags {l : List Fld} (h : LockKept s0 s) : LockKept s0 (Machine.forAll l (fun g s => Machine.putF (tilePage b) g 0 0 s) s) :=
  forAll (fun _ _ hu => hu.putF tile_ne) h

theorem raiseMarks {l : List Nat} (h : LockKept s0 s) : LockKept s0 (Machine.forAll l (fun i s => Machine.raiseMark b i s) s) :=
  forAll (fun _ _ hu => hu.raiseMark) h

theorem stopTile {target cause : Nat} (h : LockKept s0 s) : LockKept s0 (stopTile b n target cause s) := by
  unfold Machine.stopTile
  dsimp only
  refine putF tile_ne ?_
  with_reducible repeat' first
    | assumption | refine deviceCommit ?_ | refine boundary ?_ | refine modRdo ?_ | refine abandonWins ?_ | refine raiseMarks ?_
    | refine tileFlags ?_ | refine modTile ?_ | refine LockKept.ite ?_ ?_

theorem settle (h : LockKept s0 s) : LockKept s0 (settle s) := h.boundaryOnly (BoundaryOnly.refl s).settle

theorem setFlux {k : Nat} {o : FOut} (h : LockKept s0 s) : LockKept s0 (setFlux b k o s) := h.same rfl rfl

theorem notePage (h : LockKept s0 s) : LockKept s0 (notePage none p s) := ite h.noteWas.noteWas h.noteWas

theorem fluxZeroed {l : List Nat} {g : State → Nat → FOut} (h : LockKept s0 s) :
    LockKept s0 (Machine.forAll l (fun k s => Machine.setFlux b k (g s k) s) s) := forAll (fun _ _ hu => hu.setFlux) h

/-- What a stopped tile brings into force. -/
theorem stoppedCommits {st : Staged} {ch : List Change} {snap : SMap Word} (h : LockKept s0 s) :
    LockKept s0 (Machine.settle (swapBuffers b st (calCommit st ch b (commitWords [] snap s)))) :=
  settle (h.boundaryOnly (BoundaryOnly.refl s).commitWords.calCommit.swapBuffers)

theorem enterStopped {target : Nat} (h : LockKept s0 s) : LockKept s0 (enterStopped b target s) := by
  unfold Machine.enterStopped
  dsimp only
  refine stoppedCommits ?_
  with_reducible repeat' first
    | assumption | refine fluxZeroed ?_ | refine modTile ?_ | refine irqBit ?_ | refine notePage ?_
    | refine putF tile_ne ?_ | refine LockKept.ite ?_ ?_

theorem stepsFrom (h : LockKept s0 s) : LockKept s0 (stepsFrom b n s) := h.same rfl rfl

theorem abortTile {cause : Nat} (h : LockKept s0 s) : LockKept s0 (abortTile b n cause s) := by
  unfold Machine.abortTile
  dsimp only
  with_reducible repeat' first
    | assumption | refine stepsFrom ?_ | refine enterStopped ?_ | refine deviceCommit ?_ | refine modTile ?_ | refine tileFlags ?_
    | refine stopTile ?_ | refine LockKept.ite ?_ ?_

/-! ### The end of a pattern run and the failure of a start (R476, R514, R523, R524) -/

theorem patEnd (h : LockKept s0 s) : LockKept s0 (patEnd s) := by
  have hjump : LockKept s0 (setJump none 0 { s with pat := { s.pat with
      vecs := [], stop := none, frozen := none, outs := s.pat.outs.filter (fun v => decide (v.pin ≤ now s)) } }) :=
    putF (by decide) (h.same rfl rfl)
  unfold Machine.patEnd patCommit
  dsimp only
  have hend := ((hjump.noteWas (a := HDR.STATUS.addr pPat 0)).putF (p := pPat) (f := HDR.STATUS_RUN) (v := 0) (i := 0) (by decide)).irqBit
    (p := pPat) (n := 0)
  exact ite hend (hend.boundaryOnly (BoundaryOnly.refl _).commitWords)

theorem journal {bs : List Byte} {cmd first : Bool} (h : LockKept s0 s) : LockKept s0 (journal n bs cmd first s) :=
  putF (by decide) (h.same rfl rfl)

theorem logEntry {page code sev detail : Nat} {info addr : Word} {first : Bool} (h : LockKept s0 s) :
    LockKept s0 (logEntry page code sev info addr detail first s) := by
  have hlog := fun m bs v => ((h.journal (n := m) (bs := bs) (cmd := false) (first := first)).putF (p := 3) (f := NVS.LOG_WP) (i := 0)
    (v := v) (by decide))
  unfold Machine.logEntry Machine.incWrap
  dsimp only
  exact ite (incSat (by decide) (hlog ..)) (hlog ..)

theorem losePort {began lock : Bool} (h : LockKept s0 s) : LockKept s0 (losePort n began lock s) := by
  have hcut := fun l => h.boundaryOnly (BoundaryOnly.forAll (l := l)
    (g := fun i s => Machine.setTulSlot i { tulSlot s i with cut := true } s) (fun _ _ hu => hu.setTulSlot) (BoundaryOnly.refl s))
  unfold Machine.losePort
  dsimp only
  with_reducible repeat' first
    | assumption | exact hcut _ | refine LockKept.ite ?_ ?_
    | refine forAll (fun _ _ hu => hu.boundaryOnly (BoundaryOnly.refl _).loseSlot) ?_

theorem setPortState {st : Nat} (h : LockKept s0 s) (hn : n < 8) : LockKept s0 (setPortState n st s) := by
  have hne : ∀ (f : Fld) (i : Nat), f.addr (jdxPage n) i ≠ 0x1040 := by
    intro f i
    simp only [Fld.addr, jdxPage]
    omega
  exact (h.noteWas.putF (hne _ _)).putF (hne _ _)

theorem neighbours {x : SMap Neighbour} (h : LockKept s0 s) : LockKept s0 { s with cst := { s.cst with nbs := x } } := h.same rfl rfl

theorem modPort {g : Port → Port} (h : LockKept s0 s) : LockKept s0 (modPort n g s) := h.same rfl rfl

theorem boot {x : Boot} (h : LockKept s0 s) : LockKept s0 { s with boot := x } := h.same rfl rfl

theorem hoopBoot {x : Hoop} {y : Boot} (h : LockKept s0 s) : LockKept s0 { s with hoop := x, boot := y } := h.same rfl rfl

theorem pll {x : Pll} (h : LockKept s0 s) : LockKept s0 { s with pll := x } := h.same rfl rfl

theorem portDown {st : Nat} (h : LockKept s0 s) (hn : n < 8) : LockKept s0 (portDown n st s) := by
  unfold Machine.portDown
  dsimp only
  exact losePort (setPortState (modPort (neighbours (ite h.urge h))) hn)

theorem puts {l : List (Fld × Nat × Nat)} (h : LockKept s0 s) :
    LockKept s0 (Machine.forAll l (fun e s => Machine.putF (tilePage b) e.1 e.2.1 e.2.2 s) s) := forAll (fun _ _ hu => hu.putF tile_ne) h

theorem powerDown (h : LockKept s0 s) : LockKept s0 (powerDown b s) := by
  unfold Machine.powerDown
  dsimp only
  split <;> exact puts h

theorem failRecords (h : LockKept s0 s) : LockKept s0 (failRecords s) := by
  unfold Machine.failRecords
  dsimp only
  exact boot (forAll (fun _ _ hu => hu.errRec) (LockKept.ite h h.irqBit))

/-- The pages that SAFE mode hands to Hoop firmware and those it disables. -/
theorem safePages {l m : List Nat} (h : LockKept s0 s) : LockKept s0 (Machine.forAll m (fun p s => Machine.putF p HDR.CTRL_EN 0 0 s)
    (Machine.forAll l (fun p s => Machine.putF p HDR.OWNER_OWN 2 0 s) s)) :=
  forAll (fun _ _ hu => hu.putF (header_ne (by decide))) (forAll (fun _ _ hu => hu.putF (header_ne (by decide))) h)

theorem portsDown {st : Nat} (h : LockKept s0 s) : LockKept s0 (Machine.forAll (List.range 8) (fun n s => Machine.portDown n st s) s) :=
  forAll_induction_mem (fun _ hn _ hu => hu.portDown (List.mem_range.1 hn)) h

theorem powersDown {l : List Nat} (h : LockKept s0 s) : LockKept s0 (Machine.forAll l Machine.powerDown s) :=
  forAll (fun _ _ hu => hu.powerDown) h

theorem enterSafe (h : LockKept s0 s) : LockKept s0 (enterSafe s) := by
  unfold Machine.enterSafe smbAlert showStartMs
  dsimp only
  refine boot (failRecords (hoopBoot (errRec (putF (by decide) (LockKept.ite (pll ?_) ?_)))))
  all_goals
    exact putF (by decide) (irqBit (powersDown (portsDown (safePages (putF (by decide) (putF (by decide) h))))))

theorem startFail {code : Nat} (h : LockKept s0 s) : LockKept s0 (startFail code s) := by
  unfold Machine.startFail
  dsimp only
  have hcount := (((h.incSat (p := 0) (f := GLB.START_STAT_FAILS) (i := 0) (by decide)).putF (p := 0) (f := GLB.START_STAT_FAIL_CODE)
    (i := 0) (v := code) (by decide)).putF (p := 0) (f := GLB.START_STAT_FAIL_STEP) (i := 0) (v := startStep s) (by decide)).putF
    (p := 0) (f := GLB.START_STAT_EVER_FAIL) (i := 0) (v := 1) (by decide)
  exact ite (boot (ite (logEntry (boot hcount)) (boot hcount))) (enterSafe (ite (logEntry (boot hcount)) (boot hcount)))

theorem tileLost (h : LockKept s0 s) : LockKept s0 (tileLost b s) :=
  ite h.stopTile (ite (h.abortTile.putF tile_ne) (ite h.modTile (h.putF tile_ne)))

theorem patAbort (h : LockKept s0 s) : LockKept s0 (patAbort s) := ite h.patEnd h

theorem lockStops (h : LockKept s0 s) : LockKept s0 (lockStops s) := by
  have htiles := patAbort (forAll (l := tileBits s) (g := Machine.tileLost) (fun _ _ hu => hu.tileLost) h)
  exact ite htiles.startFail htiles

end LockKept

/-! ### The commands -/

/-- The record of a loss of lock leaves PLL_STAT as the write of LOCK left it. -/
theorem lockShown_kept (s : State) : ∃ u, LockKept (putF 1 CLK.PLL_STAT_LOCK 0 0 u) (lockShown s) ∧ u.up = s.up := by
  have hlol : ∀ u : State, u.up = s.up → ∃ v, LockKept (putF 1 CLK.PLL_STAT_LOCK 0 0 v) (
      let t := errRec 1 Config.lolCode.toNat (Config.lolSev.toNat % 3) 0 Config.lolInfo.toNat 0
        (irqBit 1 0 (putF 1 CLK.PLL_STAT_LOCK 0 0 (putF 1 CLK.PLL_STAT_LOL 1 0 u)))
      let t := { t with pll := { t.pll with acquiring := isSet t 1 CLK.PLL_CTL_RELOCK_AUTO && isSet t 1 CLK.PLL_STAT_REF_OK } }
      if !isSet t 1 CLK.SYNC_CTL_ARM then putF 1 CLK.SYNC_STAT_EPOCH_PEND 0 0 t else t) ∧ v.up = s.up := by
    intro u hu
    refine ⟨putF 1 CLK.PLL_STAT_LOL 1 0 u, ?_, hu⟩
    have hrec := fun x => LockKept.pll (x := x) ((LockKept.refl (putF 1 CLK.PLL_STAT_LOCK 0 0 (putF 1 CLK.PLL_STAT_LOL 1 0 u))).irqBit
      (p := 1) (n := 0) |>.errRec (p := 1) (code := Config.lolCode.toNat) (sev := Config.lolSev.toNat % 3) (unit := 0)
      (info := Config.lolInfo.toNat) (addr := 0))
    exact LockKept.ite ((hrec _).putF (by decide)) (hrec _)
  unfold lockShown
  dsimp only
  refine hlol _ ?_
  split <;> rfl

theorem lockShown_lock (s : State) : isSet (lockShown s) 1 CLK.PLL_STAT_LOCK = false := by
  obtain ⟨u, hkept, -⟩ := lockShown_kept s
  have hset : isSet (putF 1 CLK.PLL_STAT_LOCK 0 0 u) 1 CLK.PLL_STAT_LOCK = false := isSet_putF (by decide)
  rw [← hset]
  exact congrArg (fun w => decide (CLK.PLL_STAT_LOCK.of w = 1)) hkept.stat

theorem lockShown_up (s : State) : (lockShown s).up = s.up := by
  obtain ⟨u, hkept, hu⟩ := lockShown_kept s
  exact hkept.up.trans hu

/-- A loss of lock clears LOCK, and begins the holdover in this fc (R53, R60). -/
theorem lossOfLock_holdover (s : State) : (lossOfLock s).pll.holdover = true ∧ (lossOfLock s).pll.holdAt = s.up
    ∧ (lossOfLock s).pll.epochs = [] ∧ isSet (lossOfLock s) 1 CLK.PLL_STAT_LOCK = false := by
  have hkept := (LockKept.refl (lockShown s)).lockStops
  rw [lossOfLock_eq]
  refine ⟨rfl, hkept.up.trans (lockShown_up s), rfl, ?_⟩
  rw [← lockShown_lock s]
  exact congrArg (fun w => decide (CLK.PLL_STAT_LOCK.of w = 1)) hkept.stat

theorem refOkQualified (s : State) : ∃ t, exec .refOkQualify s = .next t ∧ getF t 1 CLK.PLL_STAT_REF_OK = 1
    ∧ t.pll.acquiring = (s.pll.acquiring || (isSet s 1 CLK.PLL_CTL_RELOCK_AUTO && !isSet s 1 CLK.PLL_STAT_LOCK))
    ∧ regsSame [CLK.PLL_STAT.addr 1 0] s t ∧ typedSame { s with pll := t.pll } t := by
  have hauto : isSet (putF 1 CLK.PLL_STAT_REF_OK 1 0 s) 1 CLK.PLL_CTL_RELOCK_AUTO = isSet s 1 CLK.PLL_CTL_RELOCK_AUTO := by
    unfold isSet
    rw [getF_putF_reg (by decide)]
  have hlock : isSet (putF 1 CLK.PLL_STAT_REF_OK 1 0 s) 1 CLK.PLL_STAT_LOCK = isSet s 1 CLK.PLL_STAT_LOCK := by
    unfold isSet
    rw [getF_putF_beside (by decide)]
  have hok : getF (putF 1 CLK.PLL_STAT_REF_OK 1 0 s) 1 CLK.PLL_STAT_REF_OK = 1 := getF_putF _ _ _ _ _ (by decide)
  have hregs : regsSame [CLK.PLL_STAT.addr 1 0] s (putF 1 CLK.PLL_STAT_REF_OK 1 0 s) := regsSame_putF (by decide) (regsSame_refl _ _)
  have hexec : exec .refOkQualify s = execRefOkQualify s := rfl
  rw [hexec, execRefOkQualify]
  dsimp only
  rw [hauto, hlock]
  cases hc : (isSet s 1 CLK.PLL_CTL_RELOCK_AUTO && !isSet s 1 CLK.PLL_STAT_LOCK)
  case false =>
    refine ⟨_, rfl, hok, ?_, hregs, rfl⟩
    simp
  case true => 
    refine ⟨_, rfl, hok, ?_, hregs, rfl⟩
    simp

/-- The state with REF_OK lost and no acquisition under way. -/
def refLost (s : State) : State :=
  let s := irqBit 1 1 (putF 1 CLK.PLL_STAT_REF_OK 0 0 s)
  { s with pll := { s.pll with acquiring := false } }

theorem refLost_pll (s : State) : (refLost s).pll = { s.pll with acquiring := false } := by
  simp only [refLost, irqBit_pll, putF_pll]

theorem refLost_lock (s : State) : isSet (refLost s) 1 CLK.PLL_STAT_LOCK = isSet s 1 CLK.PLL_STAT_LOCK := by
  have hirq : isSet (irqBit 1 1 (putF 1 CLK.PLL_STAT_REF_OK 0 0 s)) 1 CLK.PLL_STAT_LOCK = isSet s 1 CLK.PLL_STAT_LOCK := by
    rw [isSet_irqBit_ne (by decide), isSet_putF_beside (by decide)]
  exact hirq

theorem exec_refclkFault (hok : isSet s 1 CLK.PLL_STAT_REF_OK = true) :
    exec .refclkFault s = .next (if isSet s 1 CLK.PLL_STAT_LOCK then lossOfLock (refLost s) else refLost s) := by
  have hexec : exec .refclkFault s = execRefclkFault s := rfl
  rw [hexec, execRefclkFault, if_pos hok, ← refLost_lock s]
  rfl

theorem refclkFault_unlocked (hok : isSet s 1 CLK.PLL_STAT_REF_OK = true) (hlock : isSet s 1 CLK.PLL_STAT_LOCK = false) :
    ∃ t, exec .refclkFault s = .next t ∧ getF t 1 CLK.PLL_STAT_REF_OK = 0 ∧ t.pll = { s.pll with acquiring := false }
      ∧ regsSame [CLK.PLL_STAT.addr 1 0, HDR.IRQ_STAT.addr 1 0] s t ∧ typedSame { s with pll := t.pll } t := by
  rw [exec_refclkFault hok, hlock]
  refine ⟨refLost s, rfl, ?_, refLost_pll s, ?_, ?_⟩
  case refine_1 =>
    have hirq : getF (irqBit 1 1 (putF 1 CLK.PLL_STAT_REF_OK 0 0 s)) 1 CLK.PLL_STAT_REF_OK = 0 := by
      rw [getF, irqBit, rdWord_irqSet _ _ _ _ (by decide), ← getF, getF_putF _ _ _ _ _ (by decide)]
      rfl
    exact hirq
  case refine_2 =>
    have hregs : regsSame [CLK.PLL_STAT.addr 1 0, HDR.IRQ_STAT.addr 1 0] s (irqBit 1 1 (putF 1 CLK.PLL_STAT_REF_OK 0 0 s)) :=
      regsSame_irqBit (by decide) (regsSame_putF (by decide) (regsSame_refl _ _))
    exact hregs
  case refine_3 =>
    have htyped : typedSame s (irqBit 1 1 (putF 1 CLK.PLL_STAT_REF_OK 0 0 s)) := typedSame_irqBit (typedSame_putF (typedSame_refl s))
    unfold typedSame at *
    unfold refLost
    rw [htyped]

theorem refclkFault_locked (hok : isSet s 1 CLK.PLL_STAT_REF_OK = true) (hlock : isSet s 1 CLK.PLL_STAT_LOCK = true) :
    ∃ t, exec .refclkFault s = .next t ∧ t.pll.holdover = true ∧ t.pll.holdAt = s.up ∧ t.pll.epochs = []
      ∧ isSet t 1 CLK.PLL_STAT_LOCK = false := by
  have hup : (refLost s).up = s.up := by simp only [refLost, irqBit_up, putF_up]
  rw [exec_refclkFault hok, hlock, ← hup]
  exact ⟨_, rfl, lossOfLock_holdover (refLost s)⟩

/-! ### Lock (R47, R49, R62) -/

/-- The state with LOCK at 1 and TIME at 0. -/
def locked (s : State) : State :=
  alignMck { putF 1 CLK.PLL_STAT_LOCK 1 0 (putF 1 CLK.PLL_STAT_BACKUP 0 0 s) with pll := { s.pll with acquiring := false }, time := 0#64 }

theorem exec_pllLock (hacq : s.pll.acquiring = true) (hok : isSet s 1 CLK.PLL_STAT_REF_OK = true) (hhold : s.pll.holdover = false) :
    exec .pllLock s = .next (if ready (locked s) then urge .relock (locked s) else locked s) := by
  have hexec : exec .pllLock s = execPllLock s := rfl
  rw [hexec, execPllLock, hacq, hok, hhold]
  rfl

theorem locked_ready (s : State) : ready (locked s) = isSet s 0 GLB.START_STAT_READY := by
  have hput : isSet (putF 1 CLK.PLL_STAT_LOCK 1 0 (putF 1 CLK.PLL_STAT_BACKUP 0 0 s)) 0 GLB.START_STAT_READY
      = isSet s 0 GLB.START_STAT_READY := by
    rw [isSet_putF_reg (by decide), isSet_putF_reg (by decide)]
  exact hput

theorem locked_mck (s : State) : (locked s).mck = s.mck + (160 - s.mck % 160) % 160 := by
  have hnow : (locked s).mck = s.mck + (10 * (0 % 16) + 160 - s.mck % 160) % 160 := rfl
  rw [hnow]

/-- What the lock shows, whether or not Hoop firmware has a relock to serve. -/
def LockShown (s t : State) : Prop :=
  getF t 1 CLK.PLL_STAT_LOCK = 1 ∧ getF t 1 CLK.PLL_STAT_BACKUP = 0 ∧ t.time = 0#64
    ∧ t.pll = { s.pll with acquiring := false } ∧ t.mck = s.mck + (160 - s.mck % 160) % 160
    ∧ regsSame [CLK.PLL_STAT.addr 1 0] s t
    ∧ typedSame { s with pll := t.pll, time := t.time, hoop := t.hoop, mck := t.mck, softRst := t.softRst } t

theorem locked_shown (s : State) : LockShown s (locked s) := by
  have hlock : getF (putF 1 CLK.PLL_STAT_LOCK 1 0 (putF 1 CLK.PLL_STAT_BACKUP 0 0 s)) 1 CLK.PLL_STAT_LOCK = 1 :=
    getF_putF _ _ _ _ _ (by decide)
  have hback : getF (putF 1 CLK.PLL_STAT_LOCK 1 0 (putF 1 CLK.PLL_STAT_BACKUP 0 0 s)) 1 CLK.PLL_STAT_BACKUP = 0 := by
    rw [getF_putF_beside (by decide), getF_putF _ _ _ _ _ (by decide)]
    rfl
  have hregs : regsSame [CLK.PLL_STAT.addr 1 0] s (putF 1 CLK.PLL_STAT_LOCK 1 0 (putF 1 CLK.PLL_STAT_BACKUP 0 0 s)) :=
    regsSame_putF (by decide) (regsSame_putF (by decide) (regsSame_refl _ _))
  exact ⟨hlock, hback, rfl, rfl, locked_mck s, hregs, rfl⟩

theorem LockShown.urge {u : Urgent} (h : LockShown s t) : LockShown s (urge u t) := by
  unfold Machine.urge
  split
  · exact h
  · obtain ⟨hlock, hback, htime, hpll, hmck, hregs, htyped⟩ := h
    refine ⟨hlock, hback, htime, hpll, hmck, hregs, ?_⟩
    unfold typedSame at *
    rw [htyped]

theorem pllLocks (hacq : s.pll.acquiring = true) (hok : isSet s 1 CLK.PLL_STAT_REF_OK = true) (hhold : s.pll.holdover = false) :
    ∃ t, exec .pllLock s = .next t ∧ getF t 1 CLK.PLL_STAT_LOCK = 1 ∧ getF t 1 CLK.PLL_STAT_BACKUP = 0 ∧ t.time = 0#64
      ∧ t.pll = { s.pll with acquiring := false } ∧ (isSet s 0 GLB.START_STAT_READY = true → Urgent.relock ∈ t.hoop.urgent)
      ∧ t.mck % 160 = 0 ∧ s.mck ≤ t.mck ∧ t.mck < s.mck + 160
      ∧ regsSame [CLK.PLL_STAT.addr 1 0] s t
      ∧ typedSame { s with pll := t.pll, time := t.time, hoop := t.hoop, mck := t.mck, softRst := t.softRst } t := by
  rw [exec_pllLock hacq hok hhold, locked_ready]
  cases hr : isSet s 0 GLB.START_STAT_READY
  case false =>
    obtain ⟨hlock, hback, htime, hpll, hmck, hregs, htyped⟩ := locked_shown s
    exact ⟨locked s, rfl, hlock, hback, htime, hpll, fun h => absurd h (by decide), by omega, by omega, by omega, hregs, htyped⟩
  case true =>
    obtain ⟨hlock, hback, htime, hpll, hmck, hregs, htyped⟩ := (locked_shown s).urge (u := .relock)
    exact ⟨urge .relock (locked s), rfl, hlock, hback, htime, hpll, fun _ => mem_urge _, by omega, by omega, by omega, hregs, htyped⟩

/-! ### The end of the holdover's ramp (R53) and a write of RELOCK (R55) -/

theorem holdoverEnds (hhold : s.pll.holdover = true) (hdue : s.pll.holdAt + 32 ≤ s.up) :
    ∃ t, exec .holdoverRampDone s = .next t ∧ t.pll.holdover = false ∧ getF t 1 CLK.PLL_STAT_BACKUP = 1
      ∧ getF t 1 CLK.SYNC_STAT_TIME_VALID = 0 := by
  have hexec : exec .holdoverRampDone s = execHoldoverRampDone s := rfl
  rw [hexec, execHoldoverRampDone, hhold, decide_eq_true hdue]
  refine ⟨_, rfl, rfl, getF_putF _ _ _ _ _ (by decide), ?_⟩
  rw [getF_putF_reg (by decide), getF_putF _ _ _ _ _ (by decide)]
  rfl

theorem exec_pllRelock (hopen : busOpen s who 1 = true) : exec (.pllRelock who) s = .next (pllAcquire s) :=
  congrArg Host.Outcome.next (viaBus_open hopen (k := .clk) rfl _ _ _ _ (fun hc => absurd hc (by decide)))

theorem pllAcquire_eq (s : State) : pllAcquire s = { s with pll := { s.pll with acquiring :=
    (s.pll.acquiring || (isSet s 1 CLK.PLL_STAT_REF_OK && !isSet s 1 CLK.PLL_STAT_LOCK)) } } := by
  unfold pllAcquire
  split
  case isTrue h => rw [h, Bool.or_true]
  case isFalse h => rw [Bool.eq_false_of_not_eq_true h, Bool.or_false]

/-- Settles O8. -/
theorem referenceAndLock : Obligations.ReferenceAndLock := by
  intro s who
  refine ⟨refOkQualified s, refclkFault_unlocked, refclkFault_locked, pllLocks, ?_, ?_, ?_, holdoverEnds,
    fun hopen => ⟨_, exec_pllRelock hopen, pllAcquire_eq s⟩⟩
  case refine_1 =>
    intro hlock
    exact ⟨_, congrArg Host.Outcome.next (if_pos hlock), lossOfLock_holdover s⟩
  case refine_2 =>
    intro hlock
    exact congrArg Host.Outcome.next (if_neg (by rw [hlock]; decide))
  case refine_3 =>
    intro hhold hearly
    have hexec : exec .holdoverRampDone s = execHoldoverRampDone s := rfl
    rw [hexec, execHoldoverRampDone, decide_eq_false (Nat.not_le_of_lt hearly), Bool.and_false]
    rfl

end Sys2Proof.Machine
end

section
/-!
PROOFS. The messages of a reservation and skew reports (R347 to R349, R358, R359, R362, R406, R407): what a sent message leaves alone, what
a hold given up leaves of the constellation's tables, and the commands that take a message out of its buffer.
-/
namespace Sys2Proof.Machine

variable {s t u : State} {n : Nat}

/-! ### Sent messages (R347 to R349) -/

/-- The tables of the constellation as they stood, but for the message counter. -/
def MseqOnly (c d : Cst) : Prop := d = { c with mseq := d.mseq }

/-- Nothing but the queues of the ports and the message counter differs. -/
def SentOnly (s t : State) : Prop := t = { s with ports := t.ports, cst := { s.cst with mseq := t.cst.mseq } }

namespace MseqOnly

theorem refl (c : Cst) : MseqOnly c c := rfl

theorem holds {c d : Cst} (h : MseqOnly c d) : d.holds = c.holds := by rw [h]

theorem rq {c d : Cst} (h : MseqOnly c d) : d.rq = c.rq := by rw [h]

theorem routes {c d : Cst} (h : MseqOnly c d) : d.routes = c.routes := by rw [h]

theorem trans {c d e : Cst} (h : MseqOnly c d) (h' : MseqOnly d e) : MseqOnly c e := by
  unfold MseqOnly at *
  rw [h', h]

end MseqOnly

namespace SentOnly

theorem refl (s : State) : SentOnly s s := rfl

theorem trans (h : SentOnly s t) (h' : SentOnly t u) : SentOnly s u := by
  unfold SentOnly at *
  rw [h', h]

theorem cst (h : SentOnly s t) : MseqOnly s.cst t.cst := by
  unfold SentOnly at h
  unfold MseqOnly
  rw [h]

theorem regs (h : SentOnly s t) : t.regs = s.regs := by
  unfold SentOnly at h
  rw [h]

theorem slots (h : SentOnly s t) : t.slots = s.slots := by
  unfold SentOnly at h
  rw [h]

theorem up (h : SentOnly s t) : t.up = s.up := by
  unfold SentOnly at h
  rw [h]

theorem forAll {α : Type} {l : List α} {g : α → State → State} (hg : ∀ x t, SentOnly t (g x t)) : SentOnly s (forAll l g s) :=
  forAll_induction (P := SentOnly s) (fun x t ht => ht.trans (hg x t)) l (refl s)

theorem sendMsg (n chan : Nat) (bs : List Byte) (s : State) : SentOnly s (sendMsg n chan bs s) := rfl

theorem bumpMseq (s : State) : SentOnly s (bumpMseq s) := rfl

theorem sendPort (n chan type dst : Nat) (body : List Byte) (s : State) : SentOnly s (sendPort n chan type dst body s) :=
  (sendMsg ..).trans (bumpMseq _)

theorem sendFlood (chan type : Nat) (body : List Byte) (s : State) : SentOnly s (sendFlood chan type body s) :=
  (forAll fun _ _ => sendMsg ..).trans (bumpMseq _)

theorem sendNum (num chan type : Nat) (body : List Byte) (s : State) : SentOnly s (sendNum num chan type body s) := by
  unfold Machine.sendNum
  split
  · exact sendPort ..
  · exact refl s

/-- A message to each device of a list. -/
theorem sendEach {α : Type} (l : List α) (num : α → Nat) (chan type : Nat) (body : α → List Byte) (s : State) :
    SentOnly s (Machine.forAll l (fun x s => Machine.sendNum (num x) chan type (body x) s) s) := forAll fun _ _ => sendNum ..

end SentOnly

theorem regsSame_of_regs {l : List Nat} (h : t.regs = s.regs) : regsSame l s t := by
  intro a _
  simp only [rdWord, h]

/-! ### Routes that Tulle takes or gives up -/

theorem BoundaryOnly.cst (h : BoundaryOnly s t) : t.cst = s.cst := by
  have ht := h.typed
  unfold boundaryTyped at ht
  rw [ht]

theorem stageRoute_cst (i : Nat) (r : RouteSet) (s : State) : (stageRoute i r s).cst = s.cst := (BoundaryOnly.refl s).stageRoute.cst

theorem withdrawSlot_cst (i : Nat) (s : State) : (withdrawSlot i s).cst = s.cst := (BoundaryOnly.refl s).withdrawSlot.cst

theorem dropHold_cst (h : Hold) (s : State) :
    (dropHold h s).cst = { s.cst with holds := s.cst.holds.filter (fun x => x.route ≠ h.route) } := by
  unfold dropHold
  dsimp only
  split
  · exact withdrawSlot_cst ..
  · rfl

theorem rqUndo_cst (q : RqState) (s : State) : (rqUndo q s).cst = s.cst := by
  unfold rqUndo
  split
  · rfl
  · split
    · exact stageRoute_cst ..
    · exact withdrawSlot_cst ..

/-! ### A message taken out of its buffer -/

/-- The state with the oldest message of a type taken out of the buffer of a port. -/
def msgTaken (n : Nat) (m : Nat × List Byte) (s : State) : State := modPort n (fun x => { x with msgs := x.msgs.erase m }) s

theorem inbox_some {type : Nat} {bs : List Byte} (h : inbox s n type = some bs) : cstOn s = true ∧ ∃ m,
    (portOf s n).msgs.find? (fun m => decide (msgType m.2 = type)) = some m ∧ m.2 = bs
      ∧ (msgDst bs = 0xFE ∨ msgDst bs = 0xFF ∨ (joined s = true ∧ msgDst bs = ownNum s)) := by
  unfold inbox at h
  split at h
  case isFalse => exact absurd h (by simp)
  case isTrue hon =>
    obtain ⟨hmap, hdst⟩ := Option.filter_eq_some_iff.1 h
    obtain ⟨m, hfind, rfl⟩ := Option.map_eq_some_iff.1 hmap
    simp only [Bool.or_eq_true, Bool.and_eq_true, decide_eq_true_eq, or_assoc] at hdst
    exact ⟨hon, m, hfind, rfl, hdst⟩

/-- A message for this device has its effect on the state without it. -/
theorem onMsg_inbox {type : Nat} {bs : List Byte} (h : inbox s n type = some bs) :
    ∃ m ∈ (portOf s n).msgs, ∀ g : List Byte → State → State, onMsg n type g s = g bs (msgTaken n m s) := by
  obtain ⟨hon, m, hfind, hbs, hdst⟩ := inbox_some h
  refine ⟨m, List.mem_of_find?_eq_some hfind, fun g => ?_⟩
  have htake : takeMsg n type s = some (m, msgTaken n m s) := by
    rw [takeMsg, hfind]
    rfl
  unfold onMsg
  rw [hon, htake, ← hbs]
  exact if_pos (hbs ▸ hdst)

/-! ### RESERVE and the end of what it held (R358) -/

theorem reserveHolds {bs : List Byte} (hin : inbox s n 0x10 = some bs)
    (hfree : reserveFault s (msgField bs 0 4) (msgField bs 4 2 % 512) (reserveSet bs) = none) :
    ∃ t, exec (.reserveRx n) s = .next t ∧ t.cst.holds =
      if s.cst.holds.any (fun h => decide (h.route = msgField bs 0 4) && h.committed)
      then s.cst.holds.map (fun h => if h.route = msgField bs 0 4 then { h with tent := some (reserveSet bs), since := s.up } else h)
      else s.cst.holds.filter (fun h => h.route ≠ msgField bs 0 4)
        ++ [{ route := msgField bs 0 4, slot := msgField bs 4 2 % 512, rs := reserveSet bs, committed := false, since := s.up }] := by
  obtain ⟨m, -, hmsg⟩ := onMsg_inbox hin
  have hexec : exec (.reserveRx n) s = execReserveRx n s := rfl
  have hnone : reserveFault (msgTaken n m s) (msgField bs 0 4) (msgField bs 4 2 % 512) (reserveSet bs) = none := hfree
  rw [hexec, execReserveRx, hmsg]
  dsimp only
  rw [hnone]
  have hsent := fun d chan type body s => (SentOnly.sendNum d chan type body s).cst.holds
  exact ⟨_, rfl, hsent ..⟩

theorem reserveRefused {bs : List Byte} (hin : inbox s n 0x10 = some bs)
    (hfault : reserveFault s (msgField bs 0 4) (msgField bs 4 2 % 512) (reserveSet bs) ≠ none) :
    ∃ t, exec (.reserveRx n) s = .next t ∧ t.cst.holds = s.cst.holds ∧ regsSame [] s t := by
  obtain ⟨m, -, hmsg⟩ := onMsg_inbox hin
  obtain ⟨r, hr⟩ := Option.ne_none_iff_exists'.1 hfault
  have hexec : exec (.reserveRx n) s = execReserveRx n s := rfl
  have hsome : reserveFault (msgTaken n m s) (msgField bs 0 4) (msgField bs 4 2 % 512) (reserveSet bs) = some r := hr
  rw [hexec, execReserveRx, hmsg]
  dsimp only
  rw [hsome]
  exact ⟨_, rfl, (SentOnly.sendNum ..).cst.holds, regsSame_of_regs (SentOnly.sendNum ..).regs⟩

/-- The holds of a route given up, with nothing of Tulle to withdraw. -/
def holdsDropped (route : Nat) (s : State) : State :=
  { s with cst := { s.cst with holds := s.cst.holds.filter (fun h => h.route ≠ route) } }

/-- What extends the holds of a route given up. -/
def tentsDropped (route : Nat) (s : State) : State :=
  { s with cst := { s.cst with holds := s.cst.holds.map (fun h => if h.route = route then { h with tent := none } else h) } }

theorem holdsDropped_twice (route : Nat) (s : State) : holdsDropped route (holdsDropped route s) = holdsDropped route s := by
  simp only [holdsDropped, List.filter_filter, Bool.and_self]

theorem tentsDropped_twice (route : Nat) (s : State) : tentsDropped route (tentsDropped route s) = tentsDropped route s := by
  have hsame : ∀ h : Hold, (if (if h.route = route then { h with tent := none } else h).route = route then
      { (if h.route = route then { h with tent := none } else h) with tent := none }
      else (if h.route = route then { h with tent := none } else h)) = if h.route = route then { h with tent := none } else h := by
    intro h
    by_cases hr : h.route = route <;> simp [hr]
  simp only [tentsDropped, List.map_map, Function.comp_def, hsame]

/-- An operation that is its own repetition, done for each of a list. -/
theorem forAll_idem {α : Type} {g : α → State → State} {d : State → State} {l : List α} (hg : ∀ x ∈ l, ∀ t, g x t = d t)
    (hd : ∀ t, d (d t) = d t) (hl : l ≠ []) : forAll l g s = d s := by
  induction l generalizing s with
  | nil => exact absurd rfl hl
  | cons x l ih =>
    have hstep : forAll (x :: l) g s = forAll l g (d s) := congrArg (forAll l g) (hg x List.mem_cons_self s)
    rw [hstep]
    cases l with
    | nil => rfl
    | cons y l => rw [ih (fun z hz => hg z (List.mem_cons_of_mem _ hz)) (List.cons_ne_nil _ _), hd]

theorem holdsDropped_of_none {route : Nat} (h : ∀ x ∈ s.cst.holds, x.route ≠ route) : holdsDropped route s = s := by
  have hall : s.cst.holds.filter (fun h => h.route ≠ route) = s.cst.holds := List.filter_eq_self.2 (by simpa using h)
  rw [holdsDropped, hall]

theorem tentsDropped_of_none {route : Nat} (h : ∀ x ∈ s.cst.holds, x.route = route → x.tent = none) : tentsDropped route s = s := by
  have hsame : ∀ x ∈ s.cst.holds, (if x.route = route then { x with tent := none } else x) = id x := by
    intro x hx
    by_cases hr : x.route = route
    · rw [if_pos hr, ← h x hx hr]
      rfl
    · exact if_neg hr
  have hall : s.cst.holds.map (fun h => if h.route = route then { h with tent := none } else h) = s.cst.holds := by
    rw [List.map_congr_left hsame, List.map_id]
  rw [tentsDropped, hall]

theorem dropTent_uncommitted {h : Hold} (hc : h.committed = false) (s : State) : dropTent h s = holdsDropped h.route s := by
  unfold dropTent dropHold
  rw [hc]
  rfl

theorem dropTent_committed {h : Hold} (hc : h.committed = true) (s : State) : dropTent h s = tentsDropped h.route s := by
  unfold dropTent
  rw [hc]
  rfl

/-- The holds of a route whose reservation has waited for its COMMIT too long (R358). -/
def expired (route : Nat) (s : State) : List Hold :=
  s.cst.holds.filter (fun h => decide (h.route = route) && (h.tent.isSome || !h.committed) && elapsed s (some h.since) 50)

theorem mem_expired {route : Nat} {h : Hold} : h ∈ expired route s ↔
    h ∈ s.cst.holds ∧ h.route = route ∧ (h.tent.isSome = true ∨ h.committed = false) ∧ elapsed s (some h.since) 50 = true := by
  simp only [expired, List.mem_filter, Bool.and_eq_true, Bool.or_eq_true, decide_eq_true_eq, Bool.not_eq_true', and_assoc]

theorem exec_tentativeExpire (route : Nat) (s : State) : exec (.tentativeExpire route) s = .next (forAll (expired route s) dropTent s) := rfl

theorem tentativeGone {route : Nat}
    (h : ∀ x ∈ s.cst.holds, x.route = route → x.committed = false ∧ elapsed s (some x.since) 50 = true) :
    exec (.tentativeExpire route) s = .next (holdsDropped route s) := by
  rw [exec_tentativeExpire]
  by_cases hl : expired route s = []
  case pos =>
    rw [hl, holdsDropped_of_none]
    · rfl
    · intro x hx hr
      have hmem : x ∈ expired route s := mem_expired.2 ⟨hx, hr, .inr (h x hx hr).1, (h x hx hr).2⟩
      rw [hl] at hmem
      exact absurd hmem List.not_mem_nil
  case neg =>
    refine congrArg Host.Outcome.next (forAll_idem (fun x hx t => ?_) (holdsDropped_twice route) hl)
    obtain ⟨hmem, hr, -, -⟩ := mem_expired.1 hx
    rw [dropTent_uncommitted (h x hmem hr).1, hr]

theorem extensionGone {route : Nat}
    (h : ∀ x ∈ s.cst.holds, x.route = route → x.committed = true ∧ elapsed s (some x.since) 50 = true) :
    exec (.tentativeExpire route) s = .next (tentsDropped route s) := by
  rw [exec_tentativeExpire]
  by_cases hl : expired route s = []
  case pos =>
    rw [hl, tentsDropped_of_none]
    · rfl
    · intro x hx hr
      by_contra hne
      have hmem : x ∈ expired route s := mem_expired.2 ⟨hx, hr, .inl (Option.isSome_iff_ne_none.2 hne), (h x hx hr).2⟩
      rw [hl] at hmem
      exact absurd hmem List.not_mem_nil
  case neg =>
    refine congrArg Host.Outcome.next (forAll_idem (fun x hx t => ?_) (tentsDropped_twice route) hl)
    obtain ⟨hmem, hr, -, -⟩ := mem_expired.1 hx
    rw [dropTent_committed (h x hmem hr).1, hr]

theorem nothingExpired {route : Nat} (h : ∀ x ∈ s.cst.holds, x.route = route → elapsed s (some x.since) 50 = false) :
    exec (.tentativeExpire route) s = .next s := by
  have hl : expired route s = [] := by
    refine List.eq_nil_iff_forall_not_mem.2 fun x hx => ?_
    obtain ⟨hmem, hr, -, hel⟩ := mem_expired.1 hx
    exact absurd ((h x hmem hr).symm.trans hel) (by decide)
  rw [exec_tentativeExpire, hl]
  rfl

/-! ### COMMIT, RELEASE and WITHDRAW (R359, R362) -/

theorem anyRunning_of_regs (hv : t.variant = s.variant)
    (h : ∀ b < 32, rdWord t (HDR.STATUS.addr (tilePage b) 0) = rdWord s (HDR.STATUS.addr (tilePage b) 0)) : anyRunning t = anyRunning s := by
  have hbits : tileBits t = tileBits s := by
    have hpres : tilePresent t = tilePresent s := by
      funext b
      rw [tilePresent, tilePresent, hv]
    rw [tileBits, tileBits, hpres]
  have hrun : ∀ b ∈ tileBits s, tileRunning t b = tileRunning s b := by
    intro b hb
    have hword := h b (List.mem_range.1 (List.mem_of_mem_filter hb))
    exact congrArg (fun w => decide (HDR.STATUS_RUN.of w = 1)) hword
  rw [anyRunning, anyRunning, hbits]
  refine Bool.eq_iff_iff.2 ?_
  simp only [List.any_eq_true]
  exact ⟨fun ⟨b, hb, hr⟩ => ⟨b, hb, (hrun b hb).symm.trans hr⟩, fun ⟨b, hb, hr⟩ => ⟨b, hb, (hrun b hb).trans hr⟩⟩

theorem tulSlot_setTulSlot (i : Nat) (x : TulSlot) (s : State) : tulSlot (setTulSlot i x s) i = x := smGet_smPut_same _ _ _ _

/-- A register of Tulle is no STATUS of a Tambour. -/
theorem tulSlotRt_ne_tileStatus {b i : Nat} : HDR.STATUS.addr (tilePage b) 0 ≠ TUL.SLOT_RT_RT_PEND.addr pTul i := by
  simp only [Fld.addr, tilePage, pTul, HDR.STATUS, TUL.SLOT_RT_RT_PEND]
  omega

theorem tulStatus_ne_tileStatus {b : Nat} : HDR.STATUS.addr (tilePage b) 0 ≠ TUL.STATUS_RT_PEND.addr pTul 0 := by
  simp only [Fld.addr, tilePage, pTul, HDR.STATUS, TUL.STATUS_RT_PEND]
  omega

/-- While a Tambour runs, a route handed to Tulle waits for the shot boundary (R263). -/
theorem stageRoute_next {i : Nat} {r : RouteSet} (hrun : anyRunning s = true) : (tulSlot (stageRoute i r s) i).next = some r := by
  have hstill : anyRunning (syncRtPend (putF pTul TUL.SLOT_RT_RT_PEND 1 i (setTulSlot i { tulSlot s i with next := some r } s))) = true := by
    rw [← hrun]
    refine anyRunning_of_regs rfl fun b _ => ?_
    rw [syncRtPend, putF, rdWord_wrWord_other tulStatus_ne_tileStatus, putF, rdWord_wrWord_other tulSlotRt_ne_tileStatus]
    rfl
  have hslot : tulSlot (syncRtPend (putF pTul TUL.SLOT_RT_RT_PEND 1 i (setTulSlot i { tulSlot s i with next := some r } s))) i
      = tulSlot (setTulSlot i { tulSlot s i with next := some r } s) i := rfl
  unfold stageRoute
  dsimp only
  rw [if_pos hstill, hslot, tulSlot_setTulSlot]

theorem commits {bs : List Byte} (hin : inbox s n 0x13 = some bs) {h : Hold}
    (hfind : s.cst.holds.find? (fun h => decide (h.route = msgField bs 0 4)) = some h) :
    ∃ t, exec (.commitRx n) s = .next t
      ∧ t.cst.holds = s.cst.holds.map (fun x =>
        if x.route = msgField bs 0 4 then { x with rs := h.tent.getD h.rs, committed := true, tent := none } else x)
      ∧ (anyRunning s = true → (tulSlot t h.slot).next = some (h.tent.getD h.rs)) := by
  obtain ⟨m, -, hmsg⟩ := onMsg_inbox hin
  have hexec : exec (.commitRx n) s = execCommitRx n s := rfl
  have hsome : (msgTaken n m s).cst.holds.find? (fun h => decide (h.route = msgField bs 0 4)) = some h := hfind
  rw [hexec, execCommitRx, hmsg]
  dsimp only
  rw [hsome]
  refine ⟨_, rfl, (SentOnly.sendNum ..).cst.holds.trans (congrArg Cst.holds (stageRoute_cst ..)), fun hrun => ?_⟩
  rw [tulSlot, (SentOnly.sendNum ..).slots, ← tulSlot]
  exact stageRoute_next hrun

/-! ### RELEASE and WITHDRAW (R359, R362) -/

/-- The holds of a route. -/
def routeHolds (route : Nat) (s : State) : List Hold := s.cst.holds.filter (fun h => h.route = route)

theorem mem_routeHolds {route : Nat} {h : Hold} : h ∈ routeHolds route s ↔ h ∈ s.cst.holds ∧ h.route = route := by
  simp only [routeHolds, List.mem_filter, decide_eq_true_eq]

theorem route_ne_of_nil {route : Nat} (hl : routeHolds route s = []) : ∀ x ∈ s.cst.holds, x.route ≠ route := by
  intro x hx hr
  have hmem := mem_routeHolds.2 ⟨hx, hr⟩
  rw [hl] at hmem
  exact absurd hmem List.not_mem_nil

theorem holdsDropped_of_nil {route : Nat} (hl : routeHolds route s = []) : holdsDropped route s = s :=
  holdsDropped_of_none (route_ne_of_nil hl)

theorem tentsDropped_of_nil {route : Nat} (hl : routeHolds route s = []) : tentsDropped route s = s :=
  tentsDropped_of_none fun x hx hr => absurd hr (route_ne_of_nil hl x hx)

/-- An operation that gives up the holds of the route in the tables, done for each hold of it. -/
theorem forAll_holds {α : Type} {g : α → State → State} {d : State → State} {l : List α}
    (hg : ∀ x ∈ l, ∀ t u : State, t.cst.holds = u.cst.holds → (g x t).cst.holds = (d u).cst.holds)
    (hd : ∀ t, d (d t) = d t) (hl : l ≠ []) : (forAll l g s).cst.holds = (d s).cst.holds := by
  suffices h : ∀ t, t.cst.holds = s.cst.holds ∨ t.cst.holds = (d s).cst.holds → (forAll l g t).cst.holds = (d s).cst.holds by
    exact h s (.inl rfl)
  induction l with
  | nil => exact absurd rfl hl
  | cons x l ih =>
    intro t ht
    have hstep : (g x t).cst.holds = (d s).cst.holds := by
      obtain ht | ht := ht
      · exact hg x List.mem_cons_self t s ht
      · rw [hg x List.mem_cons_self t (d s) ht, hd]
    have hcons : forAll (x :: l) g t = forAll l g (g x t) := rfl
    cases l with
    | nil => exact hstep
    | cons y l =>
      rw [hcons]
      exact ih (fun z hz => hg z (List.mem_cons_of_mem _ hz)) (List.cons_ne_nil _ _) _ (.inr hstep)

theorem holdsDropped_congr {route : Nat} {h : Hold} (hr : h.route = route) (ht : t.cst.holds = u.cst.holds) :
    (dropHold h t).cst.holds = (holdsDropped route u).cst.holds := by
  rw [dropHold_cst, hr, ht]
  rfl

/-- The state without its oldest message has the holds it had. -/
theorem routeHolds_msgTaken (route n : Nat) (m : Nat × List Byte) (s : State) : routeHolds route (msgTaken n m s) = routeHolds route s := rfl

theorem exec_releaseRx {bs : List Byte} (hin : inbox s n 0x14 = some bs) : ∃ m, exec (.releaseRx n) s = .next
    (forAll (routeHolds (msgField bs 0 4) s) (fun h s => if h.tent.isSome then dropTent h s else dropHold h s) (msgTaken n m s)) := by
  obtain ⟨m, -, hmsg⟩ := onMsg_inbox hin
  have hexec : exec (.releaseRx n) s = execReleaseRx n s := rfl
  rw [hexec, execReleaseRx, hmsg]
  exact ⟨m, rfl⟩

theorem releases {bs : List Byte} (hin : inbox s n 0x14 = some bs)
    (h : ∀ x ∈ s.cst.holds, x.route = msgField bs 0 4 → x.tent = none) :
    ∃ t, exec (.releaseRx n) s = .next t ∧ t.cst.holds = s.cst.holds.filter (fun h => h.route ≠ msgField bs 0 4) := by
  obtain ⟨m, hexec⟩ := exec_releaseRx hin
  refine ⟨_, hexec, ?_⟩
  by_cases hl : routeHolds (msgField bs 0 4) s = []
  case pos =>
    rw [hl]
    exact congrArg (fun u : State => u.cst.holds) (holdsDropped_of_nil hl).symm
  case neg =>
    refine forAll_holds (s := msgTaken n m s) (d := holdsDropped (msgField bs 0 4)) (fun x hx t u htu => ?_) (holdsDropped_twice _) hl
    obtain ⟨hmem, hr⟩ := mem_routeHolds.1 hx
    rw [h x hmem hr]
    exact holdsDropped_congr hr htu

theorem releasesExtension {bs : List Byte} (hin : inbox s n 0x14 = some bs)
    (h : ∀ x ∈ s.cst.holds, x.route = msgField bs 0 4 → x.committed = true ∧ x.tent ≠ none) :
    ∃ t, exec (.releaseRx n) s = .next t
      ∧ t.cst.holds = s.cst.holds.map (fun h => if h.route = msgField bs 0 4 then { h with tent := none } else h) := by
  obtain ⟨m, hexec⟩ := exec_releaseRx hin
  refine ⟨_, hexec, ?_⟩
  by_cases hl : routeHolds (msgField bs 0 4) s = []
  case pos =>
    rw [hl]
    exact congrArg (fun u : State => u.cst.holds) (tentsDropped_of_nil hl).symm
  case neg =>
    refine forAll_holds (s := msgTaken n m s) (d := tentsDropped (msgField bs 0 4)) (fun x hx t u htu => ?_) (tentsDropped_twice _) hl
    obtain ⟨hmem, hr⟩ := mem_routeHolds.1 hx
    obtain ⟨hc, ht⟩ := h x hmem hr
    rw [if_pos (Option.isSome_iff_ne_none.2 ht), dropTent_committed hc, hr, tentsDropped, tentsDropped, htu]

theorem SentOnly.tellBelow (h : Hold) (s : State) : SentOnly s (tellBelow h s) := SentOnly.forAll fun _ _ => SentOnly.sendPort ..

theorem withdraws {bs : List Byte} (hin : inbox s n 0x15 = some bs) :
    ∃ t, exec (.withdrawRx n) s = .next t ∧ t.cst.holds = s.cst.holds.filter (fun h => h.route ≠ msgField bs 0 4) := by
  obtain ⟨m, -, hmsg⟩ := onMsg_inbox hin
  have hexec : exec (.withdrawRx n) s = execWithdrawRx n s := rfl
  rw [hexec, execWithdrawRx, hmsg]
  refine ⟨forAll (routeHolds (msgField bs 0 4) s) (fun h s => dropHold h (tellBelow h s)) (msgTaken n m s), rfl, ?_⟩
  by_cases hl : routeHolds (msgField bs 0 4) s = []
  case pos =>
    rw [hl]
    exact congrArg (fun u : State => u.cst.holds) (holdsDropped_of_nil hl).symm
  case neg =>
    refine forAll_holds (s := msgTaken n m s) (d := holdsDropped (msgField bs 0 4)) (fun x hx t u htu => ?_) (holdsDropped_twice _) hl
    exact holdsDropped_congr (mem_routeHolds.1 hx).2 ((SentOnly.tellBelow x t).cst.holds.trans htu)

/-! ### Answers (R357, R359) -/

theorem ackEntered {bs : List Byte} (hin : inbox s n 0x11 = some bs) {e : Nat × RqState} (hrq : rqOf s (msgField bs 0 4) = some e)
    (hmore : e.2.ask.all (fun d => decide (d = msgSrc bs ∨ d ∈ e.2.acked)) = false) :
    ∃ t, exec (.resAckRx n) s = .next t ∧ smFind e.1 t.cst.rq = some { e.2 with acked := msgSrc bs :: e.2.acked } ∧ regsSame [] s t := by
  obtain ⟨m, -, hmsg⟩ := onMsg_inbox hin
  have hexec : exec (.resAckRx n) s = execResAckRx n s := rfl
  have hsome : rqOf (msgTaken n m s) (msgField bs 0 4) = some (e.1, e.2) := hrq
  have hall : e.2.ask.all (fun d => decide (d ∈ msgSrc bs :: e.2.acked)) = false := by
    simpa only [List.mem_cons] using hmore
  rw [hexec, execResAckRx, hmsg]
  dsimp only
  rw [hsome]
  dsimp only
  unfold rqAck
  dsimp only
  rw [hall]
  exact ⟨_, rfl, smFind_smSet_same .., regsSame_of_regs rfl⟩

/-- RQ_STAT is no register of a record. -/
theorem rqStat_ne {f : Fld} {k : Nat} (hf : f.stride = 0x1000000) (hoff : f.off = 0x06C) {g : Fld} (hg : g.off < 0x40) :
    f.addr pCst k ≠ g.addr pCst 0 := by
  simp only [Fld.addr, hf, hoff, pCst]
  omega

/-- How a request stands after its report: DONE with its result, and not BUSY any more. -/
def rqEnded (k result : Nat) (s : State) : Prop :=
  getF s pCst CST.RQ_STAT_RESULT k = result ∧ isSet s pCst CST.RQ_STAT_DONE k = true ∧ isSet s pCst CST.RQ_STAT_BUSY k = false

/-- The report of a request that is done (R359). -/
def rqReported (k slot lat : Nat) (s : State) : State :=
  let s := putF pCst CST.RQ_STAT_RESULT 0 k (putF pCst CST.RQ_STAT_BUSY 0 k s)
  let s := putF pCst CST.RQ_STAT_GSLOT slot k (putF pCst CST.RQ_STAT_LAT lat k s)
  irqBit pCst 1 (putF pCst CST.RQ_STAT_DONE 1 k s)

theorem rqReported_ended (k slot lat : Nat) (s : State) : rqEnded k 0 (rqReported k slot lat s) := by
  refine ⟨?_, ?_, ?_⟩
  · rw [rqReported, getF, irqBit, rdWord_irqSet _ _ _ _ (rqStat_ne rfl rfl (by decide)), ← getF, getF_putF_beside (by decide),
      getF_putF_beside (by decide), getF_putF_beside (by decide), getF_putF _ _ _ _ _ (by decide)]
    rfl
  · rw [rqReported, isSet_irqBit_ne (rqStat_ne rfl rfl (by decide)), isSet_putF (by decide)]
    rfl
  · rw [rqReported, isSet_irqBit_ne (rqStat_ne rfl rfl (by decide)), isSet_putF_beside (by decide), isSet_putF_beside (by decide),
      isSet_putF_beside (by decide), isSet_putF_beside (by decide), isSet_putF (by decide)]
    rfl

theorem rqReported_slot (k slot lat : Nat) (s : State) :
    getF (rqReported k slot lat s) pCst CST.RQ_STAT_GSLOT k = slot % 2 ^ CST.RQ_STAT_GSLOT.w := by
  rw [rqReported, getF, irqBit, rdWord_irqSet _ _ _ _ (rqStat_ne rfl rfl (by decide)), ← getF, getF_putF_beside (by decide),
    getF_putF _ _ _ _ _ (by decide)]

theorem rqRefuse_ended (k slot : Nat) {result : Nat} (hr : result < 16) (s : State) : rqEnded k result (rqRefuse k slot result s) := by
  have hword : ∀ f : Fld, f.stride = 0x1000000 → f.off = 0x06C → rdWord (rqRefuse k slot result s) (f.addr pCst k)
      = rdWord (putF pCst CST.RQ_STAT_DONE 1 k (putF pCst CST.RQ_STAT_RESULT result k (putF pCst CST.RQ_STAT_BUSY 0 k s))) (f.addr pCst k) := by
    intro f hf hoff
    rw [rqRefuse, rdWord_errRec _ _ _ _ _ _ _ _ (rqStat_ne hf hoff (by decide)) (rqStat_ne hf hoff (by decide)), irqBit,
      rdWord_irqSet _ _ _ _ (rqStat_ne hf hoff (by decide))]
    simp only [Fld.addr, hf, hoff, pCst, DMP.DUMP_STAT_FATAL_CNT]
    omega
  refine ⟨?_, ?_, ?_⟩
  · rw [getF, hword _ rfl rfl, ← getF, getF_putF_beside (by decide), getF_putF _ _ _ _ _ (by decide)]
    exact Nat.mod_eq_of_lt hr
  · rw [isSet, getF, hword _ rfl rfl, ← getF, ← isSet, isSet_putF (by decide)]
    rfl
  · rw [isSet, getF, hword _ rfl rfl, ← getF, ← isSet, isSet_putF_beside (by decide), isSet_putF_beside (by decide), isSet_putF (by decide)]
    rfl

theorem rqRefuse_cst (k slot result : Nat) (s : State) : (rqRefuse k slot result s).cst = s.cst := by
  simp only [rqRefuse, errRec_cst, irqBit_cst, putF_cst]

/-- A reservation that ends without success, as its messages leave it (R359). -/
def rqCancelled (k : Nat) (q : RqState) (s : State) : State :=
  let s := forAll q.ask (fun d s => sendNum d 1 0x14 (routeBody q.route.route q.route.slot 0) s) (rqUndo q s)
  { s with cst := { s.cst with rq := smErase k s.cst.rq } }

theorem rqFail_request {k : Nat} (hk : k < 2) (q : RqState) (result : Nat) (s : State) :
    rqFail k q result s = rqRefuse k q.route.slot result (rqCancelled k q s) := if_pos hk

theorem rqCancelled_cst (k : Nat) (q : RqState) (s : State) :
    MseqOnly { s.cst with rq := smErase k s.cst.rq } (rqCancelled k q s).cst := by
  have hsent := (SentOnly.sendEach q.ask id 1 0x14 (fun _ => routeBody q.route.route q.route.slot 0) (rqUndo q s)).cst
  rw [rqUndo_cst] at hsent
  unfold MseqOnly at *
  exact congrArg (fun c : Cst => { c with rq := smErase k c.rq }) hsent

theorem rqFail_cst (k : Nat) (q : RqState) (result : Nat) (s : State) :
    MseqOnly { s.cst with rq := smErase k s.cst.rq } (rqFail k q result s).cst := by
  by_cases hk : k < 2
  · rw [rqFail_request hk, rqRefuse_cst]
    exact rqCancelled_cst k q s
  · have hother : rqFail k q result s = rqCancelled k q s := if_neg hk
    rw [hother]
    exact rqCancelled_cst k q s

theorem nakEnds {bs : List Byte} (hin : inbox s n 0x12 = some bs) {e : Nat × RqState} (hrq : rqOf s (msgField bs 0 4) = some e)
    (hauto : e.2.auto = false) (hk : e.1 < 2) :
    ∃ t, exec (.resNakRx n) s = .next t ∧ rqEnded e.1 1 t ∧ t.cst.rq = smErase e.1 s.cst.rq := by
  obtain ⟨m, -, hmsg⟩ := onMsg_inbox hin
  have hexec : exec (.resNakRx n) s = execResNakRx n s := rfl
  have hsome : rqOf (msgTaken n m s) (msgField bs 0 4) = some (e.1, e.2) := hrq
  rw [hexec, execResNakRx, hmsg]
  dsimp only
  rw [hsome]
  dsimp only
  rw [hauto]
  refine ⟨rqFail e.1 e.2 1 (msgTaken n m s), rfl, ?_, (rqFail_cst e.1 e.2 1 _).rq⟩
  rw [rqFail_request hk]
  exact rqRefuse_ended _ _ (by decide) _

theorem rqDone_cst (k : Nat) (q : RqState) (s : State) : (rqDone k q s).cst = { s.cst with
    rq := smErase k s.cst.rq, routes := s.cst.routes.filter (fun r => r.slot ≠ q.route.slot) ++ [q.route] } := by
  unfold rqDone showPart
  dsimp only
  split <;> simp only [irqBit_cst, putF_cst]

theorem rqDone_request {k : Nat} (hk : k < 2) (q : RqState) (s : State) :
    ∃ u, rqDone k q s = rqReported k q.route.slot (routeLat q.route) u := ⟨_, if_pos hk⟩

theorem lastAckCompletes {bs : List Byte} (hin : inbox s n 0x11 = some bs) {e : Nat × RqState} (hrq : rqOf s (msgField bs 0 4) = some e)
    (hall : e.2.ask.all (fun d => decide (d = msgSrc bs ∨ d ∈ e.2.acked)) = true) (hcom : e.2.committing = true) (hk : e.1 < 2) :
    ∃ t, exec (.resAckRx n) s = .next t ∧ rqEnded e.1 0 t
      ∧ getF t pCst CST.RQ_STAT_GSLOT e.1 = e.2.route.slot % 2 ^ CST.RQ_STAT_GSLOT.w
      ∧ t.cst.routes = s.cst.routes.filter (fun r => r.slot ≠ e.2.route.slot) ++ [e.2.route] := by
  obtain ⟨m, -, hmsg⟩ := onMsg_inbox hin
  have hexec : exec (.resAckRx n) s = execResAckRx n s := rfl
  have hsome : rqOf (msgTaken n m s) (msgField bs 0 4) = some (e.1, e.2) := hrq
  have hlast : e.2.ask.all (fun d => decide (d ∈ msgSrc bs :: e.2.acked)) = true := by
    simpa only [List.mem_cons] using hall
  rw [hexec, execResAckRx, hmsg, hsome]
  unfold rqAck
  dsimp only
  rw [hlast, hcom]
  obtain ⟨u, hu⟩ := rqDone_request hk { e.2 with acked := msgSrc bs :: e.2.acked } (msgTaken n m s)
  refine ⟨_, rfl, ?_, ?_, ?_⟩
  · exact hu ▸ rqReported_ended ..
  · exact hu ▸ rqReported_slot ..
  · exact congrArg Cst.routes (rqDone_cst ..)

/-! ### Skew reports (R406, R407) -/

theorem takeMsg_some {type : Nat} {bs : List Byte}
    (h : ((portOf s n).msgs.find? (fun m => decide (msgType m.2 = type))).map Prod.snd = some bs) :
    ∃ c, (c, bs) ∈ (portOf s n).msgs ∧ takeMsg n type s = some ((c, bs), msgTaken n (c, bs) s) := by
  obtain ⟨⟨c, ds⟩, hfind, rfl⟩ := Option.map_eq_some_iff.1 h
  refine ⟨c, List.mem_of_find?_eq_some hfind, ?_⟩
  rw [takeMsg, hfind]
  rfl

/-- A message put into the queues of ports changes nothing but the ports. -/
theorem sendAll_eq (l : List Nat) (chan : Nat) (bs : List Byte) (s : State) : forAll l (fun n s => sendMsg n chan bs s) s =
    { s with ports := (forAll l (fun n s => sendMsg n chan bs s) s).ports } := by
  refine forAll_induction (P := fun t => t = { s with ports := t.ports }) (fun k t ht => ?_) l rfl
  have hsend : sendMsg k chan bs t = { t with ports := (sendMsg k chan bs t).ports } := rfl
  rw [hsend, ht]

theorem passOn_cst (ports : List Nat) (chan : Nat) (bs : List Byte) (s : State) : (passOn ports chan bs s).cst = s.cst := by
  unfold passOn
  rw [sendAll_eq]
  split
  · rfl
  · rw [incSat_cst]

theorem passOn_cal (ports : List Nat) (chan : Nat) (bs : List Byte) (s : State) : (passOn ports chan bs s).cal = s.cal := by
  unfold passOn
  rw [sendAll_eq]
  split
  · rfl
  · rw [incSat_cal]

theorem passOn_up (ports : List Nat) (chan : Nat) (bs : List Byte) (s : State) : (passOn ports chan bs s).up = s.up := by
  unfold passOn
  rw [sendAll_eq]
  split
  · rfl
  · rw [incSat_up]

theorem settle_reps (s : State) : (settle s).cal.reps = s.cal.reps := by
  have ht := (BoundaryOnly.refl s).settle.typed
  unfold boundaryTyped at ht
  rw [ht]

theorem skewReject_reps (reason : Nat) (s : State) : (skewReject reason s).cal.reps = s.cal.reps := by
  unfold skewReject
  dsimp only
  split <;> simp only [errRec_cal, irqBit_cal, incSat_cal]

theorem skewPropose_reps (s : State) : (skewPropose s).cal.reps = s.cal.reps := by
  unfold skewPropose
  dsimp only
  split
  · rfl
  · split
    · simp only [skewReject_reps, putF_cal]
    · split
      · simp only [skewReject_reps, putF_cal]
      · simp only [settle_reps, putF_cal]

/-- The report that a SKEW_REPORT carries (R348). -/
def skewRep (bs : List Byte) (up : Nat) : SkewRep :=
  { root := msgField bs 1 1, lead := toSigned 32 (msgField bs 4 4), est := msgField bs 8 4, since := up }

theorem getD_map_of_any {α : Type} {o : Option α} {p : α → Bool} (h : o.any (fun x => !p x) = false) : (o.map p).getD true = true := by
  cases o with
  | none => rfl
  | some x => simpa using h

theorem skewKept {bs : List Byte} (hfind : ((portOf s n).msgs.find? (fun m => decide (msgType m.2 = 0x20))).map Prod.snd = some bs)
    (hon : cstOn s = true) (hown : (joined s && decide (msgField bs 0 1 = ownNum s)) = false)
    (hnew : (smFind (msgField bs 0 1) s.cal.reps).any (fun r => !newer (msgField bs 8 4) r.est) = false) :
    ∃ t, exec (.skewReportRx n) s = .next t ∧ smFind (msgField bs 0 1) t.cal.reps = some (skewRep bs s.up) := by
  obtain ⟨c, -, htake⟩ := takeMsg_some hfind
  have hexec : exec (.skewReportRx n) s = execSkewReportRx n s := rfl
  have hfresh : (joined (msgTaken n (c, bs) s) && decide (msgField bs 0 1 = ownNum (msgTaken n (c, bs) s))
      || !(((smFind (msgField bs 0 1) (msgTaken n (c, bs) s).cal.reps).map (fun r => newer (msgField bs 8 4) r.est)).getD true)) = false := by
    have hold := getD_map_of_any hnew
    have hself : (joined (msgTaken n (c, bs) s) && decide (msgField bs 0 1 = ownNum (msgTaken n (c, bs) s))) = false := hown
    have hkept : ((smFind (msgField bs 0 1) (msgTaken n (c, bs) s).cal.reps).map (fun r => newer (msgField bs 8 4) r.est)).getD true = true :=
      hold
    rw [hself, hkept]
    rfl
  rw [hexec, execSkewReportRx, htake]
  dsimp only
  rw [hon, hfresh]
  refine ⟨_, rfl, ?_⟩
  simp only [Bool.not_true, Bool.false_eq_true, if_false]
  have hset : ∀ u : State, u.up = s.up → smFind (msgField bs 0 1) (smSet (msgField bs 0 1) (skewRep bs u.up) u.cal.reps)
      = some (skewRep bs s.up) := by
    intro u hu
    rw [smFind_smSet_same, hu]
  split
  · rw [putF_cal]
    exact hset _ (passOn_up ..)
  · rw [skewPropose_reps, putF_cal]
    exact hset _ (passOn_up ..)

/-- Settles O36. -/
theorem reservationMessages : Obligations.ReservationMessages := by
  intro s n _
  refine ⟨?_, fun route => ⟨?_, ?_, nothingExpired⟩, fun bs hin h hfind => commits hin hfind,
    fun bs hin => ⟨releases hin, releasesExtension hin⟩, fun bs hin => withdraws hin, ?_, ?_,
    fun bs hfind hon hown hnew => skewKept hfind hon hown hnew⟩
  case refine_1 =>
    refine fun bs hin => ⟨fun hfree => ?_, reserveRefused hin⟩
    obtain ⟨t, hexec, hholds⟩ := reserveHolds hin hfree
    exact ⟨fun hnew => ⟨t, hexec, hholds.trans (if_neg (by rw [hnew]; decide))⟩, fun hold => ⟨t, hexec, hholds.trans (if_pos hold)⟩⟩
  case refine_2 => exact fun h => ⟨_, tentativeGone h, rfl⟩
  case refine_3 => exact fun h => ⟨_, extensionGone h, rfl⟩
  case refine_4 =>
    refine fun bs hin e hrq => ⟨ackEntered hin hrq, fun hall hcom hk => ?_⟩
    obtain ⟨t, hexec, ⟨hres, hdone, hbusy⟩, hslot, hroutes⟩ := lastAckCompletes hin hrq hall hcom hk
    exact ⟨t, hexec, hres, hdone, hbusy, hslot, hroutes⟩
  case refine_5 =>
    intro bs hin e hrq hauto hk
    obtain ⟨t, hexec, ⟨hres, hdone, hbusy⟩, hrq'⟩ := nakEnds hin hrq hauto hk
    exact ⟨t, hexec, hres, hdone, hbusy, hrq'⟩

end Sys2Proof.Machine
end

section
/-!
PROOFS. Discovery (R343 to R351): what a change of the topology table brings about leaves the table itself and the own description, and the
commands that send and take HELLO and LSA or take a NUM.
-/
namespace Sys2Proof.Machine

variable {s0 s t : State} {p n k i v : Nat} {f : Fld}

/-! ### What follows from a change of the table leaves the table (R350 to R352, R361, R363) -/

/-- The table itself: the own description, those of the others and when they were heard, and the sequence number and time of the own one. -/
def topoParts (c : Cst) : Option TopoEntry × List TopoEntry × SMap Nat × Nat × Option Nat := (c.own, c.topo, c.heard, c.lsaSeq, c.floodUp)

/-- The table as it stood. -/
structure TopoKept (s t : State) : Prop where
  parts : topoParts t.cst = topoParts s.cst

/-- Hoop firmware's choice of the time parent, once it is known whether this device is a root in conflict (R352). -/
def timeParent (me : Nat) (s : State) : State :=
  match timeRoot s with
  | none => s
  | some r =>
    if r = me then putF pCst CST.TIME_STAT_DEPTH 0 0 s
    else if !isSet s pCst CST.TIME_CFG_FOLLOW || anyRunning s || isSet s 1 CLK.SYNC_STAT_EPOCH_PEND then s
    else
      let main := (linksOf (topoTable s)).filter (fun l => !l.fb)
      let t := growTree main 32 (rootNode r)
      match t.find? (fun x => decide (x.num = me)) with
      | none => s
      | some x =>
        match (main.filter (fun l => decide (l.a = me))).filter (fun l => t.any (fun y => decide (y.num = l.b) && decide (y.hops + 1 = x.hops))) with
        | [] => s
        | l :: ls =>
          let b := ls.foldl (fun m y => if y.b < m.b ∨ (y.b = m.b ∧ y.p < m.p) then y else m) l
          putF 1 CLK.SYNC_CTL_SRC 2 0 (putF pCst CST.TIME_STAT_PORT b.p 0
            (putF pCst CST.TIME_STAT_PARENT b.b 0 (putF pCst CST.TIME_STAT_DEPTH x.hops 0 s)))

theorem topoParts_of_mseq {c d : Cst} (h : MseqOnly c d) : topoParts d = topoParts c := by rw [h, topoParts, topoParts]

namespace TopoKept

theorem refl (s : State) : TopoKept s s := ⟨rfl⟩

theorem trans {u : State} (h : TopoKept s t) (h' : TopoKept t u) : TopoKept s u := ⟨h'.parts.trans h.parts⟩

/-- A change of other tables of the constellation, or of other parts of the state. -/
theorem same (h : TopoKept s0 s) (hc : topoParts t.cst = topoParts s.cst) : TopoKept s0 t := h.trans ⟨hc⟩

theorem own (h : TopoKept s t) : t.cst.own = s.cst.own := congrArg Prod.fst h.parts

theorem topo (h : TopoKept s t) : t.cst.topo = s.cst.topo := congrArg (fun x => x.2.1) h.parts

theorem heard (h : TopoKept s t) : t.cst.heard = s.cst.heard := congrArg (fun x => x.2.2.1) h.parts

theorem lsaSeq (h : TopoKept s t) : t.cst.lsaSeq = s.cst.lsaSeq := congrArg (fun x => x.2.2.2.1) h.parts

theorem floodUp (h : TopoKept s t) : t.cst.floodUp = s.cst.floodUp := congrArg (fun x => x.2.2.2.2) h.parts

theorem sent (h : TopoKept s0 s) (h' : SentOnly s t) : TopoKept s0 t := h.same (topoParts_of_mseq h'.cst)

theorem boundaryOnly (h : TopoKept s0 s) (h' : BoundaryOnly s t) : TopoKept s0 t := h.same (by rw [h'.cst])

theorem putF (h : TopoKept s0 s) : TopoKept s0 (putF p f v i s) := h.same rfl

theorem incWrap (h : TopoKept s0 s) : TopoKept s0 (incWrap p f i s) := h.putF

theorem irqBit (h : TopoKept s0 s) : TopoKept s0 (irqBit p n s) := h.same (by rw [irqBit_cst])

theorem errRec {code sev unit info addr : Nat} (h : TopoKept s0 s) : TopoKept s0 (errRec p code sev unit info addr s) :=
  h.same (by rw [errRec_cst])

theorem ite {c : Prop} [Decidable c] {x y : State} (hx : TopoKept s0 x) (hy : TopoKept s0 y) : TopoKept s0 (if c then x else y) := by
  split <;> assumption

theorem forAll {α : Type} {l : List α} {g : α → State → State} (hg : ∀ x t, TopoKept s0 t → TopoKept s0 (g x t))
    (h : TopoKept s0 s) : TopoKept s0 (forAll l g s) := forAll_induction hg l h

theorem rqFail {q : RqState} {result : Nat} (h : TopoKept s0 s) : TopoKept s0 (rqFail k q result s) :=
  h.same ((topoParts_of_mseq (rqFail_cst k q result s)).trans rfl)

theorem dropHold {x : Hold} (h : TopoKept s0 s) : TopoKept s0 (dropHold x s) := h.same (by rw [dropHold_cst]; rfl)

theorem stageRoute {r : RouteSet} (h : TopoKept s0 s) : TopoKept s0 (stageRoute i r s) := h.same (by rw [stageRoute_cst])

theorem withdrawSlot (h : TopoKept s0 s) : TopoKept s0 (withdrawSlot i s) := h.same (by rw [withdrawSlot_cst])

theorem showPart {who : Requester} (h : TopoKept s0 s) : TopoKept s0 (showPart who s) := h.putF

theorem rqDone {q : RqState} (h : TopoKept s0 s) : TopoKept s0 (rqDone k q s) := h.same (by rw [rqDone_cst]; rfl)

theorem requests {x : SMap RqState} (h : TopoKept s0 s) : TopoKept s0 { s with cst := { s.cst with rq := x } } := h.same rfl

theorem routes {x : List Route} (h : TopoKept s0 s) : TopoKept s0 { s with cst := { s.cst with routes := x } } := h.same rfl

theorem links {x : SMap Nat} (h : TopoKept s0 s) : TopoKept s0 { s with cst := { s.cst with links := x } } := h.same rfl

theorem rqCommit {q : RqState} (h : TopoKept s0 s) : TopoKept s0 (rqCommit k q s) := by
  have hsent := (h.stageRoute (i := q.route.slot) (r := q.route.own)).sent
    (SentOnly.sendEach q.ask id 1 0x13 (fun _ => routeBody q.route.route q.route.slot 0) _)
  exact ite hsent.rqDone hsent.requests

theorem rqStart {q : RqState} (h : TopoKept s0 s) : TopoKept s0 (rqStart k q s) := by
  have hsent := h.sent (SentOnly.sendEach (q.route.nodes.filter (fun n => n.num ∈ q.ask)) RouteNode.num 1 0x10
    (fun n => reserveBody q.route.route q.route.slot n.rs) s)
  exact ite hsent.rqCommit hsent.requests

theorem routeRepair {r : Route} (h : TopoKept s0 s) : TopoKept s0 (routeRepair r s) := ite h.rqStart h

theorem repairAll (h : TopoKept s0 s) : TopoKept s0 (repairAll s) := ite (forAll (fun _ _ hu => hu.routeRepair) h) h

theorem routeCheck {r : Route} (h : TopoKept s0 s) : TopoKept s0 (routeCheck r s) := by
  unfold Machine.routeCheck
  dsimp only
  exact ite (h.routes.showPart.errRec) h.routes.showPart

theorem timeParent (h : TopoKept s0 s) : TopoKept s0 (timeParent n s) := by
  unfold Machine.timeParent
  split
  · exact h
  · refine ite h.putF (ite h ?_)
    dsimp only
    split
    · exact h
    · split
      · exact h
      · exact h.putF.putF.putF.putF

theorem chooseTime (h : TopoKept s0 s) : TopoKept s0 (chooseTime s) := ite h (timeParent (putF (ite h.errRec h)))

theorem rqAll {l : SMap RqState} {result : Nat} (h : TopoKept s0 s) :
    TopoKept s0 (Machine.forAll l (fun e s => Machine.rqFail e.1 e.2 result s) s) := forAll (fun _ _ hu => hu.rqFail) h

theorem holdsAll {l : List Hold} (h : TopoKept s0 s) : TopoKept s0 (Machine.forAll l Machine.dropHold s) :=
  forAll (fun _ _ hu => hu.dropHold) h

theorem checkAll {l : List Route} (h : TopoKept s0 s) : TopoKept s0 (Machine.forAll l Machine.routeCheck s) :=
  forAll (fun _ _ hu => hu.routeCheck) h

theorem topoChanged (h : TopoKept s0 s) : TopoKept s0 (topoChanged s) := by
  unfold Machine.topoChanged
  dsimp only
  refine repairAll (chooseTime (checkAll (holdsAll (rqAll ?_))))
  split
  · exact h.links.incWrap.irqBit.putF.putF
  · exact ite h.links.incWrap.irqBit.putF.putF.irqBit h.links.incWrap.irqBit.putF.putF.irqBit.errRec

/-- What follows from an edit of the table leaves the edited table. -/
theorem topoEdit {g : State → State} : TopoKept (g s) (topoEdit g s) := ite (refl _) (refl _).topoChanged

theorem dropRoute {r : Route} (h : TopoKept s0 s) : TopoKept s0 (dropRoute r s) := by
  have hrest : ∀ {u}, TopoKept s0 u → TopoKept s0 (
      let s := Machine.forAll r.nodes (fun n s => sendNum n.num 1 0x14 (routeBody r.route r.slot 0) s) u
      let s := { s with cst := { s.cst with routes := s.cst.routes.filter (fun x => x.slot ≠ r.slot) } }
      Machine.showPart r.who (Machine.withdrawSlot r.slot s)) := fun hu =>
    (hu.sent (SentOnly.sendEach r.nodes RouteNode.num 1 0x14 (fun _ => routeBody r.route r.slot 0) _)).routes.withdrawSlot.showPart
  unfold Machine.dropRoute
  dsimp only
  split
  · exact hrest h.rqFail
  · exact hrest h

theorem dropAll (h : TopoKept s0 s) : TopoKept s0 (dropAll s) :=
  forAll (fun _ _ hu => hu.dropRoute) (holdsAll (rqAll h))

end TopoKept

/-! ### HELLO (R345, R348, R349, R361) -/

/-- The HELLO that port `n` sends (R348). -/
def helloMsg (n : Nat) (s : State) : List Byte :=
  mkMsg s 0x01 0xFE (toBytes ownUid 8 ++ toBytes (srcNum s) 1 ++ toBytes (ownFlags s) 1 ++ toBytes n 1 ++ toBytes 0 1 ++ toBytes s.cst.lsaSeq 4)

/-- The HELLOs put into the queues of the ACTIVE ports. -/
def hellosSent (l : List Nat) (s : State) : State := forAll l (fun n s => sendMsg n 0 (helloMsg n s) s) s

theorem hellosSent_eq (l : List Nat) (s : State) : hellosSent l s = { s with ports := (hellosSent l s).ports } := by
  refine forAll_induction (P := fun t => t = { s with ports := t.ports }) (fun k t ht => ?_) l rfl
  have hsend : sendMsg k 0 (helloMsg k t) t = { t with ports := (sendMsg k 0 (helloMsg k t) t).ports } := rfl
  rw [hsend, ht]

theorem portOf_modPort_other {g : Port → Port} {m : Nat} (h : n ≠ m) : portOf (modPort m g s) n = portOf s n := smGet_smSet_other _ h _ _

theorem portOf_modPort_same {g : Port → Port} : portOf (modPort n g s) n = g (portOf s n) := smGet_smSet_same _ _ _ _

theorem hellosSent_other {l : List Nat} (h : n ∉ l) (s : State) : portOf (hellosSent l s) n = portOf s n := by
  refine forAll_induction_mem (P := fun t => portOf t n = portOf s n) (fun k hk t ht => ?_) rfl
  exact (portOf_modPort_other (ne_of_mem_of_not_mem hk h).symm).trans ht

theorem hellosSent_mem {l : List Nat} (hl : l.Nodup) (h : n ∈ l) (s : State) :
    ∃ u, (portOf (hellosSent l s) n).mq = (portOf s n).mq ++ [(0, helloMsg n u)] := by
  induction l generalizing s with
  | nil => exact absurd h List.not_mem_nil
  | cons k l ih =>
    obtain ⟨hk, hl⟩ := List.nodup_cons.1 hl
    have hcons : hellosSent (k :: l) s = hellosSent l (sendMsg k 0 (helloMsg k s) s) := rfl
    rw [hcons]
    obtain rfl | hmem := List.mem_cons.1 h
    · refine ⟨s, ?_⟩
      rw [hellosSent_other hk, sendMsg, portOf_modPort_same]
    · obtain ⟨u, hu⟩ := ih hl hmem (sendMsg k 0 (helloMsg k s) s)
      refine ⟨u, ?_⟩
      rw [hu, sendMsg, portOf_modPort_other]
      rintro rfl
      exact hk hmem

theorem helloMsg_type (n : Nat) (s : State) : msgType (helloMsg n s) = 1 := rfl

theorem helloMsg_dst (n : Nat) (s : State) : msgDst (helloMsg n s) = 0xFE := rfl

theorem exec_helloSend (s : State) : exec .helloSend s = .next (if cstOn s && elapsed s s.cst.helloUp 10 then
    bumpMseq (hellosSent (activePorts s) { s with cst := { s.cst with helloUp := some s.up } }) else s) := rfl

/-- The state with its HELLOs on their way. -/
def helloDone (s : State) : State := bumpMseq (hellosSent (activePorts s) { s with cst := { s.cst with helloUp := some s.up } })

theorem helloDone_eq (s : State) : helloDone s = { s with
    ports := (helloDone s).ports, cst := { s.cst with helloUp := some s.up, mseq := (s.cst.mseq + 1) % 65536 } } := by
  unfold helloDone
  rw [hellosSent_eq]
  rfl

theorem activePorts_nodup (s : State) : (activePorts s).Nodup := List.nodup_range.filter _

theorem mem_activePorts : n ∈ activePorts s ↔ n < 8 ∧ portState s n = 5 := by
  simp only [activePorts, List.mem_filter, List.mem_range, decide_eq_true_eq]

theorem helloSent (hn : n < 8) (hon : cstOn s = true) (hdue : elapsed s s.cst.helloUp 10 = true) : ∃ t, exec .helloSend s = .next t
    ∧ t.cst.mseq = (s.cst.mseq + 1) % 65536
    ∧ (portState s n = 5 → ∃ bs, (portOf t n).mq = (portOf s n).mq ++ [(0, bs)] ∧ msgType bs = 1 ∧ msgDst bs = 0xFE)
    ∧ (portState s n ≠ 5 → portOf t n = portOf s n)
    ∧ t.cst.helloUp = some s.up ∧ regsSame [] s t ∧ typedSame { s with ports := t.ports, cst := t.cst } t := by
  have heq := helloDone_eq s
  refine ⟨helloDone s, ?_, ?_, fun hact => ?_, fun hact => ?_, ?_, ?_, ?_⟩
  · rw [exec_helloSend, hon, hdue]
    rfl
  · rw [heq]
  · obtain ⟨u, hu⟩ := hellosSent_mem (activePorts_nodup s) (mem_activePorts.2 ⟨hn, hact⟩)
      { s with cst := { s.cst with helloUp := some s.up } }
    exact ⟨helloMsg n u, hu, helloMsg_type n u, helloMsg_dst n u⟩
  · exact hellosSent_other (fun hmem => hact (mem_activePorts.1 hmem).2) _
  · rw [heq]
  · exact regsSame_of_regs (by rw [heq])
  · unfold typedSame
    rw [heq]

theorem helloNotSent (h : (cstOn s && elapsed s s.cst.helloUp 10) = false) : exec .helloSend s = .next s := by
  rw [exec_helloSend, h]
  rfl

theorem length_erase_msgs {m : Nat × List Byte} (hm : m ∈ (portOf s n).msgs) :
    (portOf (msgTaken n m s) n).msgs.length + 1 = (portOf s n).msgs.length := by
  have hport : (portOf (msgTaken n m s) n).msgs = (portOf s n).msgs.erase m := by rw [msgTaken, portOf_modPort_same]
  rw [hport, List.length_erase_of_mem hm]
  have hpos := List.length_pos_of_mem hm
  omega

/-- The neighbour that a HELLO tells of (R348). -/
def helloNb (bs : List Byte) : Neighbour :=
  { uid := msgField bs 0 8, num := msgField bs 8 1, flags := msgField bs 9 1, port := msgField bs 10 1, seq := msgField bs 12 4 }

/-- The state with the neighbour of a port entered. -/
def nbEntered (n : Nat) (nb : Neighbour) (s : State) : State :=
  let was := smFind n s.cst.nbs
  let s := { s with cst := { s.cst with nbs := smSet n nb s.cst.nbs } }
  if was.map (fun x => (x.uid, x.num, x.port)) = some (nb.uid, nb.num, nb.port) then s else urge .topology s

theorem exec_helloRx {bs : List Byte} (hin : inbox s n 1 = some bs) : ∃ m ∈ (portOf s n).msgs, exec (.helloRx n) s = .next
    (numClash (helloNb bs).uid (helloNb bs).num (nbEntered n (helloNb bs) (msgTaken n m s))) := by
  obtain ⟨m, hm, hmsg⟩ := onMsg_inbox hin
  have hexec : exec (.helloRx n) s = execHelloRx n s := rfl
  rw [hexec, execHelloRx, hmsg]
  exact ⟨m, hm, rfl⟩

theorem urge_eq (u : Urgent) (s : State) : urge u s = { s with hoop := (urge u s).hoop } := by
  unfold urge
  split <;> rfl

theorem nbEntered_eq (n : Nat) (nb : Neighbour) (s : State) : nbEntered n nb s = { s with
    cst := { s.cst with nbs := smSet n nb s.cst.nbs }, hoop := (nbEntered n nb s).hoop } := by
  unfold nbEntered
  dsimp only
  split
  · rfl
  · rw [urge_eq]

theorem helloTaken {bs : List Byte} (hin : inbox s n 1 = some bs)
    (hclash : (joined s && decide (msgField bs 8 1 = ownNum s) && decide (msgField bs 0 8 < ownUid)) = false) :
    ∃ t, exec (.helloRx n) s = .next t ∧ smFind n t.cst.nbs = some (helloNb bs)
      ∧ (portOf t n).msgs.length + 1 = (portOf s n).msgs.length ∧ regsSame [] s t := by
  obtain ⟨m, hm, hexec⟩ := exec_helloRx hin
  have heq := nbEntered_eq n (helloNb bs) (msgTaken n m s)
  have hno : numClash (helloNb bs).uid (helloNb bs).num (nbEntered n (helloNb bs) (msgTaken n m s))
      = nbEntered n (helloNb bs) (msgTaken n m s) := by
    have hown : (joined (nbEntered n (helloNb bs) (msgTaken n m s)) && decide ((helloNb bs).num = ownNum (nbEntered n (helloNb bs) (msgTaken n m s)))
        && decide ((helloNb bs).uid < ownUid)) = false := by
      rw [heq]
      exact hclash
    unfold numClash
    rw [hown]
    rfl
  refine ⟨_, hexec, ?_⟩
  rw [hno, heq]
  exact ⟨smFind_smSet_same .., length_erase_msgs hm, regsSame_of_regs rfl⟩

/-! ### Link-state descriptions (R349, R350) -/

/-- The work of a flood taken off the list of urgent services. -/
def floodTaken (s : State) : State := { s with hoop := { s.hoop with urgent := s.hoop.urgent.filter (fun u => u ≠ .topology) } }

theorem exec_lsaFlood (s : State) (hdue : (decide (.topology ∈ s.hoop.urgent) || elapsed s s.cst.floodUp 100) = true) :
    exec .lsaFlood s = .next (repairAll (floodLsa s)) := congrArg Host.Outcome.next (if_pos hdue)

/-- A new own description with the next sequence number. -/
def ownRenewed (s : State) : State :=
  let s := { s with cst := { s.cst with lsaSeq := (s.cst.lsaSeq + 1) % 2 ^ 32, floodUp := some s.up } }
  { s with cst := { s.cst with own := some (ownEntry s) } }

theorem floodLsa_kept (hon : cstOn s = true) (hj : joined s = true) : TopoKept (ownRenewed (floodTaken s)) (floodLsa s) := by
  have hedit : TopoKept (ownRenewed (floodTaken s)) (topoEdit ownRenewed (floodTaken s)) := TopoKept.topoEdit
  unfold floodLsa
  dsimp only
  have hboth : (cstOn (floodTaken s) && joined (floodTaken s)) = true := by
    have hon' : cstOn (floodTaken s) = true := hon
    have hj' : joined (floodTaken s) = true := hj
    rw [hon', hj']
    rfl
  refine (if_pos hboth) ▸ ?_
  exact hedit.sent (SentOnly.sendFlood ..)

theorem lsaFlooded (hdue : (decide (.topology ∈ s.hoop.urgent) || elapsed s s.cst.floodUp 100) = true) (hon : cstOn s = true)
    (hj : joined s = true) : ∃ t, exec .lsaFlood s = .next t ∧ t.cst.lsaSeq = (s.cst.lsaSeq + 1) % 2 ^ 32
      ∧ t.cst.floodUp = some s.up ∧ t.cst.own.map TopoEntry.seq = some t.cst.lsaSeq := by
  have hkept := (floodLsa_kept hon hj).repairAll
  refine ⟨_, exec_lsaFlood s hdue, hkept.lsaSeq, hkept.floodUp, ?_⟩
  rw [hkept.own, hkept.lsaSeq]
  rfl

theorem lsaNotFlooded (hdue : (decide (.topology ∈ s.hoop.urgent) || elapsed s s.cst.floodUp 100) = true)
    (hoff : (cstOn s && joined s) = false) : exec .lsaFlood s = .next (floodTaken s) := by
  have hoff' : (cstOn (floodTaken s) && joined (floodTaken s)) = false := hoff
  have hne : ¬ (cstOn (floodTaken s) && joined (floodTaken s)) = true := Bool.eq_false_iff.1 hoff'
  have hflood : floodLsa s = floodTaken s := if_neg hne
  have hrepair : repairAll (floodTaken s) = floodTaken s := if_neg hne
  rw [exec_lsaFlood s hdue, hflood, hrepair]

theorem getD_map_eq_not_any {α : Type} (o : Option α) (p : α → Bool) : (o.map p).getD true = !o.any (fun x => !p x) := by
  cases o with
  | none => rfl
  | some x => exact (Bool.not_not (p x)).symm

/-- Whether a description is the device's own or no newer than the one held (R349). -/
def lsaOld (e : TopoEntry) (s : State) : Bool :=
  decide (e.uid = ownUid) || !(((s.cst.topo.find? (fun x => decide (x.uid = e.uid))).map (fun x => newer e.seq x.seq)).getD true)

/-- A newer description entered in the table. -/
def topoEntered (e : TopoEntry) (s : State) : State :=
  { s with cst := { s.cst with topo := s.cst.topo.filter (fun x => x.uid ≠ e.uid) ++ [e] } }

theorem hear_topo (uid : Nat) (s : State) : (hear uid s).cst = { s.cst with heard := (hear uid s).cst.heard } := by
  unfold hear
  split <;> rfl

theorem hear_msgTaken (uid n : Nat) (m : Nat × List Byte) (s : State) : hear uid (msgTaken n m s) = { s with
    ports := (msgTaken n m s).ports, cst := { s.cst with heard := (hear uid (msgTaken n m s)).cst.heard } } := by
  unfold hear
  split <;> rfl

theorem hear_heard {uid : Nat} (h : uid ≠ ownUid) (s : State) : smFind uid (hear uid s).cst.heard = some s.up := by
  unfold hear
  rw [if_neg h]
  exact smFind_smSet_same ..

theorem lsaOld_hear (e : TopoEntry) (uid : Nat) (s : State) : lsaOld e (hear uid s) = lsaOld e s := by
  unfold lsaOld
  rw [hear_topo]

theorem exec_lsaRx {bs : List Byte} (hfind : ((portOf s n).msgs.find? (fun m => decide (msgType m.2 = 2))).map Prod.snd = some bs)
    (hon : cstOn s = true) : ∃ m, exec (.lsaRx n) s = .next (
      let t := hear (lsaEntry bs).uid (msgTaken n m s)
      if lsaOld (lsaEntry bs) t then t
      else
        let t := passOn ((activePorts t).filter (fun p => p ≠ n)) m.1 bs t
        repairAll (numClash (lsaEntry bs).uid (lsaEntry bs).num (topoEdit (topoEntered (lsaEntry bs)) t))) := by
  obtain ⟨c, -, htake⟩ := takeMsg_some hfind
  have hexec : exec (.lsaRx n) s = execLsaRx n s := rfl
  refine ⟨(c, bs), ?_⟩
  rw [hexec, execLsaRx, htake]
  dsimp only
  rw [hon]
  rfl

theorem lsaIgnored {bs : List Byte} (hfind : ((portOf s n).msgs.find? (fun m => decide (msgType m.2 = 2))).map Prod.snd = some bs)
    (hon : cstOn s = true) (hold : (lsaEntry bs).uid = ownUid
      ∨ (s.cst.topo.find? (fun x => decide (x.uid = (lsaEntry bs).uid))).any (fun x => !newer (lsaEntry bs).seq x.seq) = true) :
    ∃ t, exec (.lsaRx n) s = .next t ∧ t.cst = { s.cst with heard := t.cst.heard } ∧ regsSame [] s t
      ∧ ((lsaEntry bs).uid ≠ ownUid → smFind (lsaEntry bs).uid t.cst.heard = some s.up)
      ∧ typedSame { s with ports := t.ports, cst := t.cst } t := by
  obtain ⟨m, hexec⟩ := exec_lsaRx hfind hon
  have hskip : lsaOld (lsaEntry bs) (hear (lsaEntry bs).uid (msgTaken n m s)) = true := by
    have hs : lsaOld (lsaEntry bs) s = true := by
      unfold lsaOld
      obtain hown | hnot := hold
      · rw [decide_eq_true hown, Bool.true_or]
      · rw [getD_map_eq_not_any, hnot, Bool.not_not, Bool.or_true]
    rw [lsaOld_hear]
    exact hs
  have hheard := hear_msgTaken (lsaEntry bs).uid n m s
  have hregs : (hear (lsaEntry bs).uid (msgTaken n m s)).regs = s.regs := by rw [hheard]
  refine ⟨hear (lsaEntry bs).uid (msgTaken n m s), hexec.trans (congrArg Host.Outcome.next (if_pos hskip)), ?_, ?_,
    fun hne => hear_heard hne _, ?_⟩
  · exact congrArg State.cst hheard
  · exact regsSame_of_regs hregs
  · unfold typedSame
    rw [hheard]

theorem noteWas_cst (a : Nat) (s : State) : (noteWas none a s).cst = s.cst := by rw [noteWas_eq]

/-- The state without its NUM, as STATUS said of it before. -/
def numLost (num : Nat) (s : State) : State :=
  let s := noteWas none (HDR.STATUS.addr pCst 0) s
  putF pCst CST.STATUS_JOINED 0 0 { s with cst := { s.cst with own := none, clash := some num } }

theorem numLost_topo (num : Nat) (s : State) : (numLost num s).cst.topo = s.cst.topo := by
  have hwas := congrArg Cst.topo (noteWas_cst (HDR.STATUS.addr pCst 0) s)
  exact hwas

theorem numLost_heard (num : Nat) (s : State) : (numLost num s).cst.heard = s.cst.heard := by
  have hwas := congrArg Cst.heard (noteWas_cst (HDR.STATUS.addr pCst 0) s)
  exact hwas

theorem numClash_table (uid num : Nat) (s : State) : (numClash uid num s).cst.topo = s.cst.topo ∧ (numClash uid num s).cst.heard = s.cst.heard := by
  unfold numClash
  split
  · have hdrop := (TopoKept.refl s).dropAll
    have hrec := fun u (h : TopoKept s u) => ((h.putF (p := pCst) (f := CST.STATUS_CONFLICT) (v := 1) (i := 0)).irqBit (p := pCst) (n := 3)).errRec
      (p := pCst) (code := 0x20) (sev := 0) (unit := 0) (info := num) (addr := uid % 2 ^ 32)
    have hwas := hrec _ hdrop
    exact ⟨TopoKept.topoEdit.topo.trans ((numLost_topo _ _).trans hwas.topo),
      TopoKept.topoEdit.heard.trans ((numLost_heard _ _).trans hwas.heard)⟩
  · exact ⟨rfl, rfl⟩

theorem lsaTaken {bs : List Byte} (hfind : ((portOf s n).msgs.find? (fun m => decide (msgType m.2 = 2))).map Prod.snd = some bs)
    (hon : cstOn s = true) (hother : (lsaEntry bs).uid ≠ ownUid)
    (hnew : (s.cst.topo.find? (fun x => decide (x.uid = (lsaEntry bs).uid))).any (fun x => !newer (lsaEntry bs).seq x.seq) = false) :
    ∃ t, exec (.lsaRx n) s = .next t ∧ smFind (lsaEntry bs).uid t.cst.heard = some s.up
      ∧ t.cst.topo = s.cst.topo.filter (fun x => x.uid ≠ (lsaEntry bs).uid) ++ [lsaEntry bs] := by
  obtain ⟨m, hexec⟩ := exec_lsaRx hfind hon
  have htake : lsaOld (lsaEntry bs) (hear (lsaEntry bs).uid (msgTaken n m s)) = false := by
    have hs : lsaOld (lsaEntry bs) s = false := by
      unfold lsaOld
      rw [decide_eq_false hother, getD_map_of_any hnew]
      rfl
    rw [lsaOld_hear]
    exact hs
  have hcst : (hear (lsaEntry bs).uid (msgTaken n m s)).cst.topo = s.cst.topo := by
    rw [hear_topo]
    rfl
  refine ⟨_, hexec.trans (congrArg Host.Outcome.next (if_neg (by rw [htake]; decide))), ?_, ?_⟩
  · rw [(TopoKept.refl _).repairAll.heard, (numClash_table _ _ _).2, TopoKept.topoEdit.heard]
    exact (congrArg (fun c : Cst => smFind (lsaEntry bs).uid c.heard) (passOn_cst ..)).trans (hear_heard hother _)
  · rw [(TopoKept.refl _).repairAll.topo, (numClash_table _ _ _).1, TopoKept.topoEdit.topo]
    exact congrArg (fun c : List TopoEntry => c.filter (fun x => x.uid ≠ (lsaEntry bs).uid) ++ [lsaEntry bs])
      ((congrArg Cst.topo (passOn_cst _ _ _ _)).trans hcst)

theorem exec_topoAgeOut (uid : Nat) (s : State) : exec (.topoAgeOut uid) s = .next (
    if !elapsed s (smFind uid s.cst.heard) 350 || !cstOn s then s
    else topoEdit (fun s => { s with cst := { s.cst with topo := s.cst.topo.filter (fun x => x.uid ≠ uid) } }) s) := rfl

theorem agedOut {uid : Nat} (hon : cstOn s = true) (hdue : elapsed s (smFind uid s.cst.heard) 350 = true) :
    ∃ t, exec (.topoAgeOut uid) s = .next t ∧ t.cst.topo = s.cst.topo.filter (fun x => x.uid ≠ uid) := by
  refine ⟨_, (exec_topoAgeOut uid s).trans (congrArg Host.Outcome.next (if_neg (by rw [hon, hdue]; decide))), ?_⟩
  exact TopoKept.topoEdit.topo

theorem notAgedOut {uid : Nat} (h : (cstOn s && elapsed s (smFind uid s.cst.heard) 350) = false) : exec (.topoAgeOut uid) s = .next s := by
  refine (exec_topoAgeOut uid s).trans (congrArg Host.Outcome.next (if_pos ?_))
  rw [Bool.or_comm, ← Bool.not_and, h]
  rfl

/-! ### The NUM (R344 to R346) -/

/-- The state with a NUM taken, as the own description says. -/
def numTaken (k : Nat) (s : State) : State :=
  let s := noteWas none (HDR.STATUS.addr pCst 0) s
  let s := putF pCst CST.STATUS_FULL 0 0 (putF pCst CST.STATUS_JOINED 1 0 (putF pCst CST.ID_CFG_NUM_F k 0 s))
  { s with cst := { s.cst with own := some (ownEntry s), oldNum := some k } }

theorem numTaken_own {k : Nat} (hk : k < 32) (s : State) : (numTaken k s).cst.own.map TopoEntry.num = some k := by
  have hnum : ∀ u, getF (putF pCst CST.STATUS_FULL 0 0 (putF pCst CST.STATUS_JOINED 1 0 (putF pCst CST.ID_CFG_NUM_F k 0 u))) pCst CST.ID_CFG_NUM_F
      = k := by
    intro u
    rw [getF_putF_reg (by decide), getF_putF_reg (by decide), getF_putF _ _ _ _ _ (by decide)]
    exact Nat.mod_eq_of_lt hk
  exact congrArg some (hnum _)

theorem joinAs_own {k : Nat} (hk : k < 32) (s : State) : (joinAs k s).cst.own.map TopoEntry.num = some k := by
  have hkept : TopoKept (numTaken k s) (topoEdit (numTaken k) s) := TopoKept.topoEdit
  have hurge : joinAs k s = urge .topology (topoEdit (numTaken k) s) := rfl
  rw [hurge, urge_eq]
  exact (congrArg (Option.map TopoEntry.num) hkept.own).trans (numTaken_own hk s)

theorem joinAs_urgent (k : Nat) (s : State) : Urgent.topology ∈ (joinAs k s).hoop.urgent := mem_urge _

/-- The lowest number that no known device announces (R344). -/
def numFree (s : State) : Option Nat := (List.range 32).find? (fun k => decide (k ∉ usedNums s))

/-- The number that a device with AUTO takes: the one it held, where that is free, else the lowest free one (R344). -/
def numWanted (k : Nat) (s : State) : Nat :=
  match s.cst.oldNum with
  | some o => if o ∈ usedNums s then k else o
  | none => k

/-- Whether the device is to take a NUM now. -/
theorem numAssign_guards (hon : cstOn s = true) (hj : joined s = false) (hact : activePorts s ≠ []) :
    ¬ (!cstOn s || joined s || decide (activePorts s = [])) = true := by
  rw [hon, hj, decide_eq_false hact]
  decide

theorem exec_numAssign_full (hon : cstOn s = true) (hj : joined s = false) (hact : activePorts s ≠ [])
    (hauto : isSet s pCst CST.ID_CFG_AUTO = true → elapsed s s.cst.activeUp 10 = true) (hfree : numFree s = none) :
    exec .numAssign s = .next (errRec pCst 0x22 0 0 0 0 (irqBit pCst 5 (putF pCst CST.STATUS_FULL 1 0 s))) := by
  have hwait : ¬ (isSet s pCst CST.ID_CFG_AUTO && !elapsed s s.cst.activeUp 10) = true := by
    simpa using hauto
  have hexec : exec .numAssign s = execNumAssign s := rfl
  unfold numFree at hfree
  rw [hexec, execNumAssign, if_neg (numAssign_guards hon hj hact)]
  dsimp only
  rw [if_neg hwait, hfree]

theorem exec_numAssign_manual {k : Nat} (hon : cstOn s = true) (hj : joined s = false) (hact : activePorts s ≠ [])
    (hauto : isSet s pCst CST.ID_CFG_AUTO = false) (hfree : numFree s = some k) (hclash : s.cst.clash ≠ some (getF s pCst CST.ID_CFG_NUM)) :
    exec .numAssign s = .next (joinAs (getF s pCst CST.ID_CFG_NUM) s) := by
  have hexec : exec .numAssign s = execNumAssign s := rfl
  unfold numFree at hfree
  rw [hexec, execNumAssign, if_neg (numAssign_guards hon hj hact)]
  dsimp only
  rw [hauto, hfree]
  exact congrArg Host.Outcome.next (if_neg hclash)

theorem exec_numAssign_auto {k : Nat} (hon : cstOn s = true) (hj : joined s = false) (hact : activePorts s ≠ [])
    (hauto : isSet s pCst CST.ID_CFG_AUTO = true) (hdue : elapsed s s.cst.activeUp 10 = true) (hfree : numFree s = some k) :
    exec .numAssign s = .next (joinAs (numWanted k s) s) := by
  have hexec : exec .numAssign s = execNumAssign s := rfl
  unfold numFree at hfree
  rw [hexec, execNumAssign, if_neg (numAssign_guards hon hj hact)]
  dsimp only
  rw [hauto, hdue, hfree]
  rfl

theorem numFree_of_exists (h : ∃ k < 32, k ∉ usedNums s) : ∃ k, numFree s = some k := by
  obtain ⟨k, hk, hu⟩ := h
  refine Option.ne_none_iff_exists'.1 fun hnone => ?_
  have hall := List.find?_eq_none.1 hnone k (List.mem_range.2 hk)
  exact hall (decide_eq_true hu)

theorem numFree_of_lowest {k : Nat} (hk : k < 32) (hu : k ∉ usedNums s) (hlow : ∀ j, j < k → j ∈ usedNums s) : numFree s = some k := by
  obtain ⟨j, hj⟩ := numFree_of_exists ⟨k, hk, hu⟩
  have hjfree : j ∉ usedNums s := of_decide_eq_true (List.find?_some (p := fun k => decide (k ∉ usedNums s)) hj)
  obtain hlt | heq | hgt := Nat.lt_trichotomy j k
  · exact absurd (hlow j hlt) hjfree
  · rw [hj, heq]
  · have hbefore := (List.find?_range_eq_some.1 hj).2.2 k hgt
    exact absurd hu (by simpa using hbefore)

theorem numFree_of_full (h : ∀ k < 32, k ∈ usedNums s) : numFree s = none := by
  refine List.find?_eq_none.2 fun k hk => ?_
  simpa using h k (List.mem_range.1 hk)

theorem joinFull (hon : cstOn s = true) (hj : joined s = false) (hact : activePorts s ≠ [])
    (hauto : isSet s pCst CST.ID_CFG_AUTO = true → elapsed s s.cst.activeUp 10 = true) (hfull : ∀ k < 32, k ∈ usedNums s) :
    ∃ t, exec .numAssign s = .next t ∧ t.cst = s.cst ∧ isSet t pCst CST.STATUS_FULL = true ∧ joined t = false
      ∧ irqStat t pCst 5 = true := by
  have hword : ∀ f : Fld, f.addr pCst 0 = CST.STATUS_FULL.addr pCst 0 →
      rdWord (errRec pCst 0x22 0 0 0 0 (irqBit pCst 5 (putF pCst CST.STATUS_FULL 1 0 s))) (f.addr pCst 0)
        = rdWord (putF pCst CST.STATUS_FULL 1 0 s) (f.addr pCst 0) := by
    intro f hf
    rw [hf, rdWord_errRec _ _ _ _ _ _ _ _ (by decide) (by decide) (by decide), irqBit, rdWord_irqSet _ _ _ _ (by decide)]
  refine ⟨_, exec_numAssign_full hon hj hact hauto (numFree_of_full hfull), ?_, ?_, ?_, ?_⟩
  · simp only [errRec_cst, irqBit_cst, putF_cst]
  · rw [isSet, getF, hword _ rfl, ← getF, ← isSet, isSet_putF (by decide)]
    rfl
  · rw [joined, isSet, getF, hword CST.STATUS_JOINED rfl, ← getF, ← isSet, isSet_putF_beside (by decide)]
    exact hj
  · exact irqStat_errRec_of (irqStat_irqBit_same (by decide))

theorem numNotTaken (h : cstOn s = false ∨ joined s = true ∨ activePorts s = []) : exec .numAssign s = .next s := by
  have hguard : (!cstOn s || joined s || decide (activePorts s = [])) = true := by
    obtain hoff | hj | hact := h
    · rw [hoff]
      rfl
    · rw [hj, Bool.or_true, Bool.true_or]
    · rw [decide_eq_true hact, Bool.or_true]
  have hexec : exec .numAssign s = execNumAssign s := rfl
  rw [hexec, execNumAssign, if_pos hguard]

/-- Settles O34. -/
theorem discovery : Obligations.Discovery := by
  intro s n hn
  refine ⟨helloSent hn, helloNotSent, fun bs hin hclash => helloTaken hin hclash,
    fun hdue => ⟨lsaFlooded hdue, fun hoff => ⟨_, lsaNotFlooded hdue hoff, rfl⟩⟩, ?_,
    fun bs hfind hon => ⟨lsaIgnored hfind hon, lsaTaken hfind hon⟩, fun uid => ⟨agedOut, notAgedOut⟩, ?_, ?_, joinFull, numNotTaken⟩
  case refine_1 => exact fun hno => congrArg Host.Outcome.next (if_neg (Bool.eq_false_iff.1 hno))
  case refine_2 =>
    intro hon hj hact hauto hex hclash
    obtain ⟨k, hk⟩ := numFree_of_exists hex
    exact ⟨_, exec_numAssign_manual hon hj hact hauto hk hclash, joinAs_own (getF_lt ..) s, joinAs_urgent _ s⟩
  case refine_3 =>
    intro hon hj hact hauto hdue k hk hu hlow
    refine ⟨_, exec_numAssign_auto hon hj hact hauto hdue (numFree_of_lowest hk hu hlow), fun hnone => ?_, fun o ho hold => ?_⟩
    · rw [numWanted, hnone]
      exact joinAs_own hk s
    · have hwant : numWanted k s = if o ∈ usedNums s then k else o := by rw [numWanted, hold]
      rw [hwant]
      refine joinAs_own ?_ s
      split <;> assumption

end Sys2Proof.Machine
end

section
/-!
PROOFS. The requests of software for routes (R356 to R359, R364) and a device that leaves the constellation (R361).
-/
namespace Sys2Proof.Machine

variable {s t : State} {who : Requester} {k : Nat}

/-! ### GO (R356) -/

/-- The fields of RQ_CTL and RQ_STAT of one requester stand in two registers. -/
theorem rqCtl_ne_rqStat {f g : Fld} (hf : f.stride = 0x1000000) (hg : g.stride = 0x1000000) (hfo : f.off = 0x068) (hgo : g.off = 0x06C) :
    g.addr pCst k ≠ f.addr pCst k := by
  simp only [Fld.addr, hf, hg, hfo, hgo]
  omega

theorem exec_rqReserve (h : busOpen s who pCst = true) (nd auto : Bool) :
    exec (.rqReserve who nd auto) s = .next (rqGo who 1 nd auto (putRqCtl (reqIdx who) 1 nd auto s)) :=
  congrArg Host.Outcome.next (viaBus_open h (k := .cst) rfl _ _ _ _ (fun hc => absurd hc (by decide)))

theorem exec_rqRelease (h : busOpen s who pCst = true) :
    exec (.rqRelease who) s = .next (rqGo who 2 false false (putF pCst CST.RQ_CTL_OP 2 (reqIdx who) s)) :=
  congrArg Host.Outcome.next (viaBus_open h (k := .cst) rfl _ _ _ _ (fun hc => absurd hc (by decide)))

theorem isSet_busy_putRqCtl (op : Nat) (nd auto : Bool) :
    isSet (putRqCtl k op nd auto s) pCst CST.RQ_STAT_BUSY k = isSet s pCst CST.RQ_STAT_BUSY k := by
  rw [putRqCtl, isSet_putF_reg (rqCtl_ne_rqStat rfl rfl rfl rfl), isSet_putF_reg (rqCtl_ne_rqStat rfl rfl rfl rfl),
    isSet_putF_reg (rqCtl_ne_rqStat rfl rfl rfl rfl)]

/-- The state with a request that waits for a safe point. -/
def rqWaiting (k op : Nat) (nd auto : Bool) (s : State) : State :=
  urge (.request k) (putF pCst CST.RQ_STAT_BUSY 1 k { s with cst := { s.cst with goes := smSet k (op, nd, auto) s.cst.goes } })

theorem rqGo_busy {op : Nat} {nd auto : Bool} (h : isSet s pCst CST.RQ_STAT_BUSY (reqIdx who) = true) :
    rqGo who op nd auto s = errRec pCst 0x25 0 0 0 0 s := if_pos h

theorem rqGo_free {op : Nat} {nd auto : Bool} (h : isSet s pCst CST.RQ_STAT_BUSY (reqIdx who) = false) :
    rqGo who op nd auto s = rqWaiting (reqIdx who) op nd auto s := if_neg (Bool.eq_false_iff.1 h)

theorem rqWaiting_eq (k op : Nat) (nd auto : Bool) (s : State) : rqWaiting k op nd auto s = { s with
    regs := (putF pCst CST.RQ_STAT_BUSY 1 k s).regs, cst := { s.cst with goes := smSet k (op, nd, auto) s.cst.goes },
    hoop := { s.hoop with urgent := (rqWaiting k op nd auto s).hoop.urgent } } := by
  unfold rqWaiting urge
  split <;> rfl

/-- Nothing but the registers, the requests that wait and the urgent services differs. -/
def rqTyped (s t : State) : Prop :=
  typedSame { s with cst := { s.cst with goes := t.cst.goes }, hoop := { s.hoop with urgent := t.hoop.urgent } } t

/-- What a GO that is taken leaves: the request that waits, and its BUSY. -/
theorem rqWaits {op : Nat} {nd auto : Bool} (u : State) (hop : getF u pCst CST.RQ_CTL_OP k = op)
    (hregs : regsSame [CST.RQ_CTL_OP.addr pCst k, CST.RQ_STAT_BUSY.addr pCst k] s u) (htyped : typedSame s u) :
    isSet (rqWaiting k op nd auto u) pCst CST.RQ_STAT_BUSY k = true ∧ getF (rqWaiting k op nd auto u) pCst CST.RQ_CTL_OP k = op
      ∧ smFind k (rqWaiting k op nd auto u).cst.goes = some (op, nd, auto)
      ∧ Urgent.request k ∈ (rqWaiting k op nd auto u).hoop.urgent
      ∧ regsSame [CST.RQ_CTL_OP.addr pCst k, CST.RQ_STAT_BUSY.addr pCst k] s (rqWaiting k op nd auto u)
      ∧ rqTyped s (rqWaiting k op nd auto u) := by
  have hreg : (rqWaiting k op nd auto u).regs = (putF pCst CST.RQ_STAT_BUSY 1 k u).regs := by rw [rqWaiting_eq]
  have hget : ∀ f i, getF (rqWaiting k op nd auto u) pCst f i = getF (putF pCst CST.RQ_STAT_BUSY 1 k u) pCst f i := by
    intro f i
    simp only [getF, rdWord, hreg]
  refine ⟨?_, ?_, ?_, mem_urge _, ?_, ?_⟩
  · rw [isSet, hget, getF_putF _ _ _ _ _ (by decide)]
    rfl
  · rw [hget, getF_putF_reg (rqCtl_ne_rqStat rfl rfl rfl rfl).symm, hop]
  · rw [rqWaiting_eq]
    exact smFind_smSet_same ..
  · have hput : regsSame [CST.RQ_CTL_OP.addr pCst k, CST.RQ_STAT_BUSY.addr pCst k] s (putF pCst CST.RQ_STAT_BUSY 1 k u) :=
      regsSame_putF (by simp) hregs
    intro a ha
    rw [← hput a ha, rdWord, rdWord, hreg]
  · unfold rqTyped
    unfold typedSame at *
    rw [rqWaiting_eq, htyped]

theorem rqTaken_reserve (h : busOpen s who pCst = true) (nd auto : Bool) (hfree : isSet s pCst CST.RQ_STAT_BUSY (reqIdx who) = false) :
    exec (.rqReserve who nd auto) s = .next (rqWaiting (reqIdx who) 1 nd auto (putRqCtl (reqIdx who) 1 nd auto s)) := by
  rw [exec_rqReserve h, rqGo_free ((isSet_busy_putRqCtl ..).trans hfree)]

theorem putRqCtl_op {nd auto : Bool} : getF (putRqCtl k 1 nd auto s) pCst CST.RQ_CTL_OP k = 1 := by
  rw [putRqCtl, getF_putF _ _ _ _ _ (by decide)]
  rfl

theorem typedSame_putRqCtl {nd auto : Bool} : typedSame s (putRqCtl k 1 nd auto s) :=
  typedSame_putF (typedSame_putF (typedSame_putF (typedSame_refl s)))

theorem regsSame_putRqCtl {nd auto : Bool} :
    regsSame [CST.RQ_CTL_OP.addr pCst k, CST.RQ_STAT_BUSY.addr pCst k] s (putRqCtl k 1 nd auto s) := by
  have hmem : ∀ {f : Fld}, f.addr pCst k = CST.RQ_CTL_OP.addr pCst k →
      f.addr pCst k ∈ [CST.RQ_CTL_OP.addr pCst k, CST.RQ_STAT_BUSY.addr pCst k] :=
    fun he => by simp [he]
  exact regsSame_putF (hmem rfl) (regsSame_putF (hmem rfl) (regsSame_putF (hmem rfl) (regsSame_refl _ _)))

/-! ### Requests taken at a safe point (R357 to R359, R364) -/

/-- The state with a request taken off the list of those that wait. -/
def rqTaken (k : Nat) (s : State) : State := { s with cst := { s.cst with goes := smErase k s.cst.goes } }

theorem cstOn_parts (h : cstOn s = true) : s.boot.fw = true ∧ isSet s pCst HDR.CTRL_EN = true ∧ isSet s pCst HDR.CTRL_FREEZE = false := by
  simp only [cstOn, Bool.and_eq_true, Bool.not_eq_true', and_assoc] at h
  exact h

theorem serveRequest_some {op : Nat} {nd auto : Bool} (hgo : smFind (reqIdx who) s.cst.goes = some (op, nd, auto)) (hon : cstOn s = true) :
    serveRequest (reqIdx who) s = if op = 1 then reserve who nd auto (rqTaken (reqIdx who) s) else release who (rqTaken (reqIdx who) s) := by
  obtain ⟨hfw, -, hfreeze⟩ := cstOn_parts hon
  unfold serveRequest
  rw [hgo]
  dsimp only
  rw [hfw, hfreeze]
  cases who <;> rfl

/-- The reservation that a request brings about (R357, R358). -/
def rqNew (who : Requester) (nd : Bool) (slot dest : Nat) (s : State) : RqState :=
  let pt := pruneTree (routeTree s nd) dest
  { route := { who := who, route := ownNum s * 2 ^ 27 + s.cst.serial, slot := slot, dest := dest, nodes := treeNodes pt (ownNum s),
               own := ownSet pt (ownNum s), ndetOk := nd }
    ask := (treeNodes pt (ownNum s)).map RouteNode.num, auto := false }

/-- The state with the next route number. -/
def serialTaken (s : State) : State := { s with cst := { s.cst with serial := (s.cst.serial + 1) % 2 ^ 27 } }

theorem reserve_asks {nd : Bool} (hj : joined s = true) (hsrc : localSource s (getF s pCst CST.RQ_SLOT_SLOT (reqIdx who)) = true)
    (hheld : slotHeld s (getF s pCst CST.RQ_SLOT_SLOT (reqIdx who)) = false)
    (hreach : reachFault s (routeTree s nd) (clrBit (getF s pCst CST.RQ_DEST (reqIdx who)) (ownNum s)) = none) :
    reserve who nd false s = rqStart (reqIdx who) (rqNew who nd (getF s pCst CST.RQ_SLOT_SLOT (reqIdx who))
      (clrBit (getF s pCst CST.RQ_DEST (reqIdx who)) (ownNum s)) s) (serialTaken s) := by
  unfold reserve
  simp only [Bool.false_eq_true, if_false, Option.getD_some, hj, hsrc, hheld, Bool.not_true, Option.isNone_some, Bool.or_self]
  rw [hreach]
  rfl

theorem reserve_unjoined {nd auto : Bool} (hj : joined s = false) : ∃ slot, reserve who nd auto s = rqRefuse (reqIdx who) slot 7 s := by
  unfold reserve
  simp only [hj, Bool.not_false, if_true]
  exact ⟨_, rfl⟩

/-- RESERVE sent to every device that a reservation asks. -/
def reserveSent (q : RqState) (s : State) : State :=
  forAll (q.route.nodes.filter (fun n => n.num ∈ q.ask)) (fun n s => sendNum n.num 1 0x10 (reserveBody q.route.route q.route.slot n.rs) s) s

theorem SentOnly.reserveSent (q : RqState) (s : State) : SentOnly s (reserveSent q s) := SentOnly.forAll fun _ _ => SentOnly.sendNum ..

/-- A reservation that asks other devices waits for their answers. -/
theorem rqStart_waits {q : RqState} (hask : q.ask ≠ []) : ∃ u, SentOnly s u ∧
    rqStart k q s = { u with cst := { u.cst with rq := smSet k { q with since := s.up } u.cst.rq } } := by
  refine ⟨reserveSent q s, SentOnly.reserveSent q s, ?_⟩
  have hneg : ¬ ({ q with since := s.up } : RqState).ask = [] := hask
  exact if_neg hneg

theorem treeNodes_num (pt : List TreeNode) (pub : Nat) : (treeNodes pt pub).map RouteNode.num = pt.map TreeNode.num := by
  simp only [treeNodes, List.map_map, Function.comp_def]

theorem reserveServed {nd : Bool} (hgo : smFind (reqIdx who) s.cst.goes = some (1, nd, false)) (hon : cstOn s = true) (hj : joined s = true)
    (hsrc : localSource s (getF s pCst CST.RQ_SLOT_SLOT (reqIdx who)) = true)
    (hheld : slotHeld s (getF s pCst CST.RQ_SLOT_SLOT (reqIdx who)) = false)
    (hreach : reachFault s (routeTree s nd) (clrBit (getF s pCst CST.RQ_DEST (reqIdx who)) (ownNum s)) = none)
    (hpt : pruneTree (routeTree s nd) (clrBit (getF s pCst CST.RQ_DEST (reqIdx who)) (ownNum s)) ≠ []) :
    (serveRequest (reqIdx who) s).cst.serial = (s.cst.serial + 1) % 2 ^ 27
      ∧ smFind (reqIdx who) (serveRequest (reqIdx who) s).cst.goes = none
      ∧ ∃ q, smFind (reqIdx who) (serveRequest (reqIdx who) s).cst.rq = some q
        ∧ q.route.slot = getF s pCst CST.RQ_SLOT_SLOT (reqIdx who)
        ∧ q.route.dest = clrBit (getF s pCst CST.RQ_DEST (reqIdx who)) (ownNum s) ∧ q.acked = [] ∧ q.since = s.up
        ∧ q.ask = (pruneTree (routeTree s nd) (clrBit (getF s pCst CST.RQ_DEST (reqIdx who)) (ownNum s))).map TreeNode.num := by
  have hasks : reserve who nd false (rqTaken (reqIdx who) s) = rqStart (reqIdx who) (rqNew who nd (getF s pCst CST.RQ_SLOT_SLOT (reqIdx who))
      (clrBit (getF s pCst CST.RQ_DEST (reqIdx who)) (ownNum s)) s) (serialTaken (rqTaken (reqIdx who) s)) :=
    reserve_asks (s := rqTaken (reqIdx who) s) hj hsrc hheld hreach
  have hask : (rqNew who nd (getF s pCst CST.RQ_SLOT_SLOT (reqIdx who)) (clrBit (getF s pCst CST.RQ_DEST (reqIdx who)) (ownNum s)) s).ask
      = (pruneTree (routeTree s nd) (clrBit (getF s pCst CST.RQ_DEST (reqIdx who)) (ownNum s))).map TreeNode.num := treeNodes_num _ _
  obtain ⟨u, hu, hstart⟩ := rqStart_waits (k := reqIdx who) (s := serialTaken (rqTaken (reqIdx who) s))
    (q := rqNew who nd (getF s pCst CST.RQ_SLOT_SLOT (reqIdx who)) (clrBit (getF s pCst CST.RQ_DEST (reqIdx who)) (ownNum s)) s) (by
      rw [hask]
      simpa using hpt)
  have hcst := hu.cst
  unfold MseqOnly at hcst
  rw [serveRequest_some hgo hon, if_pos rfl, hasks, hstart]
  refine ⟨?_, ?_, _, smFind_smSet_same .., rfl, rfl, rfl, rfl, hask⟩
  · exact (congrArg Cst.serial hcst).trans rfl
  · have hgoes := congrArg Cst.goes hcst
    exact (congrArg (smFind (reqIdx who)) hgoes).trans (smFind_smErase_same ..)

theorem rqRefuse_irq (k slot result : Nat) (s : State) : irqStat (rqRefuse k slot result s) pCst 1 = true :=
  irqStat_errRec_of (irqStat_irqBit_same (by decide))

theorem unjoinedServed {nd auto : Bool} (hgo : smFind (reqIdx who) s.cst.goes = some (1, nd, auto)) (hon : cstOn s = true)
    (hj : joined s = false) : rqEnded (reqIdx who) 7 (serveRequest (reqIdx who) s) ∧ irqStat (serveRequest (reqIdx who) s) pCst 1 = true := by
  obtain ⟨slot, hres⟩ := reserve_unjoined (who := who) (nd := nd) (auto := auto) (s := rqTaken (reqIdx who) s) hj
  rw [serveRequest_some hgo hon, if_pos rfl, hres]
  exact ⟨rqRefuse_ended _ _ (by decide) _, rqRefuse_irq ..⟩

/-- The report of a RELEASE (R359). -/
def releaseReported (k result : Nat) (s : State) : State :=
  irqBit pCst 1 (putF pCst CST.RQ_STAT_DONE 1 k (putF pCst CST.RQ_STAT_RESULT result k (putF pCst CST.RQ_STAT_BUSY 0 k s)))

theorem releaseReported_ended (k result : Nat) (s : State) : rqEnded k (result % 16) (releaseReported k result s) := by
  refine ⟨?_, ?_, ?_⟩
  · rw [releaseReported, getF, irqBit, rdWord_irqSet _ _ _ _ (rqStat_ne rfl rfl (by decide)), ← getF, getF_putF_beside (by decide),
      getF_putF _ _ _ _ _ (by decide)]
    rfl
  · rw [releaseReported, isSet_irqBit_ne (rqStat_ne rfl rfl (by decide)), isSet_putF (by decide)]
    rfl
  · rw [releaseReported, isSet_irqBit_ne (rqStat_ne rfl rfl (by decide)), isSet_putF_beside (by decide), isSet_putF_beside (by decide),
      isSet_putF (by decide)]
    rfl

theorem releaseReported_irq (k result : Nat) (s : State) : irqStat (releaseReported k result s) pCst 1 = true :=
  irqStat_irqBit_same (by decide)

theorem releaseReported_cst (k result : Nat) (s : State) : (releaseReported k result s).cst = s.cst := by
  simp only [releaseReported, irqBit_cst, putF_cst]

theorem releaseReported_free (k result : Nat) (s : State) : (releaseReported k result s).free = s.free := by
  simp only [releaseReported, irqBit_free, putF_free]

theorem release_route {r : Route} (hfind : s.cst.routes.find? (fun r => decide (r.slot = getF s pCst CST.RQ_SLOT_SLOT (reqIdx who))) = some r) :
    release who s = releaseReported (reqIdx who) 0 (putF pCst CST.RQ_STAT_GSLOT (getF s pCst CST.RQ_SLOT_SLOT (reqIdx who)) (reqIdx who)
      (dropRoute r s)) := by
  unfold release
  dsimp only
  rw [hfind]
  rfl

theorem release_none (hfind : s.cst.routes.find? (fun r => decide (r.slot = getF s pCst CST.RQ_SLOT_SLOT (reqIdx who))) = none) :
    ∃ result, release who s = releaseReported (reqIdx who) result (useFree s) := by
  unfold release
  dsimp only
  rw [hfind]
  exact ⟨_, rfl⟩

/-- RELEASE sent to every device of a route, and the route taken off the table. -/
def routeOff (r : Route) (s : State) : State :=
  let s := forAll r.nodes (fun n s => sendNum n.num 1 0x14 (routeBody r.route r.slot 0) s) s
  { s with cst := { s.cst with routes := s.cst.routes.filter (fun x => x.slot ≠ r.slot) } }

theorem routeOff_routes (r : Route) (s : State) : (routeOff r s).cst.routes = s.cst.routes.filter (fun x => x.slot ≠ r.slot) :=
  congrArg (List.filter _) (SentOnly.sendEach r.nodes RouteNode.num 1 0x14 (fun _ => routeBody r.route r.slot 0) s).cst.routes

/-- A route given up leaves the table of those that the device publishes (R359). -/
theorem dropRoute_routes (r : Route) (s : State) : (dropRoute r s).cst.routes = s.cst.routes.filter (fun x => x.slot ≠ r.slot) := by
  have hrest : ∀ u : State, u.cst.routes = s.cst.routes →
      (showPart r.who (withdrawSlot r.slot (routeOff r u))).cst.routes = s.cst.routes.filter (fun x => x.slot ≠ r.slot) := by
    intro u hu
    rw [showPart, putF_cst, withdrawSlot_cst, routeOff_routes, hu]
  unfold dropRoute
  dsimp only
  split
  · exact hrest _ (rqFail_cst ..).routes
  · exact hrest _ rfl

theorem releaseServed {r : Route} (hgo : smFind (reqIdx who) s.cst.goes = some (2, false, false)) (hon : cstOn s = true)
    (hfind : s.cst.routes.find? (fun r => decide (r.slot = getF s pCst CST.RQ_SLOT_SLOT (reqIdx who))) = some r) :
    rqEnded (reqIdx who) 0 (serveRequest (reqIdx who) s) ∧ irqStat (serveRequest (reqIdx who) s) pCst 1 = true
      ∧ (serveRequest (reqIdx who) s).cst.routes = s.cst.routes.filter (fun x => x.slot ≠ getF s pCst CST.RQ_SLOT_SLOT (reqIdx who)) := by
  have hslot : r.slot = getF s pCst CST.RQ_SLOT_SLOT (reqIdx who) :=
    of_decide_eq_true (List.find?_some (p := fun r : Route => decide (r.slot = getF s pCst CST.RQ_SLOT_SLOT (reqIdx who))) hfind)
  have hrel := release_route (s := rqTaken (reqIdx who) s) hfind
  rw [serveRequest_some hgo hon, if_neg (by decide), hrel]
  refine ⟨releaseReported_ended .., releaseReported_irq .., ?_⟩
  rw [releaseReported_cst, putF_cst, dropRoute_routes, hslot]
  rfl

theorem releaseNothing (hgo : smFind (reqIdx who) s.cst.goes = some (2, false, false)) (hon : cstOn s = true)
    (hfind : s.cst.routes.find? (fun r => decide (r.slot = getF s pCst CST.RQ_SLOT_SLOT (reqIdx who))) = none) :
    (∃ result, rqEnded (reqIdx who) result (serveRequest (reqIdx who) s)) ∧ irqStat (serveRequest (reqIdx who) s) pCst 1 = true
      ∧ (serveRequest (reqIdx who) s).cst = { s.cst with goes := smErase (reqIdx who) s.cst.goes }
      ∧ (serveRequest (reqIdx who) s).free = s.free + 1 := by
  obtain ⟨result, hrel⟩ := release_none (s := rqTaken (reqIdx who) s) hfind
  rw [serveRequest_some hgo hon, if_neg (by decide), hrel]
  exact ⟨⟨_, releaseReported_ended ..⟩, releaseReported_irq .., releaseReported_cst .., releaseReported_free ..⟩

/-! ### Replies that are missing (R359) and a device that leaves (R361) -/

theorem exec_reserveTimeout {q : RqState} (hq : smFind k s.cst.rq = some q) :
    exec (.reserveTimeout k) s = .next (if elapsed s (some q.since) 10 then rqFail k q 5 s else s) := by
  have hexec : exec (.reserveTimeout k) s = execReserveTimeout k s := rfl
  rw [hexec, execReserveTimeout, hq]

theorem exec_reserveTimeout_none (hq : smFind k s.cst.rq = none) : exec (.reserveTimeout k) s = .next s := by
  have hexec : exec (.reserveTimeout k) s = execReserveTimeout k s := rfl
  rw [hexec, execReserveTimeout, hq]

theorem reqIdx_lt (who : Requester) : reqIdx who < 2 := by
  cases who <;> decide

theorem requestTimesOut {q : RqState} (hk : k < 2) (hq : smFind k s.cst.rq = some q) (hdue : elapsed s (some q.since) 10 = true) :
    ∃ t, exec (.reserveTimeout k) s = .next t ∧ smFind k t.cst.rq = none ∧ rqEnded k 5 t := by
  refine ⟨rqFail k q 5 s, (exec_reserveTimeout hq).trans (congrArg Host.Outcome.next (if_pos hdue)), ?_, ?_⟩
  · rw [(rqFail_cst k q 5 s).rq]
    exact smFind_smErase_same ..
  · rw [rqFail_request hk]
    exact rqRefuse_ended _ _ (by decide) _

/-- The device without a NUM and without a description of its own. -/
def cstLeft (s : State) : State := putF pCst CST.STATUS_JOINED 0 0 { s with cst := { s.cst with own := none } }

theorem exec_cstLeave (h : busOpen s who pCst = true) : exec (.cstLeave who) s = .next (putF pCst HDR.CTRL_EN 0 0 (topoEdit cstLeft
    (noteWas none (HDR.STATUS.addr pCst 0) (if isSet s pCst HDR.CTRL_EN then dropAll s else s)))) :=
  congrArg Host.Outcome.next (viaBus_open h (k := .cst) rfl _ _ _ _ (fun hc => absurd hc (by decide)))

theorem leaves (h : busOpen s who pCst = true) :
    ∃ t, exec (.cstLeave who) s = .next t ∧ t.cst.own = none ∧ isSet t pCst HDR.CTRL_EN = false := by
  refine ⟨_, exec_cstLeave h, ?_, ?_⟩
  · rw [putF_cst]
    exact TopoKept.topoEdit.own
  · rw [isSet_putF (by decide)]
    rfl

/-- Settles O35. -/
theorem routeRequests : Obligations.RouteRequests := by
  intro s who nd hopen
  refine ⟨fun auto hbusy => ?_, fun auto hfree => ?_, fun hfree => ?_, fun nd hgo hon hj hsrc hheld hreach hpt => ?_,
    fun nd auto hgo hon hj => ?_, fun hgo hon => ?_, fun q hq => ⟨fun hdue => ?_, fun hearly => ?_⟩, fun key hq => exec_reserveTimeout_none hq,
    leaves hopen⟩
  case refine_1 => rw [exec_rqReserve hopen, rqGo_busy ((isSet_busy_putRqCtl ..).trans hbusy)]
  case refine_2 => exact ⟨_, rqTaken_reserve hopen nd auto hfree, rqWaits _ putRqCtl_op regsSame_putRqCtl typedSame_putRqCtl⟩
  case refine_3 =>
    have hfree' : isSet (putF pCst CST.RQ_CTL_OP 2 (reqIdx who) s) pCst CST.RQ_STAT_BUSY (reqIdx who) = false := by
      rw [isSet_putF_reg (rqCtl_ne_rqStat rfl rfl rfl rfl)]
      exact hfree
    refine ⟨_, (exec_rqRelease hopen).trans (congrArg Host.Outcome.next (rqGo_free hfree')), rqWaits _ ?_ ?_ (typedSame_putF (typedSame_refl s))⟩
    · rw [getF_putF _ _ _ _ _ (by decide)]
      rfl
    · exact regsSame_putF List.mem_cons_self (regsSame_refl _ _)
  case refine_4 => exact reserveServed hgo hon hj hsrc hheld hreach hpt
  case refine_5 =>
    obtain ⟨⟨hres, hdone, hbusy⟩, hirq⟩ := unjoinedServed (nd := nd) (auto := auto) hgo hon hj
    exact ⟨hres, hdone, hbusy, hirq⟩
  case refine_6 =>
    cases hfind : s.cst.routes.find? (fun r => decide (r.slot = getF s pCst CST.RQ_SLOT_SLOT (reqIdx who))) with
    | none =>
      obtain ⟨⟨_, -, hdone, hbusy⟩, hirq, hcst, hfree⟩ := releaseNothing hgo hon hfind
      exact ⟨hdone, hirq, hbusy, fun r hr => absurd hr (by simp), fun _ => ⟨hcst, hfree⟩⟩
    | some r =>
      obtain ⟨⟨hres, hdone, hbusy⟩, hirq, hroutes⟩ := releaseServed hgo hon hfind
      exact ⟨hdone, hirq, hbusy, fun _ _ => ⟨hres, hroutes⟩, fun hno => absurd hno (by simp)⟩
  case refine_7 =>
    obtain ⟨t, hexec, hrq, hres, hdone, hbusy⟩ := requestTimesOut (reqIdx_lt who) hq hdue
    exact ⟨t, hexec, hrq, hres, hdone, hbusy⟩
  case refine_8 => exact (exec_reserveTimeout hq).trans (congrArg Host.Outcome.next (if_neg (Bool.eq_false_iff.1 hearly)))

end Sys2Proof.Machine
end

section
/-!
PROOFS. Issue and the waits of look-ahead (R105, R139 to R147, R160).
-/
namespace Sys2Proof.Machine

variable {s s0 t : State} {b a n k : Nat}

/-! ### The stop of a tile (R153) -/

namespace BoundaryOnly

theorem showWins (h : BoundaryOnly s0 s) : BoundaryOnly s0 (showWins b s) :=
  forAll (fun _ _ hu => (hu.putF (le_tilePage b)).putF (le_tilePage b)) ((h.putF (le_tilePage b)).putF (le_tilePage b))

theorem abandonWins (h : BoundaryOnly s0 s) : BoundaryOnly s0 (abandonWins b n s) := by
  unfold Machine.abandonWins dropSets
  exact showWins (modRdo (modRdo h))

theorem raiseMark (h : BoundaryOnly s0 s) : BoundaryOnly s0 (raiseMark b n s) := ite (modRdo h) h

theorem raiseMarks {l : List Nat} (h : BoundaryOnly s0 s) : BoundaryOnly s0 (Machine.forAll l (fun i s => Machine.raiseMark b i s) s) :=
  forAll (fun _ _ hu => hu.raiseMark) h

theorem tileFlags {l : List Fld} (h : BoundaryOnly s0 s) :
    BoundaryOnly s0 (Machine.forAll l (fun g s => Machine.putF (tilePage b) g 0 0 s) s) := forAll (fun _ _ hu => hu.putF (le_tilePage b)) h

end BoundaryOnly

/-- What the stop does beyond what it takes off the Tambour is what a shot boundary does. -/
theorem stopTile_boundaryOnly {f target cause : Nat} :
    ∃ g : Tile → Tile, (∀ x, (g x).ramp = some { t0 := f, target := target } ∧ (g x).queue = [])
    ∧ BoundaryOnly (modTile b g s) (stopTile b f target cause s) := by
  refine ⟨?_, ?_, ?_⟩
  case refine_3 =>
    unfold stopTile
    dsimp only
    refine BoundaryOnly.putF (le_tilePage b) ?_
    with_reducible repeat' first
      | exact BoundaryOnly.refl _ | refine BoundaryOnly.deviceCommit ?_ | refine BoundaryOnly.boundary ?_ | refine BoundaryOnly.modRdo ?_
      | refine BoundaryOnly.abandonWins ?_ | refine BoundaryOnly.raiseMarks ?_ | refine BoundaryOnly.tileFlags ?_ | refine BoundaryOnly.ite ?_ ?_
  case refine_2 => exact fun x => ⟨rfl, rfl⟩

/-- A tile that stops is STOPPING, ramps, and holds no word any more. -/
theorem stopTile_stopping (f target cause : Nat) (s : State) : tileState (stopTile b f target cause s) b = stStopping
    ∧ (tileOf (stopTile b f target cause s) b).ramp = some { t0 := f, target := target }
    ∧ (tileOf (stopTile b f target cause s) b).queue = [] := by
  obtain ⟨g, hg, hrest⟩ := stopTile_boundaryOnly (b := b) (s := s) (f := f) (target := target) (cause := cause)
  have htile := hrest.tiles b
  obtain ⟨hramp, hqueue⟩ := hg (tileOf s b)
  unfold boundaryTile at htile
  rw [tileOf_modTile] at htile
  refine ⟨?_, ?_, ?_⟩
  · unfold tileState stopTile
    exact getF_putF _ _ _ _ _ (by decide)
  · rw [htile]
    exact hramp
  · rw [htile]
    exact hqueue

/-! ### A word that fails its parity (R160) -/

/-- The record of a machine check. -/
def wordRecorded (b w quarters : Nat) (s : State) : State :=
  errRec (tilePage b) 0x28 2 0 (w + 2 ^ 16 * quarters) 0 (irqBit (tilePage b) 1 (incSat (tilePage b) TMB.MC_STAT_CNT 0
    (putF (tilePage b) TMB.MC_STAT_ADDR w 0 (putF (tilePage b) TMB.MC_STAT_QUART quarters 0 (putF (tilePage b) TMB.MC_STAT_REFETCHED 0 0
      (forAll ((wordLines b w).filter (fun a => lineBad s a)) (fun a s => detectLine 4 a s) s))))))

theorem LineOnly.time (h : LineOnly s t) : t.time = s.time := by
  have ht := h.typed
  unfold lineTyped at ht
  rw [ht]

theorem detectLines_time (l : List Nat) (s : State) : (forAll l (fun a s => detectLine 4 a s) s).time = s.time :=
  (forAll_induction (P := LineOnly s) (g := fun a s => detectLine 4 a s) (fun _ _ hu => hu.detectLine) l (LineOnly.refl s)).time

theorem wordRecorded_time (b w quarters : Nat) (s : State) : (wordRecorded b w quarters s).time = s.time := by
  unfold wordRecorded
  rw [errRec_time, irqBit_time]
  rw [incSat_time, putF_time, putF_time, putF_time, detectLines_time]

theorem time_ite_urge {c : Prop} [Decidable c] {u : Urgent} {x : State} (h : x.time = s.time) : (if c then urge u x else x).time = s.time := by
  split
  · rw [urge_eq, h]
  · exact h

/-- A machine check stops its tile in this fc (R160). -/
theorem machineCheck_stops (b w quarters : Nat) (s : State) :
    ∃ u v, now u = now s ∧ machineCheck b w quarters s = stopTile b (now u) stHaltedMc 2 v := by
  have htime := wordRecorded_time b w quarters s
  unfold machineCheck
  unfold wordRecorded at htime
  refine ⟨_, _, ?_, rfl⟩
  exact congrArg BitVec.toNat (time_ite_urge htime)

theorem machineCheck_halts (b w quarters : Nat) (s : State) : tileState (machineCheck b w quarters s) b = stStopping
    ∧ (tileOf (machineCheck b w quarters s) b).ramp = some { t0 := now s, target := stHaltedMc }
    ∧ (tileOf (machineCheck b w quarters s) b).queue = [] := by
  obtain ⟨u, v, hnow, hstop⟩ := machineCheck_stops b w quarters s
  rw [hstop, hnow]
  exact stopTile_stopping ..

/-! ### The flow of a word (R116, R120) -/

/-- What a word in the queue is, beside its resolution. -/
def qWord (e : QEntry) : Nat × Nat × MWord := (e.addr, e.t, e.w)

theorem retire_tile (s : State) : tileOf (retire b s) b =
    { tileOf s b with released := (tileOf (retire b s) b).released, deferred := (tileOf (retire b s) b).deferred } := by
  unfold retire
  rw [tileOf_setTile]

theorem map_qWord_resolved (l : List QEntry) (tw : Nat) (r : Res) :
    (l.map (fun e => if e.t = tw then { e with res := some r } else e)).map qWord = l.map qWord := by
  rw [List.map_map]
  refine List.map_congr_left fun e _ => ?_
  simp only [Function.comp_apply]
  split <;> rfl

/-- The address that look-ahead goes on at after a word with the given branch. -/
def flowNext (addr : Nat) (w : MWord) (taken : Bool) : Option Nat :=
  if w.isStop then none else if taken then some w.tgt else if addr = 16383 then none else some (addr + 1)

/-- Whether a word branches, as it is resolved (R116, R117). -/
def flowBranch (b : Nat) (w : MWord) (r : Res) (s : State) : Bool :=
  flowTaken (isDrv b) w (tileOf s b).la (tileOf s b).shot0 (isSet s (tilePage b) TMB.TMB_STAT_UNDR) (lostOf s b w) r

/-- Look-ahead goes on behind a word whose flow is known. -/
theorem flowKnown_tile (addr tw at_ : Nat) (w : MWord) (r : Res) (s : State) :
    (tileOf (flowKnown b addr tw at_ w r s) b).waiting = none ∧ (tileOf (flowKnown b addr tw at_ w r s) b).issueAt = at_
      ∧ (tileOf (flowKnown b addr tw at_ w r s) b).nextT = tw + w.advance
      ∧ (tileOf (flowKnown b addr tw at_ w r s) b).next = flowNext addr w (flowBranch b w r s)
      ∧ (tileOf (flowKnown b addr tw at_ w r s) b).keys = (tileOf s b).keys
      ∧ (tileOf (flowKnown b addr tw at_ w r s) b).queue.map qWord = (tileOf s b).queue.map qWord := by
  unfold flowKnown putRes
  dsimp only
  rw [retire_tile, tileOf_modTile, tileOf_modTile]
  exact ⟨rfl, rfl, rfl, rfl, rfl, map_qWord_resolved ..⟩

theorem flowKnown_regs (addr tw at_ : Nat) (w : MWord) (r : Res) (s : State) : (flowKnown b addr tw at_ w r s).regs = s.regs := rfl

/-! ### What the resolution of a key leaves of the queue (R145, R146) -/

/-- The words of the queue, PC and DEPTH as they stood. -/
structure QueueKept (b : Nat) (s t : State) : Prop where
  queue : (tileOf t b).queue.map qWord = (tileOf s b).queue.map qWord
  pc : pcOf t b = pcOf s b
  depth : getF t (tilePage b) TMB.QUEUE_DEPTH = getF s (tilePage b) TMB.QUEUE_DEPTH
  time : t.time = s.time

namespace QueueKept

theorem refl (s : State) : QueueKept b s s := ⟨rfl, rfl, rfl, rfl⟩

theorem trans {u : State} (h : QueueKept b s t) (h' : QueueKept b t u) : QueueKept b s u :=
  ⟨h'.queue.trans h.queue, h'.pc.trans h.pc, h'.depth.trans h.depth, h'.time.trans h.time⟩

/-- A change of registers other than TMB_STAT and QUEUE. -/
theorem regs {l : List Nat} (h : QueueKept b s0 s) (hregs : regsSame l s t) (hpc : TMB.TMB_STAT.addr (tilePage b) 0 ∉ l)
    (hdepth : TMB.QUEUE.addr (tilePage b) 0 ∉ l) (htiles : t.tiles = s.tiles) (htime : t.time = s.time) : QueueKept b s0 t := by
  refine h.trans ⟨?_, ?_, ?_, htime⟩
  · rw [tileOf, htiles, ← tileOf]
  · exact congrArg TMB.TMB_STAT_PC.of (hregs _ hpc)
  · exact congrArg TMB.QUEUE_DEPTH.of (hregs _ hdepth)

theorem setKey {x : KeySt} (h : QueueKept b s0 s) : QueueKept b s0 (setKey b k x s) := by
  refine h.trans ⟨?_, rfl, rfl, rfl⟩
  rw [Machine.setKey, tileOf_modTile]

theorem waits {x : Option Wait} (h : QueueKept b s0 s) : QueueKept b s0 (modTile b (fun y => { y with waiting := x }) s) := by
  refine h.trans ⟨?_, rfl, rfl, rfl⟩
  rw [tileOf_modTile]

theorem flowKnown {addr tw at_ : Nat} {w : MWord} {r : Res} (h : QueueKept b s0 s) : QueueKept b s0 (flowKnown b addr tw at_ w r s) :=
  h.trans ⟨(flowKnown_tile addr tw at_ w r s).2.2.2.2.2, rfl, rfl, rfl⟩

theorem irqBit (h : QueueKept b s0 s) : QueueKept b s0 (irqBit (tilePage b) n s) :=
  h.regs (l := [HDR.IRQ_STAT.addr (tilePage b) 0]) (regsSame_irqBit List.mem_cons_self (regsSame_refl _ _))
    (by simp [Fld.addr, TMB.TMB_STAT, HDR.IRQ_STAT])
    (by simp [Fld.addr, TMB.QUEUE, HDR.IRQ_STAT]) (irqBit_tiles ..) (irqBit_time ..)

theorem incSat {f : Fld} (hoff : f.off ≠ TMB.TMB_STAT.off ∧ f.off ≠ TMB.QUEUE.off) (h : QueueKept b s0 s) :
    QueueKept b s0 (incSat (tilePage b) f 0 s) := by
  obtain ⟨hpc, hdepth⟩ := hoff
  refine h.regs (l := [f.addr (tilePage b) 0]) (regsSame_incSat List.mem_cons_self (regsSame_refl _ _)) ?_ ?_ rfl rfl
  · simp only [Fld.addr, List.mem_singleton]
    omega
  · simp only [Fld.addr, List.mem_singleton]
    omega

theorem showWait {v : Nat} (h : QueueKept b s0 s) : QueueKept b s0 (putF (tilePage b) TMB.TMB_STAT_WAIT v 0 s) := by
  refine h.trans ⟨rfl, ?_, ?_, rfl⟩
  · exact getF_putF_beside (by decide) _ _
  · refine getF_putF_reg ?_ _ _
    simp [Fld.addr, TMB.QUEUE_DEPTH, TMB.TMB_STAT_WAIT]

theorem byDefault {m : Word} (h : QueueKept b s0 s) : QueueKept b s0 (byDefault b k m s).2 :=
  setKey (irqBit (incSat ⟨by decide, by decide⟩ h))

theorem byDecision {d : Decision} (h : QueueKept b s0 s) : QueueKept b s0 (byDecision b d s).2 := incSat ⟨by decide, by decide⟩ h

end QueueKept

/-! ### Issue (R105, R139, R141) -/

theorem keyResolve_queueKept {w : Wait} {r : Res × State} (h : keyResolve b w s = some r) : QueueKept b s r.2 := by
  have hdef := QueueKept.byDefault (k := w.w.tkey) (m := govKey s b w.w.tkey) (QueueKept.refl (b := b) s)
  unfold keyResolve at h
  dsimp only at h
  split at h
  · rw [← Option.some.inj h]
    exact hdef
  · split at h
    · rw [← Option.some.inj h]
      exact hdef
    · split at h
      · rw [← Option.some.inj h]
        exact QueueKept.byDecision (QueueKept.refl s)
      · split at h
        · rw [← Option.some.inj h]
          exact hdef
        · exact absurd h (by simp)

theorem issueWait_queueKept (addr tw : Nat) (w : MWord) (s : State) : QueueKept b s (issueWait b addr tw w s) := by
  unfold issueWait
  dsimp only
  split
  · split
    · rename_i r u heq
      have hkept : QueueKept b s u := keyResolve_queueKept heq
      split
      · exact hkept.waits.showWait
      · exact hkept.flowKnown
    · exact (QueueKept.refl s).waits.showWait
  · split
    · exact (QueueKept.refl s).waits.showWait
    · exact (QueueKept.refl s).flowKnown

/-- A word that waits on nothing has its flow at once (R141). -/
theorem issueWait_flow (addr tw : Nat) {w : MWord} (s : State) (hkey : w.needsKey = false) (heval : w.needsEval = false) :
    issueWait b addr tw w s = flowKnown b addr tw (now s + 1) w {} s := by
  unfold issueWait
  rw [hkey, heval]
  rfl

/-- The state with the look-ahead of a word taken, and its arm point. -/
def lookedAhead (b : Nat) (w : MWord) (s : State) : State :=
  modTile b (fun x => { x with la := seqStep (isDrv b) w x.la, next := none })
    (if w.top = 1 then setKey b w.tkey { keyOf s b w.tkey with armPt := (tileOf s b).nextT } s else s)

theorem lookedAhead_queue (w : MWord) (s : State) : (tileOf (lookedAhead b w s) b).queue = (tileOf s b).queue := by
  unfold lookedAhead
  rw [tileOf_modTile]
  split
  · rw [setKey, tileOf_modTile]
  · rfl

theorem lookedAhead_time (w : MWord) (s : State) : (lookedAhead b w s).time = s.time := by
  unfold lookedAhead
  split <;> rfl

theorem issueWord_good {addr : Nat} (h : parityFails s b addr = 0) : issueWord b addr s =
    issueWait b addr (tileOf s b).nextT (decodeWord (storedWord s b addr))
      (enqueue b addr (tileOf s b).nextT (decodeWord (storedWord s b addr)) (lookedAhead b (decodeWord (storedWord s b addr)) s)) := by
  unfold issueWord
  dsimp only
  rw [if_neg (not_not_intro h)]
  rfl

theorem enqueue_queue (addr tw : Nat) (w : MWord) (s : State) :
    (tileOf (enqueue b addr tw w s) b).queue = (tileOf s b).queue ++ [{ addr := addr, t := tw, w := w }] := by
  have htile : tileOf (enqueue b addr tw w s) b = tileOf (modTile b (fun x => { x with
      queue := x.queue ++ [{ addr := addr, t := tw, w := w }]
      arr := smSet x.wp { addr := addr, t := tw, w := w } x.arr
      wp := (x.wp + 1) % 512 }) s) b := rfl
  rw [htile, tileOf_modTile]

theorem enqueue_time (addr tw : Nat) (w : MWord) (s : State) : (enqueue b addr tw w s).time = s.time := rfl

theorem queue_ne_tmbStat : TMB.TMB_STAT_PC.addr (tilePage b) 0 ≠ TMB.QUEUE_HWM.addr (tilePage b) 0 := by
  simp [Fld.addr, TMB.TMB_STAT_PC, TMB.QUEUE_HWM]

theorem depth_ne_tmbStat : TMB.QUEUE_DEPTH.addr (tilePage b) 0 ≠ TMB.TMB_STAT_PC.addr (tilePage b) 0 := by
  simp [Fld.addr, TMB.TMB_STAT_PC, TMB.QUEUE_DEPTH]

theorem enqueue_pc {addr : Nat} (ha : addr < 2 ^ 14) (tw : Nat) (w : MWord) (s : State) : pcOf (enqueue b addr tw w s) b = addr := by
  unfold pcOf enqueue
  dsimp only
  rw [getF_putF_reg queue_ne_tmbStat, getF_putF _ _ _ _ _ (by decide)]
  exact Nat.mod_eq_of_lt ha

theorem enqueue_depth (addr tw : Nat) (w : MWord) {s : State} (hl : (tileOf s b).queue.length < 512) :
    getF (enqueue b addr tw w s) (tilePage b) TMB.QUEUE_DEPTH = (tileOf s b).queue.length + 1 := by
  unfold enqueue
  dsimp only
  rw [getF_putF_beside (by decide), getF_putF_reg depth_ne_tmbStat, getF_putF _ _ _ _ _ (by decide), tileOf_modTile,
    List.length_append]
  exact Nat.mod_eq_of_lt (by simp only [List.length_singleton, TMB.QUEUE_DEPTH]; omega)

theorem exec_wordIssue {addr : Nat} (hnext : (tileOf s b).next = some addr) (hon : tmbOn s b = true) (hwait : (tileOf s b).waiting = none)
    (hat : (tileOf s b).issueAt ≤ now s) (hlen : (tileOf s b).queue.length < 512) : exec (.wordIssue b) s = .next (issueWord b addr s) := by
  have hexec : exec (.wordIssue b) s = execWordIssue b s := rfl
  rw [hexec, execWordIssue]
  rw [hnext]
  dsimp only
  rw [hon, hwait, decide_eq_true hat, decide_eq_true hlen]
  rfl

theorem flowNext_stop (addr : Nat) {w : MWord} (h : w.cond = 0x1F) (taken : Bool) : flowNext addr w taken = none := by
  rw [flowNext, MWord.isStop, h]
  rfl

/-- Base condition 0 is never true (R117). -/
theorem flowBranch_base {w : MWord} (h : w.csel = 0) (r : Res) (s : State) (hrsvd : w.condRsvd = false) (hstop : w.isStop = false) :
    flowBranch b w r s = w.cinv := by
  rw [flowBranch, flowTaken, hrsvd, hstop, baseCond, h]
  cases w.cinv <;> rfl

theorem issueGood {addr : Nat} (hnext : (tileOf s b).next = some addr) (hon : tmbOn s b = true) (hwait : (tileOf s b).waiting = none)
    (hat : (tileOf s b).issueAt ≤ now s) (hlen : (tileOf s b).queue.length < 512) (ha : addr < 2 ^ 14) (hpar : parityFails s b addr = 0) :
    ∃ t, exec (.wordIssue b) s = .next t
      ∧ (tileOf t b).queue.map qWord = (tileOf s b).queue.map qWord ++ [(addr, (tileOf s b).nextT, decodeWord (storedWord s b addr))]
      ∧ pcOf t b = addr ∧ getF t (tilePage b) TMB.QUEUE_DEPTH = (tileOf s b).queue.length + 1
      ∧ ((decodeWord (storedWord s b addr)).needsKey = false → (decodeWord (storedWord s b addr)).needsEval = false →
        (tileOf t b).waiting = none
        ∧ (tileOf t b).nextT = (tileOf s b).nextT + (decodeWord (storedWord s b addr)).advance
        ∧ (tileOf t b).issueAt = now s + 1
        ∧ ((decodeWord (storedWord s b addr)).cond = 0x1F → (tileOf t b).next = none)
        ∧ ((decodeWord (storedWord s b addr)).cond = 0x20 → (tileOf t b).next = some (decodeWord (storedWord s b addr)).tgt)
        ∧ ((decodeWord (storedWord s b addr)).cond = 0 → addr < 16383 → (tileOf t b).next = some (addr + 1))) := by
  generalize hw : decodeWord (storedWord s b addr) = w
  have hissue := issueWord_good hpar
  rw [hw] at hissue
  have hqueued := lookedAhead_queue (b := b) w s
  have hkept := issueWait_queueKept (b := b) addr (tileOf s b).nextT w (enqueue b addr (tileOf s b).nextT w (lookedAhead b w s))
  refine ⟨_, exec_wordIssue hnext hon hwait hat hlen, ?_, ?_, ?_, fun hkey heval => ?_⟩
  · rw [hissue, hkept.queue, enqueue_queue, hqueued, List.map_append]
    rfl
  · rw [hissue, hkept.pc, enqueue_pc ha]
  · rw [hissue, hkept.depth, enqueue_depth _ _ _ (by rw [hqueued]; exact hlen), hqueued]
  · rw [hissue, issueWait_flow _ _ _ hkey heval]
    obtain ⟨hnone, hissueAt, hnextT, hgo, -, -⟩ := flowKnown_tile (b := b) addr (tileOf s b).nextT
      (now (enqueue b addr (tileOf s b).nextT w (lookedAhead b w s)) + 1) w {} (enqueue b addr (tileOf s b).nextT w (lookedAhead b w s))
    have hnow : now (enqueue b addr (tileOf s b).nextT w (lookedAhead b w s)) = now s := by
      rw [now, enqueue_time, lookedAhead_time, now]
    refine ⟨hnone, hnextT, by rw [hissueAt, hnow], fun hc => ?_, fun hc => ?_, fun hc hlast => ?_⟩
    · rw [hgo, flowNext_stop _ hc]
    · have hrsvd : w.condRsvd = false := by simp [MWord.condRsvd, MWord.csel, hc]
      have hstop : w.isStop = false := by simp [MWord.isStop, hc]
      rw [hgo, flowBranch_base (by simp [MWord.csel, hc]) _ _ hrsvd hstop, flowNext, hstop, MWord.cinv, hc]
      rfl
    · have hrsvd : w.condRsvd = false := by simp [MWord.condRsvd, MWord.csel, hc]
      have hstop : w.isStop = false := by simp [MWord.isStop, hc]
      rw [hgo, flowBranch_base (by simp [MWord.csel, hc]) _ _ hrsvd hstop, flowNext, hstop, MWord.cinv, hc]
      exact if_neg (Nat.ne_of_lt hlast)

/-! ### Waits (R119, R145 to R147) -/

/-- The state in which look-ahead goes on behind a word that waited. -/
def waitOver (b : Nat) (w : Wait) (at_ : Nat) (r : Res) (s : State) : State :=
  putF (tilePage b) TMB.TMB_STAT_WAIT 0 0 (flowKnown b (pcOf s b) w.t at_ w.w r s)

theorem waitOver_tile (w : Wait) (at_ : Nat) (r : Res) (s : State) :
    (tileOf (waitOver b w at_ r s) b).waiting = none ∧ (tileOf (waitOver b w at_ r s) b).issueAt = at_
      ∧ (tileOf (waitOver b w at_ r s) b).nextT = w.t + w.w.advance ∧ (tileOf (waitOver b w at_ r s) b).keys = (tileOf s b).keys := by
  obtain ⟨hnone, hissueAt, hnextT, -, hkeys, -⟩ := flowKnown_tile (b := b) (pcOf s b) w.t at_ w.w r s
  exact ⟨hnone, hissueAt, hnextT, hkeys⟩

theorem waitOver_wait (w : Wait) (at_ : Nat) (r : Res) (s : State) : isSet (waitOver b w at_ r s) (tilePage b) TMB.TMB_STAT_WAIT = false := by
  rw [waitOver, isSet_putF (by decide)]
  rfl

theorem waitOver_reg (w : Wait) (at_ : Nat) (r : Res) (s : State) (ha : a ≠ TMB.TMB_STAT_WAIT.addr (tilePage b) 0) :
    rdWord (waitOver b w at_ r s) a = rdWord s a := by
  unfold waitOver putF
  rw [rdWord_wrWord_other ha, rdWord, flowKnown_regs, ← rdWord]

theorem keyDone_over {w : Wait} (heval : w.needEval = false) (r : Res) (at_ : Nat) (s : State) : keyDone b w r at_ s = waitOver b w at_ r s :=
  if_neg (Bool.eq_false_iff.1 heval)

theorem resolveDue_resolved {w : Wait} {r : Res × State} (hw : (tileOf s b).waiting = some w) (hkey : w.needKey = true)
    (heval : w.needEval = false) (hgov : govQueued s b = false) (hr : keyResolve b w s = some r) :
    resolveDue b s = waitOver b w (now s + 1) r.1 r.2 := by
  have hnow : now r.2 = now s := congrArg BitVec.toNat (keyResolve_queueKept hr).time
  have hres : keyResolve b w s = some (r.1, r.2) := hr
  unfold resolveDue
  rw [hw]
  dsimp only
  rw [hkey, hgov, hres]
  exact (keyDone_over heval ..).trans (by rw [hnow])

/-- The state in which a key has taken its default. -/
def defaulted (b : Nat) (w : Wait) (s : State) : Res × State := byDefault b w.w.tkey (govKey s b w.w.tkey) s

theorem resolveDue_unresolved {w : Wait} (hw : (tileOf s b).waiting = some w) (hkey : w.needKey = true) (heval : w.needEval = false)
    (hgov : govQueued s b = false) (hr : keyResolve b w s = none) :
    resolveDue b s = if keyDeadline (govKey s b w.w.tkey) w.t w.ts ≤ now s then
      waitOver b w (keyDeadline (govKey s b w.w.tkey) w.t w.ts + 4) (defaulted b w s).1 (defaulted b w s).2 else s := by
  unfold resolveDue
  rw [hw]
  dsimp only
  rw [hkey, hgov, hr]
  dsimp only
  rw [keyDone_over heval]
  rfl

theorem exec_tulleWait {w : Wait} (hw : (tileOf s b).waiting = some w) :
    exec (.tulleWait b) s = .next (if w.w.top = 6 then resolveDue b s else s) := by
  have hexec : exec (.tulleWait b) s = execTulleWait b s := rfl
  rw [hexec, execTulleWait, hw]

theorem exec_undrLostEval {w : Wait} (hw : (tileOf s b).waiting = some w) (hkey : w.needKey = false) (heval : w.needEval = true)
    (hgov : govQueued s b = false) (hdue : w.ts ≤ now s + 20) : exec (.undrLostEval b) s = .next (waitOver b w (w.ts - 16) w.res s) := by
  have hexec : exec (.undrLostEval b) s = execUndrLostEval b s := rfl
  rw [hexec, execUndrLostEval, hw]
  dsimp only
  rw [heval, hkey, hgov, decide_eq_true hdue]
  rfl

/-- The registers of a default taken. -/
def defaultShown (b : Nat) (s : State) : State := irqBit (tilePage b) 4 (incSat (tilePage b) TMB.DFLT_CNT 0 s)

theorem defaulted_snd (w : Wait) (s : State) : (defaulted b w s).2 = setKey b w.w.tkey
    { keyOf (defaultShown b s) b w.w.tkey with dflt := some (now (defaultShown b s)) } (defaultShown b s) := rfl

theorem keyOf_of_keys (h : (tileOf t b).keys = (tileOf s b).keys) : keyOf t b k = keyOf s b k := by rw [keyOf, h, keyOf]

theorem defaulted_key (w : Wait) (s : State) : (keyOf (defaulted b w s).2 b w.w.tkey).dflt = some (now s) := by
  have hnow : now (defaultShown b s) = now s := by rw [now, defaultShown, irqBit_time, incSat_time, now]
  rw [defaulted_snd, keyOf_setKey, hnow]

theorem defaulted_irq (w : Wait) (s : State) : irqStat (defaulted b w s).2 (tilePage b) 4 = true := by
  have hirq : irqStat (defaultShown b s) (tilePage b) 4 = true := irqStat_irqBit_same (by decide)
  exact hirq

theorem defaulted_count (w : Wait) (s : State) : getF (defaulted b w s).2 (tilePage b) TMB.DFLT_CNT
    = min (getF s (tilePage b) TMB.DFLT_CNT + 1) (2 ^ TMB.DFLT_CNT.w - 1) := by
  have hcnt : getF (defaultShown b s) (tilePage b) TMB.DFLT_CNT = min (getF s (tilePage b) TMB.DFLT_CNT + 1) (2 ^ TMB.DFLT_CNT.w - 1) := by
    rw [defaultShown, getF, irqBit, rdWord_irqSet _ _ _ _ (by simp [Fld.addr, TMB.DFLT_CNT, HDR.IRQ_STAT]), ← getF, getF_incSat (by decide)]
  exact hcnt

/-- Settles O17. -/
theorem issueAndWaits : Obligations.IssueAndWaits := by
  intro s b _
  refine ⟨fun a hnext hon hwait hat hlen ha => ⟨issueGood hnext hon hwait hat hlen ha, fun hpar => ?_⟩,
    fun w hw hkey heval hgov => ⟨fun r hr => ?_, fun hr hdue => ?_, fun hr hearly => ?_, fun htop => ?_⟩, fun w hw hkey heval hgov hdue => ?_⟩
  case refine_1 =>
    refine ⟨_, exec_wordIssue hnext hon hwait hat hlen, ?_⟩
    have hcheck : issueWord b a s = machineCheck b a (parityFails s b a) s := if_pos hpar
    rw [hcheck]
    exact machineCheck_halts ..
  case refine_2 =>
    obtain ⟨hnone, hissueAt, hnextT, -⟩ := waitOver_tile (b := b) w (now s + 1) r.1 r.2
    have hres := resolveDue_resolved hw hkey heval hgov hr
    have hexec : exec (.keyDeadline b) s = .next (resolveDue b s) := rfl
    refine ⟨⟨_, hexec.trans (congrArg Host.Outcome.next hres), hnone, hissueAt, hnextT, waitOver_wait ..⟩, fun htop => ?_⟩
    exact ⟨_, (exec_tulleWait hw).trans (congrArg Host.Outcome.next ((if_pos htop).trans hres)), hnone, hissueAt, hnextT⟩
  case refine_3 =>
    obtain ⟨hnone, hissueAt, hnextT, hkeys⟩ := waitOver_tile (b := b) w (keyDeadline (govKey s b w.w.tkey) w.t w.ts + 4)
      (defaulted b w s).1 (defaulted b w s).2
    have hres := (resolveDue_unresolved hw hkey heval hgov hr).trans (if_pos hdue)
    have hdflt := (congrArg KeySt.dflt (keyOf_of_keys (k := w.w.tkey) hkeys)).trans (defaulted_key w s)
    have hexec : exec (.keyDeadline b) s = .next (resolveDue b s) := rfl
    refine ⟨⟨_, hexec.trans (congrArg Host.Outcome.next hres), hnone, hissueAt, hnextT, hdflt, ?_, ?_⟩, fun htop => ?_⟩
    · rw [irqStat_eq_of_rdWord (waitOver_reg _ _ _ _ (by simp [Fld.addr, TMB.TMB_STAT_WAIT, HDR.IRQ_STAT]))]
      exact defaulted_irq w s
    · rw [getF, waitOver_reg _ _ _ _ (by simp [Fld.addr, TMB.TMB_STAT_WAIT, TMB.DFLT_CNT]), ← getF]
      exact defaulted_count w s
    · exact ⟨_, (exec_tulleWait hw).trans (congrArg Host.Outcome.next ((if_pos htop).trans hres)), hnone, hissueAt, hdflt⟩
  case refine_4 =>
    have hres := (resolveDue_unresolved hw hkey heval hgov hr).trans (if_neg (Nat.not_le_of_lt hearly))
    refine ⟨congrArg Host.Outcome.next hres, ?_⟩
    rw [exec_tulleWait hw, hres, ite_self]
  case refine_5 => exact (exec_tulleWait hw).trans (congrArg Host.Outcome.next (if_neg htop))
  case refine_6 =>
    obtain ⟨hnone, hissueAt, hnextT, -⟩ := waitOver_tile (b := b) w (w.ts - 16) w.res s
    exact ⟨_, exec_undrLostEval hw hkey heval hgov hdue, hnone, hissueAt, hnextT, waitOver_wait ..⟩

end Sys2Proof.Machine
end

section
/-!
PROOFS. Calibration runs, their steps, the stale timer and the slot points (R389, R393 to R397, R402).
-/
namespace Sys2Proof.Machine

variable {s s0 t : State} {who : Requester} {b i n k v : Nat} {f : Fld}

/-! ### What an evaluation of the values of a tile keeps (R391, R403) -/

/-- A register of the CAL page behind its header, of any window. -/
def calReg (a : Nat) : Prop := 0x39040 ≤ a % 0x1000000 ∧ a % 0x1000000 < 0x3A000

/-- The registers of the CAL page behind its header, the slots of the tiles, and the interrupt bits that have been raised. -/
structure CalKept (s t : State) : Prop where
  regs : ∀ a, calReg a → rdWord t a = rdWord s a
  slots : ∀ c, (calTile t c).slots = (calTile s c).slots
  irq : ∀ n, irqStat s pCal n = true → irqStat t pCal n = true

theorem calTile_modCal (g : CalTile → CalTile) (s : State) : calTile (modCal b g s) b = g (calTile s b) := smGet_smSet_same _ _ _ _

theorem calTile_modCal_other {c : Nat} (h : c ≠ b) (g : CalTile → CalTile) (s : State) : calTile (modCal b g s) c = calTile s c :=
  smGet_smSet_other _ h _ _

/-- A field of a tile's own page stands below the CAL page. -/
theorem tileAddr_lt (hb : b < 32) (hf : f.off + f.stride * i < 0x1000) : f.addr (tilePage b) i < 0x39000 := by
  simp only [Fld.addr, tilePage]
  omega

theorem tilePage_lt (hb : b < 32) : tilePage b < 0x39 := by
  unfold tilePage
  omega

theorem not_calReg_header {a : Nat} (ha : a % 0x1000 < 0x40) : ¬ calReg a := by
  unfold calReg
  omega

namespace CalKept

theorem refl (s : State) : CalKept s s := ⟨fun _ _ => rfl, fun _ => rfl, fun _ h => h⟩

theorem trans {u : State} (h : CalKept s t) (h' : CalKept t u) : CalKept s u :=
  ⟨fun a ha => (h'.regs a ha).trans (h.regs a ha), fun c => (h'.slots c).trans (h.slots c), fun n hn => h'.irq n (h.irq n hn)⟩

theorem getF (h : CalKept s t) (hf : calReg (f.addr pCal i)) : getF t pCal f i = getF s pCal f i := congrArg f.of (h.regs _ hf)

theorem putF {p : Nat} (hf : f.addr p i < 0x39000) (h : CalKept s0 s) : CalKept s0 (putF p f v i s) := by
  refine h.trans ⟨fun a ha => rdWord_wrWord_other ?_ _ _, fun _ => rfl, fun n hn => ?_⟩
  · rintro rfl
    unfold calReg at ha
    omega
  · rw [irqStat_putF]
    · exact hn
    · intro he
      rw [← he] at hf
      exact absurd hf (by decide)

theorem irqBit {p : Nat} (h : CalKept s0 s) : CalKept s0 (irqBit p n s) := by
  refine h.trans ⟨fun a ha => rdWord_irqSet _ _ _ _ ?_, fun c => ?_, fun _ hn => irqStat_irqBit_of hn⟩
  · rintro rfl
    exact not_calReg_header (by simp only [Fld.addr, HDR.IRQ_STAT]; omega) ha
  · rw [calTile, irqBit_cal, ← calTile]

theorem errRec {p code sev unit info addr : Nat} (h : CalKept s0 s) : CalKept s0 (errRec p code sev unit info addr s) := by
  refine h.trans ⟨fun a ha => rdWord_errRec _ _ _ _ _ _ _ _ ?_ ?_ ?_, fun c => ?_, fun _ hn => irqStat_errRec_of hn⟩
  · rintro rfl
    exact not_calReg_header (by simp only [Fld.addr, HDR.ERR_CNT_TOTAL]; omega) ha
  · rintro rfl
    exact not_calReg_header (by simp only [Fld.addr, HDR.IRQ_STAT]; omega) ha
  · rintro rfl
    unfold calReg at ha
    exact absurd ha (by decide)
  · rw [calTile, errRec_cal, ← calTile]

theorem ite {c : Prop} [Decidable c] {x y : State} (hx : CalKept s0 x) (hy : CalKept s0 y) : CalKept s0 (if c then x else y) := by
  split <;> assumption

theorem modCal {g : CalTile → CalTile} (hg : ∀ x, (g x).slots = x.slots) (h : CalKept s0 s) : CalKept s0 (modCal b g s) := by
  refine h.trans ⟨fun _ _ => rfl, fun c => ?_, fun _ hn => hn⟩
  by_cases hc : c = b
  · rw [hc, calTile_modCal, hg]
  · rw [calTile_modCal_other hc]

theorem putTrim {p u code unit : Nat} {use lim seq : Fld} (huse : use.addr p i < 0x39000) (hlim : lim.addr p i < 0x39000)
    (hseq : seq.addr p i < 0x39000) (h : CalKept s0 s) : CalKept s0 (putTrim p use lim seq i u code unit s) := by
  have hput := fun v w => ((h.putF (v := u) huse).putF (v := v) hlim).putF (v := w) hseq
  unfold Machine.putTrim
  dsimp only
  exact ite (errRec (irqBit (hput _ _))) (hput _ _)

theorem drvTrim (hb : b < 32) {u d : Nat} (hd : d < 2) (h : CalKept s0 s) : CalKept s0
    (Machine.putTrim (tilePage b) DRV.DAC_TRIM_TRIM_USE DRV.DAC_TRIM_LIM DRV.DAC_TRIM_SET_SEQ d u 0x33 d s) := by
  refine putTrim (tileAddr_lt hb ?_) (tileAddr_lt hb ?_) (tileAddr_lt hb ?_) h
  all_goals
    simp only [DRV.DAC_TRIM_TRIM_USE, DRV.DAC_TRIM_LIM, DRV.DAC_TRIM_SET_SEQ]
    omega

theorem adcTrims (hb : b < 32) {x y z : Nat → Nat} (h : CalKept s0 s) : CalKept s0 (forAll (List.range 16) (fun k s =>
    Machine.putF (tilePage b) RDO.ADC_IL_SKEW (z k) k (Machine.putF (tilePage b) RDO.ADC_IL_OFFS (y k) k
      (Machine.putF (tilePage b) RDO.ADC_IL_GAIN (x k) k s))) s) := by
  refine forAll_induction_mem (fun k hk u hu => ?_) h
  have hk := List.mem_range.1 hk
  refine putF (tileAddr_lt hb ?_) (putF (tileAddr_lt hb ?_) (putF (tileAddr_lt hb ?_) hu))
  all_goals
    simp only [RDO.ADC_IL_SKEW, RDO.ADC_IL_OFFS, RDO.ADC_IL_GAIN]
    omega

theorem outTrims (hb : b < 32) {x y : Nat → Nat} (h : CalKept s0 s) : CalKept s0 (forAll (List.range 16) (fun k s =>
    Machine.putF (tilePage b) FLX.OUT_TRIM_GTRIM (y k) k (Machine.putF (tilePage b) FLX.OUT_TRIM_OFFS (x k) k s)) s) := by
  refine forAll_induction_mem (fun k hk u hu => ?_) h
  have hk := List.mem_range.1 hk
  refine putF (tileAddr_lt hb ?_) (putF (tileAddr_lt hb ?_) hu)
  all_goals
    simp only [FLX.OUT_TRIM_GTRIM, FLX.OUT_TRIM_OFFS]
    omega

theorem showCal {l : List Int} (hb : b < 32) (h : CalKept s0 s) : CalKept s0 (showCal b l s) := by
  unfold Machine.showCal
  dsimp only
  split
  · exact drvTrim hb (by decide) (drvTrim hb (by decide) h)
  · refine putTrim (tileAddr_lt hb (by decide)) (tileAddr_lt hb (by decide)) (tileAddr_lt hb (by decide)) (adcTrims hb ?_)
    exact putTrim (tileAddr_lt hb (by decide)) (tileAddr_lt hb (by decide)) (tileAddr_lt hb (by decide)) h
  · have hput := fun u v => ((outTrims hb h (x := fun k => ofSigned 16 (l.getD (2 * k) 0)) (y := fun k => ofSigned 16 (l.getD (2 * k + 1) 0))).putF
      (f := FLX.FLX_STAT_TRIM_USE) (i := 0) (v := u) (tileAddr_lt hb (by decide))).putF (f := FLX.FLX_STAT_LIM) (i := 0) (v := v)
      (tileAddr_lt hb (by decide))
    exact ite (errRec (irqBit (hput _ _))) (hput _ _)

theorem calCommitTile {st : Option (List Int × Bool)} (hb : b < 32) (h : CalKept s0 s) : CalKept s0 (calCommitTile b st s) := by
  unfold Machine.calCommitTile
  dsimp only
  split
  · refine ite h ?_
    have hvals : ∀ g : CalTile → CalTile, (∀ x, (g x).slots = x.slots) → CalKept s0 (Machine.modCal b g s) := fun _ hg => modCal hg h
    refine ite (irqBit (showCal hb (hvals _ fun x => ?_))) (showCal hb (hvals _ fun x => ?_))
    all_goals
      split <;> rfl
  · exact h

theorem calEval {w : Int} {ends : Bool} (hb : b < 32) (h : CalKept s0 s) : CalKept s0 (calEval b w ends s) := by
  unfold Machine.calEval calShadow
  split
  · have hshadow : ∀ g : CalTile → CalTile, (∀ x, (g x).slots = x.slots) → CalKept s0 (Machine.modCal b g s) := fun _ hg => modCal hg h
    exact ite (hshadow _ fun _ => rfl) (calCommitTile hb (hshadow _ fun _ => rfl))
  · exact h

end CalKept

/-! ### Requests (R393) -/

/-- The registers that a request may write: PEND_MAP and the steps of the runs. -/
def pendRegs : List Nat := CAL.PEND_MAP.addr pCal 0 :: (List.range 32).map (CAL.TILE_RUN_STEPS.addr pCal)

theorem calTile_putF {p c : Nat} (u : State) : calTile (putF p f v i u) c = calTile u c := rfl

theorem calTile_stampTimer {c : Nat} (u : State) : calTile (stampTimer k u) c = calTile u c := rfl

/-- PEND_MAP with a tile's bit, and the tile's run begun anew. -/
def pendMapped (b : Nat) (s : State) : State := putF pCal CAL.PEND_MAP (setBit (getF s pCal CAL.PEND_MAP) b) 0 (calRestart b s)

/-- A run that begins on a tile (R393). -/
def pendBegun (b : Nat) (s : State) : State :=
  stampTimer (tmStale b) (stepsFrom b (pendMapped b s).up (modCal b (fun c => { c with
    snap := zoneTemp (pendMapped b s) b, snapWait := injHeld (pendMapped b s) }) (pendMapped b s)))

theorem setPending_kept (h : isSet s pCal HDR.CTRL_EN = false ∨ tileUsable s b = false ∨ calPending s b = true) : setPending b s = s := by
  refine if_pos ?_
  obtain h | h | h := h <;> simp [h]

theorem setPending_new (hen : isSet s pCal HDR.CTRL_EN = true) (huse : tileUsable s b = true) (hpend : calPending s b = false) :
    setPending b s = pendBegun b s := by
  refine if_neg ?_
  simp [hen, huse, hpend]

theorem tileUsable_lt (h : tileUsable s b = true) : b < 32 := by
  unfold tileUsable tilePresent at h
  split at h <;> simp at h <;> omega

theorem pendBegun_pending (c : Nat) (hc : c < 32) : calPending (pendBegun b s) c = if c = b then true else calPending s c := by
  have hregs : (pendBegun b s).regs = (pendMapped b s).regs := rfl
  have hmap : getF (pendBegun b s) pCal CAL.PEND_MAP = setBit (getF s pCal CAL.PEND_MAP) b % 2 ^ 32 := by
    rw [getF, rdWord, hregs, ← rdWord, ← getF, pendMapped, getF_putF _ _ _ _ _ (by decide)]
    rfl
  unfold calPending
  rw [hmap, bit_mod_two_pow hc, bit_setBit]
  split <;> simp

theorem pendBegun_tile {c : Nat} (h : c ≠ b) : calTile (pendBegun b s) c = calTile s c := by
  have hmapped : calTile (pendMapped b s) c = calTile s c := by
    rw [pendMapped, calTile_putF, calRestart, putSteps, calTile_putF]
    exact calTile_modCal_other h _ _
  rw [pendBegun, calTile_stampTimer, stepsFrom, calTile_modCal_other h, calTile_modCal_other h]
  exact hmapped

/-- What a request leaves alone: the runs that were pending already, and everything but the runs. -/
structure PendOnly (s t : State) : Prop where
  regs : regsSame pendRegs s t
  typed : typedSame { s with cal := t.cal, timers := t.timers } t
  runs : ∀ c < 32, calPending s c = true → calPending t c = true ∧ calTile t c = calTile s c

namespace PendOnly

theorem refl (s : State) : PendOnly s s := ⟨regsSame_refl _ s, rfl, fun _ _ h => ⟨h, rfl⟩⟩

theorem trans {u : State} (h : PendOnly s t) (h' : PendOnly t u) : PendOnly s u := by
  refine ⟨fun a ha => (h'.regs a ha).trans (h.regs a ha), ?_, fun c hc hp => ?_⟩
  · have ht := h.typed
    have hu := h'.typed
    unfold typedSame at *
    rw [hu, ht]
  · obtain ⟨hp', htile⟩ := h.runs c hc hp
    obtain ⟨hp'', htile'⟩ := h'.runs c hc hp'
    exact ⟨hp'', htile'.trans htile⟩

theorem usable (h : PendOnly s t) (b : Nat) : tileUsable t b = tileUsable s b := by
  have hmap := h.regs (DMP.TILE_MAP.addr 0xF 0) (by decide)
  have hvar : t.variant = s.variant := by
    have ht := h.typed
    unfold typedSame at ht
    rw [ht]
  unfold tileUsable tilePresent
  rw [hmap, hvar]

theorem enabled (h : PendOnly s t) : isSet t pCal HDR.CTRL_EN = isSet s pCal HDR.CTRL_EN :=
  congrArg (fun w => decide (HDR.CTRL_EN.of w = 1)) (h.regs (HDR.CTRL_EN.addr pCal 0) (by decide))

theorem begun (hb : b < 32) (hpend : calPending s b = false) : PendOnly s (pendBegun b s) := by
  refine ⟨?_, rfl, fun c hc hp => ?_⟩
  · have hput : regsSame pendRegs s (putF pCal CAL.PEND_MAP (setBit (getF s pCal CAL.PEND_MAP) b) 0 (putF pCal CAL.TILE_RUN_STEPS 0 b s)) :=
      regsSame_putF List.mem_cons_self (regsSame_putF (List.mem_cons_of_mem _ (List.mem_map_of_mem (List.mem_range.2 hb))) (regsSame_refl _ _))
    exact hput
  · have hne : c ≠ b := by
      rintro rfl
      exact absurd (hpend.symm.trans hp) (by decide)
    exact ⟨by rw [pendBegun_pending c hc, if_neg hne, hp], pendBegun_tile hne⟩

theorem setPending (b : Nat) (s : State) : PendOnly s (setPending b s) := by
  by_cases hkept : isSet s pCal HDR.CTRL_EN = false ∨ tileUsable s b = false ∨ calPending s b = true
  · rw [setPending_kept hkept]
    exact refl s
  · simp only [not_or, Bool.not_eq_false, Bool.not_eq_true] at hkept
    obtain ⟨hen, huse, hpend⟩ := hkept
    rw [setPending_new hen huse hpend]
    exact begun (tileUsable_lt huse) hpend

end PendOnly

theorem setPending_other {c : Nat} (hc : c < 32) (h : c ≠ b ∨ tileUsable s b = false) : calPending (setPending b s) c = calPending s c := by
  by_cases hkept : isSet s pCal HDR.CTRL_EN = false ∨ tileUsable s b = false ∨ calPending s b = true
  · rw [setPending_kept hkept]
  · simp only [not_or, Bool.not_eq_false, Bool.not_eq_true] at hkept
    obtain ⟨hen, huse, hpend⟩ := hkept
    obtain hne | hno := h
    · rw [setPending_new hen huse hpend, pendBegun_pending c hc, if_neg hne]
    · exact absurd (huse.symm.trans hno) (by decide)

theorem setPending_pends (hen : isSet s pCal HDR.CTRL_EN = true) (huse : tileUsable s b = true) : calPending (setPending b s) b = true := by
  cases hpend : calPending s b
  case true => rw [setPending_kept (.inr (.inr hpend)), hpend]
  case false => rw [setPending_new hen huse hpend, pendBegun_pending b (tileUsable_lt huse), if_pos rfl]

/-- The runs of the tiles of a mask made pending. -/
def pendAll (mask : Nat) (s : State) : State := forAll ((List.range 32).filter (fun b => bit mask b = 1)) setPending s

theorem pendAll_only (mask : Nat) (s : State) : PendOnly s (pendAll mask s) :=
  forAll_induction (P := PendOnly s) (fun b u hu => hu.trans (PendOnly.setPending b u)) _ (PendOnly.refl s)

theorem pendAll_pends {mask : Nat} (hen : isSet s pCal HDR.CTRL_EN = true) (hb : b < 32) (hm : bit mask b = 1) (huse : tileUsable s b = true) :
    calPending (pendAll mask s) b = true := by
  refine forAll_reaches (P := PendOnly s) (Q := fun u => calPending u b = true) (y := b) (fun c u hu => hu.trans (PendOnly.setPending c u))
    (fun u hu => setPending_pends (hu.enabled.trans hen) ((hu.usable b).trans huse))
    (fun c u hu => ((PendOnly.setPending c u).runs b hb hu).1) ?_ (PendOnly.refl s)
  exact List.mem_filter.2 ⟨List.mem_range.2 hb, decide_eq_true hm⟩

theorem pendAll_other {mask : Nat} (hb : b < 32) (h : bit mask b = 0 ∨ tileUsable s b = false) :
    calPending (pendAll mask s) b = calPending s b := by
  suffices hall : PendOnly s (pendAll mask s) ∧ calPending (pendAll mask s) b = calPending s b from hall.2
  refine forAll_induction_mem (P := fun u => PendOnly s u ∧ calPending u b = calPending s b) (fun c hc u hu => ?_) ⟨PendOnly.refl s, rfl⟩
  obtain ⟨hu, hp⟩ := hu
  refine ⟨hu.trans (PendOnly.setPending c u), (setPending_other hb ?_).trans hp⟩
  by_cases hbc : b = c
  · obtain hm | hno := h
    · have hm' : bit mask c = 1 := of_decide_eq_true (List.mem_filter.1 hc).2
      rw [hbc, hm'] at hm
      exact absurd hm (by decide)
    · exact .inr (by rw [hu.usable, ← hbc, hno])
  · exact .inl hbc

theorem exec_calReq (h : busOpen s who pCal = true) (mask : Nat) : exec (.calReq who mask) s = .next (pendAll mask s) :=
  congrArg Host.Outcome.next (viaBus_open h (k := .cal) rfl _ _ _ _ (fun hc => absurd hc (by decide)))

/-! ### Steps (R394 to R396) -/

/-- Whether a step may end on a tile, but for its length (R394, R405). -/
def stepReady (b : Nat) (s : State) : Bool :=
  tileUsable s b && calPending s b && calOn s && isSet s pCal CAL.CAL_CTL_EN_DAC && !(calTile s b).snapWait && measurable s b
    && isSet s 1 CLK.PLL_STAT_LOCK

/-- The measurements of a step, those of DACs that did not stay quiet left out. -/
def quietMeas (b : Nat) (meas : List (Option Int)) (s : State) : List (Option Int) := meas.mapIdx (fun d m => if quiet s b d then m else none)

theorem exec_calStepDone (b : Nat) (meas : List (Option Int)) (s : State) : exec (.calStepDone b meas) s =
    if !(tileUsable s b && calPending s b && calOn s && isSet s pCal CAL.CAL_CTL_EN_DAC && !(calTile s b).snapWait && measurable s b
      && decide ((calTile s b).stepAt + 64 ≤ s.up) && isSet s 1 CLK.PLL_STAT_LOCK) then .next s
    else
      let u := enterStep b (getF s pCal CAL.TILE_RUN_STEPS b) (quietMeas b meas s) s
      .next (if stepCount b ≤ getF u pCal CAL.TILE_RUN_STEPS b then runDone b u else u) := rfl

theorem stepNotDone {meas : List (Option Int)} (h : calPending s b = false ∨ calOn s = false ∨ isSet s pCal CAL.CAL_CTL_EN_DAC = false
    ∨ measurable s b = false ∨ s.up < (calTile s b).stepAt + 64) : exec (.calStepDone b meas) s = .next s := by
  rw [exec_calStepDone]
  refine if_pos ?_
  obtain h | h | h | h | h := h
  · simp [h]
  · simp [h]
  · simp [h]
  · simp [h]
  · simp [Nat.not_le_of_lt h]

theorem exec_calStepDone_ready {meas : List (Option Int)} (hready : stepReady b s = true) (hdue : (calTile s b).stepAt + 64 ≤ s.up) :
    exec (.calStepDone b meas) s = .next (if stepCount b ≤ getF (enterStep b (getF s pCal CAL.TILE_RUN_STEPS b) (quietMeas b meas s) s) pCal
        CAL.TILE_RUN_STEPS b
      then runDone b (enterStep b (getF s pCal CAL.TILE_RUN_STEPS b) (quietMeas b meas s) s)
      else enterStep b (getF s pCal CAL.TILE_RUN_STEPS b) (quietMeas b meas s) s) := by
  rw [exec_calStepDone]
  refine if_neg ?_
  simp only [stepReady, Bool.and_eq_true] at hready
  obtain ⟨⟨⟨⟨⟨⟨huse, hpend⟩, hon⟩, hen⟩, hwait⟩, hmeas⟩, hlock⟩ := hready
  rw [huse, hpend, hon, hen, hwait, hmeas, hlock, decide_eq_true hdue]
  decide

/-- What a step has measured on a DAC (R388, R396). -/
def partOf (b : Nat) (meas : List (Option Int)) (s : State) (d : Nat) : Option Int :=
  match (calTile s b).part.getD d none with
  | some v => some v
  | none => if dacPd s b d then none else meas.getD d none

def partList (b : Nat) (meas : List (Option Int)) (s : State) : List (Option Int) := (List.range (dacCount b)).map (partOf b meas s)

/-- The trims of a run with what a step has measured. -/
def stepTrims (b k : Nat) (part : List (Option Int)) (l : List Int) : List Int :=
  (List.range (valCount b)).map (fun i => ((List.range (dacCount b)).find? (fun d => decide (stepVal b d k = i))).elim (l.getD i 0)
    (fun d => (part.getD d none).getD (l.getD i 0)))

/-- The state with a step done on every DAC of a tile. -/
def stepEntered (b k : Nat) (part : List (Option Int)) (s : State) : State :=
  stampTimer (tmStale b) (putSteps b (k + 1) (modCal b (fun c => { c with trims := stepTrims b k part c.trims, part := [], stepAt := s.up }) s))

theorem enterStep_done {meas : List (Option Int)}
    (h : ∀ d < dacCount b, dacPd s b d = true ∨ ((partList b meas s).getD d none).isSome = true) :
    enterStep b k meas s = stepEntered b k (partList b meas s) s := by
  have hall : (List.range (dacCount b)).all (fun d => dacPd s b d || ((partList b meas s).getD d none).isSome) = true := by
    refine List.all_eq_true.2 fun d hd => Bool.or_eq_true_iff.2 (h d (List.mem_range.1 hd))
  have hneg : ¬ (!(List.range (dacCount b)).all (fun d => dacPd s b d || ((partList b meas s).getD d none).isSome)) = true := by
    rw [hall]
    decide
  have htrims : ∀ l : List Int, stepTrims b k (partList b meas s) l = (List.range (valCount b)).map (fun i =>
      match (List.range (dacCount b)).find? (fun d => decide (stepVal b d k = i)) with
      | some d => ((partList b meas s).getD d none).getD (l.getD i 0)
      | none => l.getD i 0) := by
    intro l
    refine List.map_congr_left fun i _ => ?_
    cases (List.range (dacCount b)).find? (fun d => decide (stepVal b d k = i)) <;> rfl
  unfold stepEntered
  simp only [htrims]
  exact if_neg hneg

theorem partList_getD {meas : List (Option Int)} {d : Nat} (hd : d < dacCount b) : (partList b meas s).getD d none = partOf b meas s d := by
  simp [partList, hd]

theorem quietMeas_getD (meas : List (Option Int)) (d : Nat) : (quietMeas b meas s).getD d none = if quiet s b d then meas.getD d none else none := by
  simp only [quietMeas, List.getD_eq_getElem?_getD, List.getElem?_mapIdx]
  cases meas[d]? with
  | none => simp
  | some m => rfl

theorem partOf_old {meas : List (Option Int)} {d : Nat} (h : ((calTile s b).part.getD d none).isSome = true) :
    (partOf b meas s d).isSome = true := by
  obtain ⟨v, hv⟩ := Option.isSome_iff_exists.1 h
  rw [partOf, hv]
  rfl

theorem partOf_new {meas : List (Option Int)} {d : Nat} (h : ((calTile s b).part.getD d none).isSome = false) (hpd : dacPd s b d = false) :
    partOf b meas s d = meas.getD d none := by
  rw [partOf, Option.isSome_eq_false_iff.1 h |> Option.isNone_iff_eq_none.1]
  exact if_neg (by rw [hpd]; decide)

theorem stepCount_le (b : Nat) : stepCount b ≤ 65 := by
  unfold stepCount
  split <;> decide

theorem stepEntered_tile {part : List (Option Int)} : calTile (stepEntered b k part s) b
    = { calTile s b with trims := stepTrims b k part (calTile s b).trims, part := [], stepAt := s.up } := by
  rw [stepEntered, calTile_stampTimer, putSteps, calTile_putF, calTile_modCal]

theorem stepEntered_regs {part : List (Option Int)} : (stepEntered b k part s).regs = (putF pCal CAL.TILE_RUN_STEPS (k + 1) b s).regs := rfl

theorem getF_of_regs {u w : State} (h : u.regs = w.regs) (p : Nat) (f : Fld) (i : Nat) : getF u p f i = getF w p f i := by
  rw [getF, rdWord, h, ← rdWord, ← getF]

theorem stepEntered_steps {part : List (Option Int)} (hk : k + 1 ≤ 65) :
    getF (stepEntered b k part s) pCal CAL.TILE_RUN_STEPS b = k + 1 := by
  rw [getF_of_regs stepEntered_regs, getF_putF _ _ _ _ _ (by decide)]
  exact Nat.mod_eq_of_lt (Nat.lt_of_le_of_lt hk (by decide))

theorem stepEntered_regsSame {part : List (Option Int)} : regsSame [CAL.TILE_RUN_STEPS.addr pCal b] s (stepEntered b k part s) := by
  have hput : regsSame [CAL.TILE_RUN_STEPS.addr pCal b] s (putF pCal CAL.TILE_RUN_STEPS (k + 1) b s) :=
    regsSame_putF List.mem_cons_self (regsSame_refl _ _)
  exact hput

theorem steps_ne (hf : f.off ≠ 0x0A8 ∧ f.off < 0x1000) : f.addr pCal 0 ∉ [CAL.TILE_RUN_STEPS.addr pCal b] := by
  simp only [Fld.addr, CAL.TILE_RUN_STEPS, List.mem_singleton, pCal]
  omega

theorem stepEntered_pending {part : List (Option Int)} : calPending (stepEntered b k part s) b = calPending s b :=
  congrArg (fun w => decide (bit (CAL.PEND_MAP.of w) b = 1)) (stepEntered_regsSame _ (steps_ne (f := CAL.PEND_MAP) (by decide)))

theorem stepEntered_typed {part : List (Option Int)} :
    typedSame { stampTimer (tmStale b) s with cal := (stepEntered b k part s).cal } (stepEntered b k part s) := rfl

/-- A step measures another value on every DAC of a tile (R395). -/
theorem stepVal_injective {d e : Nat} (h : stepVal b d k = stepVal b e k) : d = e := by
  unfold stepVal at h
  split at h <;> omega

theorem stepVal_lt (hb : b < 32) {d : Nat} (hd : d < dacCount b) (hk : k < stepCount b) : stepVal b d k < valCount b := by
  have hkind : (b < 16 ∧ tileKind b = .drv ∧ isFlx b = false) ∨
      (tileKind b = .rdo ∧ isFlx b = false) ∨ (tileKind b = .flx ∧ isFlx b = true) := by
    by_cases h1 : b < 16
    · exact .inl ⟨h1, by simp [tileKind, isDrv, h1], by simp [isFlx]; omega⟩
    · by_cases h2 : b < 24
      · exact .inr (.inl ⟨by simp [tileKind, isDrv, isRdo, h1, h2], by simp [isFlx]; omega⟩)
      · exact .inr (.inr ⟨by simp [tileKind, isDrv, isRdo, h1, h2], by simp [isFlx, hb]; omega⟩)
  unfold dacCount at hd
  unfold stepCount at hk
  unfold stepVal valCount
  obtain ⟨-, hkind, hflx⟩ | ⟨hkind, hflx⟩ | ⟨hkind, hflx⟩ := hkind
  all_goals
    rw [hkind] at hd ⊢
    simp [hflx] at hk hd ⊢
    omega

theorem stepTrims_getD (hb : b < 32) {d : Nat} {v : Int} {part : List (Option Int)} {l : List Int} (hd : d < dacCount b) (hk : k < stepCount b)
    (hv : part.getD d none = some v) : (stepTrims b k part l).getD (stepVal b d k) 0 = v := by
  have hfind : (List.range (dacCount b)).find? (fun e => decide (stepVal b e k = stepVal b d k)) = some d := by
    refine List.find?_range_eq_some.2 ⟨decide_eq_true rfl, List.mem_range.2 hd, fun j hj => ?_⟩
    have hne : stepVal b j k ≠ stepVal b d k := fun he => absurd (stepVal_injective he) (Nat.ne_of_lt hj)
    simpa using hne
  have hlt := stepVal_lt hb hd hk
  rw [stepTrims, List.getD_eq_getElem?_getD, List.getElem?_map, List.getElem?_range hlt]
  simp only [Option.map_some, hfind, Option.elim_some, Option.getD_some, hv]

/-- The last step but one, and every one before: what the step found is entered, and the run goes on. -/
theorem stepGoesOn {meas : List (Option Int)} (hb : b < 32) (hready : stepReady b s = true) (hdue : (calTile s b).stepAt + 64 ≤ s.up)
    (hdone : ∀ d < dacCount b, dacPd s b d = true ∨ ((partList b (quietMeas b meas s) s).getD d none).isSome = true)
    (hk : getF s pCal CAL.TILE_RUN_STEPS b + 1 < stepCount b) :
    ∃ t, exec (.calStepDone b meas) s = .next t
      ∧ getF t pCal CAL.TILE_RUN_STEPS b = getF s pCal CAL.TILE_RUN_STEPS b + 1 ∧ calPending t b = true
      ∧ (calTile t b).part = [] ∧ (calTile t b).stepAt = s.up ∧ (calTile t b).vals = (calTile s b).vals
      ∧ (∀ d ∈ List.range (dacCount b), dacPd s b d = false → ((calTile s b).part.getD d none).isSome = false →
        (meas.getD d none).isSome = true → quiet s b d = true →
        (calTile t b).trims.getD (stepVal b d (getF s pCal CAL.TILE_RUN_STEPS b)) 0 = (meas.getD d none).getD 0)
      ∧ regsSame [CAL.TILE_RUN_STEPS.addr pCal b] s t ∧ typedSame { stampTimer (tmStale b) s with cal := t.cal } t := by
  have hle := stepCount_le b
  have hsteps := stepEntered_steps (b := b) (s := s) (part := partList b (quietMeas b meas s) s)
    (k := getF s pCal CAL.TILE_RUN_STEPS b) (by omega)
  have hpend : calPending s b = true := by
    simp only [stepReady, Bool.and_eq_true] at hready
    exact hready.1.1.1.1.1.2
  have hexec := exec_calStepDone_ready (meas := meas) hready hdue
  rw [enterStep_done hdone, if_neg (by rw [hsteps]; omega)] at hexec
  refine ⟨_, hexec, hsteps, stepEntered_pending.trans hpend, ?_, ?_, ?_, fun d hd hpd hold hnew hquiet => ?_, stepEntered_regsSame, rfl⟩
  · rw [stepEntered_tile]
  · rw [stepEntered_tile]
  · rw [stepEntered_tile]
  · obtain ⟨v, hv⟩ := Option.isSome_iff_exists.1 hnew
    have hd := List.mem_range.1 hd
    have hpart : (partList b (quietMeas b meas s) s).getD d none = some v := by
      rw [partList_getD hd, partOf_new hold hpd, quietMeas_getD, if_pos hquiet, hv]
    rw [stepEntered_tile, hv]
    exact stepTrims_getD hb hd (by omega) hpart

/-! ### The end of a run (R396, R402) -/

/-- Two registers of the CAL page that stand apart in every window. -/
theorem calAddr_ne {g : Fld} {j : Nat} (hg : g.stride * j % 0x1000000 = 0) (hf : f.stride * i % 0x1000000 = 0)
    (h : f.off < 0x1000 ∧ g.off < 0x1000 ∧ g.off ≠ f.off) : g.addr pCal j ≠ f.addr pCal i := by
  obtain ⟨h1, h2, h3⟩ := h
  simp only [Fld.addr, pCal]
  omega

theorem calAddr_stat_ne {g : Fld} (h : g.off < 0x1000 ∧ g.off ≠ 0x0A4) : g.addr pCal 0 ≠ CAL.TILE_STAT.addr pCal b :=
  calAddr_ne rfl (Nat.mul_mod_right 0x1000000 b) ⟨by decide, h⟩

theorem calAddr_run_ne {g : Fld} (h : g.off < 0x1000 ∧ g.off ≠ 0x0A8) : g.addr pCal 0 ≠ CAL.TILE_RUN.addr pCal b :=
  calAddr_ne rfl (Nat.mul_mod_right 0x1000000 b) ⟨by decide, h⟩

theorem calAddr_run_stat : CAL.TILE_RUN.addr pCal b ≠ CAL.TILE_STAT.addr pCal b :=
  calAddr_ne (Nat.mul_mod_right 0x1000000 b) (Nat.mul_mod_right 0x1000000 b) (by decide)

theorem getF_calRestart {g : Fld} {j : Nat} (h : g.addr pCal j ≠ CAL.TILE_RUN.addr pCal b) :
    getF (calRestart b s) pCal g j = getF s pCal g j := by
  exact getF_putF_reg (f := CAL.TILE_RUN_STEPS) h _ _

theorem setStale_bit (hb : b < 32) (w : Bool) : bit (getF (setStale b w s) pCal CAL.STALE_MAP) b = ofBool w := by
  unfold setStale
  dsimp only
  rw [getF_putF_reg (by decide), getF_putF _ _ _ _ _ (by decide)]
  exact (bit_mod_two_pow (w := 32) hb).trans (bit_putBit_same _ _)

theorem getF_setStale {g : Fld} {j : Nat} {w : Bool} (h1 : g.addr pCal j ≠ CAL.STALE_MAP.addr pCal 0)
    (h2 : g.addr pCal j ≠ CAL.STATUS_STALE_ANY.addr pCal 0) : getF (setStale b w s) pCal g j = getF s pCal g j := by
  unfold setStale
  dsimp only
  rw [getF_putF_reg h2, getF_putF_reg h1]

theorem calAddr_window_ne {g : Fld} {j : Nat} (hg : g.stride = 0x1000000 ∧ g.off < 0x1000 ∧ 0x0A0 ≤ g.off) :
    g.addr pCal j ≠ CAL.STALE_MAP.addr pCal 0 ∧ g.addr pCal j ≠ CAL.STATUS_STALE_ANY.addr pCal 0
      ∧ g.addr pCal j ≠ CAL.PEND_MAP.addr pCal 0 := by
  obtain ⟨h1, h2, h3⟩ := hg
  simp only [Fld.addr, pCal, CAL.STALE_MAP, CAL.STATUS_STALE_ANY, CAL.PEND_MAP, h1]
  omega

/-- A tile that is no longer pending, its run begun anew, and not stale. -/
def runLeft (b : Nat) (s : State) : State :=
  setStale b false (calRestart b (putF pCal CAL.PEND_MAP (clrBit (getF s pCal CAL.PEND_MAP) b) 0 s))

/-- A run that has ended on a tile, before its check. -/
def runClosed (b : Nat) (w : Int) (s : State) : State :=
  let u := incSat pCal CAL.TILE_RUN_RUNS b (putF pCal CAL.TILE_STAT_T_RUN (ofSigned 16 w) b (runLeft b s))
  { u with cal := { u.cal with due := true } }

theorem runClosed_regs (w : Int) : (runClosed b w s).regs
    = (incSat pCal CAL.TILE_RUN_RUNS b (putF pCal CAL.TILE_STAT_T_RUN (ofSigned 16 w) b (runLeft b s))).regs := rfl

theorem getF_runLeft {g : Fld} {j : Nat} (h1 : g.addr pCal j ≠ CAL.STALE_MAP.addr pCal 0)
    (h2 : g.addr pCal j ≠ CAL.STATUS_STALE_ANY.addr pCal 0) (h3 : g.addr pCal j ≠ CAL.PEND_MAP.addr pCal 0)
    (h4 : g.addr pCal j ≠ CAL.TILE_RUN.addr pCal b) : getF (runLeft b s) pCal g j = getF s pCal g j := by
  rw [runLeft, getF_setStale h1 h2, getF_calRestart h4, getF_putF_reg h3]

theorem getF_runClosed {g : Fld} {j : Nat} {w : Int} (h1 : g.addr pCal j ≠ CAL.TILE_RUN.addr pCal b)
    (h2 : g.addr pCal j ≠ CAL.TILE_STAT.addr pCal b) : getF (runClosed b w s) pCal g j = getF (runLeft b s) pCal g j := by
  rw [getF_of_regs (runClosed_regs w), incSat, getF_putF_reg (f := CAL.TILE_RUN_RUNS) h1, getF_putF_reg (f := CAL.TILE_STAT_T_RUN) h2]

theorem runClosed_pending {w : Int} (hb : b < 32) : calPending (runClosed b w s) b = false := by
  rw [calPending, getF_runClosed (calAddr_run_ne (by decide)) (calAddr_stat_ne (by decide)), runLeft, getF_setStale (by decide) (by decide),
    getF_calRestart (calAddr_run_ne (by decide)), getF_putF _ _ _ _ _ (by decide)]
  have hbit : bit (clrBit (getF s pCal CAL.PEND_MAP) b % 2 ^ 32) b = 0 := by
    rw [bit_mod_two_pow hb, bit_clrBit, if_pos rfl]
  exact decide_eq_false (by rw [show CAL.PEND_MAP.w = 32 from rfl, hbit]; decide)

theorem runClosed_stale {w : Int} (hb : b < 32) : bit (getF (runClosed b w s) pCal CAL.STALE_MAP) b = 0 := by
  rw [getF_runClosed (calAddr_run_ne (by decide)) (calAddr_stat_ne (by decide)), runLeft, setStale_bit hb]
  rfl

theorem runClosed_steps {w : Int} : getF (runClosed b w s) pCal CAL.TILE_RUN_STEPS b = 0 := by
  obtain ⟨h1, h2, -⟩ := calAddr_window_ne (g := CAL.TILE_RUN_STEPS) (j := b) (by decide)
  rw [getF_of_regs (runClosed_regs w), incSat, getF_putF_beside (by decide),
    getF_putF_reg (f := CAL.TILE_STAT_T_RUN) (g := CAL.TILE_RUN_STEPS) calAddr_run_stat, runLeft, getF_setStale h1 h2,
    calRestart, putSteps, getF_putF _ _ _ _ _ (by decide), Nat.zero_mod]

theorem runClosed_runs {w : Int} : getF (runClosed b w s) pCal CAL.TILE_RUN_RUNS b
    = min (getF s pCal CAL.TILE_RUN_RUNS b + 1) (2 ^ CAL.TILE_RUN_RUNS.w - 1) := by
  obtain ⟨h1, h2, h3⟩ := calAddr_window_ne (g := CAL.TILE_RUN_RUNS) (j := b) (by decide)
  have hleft : getF (runLeft b s) pCal CAL.TILE_RUN_RUNS b = getF s pCal CAL.TILE_RUN_RUNS b := by
    rw [runLeft, getF_setStale h1 h2, calRestart, putSteps, getF_putF_beside (by decide)]
    exact getF_putF_reg h3 _ _
  rw [getF_of_regs (runClosed_regs w), getF_incSat (by decide),
    getF_putF_reg (f := CAL.TILE_STAT_T_RUN) (g := CAL.TILE_RUN_RUNS) calAddr_run_stat, hleft]

theorem runClosed_temp {w : Int} : getF (runClosed b w s) pCal CAL.TILE_STAT_T_RUN b = ofSigned 16 w := by
  rw [getF_of_regs (runClosed_regs w), incSat,
    getF_putF_reg (f := CAL.TILE_RUN_RUNS) (g := CAL.TILE_STAT_T_RUN) calAddr_run_stat.symm, getF_putF _ _ _ _ _ (by decide)]
  refine Nat.mod_eq_of_lt ?_
  unfold ofSigned
  exact (Int.toNat_lt' (by decide)).2 (Int.emod_lt_of_pos _ (by decide))

theorem runClosed_slots {w : Int} : (calTile (runClosed b w s) b).slots = (calTile s b).slots := by
  have htile : calTile (runClosed b w s) b = calTile (calRestart b s) b := rfl
  rw [htile, calRestart, putSteps, calTile_putF, calTile_modCal]

theorem runClosed_other {g : Fld} {w : Int} (h : 0x40 ≤ g.off ∧ g.off < 0x90) (hg : g.stride * i < 0x20) (hsum : g.off + g.stride * i < 0x90) :
    getF (runClosed b w s) pCal g i = getF s pCal g i := by
  obtain ⟨h1, h2⟩ := h
  have hne : ∀ {f : Fld} {k : Nat}, f.stride * k % 0x1000000 = 0 → f.off < 0x40 ∨ 0x90 ≤ f.off ∧ f.off < 0x1000 → g.addr pCal i ≠ f.addr pCal k := by
    intro f k hk hoff
    simp only [Fld.addr, pCal]
    omega
  rw [getF_runClosed (hne (Nat.mul_mod_right 0x1000000 b) (by decide)) (hne (Nat.mul_mod_right 0x1000000 b) (by decide)),
    getF_runLeft (hne rfl (by decide)) (hne rfl (by decide)) (hne rfl (by decide)) (hne (Nat.mul_mod_right 0x1000000 b) (by decide))]

/-- What the end of a run shows on the CAL page, whatever its check finds (R396). -/
structure RunEnds (b : Nat) (w : Int) (s t : State) : Prop where
  pending : calPending t b = false
  steps : getF t pCal CAL.TILE_RUN_STEPS b = 0
  stale : bit (getF t pCal CAL.STALE_MAP) b = 0
  temp : getF t pCal CAL.TILE_STAT_T_RUN b = ofSigned 16 w
  runs : getF t pCal CAL.TILE_RUN_RUNS b = min (getF s pCal CAL.TILE_RUN_RUNS b + 1) (2 ^ CAL.TILE_RUN_RUNS.w - 1)

theorem runClosed_ends (hb : b < 32) (w : Int) : RunEnds b w s (runClosed b w s) :=
  ⟨runClosed_pending hb, runClosed_steps, runClosed_stale hb, runClosed_temp, runClosed_runs⟩

theorem calReg_window {o : Nat} (h : 0x40 ≤ o ∧ o < 0x1000) : calReg (0x39 * 0x1000 + o + 0x1000000 * b) := by
  unfold calReg
  omega

theorem RunEnds.kept {u : State} {w : Int} (h : RunEnds b w s t) (hu : CalKept t u) : RunEnds b w s u := by
  obtain ⟨h1, h2, h3, h4, h5⟩ := h
  refine ⟨?_, ?_, ?_, ?_, ?_⟩
  · rw [calPending, hu.getF (calReg_window (b := 0) (by decide)), ← calPending, h1]
  · rw [hu.getF (calReg_window (by decide)), h2]
  · rw [hu.getF (calReg_window (b := 0) (by decide)), h3]
  · rw [hu.getF (calReg_window (by decide)), h4]
  · rw [hu.getF (calReg_window (by decide)), h5]

theorem RunEnds.showValid {x : Nat} {w : Int} (h : RunEnds b w s t) : RunEnds b w s (putF pCal CAL.TILE_STAT_VALID x b t) := by
  obtain ⟨h1, h2, h3, h4, h5⟩ := h
  refine ⟨?_, ?_, ?_, ?_, ?_⟩
  · rw [calPending, getF_putF_reg (f := CAL.TILE_STAT_VALID) (calAddr_stat_ne (by decide)), ← calPending, h1]
  · rw [getF_putF_reg (f := CAL.TILE_STAT_VALID) (g := CAL.TILE_RUN_STEPS) calAddr_run_stat, h2]
  · rw [getF_putF_reg (f := CAL.TILE_STAT_VALID) (calAddr_stat_ne (by decide)), h3]
  · rw [getF_putF_beside (by decide), h4]
  · rw [getF_putF_reg (f := CAL.TILE_STAT_VALID) (g := CAL.TILE_RUN_RUNS) calAddr_run_stat, h5]

/-- A rejection counts in the register of its item; everything else of the CAL page stays. -/
theorem calReject_kept {item reason tone unit : Nat} :
    CalKept (incSat pCal (rejFld item) 0 s) (calReject item reason b tone unit s) := by
  have hirq := (CalKept.refl (incSat pCal (rejFld item) 0 s)).irqBit (p := pCal) (n := 0)
  unfold calReject
  dsimp only
  exact CalKept.ite hirq (CalKept.errRec (CalKept.modCal (fun _ => rfl) hirq))

/-- A counter of the page that stands before the maps of the runs. -/
theorem RunEnds.counted {g : Fld} {w : Int} (hg : 0x40 ≤ g.off ∧ g.off < 0x90) (h : RunEnds b w s t) : RunEnds b w s (putF pCal g v 0 t) := by
  obtain ⟨h1, h2, h3, h4, h5⟩ := h
  have hne : ∀ {f : Fld} {k : Nat}, f.stride * k % 0x1000000 = 0 → 0x90 ≤ f.off ∧ f.off < 0x1000 → f.addr pCal k ≠ g.addr pCal 0 := by
    intro f k hk hoff
    exact calAddr_ne hk rfl (by omega)
  have hrun := Nat.mul_mod_right 0x1000000 b
  refine ⟨?_, ?_, ?_, ?_, ?_⟩
  · rw [calPending, getF_putF_reg (hne rfl (by decide)), ← calPending, h1]
  · rw [getF_putF_reg (hne hrun (by decide)), h2]
  · rw [getF_putF_reg (hne rfl (by decide)), h3]
  · rw [getF_putF_reg (hne hrun (by decide)), h4]
  · rw [getF_putF_reg (hne hrun (by decide)), h5]

theorem rejFld_dac_or_flx (b : Nat) : rejFld (if isFlx b then 3 else 2) = CAL.REJ_CNT_DAC ∨ rejFld (if isFlx b then 3 else 2) = CAL.REJ_CNT1_FLX := by
  split
  · exact .inr rfl
  · exact .inl rfl

/-- A run that the check refuses: it is counted as rejected, and the slots stay (R402). -/
theorem runRejected {g : Fld} {w : Int} (hb : b < 32) (hg : g = CAL.REJ_CNT_DAC ∨ g = CAL.REJ_CNT1_FLX)
    (hk : CalKept (incSat pCal g 0 (runClosed b w s)) t) :
    RunEnds b w s t ∧ (calTile t b).slots = (calTile s b).slots ∧ getF t pCal g = min (getF s pCal g + 1) (2 ^ g.w - 1) := by
  have hfld : (0x40 ≤ g.off ∧ g.off < 0x90) ∧ g.lo + g.w ≤ 32 ∧ calReg (g.addr pCal 0) := by
    obtain rfl | rfl := hg <;> exact ⟨by decide, by decide, calReg_window (b := 0) (by decide)⟩
  obtain ⟨hoff, hw, hreg⟩ := hfld
  refine ⟨?_, ?_, ?_⟩
  · refine RunEnds.kept ?_ hk
    rw [incSat]
    exact (runClosed_ends hb w).counted hoff
  · rw [hk.slots b, incSat, calTile_putF, runClosed_slots]
  · rw [hk.getF hreg, getF_incSat hw, runClosed_other hoff (by rw [Nat.mul_zero]; decide) (by omega)]

/-! ### The slot of a temperature (R389) -/

/-- The nearer of two points to a value, a tie to the first (R389). -/
def nearPoint (p : Nat → Int) (w : Int) (m i : Nat) : Nat := if (w - p i).natAbs < (w - p m).natAbs then i else m

theorem foldl_nearPoint_congr {p q : Nat → Int} (w : Int) (hp : ∀ k < 8, p k = q k) (l : List Nat) (m : Nat) (hl : ∀ k ∈ l, k < 8) (hm : m < 8) :
    l.foldl (nearPoint p w) m = l.foldl (nearPoint q w) m := by
  induction l generalizing m with
  | nil => rfl
  | cons k l ih =>
    have hk := hl k List.mem_cons_self
    have hstep : nearPoint p w m k = nearPoint q w m k := by rw [nearPoint, hp k hk, hp m hm, nearPoint]
    have hlt : nearPoint q w m k < 8 := by
      unfold nearPoint
      split <;> assumption
    rw [List.foldl_cons, List.foldl_cons, hstep]
    exact ih _ (fun j hj => hl j (List.mem_cons_of_mem _ hj)) hlt

theorem slotFor_eq (w : Int) : slotFor s w = (List.range 8).foldl (nearPoint (slotPoint s) w) 0 := by
  rw [slotFor]
  rfl

theorem slotFor_congr (w : Int) (hp : ∀ k < 8, getF t pCal CAL.TP_POINT k = getF s pCal CAL.TP_POINT k) : slotFor t w = slotFor s w := by
  rw [slotFor_eq, slotFor_eq]
  refine foldl_nearPoint_congr w (fun k hk => ?_) _ 0 (fun _ h => List.mem_range.1 h) (Nat.zero_lt_succ 7)
  rw [slotPoint, hp k hk, ← slotPoint]

/-- A run that the check takes is entered in the slot of its temperature (R389). -/
theorem putSlot_slots {x : CalSet} : (calTile (putSlot b i x s) b).slots = smSet i x (calTile s b).slots := by
  rw [putSlot, showValid, calTile_putF, calTile_modCal]

theorem closeBlock_slots : (calTile (closeBlock b s) b).slots = (calTile s b).slots := by
  rw [closeBlock, calTile_stampTimer, calTile_modCal]

/-- The ADC block in progress on a read-out tile closed (R398). -/
def blockClosed (b : Nat) (s : State) : State := if isRdo b then closeBlock b s else s

theorem blockClosed_regs : (blockClosed b s).regs = s.regs := by
  unfold blockClosed
  split <;> rfl

theorem blockClosed_slots : (calTile (blockClosed b s) b).slots = (calTile s b).slots := by
  unfold blockClosed
  split
  · exact closeBlock_slots
  · rfl

theorem RunEnds.of_regs {u : State} {w : Int} (h : RunEnds b w s t) (hu : u.regs = t.regs) : RunEnds b w s u := by
  obtain ⟨h1, h2, h3, h4, h5⟩ := h
  refine ⟨?_, ?_, ?_, ?_, ?_⟩
  · rw [calPending, getF_of_regs hu, ← calPending, h1]
  all_goals
    rw [getF_of_regs hu]
    assumption

/-- The state with a run taken: its set in a slot, and the values re-evaluated. -/
def runTaken (b : Nat) (w : Int) (v : List Int) (u : State) : State :=
  calEval b w true (putSlot b (slotFor u w) { temp := w, vals := v } u)

theorem runAccepted {w : Int} {v : List Int} (hb : b < 32) :
    RunEnds b w s (runTaken b w v (blockClosed b (runClosed b w s)))
      ∧ smFind (slotFor s w) (calTile (runTaken b w v (blockClosed b (runClosed b w s))) b).slots = some { temp := w, vals := v } := by
  have hk : ∀ u : State, CalKept u (calEval b w true u) := fun u => (CalKept.refl u).calEval hb
  have hslot : slotFor (blockClosed b (runClosed b w s)) w = slotFor s w := by
    refine slotFor_congr w fun k hk => ?_
    rw [getF_of_regs blockClosed_regs]
    exact runClosed_other (by decide) (by simp only [CAL.TP_POINT]; omega) (by simp only [CAL.TP_POINT]; omega)
  refine ⟨RunEnds.kept ?_ (hk _), ?_⟩
  · have hends := (runClosed_ends (s := s) hb w).of_regs (blockClosed_regs (b := b))
    exact RunEnds.showValid (hends.of_regs rfl)
  · rw [runTaken, (hk _).slots b, putSlot_slots, hslot, smFind_smSet_same]

theorem runDone_eq : runDone b s = (runCheck s b (runVals s b)).elim
    (runTaken b (calTile s b).snap (runVals s b) (blockClosed b (runClosed b (calTile s b).snap s)))
    (fun e => calReject (if isFlx b then 3 else 2) e.2 b 0 e.1 (runClosed b (calTile s b).snap s)) := by
  unfold runDone
  dsimp only
  cases runCheck s b (runVals s b) <;> rfl

/-- The end of a run: what the CAL page shows, and what the check made of the values (R396, R402). -/
theorem runDone_ends (hb : b < 32) : RunEnds b (calTile s b).snap s (runDone b s)
    ∧ (runCheck s b (runVals s b) = none → smFind (slotFor s (calTile s b).snap) (calTile (runDone b s) b).slots
      = some { temp := (calTile s b).snap, vals := runVals s b })
    ∧ (∀ e, runCheck s b (runVals s b) = some e → (calTile (runDone b s) b).slots = (calTile s b).slots
      ∧ getF (runDone b s) pCal (rejFld (if isFlx b then 3 else 2)) = min (getF s pCal (rejFld (if isFlx b then 3 else 2)) + 1)
        (2 ^ (rejFld (if isFlx b then 3 else 2)).w - 1)) := by
  cases hcheck : runCheck s b (runVals s b) with
  | none =>
    have hdone : runDone b s = runTaken b (calTile s b).snap (runVals s b) (blockClosed b (runClosed b (calTile s b).snap s)) := by
      rw [runDone_eq, hcheck, Option.elim_none]
    obtain ⟨hends, hslot⟩ := runAccepted (s := s) (w := (calTile s b).snap) (v := runVals s b) hb
    rw [hdone]
    exact ⟨hends, fun _ => hslot, fun e he => nomatch he⟩
  | some e =>
    have hdone : runDone b s = calReject (if isFlx b then 3 else 2) e.2 b 0 e.1 (runClosed b (calTile s b).snap s) := by
      rw [runDone_eq, hcheck, Option.elim_some]
    obtain ⟨hends, hslots, hrej⟩ := runRejected hb (rejFld_dac_or_flx b)
      (calReject_kept (s := runClosed b (calTile s b).snap s) (b := b) (reason := e.2) (tone := 0) (unit := e.1))
    rw [hdone]
    exact ⟨hends, (fun h => nomatch h), fun _ _ => ⟨hslots, hrej⟩⟩

theorem getF_stepEntered {g : Fld} {j k : Nat} {part : List (Option Int)} (h : g.addr pCal j ≠ CAL.TILE_RUN.addr pCal b) :
    getF (stepEntered b k part s) pCal g j = getF s pCal g j :=
  regsSame_getF stepEntered_regsSame (fun hm => h (List.mem_singleton.1 hm))

/-- The last step of a run ends it (R396, R402). -/
theorem stepEnds {meas : List (Option Int)} (hb : b < 32) (hready : stepReady b s = true) (hdue : (calTile s b).stepAt + 64 ≤ s.up)
    (hdone : ∀ d < dacCount b, dacPd s b d = true ∨ ((partList b (quietMeas b meas s) s).getD d none).isSome = true)
    (hk : getF s pCal CAL.TILE_RUN_STEPS b + 1 = stepCount b) :
    ∃ t, exec (.calStepDone b meas) s = .next t ∧ RunEnds b (calTile s b).snap s t
      ∧ (let u := enterStep b (getF s pCal CAL.TILE_RUN_STEPS b) (quietMeas b meas s) s
        (runCheck u b (runVals u b) = none →
          smFind (slotFor s (calTile s b).snap) (calTile t b).slots = some { temp := (calTile s b).snap, vals := runVals u b })
        ∧ (∀ e, runCheck u b (runVals u b) = some e → (calTile t b).slots = (calTile s b).slots
          ∧ getF t pCal (rejFld (if isFlx b then 3 else 2)) = min (getF s pCal (rejFld (if isFlx b then 3 else 2)) + 1)
            (2 ^ (rejFld (if isFlx b then 3 else 2)).w - 1))) := by
  have hle := stepCount_le b
  have hexec := exec_calStepDone_ready (meas := meas) hready hdue
  rw [enterStep_done hdone, if_pos (by rw [stepEntered_steps (by omega)]; omega)] at hexec
  obtain ⟨hends, htaken, hrefused⟩ := runDone_ends hb (s := stepEntered b (getF s pCal CAL.TILE_RUN_STEPS b)
    (partList b (quietMeas b meas s) s) s)
  have hsnap : (calTile (stepEntered b (getF s pCal CAL.TILE_RUN_STEPS b) (partList b (quietMeas b meas s) s) s) b).snap
      = (calTile s b).snap := by rw [stepEntered_tile]
  have hslots : (calTile (stepEntered b (getF s pCal CAL.TILE_RUN_STEPS b) (partList b (quietMeas b meas s) s) s) b).slots
      = (calTile s b).slots := by rw [stepEntered_tile]
  have hslot : slotFor (stepEntered b (getF s pCal CAL.TILE_RUN_STEPS b) (partList b (quietMeas b meas s) s) s) (calTile s b).snap
      = slotFor s (calTile s b).snap := by
    refine slotFor_congr _ fun k hk => getF_stepEntered ?_
    simp only [Fld.addr, CAL.TP_POINT, CAL.TILE_RUN, pCal]
    omega
  have hruns : getF (stepEntered b (getF s pCal CAL.TILE_RUN_STEPS b) (partList b (quietMeas b meas s) s) s) pCal CAL.TILE_RUN_RUNS b
      = getF s pCal CAL.TILE_RUN_RUNS b := by
    rw [getF_of_regs stepEntered_regs, getF_putF_beside (by decide)]
  have hrej : getF (stepEntered b (getF s pCal CAL.TILE_RUN_STEPS b) (partList b (quietMeas b meas s) s) s) pCal
      (rejFld (if isFlx b then 3 else 2)) = getF s pCal (rejFld (if isFlx b then 3 else 2)) := by
    refine getF_stepEntered ?_
    obtain h | h := rejFld_dac_or_flx b <;> rw [h] <;> exact calAddr_run_ne (by decide)
  rw [hsnap] at hends htaken
  rw [hslot] at htaken
  rw [hslots, hrej] at hrefused
  obtain ⟨h1, h2, h3, h4, h5⟩ := hends
  rw [hruns] at h5
  rw [enterStep_done hdone]
  exact ⟨_, hexec, ⟨h1, h2, h3, h4, h5⟩, htaken, hrefused⟩

/-! ### The stale timer (R397) -/

theorem getF_irqCal {g : Fld} {j : Nat} (h : g.addr pCal j ≠ HDR.IRQ_STAT.addr pCal 0) : getF (irqBit pCal n s) pCal g j = getF s pCal g j := by
  rw [getF, irqBit, rdWord_irqSet _ _ _ _ h, ← getF]

/-- A deferred run on a tile: it starts again, its tile is stale, and the deferral is counted. -/
def runDeferred (b : Nat) (s : State) : State :=
  incSat pCal CAL.TILE_RUN_DEFER b (stampTimer (tmStale b) (irqBit pCal 1 (setStale b true (calRestart b s))))

theorem runDeferred_regs : (runDeferred b s).regs = (incSat pCal CAL.TILE_RUN_DEFER b (irqBit pCal 1 (setStale b true (calRestart b s)))).regs := rfl

theorem getF_runDeferred {g : Fld} {j : Nat} (h1 : g.addr pCal j ≠ CAL.TILE_RUN.addr pCal b) (h2 : g.addr pCal j ≠ HDR.IRQ_STAT.addr pCal 0) :
    getF (runDeferred b s) pCal g j = getF (setStale b true (calRestart b s)) pCal g j := by
  rw [getF_of_regs runDeferred_regs, incSat, getF_putF_reg (f := CAL.TILE_RUN_DEFER) h1, getF_irqCal h2]

/-- What the stale timer of a run shows at its limit (R397). -/
structure RunStale (b : Nat) (s t : State) : Prop where
  pending : calPending t b = calPending s b
  steps : getF t pCal CAL.TILE_RUN_STEPS b = 0
  stale : bit (getF t pCal CAL.STALE_MAP) b = 1
  irq : irqStat t pCal 1 = true
  defers : getF t pCal CAL.TILE_RUN_DEFER b = min (getF s pCal CAL.TILE_RUN_DEFER b + 1) (2 ^ CAL.TILE_RUN_DEFER.w - 1)

theorem runDeferred_stale (hb : b < 32) : RunStale b s (runDeferred b s) := by
  obtain ⟨h1, h2, -⟩ := calAddr_window_ne (g := CAL.TILE_RUN) (j := b) (by decide)
  have hirq : CAL.TILE_RUN.addr pCal b ≠ HDR.IRQ_STAT.addr pCal 0 := (calAddr_run_ne (g := HDR.IRQ_STAT) (by decide)).symm
  refine ⟨?_, ?_, ?_, ?_, ?_⟩
  · rw [calPending, getF_runDeferred (calAddr_run_ne (by decide)) (by decide), getF_setStale (by decide) (by decide),
      getF_calRestart (calAddr_run_ne (by decide)), ← calPending]
  · rw [getF_of_regs runDeferred_regs, incSat, getF_putF_beside (by decide), getF_irqCal (g := CAL.TILE_RUN_STEPS) hirq,
      getF_setStale (g := CAL.TILE_RUN_STEPS) h1 h2, calRestart, putSteps, getF_putF _ _ _ _ _ (by decide), Nat.zero_mod]
  · rw [getF_runDeferred (calAddr_run_ne (by decide)) (by decide), setStale_bit hb]
    rfl
  · exact (irqStat_putF (f := CAL.TILE_RUN_DEFER) hirq.symm).trans (irqStat_irqBit_same (by decide))
  · have hin : getF (irqBit pCal 1 (setStale b true (calRestart b s))) pCal CAL.TILE_RUN_DEFER b = getF s pCal CAL.TILE_RUN_DEFER b := by
      rw [getF_irqCal (g := CAL.TILE_RUN_DEFER) hirq, getF_setStale (g := CAL.TILE_RUN_DEFER) h1 h2, calRestart, putSteps,
        getF_putF_beside (by decide)]
      rfl
    rw [getF_of_regs runDeferred_regs, getF_incSat (by decide), hin]

theorem RunStale.kept {u : State} (h : RunStale b s t) (hu : CalKept t u) : RunStale b s u := by
  obtain ⟨h1, h2, h3, h4, h5⟩ := h
  refine ⟨?_, ?_, ?_, hu.irq 1 h4, ?_⟩
  · rw [calPending, hu.getF (calReg_window (b := 0) (by decide)), ← calPending, h1]
  · rw [hu.getF (calReg_window (by decide)), h2]
  · rw [hu.getF (calReg_window (b := 0) (by decide)), h3]
  · rw [hu.getF (calReg_window (by decide)), h5]

theorem exec_calStale (b : Nat) (s : State) : exec (.calStale b) s =
    if !(calPending s b && calOn s && timerDue s (tmStale b) (staleLimit s)) then .next s
    else .next (calEval b (zoneTemp (errRec pCal 0x21 0 0 (b + 256 * getF s pCal CAL.TILE_RUN_STEPS b) 0 (runDeferred b s)) b) false
      (errRec pCal 0x21 0 0 (b + 256 * getF s pCal CAL.TILE_RUN_STEPS b) 0 (runDeferred b s))) := rfl

theorem calStale_due (hb : b < 32) (hpend : calPending s b = true) (hon : calOn s = true)
    (hdue : timerDue s (tmStale b) (staleLimit s) = true) : ∃ t, exec (.calStale b) s = .next t ∧ RunStale b s t := by
  rw [exec_calStale, if_neg (by rw [hpend, hon, hdue]; decide)]
  exact ⟨_, rfl, (runDeferred_stale hb).kept (CalKept.calEval hb (CalKept.errRec (CalKept.refl _)))⟩

theorem calStale_not_due (h : calPending s b = false ∨ calOn s = false ∨ timerDue s (tmStale b) (staleLimit s) = false) :
    exec (.calStale b) s = .next s := by
  rw [exec_calStale]
  refine if_pos ?_
  obtain h | h | h := h <;> simp [h]

/-! ### The slot points (R389) -/

/-- The registers that a write of a slot point may change. -/
def pointRegs (i : Nat) : List Nat := CAL.TP_POINT.addr pCal i :: (List.range 32).map (CAL.TILE_STAT_VALID.addr pCal)

theorem dropSlot_slots : (calTile (dropSlot b i s) b).slots = smErase i (calTile s b).slots := by
  rw [dropSlot, showValid, calTile_putF, calTile_modCal]

theorem dropSlot_other {c : Nat} (h : c ≠ b) : calTile (dropSlot b i s) c = calTile s c := by
  rw [dropSlot, showValid, calTile_putF, calTile_modCal_other h]

theorem dropSlot_find {c j : Nat} (h : j ≠ i) : smFind j (calTile (dropSlot b i s) c).slots = smFind j (calTile s c).slots := by
  by_cases hc : c = b
  · rw [hc, dropSlot_slots, smFind_smErase_other h]
  · rw [dropSlot_other hc]

theorem dropSlot_none {c : Nat} (h : c = b ∨ smFind i (calTile s c).slots = none) : smFind i (calTile (dropSlot b i s) c).slots = none := by
  by_cases hc : c = b
  · rw [hc, dropSlot_slots, smFind_smErase_same]
  · rw [dropSlot_other hc]
    exact h.resolve_left hc

theorem dropSlot_regsSame (hb : b < 32) : regsSame ((List.range 32).map (CAL.TILE_STAT_VALID.addr pCal)) s (dropSlot b i s) :=
  regsSame_putF (List.mem_map_of_mem (List.mem_range.2 hb)) (regsSame_of_regs rfl)

/-- What emptying a slot of every tile keeps. -/
structure SlotDropped (i : Nat) (s t : State) : Prop where
  regs : regsSame ((List.range 32).map (CAL.TILE_STAT_VALID.addr pCal)) s t
  others : ∀ c j, j ≠ i → smFind j (calTile t c).slots = smFind j (calTile s c).slots
  typed : typedSame { s with cal := t.cal } t

theorem dropSlot_all : SlotDropped i s (forAll (List.range 32) (fun b => dropSlot b i) s)
    ∧ ∀ c < 32, smFind i (calTile (forAll (List.range 32) (fun b => dropSlot b i) s) c).slots = none := by
  have hstep : ∀ c ∈ List.range 32, ∀ u, SlotDropped i s u → SlotDropped i s (dropSlot c i u) := by
    intro c hc u hu
    refine ⟨regsSame_trans hu.regs (dropSlot_regsSame (List.mem_range.1 hc)), fun d j hj => (dropSlot_find hj).trans (hu.others d j hj), ?_⟩
    have ht := hu.typed
    have hdrop : typedSame { u with cal := (dropSlot c i u).cal } (dropSlot c i u) := rfl
    unfold typedSame at *
    rw [hdrop, ht]
  refine ⟨forAll_induction_mem hstep ⟨regsSame_refl _ _, fun _ _ _ => rfl, rfl⟩, fun c hc => ?_⟩
  exact forAll_reaches (P := fun _ => True) (Q := fun u => smFind i (calTile u c).slots = none) (y := c) (fun _ _ _ => trivial)
    (fun u _ => dropSlot_none (.inl rfl)) (fun d u hu => dropSlot_none (.inr hu)) (List.mem_range.2 hc) trivial

theorem exec_tpWrite (h : busOpen s who pCal = true) (i v : Nat) : exec (.tpWrite who i v) s = .next (tpWriteEffect i v s) :=
  congrArg Host.Outcome.next (viaBus_open h (k := .cal) rfl _ _ _ _ (fun hc => absurd hc (by decide)))

theorem pointAddr_ne (hi : i < 8) : CAL.TP_POINT.addr pCal i ∉ (List.range 32).map (CAL.TILE_STAT_VALID.addr pCal) := by
  intro hm
  obtain ⟨c, -, hc⟩ := List.mem_map.1 hm
  simp only [Fld.addr, CAL.TP_POINT, CAL.TILE_STAT_VALID, pCal] at hc
  omega

theorem tpWriteEffect_done (hi : i < 8) (hv : v < 65536) : getF (tpWriteEffect i v s) pCal CAL.TP_POINT i = v
    ∧ (∀ c < 32, smFind i (calTile (tpWriteEffect i v s) c).slots = none)
    ∧ (∀ c < 32, ∀ j, j ≠ i → smFind j (calTile (tpWriteEffect i v s) c).slots = smFind j (calTile s c).slots)
    ∧ regsSame (pointRegs i) s (tpWriteEffect i v s) ∧ typedSame { s with cal := (tpWriteEffect i v s).cal } (tpWriteEffect i v s) := by
  obtain ⟨hdrop, hnone⟩ := dropSlot_all (i := i) (s := putF pCal CAL.TP_POINT v i s)
  obtain ⟨hregs, hothers, htyped⟩ := hdrop
  unfold tpWriteEffect
  refine ⟨?_, hnone, fun c _ => hothers c, ?_, ?_⟩
  · rw [regsSame_getF hregs (pointAddr_ne hi), getF_putF _ _ _ _ _ (by decide)]
    exact Nat.mod_eq_of_lt hv
  · have hput : regsSame (pointRegs i) s (putF pCal CAL.TP_POINT v i s) := regsSame_putF List.mem_cons_self (regsSame_refl _ _)
    exact regsSame_trans hput (regsSame_mono (List.subset_cons_self _ _) hregs)
  · have hput : typedSame s (putF pCal CAL.TP_POINT v i s) := rfl
    unfold typedSame at *
    rw [htyped, hput]

theorem stepDone_all {meas : List (Option Int)} (h : ∀ d < dacCount b, dacPd s b d = true ∨ ((calTile s b).part.getD d none).isSome = true
      ∨ (quiet s b d && (meas.getD d none).isSome) = true) :
    ∀ d < dacCount b, dacPd s b d = true ∨ ((partList b (quietMeas b meas s) s).getD d none).isSome = true := by
  intro d hd
  rw [partList_getD hd]
  cases hpd : dacPd s b d
  case true => exact .inl rfl
  case false =>
    right
    cases hold : ((calTile s b).part.getD d none).isSome
    case true => exact partOf_old hold
    case false =>
      have hmeas := ((h d hd).resolve_left (by rw [hpd]; decide)).resolve_left (by rw [hold]; decide)
      rw [Bool.and_eq_true] at hmeas
      rw [partOf_new hold hpd, quietMeas_getD, if_pos hmeas.1]
      exact hmeas.2

/-- Settles O42. -/
theorem calibrationRuns : Obligations.CalibrationRuns := by
  unfold Obligations.CalibrationRuns
  intro s who
  refine ⟨fun mask hopen hen => ?requests, fun b meas => stepNotDone, fun b hb meas hready hdue hall => ?steps,
    fun b hb hpend hon hdue => ?stale, fun b => calStale_not_due, fun i hi v hv hopen => ?points⟩
  case requests =>
    obtain ⟨hregs, htyped, hruns⟩ := pendAll_only (s := s) mask
    exact ⟨_, exec_calReq hopen mask, fun b hb hm => pendAll_pends hen hb hm, fun b hb => pendAll_other hb, fun b hb hp => (hruns b hb hp).2,
      hregs, htyped⟩
  case steps =>
    have hdone := stepDone_all hall
    refine ⟨fun hk => stepGoesOn hb hready hdue hdone hk, fun hk => ?_⟩
    obtain ⟨t, hexec, ⟨h1, h2, h3, h4, h5⟩, hcheck⟩ := stepEnds hb hready hdue hdone hk
    exact ⟨t, hexec, h1, h2, h3, h4, h5, hcheck⟩
  case stale =>
    obtain ⟨t, hexec, h1, h2, h3, h4, h5⟩ := calStale_due hb hpend hon hdue
    exact ⟨t, hexec, h1.trans hpend, h2, h3, h4, h5⟩
  case points => exact ⟨_, exec_tpWrite hopen i v, tpWriteEffect_done hi hv⟩

end Sys2Proof.Machine
end

section
/-!
PROOFS. Triggers and conversions of the Sampler (R431 to R436), and what a diode's result and the end of a round keep of it.
-/
namespace Sys2Proof.Machine

variable {s s0 t : State} {who : Requester} {b i j n k v : Nat} {f : Fld}

/-! ### The Sampler shown in STATUS, and its next work (R431, R433) -/

/-- STATUS with the four flags of the Sampler. -/
def flagsShown (s : State) : State :=
  putF pHkp HKP.STATUS_INJ_BUSY (ofBool (injHeld s)) 0 (putF pHkp HKP.STATUS_RND_PEND (ofBool s.smp.rndPend) 0
    (putF pHkp HKP.STATUS_RND_BUSY (ofBool (roundRuns s)) 0 (putF pHkp HKP.STATUS_ON (ofBool s.smp.cur.isSome) 0 s)))

theorem showSampler_eq (s : State) : showSampler s = s.smp.cur.elim (flagsShown s)
    (fun c => putF pHkp HKP.STATUS_CUR (convInput (flagsShown s) c) 0 (flagsShown s)) := by
  cases hcur : s.smp.cur with
  | none =>
    have h : (flagsShown s).smp.cur = none := hcur
    unfold showSampler
    dsimp only
    split
    · rename_i hc
      exact absurd (h.symm.trans hc) (by simp)
    · rfl
  | some c =>
    have h : (flagsShown s).smp.cur = some c := hcur
    unfold showSampler
    dsimp only
    split
    · rename_i hc
      obtain rfl := Option.some_inj.1 (h.symm.trans hc)
      rfl
    · rename_i hc
      exact absurd (h.symm.trans hc) (by simp)

theorem showSampler_or (s : State) : showSampler s = flagsShown s ∨ ∃ x, showSampler s = putF pHkp HKP.STATUS_CUR x 0 (flagsShown s) := by
  rw [showSampler_eq]
  cases s.smp.cur
  · exact .inl rfl
  · exact .inr ⟨_, rfl⟩

theorem showSampler_smp : (showSampler s).smp = s.smp := by
  obtain h | ⟨x, h⟩ := showSampler_or s <;> rw [h] <;> rfl

theorem showSampler_typed : typedSame s (showSampler s) := by
  have hflags : typedSame s (flagsShown s) := typedSame_putF (typedSame_putF (typedSame_putF (typedSame_putF (typedSame_refl s))))
  obtain h | ⟨x, h⟩ := showSampler_or s <;> rw [h]
  · exact hflags
  · exact typedSame_putF hflags

theorem showSampler_regsSame : regsSame [HKP.STATUS_ON.addr pHkp 0] s (showSampler s) := by
  have hmem : HKP.STATUS_ON.addr pHkp 0 ∈ [HKP.STATUS_ON.addr pHkp 0] := List.mem_singleton_self _
  have hflags : regsSame [HKP.STATUS_ON.addr pHkp 0] s (flagsShown s) :=
    regsSame_putF hmem (regsSame_putF hmem (regsSame_putF hmem (regsSame_putF hmem (regsSame_refl _ s))))
  obtain h | ⟨x, h⟩ := showSampler_or s <;> rw [h]
  · exact hflags
  · exact regsSame_putF hmem hflags

theorem ofBool_mod_two (x : Bool) : decide (ofBool x % 2 = 1) = x := by
  cases x <;> rfl

/-- The bits of STATUS that say what the Sampler does. -/
theorem flagsShown_flags : isSet (flagsShown s) pHkp HKP.STATUS_ON = s.smp.cur.isSome
    ∧ isSet (flagsShown s) pHkp HKP.STATUS_RND_BUSY = roundRuns s ∧ isSet (flagsShown s) pHkp HKP.STATUS_RND_PEND = s.smp.rndPend := by
  unfold flagsShown
  refine ⟨?_, ?_, ?_⟩
  · rw [isSet_putF_beside (by decide), isSet_putF_beside (by decide), isSet_putF_beside (by decide), isSet_putF (by decide)]
    exact ofBool_mod_two _
  · rw [isSet_putF_beside (by decide), isSet_putF_beside (by decide), isSet_putF (by decide)]
    exact ofBool_mod_two _
  · rw [isSet_putF_beside (by decide), isSet_putF (by decide)]
    exact ofBool_mod_two _

theorem showSampler_flags : isSet (showSampler s) pHkp HKP.STATUS_ON = s.smp.cur.isSome
    ∧ isSet (showSampler s) pHkp HKP.STATUS_RND_BUSY = roundRuns s ∧ isSet (showSampler s) pHkp HKP.STATUS_RND_PEND = s.smp.rndPend := by
  obtain h | ⟨x, h⟩ := showSampler_or s <;> rw [h]
  · exact flagsShown_flags
  · rw [isSet_putF_beside (by decide), isSet_putF_beside (by decide), isSet_putF_beside (by decide)]
    exact flagsShown_flags

/-- The Sampler with its next work, shown or not. -/
theorem takeWork_shows (w : Nat) (s : State) : ∃ p, takeWork w s = showSampler { s with smp := p } := by
  unfold takeWork
  dsimp only
  split
  · split
    · exact ⟨_, rfl⟩
    · exact ⟨_, rfl⟩
  · split
    · exact ⟨_, rfl⟩
    · exact ⟨_, rfl⟩

theorem takeWork_typed (w : Nat) (s : State) : typedSame { s with smp := (takeWork w s).smp } (takeWork w s) := by
  obtain ⟨p, h⟩ := takeWork_shows w s
  rw [h, showSampler_smp]
  exact showSampler_typed

theorem takeWork_regsSame (w : Nat) (s : State) : regsSame [HKP.STATUS_ON.addr pHkp 0] s (takeWork w s) := by
  obtain ⟨p, h⟩ := takeWork_shows w s
  rw [h]
  exact showSampler_regsSame

theorem takeWork_flags (w : Nat) (s : State) : isSet (takeWork w s) pHkp HKP.STATUS_ON = (takeWork w s).smp.cur.isSome
    ∧ isSet (takeWork w s) pHkp HKP.STATUS_RND_BUSY = roundRuns (takeWork w s)
    ∧ isSet (takeWork w s) pHkp HKP.STATUS_RND_PEND = (takeWork w s).smp.rndPend := by
  obtain ⟨p, h⟩ := takeWork_shows w s
  have hruns : roundRuns (showSampler { s with smp := p }) = roundRuns { s with smp := p } := by rw [roundRuns, showSampler_smp, roundRuns]
  rw [h, showSampler_smp, hruns]
  exact showSampler_flags

/-- What a Sampler with work in hand makes of it (R433). -/
structure TakesRound (w : Nat) (n : Nat × Bool) (s : State) (p : Sampler) : Prop where
  cur : p.cur = some (.round n.1 n.2)
  rnd : p.rnd = roundAfter s n
  due : p.due = s.up + w + 1024
  pend : p.rndPend = (s.smp.rndPend && s.smp.rnd.isSome)
  inj : p.injPend = s.smp.injPend

/-- The conversion of the round that comes next. -/
def nextOf (s : State) : Nat × Bool := s.smp.rnd.getD (0, false)

theorem takeWork_round (w : Nat) (hinj : s.smp.injPend = [] ∨ ¬ s.smp.injRun < 4) (hr : (s.smp.rnd.isSome || s.smp.rndPend) = true) :
    TakesRound w (nextOf s) s (takeWork w s).smp := by
  have hpend : (s.smp.rndPend && !s.smp.rnd.isNone) = (s.smp.rndPend && s.smp.rnd.isSome) := by cases s.smp.rnd <;> rfl
  unfold takeWork
  dsimp only
  split
  · rename_i l x l' hl
    have hrun := hinj.resolve_left (by rw [hl]; exact List.cons_ne_nil _ _)
    rw [if_neg (by rw [hr]; simpa using hrun), showSampler_smp]
    exact ⟨rfl, rfl, rfl, hpend, rfl⟩
  · rw [if_pos hr, showSampler_smp]
    exact ⟨rfl, rfl, rfl, hpend, rfl⟩

theorem takeWork_none (w : Nat) (hinj : s.smp.injPend = []) (hr : (s.smp.rnd.isSome || s.smp.rndPend) = false) :
    (takeWork w s).smp = { s.smp with cur := none } := by
  unfold takeWork
  dsimp only
  split
  · rename_i l x l' hl
    exact absurd (hinj.symm.trans hl) (List.cons_ne_nil _ _).symm
  · rw [if_neg (by rw [hr]; decide), showSampler_smp]

theorem takeWork_inj {l : List Nat} (w : Nat) (hinj : s.smp.injPend = k :: l)
    (hrun : s.smp.injRun < 4 ∨ (s.smp.rnd.isSome || s.smp.rndPend) = false) :
    (takeWork w s).smp = { s.smp with cur := some (.inj k), injPend := l, injRun := s.smp.injRun + 1, due := s.up + w + 1024 } := by
  unfold takeWork
  dsimp only
  split
  · rename_i k' l' hl
    obtain ⟨rfl, rfl⟩ := List.cons.inj (hinj.symm.trans hl)
    rw [if_pos hrun, showSampler_smp]
  · rename_i hl
    exact absurd (hinj.symm.trans hl) (List.cons_ne_nil _ _)

/-! ### Triggers of the round (R432, R433) -/

theorem exec_samplerRoundTimer (s : State) : exec .samplerRoundTimer s
    = .next (if timerDue s tmRound 10000000 then roundTrigger (stampTimer tmRound s) else s) := rfl

theorem exec_samplerRgo (h : busOpen s who pHkp = true) : exec (.samplerRgo who) s = .next (roundTrigger s) :=
  congrArg Host.Outcome.next (viaBus_open h (k := .hkp) rfl _ _ _ _ (fun hc => absurd hc (by decide)))

theorem roundTrigger_off (h : samplerOn s = false) : roundTrigger s = s := if_pos (by rw [h]; rfl)

/-- A round registered. -/
def roundPended (s : State) : State := { s with smp := { s.smp with rndPend := true } }

theorem roundTrigger_on (hon : samplerOn s = true) (hpend : s.smp.rndPend = false) (hruns : roundRuns s = false) :
    roundTrigger s = if s.smp.cur.isNone then takeWork 4000 (roundPended s) else showSampler (roundPended s) := by
  unfold roundTrigger
  rw [if_neg (by rw [hon]; decide), if_neg (by rw [hpend, hruns]; decide)]
  rfl

theorem roundTrigger_idle (hon : samplerOn s = true) (hpend : s.smp.rndPend = false) (hruns : roundRuns s = false) (hcur : s.smp.cur = none) :
    roundTrigger s = takeWork 4000 (roundPended s) := by
  rw [roundTrigger_on hon hpend hruns]
  exact if_pos (Option.isNone_iff_eq_none.2 hcur)

theorem roundTrigger_busy (hon : samplerOn s = true) (hpend : s.smp.rndPend = false) (hruns : roundRuns s = false) (hcur : s.smp.cur ≠ none) :
    roundTrigger s = showSampler (roundPended s) := by
  rw [roundTrigger_on hon hpend hruns]
  exact if_neg (fun h => hcur (Option.isNone_iff_eq_none.1 h))

/-- The first conversions of a round are those of input 0, twice (R432). -/
theorem roundList_cons (s : State) : ∃ l, roundList s = (0, false) :: (0, true) :: l := by
  unfold roundList
  rw [show List.range 48 = 0 :: (List.range 47).map Nat.succ from List.range_succ_eq_map, List.map_cons, List.flatten_cons,
    if_pos (by decide)]
  exact ⟨_, List.cons_append.trans (congrArg _ List.cons_append)⟩

theorem roundAfter_first (s : State) : roundAfter s (0, false) = some (0, true) := by
  obtain ⟨l, h⟩ := roundList_cons s
  rw [roundAfter, h, List.find?_cons_of_neg (by decide), List.find?_cons_of_pos (by decide)]

theorem roundTrigger_missed (hon : samplerOn s = true) (h : s.smp.rndPend = true ∨ roundRuns s = true) : roundTrigger s = overrun 0 s := by
  unfold roundTrigger
  rw [if_neg (by rw [hon]; decide), if_pos (by obtain h | h := h <;> rw [h] <;> simp)]

theorem roundRuns_rnd (h : roundRuns s = false) : s.smp.rnd = none := by
  simp only [roundRuns, Bool.or_eq_false_iff] at h
  exact Option.isNone_iff_eq_none.1 (by simpa using h.1)

theorem roundTrigger_registered (hon : samplerOn s = true) (hpend : s.smp.rndPend = false) (hruns : roundRuns s = false) :
    (s.smp.cur = none → s.smp.injPend = [] → (roundTrigger s).smp.cur = some (.round 0 false)
      ∧ (roundTrigger s).smp.rnd = some (0, true) ∧ (roundTrigger s).smp.due = s.up + 5024 ∧ (roundTrigger s).smp.rndPend = false
      ∧ isSet (roundTrigger s) pHkp HKP.STATUS_ON = true ∧ isSet (roundTrigger s) pHkp HKP.STATUS_RND_BUSY = true)
    ∧ (s.smp.cur ≠ none → (roundTrigger s).smp = { s.smp with rndPend := true }
      ∧ isSet (roundTrigger s) pHkp HKP.STATUS_RND_PEND = true)
    ∧ regsSame [HKP.STATUS_ON.addr pHkp 0] s (roundTrigger s) ∧ typedSame { s with smp := (roundTrigger s).smp } (roundTrigger s) := by
  by_cases hcur : s.smp.cur = none
  · rw [roundTrigger_idle hon hpend hruns hcur]
    refine ⟨fun _ hinj => ?_, fun hne => absurd hcur hne, takeWork_regsSame 4000 (roundPended s), takeWork_typed 4000 (roundPended s)⟩
    have hrnd : (roundPended s).smp.rnd = none := roundRuns_rnd hruns
    have hnext : nextOf (roundPended s) = (0, false) := by rw [nextOf, hrnd, Option.getD_none]
    obtain ⟨h1, h2, h3, h4, -⟩ := takeWork_round (s := roundPended s) 4000 (.inl hinj) (by simp [roundPended])
    obtain ⟨h5, h6, -⟩ := takeWork_flags 4000 (roundPended s)
    rw [hnext] at h1 h2
    rw [roundAfter_first] at h2
    refine ⟨h1, h2, h3, ?_, ?_, ?_⟩
    · rw [h4, hrnd]
      exact Bool.and_false _
    · rw [h5, h1]
      rfl
    · rw [h6, roundRuns, h2]
      rfl
  · rw [roundTrigger_busy hon hpend hruns hcur]
    obtain ⟨-, -, h⟩ := showSampler_flags (s := roundPended s)
    refine ⟨fun hn => absurd hn hcur, fun _ => ⟨showSampler_smp, h⟩, showSampler_regsSame (s := roundPended s), ?_⟩
    rw [showSampler_smp]
    exact showSampler_typed

/-! ### Dropped triggers (R433) -/

/-- The registers that a dropped trigger may write. -/
def overrunRegs : List Nat := HKP.HKP_OVR.addr pHkp 0 :: HDR.IRQ_STAT.addr pHkp 0 :: recRegs pHkp

/-- A dropped trigger counted, its bit set. -/
def overrunCounted (n : Nat) (s : State) : State :=
  putF pHkp HKP.HKP_OVR_OVR (setBit (getF s pHkp HKP.HKP_OVR_OVR) n) 0 (incSat pHkp HKP.HKP_OVR_CNT 0 s)

theorem overrun_eq (n : Nat) (s : State) : overrun n s = errRec pHkp 0x20 0 0 n 0 (irqBit pHkp 2 (overrunCounted n s)) := rfl

theorem overrun_typed : typedSame s (overrun n s) := by
  rw [overrun_eq]
  exact typedSame_errRec (typedSame_irqBit (typedSame_putF (typedSame_incSat (typedSame_refl s))))

theorem overrun_smp : (overrun n s).smp = s.smp := by
  have h := overrun_typed (n := n) (s := s)
  unfold typedSame at h
  rw [h]

theorem overrun_irq : irqStat (overrun n s) pHkp 2 = true := by
  rw [overrun_eq]
  exact irqStat_errRec_of (irqStat_irqBit_same (by decide))

/-- OVR and its count after a dropped trigger. -/
theorem overrun_ovr : getF (overrun n s) pHkp HKP.HKP_OVR_OVR = setBit (getF s pHkp HKP.HKP_OVR_OVR) n % 2 ^ 5
    ∧ getF (overrun n s) pHkp HKP.HKP_OVR_CNT = min (getF s pHkp HKP.HKP_OVR_CNT + 1) 65535 := by
  have hkept : ∀ g : Fld, g.off = 0x044 → getF (overrun n s) pHkp g = getF (overrunCounted n s) pHkp g := by
    intro g hg
    have hne : g.addr pHkp 0 = HKP.HKP_OVR.addr pHkp 0 := by
      simp only [Fld.addr, hg, HKP.HKP_OVR]
      omega
    have hword : rdWord (overrun n s) (HKP.HKP_OVR.addr pHkp 0) = rdWord (overrunCounted n s) (HKP.HKP_OVR.addr pHkp 0) := by
      rw [overrun_eq, rdWord_errRec _ _ _ _ _ _ _ _ (by decide) (by decide) (by decide), irqBit, rdWord_irqSet _ _ _ _ (by decide)]
    rw [getF, getF, hne, hword]
  refine ⟨?_, ?_⟩
  · rw [hkept _ rfl, overrunCounted, getF_putF _ _ _ _ _ (by decide)]
    rfl
  · rw [hkept _ rfl, overrunCounted, getF_putF_beside (by decide), getF_incSat (by decide)]
    rfl

theorem overrun_bit (hn : n < 5) : bit (getF (overrun n s) pHkp HKP.HKP_OVR_OVR) n = 1 := by
  rw [overrun_ovr.1, bit_mod_two_pow hn, bit_setBit, if_pos rfl]

theorem overrun_bits (hj : j < 5) (h : bit (getF s pHkp HKP.HKP_OVR_OVR) j = 1) : bit (getF (overrun n s) pHkp HKP.HKP_OVR_OVR) j = 1 := by
  rw [overrun_ovr.1, bit_mod_two_pow hj, bit_setBit, h, ite_self]

/-! ### Injections (R433) -/

/-- An injection that is pending or in progress. -/
def Held (s : State) (k : Nat) : Prop := k ∈ s.smp.injPend ∨ s.smp.cur = some (.inj k)

theorem mem_insertUp (k j : Nat) (l : List Nat) : j ∈ insertUp k l ↔ j = k ∨ j ∈ l := by
  induction l with
  | nil => simp [insertUp]
  | cons x l ih =>
    unfold insertUp
    by_cases hlt : k < x
    · simp [if_pos hlt]
    · by_cases heq : k = x
      · simp [heq]
      · simp only [if_neg hlt, if_neg heq, List.mem_cons, ih]
        tauto

/-- An injection registered. -/
def injPended (k : Nat) (s : State) : State := { s with smp := { s.smp with injPend := insertUp k s.smp.injPend } }

theorem injPended_held (k j : Nat) (s : State) : Held (injPended k s) j ↔ Held s j ∨ j = k := by
  have hcur : (injPended k s).smp.cur = s.smp.cur := rfl
  have hpend : (injPended k s).smp.injPend = insertUp k s.smp.injPend := rfl
  unfold Held
  rw [hcur, hpend, mem_insertUp]
  tauto

/-- An idle Sampler that takes its next work still holds what it held. -/
theorem takeWork_held {w : Nat} (hcur : s.smp.cur = none) (j : Nat) : Held (takeWork w s) j ↔ Held s j := by
  have hnone : ∀ x, s.smp.cur ≠ some x := fun x hx => by rw [hcur] at hx; exact nomatch hx
  unfold Held
  by_cases hr : (s.smp.rnd.isSome || s.smp.rndPend) = true
  · cases hinj : s.smp.injPend with
    | nil =>
      obtain ⟨h1, -, -, -, h5⟩ := takeWork_round w (.inl hinj) hr
      simp [h1, h5, hinj, hcur]
    | cons k l =>
      by_cases hrun : s.smp.injRun < 4
      · rw [takeWork_inj w hinj (.inl hrun)]
        simp only [List.mem_cons, Option.some_inj, Conv.inj.injEq, hcur, reduceCtorEq, or_false]
        exact ⟨fun h => h.symm.imp_left Eq.symm, fun h => (h.imp_left Eq.symm).symm⟩
      · obtain ⟨h1, -, -, -, h5⟩ := takeWork_round w (.inr hrun) hr
        simp [h1, h5, hinj, hcur]
  · have hr := Bool.not_eq_true _ ▸ hr
    cases hinj : s.smp.injPend with
    | nil =>
      rw [takeWork_none w hinj hr]
      simp [hinj, hcur]
    | cons k l =>
      rw [takeWork_inj w hinj (.inr hr)]
      simp only [List.mem_cons, Option.some_inj, Conv.inj.injEq, hcur, reduceCtorEq, or_false]
      exact ⟨fun h => h.symm.imp_left Eq.symm, fun h => (h.imp_left Eq.symm).symm⟩

theorem injTrigger_off (h : samplerOn s = false) : injTrigger k s = s := if_pos (by rw [h]; rfl)

theorem injTrigger_held (hon : samplerOn s = true) (h : Held s k) : injTrigger k s = overrun (1 + k) s := by
  unfold injTrigger
  rw [if_neg (by rw [hon]; decide)]
  exact if_pos h

theorem injTrigger_new (hon : samplerOn s = true) (h : ¬ Held s k) : injTrigger k s
    = if s.smp.cur.isNone then takeWork 4000 (injPended k s) else showSampler (injPended k s) := by
  unfold injTrigger
  rw [if_neg (by rw [hon]; decide)]
  exact if_neg h

/-- What a trigger of an injection keeps. -/
structure InjStep (s t : State) : Prop where
  typed : typedSame { s with smp := t.smp } t
  on : samplerOn t = samplerOn s
  ovr : ∀ j < 5, bit (getF s pHkp HKP.HKP_OVR_OVR) j = 1 → bit (getF t pHkp HKP.HKP_OVR_OVR) j = 1
  held : ∀ j, Held s j → Held t j

namespace InjStep

theorem refl (s : State) : InjStep s s := ⟨rfl, rfl, fun _ _ h => h, fun _ h => h⟩

theorem trans {u : State} (h : InjStep s t) (h' : InjStep t u) : InjStep s u := by
  refine ⟨?_, h'.on.trans h.on, fun j hj hb => h'.ovr j hj (h.ovr j hj hb), fun j hj => h'.held j (h.held j hj)⟩
  have ht := h.typed
  have hu := h'.typed
  unfold typedSame at *
  rw [hu, ht]

/-- The Sampler is at work as long as CTRL stands. -/
theorem on_of {l : List Nat} (hctrl : HDR.CTRL_EN.addr pHkp 0 ∉ l) (hr : regsSame l s t) (ht : t.boot = s.boot) : samplerOn t = samplerOn s := by
  rw [samplerOn, samplerOn, regsSame_isSet hr hctrl, regsSame_isSet (g := HDR.CTRL_FREEZE) hr hctrl, ht]

theorem overrun : InjStep s (overrun n s) := by
  have htyped := overrun_typed (n := n) (s := s)
  have hboot : (Machine.overrun n s).boot = s.boot := by
    unfold typedSame at htyped
    rw [htyped]
  have hregs : regsSame overrunRegs s (Machine.overrun n s) := by
    rw [overrun_eq]
    refine regsSame_errRec (by decide) (by decide) (by decide) (regsSame_irqBit (by decide) (regsSame_putF (by decide)
      (regsSame_incSat (by decide) (regsSame_refl _ _))))
  refine ⟨?_, on_of (by decide) hregs hboot, fun j hj => overrun_bits hj, fun j hj => ?_⟩
  · rw [overrun_smp]
    exact htyped
  · unfold Held
    rw [overrun_smp]
    exact hj

/-- A Sampler that shows another state of its own keeps OVR and goes on. -/
theorem shown {p : Sampler} (hheld : ∀ j, Held s j → j ∈ p.injPend ∨ p.cur = some (.inj j)) : InjStep s (showSampler { s with smp := p }) := by
  have hregs : regsSame [HKP.STATUS_ON.addr pHkp 0] s (showSampler { s with smp := p }) := showSampler_regsSame (s := { s with smp := p })
  have htyped : typedSame { s with smp := p } (showSampler { s with smp := p }) := showSampler_typed
  have hboot : (showSampler { s with smp := p }).boot = s.boot := by
    unfold typedSame at htyped
    rw [htyped]
  refine ⟨?_, on_of (by decide) hregs hboot, fun j _ hb => ?_, fun j hj => ?_⟩
  · rw [showSampler_smp]
    exact htyped
  · rw [regsSame_getF hregs (by decide), hb]
  · unfold Held
    rw [showSampler_smp]
    exact hheld j hj

theorem injTrigger (k : Nat) (s : State) : InjStep s (injTrigger k s) ∧ ∀ j, Held (injTrigger k s) j → Held s j ∨ j = k := by
  cases hon : samplerOn s
  case false =>
    rw [injTrigger_off hon]
    exact ⟨refl s, fun _ => .inl⟩
  case true =>
    by_cases hh : Held s k
    · rw [injTrigger_held hon hh]
      refine ⟨overrun, fun j hj => .inl ?_⟩
      unfold Held at hj ⊢
      rwa [overrun_smp] at hj
    · rw [injTrigger_new hon hh]
      by_cases hcur : s.smp.cur = none
      · rw [if_pos (Option.isNone_iff_eq_none.2 hcur)]
        have hheld := takeWork_held (s := injPended k s) (w := 4000) hcur
        refine ⟨?_, fun j hj => (injPended_held k j s).1 ((hheld j).1 hj)⟩
        obtain ⟨p, hp⟩ := takeWork_shows 4000 (injPended k s)
        have hmem : ∀ j, Held s j → j ∈ p.injPend ∨ p.cur = some (.inj j) := by
          intro j hj
          have := (hheld j).2 ((injPended_held k j s).2 (.inl hj))
          rw [hp, Held, showSampler_smp] at this
          exact this
        rw [hp]
        exact shown hmem
      · rw [if_neg (fun h => hcur (Option.isNone_iff_eq_none.1 h))]
        refine ⟨shown fun j hj => (injPended_held k j s).2 (.inl hj), fun j hj => (injPended_held k j s).1 ?_⟩
        rw [Held, showSampler_smp] at hj
        exact hj

end InjStep

theorem injTrigger_holds (hon : samplerOn s = true) : Held (injTrigger k s) k := by
  by_cases hh : Held s k
  · exact (InjStep.injTrigger k s).1.held k hh
  · have hpend : Held (injPended k s) k := (injPended_held k k s).2 (.inr rfl)
    rw [injTrigger_new hon hh]
    by_cases hcur : s.smp.cur = none
    · rw [if_pos (Option.isNone_iff_eq_none.2 hcur)]
      exact (takeWork_held (s := injPended k s) hcur k).2 hpend
    · rw [if_neg (fun h => hcur (Option.isNone_iff_eq_none.1 h)), Held, showSampler_smp]
      exact hpend

/-- The injections of a mask registered. -/
def injAll (mask : Nat) (s : State) : State := forAll ((List.range 4).filter (fun k => bit mask k = 1)) injTrigger s

theorem mem_injected {mask : Nat} (hk : k < 4) (hm : bit mask k = 1) : k ∈ (List.range 4).filter (fun k => bit mask k = 1) :=
  List.mem_filter.2 ⟨List.mem_range.2 hk, decide_eq_true hm⟩

theorem exec_injGo {mask : Nat} (h : busOpen s who pHkp = true) : exec (.injGo who mask) s = .next (injAll mask s) :=
  congrArg Host.Outcome.next (viaBus_open h (k := .hkp) rfl _ _ _ _ (fun hc => absurd hc (by decide)))

theorem injAll_off {mask : Nat} (h : samplerOn s = false) : injAll mask s = s :=
  forAll_induction (P := fun u => u = s) (fun k u hu => by rw [hu, injTrigger_off h]) _ rfl

theorem injAll_step (mask : Nat) (s : State) : InjStep s (injAll mask s) :=
  forAll_induction (P := InjStep s) (fun k u hu => hu.trans (InjStep.injTrigger k u).1) _ (InjStep.refl s)

theorem injAll_holds {mask : Nat} (hon : samplerOn s = true) (hk : k < 4) (hm : bit mask k = 1) : Held (injAll mask s) k :=
  forAll_reaches (P := InjStep s) (Q := fun u => Held u k) (fun j u hu => hu.trans (InjStep.injTrigger j u).1)
    (fun _ hu => injTrigger_holds (hu.on.trans hon)) (fun j u hu => (InjStep.injTrigger j u).1.held k hu) (mem_injected hk hm) (InjStep.refl s)

theorem injAll_others {mask : Nat} (hm : bit mask k = 0) (h : Held (injAll mask s) k) : Held s k := by
  revert h
  refine forAll_induction_mem (P := fun u => Held u k → Held s k) (fun j hj u hu hheld => ?_) id
  obtain hu' | rfl := (InjStep.injTrigger j u).2 k hheld
  · exact hu hu'
  · rw [List.mem_filter, hm] at hj
    exact absurd hj.2 (by decide)

theorem injAll_missed {mask : Nat} (hon : samplerOn s = true) (hk : k < 4) (hm : bit mask k = 1) (h : Held s k) :
    bit (getF (injAll mask s) pHkp HKP.HKP_OVR_OVR) (1 + k) = 1 := by
  refine forAll_reaches (P := InjStep s) (Q := fun u => bit (getF u pHkp HKP.HKP_OVR_OVR) (1 + k) = 1)
    (fun j u hu => hu.trans (InjStep.injTrigger j u).1) (fun u hu => ?_)
    (fun j u hu => (InjStep.injTrigger j u).1.ovr (1 + k) (by omega) hu) (mem_injected hk hm) (InjStep.refl s)
  rw [injTrigger_held (hu.on.trans hon) (hu.held k h)]
  exact overrun_bit (by omega)

/-! ### What the thermal block keeps of the Sampler (R436 to R443) -/

/-- A register of the HKP page behind its header. -/
def hkpReg (a : Nat) : Prop := 0x4040 ≤ a ∧ a < 0x5000

/-- The Sampler's own state but for what the thermal block keeps in it. -/
structure SamplerSame (p q : Sampler) : Prop where
  cur : q.cur = p.cur
  rnd : q.rnd = p.rnd
  rndPend : q.rndPend = p.rndPend
  injPend : q.injPend = p.injPend
  injRun : q.injRun = p.injRun
  acc : q.acc = p.acc

/-- The registers of the HKP page behind its header, its interrupt bits that are set, the Sampler, the events raised, and the clock. -/
structure ThermalKept (s t : State) : Prop where
  regs : ∀ a, hkpReg a → rdWord t a = rdWord s a
  irq : ∀ n, irqStat s pHkp n = true → irqStat t pHkp n = true
  smp : SamplerSame s.smp t.smp
  evm : t.evm = s.evm
  up : t.up = s.up

namespace ThermalKept

theorem refl (s : State) : ThermalKept s s := ⟨fun _ _ => rfl, fun _ h => h, ⟨rfl, rfl, rfl, rfl, rfl, rfl⟩, rfl, rfl⟩

theorem trans {u : State} (h : ThermalKept s t) (h' : ThermalKept t u) : ThermalKept s u := by
  obtain ⟨hregs, hirq, ⟨h1, h2, h3, h4, h5, h6⟩, hevm, hup⟩ := h
  obtain ⟨hregs', hirq', ⟨h1', h2', h3', h4', h5', h6'⟩, hevm', hup'⟩ := h'
  exact ⟨fun a ha => (hregs' a ha).trans (hregs a ha), fun n hn => hirq' n (hirq n hn),
    ⟨h1'.trans h1, h2'.trans h2, h3'.trans h3, h4'.trans h4, h5'.trans h5, h6'.trans h6⟩, hevm'.trans hevm, hup'.trans hup⟩

/-- A step that touches no register, and of the Sampler only what the thermal block keeps in it. -/
theorem same {u : State} (h : ThermalKept s0 s) (hregs : u.regs = s.regs) (hsmp : SamplerSame s.smp u.smp) (hevm : u.evm = s.evm)
    (hup : u.up = s.up) : ThermalKept s0 u := by
  have hword : ∀ a, rdWord u a = rdWord s a := fun a => by rw [rdWord, hregs, ← rdWord]
  exact h.trans ⟨fun a _ => hword a, fun n hn => (irqStat_eq_of_rdWord (hword _)).trans hn, hsmp, hevm, hup⟩

theorem typed {u : State} (h : ThermalKept s0 s) (hregs : u.regs = s.regs) (hsmp : u.smp = s.smp) (hevm : u.evm = s.evm)
    (hup : u.up = s.up) : ThermalKept s0 u := h.same hregs (by rw [hsmp]; exact ⟨rfl, rfl, rfl, rfl, rfl, rfl⟩) hevm hup

theorem not_boundaryReg {a : Nat} (h1 : 0x4040 ≤ a ∨ a = HDR.IRQ_STAT.addr pHkp 0) (h2 : a < 0x5000) : ¬ boundaryReg a := by
  have hlow : 0x4000 ≤ a ∧ a % 0x1000 ≠ 0x010 := by
    obtain h | rfl := h1
    · omega
    · decide
  obtain ⟨hlow, hstat⟩ := hlow
  rintro (hlo | hline | hflip | hskew | hst)
  · omega
  · obtain ⟨hpage, -⟩ | hrec := hline
    · unfold pageOf windowStride at hpage
      omega
    · have hall : ∀ x ∈ HOOP.MC_STAT.addr 2 0 :: recRegs 2, x < 0x4000 ∨ 0x5000 ≤ x := by decide
      have := hall a hrec
      omega
  · have : MIC.FLIP_SEL.addr 6 0 = 0x6000 + MIC.FLIP_SEL.off := by decide
    omega
  · have : CLK.SKEW_TRIM.addr 1 0 < 0x4000 := by decide
    omega
  · exact hstat hst

theorem boundaryOnly (h : ThermalKept s0 s) (h' : BoundaryOnly s t) : ThermalKept s0 t := by
  have ht := h'.typed
  unfold boundaryTyped at ht
  refine h.trans ⟨fun a ha => h'.regs a (not_boundaryReg (.inl ha.1) ha.2), fun n hn => ?_, ?_, by rw [ht], by rw [ht]⟩
  · exact (irqStat_eq_of_rdWord (h'.regs _ (not_boundaryReg (.inr rfl) (by decide)))).trans hn
  · rw [ht]
    exact ⟨rfl, rfl, rfl, rfl, rfl, rfl⟩

theorem putF {p : Nat} (ha : f.addr p i < 0x4000 ∨ 0x5000 ≤ f.addr p i) (h : ThermalKept s0 s) : ThermalKept s0 (putF p f v i s) := by
  refine h.trans ⟨fun a hreg => rdWord_wrWord_other ?_ _ _, fun n hn => ?_, ⟨rfl, rfl, rfl, rfl, rfl, rfl⟩, rfl, rfl⟩
  · rintro rfl
    unfold hkpReg at hreg
    omega
  · rw [irqStat_putF]
    · exact hn
    · intro he
      have : HDR.IRQ_STAT.addr pHkp 0 = 0x4000 + HDR.IRQ_STAT.off ∧ HDR.IRQ_STAT.off < 0x40 := by decide
      omega

/-- A field of a page behind the Sampler's. -/
theorem above {p : Nat} (hp : 5 ≤ p) : f.addr p i < 0x4000 ∨ 0x5000 ≤ f.addr p i := by
  simp only [Fld.addr]
  omega

theorem tile : f.addr (tilePage b) i < 0x4000 ∨ 0x5000 ≤ f.addr (tilePage b) i := above (by unfold tilePage; omega)

theorem irqBit {p : Nat} (h : ThermalKept s0 s) : ThermalKept s0 (irqBit p n s) := by
  refine h.trans ⟨fun a ha => rdWord_irqSet _ _ _ _ ?_, fun _ hn => irqStat_irqBit_of hn, ?_, irqBit_evm .., irqBit_up ..⟩
  · rintro rfl
    unfold hkpReg at ha
    simp only [Fld.addr, HDR.IRQ_STAT] at ha
    omega
  · rw [irqBit_smp]
    exact ⟨rfl, rfl, rfl, rfl, rfl, rfl⟩

theorem errRec {p code sev unit info addr : Nat} (h : ThermalKept s0 s) : ThermalKept s0 (errRec p code sev unit info addr s) := by
  refine h.trans ⟨fun a ha => rdWord_errRec _ _ _ _ _ _ _ _ ?_ ?_ ?_, fun _ hn => irqStat_errRec_of hn, ?_, errRec_evm .., errRec_up ..⟩
  · rintro rfl
    unfold hkpReg at ha
    simp only [Fld.addr, HDR.ERR_CNT_TOTAL] at ha
    omega
  · rintro rfl
    unfold hkpReg at ha
    simp only [Fld.addr, HDR.IRQ_STAT] at ha
    omega
  · rintro rfl
    unfold hkpReg at ha
    exact absurd ha (by decide)
  · rw [errRec_smp]
    exact ⟨rfl, rfl, rfl, rfl, rfl, rfl⟩

theorem ite {c : Prop} [Decidable c] {x y : State} (hx : ThermalKept s0 x) (hy : ThermalKept s0 y) : ThermalKept s0 (if c then x else y) := by
  split <;> assumption

theorem forAll {α : Type} {l : List α} {g : α → State → State} (hg : ∀ x t, ThermalKept s0 t → ThermalKept s0 (g x t))
    (h : ThermalKept s0 s) : ThermalKept s0 (forAll l g s) := forAll_induction hg l h

theorem modTile {g : Tile → Tile} (h : ThermalKept s0 s) : ThermalKept s0 (modTile b g s) := h.typed rfl rfl rfl rfl

theorem noteWas {a : Nat} (h : ThermalKept s0 s) : ThermalKept s0 (noteWas none a s) :=
  h.typed (by rw [noteWas_eq]) (by rw [noteWas_eq]) (by rw [noteWas_eq]) (by rw [noteWas_eq])

theorem notePage {p : Nat} (h : ThermalKept s0 s) : ThermalKept s0 (notePage none p s) := ite h.noteWas.noteWas h.noteWas

theorem urge {u : Urgent} (h : ThermalKept s0 s) : ThermalKept s0 (urge u s) := ite h (h.typed rfl rfl rfl rfl)

theorem boot {x : Boot} (h : ThermalKept s0 s) : ThermalKept s0 { s with boot := x } := h.typed rfl rfl rfl rfl

/-! The end of a tile's run (R153). -/

theorem stopTile {target cause : Nat} (h : ThermalKept s0 s) : ThermalKept s0 (stopTile b n target cause s) := by
  obtain ⟨g, -, hrest⟩ := stopTile_boundaryOnly (b := b) (s := s) (f := n) (target := target) (cause := cause)
  exact (h.modTile (b := b) (g := g)).boundaryOnly hrest

theorem tileFlags {l : List Fld} (h : ThermalKept s0 s) : ThermalKept s0 (Machine.forAll l (fun g s => Machine.putF (tilePage b) g 0 0 s) s) :=
  forAll (fun _ _ hu => hu.putF tile) h

theorem fluxZeroed {l : List Nat} {g : State → Nat → FOut} (h : ThermalKept s0 s) :
    ThermalKept s0 (Machine.forAll l (fun k s => Machine.setFlux b k (g s k) s) s) := forAll (fun _ _ hu => hu.typed rfl rfl rfl rfl) h

theorem stoppedCommits {st : Staged} {ch : List Change} {snap : SMap Word} (h : ThermalKept s0 s) :
    ThermalKept s0 (settle (swapBuffers b st (calCommit st ch b (commitWords [] snap s)))) :=
  h.boundaryOnly (BoundaryOnly.refl s).commitWords.calCommit.swapBuffers.settle

theorem enterStopped {target : Nat} (h : ThermalKept s0 s) : ThermalKept s0 (enterStopped b target s) := by
  unfold Machine.enterStopped
  dsimp only
  refine stoppedCommits ?_
  with_reducible repeat' first
    | assumption | refine fluxZeroed ?_ | refine modTile ?_ | refine irqBit ?_ | refine notePage ?_
    | refine putF tile ?_ | refine ThermalKept.ite ?_ ?_

theorem stepsFrom (h : ThermalKept s0 s) : ThermalKept s0 (stepsFrom b n s) := h.typed rfl rfl rfl rfl

theorem deviceCommit {snap : SMap Word} {st : Staged} (h : ThermalKept s0 s) : ThermalKept s0 (deviceCommit st snap s) :=
  h.boundaryOnly (BoundaryOnly.refl s).deviceCommit

theorem abortTile {cause : Nat} (h : ThermalKept s0 s) : ThermalKept s0 (abortTile b n cause s) := by
  unfold Machine.abortTile
  dsimp only
  with_reducible repeat' first
    | assumption | refine stepsFrom ?_ | refine enterStopped ?_ | refine deviceCommit ?_ | refine modTile ?_ | refine tileFlags ?_
    | refine stopTile ?_ | refine ThermalKept.ite ?_ ?_

theorem abortAll {l : List Nat} {cause : Nat} (h : ThermalKept s0 s) :
    ThermalKept s0 (Machine.forAll l (fun b s => Machine.abortTile b (now s) cause s) s) := forAll (fun _ _ hu => hu.abortTile) h

/-! A start requested, and the device's health (R510, R532). -/

theorem losePort {began lock : Bool} (h : ThermalKept s0 s) : ThermalKept s0 (losePort n began lock s) := by
  have hcut := fun l => h.boundaryOnly (BoundaryOnly.forAll (l := l)
    (g := fun i s => Machine.setTulSlot i { tulSlot s i with cut := true } s) (fun _ _ hu => hu.setTulSlot) (BoundaryOnly.refl s))
  unfold Machine.losePort
  dsimp only
  with_reducible repeat' first
    | assumption | exact hcut _ | refine ThermalKept.ite ?_ ?_
    | refine forAll (fun _ _ hu => hu.boundaryOnly (BoundaryOnly.refl _).loseSlot) ?_

theorem setPortState {st : Nat} (h : ThermalKept s0 s) : ThermalKept s0 (setPortState n st s) :=
  (h.noteWas.putF (above (by unfold jdxPage; omega))).putF (above (by unfold jdxPage; omega))

theorem portDown {st : Nat} (h : ThermalKept s0 s) : ThermalKept s0 (portDown n st s) := by
  have hnbs : ∀ {u : State} {x : SMap Neighbour}, ThermalKept s0 u → ThermalKept s0 { u with cst := { u.cst with nbs := x } } :=
    fun hu => hu.typed rfl rfl rfl rfl
  have hport : ∀ {u : State} {g : Port → Port}, ThermalKept s0 u → ThermalKept s0 (modPort n g u) := fun hu => hu.typed rfl rfl rfl rfl
  unfold Machine.portDown
  dsimp only
  exact losePort (setPortState (hport (hnbs (ite h.urge h))))

theorem portsDown {l : List Nat} {st : Nat} (h : ThermalKept s0 s) :
    ThermalKept s0 (Machine.forAll l (fun n s => if portState s n = 0 then s else Machine.portDown n st s) s) :=
  forAll (fun _ _ hu => ite hu hu.portDown) h

theorem requestStart {cause : Nat} {warm : Bool} (h : ThermalKept s0 s) : ThermalKept s0 (requestStart cause warm s) := by
  have hdrop : ∀ {u : State}, ThermalKept s0 u → ThermalKept s0 (dropCmd u) := fun hu => hu.typed rfl rfl rfl rfl
  unfold Machine.requestStart
  dsimp only
  exact ite h (boot (hdrop (portsDown (abortAll h))))

theorem journal {bs : List Byte} {cmd first : Bool} (h : ThermalKept s0 s) : ThermalKept s0 (journal n bs cmd first s) :=
  putF (.inl (by decide)) (h.typed rfl rfl rfl rfl)

theorem logEntry {page code sev detail : Nat} {info addr : Word} {first : Bool} (h : ThermalKept s0 s) :
    ThermalKept s0 (logEntry page code sev info addr detail first s) := by
  have hlog := fun m bs v => ((h.journal (n := m) (bs := bs) (cmd := false) (first := first)).putF (p := 3) (f := NVS.LOG_WP) (i := 0)
    (v := v) (.inl (by decide)))
  unfold Machine.logEntry Machine.incWrap
  dsimp only
  exact ite (putF (.inl (by decide)) (hlog ..)) (hlog ..)

theorem setHealth {code : Nat} (h : ThermalKept s0 s) : ThermalKept s0 (setHealth code s) := by
  unfold Machine.setHealth smbAlert
  dsimp only
  exact ite h (boot (logEntry (errRec (irqBit (putF (.inl (by decide)) h)))))

theorem healthEval (h : ThermalKept s0 s) : ThermalKept s0 (healthEval s) := by
  have hput := fun w => h.putF (p := 0) (f := GLB.HEALTH_CAUSE) (v := w) (i := 0) (.inl (by decide))
  unfold Machine.healthEval
  dsimp only
  exact ite h (ite (setHealth (hput _)) (setHealth (hput _)))

/-- The bias outputs put to their clear codes. -/
theorem biasCleared {l : List Nat} (h : ThermalKept s0 s) :
    ThermalKept s0 (Machine.forAll l (fun n s => Machine.putF pBia BIA.BIAS_STAT_OUT (getF s pBia BIA.BIAS_CLR_CLR n) n s) s) :=
  forAll (fun _ _ hu => hu.putF (above (by decide))) h

theorem incSat {p : Nat} (hp : 5 ≤ p) (h : ThermalKept s0 s) : ThermalKept s0 (incSat p f i s) := h.putF (above hp)

theorem shutdown {cause sensor : Nat} {mx : Int} (h : ThermalKept s0 s) : ThermalKept s0 (shutdown cause sensor mx s) := by
  have hlog := fun info d => boot (x := { (Machine.logEntry pThm 0x22 2 info 0#32 d true (Machine.incSat pThm THM.TRIP_CNT_TRIPS 0
    (Machine.forAll (tileBits s) (fun b s => Machine.abortTile b (now s) 2 s) s))).boot with smbShdn := true })
    (logEntry (page := pThm) (code := 0x22) (sev := 2) (info := info) (addr := 0#32) (detail := d) (first := true)
      (incSat (p := pThm) (f := THM.TRIP_CNT_TRIPS) (i := 0) (by decide) (abortAll (l := tileBits s) (cause := 2) h)))
  unfold Machine.shutdown
  dsimp only
  refine ite h ?_
  split
  · exact boot (requestStart (biasCleared (hlog _ _)))
  · exact healthEval (errRec (irqBit (putF (above (by decide)) (hlog _ _))))

/-! The results of a diode (R436 to R443). -/

theorem calEval {w : Int} {ends : Bool} (h : ThermalKept s0 s) : ThermalKept s0 (calEval b w ends s) := by
  have hcal : ∀ {g : CalTile → CalTile}, BoundaryOnly s (Machine.modCal b g s) := (BoundaryOnly.refl s).modCal
  unfold Machine.calEval calShadow
  split
  · exact ite (h.boundaryOnly hcal) (h.boundaryOnly hcal.calCommitTile)
  · exact h

theorem sampler {p : Sampler} (h : ThermalKept s0 s) (hp : SamplerSame s.smp p) : ThermalKept s0 { s with smp := p } := h.same rfl hp rfl rfl

theorem putBand {z : Nat} (h : ThermalKept s0 s) : ThermalKept s0 (putBand z v s) := by
  have hput := fun g w => h.putF (p := pThm) (f := g) (v := w) (i := 0) (above (by decide))
  unfold Machine.putBand
  dsimp only
  exact putF (above (by decide)) (ite (hput _ _) (hput _ _))

theorem zoneEvals {l : List Nat} {w : Int} (h : ThermalKept s0 s) : ThermalKept s0 (Machine.forAll l
    (fun b s => if isSet s pCal HDR.CTRL_EN then Machine.calEval b w false s else s) s) := forAll (fun _ _ hu => ite hu.calEval hu) h

theorem judgeBand {z : Nat} {w : Int} (h : ThermalKept s0 s) : ThermalKept s0 (judgeBand z w s) := by
  have hmove := fun m (l : List Nat) => zoneEvals (l := l) (w := w) (irqBit (p := pThm) (n := 1) (putBand (z := z) (v := m)
    (sampler (p := { s.smp with dwell := smSet z (s.up + 50000000) s.smp.dwell }) h ⟨rfl, rfl, rfl, rfl, rfl, rfl⟩)))
  have hsettled := sampler (p := { s.smp with settled := z :: s.smp.settled }) h ⟨rfl, rfl, rfl, rfl, rfl, rfl⟩
  unfold Machine.judgeBand
  dsimp only
  exact ite (ite (hmove _ _) hsettled) (ite h (ite (hmove _ _) (ite (hmove _ _) h)))

theorem roundMax (h : ThermalKept s0 s) : ThermalKept s0 (roundMax s) := by
  have hmax := fun v w => (h.putF (p := pThm) (f := THM.TEMP_MAX_SENSOR) (v := v) (i := 0) (above (by decide))).putF (p := pThm)
    (f := THM.TEMP_MAX_MAX) (v := w) (i := 0) (above (by decide))
  unfold Machine.roundMax
  dsimp only
  split
  · exact ite h (ite (errRec (irqBit (putF (above (by decide)) (hmax _ _)))) (ite (putF (above (by decide)) (hmax _ _)) (hmax _ _)))
  · exact h

theorem sensorBroken (h : ThermalKept s0 s) : ThermalKept s0 (sensorBroken k s) := by
  unfold Machine.sensorBroken
  dsimp only
  exact forAll (fun _ _ hu => hu.urge) (errRec (irqBit (putF (above (by decide)) h)))

theorem showLegacy (h : ThermalKept s0 s) : ThermalKept s0 (showLegacy s) := h.putF (above (by decide))

/-- The results of a diode that the round keeps. -/
theorem diodeNoted {x z : List Nat} {y : SMap Int} (h : ThermalKept s0 s) :
    ThermalKept s0 { s with smp := { s.smp with temps := y, extreme := x, impl := z } } := h.sampler ⟨rfl, rfl, rfl, rfl, rfl, rfl⟩

theorem diodeResult {r : Nat} (h : ThermalKept s0 s) : ThermalKept s0 (diodeResult k r s) := by
  unfold Machine.diodeResult
  extract_lets t0 imp run judged checked t read counted src noted shown top
  have hjudged : ThermalKept s0 judged := putF (above (by decide)) (putF (above (by decide)) h)
  have hchecked : ThermalKept s0 checked := ite hjudged.sensorBroken hjudged
  have hread : ThermalKept s0 read := putF (above (by decide)) (putF (above (by decide)) hchecked)
  have hcounted : ThermalKept s0 counted := putF (above (by decide)) hread
  have hshown : ThermalKept s0 shown := showLegacy (roundMax (judgeBand (diodeNoted hcounted)))
  exact ite hshown.shutdown (ite hshown.shutdown hshown)

/-! The end of a round (R432, R444). -/

theorem publishPower (h : ThermalKept s0 s) : ThermalKept s0 (publishPower s) := by
  have hput := fun v w => (h.putF (p := pThm) (f := THM.POWER_POWER) (v := v) (i := 0) (above (by decide))).putF (p := pThm)
    (f := THM.ENERGY_LO) (v := w) (i := 0) (above (by decide))
  unfold Machine.publishPower
  dsimp only
  exact ite h ((hput _ _).same rfl ⟨rfl, rfl, rfl, rfl, rfl, rfl⟩ rfl rfl)

theorem modCal {g : CalTile → CalTile} (h : ThermalKept s0 s) : ThermalKept s0 (modCal b g s) := h.typed rfl rfl rfl rfl

theorem setPending (h : ThermalKept s0 s) : ThermalKept s0 (setPending b s) := by
  have hstamp : ∀ {u : State}, ThermalKept s0 u → ThermalKept s0 (stampTimer (tmStale b) u) := fun hu => hu.typed rfl rfl rfl rfl
  unfold Machine.setPending calRestart putSteps
  dsimp only
  exact ite h (hstamp (stepsFrom (modCal (putF (above (by decide)) (putF (above (by decide)) (modCal h))))))

theorem runTriggers {l : List Nat} (h : ThermalKept s0 s) : ThermalKept s0 (Machine.forAll l runTrigger s) :=
  forAll (fun _ _ hu => ite hu.setPending hu) h

theorem snapReady (h : ThermalKept s0 s) : ThermalKept s0 (snapReady s) := by
  unfold Machine.snapReady
  exact ite h (forAll (fun _ _ hu => hu.modCal) h)

end ThermalKept

/-- A round counted (R432). -/
def roundCounted (s : State) : State := irqBit pHkp 0 (incWrap pHkp HKP.RND_CNT 0 { s with smp := { s.smp with roundT := now s } })

theorem roundDone_kept (s : State) : ThermalKept (roundCounted s) (roundDone s) := by
  have hpower := (ThermalKept.refl (roundCounted s)).publishPower
  have hup := hpower.sampler (p := { (publishPower (roundCounted s)).smp with roundUp := (publishPower (roundCounted s)).up })
    ⟨rfl, rfl, rfl, rfl, rfl, rfl⟩
  unfold roundDone
  dsimp only
  exact ThermalKept.ite (ThermalKept.runTriggers (ThermalKept.ite hup.errRec hup)) (ThermalKept.ite hup.errRec hup)

/-! ### The code of a conversion (R434, R435) -/

/-- The state with a code of a diode at an end of its range noted (R436). -/
def codeNoted (i code : Nat) (s : State) : State :=
  if i < 12 ∧ (code = 0 ∨ code = 4095) then { s with smp := { s.smp with extreme := insertUp i s.smp.extreme } } else s

theorem codeNoted_kept (i code : Nat) (s : State) : ThermalKept s (codeNoted i code s) :=
  ThermalKept.ite ((ThermalKept.refl s).sampler ⟨rfl, rfl, rfl, rfl, rfl, rfl⟩) (ThermalKept.refl s)

theorem codeNoted_regs (i code : Nat) (s : State) : (codeNoted i code s).regs = s.regs := by
  unfold codeNoted
  split <;> rfl

/-- A table of sums for the Sampler's own. -/
def accSet (m : SMap (Nat × Nat)) (s : State) : State := { s with smp := { s.smp with acc := m } }

/-- A result written to RES and MINMAX (R434, R435). -/
def resultShown (i r : Nat) (s : State) : State :=
  let s := putF pHkp HKP.RES_FRESH 1 i (incWrap pHkp HKP.RES_SEQ i (putF pHkp HKP.RES_VALUE r i s))
  let s := putF pHkp HKP.MINMAX_MIN (min (getF s pHkp HKP.MINMAX_MIN i) r) i s
  putF pHkp HKP.MINMAX_MAX (max (getF s pHkp HKP.MINMAX_MAX i) r) i s

/-- The source and the interrupt of a result beyond its thresholds (R435). -/
def resultRaised (i r : Nat) (s : State) : State :=
  if r < getF s pHkp HKP.THR_TLO i ∨ getF s pHkp HKP.THR_THI i < r then raiseSrc (0x0C0 + i) (irqBit pHkp 1 s) else s

/-- The sum and the count of an input's conversions. -/
def accOf (s : State) (i : Nat) : Nat × Nat := smGet (0, 0) i s.smp.acc

/-- The result of an input's full sum. -/
def resultOf (s : State) (i code : Nat) : Nat := min (((accOf s i).1 + code) / 2 ^ shiftOf s i) 65535

theorem getF_codeNoted {code : Nat} (p : Nat) (g : Fld) (j : Nat) : getF (codeNoted i code s) p g j = getF s p g j :=
  getF_of_regs (codeNoted_regs i code s) p g j

theorem avgOf_codeNoted {code : Nat} : avgOf (codeNoted i code s) j = avgOf s j := by rw [avgOf, getF_codeNoted, ← avgOf]

theorem shiftOf_codeNoted {code : Nat} : shiftOf (codeNoted i code s) j = shiftOf s j := by rw [shiftOf, getF_codeNoted, ← shiftOf]

theorem enterCode_part {code : Nat} (h : (accOf s i).2 + 1 < 2 ^ avgOf s i) : enterCode i code s
    = accSet (smSet i ((accOf s i).1 + code, (accOf s i).2 + 1) (codeNoted i code s).smp.acc) (codeNoted i code s) := by
  have h' : (accOf s i).2 + 1 < 2 ^ avgOf (codeNoted i code s) i := by rwa [avgOf_codeNoted]
  exact if_pos h'

theorem enterCode_full {code : Nat} (h : 2 ^ avgOf s i ≤ (accOf s i).2 + 1) : ThermalKept
    (resultRaised i (resultOf s i code) (resultShown i (resultOf s i code) (accSet (smErase i (codeNoted i code s).smp.acc) (codeNoted i code s))))
    (enterCode i code s) := by
  have h' : ¬ (accOf s i).2 + 1 < 2 ^ avgOf (codeNoted i code s) i := by
    rw [avgOf_codeNoted]
    omega
  have hfull : enterCode i code s = (if i < 12 then diodeResult i (min (((accOf s i).1 + code) / 2 ^ shiftOf (codeNoted i code s) i) 65535)
      (resultRaised i (min (((accOf s i).1 + code) / 2 ^ shiftOf (codeNoted i code s) i) 65535)
        (resultShown i (min (((accOf s i).1 + code) / 2 ^ shiftOf (codeNoted i code s) i) 65535)
          (accSet (smErase i (codeNoted i code s).smp.acc) (codeNoted i code s))))
    else resultRaised i (min (((accOf s i).1 + code) / 2 ^ shiftOf (codeNoted i code s) i) 65535)
        (resultShown i (min (((accOf s i).1 + code) / 2 ^ shiftOf (codeNoted i code s) i) 65535)
          (accSet (smErase i (codeNoted i code s).smp.acc) (codeNoted i code s)))) := if_neg h'
  rw [hfull, shiftOf_codeNoted, ← resultOf]
  exact ThermalKept.ite (ThermalKept.refl _).diodeResult (ThermalKept.refl _)

/-- Fields of RES or of MINMAX: they stand in registers of their own for each input. -/
theorem hkpAddr_ne {g : Fld} (hf : f.stride = 0x10 ∧ 0x100 ≤ f.off) (hg : g.stride = 0x10 ∧ 0x100 ≤ g.off)
    (h : f.off < 0x110 ∧ g.off < 0x110 ∧ (g.off ≠ f.off ∨ j ≠ i)) : g.addr pHkp j ≠ f.addr pHkp i := by
  obtain ⟨hf, hf'⟩ := hf
  obtain ⟨hg, hg'⟩ := hg
  simp only [Fld.addr, pHkp, hf, hg]
  omega

/-- What a result shows. -/
structure ResultShown (i r : Nat) (s t : State) : Prop where
  value : getF t pHkp HKP.RES_VALUE i = r
  fresh : isSet t pHkp HKP.RES_FRESH i = true
  seq : getF t pHkp HKP.RES_SEQ i = (getF s pHkp HKP.RES_SEQ i + 1) % 256
  low : getF t pHkp HKP.MINMAX_MIN i = min (getF s pHkp HKP.MINMAX_MIN i) r
  high : getF t pHkp HKP.MINMAX_MAX i = max (getF s pHkp HKP.MINMAX_MAX i) r

/-- RES of a result. -/
def resShown (i r : Nat) (s : State) : State := putF pHkp HKP.RES_FRESH 1 i (incWrap pHkp HKP.RES_SEQ i (putF pHkp HKP.RES_VALUE r i s))

/-- MIN of a result. -/
def minShown (i r : Nat) (s : State) : State := putF pHkp HKP.MINMAX_MIN (min (getF s pHkp HKP.MINMAX_MIN i) r) i s

/-- MAX of a result. -/
def maxShown (i r : Nat) (s : State) : State := putF pHkp HKP.MINMAX_MAX (max (getF s pHkp HKP.MINMAX_MAX i) r) i s

theorem resultShown_eq (i r : Nat) (s : State) : resultShown i r s = maxShown i r (minShown i r (resShown i r s)) := rfl

theorem getF_resShown_other {g : Fld} (hne : g.addr pHkp j ≠ HKP.RES.addr pHkp i) : getF (resShown i v s) pHkp g j = getF s pHkp g j := by
  have hput : ∀ (f : Fld) (u : State) (x : Nat), f.addr pHkp i = HKP.RES.addr pHkp i → getF (putF pHkp f x i u) pHkp g j = getF u pHkp g j :=
    fun f u x hf => getF_putF_reg (by rw [hf]; exact hne) x u
  rw [resShown, incWrap, hput HKP.RES_FRESH _ _ rfl, hput HKP.RES_SEQ _ _ rfl, hput HKP.RES_VALUE _ _ rfl]

theorem resultShown_other {g : Fld} (h1 : g.addr pHkp j ≠ HKP.RES.addr pHkp i) (h2 : g.addr pHkp j ≠ HKP.MINMAX.addr pHkp i) :
    getF (resultShown i v s) pHkp g j = getF s pHkp g j := by
  have hput : ∀ (f : Fld) (u : State) (x : Nat), f.addr pHkp i = HKP.MINMAX.addr pHkp i → getF (putF pHkp f x i u) pHkp g j = getF u pHkp g j :=
    fun f u x hf => getF_putF_reg (by rw [hf]; exact h2) x u
  rw [resultShown_eq, maxShown, hput HKP.MINMAX_MAX _ _ rfl, minShown, hput HKP.MINMAX_MIN _ _ rfl, getF_resShown_other h1]

theorem resultShown_fields (hr : v ≤ 65535) : ResultShown i v s (resultShown i v s) := by
  have hlt : v % 65536 = v := Nat.mod_eq_of_lt (by omega)
  have hmm : HKP.MINMAX.addr pHkp i ≠ HKP.RES.addr pHkp i := hkpAddr_ne (by decide) (by decide) ⟨by decide, by decide, .inl (by decide)⟩
  have hres : ∀ g : Fld, g.addr pHkp i = HKP.RES.addr pHkp i → getF (resultShown i v s) pHkp g i = getF (resShown i v s) pHkp g i := by
    intro g hg
    rw [resultShown_eq, maxShown, getF_putF_reg (by rw [hg]; exact hmm.symm), minShown, getF_putF_reg (by rw [hg]; exact hmm.symm)]
  have hmin : getF (minShown i v (resShown i v s)) pHkp HKP.MINMAX_MIN i = min (getF s pHkp HKP.MINMAX_MIN i) v := by
    rw [minShown, getF_putF _ _ _ _ _ (by decide), getF_resShown_other (g := HKP.MINMAX_MIN) hmm]
    exact Nat.mod_eq_of_lt (Nat.lt_of_le_of_lt (Nat.min_le_right _ _) (Nat.lt_succ_of_le hr))
  have hbelow := getF_lt s pHkp HKP.MINMAX_MAX i
  refine ⟨?_, ?_, ?_, ?_, ?_⟩
  · rw [hres HKP.RES_VALUE rfl, resShown, getF_putF_beside (by decide), incWrap, getF_putF_beside (by decide), getF_putF _ _ _ _ _ (by decide)]
    exact hlt
  · rw [isSet, hres HKP.RES_FRESH rfl, resShown, getF_putF _ _ _ _ _ (by decide)]
    rfl
  · rw [hres HKP.RES_SEQ rfl, resShown, getF_putF_beside (by decide), incWrap, getF_putF _ _ _ _ _ (by decide), getF_putF_beside (by decide)]
    exact Nat.mod_mod _ _
  · rw [resultShown_eq, maxShown, getF_putF_beside (by decide), hmin]
  · rw [resultShown_eq, maxShown, getF_putF _ _ _ _ _ (by decide), minShown, getF_putF_beside (by decide),
      getF_resShown_other (g := HKP.MINMAX_MAX) hmm]
    exact Nat.mod_eq_of_lt (Nat.max_lt.2 ⟨hbelow, Nat.lt_succ_of_le hr⟩)

/-! ### A conversion from its code to the Sampler's next work (R431 to R435) -/

/-- The state a result is written to: the code noted, and the sum of its input begun anew. -/
def resultBase (i code : Nat) (s : State) : State := accSet (smErase i (codeNoted i code s).smp.acc) (codeNoted i code s)

theorem codeNoted_smp (i code : Nat) (s : State) : SamplerSame s.smp (codeNoted i code s).smp := (codeNoted_kept i code s).smp

theorem getF_resultBase {code : Nat} (p : Nat) (g : Fld) (j : Nat) : getF (resultBase i code s) p g j = getF s p g j := getF_codeNoted p g j

theorem rdWord_resultRaised {a : Nat} (ha : hkpReg a) : rdWord (resultRaised i v s) a = rdWord s a := by
  have hirq : rdWord (irqBit pHkp 1 s) a = rdWord s a := (ThermalKept.refl s).irqBit.regs a ha
  unfold resultRaised
  split
  · exact hirq
  · rfl

/-- What the Sampler holds besides its sums, and the clock. -/
structure WorkSame (s t : State) : Prop where
  cur : t.smp.cur = s.smp.cur
  rnd : t.smp.rnd = s.smp.rnd
  rndPend : t.smp.rndPend = s.smp.rndPend
  injPend : t.smp.injPend = s.smp.injPend
  injRun : t.smp.injRun = s.smp.injRun
  up : t.up = s.up

theorem WorkSame.trans {u : State} (h : WorkSame s t) (h' : WorkSame t u) : WorkSame s u := by
  obtain ⟨h1, h2, h3, h4, h5, h6⟩ := h
  obtain ⟨h1', h2', h3', h4', h5', h6'⟩ := h'
  exact ⟨h1'.trans h1, h2'.trans h2, h3'.trans h3, h4'.trans h4, h5'.trans h5, h6'.trans h6⟩

theorem WorkSame.of_kept (h : ThermalKept s t) : WorkSame s t :=
  ⟨h.smp.cur, h.smp.rnd, h.smp.rndPend, h.smp.injPend, h.smp.injRun, h.up⟩

theorem resultRaised_work : WorkSame s (resultRaised i v s) ∧ (resultRaised i v s).smp.acc = s.smp.acc := by
  unfold resultRaised
  split
  · have h := (ThermalKept.refl s).irqBit (p := pHkp) (n := 1)
    exact ⟨(WorkSame.of_kept h).trans ⟨rfl, rfl, rfl, rfl, rfl, rfl⟩, h.smp.acc⟩
  · exact ⟨⟨rfl, rfl, rfl, rfl, rfl, rfl⟩, rfl⟩

/-- What the code of a conversion makes of its input, and leaves of the others (R434, R435). -/
structure CodeEntered (i code : Nat) (s t : State) : Prop where
  work : WorkSame s t
  part : (accOf s i).2 + 1 < 2 ^ avgOf s i → smFind i t.smp.acc = some ((accOf s i).1 + code, (accOf s i).2 + 1)
    ∧ rdWord t (HKP.RES.addr pHkp i) = rdWord s (HKP.RES.addr pHkp i) ∧ rdWord t (HKP.MINMAX.addr pHkp i) = rdWord s (HKP.MINMAX.addr pHkp i)
  full : 2 ^ avgOf s i ≤ (accOf s i).2 + 1 → smFind i t.smp.acc = none ∧ ResultShown i (resultOf s i code) s t
    ∧ (resultOf s i code < getF s pHkp HKP.THR_TLO i ∨ getF s pHkp HKP.THR_THI i < resultOf s i code →
      irqStat t pHkp 1 = true ∧ (0x0C0 + i, mfc s) ∈ t.evm.raised)
  others : ∀ a, hkpReg a → a ≠ HKP.RES.addr pHkp i → a ≠ HKP.MINMAX.addr pHkp i → rdWord t a = rdWord s a

theorem putF_work {p : Nat} : WorkSame s (putF p f v i s) := ⟨rfl, rfl, rfl, rfl, rfl, rfl⟩

theorem resultShown_work : WorkSame s (resultShown i v s) ∧ (resultShown i v s).smp = s.smp ∧ mfc (resultShown i v s) = mfc s := by
  rw [resultShown_eq, maxShown, minShown, resShown, incWrap]
  exact ⟨putF_work.trans (putF_work.trans (putF_work.trans (putF_work.trans putF_work))), rfl, rfl⟩

theorem resultShown_rdWord {a : Nat} (h1 : a ≠ HKP.RES.addr pHkp i) (h2 : a ≠ HKP.MINMAX.addr pHkp i) :
    rdWord (resultShown i v s) a = rdWord s a := by
  have hput : ∀ (f : Fld) (u : State) (x : Nat), a ≠ f.addr pHkp i → rdWord (putF pHkp f x i u) a = rdWord u a :=
    fun f u x hf => rdWord_wrWord_other hf _ _
  rw [resultShown_eq, maxShown, hput HKP.MINMAX_MAX _ _ h2, minShown, hput HKP.MINMAX_MIN _ _ h2, resShown, incWrap,
    hput HKP.RES_FRESH _ _ h1, hput HKP.RES_SEQ _ _ h1, hput HKP.RES_VALUE _ _ h1]

theorem hkpReg_input (hi : i < 48) (hf : f.stride = 0x10 ∧ 0x100 ≤ f.off ∧ f.off < 0x110) : hkpReg (f.addr pHkp i) := by
  obtain ⟨h1, h2, h3⟩ := hf
  simp only [hkpReg, Fld.addr, pHkp, h1]
  omega

theorem getF_of_word {p : Nat} (h : rdWord t (f.addr p i) = rdWord s (f.addr p i)) : getF t p f i = getF s p f i := congrArg f.of h

theorem mem_raiseSrc (n : Nat) (u : State) : (n, mfc u) ∈ (raiseSrc n u).evm.raised := List.mem_append_right _ (List.mem_singleton_self _)

theorem mfc_resultBase {code : Nat} : mfc (resultBase i code s) = mfc s := by
  have h : mfc (codeNoted i code s) = mfc s := by
    unfold codeNoted
    split <;> rfl
  exact h

theorem enterCode_entered {code : Nat} (hi : i < 48) : CodeEntered i code s (enterCode i code s) := by
  have hbase : WorkSame s (resultBase i code s) := WorkSame.trans (WorkSame.of_kept (codeNoted_kept i code s)) ⟨rfl, rfl, rfl, rfl, rfl, rfl⟩
  have hnoted : ∀ a, rdWord (codeNoted i code s) a = rdWord s a := fun a => by rw [rdWord, codeNoted_regs, ← rdWord]
  by_cases hpart : (accOf s i).2 + 1 < 2 ^ avgOf s i
  · rw [enterCode_part hpart]
    refine ⟨(WorkSame.of_kept (codeNoted_kept i code s)).trans ⟨rfl, rfl, rfl, rfl, rfl, rfl⟩, fun _ => ⟨smFind_smSet_same _ _ _, hnoted _, hnoted _⟩,
      fun h => absurd hpart (Nat.not_lt.2 h), fun a _ _ _ => hnoted a⟩
  · have hfull := Nat.not_lt.1 hpart
    have hk := enterCode_full (s := s) (code := code) hfull
    rw [← resultBase] at hk
    obtain ⟨hraised, hacc⟩ := resultRaised_work (i := i) (v := resultOf s i code) (s := resultShown i (resultOf s i code) (resultBase i code s))
    have hwork : WorkSame s (enterCode i code s) :=
      (hbase.trans resultShown_work.1).trans (hraised.trans (WorkSame.of_kept hk))
    have hword : ∀ a, hkpReg a → rdWord (enterCode i code s) a = rdWord (resultShown i (resultOf s i code) (resultBase i code s)) a :=
      fun a ha => (hk.regs a ha).trans (rdWord_resultRaised ha)
    have hget : ∀ g : Fld, g.stride = 0x10 ∧ 0x100 ≤ g.off ∧ g.off < 0x110 →
        getF (enterCode i code s) pHkp g i = getF (resultShown i (resultOf s i code) (resultBase i code s)) pHkp g i :=
      fun g hg => getF_of_word (hword _ (hkpReg_input hi hg))
    have hr : resultOf s i code ≤ 65535 := Nat.min_le_right _ _
    obtain ⟨h1, h2, h3, h4, h5⟩ := resultShown_fields (i := i) (s := resultBase i code s) hr
    rw [getF_resultBase] at h3 h4 h5
    refine ⟨hwork, fun h => absurd h hpart, fun _ => ⟨?_, ⟨?_, ?_, ?_, ?_, ?_⟩, fun hthr => ?_⟩, fun a ha h1 h2 => ?_⟩
    · rw [hk.smp.acc, hacc, resultShown_work.2.1]
      exact smFind_smErase_same _ _
    · rw [hget _ (by decide), h1]
    · rw [isSet, hget _ (by decide), ← isSet, h2]
    · rw [hget _ (by decide), h3]
    · rw [hget _ (by decide), h4]
    · rw [hget _ (by decide), h5]
    · have hne : ∀ g : Fld, g.stride = 0x10 ∧ g.off = 0x10C →
          getF (resultShown i (resultOf s i code) (resultBase i code s)) pHkp g i = getF s pHkp g i := by
        intro g hg
        rw [resultShown_other, getF_resultBase]
        · exact hkpAddr_ne (by decide) ⟨hg.1, by omega⟩ ⟨by decide, by omega, .inl (by rw [hg.2]; decide)⟩
        · exact hkpAddr_ne (by decide) ⟨hg.1, by omega⟩ ⟨by decide, by omega, .inl (by rw [hg.2]; decide)⟩
      have hraise : resultRaised i (resultOf s i code) (resultShown i (resultOf s i code) (resultBase i code s))
          = raiseSrc (0x0C0 + i) (irqBit pHkp 1 (resultShown i (resultOf s i code) (resultBase i code s))) := by
        refine if_pos ?_
        rw [hne _ (by decide), hne _ (by decide)]
        exact hthr
      rw [hraise] at hk
      refine ⟨hk.irq 1 (irqStat_irqBit_same (by decide)), ?_⟩
      have hmfc : mfc (irqBit pHkp 1 (resultShown i (resultOf s i code) (resultBase i code s))) = mfc s := by
        rw [mfc, irqBit_mck, ← mfc, resultShown_work.2.2, mfc_resultBase]
      rw [hk.evm, ← hmfc]
      exact mem_raiseSrc _ _
    · rw [hword a ha, resultShown_rdWord h1 h2]
      exact hnoted a

/-- The state in which a conversion has ended, but for the Sampler's next work. -/
def convEnded (last : Bool) (u : State) : State :=
  snapReady (if last then roundDone { u with smp := { u.smp with cur := none } } else { u with smp := { u.smp with cur := none } })

/-- Whether a conversion is the last of its round. -/
def lastConv (s : State) (c : Conv) : Bool :=
  match c with
  | .round _ _ => s.smp.rnd.isNone
  | .inj _ => false

theorem exec_conversion {c : Conv} {code : Nat} (hcur : s.smp.cur = some c) (hon : samplerOn s = true) (hdue : s.smp.due ≤ s.up) :
    exec (.samplerConversionDone code) s = .next (takeWork 0 (convEnded (lastConv s c) (enterCode (convInput s c) code s))) := by
  have hexec : exec (.samplerConversionDone code) s = execSamplerConversionDone code s := rfl
  rw [hexec, execSamplerConversionDone, hcur]
  exact if_neg (by rw [hon]; simpa using hdue)

theorem conversion_none {code : Nat} (h : s.smp.cur = none ∨ samplerOn s = false ∨ s.up < s.smp.due) :
    exec (.samplerConversionDone code) s = .next s := by
  have hexec : exec (.samplerConversionDone code) s = execSamplerConversionDone code s := rfl
  rw [hexec, execSamplerConversionDone]
  cases hcur : s.smp.cur with
  | none => rfl
  | some c =>
    refine if_pos ?_
    rw [hcur] at h
    obtain h | h | h := h
    · exact nomatch h
    · simp [h]
    · simp [h]

theorem takeWork_acc (w : Nat) (s : State) : (takeWork w s).smp.acc = s.smp.acc := by
  unfold takeWork
  dsimp only
  split
  · split <;> rw [showSampler_smp]
  · split <;> rw [showSampler_smp]

/-- What the end of a conversion and the next work keep of what its code has entered. -/
structure ConvKept (s t : State) : Prop where
  regs : ∀ a, hkpReg a → a ≠ HKP.RND_CNT.addr pHkp 0 → rdWord t a = rdWord s a
  irq : ∀ n, irqStat s pHkp n = true → irqStat t pHkp n = true
  evm : t.evm = s.evm
  acc : t.smp.acc = s.smp.acc

theorem ConvKept.of_kept (h : ThermalKept s t) : ConvKept s t := ⟨fun a ha _ => h.regs a ha, h.irq, h.evm, h.smp.acc⟩

theorem ConvKept.trans {u : State} (h : ConvKept s t) (h' : ConvKept t u) : ConvKept s u :=
  ⟨fun a ha hne => (h'.regs a ha hne).trans (h.regs a ha hne), fun n hn => h'.irq n (h.irq n hn), h'.evm.trans h.evm, h'.acc.trans h.acc⟩

theorem roundCounted_kept (s : State) : ConvKept s (roundCounted s) ∧ WorkSame s (roundCounted s)
    ∧ getF (roundCounted s) pHkp HKP.RND_CNT = (getF s pHkp HKP.RND_CNT + 1) % 2 ^ 32 ∧ irqStat (roundCounted s) pHkp 0 = true := by
  have hirq : ∀ u, ThermalKept u (irqBit pHkp 0 u) := fun u => (ThermalKept.refl u).irqBit
  have hinc : ConvKept s (incWrap pHkp HKP.RND_CNT 0 { s with smp := { s.smp with roundT := now s } }) := by
    refine ⟨fun a _ hne => rdWord_wrWord_other hne _ _, fun n hn => ?_, rfl, rfl⟩
    rw [incWrap, irqStat_putF (by decide)]
    exact hn
  have hwork : WorkSame s (incWrap pHkp HKP.RND_CNT 0 { s with smp := { s.smp with roundT := now s } }) :=
    ⟨rfl, rfl, rfl, rfl, rfl, rfl⟩
  refine ⟨hinc.trans (ConvKept.of_kept (hirq _)), hwork.trans (WorkSame.of_kept (hirq _)), ?_,
    irqStat_irqBit_same (by decide)⟩
  rw [roundCounted, getF_of_word ((hirq _).regs _ (by unfold hkpReg; decide)), incWrap, getF_putF _ _ _ _ _ (by decide)]
  exact Nat.mod_mod _ _

/-- The state in which the Sampler has nothing in progress. -/
def convCleared (u : State) : State := { u with smp := { u.smp with cur := none } }

theorem convEnded_kept (last : Bool) (u : State) : ConvKept u (convEnded last u) ∧ WorkSame (convCleared u) (convEnded last u)
    ∧ (last = true → getF (convEnded last u) pHkp HKP.RND_CNT = (getF u pHkp HKP.RND_CNT + 1) % 2 ^ 32
      ∧ irqStat (convEnded last u) pHkp 0 = true) := by
  have hclear : ConvKept u (convCleared u) := ⟨fun _ _ _ => rfl, fun _ hn => hn, rfl, rfl⟩
  have hsnap : ∀ w : State, ThermalKept w (snapReady w) := fun w => (ThermalKept.refl w).snapReady
  cases last
  case false =>
    have heq : convEnded false u = snapReady (convCleared u) := rfl
    rw [heq]
    exact ⟨hclear.trans (ConvKept.of_kept (hsnap _)), WorkSame.of_kept (hsnap _), fun h => nomatch h⟩
  case true =>
    have heq : convEnded true u = snapReady (roundDone (convCleared u)) := rfl
    have hk := (roundDone_kept (convCleared u)).trans (hsnap _)
    obtain ⟨hcount, hwork, hcnt, hirq⟩ := roundCounted_kept (convCleared u)
    rw [heq]
    refine ⟨(hclear.trans hcount).trans (ConvKept.of_kept hk), hwork.trans (WorkSame.of_kept hk), fun _ => ⟨?_, hk.irq 0 hirq⟩⟩
    rw [getF_of_word (hk.regs _ (by unfold hkpReg; decide)), hcnt]
    rfl

theorem takeWork_kept (w : Nat) (s : State) : ConvKept s (takeWork w s)
    ∧ getF (takeWork w s) pHkp HKP.RND_CNT = getF s pHkp HKP.RND_CNT := by
  have hregs := takeWork_regsSame w s
  have htyped := takeWork_typed w s
  unfold typedSame at htyped
  refine ⟨⟨fun a ha _ => hregs a ?_, fun n hn => ?_, by rw [htyped], takeWork_acc w s⟩, regsSame_getF hregs (by decide)⟩
  · rintro hm
    rw [List.mem_singleton] at hm
    subst hm
    exact absurd ha (by unfold hkpReg; decide)
  · exact (irqStat_eq_of_rdWord (hregs _ (by decide))).trans hn

theorem roundAfter_congr {x : Nat × Bool} (h : ∀ j < 48, isSet t pHkp HKP.ICFG_EN j = isSet s pHkp HKP.ICFG_EN j) :
    roundAfter t x = roundAfter s x := by
  have hlist : roundList t = roundList s := by
    unfold roundList
    refine congrArg List.flatten (List.map_congr_left fun j hj => ?_)
    rw [h j (List.mem_range.1 hj)]
  rw [roundAfter, roundAfter, hlist]

/-- The state after a conversion. -/
def convDone (last : Bool) (i code : Nat) (s : State) : State := takeWork 0 (convEnded last (enterCode i code s))

theorem convDone_kept (last : Bool) (code : Nat) : ConvKept (enterCode i code s) (convDone last i code s) :=
  (convEnded_kept last _).1.trans (takeWork_kept 0 _).1

/-- The work of the Sampler once the conversion in progress has ended. -/
theorem convWork {code : Nat} (hi : i < 48) (last : Bool) :
    WorkSame (convCleared s) (convEnded last (enterCode i code s)) := by
  obtain ⟨h1, h2, h3, h4, h5, h6⟩ := (enterCode_entered (s := s) (code := code) hi).work
  exact WorkSame.trans (s := convCleared s) (t := convCleared (enterCode i code s)) ⟨rfl, h2, h3, h4, h5, h6⟩ (convEnded_kept last _).2.1

/-- What a conversion makes of the inputs (R434, R435). -/
theorem convInputs {last : Bool} {code : Nat} (hi : i < 48) :
    ((accOf s i).2 + 1 < 2 ^ avgOf s i → smFind i (convDone last i code s).smp.acc = some ((accOf s i).1 + code, (accOf s i).2 + 1)
      ∧ rdWord (convDone last i code s) (HKP.RES.addr pHkp i) = rdWord s (HKP.RES.addr pHkp i)
      ∧ rdWord (convDone last i code s) (HKP.MINMAX.addr pHkp i) = rdWord s (HKP.MINMAX.addr pHkp i))
    ∧ (2 ^ avgOf s i ≤ (accOf s i).2 + 1 → smFind i (convDone last i code s).smp.acc = none
      ∧ getF (convDone last i code s) pHkp HKP.RES_VALUE i = resultOf s i code ∧ isSet (convDone last i code s) pHkp HKP.RES_FRESH i = true
      ∧ getF (convDone last i code s) pHkp HKP.RES_SEQ i = (getF s pHkp HKP.RES_SEQ i + 1) % 256
      ∧ getF (convDone last i code s) pHkp HKP.MINMAX_MIN i = min (getF s pHkp HKP.MINMAX_MIN i) (resultOf s i code)
      ∧ getF (convDone last i code s) pHkp HKP.MINMAX_MAX i = max (getF s pHkp HKP.MINMAX_MAX i) (resultOf s i code)
      ∧ (resultOf s i code < getF s pHkp HKP.THR_TLO i ∨ getF s pHkp HKP.THR_THI i < resultOf s i code →
        irqStat (convDone last i code s) pHkp 1 = true ∧ (0x0C0 + i, mfc s) ∈ (convDone last i code s).evm.raised))
    ∧ (∀ j < 48, j ≠ i → rdWord (convDone last i code s) (HKP.RES.addr pHkp j) = rdWord s (HKP.RES.addr pHkp j)) := by
  obtain ⟨-, hpart, hfull, hothers⟩ := enterCode_entered (s := s) (code := code) hi
  have hk := convDone_kept (s := s) (i := i) last code
  have hcnt : ∀ {f : Fld} {j : Nat}, f.stride = 0x10 ∧ 0x100 ≤ f.off ∧ f.off < 0x110 → f.addr pHkp j ≠ HKP.RND_CNT.addr pHkp 0 := by
    intro f j hf
    simp only [Fld.addr, HKP.RND_CNT, pHkp]
    omega
  have hword : ∀ {f : Fld} {j : Nat}, j < 48 → f.stride = 0x10 ∧ 0x100 ≤ f.off ∧ f.off < 0x110 →
      rdWord (convDone last i code s) (f.addr pHkp j) = rdWord (enterCode i code s) (f.addr pHkp j) :=
    fun hj hf => hk.regs _ (hkpReg_input hj hf) (hcnt hf)
  refine ⟨fun h => ?_, fun h => ?_, fun j hj hne => ?_⟩
  · obtain ⟨h1, h2, h3⟩ := hpart h
    rw [hk.acc, hword hi (by decide), hword hi (by decide)]
    exact ⟨h1, h2, h3⟩
  · obtain ⟨h1, ⟨h2, h3, h4, h5, h6⟩, h7⟩ := hfull h
    rw [hk.acc, isSet, getF_of_word (hword hi (by decide)), getF_of_word (hword hi (by decide)), getF_of_word (hword hi (by decide)),
      getF_of_word (hword hi (by decide)), getF_of_word (hword hi (by decide)), hk.evm]
    exact ⟨h1, h2, h3, h4, h5, h6, fun ht => (h7 ht).imp_left (hk.irq 1)⟩
  · rw [hword hj (by decide)]
    refine hothers _ (hkpReg_input hj (by decide)) ?_ ?_
    · exact hkpAddr_ne (by decide) (by decide) ⟨by decide, by decide, .inr hne⟩
    · exact hkpAddr_ne (by decide) (by decide) ⟨by decide, by decide, .inl (by decide)⟩

theorem convIdle {last : Bool} {code : Nat} (hi : i < 48) (hinj : s.smp.injPend = []) (hrnd : s.smp.rnd = none) (hpend : s.smp.rndPend = false) :
    (convDone last i code s).smp.cur = none ∧ isSet (convDone last i code s) pHkp HKP.STATUS_ON = false := by
  obtain ⟨-, h2, h3, h4, -, -⟩ := convWork (s := s) (code := code) hi last
  have hcur : (convDone last i code s).smp.cur = none := by
    rw [convDone, takeWork_none 0 (h4.trans hinj) (by rw [h2, h3]; exact (congrArg₂ (fun a b => a.isSome || b) hrnd hpend))]
  refine ⟨hcur, ?_⟩
  rw [convDone, (takeWork_flags 0 _).1, ← convDone, hcur]
  rfl

theorem roundAfter_convEnded {last : Bool} {code : Nat} {x : Nat × Bool} (hi : i < 48) :
    roundAfter (convEnded last (enterCode i code s)) x = roundAfter s x := by
  obtain ⟨-, -, -, hothers⟩ := enterCode_entered (s := s) (code := code) hi
  refine roundAfter_congr fun j hj => ?_
  have hreg : hkpReg (HKP.ICFG_EN.addr pHkp j) := hkpReg_input hj (by decide)
  have hcnt : HKP.ICFG_EN.addr pHkp j ≠ HKP.RND_CNT.addr pHkp 0 := by
    simp only [Fld.addr, HKP.ICFG_EN, HKP.RND_CNT, pHkp]
    omega
  have hsame := ((convEnded_kept last (enterCode i code s)).1.regs _ hreg hcnt).trans (hothers _ hreg
    (hkpAddr_ne (by decide) (by decide) ⟨by decide, by decide, .inl (by decide)⟩)
    (hkpAddr_ne (by decide) (by decide) ⟨by decide, by decide, .inl (by decide)⟩))
  rw [isSet, isSet, getF_of_word hsame]

theorem convRound {last : Bool} {code : Nat} {x : Nat × Bool} (hi : i < 48) (hinj : s.smp.injPend = []) (hrnd : s.smp.rnd = some x) :
    (convDone last i code s).smp.cur = some (.round x.1 x.2) ∧ (convDone last i code s).smp.rnd = roundAfter s x
      ∧ (convDone last i code s).smp.due = s.up + 1024 := by
  obtain ⟨-, h2, h3, h4, -, h6⟩ := convWork (s := s) (code := code) hi last
  have hrnd' : (convEnded last (enterCode i code s)).smp.rnd = some x := h2.trans hrnd
  obtain ⟨g1, g2, g3, -, -⟩ := takeWork_round (s := convEnded last (enterCode i code s)) 0 (.inl (h4.trans hinj)) (by rw [hrnd']; rfl)
  rw [nextOf, hrnd', Option.getD_some] at g1 g2
  exact ⟨g1, g2.trans (roundAfter_convEnded hi), g3.trans (congrArg (· + 0 + 1024) h6)⟩

theorem convInjected {last : Bool} {code : Nat} (hi : i < 48) (hrun : s.smp.injRun < 4) (hk : k ∈ s.smp.injPend.take 1) :
    (convDone last i code s).smp.cur = some (.inj k) ∧ (convDone last i code s).smp.injPend = s.smp.injPend.tail
      ∧ (convDone last i code s).smp.rnd = s.smp.rnd := by
  obtain ⟨-, h2, -, h4, h5, -⟩ := convWork (s := s) (code := code) hi last
  have h4' : (convEnded last (enterCode i code s)).smp.injPend = s.smp.injPend := h4
  have h5' : (convEnded last (enterCode i code s)).smp.injRun = s.smp.injRun := h5
  cases hinj : s.smp.injPend with
  | nil =>
    rw [hinj] at hk
    exact absurd hk List.not_mem_nil
  | cons j l =>
    rw [hinj] at hk
    obtain rfl := List.mem_singleton.1 hk
    rw [convDone, takeWork_inj 0 (h4'.trans hinj) (.inl (by rw [h5']; exact hrun))]
    exact ⟨rfl, rfl, h2⟩

theorem convCounted {last : Bool} {code : Nat} (hi : i < 48) (hlast : last = true) :
    getF (convDone last i code s) pHkp HKP.RND_CNT = (getF s pHkp HKP.RND_CNT + 1) % 2 ^ 32 ∧ irqStat (convDone last i code s) pHkp 0 = true := by
  obtain ⟨-, -, -, hothers⟩ := enterCode_entered (s := s) (code := code) hi
  obtain ⟨-, -, hcount⟩ := convEnded_kept last (enterCode i code s)
  obtain ⟨hcnt, hirq⟩ := hcount hlast
  obtain ⟨hkept, hsame⟩ := takeWork_kept 0 (convEnded last (enterCode i code s))
  have hin : getF (enterCode i code s) pHkp HKP.RND_CNT = getF s pHkp HKP.RND_CNT := by
    refine getF_of_word (hothers _ (by unfold hkpReg; decide) ?_ ?_)
    all_goals
      simp only [Fld.addr, HKP.RND_CNT, HKP.RES, HKP.MINMAX, pHkp]
      omega
  exact ⟨by rw [convDone, hsame, hcnt, hin], hkept.irq 0 hirq⟩

/-- Settles O47. -/
theorem samplerTriggersAndConversions : Obligations.SamplerTriggersAndConversions := by
  unfold Obligations.SamplerTriggersAndConversions
  intro s who
  refine ⟨fun h => ?_, fun h hopen => ?_, fun h hopen => ?_, fun h hon hpend hruns => ?_, fun hopen hon hpend hruns => ?_, fun h hon hmiss => ?_,
    fun mask _ hopen hoff => ?_, fun mask _ hopen hon => ?_, fun code _ h => conversion_none h, fun code _ c hcur hon hdue hi => ?_⟩
  case refine_1 => rw [exec_samplerRoundTimer, if_neg (by rw [h]; decide)]
  case refine_2 => rw [exec_samplerRgo hopen, roundTrigger_off h]
  case refine_3 =>
    have hopen' : busOpen (stampTimer tmRound s) who pHkp = true := hopen
    rw [exec_samplerRoundTimer, if_pos h, exec_samplerRgo hopen']
  case refine_4 =>
    obtain ⟨h1, h2, h3, h4⟩ := roundTrigger_registered (s := stampTimer tmRound s) hon hpend hruns
    rw [exec_samplerRoundTimer, if_pos h]
    exact ⟨_, rfl, h1, h2, h3, h4⟩
  case refine_5 =>
    obtain ⟨h1, h2, h3, h4⟩ := roundTrigger_registered hon hpend hruns
    refine ⟨_, exec_samplerRgo hopen, fun hc hp => ?_, fun hc => (h2 hc).1, h3, h4⟩
    obtain ⟨hcur, -, hdue, -⟩ := h1 hc hp
    exact ⟨hcur, hdue⟩
  case refine_6 =>
    have hover : roundTrigger (stampTimer tmRound s) = overrun 0 (stampTimer tmRound s) := roundTrigger_missed hon hmiss
    rw [exec_samplerRoundTimer, if_pos h, hover]
    exact ⟨_, rfl, overrun_smp, overrun_bit (by decide), overrun_ovr.2, overrun_irq, overrun_typed⟩
  case refine_7 => rw [exec_injGo hopen, injAll_off hoff]
  case refine_8 =>
    exact ⟨_, exec_injGo hopen, fun k hk hm => injAll_holds hon hk hm, fun k _ hm hh => injAll_others hm hh,
      fun k hk hm hh => injAll_missed hon hk hm hh, (injAll_step mask s).typed⟩
  case refine_9 =>
    refine ⟨_, exec_conversion hcur hon hdue, convInputs hi, fun hinj hrnd hpend => ?_, fun hinj n hn => ?_, fun hrun k hk => ?_, fun i x hc hn => ?_⟩
    · exact convIdle hi hinj hrnd hpend
    · exact convRound hi hinj hn
    · exact convInjected hi hrun hk
    · refine convCounted hi ?_
      rw [hc]
      exact Option.isNone_iff_eq_none.2 hn

end Sys2Proof.Machine
end

section
/-!
PROOFS. The overrange of an ADC whose interleave correction is still in force while a write that clears IL_EN waits (R15, R200, R201).
-/
namespace Sys2Proof.Machine

/-- Sample 1 of every sixteen is raised by 127/8 LSB, and IL_EN reads 0 while the word in force still has it set. -/
def stIlWaits : State :=
  { wrWord (RDO.ADC_IL.addr (tilePage 16) 1) 0x7F00#32 (wrWord (RDO.ADC_CFG.addr (tilePage 16) 0) 0#32 readyState) with
    held := [(RDO.ADC_CFG.addr (tilePage 16) 0, 1#32)] }

/-- The codes of an fc at the upper end of the 12-bit range. -/
def topCodes : List Int := List.replicate 10 2047

theorem stIlWaits_overrange :
    isSet (nextState stIlWaits (exec (.adcOverrange { tile := 16, codes := topCodes }) stIlWaits)) (tilePage 16) RDO.ADC_STAT_OVR = true := by
  decide +kernel

/-- Refutes O24: IL_EN reads 0, yet the correction in force adds an offset to a code of 2,047, whose sample is clipped, so the fc is
not one that changes nothing. -/
theorem not_windows : ¬ Obligations.Windows := by
  intro h
  obtain ⟨-, -, -, -, -, hnone⟩ := h stIlWaits 16 0 (by decide) (by decide) (by decide)
  have hexec := hnone topCodes (.inr (by decide +kernel))
  have hovr := stIlWaits_overrange
  rw [nextState_eq hexec] at hovr
  exact absurd hovr (by decide +kernel)

end Sys2Proof.Machine
end

section
/-!
PROOFS. Unmixing and discrimination (R222 to R238): the windows of a tile under the operations on its measurement sets, and what a
result's record, statistics and tracking keep of the result ring and of the publications.
-/
namespace Sys2Proof.Machine

variable {s s0 t : State} {a b i j n k v p : Nat} {f : Fld} {w : Win}

/-! ### The measurement sets of a tile -/

theorem mem_winsOf {x : MSet × Win} : x ∈ winsOf s b ↔ x.1 ∈ (rdoOf s b).sets ∧ x.2 ∈ x.1.wins := by
  obtain ⟨m, w⟩ := x
  unfold winsOf
  simp only [List.mem_flatten, List.mem_map, exists_exists_and_eq_and, Prod.mk.injEq]
  exact ⟨fun ⟨m', hm, w', hw, h1, h2⟩ => h1 ▸ h2 ▸ ⟨hm, hw⟩, fun ⟨hm, hw⟩ => ⟨m, hm, w, hw, rfl, rfl⟩⟩

theorem winsOf_congr (h : rdoOf t b = rdoOf s b) : winsOf t b = winsOf s b := by rw [winsOf, h, winsOf]

/-- A set with the windows of a tone changed, if it is the set of `mt`. -/
def setMod (mt tone : Nat) (g : Win → Win) (m : MSet) : MSet :=
  if m.t = mt then { m with wins := m.wins.map (fun w => if w.tone = tone then g w else w) } else m

theorem setMod_t {mt tone : Nat} {g : Win → Win} {m : MSet} : (setMod mt tone g m).t = m.t := by
  unfold setMod
  split <;> rfl

theorem sets_modWin {mt tone : Nat} {g : Win → Win} : (rdoOf (modWin b mt tone g s) b).sets = (rdoOf s b).sets.map (setMod mt tone g) := by
  rw [modWin, rdoOf_modRdo]
  rfl

/-- A window changed stands in the set of its T. -/
theorem mem_modWin {g : Win → Win} {x : MSet × Win} (h : x ∈ winsOf s b) :
    ∃ y ∈ winsOf (modWin b x.1.t x.2.tone g s) b, y.1.t = x.1.t ∧ y.2 = g x.2 := by
  obtain ⟨hm, hw⟩ := mem_winsOf.1 h
  refine ⟨(setMod x.1.t x.2.tone g x.1, g x.2), mem_winsOf.2 ⟨?_, ?_⟩, setMod_t, rfl⟩
  · rw [sets_modWin]
    exact List.mem_map_of_mem hm
  · rw [setMod, if_pos rfl]
    exact List.mem_map.2 ⟨x.2, hw, if_pos rfl⟩

/-- Every window of the tone in a set of that T has been changed. -/
theorem of_mem_modWin {mt tone : Nat} {g : Win → Win} {y : MSet × Win} (h : y ∈ winsOf (modWin b mt tone g s) b) (ht : y.1.t = mt)
    (htone : y.2.tone = tone) : ∃ w, y.2 = g w := by
  obtain ⟨hm, hw⟩ := mem_winsOf.1 h
  rw [sets_modWin] at hm
  obtain ⟨m, -, hm⟩ := List.mem_map.1 hm
  have hmt : m.t = mt := by rw [← setMod_t (mt := mt) (tone := tone) (g := g), hm, ht]
  rw [← hm, setMod, if_pos hmt] at hw
  obtain ⟨w, -, hw⟩ := List.mem_map.1 hw
  by_cases hwt : w.tone = tone
  · exact ⟨w, by rw [← hw, if_pos hwt]⟩
  · rw [if_neg hwt] at hw
    exact absurd (hw ▸ htone) hwt

/-! ### What is shown of the windows -/

/-- The registers that show the windows of a tile. -/
def winRegs (b : Nat) : List Nat := RDO.STATUS_SETS.addr (tilePage b) 0 :: (List.range 32).map (RDO.RX_STAT.addr (tilePage b))

/-- The read-out parts, and every register but some. -/
structure RdoShown (l : List Nat) (s t : State) : Prop where
  regs : regsSame l s t
  rdos : t.rdos = s.rdos

namespace RdoShown

variable {l : List Nat}

theorem refl (s : State) : RdoShown l s s := ⟨regsSame_refl _ _, rfl⟩

theorem trans {u : State} (h : RdoShown l s t) (h' : RdoShown l t u) : RdoShown l s u :=
  ⟨regsSame_trans h.regs h'.regs, h'.rdos.trans h.rdos⟩

theorem putF (h : RdoShown l s0 s) (hm : f.addr p i ∈ l) : RdoShown l s0 (putF p f v i s) := ⟨regsSame_putF hm h.regs, h.rdos⟩

theorem rdo (h : RdoShown l s t) (b : Nat) : rdoOf t b = rdoOf s b := rdoOf_congr h.rdos

theorem wins (h : RdoShown l s t) (b : Nat) : winsOf t b = winsOf s b := winsOf_congr (h.rdo b)

theorem getF (h : RdoShown l s t) (hf : f.addr p i ∉ l) : getF t p f i = getF s p f i := regsSame_getF h.regs hf

end RdoShown

/-- STATUS with the counts of sets and of tones that have an open window. -/
def setsShown (b : Nat) (s : State) : State :=
  putF (tilePage b) RDO.STATUS_OPEN ((List.range 32).filter (fun t => 0 < ((((rdoOf s b).sets.map (fun m => m.wins)).flatten).filter
    (fun w => w.tone = t ∧ w.st = .opened)).length)).length 0 (putF (tilePage b) RDO.STATUS_SETS (rdoOf s b).sets.length 0 s)

/-- The counts of a tone's windows shown. -/
def toneShown (b : Nat) (ws : List Win) (t : Nat) (s : State) : State :=
  putF (tilePage b) RDO.RX_STAT_PEND (ws.filter (fun w => w.tone = t ∧ w.st = .sched)).length t
    (putF (tilePage b) RDO.RX_STAT_OPEN (ofBool (decide (0 < (ws.filter (fun w => w.tone = t ∧ w.st = .opened)).length))) t s)

theorem showWins_eq (b : Nat) (s : State) : showWins b s
    = forAll (List.range 32) (toneShown b ((rdoOf s b).sets.map (fun m => m.wins)).flatten) (setsShown b s) := rfl

theorem tonesShown (ws : List Win) : RdoShown ((List.range 32).map (RDO.RX_STAT.addr (tilePage b))) s
    (forAll (List.range 32) (toneShown b ws) s) := by
  refine forAll_induction_mem (P := RdoShown _ s) (fun c hc u hu => ?_) (RdoShown.refl s)
  have hm := List.mem_map_of_mem (f := RDO.RX_STAT.addr (tilePage b)) hc
  exact (hu.putF (f := RDO.RX_STAT_OPEN) hm).putF (f := RDO.RX_STAT_PEND) hm

theorem showWins_shown (b : Nat) (s : State) : RdoShown (winRegs b) s (showWins b s) := by
  have hsub : (List.range 32).map (RDO.RX_STAT.addr (tilePage b)) ⊆ winRegs b := List.subset_cons_self _ _
  have htones := tonesShown (b := b) (s := setsShown b s) ((rdoOf s b).sets.map (fun m => m.wins)).flatten
  rw [showWins_eq]
  refine RdoShown.trans (t := setsShown b s) ?_ ⟨regsSame_mono hsub htones.regs, htones.rdos⟩
  exact ((RdoShown.refl s).putF (f := RDO.STATUS_SETS) List.mem_cons_self).putF (f := RDO.STATUS_OPEN) List.mem_cons_self

/-- A register of a read-out page that shows no windows. -/
theorem not_winRegs (h : 0x700 ≤ f.off ∧ f.off < 0x1000) : f.addr (tilePage b) 0 ∉ winRegs b := by
  simp only [winRegs, List.mem_cons, List.mem_map, not_or, not_exists, not_and, Fld.addr, RDO.STATUS_SETS, RDO.RX_STAT]
  refine ⟨by omega, fun c hc => ?_⟩
  have := List.mem_range.1 hc
  omega

theorem find_mem {q : MSet × Win → Bool} {x : MSet × Win} (h : (winsOf s b).find? q = some x) : x ∈ winsOf s b ∧ q x = true :=
  ⟨List.mem_of_find?_eq_some h, List.find?_some h⟩

theorem of_mem_dropSets {y : MSet × Win} (h : y ∈ winsOf (dropSets b s) b) : y ∈ winsOf s b := by
  rw [dropSets, (showWins_shown b _).wins] at h
  obtain ⟨hm, hw⟩ := mem_winsOf.1 h
  rw [rdoOf_modRdo] at hm
  exact mem_winsOf.2 ⟨(List.mem_filter.1 hm).1, hw⟩

/-! ### What a result keeps of the ring's pointers and of the publications -/

/-- The pointers of the result ring, its positions taken, the publications, and TIME. -/
structure ResultKept (b : Nat) (s t : State) : Prop where
  wp : rdWord t (RDO.RES_WP.addr (tilePage b) 0) = rdWord s (RDO.RES_WP.addr (tilePage b) 0)
  rp : rdWord t (RDO.RES_RP.addr (tilePage b) 0) = rdWord s (RDO.RES_RP.addr (tilePage b) 0)
  fresh : (rdoOf t b).fresh = (rdoOf s b).fresh
  pubs : t.pubs = s.pubs
  time : t.time = s.time

/-- A register that is no pointer of the result ring. -/
def notPointer (b a : Nat) : Prop := a ≠ RDO.RES_WP.addr (tilePage b) 0 ∧ a ≠ RDO.RES_RP.addr (tilePage b) 0

namespace ResultKept

theorem refl (s : State) : ResultKept b s s := ⟨rfl, rfl, rfl, rfl, rfl⟩

theorem trans {u : State} (h : ResultKept b s t) (h' : ResultKept b t u) : ResultKept b s u :=
  ⟨h'.wp.trans h.wp, h'.rp.trans h.rp, h'.fresh.trans h.fresh, h'.pubs.trans h.pubs, h'.time.trans h.time⟩

theorem same {u : State} (h : ResultKept b s0 s) (hregs : u.regs = s.regs) (hfresh : (rdoOf u b).fresh = (rdoOf s b).fresh)
    (hpubs : u.pubs = s.pubs) (htime : u.time = s.time) : ResultKept b s0 u :=
  h.trans ⟨by rw [rdWord, hregs, ← rdWord], by rw [rdWord, hregs, ← rdWord], hfresh, hpubs, htime⟩

theorem putF (ha : notPointer b (f.addr p i)) (h : ResultKept b s0 s) : ResultKept b s0 (putF p f v i s) :=
  h.trans ⟨rdWord_wrWord_other ha.1.symm _ _, rdWord_wrWord_other ha.2.symm _ _, rfl, rfl, rfl⟩

/-- A field of the tile's own page that stands apart from the pointers. -/
theorem own (h : f.off < 0x1000 ∧ f.off ≠ 0xA88 ∧ f.off ≠ 0xA8C) : notPointer b (f.addr (tilePage b) 0) := by
  simp only [notPointer, Fld.addr, RDO.RES_WP, RDO.RES_RP]
  omega

theorem low {a : Nat} (h : a < 0x20000) (hb : 16 ≤ b) : notPointer b a := by
  simp only [notPointer, Fld.addr, RDO.RES_WP, RDO.RES_RP, tilePage]
  omega

theorem irqBit (h : ResultKept b s0 s) : ResultKept b s0 (irqBit p n s) := by
  refine h.trans ⟨rdWord_irqSet _ _ _ _ ?_, rdWord_irqSet _ _ _ _ ?_, ?_, irqBit_pubs .., irqBit_time ..⟩
  · simp only [Fld.addr, RDO.RES_WP, HDR.IRQ_STAT]
    omega
  · simp only [Fld.addr, RDO.RES_RP, HDR.IRQ_STAT]
    omega
  · rw [rdoOf_irqBit]

theorem errRec {code sev unit info addr : Nat} (h : ResultKept b s0 s) : ResultKept b s0 (errRec p code sev unit info addr s) := by
  refine h.trans ⟨rdWord_errRec _ _ _ _ _ _ _ _ ?_ ?_ ?_, rdWord_errRec _ _ _ _ _ _ _ _ ?_ ?_ ?_, ?_, errRec_pubs .., errRec_time ..⟩
  all_goals first
    | rw [rdoOf_congr (errRec_rdos ..)]
    | (simp only [Fld.addr, RDO.RES_WP, RDO.RES_RP, HDR.IRQ_STAT, HDR.ERR_CNT_TOTAL, DMP.DUMP_STAT_FATAL_CNT, tilePage]; omega)

theorem ite {c : Prop} [Decidable c] {x y : State} (hx : ResultKept b s0 x) (hy : ResultKept b s0 y) : ResultKept b s0 (if c then x else y) := by
  split <;> assumption

theorem modRdo {g : Rdo → Rdo} (hg : ∀ r, (g r).fresh = r.fresh) (h : ResultKept b s0 s) : ResultKept b s0 (modRdo b g s) :=
  h.same rfl (by rw [rdoOf_modRdo, hg]) rfl rfl

/-! The record of a result in the ring (R236, R237). -/

theorem line (hb : 16 ≤ b) (hb' : b < 24) (h : ResultKept b s0 s) (h' : LineOnly s t) : ResultKept b s0 t := by
  have hnot : ∀ f : Fld, f.off < 0x1000 → ¬ lineReg (f.addr (tilePage b) 0) := by
    intro f hf
    refine not_lineReg_tile ?_ ?_
    all_goals
      simp only [Fld.addr, tilePage]
      omega
  have ht := h'.typed
  unfold lineTyped at ht
  refine h.trans ⟨h'.regs _ (hnot _ (by decide)), h'.regs _ (hnot _ (by decide)), ?_, by rw [ht], by rw [ht]⟩
  have hrdos : t.rdos = s.rdos := by rw [ht]
  rw [rdoOf_congr hrdos]

theorem wrBytes (l : List Byte) (h : ResultKept b s0 s) : ResultKept b s0 (wrBytes a l s) := by
  induction l generalizing a s with
  | nil => exact h
  | cons x l ih => exact ih (h.same rfl rfl rfl rfl)

theorem side {x : SMap Nat} (h : ResultKept b s0 s) : ResultKept b s0 { s with side := x } := h.same rfl rfl rfl rfl

theorem genParity {m : Nat} (h : ResultKept b s0 s) : ResultKept b s0 (genParity a m s) := by
  unfold Machine.genParity
  dsimp only
  refine ite ?_ h
  exact forAll_induction (P := ResultKept b s0) (fun _ _ hu => side hu) _ h

theorem flipUse {m : MemRef} (hb : 16 ≤ b) (h : ResultKept b s0 s) : ResultKept b s0 (flipUse m s) :=
  ite (putF (low (by decide) hb) h) h

theorem unpoison {m : MemRef} (h : ResultKept b s0 s) : ResultKept b s0 (unpoison m a s) := by
  refine ite (putF ?_ h) h
  simp only [notPointer, Fld.addr, MIC.MEM_STAT_POIS_N, RDO.RES_WP, RDO.RES_RP, tilePage]
  omega

theorem setLine {l : LineSt} (h : ResultKept b s0 s) : ResultKept b s0 (setLine a l s) := h.same rfl rfl rfl rfl

theorem storeLine {req : Nat} {bs : List Byte} (hb : 16 ≤ b) (hb' : b < 24) (h : ResultKept b s0 s) : ResultKept b s0 (storeLine req a bs s) := by
  have hdetect := line hb hb' h (LineOnly.refl s |>.detectLine (req := req) (a := a))
  unfold Machine.storeLine
  split
  · exact h
  · rename_i m hm
    refine ite (flipUse hb (setLine (unpoison (genParity (wrBytes _ h))))) (ite ?_ (flipUse hb (setLine (genParity (wrBytes _ h)))))
    dsimp only
    split
    · exact setLine hdetect
    · exact line hb hb' hdetect (LineOnly.refl _ |>.wrDrop)

/-! Its statistics and its tracking (R241 to R243, R400). -/

theorem showStat {c : Nat} (h : ResultKept b s0 s) : ResultKept b s0 (showStat b c s) := by
  refine putF ?_ h
  simp only [notPointer, Fld.addr, RDO.ACC_CNT, RDO.RES_WP, RDO.RES_RP]
  omega

theorem statCommit {c : Nat} {x : ToneStat} (h : ResultKept b s0 s) : ResultKept b s0 (statCommit b c x s) := by
  unfold Machine.statCommit
  extract_lets q y full noted shown counted fresh kept
  have hshown : ResultKept b s0 shown := showStat (modRdo (fun _ => rfl) h)
  have hcounted : ResultKept b s0 counted := irqBit (putF (own (by decide)) hshown)
  have hkept : ResultKept b s0 kept := modRdo (fun _ => rfl) hcounted
  exact ite hshown (ite hkept hkept.errRec)

theorem enterStat {c : Nat} {x : ToneStat} (h : ResultKept b s0 s) : ResultKept b s0 (enterStat b c w x s) := by
  unfold Machine.enterStat
  split
  · exact ite h.statCommit h
  · exact h
  · exact h.statCommit
  · exact modRdo (fun _ => rfl) h

theorem trackAdd {c m : Nat} {x y : Cplx} {o : Bool} (h : ResultKept b s0 s) : ResultKept b s0 (trackAdd b c m x y o s) := h.same rfl rfl rfl rfl

end ResultKept

/-! ### The unmix (R222 to R226) -/

/-- A closed window of a tone that waits for its unmix. -/
def unmixDue (s : State) (n : Nat) (x : MSet × Win) : Bool :=
  decide (x.2.tone = n) && decide (x.2.st = .closed) && x.2.unmixed.isNone && !x.2.done && decide (x.2.u + 16 ≤ now s)

/-- The pair of a window after the unmix, before its saturation (R223, R226). -/
def unmixedPair (s : State) (b n : Nat) (x : MSet × Win) : Cplx :=
  if decide (getB s (tilePage b) RDO.UNMIX_CFG_EN = 1) then
    { re := roundDiv (unmixSum s b n x.1 (rowSet s b n)).re (2 ^ 14), im := roundDiv (unmixSum s b n x.1 (rowSet s b n)).im (2 ^ 14) }
  else x.2.pair

/-- The tones of a row that have no pair in the set. -/
def missingTones (s : State) (b n : Nat) (x : MSet × Win) : List Nat := (rowSet s b n).filter (fun j => (setPair x.1 j).isNone)

/-- A window with its unmixed pair and its marks (R222 to R226). -/
def winUnmixed (s : State) (b n : Nat) (x : MSet × Win) (w : Win) : Win :=
  { w with
    unmixed := some { re := sat24 (unmixedPair s b n x).re, im := sat24 (unmixedPair s b n x).im }
    usat := decide (sat24 (unmixedPair s b n x).re ≠ (unmixedPair s b n x).re) || decide (sat24 (unmixedPair s b n x).im ≠ (unmixedPair s b n x).im)
    part := decide (missingTones s b n x ≠ [])
    rovr := (rowSet s b n).any (fun j => ((setPair x.1 j).map (fun w => w.ovr)).getD false)
    risat := (rowSet s b n).any (fun j => ((setPair x.1 j).map (fun w => w.isat)).getD false) }

/-- The unmix of a set that misses a member, counted. -/
def partCounted (b : Nat) (s : State) : State := irqBit (tilePage b) 19 (incSat (tilePage b) RDO.UNMIX_STAT_PART_CNT 0 s)

/-- No member of the row is still integrating. -/
def rowClosed (s : State) (b n : Nat) (x : MSet × Win) : Prop :=
  x.1.wins.any (fun v => decide (v.tone ∈ rowSet s b n) && (decide (v.st = .opened) || decide (v.st = .sched))
    && decide (v.close ≤ x.2.u)) = false

theorem exec_unmix {x : MSet × Win} (h : (winsOf s b).find? (unmixDue s n) = some x) (hrow : rowClosed s b n x) : exec (.unmix b n) s
    = if !decide (missingTones s b n x ≠ []) then .next (modWin b x.1.t n (winUnmixed s b n x) s)
      else if bit (rdoOf (partCounted b (modWin b x.1.t n (winUnmixed s b n x) s)) b).once 1 = 1
        then .next (partCounted b (modWin b x.1.t n (winUnmixed s b n x) s))
      else .next (errRec (tilePage b) 0x3A 0 n ((missingTones s b n x).headD 0) 0 (modRdo b (fun r => { r with once := setBit r.once 1 })
        (partCounted b (modWin b x.1.t n (winUnmixed s b n x) s)))) := by
  have hexec : exec (.unmix b n) s = execUnmix b n s := rfl
  have hfind : (winsOf s b).find? (fun e => decide (e.2.tone = n) && decide (e.2.st = .closed) && e.2.unmixed.isNone && !e.2.done
      && decide (e.2.u + 16 ≤ now s)) = some x := h
  rw [hexec, execUnmix, hfind]
  exact if_neg (by rw [hrow]; decide)

theorem unmix_sets {x : MSet × Win} (h : (winsOf s b).find? (unmixDue s n) = some x) (hrow : rowClosed s b n x) :
    ∃ t, exec (.unmix b n) s = .next t ∧ (rdoOf t b).sets = (rdoOf (modWin b x.1.t n (winUnmixed s b n x) s) b).sets := by
  have hpart : ∀ u : State, rdoOf (partCounted b u) b = rdoOf u b := fun u => (rdoOf_irqBit _ _).trans (rdoOf_putF _ _ _ _)
  rw [exec_unmix h hrow]
  split
  · exact ⟨_, rfl, rfl⟩
  · split
    · exact ⟨_, rfl, by rw [hpart]⟩
    · refine ⟨_, rfl, ?_⟩
      rw [rdoOf_congr (errRec_rdos ..), rdoOf_modRdo, hpart]

theorem unmixes {x : MSet × Win} (h : (winsOf s b).find? (unmixDue s n) = some x) (hrow : rowClosed s b n x) :
    ∃ t, exec (.unmix b n) s = .next t ∧ ∃ y ∈ winsOf t b, y.1.t = x.1.t ∧ y.2.tone = n ∧ y.2.o = x.2.o
      ∧ y.2.unmixed = some { re := sat24 (unmixedPair s b n x).re, im := sat24 (unmixedPair s b n x).im } := by
  obtain ⟨t, hexec, hsets⟩ := unmix_sets h hrow
  obtain ⟨hmem, hdue⟩ := find_mem h
  have htone : x.2.tone = n := by
    simp only [unmixDue, Bool.and_eq_true, decide_eq_true_eq] at hdue
    exact hdue.1.1.1.1
  obtain ⟨y, hy, hyt, hyw⟩ := mem_modWin (g := winUnmixed s b n x) hmem
  rw [htone, mem_winsOf, ← hsets, ← mem_winsOf] at hy
  refine ⟨t, hexec, y, hy, hyt, ?_, ?_, ?_⟩
  all_goals rw [hyw]
  · exact htone
  · rfl
  · rfl

/-! ### Discrimination (R227 to R243) -/

/-- A window of a tone that has come to its discrimination, with its turn. -/
def discDue (s : State) (b n : Nat) (x : MSet × Win) : Bool :=
  decide (x.2.tone = n) && !x.2.done && x.2.unmixed.isSome && decide (x.2.u + 21 ≤ now s) && discTurn s b x.2

/-- The geometry of a window's result: the one it kept, or the one in force (R227). -/
def geoOf (s : State) (b : Nat) (w : Win) : List Word := w.geo.getD (geometry s b w.tone)

/-- The DEC_CFG of a window's result. -/
def decOf (s : State) (b : Nat) (w : Win) : Word := (geoOf s b w).getD 8 0#32

/-- The verdict on a window's pair (R228 to R231). -/
def verdictOf (s : State) (b : Nat) (w : Win) : Verdict :=
  judge (geomOf (geoOf s b w)) (RDO.DEC_CFG_CLS.of (decOf s b w)) (w.unmixed.getD {}) (w.rovr || w.risat || w.usat || w.part)

/-- The state with a result published, where DEC_CFG.PUB says so. -/
def resultPublished (b : Nat) (w : Win) (s : State) : State :=
  if RDO.DEC_CFG_PUB.of (decOf s b w) = 1 then
    publish (w.u + 21) 1 (b - 16) w.tone 0 (RDO.DEC_CFG_SLOT.of (decOf s b w))
      { val := (verdictOf s b w).st, leak := (verdictOf s b w).leak, lowc := (verdictOf s b w).lowc, ndet := false } s
  else s

/-- A window that has passed discrimination. -/
def winDone (w : Win) : Win := { w with done := true }

/-- What follows the record of a result keeps the ring, and the windows of the tone are done. -/
theorem discriminate_steps (m : MSet) (w : Win) (s : State) : ∃ bytes, ∃ u v, ResultKept b (if w.wantRec then putResult b w.tone bytes
      (resultPublished b w s) else resultPublished b w s) u ∧ v = dropSets b (modWin b m.t w.tone winDone u)
      ∧ discriminate b m w (w.unmixed.getD {}) s = v := by
  unfold discriminate
  extract_lets c ws dec g flagged k x published recorded counted tracked
  have hrec : ResultKept b recorded counted := ResultKept.ite (ResultKept.refl _).enterStat (ResultKept.refl _)
  have htrack : ResultKept b recorded tracked := ResultKept.ite hrec.trackAdd hrec
  exact ⟨_, tracked, _, htrack, rfl, rfl⟩

theorem showWins_typed (b : Nat) (s : State) : typedSame s (showWins b s) := by
  rw [showWins_eq]
  exact forAll_induction (P := typedSame s) (fun _ _ hu => typedSame_putF (typedSame_putF hu)) _ (typedSame_putF (typedSame_putF (typedSame_refl s)))

theorem typedSame_pubs_time (h : typedSame s t) : t.pubs = s.pubs ∧ t.time = s.time := by
  unfold typedSame at h
  rw [h]
  exact ⟨rfl, rfl⟩

theorem showWins_kept (b : Nat) (s : State) : ResultKept b s (showWins b s) := by
  obtain ⟨hpubs, htime⟩ := typedSame_pubs_time (showWins_typed b s)
  have hshown := showWins_shown b s
  exact ⟨hshown.regs _ (not_winRegs (f := RDO.RES_WP) (by decide)), hshown.regs _ (not_winRegs (f := RDO.RES_RP) (by decide)),
    by rw [hshown.rdo], hpubs, htime⟩

theorem modWin_kept {mt tone : Nat} {g : Win → Win} : ResultKept b s (modWin b mt tone g s) := by
  unfold modWin
  exact ResultKept.modRdo (fun _ => rfl) (ResultKept.refl s)

/-- The sets whose windows are all done leave. -/
def setsLeft (b : Nat) (s : State) : State := modRdo b (fun r => { r with sets := r.sets.filter (fun m => !(m.wins.all (fun w => w.done))) }) s

theorem setsLeft_kept (b : Nat) (s : State) : ResultKept b s (setsLeft b s) := by
  refine (ResultKept.refl s).same rfl ?_ rfl rfl
  rw [setsLeft, rdoOf_modRdo]

theorem dropSets_kept (b : Nat) (s : State) : ResultKept b s (dropSets b s) := by
  have heq : dropSets b s = showWins b (setsLeft b s) := rfl
  rw [heq]
  exact (setsLeft_kept b s).trans (showWins_kept b (setsLeft b s))

/-- A publication keeps the ring. -/
structure RingKept (b : Nat) (s t : State) : Prop where
  wp : rdWord t (RDO.RES_WP.addr (tilePage b) 0) = rdWord s (RDO.RES_WP.addr (tilePage b) 0)
  rp : rdWord t (RDO.RES_RP.addr (tilePage b) 0) = rdWord s (RDO.RES_RP.addr (tilePage b) 0)
  fresh : (rdoOf t b).fresh = (rdoOf s b).fresh
  time : t.time = s.time

theorem publish_rest {q kind tile tone dout slot : Nat} {d : Decision} : (publish q kind tile tone dout slot d s).rdos = s.rdos
    ∧ (publish q kind tile tone dout slot d s).time = s.time := by
  unfold publish
  dsimp only
  split_ifs <;> simp

theorem not_pubRegs (hb : 16 ≤ b) : ∀ a ∈ pubRegs, a ≠ RDO.RES_WP.addr (tilePage b) 0 ∧ a ≠ RDO.RES_RP.addr (tilePage b) 0 := by
  have hlow : ∀ a ∈ pubRegs, a < 0x20000 := by decide
  intro a ha
  exact ResultKept.low (hlow a ha) hb

theorem publish_ring {q kind tile tone dout slot : Nat} {d : Decision} (hb : 16 ≤ b) : RingKept b s (publish q kind tile tone dout slot d s) := by
  obtain ⟨hrdos, htime⟩ := publish_rest (q := q) (kind := kind) (tile := tile) (tone := tone) (dout := dout) (slot := slot) (d := d) (s := s)
  have hregs := regsSame_publish (f := q) (kind := kind) (tile := tile) (tone := tone) (dout := dout) (slot := slot) (d := d)
    (regsSame_refl pubRegs s)
  exact ⟨hregs _ fun hm => (not_pubRegs hb _ hm).1 rfl, hregs _ fun hm => (not_pubRegs hb _ hm).2 rfl, by rw [rdoOf_congr hrdos], htime⟩

theorem resultPublished_ring (hb : 16 ≤ b) : RingKept b s (resultPublished b w s) := by
  unfold resultPublished
  split
  · exact publish_ring hb
  · exact ⟨rfl, rfl, rfl, rfl⟩

theorem ringTaken_congr (h : RingKept b s t) : ringTaken t b = ringTaken s b := by
  have hwp : getF t (tilePage b) RDO.RES_WP = getF s (tilePage b) RDO.RES_WP := congrArg RDO.RES_WP.of h.wp
  have hrp : getF t (tilePage b) RDO.RES_RP = getF s (tilePage b) RDO.RES_RP := congrArg RDO.RES_RP.of h.rp
  rw [ringTaken, resFill, hwp, hrp, h.fresh, ← resFill, ← ringTaken]

/-- A record appended: its position is taken, and nothing else of the ring moves. -/
theorem ringPut_fresh {bytes : List Byte} (hb : 16 ≤ b) (hb' : b < 24) :
    ∃ u, ResultKept b s u ∧ ringPut b bytes s = modRdo b (fun r => { r with fresh := r.fresh ++ [now u] }) u := by
  unfold ringPut
  extract_lets q addr bad stored counted at_
  have hstored : ResultKept b s stored := ResultKept.storeLine hb hb' (ResultKept.refl s)
  have hcounted : ResultKept b s counted := ResultKept.ite (ResultKept.putF (ResultKept.own (by decide)) hstored) hstored
  exact ⟨counted, hcounted, rfl⟩

/-- A record that finds room takes a position; the rest of the ring's state and the publications stay. -/
structure RecordKept (b : Nat) (add : List Nat) (s t : State) : Prop where
  wp : rdWord t (RDO.RES_WP.addr (tilePage b) 0) = rdWord s (RDO.RES_WP.addr (tilePage b) 0)
  fresh : (rdoOf t b).fresh = (rdoOf s b).fresh ++ add
  pubs : t.pubs = s.pubs

theorem RecordKept.of_kept (h : ResultKept b s t) : RecordKept b [] s t := ⟨h.wp, by rw [h.fresh, List.append_nil], h.pubs⟩

theorem RecordKept.kept {u : State} {l : List Nat} (h : RecordKept b l s t) (h' : ResultKept b t u) : RecordKept b l s u :=
  ⟨h'.wp.trans h.wp, h'.fresh.trans h.fresh, h'.pubs.trans h.pubs⟩

theorem putResult_record {c : Nat} {bytes : List Byte} (hb : 16 ≤ b) (hb' : b < 24) :
    RecordKept b (if ringTaken s b ≤ 131070 then [now s] else []) s (putResult b c bytes s) := by
  have hdropped : ResultKept b s (irqBit (tilePage b) 16 (putF (tilePage b) RDO.RES_STAT_DROP 1 0 (incSat (tilePage b) RDO.RES_DROP 0 s))) :=
    ResultKept.irqBit (ResultKept.putF (ResultKept.own (by decide)) (ResultKept.putF (ResultKept.own (by decide)) (ResultKept.refl s)))
  unfold putResult
  extract_lets q dropped
  by_cases hroom : ringTaken s b ≤ 131070
  · obtain ⟨u, hu, hput⟩ := ringPut_fresh (s := s) (bytes := bytes) hb hb'
    have hnow : now u = now s := congrArg BitVec.toNat hu.time
    rw [if_pos hroom, if_pos hroom, hput]
    exact ⟨hu.wp, by rw [rdoOf_modRdo, hnow, hu.fresh], hu.pubs⟩
  · rw [if_neg hroom, if_neg hroom]
    have hd : ResultKept b s dropped := hdropped
    refine RecordKept.of_kept (ResultKept.ite hd (ResultKept.errRec ?_))
    exact ResultKept.modRdo (fun _ => rfl) hd

/-- The position that a result's record takes, where one is wanted and the ring has room. -/
def taken (b : Nat) (w : Win) (s : State) : List Nat := if w.wantRec then (if ringTaken s b ≤ 131070 then [now s] else []) else []

theorem resultRecorded {bytes : List Byte} (hb : 16 ≤ b) (hb' : b < 24) : RecordKept b (taken b w s) (resultPublished b w s)
    (if w.wantRec then putResult b w.tone bytes (resultPublished b w s) else resultPublished b w s) := by
  have hring := resultPublished_ring (s := s) (w := w) hb
  have hnow : now (resultPublished b w s) = now s := congrArg BitVec.toNat hring.time
  have hput := putResult_record (s := resultPublished b w s) (c := w.tone) (bytes := bytes) hb hb'
  rw [ringTaken_congr hring, hnow] at hput
  unfold taken
  split
  · exact hput
  · exact RecordKept.of_kept (ResultKept.refl _)

theorem discriminate_kept {m : MSet} (hb : 16 ≤ b) (hb' : b < 24) :
    RecordKept b (taken b w s) (resultPublished b w s) (discriminate b m w (w.unmixed.getD {}) s) := by
  obtain ⟨bytes, u, v, hu, hv, heq⟩ := discriminate_steps (b := b) m w s
  have hend : ResultKept b u v := by
    rw [hv]
    exact modWin_kept.trans (dropSets_kept b (modWin b m.t w.tone winDone u))
  rw [heq]
  exact ((resultRecorded hb hb').kept hu).kept hend

theorem discriminate_done {m : MSet} {y : MSet × Win} (h : y ∈ winsOf (discriminate b m w (w.unmixed.getD {}) s) b) (ht : y.1.t = m.t)
    (htone : y.2.tone = w.tone) : y.2.done = true := by
  obtain ⟨bytes, u, v, -, hv, heq⟩ := discriminate_steps (b := b) m w s
  rw [heq, hv] at h
  obtain ⟨x, hx⟩ := of_mem_modWin (of_mem_dropSets h) ht htone
  rw [hx]
  rfl

theorem exec_discrimination {x : MSet × Win} (h : (winsOf s b).find? (discDue s b n) = some x) :
    exec (.discrimination b n) s = .next (discriminate b x.1 x.2 (x.2.unmixed.getD {}) s) := by
  have hexec : exec (.discrimination b n) s = execDiscrimination b n s := rfl
  have hfind : (winsOf s b).find? (fun e => decide (e.2.tone = n) && !e.2.done && e.2.unmixed.isSome && decide (e.2.u + 21 ≤ now s)
      && discTurn s b e.2) = some x := h
  rw [hexec, execDiscrimination, hfind]

theorem exec_discrimination_none (h : (winsOf s b).find? (discDue s b n) = none) : exec (.discrimination b n) s = .next s := by
  have hexec : exec (.discrimination b n) s = execDiscrimination b n s := rfl
  have hfind : (winsOf s b).find? (fun e => decide (e.2.tone = n) && !e.2.done && e.2.unmixed.isSome && decide (e.2.u + 21 ≤ now s)
      && discTurn s b e.2) = none := h
  rw [hexec, execDiscrimination, hfind]

/-! ### The count of the ring (R237) -/

/-- RES_WP moved on, with FILL and FULL. -/
def wpStepped (b : Nat) (s : State) : State := showFill b (incWrap (tilePage b) RDO.RES_WP 0 s)

theorem wpStepped_wp : getF (wpStepped b s) (tilePage b) RDO.RES_WP = (getF s (tilePage b) RDO.RES_WP + 1) % 2 ^ 32 := by
  have hne : ∀ g : Fld, g.off = 0x010 ∨ g.off = 0xA90 → RDO.RES_WP.addr (tilePage b) 0 ≠ g.addr (tilePage b) 0 := by
    intro g hg
    simp only [Fld.addr, RDO.RES_WP]
    omega
  rw [wpStepped, showFill, getF_putF_reg (hne _ (.inl rfl)), getF_putF_reg (hne _ (.inr rfl)), incWrap, getF_putF _ _ _ _ _ (by decide)]
  exact Nat.mod_mod _ _

theorem ringStep_wp (b : Nat) (s : State) : getF (ringStep b s) (tilePage b) RDO.RES_WP = (getF s (tilePage b) RDO.RES_WP + 1) % 2 ^ 32
    ∧ rdoOf (ringStep b s) b = rdoOf s b := by
  have hirq : RDO.RES_WP.addr (tilePage b) 0 ≠ HDR.IRQ_STAT.addr (tilePage b) 0 := by
    simp only [Fld.addr, RDO.RES_WP, HDR.IRQ_STAT]
    omega
  have heq : ringStep b s = if getF (wpStepped b s) (tilePage b) RDO.RES_TH_TH ≠ 0
      ∧ getF (wpStepped b s) (tilePage b) RDO.RES_TH_TH ≤ resFill (wpStepped b s) b then irqBit (tilePage b) 17 (wpStepped b s)
    else wpStepped b s := rfl
  rw [heq]
  split
  · refine ⟨?_, (rdoOf_irqBit _ _).trans rfl⟩
    rw [getF, irqBit, rdWord_irqSet _ _ _ _ hirq, ← getF, wpStepped_wp]
  · exact ⟨wpStepped_wp, rfl⟩

/-- The positions that wait to be counted, with those of two fc ago and before taken out. -/
def freshLeft (b : Nat) (s : State) : State := setRdo b { rdoOf s b with fresh := (rdoOf s b).fresh.filter (fun f => decide (now s < f + 2)) } s

theorem ringCount_one {q : Nat} (h : (rdoOf s b).fresh = [q]) : ringCount b s
    = forAll ([q].filter (fun f => decide (f + 2 ≤ now s))) (fun _ s => ringStep b s) (freshLeft b s) := by
  unfold ringCount
  dsimp only
  rw [h, if_neg (List.cons_ne_nil _ _)]
  rw [freshLeft, h]

theorem freshLeft_fresh : (rdoOf (freshLeft b s) b).fresh = (rdoOf s b).fresh.filter (fun f => decide (now s < f + 2)) := by
  rw [freshLeft, rdoOf, setRdo, smGet_smSet_same]

theorem ringCount_due {q : Nat} (h : (rdoOf s b).fresh = [q]) (hq : q + 2 ≤ now s) :
    getF (ringCount b s) (tilePage b) RDO.RES_WP = (getF s (tilePage b) RDO.RES_WP + 1) % 2 ^ 32 ∧ (rdoOf (ringCount b s) b).fresh = [] := by
  have hstep : ringCount b s = ringStep b (freshLeft b s) := by
    rw [ringCount_one h, List.filter_cons_of_pos (by simpa using hq), List.filter_nil]
    rfl
  obtain ⟨hwp, hrdo⟩ := ringStep_wp b (freshLeft b s)
  rw [hstep, hwp, hrdo, freshLeft_fresh, h, List.filter_cons_of_neg (by simpa using hq), List.filter_nil]
  exact ⟨rfl, rfl⟩

theorem ringCount_waits {q : Nat} (h : (rdoOf s b).fresh = [q]) (hq : now s < q + 2) :
    getF (ringCount b s) (tilePage b) RDO.RES_WP = getF s (tilePage b) RDO.RES_WP ∧ (rdoOf (ringCount b s) b).fresh = [q] := by
  have hstep : ringCount b s = freshLeft b s := by
    rw [ringCount_one h, List.filter_cons_of_neg (by simpa using hq), List.filter_nil]
    rfl
  rw [hstep, freshLeft_fresh, h, List.filter_cons_of_pos (by simpa using hq), List.filter_nil]
  exact ⟨rfl, rfl⟩

/-- Settles O25. -/
theorem unmixAndDiscrimination : Obligations.UnmixAndDiscrimination := by
  unfold Obligations.UnmixAndDiscrimination
  intro s b n hb hb' hn
  refine ⟨fun x hx hrow => ?_, fun x hx => ?_, fun hx => exec_discrimination_none hx, fun q hq => ⟨ringCount_due hq, ringCount_waits hq⟩⟩
  · obtain ⟨t, hexec, y, hy, hyt, h1, h2, h3⟩ := unmixes hx hrow
    refine ⟨t, hexec, y, hy, hyt, h1, h2, ?_⟩
    rw [h3, unmixedPair]
    by_cases hen : getB s (tilePage b) RDO.UNMIX_CFG_EN = 1
    · rw [if_pos (decide_eq_true hen), if_pos hen]
    · rw [if_neg (by simpa using hen), if_neg hen]
  · have hdue := (find_mem hx).2
    have htone : x.2.tone = n := by
      simp only [Bool.and_eq_true, decide_eq_true_eq] at hdue
      exact hdue.1.1.1.1
    obtain ⟨hwp, hfresh, hpubs⟩ := discriminate_kept (s := s) (w := x.2) (m := x.1) hb hb'
    have hring := resultPublished_ring (s := s) (w := x.2) hb
    have hgeo : geoOf s b x.2 = x.2.geo.getD (geometry s b n) := by rw [geoOf, htone]
    have hdec : decOf s b x.2 = (x.2.geo.getD (geometry s b n)).getD 8 0#32 := by rw [decOf, hgeo]
    refine ⟨_, exec_discrimination hx, fun y hy ht htn => discriminate_done hy ht (htn.trans htone.symm), fun hpub => ?_, fun hpub hon hname => ?_,
      fun hwant hroom => ?_, fun hwant => ?_, ?_⟩
    · rw [hpubs, resultPublished, if_neg]
      rw [hdec, hpub]
      decide
    · rw [← hdec] at hpub hname
      rw [hpubs, resultPublished, if_pos hpub, htone, publish_named hon hname]
      refine ⟨_, rfl, rfl, by rw [hdec], ?_⟩
      rw [← hdec, ← hgeo]
      rfl
    · rw [hfresh, hring.fresh, taken, if_pos hwant, if_pos hroom]
    · rw [hfresh, hring.fresh, taken, if_neg (by rw [hwant]; decide), List.append_nil]
    · exact congrArg RDO.RES_WP.of (hwp.trans hring.wp)

end Sys2Proof.Machine
end

section
/-!
PROOFS. An NVS word that fails: where its record is the store of a soft repair, the record of the lost repair takes a second free value.
-/
namespace Sys2Proof.Machine

/-- A device whose journal holds the map entry of its first soft repair. -/
def stRepairStore : State :=
  { stHoop with
    hoop := { stHoop.hoop with recs := [{ tgt := 0x38000, bytes := [1#8, 2#8] }] }
    repairs := [{ idx := 0, page := 2, kind := 1, block := 0, bank := 0, row := 0, line := 0, stored := false }] }

theorem stRepairStore_free : (nextState stRepairStore (exec (.nvsWordDone false) stRepairStore)).free = stRepairStore.free + 2 := by
  decide +kernel

/-- Refutes O54: a word that fails in the store of a soft repair leaves two records with a free value each, that of the word's offset and
that of the NVS error of the repair, where the statement counts one. -/
theorem not_hoopAndNvs : ¬ Obligations.HoopAndNvs := by
  intro h
  obtain ⟨-, -, -, -, -, -, -, -, hword⟩ := h stRepairStore
  obtain ⟨-, -, t, hexec, -, -, -, hfree, -⟩ := hword { tgt := 0x38000, bytes := [1#8, 2#8] } rfl
  have htwo := stRepairStore_free
  rw [nextState_eq hexec] at htwo
  omega

end Sys2Proof.Machine
end

section
/-!
PROOFS. Rules about a port that its statements share: what slots that are lost or restored leave of the registers of every port, the state
code of a port, and the entry to SEARCH (R276, R324, R325, R331).
-/
namespace Sys2Proof.Machine

variable {s t u : State} {n m i j p st v cause : Nat} {f g : Fld}

/-! ### Registers of ports -/

/-- A register on the page of a port. -/
def linkReg (a : Nat) : Prop := 0x30000 ≤ a ∧ a < 0x38000

theorem linkReg_addr (hn : n < 8) (h : f.off + f.stride * i < 0x1000) : linkReg (f.addr (jdxPage n) i) := by
  simp only [linkReg, Fld.addr, jdxPage]
  omega

/-- A register of a page below those of the ports. -/
theorem not_linkReg_page (hp : p < 0x30) (h : f.off + f.stride * i < 0x1000) : ¬ linkReg (f.addr p i) := by
  simp only [linkReg, Fld.addr]
  omega

/-- A register of Tulle that every slot has one of. -/
theorem not_linkReg_slot (hf : f.stride = windowStride) (ho : f.off < 0x1000) : ¬ linkReg (f.addr pTul i) := by
  simp only [linkReg, Fld.addr, hf, windowStride, pTul]
  omega

theorem not_linkReg_lostMap (hi : i < 512) : ¬ linkReg (TUL.LOST_MAP.addr pTul (i / 32)) := by
  simp only [linkReg, Fld.addr, TUL.LOST_MAP, pTul]
  omega

/-! ### Slots that are lost or restored (R276, R277) -/

/-- The registers of every port as they stood. -/
def LinkKept (s t : State) : Prop := ∀ a, linkReg a → rdWord t a = rdWord s a

namespace LinkKept

theorem refl (s : State) : LinkKept s s := fun _ _ => rfl

theorem trans (h : LinkKept s t) (h' : LinkKept t u) : LinkKept s u := fun a ha => (h' a ha).trans (h a ha)

theorem same (h : LinkKept s t) (hr : u.regs = t.regs) : LinkKept s u := h.trans fun a _ => by simp only [rdWord, hr]

theorem putF (hf : ¬ linkReg (f.addr p i)) (h : LinkKept s t) : LinkKept s (putF p f v i t) :=
  h.trans fun a ha => rdWord_wrWord_other (by rintro rfl; exact hf ha) _ _

theorem irqBit (h : LinkKept s t) : LinkKept s (irqBit pTul v t) :=
  h.trans fun a ha => rdWord_irqSet t _ pTul _ (by rintro rfl; exact not_linkReg_page (by decide) (by decide) ha)

theorem errRec {code sev unit info addr : Nat} (h : LinkKept s t) : LinkKept s (errRec pTul code sev unit info addr t) := by
  have hne {g : Fld} (hg : ¬ linkReg (g.addr pTul 0)) {a : Nat} (ha : linkReg a) : a ≠ g.addr pTul 0 := by
    rintro rfl
    exact hg ha
  have hdmp {a : Nat} (ha : linkReg a) : a ≠ DMP.DUMP_STAT_FATAL_CNT.addr 0xF 0 := by
    rintro rfl
    exact not_linkReg_page (by decide) (by decide) ha
  exact h.trans fun a ha => rdWord_errRec t _ pTul _ _ _ _ _ (hne (not_linkReg_page (by decide) (by decide)) ha)
    (hne (not_linkReg_page (by decide) (by decide)) ha) (hdmp ha)

theorem ite {c : Prop} [Decidable c] {x y : State} (hx : LinkKept s x) (hy : LinkKept s y) : LinkKept s (if c then x else y) := by
  split <;> assumption

/-- Every field of TUL STATUS and of a slot's own registers. -/
theorem putSlot (hf : f.stride = windowStride ∧ f.off < 0x1000) (h : LinkKept s t) : LinkKept s (Machine.putF pTul f v i t) :=
  h.putF (not_linkReg_slot hf.1 hf.2)

theorem putStatus (hf : f.off < 0x1000) (h : LinkKept s t) : LinkKept s (Machine.putF pTul f v 0 t) :=
  h.putF (not_linkReg_page (by decide) (by simpa using hf))

theorem slotEntry (h : LinkKept s t) : LinkKept s (slotEntry i t) := h.trans fun a _ => by rw [Machine.slotEntry, rdWord_wrBytes]

theorem setLost {b : Bool} (hi : i < 512) (h : LinkKept s t) : LinkKept s (setLost i b t) := by
  unfold Machine.setLost
  dsimp only
  refine slotEntry ?_
  have hmap := (h.putSlot (f := TUL.SLOT_RT_LOST) (i := i) (v := ofBool b) (by decide)).putF (v := putBit (getF
    (Machine.putF pTul TUL.SLOT_RT_LOST (ofBool b) i t) pTul TUL.LOST_MAP (i / 32)) (i % 32) b) (not_linkReg_lostMap hi)
  exact ite (hmap.putStatus (by decide)) (ite (hmap.putStatus (by decide)) hmap)

theorem routeLost (h : LinkKept s t) : LinkKept s (routeLost i cause t) := h.irqBit.errRec

theorem loseSlot (hi : i < 512) (h : LinkKept s t) : LinkKept s (loseSlot cause i t) := (h.setLost hi).routeLost

theorem refreshSlot {b : Bool} (hi : i < 512) (h : LinkKept s t) : LinkKept s (refreshSlot i b t) := by
  unfold Machine.refreshSlot
  dsimp only
  have hlat : LinkKept s (if slotKind t i = 3 then t
      else Machine.putF pTul TUL.SLOT_LAT_LAT 3 i (Machine.putF pTul TUL.SLOT_RT_HOPS 0 i t)) :=
    ite h ((h.putSlot (by decide)).putSlot (by decide))
  split
  · exact ite (hlat.setLost hi) (hlat.setLost hi).routeLost
  · exact hlat.setLost hi

/-- The routes of slots that nothing stages, as a device shot boundary leaves them (R277). -/
theorem routeCommit (h : LinkKept s t) : LinkKept s (routeCommit [] [] t) := by
  unfold Machine.routeCommit
  simp only [List.filter_nil, List.map_nil, List.nil_append, ite_true]
  refine putStatus (by decide) (forAll_induction_mem (fun e he u hu => ?_) h)
  obtain ⟨k, hk, rfl⟩ := List.mem_map.1 he
  exact hu.refreshSlot (List.mem_range.1 (List.mem_filter.1 hk).1)

theorem restoreSlots (h : LinkKept s t) : LinkKept s (restoreSlots t) := ite h h.routeCommit

theorem losePort {began lock : Bool} (h : LinkKept s t) : LinkKept s (losePort n began lock t) := by
  have hcut (l : List Nat) : LinkKept s (forAll l (fun i s => setTulSlot i { tulSlot s i with cut := true } s) t) :=
    forAll_induction (fun _ _ hu => hu.same rfl) l h
  unfold Machine.losePort
  dsimp only
  have hlost {w : State} (hw : LinkKept s w) : LinkKept s (forAll ((slotsOfKind t 3).filter
      (fun i => getF t pTul TUL.SLOT_RT_IMP_PORT i = n)) (Machine.loseSlot 2) w) :=
    forAll_induction_mem (fun i hi u hu => hu.loseSlot (List.mem_range.1 (List.mem_filter.1 (List.mem_filter.1 hi).1).1)) hw
  exact ite (hlost (ite (hcut _) h)) (ite (hcut _) h)

end LinkKept

theorem losePort_boundary {began lock : Bool} : BoundaryOnly s (losePort n began lock s) := by
  have hcut (l : List Nat) : BoundaryOnly s (forAll l (fun i s => setTulSlot i { tulSlot s i with cut := true } s) s) :=
    BoundaryOnly.forAll (fun _ _ hu => hu.setTulSlot) (BoundaryOnly.refl s)
  unfold losePort
  dsimp only
  exact BoundaryOnly.ite (BoundaryOnly.forAll (fun _ _ hu => hu.loseSlot) (BoundaryOnly.ite (hcut _) (.refl s)))
    (BoundaryOnly.ite (hcut _) (.refl s))

theorem restoreSlots_boundary : BoundaryOnly s (restoreSlots s) := BoundaryOnly.ite (.refl s) (BoundaryOnly.refl s).routeCommit

/-- What a shot boundary leaves of the parts of the state beside the registers that ports and Hoop firmware's work stand in. -/
theorem BoundaryOnly.links (h : BoundaryOnly s t) : t.ports = s.ports ∧ t.up = s.up ∧ t.hoop.urgent = s.hoop.urgent ∧ t.time = s.time := by
  have ht := h.typed
  unfold boundaryTyped at ht
  rw [ht]
  exact ⟨rfl, rfl, rfl, rfl⟩

/-! ### LOST of a slot -/

theorem isSet_slotEntry : isSet (slotEntry i s) p g j = isSet s p g j := by
  rw [slotEntry, isSet, isSet, getF, getF, rdWord_wrBytes]

theorem slotRt_ne_lostMap (hi : i < 512) : TUL.SLOT_RT_LOST.addr pTul j ≠ TUL.LOST_MAP.addr pTul (i / 32) := by
  simp only [Fld.addr, TUL.SLOT_RT_LOST, TUL.LOST_MAP, pTul]
  omega

/-- The route register of a slot stands in its window, behind the registers of every page but those at its own offset. -/
theorem slotRt_ne {a : Nat} (ha : a < 0x1000000 ∧ a ≠ 0xB068) : TUL.SLOT_RT_LOST.addr pTul j ≠ a := by
  simp only [Fld.addr, TUL.SLOT_RT_LOST, pTul]
  omega

theorem slotLost_setLost {b : Bool} (hi : i < 512) : slotLost (setLost i b s) j = if j = i then b else slotLost s j := by
  have hn {v : Nat} {u : State} : isSet (putF pTul TUL.STATUS_LOST_N v 0 u) pTul TUL.SLOT_RT_LOST j = isSet u pTul TUL.SLOT_RT_LOST j :=
    isSet_putF_reg (slotRt_ne (by decide))
  have hmap {v : Nat} : isSet (putF pTul TUL.LOST_MAP v (i / 32) (putF pTul TUL.SLOT_RT_LOST (ofBool b) i s)) pTul TUL.SLOT_RT_LOST j
      = if j = i then b else slotLost s j := by
    rw [isSet_putF_reg (slotRt_ne_lostMap hi)]
    split
    · next h =>
      rw [h, isSet_putF (by decide)]
      cases b <;> rfl
    · next h =>
      refine isSet_putF_reg fun he => h ?_
      simp only [Fld.addr, TUL.SLOT_RT_LOST] at he
      omega
  unfold setLost slotLost
  dsimp only
  rw [isSet_slotEntry]
  split
  · rw [hn, hmap]
    rfl
  · split
    · rw [hn, hmap]
      rfl
    · exact hmap

theorem slotLost_routeLost : slotLost (routeLost i cause s) j = slotLost s j := by
  unfold routeLost slotLost isSet
  dsimp only
  rw [getF_errRec _ _ _ _ _ _ _ _ _ _ (slotRt_ne (by decide)) (slotRt_ne (by decide))
    (slotRt_ne (by decide)), getF_irqBit _ _ _ _ _ _ (slotRt_ne (by decide))]

theorem slotLost_loseSlot (hi : i < 512) : slotLost (loseSlot cause i s) j = if j = i then true else slotLost s j := by
  rw [loseSlot, slotLost_routeLost, slotLost_setLost hi]

/-- What one element of a list brings about, and every element of it keeps, holds after the whole list. -/
theorem forAll_done_mem {α : Type} {Q : State → Prop} {g : α → State → State} {y : α} {l : List α} (hy : ∀ u, Q (g y u))
    (hQ : ∀ x ∈ l, ∀ u, Q u → Q (g x u)) (hmem : y ∈ l) : Q (forAll l g s) := by
  obtain ⟨as, bs, rfl⟩ := List.append_of_mem hmem
  have hsplit : forAll (as ++ y :: bs) g s = forAll bs g (g y (forAll as g s)) := by simp [forAll]
  rw [hsplit]
  exact forAll_induction_mem (fun x hx u hu => hQ x (List.mem_append_right _ (List.mem_cons_of_mem _ hx)) u hu) (hy _)

/-- The slots that a port imports are lost with its traffic. -/
theorem slotLost_losePort {lock : Bool} (hi : i < 512) (hkind : slotKind s i = 3) (himp : getF s pTul TUL.SLOT_RT_IMP_PORT i = n) :
    slotLost (losePort n true lock s) i = true := by
  have hmem : i ∈ (slotsOfKind s 3).filter (fun i => getF s pTul TUL.SLOT_RT_IMP_PORT i = n) := by
    simp only [slotsOfKind, List.mem_filter, List.mem_range, decide_eq_true_eq]
    exact ⟨⟨hi, hkind⟩, himp⟩
  refine forAll_done_mem (Q := fun u => slotLost u i = true) (fun u => (slotLost_loseSlot hi).trans (if_pos rfl)) (fun k hk u hu => ?_) hmem
  rw [slotLost_loseSlot (List.mem_range.1 (List.mem_filter.1 (List.mem_filter.1 hk).1).1), hu, ite_self]

/-! ### The state code (R324) and the end of a link (R331) -/

theorem putF_regs_congr (h : t.regs = s.regs) : (putF p f v i t).regs = (putF p f v i s).regs := by
  simp only [putF, wrWord, rdWord, h]

theorem noteWas_regs {who : Option Requester} {a : Nat} : (noteWas who a s).regs = s.regs := by rw [noteWas_eq]

theorem setPortState_regs (h : t.regs = s.regs) : (setPortState n st t).regs = (setPortState n st s).regs :=
  putF_regs_congr (putF_regs_congr (noteWas_regs.trans (h.trans noteWas_regs.symm)))

theorem rdWord_setPortState {a : Nat} (h : a ≠ HDR.STATUS.addr (jdxPage n) 0) : rdWord (setPortState n st s) a = rdWord s a := by
  have hrun : a ≠ HDR.STATUS_RUN.addr (jdxPage n) 0 := h
  have hstate : a ≠ JDX.STATUS_STATE.addr (jdxPage n) 0 := h
  rw [setPortState, putF, rdWord_wrWord_other hrun, putF, rdWord_wrWord_other hstate, rdWord_noteWas]

theorem portState_setPortState (h : st < 8) : portState (setPortState n st s) n = st := by
  rw [portState, setPortState, getF_putF_beside (by decide), getF_putF _ _ _ _ _ (by decide)]
  exact Nat.mod_eq_of_lt h

theorem run_setPortState : isSet (setPortState n st s) (jdxPage n) HDR.STATUS_RUN = (decide (st = 5) || decide (st = 6)) := by
  rw [setPortState, isSet_putF (by decide)]
  cases decide (st = 5) <;> cases decide (st = 6) <;> rfl

/-- The flags of a port's STATUS behind its state code. -/
theorem getF_setPortState {g : Fld} (hg : 11 ≤ g.lo) : getF (setPortState n st s) p g j = getF s p g j := by
  have hrun : HDR.STATUS_RUN.lo + HDR.STATUS_RUN.w ≤ g.lo := le_trans (by decide) hg
  have hstate : JDX.STATUS_STATE.lo + JDX.STATUS_STATE.w ≤ g.lo := le_trans (by decide) hg
  rw [setPortState, getF_putF_beside (.inl hrun), getF_putF_beside (.inl hstate), getF_noteWas]

theorem setPortState_kept : (setPortState n st s).ports = s.ports ∧ (setPortState n st s).up = s.up
    ∧ (setPortState n st s).hoop = s.hoop ∧ (setPortState n st s).slots = s.slots := by
  rw [setPortState, noteWas_eq]
  exact ⟨rfl, rfl, rfl, rfl⟩

theorem mem_urge_of {x w : Urgent} (h : x ∈ s.hoop.urgent) : x ∈ (urge w s).hoop.urgent := by
  unfold urge
  split
  · exact h
  · exact List.mem_append_left _ h

/-- The work that the end of a link leaves for Hoop firmware (R362). -/
def linkUrged (n : Nat) (s : State) : State := if portState s n = 5 ∨ portState s n = 6 then urge (.portLost n) s else s

theorem linkUrged_eq : linkUrged n s = { s with hoop := (linkUrged n s).hoop } := by
  unfold linkUrged
  split
  · exact urge_eq _ _
  · rfl

theorem linkUrged_urgent {x : Urgent} (h : x ∈ s.hoop.urgent) : x ∈ (linkUrged n s).hoop.urgent := by
  unfold linkUrged
  split
  · exact mem_urge_of h
  · exact h

/-- A port that is no longer ACTIVE or E_IDLE, before the slots it imports are lost. -/
def linkEnded (n st : Nat) (s : State) : State :=
  let s := linkUrged n s
  setPortState n st (modPort n (portDropped st s.up) { s with cst := { s.cst with nbs := smErase n s.cst.nbs } })

theorem linkEnded_regs : (linkEnded n st s).regs = (setPortState n st s).regs :=
  setPortState_regs (by rw [linkUrged_eq]; rfl)

theorem linkEnded_kept : portOf (linkEnded n st s) n = portDropped st s.up (portOf s n) ∧ (linkEnded n st s).up = s.up
    ∧ (linkEnded n st s).hoop = (linkUrged n s).hoop := by
  obtain ⟨hports, hup, hhoop, -⟩ := setPortState_kept (n := n) (st := st) (s := modPort n (portDropped st (linkUrged n s).up)
    { linkUrged n s with cst := { (linkUrged n s).cst with nbs := smErase n (linkUrged n s).cst.nbs } })
  have hsame : (linkUrged n s).ports = s.ports ∧ (linkUrged n s).up = s.up := by
    rw [linkUrged_eq]
    exact ⟨rfl, rfl⟩
  refine ⟨?_, hup.trans hsame.2, hhoop⟩
  rw [linkEnded, portOf, hports, ← portOf, portOf_modPort_same, hsame.2, portOf, hsame.1, portOf]

theorem portDown_eq : ∃ began, portDown n st s = losePort n began true (linkEnded n st s) := ⟨_, rfl⟩

/-- What remains of a port when its link is down: the registers of every port with the new state, and the port without what waited. -/
structure LinkDown (n st : Nat) (s t : State) : Prop where
  regs : ∀ a, linkReg a → rdWord t a = rdWord (setPortState n st s) a
  port : portOf t n = portDropped st s.up (portOf s n)
  up : t.up = s.up
  urgent : ∀ x ∈ s.hoop.urgent, x ∈ t.hoop.urgent

theorem portDown_down : LinkDown n st s (portDown n st s) := by
  obtain ⟨began, hdown⟩ := portDown_eq (n := n) (st := st) (s := s)
  obtain ⟨hports, hup, hurgent, -⟩ := (losePort_boundary (n := n) (began := began) (lock := true) (s := linkEnded n st s)).links
  obtain ⟨hport, hup', hhoop⟩ := linkEnded_kept (n := n) (st := st) (s := s)
  rw [hdown]
  refine ⟨fun a ha => ?_, ?_, hup.trans hup', fun x hx => ?_⟩
  · rw [LinkKept.losePort (.refl _) a ha, rdWord, linkEnded_regs, rdWord]
  · rw [← hport, portOf, hports, portOf]
  · rw [hurgent, hhoop]
    exact linkUrged_urgent hx

/-! ### The entry to SEARCH (R325, R328, R329) -/

namespace LinkKept

theorem congrPutF (h : LinkKept s t) : LinkKept (Machine.putF p f v i s) (Machine.putF p f v i t) := by
  intro a ha
  by_cases he : a = f.addr p i
  · rw [Machine.putF, Machine.putF, ← he, rdWord_wrWord, rdWord_wrWord, h a ha]
  · rw [Machine.putF, Machine.putF, rdWord_wrWord_other he, rdWord_wrWord_other he, h a ha]

theorem getF (h : LinkKept s t) (ha : linkReg (g.addr p j)) : getF t p g j = getF s p g j := congrArg g.of (h _ ha)

theorem isSet (h : LinkKept s t) (ha : linkReg (g.addr p j)) : isSet t p g j = isSet s p g j := by
  rw [Machine.isSet, Machine.isSet, h.getF ha]

theorem congrIncSat (h : LinkKept s t) (ha : linkReg (f.addr p i)) : LinkKept (incSat p f i s) (incSat p f i t) := by
  rw [incSat, incSat, h.getF ha]
  exact h.congrPutF

theorem congrClears (l : List Fld) (h : LinkKept s t) :
    LinkKept (forAll l (fun f s => Machine.putF p f 0 0 s) s) (forAll l (fun f s => Machine.putF p f 0 0 s) t) := by
  induction l generalizing s t with
  | nil => exact h
  | cons f l ih => exact ih h.congrPutF

end LinkKept

/-- The flags of a port's STATUS that an entry to SEARCH clears. -/
def searchFlags : List Fld :=
  [JDX.STATUS_FBM, JDX.STATUS_LOCK0, JDX.STATUS_LOCK1, JDX.STATUS_LANE_SWAP, JDX.STATUS_POL0, JDX.STATUS_POL1, JDX.STATUS_PEER_IDLE]

/-- A further entry to SEARCH counted where `on` says that the port has entered it before, and the flags cleared. -/
def searchCounted (n : Nat) (on : Bool) (s : State) : State :=
  forAll searchFlags (fun f s => putF (jdxPage n) f 0 0 s) (if on then incSat (jdxPage n) JDX.TRAIN_CNT_RETRAIN 0 s else s)

/-- Parts of the state that writes of registers leave alone. -/
def LinkSame (s t : State) : Prop := t.ports = s.ports ∧ t.up = s.up ∧ t.hoop = s.hoop

theorem linkSame_clears (l : List Fld) : LinkSame s (forAll l (fun f s => putF p f 0 0 s) s) :=
  forAll_induction (P := LinkSame s) (g := fun f s => putF p f 0 0 s) (fun _ _ hu => hu) l ⟨rfl, rfl, rfl⟩

theorem searchCounted_kept (on : Bool) : LinkSame s (searchCounted n on s) := by
  have hcount : LinkSame s (if on then incSat (jdxPage n) JDX.TRAIN_CNT_RETRAIN 0 s else s) := by
    split
    · exact ⟨rfl, rfl, rfl⟩
    · exact ⟨rfl, rfl, rfl⟩
  obtain ⟨hports, hup, hhoop⟩ := linkSame_clears (p := jdxPage n) (s := if on then incSat (jdxPage n) JDX.TRAIN_CNT_RETRAIN 0 s else s)
    searchFlags
  exact ⟨hports.trans hcount.1, hup.trans hcount.2.1, hhoop.trans hcount.2.2⟩

theorem LinkKept.searchCounted (hn : n < 8) (on : Bool) (h : LinkKept s t) : LinkKept (searchCounted n on s) (searchCounted n on t) := by
  cases on
  · exact h.congrClears searchFlags
  · exact (h.congrIncSat (linkReg_addr hn (by decide))).congrClears searchFlags

theorem enterSearch_eq : ∃ band, enterSearch n s = modPort n (freshPort (portDown n 1 s).up band)
    (searchCounted n (portOf (portDown n 1 s) n).tx.on (portDown n 1 s)) := by
  obtain ⟨-, hup, -⟩ := searchCounted_kept (n := n) (s := portDown n 1 s) (portOf (portDown n 1 s) n).tx.on
  exact ⟨_, by rw [← hup]; rfl⟩

/-- What the entry to SEARCH makes of a port. -/
structure Searches (n : Nat) (s t : State) : Prop where
  regs : LinkKept (searchCounted n (portOf s n).tx.on (setPortState n 1 s)) t
  port : ∃ band, portOf t n = freshPort s.up band (portDropped 1 s.up (portOf s n))
  up : t.up = s.up
  urgent : ∀ x ∈ s.hoop.urgent, x ∈ t.hoop.urgent

theorem enterSearch_searches (hn : n < 8) : Searches n s (enterSearch n s) := by
  obtain ⟨hregs, hport, hup, hurgent⟩ := portDown_down (n := n) (st := 1) (s := s)
  obtain ⟨band, heq⟩ := enterSearch_eq (n := n) (s := s)
  have hon : (portOf (portDown n 1 s) n).tx.on = (portOf s n).tx.on := by
    rw [hport]
    rfl
  have hstate : LinkKept (setPortState n 1 s) (portDown n 1 s) := hregs
  have hcounted := hstate.searchCounted hn (portOf s n).tx.on
  have hsame := searchCounted_kept (n := n) (s := portDown n 1 s) (portOf s n).tx.on
  rw [heq, hon]
  generalize searchCounted n (portOf s n).tx.on (portDown n 1 s) = w at hcounted hsame ⊢
  obtain ⟨hports', hup', hhoop'⟩ := hsame
  refine ⟨hcounted.same (modPort_regs ..), ⟨band, portOf_modPort_same.trans ?_⟩, (modPort_up ..).trans (hup'.trans hup), fun x hx => ?_⟩
  · have hport' : portOf w n = portOf (portDown n 1 s) n := by rw [portOf, hports', portOf]
    rw [hport', hport, hup]
  · rw [modPort_hoop, hhoop']
    exact hurgent x hx

theorem rdWord_clears (l : List Fld) {a : Nat} (h : ∀ f ∈ l, a ≠ f.addr p 0) : rdWord (forAll l (fun f s => putF p f 0 0 s) s) a = rdWord s a :=
  forAll_induction_mem (P := fun u => rdWord u a = rdWord s a) (g := fun f s => putF p f 0 0 s)
    (fun f hf u hu => (rdWord_wrWord_other (h f hf) _ u).trans hu) rfl

theorem getF_clears (l : List Fld) (h : ∀ f ∈ l, f.lo + f.w ≤ g.lo ∨ g.lo + g.w ≤ f.lo) :
    getF (forAll l (fun f s => putF p f 0 0 s) s) p g 0 = getF s p g 0 :=
  forAll_induction_mem (P := fun u => getF u p g 0 = getF s p g 0) (g := fun f s => putF p f 0 0 s)
    (fun f hf u hu => (getF_putF_beside (h f hf) _ u).trans hu) rfl

/-- The flags that SEARCH clears stand in STATUS. -/
theorem searchFlags_addr {f : Fld} (hf : f ∈ searchFlags) : f.addr p 0 = HDR.STATUS.addr p 0 := by
  have hall : ∀ f ∈ searchFlags, f.off = HDR.STATUS.off := by decide
  simp only [Fld.addr, hall f hf, Nat.mul_zero]

theorem rdWord_searchCounted {on : Bool} {a : Nat} (h : a ≠ HDR.STATUS.addr (jdxPage n) 0) (hcnt : a ≠ JDX.TRAIN_CNT.addr (jdxPage n) 0) :
    rdWord (searchCounted n on s) a = rdWord s a := by
  rw [searchCounted, rdWord_clears searchFlags (fun f hf => searchFlags_addr hf ▸ h)]
  have hcnt' : a ≠ JDX.TRAIN_CNT_RETRAIN.addr (jdxPage n) 0 := hcnt
  split
  · exact rdWord_wrWord_other hcnt' _ _
  · rfl

/-- A field of the count of trainings, which the flags do not touch. -/
theorem getF_trainCnt_searchCounted {on : Bool} (hg : g.off = 0x6C ∧ g.stride = 4) : getF (searchCounted n on s) (jdxPage n) g
    = getF (if on then incSat (jdxPage n) JDX.TRAIN_CNT_RETRAIN 0 s else s) (jdxPage n) g := by
  refine congrArg g.of (rdWord_clears searchFlags fun f hf => ?_)
  rw [searchFlags_addr hf]
  exact addr_ne (by rw [hg.1, hg.2]; decide)

theorem portState_searchCounted {on : Bool} : portState (searchCounted n on s) n = portState s n := by
  have hcnt : portState (if on then incSat (jdxPage n) JDX.TRAIN_CNT_RETRAIN 0 s else s) n = portState s n := by
    split
    · exact getF_incSat_reg _ _ _ _ _ _ _ (addr_ne (by decide))
    · rfl
  exact (getF_clears searchFlags (by decide)).trans hcnt

namespace Searches

variable {t : State}

theorem state (h : Searches n s t) (hn : n < 8) : portState t n = 1 := by
  rw [portState, h.regs.getF (linkReg_addr hn (by decide)), ← portState, portState_searchCounted]
  exact portState_setPortState (by decide)

theorem retrain (h : Searches n s t) (hn : n < 8) : getF t (jdxPage n) JDX.TRAIN_CNT_RETRAIN
    = if (portOf s n).tx.on then min (getF s (jdxPage n) JDX.TRAIN_CNT_RETRAIN + 1) (2 ^ JDX.TRAIN_CNT_RETRAIN.w - 1)
      else getF s (jdxPage n) JDX.TRAIN_CNT_RETRAIN := by
  have hcnt : getF (setPortState n 1 s) (jdxPage n) JDX.TRAIN_CNT_RETRAIN = getF s (jdxPage n) JDX.TRAIN_CNT_RETRAIN :=
    congrArg JDX.TRAIN_CNT_RETRAIN.of (rdWord_setPortState (addr_ne (by decide)))
  rw [h.regs.getF (linkReg_addr hn (by decide)), getF_trainCnt_searchCounted (by decide)]
  split
  · rw [getF_incSat (by decide), hcnt]
  · exact hcnt

theorem lol (h : Searches n s t) (hn : n < 8) : getF t (jdxPage n) JDX.TRAIN_CNT_LOL = getF s (jdxPage n) JDX.TRAIN_CNT_LOL := by
  have hcnt : getF (setPortState n 1 s) (jdxPage n) JDX.TRAIN_CNT_LOL = getF s (jdxPage n) JDX.TRAIN_CNT_LOL :=
    congrArg JDX.TRAIN_CNT_LOL.of (rdWord_setPortState (addr_ne (by decide)))
  rw [h.regs.getF (linkReg_addr hn (by decide)), getF_trainCnt_searchCounted (by decide)]
  split
  · exact (getF_putF_beside (by decide) _ _).trans hcnt
  · exact hcnt

theorem word (h : Searches n s t) (hn : n < 8) (hf : f.off + f.stride * i < 0x1000) (hne : f.off + f.stride * i ≠ 0x10
    ∧ f.off + f.stride * i ≠ 0x6C) : rdWord t (f.addr (jdxPage n) i) = rdWord s (f.addr (jdxPage n) i) := by
  rw [h.regs _ (linkReg_addr hn hf), rdWord_searchCounted (addr_ne hne.1) (addr_ne hne.2), rdWord_setPortState (addr_ne hne.1)]

end Searches

namespace LinkDown

variable {t : State}

theorem state (h : LinkDown n st s t) (hn : n < 8) (hst : st < 8) : portState t n = st := by
  rw [portState, getF, h.regs _ (linkReg_addr hn (by decide)), ← getF, ← portState, portState_setPortState hst]

theorem word (h : LinkDown n st s t) (hn : n < 8) (hf : f.off + f.stride * i < 0x1000) (hne : f.off + f.stride * i ≠ 0x10) :
    rdWord t (f.addr (jdxPage n) i) = rdWord s (f.addr (jdxPage n) i) := by
  rw [h.regs _ (linkReg_addr hn hf), rdWord_setPortState (addr_ne hne)]

end LinkDown

/-! ### Records and interrupts of a port -/

/-- STATUS stands apart from what a record and an interrupt of the page write. -/
theorem portState_irqBit : portState (irqBit (jdxPage n) v s) n = portState s n := getF_irqBit _ _ _ _ _ _ (addr_ne (by decide))

theorem portState_errRec {code sev unit info addr : Nat} : portState (errRec (jdxPage n) code sev unit info addr s) n = portState s n := by
  refine getF_errRec _ _ _ _ _ _ _ _ _ _ (addr_ne (by decide)) (addr_ne (by decide)) ?_
  simp only [Fld.addr, JDX.STATUS_STATE, DMP.DUMP_STAT_FATAL_CNT, jdxPage]
  omega

/-- A training failure (R326, R327, R329). -/
theorem trainFail_fails {reason : Nat} (hn : n < 8) :
    portState (trainFail n reason s) n = 7 ∧ irqStat (trainFail n reason s) (jdxPage n) 9 = true := by
  refine ⟨?_, irqStat_errRec_of (irqStat_irqBit_same (by decide))⟩
  rw [trainFail, portState_errRec, portState_irqBit]
  exact portDown_down.state hn (by decide)

theorem pageKind_jdxPage (hn : n < 8) : pageKind (jdxPage n) = some .jdx := by
  interval_cases n <;> rfl

/-! ### What a port's own registers leave of the slots -/

/-- A register of a slot: its source or its route. -/
def slotReg (a : Nat) : Prop := 0xB060 ≤ a % 0x1000000 ∧ a % 0x1000000 < 0xB070

theorem slotReg_addr (hf : f.stride = windowStride) (ho : 0x60 ≤ f.off ∧ f.off < 0x70) : slotReg (f.addr pTul i) := by
  simp only [slotReg, Fld.addr, hf, windowStride, pTul]
  omega

theorem not_slotReg_jdx (hn : n < 8) (ho : f.off + f.stride * i < 0x1000) : ¬ slotReg (f.addr (jdxPage n) i) := by
  simp only [slotReg, Fld.addr, jdxPage]
  omega

/-- The registers of the slots, with the writes that wait, as they stood. -/
structure RoutesKept (s t : State) : Prop where
  held : t.held = s.held
  regs : ∀ a, slotReg a → rdWord t a = rdWord s a

namespace RoutesKept

theorem refl (s : State) : RoutesKept s s := ⟨rfl, fun _ _ => rfl⟩

theorem trans (h : RoutesKept s t) (h' : RoutesKept t u) : RoutesKept s u :=
  ⟨h'.held.trans h.held, fun a ha => (h'.regs a ha).trans (h.regs a ha)⟩

theorem same (h : RoutesKept s t) (hr : u.regs = t.regs) (hh : u.held = t.held) : RoutesKept s u :=
  h.trans ⟨hh, fun a _ => by simp only [rdWord, hr]⟩

theorem putF (hn : n < 8) (ho : f.off + f.stride * i < 0x1000) (h : RoutesKept s t) : RoutesKept s (putF (jdxPage n) f v i t) :=
  h.trans ⟨rfl, fun a ha => rdWord_wrWord_other (by rintro rfl; exact not_slotReg_jdx hn ho ha) _ _⟩

theorem irqBit (hn : n < 8) (h : RoutesKept s t) : RoutesKept s (irqBit (jdxPage n) v t) :=
  h.trans ⟨irqBit_held, fun a ha => rdWord_irqSet t _ _ _ (by rintro rfl; exact not_slotReg_jdx hn (by decide) ha)⟩

theorem errRec {code sev unit info addr : Nat} (hn : n < 8) (h : RoutesKept s t) :
    RoutesKept s (errRec (jdxPage n) code sev unit info addr t) := by
  refine h.trans ⟨errRec_held, fun a ha => rdWord_errRec t _ _ _ _ _ _ _ ?_ ?_ ?_⟩
  · rintro rfl
    exact not_slotReg_jdx hn (by decide) ha
  · rintro rfl
    exact not_slotReg_jdx hn (by decide) ha
  · rintro rfl
    exact absurd ha.2 (by decide)

theorem noteWas {who : Option Requester} {a : Nat} (h : RoutesKept s t) : RoutesKept s (noteWas who a t) :=
  h.same noteWas_regs (by rw [noteWas_eq])

theorem modPort {g : Port → Port} (h : RoutesKept s t) : RoutesKept s (modPort n g t) := h.same rfl rfl

theorem setPortState (hn : n < 8) (h : RoutesKept s t) : RoutesKept s (setPortState n st t) :=
  (h.noteWas.putF hn (by decide)).putF hn (by decide)

theorem ite {c : Prop} [Decidable c] {x y : State} (hx : RoutesKept s x) (hy : RoutesKept s y) : RoutesKept s (if c then x else y) := by
  split <;> assumption

theorem kind (h : RoutesKept s t) (i : Nat) : slotKind t i = slotKind s i :=
  getB_congr h.held (h.regs _ (slotReg_addr rfl (by decide)))

theorem route (h : RoutesKept s t) (hf : f.stride = windowStride ∧ 0x60 ≤ f.off ∧ f.off < 0x70) (i : Nat) : getF t pTul f i = getF s pTul f i :=
  congrArg f.of (h.regs _ (slotReg_addr hf.1 hf.2))

theorem lost (h : RoutesKept s t) (i : Nat) : slotLost t i = slotLost s i := by
  rw [slotLost, isSet, h.route (by decide), ← isSet, slotLost]

theorem linkEnded (hn : n < 8) : RoutesKept s (linkEnded n st s) := by
  have hbase : RoutesKept s { linkUrged n s with cst := { (linkUrged n s).cst with nbs := smErase n (linkUrged n s).cst.nbs } } :=
    (refl s).same (by rw [linkUrged_eq]) (by rw [linkUrged_eq])
  exact hbase.modPort.setPortState hn

theorem clears (hn : n < 8) {l : List Fld} (hl : ∀ f ∈ l, f.off < 0x1000) (h : RoutesKept s t) :
    RoutesKept s (forAll l (fun f s => Machine.putF (jdxPage n) f 0 0 s) t) :=
  forAll_induction_mem (P := RoutesKept s) (g := fun f s => Machine.putF (jdxPage n) f 0 0 s)
    (fun f hf _ hu => hu.putF hn (by simpa using hl f hf)) h

theorem searchCounted {on : Bool} (hn : n < 8) (h : RoutesKept s t) : RoutesKept s (searchCounted n on t) :=
  clears hn (by decide) (ite (h.putF hn (by decide)) h)

end RoutesKept

theorem portRx_of_regs (h : t.regs = s.regs) : portRx t n = portRx s n := by
  rw [portRx, portRx, portState, portState, isSet, isSet, getF_of_regs h, getF_of_regs h]

/-- A port whose link ends has the slots lost that it imports, while it received framed traffic. -/
theorem portDown_loses (hn : n < 8) (hrx : portRx s n = true) (hi : i < 512) (hkind : slotKind s i = 3)
    (himp : getF s pTul TUL.SLOT_RT_IMP_PORT i = n) : slotLost (portDown n st s) i = true := by
  have hbase : portRx { linkUrged n s with cst := { (linkUrged n s).cst with nbs := smErase n (linkUrged n s).cst.nbs } } n = true := by
    rw [portRx_of_regs (s := s) (by rw [linkUrged_eq]), hrx]
  have hdown : portDown n st s = losePort n (portRx { linkUrged n s with cst :=
      { (linkUrged n s).cst with nbs := smErase n (linkUrged n s).cst.nbs } } n) true (linkEnded n st s) := rfl
  rw [hbase] at hdown
  have hkept := RoutesKept.linkEnded (s := s) (st := st) hn
  rw [hdown]
  exact slotLost_losePort hi ((hkept.kind i).trans hkind) ((hkept.route (by decide) i).trans himp)

theorem enterSearch_loses (hn : n < 8) (hrx : portRx s n = true) (hi : i < 512) (hkind : slotKind s i = 3)
    (himp : getF s pTul TUL.SLOT_RT_IMP_PORT i = n) : slotLost (enterSearch n s) i = true := by
  obtain ⟨band, heq⟩ := enterSearch_eq (n := n) (s := s)
  rw [heq, ← portDown_loses (st := 1) hn hrx hi hkind himp]
  exact ((RoutesKept.refl _).searchCounted hn).modPort.lost i

end Sys2Proof.Machine
end

section
/-!
PROOFS. Training of a port, its activation and its loss of lock (R310, R325 to R331, R333).
-/
namespace Sys2Proof.Machine

variable {s t : State} {n lane : Nat} {who : Requester}

/-! ### TRAIN and ACTIVATE (R325, R327) -/

theorem jdx_below (hn : n < 8) : ¬ 8 ≤ n := by omega

theorem exec_portTrain (hn : n < 8) (h : busOpen s who (jdxPage n) = true) : exec (.portTrain who n false) s
    = .next (if isSet s (jdxPage n) HDR.CTRL_EN then topoUrge (enterSearch n (notePage (some who) (jdxPage n) s))
      else notePage (some who) (jdxPage n) s) := by
  have hexec : exec (.portTrain who n false) s = execPortTrain who n false s := rfl
  rw [hexec, execPortTrain, if_neg (jdx_below hn), if_neg (by decide),
    viaBus_open h (pageKind_jdxPage hn) _ _ _ _ (fun hc => absurd hc (by decide)), ownAct, isSet_notePage]

theorem exec_portEnable (hn : n < 8) (h : busOpen s who (jdxPage n) = true) (hen : isSet s (jdxPage n) HDR.CTRL_EN = false) :
    exec (.portTrain who n true) s
      = .next (topoUrge (enterSearch n (putF (jdxPage n) HDR.CTRL_EN 1 0 (notePage (some who) (jdxPage n) s)))) := by
  have hexec : exec (.portTrain who n true) s = execPortTrain who n true s := rfl
  rw [hexec, execPortTrain, if_neg (jdx_below hn), if_pos rfl,
    viaBus_open h (pageKind_jdxPage hn) _ _ _ _ (fun hc => absurd hc (by decide)), ownAct, isSet_notePage, hen]
  rfl

theorem topoUrge_kept : (topoUrge s).regs = s.regs ∧ (topoUrge s).ports = s.ports ∧ (topoUrge s).up = s.up := by
  rw [topoUrge, urge_eq]
  exact ⟨rfl, rfl, rfl⟩

theorem Searches.urged (h : Searches n s t) : Searches n s (topoUrge t) := by
  obtain ⟨hregs, hports, hup⟩ := topoUrge_kept (s := t)
  obtain ⟨band, hport⟩ := h.port
  refine ⟨h.regs.same hregs, ⟨band, ?_⟩, hup.trans h.up, fun x hx => mem_urge_of (h.urgent x hx)⟩
  rw [← hport, portOf, hports, portOf]

theorem trainEnters (hn : n < 8) (h : busOpen s who (jdxPage n) = true) (hen : isSet s (jdxPage n) HDR.CTRL_EN = true) :
    ∃ t, exec (.portTrain who n false) s = .next t
      ∧ portState t n = 1 ∧ getF t (jdxPage n) JDX.TRAIN_CNT_RETRAIN
        = (if (portOf s n).tx.on then min (getF s (jdxPage n) JDX.TRAIN_CNT_RETRAIN + 1) (2 ^ JDX.TRAIN_CNT_RETRAIN.w - 1)
          else getF s (jdxPage n) JDX.TRAIN_CNT_RETRAIN)
      ∧ (portOf t n).searchUp = s.up ∧ (portOf t n).tx.start = 16 * s.up ∧ Urgent.topology ∈ t.hoop.urgent := by
  have hs := (enterSearch_searches (s := notePage (some who) (jdxPage n) s) hn).urged
  obtain ⟨band, hport⟩ := hs.port
  have hsame : portOf (notePage (some who) (jdxPage n) s) n = portOf s n ∧ (notePage (some who) (jdxPage n) s).up = s.up := by
    rw [notePage_eq]
    exact ⟨rfl, rfl⟩
  have hcnt := hs.retrain hn
  rw [hsame.1, getF_notePage] at hcnt
  rw [hsame.1, hsame.2] at hport
  refine ⟨_, (exec_portTrain hn h).trans (by rw [if_pos hen]), hs.state hn, hcnt, ?_, ?_, mem_urge _⟩
  · rw [hport]
    rfl
  · rw [hport]
    rfl

theorem trainDisabled (hn : n < 8) (h : busOpen s who (jdxPage n) = true) (hen : isSet s (jdxPage n) HDR.CTRL_EN = false) :
    exec (.portTrain who n false) s = .next (notePage (some who) (jdxPage n) s)
      ∧ ∃ t, exec (.portTrain who n true) s = .next t ∧ portState t n = 1 ∧ isSet t (jdxPage n) HDR.CTRL_EN = true := by
  have hs := (enterSearch_searches (s := putF (jdxPage n) HDR.CTRL_EN 1 0 (notePage (some who) (jdxPage n) s)) hn).urged
  refine ⟨(exec_portTrain hn h).trans (by rw [hen]; rfl), _, exec_portEnable hn h hen, hs.state hn, ?_⟩
  rw [isSet, getF, hs.word hn (by decide) (by decide), ← getF, ← isSet, isSet_putF (by decide)]
  rfl

theorem exec_portActivate (hn : n < 8) (h : busOpen s who (jdxPage n) = true) : exec (.portActivate who n) s
    = .next (portActivateEffect n (notePage (some who) (jdxPage n) s)) :=
  congrArg Host.Outcome.next (viaBus_open h (pageKind_jdxPage hn) _ _ _ _ (fun hc => absurd hc (by decide)))

/-- A port that has become ACTIVE beside its registers. -/
def activePort (x : Port) : Port := { x with backoff := 1, tx := { x.tx with since := 0 } }

/-- The registers of a port that has become ACTIVE. -/
def activeShown (n : Nat) (s : State) : State :=
  let s := irqBit (jdxPage n) 1 (setPortState n 5 s)
  if isSet s (jdxPage n) JDX.STATUS_FBM then irqBit (jdxPage n) 2 s else s

theorem activeShown_shows : portState (activeShown n s) n = 5 ∧ isSet (activeShown n s) (jdxPage n) HDR.STATUS_RUN = true
    ∧ irqStat (activeShown n s) (jdxPage n) 1 = true := by
  have hrun {v : Nat} {u : State} : isSet (irqBit (jdxPage n) v u) (jdxPage n) HDR.STATUS_RUN = isSet u (jdxPage n) HDR.STATUS_RUN :=
    isSet_irqBit_ne (addr_ne (by decide))
  have hfirst : portState (irqBit (jdxPage n) 1 (setPortState n 5 s)) n = 5 ∧ isSet (irqBit (jdxPage n) 1 (setPortState n 5 s)) (jdxPage n)
      HDR.STATUS_RUN = true ∧ irqStat (irqBit (jdxPage n) 1 (setPortState n 5 s)) (jdxPage n) 1 = true :=
    ⟨portState_irqBit.trans (portState_setPortState (by decide)), hrun.trans run_setPortState, irqStat_irqBit_same (by decide)⟩
  obtain ⟨hstate, hset, hirq⟩ := hfirst
  unfold activeShown
  dsimp only
  split
  · exact ⟨portState_irqBit.trans hstate, hrun.trans hset, irqStat_irqBit_of hirq⟩
  · exact ⟨hstate, hset, hirq⟩

theorem activated (hn : n < 8) (h : busOpen s who (jdxPage n) = true) (hst : portState s n = 4) :
    ∃ t, exec (.portActivate who n) s = .next t ∧ portState t n = 5
      ∧ isSet t (jdxPage n) HDR.STATUS_RUN = true ∧ irqStat t (jdxPage n) 1 = true ∧ (portOf t n).backoff = 1 := by
  have hst' : portState (notePage (some who) (jdxPage n) s) n = 4 := by rwa [portState, getF_notePage]
  obtain ⟨hstate, hrun, hirq⟩ := activeShown_shows (n := n) (s := notePage (some who) (jdxPage n) s)
  have heff : ∃ x : Cst, portActivateEffect n (notePage (some who) (jdxPage n) s)
      = topoUrge { modPort n activePort
          (activeShown n (notePage (some who) (jdxPage n) s)) with cst := x } := ⟨_, if_pos hst'⟩
  obtain ⟨x, heff⟩ := heff
  refine ⟨_, (exec_portActivate hn h).trans (congrArg Host.Outcome.next heff), ?_⟩
  obtain ⟨hregs, hports, -⟩ := topoUrge_kept (s := { modPort n activePort
    (activeShown n (notePage (some who) (jdxPage n) s)) with cst := x })
  refine ⟨(getF_of_regs hregs ..).trans hstate, ?_, ?_, ?_⟩
  · rw [isSet, getF_of_regs hregs]
    exact hrun
  · rw [irqStat, rdWord, hregs]
    exact hirq
  · have hport : portOf (modPort n activePort (activeShown n (notePage (some who) (jdxPage n) s))) n
        = activePort (portOf (activeShown n (notePage (some who) (jdxPage n) s)) n) := portOf_modPort_same
    rw [portOf, hports]
    exact congrArg Port.backoff hport

theorem activate_elsewhere (hn : n < 8) (h : busOpen s who (jdxPage n) = true) (hst : portState s n ≠ 4) :
    exec (.portActivate who n) s = .next (notePage (some who) (jdxPage n) s) := by
  have hst' : portState (notePage (some who) (jdxPage n) s) n ≠ 4 := by rwa [portState, getF_notePage]
  rw [exec_portActivate hn h, portActivateEffect]
  exact congrArg Host.Outcome.next (if_neg hst')

/-! ### What the training of a port changes -/

/-- Nothing but the ports and the registers with what accesses see of them differs. -/
def PortTyped (s t : State) : Prop := typedSame { s with ports := t.ports } t

namespace PortTyped

variable {u : State} {p v i b : Nat} {f : Fld}

theorem refl (s : State) : PortTyped s s := typedSame_refl s

theorem trans (h : PortTyped s t) (h' : PortTyped t u) : PortTyped s u := by
  unfold PortTyped typedSame at *
  rw [h', h]

theorem of_typedSame (h : typedSame s t) : PortTyped s t := by
  unfold PortTyped typedSame at *
  rw [h]

theorem modPort (g : Port → Port) (h : PortTyped s t) : PortTyped s (modPort n g t) := h.trans (typedSame_refl _)

theorem typed (h : PortTyped s t) (h' : typedSame t u) : PortTyped s u := h.trans (of_typedSame h')

theorem putF (h : PortTyped s t) : PortTyped s (putF p f v i t) := h.typed (typedSame_putF (typedSame_refl t))

theorem setPortState {st : Nat} (h : PortTyped s t) : PortTyped s (setPortState n st t) :=
  h.typed (typedSame_putF (typedSame_putF (typedSame_noteWas (typedSame_refl t))))

theorem ite {c : Prop} [Decidable c] {x y : State} (hx : PortTyped s x) (hy : PortTyped s y) : PortTyped s (if c then x else y) := by
  split <;> assumption

end PortTyped

theorem regsSame_setPortState {l : List Nat} {st : Nat} (h : HDR.STATUS.addr (jdxPage n) 0 ∈ l) (hs : regsSame l s t) :
    regsSame l s (setPortState n st t) := regsSame_putF h (regsSame_putF h (regsSame_noteWas hs))

/-! ### The end of SEARCH (R328) -/

/-- The port as it enters AGREE. -/
def agreePort (x : Port) : Port := { x with rx0 := 0, rx1 := 0, sent := 0, mode := none }

/-- SEARCH has done what it has to do. -/
def searchOver (s : State) (n : Nat) : Bool :=
  decide (portState s n = 1) && bothLocked s n && decide (16 ≤ (portOf s n).rx0) && decide (16 ≤ (portOf s n).rx1)

theorem searchDone_over (h : searchOver s n = true) : searchDone n s = setPortState n 2 (modPort n agreePort s) := if_pos h

theorem searchDone_not (h : searchOver s n = false) : searchDone n s = s := if_neg (by rw [← Bool.not_eq_true] at h; exact h)

theorem regsSame_searchDone {l : List Nat} (h : HDR.STATUS.addr (jdxPage n) 0 ∈ l) (hs : regsSame l s t) : regsSame l s (searchDone n t) := by
  cases ho : searchOver t n with
  | true => rw [searchDone_over ho]; exact regsSame_setPortState h hs
  | false => rw [searchDone_not ho]; exact hs

theorem typed_searchDone (h : PortTyped s t) : PortTyped s (searchDone n t) := by
  cases ho : searchOver t n with
  | true => rw [searchDone_over ho]; exact (h.modPort agreePort).setPortState
  | false => rw [searchDone_not ho]; exact h

theorem getF_searchDone {p j : Nat} {g : Fld} (hg : 11 ≤ g.lo) : getF (searchDone n s) p g j = getF s p g j := by
  cases ho : searchOver s n with
  | true => rw [searchDone_over ho]; exact getF_setPortState hg
  | false => rw [searchDone_not ho]

theorem isSet_searchDone {p j : Nat} {g : Fld} (hg : 11 ≤ g.lo) : isSet (searchDone n s) p g j = isSet s p g j := by
  rw [isSet, getF_searchDone hg, isSet]

/-- What a lane's first block lock leaves before SEARCH is looked at. -/
def laneLocked (n lane : Nat) (s : State) : State :=
  let was := bothLocked s n
  let s := putF (jdxPage n) (if lane = 0 then JDX.STATUS_LOCK0 else JDX.STATUS_LOCK1) 1 0 s
  if bothLocked s n && !was then modPort n (fun x => { x with lockUp := s.up }) s else s

theorem laneLocked_lock : isSet (laneLocked n lane s) (jdxPage n) (if lane = 0 then JDX.STATUS_LOCK0 else JDX.STATUS_LOCK1) = true := by
  have hput : isSet (putF (jdxPage n) (if lane = 0 then JDX.STATUS_LOCK0 else JDX.STATUS_LOCK1) 1 0 s) (jdxPage n)
      (if lane = 0 then JDX.STATUS_LOCK0 else JDX.STATUS_LOCK1) = true := by
    split
    · rw [isSet_putF (by decide)]; rfl
    · rw [isSet_putF (by decide)]; rfl
  unfold laneLocked
  dsimp only
  generalize putF (jdxPage n) (if lane = 0 then JDX.STATUS_LOCK0 else JDX.STATUS_LOCK1) 1 0 s = w at hput ⊢
  split
  · exact hput
  · exact hput

theorem laneLocked_regs : regsSame [HDR.STATUS.addr (jdxPage n) 0] s (laneLocked n lane s) := by
  have hput : regsSame [HDR.STATUS.addr (jdxPage n) 0] s
      (putF (jdxPage n) (if lane = 0 then JDX.STATUS_LOCK0 else JDX.STATUS_LOCK1) 1 0 s) := by
    refine regsSame_putF ?_ (regsSame_refl _ _)
    split
    · exact .head _
    · exact .head _
  unfold laneLocked
  dsimp only
  generalize putF (jdxPage n) (if lane = 0 then JDX.STATUS_LOCK0 else JDX.STATUS_LOCK1) 1 0 s = w at hput ⊢
  split
  · exact hput
  · exact hput

theorem laneLocked_typed : PortTyped s (laneLocked n lane s) :=
  PortTyped.ite ((PortTyped.refl s).putF.modPort _) (PortTyped.refl s).putF

theorem exec_laneBlockLock (hn : n < 8) (h1 : 1 ≤ portState s n) (h6 : portState s n ≤ 6) (hheld : portHeld s n = false) (hlane : lane < 2)
    (line : Nat) : exec (.laneBlockLock n { lane := lane, bits := line }) s
      = .next (if locks line then searchDone n (laneLocked n lane s) else s) := by
  have hexec : exec (.laneBlockLock n { lane := lane, bits := line }) s = execLaneBlockLock n { lane := lane, bits := line } s := rfl
  rw [hexec, execLaneBlockLock]
  cases hl : locks line with
  | true =>
    rw [if_neg]
    · rfl
    · rintro (h0 | h7 | hl2 | hn8 | hfz | hno)
      · omega
      · omega
      · exact absurd hl2 (Nat.not_le.2 hlane)
      · omega
      · rw [hheld] at hfz
        exact absurd hfz (by decide)
      · exact absurd hno (by decide)
  | false =>
    rw [if_pos]
    · rfl
    · exact .inr (.inr (.inr (.inr (.inr rfl))))

theorem laneLocks (hn : n < 8) (h1 : 1 ≤ portState s n) (h6 : portState s n ≤ 6) (hheld : portHeld s n = false) (hlane : lane < 2) (line : Nat) :
    (locks line = true → ∃ t, exec (.laneBlockLock n { lane := lane, bits := line }) s = .next t
      ∧ isSet t (jdxPage n) (if lane = 0 then JDX.STATUS_LOCK0 else JDX.STATUS_LOCK1) = true
      ∧ regsSame [HDR.STATUS.addr (jdxPage n) 0] s t ∧ typedSame { s with ports := t.ports } t)
    ∧ (locks line = false → exec (.laneBlockLock n { lane := lane, bits := line }) s = .next s) := by
  rw [exec_laneBlockLock hn h1 h6 hheld hlane]
  refine ⟨fun hl => ⟨_, by rw [if_pos hl], ?_, regsSame_searchDone (.head _) ?_, typed_searchDone ?_⟩, fun hl => by rw [hl]; rfl⟩
  · have hlo : 11 ≤ (if lane = 0 then JDX.STATUS_LOCK0 else JDX.STATUS_LOCK1).lo := by split <;> decide
    rw [isSet_searchDone hlo]
    exact laneLocked_lock
  · exact laneLocked_regs
  · exact laneLocked_typed

/-! ### TRAIN blocks (R325, R326, R328) -/

/-- A port that has received a TRAIN block in SEARCH. -/
def trainNoted (lane blk ctr : Nat) (cap fb ppm : Bool) (x : Port) : Port :=
  setTrainRx lane (trainRx lane x + 1) (noteTrain lane blk ctr { x with peerMain := cap, peerFb := fb, ppm := ppm })

theorem trainNoted_peer (lane blk ctr : Nat) (cap fb ppm : Bool) (x : Port) : (trainNoted lane blk ctr cap fb ppm x).peerMain = cap
    ∧ (trainNoted lane blk ctr cap fb ppm x).peerFb = fb ∧ (trainNoted lane blk ctr cap fb ppm x).ppm = ppm := by
  unfold trainNoted setTrainRx noteTrain
  split
  · exact ⟨rfl, rfl, rfl⟩
  · exact ⟨rfl, rfl, rfl⟩

theorem trainNoted_counts (blk ctr : Nat) (cap fb ppm : Bool) (x : Port) :
    (trainNoted lane blk ctr cap fb ppm x).rx0 = x.rx0 + (if lane = 0 then 1 else 0)
      ∧ (trainNoted lane blk ctr cap fb ppm x).rx1 = x.rx1 + (if lane = 0 then 0 else 1) := by
  unfold trainNoted setTrainRx noteTrain trainRx
  split
  · exact ⟨rfl, rfl⟩
  · exact ⟨rfl, rfl⟩

theorem trainNoted_swapped {ctr : Nat} (cap fb ppm : Bool) {x : Port} (h : (0, ctr) ∈ x.trn1) :
    lanesSwapped (trainNoted 0 1 ctr cap fb ppm x) = true := by
  have hother : (trainNoted 0 1 ctr cap fb ppm x).trn1.any (fun d => decide (d.1 = 0) && decide (d.2 = ctr)) = true :=
    List.any_eq_true.2 ⟨(0, ctr), h, by simp⟩
  exact List.any_eq_true.2 ⟨(1, ctr), List.mem_cons_self, by rw [hother]; rfl⟩

/-- POL of a lane whose block arrived inverted, and LANE_SWAP of a port whose peer's lanes come exchanged. -/
def polShown (n lane : Nat) (inv : Bool) (s : State) : State :=
  if inv then putF (jdxPage n) (if lane = 0 then JDX.STATUS_POL0 else JDX.STATUS_POL1) 1 0 s else s

def swapShown (n : Nat) (s : State) : State := if lanesSwapped (portOf s n) then putF (jdxPage n) JDX.STATUS_LANE_SWAP 1 0 s else s

/-- The registers and the port after a TRAIN block in SEARCH, before its end is looked at. -/
def trainShown (n lane : Nat) (inv : Bool) (g : Port → Port) (s : State) : State := swapShown n (modPort n g (polShown n lane inv s))

theorem polShown_ports {inv : Bool} : (polShown n lane inv s).ports = s.ports := by
  unfold polShown
  split
  · rfl
  · rfl

theorem swapShown_ports : (swapShown n s).ports = s.ports := by
  unfold swapShown
  split
  · rfl
  · rfl

theorem portOf_trained {inv : Bool} {g : Port → Port} : portOf (modPort n g (polShown n lane inv s)) n = g (portOf s n) := by
  rw [portOf_modPort_same, portOf, polShown_ports, portOf]

theorem portOf_trainShown {inv : Bool} {g : Port → Port} : portOf (trainShown n lane inv g s) n = g (portOf s n) := by
  rw [trainShown, portOf, swapShown_ports, ← portOf, portOf_trained]

/-- A field of STATUS in front of the flags that a TRAIN block sets. -/
theorem getF_polShown {inv : Bool} {f : Fld} (hf : f.lo + f.w ≤ 14) : getF (polShown n lane inv s) (jdxPage n) f = getF s (jdxPage n) f := by
  unfold polShown
  split
  · refine getF_putF_beside (.inr (hf.trans ?_)) _ _
    split <;> decide
  · rfl

theorem getF_swapShown {f : Fld} (hf : f.lo + f.w ≤ 14) : getF (swapShown n s) (jdxPage n) f = getF s (jdxPage n) f := by
  unfold swapShown
  split
  · exact getF_putF_beside (.inr hf) _ _
  · rfl

theorem getF_trainShown {inv : Bool} {g : Port → Port} {f : Fld} (hf : f.lo + f.w ≤ 14) :
    getF (trainShown n lane inv g s) (jdxPage n) f = getF s (jdxPage n) f := by
  rw [trainShown, getF_swapShown hf, getF_of_regs (modPort_regs ..), getF_polShown hf]

theorem searchOver_trainShown {inv : Bool} {g : Port → Port} (hst : portState s n = 1) : searchOver (trainShown n lane inv g s) n
    = (bothLocked s n && decide (16 ≤ (g (portOf s n)).rx0) && decide (16 ≤ (g (portOf s n)).rx1)) := by
  rw [searchOver, portState, getF_trainShown (by decide), ← portState, hst, bothLocked, isSet, isSet, getF_trainShown (by decide),
    getF_trainShown (by decide), ← isSet, ← isSet, portOf_trainShown, bothLocked]
  rfl

theorem trainShown_pol {g : Port → Port} :
    isSet (trainShown n lane true g s) (jdxPage n) (if lane = 0 then JDX.STATUS_POL0 else JDX.STATUS_POL1) = true := by
  have hput : isSet (modPort n g (polShown n lane true s)) (jdxPage n) (if lane = 0 then JDX.STATUS_POL0 else JDX.STATUS_POL1) = true := by
    rw [isSet, getF_of_regs (modPort_regs ..), ← isSet, polShown, if_pos rfl]
    split
    · rw [isSet_putF (by decide)]; rfl
    · rw [isSet_putF (by decide)]; rfl
  rw [trainShown, swapShown]
  generalize modPort n g (polShown n lane true s) = w at hput ⊢
  by_cases hw : lanesSwapped (portOf w n) = true
  · rw [if_pos hw, isSet_putF_beside]
    · exact hput
    · split <;> decide
  · rwa [if_neg hw]

theorem trainShown_swap {inv : Bool} {g : Port → Port} (h : lanesSwapped (g (portOf s n)) = true) :
    isSet (trainShown n lane inv g s) (jdxPage n) JDX.STATUS_LANE_SWAP = true := by
  rw [trainShown, swapShown, portOf_trained, h, if_pos rfl, isSet_putF (by decide)]
  rfl

theorem exec_trainBlock_search (hst : portState s n = 1) (hheld : portHeld s n = false) (lane blk : Nat) (inv cap ok fb : Bool) (st ctr : Nat)
    (ppm : Bool) : exec (.trainBlockRx n lane blk inv { cap := cap, ok := ok } fb { state := st, ctr := ctr } ppm) s
      = .next (searchDone n (trainShown n lane inv (trainNoted lane blk ctr cap fb ppm) s)) := by
  have hexec : exec (.trainBlockRx n lane blk inv { cap := cap, ok := ok } fb { state := st, ctr := ctr } ppm) s
    = execTrainBlockRx n lane blk inv { cap := cap, ok := ok } fb { state := st, ctr := ctr } ppm s := rfl
  rw [hexec, execTrainBlockRx, hheld]
  exact if_pos hst

/-- What the peer can do, as the end of SEARCH leaves it. -/
theorem searchDone_peer : (portOf (searchDone n s) n).peerMain = (portOf s n).peerMain ∧ (portOf (searchDone n s) n).peerFb = (portOf s n).peerFb
    ∧ (portOf (searchDone n s) n).ppm = (portOf s n).ppm := by
  cases ho : searchOver s n with
  | true =>
    obtain ⟨hports, -⟩ := setPortState_kept (n := n) (st := 2) (s := modPort n agreePort s)
    rw [searchDone_over ho, portOf, hports, ← portOf, portOf_modPort_same]
    exact ⟨rfl, rfl, rfl⟩
  | false => rw [searchDone_not ho]; exact ⟨rfl, rfl, rfl⟩

theorem trainBlock_search (hst : portState s n = 1) (hheld : portHeld s n = false) (lane blk : Nat) (inv cap ok fb : Bool) (st ctr : Nat)
    (ppm : Bool) : ∃ t, exec (.trainBlockRx n lane blk inv { cap := cap, ok := ok } fb { state := st, ctr := ctr } ppm) s = .next t
      ∧ (portOf t n).peerMain = cap ∧ (portOf t n).peerFb = fb ∧ (portOf t n).ppm = ppm
      ∧ (inv = true → isSet t (jdxPage n) (if lane = 0 then JDX.STATUS_POL0 else JDX.STATUS_POL1) = true)
      ∧ (lane = 0 → blk = 1 → (0, ctr) ∈ (portOf s n).trn1 → isSet t (jdxPage n) JDX.STATUS_LANE_SWAP = true)
      ∧ (bothLocked s n = false → (portOf t n).rx0 = (portOf s n).rx0 + (if lane = 0 then 1 else 0)
        ∧ (portOf t n).rx1 = (portOf s n).rx1 + (if lane = 0 then 0 else 1) ∧ portState t n = 1)
      ∧ (bothLocked s n = true → 16 ≤ (portOf s n).rx0 + (if lane = 0 then 1 else 0) →
        16 ≤ (portOf s n).rx1 + (if lane = 0 then 0 else 1) → portState t n = 2) := by
  obtain ⟨hcap, hfb, hppm⟩ := trainNoted_peer lane blk ctr cap fb ppm (portOf s n)
  obtain ⟨hr0, hr1⟩ := trainNoted_counts (lane := lane) blk ctr cap fb ppm (portOf s n)
  obtain ⟨hc, hf, hp⟩ := searchDone_peer (n := n) (s := trainShown n lane inv (trainNoted lane blk ctr cap fb ppm) s)
  have hport := portOf_trainShown (n := n) (lane := lane) (inv := inv) (g := trainNoted lane blk ctr cap fb ppm) (s := s)
  have hover := searchOver_trainShown (lane := lane) (inv := inv) (g := trainNoted lane blk ctr cap fb ppm) hst
  rw [hr0, hr1] at hover
  rw [hport] at hc hf hp
  refine ⟨_, exec_trainBlock_search hst hheld .., hc.trans hcap, hf.trans hfb, hp.trans hppm, ?_, ?_, fun hlock => ?_, fun hlock h0 h1 => ?_⟩
  · rintro rfl
    have hlo : 11 ≤ (if lane = 0 then JDX.STATUS_POL0 else JDX.STATUS_POL1).lo := by split <;> decide
    exact (isSet_searchDone hlo).trans trainShown_pol
  · rintro rfl rfl hmem
    exact (isSet_searchDone (by decide)).trans (trainShown_swap (trainNoted_swapped cap fb ppm hmem))
  · rw [hlock, Bool.false_and, Bool.false_and] at hover
    rw [searchDone_not hover, hport]
    exact ⟨hr0, hr1, (getF_trainShown (by decide)).trans hst⟩
  · rw [hlock, decide_eq_true h0, decide_eq_true h1] at hover
    rw [searchDone_over hover]
    exact portState_setPortState (by decide)

/-! ### AGREE (R326) -/

/-- A port that has heard what its peer can do. -/
def peerHeard (cap fb ppm : Bool) (x : Port) : Port := { x with peerMain := cap, peerFb := fb, ppm := ppm }

/-- A port with no frame in step yet. -/
def framesCleared (x : Port) : Port := { x with frames := 0 }

/-- The mode decided for a port is in its STATUS, and the port in DESKEW. -/
def deskewShown (n : Nat) (fb : Bool) (s : State) : State :=
  putF (jdxPage n) JDX.STATUS_FBM (ofBool fb) 0 (setPortState n 3 (modPort n framesCleared s))

theorem agreeDone_cases (n : Nat) (s : State) : agreeDone n s = s ∨ ∃ fb, agreeDone n s = deskewShown n fb s := by
  unfold agreeDone
  dsimp only
  split
  · split
    · exact .inr ⟨_, rfl⟩
    · exact .inl rfl
  · exact .inl rfl

theorem agreeDone_mode : (portOf (agreeDone n s) n).mode = (portOf s n).mode := by
  obtain h | ⟨fb, h⟩ := agreeDone_cases n s
  · rw [h]
  · have hports : (deskewShown n fb s).ports = (modPort n framesCleared s).ports :=
      (setPortState_kept (n := n) (st := 3) (s := modPort n framesCleared s)).1
    rw [h, portOf, hports, ← portOf, portOf_modPort_same]
    rfl

theorem trainAgree_mode {fb : Bool} {st : Nat} {x : Port} (hx : x.mode = none) : (trainAgree lane true fb true st x).mode = some false := by
  unfold trainAgree setTrainRx
  simp only [hx, Option.isNone_none, Bool.and_self, if_true]
  split <;> rfl

theorem exec_trainBlock_agree (hst : portState s n = 2) (hheld : portHeld s n = false) (lane blk : Nat) (inv cap ok fb : Bool) (st ctr : Nat)
    (ppm : Bool) : exec (.trainBlockRx n lane blk inv { cap := cap, ok := ok } fb { state := st, ctr := ctr } ppm) s
      = .next (agreeDone n (modPort n (trainAgree lane ok fb (mainOkOwn (modPort n (peerHeard cap fb ppm) s) n) st)
          (modPort n (peerHeard cap fb ppm) s))) := by
  have hexec : exec (.trainBlockRx n lane blk inv { cap := cap, ok := ok } fb { state := st, ctr := ctr } ppm) s
    = execTrainBlockRx n lane blk inv { cap := cap, ok := ok } fb { state := st, ctr := ctr } ppm s := rfl
  rw [hexec, execTrainBlockRx, hheld]
  have hne : ¬ portState s n = 1 := by omega
  exact (if_neg hne).trans (if_pos hst)

theorem trainBlock_agree (hst : portState s n = 2) (hheld : portHeld s n = false) (hmode : (portOf s n).mode = none)
    (hmain : mainCap s n = true) (hlock : bothLocked s n = true) (lane blk : Nat) (inv cap fb : Bool) (st ctr : Nat) :
    ∃ t, exec (.trainBlockRx n lane blk inv { cap := cap, ok := true } fb { state := st, ctr := ctr } true) s = .next t
      ∧ (portOf t n).mode = some false := by
  refine ⟨_, exec_trainBlock_agree hst hheld .., ?_⟩
  have hport : portOf (modPort n (peerHeard cap fb true) s) n = peerHeard cap fb true (portOf s n) := portOf_modPort_same
  have hown : mainOkOwn (modPort n (peerHeard cap fb true) s) n = true := by
    have hcap : mainCap (modPort n (peerHeard cap fb true) s) n = mainCap s n := rfl
    have hboth : bothLocked (modPort n (peerHeard cap fb true) s) n = bothLocked s n := rfl
    rw [mainOkOwn, hcap, hboth, hmain, hlock, hport]
    rfl
  rw [agreeDone_mode, portOf_modPort_same, hown, hport]
  exact trainAgree_mode hmode

/-! ### Timeouts (R326, R329) -/

/-- A port whose ends agree on fall-back mode. -/
def fallenBack (x : Port) : Port := { x with mode := some true, rx0 := 0, rx1 := 0, sent := 0 }

theorem exec_modeTimeout (hst : portState s n = 2) (hheld : portHeld s n = false) (hmode : (portOf s n).mode = none)
    (hlock : bothLocked s n = true) : exec (.modeTimeout n) s = .next (if (portOf s n).lockUp + 10000 ≤ s.up then
      if fbCap s n && (portOf s n).peerFb then modPort n fallenBack s
      else trainFail n 2 s else s) := by
  have hexec : exec (.modeTimeout n) s = execModeTimeout n s := rfl
  rw [hexec, execModeTimeout, hheld]
  by_cases hup : (portOf s n).lockUp + 10000 ≤ s.up
  · rw [if_pos hup]
    have hall : portState s n = 2 ∧ (portOf s n).mode = none ∧ bothLocked s n = true ∧ (portOf s n).lockUp + 10000 ≤ s.up :=
      ⟨hst, hmode, hlock, hup⟩
    exact if_pos hall
  · rw [if_neg hup]
    have hnot : ¬ (portState s n = 2 ∧ (portOf s n).mode = none ∧ bothLocked s n = true ∧ (portOf s n).lockUp + 10000 ≤ s.up) :=
      fun h => hup h.2.2.2
    exact if_neg hnot

theorem modeTimeouts (hn : n < 8) (hst : portState s n = 2) (hheld : portHeld s n = false) (hmode : (portOf s n).mode = none)
    (hlock : bothLocked s n = true) :
    (s.up < (portOf s n).lockUp + 10000 → exec (.modeTimeout n) s = .next s)
    ∧ ((portOf s n).lockUp + 10000 ≤ s.up → (fbCap s n && (portOf s n).peerFb) = true →
      ∃ t, exec (.modeTimeout n) s = .next t ∧ (portOf t n).mode = some true ∧ portState t n = 2 ∧ regsSame [] s t)
    ∧ ((portOf s n).lockUp + 10000 ≤ s.up → (fbCap s n && (portOf s n).peerFb) = false →
      ∃ t, exec (.modeTimeout n) s = .next t ∧ portState t n = 7 ∧ irqStat t (jdxPage n) 9 = true) := by
  rw [exec_modeTimeout hst hheld hmode hlock]
  refine ⟨fun h => by rw [if_neg (by omega)], fun h hfb => ⟨modPort n fallenBack s, by rw [if_pos h, if_pos hfb], ?_, hst, fun _ _ => rfl⟩,
    fun h hfb => ⟨trainFail n 2 s, by rw [if_pos h, hfb]; rfl, trainFail_fails hn⟩⟩
  exact congrArg Port.mode portOf_modPort_same

theorem measureTimeouts (hn : n < 8) (hheld : portHeld s n = false) (hst : portState s n = 4) :
    ((portOf s n).measUp + 100000 ≤ s.up → ∃ t, exec (.trainTimeout n true) s = .next t ∧ portState t n = 7
      ∧ irqStat t (jdxPage n) 9 = true)
    ∧ (s.up < (portOf s n).measUp + 100000 → exec (.trainTimeout n true) s = .next s) := by
  have hexec : exec (.trainTimeout n true) s = .next (if portState s n = 4 ∧ (portOf s n).measUp + 100000 ≤ s.up then trainFail n 5 s else s) := by
    have hexec : exec (.trainTimeout n true) s = execTrainTimeout n true s := rfl
    rw [hexec, execTrainTimeout, hheld]
    rfl
  rw [hexec]
  exact ⟨fun h => ⟨_, by rw [if_pos ⟨hst, h⟩], trainFail_fails hn⟩, fun h => by rw [if_neg fun hc => by omega]⟩

theorem searchTimeouts (hn : n < 8) (hheld : portHeld s n = false) (h1 : 1 ≤ portState s n) (h4 : portState s n ≤ 4)
    (hon : (portOf s n).tx.on = true) :
    ((portOf s n).searchUp + 1000000 ≤ s.up → ∃ t, exec (.trainTimeout n false) s = .next t ∧ portState t n = 7)
    ∧ (s.up < (portOf s n).searchUp + 1000000 → exec (.trainTimeout n false) s = .next s) := by
  have hexec : exec (.trainTimeout n false) s = .next (if 1 ≤ portState s n ∧ portState s n ≤ 4 ∧ (portOf s n).tx.on = true
      ∧ (portOf s n).searchUp + 1000000 ≤ s.up then trainFail n 1 s else s) := by
    have hexec : exec (.trainTimeout n false) s = execTrainTimeout n false s := rfl
    rw [hexec, execTrainTimeout, hheld]
    rfl
  rw [hexec]
  exact ⟨fun h => ⟨_, by rw [if_pos ⟨h1, h4, hon, h⟩], (trainFail_fails hn).1⟩, fun h => by rw [if_neg fun hc => by omega]⟩

theorem backoffs (hn : n < 8) (hst : portState s n = 7) (hheld : portHeld s n = false) (hauto : isSet s (jdxPage n) JDX.PORT_CFG_AUTO = true)
    (hen : isSet s (jdxPage n) HDR.CTRL_EN = true) :
    ((portOf s n).failUp + 1000000 * (portOf s n).backoff ≤ s.up →
      ∃ t, exec (.trainBackoff n) s = .next t ∧ portState t n = 1 ∧ (portOf t n).backoff = min 64 (2 * (portOf s n).backoff))
    ∧ (s.up < (portOf s n).failUp + 1000000 * (portOf s n).backoff → exec (.trainBackoff n) s = .next s) := by
  have hexec : exec (.trainBackoff n) s = execTrainBackoff n s := rfl
  rw [hexec, execTrainBackoff]
  constructor
  case left =>
    intro h
    have hs := enterSearch_searches (s := modPort n (fun x => { x with backoff := min 64 (2 * x.backoff) }) s) hn
    obtain ⟨band, hport⟩ := hs.port
    rw [portOf_modPort_same] at hport
    refine ⟨_, congrArg Host.Outcome.next (if_pos ⟨hst, hauto, hen, hheld, h⟩), hs.state hn, ?_⟩
    rw [hport]
    rfl
  case right =>
    intro h
    exact congrArg Host.Outcome.next (if_neg fun hc => by omega)

/-! ### Loss of lock (R325, R330, R331) -/

theorem lolTakes_of {cause : LolCause} (h : ∀ bad, cause = .headers bad → 16 ≤ popcount 64 bad) : lolTakes cause = true := by
  cases cause with
  | headers bad =>
    have hbad := h bad rfl
    rw [lolTakes, decide_eq_true_iff]
    exact hbad
  | rootPll => rfl
  | signal => rfl

theorem exec_lossOfLock (hn : n < 8) (hheld : portHeld s n = false) (lanes : Nat) {cause : LolCause} (h : lolTakes cause = true) :
    exec (.jodexLossOfLock n lanes cause) s = .next (loseLock n lanes (lolNum cause) s) := by
  have hexec : exec (.jodexLossOfLock n lanes cause) s = execJodexLossOfLock n lanes cause s := rfl
  rw [hexec, execJodexLossOfLock, hheld, h]
  refine if_neg ?_
  rintro (h8 | hfz | hno)
  · omega
  · exact absurd hfz (by decide)
  · exact absurd hno (by decide)

theorem lossOfLock_few (n lanes : Nat) {bad : Nat} (h : popcount 64 bad < 16) : exec (.jodexLossOfLock n lanes (.headers bad)) s = .next s := by
  have hexec : exec (.jodexLossOfLock n lanes (.headers bad)) s = execJodexLossOfLock n lanes (.headers bad) s := rfl
  have htakes : lolTakes (.headers bad) = false := by
    rw [lolTakes, decide_eq_false_iff_not]
    omega
  rw [hexec, execJodexLossOfLock, htakes]
  exact if_pos (.inr (.inr rfl))

/-- The lanes that have lost lock, in STATUS. -/
def lanesDropped (n lanes : Nat) (s : State) : State :=
  let s := if bit lanes 0 = 1 then putF (jdxPage n) JDX.STATUS_LOCK0 0 0 s else s
  if bit lanes 1 = 1 then putF (jdxPage n) JDX.STATUS_LOCK1 0 0 s else s

/-- The count, the interrupt and the record of a loss of lock. -/
def lolCounted (n lanes cause : Nat) (s : State) : State :=
  errRec (jdxPage n) 0x20 2 0 (lanes + 16 * cause) 0 (irqBit (jdxPage n) 0 (incSat (jdxPage n) JDX.TRAIN_CNT_LOL 0 s))

theorem portLol_eq (n lanes cause : Nat) (s : State) : portLol n lanes cause s =
    if isSet (lanesDropped n lanes (lolCounted n lanes cause s)) (jdxPage n) JDX.PORT_CFG_AUTO
    then enterSearch n (lanesDropped n lanes (lolCounted n lanes cause s))
    else portDown n 7 (lanesDropped n lanes (lolCounted n lanes cause s)) := rfl

theorem trainLol_eq (n lanes : Nat) (s : State) : trainLol n lanes s =
    if 2 ≤ portState (lanesDropped n lanes s) n ∧ isSet (lanesDropped n lanes s) (jdxPage n) JDX.PORT_CFG_AUTO = true
    then enterSearch n (lanesDropped n lanes s) else lanesDropped n lanes s := rfl

/-- A field of the page beside the two lock flags. -/
theorem getF_lanesDropped {lanes p i : Nat} {f : Fld} (hf : f.lo + f.w ≤ 12 ∨ 14 ≤ f.lo) : getF (lanesDropped n lanes s) p f i = getF s p f i := by
  have hput {g : Fld} {u : State} (hg : 12 ≤ g.lo ∧ g.lo + g.w ≤ 14) : getF (putF (jdxPage n) g 0 0 u) p f i = getF u p f i :=
    getF_putF_beside (by omega) _ _
  unfold lanesDropped
  dsimp only
  split
  · rw [hput (by decide)]
    split
    · exact hput (by decide)
    · rfl
  · split
    · exact hput (by decide)
    · rfl

theorem word_lanesDropped {lanes i : Nat} {f : Fld} (hf : f.off + f.stride * i ≠ 0x10) :
    rdWord (lanesDropped n lanes s) (f.addr (jdxPage n) i) = rdWord s (f.addr (jdxPage n) i) := by
  have hput {g : Fld} {u : State} (hg : g.off + g.stride * 0 = 0x10) :
      rdWord (putF (jdxPage n) g 0 0 u) (f.addr (jdxPage n) i) = rdWord u (f.addr (jdxPage n) i) :=
    rdWord_wrWord_other (addr_ne (hg ▸ hf)) _ u
  unfold lanesDropped
  dsimp only
  split
  · rw [hput (by decide)]
    split
    · exact hput (by decide)
    · rfl
  · split
    · exact hput (by decide)
    · rfl

theorem jdx_ne_dump {i : Nat} {f : Fld} : f.addr (jdxPage n) i ≠ DMP.DUMP_STAT_FATAL_CNT.addr 0xF 0 := by
  simp only [Fld.addr, DMP.DUMP_STAT_FATAL_CNT, jdxPage]
  omega

/-- A register of the page that a loss of lock does not record itself in. -/
theorem word_lolCounted {lanes cause i : Nat} {f : Fld} (hf : f.off + f.stride * i ≠ 0x14 ∧ f.off + f.stride * i ≠ 0x30
    ∧ f.off + f.stride * i ≠ 0x6C) : rdWord (lolCounted n lanes cause s) (f.addr (jdxPage n) i) = rdWord s (f.addr (jdxPage n) i) := by
  obtain ⟨hirq, herr, hcnt⟩ := hf
  rw [lolCounted, rdWord_errRec _ _ _ _ _ _ _ _ (addr_ne herr) (addr_ne hirq) jdx_ne_dump, irqBit, rdWord_irqSet _ _ _ _ (addr_ne hirq),
    incSat, putF, rdWord_wrWord_other (addr_ne hcnt)]

theorem lol_lolCounted {lanes cause : Nat} : getF (lolCounted n lanes cause s) (jdxPage n) JDX.TRAIN_CNT_LOL
    = min (getF s (jdxPage n) JDX.TRAIN_CNT_LOL + 1) (2 ^ JDX.TRAIN_CNT_LOL.w - 1) := by
  rw [lolCounted, getF_errRec _ _ _ _ _ _ _ _ _ _ (addr_ne (by decide)) (addr_ne (by decide)) jdx_ne_dump,
    getF_irqBit _ _ _ _ _ _ (addr_ne (by decide)), getF_incSat (by decide)]

theorem routesKept_lolShown {lanes cause : Nat} (hn : n < 8) : RoutesKept s (lanesDropped n lanes (lolCounted n lanes cause s)) := by
  have hc : RoutesKept s (lolCounted n lanes cause s) := (((RoutesKept.refl s).putF hn (by decide)).irqBit hn).errRec hn
  have h0 := RoutesKept.ite (c := bit lanes 0 = 1) (hc.putF (f := JDX.STATUS_LOCK0) (v := 0) (i := 0) hn (by decide)) hc
  exact RoutesKept.ite (h0.putF hn (by decide)) h0

theorem getF_lolShown {lanes cause : Nat} {f : Fld} (hoff : f.off = 0x10) (hf : f.lo + f.w ≤ 12 ∨ 14 ≤ f.lo) :
    getF (lanesDropped n lanes (lolCounted n lanes cause s)) (jdxPage n) f = getF s (jdxPage n) f := by
  rw [getF_lanesDropped hf, getF, word_lolCounted (by omega), ← getF]

/-- The registers of a port that has lost lock, before it enters SEARCH or FAILED. -/
def lolShown (n lanes cause : Nat) (s : State) : State := lanesDropped n lanes (lolCounted n lanes cause s)

theorem auto_lolShown {lanes cause : Nat} : isSet (lolShown n lanes cause s) (jdxPage n) JDX.PORT_CFG_AUTO
    = isSet s (jdxPage n) JDX.PORT_CFG_AUTO := by
  rw [isSet, getF, lolShown, word_lanesDropped (by decide), word_lolCounted (by decide), ← getF, ← isSet]

theorem portRx_lolShown {lanes cause : Nat} : portRx (lolShown n lanes cause s) n = portRx s n := by
  rw [portRx, portState, isSet, lolShown, getF_lolShown rfl (by decide), getF_lolShown rfl (by decide), ← isSet, ← portState, portRx]

theorem lol_lolShown {lanes cause : Nat} : getF (lolShown n lanes cause s) (jdxPage n) JDX.TRAIN_CNT_LOL
    = min (getF s (jdxPage n) JDX.TRAIN_CNT_LOL + 1) (2 ^ JDX.TRAIN_CNT_LOL.w - 1) := by
  rw [lolShown, getF_lanesDropped (by decide), lol_lolCounted]

/-- What a loss of lock leaves, whether the port enters SEARCH or FAILED. -/
theorem portLol_shows {lanes cause : Nat} (hn : n < 8) :
    portState (portLol n lanes cause s) n = (if isSet s (jdxPage n) JDX.PORT_CFG_AUTO then 1 else 7)
      ∧ getF (portLol n lanes cause s) (jdxPage n) JDX.TRAIN_CNT_LOL
        = min (getF s (jdxPage n) JDX.TRAIN_CNT_LOL + 1) (2 ^ JDX.TRAIN_CNT_LOL.w - 1)
      ∧ (portRx s n = true → ∀ i < 512, slotKind s i = 3 → getF s pTul TUL.SLOT_RT_IMP_PORT i = n →
        slotLost (portLol n lanes cause s) i = true) := by
  have hroutes : RoutesKept s (lolShown n lanes cause s) := routesKept_lolShown hn
  rw [portLol_eq, ← lolShown, auto_lolShown]
  cases isSet s (jdxPage n) JDX.PORT_CFG_AUTO with
  | true =>
    have hs := enterSearch_searches (s := lolShown n lanes cause s) hn
    exact ⟨hs.state hn, (hs.lol hn).trans lol_lolShown, fun hrx i hi hk himp =>
      enterSearch_loses hn (portRx_lolShown.trans hrx) hi ((hroutes.kind i).trans hk) ((hroutes.route (by decide) i).trans himp)⟩
  | false =>
    have hd := portDown_down (n := n) (st := 7) (s := lolShown n lanes cause s)
    have hcnt : getF (portDown n 7 (lolShown n lanes cause s)) (jdxPage n) JDX.TRAIN_CNT_LOL
        = getF (lolShown n lanes cause s) (jdxPage n) JDX.TRAIN_CNT_LOL := congrArg JDX.TRAIN_CNT_LOL.of (hd.word hn (by decide) (by decide))
    exact ⟨hd.state hn (by decide), hcnt.trans lol_lolShown, fun hrx i hi hk himp =>
      portDown_loses hn (portRx_lolShown.trans hrx) hi ((hroutes.kind i).trans hk) ((hroutes.route (by decide) i).trans himp)⟩

theorem lossOfLock_active (hn : n < 8) (hst : portState s n = 5 ∨ portState s n = 6) (hheld : portHeld s n = false) (lanes : Nat)
    (cause : LolCause) (hc : ∀ bad, cause = .headers bad → 16 ≤ popcount 64 bad) :
    ∃ t, exec (.jodexLossOfLock n lanes cause) s = .next t
      ∧ portState t n = (if isSet s (jdxPage n) JDX.PORT_CFG_AUTO then 1 else 7)
      ∧ getF t (jdxPage n) JDX.TRAIN_CNT_LOL = min (getF s (jdxPage n) JDX.TRAIN_CNT_LOL + 1) (2 ^ JDX.TRAIN_CNT_LOL.w - 1)
      ∧ ∀ i < 512, slotKind s i = 3 → getF s pTul TUL.SLOT_RT_IMP_PORT i = n → isSet s (jdxPage n) JDX.STATUS_PEER_IDLE = false →
        slotLost t i = true := by
  obtain ⟨hstate, hcnt, hlost⟩ := portLol_shows (s := s) (n := n) (lanes := lanes) (cause := lolNum cause) hn
  obtain ⟨hregs, -, -⟩ := topoUrge_kept (s := portLol n lanes (lolNum cause) s)
  have hexec : loseLock n lanes (lolNum cause) s = topoUrge (portLol n lanes (lolNum cause) s) := if_pos hst
  refine ⟨_, (exec_lossOfLock hn hheld lanes (lolTakes_of hc)).trans (congrArg Host.Outcome.next hexec), ?_, ?_, fun i hi hk himp hidle => ?_⟩
  · exact (getF_of_regs hregs ..).trans hstate
  · exact (getF_of_regs hregs ..).trans hcnt
  · have hrx : portRx s n = true := by
      rw [portRx, hidle]
      obtain h | h := hst
      · rw [h]; rfl
      · rw [h]; rfl
    rw [slotLost, isSet, getF_of_regs hregs, ← isSet, ← slotLost]
    exact hlost hrx i hi hk himp

theorem lossOfLock_training (hn : n < 8) (h2 : 2 ≤ portState s n) (h4 : portState s n ≤ 4) (hheld : portHeld s n = false)
    (hauto : isSet s (jdxPage n) JDX.PORT_CFG_AUTO = true) (lanes : Nat) (cause : LolCause)
    (hc : ∀ bad, cause = .headers bad → 16 ≤ popcount 64 bad) :
    ∃ t, exec (.jodexLossOfLock n lanes cause) s = .next t ∧ portState t n = 1 := by
  have hst : portState (lanesDropped n lanes s) n = portState s n := getF_lanesDropped (by decide)
  have hauto' : isSet (lanesDropped n lanes s) (jdxPage n) JDX.PORT_CFG_AUTO = true := by
    rwa [isSet, getF, word_lanesDropped (by decide), ← getF, ← isSet]
  have hlol : loseLock n lanes (lolNum cause) s = enterSearch n (lanesDropped n lanes s) := by
    rw [loseLock, if_neg (by omega), if_neg (by omega), trainLol_eq, hst, if_pos ⟨h2, hauto'⟩]
  exact ⟨_, (exec_lossOfLock hn hheld lanes (lolTakes_of hc)).trans (congrArg Host.Outcome.next hlol), (enterSearch_searches hn).state hn⟩

/-! ### TRAIN blocks that a port sends (R310, R328) -/

/-- A port in SEARCH as a block period begins in time. -/
def searchBegins (n : Nat) (s : State) : State :=
  modTx n (fun t => frameBegins 1 (if t.start < 16 * s.up then { t with start := 16 * s.up, b := 0 } else t)) s

theorem frameBegins_search {t : Tx} (hf : t.framed = false) : (frameBegins 1 t).framed = false ∧ (frameBegins 1 t).filling = t.filling
    ∧ (frameBegins 1 t).ctr = t.ctr ∧ (frameBegins 1 t).start = t.start := by
  unfold frameBegins
  split
  · exact ⟨rfl, rfl, rfl, rfl⟩
  · exact ⟨hf, rfl, rfl, rfl⟩

theorem portOf_searchBegins (hlo : 16 * s.up ≤ (portOf s n).tx.start) :
    portOf (searchBegins n s) n = { portOf s n with tx := frameBegins 1 (portOf s n).tx } := by
  have hnot : ¬ (portOf s n).tx.start < 16 * s.up := by omega
  rw [searchBegins, modTx, portOf_modPort_same, if_neg hnot]

theorem trainPay_searchBegins (hlo : 16 * s.up ≤ (portOf s n).tx.start) (hf : (portOf s n).tx.framed = false) (l : Nat) :
    trainPay (searchBegins n s) n l = trainPay s n l := by
  obtain ⟨-, -, hctr, -⟩ := frameBegins_search hf
  have hcap : mainCap (searchBegins n s) n = mainCap s n ∧ bothLocked (searchBegins n s) n = bothLocked s n
    ∧ fbCap (searchBegins n s) n = fbCap s n ∧ portState (searchBegins n s) n = portState s n := ⟨rfl, rfl, rfl, rfl⟩
  obtain ⟨hmain, hlock, hfb, hst⟩ := hcap
  rw [trainPay, mainOkOwn, hmain, hlock, hfb, hst, portOf_searchBegins hlo]
  exact congrArg (fun c => ctlPay 0x78 (l + 2 ^ 8 * (ofBool (mainCap s n) + 2 * ofBool (mainOkOwn s n) + 4 * ofBool (fbCap s n))
    + 2 ^ 16 * portState s n + 2 ^ 24 * c)) hctr

theorem periodBlks_search (hst : portState s n = 1) (hframed : (portOf s n).tx.framed = false) (hfill : (portOf s n).tx.filling = false)
    (b : Nat) : periodBlks n b s = ([(2, trainPay s n 0), (2, trainPay s n 1)], s) := by
  have hsent : trainSent n s = s := if_neg (by omega)
  have h6 : ¬ portState s n = 6 := by omega
  rw [periodBlks, hfill, hframed, hsent]
  exact if_neg h6

theorem periodEnds_unframed {fb : Bool} {t : Tx} (hf : t.framed = false) (hfill : t.filling = false) :
    (periodEnds fb t).start = t.start + 33 ∧ (periodEnds fb t).ctr = (t.ctr + 1) % 65536 ∧ (periodEnds fb t).blks = t.blks := by
  unfold periodEnds
  rw [hfill, hf]
  dsimp only
  split
  · exact absurd ‹_› (by decide)
  · split
    · exact ⟨rfl, rfl, rfl⟩
    · exact ⟨rfl, rfl, rfl⟩

theorem portCycle_search (hst : portState s n = 1) (hheld : portHeld s n = false) (hon : (portOf s n).tx.on = true)
    (hframed : (portOf s n).tx.framed = false) (hfill : (portOf s n).tx.filling = false) (hlo : 16 * s.up ≤ (portOf s n).tx.start)
    (hhi : (portOf s n).tx.start < 16 * s.up + 16) :
    (portOf (portCycle n s) n).tx.blks.map (fun b => (b.hdr, b.pay)) = [(2, trainPay s n 0), (2, trainPay s n 1)]
      ∧ (portOf (portCycle n s) n).tx.start = (portOf s n).tx.start + 33
      ∧ (portOf (portCycle n s) n).tx.ctr = ((portOf s n).tx.ctr + 1) % 65536 := by
  obtain ⟨hnf, hnfill, hctr, hstart⟩ := frameBegins_search hframed
  have hport := portOf_searchBegins hlo
  have hblks := periodBlks_search (s := searchBegins n s) hst (by rw [hport]; exact hnf) (by rw [hport]; exact hnfill.trans hfill)
    (portOf (searchBegins n s) n).tx.b
  rw [trainPay_searchBegins hlo hframed, trainPay_searchBegins hlo hframed] at hblks
  have hcycle : portCycle n s = modTx n (fun t => periodEnds (isSet (searchBegins n s) (jdxPage n) JDX.STATUS_FBM)
      (putBlks [(2, trainPay s n 0), (2, trainPay s n 1)] t)) (searchBegins n s) := by
    have hskip : (!(portOf s n).tx.on || decide (portState s n = 0) || decide (portState s n = 7) || portHeld s n
        || decide (16 * s.up + 16 ≤ (portOf s n).tx.start)) = false := by
      rw [hon, hst, hheld, decide_eq_false (by omega : ¬ 16 * s.up + 16 ≤ (portOf s n).tx.start)]
      rfl
    have hbegins : modTx n (fun t => frameBegins (portState s n) (if t.start < 16 * s.up then { t with start := 16 * s.up, b := 0 } else t)) s
        = searchBegins n s := by rw [hst, searchBegins]
    rw [portCycle, hskip]
    refine (if_neg (by decide)).trans ?_
    rw [hbegins]
    exact congrArg (fun r : List (Nat × Nat) × State =>
      modTx n (fun t => periodEnds (isSet r.2 (jdxPage n) JDX.STATUS_FBM) (putBlks r.1 t)) r.2) hblks
  rw [hcycle, modTx, portOf_modPort_same, hport]
  obtain ⟨h1, h2, h3⟩ := periodEnds_unframed (fb := isSet (searchBegins n s) (jdxPage n) JDX.STATUS_FBM)
    (t := putBlks [(2, trainPay s n 0), (2, trainPay s n 1)] (frameBegins 1 (portOf s n).tx)) hnf (hnfill.trans hfill)
  refine ⟨?_, h1.trans ?_, h2.trans ?_⟩
  · exact congrArg (List.map (fun b => (b.hdr, b.pay))) h3
  · exact congrArg (· + 33) hstart
  · exact congrArg (fun c => (c + 1) % 65536) hctr

/-- Settles O31. -/
theorem portTraining : Obligations.PortTraining := by
  intro s who n hn
  refine ⟨fun h hen => trainEnters hn h hen, fun h hen => trainDisabled hn h hen,
    fun h1 h6 hheld lane line hlane => laneLocks hn h1 h6 hheld hlane line,
    fun hst hheld lane blk inv cap ok fb st ctr ppm _ => ?_,
    fun hst hheld hmode hmain hlock lane blk inv cap fb st ctr _ => trainBlock_agree hst hheld hmode hmain hlock lane blk inv cap fb st ctr,
    fun hst hheld hmode hlock => modeTimeouts hn hst hheld hmode hlock,
    fun hheld hst => measureTimeouts hn hheld hst,
    fun hheld h1 h4 hon => searchTimeouts hn hheld h1 h4 hon,
    fun hst hheld hauto hen => backoffs hn hst hheld hauto hen,
    fun h hst => activated hn h hst, fun h hst => activate_elsewhere hn h hst,
    fun hst hheld lanes cause hc => lossOfLock_active hn hst hheld lanes cause hc,
    fun lanes bad h => lossOfLock_few n lanes h,
    fun h2 h4 hheld hauto lanes cause hc => lossOfLock_training hn h2 h4 hheld hauto lanes cause hc,
    fun hst hheld hon hframed hfill hlo hhi => portCycle_search hst hheld hon hframed hfill hlo hhi⟩
  exact trainBlock_search hst hheld lane blk inv cap ok fb st ctr ppm

end Sys2Proof.Machine
end

section
/-!
PROOFS. What a port does with the markers, blocks and fragments it receives (R265, R271, R310, R311, R317 to R319, R322, R323, R328, R330,
R332, R334, R338, R353).
-/
namespace Sys2Proof.Machine

variable {s t : State} {n lane seq : Nat}

/-! ### What the conditions of R353 leave -/

theorem slotWatch_kept : (slotWatch s).ports = s.ports ∧ regsSame [CST.TSRC_DLY_D.addr 0x38 0] s (slotWatch s) := by
  unfold slotWatch
  dsimp only
  split
  · have hput : regsSame [CST.TSRC_DLY_D.addr 0x38 0] s (putF 0x38 CST.TSRC_DLY_D (ofSigned 16 (timeDelay s)) 0 s) :=
      regsSame_putF (.head _) (regsSame_refl _ _)
    split
    · exact ⟨rfl, hput⟩
    · exact ⟨rfl, hput⟩
  · exact ⟨rfl, fun _ _ => rfl⟩

/-- A register of a port stands apart from TSRC_DLY. -/
theorem slotWatch_link (hn : n < 8) {f : Fld} {i : Nat} (hf : f.off + f.stride * i < 0x1000) :
    rdWord (slotWatch s) (f.addr (jdxPage n) i) = rdWord s (f.addr (jdxPage n) i) := by
  refine slotWatch_kept.2 _ fun hm => ?_
  have hlink : linkReg (f.addr (jdxPage n) i) := linkReg_addr hn hf
  rw [List.mem_singleton] at hm
  rw [hm] at hlink
  exact absurd hlink.2 (by decide)

/-! ### FRAME markers (R328, R332, R338) -/

/-- What a port keeps of a marker. -/
def markerKept (lane seq port credit arr up : Nat) (tv : Bool) (x : Port) : Port :=
  if lane = 0 then { x with seq0 := some seq, markUp := up, arr := arr, peerValid := tv, peerPort := port, credit := credit }
  else { x with seq1 := some seq }

theorem keepMarker_eq (port credit arr : Nat) (tv : Bool) :
    keepMarker n lane seq port credit arr tv s = modPort n (markerKept lane seq port credit arr s.up tv) s := by
  unfold keepMarker markerKept
  split
  · rfl
  · rfl

theorem seqCheck_inStep {q : Nat} (h : seqNext q = seq) : seqCheck n seq (some q) s = s := if_pos h

theorem seqCheck_off {q : Nat} (h : seqNext q ≠ seq) : seqCheck n seq (some q) s = errRec (jdxPage n) 0x23 2 0 (seqNext q + 2 ^ 16 * seq) 0
    (irqBit (jdxPage n) 4 (incSat (jdxPage n) JDX.UNK_CNT_SEQ_ERR 0 s)) := if_neg h

theorem seqCheck_kept (prev : Option Nat) : (seqCheck n seq prev s).ports = s.ports ∧ (seqCheck n seq prev s).up = s.up
    ∧ rdWord (seqCheck n seq prev s) (HDR.STATUS.addr (jdxPage n) 0) = rdWord s (HDR.STATUS.addr (jdxPage n) 0)
    ∧ ∀ k, irqStat s (jdxPage n) k = true → irqStat (seqCheck n seq prev s) (jdxPage n) k = true := by
  cases prev with
  | none => exact ⟨rfl, rfl, rfl, fun _ h => h⟩
  | some q =>
    by_cases h : seqNext q = seq
    · rw [seqCheck_inStep h]
      exact ⟨rfl, rfl, rfl, fun _ h => h⟩
    · rw [seqCheck_off h]
      refine ⟨by rw [errRec_ports, irqBit_ports]; rfl, by rw [errRec_up, irqBit_up]; rfl, ?_, fun k hk => ?_⟩
      · rw [rdWord_errRec _ _ _ _ _ _ _ _ (addr_ne (by decide)) (addr_ne (by decide)) jdx_ne_dump, irqBit,
          rdWord_irqSet _ _ _ _ (addr_ne (by decide)), incSat, putF, rdWord_wrWord_other (addr_ne (by decide))]
      · exact irqStat_errRec_of (irqStat_irqBit_of ((irqStat_putF (addr_ne (by decide))).trans hk))

theorem seqCheck_counts {q : Nat} (h : seqNext q ≠ seq) : irqStat (seqCheck n seq (some q) s) (jdxPage n) 4 = true
    ∧ getF (seqCheck n seq (some q) s) (jdxPage n) JDX.UNK_CNT_SEQ_ERR
      = min (getF s (jdxPage n) JDX.UNK_CNT_SEQ_ERR + 1) (2 ^ JDX.UNK_CNT_SEQ_ERR.w - 1) := by
  rw [seqCheck_off h]
  refine ⟨irqStat_errRec_of (irqStat_irqBit_same (by decide)), ?_⟩
  rw [getF_errRec _ _ _ _ _ _ _ _ _ _ (addr_ne (by decide)) (addr_ne (by decide)) jdx_ne_dump,
    getF_irqBit _ _ _ _ _ _ (addr_ne (by decide)), getF_incSat (by decide)]

/-- A marker of a port with framed traffic, from the state in which its SEQ is looked at. -/
def markerTaken (n lane seq port credit arr : Nat) (tv : Bool) (s : State) : State :=
  slotWatch (keepMarker n lane seq port credit arr tv
    (seqCheck n seq (if lane = 0 then (portOf s n).seq0 else (portOf s n).seq1) s))

theorem exec_frameMarker_active (h5 : portState s n = 5) (hheld : portHeld s n = false) (hidle : isSet s (jdxPage n) JDX.STATUS_PEER_IDLE = false)
    (lane : Nat) (fb tv : Bool) (seq port credit arr : Nat) (skew : Int) (hdrs : Bool) :
    exec (.frameMarkerRx n lane fb { tvalid := tv, port := port } seq credit arr skew hdrs) s
      = .next (markerTaken n lane seq port credit arr tv s) := by
  have hexec : exec (.frameMarkerRx n lane fb { tvalid := tv, port := port } seq credit arr skew hdrs) s
    = execFrameMarkerRx n lane fb { tvalid := tv, port := port } seq credit arr skew hdrs s := rfl
  rw [hexec, execFrameMarkerRx, hheld]
  simp only [h5, hidle, Bool.false_eq_true, if_false, if_true, true_or, Nat.reduceEqDiff]
  rfl

theorem exec_frameMarker_idle (h5 : portState s n = 5) (hheld : portHeld s n = false) (hidle : isSet s (jdxPage n) JDX.STATUS_PEER_IDLE = true)
    (lane : Nat) (fb tv : Bool) (seq port credit arr : Nat) (skew : Int) (hdrs : Bool) (hne : portState (markerRestore n seq hdrs s) n ≠ 1) :
    exec (.frameMarkerRx n lane fb { tvalid := tv, port := port } seq credit arr skew hdrs) s
      = .next (markerTaken n lane seq port credit arr tv (markerRestore n seq hdrs s)) := by
  have hexec : exec (.frameMarkerRx n lane fb { tvalid := tv, port := port } seq credit arr skew hdrs) s
    = execFrameMarkerRx n lane fb { tvalid := tv, port := port } seq credit arr skew hdrs s := rfl
  rw [hexec, execFrameMarkerRx, hheld]
  simp only [h5, hidle, hne, Bool.false_eq_true, if_false, if_true, true_or, Nat.reduceEqDiff]
  rfl

theorem exec_frameMarker_deskew (h3 : portState s n = 3) (hheld : portHeld s n = false)
    (lane : Nat) (fb tv : Bool) (seq port credit arr : Nat) (skew : Int) (hdrs : Bool) (hskew : 264 < skew.natAbs) :
    exec (.frameMarkerRx n lane fb { tvalid := tv, port := port } seq credit arr skew hdrs) s
      = .next (trainFail n 3 (keepMarker n lane seq port credit arr tv s)) := by
  have hexec : exec (.frameMarkerRx n lane fb { tvalid := tv, port := port } seq credit arr skew hdrs) s
    = execFrameMarkerRx n lane fb { tvalid := tv, port := port } seq credit arr skew hdrs s := rfl
  rw [hexec, execFrameMarkerRx, hheld]
  simp only [h3, Bool.false_eq_true, if_false, if_true, Nat.reduceEqDiff]
  exact congrArg Host.Outcome.next (if_pos hskew)

theorem portOf_markerTaken (port credit arr : Nat) (tv : Bool) :
    portOf (markerTaken n lane seq port credit arr tv s) n = markerKept lane seq port credit arr s.up tv (portOf s n) := by
  obtain ⟨hports, hup, -⟩ := seqCheck_kept (s := s) (n := n) (seq := seq) (if lane = 0 then (portOf s n).seq0 else (portOf s n).seq1)
  rw [markerTaken, portOf, slotWatch_kept.1, ← portOf, keepMarker_eq, portOf_modPort_same, hup, portOf, hports, portOf]

/-- A register of a port, as the check of SEQ leaves it. -/
theorem word_markerTaken (hn : n < 8) (port credit arr : Nat) (tv : Bool) {f : Fld} {i : Nat} (hf : f.off + f.stride * i < 0x1000) :
    rdWord (markerTaken n lane seq port credit arr tv s) (f.addr (jdxPage n) i)
      = rdWord (seqCheck n seq (if lane = 0 then (portOf s n).seq0 else (portOf s n).seq1) s) (f.addr (jdxPage n) i) := by
  rw [markerTaken, slotWatch_link hn hf, keepMarker_eq]
  rfl

/-- What a marker leaves of the state of its port and of the interrupts raised, whatever its lane. -/
theorem markerTaken_kept (hn : n < 8) (port credit arr : Nat) (tv : Bool) :
    rdWord (markerTaken n lane seq port credit arr tv s) (HDR.STATUS.addr (jdxPage n) 0) = rdWord s (HDR.STATUS.addr (jdxPage n) 0)
      ∧ ∀ k, irqStat s (jdxPage n) k = true → irqStat (markerTaken n lane seq port credit arr tv s) (jdxPage n) k = true := by
  obtain ⟨-, -, hstat, hirq⟩ := seqCheck_kept (s := s) (n := n) (seq := seq) (if lane = 0 then (portOf s n).seq0 else (portOf s n).seq1)
  refine ⟨(word_markerTaken hn port credit arr tv (by decide)).trans hstat, fun k hk => ?_⟩
  rw [irqStat_eq_of_rdWord (word_markerTaken hn port credit arr tv (by decide))]
  exact hirq k hk

theorem marker_active (hn : n < 8) (h5 : portState s n = 5) (hheld : portHeld s n = false)
    (hidle : isSet s (jdxPage n) JDX.STATUS_PEER_IDLE = false) (fb tv : Bool) (seq port credit arr : Nat) (skew : Int) (hdrs : Bool) :
    ∃ t, exec (.frameMarkerRx n 0 fb { tvalid := tv, port := port } seq credit arr skew hdrs) s = .next t ∧ (portOf t n).seq0 = some seq
      ∧ (portOf t n).markUp = s.up ∧ (portOf t n).arr = arr ∧ (portOf t n).peerValid = tv ∧ (portOf t n).peerPort = port
      ∧ (portOf t n).credit = credit ∧ portState t n = 5
      ∧ (∀ q, (portOf s n).seq0 = some q → seqNext q ≠ seq → irqStat t (jdxPage n) 4 = true
        ∧ getF t (jdxPage n) JDX.UNK_CNT_SEQ_ERR = min (getF s (jdxPage n) JDX.UNK_CNT_SEQ_ERR + 1) (2 ^ JDX.UNK_CNT_SEQ_ERR.w - 1))
      ∧ (∀ q, (portOf s n).seq0 = some q → seqNext q = seq → regsSame [CST.TSRC_DLY_D.addr 0x38 0] s t) := by
  have hport := portOf_markerTaken (s := s) (n := n) (lane := 0) (seq := seq) port credit arr tv
  have hprev : (if 0 = 0 then (portOf s n).seq0 else (portOf s n).seq1) = (portOf s n).seq0 := rfl
  refine ⟨_, exec_frameMarker_active h5 hheld hidle 0 fb tv seq port credit arr skew hdrs, ?_⟩
  rw [hport]
  refine ⟨rfl, rfl, rfl, rfl, rfl, rfl, ?_, fun q hq hne => ?_, fun q hq he => ?_⟩
  · exact (congrArg JDX.STATUS_STATE.of (markerTaken_kept hn port credit arr tv).1).trans h5
  · have hcounts := seqCheck_counts (n := n) (s := s) hne
    rw [irqStat_eq_of_rdWord (word_markerTaken hn port credit arr tv (by decide)), getF, word_markerTaken hn port credit arr tv (by decide), ← getF,
      hprev, hq]
    exact hcounts
  · have hkeep : regsSame [CST.TSRC_DLY_D.addr 0x38 0] s (keepMarker n 0 seq port credit arr tv s) := regsSame_of_regs (by rw [keepMarker_eq]; rfl)
    rw [markerTaken, hprev, hq, seqCheck_inStep he]
    exact regsSame_trans hkeep slotWatch_kept.2

theorem marker_deskew (hn : n < 8) (h3 : portState s n = 3) (hheld : portHeld s n = false) (lane : Nat) (fb tv : Bool)
    (seq port credit arr : Nat) (skew : Int) (hdrs : Bool) (hskew : 264 < skew.natAbs) :
    ∃ t, exec (.frameMarkerRx n lane fb { tvalid := tv, port := port } seq credit arr skew hdrs) s = .next t ∧ portState t n = 7 :=
  ⟨_, exec_frameMarker_deskew h3 hheld lane fb tv seq port credit arr skew hdrs hskew, (trainFail_fails hn).1⟩

/-! ### A peer that was idle (R338) -/

/-- A port whose peer goes on with the SEQ before `seq`. -/
def seqSet (seq : Nat) (x : Port) : Port := { x with seq0 := some ((seq + 65520) % 65536), seq1 := some ((seq + 65520) % 65536) }

theorem markerRestore_counted : markerRestore n (seqCounted s n) true s = topoUrge (restoreSlots (irqBit (jdxPage n) 8
    (putF (jdxPage n) JDX.STATUS_PEER_IDLE 0 0 (modPort n (seqSet (seqCounted s n)) s)))) :=
  if_pos (by rw [Bool.true_and, decide_eq_true rfl])

theorem restored_shows (hn : n < 8) : portState (markerRestore n (seqCounted s n) true s) n = portState s n
    ∧ isSet (markerRestore n (seqCounted s n) true s) (jdxPage n) JDX.STATUS_PEER_IDLE = false
    ∧ irqStat (markerRestore n (seqCounted s n) true s) (jdxPage n) 8 = true := by
  have hlink : LinkKept (irqBit (jdxPage n) 8 (putF (jdxPage n) JDX.STATUS_PEER_IDLE 0 0 (modPort n (seqSet (seqCounted s n)) s)))
      (markerRestore n (seqCounted s n) true s) := by
    rw [markerRestore_counted]
    exact (LinkKept.restoreSlots (.refl _)).same topoUrge_kept.1
  refine ⟨?_, ?_, ?_⟩
  · rw [portState, hlink.getF (linkReg_addr hn (by decide)), ← portState, portState_irqBit, portState, getF_putF_beside (by decide)]
    rfl
  · rw [hlink.isSet (linkReg_addr hn (by decide)), isSet_irqBit_ne (addr_ne (by decide)), isSet_putF (by decide)]
    rfl
  · rw [irqStat_eq_of_rdWord (hlink _ (linkReg_addr hn (by decide)))]
    exact irqStat_irqBit_same (by decide)

theorem marker_restores (hn : n < 8) (h5 : portState s n = 5) (hheld : portHeld s n = false)
    (hidle : isSet s (jdxPage n) JDX.STATUS_PEER_IDLE = true) (lane : Nat) (fb tv : Bool) (port credit arr : Nat) (skew : Int) :
    ∃ t, exec (.frameMarkerRx n lane fb { tvalid := tv, port := port } (seqCounted s n) credit arr skew true) s = .next t ∧ portState t n = 5
      ∧ isSet t (jdxPage n) JDX.STATUS_PEER_IDLE = false ∧ irqStat t (jdxPage n) 8 = true := by
  obtain ⟨hst, hpeer, hirq⟩ := restored_shows (s := s) hn
  have hne : portState (markerRestore n (seqCounted s n) true s) n ≠ 1 := by omega
  obtain ⟨hstat, hirqs⟩ := markerTaken_kept (s := markerRestore n (seqCounted s n) true s) (lane := lane) (seq := seqCounted s n) hn port
    credit arr tv
  refine ⟨_, exec_frameMarker_idle h5 hheld hidle lane fb tv _ port credit arr skew true hne, ?_, ?_, hirqs 8 hirq⟩
  · exact (congrArg JDX.STATUS_STATE.of hstat).trans (hst.trans h5)
  · rw [isSet, getF_of_word (f := JDX.STATUS_PEER_IDLE) hstat, ← isSet]
    exact hpeer

/-! ### Decision blocks (R310, R317 to R319, R330) -/

/-- A discarded block counted, before its record. -/
def dropCounted (n : Nat) (s : State) : State := irqBit (jdxPage n) 3 (incSat (jdxPage n) JDX.DEC_CRC_CNT 0 s)

/-- What a discarded block leaves of a state in which it is counted. -/
structure DropShown (n : Nat) (s t : State) : Prop where
  ports : t.ports = s.ports
  irq : irqStat t (jdxPage n) 3 = true
  count : getF t (jdxPage n) JDX.DEC_CRC_CNT = min (getF s (jdxPage n) JDX.DEC_CRC_CNT + 1) (2 ^ JDX.DEC_CRC_CNT.w - 1)
  word : ∀ (f : Fld) (i : Nat), f.off + f.stride * i ≠ 0x14 → f.off + f.stride * i ≠ 0x30 → f.off + f.stride * i ≠ 0x60 →
    rdWord t (f.addr (jdxPage n) i) = rdWord s (f.addr (jdxPage n) i)

theorem dropCounted_shown : DropShown n s (dropCounted n s) := by
  refine ⟨by rw [dropCounted, irqBit_ports]; rfl, irqStat_irqBit_same (by decide), ?_, fun f i h14 _ h60 => ?_⟩
  · rw [dropCounted, getF_irqBit _ _ _ _ _ _ (addr_ne (by decide)), getF_incSat (by decide)]
  · rw [dropCounted, irqBit, rdWord_irqSet _ _ _ _ (addr_ne h14), incSat, putF, rdWord_wrWord_other (addr_ne h60)]

theorem DropShown.record {code sev unit info addr : Nat} (h : DropShown n s t) (x : ShotOnce) :
    DropShown n s (errRec (jdxPage n) code sev unit info addr { t with once := x }) := by
  refine ⟨by rw [errRec_ports]; exact h.ports, irqStat_errRec_of h.irq, ?_, fun f i h14 h30 h60 => ?_⟩
  · rw [getF_errRec _ _ _ _ _ _ _ _ _ _ (addr_ne (by decide)) (addr_ne (by decide)) jdx_ne_dump]
    exact h.count
  · rw [rdWord_errRec _ _ _ _ _ _ _ _ (addr_ne h30) (addr_ne h14) jdx_ne_dump]
    exact h.word f i h14 h30 h60

theorem dropBlock_shown : DropShown n s (dropBlock n s) := by
  have hcounted := dropCounted_shown (n := n) (s := s)
  unfold dropBlock
  dsimp only
  rw [← dropCounted]
  split
  · exact hcounted
  · exact hcounted.record _

theorem exec_decisionBlock (h5 : portState s n = 5) (hheld : portHeld s n = false) (hidle : isSet s (jdxPage n) JDX.STATUS_PEER_IDLE = false)
    (hlane : lane < 2) {hdr : Nat} (hhdr : hdr ≠ 2) (hist line : Nat) :
    exec (.decisionBlockRx n lane hdr { hist := hist, line := line }) s = .next (
      if hdr ≠ 1 then dropBlock n (incSat (jdxPage n) JDX.HDR_ERR lane s)
      else if crc7 (descramble hist line) ≠ blockCrc (descramble hist line) then dropBlock n s
      else forAll [0, 1, 2] (fun k s => takeEntry n (now s) (blockEntry (descramble hist line) k) s) s) := by
  have hexec : exec (.decisionBlockRx n lane hdr { hist := hist, line := line }) s
    = execDecisionBlockRx n lane hdr { hist := hist, line := line } s := rfl
  have hopen : ¬ (portState s n < 3 ∨ 6 < portState s n ∨ isSet s (jdxPage n) JDX.STATUS_PEER_IDLE = true ∨ 2 ≤ lane
      ∨ portHeld s n = true ∨ hdr = 2) := by
    rintro (h | h | h | h | h | h)
    · omega
    · omega
    · exact absurd (hidle.symm.trans h) (by decide)
    · omega
    · exact absurd (hheld.symm.trans h) (by decide)
    · exact hhdr h
  have h5' : ¬ portState s n < 5 := by omega
  rw [hexec, execDecisionBlockRx]
  refine (if_neg hopen).trans ?_
  by_cases h1 : hdr ≠ 1
  · rw [if_pos h1, if_pos h1]
  · rw [if_neg h1, if_neg h1]
    by_cases hcrc : crc7 (descramble hist line) ≠ blockCrc (descramble hist line)
    · rw [if_pos hcrc]
      exact congrArg Host.Outcome.next (if_pos hcrc).symm
    · rw [if_neg hcrc]
      exact (if_neg h5').trans (congrArg Host.Outcome.next (if_neg hcrc).symm)

theorem block_badHeader (h5 : portState s n = 5) (hheld : portHeld s n = false)
    (hidle : isSet s (jdxPage n) JDX.STATUS_PEER_IDLE = false) (hlane : lane < 2) {hdr : Nat} (h1 : hdr ≠ 1) (h2 : hdr ≠ 2) (hist line : Nat) :
    ∃ t, exec (.decisionBlockRx n lane hdr { hist := hist, line := line }) s = .next t ∧ (portOf t n).rx = (portOf s n).rx
      ∧ irqStat t (jdxPage n) 3 = true
      ∧ getF t (jdxPage n) JDX.HDR_ERR lane = min (getF s (jdxPage n) JDX.HDR_ERR lane + 1) (2 ^ JDX.HDR_ERR.w - 1)
      ∧ getF t (jdxPage n) JDX.DEC_CRC_CNT = min (getF s (jdxPage n) JDX.DEC_CRC_CNT + 1) (2 ^ JDX.DEC_CRC_CNT.w - 1) := by
  obtain ⟨hports, hirq, hcnt, hword⟩ := dropBlock_shown (n := n) (s := incSat (jdxPage n) JDX.HDR_ERR lane s)
  have hoff : JDX.HDR_ERR.off + JDX.HDR_ERR.stride * lane = 0x58 + 4 * lane := rfl
  have hcrc : getF (incSat (jdxPage n) JDX.HDR_ERR lane s) (jdxPage n) JDX.DEC_CRC_CNT = getF s (jdxPage n) JDX.DEC_CRC_CNT :=
    getF_incSat_reg _ _ _ _ _ _ _ (addr_ne (by rw [hoff]; change 0x60 ≠ _; omega))
  refine ⟨_, (exec_decisionBlock h5 hheld hidle hlane h2 hist line).trans (by rw [if_pos h1]), ?_, hirq, ?_, ?_⟩
  · rw [portOf, hports]
    rfl
  · rw [getF, hword _ _ (by omega) (by omega) (by omega), ← getF, getF_incSat (by decide)]
  · rw [hcnt, hcrc]

theorem block_badCrc (h5 : portState s n = 5) (hheld : portHeld s n = false) (hidle : isSet s (jdxPage n) JDX.STATUS_PEER_IDLE = false)
    (hlane : lane < 2) {hist line : Nat} (hcrc : crc7 (descramble hist line) ≠ blockCrc (descramble hist line)) :
    ∃ t, exec (.decisionBlockRx n lane 1 { hist := hist, line := line }) s = .next t
      ∧ (portOf t n).rx = (portOf s n).rx ∧ irqStat t (jdxPage n) 3 = true
      ∧ getF t (jdxPage n) JDX.DEC_CRC_CNT = min (getF s (jdxPage n) JDX.DEC_CRC_CNT + 1) (2 ^ JDX.DEC_CRC_CNT.w - 1) := by
  obtain ⟨hports, hirq, hcnt, -⟩ := dropBlock_shown (n := n) (s := s)
  refine ⟨dropBlock n s, (exec_decisionBlock h5 hheld hidle hlane (by decide) hist line).trans ?_, ?_, hirq, hcnt⟩
  · rw [if_neg (by decide), if_pos hcrc]
  · rw [portOf, hports, portOf]

/-- What the entries of a good block leave: the slots of the words received, and the state of the port. -/
def EntriesTaken (n : Nat) (l : List Nat) (s t : State) : Prop :=
  (portOf t n).rx.map RxWord.slot = (portOf s n).rx.map RxWord.slot ++ (l.filter (fun x => bit x 18 = 1)).map (fun x => mwBits x 5 9)
    ∧ portState t n = portState s n

/-- A word received on a port. -/
def wordAdded (n : Nat) (w : RxWord) (s : State) : State := modPort n (fun q => { q with rx := q.rx ++ [w] }) s

theorem wordAdded_taken {x : Nat} (hx : bit x 18 = 1) {w : RxWord} (hw : w.slot = mwBits x 5 9) : EntriesTaken n [x] s (wordAdded n w s) := by
  have hport : portOf (wordAdded n w s) n = { portOf s n with rx := (portOf s n).rx ++ [w] } := portOf_modPort_same
  have hone : [x].filter (fun x => bit x 18 = 1) = [x] := by simp [hx]
  refine ⟨?_, rfl⟩
  rw [hport, List.map_append, hone, List.map_singleton, List.map_singleton, hw]

/-- The count of late words, its interrupt and its record do not touch what the entries of a block leave. -/
theorem EntriesTaken.late {l : List Nat} (h : EntriesTaken n l s t) : EntriesTaken n l s
    (irqBit (jdxPage n) 5 (incSat (jdxPage n) JDX.RX_CNT_RX_LATE 0 t)) := by
  refine ⟨?_, portState_irqBit.trans ?_⟩
  · rw [portOf, irqBit_ports]
    exact h.1
  · exact (getF_incSat_reg _ _ _ _ _ _ _ (addr_ne (by decide))).trans h.2

theorem EntriesTaken.record {l : List Nat} {code sev unit info addr : Nat} (h : EntriesTaken n l s t) (x : ShotOnce) : EntriesTaken n l s
    (errRec (jdxPage n) code sev unit info addr { t with once := x }) := by
  refine ⟨?_, portState_errRec.trans h.2⟩
  rw [portOf, errRec_ports]
  exact h.1

theorem takeEntry_taken (ta x : Nat) : EntriesTaken n [x] s (takeEntry n ta x s) := by
  obtain hx | hx := bit_zero_or_one x 18
  case inl =>
    have hsame : takeEntry n ta x s = s := if_pos hx
    have hnone : [x].filter (fun x => bit x 18 = 1) = [] := List.filter_cons_of_neg (by simp [hx])
    rw [hsame]
    exact ⟨by rw [hnone]; simp, rfl⟩
  case inr =>
    have hne : ¬ bit x 18 = 0 := by omega
    unfold takeEntry
    rw [if_neg hne]
    dsimp only
    split
    · exact wordAdded_taken hx rfl
    · split
      · exact wordAdded_taken hx rfl
      · split
        · exact (wordAdded_taken hx rfl).late
        · exact (wordAdded_taken hx rfl).late.record _

theorem EntriesTaken.trans {l m : List Nat} {u : State} (h : EntriesTaken n l s t) (h' : EntriesTaken n m t u) : EntriesTaken n (l ++ m) s u := by
  refine ⟨?_, h'.2.trans h.2⟩
  rw [h'.1, h.1, List.filter_append, List.map_append, List.append_assoc]

theorem block_good (h5 : portState s n = 5) (hheld : portHeld s n = false) (hidle : isSet s (jdxPage n) JDX.STATUS_PEER_IDLE = false)
    (hlane : lane < 2) {hist line : Nat} (hcrc : crc7 (descramble hist line) = blockCrc (descramble hist line)) :
    ∃ t, exec (.decisionBlockRx n lane 1 { hist := hist, line := line }) s = .next t
      ∧ (portOf t n).rx.map RxWord.slot = (portOf s n).rx.map RxWord.slot
        ++ ([0, 1, 2].filter (fun k => bit (blockEntry (descramble hist line) k) 18 = 1)).map
          (fun k => mwBits (blockEntry (descramble hist line) k) 5 9)
      ∧ portState t n = 5 := by
  have hall (pay : Nat) : EntriesTaken n ([0, 1, 2].map (blockEntry pay)) s
      (forAll [0, 1, 2] (fun k s => takeEntry n (now s) (blockEntry pay k) s) s) :=
    ((takeEntry_taken _ (blockEntry pay 0)).trans (takeEntry_taken _ (blockEntry pay 1))).trans (takeEntry_taken _ (blockEntry pay 2))
  obtain ⟨hrx, hst⟩ := hall (descramble hist line)
  refine ⟨_, (exec_decisionBlock h5 hheld hidle hlane (by decide) hist line).trans ?_, ?_, hst.trans h5⟩
  · rw [if_neg (by decide), if_neg (not_not.2 hcrc)]
  · rw [hrx, List.filter_map, List.map_map]
    rfl

/-! ### Words that leave the port (R265, R271, R278) -/

theorem release_waits {w : RxWord} (hw : (portOf s n).rx.find? (fun w => decide (w.rel ≤ now s)) = some w) (hdev : devDue s w.rel = true) :
    exec (.decisionRelease n) s = .next s := by
  have hexec : exec (.decisionRelease n) s = execDecisionRelease n s := rfl
  rw [hexec, execDecisionRelease, hw]
  exact if_pos hdev

theorem exec_release {w : RxWord} (hw : (portOf s n).rx.find? (fun w => decide (w.rel ≤ now s)) = some w) (hdev : devDue s w.rel = false) :
    exec (.decisionRelease n) s = .next (ingress n w (modPort n (fun x => { x with rx := x.rx.erase w }) s)) := by
  have hexec : exec (.decisionRelease n) s = execDecisionRelease n s := rfl
  rw [hexec, execDecisionRelease, hw]
  exact if_neg (by rw [hdev]; decide)

theorem ingress_ports (w : RxWord) : (ingress n w s).ports = s.ports := by
  unfold ingress
  dsimp only
  have hcnt : (if w.dec.ndet then incSat pTul TUL.NDET_CNT 0 s else s).ports = s.ports := by
    split
    · rfl
    · rfl
  generalize (if w.dec.ndet then incSat pTul TUL.NDET_CNT 0 s else s) = u at hcnt ⊢
  have hirq : (if w.dec.ndet && !u.once.ndet then irqBit pTul 2 { u with once := { u.once with ndet := true } } else u).ports = s.ports := by
    split
    · rw [irqBit_ports]
      exact hcnt
    · exact hcnt
  generalize (if w.dec.ndet && !u.once.ndet then irqBit pTul 2 { u with once := { u.once with ndet := true } } else u) = v at hirq ⊢
  split
  · rfl
  · split
    · rw [errRec_ports, irqBit_ports]
      exact hirq
    · split
      · exact hirq
      · exact hirq

theorem ingress_off (w : RxWord) (h : tulOn s = false) : ingress n w s = s := if_pos (by rw [h]; rfl)

/-- A word of a slot that imports from the port is published. -/
theorem ingress_imports {w : RxWord} (h : tulOn s = true) (hkind : slotKind s w.slot = 3) (himp : getF s pTul TUL.SLOT_RT_IMP_PORT w.slot = n)
    (hnd : w.dec.ndet = false) : ingress n w s
      = { s with pubs := s.pubs ++ [{ slot := w.slot, due := w.rel + (if w.fb then 7 else 9), src := 3, port := n, dec := w.dec }] } := by
  unfold ingress
  rw [h, hnd]
  dsimp only
  simp only [Bool.not_true, Bool.false_eq_true, if_false, Bool.false_and, hkind, himp, decide_true, Bool.and_true]

theorem word_released {w : RxWord} (hw : (portOf s n).rx.find? (fun w => decide (w.rel ≤ now s)) = some w) (hdev : devDue s w.rel = false) :
    ∃ t, exec (.decisionRelease n) s = .next t
      ∧ (portOf t n).rx = (portOf s n).rx.erase w
      ∧ (tulOn s = true → slotKind s w.slot = 3 → getF s pTul TUL.SLOT_RT_IMP_PORT w.slot = n → w.dec.ndet = false →
        t.pubs = s.pubs ++ [{ slot := w.slot, due := w.rel + (if w.fb then 7 else 9), src := 3, port := n, dec := w.dec }]
        ∧ regsSame [] s t)
      ∧ (tulOn s = false → t.pubs = s.pubs) := by
  have hport : portOf (modPort n (fun x => { x with rx := x.rx.erase w }) s) n = { portOf s n with rx := (portOf s n).rx.erase w } :=
    portOf_modPort_same
  refine ⟨_, exec_release hw hdev, ?_, fun hon hkind himp hnd => ?_, fun hoff => ?_⟩
  · rw [portOf, ingress_ports, ← portOf, hport]
  · rw [ingress_imports (s := modPort n (fun x => { x with rx := x.rx.erase w }) s) hon hkind himp hnd]
    exact ⟨rfl, fun _ _ => rfl⟩
  · rw [ingress_off (s := modPort n (fun x => { x with rx := x.rx.erase w }) s) w hoff]
    rfl

/-! ### Control blocks of unknown type and FILLER (R311, R334) -/

theorem unknownBlock (hn : n < 8) (hheld : portHeld s n = false) (hlane : lane < 2)
    (hlock : isSet s (jdxPage n) (if lane = 0 then JDX.STATUS_LOCK0 else JDX.STATUS_LOCK1) = true) :
    ∃ t, exec (.unknownBlockRx { port := n, lane := lane, hdr := 2 }) s = .next t
      ∧ getF t (jdxPage n) JDX.UNK_CNT_UNK_TYPE = min (getF s (jdxPage n) JDX.UNK_CNT_UNK_TYPE + 1) (2 ^ JDX.UNK_CNT_UNK_TYPE.w - 1)
      ∧ regsSame [JDX.UNK_CNT_UNK_TYPE.addr (jdxPage n) 0] s t ∧ typedSame s t := by
  have hexec : exec (.unknownBlockRx { port := n, lane := lane, hdr := 2 }) s = .next (incSat (jdxPage n) JDX.UNK_CNT_UNK_TYPE 0 s) := by
    have hexec : exec (.unknownBlockRx { port := n, lane := lane, hdr := 2 }) s = execUnknownBlockRx { port := n, lane := lane, hdr := 2 } s := rfl
    have hopen : ¬ (8 ≤ n ∨ 2 ≤ lane ∨ portHeld s n = true
        ∨ isSet s (jdxPage n) (if lane = 0 then JDX.STATUS_LOCK0 else JDX.STATUS_LOCK1) = false) := by
      rw [hheld, hlock]
      simp only [Bool.false_eq_true, Bool.true_eq_false, or_false]
      omega
    rw [hexec, execUnknownBlockRx]
    exact (if_neg hopen).trans (if_pos rfl)
  exact ⟨_, hexec, getF_incSat (by decide) s, regsSame_incSat (.head _) (regsSame_refl _ _), typedSame_incSat (typedSame_refl s)⟩

/-- The elastic buffer after a FILLER period. -/
def bufferSet (k : Nat) (x : Port) : Port := { x with ebuf := fillerStep k }

theorem exec_filler (hheld : portHeld s n = false) (hfbm : isSet s (jdxPage n) JDX.STATUS_FBM = true) (drift : Int) {k : Nat}
    (hk : k = (clampI 0 8 ((portOf s n).ebuf + drift)).toNat) : exec (.fillerRx n drift) s = .next (
      if 4 < k then incSat (jdxPage n) JDX.FILL_CNT_FILL_DEL 0 (modPort n (bufferSet k) s)
      else if k < 4 then incSat (jdxPage n) JDX.FILL_CNT_FILL_INS 0 (modPort n (bufferSet k) s) else modPort n (bufferSet k) s) := by
  have hexec : exec (.fillerRx n drift) s = execFillerRx n drift s := rfl
  rw [hexec, execFillerRx, hk]
  exact if_pos ⟨hfbm, hheld⟩

theorem filler_shows (hheld : portHeld s n = false) (hfbm : isSet s (jdxPage n) JDX.STATUS_FBM = true) (drift : Int) {k : Nat}
    (hk : k = (clampI 0 8 ((portOf s n).ebuf + drift)).toNat) :
    ∃ t, exec (.fillerRx n drift) s = .next t ∧ (portOf t n).ebuf = (if 4 < k then k - 1 else if k < 4 then k + 1 else k)
      ∧ (4 < k → getF t (jdxPage n) JDX.FILL_CNT_FILL_DEL
        = min (getF s (jdxPage n) JDX.FILL_CNT_FILL_DEL + 1) (2 ^ JDX.FILL_CNT_FILL_DEL.w - 1))
      ∧ (k < 4 → getF t (jdxPage n) JDX.FILL_CNT_FILL_INS
        = min (getF s (jdxPage n) JDX.FILL_CNT_FILL_INS + 1) (2 ^ JDX.FILL_CNT_FILL_INS.w - 1))
      ∧ (k = 4 → regsSame [] s t) ∧ regsSame [JDX.FILL_CNT_FILL_DEL.addr (jdxPage n) 0] s t ∧ typedSame { s with ports := t.ports } t := by
  have hport : portOf (modPort n (bufferSet k) s) n = bufferSet k (portOf s n) := portOf_modPort_same
  have hregs (l : List Nat) : regsSame l s (modPort n (bufferSet k) s) := regsSame_of_regs rfl
  have htyped : PortTyped s (modPort n (bufferSet k) s) := (PortTyped.refl s).modPort _
  refine ⟨_, exec_filler hheld hfbm drift hk, ?_⟩
  by_cases h4 : 4 < k
  · rw [if_pos h4]
    refine ⟨?_, fun _ => getF_incSat (by decide) _, fun h => absurd h (by omega), fun h => absurd h (by omega),
      regsSame_incSat (.head _) (hregs _), htyped.putF⟩
    have hbuf : (bufferSet k (portOf s n)).ebuf = k - 1 := if_pos h4
    exact (congrArg Port.ebuf hport).trans (hbuf.trans (if_pos h4).symm)
  · rw [if_neg h4, if_neg h4]
    have hbuf : (bufferSet k (portOf s n)).ebuf = if k < 4 then k + 1 else k := if_neg h4
    by_cases hlt : k < 4
    · rw [if_pos hlt]
      refine ⟨?_, fun h => absurd h h4, fun _ => getF_incSat (by decide) _, fun h => absurd h (by omega),
        regsSame_incSat (.head _) (hregs _), htyped.putF⟩
      exact (congrArg Port.ebuf hport).trans hbuf
    · rw [if_neg hlt]
      refine ⟨?_, fun h => absurd h h4, fun h => absurd h hlt, fun _ => hregs _, hregs _, htyped⟩
      exact (congrArg Port.ebuf hport).trans hbuf

/-! ### Management messages and TIME blocks (R322, R323, R353) -/

theorem fragment_taken (h5 : portState s n = 5) (hheld : portHeld s n = false) (hidle : isSet s (jdxPage n) JDX.STATUS_PEER_IDLE = false) :
    ¬ (portState s n < 4 ∨ 6 < portState s n ∨ isSet s (jdxPage n) JDX.STATUS_PEER_IDLE = true ∨ portHeld s n = true) := by
  rw [hidle, hheld]
  simp only [Bool.false_eq_true, or_false]
  omega

/-- The open message of a port, and the messages complete. -/
def msgOpened (m : Option (Nat × List Byte)) (x : Port) : Port := { x with openMsg := m }

theorem fragment_first (h5 : portState s n = 5) (hheld : portHeld s n = false) (hidle : isSet s (jdxPage n) JDX.STATUS_PEER_IDLE = false)
    (chan : Nat) (bytes : List Byte) (hnone : (portOf s n).openMsg = none) (hfree : freeBufs s n ≠ 0) (hlen : bytes.length ≤ 1024) :
    ∃ t, exec (.mgmtFragmentRx n true false chan bytes) s = .next t
      ∧ (portOf t n).openMsg = some (chan, bytes) ∧ (portOf t n).msgs = (portOf s n).msgs ∧ regsSame [] s t := by
  have hexec : exec (.mgmtFragmentRx n true false chan bytes) s = execMgmtFragmentRx n true false chan bytes s := rfl
  have hadd : messageAdd n chan false bytes s = modPort n (msgOpened (some (chan, bytes))) s := by
    rw [messageAdd, if_neg (by omega)]
    rfl
  have hport : portOf (modPort n (msgOpened (some (chan, bytes))) s) n = msgOpened (some (chan, bytes)) (portOf s n) := portOf_modPort_same
  refine ⟨modPort n (msgOpened (some (chan, bytes))) s, ?_, ?_, ?_, regsSame_of_regs rfl⟩
  · rw [hexec, execMgmtFragmentRx, hnone]
    refine (if_neg (fragment_taken h5 hheld hidle)).trans ((if_pos rfl).trans (congrArg Host.Outcome.next ?_))
    exact (if_neg hfree).trans hadd
  · rw [hport]
    rfl
  · rw [hport]
    rfl

/-- The last fragment of a message that Hoop firmware knows. -/
theorem messageAdd_ends {chan : Nat} {bs : List Byte} (hlen : bs.length ≤ 1024) (hcrc : msgCrcOk bs = true) (hknown : knownMsg chan bs = true) :
    messageAdd n chan true bs s = modPort n (fun x => { x with msgs := x.msgs ++ [(chan, bs)] }) (modPort n (msgOpened none) s) := by
  rw [messageAdd, if_neg (by omega), if_pos rfl, messageEnd, hcrc, hknown]
  rfl

/-- A message handed on to Hoop firmware. -/
def msgAdded (m : Nat × List Byte) (x : Port) : Port := { x with msgs := x.msgs ++ [m] }

theorem fragment_last (h5 : portState s n = 5) (hheld : portHeld s n = false) (hidle : isSet s (jdxPage n) JDX.STATUS_PEER_IDLE = false)
    {chan : Nat} {bytes : List Byte} {m : Nat × List Byte} (hm : (portOf s n).openMsg = some m) (hchan : m.1 = chan)
    (hlen : (m.2 ++ bytes).length ≤ 1024) (hcrc : msgCrcOk (m.2 ++ bytes) = true) (hknown : knownMsg chan (m.2 ++ bytes) = true) :
    ∃ t, exec (.mgmtFragmentRx n false true chan bytes) s = .next t
      ∧ (portOf t n).openMsg = none ∧ (portOf t n).msgs = (portOf s n).msgs ++ [(chan, m.2 ++ bytes)] ∧ regsSame [] s t := by
  have hexec : exec (.mgmtFragmentRx n false true chan bytes) s = execMgmtFragmentRx n false true chan bytes s := rfl
  have hport : portOf (modPort n (msgAdded (chan, m.2 ++ bytes)) (modPort n (msgOpened none) s)) n
      = msgAdded (chan, m.2 ++ bytes) (msgOpened none (portOf s n)) := by
    rw [portOf_modPort_same, portOf_modPort_same]
  refine ⟨modPort n (msgAdded (chan, m.2 ++ bytes)) (modPort n (msgOpened none) s), ?_, ?_, ?_, regsSame_of_regs rfl⟩
  · rw [hexec, execMgmtFragmentRx, hm]
    refine (if_neg (fragment_taken h5 hheld hidle)).trans ((if_neg (by decide)).trans (congrArg Host.Outcome.next ?_))
    exact (if_pos hchan).trans (messageAdd_ends hlen hcrc hknown)
  · rw [hport]
    rfl
  · rw [hport]
    rfl

theorem mgmtDrop_shows (chan cause : Nat) : (mgmtDrop n chan cause s).ports = s.ports
    ∧ getF (mgmtDrop n chan cause s) (jdxPage n) JDX.MGMT_DROP = min (getF s (jdxPage n) JDX.MGMT_DROP + 1) (2 ^ JDX.MGMT_DROP.w - 1) := by
  refine ⟨by rw [mgmtDrop, errRec_ports]; rfl, ?_⟩
  rw [mgmtDrop, getF_errRec _ _ _ _ _ _ _ _ _ _ (addr_ne (by decide)) (addr_ne (by decide)) jdx_ne_dump, getF_incSat (by decide)]

theorem fragment_alone (h5 : portState s n = 5) (hheld : portHeld s n = false) (hidle : isSet s (jdxPage n) JDX.STATUS_PEER_IDLE = false)
    (chan : Nat) (bytes : List Byte) (hnone : (portOf s n).openMsg = none) (eom : Bool) :
    ∃ t, exec (.mgmtFragmentRx n false eom chan bytes) s = .next t
      ∧ (portOf t n).msgs = (portOf s n).msgs
      ∧ getF t (jdxPage n) JDX.MGMT_DROP = min (getF s (jdxPage n) JDX.MGMT_DROP + 1) (2 ^ JDX.MGMT_DROP.w - 1) := by
  obtain ⟨hports, hcnt⟩ := mgmtDrop_shows (s := s) (n := n) chan 4
  have hexec : exec (.mgmtFragmentRx n false eom chan bytes) s = execMgmtFragmentRx n false eom chan bytes s := rfl
  refine ⟨mgmtDrop n chan 4 s, ?_, ?_, hcnt⟩
  · rw [hexec, execMgmtFragmentRx, hnone]
    exact (if_neg (fragment_taken h5 hheld hidle)).trans (if_neg (by decide))
  · rw [portOf, hports, portOf]

/-- A TIME block counted with its value. -/
def timeCounted (val : Nat) (x : Port) : Port := { x with timeN := x.timeN + 1, timeF := val, timeA := x.arr }

theorem timeBlock (h5 : portState s n = 5) (hheld : portHeld s n = false) (hfbm : isSet s (jdxPage n) JDX.STATUS_FBM = false)
    (hidle : isSet s (jdxPage n) JDX.STATUS_PEER_IDLE = false) (val : Nat) :
    ∃ t, exec (.timeBlockRx n val) s = .next t ∧ (portOf t n).timeN = (portOf s n).timeN + 1 ∧ (portOf t n).timeF = val
      ∧ (portOf t n).timeA = (portOf s n).arr := by
  have hexec : exec (.timeBlockRx n val) s = execTimeBlockRx n val s := rfl
  have hport : portOf (slotWatch (modPort n (timeCounted val) s)) n = timeCounted val (portOf s n) := by
    rw [portOf, slotWatch_kept.1, ← portOf, portOf_modPort_same]
  refine ⟨slotWatch (modPort n (timeCounted val) s), ?_, ?_⟩
  · rw [hexec, execTimeBlockRx]
    exact if_pos ⟨h5, hfbm, hidle, hheld⟩
  · rw [hport]
    exact ⟨rfl, rfl, rfl⟩

/-! ### The descrambler (R310) -/

/-- The bits that a lane has sent and sends, the earliest in bit 0: the 58 bits of the scrambler, then the wire. -/
theorem testBit_sent {h : Nat} (hh : h < 2 ^ 58) (w i : Nat) : (h + 2 ^ 58 * w).testBit i = if i < 58 then h.testBit i else w.testBit (i - 58) := by
  rw [Nat.add_comm]
  exact Nat.testBit_two_pow_mul_add w hh i

/-- The first 39 bits that scrambling gives, and those that follow from them. -/
def scrambleLow (h pay : Nat) : Nat := (pay ^^^ (h / 2 ^ 19) ^^^ h) % 2 ^ 39
def scrambleHigh (h pay : Nat) : Nat :=
  (pay / 2 ^ 39 ^^^ (h + 2 ^ 58 * scrambleLow h pay) / 2 ^ 58 ^^^ (h + 2 ^ 58 * scrambleLow h pay) / 2 ^ 39) % 2 ^ 25

theorem testBit_scramble (h pay i : Nat) : (scramble h pay).testBit i
    = if i < 39 then (scrambleLow h pay).testBit i else (scrambleHigh h pay).testBit (i - 39) := by
  have heq : scramble h pay = 2 ^ 39 * scrambleHigh h pay + scrambleLow h pay := Nat.add_comm _ _
  rw [heq]
  exact Nat.testBit_two_pow_mul_add _ (Nat.mod_lt _ (by decide)) i

theorem testBit_scrambleLow {h pay i : Nat} (hi : i < 39) :
    (scrambleLow h pay).testBit i = (pay.testBit i ^^ h.testBit (19 + i) ^^ h.testBit i) := by
  rw [scrambleLow, Nat.testBit_mod_two_pow, decide_eq_true hi, Bool.true_and, Nat.testBit_xor, Nat.testBit_xor, Nat.testBit_div_two_pow,
    Nat.add_comm i]

theorem testBit_scrambleHigh {h pay j : Nat} (hh : h < 2 ^ 58) (hj : j < 25) : (scrambleHigh h pay).testBit j
    = (pay.testBit (39 + j) ^^ (scrambleLow h pay).testBit j ^^
      (if 39 + j < 58 then h.testBit (39 + j) else (scrambleLow h pay).testBit (39 + j - 58))) := by
  rw [scrambleHigh, Nat.testBit_mod_two_pow, decide_eq_true hj, Bool.true_and, Nat.testBit_xor, Nat.testBit_xor, Nat.testBit_div_two_pow,
    Nat.testBit_div_two_pow, Nat.testBit_div_two_pow, testBit_sent hh, testBit_sent hh, if_neg (by omega), Nat.add_comm j 39,
    Nat.add_sub_cancel]

/-- A bit added twice more is itself. -/
theorem xor_back (a b c : Bool) : ((a ^^ b ^^ c) ^^ b ^^ c) = a := by cases a <;> cases b <;> cases c <;> rfl

theorem descramble_scramble {h pay : Nat} (hh : h < 2 ^ 58) (hpay : pay < 2 ^ 64) : descramble h (scramble h pay) = pay := by
  refine Nat.eq_of_testBit_eq fun i => ?_
  rw [descramble, Nat.testBit_mod_two_pow, Nat.testBit_xor, Nat.testBit_xor, Nat.testBit_div_two_pow, testBit_sent hh, testBit_sent hh]
  by_cases h64 : i < 64
  case neg =>
    have hzero : pay.testBit i = false := Nat.testBit_lt_two_pow (lt_of_lt_of_le hpay (Nat.pow_le_pow_right (by decide) (by omega)))
    rw [decide_eq_false h64, Bool.false_and, hzero]
  case pos =>
    rw [decide_eq_true h64, Bool.true_and]
    by_cases h39 : i < 39
    case pos =>
      rw [testBit_scramble, if_pos h39, testBit_scrambleLow h39, if_pos (by omega), if_pos (by omega), Nat.add_comm i 19]
      exact xor_back _ _ _
    case neg =>
      obtain ⟨j, rfl⟩ : ∃ j, i = 39 + j := ⟨i - 39, by omega⟩
      have hlow : (scramble h pay).testBit (39 + j + 19 - 58) = (scrambleLow h pay).testBit j := by
        rw [testBit_scramble, if_pos (by omega)]
        congr 1
        omega
      have hpast : (if 39 + j < 58 then h.testBit (39 + j) else (scramble h pay).testBit (39 + j - 58))
          = if 39 + j < 58 then h.testBit (39 + j) else (scrambleLow h pay).testBit (39 + j - 58) := by
        split
        · rfl
        · rw [testBit_scramble, if_pos (by omega)]
      rw [testBit_scramble, if_neg h39, Nat.add_sub_cancel_left, testBit_scrambleHigh hh (by omega),
        if_neg (show ¬ 39 + j + 19 < 58 by omega), hlow, hpast]
      exact xor_back _ _ _

/-- Settles O32. -/
theorem portReceive : Obligations.PortReceive := by
  intro s n hn hheld
  refine ⟨fun h5 hidle fb tv seq port credit arr skew hdrs => marker_active hn h5 hheld hidle fb tv seq port credit arr skew hdrs,
    fun h3 lane fb tv seq port credit arr skew hdrs hskew => marker_deskew hn h3 hheld lane fb tv seq port credit arr skew hdrs hskew,
    fun h5 hidle lane fb tv port credit arr skew => marker_restores hn h5 hheld hidle lane fb tv port credit arr skew,
    fun h5 hidle lane hist line hlane => ⟨fun hdr h1 h2 => block_badHeader h5 hheld hidle hlane h1 h2 hist line,
      fun hcrc => block_badCrc h5 hheld hidle hlane hcrc, fun hcrc => block_good h5 hheld hidle hlane hcrc⟩,
    fun w hw hdev => release_waits hw hdev, fun w hw hdev => word_released hw hdev,
    fun lane hlane hlock => unknownBlock hn hheld hlane hlock, fun hfbm drift k hk => filler_shows hheld hfbm drift hk,
    fun h5 hidle chan bytes => ⟨fun hnone hfree hlen => fragment_first h5 hheld hidle chan bytes hnone hfree hlen,
      fun m hm hchan hlen hcrc hknown => fragment_last h5 hheld hidle hm hchan hlen hcrc hknown,
      fun hnone eom => fragment_alone h5 hheld hidle chan bytes hnone eom⟩,
    fun h5 hfbm hidle val => timeBlock h5 hheld hfbm hidle val, fun h pay hh hpay => descramble_scramble hh hpay⟩

end Sys2Proof.Machine
end

section
/-!
PROOFS. Loop stamps and reports, electrical idle, the eye margin and the blocks of a frame (R312 to R318, R321, R337 to R341).
-/
namespace Sys2Proof.Machine

variable {s t u : State} {who : Requester} {n : Nat}

theorem portOf_of_ports (h : t.ports = s.ports) : portOf t n = portOf s n := by rw [portOf, h, portOf]

theorem irqStat_modPort {g : Port → Port} {p i : Nat} : irqStat (modPort n g s) p i = irqStat s p i := rfl

theorem ofSigned_lt {w : Nat} {v : Int} : ofSigned w v < 2 ^ w := by
  have hpos : (0 : Int) < 2 ^ w := by positivity
  have hlt := Int.emod_lt_of_pos v hpos
  have hnn := Int.emod_nonneg v hpos.ne'
  rw [ofSigned]
  exact (Int.toNat_lt hnn).2 (by exact_mod_cast hlt)

/-! ### Loop stamps (R321, R327, R341) -/

/-- LOOP_APP with the apparent delay and the id of a stamp. -/
def appShown (n id : Nat) (app : Int) (s : State) : State :=
  putF (jdxPage n) JDX.LOOP_APP_APP (ofSigned 16 (clampI (-32768) 32767 app)) 0 (putF (jdxPage n) JDX.LOOP_APP_ID id 0 s)

/-- A LOOP block behind those that wait. -/
def blkAdded (b : OutBlk) (x : Port) : Port := { x with tx := { x.tx with loops := x.tx.loops ++ [b] } }

/-- A stamp shown, and its report behind the LOOP blocks that wait. -/
def stampShown (n id : Nat) (app : Int) (s : State) : State := modPort n (blkAdded (.report id (ofSigned 48 app))) (appShown n id app s)

theorem appShown_shows (id : Nat) (app : Int) :
    getF (appShown n id app s) (jdxPage n) JDX.LOOP_APP_APP = ofSigned 16 (clampI (-32768) 32767 app) % 2 ^ JDX.LOOP_APP_APP.w
      ∧ getF (appShown n id app s) (jdxPage n) JDX.LOOP_APP_ID = id % 2 ^ JDX.LOOP_APP_ID.w :=
  ⟨getF_putF _ _ _ _ _ (by decide), (getF_putF_beside (by decide) _ _).trans (getF_putF _ _ _ _ _ (by decide))⟩

theorem word_stampShown (id : Nat) (app : Int) : rdWord (stampShown n id app s) (JDX.LOOP_APP_APP.addr (jdxPage n) 0)
    = rdWord (appShown n id app s) (JDX.LOOP_APP_APP.addr (jdxPage n) 0) := rfl

/-- LOOP_APP and the LOOP blocks that wait stay. -/
structure StampKept (n : Nat) (s t : State) : Prop where
  word : rdWord t (JDX.LOOP_APP_APP.addr (jdxPage n) 0) = rdWord s (JDX.LOOP_APP_APP.addr (jdxPage n) 0)
  loops : (portOf t n).tx.loops = (portOf s n).tx.loops

namespace StampKept

theorem refl (s : State) : StampKept n s s := ⟨rfl, rfl⟩

theorem trans (h : StampKept n s t) (h' : StampKept n t u) : StampKept n s u := ⟨h'.word.trans h.word, h'.loops.trans h.loops⟩

theorem modPort {g : Port → Port} (hg : (g (portOf s n)).tx.loops = (portOf s n).tx.loops) : StampKept n s (modPort n g s) :=
  ⟨rfl, (congrArg (fun x : Port => x.tx.loops) portOf_modPort_same).trans hg⟩

theorem mean (app : Int) : StampKept n s (stampMean n app s) := by
  unfold stampMean
  dsimp only
  have hsum := modPort (s := s) (n := n) (g := fun x => if x.stampN < 16 then { x with stampN := x.stampN + 1, stampSum := x.stampSum + app } else x)
    (by split <;> rfl)
  refine hsum.trans ?_
  split
  · exact ⟨rdWord_wrWord_other (addr_ne (by decide)) _ _, rfl⟩
  · exact refl _

theorem active (app : Int) : StampKept n s (stampActive n app s) := by
  unfold stampActive
  dsimp only
  have hsum := modPort (s := s) (n := n) (g := fun x => if x.inN < 256 then { x with inN := x.inN + 1, inSum := x.inSum + app } else x)
    (by split <;> rfl)
  refine hsum.trans ?_
  split
  · refine ⟨?_, congrArg (fun x : Port => x.tx.loops) (portOf_of_ports (by simp))⟩
    rw [rdWord_errRec _ _ _ _ _ _ _ _ (addr_ne (by decide)) (addr_ne (by decide)) jdx_ne_dump, irqBit,
      rdWord_irqSet _ _ _ _ (addr_ne (by decide))]
    exact rdWord_wrWord_other (addr_ne (by decide)) _ _
  · exact refl _

end StampKept

/-- A stamp in the sums of a port in state `st`: none in fall-back mode. -/
def stampSummed (n st : Nat) (app : Int) (s : State) : State :=
  if isSet s (jdxPage n) JDX.STATUS_FBM then s else if st = 4 then stampMean n app s else if st = 5 then stampActive n app s else s

theorem stampSummed_kept (st : Nat) (app : Int) : StampKept n s (stampSummed n st app s) := by
  unfold stampSummed
  split
  · exact .refl s
  · split
    · exact .mean app
    · split
      · exact .active app
      · exact .refl s

theorem exec_loopStampRx (hst : portState s n = 4 ∨ portState s n = 5 ∨ portState s n = 6) (hheld : portHeld s n = false)
    (hidle : isSet s (jdxPage n) JDX.STATUS_PEER_IDLE = false) (id dep arr : Nat) : exec (.loopStampRx n id dep arr) s
      = .next (stampSummed n (portState s n) (apparent dep arr) (stampShown n id (apparent dep arr) s)) := by
  have hexec : exec (.loopStampRx n id dep arr) s = execLoopStampRx n id dep arr s := rfl
  rw [hexec, execLoopStampRx]
  refine (if_pos ⟨hst, hidle, hheld⟩).trans ?_
  simp only [stampSummed, apply_ite Host.Outcome.next]
  rfl

theorem loopStamp_shows (hst : portState s n = 4 ∨ portState s n = 5 ∨ portState s n = 6) (hheld : portHeld s n = false)
    (hidle : isSet s (jdxPage n) JDX.STATUS_PEER_IDLE = false) (id dep arr : Nat) : ∃ t, exec (.loopStampRx n id dep arr) s = .next t
      ∧ getF t (jdxPage n) JDX.LOOP_APP_APP = ofSigned 16 (clampI (-32768) 32767 (apparent dep arr))
      ∧ getF t (jdxPage n) JDX.LOOP_APP_ID = id % 2 ^ JDX.LOOP_APP_ID.w
      ∧ (portOf t n).tx.loops = (portOf s n).tx.loops ++ [.report id (ofSigned 48 (apparent dep arr))] := by
  obtain ⟨hword, hloops⟩ := stampSummed_kept (s := stampShown n id (apparent dep arr) s) (n := n) (portState s n) (apparent dep arr)
  have happ : ofSigned 16 (clampI (-32768) 32767 (apparent dep arr)) % 2 ^ JDX.LOOP_APP_APP.w
      = ofSigned 16 (clampI (-32768) 32767 (apparent dep arr)) := Nat.mod_eq_of_lt ofSigned_lt
  have hport : portOf (stampShown n id (apparent dep arr) s) n = blkAdded (.report id (ofSigned 48 (apparent dep arr))) (portOf s n) :=
    portOf_modPort_same
  obtain ⟨hshownApp, hshownId⟩ := appShown_shows (s := s) (n := n) id (apparent dep arr)
  have hword := hword.trans (word_stampShown (s := s) (n := n) id (apparent dep arr))
  refine ⟨_, exec_loopStampRx hst hheld hidle id dep arr, ?_, ?_, hloops.trans ?_⟩
  · exact ((congrArg JDX.LOOP_APP_APP.of hword).trans hshownApp).trans happ
  · exact (congrArg JDX.LOOP_APP_ID.of hword).trans hshownId
  · rw [hport]
    rfl

/-- A report in the sums of the time port. -/
def repSummed (val : Nat) (x : Port) : Port := { x with repN := x.repN + 1, repSum := x.repSum + toSigned 48 val }

/-- A report in the sums of the skew estimate. -/
def outSummed (val : Nat) (x : Port) : Port := if x.outN < 256 then { x with outN := x.outN + 1, outSum := x.outSum + toSigned 48 val } else x

theorem report_measure (hheld : portHeld s n = false) (h4 : portState s n = 4) (val : Nat) :
    ∃ t, exec (.loopReportRx n val) s = .next t ∧ (portOf t n).repN = (portOf s n).repN + 1
      ∧ (portOf t n).repSum = (portOf s n).repSum + toSigned 48 val ∧ regsSame [] s t ∧ typedSame { s with ports := t.ports } t := by
  have hexec : exec (.loopReportRx n val) s = execLoopReportRx n val s := rfl
  have hport : portOf (modPort n (repSummed val) s) n = repSummed val (portOf s n) := portOf_modPort_same
  refine ⟨modPort n (repSummed val) s, ?_, ?_, ?_, regsSame_of_regs rfl, typedSame_refl _⟩
  · rw [hexec, execLoopReportRx]
    exact (if_neg (by rw [hheld]; decide)).trans (if_pos h4)
  · rw [hport]
    rfl
  · rw [hport]
    rfl

theorem report_active (hheld : portHeld s n = false) (h5 : portState s n = 5) (hroom : (portOf s n).outN < 256) (val : Nat) :
    ∃ t, exec (.loopReportRx n val) s = .next t ∧ (portOf t n).outN = (portOf s n).outN + 1
      ∧ (portOf t n).outSum = (portOf s n).outSum + toSigned 48 val ∧ regsSame [] s t ∧ typedSame { s with ports := t.ports } t := by
  have hexec : exec (.loopReportRx n val) s = execLoopReportRx n val s := rfl
  have hport : portOf (modPort n (outSummed val) s) n = outSummed val (portOf s n) := portOf_modPort_same
  refine ⟨modPort n (outSummed val) s, ?_, ?_, ?_, regsSame_of_regs rfl, typedSame_refl _⟩
  · rw [hexec, execLoopReportRx]
    exact (if_neg (by rw [hheld]; decide)).trans ((if_neg (by rw [h5]; decide)).trans (if_pos h5))
  · rw [hport, outSummed, if_pos hroom]
  · rw [hport, outSummed, if_pos hroom]

theorem report_elsewhere (hheld : portHeld s n = false) (h4 : portState s n ≠ 4) (h5 : portState s n ≠ 5) (val : Nat) :
    exec (.loopReportRx n val) s = .next s := by
  have hexec : exec (.loopReportRx n val) s = execLoopReportRx n val s := rfl
  rw [hexec, execLoopReportRx]
  exact (if_neg (by rw [hheld]; decide)).trans ((if_neg h4).trans (if_neg h5))

/-- The frames that count on toward the next stamp. -/
def sinceWrapped (x : Port) : Port := { x with tx := { x.tx with since := x.tx.since % 1024 } }

theorem stampSend (hheld : portHeld s n = false) (h5 : portState s n = 5) (hfbm : isSet s (jdxPage n) JDX.STATUS_FBM = false) :
    (1024 ≤ (portOf s n).tx.since → ∀ id, ∃ t, exec (.loopStampSend n id) s = .next t
        ∧ (portOf t n).tx.loops = (portOf s n).tx.loops ++ [.stamp id] ∧ regsSame [] s t ∧ typedSame { s with ports := t.ports } t)
      ∧ ((portOf s n).tx.since < 1024 → ∀ id, exec (.loopStampSend n id) s = .next s) := by
  have hexec (id : Nat) : exec (.loopStampSend n id) s = execLoopStampSend n id s := rfl
  refine ⟨fun hdue id => ⟨modPort n (blkAdded (.stamp id)) (modPort n sinceWrapped s), ?_, ?_, regsSame_of_regs rfl, typedSame_refl _⟩,
    fun hnot id => ?_⟩
  · rw [hexec, execLoopStampSend]
    exact congrArg Host.Outcome.next (if_pos ⟨h5, hfbm, hdue, hheld⟩)
  · have hport : portOf (modPort n (blkAdded (.stamp id)) (modPort n sinceWrapped s)) n = blkAdded (.stamp id) (sinceWrapped (portOf s n)) := by
      rw [portOf_modPort_same, portOf_modPort_same]
    rw [hport]
    rfl
  · rw [hexec, execLoopStampSend]
    exact congrArg Host.Outcome.next (if_neg fun h => absurd h.2.2.1 (by omega))

/-! ### Electrical idle (R337, R338) -/

theorem exec_idleEnterReq (hn : n < 8) (h : busOpen s who (jdxPage n) = true) :
    exec (.idleEnterReq who n) s = .next (idleEnterReqEffect n (notePage (some who) (jdxPage n) s)) :=
  congrArg Host.Outcome.next (viaBus_open h (pageKind_jdxPage hn) _ _ _ _ (fun hc => absurd hc (by decide)))

theorem exec_idleExit (hn : n < 8) (h : busOpen s who (jdxPage n) = true) :
    exec (.idleExit who n) s = .next (idleExitEffect n (notePage (some who) (jdxPage n) s)) :=
  congrArg Host.Outcome.next (viaBus_open h (pageKind_jdxPage hn) _ _ _ _ (fun hc => absurd hc (by decide)))

/-- A port that asks for IDLE_ENTER, unless it has sent it. -/
def idleAsked (x : Port) : Port := { x with tx := { x.tx with idleReq := x.tx.idleReq || !x.tx.idleSent } }

/-- A port that asks for the training burst. -/
def exitAsked (x : Port) : Port := { x with tx := { x.tx with exitReq := true } }

theorem portOf_noted {g : Port → Port} : portOf (modPort n g (notePage (some who) (jdxPage n) s)) n = g (portOf s n) := by
  rw [portOf_modPort_same, notePage_eq]
  rfl

theorem noted_regs {g : Port → Port} : regsSame [] s (modPort n g (notePage (some who) (jdxPage n) s)) := fun a _ => rdWord_notePage a

theorem noted_typed {g : Port → Port} : PortTyped s (modPort n g (notePage (some who) (jdxPage n) s)) :=
  (PortTyped.of_typedSame typedSame_notePage).modPort g

theorem idleEnter_asks (hn : n < 8) (h : busOpen s who (jdxPage n) = true) (h5 : portState s n = 5)
    (hfbm : isSet s (jdxPage n) JDX.STATUS_FBM = false) (hsent : (portOf s n).tx.idleSent = false) :
    ∃ t, exec (.idleEnterReq who n) s = .next t ∧ (portOf t n).tx.idleReq = true
      ∧ regsSame [] s t ∧ typedSame { s with ports := t.ports } t := by
  refine ⟨modPort n idleAsked (notePage (some who) (jdxPage n) s), ?_, ?_, noted_regs, noted_typed⟩
  · rw [exec_idleEnterReq hn h, idleEnterReqEffect]
    exact congrArg Host.Outcome.next (if_pos ⟨getF_notePage.trans h5, isSet_notePage.trans hfbm⟩)
  · rw [portOf_noted, idleAsked, hsent]
    exact Bool.or_true _

theorem idleEnter_records (hn : n < 8) (h : busOpen s who (jdxPage n) = true) (h5 : portState s n ≠ 5) : exec (.idleEnterReq who n) s
    = .next (errRec (jdxPage n) 0x28 0 0 (portState s n) 0 (notePage (some who) (jdxPage n) s)) := by
  have hst : portState (notePage (some who) (jdxPage n) s) n = portState s n := getF_notePage
  rw [exec_idleEnterReq hn h, idleEnterReqEffect]
  refine congrArg Host.Outcome.next ((if_neg fun hc => h5 (hst.symm.trans hc.1)).trans ?_)
  rw [hst]

theorem idleExit_asks (hn : n < 8) (h : busOpen s who (jdxPage n) = true) (h6 : portState s n = 6) :
    ∃ t, exec (.idleExit who n) s = .next t ∧ (portOf t n).tx.exitReq = true ∧ regsSame [] s t ∧ typedSame { s with ports := t.ports } t := by
  refine ⟨modPort n exitAsked (notePage (some who) (jdxPage n) s), ?_, ?_, noted_regs, noted_typed⟩
  · rw [exec_idleExit hn h, idleExitEffect]
    exact congrArg Host.Outcome.next (if_pos (getF_notePage.trans h6))
  · rw [portOf_noted]
    rfl

theorem idleExit_elsewhere (hn : n < 8) (h : busOpen s who (jdxPage n) = true) (h6 : portState s n ≠ 6) :
    exec (.idleExit who n) s = .next (notePage (some who) (jdxPage n) s) := by
  rw [exec_idleExit hn h, idleExitEffect]
  exact congrArg Host.Outcome.next (if_neg fun hc => h6 (getF_notePage.symm.trans hc))

/-- A port whose IDLE_ENTER has gone out with its frame. -/
def idledTx (x : Tx) : Tx := { x with idleSent := false, blks := [] }

/-- A port whose training burst is over. -/
def burstOver (x : Tx) : Tx := { x with burst := 0 }

theorem frameEnd_idles (hheld : portHeld s n = false) (h5 : portState s n = 5) (hsent : (portOf s n).tx.idleSent = true)
    (hb : (portOf s n).tx.b = 0) (hend : (portOf s n).tx.start ≤ 16 * (s.up + 1)) : portState (frameEnds n s) n = 6
      ∧ isSet (frameEnds n s) (jdxPage n) HDR.STATUS_RUN = true ∧ (portOf (frameEnds n s) n).tx.blks = [] := by
  have hend' : frameEnds n s = topoUrge (setPortState n 6 (modTx n idledTx s)) :=
    (if_neg (by simp only [hheld, Bool.false_eq_true, or_false]; omega)).trans (if_pos ⟨h5, hsent⟩)
  obtain ⟨hregs, hports, -⟩ := topoUrge_kept (s := setPortState n 6 (modTx n idledTx s))
  have hport : portOf (setPortState n 6 (modTx n idledTx s)) n = { portOf s n with tx := idledTx (portOf s n).tx } :=
    (portOf_of_ports setPortState_kept.1).trans portOf_modPort_same
  rw [hend']
  refine ⟨(getF_of_regs hregs ..).trans (portState_setPortState (by decide)), ?_, ?_⟩
  · rw [isSet, getF_of_regs hregs, ← isSet, run_setPortState]
    rfl
  · rw [portOf_of_ports hports, hport]
    rfl

theorem frameEnd_activates (hheld : portHeld s n = false) (h6 : portState s n = 6) (hburst : (portOf s n).tx.burst = 1)
    (hb : (portOf s n).tx.b = 0) (hend : (portOf s n).tx.start ≤ 16 * (s.up + 1)) :
    portState (frameEnds n s) n = 5 ∧ irqStat (frameEnds n s) (jdxPage n) 1 = true := by
  have hend' : frameEnds n s = topoUrge (irqBit (jdxPage n) 1 (setPortState n 5 (modTx n burstOver s))) :=
    (if_neg (by simp only [hheld, Bool.false_eq_true, or_false]; omega)).trans ((if_neg (by rw [h6]; omega)).trans (if_pos ⟨h6, hburst⟩))
  obtain ⟨hregs, -, -⟩ := topoUrge_kept (s := irqBit (jdxPage n) 1 (setPortState n 5 (modTx n burstOver s)))
  rw [hend']
  refine ⟨(getF_of_regs hregs ..).trans (portState_irqBit.trans (portState_setPortState (by decide))), ?_⟩
  rw [irqStat, rdWord, hregs]
  exact irqStat_irqBit_same (by decide)

/-- The end of the frame that brought IDLE_ENTER, noted. -/
def peerIdleNoted (u : Nat) (x : Port) : Port := { x with peerIdleAt := some (max u (x.markUp + 33)) }

theorem idleEnterRx (hheld : portHeld s n = false) (hst : portState s n = 5 ∨ portState s n = 6)
    (hfbm : isSet s (jdxPage n) JDX.STATUS_FBM = false) : ∃ t, exec (.idleEnterRx n) s = .next t
      ∧ (portOf t n).peerIdleAt = some (max s.up ((portOf s n).markUp + 33)) ∧ regsSame [] s t ∧ typedSame { s with ports := t.ports } t := by
  have hport : portOf (modPort n (peerIdleNoted s.up) s) n = peerIdleNoted s.up (portOf s n) := portOf_modPort_same
  refine ⟨modPort n (peerIdleNoted s.up) s, ?_, ?_, regsSame_of_regs rfl, typedSame_refl _⟩
  · have hexec : exec (.idleEnterRx n) s = execIdleEnterRx n s := rfl
    rw [hexec, execIdleEnterRx]
    exact congrArg Host.Outcome.next (if_pos ⟨hst, hfbm, hheld⟩)
  · rw [hport]
    rfl

/-- A port with no IDLE_ENTER of its peer under way. -/
def peerIdleDone (x : Port) : Port := { x with peerIdleAt := none }

/-- PEER_IDLE shown at the end of the frame. -/
def peerIdleShown (n : Nat) (s : State) : State := putF (jdxPage n) JDX.STATUS_PEER_IDLE 1 0 (modPort n peerIdleDone s)

theorem peerIdles_due (hheld : portHeld s n = false) {u : Nat} (hu : (portOf s n).peerIdleAt = some u) (hdue : u ≤ s.up + 1) :
    peerIdles n s = topoUrge (losePort n true false (peerIdleShown n s)) := by
  rw [peerIdles, hu]
  exact if_neg (by simp only [hheld, Bool.false_eq_true, or_false]; omega)

theorem peerIdles_shows (hn : n < 8) (hheld : portHeld s n = false) {u : Nat} (hu : (portOf s n).peerIdleAt = some u) (hdue : u ≤ s.up + 1) :
    isSet (peerIdles n s) (jdxPage n) JDX.STATUS_PEER_IDLE = true ∧ portState (peerIdles n s) n = portState s n
      ∧ ∀ i < 512, slotKind s i = 3 → getF s pTul TUL.SLOT_RT_IMP_PORT i = n → slotLost (peerIdles n s) i = true := by
  obtain ⟨hregs, -, -⟩ := topoUrge_kept (s := losePort n true false (peerIdleShown n s))
  have hlinks : LinkKept (peerIdleShown n s) (topoUrge (losePort n true false (peerIdleShown n s))) := ((LinkKept.refl _).losePort).same hregs
  have hroutes : RoutesKept s (peerIdleShown n s) := (RoutesKept.refl s).modPort.putF hn (by decide)
  rw [peerIdles_due hheld hu hdue]
  refine ⟨?_, ?_, fun i hi hkind himp => ?_⟩
  · rw [hlinks.isSet (linkReg_addr hn (by decide)), peerIdleShown, isSet_putF (by decide)]
    rfl
  · rw [portState, hlinks.getF (linkReg_addr hn (by decide)), peerIdleShown, getF_putF_beside (by decide)]
    rfl
  · rw [slotLost, isSet, getF_of_regs hregs]
    exact slotLost_losePort hi ((hroutes.kind i).trans hkind) ((hroutes.route (by decide) i).trans himp)

/-! ### The eye margin (R339) -/

/-- The field of MARGIN that shows a lane. -/
def marginFld (lane : Nat) : Fld := if lane = 0 then JDX.MARGIN_M0 else JDX.MARGIN_M1

theorem marginFld_cases (lane : Nat) : marginFld lane = JDX.MARGIN_M0 ∨ marginFld lane = JDX.MARGIN_M1 := by
  unfold marginFld
  split
  · exact .inl rfl
  · exact .inr rfl

theorem marginFld_shape (lane : Nat) : (marginFld lane).off = 0x50 ∧ (marginFld lane).stride = 4 ∧ (marginFld lane).w = 6
    ∧ (marginFld lane).lo + (marginFld lane).w ≤ 16 := by
  obtain h | h := marginFld_cases lane <;> rw [h] <;> decide

/-- The lane of a port marked as weak. -/
def laneMarked (lane : Nat) (x : Port) : Port := { x with low := setBit x.low lane }

theorem margin_shows (hheld : portHeld s n = false) (hst : portState s n = 5 ∨ portState s n = 6) (lane m : Nat) (hlane : lane < 2) :
    ∃ t, exec (.marginLow n lane m) s = .next t
      ∧ getF t (jdxPage n) (marginFld lane) = m % 2 ^ JDX.MARGIN_M0.w
      ∧ (m < getF s (jdxPage n) JDX.MARGIN_TH → irqStat t (jdxPage n) 6 = true ∧ (portOf t n).low = setBit (portOf s n).low lane)
      ∧ (getF s (jdxPage n) JDX.MARGIN_TH ≤ m → regsSame [JDX.MARGIN_M0.addr (jdxPage n) 0] s t ∧ typedSame s t) := by
  obtain ⟨hoff, hstride, hw, hlo⟩ := marginFld_shape lane
  have hexec : exec (.marginLow n lane m) s = execMarginLow n lane m s := rfl
  have hth : getF (putF (jdxPage n) (marginFld lane) m 0 s) (jdxPage n) JDX.MARGIN_TH = getF s (jdxPage n) JDX.MARGIN_TH :=
    getF_putF_beside (.inl hlo) _ _
  have hval : getF (putF (jdxPage n) (marginFld lane) m 0 s) (jdxPage n) (marginFld lane) = m % 2 ^ JDX.MARGIN_M0.w := by
    rw [getF_putF _ _ _ _ _ (by omega), hw]
    rfl
  have haddr : (marginFld lane).addr (jdxPage n) 0 = JDX.MARGIN_M0.addr (jdxPage n) 0 := by rw [Fld.addr, hoff]; rfl
  by_cases hlow : m < getF s (jdxPage n) JDX.MARGIN_TH
  case neg =>
    refine ⟨putF (jdxPage n) (marginFld lane) m 0 s, ?_, hval, fun h => absurd h hlow, fun _ => ⟨regsSame_putF ?_ (regsSame_refl _ s),
      typedSame_putF (typedSame_refl s)⟩⟩
    · rw [hexec, execMarginLow]
      exact (if_pos ⟨hst, hlane, hheld⟩).trans (if_neg (fun h => hlow (lt_of_lt_of_eq h hth)))
    · exact List.mem_singleton.2 haddr
  case pos =>
    refine ⟨modPort n (laneMarked lane) (errRec (jdxPage n) 0x25 1 0 (lane + 256 * m) 0 (irqBit (jdxPage n) 6
      (putF (jdxPage n) (marginFld lane) m 0 s))), ?_, ?_, fun _ => ⟨?_, ?_⟩, fun h => absurd hlow (by omega)⟩
    · rw [hexec, execMarginLow]
      exact (if_pos ⟨hst, hlane, hheld⟩).trans (if_pos (lt_of_lt_of_eq hlow hth.symm))
    · have hne {g : Fld} (hg : g.off < 0x50) (hs : g.stride = 4) : (marginFld lane).addr (jdxPage n) 0 ≠ g.addr (jdxPage n) 0 := by
        rw [haddr]
        simp only [Fld.addr, JDX.MARGIN_M0]
        omega
      have hdmp : (marginFld lane).addr (jdxPage n) 0 ≠ DMP.DUMP_STAT_FATAL_CNT.addr 0xF 0 := by
        rw [haddr]
        exact jdx_ne_dump
      refine Eq.trans ?_ hval
      exact (getF_errRec _ _ _ _ _ _ _ _ _ _ (hne (by decide) rfl) (hne (by decide) rfl) hdmp).trans
        (getF_irqBit _ _ _ _ _ _ (hne (by decide) rfl))
    · have hirq := irqStat_irqBit_same (s := putF (jdxPage n) (marginFld lane) m 0 s) (p := jdxPage n) (b := 6) (by decide)
      exact irqStat_modPort.trans (irqStat_errRec_of hirq)
    · have hport := portOf_modPort_same (s := errRec (jdxPage n) 0x25 1 0 (lane + 256 * m) 0 (irqBit (jdxPage n) 6
        (putF (jdxPage n) (marginFld lane) m 0 s))) (n := n) (g := laneMarked lane)
      have hsame : portOf (errRec (jdxPage n) 0x25 1 0 (lane + 256 * m) 0 (irqBit (jdxPage n) 6
        (putF (jdxPage n) (marginFld lane) m 0 s))) n = portOf s n := portOf_of_ports (by simp)
      rw [hport, hsame, laneMarked]

/-! ### The CRC-7 of a decision block (R317, R318) -/

theorem crc7Step_lt (c b : Nat) : crc7Step c b < 2 ^ 7 := by
  unfold crc7Step
  exact Nat.xor_lt_two_pow (Nat.mod_lt _ (by decide)) (by split <;> decide)

theorem crc7_lt (pay : Nat) : crc7 pay < 2 ^ 7 := by
  rw [crc7, List.range_succ, List.foldl_append]
  exact crc7Step_lt _ _

/-- Only payload bits 0 to 56 enter the CRC-7. -/
theorem crc7_mod (pay : Nat) : crc7 (pay % 2 ^ 57) = crc7 pay := by
  rw [crc7, crc7]
  refine List.foldl_ext _ _ _ fun c i hi => ?_
  rw [bit_mod_two_pow (List.mem_range.1 hi)]

theorem entryOf_lt (p : Port) (x : Int) : entryOf p x < 2 ^ 19 := by
  unfold entryOf
  split
  · omega
  · exact lt_trans (BitVec.isLt _) (by decide)

theorem crc7_decisionPay {a b c : Nat} (ha : a < 2 ^ 19) (hb : b < 2 ^ 19) (hc : c < 2 ^ 19) :
    crc7 (decisionPay a b c) = blockCrc (decisionPay a b c) := by
  have hpay : a + 2 ^ 19 * b + 2 ^ 38 * c < 2 ^ 57 := by omega
  rw [decisionPay]
  generalize a + 2 ^ 19 * b + 2 ^ 38 * c = pay at hpay ⊢
  have hlt := crc7_lt pay
  have hmod : (pay + 2 ^ 57 * crc7 pay) % 2 ^ 57 = pay := by rw [Nat.add_mul_mod_self_left, Nat.mod_eq_of_lt hpay]
  have hdiv : (pay + 2 ^ 57 * crc7 pay) / 2 ^ 57 = crc7 pay := by
    rw [Nat.add_mul_div_left _ _ (by decide), Nat.div_eq_of_lt hpay, Nat.zero_add]
  have hcrc : crc7 (pay + 2 ^ 57 * crc7 pay) = crc7 pay := by rw [← crc7_mod, hmod]
  refine hcrc.trans ?_
  rw [blockCrc, mwBits, hdiv, Nat.mod_eq_of_lt hlt]

theorem decisionBlk_crc (d : Nat) : crc7 (decisionBlk n d s).1 = blockCrc (decisionBlk n d s).1 :=
  crc7_decisionPay (entryOf_lt _ _) (entryOf_lt _ _) (entryOf_lt _ _)

/-! ### The blocks of a framed period (R312, R314, R316) -/

theorem periodBlks_framed (h5 : portState s n = 5) (hframed : (portOf s n).tx.framed = true) (hfill : (portOf s n).tx.filling = false) (b : Nat) :
    periodBlks n b s = framedBlks n b s := by
  rw [periodBlks]
  exact (if_neg (by rw [hfill]; decide)).trans ((if_neg (by rw [h5]; decide)).trans (if_pos hframed))

theorem framedBlks_headers {b : Nat} :
    (framedBlks n b s).1.map Prod.fst = (if b = 0 ∨ b = 8 then [2, 2] else if b % 2 = 1 then [1, 1] else [1, 2]) := by
  by_cases h0 : b = 0
  · rw [framedBlks, if_pos h0, if_pos (.inl h0)]
    rfl
  by_cases h8 : b = 8
  · rw [framedBlks, if_neg h0, if_pos h8, if_pos (.inr h8)]
    rfl
  rw [framedBlks, if_neg h0, if_neg h8, if_neg (not_or.2 ⟨h0, h8⟩)]
  dsimp only
  split <;> rfl

theorem framedBlks_crc {b : Nat} : ∀ x ∈ (framedBlks n b s).1, x.1 = 1 → crc7 x.2 = blockCrc x.2 := by
  unfold framedBlks
  split
  · simp
  split
  · simp
  dsimp only
  split
  · simp [decisionBlk_crc]
  · simp [decisionBlk_crc]

/-- The management position at b = 8 of an ACTIVE port takes what waits first. -/
theorem framedBlks_eight (h5 : portState s n = 5) : framedBlks n 8 s = ([(2, timePay s n), (2, (waitingBlk n s).1)], (waitingBlk n s).2) := by
  have hpos : positionBlk n 8 s = waitingBlk n s := (if_neg (by rw [h5]; decide)).trans (if_neg fun h => absurd h.2.1 (by decide))
  rw [framedBlks, if_neg (by decide), if_pos rfl, hpos]

theorem waitingBlk_loop {l : OutBlk} {ls : List OutBlk} (h : (portOf s n).tx.loops = l :: ls) : (waitingBlk n s).1 = loopBlk s n l := by
  rw [waitingBlk]
  simp only [h]

/-- A port whose IDLE_ENTER has gone out. -/
def idleOut (x : Port) : Port := { x with tx := { x.tx with idleReq := false, idleSent := true } }

theorem waitingBlk_idle (h : (portOf s n).tx.loops = []) (hreq : (portOf s n).tx.idleReq = true) :
    waitingBlk n s = (idleEnterPay, modPort n idleOut s) := by
  rw [waitingBlk]
  simp only [h, hreq]
  rfl

theorem frame_sends (h5 : portState s n = 5) (hframed : (portOf s n).tx.framed = true) (hfill : (portOf s n).tx.filling = false) (b : Nat) :
    ((periodBlks n b s).1.map Prod.fst = (if b = 0 ∨ b = 8 then [2, 2] else if b % 2 = 1 then [1, 1] else [1, 2]))
      ∧ (b = 0 → (periodBlks n b s).1 = [(2, framePay s n 0), (2, framePay s n 1)])
      ∧ (∀ x ∈ (periodBlks n b s).1, x.1 = 1 → crc7 x.2 = blockCrc x.2)
      ∧ (b = 8 → ∀ l ls, (portOf s n).tx.loops = l :: ls → (periodBlks n b s).1 = [(2, timePay s n), (2, loopBlk s n l)])
      ∧ (b = 8 → (portOf s n).tx.loops = [] → (portOf s n).tx.idleReq = true →
        (periodBlks n b s).1 = [(2, timePay s n), (2, idleEnterPay)] ∧ (portOf (periodBlks n b s).2 n).tx.idleSent = true) := by
  rw [periodBlks_framed h5 hframed hfill]
  refine ⟨framedBlks_headers, fun h0 => ?_, framedBlks_crc, fun h8 l ls hl => ?_, fun h8 hl hreq => ?_⟩
  · rw [framedBlks, if_pos h0]
  · rw [h8, framedBlks_eight h5, waitingBlk_loop hl]
  · have hport : portOf (modPort n idleOut s) n = idleOut (portOf s n) := portOf_modPort_same
    rw [h8, framedBlks_eight h5, waitingBlk_idle hl hreq]
    exact ⟨rfl, congrArg (fun x : Port => x.tx.idleSent) hport⟩

/-- Settles O33. -/
theorem portStampsAndIdle : Obligations.PortStampsAndIdle := by
  intro s who n hn hheld
  refine ⟨fun hst hidle id dep arr => loopStamp_shows hst hheld hidle id dep arr,
    fun val => ⟨fun h4 => report_measure hheld h4 val, fun h5 hroom => report_active hheld h5 hroom val,
      fun h4 h5 => report_elsewhere hheld h4 h5 val⟩,
    fun h5 hfbm => stampSend hheld h5 hfbm, fun h h5 hfbm hsent => idleEnter_asks hn h h5 hfbm hsent, fun h h5 => idleEnter_records hn h h5,
    fun h5 hsent hb hend => frameEnd_idles hheld h5 hsent hb hend, fun h6 hburst hb hend => frameEnd_activates hheld h6 hburst hb hend,
    fun hst hfbm => ⟨idleEnterRx hheld hst hfbm, fun u hu hdue => peerIdles_shows hn hheld hu hdue⟩,
    fun h h6 => idleExit_asks hn h h6, fun h h6 => idleExit_elsewhere hn h h6, fun hst lane m hlane => margin_shows hheld hst lane m hlane,
    fun h5 hframed hfill b _ => frame_sends h5 hframed hfill b⟩

end Sys2Proof.Machine
end

section
/-!
PROOFS. What the tiles do in one fc (R164, R180 to R183, R217, R250 to R256): the units they fetch, the samples and codes they give and the
taps their windows take, with what a bad line that they read brings about (R450).
-/
namespace Sys2Proof.Machine

variable {s t u : State} {a b k n v i : Nat} {f : Fld}

/-! ### The parts of the state that an fc of the tiles may change -/

/-- The registers that an fc of the tiles may write. -/
def playReg (a : Nat) : Prop :=
  (pageOf a = 6 ∧ (offOf a = HDR.IRQ_STAT.off ∨ offOf a = HDR.ERR_CNT.off ∨ offOf a = MIC.MEM_STAT.off ∨ offOf a = MIC.MEM_LOST.off))
  ∨ (0x10 ≤ pageOf a ∧ pageOf a < 0x30 ∧ (offOf a = HDR.IRQ_STAT.off ∨ offOf a = HDR.ERR_CNT.off
    ∨ (pageOf a < 0x20 ∧ (∃ d < 2, offOf a = DRV.DAC_SAT_CNT.off + 0x20 * d ∨ offOf a = DRV.DAC_STAT.off + 0x20 * d))
    ∨ (0x20 ≤ pageOf a ∧ pageOf a < 0x28 ∧ (offOf a = RDO.PDAC_SAT_CNT.off ∨ offOf a = RDO.PDAC_STAT.off))
    ∨ (0x28 ≤ pageOf a ∧ (∃ k < 16, offOf a = FLX.OUT_SAT_CNT.off + 4 * k ∨ offOf a = FLX.OUT_STAT.off + 0x10 * k))))

/-- The parts of a tile, of a read-out tile and of a flux output that an fc may change. -/
def tileShown (x y : Tile) : Prop :=
  y = { x with fetches := y.fetches, units := y.units, bHist := y.bHist, codes := y.codes, satShot := y.satShot, pins := y.pins, busy := y.busy }
def rdoShown (x y : Rdo) : Prop := y = { x with sets := y.sets }
def fluxShown (x y : FOut) : Prop := y = { x with lp := y.lp, hist := y.hist }

theorem tileShown_refl (x : Tile) : tileShown x x := rfl
theorem rdoShown_refl (x : Rdo) : rdoShown x x := rfl
theorem fluxShown_refl (x : FOut) : fluxShown x x := rfl

theorem tileShown_trans {x y z : Tile} (h : tileShown x y) (h' : tileShown y z) : tileShown x z := by
  unfold tileShown at *
  rw [h', h]

theorem rdoShown_trans {x y z : Rdo} (h : rdoShown x y) (h' : rdoShown y z) : rdoShown x z := by
  unfold rdoShown at *
  rw [h', h]

theorem fluxShown_trans {x y z : FOut} (h : fluxShown x y) (h' : fluxShown y z) : fluxShown x z := by
  unfold fluxShown at *
  rw [h', h]

/-- The parts of the state beside the registers that an fc of the tiles may change. -/
def playTyped (s t : State) : Prop :=
  t = { s with regs := t.regs, errs := t.errs, msix := t.msix, tiles := t.tiles, rdos := t.rdos, flux := t.flux, lines := t.lines,
               lastBytes := t.lastBytes, lastAbort := t.lastAbort }

/-- What an fc of the tiles may change. -/
structure Played (s t : State) : Prop where
  regs : ∀ a, ¬ playReg a → rdWord t a = rdWord s a
  typed : playTyped s t
  tile : ∀ b, tileShown (tileOf s b) (tileOf t b)
  rdo : ∀ b, rdoShown (rdoOf s b) (rdoOf t b)
  flux : ∀ b k, fluxShown (fluxOf s b k) (fluxOf t b k)

namespace Played

theorem refl (s : State) : Played s s := ⟨fun _ _ => rfl, rfl, fun _ => rfl, fun _ => rfl, fun _ _ => rfl⟩

theorem trans (h : Played s t) (h' : Played t u) : Played s u where
  regs a ha := (h'.regs a ha).trans (h.regs a ha)
  typed := by
    have ht := h.typed
    have hu := h'.typed
    unfold playTyped at *
    rw [hu, ht]
  tile b := tileShown_trans (h.tile b) (h'.tile b)
  rdo b := rdoShown_trans (h.rdo b) (h'.rdo b)
  flux b k := fluxShown_trans (h.flux b k) (h'.flux b k)

theorem ite {c : Prop} [Decidable c] {x y : State} (hx : Played s x) (hy : Played s y) : Played s (if c then x else y) := by
  split <;> assumption

/-- A change of parts that no tile is in. -/
theorem beside (h : Played s t) (hregs : ∀ a, ¬ playReg a → rdWord u a = rdWord t a) (htyped : playTyped t u) (htiles : u.tiles = t.tiles)
    (hrdos : u.rdos = t.rdos) (hflux : u.flux = t.flux) : Played s u := by
  refine h.trans ⟨hregs, htyped, fun b => ?_, fun b => ?_, fun b k => ?_⟩
  · rw [tileOf, tileOf, htiles]
    exact tileShown_refl _
  · rw [rdoOf, rdoOf, hrdos]
    exact rdoShown_refl _
  · rw [fluxOf, fluxOf, hflux]
    exact fluxShown_refl _

/-! ### Registers, records and lines -/

theorem wrWord {w : Word} (ha : playReg a) (h : Played s t) : Played s (wrWord a w t) := by
  refine h.beside (fun x hx => rdWord_wrWord_other ?_ _ t) rfl rfl rfl rfl
  rintro rfl
  exact hx ha

theorem putF {p : Nat} (ha : playReg (f.addr p i)) (h : Played s t) : Played s (putF p f v i t) := wrWord ha h

theorem incSat {p : Nat} (ha : playReg (f.addr p i)) (h : Played s t) : Played s (incSat p f i t) := h.putF ha

theorem sendVec (h : Played s t) : Played s (sendVec v t) := by
  rw [sendVec_eq]
  exact h.beside (fun _ _ => rfl) rfl rfl rfl rfl

theorem errs {x : SMap PageErr} (h : Played s t) : Played s { t with errs := x } := h.beside (fun _ _ => rfl) rfl rfl rfl rfl

theorem setLine {l : LineSt} (h : Played s t) : Played s (setLine a l t) := h.beside (fun _ _ => rfl) rfl rfl rfl rfl

theorem answer {bs : List Byte} {x : Bool} (h : Played s t) : Played s { t with lastBytes := bs, lastAbort := x } :=
  h.beside (fun _ _ => rfl) rfl rfl rfl rfl

end Played

/-- A page whose records and interrupts an fc of the tiles may raise. -/
def playPage (p : Nat) : Prop := p = 6 ∨ (0x10 ≤ p ∧ p < 0x30)

theorem playReg_header {p : Nat} (hp : playPage p) {o : Nat} (ho : o = HDR.IRQ_STAT.off ∨ o = HDR.ERR_CNT.off) (h : offOf a = o)
    (hpage : pageOf a = p) : playReg a := by
  obtain rfl | ⟨hlo, hhi⟩ := hp
  · exact .inl ⟨hpage, by omega⟩
  · exact .inr ⟨by omega, by omega, by omega⟩

theorem playReg_irqStat {p : Nat} (hp : playPage p) : playReg (HDR.IRQ_STAT.addr p 0) := by
  refine playReg_header hp (.inl rfl) ?_ ?_ <;> obtain rfl | hp := hp <;> simp only [offOf, pageOf, Fld.addr, HDR.IRQ_STAT, windowStride] <;> omega

theorem playReg_errCnt {p : Nat} (hp : playPage p) : playReg (HDR.ERR_CNT_TOTAL.addr p 0) := by
  refine playReg_header hp (.inr rfl) ?_ ?_ <;> obtain rfl | hp := hp <;>
    simp only [offOf, pageOf, Fld.addr, HDR.ERR_CNT_TOTAL, HDR.ERR_CNT, windowStride] <;> omega

theorem playReg_memStat (i : Nat) : playReg (MIC.MEM_STAT.addr 6 i) := by
  refine .inl ⟨?_, .inr (.inr (.inl ?_))⟩ <;> simp only [pageOf, offOf, Fld.addr, MIC.MEM_STAT, windowStride] <;> omega

theorem playReg_memLost (i : Nat) : playReg (MIC.MEM_LOST.addr 6 i) := by
  refine .inl ⟨?_, .inr (.inr (.inr ?_))⟩ <;> simp only [pageOf, offOf, Fld.addr, MIC.MEM_LOST, windowStride] <;> omega

theorem playPage_tile (hb : b < 32) : playPage (tilePage b) := .inr ⟨Nat.le_add_right _ _, by simp only [tilePage]; omega⟩

namespace Played

theorem irqBit {p : Nat} (hp : playPage p) (h : Played s t) : Played s (irqBit p n t) := by
  unfold Machine.irqBit irqSet irqEdge
  exact ite (sendVec (wrWord (playReg_irqStat hp) h)) (wrWord (playReg_irqStat hp) h)

theorem errQueued {p code sev unit info addr : Nat} (hp : playPage p) (h : Played s t) : Played s (errQueued p code sev unit info addr t) := by
  have hcnt : Played s (Machine.incSat p HDR.ERR_CNT_TOTAL 0 t) := h.incSat (playReg_errCnt hp)
  unfold Machine.errQueued
  dsimp only
  exact ite (irqBit hp hcnt.errs) (irqBit hp (incSat (playReg_errCnt hp) hcnt.errs))

/-- A record below severity 3. -/
theorem errRec {p code sev unit info addr : Nat} (hp : playPage p) (hsev : sev ≠ 3) (h : Played s t) :
    Played s (errRec p code sev unit info addr t) := by
  rw [errRec_eq]
  dsimp only
  rw [if_neg hsev]
  exact errQueued hp h

theorem bucketAdd {m : MemRef} (h : Played s t) : Played s (bucketAdd m n t) := by
  have hr := playReg_memStat m.idx
  exact ite (putF hr h) (putF hr (incSat hr (errRec (.inl rfl) (by decide) (irqBit (.inl rfl) h))))

theorem wrDrop {m : MemRef} {req : Nat} (h : Played s t) : Played s (wrDrop m req a t) :=
  incSat (playReg_memLost m.idx) (errRec (.inl rfl) (by decide) h)

theorem poisonLine {m : MemRef} {req cause : Nat} (h : Played s t) : Played s (poisonLine m req cause a t) := by
  unfold Machine.poisonLine
  dsimp only
  refine ite h (forAll_induction (fun e u hu => wrDrop hu) _ (forAll_induction (fun e u hu => answer hu) _ ?_))
  exact irqBit (.inl rfl) (errRec (.inl rfl) (by decide) (setLine (ite h (incSat (playReg_memStat m.idx) h))))

end Played

/-- One memory of a tile aperture. -/
theorem region_kind {c : Prop} [Decidable c] {kind base size page : Nat} {m : MemRef} (hk : kind ≠ 8)
    (h : (if c then some ({ page := page, kind := kind, base := base, size := size } : MemRef) else none) = some m) : m.kind ≠ 8 := by
  split at h
  · exact Option.some.inj h ▸ hk
  · exact absurd h (by simp)

theorem orElse_some {α : Type} {x y : Option α} {m : α} (h : (x.orElse fun _ => y) = some m) : x = some m ∨ y = some m := by
  cases x with
  | none => exact .inr h
  | some v => exact .inl h

/-- The memories of a tile do not include the Hoop microcode store. -/
theorem tileMem_kind {o : Nat} {m : MemRef} (h : tileMem b o = some m) : m.kind ≠ 8 := by
  unfold tileMem at h
  dsimp only at h
  obtain h | h := orElse_some h
  · exact region_kind (by decide) h
  obtain h | h := orElse_some h
  · exact region_kind (by decide) h
  obtain h | h := orElse_some h
  · split at h
    · exact region_kind (by decide) h
    · exact absurd h (by simp)
  obtain h | h := orElse_some h
  · exact region_kind (by decide) h
  obtain h | h := orElse_some h
  · split at h
    · exact region_kind (by decide) h
    · split at h
      · exact region_kind (by decide) h
      · exact absurd h (by simp)
  · split at h
    · exact region_kind (by decide) h
    · exact absurd h (by simp)

theorem memAt_tile_kind {m : MemRef} (ha : a < 0x10000000) (h : memAt a = some m) : m.kind ≠ 8 :=
  tileMem_kind ((if_pos ha).symm.trans h)

namespace Played

theorem detectLine {req : Nat} (ha : a < 0x10000000) (h : Played s t) : Played s (detectLine req a t) := by
  unfold Machine.detectLine
  split
  · exact h
  next m hm =>
  have hkind := memAt_tile_kind ha hm
  dsimp only
  split
  · rw [decide_eq_false hkind]
    exact poisonLine h
  · exact ite h (ite (poisonLine h) (bucketAdd (setLine h)))

theorem rtTouch (ha : a < 0x10000000) (h : Played s t) : Played s (rtTouch a t) := by
  unfold Machine.rtTouch rtZero
  refine ite ?_ h
  split
  · exact h
  · exact ite (detectLine ha h) (incSat (playReg_memLost _) (errRec (.inl rfl) (by decide) (setLine (detectLine ha h))))

/-! ### Tiles, read-out tiles and flux outputs -/

theorem modTile {g : Tile → Tile} (hg : tileShown (Machine.tileOf t b) (g (Machine.tileOf t b))) (h : Played s t) : Played s (modTile b g t) := by
  refine h.trans ⟨fun _ _ => rfl, rfl, fun c => ?_, fun _ => rdoShown_refl _, fun _ _ => fluxShown_refl _⟩
  by_cases hc : c = b
  · subst hc
    rwa [tileOf_modTile]
  · rw [tileOf_modTile_other hc]
    exact tileShown_refl _

theorem modRdo {g : Rdo → Rdo} (hg : rdoShown (Machine.rdoOf t b) (g (Machine.rdoOf t b))) (h : Played s t) : Played s (modRdo b g t) := by
  refine h.trans ⟨fun _ _ => rfl, rfl, fun _ => tileShown_refl _, fun c => ?_, fun _ _ => fluxShown_refl _⟩
  by_cases hc : c = b
  · subst hc
    rwa [rdoOf_modRdo]
  · rw [show rdoOf (Machine.modRdo b g t) c = rdoOf t c from smGet_smSet_other _ hc _ _]
    exact rdoShown_refl _

theorem setFlux {o : FOut} (ho : fluxShown (fluxOf t b k) o) (h : Played s t) : Played s (setFlux b k o t) := by
  refine h.trans ⟨fun _ _ => rfl, rfl, fun _ => tileShown_refl _, fun _ => rdoShown_refl _, fun c j => ?_⟩
  by_cases hc : 16 * c + j = 16 * b + k
  · rw [fluxOf, fluxOf, hc, Machine.setFlux, smGet_smSet_same]
    exact ho
  · rw [fluxOf, fluxOf, Machine.setFlux, smGet_smSet_other _ hc]
    exact fluxShown_refl _

/-! ### One fc of a tile -/

theorem setCodes {u : Nat} {l : List Int} (h : Played s t) : Played s (setCodes b u l t) := h.modTile rfl

theorem saturated {u irq : Nat} {cnt stat : Fld} (hb : b < 32) (hcnt : playReg (cnt.addr (tilePage b) u)) (hstat : playReg (stat.addr (tilePage b) u))
    (h : Played s t) : Played s (saturated b u irq cnt stat t) := by
  have hp := playPage_tile hb
  have hshown := irqBit (n := irq) hp (putF (v := 1) hstat (incSat hcnt h))
  unfold Machine.saturated
  exact ite hshown (errRec hp (by decide) (modTile (by rfl) hshown))

theorem envFetch {r : FetchRun} (hb : b < 32) (h : Played s t) : Played s (envFetch b r t) := by
  unfold Machine.envFetch
  refine modTile (by rfl) ?_
  unfold envUnit
  dsimp only
  split
  case isTrue hsrc =>
    refine rtTouch ?_ h
    simp only [envUnits] at hsrc
    simp only [aperture]
    split at hsrc <;> omega
  case isFalse => exact h

end Played

theorem playReg_dacCnt {d : Nat} (hb : b < 16) (hd : d < 2) : playReg (DRV.DAC_SAT_CNT.addr (tilePage b) d) := by
  refine .inr ⟨?_, ?_, .inr (.inr (.inl ⟨?_, d, hd, .inl ?_⟩))⟩ <;>
    simp only [pageOf, offOf, Fld.addr, tilePage, windowStride, DRV.DAC_SAT_CNT] <;> omega

theorem playReg_dacStat {d : Nat} (hb : b < 16) (hd : d < 2) : playReg (DRV.DAC_STAT_SAT.addr (tilePage b) d) := by
  refine .inr ⟨?_, ?_, .inr (.inr (.inl ⟨?_, d, hd, .inr ?_⟩))⟩ <;>
    simp only [pageOf, offOf, Fld.addr, tilePage, windowStride, DRV.DAC_STAT_SAT, DRV.DAC_STAT] <;> omega

theorem playReg_pdacCnt (hb : 16 ≤ b) (hb' : b < 24) : playReg (RDO.PDAC_SAT_CNT.addr (tilePage b) 0) := by
  refine .inr ⟨?_, ?_, .inr (.inr (.inr (.inl ⟨?_, ?_, .inl ?_⟩)))⟩ <;>
    simp only [pageOf, offOf, Fld.addr, tilePage, windowStride, RDO.PDAC_SAT_CNT] <;> omega

theorem playReg_pdacStat (hb : 16 ≤ b) (hb' : b < 24) : playReg (RDO.PDAC_STAT_SAT.addr (tilePage b) 0) := by
  refine .inr ⟨?_, ?_, .inr (.inr (.inr (.inl ⟨?_, ?_, .inr ?_⟩)))⟩ <;>
    simp only [pageOf, offOf, Fld.addr, tilePage, windowStride, RDO.PDAC_STAT_SAT, RDO.PDAC_STAT] <;> omega

theorem playReg_outCnt (hb : 24 ≤ b) (hb' : b < 32) (hk : k < 16) : playReg (FLX.OUT_SAT_CNT.addr (tilePage b) k) := by
  refine .inr ⟨?_, ?_, .inr (.inr (.inr (.inr ⟨?_, k, hk, .inl ?_⟩)))⟩ <;>
    simp only [pageOf, offOf, Fld.addr, tilePage, windowStride, FLX.OUT_SAT_CNT] <;> omega

theorem playReg_outStat (hb : 24 ≤ b) (hb' : b < 32) (hk : k < 16) : playReg (FLX.OUT_STAT_SAT.addr (tilePage b) k) := by
  refine .inr ⟨?_, ?_, .inr (.inr (.inr (.inr ⟨?_, k, hk, .inr ?_⟩)))⟩ <;>
    simp only [pageOf, offOf, Fld.addr, tilePage, windowStride, FLX.OUT_STAT_SAT, FLX.OUT_STAT] <;> omega

namespace Played

theorem dacCycle {d : Nat} (hd : (b < 16 ∧ d < 2) ∨ (16 ≤ b ∧ b < 24 ∧ d = 0)) (h : Played s t) : Played s (dacCycle b n d t) := by
  unfold Machine.dacCycle
  dsimp only
  refine ite h.setCodes (ite ?_ h.setCodes)
  obtain ⟨hb, hd⟩ | ⟨hlo, hhi, rfl⟩ := hd
  · rw [if_pos (show isDrv b = true from decide_eq_true hb)]
    exact saturated (by omega) (playReg_dacCnt hb hd) (playReg_dacStat hb hd) h.setCodes
  · rw [if_neg (by simp only [isDrv, decide_eq_true_eq]; omega)]
    exact saturated (by omega) (playReg_pdacCnt hlo hhi) (playReg_pdacStat hlo hhi) h.setCodes

theorem fluxCycle (hb : 24 ≤ b) (hb' : b < 32) (hk : k < 16) (h : Played s t) : Played s (fluxCycle b n k t) := by
  unfold Machine.fluxCycle
  dsimp only
  have hcodes {l : List Int} {o : FOut} (ho : fluxShown (fluxOf t b k) o) : Played s (Machine.setCodes b k l (Machine.setFlux b k o t)) :=
    (h.setFlux ho).setCodes
  exact ite (saturated hb' (playReg_outCnt hb hb' hk) (playReg_outStat hb hb' hk) (hcodes rfl)) (hcodes rfl)

end Played

/-- The baseband samples of a tile's tones, pushed one tone after the other, are beside what else the tile holds. -/
theorem tileShown_basePush (l : List Nat) (x : Tile) : tileShown x (l.foldl (fun x i => basePush n i x) x) := by
  induction l generalizing x with
  | nil => exact tileShown_refl x
  | cons i l ih => exact tileShown_trans (y := basePush n i x) rfl (ih _)

namespace Played

theorem toneCycle (hb : b < 24) (h : Played s t) : Played s (toneCycle b n t) := by
  unfold Machine.toneCycle
  refine forAll_induction_mem (P := Played s) (fun d hd u hu => dacCycle ?_ hu) (modTile (tileShown_basePush _ _) h)
  rw [List.mem_range] at hd
  by_cases hdrv : b < 16
  · rw [if_pos (show isDrv b = true from decide_eq_true hdrv)] at hd
    exact .inl ⟨hdrv, hd⟩
  · rw [if_neg (by simp only [isDrv, decide_eq_true_eq]; omega)] at hd
    exact .inr ⟨by omega, hb, by omega⟩

theorem tileCycle (hb : b < 32) (h : Played s t) : Played s (tileCycle b t) := by
  unfold Machine.tileCycle
  dsimp only
  refine ite (modTile (by rfl) ?_) h
  split
  case isTrue hflx =>
    obtain ⟨hlo, hhi⟩ : 24 ≤ b ∧ b < 32 := by simpa [isFlx] using hflx
    exact forAll_induction_mem (P := Played s) (fun k hk u hu => fluxCycle hlo hhi (List.mem_range.1 (List.mem_of_mem_filter hk)) hu) h
  case isFalse hflx =>
    have hb : b < 24 := by
      simp only [isFlx, Bool.and_eq_true, decide_eq_true_eq] at hflx
      omega
    exact ite h (toneCycle hb h)

theorem applyTaps {mt : Nat} {w : Win} (hb : b < 32) (h : Played s t) : Played s (applyTaps b mt w t) := by
  unfold Machine.applyTaps
  dsimp only
  refine ite h (modRdo (by rfl) (forAll_induction_mem (P := Played s) (fun a ha u hu => rtTouch ?_ hu) h))
  unfold tapLines at ha
  split at ha
  · exact absurd ha List.not_mem_nil
  · have hlt := of_decide_eq_true (List.mem_filter.1 ha).2
    simp only [aperture] at hlt
    omega

theorem adcCycle (h : Played s t) : Played s (adcCycle b t) := by
  unfold Machine.adcCycle
  split
  case isTrue hrdo =>
    have hb : b < 24 := by
      simp only [isRdo, Bool.and_eq_true, decide_eq_true_eq] at hrdo
      exact hrdo.2
    exact modTile (by rfl) (forAll_induction (fun e u hu => applyTaps (by omega) hu) _ h)
  case isFalse => exact h

theorem fetchDue (hb : b < 32) (h : Played s t) : Played s (fetchDue b t) := forAll_induction (fun _ _ hu => envFetch hb hu) _ h

end Played

theorem mem_usedTiles (h : b ∈ usedTiles s) : b < 32 := by
  have hp := (List.mem_filter.1 h).2
  unfold tilePresent at hp
  split at hp
  · exact of_decide_eq_true hp
  · simp only [Bool.or_eq_true, Bool.and_eq_true, decide_eq_true_eq] at hp
    omega

theorem played_playTiles : Played s (playTiles s) :=
  forAll_induction_mem (P := Played s) (fun _ hb _ hu => (hu.tileCycle (mem_usedTiles hb)).adcCycle) (.refl s)

theorem played_fetchTiles : Played s (fetchTiles s) :=
  forAll_induction_mem (P := Played s) (fun _ hb _ hu => hu.fetchDue (mem_usedTiles (List.mem_of_mem_filter hb))) (.refl s)

end Sys2Proof.Machine
end

section
/-!
PROOFS. The pattern pins in one fc (R465, R466, R476, R477).
-/
namespace Sys2Proof.Machine

variable {s t u : State} {n : Nat}

/-! ### The DRV codes of the pins, two bits each -/

/-- The code of a pin, the reserved one taken as Z. -/
def drvCode (w : Nat) : Nat := if w = 3 then 0 else w

theorem drvCode_lt {w : Nat} (h : w < 4) : drvCode w < 4 := by
  unfold drvCode
  split <;> omega

/-- The codes of the first `k` pins, pin `n` in bits 2n and 2n + 1. -/
def packed (f : Nat → Nat) (k : Nat) : Nat := (List.range k).foldl (fun m n => m + f n * 4 ^ n) 0

theorem packed_succ (f : Nat → Nat) (k : Nat) : packed f (k + 1) = packed f k + f k * 4 ^ k := by
  rw [packed, List.range_succ, List.foldl_append]
  rfl

theorem packed_lt {f : Nat → Nat} (hf : ∀ n, f n < 4) (k : Nat) : packed f k < 4 ^ k := by
  induction k with
  | zero => exact Nat.one_pos
  | succ k ih =>
    have hk : f k * 4 ^ k ≤ 3 * 4 ^ k := Nat.mul_le_mul_right _ (Nat.le_of_lt_succ (hf k))
    rw [packed_succ, Nat.pow_succ]
    omega

theorem packed_digit {f : Nat → Nat} (hf : ∀ n, f n < 4) {k : Nat} (hn : n < k) : packed f k / 4 ^ n % 4 = f n := by
  induction k with
  | zero => exact absurd hn (Nat.not_lt_zero _)
  | succ k ih =>
    rw [packed_succ]
    obtain hlt | rfl := Nat.lt_succ_iff_lt_or_eq.1 hn
    · obtain ⟨j, rfl⟩ : ∃ j, k = n + 1 + j := ⟨k - (n + 1), by omega⟩
      have hsplit : f (n + 1 + j) * 4 ^ (n + 1 + j) = 4 ^ n * (4 * (f (n + 1 + j) * 4 ^ j)) := by ring
      rw [hsplit, Nat.add_mul_div_left _ _ (by positivity), Nat.add_mul_mod_self_left, ih hlt]
    · rw [Nat.add_mul_div_right _ _ (by positivity), Nat.div_eq_of_lt (packed_lt hf n), Nat.zero_add, Nat.mod_eq_of_lt (hf n)]

theorem mwBits_packed {f : Nat → Nat} (hf : ∀ n, f n < 4) {k : Nat} (hn : n < k) : mwBits (packed f k) (2 * n) 2 = f n := by
  rw [mwBits, Nat.pow_mul]
  exact packed_digit hf hn

theorem mwBits_two_lt (w lo : Nat) : mwBits w lo 2 < 4 := Nat.mod_lt _ (by decide)

theorem drvOf_code {data : Nat} (hn : n < 32) : mwBits (drvOf data) (2 * n) 2 = drvCode (mwBits data (4 * n) 2) :=
  mwBits_packed (f := fun n => drvCode (mwBits data (4 * n) 2)) (fun _ => drvCode_lt (mwBits_two_lt _ _)) hn

/-- PIN_IDLE holds the idle codes of sixteen pins in each of its two words. -/
theorem mwBits_words {lo hi : Nat} (hlo : lo < 2 ^ 32) (hn : n < 32) :
    mwBits (lo + 2 ^ 32 * hi) (2 * n) 2 = mwBits (if n / 16 = 0 then lo else hi) (2 * (n % 16)) 2 := by
  rw [mwBits, mwBits]
  by_cases h16 : n < 16
  · obtain ⟨j, hj⟩ : ∃ j, 32 = 2 * n + 2 + j := ⟨32 - (2 * n + 2), by omega⟩
    have hsplit : 2 ^ 32 * hi = 2 ^ (2 * n) * (2 ^ 2 * (2 ^ j * hi)) := by
      rw [hj, Nat.pow_add, Nat.pow_add]
      ring
    rw [if_pos (by omega), Nat.mod_eq_of_lt h16, hsplit, Nat.add_mul_div_left _ _ (by positivity), Nat.add_mul_mod_self_left]
  · have hpow : 2 ^ (2 * n) = 2 ^ 32 * 2 ^ (2 * (n % 16)) := by rw [← Nat.pow_add]; congr 1; omega
    rw [if_neg (by omega), hpow, ← Nat.div_div_eq_div_mul, Nat.add_mul_div_left _ _ (by decide), Nat.div_eq_of_lt hlo, Nat.zero_add]

theorem idlePins_code (hn : n < 32) : mwBits (idlePins s) (2 * n) 2 = drvCode (mwBits (getB s pPat PAT.PIN_IDLE (n / 16)) (2 * (n % 16)) 2) := by
  have hpacked := mwBits_packed (f := fun n => drvCode (mwBits (getB s pPat PAT.PIN_IDLE 0 + 2 ^ 32 * getB s pPat PAT.PIN_IDLE 1) (2 * n) 2))
    (fun _ => drvCode_lt (mwBits_two_lt _ _)) hn
  have hword : (if n / 16 = 0 then getB s pPat PAT.PIN_IDLE 0 else getB s pPat PAT.PIN_IDLE 1) = getB s pPat PAT.PIN_IDLE (n / 16) := by
    split
    case isTrue h => rw [h]
    case isFalse h => rw [show n / 16 = 1 by omega]
  refine hpacked.trans ?_
  rw [mwBits_words (Fld.of_lt _ _) hn, hword]

/-! ### The pins in the fc at hand -/

/-- The vectors that are still to play or in their pin time; a frozen stream keeps them all. -/
def outsLeft (s : State) : List PatVec :=
  if s.pat.frozen.isSome then s.pat.outs else s.pat.outs.filter (fun v => decide (now s < v.pin + patPer s))

/-- The codes of the pins in the fc at hand. -/
def drvNow (s : State) : Nat :=
  if s.pat.frozen.isSome then idlePins s
  else ((((outsLeft s).filter (fun v => decide (v.pin ≤ now s))).getLast?).map (fun v => drvOf v.data)).getD (idlePins s)

theorem drvNow_vector {v : PatVec} (hf : s.pat.frozen = none)
    (hv : ((s.pat.outs.filter (fun v => decide (now s < v.pin + patPer s))).filter (fun v => decide (v.pin ≤ now s))).getLast? = some v) :
    drvNow s = drvOf v.data := by
  have hrun : ¬ s.pat.frozen.isSome = true := by simp [hf]
  rw [drvNow, outsLeft, if_neg hrun, if_neg hrun, hv, Option.map_some, Option.getD_some]

theorem drvNow_idle (h : s.pat.frozen.isSome = true ∨ ∀ v ∈ s.pat.outs, ¬ (v.pin ≤ now s ∧ now s < v.pin + patPer s)) : drvNow s = idlePins s := by
  unfold drvNow
  split
  case isTrue => rfl
  case isFalse hf =>
    have hnone : (outsLeft s).filter (fun v => decide (v.pin ≤ now s)) = [] := by
      rw [outsLeft, if_neg hf]
      refine List.filter_eq_nil_iff.2 fun v hv hpin => ?_
      obtain ⟨hmem, hper⟩ := List.mem_filter.1 hv
      exact h.resolve_left hf v hmem ⟨of_decide_eq_true hpin, of_decide_eq_true hper⟩
    rw [hnone, List.getLast?_nil, Option.map_none, Option.getD_none]

/-- When the codes of an fc reach the pins. -/
def pinTime (s : State) : Nat := 2000 * now s + 125 * getB s 1 CLK.SKEW_TRIM_TRIM

/-- The codes that the pins keep from before, and those of the fc. -/
def pinsDriven (s : State) : List (Nat × Nat) :=
  pinKeep (2000 * now s) (s.pat.pins.filter (fun e => decide (e.1 < pinTime s))) ++ [(pinTime s, drvNow s)]

/-- The pattern port as an fc leaves it. -/
def patDriven (s : State) : Pat := { s.pat with outs := outsLeft s, drv := drvNow s, pins := pinsDriven s }

theorem pinsDriven_last : (pinsDriven s).getLast? = some (pinTime s, drvNow s) := List.getLast?_concat

theorem drivePins_eq : drivePins s = { s with pat := patDriven s } := by
  unfold drivePins
  split
  case isTrue hf =>
    simp only [setPins, patDriven, pinsDriven, pinTime, outsLeft, drvNow, if_pos hf]
    rfl
  case isFalse hf =>
    simp only [setPins, patDriven, pinsDriven, pinTime, outsLeft, drvNow, if_neg hf]
    rfl

end Sys2Proof.Machine
end

section
/-!
PROOFS. An fc in which nothing beside tiles, converters and pattern pins has work: the steps of ports, of the Darner and of the result
rings change nothing (R237, R301, R306, R312, R337, R353, R472).
-/
namespace Sys2Proof.Machine

variable {s t u : State} {n b p : Nat}

theorem smGet_of_all {α : Type} {P : α → Prop} {d : α} {k : Nat} {m : SMap α} (hd : P d) (h : ∀ e ∈ m, P e.2) : P (smGet d k m) := by
  unfold smGet
  cases hf : smFind k m with
  | none => exact hd
  | some v => exact h _ (mem_of_smFind hf)

theorem forAll_fixed {α : Type} {l : List α} {g : α → State → State} (h : ∀ x ∈ l, g x s = s) : forAll l g s = s :=
  forAll_induction_mem (P := fun t => t = s) (fun x hx t ht => by rw [ht, h x hx]) rfl

/-- A port that sends nothing and has no end of a frame before it. -/
def portQuiet (x : Port) : Prop := x.tx.on = false ∧ x.tx.idleSent = false ∧ x.tx.burst = 0 ∧ x.peerIdleAt = none

/-- A device nothing of which has work beside tiles, converters and pattern pins. -/
structure Quiet (s : State) : Prop where
  ports : ∀ n, portQuiet (portOf s n)
  rounds : ∀ p, (patchOf s p).rounds = []
  clears : ∀ e ∈ s.patches, e.2.clrAt = none
  fresh : ∀ b, (rdoOf s b).fresh = []
  jreg : s.pat.jreg = []
  ready : slotReady s = false
  slotAt : s.cst.slotAt = none

theorem quiet_of_lanesQuiet (h : lanesQuiet s = true) : Quiet s := by
  simp only [lanesQuiet, Bool.and_eq_true, List.all_eq_true, Bool.not_eq_true', decide_eq_true_eq, Option.isNone_iff_eq_none,
    List.isEmpty_iff] at h
  obtain ⟨⟨⟨⟨⟨hports, hpatches⟩, hfresh⟩, hjreg⟩, hready⟩, hslot⟩ := h
  exact {
    ports := fun n => smGet_of_all (P := portQuiet) ⟨rfl, rfl, rfl, rfl⟩ fun e he =>
      ⟨(hports e he).1.1.1, (hports e he).1.1.2, (hports e he).1.2, (hports e he).2⟩
    rounds := fun p => smGet_of_all (P := fun x : Patch => x.rounds = []) rfl fun e he => (hpatches e he).1
    clears := fun e he => (hpatches e he).2
    fresh := fun b => smGet_of_all (P := fun x : Rdo => x.fresh = []) rfl fun e he => hfresh e he
    jreg := hjreg, ready := hready, slotAt := hslot }

/-! ### The conditions of R353 -/

/-- The registers below the tiles' pages but for the Memory Integrity page's, and those of the pages above, stay. -/
theorem not_playReg {a : Nat} (h : pageOf a ≠ 6 ∧ (pageOf a < 0x10 ∨ 0x30 ≤ pageOf a)) : ¬ playReg a := by
  rintro (⟨hp, -⟩ | ⟨hlo, hhi, -⟩)
  · exact h.1 hp
  · omega

theorem slotReady_congr (hports : t.ports = s.ports) (hregs : ∀ a, ¬ playReg a → rdWord t a = rdWord s a) : slotReady t = slotReady s := by
  have hfld {f : Fld} {p i : Nat} (h : pageOf (f.addr p i) ≠ 6 ∧ (pageOf (f.addr p i) < 0x10 ∨ 0x30 ≤ pageOf (f.addr p i))) :
      getF t p f i = getF s p f i := congrArg f.of (hregs _ (not_playReg h))
  have hport : timePort t = timePort s := hfld (by decide)
  have hlt : timePort s < 8 := getF_lt s 0x38 CST.TIME_STAT_PORT 0
  have hlink {f : Fld} (hf : f.off < 0x1000) : getF t (jdxPage (timePort s)) f = getF s (jdxPage (timePort s)) f := by
    refine hfld ?_
    simp only [pageOf, Fld.addr, jdxPage, windowStride]
    omega
  have hstate : portState t (timePort s) = portState s (timePort s) := hlink (by decide)
  unfold slotReady
  dsimp only
  rw [hport, portOf_of_ports hports, hstate, isSet, isSet, isSet, isSet, hfld (by decide), hfld (by decide), hlink (by decide)]

namespace Quiet

/-- An fc of the tiles leaves the rest quiet. -/
theorem played (h : Quiet s) (hp : Played s t) : Quiet t := by
  have ht := hp.typed
  have hports : t.ports = s.ports := by rw [ht]
  have hpatches : t.patches = s.patches := by rw [ht]
  have hpat : t.pat = s.pat := by rw [ht]
  have hcst : t.cst = s.cst := by rw [ht]
  exact {
    ports := fun n => by rw [portOf_of_ports hports]; exact h.ports n
    rounds := fun p => by rw [patchOf, hpatches]; exact h.rounds p
    clears := by rw [hpatches]; exact h.clears
    fresh := fun b => by rw [hp.rdo b]; exact h.fresh b
    jreg := by rw [hpat]; exact h.jreg
    ready := (slotReady_congr hports hp.regs).trans h.ready
    slotAt := by rw [hcst]; exact h.slotAt }

theorem patDriven (h : Quiet s) : Quiet { s with pat := patDriven s } :=
  { ports := h.ports, rounds := h.rounds, clears := h.clears, fresh := h.fresh, jreg := h.jreg, ready := h.ready, slotAt := h.slotAt }

theorem clock {x : Time} (h : Quiet s) : Quiet { s with time := x } :=
  { ports := h.ports, rounds := h.rounds, clears := h.clears, fresh := h.fresh, jreg := h.jreg, ready := h.ready, slotAt := h.slotAt }

/-! ### What has no work changes nothing -/

theorem darnerCycle (h : Quiet s) : darnerCycle s = s := by
  refine forAll_fixed fun p _ => ?_
  rw [readDue, h.rounds p]
  rfl

theorem portCycles (h : Quiet s) : portCycles s = s := by
  refine forAll_fixed fun n _ => ?_
  rw [portCycle]
  exact if_pos (by simp [(h.ports n).1])

theorem slotWatch (h : Quiet s) : slotWatch s = s := by
  have hsame : { s.cst with slotAt := none } = s.cst := by rw [← h.slotAt]
  rw [Machine.slotWatch, if_neg (by rw [h.ready]; decide), hsame]

theorem frameEnds (h : Quiet s) (n : Nat) : frameEnds n s = s := by
  obtain ⟨-, hsent, hburst, -⟩ := h.ports n
  unfold Machine.frameEnds
  dsimp only
  rw [hsent, hburst]
  simp

theorem peerIdles (h : Quiet s) (n : Nat) : peerIdles n s = s := by
  rw [Machine.peerIdles, (h.ports n).2.2.2]

theorem portEnds (h : Quiet s) : portEnds s = s := by
  refine forAll_fixed fun n _ => ?_
  rw [h.frameEnds, h.peerIdles]

theorem darnerClears (h : Quiet s) : darnerClears s = s := by
  have hnone : s.patches.filter (fun e => (e.2.clrAt.map (fun f => decide (f ≤ now s))).getD false) = [] := by
    refine List.filter_eq_nil_iff.2 fun e he => ?_
    rw [h.clears e he, Option.map_none]
    decide
  rw [Machine.darnerClears, hnone]
  rfl

theorem ringCount (h : Quiet s) (b : Nat) : ringCount b s = s := by
  rw [Machine.ringCount]
  simp only [h.fresh b]
  rfl

theorem registerJumps (h : Quiet s) : registerJumps s = s := by
  rw [Machine.registerJumps, h.jreg]
  rfl

end Quiet

/-- A quiet fc of the fabric: the tiles fetch, play and drive, the pins follow, and TIME counts. -/
theorem fabricCycle_quiet (h : Quiet s) :
    fabricCycle s = fetchTiles { drivePins (playTiles (fetchTiles s)) with time := (drivePins (playTiles (fetchTiles s))).time + 1 } := by
  have hdrive : Quiet (drivePins (playTiles (fetchTiles s))) := by
    rw [drivePins_eq]
    exact ((h.played played_fetchTiles).played played_playTiles).patDriven
  rw [fabricCycle, hdrive.darnerCycle, hdrive.portCycles, hdrive.slotWatch]
  dsimp only
  have hclock : Quiet { drivePins (playTiles (fetchTiles s)) with time := (drivePins (playTiles (fetchTiles s))).time + 1 } := hdrive.clock
  rw [hclock.portEnds, (hclock.played played_fetchTiles).darnerClears]
  exact forAll_fixed fun b _ => (hclock.played played_fetchTiles).ringCount b

end Sys2Proof.Machine
end

section
/-!
PROOFS. An fc with lock or in a holdover, in which nothing but tiles, converters and pattern pins has work.
-/
namespace Sys2Proof.Machine

variable {s t u : State} {n b p : Nat} {f : Fld} {i : Nat}

/-! ### What an fc of the tiles leaves -/

namespace Played

theorem getF (h : Played s t) (hf : ¬ playReg (f.addr p i)) : getF t p f i = getF s p f i := congrArg f.of (h.regs _ hf)

theorem isSet (h : Played s t) (hf : ¬ playReg (f.addr p i)) : isSet t p f i = isSet s p f i := by rw [Machine.isSet, h.getF hf, Machine.isSet]

theorem held (h : Played s t) : t.held = s.held := by
  have ht := h.typed
  rw [ht]

theorem getB (h : Played s t) (hf : ¬ playReg (f.addr p i)) : getB t p f i = getB s p f i := by
  rw [Machine.getB, inForce, h.held, h.regs _ hf, Machine.getB, inForce]

theorem time (h : Played s t) : t.time = s.time := by
  have ht := h.typed
  rw [ht]

theorem pat (h : Played s t) : t.pat = s.pat := by
  have ht := h.typed
  rw [ht]

theorem now (h : Played s t) : now t = now s := congrArg BitVec.toNat h.time

end Played

/-! ### The fc that is played -/

/-- The state at the fc that FCLK has come to. -/
def atFc (s : State) : State := { s with time := fcNow s }

/-- What the tiles have played in that fc. -/
def fcPlayed (s : State) : State := playTiles (fetchTiles (atFc s))

/-- The next fc, with the pattern pins driven. -/
def fcDriven (s : State) : State := { fcPlayed s with pat := patDriven (fcPlayed s), time := (fcPlayed s).time + 1 }

/-- TIME after an fc: it stands in a holdover. -/
def timeNext (s : State) : Time := if isSet s 1 CLK.PLL_STAT_LOCK then s.time + 1 else s.time

/-- The state with the fc over, but for the model's own clocks. -/
def fcOver (s : State) : State := { fetchTiles (fcDriven s) with time := timeNext s }

theorem played_fcPlayed : Played (atFc s) (fcPlayed s) := played_fetchTiles.trans played_playTiles

theorem played_fcOver : Played (fcDriven s) (fetchTiles (fcDriven s)) := played_fetchTiles

theorem fabricCycle_atFc (h : Quiet s) : fabricCycle (atFc s) = fetchTiles (fcDriven s) := by
  have hq : Quiet (atFc s) := h.clock
  rw [fabricCycle_quiet hq, drivePins_eq]
  rfl

theorem Quiet.ownClock (h : Quiet s) : Quiet (ownClock s) :=
  { ports := h.ports, rounds := h.rounds, clears := h.clears, fresh := h.fresh, jreg := h.jreg, ready := h.ready, slotAt := h.slotAt }

theorem quiet_fcOver (h : Quiet s) : Quiet (fcOver s) := by
  have hplayed : Quiet (fcPlayed s) := Quiet.played h.clock played_fcPlayed
  exact (hplayed.patDriven.clock.played played_fcOver).clock

theorem tick_quiet (h : isSet s 1 CLK.PLL_STAT_LOCK = true ∨ s.pll.holdover = true) (hq : Quiet s) : tick s = ownClock (fcOver s) := by
  by_cases hlock : isSet s 1 CLK.PLL_STAT_LOCK = true
  case pos =>
    have hfc : fcNow s = s.time := if_pos hlock
    have hat : atFc s = s := by rw [atFc, hfc]
    have hnext : timeNext s = s.time + 1 := if_pos hlock
    have htime : (fetchTiles (fcDriven s)).time = s.time + 1 := by
      have hp := (played_fcPlayed (s := s)).time
      rw [hat] at hp
      rw [played_fcOver.time]
      exact congrArg (· + 1) hp
    have hcycle := fabricCycle_atFc hq
    rw [hat] at hcycle
    have hover : fabricCycle s = fcOver s := by rw [hcycle, fcOver, hnext, ← htime]
    rw [tick, if_pos hlock, hover, (quiet_fcOver hq).ownClock.registerJumps]
  case neg =>
    have hnext : timeNext s = s.time := if_neg hlock
    have hcycle : holdCycle s = fcOver s := by
      rw [holdCycle, fcOver, hnext, ← fabricCycle_atFc hq]
      rfl
    rw [tick, if_neg hlock, if_pos (h.resolve_left hlock), hcycle]

/-! ### What it leaves -/

theorem playTyped_twice {v w : State} {x y z : Time} {q : Pat} (h : playTyped { s with time := x } t)
    (h' : playTyped { t with pat := q, time := y } v) (hw : w = { v with time := z }) :
    w = { s with time := w.time, pat := w.pat, regs := w.regs, errs := w.errs, msix := w.msix, tiles := w.tiles, rdos := w.rdos, flux := w.flux,
                 lines := w.lines, lastBytes := w.lastBytes, lastAbort := w.lastAbort } := by
  unfold playTyped at h h'
  rw [hw, h', h]

theorem fcDriven_eq : fcDriven s = { fcPlayed s with pat := patDriven (fcPlayed s), time := (fcPlayed s).time + 1 } := rfl

theorem fcOver_eq : fcOver s = { s with time := (fcOver s).time, pat := (fcOver s).pat, regs := (fcOver s).regs, errs := (fcOver s).errs,
                                        msix := (fcOver s).msix, tiles := (fcOver s).tiles, rdos := (fcOver s).rdos,
                                        flux := (fcOver s).flux, lines := (fcOver s).lines, lastBytes := (fcOver s).lastBytes,
                                        lastAbort := (fcOver s).lastAbort } := by
  have hplayed : playTyped { s with time := fcNow s } (fcPlayed s) := played_fcPlayed.typed
  have hover := (played_fcOver (s := s)).typed
  have hw : fcOver s = { fetchTiles (fcDriven s) with time := timeNext s } := rfl
  rw [fcDriven_eq] at hover hw
  generalize fcOver s = w at hw ⊢
  exact playTyped_twice hplayed hover hw

theorem ownClock_eq : ownClock s = { s with up := (ownClock s).up, mck := (ownClock s).mck, bias := (ownClock s).bias } := rfl

theorem fcOver_pat : (fcOver s).pat = patDriven (fcPlayed s) := played_fcOver.pat

/-- Registers beside those that tiles write. -/
theorem fcOver_word {a : Nat} (ha : ¬ playReg a) : rdWord (fcOver s) a = rdWord s a :=
  (played_fcOver.regs a ha).trans (played_fcPlayed.regs a ha)

theorem fcOver_tile (b : Nat) : tileShown (tileOf s b) (tileOf (fcOver s) b) := tileShown_trans (played_fcPlayed.tile b) (played_fcOver.tile b)

theorem fcOver_rdo (b : Nat) : rdoShown (rdoOf s b) (rdoOf (fcOver s) b) := rdoShown_trans (played_fcPlayed.rdo b) (played_fcOver.rdo b)

theorem fcOver_flux (b k : Nat) : fluxShown (fluxOf s b k) (fluxOf (fcOver s) b k) :=
  fluxShown_trans (played_fcPlayed.flux b k) (played_fcOver.flux b k)

/-! ### The pattern pins -/

theorem now_fcPlayed : now (fcPlayed s) = (fcNow s).toNat := played_fcPlayed.now

theorem patPer_fcPlayed : patPer (fcPlayed s) = patPer s := congrArg (· + 1) (played_fcPlayed.getF (not_playReg (by decide)))

theorem pat_fcPlayed : (fcPlayed s).pat = s.pat := played_fcPlayed.pat

theorem pinTime_fcPlayed : pinTime (fcPlayed s) = 2000 * (fcNow s).toNat + 125 * getB s 1 CLK.SKEW_TRIM_TRIM := by
  rw [pinTime, now_fcPlayed, played_fcPlayed.getB (not_playReg (by decide))]
  rfl

theorem idle_fcPlayed (hn : n < 32) : getB (fcPlayed s) pPat PAT.PIN_IDLE (n / 16) = getB s pPat PAT.PIN_IDLE (n / 16) := by
  refine played_fcPlayed.getB (not_playReg ?_)
  simp only [pageOf, Fld.addr, pPat, PAT.PIN_IDLE, windowStride]
  omega

theorem drv_vector (hn : n < 32) (hf : s.pat.frozen = none) {v : PatVec}
    (hv : ((s.pat.outs.filter (fun v => decide ((fcNow s).toNat < v.pin + patPer s))).filter
      (fun v => decide (v.pin ≤ (fcNow s).toNat))).getLast? = some v) :
    mwBits (drvNow (fcPlayed s)) (2 * n) 2 = if mwBits v.data (4 * n) 2 = 3 then 0 else mwBits v.data (4 * n) 2 := by
  have hdrv : drvNow (fcPlayed s) = drvOf v.data := by
    refine drvNow_vector ?_ ?_
    · rw [pat_fcPlayed]
      exact hf
    · rw [now_fcPlayed, patPer_fcPlayed, pat_fcPlayed]
      exact hv
  rw [hdrv]
  exact drvOf_code hn

theorem drv_idle (hn : n < 32) (h : s.pat.frozen.isSome = true
    ∨ ∀ v ∈ s.pat.outs, ¬ (v.pin ≤ (fcNow s).toNat ∧ (fcNow s).toNat < v.pin + patPer s)) :
    mwBits (drvNow (fcPlayed s)) (2 * n) 2 = drvCode (mwBits (getB s pPat PAT.PIN_IDLE (n / 16)) (2 * (n % 16)) 2) := by
  rw [drvNow_idle (by rw [now_fcPlayed, patPer_fcPlayed, pat_fcPlayed]; exact h), idlePins_code hn, idle_fcPlayed hn]

/-! ### No tile at work -/

theorem fetchTiles_idle (h : ∀ b < 32, tilePlays s b = false) : fetchTiles s = s := by
  have hnone : (usedTiles s).filter (tilePlays s) = [] := List.filter_eq_nil_iff.2 fun b hb => by simp [h b (mem_usedTiles hb)]
  rw [fetchTiles, hnone]
  rfl

theorem playTiles_idle (h : ∀ b < 32, tilePlays s b = false) (hrdo : ∀ b ∈ usedTiles s, isRdo b = false) : playTiles s = s := by
  refine forAll_fixed fun b hb => ?_
  have htile : tileCycle b s = s := by
    rw [tileCycle]
    exact if_neg (by simp [h b (mem_usedTiles hb)])
  rw [htile, adcCycle, if_neg (by simp [hrdo b hb])]

theorem fcOver_idle (h : ∀ b < 32, tilePlays s b = false) (hrdo : ∀ b ∈ usedTiles s, isRdo b = false) :
    fcOver s = { s with time := (fcOver s).time, pat := (fcOver s).pat } := by
  have hplayed : fcPlayed s = atFc s := by rw [fcPlayed, fetchTiles_idle (s := atFc s) h, playTiles_idle (s := atFc s) h hrdo]
  have hfetched : fetchTiles (fcDriven s) = fcDriven s := by
    refine fetchTiles_idle ?_
    rw [fcDriven, hplayed]
    exact h
  rw [fcOver, hfetched, fcDriven, hplayed]
  rfl

/-- An fc with lock or in a holdover, in which nothing but tiles, converters and pattern pins has work. -/
theorem idleFc (hpend : s.pending = []) (h : isSet s 1 CLK.PLL_STAT_LOCK = true ∨ s.pll.holdover = true) (hq : lanesQuiet s = true) :
    step s = .next (ownClock (fcOver s)) := by
  rw [step, hpend]
  exact congrArg Host.Outcome.next (tick_quiet h (quiet_of_lanesQuiet hq))

end Sys2Proof.Machine
end

section
/-!
PROOFS. The clocks in an fc, whatever has work in it: what ports, the Darner, the result rings and the pattern port do leaves TIME, the
model's own clock, the management clock and PLL_STAT as they stood (R49, R52, R63).
-/
namespace Sys2Proof.Machine

variable {s0 s t u : State} {n b p v i a : Nat} {f : Fld}

/-- The clocks, and the register that says whether the management clock is on the backup. -/
structure ClockKept (s t : State) : Prop where
  time : t.time = s.time
  up : t.up = s.up
  mck : t.mck = s.mck
  word : rdWord t (CLK.PLL_STAT_BACKUP.addr 1 0) = rdWord s (CLK.PLL_STAT_BACKUP.addr 1 0)

namespace ClockKept

theorem refl (s : State) : ClockKept s s := ⟨rfl, rfl, rfl, rfl⟩

theorem trans (h : ClockKept s t) (h' : ClockKept t u) : ClockKept s u :=
  ⟨h'.time.trans h.time, h'.up.trans h.up, h'.mck.trans h.mck, h'.word.trans h.word⟩

theorem ite {c : Prop} [Decidable c] {x y : State} (hx : ClockKept s x) (hy : ClockKept s y) : ClockKept s (if c then x else y) := by
  split <;> assumption

theorem forAll {α : Type} {l : List α} {g : α → State → State} (hg : ∀ x t, ClockKept s0 t → ClockKept s0 (g x t)) (h : ClockKept s0 s) :
    ClockKept s0 (forAll l g s) := forAll_induction hg l h

theorem of_typedSame (h : typedSame s t) (hw : rdWord t (CLK.PLL_STAT_BACKUP.addr 1 0) = rdWord s (CLK.PLL_STAT_BACKUP.addr 1 0)) :
    ClockKept s t := by
  unfold typedSame at h
  exact ⟨by rw [h], by rw [h], by rw [h], hw⟩

theorem of_boundary (h : BoundaryOnly s t) : ClockKept s t := by
  have ht := h.typed
  have hw : ¬ boundaryReg (CLK.PLL_STAT_BACKUP.addr 1 0) := by unfold boundaryReg lineReg; decide
  unfold boundaryTyped at ht
  exact ⟨by rw [ht], by rw [ht], by rw [ht], h.regs _ hw⟩

theorem of_played (h : Played s t) : ClockKept s t := by
  have ht := h.typed
  unfold playTyped at ht
  exact ⟨by rw [ht], by rw [ht], by rw [ht], h.regs _ (not_playReg (by decide))⟩

/-- A register of the third page or beyond is not PLL_STAT. -/
theorem backup_ne (hp : 2 ≤ p) : CLK.PLL_STAT_BACKUP.addr 1 0 ≠ f.addr p i := by
  simp only [Fld.addr, CLK.PLL_STAT_BACKUP]
  omega

theorem putF (hp : 2 ≤ p) (h : ClockKept s t) : ClockKept s (putF p f v i t) :=
  h.trans ⟨rfl, rfl, rfl, rdWord_wrWord_other (backup_ne hp) _ _⟩

theorem incSat (hp : 2 ≤ p) (h : ClockKept s t) : ClockKept s (incSat p f i t) := h.putF hp

theorem irqBit (hp : 2 ≤ p) (h : ClockKept s t) : ClockKept s (irqBit p n t) :=
  h.trans (of_typedSame (typedSame_irqBit (typedSame_refl t)) (rdWord_irqSet _ _ _ _ (backup_ne hp)))

theorem errRec {code sev unit info addr : Nat} (hp : 2 ≤ p) (h : ClockKept s t) : ClockKept s (errRec p code sev unit info addr t) :=
  h.trans (of_typedSame (typedSame_errRec (typedSame_refl t))
    (rdWord_errRec _ _ _ _ _ _ _ _ (backup_ne hp) (backup_ne hp) (backup_ne (by decide))))

theorem noteWas {who : Option Requester} (h : ClockKept s t) : ClockKept s (noteWas who a t) := by
  rw [noteWas_eq]
  exact h.trans ⟨rfl, rfl, rfl, rfl⟩

theorem urge {x : Urgent} (h : ClockKept s t) : ClockKept s (urge x t) := ite h (h.trans ⟨rfl, rfl, rfl, rfl⟩)

theorem modPort {g : Port → Port} (h : ClockKept s t) : ClockKept s (modPort n g t) := h.trans ⟨rfl, rfl, rfl, rfl⟩

end ClockKept

theorem two_le_jdxPage : 2 ≤ jdxPage n := by
  simp only [jdxPage]
  omega

theorem two_le_tilePage : 2 ≤ tilePage b := by
  simp only [tilePage]
  omega

namespace ClockKept

/-! ### Ports -/

theorem setPortState {st : Nat} (h : ClockKept s t) : ClockKept s (setPortState n st t) := (h.noteWas.putF two_le_jdxPage).putF two_le_jdxPage

theorem agreeDone (h : ClockKept s t) : ClockKept s (agreeDone n t) := by
  obtain heq | ⟨fb, heq⟩ := agreeDone_cases n t
  · rwa [heq]
  · rw [heq]
    exact h.modPort.setPortState.putF two_le_jdxPage

theorem trainSent (h : ClockKept s t) : ClockKept s (trainSent n t) := ite h.modPort.agreeDone h

/-- A block with the port changed as it leaves. -/
theorem block {x : Nat} {g : Port → Port} (h : ClockKept s t) : ClockKept s (x, Machine.modPort n g t).2 := h.modPort

theorem fragment {c : Nat × Bool × List Byte} (h : ClockKept s t) : ClockKept s (fragment n c t).2 := by
  unfold Machine.fragment
  exact h.block

theorem waitingBlk (h : ClockKept s t) : ClockKept s (waitingBlk n t).2 := by
  unfold Machine.waitingBlk
  dsimp only
  split
  · exact h.block
  split
  · exact h.block
  split
  · unfold mgmtBlk
    dsimp only
    split
    · exact h.fragment
    · split
      · exact h.modPort.fragment
      · exact h
    · exact h
  · exact h

theorem positionBlk (h : ClockKept s t) : ClockKept s (positionBlk n b t).2 := by
  unfold Machine.positionBlk
  dsimp only
  split
  · exact h
  split
  · exact h.block
  · exact h.waitingBlk

theorem decisionBlk {d : Nat} (h : ClockKept s t) : ClockKept s (decisionBlk n d t).2 := by
  unfold Machine.decisionBlk
  exact h.block

theorem framedBlks (h : ClockKept s t) : ClockKept s (framedBlks n b t).2 := by
  unfold Machine.framedBlks
  split
  · exact h
  split
  · exact h.positionBlk
  dsimp only
  split
  · exact h.decisionBlk.decisionBlk
  · exact h.decisionBlk.positionBlk

/-- A control block on either lane. -/
theorem both {x y : Nat} (h : ClockKept s t) : ClockKept s (onBoth x y t).2 := h

theorem periodBlks (h : ClockKept s t) : ClockKept s (periodBlks n b t).2 := by
  unfold Machine.periodBlks
  dsimp only
  split
  · exact h.both
  split
  · split
    · exact h.modPort.both
    split
    · exact h.modPort.both
    · exact h
  split
  · exact h.framedBlks
  · exact h.trainSent.both

theorem portCycle (h : ClockKept s t) : ClockKept s (portCycle n t) := by
  unfold Machine.portCycle
  exact ite h (modPort (periodBlks h.modPort))

theorem losePort {began lock : Bool} (h : ClockKept s t) : ClockKept s (losePort n began lock t) := h.trans (of_boundary losePort_boundary)

theorem frameEnds (h : ClockKept s t) : ClockKept s (frameEnds n t) := by
  unfold Machine.frameEnds
  dsimp only
  split
  · exact h
  split
  · exact urge (setPortState h.modPort)
  split
  · exact urge (irqBit two_le_jdxPage (setPortState h.modPort))
  · exact h

theorem peerIdles (h : ClockKept s t) : ClockKept s (peerIdles n t) := by
  unfold Machine.peerIdles
  split
  · exact h
  · exact ite h (urge (losePort (putF two_le_jdxPage h.modPort)))

theorem slotWatch (h : ClockKept s t) : ClockKept s (slotWatch t) := by
  have hd := h.putF (p := 0x38) (f := CST.TSRC_DLY_D) (v := ofSigned 16 (timeDelay t)) (i := 0) (by decide)
  exact ite (ite hd (hd.trans ⟨rfl, rfl, rfl, rfl⟩)) (h.trans ⟨rfl, rfl, rfl, rfl⟩)

/-! ### The Darner, the result rings and the pattern port -/

theorem readTables {r : Round} (h : ClockKept s t) : ClockKept s (readTables p r t).2 :=
  forAll (fun _ _ hu => errRec (by decide) (irqBit (by decide) (hu.trans (of_boundary (BoundaryOnly.detectLine (.refl _)))))) h

theorem readDue (h : ClockKept s t) : ClockKept s (readDue p t) :=
  forAll (fun _ _ hu => hu.readTables.trans ⟨rfl, rfl, rfl, rfl⟩) h

theorem clearPatch (h : ClockKept s t) : ClockKept s (clearPatch p t) :=
  putF (by decide) (h.trans (of_boundary (BoundaryOnly.setPatch (.refl _))))

theorem ringStep (h : ClockKept s t) : ClockKept s (ringStep b t) := by
  have hfill : ClockKept s (showFill b (incWrap (tilePage b) RDO.RES_WP 0 t)) :=
    ((h.putF two_le_tilePage).putF two_le_tilePage).putF two_le_tilePage
  exact ite (hfill.irqBit two_le_tilePage) hfill

theorem ringCount (h : ClockKept s t) : ClockKept s (ringCount b t) :=
  forAll (fun _ _ hu => hu.ringStep) (ite h (h.trans ⟨rfl, rfl, rfl, rfl⟩))

theorem jumpReq {k src fc : Nat} (h : ClockKept s t) : ClockKept s (jumpReq k src fc t) := by
  have hset {j : Option (Nat × Nat)} {x : State} (hx : ClockKept s x) : ClockKept s (setJump j src x) :=
    putF (by decide) (hx.trans ⟨rfl, rfl, rfl, rfl⟩)
  unfold Machine.jumpReq
  split
  · exact h
  split
  · exact errRec (by decide) (irqBit (by decide) (incSat (by decide) h))
  split
  · exact hset h
  · exact ite (incSat (by decide) h) (hset (incSat (by decide) h))

theorem registerJumps (h : ClockKept s t) : ClockKept s (registerJumps t) :=
  ite h (forAll (fun _ _ hu => hu.jumpReq) (h.trans ⟨rfl, rfl, rfl, rfl⟩))

theorem drivePins (h : ClockKept s t) : ClockKept s (drivePins t) := by
  rw [drivePins_eq]
  exact h.trans ⟨rfl, rfl, rfl, rfl⟩

theorem fetchTiles (h : ClockKept s t) : ClockKept s (fetchTiles t) := h.trans (of_played played_fetchTiles)

end ClockKept

/-! ### An fc of the fabric -/

/-- What the fabric does in an fc before TIME counts. -/
def fcBegun (s : State) : State := slotWatch (portCycles (darnerCycle (drivePins (playTiles (fetchTiles s)))))

theorem clockKept_fcBegun : ClockKept s (fcBegun s) := by
  have hplayed : ClockKept s (playTiles (fetchTiles s)) := .of_played (played_fetchTiles.trans played_playTiles)
  exact .slotWatch (.forAll (fun _ _ hu => hu.portCycle) (.forAll (fun _ _ hu => hu.readDue) hplayed.drivePins))

theorem clockKept_fabricCycle : ClockKept { s with time := s.time + 1 } (fabricCycle s) := by
  have hbegun : ClockKept { s with time := s.time + 1 } { fcBegun s with time := (fcBegun s).time + 1 } :=
    ⟨congrArg (· + 1) clockKept_fcBegun.time, clockKept_fcBegun.up, clockKept_fcBegun.mck, clockKept_fcBegun.word⟩
  have hports : ClockKept { s with time := s.time + 1 } (portEnds { fcBegun s with time := (fcBegun s).time + 1 }) :=
    .forAll (fun _ _ hu => hu.frameEnds.peerIdles) hbegun
  exact .forAll (fun _ _ hu => hu.ringCount) (.forAll (fun _ _ hu => hu.clearPatch) hports.fetchTiles)

theorem clockKept_holdCycle : ClockKept s (holdCycle s) := by
  have hfabric := clockKept_fabricCycle (s := atFc s)
  have hcycle : holdCycle s = { fabricCycle (atFc s) with time := s.time } := rfl
  rw [hcycle]
  generalize fabricCycle (atFc s) = t at hfabric
  exact ⟨rfl, hfabric.up, hfabric.mck, hfabric.word⟩

theorem isSet_backup (h : ClockKept s t) : isSet t 1 CLK.PLL_STAT_BACKUP = isSet s 1 CLK.PLL_STAT_BACKUP := by
  rw [isSet, isSet, getF, getF, h.word]

theorem mckStep_kept (h : ClockKept s t) : mckStep t = mckStep s := by rw [mckStep, isSet_backup h, mckStep]

/-- The clocks after an fc of the fabric, of which the model's own and the management clock count. -/
theorem ownClock_counts (h : ClockKept s t) : (ownClock t).time = s.time ∧ (ownClock t).up = s.up + 1 ∧ (ownClock t).mck = s.mck + mckStep s := by
  refine ⟨h.time, congrArg (· + 1) h.up, ?_⟩
  rw [← mckStep_kept h, ← h.mck]
  rfl

theorem mckStep_time {x : Time} : mckStep { s with time := x } = mckStep s := rfl

/-- One fc: TIME counts with lock, the model's own clock and the management clock in every one. -/
theorem tick_counts : (tick s).up = s.up + 1 ∧ (tick s).mck = s.mck + mckStep s
    ∧ (tick s).time = if isSet s 1 CLK.PLL_STAT_LOCK then s.time + 1 else s.time := by
  by_cases hlock : isSet s 1 CLK.PLL_STAT_LOCK = true
  case pos =>
    have htick : tick s = registerJumps (ownClock (fabricCycle s)) := if_pos hlock
    have hjumps := ClockKept.registerJumps (.refl (ownClock (fabricCycle s)))
    obtain ⟨htime, hup, hmck⟩ := ownClock_counts (clockKept_fabricCycle (s := s))
    rw [mckStep_time] at hmck
    rw [htick, if_pos hlock]
    exact ⟨hjumps.up.trans hup, hjumps.mck.trans hmck, hjumps.time.trans htime⟩
  case neg =>
    rw [if_neg hlock]
    by_cases hhold : s.pll.holdover = true
    case pos =>
      have htick : tick s = ownClock (holdCycle s) := (if_neg hlock).trans (if_pos hhold)
      obtain ⟨htime, hup, hmck⟩ := ownClock_counts (clockKept_holdCycle (s := s))
      rw [htick]
      exact ⟨hup, hmck, htime⟩
    case neg =>
      have htick : tick s = ownClock s := (if_neg hlock).trans (if_neg hhold)
      rw [htick]
      exact ⟨rfl, rfl, rfl⟩

end Sys2Proof.Machine
end

section
/-!
PROOFS. A step with no command (R49, R52, R53, R62 to R64).
-/
namespace Sys2Proof.Machine

variable {s t : State} {n : Nat}

theorem step_tick (hpend : s.pending = []) : step s = .next (tick s) := by rw [step, hpend]

/-- Without lock and outside a holdover only the model's own clocks go on. -/
theorem idle_stopped (hpend : s.pending = []) (hlock : isSet s 1 CLK.PLL_STAT_LOCK = false) (hhold : s.pll.holdover = false) :
    ∃ t, step s = .next t ∧ t.up = s.up + 1 ∧ t = { s with up := t.up, mck := t.mck, bias := t.bias } := by
  have htick : tick s = ownClock s := (if_neg (by simp [hlock])).trans (if_neg (by simp [hhold]))
  exact ⟨ownClock s, by rw [step_tick hpend, htick], rfl, rfl⟩

theorem idle_mck (hpend : s.pending = []) : ∃ t, step s = .next t ∧ (isSet s 1 CLK.PLL_STAT_BACKUP = false → t.mck = s.mck + 10)
    ∧ (isSet s 1 CLK.PLL_STAT_BACKUP = true → t.mck = s.mck + 1) := by
  obtain ⟨-, hmck, -⟩ := tick_counts (s := s)
  refine ⟨tick s, step_tick hpend, fun h => ?_, fun h => ?_⟩
  · rw [hmck, mckStep, if_neg (by simp [h])]
  · rw [hmck, mckStep, if_pos h]

/-- What an fc changes in which nothing but tiles, converters and pattern pins has work: their parts, the pins and the clocks. -/
structure FcShown (s t : State) : Prop where
  typed : t = { s with time := t.time, up := t.up, mck := t.mck, bias := t.bias, pat := t.pat, regs := t.regs, errs := t.errs, msix := t.msix,
                       tiles := t.tiles, rdos := t.rdos, flux := t.flux, lines := t.lines, lastBytes := t.lastBytes, lastAbort := t.lastAbort }
  word : ∀ a, ¬ playReg a → rdWord t a = rdWord s a
  tile : ∀ b, tileShown (tileOf s b) (tileOf t b)
  rdo : ∀ b, rdoShown (rdoOf s b) (rdoOf t b)
  flux : ∀ b k, fluxShown (fluxOf s b k) (fluxOf t b k)
  pat : t.pat = patDriven (fcPlayed s)
  still : (∀ b < 32, tilePlays s b = false) → (∀ b ∈ usedTiles s, isRdo b = false) →
    t = { s with time := t.time, up := t.up, mck := t.mck, bias := t.bias, pat := t.pat }

/-- A change of TIME and the pattern port is one of the clocks too. -/
theorem still_clocks {v : State} (h : v = { s with time := v.time, pat := v.pat }) :
    v = { s with time := v.time, up := v.up, mck := v.mck, bias := v.bias, pat := v.pat } := by
  rw [h]

theorem shown_clocks {v : State} (h : v = { s with time := v.time, pat := v.pat, regs := v.regs, errs := v.errs, msix := v.msix, tiles := v.tiles,
                                                   rdos := v.rdos, flux := v.flux, lines := v.lines, lastBytes := v.lastBytes,
                                                   lastAbort := v.lastAbort }) :
    v = { s with time := v.time, up := v.up, mck := v.mck, bias := v.bias, pat := v.pat, regs := v.regs, errs := v.errs, msix := v.msix,
                 tiles := v.tiles, rdos := v.rdos, flux := v.flux, lines := v.lines, lastBytes := v.lastBytes, lastAbort := v.lastAbort } := by
  rw [h]

theorem fcOver_shown : FcShown s (fcOver s) :=
  ⟨shown_clocks fcOver_eq, fun _ ha => fcOver_word ha, fcOver_tile, fcOver_rdo, fcOver_flux, fcOver_pat,
    fun hplay hrdo => still_clocks (fcOver_idle hplay hrdo)⟩

theorem FcShown.ownClock {v : State} (h : FcShown s v) : FcShown s (ownClock v) := by
  obtain ⟨htyped, hword, htile, hrdo, hflux, hpat, hstill⟩ := h
  refine ⟨?_, hword, htile, hrdo, hflux, hpat, fun hplay hr => ?_⟩
  · rw [ownClock_eq]
    generalize (Machine.ownClock v).up = x, (Machine.ownClock v).mck = y, (Machine.ownClock v).bias = z
    rw [htyped]
  · have hv := hstill hplay hr
    rw [ownClock_eq]
    generalize (Machine.ownClock v).up = x, (Machine.ownClock v).mck = y, (Machine.ownClock v).bias = z
    rw [hv]

namespace FcShown

theorem typedSame (h : FcShown s t) : typedSame { s with time := t.time, up := t.up, mck := t.mck, bias := t.bias, pat := t.pat, tiles := t.tiles,
                                                         rdos := t.rdos, flux := t.flux, lines := t.lines, lastBytes := t.lastBytes,
                                                         lastAbort := t.lastAbort } t := by
  have ht := h.typed
  unfold Machine.typedSame
  rw [ht]

theorem held (h : FcShown s t) : t.held = s.held := by
  have ht := h.typed
  rw [ht]

theorem fatal (h : FcShown s t) : t.fatal = s.fatal := by
  have ht := h.typed
  rw [ht]

/-- The last of the codes at the pins are those of the fc. -/
theorem pins (h : FcShown s t) : t.pat.pins.getLast? = some (2000 * (fcNow s).toNat + 125 * getB s 1 CLK.SKEW_TRIM_TRIM, t.pat.drv) := by
  rw [h.pat, ← pinTime_fcPlayed]
  exact pinsDriven_last

/-- The pattern port but for its vectors to come and its pins. -/
theorem outs (h : FcShown s t) : ∃ vs d ps, t.pat = { s.pat with outs := vs, drv := d, pins := ps } := by
  refine ⟨outsLeft (fcPlayed s), drvNow (fcPlayed s), pinsDriven (fcPlayed s), h.pat.trans ?_⟩
  rw [patDriven, pat_fcPlayed]

end FcShown

/-- A quiet fc with lock or in a holdover. -/
theorem idle_shown (hpend : s.pending = []) (h : isSet s 1 CLK.PLL_STAT_LOCK = true ∨ s.pll.holdover = true) (hq : lanesQuiet s = true) :
    ∃ t, step s = .next t ∧ FcShown s t := ⟨_, idleFc hpend h hq, fcOver_shown.ownClock⟩

/-- Settles O2. -/
theorem idleStepIsOneCycle : Obligations.IdleStepIsOneCycle := by
  intro s hpend
  refine ⟨fun hlock hhold => idle_stopped hpend hlock hhold, fun _ => ⟨tick s, step_tick hpend, tick_counts.2.2, tick_counts.1⟩,
    idle_mck hpend, fun h hq => ?_⟩
  obtain ⟨t, hstep, ht⟩ := idle_shown hpend h hq
  have hdrv : t.pat.drv = drvNow (fcPlayed s) := congrArg Pat.drv ht.pat
  refine ⟨t, hstep, ht.typedSame, ht.held, ht.fatal, fun b => ⟨_, _, _, _, _, _, _, ht.tile b⟩, fun b => ⟨_, ht.rdo b⟩,
    fun b k => ⟨_, _, ht.flux b k⟩, ht.outs, ht.pins, fun a ha => ?_, ht.still, fun n hn hf v hv => ?_, fun n hn hidle => ?_⟩
  · exact by_contra fun hreg => ha (ht.word a hreg)
  · rw [hdrv]
    exact drv_vector hn hf hv
  · rw [hdrv]
    exact drv_idle hn hidle

end Sys2Proof.Machine
end
